-- ==== Sys2Proof/Word.lean ====
section
/-! DEFINITION. The word types of the machine (00 R1, R3; 09 R198): a general register or CSR, a lane, a byte. -/

namespace Sys2Proof

/-- A general register, an address, a CSR or an instruction word: 64 bits (R198, R292). -/
abbrev Word := BitVec 64

/-- One lane of a vector register: 32 bits read as FP32, INT32 or UINT32 (R198). -/
abbrev Lane := BitVec 32

/-- One byte of memory (R3). -/
abbrev Byte := BitVec 8

end Sys2Proof
end

