-- ==== Sys2Proof/Syntax.lean ====
section
/-! DEFINITION. The abstract syntax: what an instruction word says (13 R292-R303) and what each event of the
opcode table carries, one constructor of Instr per row of spec/opcode_table.json. An instruction's operand is the
record of its format's fields; which fields it uses, and the values they may hold, is WellFormed.lean's part. -/

namespace Sys2Proof

/-- Guard and register fields of format S, scalar integer, scalar memory and atomics (R296).
gn, gs are the guard fields of R294; imm is imm32. -/
structure SFmt where
  gn : Bool
  gs : BitVec 3
  d : BitVec 5
  a : BitVec 5
  b : BitVec 5
  scope : BitVec 3
  ord : BitVec 2
  imm : BitVec 32
  deriving DecidableEq, Repr

/-- Format B, control (R297). -/
structure BFmt where
  gn : Bool
  gs : BitVec 3
  a : BitVec 5
  b : BitVec 5
  aux : BitVec 8
  hint : BitVec 2
  off : BitVec 32
  deriving DecidableEq, Repr

/-- Format V, vector (R298). -/
structure VFmt where
  gn : Bool
  gs : BitVec 3
  vd : BitVec 5
  va : BitVec 5
  vb : BitVec 5
  vc : BitVec 5
  typ : BitVec 4
  prec : BitVec 4
  rnd : BitVec 2
  sat : Bool
  pm : Bool
  mkf : BitVec 3
  sa : Bool
  aux : BitVec 3
  imm : BitVec 13
  deriving DecidableEq, Repr

/-- Format M, matrix (R299). low is the field called zero. -/
structure MFmt where
  gn : Bool
  gs : BitVec 3
  acc : BitVec 2
  sa : BitVec 5
  sb : BitVec 5
  qa : Bool
  qb : Bool
  dirA : Bool
  dirB : Bool
  fmtA : BitVec 4
  fmtB : BitVec 4
  sp : BitVec 2
  kc : BitVec 7
  rows : BitVec 7
  low : BitVec 12
  deriving DecidableEq, Repr

/-- Format C, ports, copies, coaches, shards, system (R300). imm is imm32. -/
structure CFmt where
  gn : Bool
  gs : BitVec 3
  d : BitVec 5
  a : BitVec 5
  b : BitVec 5
  c : BitVec 5
  imm : BitVec 32
  deriving DecidableEq, Repr

/-- Who issues an instruction: context c of a compute tile, or a supervisor core (R136). -/
inductive Agent where
  | ctx (die tile c : Nat)
  | core (n : Nat)
  deriving DecidableEq, Repr

/-- The requesting units of REG.FINFO (R127): context access, instruction fetch, APE stream, copy channel,
depot address generator. -/
inductive UnitKind where
  | access | fetch | ape | channel | generator
  deriving DecidableEq, Repr

/-- A die. -/
structure DieRef where
  die : Nat
  deriving DecidableEq, Repr

/-- A die and an index in it: a slot, walker, queue, timetable entry or stream context. -/
structure DieIdx where
  die : Nat
  i : Nat
  deriving DecidableEq, Repr

/-- A depot tile number of a die and a generator. -/
structure DieIdx2 where
  die : Nat
  depot : Nat
  gen : Nat
  deriving DecidableEq, Repr

/-- A compute tile by its tile index (R7). -/
structure TileRef where
  die : Nat
  tile : Nat
  deriving DecidableEq, Repr

/-- A compute tile and one of its contexts, APEs or channels. -/
structure TileIdx where
  die : Nat
  tile : Nat
  i : Nat
  deriving DecidableEq, Repr

/-- A number: a port, a QP, a memory region, a coach in transit or a junction. -/
structure IdxRef where
  i : Nat
  deriving DecidableEq, Repr

/-- A junction (16 x die + number) or the gateway (64), and an id there. -/
structure JuncIdx where
  j : Nat
  i : Nat
  deriving DecidableEq, Repr

/-- A direction of the pod loop: downstream or upstream (R34). -/
structure DirRef where
  down : Bool
  deriving DecidableEq, Repr

/-- A unit that withholds (R123): for a generator, tile is the depot tile number. -/
structure UnitRef where
  kind : UnitKind
  die : Nat
  tile : Nat
  i : Nat
  deriving DecidableEq, Repr

/-- An agent. -/
structure AgentRef where
  a : Agent
  deriving DecidableEq, Repr

/-- A value written to a register. -/
structure ValRef where
  v : Word
  deriving DecidableEq, Repr

/-- A value written to a die's register. -/
structure DieVal where
  die : Nat
  v : Word
  deriving DecidableEq, Repr

/-- A value written to a region slot's register. -/
structure SlotVal where
  die : Nat
  slot : Nat
  v : Word
  deriving DecidableEq, Repr

/-- A value written to a compute tile's register. -/
structure TileVal where
  die : Nat
  tile : Nat
  v : Word
  deriving DecidableEq, Repr

/-- A value written to a supervisor core's register. -/
structure CoreVal where
  core : Nat
  v : Word
  deriving DecidableEq, Repr

/-- A register write by supervisor firmware: the CSR number, and where the register lies (die; tile or slot). -/
structure RegWr where
  csr : Nat
  die : Nat
  loc : Nat
  v : Word
  deriving DecidableEq, Repr

/-- The running firmware as the root of trust leaves it to the supervisor cores (R49, step 2; entry 5): the root of its
address space, its trap vector, where each core starts, and the doublewords of HBM that hold it. -/
structure FwIn where
  root : Word
  tvec : Word
  entry : Word
  cells : List (Nat × Word)
  deriving DecidableEq, Repr

/-- What a start meets outside the machine (R49-R52, R456): whether the fuses load, a stack whose training fails,
a die whose repair fails, ports whose link stays down; hold stops the start inside step 4 (the march test of
chapter 24 then runs), and cont continues it there, with the result blocks of R455 at HBM address resBase; fw is the
firmware, none where its work comes as events from outside. -/
structure StartIn where
  fuseOk : Bool
  hbmFail : Option Nat
  repairFail : Option Nat
  portsDown : List Nat
  hold : Bool
  cont : Bool
  resBase : Option Nat
  fw : Option FwIn
  deriving DecidableEq, Repr

/-- A request for a warm start: the value written to SYS.BOOTCTL, or the temperatures after a thermal stop. -/
structure WarmIn where
  v : Word
  tj : List Nat
  start : StartIn
  deriving DecidableEq, Repr

/-- A recovery frame (R56): the host port, the image offset and the image data. -/
structure ImageIn where
  port : Nat
  offset : Word
  data : List Byte
  deriving DecidableEq, Repr

/-- The last recovery frame (R56) and what the cold start after it meets. -/
structure RecEndIn where
  port : Nat
  start : StartIn
  deriving DecidableEq, Repr

/-- The nonce of an attestation request (R57). -/
structure NonceIn where
  nonce : List Byte
  deriving DecidableEq, Repr

/-- One 1 us sample of the power controller (R20): module power in mW, junction temperature per die in degrees C. -/
structure PowerIn where
  mw : Nat
  tj : List Int
  deriving DecidableEq, Repr

/-- A connection request on QP1 (R27, R29): the port and QP, the path MTU, the RNR timer, the DSCP, and the first packet
sequence numbers of the host and of the module. -/
structure CmIn where
  port : Nat
  qp : Nat
  mtu : Nat
  timer : Nat
  dscp : Nat
  psn : Nat := 0
  spsn : Nat := 0
  deriving DecidableEq, Repr

/-- What a host's message has beside its operands: the QP, the ECN mark of R33, the bytes of its longest frame (R25), the
sequence number of its first packet (R33), and the host port at which it came where its QP is not connected. -/
structure PktIn where
  qp : Nat
  ce : Bool
  frame : Nat := 0
  psn : Nat := 0
  port : Nat := 0
  deriving DecidableEq, Repr

/-- A host SEND or WRITE (R28): imm is the immediate of a WRITE with immediate. -/
structure HostWr where
  qp : Nat
  ce : Bool
  rkey : BitVec 32
  va : Word
  imm : BitVec 32
  data : List Byte
  frame : Nat := 0
  psn : Nat := 0
  port : Nat := 0
  deriving DecidableEq, Repr

/-- A host READ (R28): ahead counts the READ and atomic requests of its QP that are outstanding before it (R29). -/
structure HostRd where
  qp : Nat
  ce : Bool
  rkey : BitVec 32
  va : Word
  len : Nat
  frame : Nat := 0
  psn : Nat := 0
  ahead : Nat := 0
  port : Nat := 0
  deriving DecidableEq, Repr

/-- A host atomic (R28, R32): x is the addend or the compare value, y the swap value. -/
structure HostAt where
  qp : Nat
  ce : Bool
  rkey : BitVec 32
  va : Word
  x : Word
  y : Word
  frame : Nat := 0
  psn : Nat := 0
  ahead : Nat := 0
  port : Nat := 0
  deriving DecidableEq, Repr

/-- A request that the firmware posts on a QP (R27). -/
inductive PostOp where
  | send | write | writeImm | read | fetchAdd | cmpSwap
  deriving DecidableEq, Repr

/-- A posted request: the host's rkey and address, the immediate, the operands of an atomic, and the n bytes at loc in the firmware's
address space that it sends or that its answer fills. -/
structure PostIn where
  op : PostOp
  rkey : BitVec 32
  va : Word
  imm : BitVec 32
  x : Word
  y : Word
  loc : Word
  n : Nat
  deriving DecidableEq, Repr

/-- What a host answers to a posted request, by a packet sequence number: an acknowledgement, a sequence error, a fatal NAK, or the
data of a READ or atomic. -/
inductive PostReply where
  | ack | again | nak | data (bs : List Byte)
  deriving DecidableEq, Repr

/-- What the supervisor firmware does at the host ports (R27-R33; entry 5): it posts a receive buffer, sets or clears a memory
region, enables a lossless priority, sets a GID or the DCQCN parameters, posts a request, resends what is not acknowledged, or
receives an answer: with its ECN mark and the bytes of its longest frame (R25, R33); a port's peer stops or frees a priority (R33). -/
inductive FwNet where
  | recv (qp : Nat) (va : Word) (n : Nat)
  | region (i key : Nat) (base : Word) (len : Nat) (root : Word) (rd wr at_ : Bool)
  | noRegion (i : Nat)
  | pfc (port : Nat) (prio : Option Nat)
  | gid (port i : Nat) (v : BitVec 128)
  | dcqcn (qp : Nat) (params : List Nat)
  | post (qp : Nat) (p : PostIn)
  | resend (qp : Nat)
  | reply (qp psn : Nat) (r : PostReply) (ce : Bool) (frame : Nat)
  | pause (port prio : Nat) (on : Bool)
  deriving DecidableEq, Repr

/-- A loop frame on loop port L(port) (R35, R36): its destination and source MAC, whether its FCS holds, its EtherType, the two
header words and the flits, 64 bytes each. -/
structure FrameIn where
  dst : BitVec 48 := 0
  src : BitVec 48 := 0
  port : Nat
  fcsOk : Bool
  etype : BitVec 16
  w0 : Word
  w1 : Word
  flits : List (List Byte)
  deriving DecidableEq, Repr

/-- What a remote access does at module M (R40). -/
inductive RemoteOp where
  | read | write | add | and | or | xor | min | max | minu | maxu | swap | cas | flush | inval | ref (dec : Bool) | pin (on : Bool)
  deriving DecidableEq, Repr

/-- A path-0x3 request or its reply on the pod loop (R40, R41): reply tells which; src and dst are modules; id
numbers the request at src; down is the travel direction and turned whether it has turned once; va and n the
remote range; x and y operands; ok, data and pois the reply's outcome, pois the offset of the lowest poisoned byte. -/
structure RemoteReq where
  reply : Bool
  src : Nat
  dst : Nat
  id : Nat
  down : Bool
  turned : Bool
  op : RemoteOp
  va : Nat
  n : Nat
  x : Word
  y : Word
  ok : Bool
  data : List Byte
  pois : Option Nat
  deriving DecidableEq, Repr

/-- A Sync message with its Follow_Up as port 0-11 received it (R43, R48): its domain, its transport (0 L2, 1 UDP over IPv4, 2 UDP
over IPv6), whether the master works in two steps, and in ns the time the master sent it, the port's receive timestamp, and the
port's transmit timestamp and the master's receive time of the last delay request. -/
structure PtpIn where
  port : Nat
  domain : Nat
  transport : Nat
  twoStep : Bool
  t1 : Int
  t2 : Int
  t3 : Int
  t4 : Int
  deriving DecidableEq, Repr

/-- An ECC error at a physical byte (R15, R288), numbered as the memory numbers it; fixed where ECC corrected it. With coach set it
is an uncorrectable error of a flit of the coach of that number in transit: flit 0 is its header (R290). With stuck set, a bit of that
byte of scratch, or of a vector register, has become stuck at a value (R458, R459). -/
structure EccIn where
  key : Nat
  fixed : Bool
  coach : Option (Nat × Nat) := none
  stuck : Option (Nat × Bool) := none
  deriving DecidableEq, Repr

/-- Loss of module power (R56, R59): whether a flash bank was being written. -/
structure LossIn where
  flashWrite : Bool
  deriving DecidableEq, Repr

/-- What an event is about: its operands, held in State beside it (State.arg), one constructor per record above.
An event of Instr carries none itself: Lean's compiler gives at most 244 constructors fields. -/
inductive Arg where
  | startIn (o : StartIn)
  | warmIn (o : WarmIn)
  | imageIn (o : ImageIn)
  | recEndIn (o : RecEndIn)
  | nonceIn (o : NonceIn)
  | valRef (o : ValRef)
  | noRef
  | idxRef (o : IdxRef)
  | powerIn (o : PowerIn)
  | cmIn (o : CmIn)
  | hostWr (o : HostWr)
  | hostRd (o : HostRd)
  | hostAt (o : HostAt)
  | frameIn (o : FrameIn)
  | dirRef (o : DirRef)
  | remoteReq (o : RemoteReq)
  | ptpIn (o : PtpIn)
  | dieVal (o : DieVal)
  | dieIdx (o : DieIdx)
  | dieRef (o : DieRef)
  | tileRef (o : TileRef)
  | unitRef (o : UnitRef)
  | slotVal (o : SlotVal)
  | juncIdx (o : JuncIdx)
  | tileIdx (o : TileIdx)
  | dieIdx2 (o : DieIdx2)
  | agentRef (o : AgentRef)
  | eccIn (o : EccIn)
  | tileVal (o : TileVal)
  | coreVal (o : CoreVal)
  | regWr (o : RegWr)
  | lossIn (o : LossIn)
  | pktIn (o : PktIn)
  | fwNet (o : FwNet)
  deriving DecidableEq, Repr

/-- One constructor per row of spec/opcode_table.json: the instructions with their format's fields, then the
module's events, whose operands stand in State.arg. -/
inductive Instr where
  /-- NOP (R292). -/
  | nop (o : SFmt)
  /-- ADD (R313). -/
  | add (o : SFmt)
  /-- SUB (R313). -/
  | sub (o : SFmt)
  /-- ADDI (R315). -/
  | addi (o : SFmt)
  /-- MUL (R313). -/
  | mul (o : SFmt)
  /-- MULH (R313). -/
  | mulh (o : SFmt)
  /-- MULHU (R313). -/
  | mulhu (o : SFmt)
  /-- DIV (R313). -/
  | div (o : SFmt)
  /-- DIVU (R313). -/
  | divu (o : SFmt)
  /-- REM (R313). -/
  | rem (o : SFmt)
  /-- REMU (R313). -/
  | remu (o : SFmt)
  /-- AND (R313). -/
  | and (o : SFmt)
  /-- OR (R313). -/
  | or (o : SFmt)
  /-- XOR (R313). -/
  | xor (o : SFmt)
  /-- ANDN (R313). -/
  | andn (o : SFmt)
  /-- ANDI (R315). -/
  | andi (o : SFmt)
  /-- ORI (R315). -/
  | ori (o : SFmt)
  /-- XORI (R315). -/
  | xori (o : SFmt)
  /-- SHL (R314). -/
  | shl (o : SFmt)
  /-- SHR (R314). -/
  | shr (o : SFmt)
  /-- SRA (R314). -/
  | sra (o : SFmt)
  /-- SHLI (R315). -/
  | shli (o : SFmt)
  /-- SHRI (R315). -/
  | shri (o : SFmt)
  /-- SRAI (R315). -/
  | srai (o : SFmt)
  /-- ROTL (R314). -/
  | rotl (o : SFmt)
  /-- CLZ (R316). -/
  | clz (o : SFmt)
  /-- CTZ (R316). -/
  | ctz (o : SFmt)
  /-- POPC (R316). -/
  | popc (o : SFmt)
  /-- MIN (R313). -/
  | min (o : SFmt)
  /-- MAX (R313). -/
  | max (o : SFmt)
  /-- MINU (R313). -/
  | minu (o : SFmt)
  /-- MAXU (R313). -/
  | maxu (o : SFmt)
  /-- SLT (R313). -/
  | slt (o : SFmt)
  /-- SLTU (R313). -/
  | sltu (o : SFmt)
  /-- SEQ (R313). -/
  | seq (o : SFmt)
  /-- SLTI (R315). -/
  | slti (o : SFmt)
  /-- SEL (R317). -/
  | sel (o : SFmt)
  /-- MOVI (R317). -/
  | movi (o : SFmt)
  /-- LIH (R317). -/
  | lih (o : SFmt)
  /-- EXTU (R318). -/
  | extu (o : SFmt)
  /-- EXTS (R318). -/
  | exts (o : SFmt)
  /-- INS (R318). -/
  | ins (o : SFmt)
  /-- BREV (R316). -/
  | brev (o : SFmt)
  /-- BSWAP (R316). -/
  | bswap (o : SFmt)
  /-- BR (R321). -/
  | br (o : BFmt)
  /-- BEQ (R321). -/
  | beq (o : BFmt)
  /-- BNE (R321). -/
  | bne (o : BFmt)
  /-- BLT (R321). -/
  | blt (o : BFmt)
  /-- BGE (R321). -/
  | bge (o : BFmt)
  /-- BLTU (R321). -/
  | bltu (o : BFmt)
  /-- BGEU (R321). -/
  | bgeu (o : BFmt)
  /-- BPT (R322). -/
  | bpt (o : BFmt)
  /-- BMK (R322). -/
  | bmk (o : BFmt)
  /-- JAL (R323). -/
  | jal (o : BFmt)
  /-- JALR (R323). -/
  | jalr (o : BFmt)
  /-- LOOP (R324). -/
  | loop (o : BFmt)
  /-- PSET (R325). -/
  | pset (o : BFmt)
  /-- PSET_R (R325). -/
  | psetR (o : BFmt)
  /-- PSET_NZ (R325). -/
  | psetNz (o : BFmt)
  /-- RET (R327). -/
  | ret (o : BFmt)
  /-- YIELD (R328). -/
  | yield (o : BFmt)
  /-- WAITP (R329). -/
  | waitp (o : BFmt)
  /-- LDB (R335). -/
  | ldb (o : SFmt)
  /-- LDBU (R335). -/
  | ldbu (o : SFmt)
  /-- LDH (R335). -/
  | ldh (o : SFmt)
  /-- LDHU (R335). -/
  | ldhu (o : SFmt)
  /-- LDW (R335). -/
  | ldw (o : SFmt)
  /-- LDWU (R335). -/
  | ldwu (o : SFmt)
  /-- LDD (R335). -/
  | ldd (o : SFmt)
  /-- STB (R335). -/
  | stb (o : SFmt)
  /-- STH (R335). -/
  | sth (o : SFmt)
  /-- STW (R335). -/
  | stw (o : SFmt)
  /-- STD (R335). -/
  | std (o : SFmt)
  /-- LDQ (R336). -/
  | ldq (o : SFmt)
  /-- STQ (R336). -/
  | stq (o : SFmt)
  /-- PREF (R337). -/
  | pref (o : SFmt)
  /-- CFLUSH (R338). -/
  | cflush (o : SFmt)
  /-- CINV (R339). -/
  | cinv (o : SFmt)
  /-- AADD (R340). -/
  | aadd (o : SFmt)
  /-- AAND (R340). -/
  | aand (o : SFmt)
  /-- AOR (R340). -/
  | aor (o : SFmt)
  /-- AXOR (R340). -/
  | axor (o : SFmt)
  /-- AMIN (R340). -/
  | amin (o : SFmt)
  /-- AMAX (R340). -/
  | amax (o : SFmt)
  /-- AMINU (R340). -/
  | aminu (o : SFmt)
  /-- AMAXU (R340). -/
  | amaxu (o : SFmt)
  /-- ASWAP (R340). -/
  | aswap (o : SFmt)
  /-- ACAS (R341). -/
  | acas (o : SFmt)
  /-- LDAQ (R343). -/
  | ldaq (o : SFmt)
  /-- STREL (R343). -/
  | strel (o : SFmt)
  /-- FENCE (R344). -/
  | fence (o : SFmt)
  /-- SBAR (R345). -/
  | sbar (o : SFmt)
  /-- SGPOST (R346). -/
  | sgpost (o : SFmt)
  /-- SGWAIT (R347). -/
  | sgwait (o : SFmt)
  /-- VADD (R353). -/
  | vadd (o : VFmt)
  /-- VSUB (R353). -/
  | vsub (o : VFmt)
  /-- VMUL (R353). -/
  | vmul (o : VFmt)
  /-- VFMA (R353). -/
  | vfma (o : VFmt)
  /-- VFMS (R353). -/
  | vfms (o : VFmt)
  /-- VNFMA (R353). -/
  | vnfma (o : VFmt)
  /-- VABS (R353). -/
  | vabs (o : VFmt)
  /-- VNEG (R353). -/
  | vneg (o : VFmt)
  /-- VMAX (R353). -/
  | vmax (o : VFmt)
  /-- VMIN (R353). -/
  | vmin (o : VFmt)
  /-- VDIV (R353). -/
  | vdiv (o : VFmt)
  /-- VRCP (R249). -/
  | vrcp (o : VFmt)
  /-- VSQRT (R353). -/
  | vsqrt (o : VFmt)
  /-- VRSQ (R250). -/
  | vrsq (o : VFmt)
  /-- VEXP2 (R251). -/
  | vexp2 (o : VFmt)
  /-- VLOG2 (R252). -/
  | vlog2 (o : VFmt)
  /-- VSCALE (R353). -/
  | vscale (o : VFmt)
  /-- VCMP (R355). -/
  | vcmp (o : VFmt)
  /-- VCMPT (R356). -/
  | vcmpt (o : VFmt)
  /-- VCUT (R357). -/
  | vcut (o : VFmt)
  /-- VSETTLE (R358). -/
  | vsettle (o : VFmt)
  /-- VCVT (R359). -/
  | vcvt (o : VFmt)
  /-- VQNT (R360). -/
  | vqnt (o : VFmt)
  /-- VDQ (R361). -/
  | vdq (o : VFmt)
  /-- VSEL (R362). -/
  | vsel (o : VFmt)
  /-- VIADD (R363). -/
  | viadd (o : VFmt)
  /-- VISUB (R363). -/
  | visub (o : VFmt)
  /-- VIMUL (R363). -/
  | vimul (o : VFmt)
  /-- VIMIN (R363). -/
  | vimin (o : VFmt)
  /-- VIMAX (R363). -/
  | vimax (o : VFmt)
  /-- VAND (R363). -/
  | vand (o : VFmt)
  /-- VOR (R363). -/
  | vor (o : VFmt)
  /-- VXOR (R363). -/
  | vxor (o : VFmt)
  /-- VSHL (R364). -/
  | vshl (o : VFmt)
  /-- VSHR (R364). -/
  | vshr (o : VFmt)
  /-- VSRA (R364). -/
  | vsra (o : VFmt)
  /-- VMOV (R365). -/
  | vmov (o : VFmt)
  /-- VBCAST (R365). -/
  | vbcast (o : VFmt)
  /-- VEXT (R365). -/
  | vext (o : VFmt)
  /-- VINS (R365). -/
  | vins (o : VFmt)
  /-- VPERM (R365). -/
  | vperm (o : VFmt)
  /-- VROT (R365). -/
  | vrot (o : VFmt)
  /-- VIOTA (R365). -/
  | viota (o : VFmt)
  /-- VRSUM (R366). -/
  | vrsum (o : VFmt)
  /-- VRMAX (R366). -/
  | vrmax (o : VFmt)
  /-- VRARG (R367). -/
  | vrarg (o : VFmt)
  /-- VTOPK (R368). -/
  | vtopk (o : VFmt)
  /-- VSCAN (R366). -/
  | vscan (o : VFmt)
  /-- MAND (R369). -/
  | mand (o : VFmt)
  /-- MOR (R369). -/
  | mor (o : VFmt)
  /-- MXOR (R369). -/
  | mxor (o : VFmt)
  /-- MNOT (R369). -/
  | mnot (o : VFmt)
  /-- MPOP (R369). -/
  | mpop (o : VFmt)
  /-- MFIRST (R369). -/
  | mfirst (o : VFmt)
  /-- MSET (R369). -/
  | mset (o : VFmt)
  /-- VLD (R370). -/
  | vld (o : VFmt)
  /-- VST (R372). -/
  | vst (o : VFmt)
  /-- VLDS (R370). -/
  | vlds (o : VFmt)
  /-- VSTS (R370). -/
  | vsts (o : VFmt)
  /-- VGTH (R370). -/
  | vgth (o : VFmt)
  /-- VSCT (R372). -/
  | vsct (o : VFmt)
  /-- VRNG (R373). -/
  | vrng (o : VFmt)
  /-- MZERO (R383). -/
  | mzero (o : MFmt)
  /-- MMA (R382). -/
  | mma (o : MFmt)
  /-- MMAS (R382). -/
  | mmas (o : MFmt)
  /-- MRD (R384). -/
  | mrd (o : MFmt)
  /-- MRDQ (R385). -/
  | mrdq (o : MFmt)
  /-- MLDA (R386). -/
  | mlda (o : MFmt)
  /-- MSCL (R387). -/
  | mscl (o : MFmt)
  /-- MWAIT (R388). -/
  | mwait (o : MFmt)
  /-- APCFG_M (R392). -/
  | apcfgM (o : CFmt)
  /-- APCFG_R (R392). -/
  | apcfgR (o : CFmt)
  /-- APCFG_PRE (R392). -/
  | apcfgPre (o : CFmt)
  /-- APDIM (R393). -/
  | apdim (o : CFmt)
  /-- APSTART (R393). -/
  | apstart (o : CFmt)
  /-- APSTOP (R393). -/
  | apstop (o : CFmt)
  /-- APPOS (R393). -/
  | appos (o : CFmt)
  /-- APSEEK (R393). -/
  | apseek (o : CFmt)
  /-- QBIND (R395). -/
  | qbind (o : CFmt)
  /-- QBIND_K (R395). -/
  | qbindK (o : CFmt)
  /-- QBIND_U (R395). -/
  | qbindU (o : CFmt)
  /-- QSTAT (R396). -/
  | qstat (o : CFmt)
  /-- CECPY (R398). -/
  | cecpy (o : CFmt)
  /-- CE2D (R399). -/
  | ce2d (o : CFmt)
  /-- CEFILL (R400). -/
  | cefill (o : CFmt)
  /-- CEPG (R401). -/
  | cepg (o : CFmt)
  /-- CESTAT (R402). -/
  | cestat (o : CFmt)
  /-- CEABT (R403). -/
  | ceabt (o : CFmt)
  /-- KNEW (R409). -/
  | knew (o : CFmt)
  /-- KNEW_C (R409). -/
  | knewC (o : CFmt)
  /-- KSEND (R411). -/
  | ksend (o : CFmt)
  /-- KFWD (R411). -/
  | kfwd (o : CFmt)
  /-- KHDR (R410). -/
  | khdr (o : CFmt)
  /-- KSET (R410). -/
  | kset (o : CFmt)
  /-- KDROP (R412). -/
  | kdrop (o : CFmt)
  /-- KMRG (R413). -/
  | kmrg (o : CFmt)
  /-- KSPLIT (R411). -/
  | ksplit (o : CFmt)
  /-- SHLK (R415). -/
  | shlk (o : CFmt)
  /-- SHREF_INC (R416). -/
  | shrefInc (o : CFmt)
  /-- SHREF_DEC (R416). -/
  | shrefDec (o : CFmt)
  /-- SHPIN (R416). -/
  | shpin (o : CFmt)
  /-- SHCPY (R417). -/
  | shcpy (o : CFmt)
  /-- KVAPP (R418). -/
  | kvapp (o : CFmt)
  /-- KVCMT (R419). -/
  | kvcmt (o : CFmt)
  /-- KVREJ (R420). -/
  | kvrej (o : CFmt)
  /-- SCTCH (R421). -/
  | sctch (o : CFmt)
  /-- SCLD (R421). -/
  | scld (o : CFmt)
  /-- SCEV (R421). -/
  | scev (o : CFmt)
  /-- SCQRY (R421). -/
  | scqry (o : CFmt)
  /-- SPACC (R422). -/
  | spacc (o : CFmt)
  /-- SPRES (R423). -/
  | spres (o : CFmt)
  /-- TRPUB (R424). -/
  | trpub (o : CFmt)
  /-- LAUNCH (R425). -/
  | launch (o : CFmt)
  /-- TRAP (R427). -/
  | trap (o : CFmt)
  /-- ERET (R281). -/
  | eret (o : CFmt)
  /-- CSRR (R428). -/
  | csrr (o : CFmt)
  /-- CSRW (R428). -/
  | csrw (o : CFmt)
  /-- CSRS (R428). -/
  | csrs (o : CFmt)
  /-- CSRC (R428). -/
  | csrc (o : CFmt)
  /-- TIME (R429). -/
  | time (o : CFmt)
  /-- WAITT (R429). -/
  | waitt (o : CFmt)
  /-- BAR (R430). -/
  | bar (o : CFmt)
  /-- CTXSV (R431). -/
  | ctxsv (o : CFmt)
  /-- CTXLD (R431). -/
  | ctxld (o : CFmt)
  /-- TLBI_ALL (R432). -/
  | tlbiAll (o : CFmt)
  /-- TLBI_ASID (R432). -/
  | tlbiAsid (o : CFmt)
  /-- TLBI_VA (R432). -/
  | tlbiVa (o : CFmt)
  /-- TLBI_VALL (R432). -/
  | tlbiVall (o : CFmt)
  /-- CFGLD (R433). -/
  | cfgld (o : CFmt)
  /-- TRGLD (R433). -/
  | trgld (o : CFmt)
  /-- BKPT (R427). -/
  | bkpt (o : CFmt)
  /-- HALT (R434). -/
  | halt (o : CFmt)
  /-- COLD_START (R49). -/
  | coldStart
  /-- WARM_START (R53). -/
  | warmStart
  /-- THERMAL_STOP_END (R22). -/
  | thermalStopEnd
  /-- RECOVERY_FRAME (R56). -/
  | recoveryFrame
  /-- RECOVERY_END (R56). -/
  | recoveryEnd
  /-- ATTESTATION_REQUEST (R57). -/
  | attestationRequest
  /-- FUSE_SVN_RAISE (R55). -/
  | fuseSvnRaise
  /-- LIFETIME_RECORD_WRITE (R59). -/
  | lifetimeRecordWrite
  /-- RECORD_COPY_REQUEST (R60). -/
  | recordCopyRequest
  /-- POWER_SAMPLE (R20). -/
  | powerSample
  /-- LINK_DOWN (R26). -/
  | linkDown
  /-- CM_REQUEST (R27). -/
  | cmRequest
  /-- HOST_SEND (R28). -/
  | hostSend
  /-- HOST_WRITE (R28). -/
  | hostWrite
  /-- HOST_WRITE_IMM (R28). -/
  | hostWriteImm
  /-- HOST_READ (R28). -/
  | hostRead
  /-- FETCH_ADD (R32). -/
  | fetchAdd
  /-- CMP_SWAP (R32). -/
  | cmpSwap
  /-- HOST_INVALID_OPCODE (R28). -/
  | hostInvalidOpcode
  /-- CNP_RECEIVED (R33). -/
  | cnpReceived
  /-- LOOP_DATA_FRAME (R37). -/
  | loopDataFrame
  /-- LOOP_ACK_FRAME (R37). -/
  | loopAckFrame
  /-- LOOP_NAK_FRAME (R37). -/
  | loopNakFrame
  /-- ACK_TIMER (R37). -/
  | ackTimer
  /-- REPLAY_TIMEOUT (R37). -/
  | replayTimeout
  /-- REMOTE_REQUEST (R40). -/
  | remoteRequest
  /-- PODCFG_WRITE (R39). -/
  | podcfgWrite
  /-- PTP_SYNC (R48). -/
  | ptpSync
  /-- PTP_ANNOUNCE_TIMEOUT (R48). -/
  | ptpAnnounceTimeout
  /-- TIME_STEP (R45). -/
  | timeStep
  /-- TIMERATE_WRITE (R46). -/
  | timerateWrite
  /-- PTPSTAT_WRITE (R48). -/
  | ptpstatWrite
  /-- SBBASE_WRITE (R61). -/
  | sbbaseWrite
  /-- TAIL_STORE (R63). -/
  | tailStore
  /-- GRAPH (R68). -/
  | graph
  /-- PREEMPT (R71). -/
  | preempt
  /-- RESUME (R71). -/
  | resume
  /-- ABORT (R65). -/
  | abort
  /-- SCSET (R79). -/
  | scset
  /-- SCFREE (R79). -/
  | scfree
  /-- TTSET (R72). -/
  | ttset
  /-- QUERY (R65). -/
  | query
  /-- END (R68). -/
  | endNode
  /-- CFG (R90). -/
  | cfg
  /-- ARM (R98). -/
  | arm
  /-- WAIT (R68). -/
  | waitNode
  /-- WAIT_TIMEOUT (R68). -/
  | waitTimeout
  /-- REPEAT (R68). -/
  | repeatNode
  /-- SIGNAL (R68). -/
  | signal
  /-- SCT (R79). -/
  | sct
  /-- DRAIN (R105). -/
  | drain
  /-- TIMETABLE_FIRE (R74). -/
  | timetableFire
  /-- STCCFG_WRITE (R76). -/
  | stccfgWrite
  /-- SCAN_VISIT (R80). -/
  | scanVisit
  /-- STC_RESTORE_DONE (R79). -/
  | stcRestoreDone
  /-- STC_EVICT_DONE (R79). -/
  | stcEvictDone
  /-- TRIGGER_FIRE (R94). -/
  | triggerFire
  /-- GO (R98). -/
  | go
  /-- QUIESCE_DONE (R104). -/
  | quiesceDone
  /-- SAVE_DONE (R103). -/
  | saveDone
  /-- REGION_RESTORE_DONE (R106). -/
  | regionRestoreDone
  /-- DRAIN_DONE (R103). -/
  | drainDone
  /-- REWALK (R124). -/
  | rewalk
  /-- WITHHOLD_TIMEOUT (R124). -/
  | withholdTimeout
  /-- HOTCFG_WRITE (R128). -/
  | hotcfgWrite
  /-- WHOLD_WRITE (R126). -/
  | wholdWrite
  /-- COACH_HOP (R178). -/
  | coachHop
  /-- COACH_DELIVERY (R182). -/
  | coachDelivery
  /-- LOOPEXIT (R188). -/
  | loopexit
  /-- MERGE (R186). -/
  | merge
  /-- REDUCE (R191). -/
  | reduce
  /-- REDUCE_DEADLINE (R191). -/
  | reduceDeadline
  /-- JUNCTION_SIDING_TIMEOUT (R193). -/
  | junctionSidingTimeout
  /-- JUNCTION_SIDING_RELEASE (R193). -/
  | junctionSidingRelease
  /-- APE_ELEMENT (R209). -/
  | apeElement
  /-- GENERATOR_ELEMENT (R229). -/
  | generatorElement
  /-- CE_GRANULE (R222). -/
  | ceGranule
  /-- CE_COMPLETE (R157). -/
  | ceComplete
  /-- MATRIX_COMPLETE (R217). -/
  | matrixComplete
  /-- LINK_SETTLE (R260). -/
  | linkSettle
  /-- WATCHDOG (R282). -/
  | watchdog
  /-- ECC_ERROR (R288). -/
  | eccError
  /-- TRAPINFO_ACK (R287). -/
  | trapinfoAck
  /-- TILE_PRED_WRITE (R202). -/
  | tilePredWrite
  /-- SVWDOG_WRITE (R282). -/
  | svwdogWrite
  /-- EVPEND_ACK (R434). -/
  | evpendAck
  /-- BOOTWALK_GO (R453). -/
  | bootwalkGo
  /-- REGISTER_WRITE (R5). -/
  | registerWrite
  /-- LINK_UP (R38). -/
  | linkUp
  /-- POWER_LOSS (R59). -/
  | powerLoss
  /-- ANNOUNCE_RECEIVED (R48). -/
  | announceReceived
  /-- WAITT_EXPIRY (R429). -/
  | waittExpiry
  deriving DecidableEq, Repr

end Sys2Proof
end

