-- ==== Sys2Proof/WellFormed.lean ====
section
/-! DEFINITION. Well-formedness: the words that are instructions, by the field uses, the reserved fields and the
excluded values of the instruction chapters (13 R294, R299, R301, R304, R305; 14-18), and index ranges for events. -/

namespace Sys2Proof

/-- GS = 0 with GN = 1 is no guard (R294). -/
def guardOk (gn : Bool) (gs : BitVec 3) : Bool := !(gn && gs == 0)

/-- Which fields of format S an instruction uses (R301); immMask names the used bits of imm32. -/
def SFmt.uses (o : SFmt) (d a b scope ord : Bool) (immMask : BitVec 32) : Bool :=
  guardOk o.gn o.gs && (d || o.d == 0) && (a || o.a == 0) && (b || o.b == 0)
    && (if scope then o.scope.toNat < 4 else o.scope == 0) && (ord || o.ord == 0)
    && (o.imm &&& ~~~immMask) == 0

/-- Which fields of format B an instruction uses (R301). -/
def BFmt.uses (o : BFmt) (a b hint : Bool) (auxMask : BitVec 8) (offMask : BitVec 32) : Bool :=
  guardOk o.gn o.gs && (a || o.a == 0) && (b || o.b == 0)
    && (if hint then o.hint != 3 else o.hint == 0)
    && (o.aux &&& ~~~auxMask) == 0 && (o.off &&& ~~~offMask) == 0

/-- Which fields of format C an instruction uses (R301). -/
def CFmt.uses (o : CFmt) (d a b c : Bool) (immMask : BitVec 32) : Bool :=
  guardOk o.gn o.gs && (d || o.d == 0) && (a || o.a == 0) && (b || o.b == 0) && (c || o.c == 0)
    && (o.imm &&& ~~~immMask) == 0

/-- What a 5-bit field of format V names (R302): nothing (reserved), a vector register or a port, a vector
register only, a general register, or a mask. -/
inductive FieldUse where
  | none | vecPort | vec | gen | mask
  deriving DecidableEq, Repr

/-- The values a field use allows (R302, R352). -/
def FieldUse.ok (u : FieldUse) (f : BitVec 5) : Bool :=
  match u with
  | .none => f == 0
  | .vecPort => true
  | .vec => f.toNat < 24
  | .gen => true
  | .mask => f.toNat < 8

/-- Whether the field, so used, names a port. -/
def FieldUse.port (u : FieldUse) (f : BitVec 5) : Bool := u == .vecPort && 24 ≤ f.toNat

/-- The fields and accepted values of a vector instruction (R351). saBit tells whether sa may be 1. -/
structure VUse where
  vd : FieldUse := .none
  va : FieldUse := .none
  vb : FieldUse := .none
  vc : FieldUse := .none
  typ : List Nat := [0]
  rnd : Bool := false
  prec : Bool := false
  sat : Bool := false
  pm : Bool := false
  mkf : Bool := false
  saBit : Bool := false
  aux : BitVec 3 := 0
  imm : BitVec 13 := 0

/-- va's use: with sa = 1 it names a general register (R298). -/
def VUse.vaUse (u : VUse) (o : VFmt) : FieldUse := if u.saBit && o.sa then .gen else u.va

/-- The checks of R352 that depend on the field uses alone. -/
def VFmt.uses (o : VFmt) (u : VUse) : Bool :=
  guardOk o.gn o.gs && u.vd.ok o.vd && (u.vaUse o).ok o.va && u.vb.ok o.vb && u.vc.ok o.vc
    && u.typ.contains o.typ.toNat && (u.rnd || o.rnd == 0) && (u.prec || o.prec == 0) && (u.sat || !o.sat)
    && (u.mkf || o.mkf == 0) && (u.saBit || !o.sa) && (o.aux &&& ~~~u.aux) == 0 && (o.imm &&& ~~~u.imm) == 0
    && (!o.pm || (u.pm && (u.vd.port o.vd || (u.vaUse o).port o.va || u.vb.port o.vb || u.vc.port o.vc)))

/-- The .x modifier (R259, R298, R354): vd lies in 0-22 and prec is 0. -/
def VFmt.xOk (o : VFmt) : Bool := !(o.aux.getLsbD 0) || (o.vd.toNat < 23 && o.prec == 0)

/-- imm13 as a number. -/
def VFmt.n (o : VFmt) : Nat := o.imm.toNat

/-- Element types of memory accesses (R351). -/
def memTypes : List Nat := [0, 1, 2, 3, 4, 7, 8, 9, 10]

/-- Floating arithmetic of two operands (R351). -/
def vuBin (x : Bool) : VUse :=
  { vd := .vecPort, va := .vecPort, vb := .vecPort, rnd := true, prec := true, pm := true, saBit := true, aux := if x then 1 else 0 }
/-- Fused multiply-add (R351). -/
def vuFma (x : Bool) : VUse := { vuBin x with vc := .vecPort }
/-- Floating arithmetic of one operand (R351). -/
def vuUn : VUse := { vd := .vecPort, va := .vecPort, rnd := true, prec := true, pm := true, saBit := true }
/-- Integer lane arithmetic (R351). -/
def vuInt (sat : Bool) : VUse :=
  { vd := .vecPort, va := .vecPort, vb := .vecPort, typ := [8, 9], sat := sat, pm := true, saBit := true }
/-- Lane logic (R351). -/
def vuLog : VUse := { vd := .vecPort, va := .vecPort, vb := .vecPort, pm := true, saBit := true }
/-- Lane shifts (R351, R364): with aux bit 1 the amount is imm13 bits 5:0 and vb is reserved. -/
def vuShift (o : VFmt) : VUse :=
  if o.aux.getLsbD 1 then { vd := .vecPort, va := .vecPort, pm := true, saBit := true, aux := 2, imm := 0x3F }
  else { vuLog with aux := 2 }
/-- VROT (R351): with aux bit 1 the amount is in g[vb]. -/
def vuRot (o : VFmt) : VUse :=
  if o.aux.getLsbD 1 then { vd := .vecPort, va := .vecPort, vb := .gen, pm := true, aux := 2 }
  else { vd := .vecPort, va := .vecPort, pm := true, aux := 2, imm := 0x3F }
/-- VCMPT (R351, R356): with aux bit 1 the threshold is in g[vc]. -/
def vuCmpt (o : VFmt) : VUse :=
  { vd := .mask, va := .vecPort, vb := .vec, vc := if o.aux.getLsbD 1 then .gen else .vecPort, pm := true, saBit := true, aux := 2, imm := 7 }
/-- Contiguous and strided vector memory (R351); store adds rnd and sat. -/
def vuMem (store strided : Bool) : VUse :=
  { vd := .vec, va := .gen, vb := .gen, vc := if strided then .gen else .none, typ := memTypes, rnd := store, sat := store, imm := 0x1FFF }
/-- Indexed vector memory (R351). -/
def vuIdx (store : Bool) : VUse :=
  { vd := .vec, va := .gen, vb := .vec, typ := memTypes, rnd := store, sat := store, imm := 0x1FFF }

/-- Element width in bits of a matrix format, 0 for a code that no matrix operand may have (R377). -/
def matWidth (f : BitVec 4) : Nat :=
  match f.toNat with
  | 1 => 16 | 2 => 16 | 3 => 8 | 4 => 8 | 6 => 8 | 7 => 8 | 5 => 4 | _ => 0

/-- Whether a type code is a block format (R377). -/
def isBlock (f : BitVec 4) : Bool := f == 5 || f == 6

/-- Stored elements of a group under sp (R380). -/
def spN (sp : BitVec 2) : Nat := match sp.toNat with | 1 => 6 | 2 => 8 | 3 => 12 | _ => 1

/-- Common part of format M: the guard, bits 11:0, and the fields an instruction does not use (R299, R376). -/
def MFmt.uses (o : MFmt) (acc sa sb qa qb dirA dirB opnd kc rows : Bool) : Bool :=
  guardOk o.gn o.gs && (acc || o.acc == 0) && (sa || o.sa == 0) && (sb || o.sb == 0) && (qa || !o.qa) && (qb || !o.qb)
    && (dirA || !o.dirA) && (dirB || !o.dirB) && (opnd || (o.fmtA == 0 && o.fmtB == 0 && o.sp == 0))
    && (if kc then 1 ≤ o.kc.toNat && o.kc.toNat ≤ 8 else o.kc == 0)
    && (if rows then 1 ≤ o.rows.toNat && o.rows.toNat ≤ 64 else o.rows == 0) && o.low == 0

/-- MMA and MMAS: every field, under R299 and the ILLEGAL cases of R377. -/
def MFmt.mmaOk (o : MFmt) : Bool :=
  o.uses true true true true true true true true true true
    && (!o.qa || 24 ≤ o.sa.toNat) && (!o.qb || 24 ≤ o.sb.toNat)
    && matWidth o.fmtA != 0 && matWidth o.fmtA == matWidth o.fmtB
    && !(o.sp != 0 && (isBlock o.fmtB || o.qb))
    && (o.kc.toNat * (256 / matWidth o.fmtA)) % spN o.sp == 0
    && !(o.qa && o.qb && o.sa == o.sb)
    && !(o.qa && isBlock o.fmtA && o.dirA) && !(o.qb && isBlock o.fmtB && !o.dirB)
    && !(!o.qa && o.sa == 31 && isBlock o.fmtA) && !(!o.qb && o.sb == 31 && (isBlock o.fmtB || o.sp != 0))

/-- Bits h down to l of imm32 as a number. -/
def CFmt.f (o : CFmt) (h l : Nat) : Nat := (o.imm.toNat / 2 ^ l) % 2 ^ (h + 1 - l)

/-- The port number N of a coach instruction is 6 or 7 (R408). -/
def CFmt.coachPort (o : CFmt) : Bool := o.f 18 16 == 6 || o.f 18 16 == 7

/-- Vector registers named in g fields of format C (R405). -/
def vec5 (f : BitVec 5) : Bool := f.toNat < 24

/-- An unsigned bit field pos, w of EXTU, EXTS and INS lies in 64 bits (R318). -/
def SFmt.fieldOk (o : SFmt) : Bool := o.imm.toNat % 64 + (o.imm.toNat / 256) % 64 + 1 ≤ 64

def dieOk (die : Nat) : Bool := die < 4
/-- A compute tile index: row + column even (R7). -/
def computeTile (tile : Nat) : Bool := tile < 256 && (tile / 16 + tile % 16) % 2 == 0

def Agent.ok : Agent → Bool
  | .ctx die tile c => dieOk die && computeTile tile && c < 8
  | .core n => n < 8

/-- The well-formed instructions: a word that breaks these checks traps ILLEGAL (R305). -/
def Instr.wf : Instr → Bool
  | .nop o => o.uses false false false false false 0
  | .add o => o.uses true true true false false 0
  | .sub o => o.uses true true true false false 0
  | .addi o => o.uses true true false false false 0xFFFFFFFF
  | .mul o => o.uses true true true false false 0
  | .mulh o => o.uses true true true false false 0
  | .mulhu o => o.uses true true true false false 0
  | .div o => o.uses true true true false false 0
  | .divu o => o.uses true true true false false 0
  | .rem o => o.uses true true true false false 0
  | .remu o => o.uses true true true false false 0
  | .and o => o.uses true true true false false 0
  | .or o => o.uses true true true false false 0
  | .xor o => o.uses true true true false false 0
  | .andn o => o.uses true true true false false 0
  | .andi o => o.uses true true false false false 0xFFFFFFFF
  | .ori o => o.uses true true false false false 0xFFFFFFFF
  | .xori o => o.uses true true false false false 0xFFFFFFFF
  | .shl o => o.uses true true true false false 0
  | .shr o => o.uses true true true false false 0
  | .sra o => o.uses true true true false false 0
  | .shli o => o.uses true true false false false 0x3F
  | .shri o => o.uses true true false false false 0x3F
  | .srai o => o.uses true true false false false 0x3F
  | .rotl o => o.uses true true true false false 0
  | .clz o => o.uses true true false false false 0
  | .ctz o => o.uses true true false false false 0
  | .popc o => o.uses true true false false false 0
  | .min o => o.uses true true true false false 0
  | .max o => o.uses true true true false false 0
  | .minu o => o.uses true true true false false 0
  | .maxu o => o.uses true true true false false 0
  | .slt o => o.uses true true true false false 0
  | .sltu o => o.uses true true true false false 0
  | .seq o => o.uses true true true false false 0
  | .slti o => o.uses true true false false false 0xFFFFFFFF
  | .sel o => o.uses true true true false false 0x1F
  | .movi o => o.uses true false false false false 0xFFFFFFFF
  | .lih o => o.uses true true false false false 0xFFFFFFFF
  | .extu o => o.uses true true false false false 0x3F3F && o.fieldOk
  | .exts o => o.uses true true false false false 0x3F3F && o.fieldOk
  | .ins o => o.uses true true true false false 0x3F3F && o.fieldOk
  | .brev o => o.uses true true false false false 0
  | .bswap o => o.uses true true false false false 0
  | .br o => o.uses false false false 0 0xFFFFFFFF
  | .beq o => o.uses true true true 0 0xFFFFFFFF
  | .bne o => o.uses true true true 0 0xFFFFFFFF
  | .blt o => o.uses true true true 0 0xFFFFFFFF
  | .bge o => o.uses true true true 0 0xFFFFFFFF
  | .bltu o => o.uses true true true 0 0xFFFFFFFF
  | .bgeu o => o.uses true true true 0 0xFFFFFFFF
  | .bpt o => o.uses false false true 0xF 0xFFFFFFFF
  | .bmk o => o.uses false false true 0x1F 0xFFFFFFFF
  | .jal o => o.uses true false false 0 0xFFFFFFFF
  | .jalr o => o.uses true true false 0 0xFFFFFFFF
  | .loop o => o.uses true false true 0 0xFFFFFFFF && o.a != 0
  | .pset o => o.uses false false false 0xFE 0xFF00
  | .psetR o => o.uses true false false 0xFE 3 && o.off == 1
  | .psetNz o => o.uses true false false 0xFE 3 && o.off == 2
  | .ret o => o.uses false false false 0 0
  | .yield o => o.uses false false false 0xFF 0
  | .waitp o => o.uses false false false 0xFE 0xFF00 && (o.off.toNat / 256) &&& (255 - o.aux.toNat) == 0
  | .ldb o => o.uses true true true false false 0xFFFFFFFF
  | .ldbu o => o.uses true true true false false 0xFFFFFFFF
  | .ldh o => o.uses true true true false false 0xFFFFFFFF
  | .ldhu o => o.uses true true true false false 0xFFFFFFFF
  | .ldw o => o.uses true true true false false 0xFFFFFFFF
  | .ldwu o => o.uses true true true false false 0xFFFFFFFF
  | .ldd o => o.uses true true true false false 0xFFFFFFFF
  | .stb o => o.uses true true true false false 0xFFFFFFFF
  | .sth o => o.uses true true true false false 0xFFFFFFFF
  | .stw o => o.uses true true true false false 0xFFFFFFFF
  | .std o => o.uses true true true false false 0xFFFFFFFF
  | .ldq o => o.uses true true true false false 0xFFFFFFFF && o.d.toNat % 2 == 0
  | .stq o => o.uses true true true false false 0xFFFFFFFF && o.d.toNat % 2 == 0
  | .pref o => o.uses false true true false false 0xFFFFFFFF
  | .cflush o => o.uses false true true true false 0xFFFFFFFF
  | .cinv o => o.uses false true true true false 0xFFFFFFFF
  | .aadd o => o.uses true true true true true 0xFFFFFFFF
  | .aand o => o.uses true true true true true 0xFFFFFFFF
  | .aor o => o.uses true true true true true 0xFFFFFFFF
  | .axor o => o.uses true true true true true 0xFFFFFFFF
  | .amin o => o.uses true true true true true 0xFFFFFFFF
  | .amax o => o.uses true true true true true 0xFFFFFFFF
  | .aminu o => o.uses true true true true true 0xFFFFFFFF
  | .amaxu o => o.uses true true true true true 0xFFFFFFFF
  | .aswap o => o.uses true true true true true 0xFFFFFFFF
  | .acas o => o.uses true true true true true 0xFFFFFFFF && o.d != 31
  | .ldaq o => o.uses true true true true false 0xFFFFFFFF
  | .strel o => o.uses true true true true false 0xFFFFFFFF
  | .fence o => o.uses false false false true false 3
  | .sbar o => o.uses false false false false false 0xFFFF
  | .sgpost o => o.uses false false false false false 7
  | .sgwait o => o.uses false true false false false 0xFFFFFF07
  | .vadd o => o.uses (vuBin true) && o.xOk
  | .vsub o => o.uses (vuBin true) && o.xOk
  | .vmul o => o.uses (vuBin false)
  | .vfma o => o.uses (vuFma true) && o.xOk
  | .vfms o => o.uses (vuFma false)
  | .vnfma o => o.uses (vuFma false)
  | .vabs o => o.uses vuUn
  | .vneg o => o.uses vuUn
  | .vmax o => o.uses (vuBin false)
  | .vmin o => o.uses (vuBin false)
  | .vdiv o => o.uses (vuBin false)
  | .vrcp o => o.uses vuUn
  | .vsqrt o => o.uses vuUn
  | .vrsq o => o.uses vuUn
  | .vexp2 o => o.uses vuUn
  | .vlog2 o => o.uses vuUn
  | .vscale o => o.uses (vuBin false)
  | .vcmp o => o.uses { vd := .mask, va := .vecPort, vb := .vecPort, typ := [0, 8, 9], pm := true, saBit := true, imm := 7 } && (o.typ == 0 || o.n < 6)
  | .vcmpt o => o.uses (vuCmpt o) && (o.sa || o.va != o.vb)
  | .vcut o => o.uses { vd := .vec, mkf := true }
  | .vsettle o => o.uses {}
  | .vcvt o => o.uses { vd := .vecPort, va := .vecPort, typ := [0, 8, 9], rnd := true, sat := true, pm := true, saBit := true, imm := 0xF } && memTypes.contains o.n
  | .vqnt o => o.uses { vd := .vec, va := .vecPort, vb := .gen, typ := [5, 6], rnd := o.typ == 6, sat := o.typ == 6, pm := true }
  | .vdq o => o.uses { vd := .vecPort, va := .vec, vb := .gen, typ := [5, 6], rnd := true, pm := true }
  | .vsel o => o.uses { vuLog with mkf := true }
  | .viadd o => o.uses (vuInt true)
  | .visub o => o.uses (vuInt true)
  | .vimul o => o.uses (vuInt true)
  | .vimin o => o.uses (vuInt false)
  | .vimax o => o.uses (vuInt false)
  | .vand o => o.uses vuLog
  | .vor o => o.uses vuLog
  | .vxor o => o.uses vuLog
  | .vshl o => o.uses (vuShift o)
  | .vshr o => o.uses (vuShift o)
  | .vsra o => o.uses (vuShift o)
  | .vmov o => o.uses { vd := .vecPort, va := .vecPort, pm := true, saBit := true }
  | .vbcast o => o.uses { vd := .vecPort, va := .vecPort, pm := true, imm := 0x3F }
  | .vext o => o.uses { vd := .gen, va := .vecPort, typ := [0, 8, 9], pm := true, imm := 0x3F }
  | .vins o => o.uses { vd := .vec, va := .gen, imm := 0x3F }
  | .vperm o => o.uses { vd := .vecPort, va := .vecPort, vb := .vecPort, pm := true }
  | .vrot o => o.uses (vuRot o)
  | .viota o => o.uses { vd := .vecPort, va := .none, pm := true, saBit := true, imm := if o.sa then 0 else 0x1FFF }
  | .vrsum o => o.uses { vd := .vecPort, va := .vecPort, typ := [0, 8, 9], rnd := true, pm := true }
  | .vrmax o => o.uses { vd := .vecPort, va := .vecPort, typ := [0, 8, 9], pm := true }
  | .vrarg o => o.uses { vd := .gen, va := .vecPort, typ := [0, 8, 9], pm := true }
  | .vtopk o => o.uses { vd := .vec, va := .vecPort, typ := [0, 8, 9], pm := true, imm := 0x7F } && o.vd.toNat < 23 && 1 ≤ o.n && o.n ≤ 64
  | .vscan o => o.uses { vd := .vecPort, va := .vecPort, typ := [0, 8, 9], rnd := true, pm := true }
  | .mand o => o.uses { vd := .mask, va := .mask, vb := .mask }
  | .mor o => o.uses { vd := .mask, va := .mask, vb := .mask }
  | .mxor o => o.uses { vd := .mask, va := .mask, vb := .mask }
  | .mnot o => o.uses { vd := .mask, va := .mask }
  | .mpop o => o.uses { vd := .gen, va := .mask }
  | .mfirst o => o.uses { vd := .gen, va := .mask }
  | .mset o => o.uses { vd := .mask, saBit := true, imm := if o.sa then 0 else 0x7F } && o.n ≤ 64
  | .vld o => o.uses (vuMem false false)
  | .vst o => o.uses (vuMem true false)
  | .vlds o => o.uses (vuMem false true)
  | .vsts o => o.uses (vuMem true true)
  | .vgth o => o.uses (vuIdx false)
  | .vsct o => o.uses (vuIdx true)
  | .vrng o => o.uses { vd := .vec, va := .gen, vb := .gen, typ := [0, 9], imm := 3 } && o.va != 31
  | .mzero o => o.uses true false false false false false false false false true
  | .mma o => o.mmaOk
  | .mmas o => o.mmaOk
  | .mrd o => o.uses true true true false false true false false false false && o.sa.toNat < 24
  | .mrdq o => o.uses true true true true false false false false false true && o.qa && 24 ≤ o.sa.toNat
  | .mlda o => o.uses true true false false false false false false false true
  | .mscl o => o.uses true true false false false false false false false true && o.sa.toNat < 24
  | .mwait o => o.uses false true true false false false false false false false && o.sa.toNat < 8 && o.sb.toNat < 4
  | .apcfgM o => o.uses false true false false 0xF
  | .apcfgR o => o.uses false true true false 0x1F && o.f 5 4 == 1
  | .apcfgPre o => o.uses false false false false 0xF2F && o.f 5 4 == 2
  | .apdim o => o.uses false true false false 0x3F
  | .apstart o => o.uses false false false false 0xF
  | .apstop o => o.uses false false false false 0xF
  | .appos o => o.uses true false false false 0xF
  | .apseek o => o.uses false true false false 0xF
  | .qbind o => o.uses false false false false 0x7FF0F && o.f 15 8 ≤ 128
  | .qbindK o => o.uses false true false false 0x0F170000 && o.f 21 20 == 1 && o.f 27 24 ≤ 10
  | .qbindU o => o.uses false false false false 0x270000 && o.f 21 20 == 2
  | .qstat o => o.uses true false false false 0x70000
  | .cecpy o => o.uses true true true false 0xFF000000
  | .ce2d o => o.uses true true true true 0xFF000000
  | .cefill o => o.uses true true true false 0xFF000000
  | .cepg o => o.uses true true true false 0xFF00001F && o.f 2 0 ≤ 4
  | .cestat o => o.uses true false false false 0x03000007 && o.f 1 0 != 3
  | .ceabt o => o.uses false false false false 0x03000000
  | .knew o => o.uses false true true false 0
  | .knewC o => o.uses false false false false 1 && o.imm == 1
  | .ksend o => o.uses false false false false 0
  | .kfwd o => o.uses false false false false 0x70001 && o.coachPort
  | .khdr o => o.uses true false false false 0x70007 && o.coachPort
  | .kset o => o.uses false true false false 0x70007 && o.coachPort
  | .kdrop o => o.uses false false false false 0x70000 && o.coachPort
  | .kmrg o => o.uses false true true true 0x70F1F && 1 ≤ o.f 4 0 && o.f 4 0 ≤ 16 && 1 ≤ o.f 11 8 && o.f 11 8 ≤ 8
      && !(o.f 16 16 == 1 && o.f 17 17 == 1) && (o.f 16 16 == 0 || o.a == 0) && (o.f 17 17 == 0 || o.b == 0) && (o.f 18 18 == 0 || o.c == 0)
  | .ksplit o => o.uses false true true false 0x7000F && o.coachPort && 2 ≤ o.f 3 0
  | .shlk o => o.uses true true true true 0
  | .shrefInc o => o.uses true true false false 0
  | .shrefDec o => o.uses true true false false 1 && o.imm == 1
  | .shpin o => o.uses true true false false 1
  | .shcpy o => o.uses true true true true 0xFF00007F && 1 ≤ o.f 6 0
  | .kvapp o => o.uses true true true true 0x1F && 1 ≤ o.f 4 0 && o.f 4 0 ≤ 16
  | .kvcmt o => o.uses true true true false 0
  | .kvrej o => o.uses true true false false 0
  | .sctch o => o.uses true true false false 0
  | .scld o => o.uses true true false false 0
  | .scev o => o.uses true true false false 0
  | .scqry o => o.uses true true false false 3
  | .spacc o => o.uses true true true true 0x7F && vec5 o.a && vec5 o.b && vec5 o.c && 1 ≤ o.f 6 0 && o.f 6 0 ≤ 64
  | .spres o => o.uses true true true true 0 && vec5 o.a && vec5 o.b
  | .trpub o => o.uses true true true false 0x7F && vec5 o.b && 1 ≤ o.f 6 0 && o.f 6 0 ≤ 64
  | .launch o => o.uses true true false false 0x707 && (o.f 10 10 == 0 || o.f 9 8 == 0)
  | .trap o => o.uses false false false false 0xFFFFFFFF
  | .eret o => o.uses false false false false 0
  | .csrr o => o.uses true false false false 0xFFF
  | .csrw o => o.uses true true false false 0xFFF
  | .csrs o => o.uses true true false false 0xFFF
  | .csrc o => o.uses true true false false 0xFFF
  | .time o => o.uses true false false false 0
  | .waitt o => o.uses false true false false 0
  | .bar o => o.uses false false false false 0x03FF000F
  | .ctxsv o => o.uses false true false false 0
  | .ctxld o => o.uses false true false false 0
  | .tlbiAll o => o.uses false false false false 0
  | .tlbiAsid o => o.uses false false true false 1 && o.imm == 1
  | .tlbiVa o => o.uses false true true false 2 && o.imm == 2
  | .tlbiVall o => o.uses false true false false 3 && o.imm == 3
  | .cfgld o => o.uses true true false false 0x31F
  | .trgld o => o.uses true true false false 0xF
  | .bkpt o => o.uses false false false false 0
  | .halt o => o.uses false false false false 0
  | .coldStart => true
  | .warmStart => true
  | .thermalStopEnd => true
  | .recoveryFrame => true
  | .recoveryEnd => true
  | .attestationRequest => true
  | .fuseSvnRaise => true
  | .lifetimeRecordWrite => true
  | .recordCopyRequest => true
  | .powerSample => true
  | .linkDown => true
  | .cmRequest => true
  | .hostSend => true
  | .hostWrite => true
  | .hostWriteImm => true
  | .hostRead => true
  | .fetchAdd => true
  | .cmpSwap => true
  | .hostInvalidOpcode => true
  | .cnpReceived => true
  | .loopDataFrame => true
  | .loopAckFrame => true
  | .loopNakFrame => true
  | .ackTimer => true
  | .replayTimeout => true
  | .remoteRequest => true
  | .podcfgWrite => true
  | .ptpSync => true
  | .ptpAnnounceTimeout => true
  | .timeStep => true
  | .timerateWrite => true
  | .ptpstatWrite => true
  | .sbbaseWrite => true
  | .tailStore => true
  | .graph => true
  | .preempt => true
  | .resume => true
  | .abort => true
  | .scset => true
  | .scfree => true
  | .ttset => true
  | .query => true
  | .endNode => true
  | .cfg => true
  | .arm => true
  | .waitNode => true
  | .waitTimeout => true
  | .repeatNode => true
  | .signal => true
  | .sct => true
  | .drain => true
  | .timetableFire => true
  | .stccfgWrite => true
  | .scanVisit => true
  | .stcRestoreDone => true
  | .stcEvictDone => true
  | .triggerFire => true
  | .go => true
  | .quiesceDone => true
  | .saveDone => true
  | .regionRestoreDone => true
  | .drainDone => true
  | .rewalk => true
  | .withholdTimeout => true
  | .hotcfgWrite => true
  | .wholdWrite => true
  | .coachHop => true
  | .coachDelivery => true
  | .loopexit => true
  | .merge => true
  | .reduce => true
  | .reduceDeadline => true
  | .junctionSidingTimeout => true
  | .junctionSidingRelease => true
  | .apeElement => true
  | .generatorElement => true
  | .ceGranule => true
  | .ceComplete => true
  | .matrixComplete => true
  | .linkSettle => true
  | .watchdog => true
  | .eccError => true
  | .trapinfoAck => true
  | .tilePredWrite => true
  | .svwdogWrite => true
  | .evpendAck => true
  | .bootwalkGo => true
  | .registerWrite => true
  | .linkUp => true
  | .powerLoss => true
  | .announceReceived => true
  | .waittExpiry => true

/-- Whether a start's firmware lies in HBM (R14). -/
def StartIn.ok (o : StartIn) : Bool :=
  (match o.fw with | none => true | some f => f.cells.all fun c => c.1 % 8 == 0 && c.1 < 2 ^ 39) &&
    (match o.resBase with | none => true | some b => b + 32768 ≤ 2 ^ 39)

/-- The index ranges of what the firmware does at the host ports (R29, R33). -/
def FwNet.ok : FwNet → Bool
  | .recv q _ _ => q < 4096
  | .region i key .. => i < 1024 && key < 2 ^ 22
  | .noRegion i => i < 1024
  | .pfc p prio => p < 12 && prio.all (· < 8)
  | .gid p i _ => p < 4 && i < 16
  | .dcqcn q _ => q < 4096
  | .post q p => q < 4096 && p.n ≤ 2 ^ 31
  | .resend q => q < 4096
  | .reply q psn .. => q < 4096 && psn < 2 ^ 24
  | .pause p prio _ => p < 12 && prio < 8

/-- The index ranges of an event: dies, tiles, ports, QPs (R7, R10, R29). -/
def Arg.wf : Arg → Bool
  | .startIn o => o.ok
  | .warmIn o => o.start.ok
  | .imageIn o => o.port < 4
  | .recEndIn o => o.port < 4 && o.start.ok
  | .nonceIn o => o.nonce.length == 64
  | .valRef _ => true
  | .noRef => true
  | .idxRef _ => true
  | .powerIn o => o.tj.length == 4
  | .cmIn o => o.port < 4 && o.qp < 4096
  | .hostWr o => o.qp < 4096 && o.psn < 2 ^ 24
  | .hostRd o => o.qp < 4096 && o.psn < 2 ^ 24
  | .hostAt o => o.qp < 4096 && o.psn < 2 ^ 24
  | .frameIn o => o.port < 8
  | .dirRef _ => true
  | .remoteReq _ => true
  | .ptpIn o => o.port < 12
  | .dieVal o => dieOk o.die
  | .dieIdx o => dieOk o.die && o.i < 4096
  | .dieRef o => dieOk o.die
  | .tileRef o => dieOk o.die && computeTile o.tile
  | .unitRef o => dieOk o.die
  | .slotVal o => dieOk o.die && o.slot < 16
  | .juncIdx o => o.j ≤ 64
  | .tileIdx o => dieOk o.die && computeTile o.tile && o.i < 16
  | .dieIdx2 o => dieOk o.die && o.depot < 128 && o.gen < 4
  | .agentRef o => o.a.ok
  | .eccIn _ => true
  | .tileVal o => dieOk o.die && computeTile o.tile
  | .coreVal o => o.core < 8
  | .regWr o => dieOk o.die && o.csr < 4096
  | .lossIn _ => true
  | .pktIn o => o.qp < 4096 && o.psn < 2 ^ 24
  | .fwNet o => o.ok

end Sys2Proof
end

