-- ==== Sys2Proof/Decode.lean ====
section
/-! DEFINITION. The decoder and the encoder of instruction words, from the format layouts (13 R294-R300) and the
opcode map (13 R303). decodeWord is total: a word that is no instruction is rejected by name (R305). -/

namespace Sys2Proof

/-- Why a word is not an instruction: its opcode is unassigned (R303), or a field breaks the rules of its
instruction (R301, R305). -/
inductive DecodeError where
  | unassigned | malformed
  deriving DecidableEq, Repr

/-- The opcode OPC, bits 63:56 (R294). -/
def opcOf (w : Word) : BitVec 8 := w.extractLsb' 56 8

/-- The fields of a format S word (R296). -/
def SFmt.ofWord (w : Word) : SFmt :=
  { gn := w.getLsbD 55, gs := w.extractLsb' 52 3, d := w.extractLsb' 47 5, a := w.extractLsb' 42 5, b := w.extractLsb' 37 5,
    scope := w.extractLsb' 34 3, ord := w.extractLsb' 32 2, imm := w.extractLsb' 0 32 }

/-- The format S word of an opcode and its fields (R296). -/
def SFmt.toWord (opc : BitVec 8) (o : SFmt) : Word :=
  opc ++ BitVec.ofBool o.gn ++ o.gs ++ o.d ++ o.a ++ o.b ++ o.scope ++ o.ord ++ o.imm

/-- The fields of a format B word (R297). -/
def BFmt.ofWord (w : Word) : BFmt :=
  { gn := w.getLsbD 55, gs := w.extractLsb' 52 3, a := w.extractLsb' 47 5, b := w.extractLsb' 42 5, aux := w.extractLsb' 34 8,
    hint := w.extractLsb' 32 2, off := w.extractLsb' 0 32 }

/-- The format B word of an opcode and its fields (R297). -/
def BFmt.toWord (opc : BitVec 8) (o : BFmt) : Word :=
  opc ++ BitVec.ofBool o.gn ++ o.gs ++ o.a ++ o.b ++ o.aux ++ o.hint ++ o.off

/-- The fields of a format V word (R298). -/
def VFmt.ofWord (w : Word) : VFmt :=
  { gn := w.getLsbD 55, gs := w.extractLsb' 52 3, vd := w.extractLsb' 47 5, va := w.extractLsb' 42 5, vb := w.extractLsb' 37 5,
    vc := w.extractLsb' 32 5, typ := w.extractLsb' 28 4, prec := w.extractLsb' 24 4, rnd := w.extractLsb' 22 2,
    sat := w.getLsbD 21, pm := w.getLsbD 20, mkf := w.extractLsb' 17 3, sa := w.getLsbD 16, aux := w.extractLsb' 13 3,
    imm := w.extractLsb' 0 13 }

/-- The format V word of an opcode and its fields (R298). -/
def VFmt.toWord (opc : BitVec 8) (o : VFmt) : Word :=
  opc ++ BitVec.ofBool o.gn ++ o.gs ++ o.vd ++ o.va ++ o.vb ++ o.vc ++ o.typ ++ o.prec ++ o.rnd ++ BitVec.ofBool o.sat
    ++ BitVec.ofBool o.pm ++ o.mkf ++ BitVec.ofBool o.sa ++ o.aux ++ o.imm

/-- The fields of a format M word (R299). -/
def MFmt.ofWord (w : Word) : MFmt :=
  { gn := w.getLsbD 55, gs := w.extractLsb' 52 3, acc := w.extractLsb' 50 2, sa := w.extractLsb' 45 5, sb := w.extractLsb' 40 5,
    qa := w.getLsbD 39, qb := w.getLsbD 38, dirA := w.getLsbD 37, dirB := w.getLsbD 36, fmtA := w.extractLsb' 32 4,
    fmtB := w.extractLsb' 28 4, sp := w.extractLsb' 26 2, kc := w.extractLsb' 19 7, rows := w.extractLsb' 12 7,
    low := w.extractLsb' 0 12 }

/-- The format M word of an opcode and its fields (R299). -/
def MFmt.toWord (opc : BitVec 8) (o : MFmt) : Word :=
  opc ++ BitVec.ofBool o.gn ++ o.gs ++ o.acc ++ o.sa ++ o.sb ++ BitVec.ofBool o.qa ++ BitVec.ofBool o.qb
    ++ BitVec.ofBool o.dirA ++ BitVec.ofBool o.dirB ++ o.fmtA ++ o.fmtB ++ o.sp ++ o.kc ++ o.rows ++ o.low

/-- The fields of a format C word (R300). -/
def CFmt.ofWord (w : Word) : CFmt :=
  { gn := w.getLsbD 55, gs := w.extractLsb' 52 3, d := w.extractLsb' 47 5, a := w.extractLsb' 42 5, b := w.extractLsb' 37 5,
    c := w.extractLsb' 32 5, imm := w.extractLsb' 0 32 }

/-- The format C word of an opcode and its fields (R300). -/
def CFmt.toWord (opc : BitVec 8) (o : CFmt) : Word :=
  opc ++ BitVec.ofBool o.gn ++ o.gs ++ o.d ++ o.a ++ o.b ++ o.c ++ o.imm

/-- The instruction that an opcode of format S names (R303, R304). -/
def decodeS (opc : BitVec 8) (o : SFmt) : Option Instr :=
  match opc.toNat with
  | 0 => some (.nop o)
  | 1 => some (.add o)
  | 2 => some (.sub o)
  | 3 => some (.addi o)
  | 4 => some (.mul o)
  | 5 => some (.mulh o)
  | 6 => some (.mulhu o)
  | 7 => some (.div o)
  | 8 => some (.divu o)
  | 9 => some (.rem o)
  | 10 => some (.remu o)
  | 11 => some (.and o)
  | 12 => some (.or o)
  | 13 => some (.xor o)
  | 14 => some (.andn o)
  | 15 => some (.andi o)
  | 16 => some (.ori o)
  | 17 => some (.xori o)
  | 18 => some (.shl o)
  | 19 => some (.shr o)
  | 20 => some (.sra o)
  | 21 => some (.shli o)
  | 22 => some (.shri o)
  | 23 => some (.srai o)
  | 24 => some (.rotl o)
  | 25 => some (.clz o)
  | 26 => some (.ctz o)
  | 27 => some (.popc o)
  | 28 => some (.min o)
  | 29 => some (.max o)
  | 30 => some (.minu o)
  | 31 => some (.maxu o)
  | 32 => some (.slt o)
  | 33 => some (.sltu o)
  | 34 => some (.seq o)
  | 35 => some (.slti o)
  | 36 => some (.sel o)
  | 37 => some (.movi o)
  | 38 => some (.lih o)
  | 39 => some (.extu o)
  | 40 => some (.exts o)
  | 41 => some (.ins o)
  | 42 => some (.brev o)
  | 43 => some (.bswap o)
  | 64 => some (.ldb o)
  | 65 => some (.ldbu o)
  | 66 => some (.ldh o)
  | 67 => some (.ldhu o)
  | 68 => some (.ldw o)
  | 69 => some (.ldwu o)
  | 70 => some (.ldd o)
  | 71 => some (.stb o)
  | 72 => some (.sth o)
  | 73 => some (.stw o)
  | 74 => some (.std o)
  | 75 => some (.ldq o)
  | 76 => some (.stq o)
  | 77 => some (.pref o)
  | 78 => some (.cflush o)
  | 79 => some (.cinv o)
  | 80 => some (.aadd o)
  | 81 => some (.aand o)
  | 82 => some (.aor o)
  | 83 => some (.axor o)
  | 84 => some (.amin o)
  | 85 => some (.amax o)
  | 86 => some (.aminu o)
  | 87 => some (.amaxu o)
  | 88 => some (.aswap o)
  | 89 => some (.acas o)
  | 90 => some (.ldaq o)
  | 91 => some (.strel o)
  | 92 => some (.fence o)
  | 93 => some (.sbar o)
  | 94 => some (.sgpost o)
  | 95 => some (.sgwait o)
  | _ => none

/-- The instruction that an opcode of format B names (R303, R304); none also for an unused mode. -/
def decodeB (opc : BitVec 8) (o : BFmt) : Option Instr :=
  match opc.toNat with
  | 48 => some (.br o)
  | 49 => some (.beq o)
  | 50 => some (.bne o)
  | 51 => some (.blt o)
  | 52 => some (.bge o)
  | 53 => some (.bltu o)
  | 54 => some (.bgeu o)
  | 55 => some (.bpt o)
  | 56 => some (.bmk o)
  | 57 => some (.jal o)
  | 58 => some (.jalr o)
  | 59 => some (.loop o)
  | 60 => (match o.off.toNat % 4 with | 0 => some (.pset o) | 1 => some (.psetR o) | 2 => some (.psetNz o) | _ => none)
  | 61 => some (.ret o)
  | 62 => some (.yield o)
  | 63 => some (.waitp o)
  | _ => none

/-- The instruction that an opcode of format V names (R303, R304); none also for an unused mode. -/
def decodeV (opc : BitVec 8) (o : VFmt) : Option Instr :=
  match opc.toNat with
  | 96 => some (.vadd o)
  | 97 => some (.vsub o)
  | 98 => some (.vmul o)
  | 99 => some (.vfma o)
  | 100 => some (.vfms o)
  | 101 => some (.vnfma o)
  | 102 => some (.vabs o)
  | 103 => some (.vneg o)
  | 104 => some (.vmax o)
  | 105 => some (.vmin o)
  | 106 => some (.vdiv o)
  | 107 => some (.vrcp o)
  | 108 => some (.vsqrt o)
  | 109 => some (.vrsq o)
  | 110 => some (.vexp2 o)
  | 111 => some (.vlog2 o)
  | 112 => some (.vscale o)
  | 113 => some (.vcmp o)
  | 114 => some (.vcmpt o)
  | 115 => some (.vcut o)
  | 116 => some (.vsettle o)
  | 117 => some (.vcvt o)
  | 118 => some (.vqnt o)
  | 119 => some (.vdq o)
  | 120 => some (.vsel o)
  | 121 => some (.viadd o)
  | 122 => some (.visub o)
  | 123 => some (.vimul o)
  | 124 => some (.vimin o)
  | 125 => some (.vimax o)
  | 126 => some (.vand o)
  | 127 => some (.vor o)
  | 128 => some (.vxor o)
  | 129 => some (.vshl o)
  | 130 => some (.vshr o)
  | 131 => some (.vsra o)
  | 132 => some (.vmov o)
  | 133 => some (.vbcast o)
  | 134 => some (.vext o)
  | 135 => some (.vins o)
  | 136 => some (.vperm o)
  | 137 => some (.vrot o)
  | 138 => some (.viota o)
  | 139 => some (.vrsum o)
  | 140 => some (.vrmax o)
  | 141 => some (.vrarg o)
  | 142 => some (.vtopk o)
  | 143 => some (.vscan o)
  | 144 => some (.mand o)
  | 145 => some (.mor o)
  | 146 => some (.mxor o)
  | 147 => some (.mnot o)
  | 148 => some (.mpop o)
  | 149 => some (.mfirst o)
  | 150 => some (.mset o)
  | 151 => some (.vld o)
  | 152 => some (.vst o)
  | 153 => some (.vlds o)
  | 154 => some (.vsts o)
  | 155 => some (.vgth o)
  | 156 => some (.vsct o)
  | 157 => some (.vrng o)
  | _ => none

/-- The instruction that an opcode of format M names (R303, R304); none also for an unused mode. -/
def decodeM (opc : BitVec 8) (o : MFmt) : Option Instr :=
  match opc.toNat with
  | 160 => some (.mzero o)
  | 161 => some (.mma o)
  | 162 => some (.mmas o)
  | 163 => some (.mrd o)
  | 164 => some (.mrdq o)
  | 165 => some (.mlda o)
  | 166 => some (.mscl o)
  | 167 => some (.mwait o)
  | _ => none

/-- The instruction that an opcode of format C names (R303, R304); none also for an unused mode. -/
def decodeC (opc : BitVec 8) (o : CFmt) : Option Instr :=
  match opc.toNat with
  | 176 => (match o.f 5 4 with | 0 => some (.apcfgM o) | 1 => some (.apcfgR o) | 2 => some (.apcfgPre o) | _ => none)
  | 177 => some (.apdim o)
  | 178 => some (.apstart o)
  | 179 => some (.apstop o)
  | 180 => some (.appos o)
  | 181 => some (.apseek o)
  | 182 => (match o.f 21 20 with | 0 => some (.qbind o) | 1 => some (.qbindK o) | 2 => some (.qbindU o) | _ => none)
  | 183 => some (.qstat o)
  | 184 => some (.cecpy o)
  | 185 => some (.ce2d o)
  | 186 => some (.cefill o)
  | 187 => some (.cepg o)
  | 188 => some (.cestat o)
  | 189 => some (.ceabt o)
  | 192 => (match o.f 0 0 with | 0 => some (.knew o) | _ => some (.knewC o))
  | 193 => some (.ksend o)
  | 194 => some (.kfwd o)
  | 195 => some (.khdr o)
  | 196 => some (.kset o)
  | 197 => some (.kdrop o)
  | 198 => some (.kmrg o)
  | 199 => some (.ksplit o)
  | 200 => some (.shlk o)
  | 201 => (match o.f 0 0 with | 0 => some (.shrefInc o) | _ => some (.shrefDec o))
  | 202 => some (.shpin o)
  | 203 => some (.shcpy o)
  | 204 => some (.kvapp o)
  | 205 => some (.kvcmt o)
  | 206 => some (.kvrej o)
  | 208 => some (.sctch o)
  | 209 => some (.scld o)
  | 210 => some (.scev o)
  | 211 => some (.scqry o)
  | 212 => some (.spacc o)
  | 213 => some (.spres o)
  | 214 => some (.trpub o)
  | 215 => some (.launch o)
  | 224 => some (.trap o)
  | 225 => some (.eret o)
  | 226 => some (.csrr o)
  | 227 => some (.csrw o)
  | 228 => some (.csrs o)
  | 229 => some (.csrc o)
  | 230 => some (.time o)
  | 231 => some (.waitt o)
  | 232 => some (.bar o)
  | 233 => some (.ctxsv o)
  | 234 => some (.ctxld o)
  | 235 => (match o.f 1 0 with | 0 => some (.tlbiAll o) | 1 => some (.tlbiAsid o) | 2 => some (.tlbiVa o) | _ => some (.tlbiVall o))
  | 236 => some (.cfgld o)
  | 237 => some (.trgld o)
  | 238 => some (.bkpt o)
  | 239 => some (.halt o)
  | _ => none

/-- The instruction a word names before its fields are checked, by the opcode ranges of R304. -/
def rawDecode (w : Word) : Option Instr :=
  let opc := opcOf w
  if opc.toNat < 0x30 then decodeS opc (SFmt.ofWord w)
  else if opc.toNat < 0x40 then decodeB opc (BFmt.ofWord w)
  else if opc.toNat < 0x60 then decodeS opc (SFmt.ofWord w)
  else if opc.toNat < 0xA0 then decodeV opc (VFmt.ofWord w)
  else if opc.toNat < 0xB0 then decodeM opc (MFmt.ofWord w)
  else decodeC opc (CFmt.ofWord w)

/-- The instruction of a word, or why it is none (R305). -/
def decodeWord (w : Word) : Except DecodeError Instr :=
  match rawDecode w with
  | none => .error .unassigned
  | some i => if i.wf then .ok i else .error .malformed

/-- A little-endian number from bytes, the first at the lowest address (R3). -/
def leNat : List Byte → Nat
  | [] => 0
  | b :: bs => b.toNat + 256 * leNat bs

/-- The n bytes of a number, little-endian (R3). -/
def leBytes : Nat → Nat → List Byte
  | 0, _ => []
  | n + 1, v => BitVec.ofNat 8 v :: leBytes n (v / 256)

/-- The instruction stored in the first eight bytes (R292), and the bytes after it. -/
def decode (bs : List Byte) : Except DecodeError (Instr × List Byte) :=
  match decodeWord (BitVec.ofNat 64 (leNat (bs.take 8))) with
  | .ok i => .ok (i, bs.drop 8)
  | .error e => .error e

/-- The host's question (the opcode table's numbering): the instruction whose word is w; bits above nbits are 0. -/
def decodeTableWord (nbits w : Nat) : Option Instr :=
  match decodeWord (BitVec.ofNat 64 (w % 2 ^ nbits)) with
  | .ok i => some i
  | .error _ => none

/-- The word of an instruction (R294-R300, R303); an event has none. -/
def encode : Instr → Option Word
  | .nop o => some (o.toWord 0x00)
  | .add o => some (o.toWord 0x01)
  | .sub o => some (o.toWord 0x02)
  | .addi o => some (o.toWord 0x03)
  | .mul o => some (o.toWord 0x04)
  | .mulh o => some (o.toWord 0x05)
  | .mulhu o => some (o.toWord 0x06)
  | .div o => some (o.toWord 0x07)
  | .divu o => some (o.toWord 0x08)
  | .rem o => some (o.toWord 0x09)
  | .remu o => some (o.toWord 0x0A)
  | .and o => some (o.toWord 0x0B)
  | .or o => some (o.toWord 0x0C)
  | .xor o => some (o.toWord 0x0D)
  | .andn o => some (o.toWord 0x0E)
  | .andi o => some (o.toWord 0x0F)
  | .ori o => some (o.toWord 0x10)
  | .xori o => some (o.toWord 0x11)
  | .shl o => some (o.toWord 0x12)
  | .shr o => some (o.toWord 0x13)
  | .sra o => some (o.toWord 0x14)
  | .shli o => some (o.toWord 0x15)
  | .shri o => some (o.toWord 0x16)
  | .srai o => some (o.toWord 0x17)
  | .rotl o => some (o.toWord 0x18)
  | .clz o => some (o.toWord 0x19)
  | .ctz o => some (o.toWord 0x1A)
  | .popc o => some (o.toWord 0x1B)
  | .min o => some (o.toWord 0x1C)
  | .max o => some (o.toWord 0x1D)
  | .minu o => some (o.toWord 0x1E)
  | .maxu o => some (o.toWord 0x1F)
  | .slt o => some (o.toWord 0x20)
  | .sltu o => some (o.toWord 0x21)
  | .seq o => some (o.toWord 0x22)
  | .slti o => some (o.toWord 0x23)
  | .sel o => some (o.toWord 0x24)
  | .movi o => some (o.toWord 0x25)
  | .lih o => some (o.toWord 0x26)
  | .extu o => some (o.toWord 0x27)
  | .exts o => some (o.toWord 0x28)
  | .ins o => some (o.toWord 0x29)
  | .brev o => some (o.toWord 0x2A)
  | .bswap o => some (o.toWord 0x2B)
  | .br o => some (o.toWord 0x30)
  | .beq o => some (o.toWord 0x31)
  | .bne o => some (o.toWord 0x32)
  | .blt o => some (o.toWord 0x33)
  | .bge o => some (o.toWord 0x34)
  | .bltu o => some (o.toWord 0x35)
  | .bgeu o => some (o.toWord 0x36)
  | .bpt o => some (o.toWord 0x37)
  | .bmk o => some (o.toWord 0x38)
  | .jal o => some (o.toWord 0x39)
  | .jalr o => some (o.toWord 0x3A)
  | .loop o => some (o.toWord 0x3B)
  | .pset o => some (o.toWord 0x3C)
  | .psetR o => some (o.toWord 0x3C)
  | .psetNz o => some (o.toWord 0x3C)
  | .ret o => some (o.toWord 0x3D)
  | .yield o => some (o.toWord 0x3E)
  | .waitp o => some (o.toWord 0x3F)
  | .ldb o => some (o.toWord 0x40)
  | .ldbu o => some (o.toWord 0x41)
  | .ldh o => some (o.toWord 0x42)
  | .ldhu o => some (o.toWord 0x43)
  | .ldw o => some (o.toWord 0x44)
  | .ldwu o => some (o.toWord 0x45)
  | .ldd o => some (o.toWord 0x46)
  | .stb o => some (o.toWord 0x47)
  | .sth o => some (o.toWord 0x48)
  | .stw o => some (o.toWord 0x49)
  | .std o => some (o.toWord 0x4A)
  | .ldq o => some (o.toWord 0x4B)
  | .stq o => some (o.toWord 0x4C)
  | .pref o => some (o.toWord 0x4D)
  | .cflush o => some (o.toWord 0x4E)
  | .cinv o => some (o.toWord 0x4F)
  | .aadd o => some (o.toWord 0x50)
  | .aand o => some (o.toWord 0x51)
  | .aor o => some (o.toWord 0x52)
  | .axor o => some (o.toWord 0x53)
  | .amin o => some (o.toWord 0x54)
  | .amax o => some (o.toWord 0x55)
  | .aminu o => some (o.toWord 0x56)
  | .amaxu o => some (o.toWord 0x57)
  | .aswap o => some (o.toWord 0x58)
  | .acas o => some (o.toWord 0x59)
  | .ldaq o => some (o.toWord 0x5A)
  | .strel o => some (o.toWord 0x5B)
  | .fence o => some (o.toWord 0x5C)
  | .sbar o => some (o.toWord 0x5D)
  | .sgpost o => some (o.toWord 0x5E)
  | .sgwait o => some (o.toWord 0x5F)
  | .vadd o => some (o.toWord 0x60)
  | .vsub o => some (o.toWord 0x61)
  | .vmul o => some (o.toWord 0x62)
  | .vfma o => some (o.toWord 0x63)
  | .vfms o => some (o.toWord 0x64)
  | .vnfma o => some (o.toWord 0x65)
  | .vabs o => some (o.toWord 0x66)
  | .vneg o => some (o.toWord 0x67)
  | .vmax o => some (o.toWord 0x68)
  | .vmin o => some (o.toWord 0x69)
  | .vdiv o => some (o.toWord 0x6A)
  | .vrcp o => some (o.toWord 0x6B)
  | .vsqrt o => some (o.toWord 0x6C)
  | .vrsq o => some (o.toWord 0x6D)
  | .vexp2 o => some (o.toWord 0x6E)
  | .vlog2 o => some (o.toWord 0x6F)
  | .vscale o => some (o.toWord 0x70)
  | .vcmp o => some (o.toWord 0x71)
  | .vcmpt o => some (o.toWord 0x72)
  | .vcut o => some (o.toWord 0x73)
  | .vsettle o => some (o.toWord 0x74)
  | .vcvt o => some (o.toWord 0x75)
  | .vqnt o => some (o.toWord 0x76)
  | .vdq o => some (o.toWord 0x77)
  | .vsel o => some (o.toWord 0x78)
  | .viadd o => some (o.toWord 0x79)
  | .visub o => some (o.toWord 0x7A)
  | .vimul o => some (o.toWord 0x7B)
  | .vimin o => some (o.toWord 0x7C)
  | .vimax o => some (o.toWord 0x7D)
  | .vand o => some (o.toWord 0x7E)
  | .vor o => some (o.toWord 0x7F)
  | .vxor o => some (o.toWord 0x80)
  | .vshl o => some (o.toWord 0x81)
  | .vshr o => some (o.toWord 0x82)
  | .vsra o => some (o.toWord 0x83)
  | .vmov o => some (o.toWord 0x84)
  | .vbcast o => some (o.toWord 0x85)
  | .vext o => some (o.toWord 0x86)
  | .vins o => some (o.toWord 0x87)
  | .vperm o => some (o.toWord 0x88)
  | .vrot o => some (o.toWord 0x89)
  | .viota o => some (o.toWord 0x8A)
  | .vrsum o => some (o.toWord 0x8B)
  | .vrmax o => some (o.toWord 0x8C)
  | .vrarg o => some (o.toWord 0x8D)
  | .vtopk o => some (o.toWord 0x8E)
  | .vscan o => some (o.toWord 0x8F)
  | .mand o => some (o.toWord 0x90)
  | .mor o => some (o.toWord 0x91)
  | .mxor o => some (o.toWord 0x92)
  | .mnot o => some (o.toWord 0x93)
  | .mpop o => some (o.toWord 0x94)
  | .mfirst o => some (o.toWord 0x95)
  | .mset o => some (o.toWord 0x96)
  | .vld o => some (o.toWord 0x97)
  | .vst o => some (o.toWord 0x98)
  | .vlds o => some (o.toWord 0x99)
  | .vsts o => some (o.toWord 0x9A)
  | .vgth o => some (o.toWord 0x9B)
  | .vsct o => some (o.toWord 0x9C)
  | .vrng o => some (o.toWord 0x9D)
  | .mzero o => some (o.toWord 0xA0)
  | .mma o => some (o.toWord 0xA1)
  | .mmas o => some (o.toWord 0xA2)
  | .mrd o => some (o.toWord 0xA3)
  | .mrdq o => some (o.toWord 0xA4)
  | .mlda o => some (o.toWord 0xA5)
  | .mscl o => some (o.toWord 0xA6)
  | .mwait o => some (o.toWord 0xA7)
  | .apcfgM o => some (o.toWord 0xB0)
  | .apcfgR o => some (o.toWord 0xB0)
  | .apcfgPre o => some (o.toWord 0xB0)
  | .apdim o => some (o.toWord 0xB1)
  | .apstart o => some (o.toWord 0xB2)
  | .apstop o => some (o.toWord 0xB3)
  | .appos o => some (o.toWord 0xB4)
  | .apseek o => some (o.toWord 0xB5)
  | .qbind o => some (o.toWord 0xB6)
  | .qbindK o => some (o.toWord 0xB6)
  | .qbindU o => some (o.toWord 0xB6)
  | .qstat o => some (o.toWord 0xB7)
  | .cecpy o => some (o.toWord 0xB8)
  | .ce2d o => some (o.toWord 0xB9)
  | .cefill o => some (o.toWord 0xBA)
  | .cepg o => some (o.toWord 0xBB)
  | .cestat o => some (o.toWord 0xBC)
  | .ceabt o => some (o.toWord 0xBD)
  | .knew o => some (o.toWord 0xC0)
  | .knewC o => some (o.toWord 0xC0)
  | .ksend o => some (o.toWord 0xC1)
  | .kfwd o => some (o.toWord 0xC2)
  | .khdr o => some (o.toWord 0xC3)
  | .kset o => some (o.toWord 0xC4)
  | .kdrop o => some (o.toWord 0xC5)
  | .kmrg o => some (o.toWord 0xC6)
  | .ksplit o => some (o.toWord 0xC7)
  | .shlk o => some (o.toWord 0xC8)
  | .shrefInc o => some (o.toWord 0xC9)
  | .shrefDec o => some (o.toWord 0xC9)
  | .shpin o => some (o.toWord 0xCA)
  | .shcpy o => some (o.toWord 0xCB)
  | .kvapp o => some (o.toWord 0xCC)
  | .kvcmt o => some (o.toWord 0xCD)
  | .kvrej o => some (o.toWord 0xCE)
  | .sctch o => some (o.toWord 0xD0)
  | .scld o => some (o.toWord 0xD1)
  | .scev o => some (o.toWord 0xD2)
  | .scqry o => some (o.toWord 0xD3)
  | .spacc o => some (o.toWord 0xD4)
  | .spres o => some (o.toWord 0xD5)
  | .trpub o => some (o.toWord 0xD6)
  | .launch o => some (o.toWord 0xD7)
  | .trap o => some (o.toWord 0xE0)
  | .eret o => some (o.toWord 0xE1)
  | .csrr o => some (o.toWord 0xE2)
  | .csrw o => some (o.toWord 0xE3)
  | .csrs o => some (o.toWord 0xE4)
  | .csrc o => some (o.toWord 0xE5)
  | .time o => some (o.toWord 0xE6)
  | .waitt o => some (o.toWord 0xE7)
  | .bar o => some (o.toWord 0xE8)
  | .ctxsv o => some (o.toWord 0xE9)
  | .ctxld o => some (o.toWord 0xEA)
  | .tlbiAll o => some (o.toWord 0xEB)
  | .tlbiAsid o => some (o.toWord 0xEB)
  | .tlbiVa o => some (o.toWord 0xEB)
  | .tlbiVall o => some (o.toWord 0xEB)
  | .cfgld o => some (o.toWord 0xEC)
  | .trgld o => some (o.toWord 0xED)
  | .bkpt o => some (o.toWord 0xEE)
  | .halt o => some (o.toWord 0xEF)
  | .coldStart => none
  | .warmStart => none
  | .thermalStopEnd => none
  | .recoveryFrame => none
  | .recoveryEnd => none
  | .attestationRequest => none
  | .fuseSvnRaise => none
  | .lifetimeRecordWrite => none
  | .recordCopyRequest => none
  | .powerSample => none
  | .linkDown => none
  | .cmRequest => none
  | .hostSend => none
  | .hostWrite => none
  | .hostWriteImm => none
  | .hostRead => none
  | .fetchAdd => none
  | .cmpSwap => none
  | .hostInvalidOpcode => none
  | .cnpReceived => none
  | .loopDataFrame => none
  | .loopAckFrame => none
  | .loopNakFrame => none
  | .ackTimer => none
  | .replayTimeout => none
  | .remoteRequest => none
  | .podcfgWrite => none
  | .ptpSync => none
  | .ptpAnnounceTimeout => none
  | .timeStep => none
  | .timerateWrite => none
  | .ptpstatWrite => none
  | .sbbaseWrite => none
  | .tailStore => none
  | .graph => none
  | .preempt => none
  | .resume => none
  | .abort => none
  | .scset => none
  | .scfree => none
  | .ttset => none
  | .query => none
  | .endNode => none
  | .cfg => none
  | .arm => none
  | .waitNode => none
  | .waitTimeout => none
  | .repeatNode => none
  | .signal => none
  | .sct => none
  | .drain => none
  | .timetableFire => none
  | .stccfgWrite => none
  | .scanVisit => none
  | .stcRestoreDone => none
  | .stcEvictDone => none
  | .triggerFire => none
  | .go => none
  | .quiesceDone => none
  | .saveDone => none
  | .regionRestoreDone => none
  | .drainDone => none
  | .rewalk => none
  | .withholdTimeout => none
  | .hotcfgWrite => none
  | .wholdWrite => none
  | .coachHop => none
  | .coachDelivery => none
  | .loopexit => none
  | .merge => none
  | .reduce => none
  | .reduceDeadline => none
  | .junctionSidingTimeout => none
  | .junctionSidingRelease => none
  | .apeElement => none
  | .generatorElement => none
  | .ceGranule => none
  | .ceComplete => none
  | .matrixComplete => none
  | .linkSettle => none
  | .watchdog => none
  | .eccError => none
  | .trapinfoAck => none
  | .tilePredWrite => none
  | .svwdogWrite => none
  | .evpendAck => none
  | .bootwalkGo => none
  | .registerWrite => none
  | .linkUp => none
  | .powerLoss => none
  | .announceReceived => none
  | .waittExpiry => none

/-- Whether a row is an event of the module and not an instruction word. -/
def Instr.isEvent (i : Instr) : Bool := (encode i).isNone

/-- The stored bytes of an instruction (R292). -/
def encodeBytes (i : Instr) : List Byte :=
  match encode i with
  | some w => leBytes 8 w.toNat
  | none => []

end Sys2Proof
end

