-- ==== Sys2Proof/Config.lean ====
section
/-! DEFINITION. What an implementation fixes, and the free values of the model: constants without a body, so that
nothing can be proved of their values. Every claim holds whatever they are. Each has an entry in the assumption log. -/

namespace Sys2Proof.Config

/-- Nanoseconds of the 1 GHz time domain that pass in step n of the module (entry 2). -/
opaque elapsed : Nat → Nat

/-- SHA3-512 (R55, R57, R59), an external standard (entry 15). -/
opaque sha3 : List Byte → List Byte

/-- The fuse contents except the seed, in the order of the release notes: key digests, revocations, minimum svn, serial number, the other
fuses (R57; entry 15). -/
opaque fuseImage : List (List Byte) → List Bool → Nat → List Byte → List Byte → List Byte

/-- ML-DSA-87 verification of a signature over a digest under a public key (R55; entry 15). -/
opaque mldsaVerify : List Byte → List Byte → List Byte → Bool

/-- ML-DSA-87 signature with the key derived from a seed (R57; entry 15). -/
opaque mldsaSign : List Byte → List Byte → List Byte

/-- The layout of the lifetime record in the release notes (R60): byte i of the image of the counters (entry 16). -/
opaque lifetimeByte : List Nat → Nat → Byte

/-- The DCQCN send rate after a CNP, from the firmware's parameters and the rate before it (R33; entry 18). -/
opaque dcqcn : List Nat → Nat → Nat

/-- The MAC address of a loop port, and the destination its frames carry (R35; entry 18). -/
opaque portMac : Nat → BitVec 48
/-- The destination MAC of the frames that a loop port sends (R35; entry 18). -/
opaque peerMac : Nat → BitVec 48

/-- The check that an opaque link record carries, of its other bytes (R270, R284; entry 14). -/
opaque linkCheck : List Byte → Word

/-- Values the spec leaves open, numbered by State.freeCtr (entry 19). -/
opaque freeWord : Nat → Word

end Sys2Proof.Config
end

