-- ==== Sys2Proof/Machine/State.lean ====
section
/-! DEFINITION. The state of one module as plain data: every register, table, queue and memory the spec gives it,
and the reasons a step can stop. Arrays whose entries start alike are sparse tables (a list of index and value);
the value of an unlisted index stands with the accessor (Machine/Ops.lean). -/

namespace Sys2Proof.Machine

/-- Why the machine stops: no behaviour of this hardware stops it, every instruction and event has an effect or a trap
that the spec gives; so there is no constructor. Safe. -/
inductive Fault where
  deriving DecidableEq, Repr

/-- Why a step is refused: no meaning. -/
inductive Refusal where
  /-- Raised by an arm of exec that has no meaning yet. Safe. -/
  | notModelled (mnemonic : String)
  deriving DecidableEq, Repr

/-- A sparse table: index and value. -/
abbrev Tbl (α : Type) := List (Nat × α)

/-- The 64 lanes of a vector register (R198). -/
abbrev Lanes := Vector Lane 64

/-- Every byte of memory that is not 0, by rising address; all memories of the module in one numbering (entry 7). -/
abbrev Memory := List Host.Cell

/-- A coach: eight header words and a payload (R170), with the numbers of the poisoned payload granules, and hbad where its
header flit is poisoned (R290). -/
structure Coach where
  hdr : Vector Word 8
  pay : List Byte
  pois : List Nat
  hbad : Bool := false
  deriving DecidableEq, Repr

/-- An element a stream delivers in its stored format: its code, for a block format its sub-scale and scale
(R235, R236), and its poison. -/
structure Elem where
  code : Nat
  sub : Nat
  scale : Lane
  pois : Bool
  deriving DecidableEq, Repr

/-- A port binding (R283, R395): bound to an APE with ncol columns, or to a coach buffer with a type and a position in elements;
fin tells that a coach port has reached its end (R212, R213). -/
structure PortBind where
  bnd : Bool
  kb : Bool
  ape : Nat
  ncol : Nat
  typ : Nat
  pos : Nat
  fin : Bool := false
  deriving DecidableEq, Repr

/-- A replay latch (R214, R283); fl holds the flags that each lane's conversion raised (R350), pos the position in its port of the first
element popped (R277). -/
structure Latch where
  valid : Bool
  lanes : Lanes
  mask : Word
  pois : Word
  addr : Word
  fl : Lanes
  pos : Nat
  deriving DecidableEq, Repr

/-- What a chain instruction with a port as destination pushes to when it has settled (R257): q6's coach or an APE as it stood at
issue, and the position reserved there (R213); pm tells that the active lanes are packed, gone that the port had ended, so that the push
is discarded whole, skip how many of its elements are written (R152). -/
structure PushTo where
  kb : Bool
  ape : Nat
  cfg : Vector Word 6
  typ : Nat
  pos : Nat
  pm : Bool
  gone : Bool
  skip : Nat
  deriving DecidableEq, Repr

/-- A chain link (R260, R284): its word, destination, rules and active lanes; opn are the lanes of the destination that it is still to
write, opn2 those of the second destination under .x; vals and vals2 are the settled values it will write (head and residual), fl the
flags of each lane (R264), cuts the marks that a VCMPT has set, which count when it ends (R268, R271), push the port it pushes to. -/
structure Link where
  word : Word
  dst : Nat
  two : Bool
  nbv : Nat
  rnd : Nat
  active : Word
  opn : Word
  opn2 : Word
  vals : Lanes
  vals2 : Lanes
  fl : Lanes
  cuts : Nat
  push : Option PushTo
  deriving DecidableEq, Repr

/-- CTX.CAUSE (R276). -/
structure Cause where
  active : Bool
  async : Bool
  loc : Nat
  code : Nat
  deriving DecidableEq, Repr

/-- What a context or core waits for (R96, R328-R330). -/
inductive Wait where
  /-- It does not wait. -/
  | run
  /-- Fewer than n links in flight (R257, R261, R263). -/
  | links (n : Nat)
  /-- Every link has ended, for an instruction that has issued: RET, ERET, CTXSV, a CSR that settles (R263, R327). -/
  | settle
  /-- Signal k reaches the target (R347). -/
  | signal (k : Nat) (target : Lane)
  /-- Predicates under a mask equal val (R329). -/
  | pred (mask val : BitVec 8)
  /-- YIELD: until the module has run til tenths of core cycles (Sys.cycles), and the contexts listed, each with its issue count at
  the YIELD, have issued or stopped being ready (R328). -/
  | yield (til : Nat) (others : List (Nat × Nat))
  /-- Fewer than n instructions in the matrix queue (R376). -/
  | matrix (n : Nat)
  /-- No queued instruction names accumulator acc (R384). -/
  | acc (acc : Nat)
  /-- Every push to q6 has written the buffer (R411). -/
  | pushes
  /-- No link of the context pushes a port (R148, R344). -/
  | streams
  /-- The pushes to APE e that were reserved before and go first are performed (R152): for a push at once (kind 0), by a link (1), by the
  matrix queue (2). -/
  | turn (e kind : Nat)
  /-- Room for n coaches in the send queue (R407). -/
  | send (n : Nat)
  /-- Copy channel ch is not busy (R222). -/
  | channel (ch : Nat)
  /-- A translation fault of an access (R123). -/
  | withhold
  /-- A translation fault of the fetch (R123). -/
  | fetch
  /-- APE e withholds or is held by a capture (R96, R381). -/
  | ape (e : Nat)
  /-- Barrier id (R430). -/
  | bar (id : Nat)
  /-- SYS.TIME reaches t (R429). -/
  | time (t : Word)
  /-- HALT (R434). -/
  | halt
  /-- Stream context i is RESIDENT (R421). -/
  | stream (i : Nat)
  /-- Nothing more: the stream context that an SCLD waited for gave it the result v (R79, R421). -/
  | loaded (v : Nat)
  /-- The reply of another module to request id (R40). -/
  | remote (id : Nat)
  /-- Slot of a die leaves the states in which a load waits (R90, R433). -/
  | load (die slot : Nat)
  /-- A tile of an ARMING region is to receive go (R99). -/
  | arming (die slot : Nat)
  /-- An APE's capture by another context ends (R381). -/
  | capture (e : Nat)
  deriving DecidableEq, Repr

/-- The registers that a context and a supervisor core have alike (R198, R200, R262, R268, R276, R278); issue is when it
last issued, nissue how often, prev when it issued before that; word is the instruction at which it last waited. -/
structure Hart where
  g : Vector Word 32
  pc : Word
  epc : Word
  cause : Cause
  tval : Word
  wait : Wait
  word : Word
  issue : Nat
  nissue : Nat
  prev : Nat
  nbv : Nat
  rnd : Nat
  fflags : BitVec 7
  stall : Nat
  peak : Nat
  cutcnt : Nat
  deriving DecidableEq, Repr

/-- A place in memory: its key, and the memory type of its page (R118); 3 where it is no HBM. -/
structure Phys where
  key : Nat
  mt : Nat
  deriving DecidableEq, Repr

/-- A place that passed the checks of R333, of an access within one granule. -/
inductive Place where
  | mem (p : Phys)
  | void
  | reg (csr die loc : Nat)
  | remote (m va : Nat)
  deriving DecidableEq, Repr

/-- A byte that a context stored and that its accesses through another form of address may still go before (R140): the address it was
stored through, its key, what stood there, until when in tenths of core cycles (R143), and whether an order below pod scope has followed,
which leaves paths 0x0 and 0x3 unordered; st tells what a FENCE of kind stores has ordered later stores behind: 0 none, 1 those of the
same path, 2 all. -/
structure Late where
  ea : Nat
  key : Nat
  old : Byte
  til : Nat
  far : Bool
  st : Nat
  deriving DecidableEq, Repr

/-- A context of a compute tile (R94, R198, R200, R283). fired is the region's active time at its fire (R282), checked the elements of a
vector access that have passed their checks while it withholds (R371), read the len that a KVCMT read while it withholds (R419), part the
APE of a push to other modules whose places have passed their checks and how many of its elements are written (R152), late its stores that
other forms of their addresses may not see yet (R140). -/
structure Context where
  hart : Hart
  live : Bool
  coach : Bool
  cls : Nat
  rver : Nat
  tver : Nat
  inv : Nat
  m : Vector Word 8
  v : Vector Lanes 24
  cut : Vector Word 24
  links : List Link
  ports : Vector PortBind 8
  latches : Tbl Latch
  q6 : Option Coach
  q7 : Option Coach
  fired : Nat
  wdogDone : Bool
  checked : List (Nat × Place)
  read : Option Nat
  part : Option (Nat × Nat)
  late : List Late
  deriving DecidableEq, Repr

/-- A supervisor core (R278, R282, R434): wdone tells that the limit last written has struck. -/
structure Core where
  hart : Hart
  running : Bool
  stopped : Bool
  wlim : Nat
  wstart : Nat
  wdone : Bool
  deriving DecidableEq, Repr

/-- An address-pattern engine (R205): words 0-5, then word 6 by its fields, the read-ahead (R209), the elements a
generator delivered (R229), the context whose capture holds it (R381), and in page-list mode the page entry in use, with its page and
poison (R207). -/
structure Ape where
  cfg : Vector Word 6
  pos : Nat
  fin : Bool
  wh : Bool
  ahead : List Elem
  fed : List Elem
  holder : Option Nat
  page : Option (Nat × Word × Bool)
  deriving DecidableEq, Repr

/-- The commands a copy channel performs (R397, R417). -/
inductive CopyKind where
  | cpy | twoD | fill | pages | shard
  deriving DecidableEq, Repr

/-- States of a copy channel (R224). -/
inductive ChanState where
  | idle | running | paused | error
  deriving DecidableEq, Repr

/-- A copy channel (R224). pages holds the words of a page list that the channel has read, each with its poison (R401); inv and slot are
the invocation and the region that issued the command (R66). -/
structure Chan where
  kind : CopyKind
  src : Word
  dst : Word
  p2 : Word
  p3 : Word
  p4 : Word
  prog : Nat
  sg : Nat
  pe : Bool
  scope : Nat
  state : ChanState
  npois : Nat
  err : Nat
  fpois : Nat
  pages : List (Nat × Word × Bool)
  inv : Nat
  slot : Nat
  deriving DecidableEq, Repr

/-- The matrix instructions that enter the queue (R376): mma stands for MMA and, with set, for MMAS. -/
inductive MatKind where
  | zero | mma (set : Bool) | push | load | scale | wait
  deriving DecidableEq, Repr

/-- An operand of a queued matrix instruction as its issue left it: the register it names and the next, and a captured operand's
elements with the columns of its port (R378, R381). -/
structure MatIn where
  x : Word
  y : Word
  els : List Elem
  cols : Nat
  deriving DecidableEq, Repr

/-- A matrix instruction in the tile's queue (R376), which the unit performs at its completion (R156): its word and fields, the issuing
context and its invocation, its active lanes, the issue's rounding mode, its operands, the factors of an MSCL and the port of an
MRDQ with the position reserved there (R385); own are the scratch bytes that its context has stored to since, each as it stood before,
with its mark: an MMA does not see those stores (R136, R378). -/
structure MatOp where
  word : Word
  c : Nat
  inv : Nat
  o : MFmt
  kind : MatKind
  mask : Word
  rnd : Nat
  a : MatIn
  b : MatIn
  f : Lanes
  push : Option PushTo
  own : List (Nat × Byte × Bool)
  deriving DecidableEq, Repr

/-- A row of an accumulator (R201): 128 FP32 elements and the poison marks of its 8 granules (R288). -/
structure AccRow where
  cells : Vector Lane 128
  pois : BitVec 8
  deriving DecidableEq, Repr

/-- The region whose route plane a coach follows: die and slot (entry 22). -/
abbrev Plane := Option (Nat × Nat)

/-- A coach that waits to enter a loop: in a send queue, at a junction, or back from a siding; code is the stop code it goes
to, with a home stop resolved. -/
structure Entrant where
  coach : Coach
  code : Word
  plane : Plane
  deriving DecidableEq, Repr

/-- A compute tile (R201-R224) and its part of the armed region (R91-R93, R98). back holds the coaches back from the siding
that found their arrival queue full (R197). -/
structure Tile where
  pred : BitVec 8
  sigs : Vector Lane 8
  acc : Tbl AccRow
  apes : Tbl Ape
  chans : Tbl Chan
  mq : List MatOp
  sendq : List Entrant
  back : List Entrant
  arr : Vector (List Coach) 4
  trg : Vector Word 32
  presets : List (Vector Word 6)
  code : Word
  rver : Nat
  tver : Nat
  age : Vector Nat 16
  promo : Vector (Option Nat) 16
  onego : BitVec 16
  ctxs : Tbl Context
  deriving DecidableEq, Repr

/-- A depot address generator as it runs (R229): its record as read at go, the next element and pass. -/
structure Gen where
  on : Bool
  record : Vector Word 8
  n : Nat
  pass : Nat
  deriving DecidableEq, Repr

/-- A depot tile (R225-R229): its split and generators, and the line count of the sampler (R128). -/
structure Depot where
  cend : Nat
  pend : Nat
  fend : Nat
  gens : Tbl Gen
  hot : Nat
  deriving DecidableEq, Repr

/-- Region states (R102). -/
inductive RState where
  | empty | loaded | arming | armed | draining | quiescing | saving | preempted | restoring | frozen
  deriving DecidableEq, Repr

/-- Where a save-area fault struck (R460). -/
inductive SaveFault where
  | none | saving | restoring | eret
  deriving DecidableEq, Repr

/-- A barrier of a region (R430): the count, n, and the contexts waiting (tile, context). -/
structure Bar where
  count : Nat
  n : Nat
  waiting : List (Nat × Nat)
  deriving DecidableEq, Repr

/-- A coach in a region's siding (R183): its record's reason, queue, tile and time, and the coach; queued tells that
it was queued at a pre-emption (R106). The record's bytes also stand in the siding's depot. -/
structure Sided where
  reason : Nat
  aq : Nat
  tile : Nat
  time : Word
  coach : Coach
  queued : Bool
  deriving DecidableEq, Repr

/-- A context whose image stands in the save area (R106): tile, number, and what the area does not hold: the time of
its fire, the invocation's number, whether it has taken its WATCHDOG (R282), the links of a running handler (the chain block keeps those
of the trap, R271), its latches with their flags, and how much of a push to other modules is written (R166). -/
structure SavedCtx where
  tile : Nat
  c : Nat
  fired : Nat
  inv : Nat
  wdogDone : Bool
  links : Option (List Link)
  latches : Tbl Latch
  part : Option (Nat × Nat)
  deriving DecidableEq, Repr

/-- A region slot (R87-R109): the configuration copy (header words, trigger slots, route entries, presets), the route plane that
the depots of the region hold for their stops, its version and entries (R98, R174), its state, and the REG registers. wpar holds g24-g27 of a fire (R69); rearm tells that an ARM waits for the region's
invocations (R100), resuming that the arming ends a RESTORING (R98), forced that its drain is forced, freezing that a
freeze is saving, pend the trap record that it will write (R286), saved the contexts in the save area, pausedAt and away when the time
that no watchdog counts began and how much of it has passed before (R282), blocks the tiles whose blocks R101 wrote, chans their
channels as they stood (tile, channel), mqs what a pre-emption left in the matrix queues of its tiles (R104, R166). -/
structure Slot where
  state : RState
  hdr : Vector Word 16
  trg : Vector Word 32
  routes : List (Vector Word 8)
  plane : Option (Nat × List (Vector Word 8))
  presets : List (Vector Word 6)
  hasR : Bool
  hasT : Bool
  owner : Option Nat
  count : Nat
  target : Nat
  args : Word
  wpar : Vector Word 4
  whold : Nat
  ptbr : Word
  grant : Word
  finfo : Word
  fva : Word
  fpos : Word
  xv : Bool
  x : Nat
  drops : Nat
  siding : List Sided
  ovf : Nat
  total : Nat
  sreason : Nat
  trapcfg : Word
  trapinfo : Word
  trapval : Word
  wdog : Nat
  bars : Tbl Bar
  boot : Bool
  rearm : Bool
  resuming : Bool
  forced : Bool
  freezing : Bool
  pend : Option (Word × Word)
  saved : List SavedCtx
  pausedAt : Nat
  away : Nat
  blocks : List Nat
  chans : List (Nat × Nat × Chan)
  mqs : List (Nat × List MatOp)
  sfault : SaveFault
  deriving DecidableEq, Repr

/-- A launch queue (R61-R67, R75): the descriptor copy and its counts. -/
structure Queue where
  ok : Bool
  ring : Nat
  lsize : Nat
  prio : Nat
  head : Word
  done : Word
  err : Word
  tail : Word
  berth : List (Vector Word 8)
  nberth : Nat
  nrun : Nat
  deriving DecidableEq, Repr

/-- What a walker does (R67-R71). -/
inductive WState where
  | idle
  | run
  | count (slot : Nat)
  | slot (slot : Nat)
  | sct
  deriving DecidableEq, Repr

/-- A record walker (R67, R68): words is the node it stands at; begun tells that an ARM node has
started its arming, seen the entries an SCT node has found RESIDENT. -/
structure Walker where
  st : WState
  record : Vector Word 8
  queue : Nat
  src : Nat
  index : Nat
  boot : Bool
  node : Nat
  reps : List (Nat × Nat)
  owns : List Nat
  arms : List Nat
  holds : List Nat
  deadline : Option Nat
  paused : Option Nat
  ending : Option Nat
  words : Vector Word 4
  begun : Bool
  seen : List Nat
  deriving DecidableEq, Repr

/-- A timetable entry (R72): image words 0-3, the launch record, and its counts. -/
structure TTEntry where
  img : Vector Word 4
  record : Vector Word 8
  next : Word
  last : Word
  fires : Nat
  misses : Nat
  k : Nat
  left : Nat
  en : Bool
  deriving DecidableEq, Repr

/-- States of a stream context entry (R78). -/
inductive ScState where
  | free | evicted | restoring | resident | evicting
  deriving DecidableEq, Repr

/-- A stream context entry (R78). want tells that a restore waits for its frame; freeing that an SCFREE waits
for it, with the walker that took it (R79). -/
structure Stc where
  back : Word
  last : Word
  state : ScState
  size : Nat
  frame : Nat
  holds : Nat
  idle : Nat
  evic : Nat
  want : Bool
  freeing : Option Nat
  deriving DecidableEq, Repr

/-- A die's signal box (R61, R67, R72, R76-R80). -/
structure SigBox where
  sbbase : Word
  stccfg : Word
  queues : Tbl Queue
  walkers : Tbl Walker
  ttab : Tbl TTEntry
  stc : Tbl Stc
  scan : Nat
  deriving DecidableEq, Repr

/-- Loops (R168). The module's part of the pod loop is its gateway's stop. -/
inductive LoopId where
  | row (die r : Nat)
  | die (die : Nat)
  | package
  | pod
  deriving DecidableEq, Repr

/-- A coach on a loop (R178-R181): the loop, its stop there, its direction (up is rising loop order, on the pod loop
downstream), the stop at which it leaves the loop, and the stop code it goes to with a home stop resolved (R175).
tried tells that it has tried to leave at its present stop, passed when it first passed its exit by (R179), turned the
direction that it keeps since it turned on the pod loop (R40, R181), linked that it came to its stop over a pod link. The
coaches of one stop and direction stand in the order of their arrival there (R180). -/
structure Transit where
  id : Nat
  coach : Coach
  loop : LoopId
  stop : Nat
  up : Bool
  exit : Nat
  code : Word
  tried : Bool
  passed : Option Nat
  turned : Option Bool
  linked : Bool
  plane : Plane
  deriving DecidableEq, Repr

/-- A reduction slot (R190, R191): its rid, op, payload bytes, want, got, deadline, the header of the contribution that
allocated it, the contributions counted so far, whether one mismatched, and that its close is in progress. -/
structure RedSlot where
  rid : Nat
  op : Nat
  n : Nat
  want : Word
  got : Word
  deadline : Nat
  hdr : Vector Word 8
  terms : List Coach
  mismatch : Bool
  closing : Bool
  plane : Plane
  deriving DecidableEq, Repr

/-- A merge unit (R186). -/
structure MergeUnit where
  mid : Nat
  iter : Nat
  part : Nat
  np : Nat
  held : List Entrant
  deriving DecidableEq, Repr

/-- A contribution in the junction siding (R193). -/
structure JWait where
  coach : Coach
  deadline : Nat
  plane : Plane
  deriving DecidableEq, Repr

/-- A junction or the gateway (R168): reduction slots, merge units, junction siding, and coaches released there that
wait for berths (result coaches, by the rid of their slot, and merged parts). -/
structure Junction where
  red : List RedSlot
  mrg : List MergeUnit
  side : List JWait
  out : List (Entrant × Option Nat)
  deriving DecidableEq, Repr

/-- One direction of the pod loop (R34-R38): the link to one neighbour. seq numbers its next data frame, replay holds the
frames not acknowledged with the time of the oldest's last sending, replays counts the replays of the oldest frame; rseq is
the next sequence number wanted from the neighbour, early the frames that came before it, part the flits of a coach not
yet whole, and held the coaches that wait to enter the gateway's berths (R178); credit counts free berths there, freed those
freed here. -/
structure PodLink where
  seq : Nat
  replay : List FrameIn
  sentAt : Nat
  replays : Nat
  rseq : Nat
  early : List FrameIn
  part : List (List Byte)
  held : List Entrant
  credit : Nat
  freed : Nat
  unacked : Bool
  deriving DecidableEq, Repr

/-- An Ethernet port (R25, R26, R29, R33): its GIDs, the priority that PFC makes lossless, and whether its peer has stopped it. -/
structure Port where
  up : Bool
  dropped : Nat
  retrains : Nat
  gids : Tbl (BitVec 128)
  pfc : Option Nat
  paused : Bool
  deriving DecidableEq, Repr

/-- A posted request that is not acknowledged: its first packet sequence number, how many it takes, the bytes it sends, and whether a
stopped priority holds it back. -/
structure Posted where
  psn : Nat
  pkts : Nat
  req : PostIn
  data : List Byte
  held : Bool
  deriving DecidableEq, Repr

/-- A queue pair (R27-R33). epsn is the next packet sequence number expected from the host, nakSent that a sequence error has been
answered since, saved the results of the last 64 atomics by sequence number; spsn is the module's next number, posted its requests
in order, dcq the DCQCN parameters of the firmware. -/
structure QP where
  conn : Bool
  err : Bool
  port : Nat
  mtu : Nat
  timer : Nat
  dscp : Nat
  rate : Nat
  cnpAt : Option Nat
  recv : List (Word × Nat)
  epsn : Nat
  nakSent : Bool
  saved : List (Nat × Word)
  spsn : Nat
  posted : List Posted
  dcq : List Nat
  deriving DecidableEq, Repr

/-- A memory region (R30). -/
structure MR where
  used : Bool
  key : Nat
  base : Word
  len : Nat
  root : Word
  rd : Bool
  wr : Bool
  at_ : Bool
  deriving DecidableEq, Repr

/-- Results of a host operation (R28, R31). -/
inductive HostReply where
  | ack | nakInvalid | nakAccess | nakOp | rnr (timer : Nat) | nakSeq (psn : Nat)
  | data (bs : List Byte) | old (v : Word)
  deriving DecidableEq, Repr

/-- What the module sends to the outside. -/
inductive Out where
  | host (qp : Nat) (r : HostReply)
  | deliver (qp : Nat) (addr : Word) (n : Nat) (imm : Option (BitVec 32)) (lenErr : Bool)
  | cnp (qp : Nat)
  | cm (port qp : Nat)
  | request (qp : Nat) (p : Posted)
  | delayReq (port domain : Nat)
  | frame (down : Bool) (f : FrameIn)
  | remote (down : Bool) (r : RemoteReq)
  | recovery (port : Nat) (offset : Word)
  | report (bs : List Byte)
  | event (code : Nat) (info : Word)
  deriving DecidableEq, Repr

/-- A cached translation (R121): the unit that holds it (a depot's slice by die and depot tile number, or 1,024 above a compute tile's
micro-TLB), whether it is a 64 KiB piece or a 4 KiB page, ASID, the number of that piece of the VA, its physical piece, type and
rights. -/
structure TlbEntry where
  unit : Nat
  big : Bool
  asid : Nat
  vpn : Nat
  ppn : Nat
  mt : Nat
  u : Bool
  x : Bool
  w : Bool
  rd : Bool
  deriving DecidableEq, Repr

/-- Kinds of access (R120, R127). -/
inductive Acc where
  | read | write | rmw | fetch | line
  deriving DecidableEq, Repr

/-- A withholding agent (R123-R125); next is when its next walk is due (R124). -/
structure Withheld where
  u : UnitRef
  slot : Nat
  va : Nat
  acc : Acc
  level : Nat
  code : Nat
  since : Nat
  next : Nat
  pos : Option Nat
  deriving DecidableEq, Repr

/-- An event started by the hardware: when it is due (time-domain count), which, and about what. -/
structure Pending where
  due : Nat
  ev : Instr
  arg : Arg
  deriving DecidableEq, Repr

/-- Which agent moves next, when the script says so (entry 3). -/
inductive Choice where
  | issue (a : Agent)
  | event (k : Nat)
  | idle
  deriving DecidableEq, Repr

/-- The power and clock controller (R20-R23): fields of SYS.CLKSTAT, the last 1,000 samples in mW, and for how many
1 us samples each condition has held. -/
structure Power where
  step : Nat
  cause : Nat
  thr : Nat
  tj : Nat
  samples : List Nat
  above : Nat
  tPower : Nat
  tThermal : Nat
  calm : Nat
  stopped : Bool
  deriving DecidableEq, Repr

/-- Starts (R49-R56): SYS.BOOTSTAT and SYS.BOOTCTL fields, the step in progress, recovery mode and its image, the firmware
of the last start (entry 5), and the repair table (R456): failing scratch lines by global tile number. -/
structure Boot where
  step : Nat
  kind : Nat
  failStep : Nat
  failCode : Nat
  svn : Nat
  pres : Bool
  npres : Nat
  cur : Nat
  recovery : Bool
  image : Tbl Byte
  halted : Bool
  repair : Tbl (List Nat)
  fw : Option FwIn
  deriving DecidableEq, Repr

/-- Flash banks and fuses (R54-R57). digests are the four key digests, revoked their revoke fuses. -/
structure Flash where
  bank0 : List Byte
  bank1 : List Byte
  active : Nat
  minSvn : Nat
  digests : List (List Byte)
  revoked : List Bool
  seed : List Byte
  serial : List Byte
  fuses : List Byte
  deriving DecidableEq, Repr

/-- The counters of the lifetime records (R59). -/
structure Lifetime where
  temps : Tbl Nat
  droops : Nat
  droopTimes : List Word
  eccDepot : Tbl Nat
  eccStack : Tbl Nat
  retrains : Tbl Nat
  stuck : Nat
  timeouts : Nat
  colds : Nat
  warms : Nat
  thermals : Nat
  recoveries : Nat
  deriving DecidableEq, Repr

/-- A flash copy of the lifetime records (R59): sequence number, digest and counters. -/
structure LifeCopy where
  seq : Nat
  valid : Bool
  image : Lifetime
  deriving DecidableEq, Repr

/-- PTP servo (R47, R48). since counts Sync intervals that meet the next state's condition. -/
structure Ptp where
  offset : BitVec 32
  port : Nat
  domain : Nat
  state : Nat
  since : Nat
  announce : Nat
  everLocked : Bool
  deriving DecidableEq, Repr

/-- Registers of the module as a whole; cycles counts tenths of core cycles of the compute dies (R18, R19). -/
structure Sys where
  power : Power
  boot : Boot
  bootwalk : Word
  svtvec : Word
  evpend : Nat
  time : Word
  timerate : BitVec 32
  clock : Nat
  cycles : Nat
  frac : Int
  ptp : Ptp
  podcfg : Word
  svptbr : Word
  podptbr : Word
  hotcfg : Word
  hotbase : Word
  hotk : Word
  kdrop : Vector Word 4
  on : Bool
  deriving DecidableEq, Repr

/-- A request of a unit to another module that is under way (R40): the unit, its tag, what it asks for, and its number. -/
structure Asked where
  u : UnitRef
  tag : Nat
  m : Nat
  va : Nat
  op : RemoteOp
  id : Nat
  deriving DecidableEq, Repr

/-- Network state (R25-R41). waiting holds requests that wait for a link; asked the requests under way; got the replies that have
come; around the coaches that passed their exit to this module by and are
on their way round the pod loop (R179). -/
structure Net where
  ports : Tbl Port
  down : PodLink
  up : PodLink
  qps : Tbl QP
  mrs : Tbl MR
  waiting : List RemoteReq
  asked : List Asked
  got : List RemoteReq
  around : List Transit
  deriving DecidableEq, Repr

/-- The state of the module. stuck lists the defects of scratch and of vector registers: key of the byte, bit, and the value it is stuck
at (R458, R459). -/
structure State where
  mem : Memory
  poison : List Nat
  stuck : List (Nat × Nat × Bool)
  l2 : Tbl Bool
  tlb : List TlbEntry
  tiles : Tbl Tile
  depots : Tbl Depot
  slots : Tbl Slot
  boxes : Tbl SigBox
  cores : Tbl Core
  transit : List Transit
  juncs : Tbl Junction
  withheld : List Withheld
  sys : Sys
  net : Net
  flash : Flash
  life : Lifetime
  copies : List LifeCopy
  cur : Agent
  ir : Word
  arg : Arg
  inbox : List (Instr × Arg)
  agenda : List Pending
  script : List Choice
  outbox : List Out
  steps : Nat
  uid : Nat
  freeCtr : Nat
  deriving DecidableEq, Repr

/-- Eight zero words. -/
def zero8 : Vector Word 8 := Vector.ofFn fun _ => 0
/-- Four zero words. -/
def zero4 : Vector Word 4 := Vector.ofFn fun _ => 0
/-- A register of +0 in every lane. -/
def Lanes.zero : Lanes := Vector.ofFn fun _ => 0

/-- No cause (R276). -/
def Cause.init : Cause := { active := false, async := false, loc := 0, code := 0 }

/-- The values of a fire (R94, R276); before a fire they stand for the values no rule gives (entry 6). -/
def Hart.init : Hart :=
  { g := Vector.ofFn fun _ => 0, pc := 0, epc := 0, cause := .init, tval := 0, wait := .run, word := 0, issue := 0,
    nissue := 0, prev := 0,
    nbv := 2, rnd := 0, fflags := 0, stall := 0, peak := 0, cutcnt := 0 }

/-- An unbound port. -/
def PortBind.init : PortBind := { bnd := false, kb := false, ape := 0, ncol := 0, typ := 0, pos := 0 }

/-- An empty replay latch. -/
def Latch.init : Latch := { valid := false, lanes := .zero, mask := 0, pois := 0, addr := 0, fl := .zero, pos := 0 }

/-- A context that holds no invocation. -/
def Context.init : Context :=
  { hart := .init, live := false, coach := false, cls := 0, rver := 0, tver := 0, inv := 0, m := zero8, v := Vector.ofFn fun _ => .zero,
    cut := Vector.ofFn fun _ => 0, links := [], ports := Vector.ofFn fun _ => .init, latches := [], q6 := none,
    q7 := none, fired := 0, wdogDone := false, checked := [], read := none, part := none, late := [] }

/-- A supervisor core that firmware has not started (entry 5). -/
def Core.init : Core := { hart := .init, running := false, stopped := false, wlim := 0, wstart := 0, wdone := false }

/-- An APE of zeros. -/
def Ape.init : Ape :=
  { cfg := Vector.ofFn fun _ => 0, pos := 0, fin := false, wh := false, ahead := [], fed := [], holder := none,
    page := none }

/-- An idle channel. -/
def Chan.init : Chan :=
  { kind := .cpy, src := 0, dst := 0, p2 := 0, p3 := 0, p4 := 0, prog := 0, sg := 0, pe := false, scope := 0,
    state := .idle, npois := 0, err := 0, fpois := 0, pages := [], inv := 0, slot := 0 }

/-- A row of +0 without marks. -/
def AccRow.init : AccRow := { cells := Vector.ofFn fun _ => 0, pois := 0 }

/-- A compute tile after a start (R50, R202). -/
def Tile.init : Tile :=
  { pred := 1, sigs := Vector.ofFn fun _ => 0, acc := [], apes := [], chans := [], mq := [], sendq := [], back := [],
    arr := Vector.ofFn fun _ => [], trg := Vector.ofFn fun _ => 0, presets := [], code := 0, rver := 0, tver := 0,
    age := Vector.ofFn fun _ => 0, promo := Vector.ofFn fun _ => none, onego := 0, ctxs := [] }

/-- A stopped generator. -/
def Gen.init : Gen := { on := false, record := zero8, n := 0, pass := 0 }

/-- A depot after a start: all cache (R226). -/
def Depot.init : Depot := { cend := 128, pend := 128, fend := 128, gens := [], hot := 0 }

/-- A barrier with no arrivals. -/
def Bar.init : Bar := { count := 0, n := 0, waiting := [] }

/-- An EMPTY slot (R102, and the reset values of the REG registers). -/
def Slot.init : Slot :=
  { state := .empty, hdr := Vector.ofFn fun _ => 0, trg := Vector.ofFn fun _ => 0, routes := [], plane := none, presets := [],
    hasR := false, hasT := false, owner := none, count := 0, target := 0, args := 0, wpar := zero4, whold := 0x14,
    ptbr := 0, grant := 0, finfo := 0, fva := 0, fpos := 0, xv := false, x := 0, drops := 0, siding := [], ovf := 0,
    total := 0, sreason := 0, trapcfg := 0, trapinfo := 0, trapval := 0, wdog := 0, bars := [], boot := false,
    rearm := false, resuming := false, forced := false, freezing := false, pend := none, saved := [], pausedAt := 0, away := 0, blocks := [], chans := [], mqs := [],
    sfault := .none }

/-- A disabled queue. -/
def Queue.init : Queue :=
  { ok := false, ring := 0, lsize := 0, prio := 0, head := 0, done := 0, err := 0, tail := 0, berth := [], nberth := 0,
    nrun := 0 }

/-- An idle walker. -/
def Walker.init : Walker :=
  { st := .idle, record := zero8, queue := 0, src := 0, index := 0, boot := false, node := 0, reps := [], owns := [],
    arms := [], holds := [], deadline := none, paused := none, ending := none, words := zero4,
    begun := false, seen := [] }

/-- A disabled timetable entry. -/
def TTEntry.init : TTEntry :=
  { img := zero4, record := zero8, next := 0, last := 0, fires := 0, misses := 0, k := 0, left := 0, en := false }

/-- A FREE stream context (R78). -/
def Stc.init : Stc :=
  { back := 0, last := 0, state := .free, size := 0, frame := 0, holds := 0, idle := 0, evic := 0, want := false,
    freeing := none }

/-- A signal box at reset. -/
def SigBox.init : SigBox := { sbbase := 0, stccfg := 0, queues := [], walkers := [], ttab := [], stc := [], scan := 0 }

/-- A junction that holds nothing. -/
def Junction.init : Junction := { red := [], mrg := [], side := [], out := [] }

/-- A pod link that has carried nothing: both berths of the neighbour are free. -/
def PodLink.init : PodLink :=
  { seq := 0, replay := [], sentAt := 0, replays := 0, rseq := 0, early := [], part := [], held := [], credit := 2, freed := 0,
    unacked := false }

/-- A port that is down (R25). -/
def Port.init : Port := { up := false, dropped := 0, retrains := 0, gids := [], pfc := none, paused := false }

/-- An unconnected QP. -/
def QP.init : QP :=
  { conn := false, err := false, port := 0, mtu := 0, timer := 0, dscp := 0, rate := 0, cnpAt := none, recv := [], epsn := 0, nakSent := false,
    saved := [], spsn := 0, posted := [], dcq := [] }

/-- An unused memory region. -/
def MR.init : MR :=
  { used := false, key := 0, base := 0, len := 0, root := 0, rd := false, wr := false, at_ := false }

/-- Lifetime counters of zero (R59). -/
def Lifetime.init : Lifetime :=
  { temps := [], droops := 0, droopTimes := [], eccDepot := [], eccStack := [], retrains := [], stuck := 0,
    timeouts := 0, colds := 0, warms := 0, thermals := 0, recoveries := 0 }

/-- The registers of the module at reset (R23, R39, R45-R47, R53, R115, R128, R184, R278, R434, R453). -/
def Sys.init : Sys :=
  { power := { step := 0, cause := 0, thr := 0, tj := 0, samples := [], above := 0, tPower := 0, tThermal := 0, calm := 0,
               stopped := false },
    boot := { step := 0, kind := 0, failStep := 0, failCode := 0, svn := 0, pres := false, npres := 0, cur := 0,
              recovery := false, image := [], halted := false, repair := [], fw := none },
    bootwalk := 0, svtvec := 0, evpend := 0, time := 0, timerate := 0, clock := 0, cycles := 0, frac := 0,
    ptp := { offset := 0, port := 0, domain := 0, state := 0, since := 0, announce := 0, everLocked := false },
    podcfg := 0x000088B500010000, svptbr := 0, podptbr := 0, hotcfg := 0x708, hotbase := 0, hotk := 0, kdrop := zero4,
    on := false }

/-- The machine before power-on, each register at the reset value the spec gives or the assumption log names. -/
def State.reset : State :=
  { mem := [], poison := [], stuck := [], l2 := [], tlb := [], tiles := [], depots := [], slots := [], boxes := [], cores := [],
    transit := [], juncs := [], withheld := [], sys := .init,
    net := { ports := [], down := .init, up := .init, qps := [], mrs := [], waiting := [], asked := [], got := [], around := [] },
    flash := { bank0 := [], bank1 := [], active := 0, minSvn := 0, digests := [], revoked := [], seed := [], serial := [],
               fuses := [] },
    life := .init, copies := [], cur := .core 0, ir := 0, arg := .noRef, inbox := [], agenda := [], script := [],
    outbox := [], steps := 0, uid := 0, freeCtr := 0 }

end Sys2Proof.Machine
end

