-- ==== Sys2Proof/Machine/Ops.lean ====
section
/-! DEFINITION. The named operations over tables, memory and registers: sparse tables, bytes of memory, the access
of the state by tile, context, slot and core, general registers, the program counter, time and events. -/

namespace Sys2Proof.Machine

/-- The value at index k, d where the table lists none. -/
def Tbl.get {α : Type} : Tbl α → Nat → α → α
  | [], _, d => d
  | (i, v) :: r, k, d => if i = k then v else Tbl.get r k d

/-- The table with v at index k. -/
def Tbl.set {α : Type} : Tbl α → Nat → α → Tbl α
  | [], k, v => [(k, v)]
  | (i, w) :: r, k, v => if k < i then (k, v) :: (i, w) :: r else if i = k then (k, v) :: r else (i, w) :: Tbl.set r k v

/-- Entry i of a vector, d beyond its end. -/
def vget {α : Type} {n : Nat} (v : Vector α n) (i : Nat) (d : α) : α := if h : i < n then v[i] else d

/-- The vector with x at entry i, unchanged beyond its end. -/
def vput {α : Type} {n : Nat} (v : Vector α n) (i : Nat) (x : α) : Vector α n := if h : i < n then v.set i x h else v

/-- Bits h down to l of a word as a number. -/
def bits (w : Word) (h l : Nat) : Nat := (w.toNat >>> l) % 2 ^ (h - l + 1)

/-- Bit i of a word. -/
def bit (w : Word) (i : Nat) : Bool := w.getLsbD i

/-- A flag as a number. -/
def b2n (b : Bool) : Nat := if b then 1 else 0

/-- A word from a number, modulo 2^64 (R9, Wrap64). -/
def w64 (n : Nat) : Word := BitVec.ofNat 64 n

/-- A number limited to a maximum: the counters that stick. -/
def stick (n max : Nat) : Nat := if n < max then n else max

/-- A lifetime counter one higher: 64 bits, and it sticks at its maximum (R59). -/
def bump (n : Nat) : Nat := stick (n + 1) (2 ^ 64 - 1)

/-- The least multiple of m not below n, over m. -/
def ceilDiv (n m : Nat) : Nat := (n + m - 1) / m

/-! Memory. -/

/-- The byte at key a; an unlisted byte reads 0 (entry 7). -/
def Memory.byte : Memory → Nat → Byte
  | [], _ => 0
  | (k, b) :: r, a => if k = a then b else Memory.byte r a

/-- The cells of bytes that stand from key a on, those of 0 left out. -/
def cellsFrom : Nat → List Byte → Memory
  | _, [] => []
  | a, b :: bs => if b = 0 then cellsFrom (a + 1) bs else (a, b) :: cellsFrom (a + 1) bs

/-- Bytes bs stored from key a on; every other byte stays. -/
def Memory.put (m : Memory) (a : Nat) (bs : List Byte) : Memory :=
  m.filter (fun c => c.1 < a) ++ cellsFrom a bs ++ m.filter (fun c => a + bs.length ≤ c.1)

/-- n bytes from key a on. -/
def Memory.bytes (m : Memory) (a n : Nat) : List Byte := (List.range n).map fun i => m.byte (a + i)

/-- Little-endian value of bytes (R3). -/
def leVal : List Byte → Nat
  | [] => 0
  | b :: bs => b.toNat + 256 * leVal bs

/-- The n low bytes of a number, lowest first (R3). -/
def leOf : Nat → Nat → List Byte
  | 0, _ => []
  | n + 1, v => BitVec.ofNat 8 v :: leOf n (v / 256)

/-- The canonical form: keys strictly rising, no byte of 0. -/
abbrev Memory.wf (m : Memory) : Prop := m.Pairwise (fun x y => x.1 < y.1) ∧ ∀ c ∈ m, c.2 ≠ 0

/-- The key of an offset in a depot's SRAM (R13). -/
def depotKey (die dep off : Nat) : Nat := 2 ^ 40 + die * 2 ^ 30 + dep * 2 ^ 23 + off

/-- The key of an offset in a compute tile's scratch (R203). -/
def scratchKey (die tile off : Nat) : Nat := 2 ^ 41 + (die * 256 + tile) * 2 ^ 19 + off

/-- The key of a byte of the L2 copy of a physical address (R138). -/
def copyKey (pa : Nat) : Nat := 2 ^ 42 + pa

/-! Parts of the state. -/

/-- A compute tile by die and tile index. -/
def State.tile (s : State) (d t : Nat) : Tile := s.tiles.get (d * 256 + t) .init
/-- The state with a compute tile changed. -/
def State.modTile (s : State) (d t : Nat) (f : Tile → Tile) : State :=
  { s with tiles := s.tiles.set (d * 256 + t) (f (s.tile d t)) }
/-- A context of a compute tile. -/
def Tile.ctx (t : Tile) (c : Nat) : Context := t.ctxs.get c .init
/-- The tile with a context changed. -/
def Tile.modCtx (t : Tile) (c : Nat) (f : Context → Context) : Tile := { t with ctxs := t.ctxs.set c (f (t.ctx c)) }
/-- Context c of a tile. -/
def State.ctx (s : State) (d t c : Nat) : Context := (s.tile d t).ctx c
/-- The state with a context changed. -/
def State.modCtx (s : State) (d t c : Nat) (f : Context → Context) : State := s.modTile d t fun x => x.modCtx c f
/-- A supervisor core. -/
def State.core (s : State) (n : Nat) : Core := s.cores.get n .init
/-- The state with a core changed. -/
def State.modCore (s : State) (n : Nat) (f : Core → Core) : State := { s with cores := s.cores.set n (f (s.core n)) }
/-- A region slot of a die. -/
def State.slot (s : State) (d i : Nat) : Slot := s.slots.get (d * 16 + i) .init
/-- The state with a slot changed. -/
def State.modSlot (s : State) (d i : Nat) (f : Slot → Slot) : State :=
  { s with slots := s.slots.set (d * 16 + i) (f (s.slot d i)) }
/-- The signal box of a die. -/
def State.box (s : State) (d : Nat) : SigBox := s.boxes.get d .init
/-- The state with a signal box changed. -/
def State.modBox (s : State) (d : Nat) (f : SigBox → SigBox) : State := { s with boxes := s.boxes.set d (f (s.box d)) }
/-- A depot tile by die and depot tile number. -/
def State.depot (s : State) (d n : Nat) : Depot := s.depots.get (d * 128 + n) .init
/-- The state with a depot changed. -/
def State.modDepot (s : State) (d n : Nat) (f : Depot → Depot) : State :=
  { s with depots := s.depots.set (d * 128 + n) (f (s.depot d n)) }
/-- A junction, or the gateway (64). -/
def State.junc (s : State) (j : Nat) : Junction := s.juncs.get j .init
/-- The state with a junction changed. -/
def State.modJunc (s : State) (j : Nat) (f : Junction → Junction) : State := { s with juncs := s.juncs.set j (f (s.junc j)) }
/-- The state with the module's registers changed. -/
def State.modSys (s : State) (f : Sys → Sys) : State := { s with sys := f s.sys }
/-- An APE of a tile. -/
def Tile.ape (t : Tile) (e : Nat) : Ape := t.apes.get e .init
/-- The tile with an APE changed. -/
def Tile.modApe (t : Tile) (e : Nat) (f : Ape → Ape) : Tile := { t with apes := t.apes.set e (f (t.ape e)) }
/-- A copy channel of a tile. -/
def Tile.chan (t : Tile) (c : Nat) : Chan := t.chans.get c .init
/-- The tile with a copy channel changed. -/
def Tile.modChan (t : Tile) (c : Nat) (f : Chan → Chan) : Tile := { t with chans := t.chans.set c (f (t.chan c)) }
/-- A walker of a signal box. -/
def SigBox.walker (b : SigBox) (w : Nat) : Walker := b.walkers.get w .init
/-- The state with a walker changed. -/
def State.modWalker (s : State) (d w : Nat) (f : Walker → Walker) : State :=
  s.modBox d fun b => { b with walkers := b.walkers.set w (f (b.walker w)) }
/-- A queue of a signal box. -/
def SigBox.queue (b : SigBox) (q : Nat) : Queue := b.queues.get q .init
/-- The state with a queue changed. -/
def State.modQueue (s : State) (d q : Nat) (f : Queue → Queue) : State :=
  s.modBox d fun b => { b with queues := b.queues.set q (f (b.queue q)) }
/-- A stream context entry. -/
def SigBox.entry (b : SigBox) (i : Nat) : Stc := b.stc.get i .init
/-- The state with a stream context entry changed. -/
def State.modStc (s : State) (d i : Nat) (f : Stc → Stc) : State :=
  s.modBox d fun b => { b with stc := b.stc.set i (f (b.entry i)) }

/-! The agent whose instruction executes. -/

/-- Whether the executing agent is a supervisor core. -/
def State.onCore (s : State) : Bool := match s.cur with | .core _ => true | .ctx .. => false
/-- Die of the executing context; 0 on a supervisor core, which lies on no die (R10). -/
def State.die (s : State) : Nat := match s.cur with | .ctx d _ _ => d | .core _ => 0
/-- Tile index of the executing context. -/
def State.tix (s : State) : Nat := match s.cur with | .ctx _ t _ => t | .core _ => 0
/-- Number of the executing context or core. -/
def State.cix (s : State) : Nat := match s.cur with | .ctx _ _ c => c | .core n => n
/-- Tile of the executing context. -/
def State.myTile (s : State) : Tile := s.tile s.die s.tix
/-- The executing context. -/
def State.me (s : State) : Context := s.ctx s.die s.tix s.cix
/-- The state with the executing context's tile changed. -/
def State.modMyTile (s : State) (f : Tile → Tile) : State := s.modTile s.die s.tix f
/-- The state with the executing context changed. -/
def State.modMe (s : State) (f : Context → Context) : State := s.modCtx s.die s.tix s.cix f

/-- The registers of an agent. -/
def State.hartOf (s : State) (a : Agent) : Hart :=
  match a with | .ctx d t c => (s.ctx d t c).hart | .core n => (s.core n).hart
/-- The state with an agent's registers changed. -/
def State.modHartOf (s : State) (a : Agent) (f : Hart → Hart) : State :=
  match a with
  | .ctx d t c => s.modCtx d t c fun x => { x with hart := f x.hart }
  | .core n => s.modCore n fun x => { x with hart := f x.hart }
/-- The registers of the executing agent. -/
def State.hart (s : State) : Hart := s.hartOf s.cur
/-- The state with the executing agent's registers changed. -/
def State.modHart (s : State) (f : Hart → Hart) : State := s.modHartOf s.cur f

/-- General register n: g0 reads 0 (R198). -/
def State.getG (s : State) (n : BitVec 5) : Word := if n = 0 then 0 else vget s.hart.g n.toNat 0
/-- Write of general register n: a write to g0 is discarded (R198). -/
def State.setG (s : State) (n : BitVec 5) (v : Word) : State :=
  if n = 0 then s else s.modHart fun h => { h with g := vput h.g n.toNat v }
/-- The program counter of the executing agent. -/
def State.pc (s : State) : Word := s.hart.pc
/-- The program counter set, and the agent no longer waiting. -/
def State.setPc (s : State) (v : Word) : State := s.modHart fun h => { h with pc := v, wait := .run }
/-- The program counter past the instruction (R292), and the agent no longer waiting. -/
def State.advance (s : State) : State := s.modHart fun h => { h with pc := h.pc + 8, wait := .run }
/-- Whether a queued matrix instruction names accumulator n (R375, R384). -/
def MatOp.on (m : MatOp) (n : Nat) : Bool := m.kind != .wait && m.o.acc.toNat == n

/-- Whether a link of the context pushes a port (R257). -/
def Context.pushesPort (x : Context) : Bool := x.links.any fun l => l.push.isSome

/-- Whether a push reserves positions in APE e. -/
def PushTo.isAt (p : PushTo) (e : Nat) : Bool := !p.kb && !p.gone && p.ape == e

/-- Whether pushes to APE e that were reserved before stand before a push of context c (R152): of any link and of the matrix queue for a
push at once (kind 0), of the queue and of other contexts' links for that of a link (1), of links for that of the queue (2). -/
def Tile.turnTaken (t : Tile) (c e kind : Nat) : Bool :=
  let at_ := fun (p : Option PushTo) => p.elim false fun p => p.isAt e
  (t.ctxs.any fun x => (kind != 1 || x.1 != c) && x.2.links.any fun l => at_ l.push) || (kind != 2 && t.mq.any fun m => at_ m.push)

/-- An APE that a capture lets go: it keeps at most 256 elements read ahead (R209, R381). -/
def Ape.letGo (a : Ape) : Ape := { a with holder := none, ahead := a.ahead.take 256 }

/-- Whether APE e is taken by another context than c: its capture holds it, or its push is under way (R152, R381). -/
def Tile.taken (t : Tile) (c e : Nat) : Bool :=
  (t.ape e).holder.getD c != c || t.ctxs.any fun x => x.1 != c && x.2.live && (x.2.part.any fun p => p.1 == e)

/-- Whether a push of context c to q6 is still to write the buffer: a chain link's or an MRDQ's (R257, R385, R411). -/
def Tile.pushing (t : Tile) (c : Nat) : Bool :=
  let x := t.ctxs.get c .init
  let q6 := fun (p : Option PushTo) => match p with | some p => p.kb | none => false
  x.links.any (fun l => q6 l.push) || t.mq.any fun m => m.c == c && m.inv == x.inv && q6 m.push

/-- Whether the instruction that waits so has issued, its guard having been true (R295), and not only waits to issue. -/
def Wait.issued (w : Wait) : Bool :=
  match w with
  | .run | .links _ | .matrix _ | .acc _ | .pushes | .send _ | .channel _ | .yield .. | .fetch => false
  | .settle | .signal .. | .pred .. | .withhold | .ape _ | .bar _ | .time _ | .halt | .stream _ | .loaded _ | .remote _ | .load ..
  | .arming .. | .capture _ | .streams | .turn .. => true

/-- Whether the instruction that waits so is no candidate for issue (R96): a unit queue that it needs is full, the chain has its depth,
its word is not fetched. -/
def Wait.bars (w : Wait) : Bool :=
  match w with
  | .links _ | .matrix _ | .acc _ | .pushes | .send _ | .channel _ | .fetch => true
  | .run | .settle | .signal .. | .pred .. | .yield .. | .withhold | .ape _ | .bar _ | .time _ | .halt | .stream _ | .loaded _ | .remote _
  | .load .. | .arming .. | .capture _ | .streams | .turn .. => false

/-- Registers of an agent whose instruction waits at a word; one that is no candidate has not issued (R96). -/
def Hart.waits (h : Hart) (w : Wait) (word : Word) : Hart :=
  { h with wait := w, word := word, issue := if w.bars then h.prev else h.issue, nissue := if w.bars then h.nissue - 1 else h.nissue }

/-- The instruction waits: it issues again when the wait ends (R96). -/
def State.waits (s : State) (w : Wait) : State := s.modHart fun h => h.waits w s.ir

/-- Mask register n: m0 reads all-ones (R198). -/
def Context.mask (c : Context) (n : Nat) : Word := if n = 0 then BitVec.allOnes 64 else vget c.m n 0
/-- The context with mask n written: a write to m0 is discarded (R198). -/
def Context.setMask (c : Context) (n : Nat) (v : Word) : Context := if n = 0 then c else { c with m := vput c.m n v }

/-! Time and events. -/

/-- The timetable entry that an event fires. -/
def Pending.fires (p : Pending) : Option Nat :=
  match p.ev, p.arg with
  | .timetableFire, .dieIdx o => some o.i
  | _, _ => none

/-- Whether an event comes before another of the agenda: it is due earlier, or both fire timetable entries in the same nanosecond and
its entry is the lower (R75). -/
def Pending.before (p q : Pending) : Bool :=
  p.due < q.due || (p.due == q.due && (match p.fires, q.fires with | some i, some j => decide (i < j) | _, _ => false))

/-- The agenda with an event in order of its due time, behind those due at the same time. -/
def insertDue : List Pending → Pending → List Pending
  | [], p => [p]
  | q :: r, p => if p.before q then p :: q :: r else q :: insertDue r p

/-- The state with an event due after a delay in ns of the time domain. -/
def State.post (s : State) (delay : Nat) (ev : Instr) (arg : Arg) : State :=
  { s with agenda := insertDue s.agenda { due := s.sys.clock + delay, ev := ev, arg := arg } }

/-- A message to the outside. -/
def State.emit (s : State) (o : Out) : State := { s with outbox := s.outbox ++ [o] }

/-- An event that informs the supervisor: SYS.EVPEND.count rises and the event is recorded (R434). Codes are the
model's own: 1 host fault, 2 poison, 3 link down, 4 translation timeout, 5 freeze, 6 stuck refcount, 7 timetable miss,
8 hotness fault, 9 graph event, 10 core stop, 11 record end, 12 queue fault, 13 stream context fault, 14 boot walk end. -/
def State.inform (s : State) (code : Nat) (info : Word) : State :=
  (s.modSys fun y => { y with evpend := stick (y.evpend + 1) 0xFFFFFFFF }).emit (.event code info)

/-- A fresh number for an invocation, a coach or a request. -/
def State.fresh (s : State) : State × Nat := ({ s with uid := s.uid + 1 }, s.uid)

/-- A value that the spec leaves open, and the state with the next one due (entry 19). -/
def State.freeVal (s : State) : State × Word := ({ s with freeCtr := s.freeCtr + 1 }, Config.freeWord s.freeCtr)

/-- Tenths of core cycles in n ns at the present clock step (R18); none while the core clock is stopped (R22). -/
def Power.tenths (p : Power) (n : Nat) : Nat := if p.stopped then 0 else n * (24 - 2 * p.step)

/-! Regions. -/

/-- Region states in which a region holds its tiles (R101). -/
def RState.holds (r : RState) : Bool :=
  match r with
  | .arming | .armed | .draining | .quiescing | .saving | .restoring | .frozen => true
  | .empty | .loaded | .preempted => false

/-- Whether the watchdogs of a region do not count in a state (R282). -/
def RState.leavesOut (r : RState) : Bool :=
  match r with
  | .saving | .preempted | .restoring | .frozen => true
  | .empty | .loaded | .arming | .armed | .draining | .quiescing => false

/-- A slot enters a state at a time of the time domain; time away from the watchdogs is counted apart (R282). -/
def Slot.goTo (r : Slot) (now : Nat) (st : RState) : Slot :=
  { r with
    state := st
    away := if r.state.leavesOut && !st.leavesOut then r.away + (now - r.pausedAt) else r.away
    pausedAt := if !r.state.leavesOut && st.leavesOut then now else r.pausedAt }

/-- The time that the watchdogs of a region have counted (R282). -/
def Slot.active (r : Slot) (now : Nat) : Nat := (if r.state.leavesOut then r.pausedAt else now) - r.away

/-- The state codes of R102. -/
def RState.code (r : RState) : Nat :=
  match r with
  | .empty => 0 | .loaded => 1 | .arming => 2 | .armed => 3 | .draining => 4 | .quiescing => 5 | .saving => 6
  | .preempted => 7 | .restoring => 8 | .frozen => 9

/-- Header word i of a slot's copy (R87). -/
def Slot.h (r : Slot) (i : Nat) : Word := vget r.hdr i 0
/-- First row of the rectangle (R87). -/
def Slot.row0 (r : Slot) : Nat := bits (r.h 0) 11 8
/-- First column of the rectangle (R87). -/
def Slot.col0 (r : Slot) : Nat := bits (r.h 0) 15 12
/-- Rows minus 1 (R87). -/
def Slot.nrow (r : Slot) : Nat := bits (r.h 0) 19 16
/-- Columns minus 1 (R87). -/
def Slot.ncol (r : Slot) : Nat := bits (r.h 0) 23 20
/-- A slot of the state enters a state. -/
def State.slotTo (s : State) (d i : Nat) (st : RState) : State := s.modSlot d i fun r => r.goTo s.sys.clock st

/-- Whether a tile index lies in the rectangle of a slot (R7, R87). -/
def Slot.inRect (r : Slot) (tile : Nat) : Bool :=
  let row := tile / 16; let col := tile % 16
  r.row0 ≤ row && row ≤ r.row0 + r.nrow && r.col0 ≤ col && col ≤ r.col0 + r.ncol

/-- Whether a tile index names a compute tile (R7). -/
def isCompute (tile : Nat) : Bool := (tile / 16 + tile % 16) % 2 == 0
/-- The compute tiles of a slot's rectangle in row-major order (R104). -/
def Slot.computeTiles (r : Slot) : List Nat := (List.range 256).filter fun t => isCompute t && r.inRect t
/-- The depot tile numbers of a slot's rectangle (R11). -/
def Slot.depotsOf (r : Slot) : List Nat :=
  ((List.range 256).filter fun t => !isCompute t && r.inRect t).map (· / 2)

/-- The slot whose region holds a tile (R91, R101): at most one by R101. -/
def State.regionAt (s : State) (d t : Nat) : Option Nat :=
  (List.range 16).find? fun i => (s.slot d i).state.holds && (s.slot d i).inRect t

/-- The slot of the executing context's region; none on a core. -/
def State.mySlotIx (s : State) : Option Nat :=
  match s.cur with | .ctx d t _ => s.regionAt d t | .core _ => none
/-- The slot of the executing context's region. -/
def State.mySlot (s : State) : Slot := match s.mySlotIx with | some i => s.slot s.die i | none => .init

/-- Whether the executing agent runs at supervisor level: the cores, and regions armed by a boot walk (R280, R453). -/
def State.isSup (s : State) : Bool := s.onCore || s.mySlot.boot

/-- The contexts of a slot's region that hold invocations: tile and context. -/
def State.liveCtxs (s : State) (d i : Nat) : List (Nat × Nat) :=
  if !(s.slot d i).state.holds then []
  else (s.slot d i).computeTiles.flatMap fun t => ((List.range 8).filter fun c => (s.ctx d t c).live).map fun c => (t, c)

/-- The compute tiles of a slot's rectangle that no other region holds. -/
def State.ownTiles (s : State) (d i : Nat) : List Nat :=
  (s.slot d i).computeTiles.filter fun t => (s.regionAt d t).getD i == i

end Sys2Proof.Machine
end

