-- ==== Sys2Proof/Machine/Xlate.lean ====
section
/-! DEFINITION. Address paths, page tables and the performing of accesses (06 R110-R128; 07 R137, R138;
12 R288, R289): where an address lies, what refuses it, and reads and writes of bytes at their home. -/

namespace Sys2Proof.Machine

/-- Who makes an access: kind 0 context, 1 APE stream, 2 copy channel, 3 generator, 4 remote module, 5 host,
6 supervisor core, 7 signal box; its tile, the slot of its region, its root, and whether it has supervisor rights. -/
structure Req where
  kind : Nat
  die : Nat
  tile : Nat
  slot : Option Nat
  root : Word
  sup : Bool
  deriving DecidableEq, Repr

/-- What stands at an address for a requester. -/
inductive Chk where
  /-- Bytes of memory. -/
  | ok (p : Phys)
  /-- Reserved bytes of a depot: read 0, writes ignored (R225). -/
  | void
  /-- A register of control space: CSR number, die, and tile index or slot (R111). -/
  | reg (csr die loc : Nat)
  /-- A place at module m (R40). -/
  | remote (m va : Nat)
  /-- A tile of an ARMING region: the access waits for go (R99). -/
  | hold (die slot : Nat)
  /-- Refused, with the code of R224 (R112, R41). -/
  | refuse (err : Nat)
  /-- A translation fault: level and code (R120). -/
  | fault (level code : Nat)
  deriving DecidableEq, Repr

/-! The L2 home slices. -/

/-- Die and depot tile number of the home slice of a physical address (R138). -/
def homeOf (pa : Nat) : Nat × Nat :=
  let l := pa / 64
  ((pa / 8192) % 4, ((l ^^^ (l / 2 ^ 7) ^^^ (l / 2 ^ 14) ^^^ (l / 2 ^ 21)) % 128) ^^^ ((l / 2 ^ 28) % 32))

/-- Whether a depot of a die keeps a cache unit: units that hold stream context frames are pinned whatever the split says (R77, R226,
R227). -/
def State.hasCache (s : State) (d n : Nat) : Bool :=
  let c := (s.box d).stccfg
  let cend := (s.depot d n).cend
  1 < cend && !(bit c 28 && bits c 5 0 * 2 ≤ 1 && cend ≤ 2 * (bits c 5 0 + bits c 13 8))

/-- Whether the home slice of a physical address has a cache part. -/
def State.cacheable (s : State) (pa : Nat) : Bool := s.hasCache (homeOf pa).1 (homeOf pa).2

/-- Whether the home slice holds the line of a physical address. -/
def State.held (s : State) (pa : Nat) : Bool := s.l2.any fun e => e.1 == pa / 64

/-- The key at which an access at a place is performed (R137, R138). -/
def State.home (s : State) (p : Phys) : Nat :=
  if (p.mt == 0 || p.mt == 2) && s.cacheable p.key && s.held p.key then copyKey p.key else p.key

/-- Whether the state at a key is lost: that of depots and scratch in a thermal stop (R22). A line that a home slice takes from HBM after
the stop is none of it. -/
def State.lost (s : State) (k : Nat) : Bool := s.sys.power.stopped && decide (2 ^ 40 ≤ k ∧ k < 2 ^ 42)

/-- A free value for n bytes from key k on (entry 19). -/
def State.lostBytes (s : State) (k n : Nat) : List Byte :=
  (List.range n).map fun i => BitVec.ofNat 8 (Config.freeWord (s.freeCtr + k + i)).toNat

/-- n bytes at a place within one granule; any value where they are lost (R22). -/
def State.rd (s : State) (p : Phys) (n : Nat) : Nat :=
  if s.lost (s.home p) then leVal (s.lostBytes (s.home p) n) else leVal (s.mem.bytes (s.home p) n)

/-- Whether the granule of a place is poisoned (R288); a lost mark is open (R22). -/
def State.poisoned (s : State) (p : Phys) : Bool :=
  if s.lost (s.home p) then (Config.freeWord (s.freeCtr + s.home p)).getLsbD 8 else s.poison.contains (s.home p / 64)

/-- Whether a byte of scratch lies in a line that the repair table has replaced by a spare (R203, R456). -/
def State.repaired (s : State) (k : Nat) : Bool :=
  let t := (k - 2 ^ 41) / 2 ^ 19
  decide (2 ^ 41 ≤ k && k < 2 ^ 42) && (s.sys.boot.repair.get (t / 2) []).contains (k % 2 ^ 19 / 256)

/-- A byte as the array holds it: the bits that are stuck there replaced (R458, R459). -/
def State.rawByte (s : State) (k : Nat) (b : Byte) : Byte :=
  s.stuck.foldl (fun b e =>
    if e.1 == k && !s.repaired k then (if e.2.2 then b ||| (1#8 <<< e.2.1) else b &&& ~~~(1#8 <<< e.2.1)) else b) b

/-- Bytes from key k on as the array holds them. -/
def State.raw (s : State) (k : Nat) (bs : List Byte) : List Byte :=
  if s.stuck.isEmpty then bs else bs.zipIdx.map fun e => s.rawByte (k + e.2) e.1

/-- Whether a place is a byte of scratch (R203). -/
def Phys.inScratch (p : Phys) : Bool := 2 ^ 41 ≤ p.key && p.key < 2 ^ 42

/-- Whether a requester reads and writes a place past its ECC: regions of a boot walk and scratch (R453). -/
def bypasses (q : Req) (p : Phys) : Bool := q.kind < 4 && q.sup && p.inScratch

/-- Whether a requester meets the poison of a place. -/
def State.poisonFor (s : State) (q : Req) (p : Phys) : Bool := s.poisoned p && !bypasses q p

/-- n bytes that a requester reads at a place: past ECC, stuck bits and all; else as ECC corrects them (R453, R458). -/
def State.rdFor (s : State) (q : Req) (p : Phys) (n : Nat) : Nat :=
  if bypasses q p && !s.stuck.isEmpty then leVal (s.raw p.key (leOf n (s.rd p n))) else s.rd p n

/-- The mark of a granule set or cleared. -/
def State.mark (s : State) (g : Nat) (on : Bool) : State :=
  let r := s.poison.filter (· != g)
  { s with poison := if on then r.takeWhile (· < g) ++ g :: r.dropWhile (· < g) else r }

/-- The 64 bytes of one granule copied over another, mark included. -/
def State.copyLine (s : State) (src dst : Nat) : State :=
  ({ s with mem := s.mem.put dst (s.mem.bytes src 64) }).mark (dst / 64) (s.poison.contains (src / 64))

/-- The home slice takes a copy of a line from HBM. -/
def State.fill (s : State) (pa : Nat) (dirty : Bool) : State :=
  let b := pa / 64 * 64
  { s.copyLine b (copyKey b) with l2 := s.l2.set (pa / 64) dirty }

/-- The home slice drops its copy of a line; wb writes a dirty line back first (R338, R339). -/
def State.drop (s : State) (pa : Nat) (wb : Bool) : State :=
  let b := pa / 64 * 64
  if s.held pa then
    let s1 := if wb && s.l2.get (pa / 64) false then s.copyLine (copyKey b) b else s
    { (({ s1 with mem := s1.mem.put (copyKey b) (List.replicate 64 0) }).mark (copyKey b / 64) false) with
      l2 := s.l2.filter fun e => e.1 != pa / 64 }
  else s

/-- A write makes the line present and dirty where the page is cached and, on a miss, allocates (R118, mt 0). -/
def State.prepWrite (s : State) (p : Phys) : State :=
  if (p.mt == 0 || p.mt == 2) && s.cacheable p.key then
    if s.held p.key then { s with l2 := s.l2.set (p.key / 64) true } else if p.mt == 0 then s.fill p.key true else s
  else s

/-! Page tables. -/

/-- A leaf: page address of the 4 KiB page of the VA, type, rights and level (R118), and whether it maps 64 KiB or more. -/
structure Leaf where
  page : Nat
  big : Bool
  mt : Nat
  u : Bool
  x : Bool
  w : Bool
  r : Bool
  level : Nat
  deriving DecidableEq, Repr

/-- Size in bytes of the page a leaf at a level maps (R118). -/
def pageSize (level : Nat) (s64 : Bool) : Nat := if level == 0 then (if s64 then 2 ^ 16 else 2 ^ 12) else 2 ^ (12 + 9 * level)

/-- What an entry read at a level says: the next table, a leaf, or the code of R120. -/
def readPte (e va level : Nat) : Except Nat (Sum Nat Leaf) :=
  let pa := e / 4096 % 2 ^ 27 * 4096
  let leaf := e / 2 % 2 == 1
  let s64 := e / 64 % 2 == 1
  let size := pageSize level s64
  if e % 2 == 0 then .error 1
  else if e / 2 ^ 39 != 0 || e / 128 % 4 == 3 then .error 2
  else if !leaf then (if level == 0 || e / 4 % 128 != 0 then .error 2 else .ok (.inl pa))
  else if 3 ≤ level || (s64 && level != 0) || pa % size != 0 then .error 2
  else if 2 ^ 39 < pa + size then .error 4
  else .ok (.inr { page := pa + va % size / 4096 * 4096, big := decide (2 ^ 16 ≤ size), mt := e / 128 % 4, u := e / 32 % 2 == 1, x := e / 16 % 2 == 1,
                   w := e / 8 % 2 == 1, r := e / 4 % 2 == 1, level := level })

/-- The walk from a level down (R117): the leaf, or the level at which it stopped and the code. -/
def State.walk (s : State) (va : Nat) : Nat → Nat → Except (Nat × Nat) Leaf
  | 0, tbl =>
    match readPte (s.rd { key := tbl + 8 * (va / 2 ^ 12 % 512), mt := 0 } 8) va 0 with
    | .error c => .error (0, c)
    | .ok (.inl _) => .error (0, 2)
    | .ok (.inr l) => .ok l
  | k + 1, tbl =>
    match readPte (s.rd { key := tbl + 8 * (va / 2 ^ (12 + 9 * (k + 1)) % 512), mt := 0 } 8) va (k + 1) with
    | .error c => .error (k + 1, c)
    | .ok (.inl t) => s.walk va k t
    | .ok (.inr l) => .ok l

/-- Whether a leaf's rights allow an access (R120 code 3). -/
def Leaf.allows (l : Leaf) (a : Acc) (sup : Bool) : Bool :=
  (sup || l.u) && (match a with | .read => l.r | .write => l.w | .rmw => l.r && l.w | .fetch => l.x | .line => l.r)

/-- Translation of a VA under a root by a walk (R115-R120). -/
def State.translate (s : State) (root : Word) (sup : Bool) (a : Acc) (va : Nat) : Except (Nat × Nat) Leaf :=
  if !bit root 0 then .error (4, 1) else
  match s.walk va 4 (bits root 38 12 * 4096) with
  | .error e => .error e
  | .ok l => if l.allows a sup then .ok l else .error (l.level, 3)

/-! Cached translations (R121, R122; entry 9). -/

/-- Depot tile number of the slice that owns a translation (R121). -/
def sliceOf (va asid : Nat) : Nat :=
  let g := va / 2 ^ 16 % 2 ^ 41
  (g ^^^ (g / 2 ^ 7) ^^^ (g / 2 ^ 14) ^^^ (g / 2 ^ 21) ^^^ (g / 2 ^ 28) ^^^ (g / 2 ^ 35)
    ^^^ asid ^^^ (asid / 2 ^ 7) ^^^ (asid / 2 ^ 14)) % 128

/-- Bytes of the piece of the VA that a cached translation covers. -/
def TlbEntry.size (e : TlbEntry) : Nat := if e.big then 2 ^ 16 else 2 ^ 12

/-- Whether a cached translation covers a VA under an ASID. -/
def TlbEntry.covers (e : TlbEntry) (asid va : Nat) : Bool := e.asid == asid && e.vpn == va / e.size

/-- The leaf that a cached translation stands for at a VA it covers. -/
def TlbEntry.leaf (e : TlbEntry) (va : Nat) : Leaf :=
  { page := e.ppn * e.size + va % e.size / 4096 * 4096, big := e.big, mt := e.mt, u := e.u, x := e.x, w := e.w, r := e.rd, level := 0 }

/-- The micro-TLB of a requester's tile. -/
def Req.micro (q : Req) : Nat := 1024 + q.die * 256 + q.tile

/-- The slice of a requester's die that owns a VA. -/
def Req.slice (q : Req) (va : Nat) : Nat := q.die * 128 + sliceOf va (bits q.root 63 48)

/-- A translation that the units of a requester on a compute tile hold of a VA and that allows an access: its micro-TLB's, else the
owning slice's. -/
def State.cached (s : State) (q : Req) (a : Acc) (va : Nat) : Option Leaf :=
  if 3 ≤ q.kind then none
  else [q.micro, q.slice va].findSome? fun n =>
    ((s.tlb.find? fun e => e.unit == n && e.covers (bits q.root 63 48) va).map fun e => e.leaf va).filter fun l => l.allows a q.sup

/-- Translation of a VA for a requester: a cached translation, else a walk. -/
def State.translateFor (s : State) (q : Req) (a : Acc) (va : Nat) : Except (Nat × Nat) Leaf :=
  if !bit q.root 0 then .error (4, 1)
  else match s.cached q a va with
    | some l => .ok l
    | none => s.translate q.root q.sup a va

/-- A translation kept by a unit that holds at most cap. -/
def keepIn (e : TlbEntry) (cap : Nat) (tlb : List TlbEntry) : List TlbEntry :=
  e :: ((tlb.filter fun f => f.unit == e.unit && !(f.asid == e.asid && f.vpn == e.vpn && f.big == e.big)).take (cap - 1)
    ++ tlb.filter fun f => f.unit != e.unit)

/-- A translation kept in the requester's micro-TLB, of 64 entries, and in the owning slice, of 1,024. -/
def State.cacheXlate (s : State) (q : Req) (va : Nat) (l : Leaf) : State :=
  let size := if l.big then 2 ^ 16 else 2 ^ 12
  let e : TlbEntry := { unit := q.micro, big := l.big, asid := bits q.root 63 48, vpn := va / size, ppn := l.page / size, mt := l.mt,
                        u := l.u, x := l.x, w := l.w, rd := l.r }
  { s with tlb := keepIn { e with unit := q.slice va } 1024 (keepIn e 64 s.tlb) }

/-! Writes. -/

/-- VA of the tail word of queue q of a die (R62). -/
def State.tailVa (s : State) (d q : Nat) : Nat := bits (s.box d).sbbase 56 12 * 4096 + 64 * q + 16

/-- TAIL_STORE events for the enabled queues whose tail word, as SYS.SVPTBR maps it now, the bytes from physical address pa touch
(R63, R116). -/
def State.tailHits (s : State) (pa n : Nat) : State :=
  s.boxes.foldl (fun s (e : Nat × SigBox) =>
    e.2.queues.foldl (fun s (q : Nat × Queue) =>
      if !(q.2.ok && bit e.2.sbbase q.1) then s
      else match s.translate s.sys.svptbr true .read (s.tailVa e.1 q.1 % 2 ^ 57) with
        | .ok l =>
          let k := l.page + s.tailVa e.1 q.1 % 4096
          if k < pa + n && pa < k + 8 then s.post 0 .tailStore (.dieIdx { die := e.1, i := q.1 }) else s
        | .error _ => s) s) s

/-- Bytes written at a place within one granule. One write of all 64 bytes clears the granule's mark (R289). -/
def State.wr (s : State) (p : Phys) (bs : List Byte) : State :=
  let s1 := s.prepWrite p
  let k := s1.home p
  let s2 := { s1 with mem := s1.mem.put k bs }
  let s3 := if bs.length == 64 && k % 64 == 0 then s2.mark (k / 64) false else s2
  if p.mt == 3 then s3 else s3.tailHits p.key bs.length

/-- Bytes that a requester writes at a place; a store past ECC rewrites the ECC of what it touches (R453). -/
def State.wrFor (s : State) (q : Req) (p : Phys) (bs : List Byte) : State :=
  if bypasses q p then (s.wr p bs).mark (p.key / 64) false else s.wr p bs

/-! Paths. -/

/-- The registers of the TILE group (R58, R200, R454). -/
def tileCsr (n : Nat) : Bool := n == 0x400 || n == 0x401 || (0x408 ≤ n && n ≤ 0x40F)
/-- The registers of the REG group (R58). -/
def regCsr (n : Nat) : Bool := 0x800 ≤ n && n ≤ 0x80D

/-- Tile index of a depot tile number (R7, R11). -/
def depotTile (n : Nat) : Nat := 2 * n + (if n / 8 % 2 == 0 then 1 else 0)

/-- Whether a depot offset lies in a unit that a stream context frame pins (R77, R226). -/
def State.pinned (s : State) (die off : Nat) : Bool :=
  let c := (s.box die).stccfg
  bit c 28 && bits c 5 0 * 131072 ≤ off && off < (bits c 5 0 + bits c 13 8) * 131072

/-- The ARMING region to whose tile an access is made (R99). -/
def State.armingAt (s : State) (die tile : Nat) : Option Nat :=
  (List.range 16).find? fun i => (s.slot die i).state == .arming && (s.slot die i).inRect tile

/-- The result of an access that reaches a tile's memory, which waits while the tile's region is ARMING. -/
def State.reach (s : State) (die tile : Nat) (c : Chk) : Chk :=
  match s.armingAt die tile with | some i => .hold die i | none => c

/-- REG.GRANT's answer for a depot on path 0x1 (R114). -/
def State.granted (s : State) (q : Req) (die dep : Nat) (a : Acc) : Bool :=
  q.sup ||
    match q.slot with
    | none => false
    | some i =>
      let r := s.slot q.die i
      let rd := bit r.grant die
      let wr := bit r.grant (8 + die)
      (!bit r.grant 16 || (die == q.die && r.inRect (depotTile dep))) &&
        (match a with | .write => wr | .rmw => rd && wr | .read | .fetch | .line => rd)

/-- Path 0x1 (R110, R112, R225). -/
def State.path1 (s : State) (q : Req) (ea n : Nat) (a : Acc) : Chk :=
  let die := ea / 2 ^ 30 % 4
  let dep := ea / 2 ^ 23 % 128
  let off := ea % 2 ^ 23
  let unit := off / 65536
  if ea / 2 ^ 32 % 2 ^ 28 != 0 then .refuse 1
  else if !s.granted q die dep a then .refuse 2
  else if off < 0x8000 || 2 ^ 23 < off + n then .refuse 3
  else if 1 ≤ unit && unit < (s.depot die dep).cend && !s.pinned die off then .refuse 3
  else if 0x8100 ≤ off && off < 0x10000 then s.reach die (depotTile dep) .void
  else s.reach die (depotTile dep) (.ok { key := depotKey die dep off, mt := 3 })

/-- Path 0x2 (R110, R112, R113). -/
def State.path2 (s : State) (q : Req) (ea n : Nat) : Chk :=
  let f := ea / 2 ^ 20 % 256
  let t := if f == 255 then q.tile else f
  let off := ea % 2 ^ 19
  let inside := match q.slot with | some i => (s.slot q.die i).inRect t | none => false
  if ea / 2 ^ 28 % 2 ^ 32 != 0 || ea / 2 ^ 19 % 2 == 1 then .refuse 1
  else if 4 ≤ q.kind then .refuse 2
  else if !isCompute t then .refuse 3
  else if !inside && t != q.tile then .refuse 2
  else if 2 ^ 19 < off + n then .refuse 3
  else s.reach q.die t (.ok { key := scratchKey q.die t off, mt := 3 })

/-- Path 0x3 (R40, R41). A request to this module is translated through the pod page tables at once. -/
def State.path3 (s : State) (q : Req) (ea : Nat) (a : Acc) : Chk :=
  let m := ea / 2 ^ 48 % 256
  let va := ea % 2 ^ 48
  let c := s.sys.podcfg
  if ea / 2 ^ 56 % 16 != 0 then .refuse 1
  else if 3 ≤ q.kind then .refuse 2
  else if !bit c 31 || bits c 22 16 ≤ m then .refuse 2
  else if m == bits c 5 0 then
    match s.translate s.sys.podptbr false a va with
    | .ok l => .ok { key := l.page + va % 4096, mt := l.mt }
    | .error _ => .refuse 5
  else .remote m va

/-- Path 0x4 (R110-R112). -/
def State.path4 (s : State) (q : Req) (ea n : Nat) (a : Acc) : Chk :=
  let die := ea / 2 ^ 38 % 4
  let space := ea / 2 ^ 36 % 4
  let loc := ea / 2 ^ 28 % 256
  let csr := ea / 8 % 4096
  let regOk := n == 8 && (a == .read || a == .write)
  if !q.sup then .refuse 2
  else if ea / 2 ^ 40 % 2 ^ 20 != 0 || space == 3 then .refuse (if space == 3 then 4 else 1)
  else if space == 2 then
    if ea / 2 ^ 19 % 2 ^ 9 != 0 then .refuse 1
    else if !isCompute loc then .refuse 3
    else if 2 ^ 19 < ea % 2 ^ 19 + n then .refuse 3
    else s.reach die loc (.ok { key := scratchKey die loc (ea % 2 ^ 19), mt := 3 })
  else if ea / 2 ^ 15 % 2 ^ 13 != 0 || ea % 8 != 0 then .refuse (if ea / 2 ^ 15 % 2 ^ 13 != 0 then 1 else 4)
  else if space == 0 then
    (if !isCompute loc then .refuse 3 else if regOk && tileCsr csr then .reg csr die loc else .refuse 4)
  else if 16 ≤ loc then .refuse 1
  else if regOk && regCsr csr then .reg csr die loc
  else .refuse 4

/-- What stands at address ea for an access of n bytes (R110-R120). -/
def State.check (s : State) (q : Req) (ea n : Nat) (a : Acc) : Chk :=
  match ea / 2 ^ 60 with
  | 0 =>
    if ea / 2 ^ 57 % 8 != 0 then .refuse 1
    else match s.translateFor q a (ea % 2 ^ 57) with
      | .ok l => .ok { key := l.page + ea % 4096, mt := l.mt }
      | .error (lv, c) => .fault lv c
  | 1 => s.path1 q ea n a
  | 2 => s.path2 q ea n
  | 3 => s.path3 q ea a
  | 4 => s.path4 q ea n a
  | _ => .refuse 1

/-- The executing agent as a requester. -/
def State.req (s : State) : Req :=
  match s.cur with
  | .ctx d t _ => { kind := 0, die := d, tile := t, slot := s.mySlotIx, root := s.mySlot.ptbr, sup := s.isSup }
  | .core _ => { kind := 6, die := 0, tile := 0, slot := none, root := s.sys.svptbr, sup := true }

/-- A unit of a tile as a requester, for a region of its die. -/
def State.reqOf (s : State) (kind die tile : Nat) (i : Option Nat) : Req :=
  let r := match i with | some k => s.slot die k | none => Slot.init
  { kind := kind, die := die, tile := tile, slot := i, root := r.ptbr, sup := r.boot }

/-- A unit of a tile as a requester, for the region of its tile. -/
def State.unitReq (s : State) (kind die tile : Nat) : Req := s.reqOf kind die tile (s.regionAt die tile)

/-- The signal box as a requester: the supervisor's tables and rights (R116). -/
def State.boxReq (s : State) (die : Nat) : Req :=
  { kind := 7, die := die, tile := 0, slot := none, root := s.sys.svptbr, sup := true }

/-! Hotness sampling (R128). -/

/-- A sample record stored in the ring; a fault on the store clears en and sets flt. -/
def State.sample (s : State) (q : Req) (ty : Nat) (miss : Bool) (va : Nat) : State :=
  let c := s.sys.hotcfg
  let rec4 := leOf 8 va ++ leOf 8 s.sys.time.toNat
    ++ leOf 8 ((if q.kind < 4 then q.tile + q.die * 256 else 0) + (q.kind % 8) * 1024 + ty * 8192 + b2n miss * 32768)
    ++ leOf 8 s.sys.hotk.toNat
  let at_ := bits s.sys.hotbase 56 12 * 4096 + 32 * (s.sys.hotk.toNat % 2 ^ bits c 12 8)
  match s.translate s.sys.svptbr true .write (at_ % 2 ^ 57) with
  | .ok l =>
    (s.wr { key := l.page + at_ % 4096, mt := l.mt } rec4).modSys fun y => { y with hotk := y.hotk + 1 }
  | .error _ =>
    (s.modSys fun y => { y with hotcfg := (y.hotcfg &&& ~~~0x10000) ||| 0x80000000 }).inform 8 0

/-- The home slice counts a path-0x0 line request; the one that brings the count to 2^lgn is sampled. -/
def State.hot (s : State) (q : Req) (a : Acc) (p : Phys) (va : Nat) : State :=
  let c := s.sys.hotcfg
  if !bit c 16 || p.mt == 1 || p.mt == 3 || 6 ≤ q.kind || !s.cacheable p.key then s
  else
    let h := homeOf p.key
    let k := (s.depot h.1 h.2).hot + 1
    let miss := !s.held p.key
    if 2 ^ bits c 4 0 ≤ k then
      (s.modDepot h.1 h.2 fun x => { x with hot := 0 }).sample q (if a == .write then 1 else if a == .rmw then 2 else 0) miss va
    else s.modDepot h.1 h.2 fun x => { x with hot := k }

/-- A performed access of a context, stream or channel: the translation stays cached (R121), and the request counts. -/
def State.touch (s : State) (q : Req) (ea : Nat) (a : Acc) (p : Phys) : State :=
  if ea / 2 ^ 60 == 0 then
    let s1 := if q.kind < 3 then
        match s.translateFor q a (ea % 2 ^ 57) with
        | .ok l => s.cacheXlate q (ea % 2 ^ 57) l
        | .error _ => s
      else s
    s1.hot q a p (ea % 2 ^ 57)
  else s

/-! The signal box's own accesses and the save area's (R116): a read or write of any length, by granules. -/

/-- The pieces of n bytes from address va on within 64-byte granules: address and length. -/
def pieces (va n : Nat) : List (Nat × Nat) :=
  if n == 0 then [] else
  (List.range ((va + n - 1) / 64 - va / 64 + 1)).map fun i =>
    (max va ((va / 64 + i) * 64), min (va + n) ((va / 64 + i + 1) * 64) - max va ((va / 64 + i) * 64))

/-- The place of a VA under a root; none where its page faults. -/
def State.placeAt (s : State) (root : Word) (sup : Bool) (a : Acc) (va : Nat) : Option Phys :=
  if 2 ^ 57 ≤ va then none
  else match s.translate root sup a va with
    | .ok l => some { key := l.page + va % 4096, mt := l.mt }
    | .error _ => none

/-- The places of n bytes from VA va on, in pieces within 64-byte granules; none where a page faults. -/
def State.places (s : State) (root : Word) (sup : Bool) (a : Acc) (va n : Nat) : Option (List (Phys × Nat)) :=
  (pieces va n).mapM fun e => (s.placeAt root sup a e.1).map fun p => (p, e.2)

/-- The bytes of n from VA va on under a root. -/
def State.readVa (s : State) (root : Word) (sup : Bool) (va n : Nat) : Option (List Byte) :=
  (s.places root sup .read va n).map fun ps => ps.flatMap fun x => leOf x.2 (s.rd x.1 x.2)

/-- Pieces of bytes written to their places in turn. -/
def State.wrAll (s : State) : List (Phys × Nat) → List Byte → State
  | [], _ => s
  | (p, n) :: r, bs => (s.wr p (bs.take n)).wrAll r (bs.drop n)

/-- Bytes written from VA va on under a root; none, and nothing written, where a page faults. -/
def State.writeVa (s : State) (root : Word) (sup : Bool) (va : Nat) (bs : List Byte) : Option State :=
  (s.places root sup .write va bs.length).map fun ps => s.wrAll ps bs

/-- Bytes written from VA va on under a root wherever a page does not fault, and whether none does (R286). -/
def State.writeSome (s : State) (root : Word) (sup : Bool) (va : Nat) (bs : List Byte) : State × Bool :=
  let ps := (pieces va bs.length).map fun e => (e, s.placeAt root sup .write e.1)
  (ps.foldl (fun s e => match e.2 with | some p => s.wr p ((bs.drop (e.1.1 - va)).take e.1.2) | none => s) s, ps.all fun e => e.2.isSome)

/-- A list of n words read from VA va on by the signal box. -/
def State.boxWords (s : State) (va n : Nat) : Option (List Word) :=
  (s.readVa s.sys.svptbr true va (8 * n)).map fun bs =>
    (List.range n).map fun i => w64 (leVal ((bs.drop (8 * i)).take 8))

/-- One word stored by the signal box. -/
def State.boxStore (s : State) (va : Nat) (v : Word) : Option State := s.writeVa s.sys.svptbr true va (leOf 8 v.toNat)

/-! Withholding (R123-R127). -/

/-- T_withhold of a region in ns (R126). -/
def Slot.tw (r : Slot) : Nat := r.whold * 1000

/-- A unit begins to withhold, unless it does already: its timer starts, and walks follow every 2 us (R124, R125). -/
def State.withhold (s : State) (u : UnitRef) (va : Nat) (a : Acc) (level code : Nat) (pos : Option Nat) : State :=
  if s.withheld.any fun w => w.u == u then s
  else
    let i := match u.kind with
      | .generator => s.regionAt u.die (depotTile u.tile)
      | .channel => some ((s.tile u.die u.tile).chan u.i).slot
      | .access | .fetch | .ape => s.regionAt u.die u.tile
    let k := i.getD 0
    let w : Withheld :=
      { u := u, slot := k, va := va, acc := a, level := level, code := code, since := s.sys.clock, next := s.sys.clock + 2000, pos := pos }
    let s1 : State := { s with withheld := s.withheld ++ [w] }
    (s1.post 2000 .rewalk (.unitRef u)).post (s.slot u.die k).tw .withholdTimeout (.unitRef u)

/-- A unit no longer withholds: its timer stops. -/
def State.unwithhold (s : State) (u : UnitRef) : State := { s with withheld := s.withheld.filter fun w => w.u != u }

/-! Path 0x3 to another module (R40, R41). -/

/-- A request leaves by the direction of fewer hops whose link is up, else waits for a link. -/
def State.routeRemote (s : State) (r : RemoteReq) : State :=
  let up := fun (down : Bool) => (List.range 4).any fun i => (s.net.ports.get (4 + (if down then i else 4 + i)) .init).up
  if up r.down then s.emit (.remote r.down r)
  else if !r.turned && up (!r.down) then s.emit (.remote (!r.down) { r with down := !r.down, turned := true })
  else { s with net := { s.net with waiting := s.net.waiting ++ [r] } }

/-- Whether a request under way is the one that unit u makes under a tag. -/
def Asked.isFor (e : Asked) (u : UnitRef) (tag m va : Nat) (op : RemoteOp) : Bool :=
  e.u == u && e.tag == tag && e.m == m && e.va == va && e.op == op

/-- The number of the request that unit u makes under a tag. -/
def State.askedId (s : State) (u : UnitRef) (tag m va : Nat) (op : RemoteOp) : Option Nat :=
  (s.net.asked.find? fun e => e.isFor u tag m va op).map (·.id)

/-- A request of unit u sent under a tag. -/
def State.ask (s : State) (u : UnitRef) (tag m va n : Nat) (op : RemoteOp) (x y : Word) (data : List Byte) : State × Nat :=
  let (s1, id) := s.fresh
  let me := bits s.sys.podcfg 5 0
  let size := bits s.sys.podcfg 22 16
  let r : RemoteReq := { reply := false, src := me, dst := m, id := id,
                         down := (m + size - me) % size ≤ (me + size - m) % size, turned := false, op := op, va := va,
                         n := n, x := x, y := y, ok := true, data := data, pois := none }
  let e : Asked := { u := u, tag := tag, m := m, va := va, op := op, id := id }
  (({ s1 with net := { s1.net with asked := e :: s1.net.asked } }).routeRemote r, id)

/-- A request that has ended: it and its reply are no longer held. -/
def State.asked1 (s : State) (id : Nat) : State :=
  { s with net := { s.net with asked := s.net.asked.filter (fun f => f.id != id), got := s.net.got.filter (fun g => g.id != id) } }

/-- The reply to the access that unit u makes under a tag; where none was asked for yet, the request is sent; else the number of the
request to wait for. -/
def State.remote (s : State) (u : UnitRef) (tag m va n : Nat) (op : RemoteOp) (x y : Word) (data : List Byte) :
    State × Except Nat RemoteReq :=
  match s.askedId u tag m va op with
  | some id =>
    (match s.net.got.find? fun r => r.id == id with
     | some r => (s.asked1 id, .ok r)
     | none => (s, .error id))
  | none =>
    let (s1, id) := s.ask u tag m va n op x y data
    (s1, .error id)

/-- One of several requests of a unit. -/
structure Wish where
  tag : Nat
  m : Nat
  va : Nat
  n : Nat
  op : RemoteOp
  y : Word
  data : List Byte

/-- The replies to several requests of unit u, once all have come; else the number of one to wait for. -/
def State.remoteAll (s : State) (u : UnitRef) (rs : List Wish) : State × Except Nat (List RemoteReq) :=
  let s1 := rs.foldl (fun s r =>
    if (s.askedId u r.tag r.m r.va r.op).isSome then s else (s.ask u r.tag r.m r.va r.n r.op 0 r.y r.data).1) s
  let id := fun (r : Wish) => (s1.askedId u r.tag r.m r.va r.op).getD 0
  match rs.find? fun r => !(s1.net.got.any fun g => g.id == id r) with
  | some r => (s1, .error (id r))
  | none =>
    rs.foldl (fun (acc : State × Except Nat (List RemoteReq)) r =>
      match acc.2, acc.1.remote u r.tag r.m r.va r.n r.op 0 r.y r.data with
      | .ok l, (s2, .ok g) => (s2, .ok (l ++ [g]))
      | e, (s2, _) => (s2, e)) (s1, .ok [])

/-- What a unit asked of other modules is forgotten: replies to it are dropped when they come. -/
def State.forgetWhere (s : State) (f : Asked → Bool) : State :=
  let ids := (s.net.asked.filter f).map (·.id)
  { s with net := { s.net with asked := s.net.asked.filter (fun e => !f e), got := s.net.got.filter fun g => !ids.contains g.id } }

/-- What a unit asked of other modules is forgotten. -/
def State.forget (s : State) (u : UnitRef) : State := s.forgetWhere fun e => e.u == u

/-- What a read stream has read and not delivered is dropped: elements, the page entry in use, reads under way (R153, R154). Writes of
pushes made before go on. -/
def State.rereads (s : State) (d t e : Nat) : State :=
  (s.forgetWhere fun a => a.u == { kind := .ape, die := d, tile := t, i := e } && a.op == .read).modTile d t fun x => x.modApe e fun a => { a with ahead := [], page := none }

/-- The unit of the executing context's accesses. -/
def State.myUnit (s : State) : UnitRef := { kind := .access, die := s.die, tile := s.tix, i := s.cix }

/-- The tag of request k of the executing context's instruction: its invocation and program counter, so that an instruction issued
again takes the reply to the access it made (R166). -/
def State.myTag (s : State) (k : Nat) : Nat := (s.me.inv * 2 ^ 64 + s.pc.toNat) * 1024 + k

end Sys2Proof.Machine
end

