-- ==== Sys2Proof/Machine/Image.lean ====
section
/-! DEFINITION. Context images (12 R283, R284; 11 R270-R272): what the save area, CTXSV and CTXLD hold of a context,
the chain block with its links, and the tile block of R104. -/

namespace Sys2Proof.Machine

/-- Bytes padded with zeros, or cut, to n. -/
def padTo (n : Nat) (bs : List Byte) : List Byte := (bs ++ List.replicate (n - bs.length) 0).take n

/-- Word i of a list of bytes. -/
def wordAt (bs : List Byte) (off : Nat) : Word := w64 (leVal ((bs.drop off).take 8))

/-- The words of a list as bytes. -/
def wordsLe (ws : List Word) : List Byte := ws.flatMap fun w => leOf 8 w.toNat

/-- The lanes of a register as bytes. -/
def lanesLe (l : Lanes) : List Byte := l.toList.flatMap fun x => leOf 4 x.toNat

/-- A register from 256 bytes. -/
def lanesOf (bs : List Byte) : Lanes := Vector.ofFn fun i => BitVec.ofNat 32 (leVal ((bs.drop (4 * i.val)).take 4))

/-- CTX.CAUSE as a word (R276). -/
def Cause.word (c : Cause) : Word :=
  w64 (b2n c.active * 2 ^ 63 + b2n c.async * 2 ^ 62 + c.loc % 256 * 65536 + c.code % 256)

/-- A cause from its word. -/
def Cause.ofWord (w : Word) : Cause := { active := bit w 63, async := bit w 62, loc := bits w 23 16, code := bits w 7 0 }

/-- CTX.CHAIN (R262). -/
def Context.chainWord (c : Context) : Word := w64 (c.hart.stall % 65536 * 65536 + c.hart.peak % 32 * 256 + c.links.length)

/-- Bytes of an element of a type in memory (R237); 1 where the type is a block format or reserved. -/
def elemSize (typ : Nat) : Nat := match typ with | 0 => 4 | 1 => 2 | 2 => 2 | 8 => 4 | 9 => 4 | _ => 1

/-- Bytes of a block of 256 elements: CQ4, else BS8 (R235, R236). -/
def blockSize (typ : Nat) : Nat := if typ == 5 then 136 else 260

/-- Elements before a byte position of a coach payload (R215, R395). -/
def elemsIn (typ bytes : Nat) : Nat :=
  if typ == 5 then bytes / 136 * 256 + min (bytes % 136 * 2) 255
  else if typ == 6 then bytes / 260 * 256 + min (bytes % 260) 255
  else bytes / elemSize typ

/-- The byte position of an element of a coach payload; in a CQ4 block that of its byte. -/
def bytePos (typ n : Nat) : Nat :=
  if typ == 5 then n / 256 * 136 + n % 256 / 2
  else if typ == 6 then n / 256 * 260 + n % 256
  else n * elemSize typ

/-- The type a coach port reads under a fmt tag (R237, R238); tag 7 reads 4-byte words unconverted, which the model
names UINT32. -/
def tagType (tag : Nat) : Nat := match tag with | 0 => 0 | 1 => 1 | 2 => 3 | 3 => 4 | 4 => 5 | 5 => 6 | 6 => 7 | _ => 9

/-- CTX.PORTPOSn (R200) of a port of a context: bnd, kb, ape, end, pos. A coach port's pos counts elements. After a
coach fire bnd and kb of port 7 read 1 (R94; entry 34). -/
def Tile.portPos (t : Tile) (c : Context) (n : Nat) : Word :=
  let p := vget c.ports n .init
  if !p.bnd then 0
  else if p.kb then w64 (2 ^ 63 + 2 ^ 62 + b2n p.fin * 2 ^ 48 + p.pos % 2 ^ 48)
  else
    let a := t.ape p.ape
    w64 (2 ^ 63 + p.ape % 16 * 2 ^ 56 + b2n a.fin * 2 ^ 48 + a.pos % 2 ^ 48)

/-- A port binding in the save area (R283). -/
def PortBind.words (p : PortBind) : List Word :=
  [w64 (b2n p.bnd * 2 ^ 63 + b2n p.kb * 2 ^ 62 + p.ape % 16 * 2 ^ 56 + p.ncol % 256 * 2 ^ 48 + p.typ % 16),
   w64 (bytePos p.typ p.pos)]

/-- A port binding from its two words, and the CTX.PORTPOS word: it tells a coach port's end, and the element where a byte holds two. -/
def PortBind.ofWords (a b c : Word) : PortBind :=
  { bnd := bit a 63, kb := bit a 62, ape := bits a 59 56, ncol := bits a 55 48, typ := bits a 3 0,
    pos := if bytePos (bits a 3 0) (bits c 47 0) == b.toNat then bits c 47 0 else elemsIn (bits a 3 0) b.toNat
    fin := bit a 62 && bit c 48 }

/-- A replay latch in the save area (R283). -/
def Latch.le (l : Latch) : List Byte :=
  padTo 320 (lanesLe l.lanes ++ wordsLe [l.mask, l.pois, w64 (l.addr.toNat / 8 * 8 + b2n l.valid)])

/-- A replay latch from 320 bytes; its lanes' flags and its place in the port, which the area does not hold, are those of old. -/
def Latch.ofLe (bs : List Byte) (old : Latch) : Latch :=
  { valid := bit (wordAt bs 272) 0, lanes := lanesOf bs, mask := wordAt bs 256, pois := wordAt bs 264,
    addr := w64 ((wordAt bs 272).toNat / 8 * 8), fl := old.fl, pos := old.pos }

/-- The latch of port p that stands in the save area. While a handler runs, the latch of the instruction it interrupted stands at p,
and one of the handler's own instructions at p + 8 (R214). -/
def Context.areaLatch (c : Context) (p : Nat) : Latch :=
  let l := c.latches.get p .init
  if l.valid then l else c.latches.get (p + 8) .init

/-! Links. -/

/-- The destination field of a chain instruction's word: vd, or MRD's sa (R284, R299). -/
def chainDst (w : Word) : Nat := if bits w 63 56 == 0xA3 then bits w 49 45 else bits w 51 47

/-- Whether a word is a chain instruction (R255): opcodes 0x60 to 0x72, and MRD. -/
def isChainWord (w : Word) : Bool := (0x60 ≤ bits w 63 56 && bits w 63 56 ≤ 0x72) || bits w 63 56 == 0xA3

/-- Whether a link's destination is a mask: VCMP and VCMPT. -/
def Link.toMask (l : Link) : Bool := bits l.word 63 56 == 0x71 || bits l.word 63 56 == 0x72

/-- The lanes of a link that are not settled. -/
def Link.open_ (l : Link) : Word := l.opn ||| l.opn2

/-- The flags of the lanes that a link is still to add (R264). -/
def Link.pendFl (l : Link) : BitVec 7 :=
  (List.range 64).foldl (fun f i => if l.opn.getLsbD i then f ||| (vget l.fl i 0).setWidth 7 else f) 0

/-- The link header (R284). -/
def Link.header (l : Link) : List Word :=
  [l.word, w64 (l.dst % 32 + b2n l.two * 32 + l.pendFl.toNat * 65536 + l.nbv % 4 * 2 ^ 24), l.active, l.open_]

/-- The words of a push in the opaque record. -/
def pushWords (p : Option PushTo) : List Word :=
  match p with
  | none => []
  | some q =>
    w64 (2 ^ 63 + b2n q.kb * 2 ^ 62 + b2n q.pm * 2 ^ 61 + b2n q.gone * 2 ^ 60 + q.skip % 2 ^ 32 * 256 + q.ape % 16 * 16 + q.typ % 16)
      :: w64 q.pos :: q.cfg.toList

/-- A push from its words. -/
def pushOf (f : Nat → Word) : Option PushTo :=
  if bit (f 0) 63 then
    some { kb := bit (f 0) 62, ape := bits (f 0) 7 4, cfg := Vector.ofFn fun i => f (i.val + 2), typ := bits (f 0) 3 0, pos := (f 1).toNat,
           pm := bit (f 0) 61, gone := bit (f 0) 60, skip := bits (f 0) 39 8 }
  else none

/-- The opaque record: the settled values and flags of its lanes, the rounding mode, the lanes of its two destinations, its cuts and
push, and the check (entry 14). -/
def Link.opaqueLe (l : Link) : List Byte :=
  let body := padTo 712 (lanesLe l.vals ++ lanesLe l.vals2 ++ l.fl.toList.flatMap (fun x => leOf 1 x.toNat)
    ++ wordsLe ([w64 l.rnd, l.opn, l.opn2, w64 l.cuts] ++ pushWords l.push))
  body ++ leOf 8 (Config.linkCheck body).toNat

/-- A link from its header and record; none where either is inconsistent (R272, R284). -/
def Link.ofBytes (hdr rcd : List Byte) : Option Link :=
  let w0 := wordAt hdr 0
  let w1 := wordAt hdr 8
  let act := wordAt hdr 16
  let opn := wordAt hdr 24
  let body := rcd.take 712
  if !isChainWord w0 || bits w1 4 0 != chainDst w0 || opn &&& ~~~act != 0
      || bits w1 15 6 != 0 || bit w1 23 || bits w1 63 26 != 0 || wordAt rcd 712 != Config.linkCheck body then none
  else some { word := w0, dst := bits w1 4 0, two := bit w1 5, nbv := bits w1 25 24, rnd := (wordAt rcd 576).toNat % 4, active := act,
              opn := opn &&& wordAt rcd 584, opn2 := opn &&& wordAt rcd 592, vals := lanesOf rcd, vals2 := lanesOf (rcd.drop 256),
              fl := Vector.ofFn fun i => BitVec.ofNat 32 (((rcd.drop (512 + i.val)).take 1).foldl (fun n b => n + b.toNat) 0),
              cuts := (wordAt rcd 600).toNat, push := pushOf fun i => wordAt rcd (608 + 8 * i) }

/-- The chain block (R284): links oldest first, and the cut marks. -/
def chainBlock (links : List Link) (cut : Vector Word 24) : List Byte :=
  padTo 12288 (padTo 64 (leOf 8 links.length) ++ padTo 192 (wordsLe cut.toList)
    ++ padTo 512 (links.flatMap fun l => wordsLe l.header) ++ links.flatMap Link.opaqueLe)

/-- The links of a chain block, or the index of the first that cannot be restored, 16 for the count (R272). -/
def linksOf (blk : List Byte) : Except Nat (List Link) :=
  let n := bits (wordAt blk 0) 4 0
  if 16 < n then .error 16
  else (List.range n).foldl (fun acc i =>
    match acc with
    | .error k => .error k
    | .ok ls =>
      match Link.ofBytes ((blk.drop (256 + 32 * i)).take 32) ((blk.drop (768 + 720 * i)).take 720) with
      | none => .error i
      | some l => .ok (ls ++ [l])) (.ok [])

/-- Lanes of a where a mask is set, else of b. -/
def pickLanes (m : Word) (a b : Lanes) : Lanes := Vector.ofFn fun i => if m.getLsbD i.val then a[i] else b[i]

/-- A link after register r was written by a later instruction in the lanes of a mask: it writes those lanes no more, and adds no
flags for them (R260, R264, R267). -/
def Link.overwrite (l : Link) (r : Nat) (m : Word) : Link :=
  if l.toMask || l.push.isSome then l
  else { l with opn := if l.dst == r then l.opn &&& ~~~m else l.opn, opn2 := if l.dst + 1 == r then l.opn2 &&& ~~~m else l.opn2 }

/-- The marks that the ended links among some have still to count (R268). -/
def endedCuts (ls : List Link) : Nat := ls.foldl (fun n l => if l.open_ == 0 then n + l.cuts else n) 0

/-- The context without the links that have ended; their cuts are counted (R260, R268). -/
def Context.reap (x : Context) : Context :=
  { x with links := x.links.filter fun l => l.open_ != 0
           hart := { x.hart with cutcnt := stick (x.hart.cutcnt + endedCuts x.links) 0xFFFFFFFF } }

/-- The links of a context without the lanes that carry a cut mark; a link without lanes has ended (R267, R281). -/
def dropCut (ls : List Link) (cut : Vector Word 24) : List Link :=
  (ls.map fun l => (l.overwrite l.dst (vget cut l.dst 0)).overwrite (l.dst + 1) (vget cut (l.dst + 1) 0)).filter
    fun l => l.open_ != 0

/-! The image of a context. -/

/-- The word at offset 16: that of the YIELD, WAITP or SGWAIT at which the context waits (R283, R330, R347). -/
def Context.waitWord (c : Context) : Word :=
  match c.hart.wait with
  | .pred .. => c.hart.word
  | .signal .. => c.hart.word
  | .yield .. => c.hart.word
  | .run | .links _ | .settle | .matrix _ | .acc _ | .pushes | .streams | .turn .. | .send _ | .channel _ | .withhold | .fetch | .ape _ | .bar _ | .time _ | .halt | .stream _
  | .loaded _ | .remote _ | .load .. | .arming .. | .capture _ => 0

/-- Whether the context is parked in a WAITP (R330). -/
def Context.parked (c : Context) : Bool := match c.hart.wait with | .pred .. => true | _ => false

/-- The first 12,288 bytes of an image (R283), with the lanes of the vector registers as they read. -/
def Tile.image (t : Tile) (c : Context) (pc : Word) (live : Bool) (v : Nat → Lanes) : List Byte :=
  padTo 12288
    (padTo 64 (wordsLe [pc,
        w64 (c.cls % 16 + b2n c.coach * 16 + b2n c.q7.isSome * 32 + b2n c.q6.isSome * 64 + b2n c.parked * 128
          + c.rver % 16 * 256 + c.tver % 16 * 4096 + b2n live * 65536),
        c.waitWord])
      ++ wordsLe ((List.range 32).map fun i => if i == 0 then 0 else vget c.hart.g i 0)
      ++ wordsLe ((List.range 8).map c.mask)
      ++ wordsLe [w64 c.hart.nbv, w64 c.hart.rnd, w64 c.hart.fflags.toNat, c.hart.epc, c.hart.cause.word, c.hart.tval, c.chainWord,
          w64 c.hart.cutcnt]
      ++ wordsLe ((List.range 8).map (t.portPos c))
      ++ (List.range 24).flatMap (fun i => lanesLe (v i))
      ++ c.ports.toList.flatMap (fun p => wordsLe p.words)
      ++ (List.range 8).flatMap (fun i => (c.areaLatch i).le))

/-- A context with the registers of an image: g, m and v, the CTX CSRs, latches and cut marks, and the bindings of the
ports below n; word 0 gives the program counter. What an image does not hold of its latches is as in old. -/
def Context.load (c : Context) (bs : List Byte) (n : Nat) (old : Tbl Latch) : Context :=
  let wd := fun i => wordAt bs i
  { c with
    hart := { c.hart with
      g := Vector.ofFn fun i => if i.val = 0 then 0 else wd (64 + 8 * i.val)
      pc := w64 ((wd 0).toNat / 8 * 8)
      epc := w64 ((wd 408).toNat / 8 * 8)
      cause := Cause.ofWord (wd 416)
      tval := wd 424
      wait := .run
      nbv := if bits (wd 384) 1 0 == 1 then 1 else 2
      rnd := bits (wd 392) 1 0
      fflags := BitVec.ofNat 7 (wd 400).toNat
      stall := bits (wd 432) 31 16
      peak := bits (wd 432) 12 8
      cutcnt := bits (wd 440) 31 0 }
    m := Vector.ofFn fun i => wd (320 + 8 * i.val)
    v := Vector.ofFn fun i => lanesOf (bs.drop (512 + 256 * i.val))
    ports := Vector.ofFn fun i =>
      if i.val < n then PortBind.ofWords (wd (6656 + 16 * i.val)) (wd (6664 + 16 * i.val)) (wd (448 + 8 * i.val)) else vget c.ports i.val .init
    latches := ((List.range 8).map fun i => (i, Latch.ofLe (bs.drop (6784 + 320 * i)) (old.get i .init))) ++ old.filter (fun e => 8 ≤ e.1 && (old.get (e.1 - 8) .init).valid)
    cut := Vector.ofFn fun i => wd (12288 + 64 + 8 * i.val)
    rver := bits (wd 8) 11 8
    tver := bits (wd 8) 15 12 }

/-! Save areas (R104). -/

/-- Number of a compute tile in its region's rectangle (R104). -/
def Slot.tileNo (r : Slot) (t : Nat) : Nat := (r.computeTiles.takeWhile (· != t)).length

/-- VA of the area of context c of tile t (R104). -/
def Slot.area (r : Slot) (t c : Nat) : Nat := bits (r.h 12) 56 0 + 856064 * r.tileNo t + 24576 * c

/-- VA of the tile block of a tile (R104). -/
def Slot.blockVa (r : Slot) (t : Nat) : Nat := bits (r.h 12) 56 0 + 856064 * r.tileNo t + 196608

/-- A save-area access is a read or write of the region, through its root (R116). -/
def State.areaRead (s : State) (d i va n : Nat) : Option (List Byte) :=
  s.readVa (s.slot d i).ptbr (s.slot d i).boot va n

/-- A save-area write. -/
def State.areaWrite (s : State) (d i va : Nat) (bs : List Byte) : Option State :=
  s.writeVa (s.slot d i).ptbr (s.slot d i).boot va bs

/-- A save-area write wherever it does not fault, and whether it does not (R286). -/
def State.areaWriteSome (s : State) (d i va : Nat) (bs : List Byte) : State × Bool :=
  s.writeSome (s.slot d i).ptbr (s.slot d i).boot va bs

/-- The address of the first byte of a range at which a save-area access fails. -/
def State.areaFault (s : State) (d i : Nat) (a : Acc) (va n : Nat) : Nat :=
  (((pieces va n).find? fun e => (s.placeAt (s.slot d i).ptbr (s.slot d i).boot a e.1).isNone).map (·.1)).getD va

/-- The key of the first byte of vector register r of a context among the defects of the module (R459). -/
def vregKey (d t c r : Nat) : Nat := 2 ^ 43 + ((d * 256 + t) * 8 + c) * 8192 + r * 256

/-- The lanes of a vector register as they read: its stuck bits replaced (R459). -/
def State.seen (s : State) (d t c r : Nat) (v : Lanes) : Lanes :=
  if s.stuck.isEmpty then v else lanesOf (s.raw (vregKey d t c r) (lanesLe v))

/-- The whole image of a context of a tile. -/
def State.ctxImage (s : State) (d t c : Nat) : List Byte :=
  let x := s.ctx d t c
  (s.tile d t).image x x.hart.pc x.live (fun r => s.seen d t c r (vget x.v r .zero)) ++ chainBlock x.links x.cut

/-- The APE record of a tile block (R205). -/
def Ape.words (a : Ape) : List Word :=
  a.cfg.toList ++ [w64 (a.pos % 2 ^ 48 + b2n a.fin * 2 ^ 48 + b2n a.wh * 2 ^ 49), 0]

/-- An APE from its record. -/
def Ape.ofWords (f : Nat → Word) : Ape :=
  { Ape.init with cfg := Vector.ofFn fun i => f i.val, pos := bits (f 6) 47 0, fin := bit (f 6) 48, wh := false }

/-- The state field of R224. -/
def ChanState.code (c : ChanState) : Nat := match c with | .idle => 0 | .running => 1 | .paused => 2 | .error => 3

/-- Word 5 of a channel record (R224). -/
def Chan.word5 (c : Chan) : Word :=
  w64 (c.prog % 2 ^ 40 + c.sg % 8 * 2 ^ 40 + b2n c.pe * 2 ^ 43 + c.scope % 4 * 2 ^ 44 + c.state.code * 2 ^ 48)

/-- Word 6 of a channel record (R224). -/
def Chan.word6 (c : Chan) : Word := w64 (stick c.npois 0xFFFFFFFF + c.err % 256 * 2 ^ 32)

/-- The channel record (R224). -/
def Chan.words (c : Chan) : List Word := [c.src, c.dst, c.p2, c.p3, c.p4, c.word5, c.word6, w64 (c.fpois % 2 ^ 40)]

/-- Row r of accumulator a of a tile. -/
def Tile.accRow (t : Tile) (a r : Nat) : AccRow := t.acc.get (a * 64 + r) .init

/-- The tile with a row of an accumulator changed. -/
def Tile.modRow (t : Tile) (a r : Nat) (f : AccRow → AccRow) : Tile :=
  { t with acc := t.acc.set (a * 64 + r) (f (t.accRow a r)) }

/-- The tile block after the scratch (R104): accumulators, predicates, signals, age counts, onego marks, APEs, channels. -/
def Tile.blockTail (t : Tile) : List Byte :=
  padTo 135168
    (padTo 131072 ((List.range 256).flatMap fun k => (t.acc.get k .init).cells.toList.flatMap fun x => leOf 4 x.toNat)
      ++ leOf 8 t.pred.toNat
      ++ wordsLe (t.sigs.toList.map fun x => w64 x.toNat)
      ++ padTo 8 (leOf 8 (t.age.toList.zipIdx.foldl (fun n e => n + e.1 % 16 * 16 ^ e.2) 0))
      ++ padTo (852224 - 852048) (leOf 8 t.onego.toNat)
      ++ (List.range 16).flatMap (fun e => wordsLe (t.ape e).words)
      ++ (List.range 4).flatMap (fun c => wordsLe (t.chan c).words))

end Sys2Proof.Machine
end

