-- ==== Sys2Proof/Machine/Region.lean ====
section
/-! DEFINITION. Regions as they drain, quiesce, save, freeze, arm and resume, and the ends of walks that follow
(05 R95-R106; 04 R66, R70, R71; 08 R182-R185; 12 R285-R287, R460). -/

namespace Sys2Proof.Machine

/-! Coaches (R170-R172). -/

/-- Header word w of a coach. -/
def Coach.h (c : Coach) (w : Nat) : Word := vget c.hdr w 0
/-- The coach with header word w changed. -/
def Coach.setH (c : Coach) (w : Nat) (v : Word) : Coach := { c with hdr := vput c.hdr w v }
/-- A word with bits h down to l set to v. -/
def setBits (w : Word) (h l v : Nat) : Word :=
  w64 (w.toNat - bits w h l * 2 ^ l + v % 2 ^ (h - l + 1) * 2 ^ l)
/-- The coach with bits h down to l of word w set to v. -/
def Coach.setF (c : Coach) (w h l v : Nat) : Coach := c.setH w (setBits (c.h w) h l v)
/-- Kind. -/
def Coach.kind (c : Coach) : Nat := bits (c.h 0) 3 0
/-- Format tag. -/
def Coach.fmt (c : Coach) : Nat := bits (c.h 0) 6 4
/-- Iteration. -/
def Coach.iter (c : Coach) : Nat := bits (c.h 0) 51 36
/-- Route index. -/
def Coach.route (c : Coach) : Nat := bits (c.h 4) 15 0
/-- Stop index. -/
def Coach.stopIx (c : Coach) : Nat := bits (c.h 3) 28 21
/-- Payload bytes of the header. -/
def Coach.plen (c : Coach) : Nat := bits (c.h 4) 31 16
/-- Flits of a coach (R170, R436). -/
def Coach.flits (c : Coach) : Nat := 1 + ceilDiv c.plen 64

/-- Whether a coach is malformed (R172). -/
def Coach.malformed (c : Coach) : Bool :=
  let n := bits (c.h 0) 59 56
  let part := bits (c.h 0) 55 52
  let q := bits (c.h 0) 19 15
  bits (c.h 0) 63 60 != 0 || bits (c.h 3) 63 29 != 0 || q == 0 || 16 < q || 16384 < c.plen
    || (2 ≤ n && n ≤ part) || (n < 2 && part != 0)

/-- A coach whose marks or header say that a payload granule is poisoned carries the poison flag (R290). -/
def Coach.flagPoison (c : Coach) : Coach := if c.pois.isEmpty then c else c.setF 0 20 20 1

/-! The siding (R183, R184). -/

/-- The bytes of a siding record (R183). -/
def Sided.le (x : Sided) : List Byte :=
  let n := 64 * ceilDiv x.coach.plen 64
  padTo 64 (wordsLe [w64 (x.reason % 16 + x.aq % 4 * 16 + x.tile % 256 * 256 + (2 + n / 64) * 65536), x.time])
    ++ wordsLe x.coach.hdr.toList ++ padTo n x.coach.pay

/-- The siding's records in its depot, from its offset 0 upward (R183). -/
def State.putSiding (s : State) (d i : Nat) : State :=
  let r := s.slot d i
  { s with mem := s.mem.put (depotKey d (bits (r.h 7) 6 0) (bits (r.h 7) 18 8 * 4096)) (r.siding.flatMap Sided.le) }

/-- A coach placed in a region's siding, or dropped and counted in ovf where it does not fit (R183). -/
def State.side (s : State) (d i reason aq tile : Nat) (queued : Bool) (c : Coach) : State :=
  let r := s.slot d i
  let used := r.siding.foldl (fun n x => n + 2 + ceilDiv x.coach.plen 64) 0
  if (bits (r.h 7) 31 24 + 1) * 64 < used + 2 + ceilDiv c.plen 64 then
    s.modSlot d i fun r => { r with ovf := stick (r.ovf + 1) 0xFFFF }
  else
    (s.modSlot d i fun r => { r with
      siding := r.siding ++ [{ reason := reason, aq := aq, tile := tile, time := s.sys.time, coach := c, queued := queued }]
      total := stick (r.total + 1) 0xFFFFFF
      sreason := reason }).putSiding d i

/-- A loss counted in a field of SYS.KDROP (R184): shift 0 badred, 16 route, 32 noreg, 48 late. -/
def State.kdrop (s : State) (die shift : Nat) : State :=
  let w := vget s.sys.kdrop die 0
  let n := stick (bits w (shift + 15) shift + 1) 0xFFFF
  s.modSys fun y => { y with kdrop := vput y.kdrop die (setBits w (shift + 15) shift n) }

/-- The compute tiles whose arrival queues are a slot's: those of its rectangle that no other region holds; an EMPTY slot has none (R68,
R90, R104). -/
def State.queueTiles (s : State) (d i : Nat) : List Nat := if (s.slot d i).state == .empty then [] else s.ownTiles d i

/-- The queued coaches of a region's tiles go to the siding in queue order (R104). -/
def State.sideQueues (s : State) (d i : Nat) : State :=
  (s.queueTiles d i).foldl (fun s t =>
    (List.range 4).foldl (fun s q =>
      let s1 := (vget (s.tile d t).arr q []).foldl (fun s c => s.side d i 5 q t true c) s
      s1.modTile d t fun x => { x with arr := vput x.arr q [] }) s) s

/-- Whether some arrival queue of a region's tiles holds a coach. -/
def State.queuesHold (s : State) (d i : Nat) : Bool :=
  (s.queueTiles d i).any fun t => (s.tile d t).arr.toList.any fun q => !q.isEmpty

/-- A trigger arbitration on each compute tile of a region (R93). -/
def State.fireAll (s : State) (d i : Nat) : State :=
  (s.slot d i).computeTiles.foldl (fun s t => s.post 1 .triggerFire (.tileRef { die := d, tile := t })) s

/-! Ends of records and walks (R66, R70). -/

/-- A descriptor word stored by the signal box: word w of queue q (R62). A fault leaves it unstored. -/
def State.putDesc (s : State) (d q w : Nat) (v : Word) : State :=
  (s.boxStore (bits (s.box d).sbbase 56 12 * 4096 + 64 * q + 8 * w) v).getD s

/-- A record selection by a free walker of a die is due (R67). GRAPH looks at the record and posts the event of its kind. -/
def State.postTake (s : State) (d : Nat) : State := s.post 0 .graph (.dieRef { die := d })

/-- The err word of a queue (R62) and its store. -/
def State.queueErr (s : State) (d q status src ix : Nat) : State :=
  let v := w64 (status * 2 ^ 56 + src * 2 ^ 55 + ix % 2 ^ 55)
  (s.modQueue d q fun x => { x with err := v }).putDesc d q 5 v

/-- A walk's holds on stream contexts are released (R79). -/
def State.releaseHolds (s : State) (d : Nat) (hs : List Nat) : State :=
  hs.foldl (fun s i => s.modStc d i fun e => { e with holds := e.holds - 1, last := s.sys.time }) s

/-- Whether an invocation of a tile has ended: no context holds it, and none is saved. -/
def State.ended (s : State) (d i t inv : Nat) : Bool :=
  !(((List.range 8).any fun k => (s.ctx d t k).live && (s.ctx d t k).inv == inv) || (s.slot d i).saved.any fun k => k.tile == t && k.inv == inv)

/-- Whether a channel of tile t performs, or is to go on with, a command that an invocation of slot i issued which has ended. -/
def State.chanLeft (s : State) (d i t : Nat) (x : Chan) : Bool :=
  (x.state == .running || x.state == .paused) && x.slot == i && s.ended d i t x.inv

/-- Whether a copy or a stream write of one of some regions, begun by an invocation that has ended, is not finished (R66): on any tile of
the die, which a region's commands may have left behind, or in what a pre-emption keeps. -/
def State.copiesLeft (s : State) (d : Nat) (arms : List Nat) : Bool :=
  let left := fun (i t : Nat) (m : MatOp) => m.kind == .push && s.ended d i t m.inv
  arms.any fun i =>
    ((List.range 256).any fun t => (List.range 4).any fun c => s.chanLeft d i t ((s.tile d t).chan c))
      || ((s.slot d i).chans.any fun k => s.chanLeft d i k.1 k.2.2)
      || ((s.slot d i).computeTiles.any fun t => s.regionAt d t == some i && (s.tile d t).mq.any (left i t))
      || ((s.slot d i).mqs.any fun k => k.2.any (left i k.1))

/-- A record ends with a status, 0 for success: its completion word becomes visible (R66, R453). -/
def State.finishRecord (s : State) (d w status : Nat) : State :=
  let k := (s.box d).walker w
  let s1 := s.releaseHolds d k.holds
  let s2 := k.owns.foldl (fun s i => s.modSlot d i fun r => { r with owner := none }) s1
  let s3 := s2.modWalker d w fun _ => .init
  if k.boot then
    ((s3.modSys fun y => { y with bootwalk := setBits y.bootwalk (60 + d % 4) (60 + d % 4) 0 }).inform 14
      (w64 (d + status * 16))).postTake d
  else
    let s4 := s3.modQueue d k.queue fun q => { q with nrun := q.nrun - 1, done := if k.src == 0 then q.done + 1 else q.done }
    let s5 := if k.src == 0 then s4.putDesc d k.queue 4 ((s4.box d).queue k.queue).done else s4
    let s6 := if status == 0 then s5 else s5.queueErr d k.queue status k.src k.index
    let cva := vget k.record 3 0
    let node := if bits (vget k.record 0 0) 3 0 == 0 then k.node else 0
    let word := if status == 0 then vget k.record 4 0 else w64 (0xFFFF000000000000 + status * 2 ^ 32 + node)
    let s7 := if cva == 0 || bits cva 2 0 != 0 then s6 else (s6.boxStore cva.toNat word).getD s6
    (if bit (vget k.record 0 0) 9 then s7.inform 11 (w64 (d + status * 16)) else s7).postTake d

/-- A record ends with a status once the copies of the regions its walk armed are done that ended invocations made (R66). -/
def State.endRecord (s : State) (d w status : Nat) : State :=
  if s.copiesLeft d ((s.box d).walker w).arms then
    s.modWalker d w fun k => { k with ending := some status, st := .run, deadline := none, paused := none }
  else s.finishRecord d w status

/-- A context freed without saving: links, cut marks, latches, bindings and held coaches released (R105, R273, R327). -/
def Context.free (c : Context) : Context :=
  { c with live := false, links := [], cut := Vector.ofFn fun _ => 0, latches := [], ports := Vector.ofFn fun _ => .init, q6 := none,
           q7 := none, checked := [], read := none, part := none, late := [], hart := { c.hart with wait := .run } }

/-- Every context of a region freed (forced drain). -/
def State.freeAll (s : State) (d i : Nat) : State :=
  (s.ownTiles d i).foldl (fun s t =>
    s.modTile d t fun x => { x with ctxs := x.ctxs.map fun e => (e.1, e.2.free) }) s

/-- The generators of a region's depots stop for good: a drain (R229). -/
def State.stopGens (s : State) (d i : Nat) : State :=
  (s.slot d i).depotsOf.foldl (fun s n => s.modDepot d n fun x => { x with gens := x.gens.map fun g => (g.1, .init) }) s

/-- The commands of a region on whatever tile of the die abandoned (R70, R105). -/
def State.dropChans (s : State) (d i : Nat) : State :=
  { s with tiles := s.tiles.map fun e =>
      if e.1 / 256 == d then
        (e.1, { e.2 with chans := e.2.chans.map fun c =>
          (c.1, if c.2.slot == i && (c.2.state == .running || c.2.state == .paused) then { c.2 with state := .idle } else c.2) })
      else e }

/-- What the streams of some tiles were reading of other modules is forgotten (R98, R153). -/
def State.forgetReads (s : State) (d : Nat) (tiles : List Nat) : State :=
  s.forgetWhere fun a => a.u.kind == .ape && a.u.die == d && tiles.contains a.u.tile && a.op == .read

/-- The units of a region at a boundary (R104): withholding abandoned, streams and captures stopped, what streams were reading of other
modules too (R166), commands paused or (drop) abandoned, on whatever tile, barrier arrivals of waiting contexts withdrawn (R430). Streams and generators keep their
positions. -/
def State.boundary (s : State) (d i : Nat) (drop : Bool) : State :=
  let s0 := s.forgetReads d (s.ownTiles d i)
  let s1 : State := { s0 with withheld := s0.withheld.filter fun w => !(w.u.die == d && w.slot == i) }
  let s2 := (s.ownTiles d i).foldl (fun s t =>
    s.modTile d t fun x => { x with
      apes := x.apes.map fun e => (e.1, { e.2.letGo with wh := false })
      chans := x.chans.map fun e => (e.1,
        if e.2.state == .running || e.2.state == .paused then
          { e.2 with state := if drop then .idle else .paused } else e.2) }) s1
  let s3 := if drop then s2.dropChans d i else s2
  s3.modSlot d i fun r => { r with bars := r.bars.map fun b => (b.1,
    { b.2 with count := b.2.count - b.2.waiting.length, waiting := [] }) }

/-- A slot at a forced drain: what its saved contexts and its freeze hold is dropped (R105). -/
def Slot.drained (r : Slot) (now : Nat) (st : RState) : Slot :=
  { r.goTo now st with forced := st == .draining, freezing := false, pend := none, saved := [], blocks := [], chans := [], mqs := [], sfault := .none, rearm := false,
                       resuming := false }

/-- A forced drain (R105): every context stops at a boundary and is freed; DRAIN_DONE follows. A PREEMPTED region has no
context to stop: what its saved contexts hold is released and the slot is LOADED at once. -/
def State.forceDrain (s : State) (d i : Nat) : State :=
  let s1 := ((s.boundary d i true).freeAll d i)
  if (s.slot d i).state == .preempted then s1.modSlot d i fun r => r.drained s.sys.clock .loaded
  else ((s1.stopGens d i).modSlot d i fun r => r.drained s.sys.clock .draining).post 100 .drainDone (.dieIdx { die := d, i := i })

/-- A drain that waits for RET (R105, R229); DRAIN_DONE looks whether invocations are left. -/
def State.startDrain (s : State) (d i : Nat) : State :=
  ((s.stopGens d i).modSlot d i fun r => { r.goTo s.sys.clock .draining with rearm := false }).post 10 .drainDone (.dieIdx { die := d, i := i })

/-- A walk fails with a status: it ends once the regions it armed have drained (R70). -/
def State.failWalk (s : State) (d w status : Nat) : State :=
  let k := (s.box d).walker w
  let s1 := s.modWalker d w fun k => { k with ending := some status, st := .run, deadline := none, paused := none }
  let busy := k.arms.filter fun i => (s.slot d i).state != .loaded && (s.slot d i).state != .empty
  let s2 := busy.foldl (fun s i =>
    if (s.slot d i).state == .arming then s.modSlot d i fun r => { r with forced := true } else s.forceDrain d i) s1
  if k.arms.all fun i => (s2.slot d i).state == .loaded || (s2.slot d i).state == .empty then s2.endRecord d w status else s2

/-- The walker that owns a slot. -/
def State.ownerOf (s : State) (d i : Nat) : Option Nat := (s.slot d i).owner

/-- Whether a region's state stops the WAIT timeouts of its walk (R71). -/
def RState.stopsTimers (r : RState) : Bool :=
  match r with
  | .quiescing | .saving | .preempted | .restoring | .frozen => true
  | .empty | .loaded | .arming | .armed | .draining => false

/-- The WAIT timeout of a walker stops or runs again with the regions the walk owns (R71). -/
def State.retime (s : State) (d w : Nat) : State :=
  let k := (s.box d).walker w
  let stop := k.owns.any fun i => (s.slot d i).state.stopsTimers
  match k.deadline, k.paused with
  | some t, _ =>
    if stop then s.modWalker d w fun k => { k with deadline := none, paused := some (t - s.sys.clock) } else s
  | none, some rest =>
    if stop then s
    else (s.modWalker d w fun k => { k with deadline := some (s.sys.clock + rest), paused := none }).post rest .waitTimeout
      (.dieIdx { die := d, i := w })
  | none, none => s

/-- The event of a node op (R68). -/
def nodeEvent (op : Nat) : Option Instr :=
  match op with
  | 0 => some .endNode | 1 => some .cfg | 2 => some .arm | 3 => some .waitNode | 4 => some .repeatNode | 5 => some .signal
  | 6 => some .sct | 7 => some .drain | _ => none

/-- VA of a walker's node (R68). -/
def Walker.nodeVa (k : Walker) : Nat := (vget k.record 1 0).toNat + 32 * k.node

/-- Word i of the node at which a walker stands. -/
def Walker.nw (k : Walker) (i : Nat) : Word := vget k.words i 0

/-- The event of the node at which a walker stands, BADNODE on an unused op (R68). -/
def State.nodeAgain (s : State) (d w : Nat) : State :=
  match nodeEvent (bits (((s.box d).walker w).nw 0) 3 0) with
  | none => s.failWalk d w 2
  | some e => s.post 10 e (.dieIdx { die := d, i := w })

/-- The walker reads its node; ACCESS on a fault, BADNODE beyond node 4,095, which is the node that failed then (R66, R68). -/
def State.postNode (s : State) (d w : Nat) : State :=
  let k := (s.box d).walker w
  if 4096 ≤ k.node then (s.modWalker d w fun k => { k with node := 4095 }).failWalk d w 2
  else match s.boxWords k.nodeVa 4 with
  | none => s.failWalk d w 8
  | some ws =>
    (s.modWalker d w fun k => { k with words := Vector.ofFn fun i => ws.getD i.val 0 }).nodeAgain d w

/-- The walk proceeds at node j. -/
def State.goNode (s : State) (d w j : Nat) : State :=
  (s.modWalker d w fun k => { k with node := j, st := .run, deadline := none, paused := none, begun := false, seen := [] }).postNode d w

/-- A waiting PREEMPT or RESUME record ends when its region has reached the end state (R71, R287), BUSY where a drain has ended it
meanwhile (entry 48); an ARM node whose region is
now ARMED has ended (R68). -/
def State.finishCmd (s : State) (d w i : Nat) : State :=
  let k := (s.box d).walker w
  let st := (s.slot d i).state
  match bits (vget k.record 0 0) 3 0 with
  | 1 =>
    if k.node == 2 then
      (if st == .arming then s
       else (s.modWalker d w fun k => { k with node := 0, st := .run }).post 0 .preempt (.dieRef { die := d }))
    else if st == .preempted then s.endRecord d w 0
    else if st == .frozen then s.endRecord d w (if (s.slot d i).sfault == .saving then 8 else 3)
    else if st == .draining || st == .loaded then s.endRecord d w 3
    else s
  | 2 =>
    if st == .armed then s.endRecord d w 0
    else if st == .frozen then s.endRecord d w (if (s.slot d i).sfault == .restoring then 8 else 5)
    else if st == .draining || st == .loaded then s.endRecord d w 3
    else s
  | _ => if k.begun && st == .armed && bits (k.nw 0) 3 0 == 2 then s.goNode d w (k.node + 1) else s.nodeAgain d w

/-- After a slot's state changed: waiting walkers of the die look again, ending walks end, timeouts stop or run. -/
def State.settle (s : State) (d : Nat) : State :=
  (List.range 16).foldl (fun s w =>
    let k := (s.box d).walker w
    if k.st == .idle then s
    else match k.ending with
      | some status =>
        if k.arms.all fun i => (s.slot d i).state == .loaded || (s.slot d i).state == .empty then s.endRecord d w status else s
      | none =>
        match k.st with
        | .slot i => (s.retime d w).finishCmd d w i
        | .count _ => (s.retime d w).nodeAgain d w
        | .idle | .run | .sct => s) s

/-! Quiescing, saving and freezing (R103, R104, R286). -/

/-- Quiescing begins, under a freeze in state FROZEN; QUIESCE_DONE follows (R104, R286). An ARM that waits for the region's invocations
goes on waiting (R100). -/
def State.quiesce (s : State) (d i : Nat) : State :=
  (((s.boundary d i false).sideQueues d i).slotTo d i (if (s.slot d i).freezing then .frozen else .quiescing)).post 100 .quiesceDone
    (.dieIdx { die := d, i := i })

/-- The TRAPINFO word of a freeze (R286). -/
def trapInfoWord (die tile c code : Nat) (nested savef : Bool) : Word :=
  w64 (2 ^ 63 + b2n nested * 2 ^ 62 + b2n savef * 2 ^ 61 + die % 4 * 2 ^ 56 + tile % 256 * 2 ^ 48 + c % 8 * 2 ^ 42 + code % 256)

/-- REG.TRAPINFO and REG.TRAPVAL of a freeze, unless a record stands there (R286, R460). -/
def Slot.trapRecord (r : Slot) (info val : Word) : Slot :=
  if bit r.trapinfo 63 then r
  else { r with trapinfo := info, trapval := if bit info 62 || bit info 61 then val else 0 }

/-- A record's count of further traps one higher (R286). -/
def moreTraps (info : Word) : Word := setBits info 41 32 (stick (bits info 41 32 + 1) 1023)

/-- A further trap during a freeze (R286): more rises in the record that stands, and in the one that the freeze will write. -/
def Slot.trapMore (r : Slot) : Slot :=
  { r with trapinfo := if bit r.trapinfo 63 then moreTraps r.trapinfo else r.trapinfo, pend := r.pend.map fun p => (moreTraps p.1, p.2) }

/-- A region armed by a boot walk does not stay frozen: its walk ends with FAULT and it drains at once (R453). -/
def State.bootFail (s : State) (d i : Nat) : State :=
  match (s.slot d i).owner with
  | some w => s.failWalk d w 5
  | none => s.forceDrain d i

/-- A region freezes (R286): it reports FROZEN and quiesces; the record that the freeze writes once its contexts are saved is kept in
pend. A trap of a frozen region counts in more. -/
def State.freeze (s : State) (d i : Nat) (info val : Word) (at_ : SaveFault) : State :=
  let r := s.slot d i
  if r.boot then ((s.modSlot d i fun r => r.trapRecord info val).inform 5 info).bootFail d i
  else if r.state == .frozen then s.modSlot d i Slot.trapMore
  else
    let s1 := s.modSlot d i fun r => { r with freezing := true, pend := some (info, val), sfault := at_ }
    (if r.state == .quiescing then s1.slotTo d i .frozen else s1.quiesce d i).settle d

/-- A freeze has saved its contexts: its record is written and the supervisor informed (R286, step 4). -/
def State.frozenNow (s : State) (d i : Nat) : State :=
  match (s.slot d i).pend with
  | none => s.modSlot d i fun r => { r with freezing := false }
  | some p => (s.modSlot d i fun r => { r.trapRecord p.1 p.2 with freezing := false, pend := none }).inform 5 p.1

/-- The contexts of a region still to be saved: those that hold invocations. -/
def State.toSave (s : State) (d i : Nat) : List (Nat × Nat) := s.liveCtxs d i

/-- What the save of a context writes: its area; where its trap handler runs, the area without the links of the chain block, which are
those of the trap and go on at ERET (R271, R286; entry 54): the cut marks alone. -/
def State.saveWrites (s : State) (d i t c : Nat) : List (Nat × List Byte) :=
  let va := (s.slot d i).area t c
  let img := s.ctxImage d t c
  if (s.ctx d t c).hart.cause.active then [(va, img.take 12288), (va + 12352, (img.drop 12352).take 192)] else [(va, img)]

/-- A context whose area has been written is freed; its coach buffers stay in the tile (R285). -/
def State.savedCtx (s : State) (d i t c : Nat) : State :=
  let x := s.ctx d t c
  (s.modCtx d t c fun x => { x with live := false, links := [] }).modSlot d i fun r =>
    { r with saved := r.saved ++ [{ tile := t, c := c, fired := x.fired, inv := x.inv, wdogDone := x.wdogDone,
                                    links := if x.hart.cause.active then some x.links else none, latches := x.latches, part := x.part }] }

/-- One context's area written, wherever the writes succeed; whether they all did. Then the context is freed (R103, R286). -/
def State.saveCtx (s : State) (d i : Nat) (tc : Nat × Nat) : State × Bool :=
  let r := (s.saveWrites d i tc.1 tc.2).foldl (fun (acc : State × Bool) w =>
    let (s1, ok) := acc.1.areaWriteSome d i w.1 w.2
    (s1, acc.2 && ok)) (s, true)
  (if r.2 then r.1.savedCtx d i tc.1 tc.2 else r.1, r.2)

/-- The live contexts of a region written to the save area in turn. A fault of the save area freezes the region, the contexts not yet
written staying in their tiles (R460); in a freeze by a trap it sets savef (R286). -/
def State.saveCtxs (s : State) (d i : Nat) : List (Nat × Nat) → State
  | [] => s.post 100 .saveDone (.dieIdx { die := d, i := i })
  | tc :: rest =>
    let (s1, ok) := s.saveCtx d i tc
    if ok then s1.saveCtxs d i rest
    else if (s.slot d i).freezing then
      (s1.modSlot d i fun r => { r with
        sfault := .saving, pend := r.pend.map fun p => (p.1 ||| w64 (2 ^ 61), p.2) }).saveCtxs d i rest
    else
      let at_ := s.areaFault d i .write ((s.slot d i).area tc.1 tc.2) 24576
      let info := trapInfoWord d tc.1 tc.2 4 false true
      let s2 := ((s1.modSlot d i fun r => { r.trapRecord info (w64 at_) with sfault := .saving }).slotTo d i .frozen).inform 5 info
      if (s.slot d i).boot then s2.bootFail d i else s2.settle d

/-- SAVING begins: the areas of live contexts are written. -/
def State.save (s : State) (d i : Nat) : State :=
  (s.slotTo d i (if (s.slot d i).freezing then .frozen else .saving)).saveCtxs d i (s.toSave d i)

/-! Arming (R98, R227). -/

/-- The lines of a depot's cache part written back and dropped (R227). -/
def State.flushDepot (s : State) (d n : Nat) : State :=
  s.l2.foldl (fun s e => if homeOf (e.1 * 64) == (d, n) then s.drop (e.1 * 64) true else s) s

/-- A depot takes a split (R226, R227). -/
def State.takeSplit (s : State) (d n : Nat) (w : Word) : State :=
  let s1 := if bits w 7 0 < (s.depot d n).cend then s.flushDepot d n else s
  s1.modDepot d n fun x => { x with cend := bits w 7 0, pend := bits w 15 8, fend := bits w 23 16 }

/-- A compute tile takes planes of its region: the route plane's version, the trigger plane (R89-R91, R98). -/
def Tile.takePlanes (t : Tile) (r : Slot) (route trigger : Bool) : Tile :=
  let t1 := if route then { t with rver := bits (r.h 0) 3 0 } else t
  if trigger then { t1 with trg := r.trg, presets := r.presets, code := r.h 1, tver := bits (r.h 0) 7 4 } else t1

/-- APE e at an arming from the presets (R391): word 6 zero, or all zero. -/
def presetApe (ps : List (Vector Word 6)) (e : Nat) : Ape :=
  match ps[e]? with | some p => { Ape.init with cfg := p } | none => .init

/-- When slot k of a resumed region was promoted: where its age count has reached its limit, as it was, or first (R93, R106). -/
def Tile.promoted (t : Tile) (k : Nat) : Option Nat :=
  let age := bits (vget t.trg (2 * k) 0) 23 20
  if age != 0 && age ≤ vget t.age k 0 then some ((vget t.promo k none).getD 0) else none

/-- A compute tile at the first phase of an arming (R98). -/
def Tile.arm (t : Tile) (r : Slot) : Tile :=
  let t1 := t.takePlanes r true true
  if r.resuming then { t1 with promo := Vector.ofFn fun k => t1.promoted k.val }
  else { t1 with
    pred := BitVec.ofNat 8 (bits (r.h 0) 39 32 / 2 * 2 + 1)
    age := Vector.ofFn fun _ => 0
    promo := Vector.ofFn fun _ => none
    onego := 0
    apes := (List.range 16).map fun e => (e, presetApe r.presets e) }

/-- The route plane of a slot's copy: its version and entries (R89). -/
def Slot.ownPlane (r : Slot) : Nat × List (Vector Word 8) := (bits (r.h 0) 3 0, r.routes)

/-- The first phase of an arming; GO follows when every tile has answered (R98). -/
def State.armPhase (s : State) (d i : Nat) : State :=
  let s1 := (s.modSlot d i fun r =>
    { r.goTo s.sys.clock .arming with rearm := r.rearm && r.resuming, plane := some r.ownPlane }).forgetReads d (s.slot d i).computeTiles
  let r := s1.slot d i
  let s2 := r.computeTiles.foldl (fun s t => s.modTile d t fun x => x.arm r) s1
  let s3 := r.depotsOf.foldl (fun s n => s.takeSplit d n (r.h 6)) s2
  s3.post 60 .go (.dieIdx { die := d, i := i })

/-- Whether two slots' rectangles share a tile. -/
def Slot.shares (a b : Slot) : Bool := (List.range 256).any fun t => a.inRect t && b.inRect t

/-- Whether a depot of slot a's rectangle lies in slot b with another split (R101, R71). -/
def Slot.splitClash (a b : Slot) : Bool := (a.depotsOf.any fun n => b.depotsOf.contains n) && a.h 6 != b.h 6

/-- The other slots of a die. -/
def others (i : Nat) : List Nat := (List.range 16).filter (· != i)

/-- What follows the bytes of a tile block written at va: the marks of scratch granules and accumulators of old, and the tile's
channels (R101, R288). -/
def State.blockMarks (s old : State) (d i t va : Nat) : State :=
  let scrMarks := (List.range 8192).filter fun g => old.poison.contains (scratchKey d t 0 / 64 + g)
  let accMarks := (List.range 2048).filterMap fun k =>
    if ((old.tile d t).acc.get (k / 8) .init).pois.getLsbD (k % 8) then some (8192 + k) else none
  let chans := (List.range 4).map fun c => (t, c, (old.tile d t).chan c)
  ((scrMarks ++ accMarks).foldl (fun s g =>
    match s.translate (s.slot d i).ptbr (s.slot d i).boot .write (va + 64 * g) with
    | .ok l => s.mark (s.home { key := l.page + (va + 64 * g) % 4096, mt := l.mt } / 64) true
    | .error _ => s) s).modSlot d i fun r => { r with chans := r.chans.filter (fun k => k.1 != t) ++ chans }

/-- The bytes of a tile block: the tile's scratch, then what follows it (R104). -/
def State.blockBytes (s : State) (d t : Nat) : List Byte := s.mem.bytes (scratchKey d t 0) 524288 ++ (s.tile d t).blockTail

/-- A tile block written to a pre-empted region's save area, marks of scratch granules and accumulators included
(R101, R104, R288). -/
def State.writeBlock (s : State) (d i t : Nat) : State × Bool :=
  let p := s.areaWriteSome d i ((s.slot d i).blockVa t) (s.blockBytes d t)
  (if p.2 then p.1.blockMarks s d i t ((s.slot d i).blockVa t) else p.1, p.2)

/-- The bytes and marks of a tile block at va taken back into the tile (R106). -/
def State.blockTaken (s : State) (d i t va : Nat) (bs : List Byte) : State :=
  let tail := bs.drop 524288
  let wd := fun k => wordAt tail k
  let markAt := fun g => match s.translate (s.slot d i).ptbr (s.slot d i).boot .read (va + 64 * g) with
    | .ok l => s.poisoned { key := l.page + (va + 64 * g) % 4096, mt := l.mt }
    | .error _ => false
  let s1 : State := { s with mem := s.mem.put (scratchKey d t 0) (bs.take 524288) }
  let s2 := (List.range 8192).foldl (fun s g => s.mark (scratchKey d t 0 / 64 + g) (markAt g)) s1
  s2.modTile d t fun x => { x with
    acc := (List.range 256).map fun k => (k,
      { cells := Vector.ofFn fun c => BitVec.ofNat 32 (leVal ((tail.drop (512 * k + 4 * c.val)).take 4))
        pois := BitVec.ofNat 8 ((List.range 8).foldl (fun n g => n + b2n (markAt (8192 + 8 * k + g)) * 2 ^ g) 0) })
    pred := BitVec.ofNat 8 ((wd 131072).toNat / 2 * 2 + 1)
    sigs := Vector.ofFn fun k => BitVec.ofNat 32 (wd (131080 + 8 * k.val)).toNat
    age := Vector.ofFn fun k => (wd 131144).toNat / 16 ^ k.val % 16
    promo := Vector.ofFn fun _ => none
    onego := BitVec.ofNat 16 (wd 131152).toNat
    apes := (List.range 16).map fun e => (e, Ape.ofWords fun k => wd (131328 + 64 * e + 8 * k))
    chans := (List.range 4).map fun c =>
      let f := fun k => wd (132352 + 64 * c + 8 * k)
      let k := (((s.slot d i).chans.find? fun k => k.1 == t && k.2.1 == c).map (·.2.2)).getD .init
      let st : ChanState := match bits (f 5) 49 48 with | 0 => .idle | 1 => .running | 2 => .paused | _ => .error
      (c, { kind := k.kind, src := f 0, dst := f 1, p2 := f 2, p3 := f 3, p4 := f 4, prog := bits (f 5) 39 0,
            sg := bits (f 5) 42 40, pe := bit (f 5) 43, scope := bits (f 5) 45 44, state := st,
            npois := bits (f 6) 31 0, err := bits (f 6) 39 32, fpois := bits (f 7) 39 0, pages := [], inv := k.inv, slot := i }) }

/-- A tile block read back from the save area (R106). -/
def State.readBlock (s : State) (d i t : Nat) : Option State :=
  let va := (s.slot d i).blockVa t
  (s.areaRead d i va 659456).map fun bs => s.blockTaken d i t va bs

end Sys2Proof.Machine
end

