-- ==== Sys2Proof/Machine/Trap.lean ====
section
/-! DEFINITION. Taking a trap, as one shared operation, and the return from it (12 R275-R287; 11 R270-R272). Codes:
1 ILLEGAL, 2 PRIV, 3 ALIGN, 4 ACCESS, 5 PAGE, 6 POISON, 7 PORT, 8 VERSION, 9 CE, 10 SWTRAP, 11 BKPT, 12 WATCHDOG,
13 CHAIN. -/

namespace Sys2Proof.Machine

/-- The trap registers as a trap writes them (R278, R280): the saved program counter, the cause, the value. -/
def Hart.trapped (h : Hart) (active : Bool) (code loc : Nat) (tval : Word) : Hart :=
  { h with epc := h.pc, cause := { active := active, async := code == 12, loc := loc, code := code }, tval := tval,
           wait := .run }

/-- A trap on supervisor core n (R278): the handler at SYS.SVTVEC, or the core stops where a trap was active. -/
def State.coreTrap (s : State) (n code loc : Nat) (tval : Word) : State :=
  if (s.core n).hart.cause.active then
    (s.modCore n fun x => { x with running := false, stopped := true }).inform 10 (w64 n)
  else s.modCore n fun x => { x with hart := { x.hart.trapped true code loc tval with pc := s.sys.svtvec } }

/-- The freeze that a trap of a context causes (R279, R286). savef tells that the chain-block write faulted. -/
def State.freezeTrap (s : State) (d t c i code loc : Nat) (tval : Word) (savef : Bool) : State :=
  let nested := (s.ctx d t c).hart.cause.active
  let s1 := s.modCtx d t c fun x => { x with
    checked := [], read := none, part := none, hart := if nested then { x.hart with wait := .run } else x.hart.trapped false code loc tval }
  s1.freeze d i (trapInfoWord d t c code nested savef) tval .none

/-- CHAIN (R272): the context's links are discarded, those of its chain block too, CTX.TVAL takes the index of the link, and the region
freezes (R279). -/
def State.chainTrap (s : State) (d t c i k : Nat) : State :=
  let r := s.slot d i
  let s1 := (s.areaWriteSome d i (r.area t c + 12288) (chainBlock [] (s.ctx d t c).cut)).1
  (s1.modCtx d t c fun x => { x with links := [], hart := { x.hart with tval := w64 k } }).freezeTrap d t c i 13 0 (w64 k) false

/-- The handler of an in-context trap (R280): the chain block is written, its depth becomes 0, and the context continues
at the region's trap handler. A failing write freezes the region with savef = 1. -/
def State.trapInContext (s : State) (d t c i code loc : Nat) (tval : Word) : State :=
  let r := s.slot d i
  let x := s.ctx d t c
  match s.areaWriteSome d i (r.area t c + 12288) (chainBlock x.links x.cut) with
  | (s1, false) => s1.freezeTrap d t c i code loc tval true
  | (s1, true) =>
    s1.modCtx d t c fun x => { x with
      links := [], checked := [], read := none, part := none
      hart := { x.hart.trapped true code loc tval with
        pc := (s.tile d t).code + 8 * w64 (bits r.trapcfg 15 0) } }

/-- Whether a trap is taken in context (R279): its bit of hmask, and no trap active. -/
def Slot.inContext (r : Slot) (x : Context) (code : Nat) : Bool :=
  code != 13 && code != 5 && bit r.trapcfg (16 + code) && !x.hart.cause.active

/-- The executing agent takes a trap. -/
def State.trap (s : State) (code loc : Nat) (tval : Word) : State :=
  match s.cur with
  | .core n => s.coreTrap n code loc tval
  | .ctx d t c =>
    match s.regionAt d t with
    | none => s.modCtx d t c fun x => { x with hart := x.hart.trapped false code loc tval }
    | some i =>
      if (s.slot d i).inContext (s.ctx d t c) code then s.trapInContext d t c i code loc tval
      else s.freezeTrap d t c i code loc tval false

/-- ILLEGAL: CTX.TVAL is the instruction word (R277, R305). -/
def State.illegal (s : State) : State := s.trap 1 0 s.ir
/-- PRIV of an instruction (R277, R305). -/
def State.priv (s : State) : State := s.trap 2 0 s.ir

/-! Guards and the place of execution (R294, R295, R304). -/

/-- Whether a predicate guard is true (R294), or was when the instruction that now ends its wait issued (R295). -/
def State.predTrue (s : State) (gn : Bool) (gs : BitVec 3) : Bool :=
  gs == 0 || (s.myTile.pred.getLsbD gs.toNat != gn) || s.hart.wait.issued

/-- An instruction with a predicate guard: on a core a non-zero GS is ILLEGAL; a false guard passes it over. -/
def State.guarded (s : State) (gn : Bool) (gs : BitVec 3) (k : State → State) : State :=
  if s.onCore then (if gs = 0 then k s else s.illegal)
  else if s.predTrue gn gs then k s else s.advance

/-- As guarded, for an instruction that is ILLEGAL on supervisor cores (R304). -/
def State.guardedCtx (s : State) (gn : Bool) (gs : BitVec 3) (k : State → State) : State :=
  if s.onCore then s.illegal else s.guarded gn gs k

/-- As guarded, for an instruction at supervisor level only; core tells whether a supervisor core may run it (R304). -/
def State.guardedSup (s : State) (gn : Bool) (gs : BitVec 3) (core : Bool) (k : State → State) : State :=
  if s.onCore && !core then s.illegal
  else if s.onCore && gs != 0 then s.illegal
  else if !s.isSup then s.priv
  else s.guarded gn gs k

/-- The index, oldest first, of the last link of the executing context that will write mask m; links write masks whole. -/
def Context.maskLink (c : Context) (m : Nat) : Option Nat :=
  (c.links.zipIdx.filter fun e => e.1.toMask && e.1.dst == m && m != 0).getLast?.map (·.2)

/-- The index of the last link that will write a lane of vector register r among the lanes of a mask. -/
def Context.vecLink (c : Context) (r : Nat) (lanes : Word) : Option Nat :=
  (c.links.zipIdx.filter fun e => !e.1.toMask && e.1.push.isNone
    && ((e.1.dst == r && e.1.opn &&& lanes != 0) || (e.1.dst + 1 == r && e.1.opn2 &&& lanes != 0))).getLast?.map (·.2)

/-- The wait until link k of the executing context has ended: links end oldest first (entry 10). -/
def State.waitLink (s : State) (k : Nat) : State := s.waits (.links (s.me.links.length - k))

/-- The lanes a mask guard leaves active (R294, R350). -/
def State.activeLanes (s : State) (gn : Bool) (gs : BitVec 3) : Word :=
  if gs = 0 then BitVec.allOnes 64 else if gn then ~~~(s.me.mask gs.toNat) else s.me.mask gs.toNat

/-- An instruction of the vector, matrix and port groups: ILLEGAL on cores; it waits for a mask that a link still
writes (R295); no active lane passes it over (R199). -/
def State.masked (s : State) (gn : Bool) (gs : BitVec 3) (k : Word → State → State) : State :=
  if s.onCore then s.illegal
  else match s.me.maskLink gs.toNat with
    | some j => s.waitLink j
    | none => let a := s.activeLanes gn gs; if a = 0 then s.advance else k a s

/-! Return from a trap (R281). -/

/-- LINK_SETTLE events for the links of a context. -/
def State.postSettles (s : State) (d t c n : Nat) : State :=
  (List.range n).foldl (fun s k => s.post (10 + k) .linkSettle (.tileIdx { die := d, tile := t, i := c })) s

/-- ERET of a context once every link since the trap has ended: the saved links resume, but for lanes that carry a cut
mark now; active falls; the program counter is CTX.EPC; a latch of another instruction is emptied (R214, R281). -/
def State.eretCtx (s : State) (d t c i : Nat) : State :=
  let r := s.slot d i
  match s.areaRead d i (r.area t c + 12288) 12288 with
  | none =>
    let va := s.areaFault d i .read (r.area t c + 12288) 12288
    s.freeze d i (trapInfoWord d t c 4 false true) (w64 va) .eret
  | some blk =>
    match linksOf blk with
    | .error k => s.chainTrap d t c i k
    | .ok ls =>
      let s1 := (s.forgetWhere fun e => e.u == { kind := .access, die := d, tile := t, i := c } && e.tag / 1024 % 2 ^ 64 != (s.ctx d t c).hart.epc.toNat).modCtx d t c fun x => { x with
        links := dropCut ls x.cut
        latches := x.latches.filter fun e => e.2.addr == x.hart.epc
        hart := { x.hart with pc := x.hart.epc, cause := { x.hart.cause with active := false }, wait := .run } }
      s1.postSettles d t c (s1.ctx d t c).links.length

end Sys2Proof.Machine
end

