-- ==== Sys2Proof/Machine/SigBox.lean ====
section
/-! DEFINITION. The signal box's shared operations (04 R61-R80; 05 R87-R90, R98-R101): queues and tails, the
timetable, stream contexts, configuration loads and arming. -/

namespace Sys2Proof.Machine

/-! Launch queues. -/

/-- Whether a queue takes records (R61, R62). -/
def State.qEnabled (s : State) (d q : Nat) : Bool := bit (s.box d).sbbase q && ((s.box d).queue q).ok

/-- A qen bit goes from 0 to 1: the descriptor is read (R61, R62). -/
def State.enableQueue (s : State) (d q : Nat) : State :=
  match s.boxWords (bits (s.box d).sbbase 56 12 * 4096 + 64 * q) 3 with
  | some ws =>
    let w0 := ws.getD 0 0
    let w1 := ws.getD 1 0
    let lsize := bits w1 4 0
    if bits w0 63 57 != 0 || bits w0 11 0 != 0 || lsize < 4 || 16 < lsize || bits w1 63 11 != 0 || bits w1 7 5 != 0 then
      (s.modQueue d q fun x => { x with ok := false }).queueErr d q 1 0 0
    else
      (s.modQueue d q fun x => { x with ok := true, ring := bits w0 56 0, lsize := lsize, prio := bits w1 10 8 }).post 0 .tailStore
        (.dieIdx { die := d, i := q })
  | none => ((s.modQueue d q fun x => { x with ok := false }).inform 12 (w64 (d * 8 + q))).queueErr d q 8 0 0

/-- A write of SYS.SBBASE of a die (R61). -/
def State.writeSbbase (s : State) (d : Nat) (v : Word) : State :=
  let old := (s.box d).sbbase
  let new := v &&& 0x01FFFFFFFFFFF0FF
  let s1 := s.modBox d fun b => { b with sbbase := new }
  (List.range 8).foldl (fun s q => if bit new q && !bit old q then s.enableQueue d q else s) s1

/-- A store of a queue's tail word at its home (R63): records become visible, or the queue is disabled with OVERRUN. The word is the one
that SYS.SVPTBR maps at its VA now; where it maps none, nothing is seen (R116). -/
def State.tailStored (s : State) (d q : Nat) : State :=
  let k := (s.box d).queue q
  if !s.qEnabled d q then s
  else match s.boxWords (s.tailVa d q) 1 with
    | none => s
    | some ws =>
      let tail := (ws.headD 0).toNat
      let head := k.head.toNat
      if tail < head || 2 ^ k.lsize < tail - head then
        ((s.modBox d fun b => { b with sbbase := setBits b.sbbase q q 0 }).modQueue d q fun x => { x with ok := false }).queueErr d q 10 0 head
      else (s.modQueue d q fun x => { x with tail := w64 tail }).postTake d

/-! The timetable (R72-R75). -/

/-- A timetable entry of a die. -/
def SigBox.tt (b : SigBox) (i : Nat) : TTEntry := b.ttab.get i .init
/-- The state with a timetable entry changed. -/
def State.modTt (s : State) (d i : Nat) (f : TTEntry → TTEntry) : State :=
  s.modBox d fun b => { b with ttab := b.ttab.set i (f (b.tt i)) }

/-- Nanoseconds of the time domain until SYS.TIME, which runs at its trimmed rate, reaches a time (R45, R46). -/
def Sys.until_ (y : Sys) (t : Nat) : Nat :=
  if t ≤ y.time.toNat then 0
  else
    let left := (t - y.time.toNat : Nat) * 2 ^ 40 - y.frac
    ((left + (2 ^ 40 + y.timerate.toInt) - 1) / (2 ^ 40 + y.timerate.toInt)).toNat

/-- The fire of an entry is due when SYS.TIME reaches its next time (R73). -/
def State.postFire (s : State) (d i : Nat) : State :=
  let e := (s.box d).tt i
  let mine := fun (p : Pending) => p.ev == .timetableFire && p.arg == .dieIdx { die := d, i := i }
  let s1 : State := { s with agenda := s.agenda.filter fun p => !mine p }
  if e.en then s1.post (s.sys.until_ e.next.toNat) .timetableFire (.dieIdx { die := d, i := i }) else s1

/-- An entry after n due times (R73): k rises, left falls to no less than 0, a one-shot entry or one whose left
reaches 0 is disabled. -/
def TTEntry.passed (e : TTEntry) (n : Nat) : TTEntry :=
  let period := (vget e.img 1 0).toNat
  { e with k := e.k + n, next := w64 ((vget e.img 0 0).toNat + (e.k + n) * period), left := e.left - n,
           en := e.en && period != 0 && !(e.left != 0 && e.left ≤ n) }

/-- Due times of an enabled entry before a time, no more than it has left. -/
def TTEntry.dueBefore (e : TTEntry) (t : Nat) : Nat :=
  let period := (vget e.img 1 0).toNat
  if !e.en || t ≤ e.next.toNat then 0
  else
    let n := if period == 0 then 1 else ceilDiv (t - e.next.toNat) period
    if e.left == 0 then n else min n e.left

/-- An event that informs the supervisor n times. -/
def State.informs (s : State) (code : Nat) (info : Word) : Nat → State
  | 0 => s
  | n + 1 => (s.inform code info).informs code info n

/-- Misses counted on an entry; with missev each of them informs the supervisor (R72, R74). -/
def State.miss (s : State) (d i n : Nat) : State :=
  let e := (s.box d).tt i
  let s1 := s.modTt d i fun e => { e.passed n with misses := stick (e.misses + n) 0xFFFFFFFF }
  if bit (vget e.img 3 0) 9 then s1.informs 7 (w64 (d * 256 + i)) n else s1

/-- Whether the fire of an entry is to be made: SYS.TIME has reached its next time. -/
def TTEntry.reached (e : TTEntry) (time : Word) : Bool := e.en && decide (e.next.toNat ≤ time.toNat)

/-- The entry of a die that fires first of those whose time is reached: the earliest, the lowest in the same nanosecond (R75). -/
def State.firstFire (s : State) (d : Nat) : Option Nat :=
  ((s.box d).ttab.foldl (fun (best : Option (Nat × Nat)) e =>
    if !e.2.reached s.sys.time then best
    else match best with
      | none => some (e.1, e.2.next.toNat)
      | some b => if e.2.next.toNat < b.2 then some (e.1, e.2.next.toNat) else best) none).map (·.1)

/-- A fire of an entry (R74). -/
def State.ttFire (s : State) (d i : Nat) : State :=
  let e := (s.box d).tt i
  if !e.en then s
  else if s.sys.time.toNat < e.next.toNat then s.postFire d i
  else
    let q := bits (vget e.img 3 0) 2 0
    if 4 ≤ ((s.box d).queue q).berth.length || !s.qEnabled d q || !s.sys.ptp.everLocked then (s.miss d i 1).postFire d i
    else
      (((s.modTt d i fun e => { e.passed 1 with fires := stick (e.fires + 1) 0xFFFFFFFF, last := e.next }).modQueue d q fun x =>
        { x with berth := x.berth ++ [e.record] }).postFire d i).postTake d

/-- The fires of a die whose times are reached, in their order; n at most. -/
def State.fireReached (s : State) (d : Nat) : Nat → State
  | 0 => s
  | n + 1 => match s.firstFire d with | none => s | some i => (s.ttFire d i).fireReached d n

/-- Every fire whose time SYS.TIME has reached is made (R74). -/
def State.fireDue (s : State) : State :=
  if s.sys.power.stopped then s
  else s.boxes.foldl (fun s e => s.fireReached e.1 (e.2.ttab.foldl (fun n f => n + f.2.dueBefore (s.sys.time.toNat + 1)) 0)) s

/-- A step of SYS.TIME (R45, R74): the fires reached before it are made, each fire time stepped past counts as a miss. -/
def State.stepTime (s : State) (v : Word) : State :=
  let s1 := s.fireDue.modSys fun y => { y with time := v, frac := 0 }
  s1.boxes.foldl (fun s e =>
    e.2.ttab.foldl (fun s f => (if 0 < f.2.dueBefore v.toNat then s.miss e.1 f.1 (f.2.dueBefore v.toNat) else s).postFire e.1 f.1) s) s1

/-! Stream contexts (R76-R80). -/

/-- Frames per depot of a die's table. -/
def State.stcNf (s : State) (d : Nat) : Nat := bits (s.box d).stccfg 13 8
/-- Entries in use minus 1. -/
def State.stcNent (s : State) (d : Nat) : Nat := bits (s.box d).stccfg 27 16
/-- Whether the table is in use. -/
def State.stcEn (s : State) (d : Nat) : Bool := bit (s.box d).stccfg 28

/-- Depot offset of a frame (R77). -/
def State.frameOff (s : State) (d f : Nat) : Nat := (bits (s.box d).stccfg 5 0 + f / 128) * 131072

/-- The path-0x1 address of a frame (R421). -/
def State.frameAddr (s : State) (d f : Nat) : Nat := 2 ^ 60 + d * 2 ^ 30 + f % 128 * 2 ^ 23 + s.frameOff d f

/-- The contexts of a die that wait in SCLD for entry i have its result v (R79, R421). -/
def State.wakeStc (s : State) (d i v : Nat) : State :=
  { s with tiles := s.tiles.map fun e =>
      if e.1 / 256 == d then
        (e.1, { e.2 with ctxs := e.2.ctxs.map fun x =>
          if x.2.hart.wait == .stream i then (x.1, { x.2 with hart := { x.2.hart with wait := .loaded v } }) else x })
      else e }

/-- Whether an entry holds a frame. -/
def Stc.holdsFrame (e : Stc) : Bool := e.state == .restoring || e.state == .resident || e.state == .evicting

/-- The lowest free frame (R79); a frame that overlaps offsets below 0x10000 is never free (R226). -/
def State.freeFrame (s : State) (d : Nat) : Option Nat :=
  (List.range (128 * s.stcNf d)).find? fun f =>
    65536 ≤ s.frameOff d f && !((s.box d).stc.any fun e => e.2.holdsFrame && e.2.frame == f)

/-- The walkers that wait in an SCT node look again. -/
def State.settleSct (s : State) (d : Nat) : State :=
  (List.range 16).foldl (fun s w => if ((s.box d).walker w).st == .sct then s.nodeAgain d w else s) s

/-- The restore of an entry into a frame begins (R79). -/
def State.restore (s : State) (d i f : Nat) : State :=
  (s.modStc d i fun e => { e with state := .restoring, frame := f, want := false }).post 655 .stcRestoreDone (.dieIdx { die := d, i := i })

/-- The eviction of an entry begins (R79). -/
def State.evict (s : State) (d i : Nat) : State :=
  (s.modStc d i fun e => { e with state := .evicting }).post 655 .stcEvictDone (.dieIdx { die := d, i := i })

/-- The RESIDENT entry without holds that was touched longest ago, the lowest index on a tie (R79). -/
def State.victim (s : State) (d : Nat) : Option Nat :=
  ((s.box d).stc.foldl (fun (acc : Option (Nat × Nat)) e =>
    if e.2.state == .resident && e.2.holds == 0 then
      match acc with
      | some (_, t) => if e.2.last.toNat < t then some (e.1, e.2.last.toNat) else acc
      | none => some (e.1, e.2.last.toNat)
    else acc) none).map (·.1)

/-- What a touch meets: FREE, no frame, a wait, or RESIDENT. -/
inductive Touched where
  | free | noframe | wait | resident
  deriving DecidableEq, Repr

/-- A touch of an entry (R79). -/
def State.touchStc (s : State) (d i : Nat) : State × Touched :=
  let e := (s.box d).entry i
  match e.state with
  | .free => (s, .free)
  | .evicted =>
    if e.want then (s, .wait)
    else match s.freeFrame d with
      | some f => (s.restore d i f, .wait)
      | none =>
        match s.victim d with
        | some v => ((s.evict d v).modStc d i fun e => { e with want := true }, .wait)
        | none => (s, .noframe)
  | .restoring => (s, .wait)
  | .evicting => (s.modStc d i fun e => { e with want := true }, .wait)
  | .resident => (s.modStc d i fun e => { e with last := s.sys.time }, .resident)

/-- An entry that waits for a frame takes a free one; where none is free or about to be, a further eviction begins, and with no entry to
evict its touch ends with NOFRAME (R79, R116). -/
def State.serveOne (s : State) (d i : Nat) : State :=
  let e := (s.box d).entry i
  if !(e.want && e.state == .evicted) then s
  else match s.freeFrame d with
    | some f => s.restore d i f
    | none =>
      if (s.box d).stc.any fun e => e.2.state == .evicting then s
      else match s.victim d with
        | some v => s.evict d v
        | none => (s.modStc d i fun e => { e with want := false }).wakeStc d i 1

/-- The entries that wait for a frame are served, lowest first. -/
def State.serveWant (s : State) (d : Nat) : State := ((s.box d).stc.map (·.1)).foldl (fun s i => s.serveOne d i) s

/-- The marks of the granules of a range copied, with an event for a poisoned one (R79, R288). -/
def State.copyMarks (s : State) (src dst : Nat → Nat) (n : Nat) : State :=
  (List.range n).foldl (fun s g =>
    let on := s.poison.contains (src g)
    (if on then s.inform 2 (w64 (dst g)) else s).mark (dst g) on) s

/-- The key of a byte at a VA of the signal box; 0 where it does not translate. -/
def State.boxKey (s : State) (a : Acc) (va : Nat) : Nat :=
  match s.translate s.sys.svptbr true a va with | .ok l => s.home { key := l.page + va % 4096, mt := l.mt } | .error _ => 0

/-- A restore has copied the state into its frame, or its backing VA faults (R79, R116). -/
def State.restored (s : State) (d i : Nat) : State :=
  let e := (s.box d).entry i
  if e.state != .restoring then s else
  let n := (e.size + 1) * 4096
  let va := bits e.back 56 0
  let dst := depotKey d (e.frame % 128) (s.frameOff d e.frame)
  match s.readVa s.sys.svptbr true va n with
  | none =>
    ((((s.modStc d i fun e => { e with state := .evicted, want := false }).inform 13 (w64 (d * 4096 + i))).wakeStc d i 1).serveWant d).settleSct d
  | some bs =>
    let s1 : State := { s with mem := s.mem.put dst bs }
    (((s1.copyMarks (fun g => s.boxKey .read (va + 64 * g) / 64) (fun g => dst / 64 + g) (n / 64)).modStc d i fun e =>
      { e with state := .resident, last := s.sys.time }).wakeStc d i (s.frameAddr d e.frame)).settleSct d

/-- An eviction has copied the frame to the backing VA, or that VA faults (R79, R116). -/
def State.evicted (s : State) (d i : Nat) : State :=
  let e := (s.box d).entry i
  if e.state != .evicting then s else
  let n := (e.size + 1) * 4096
  let va := bits e.back 56 0
  let src := depotKey d (e.frame % 128) (s.frameOff d e.frame)
  match s.writeVa s.sys.svptbr true va (s.mem.bytes src n) with
  | none =>
    let s1 := (s.modStc d i fun e => { e with state := .resident, want := false, freeing := none }).inform 13 (w64 (d * 4096 + i))
    let s2 := match e.freeing with | some w => s1.endRecord d w 8 | none => s1
    ((s2.wakeStc d i (s.frameAddr d e.frame)).serveWant d).settleSct d
  | some s1 =>
    let s2 := s1.copyMarks (fun g => src / 64 + g) (fun g => s1.boxKey .write (va + 64 * g) / 64) (n / 64)
    let s3 := s2.modStc d i fun e => { e with
      state := if e.freeing.isSome then .free else .evicted, evic := stick (e.evic + 1) 0xFFFFFFFF, freeing := none
      want := e.want && e.freeing.isNone }
    let s4 := match e.freeing with | some w => (s3.wakeStc d i 0).endRecord d w 0 | none => s3
    (s4.serveWant d).settleSct d

/-- Whether an entry is silent (R79). -/
def State.silent (s : State) (e : Stc) : Bool :=
  e.holds == 0 && e.idle != 0 && e.state == .resident && e.idle * 1000 ≤ s.sys.time.toNat - e.last.toNat

/-- A write of SYS.STCCFG of a die (R76, R80). The lines of depots whose cache units become frames are written back and dropped
(R226, R227). -/
def State.writeStccfg (s : State) (d : Nat) (v : Word) : State :=
  let old := (s.box d).stccfg
  let nf := bits v 13 8
  if nf == 0 || 32 < nf || 64 < bits v 5 0 + nf || (bit old 28 && bit v 28) then s
  else
    let s0 := s.modBox d fun b => { b with stccfg := v &&& 0x1FFF3F3F }
    let s1 := if bit v 28 then (List.range 128).foldl (fun s n => if 2 * bits v 5 0 < (s.depot d n).cend then s.flushDepot d n else s) s0 else s0
    if bit v 28 && !bit old 28 then 
      let s2 := s1.modBox d fun b => { b with scan := 0 }
      if s2.agenda.any fun p => p.ev == .scanVisit && p.arg == .dieRef { die := d } then s2
      else s2.post 20 .scanVisit (.dieRef { die := d })
    else s1

/-- Word w of an entry as R78 lays it out. -/
def Stc.word (e : Stc) (w : Nat) : Word :=
  match w with
  | 0 => w64 (bits e.back 56 0)
  | 1 => e.last
  | 2 =>
    let st := match e.state with | .free => 0 | .evicted => 1 | .restoring => 2 | .resident => 3 | .evicting => 4
    w64 (st + e.size % 32 * 256 + e.frame % 4096 * 65536 + e.holds % 256 * 2 ^ 32)
  | 3 => w64 (e.idle % 2 ^ 32 + stick e.evic 0xFFFFFFFF * 2 ^ 32)
  | _ => 0

/-! Configuration loads (R87-R90). -/

/-- Whether a trigger slot record is well formed (R88, R89). -/
def trgOk (w0 w1 : Word) : Bool :=
  bits w0 63 54 == 0 && !bit w0 39 && bits w1 63 16 == 0 && (bit w0 17 || (bits w0 19 18 == 0 && bits w0 47 24 == 0))

/-- Whether a split is well formed (R226). -/
def splitOk (w : Word) : Bool :=
  bits w 63 24 == 0 && 1 ≤ bits w 7 0 && bits w 7 0 ≤ bits w 15 8 && bits w 15 8 ≤ bits w 23 16 && bits w 23 16 ≤ 128

/-- Whether a configuration record of 48 words is well formed for a slot (R87, R89), the ranges of nroute and npreset among it (entry 48). -/
def cfgOk (r : Slot) (ws : List Word) : Bool :=
  let w := fun k => ws.getD k 0
  let planes := bits (w 0) 25 24
  let rp := planes % 2 == 1
  let tp := 2 ≤ planes
  let q : Slot := { r with hdr := Vector.ofFn fun i => w i.val }
  bits (w 0) 63 40 == 0 && bits (w 0) 31 26 == 0 && planes != 0
    && q.row0 + q.nrow ≤ 15 && q.col0 + q.ncol ≤ 15 && !q.computeTiles.isEmpty
    && bits (w 1) 63 57 == 0 && (!tp || bits (w 1) 11 0 == 0)
    && bits (w 2) 63 57 == 0 && (!rp || bits (w 2) 5 0 == 0)
    && bits (w 3) 63 16 == 0 && (!rp || bits (w 3) 15 0 != 0)
    && bits (w 4) 63 57 == 0 && (!tp || bits (w 4) 5 0 == 0)
    && bits (w 5) 63 5 == 0 && (!tp || bits (w 5) 4 0 ≤ 16)
    && splitOk (w 6)
    && !bit (w 7) 7 && bits (w 7) 23 19 == 0 && bits (w 7) 63 32 == 0
    && q.inRect (depotTile (bits (w 7) 6 0)) && bits (w 7) 18 8 + bits (w 7) 31 24 + 1 ≤ 2048
    && bits (w 12) 63 57 == 0 && bits (w 12) 11 0 == 0 && w 13 == 0 && w 14 == 0 && w 15 == 0
    && (!tp || (List.range 16).all fun k => trgOk (w (16 + 2 * k)) (w (17 + 2 * k)))
    && (rp || r.hasR) && (tp || r.hasT)

/-- Whether a split would give part of the stream context frames to another use than pinned pages (R77). -/
def State.framesClash (s : State) (d : Nat) (split : Word) : Bool :=
  s.stcEn d && (List.range 128).any fun u =>
    1 ≤ u && s.pinned d (u * 65536) && !(bits split 7 0 ≤ u && u < bits split 15 8)

/-- A slot's copy after a load of a record's planes (R89). -/
def Slot.load (r : Slot) (ws : List Word) (routes : List (Vector Word 8)) (presets : List (Vector Word 6)) : Slot :=
  let w := fun k => ws.getD k 0
  let planes := bits (w 0) 25 24
  let rp := planes % 2 == 1
  let tp := 2 ≤ planes
  let old := r.h 0
  let h0 := w64 ((if rp then bits (w 0) 3 0 else bits old 3 0) + (if tp then bits (w 0) 7 4 else bits old 7 4) * 16
    + bits (w 0) 25 8 * 256 + (if tp then bits (w 0) 39 32 else bits old 39 32) * 2 ^ 32)
  let pick := fun (own : Bool) (k : Nat) => if own then w k else r.h k
  { r with
    hdr := Vector.ofFn fun i =>
      match i.val with
      | 0 => h0
      | 1 => pick tp 1 | 2 => pick rp 2 | 3 => pick rp 3 | 4 => pick tp 4 | 5 => pick tp 5 | 8 => pick tp 8 | 9 => pick tp 9
      | 10 => pick tp 10 | 11 => pick tp 11
      | k => w k
    trg := if tp then Vector.ofFn fun i => w (16 + i.val) else r.trg
    routes := if rp then routes else r.routes
    presets := if tp then presets else r.presets
    hasR := r.hasR || rp
    hasT := r.hasT || tp }

/-- How a load ends: with a state, with a status of R70 (259 stands for arrival queues not empty), or not yet. -/
inductive Loaded where
  | ok (s : State)
  | status (n : Nat)
  | wait

/-- The rectangle, siding and save area of a record differ from a slot's copy (R90). -/
def Slot.moved (r : Slot) (ws : List Word) : Bool :=
  bits (r.h 0) 23 8 != bits (ws.getD 0 0) 23 8 || r.h 7 != ws.getD 7 0 || r.h 12 != ws.getD 12 0

/-- A list of words in groups of n. -/
def groups (n k : Nat) (ws : List Word) : List (Vector Word n) :=
  (List.range k).map fun i => Vector.ofFn fun j => ws.getD (i * 8 + j.val) 0

/-- The configuration record at va loaded into a slot (R87-R90). drain moves queued coaches to the siding first. -/
def State.loadConfig (s : State) (d i va : Nat) (drain : Bool) : Loaded :=
  let r := s.slot d i
  if va % 128 != 0 || 2 ^ 57 ≤ va then .status 2
  else match s.boxWords va 48 with
  | none => .status 8
  | some ws =>
    if !cfgOk r ws then .status 2
    else
      let planes := bits (ws.getD 0 0) 25 24
      let nr := if planes % 2 == 1 then bits (ws.getD 3 0) 15 0 else 0
      let np := if 2 ≤ planes then bits (ws.getD 5 0) 4 0 else 0
      match s.boxWords (bits (ws.getD 2 0) 56 0) (8 * nr), s.boxWords (bits (ws.getD 4 0) 56 0) (8 * np) with
      | some rs, some ps =>
        if s.framesClash d (ws.getD 6 0) then .status 11
        else if s.queuesHold d i && !drain then .status 259
        else
          let s0 := if s.queuesHold d i then s.sideQueues d i else s
          let new := (s0.slot d i).load ws (groups 8 nr rs) (groups 6 np ps)
          match r.state with
          | .empty | .loaded =>
            .ok (s0.modSlot d i fun _ => { new with state := .loaded, ovf := 0, total := 0, sreason := 0 })
          | .armed =>
            if r.moved ws then .status 3
            else
              let s1 := s0.modSlot d i fun _ => { new with plane := if planes % 2 == 1 then some new.ownPlane else r.plane }
              .ok ((new.computeTiles.foldl (fun s t => s.modTile d t fun x => x.takePlanes new (planes % 2 == 1) (2 ≤ planes)) s1).fireAll d i)
          | .preempted => if r.moved ws then .status 3 else .ok (s0.modSlot d i fun _ => new)
          | .arming | .draining | .quiescing | .saving | .restoring => .wait
          | .frozen => .status 3
      | _, _ => .status 8

/-! Arming (R98-R101). -/

/-- Why an ARM of a slot ends BUSY (R101, R285). -/
def State.armBusy (s : State) (d i : Nat) : Bool :=
  let r := s.slot d i
  (others i).any fun j =>
    let q := s.slot d j
    (q.state.holds && r.shares q)
      || (q.state == .preempted && r.splitClash q)
      || (q.state == .preempted && q.saved.any fun tc =>
            r.inRect tc.tile && ((s.ctx d tc.tile tc.c).q6.isSome || (s.ctx d tc.tile tc.c).q7.isSome))

/-- The tile blocks that an ARM writes for a PREEMPTED region, of the tiles of a list in turn; those written stay so where one faults. A
tile whose block is already written holds nothing more of that region (R101, R104). -/
def State.writeBlocks (s : State) (d j : Nat) : List Nat → Except State State
  | [] => .ok s
  | t :: r =>
    let p := s.writeBlock d j t
    if p.2 then (p.1.modSlot d j fun q => { q with blocks := t :: q.blocks.filter (· != t) }).writeBlocks d j r else .error p.1

/-- The tile blocks that an ARM of slot i writes for the PREEMPTED regions among some slots (R101). -/
def State.armWrites (s : State) (d i : Nat) : List Nat → Except State State
  | [] => .ok s
  | j :: r =>
    let q := s.slot d j
    if q.state != .preempted then s.armWrites d i r
    else match s.writeBlocks d j (q.computeTiles.filter fun t => (s.slot d i).inRect t && !q.blocks.contains t) with
      | .ok s1 => s1.armWrites d i r
      | .error s1 => .error s1

/-- The slots of a die with the record of tile blocks that they have in old: what a failed ARM wrote stands in the tiles too (R101). -/
def State.blocksAs (s old : State) (d : Nat) : State :=
  (List.range 16).foldl (fun s j => s.modSlot d j fun r => { r with blocks := (old.slot d j).blocks, chans := (old.slot d j).chans }) s

/-- The channels of a slot's tiles are free of the paused commands of PREEMPTED regions, which their tile blocks hold. -/
def State.freeChans (s : State) (d i : Nat) : State :=
  (s.slot d i).computeTiles.foldl (fun s t => s.modTile d t fun x => { x with chans := x.chans.map fun c =>
    (c.1, if c.2.state == .paused && (s.slot d c.2.slot).state == .preempted then { c.2 with state := .idle } else c.2) }) s

/-- The tile blocks that an ARM of slot i writes (R101): all of them, or the first that faults ends it, and the pre-empted regions are
unchanged. -/
def State.armBlocks (s : State) (d i : Nat) (js : List Nat) : Except State State :=
  match s.armWrites d i js with
  | .ok s1 => .ok (s1.freeChans d i)
  | .error s1 => .error (s1.blocksAs s d)

/-- What a fire finds in g24 to g27 where no coach fires it (R69). -/
def fireParams (d i : Nat) (args : Word) (k : Walker) : Vector Word 4 :=
  Vector.ofFn fun n =>
    match n.val with
    | 0 => args
    | 1 => vget k.record 2 0
    | 2 => w64 (k.queue * 2 ^ 60 + k.src * 2 ^ 59 + k.index % 2 ^ 59)
    | _ => w64 (d * 16 + i)

/-- The start of an ARM node's arming (R98): the count is 0, args and target are latched, phase one follows. -/
def State.startArm (s : State) (d i : Nat) (args target : Word) (k : Walker) : State :=
  (s.modSlot d i fun r => { r with
    count := 0, target := bits target 31 0, args := args, wpar := fireParams d i args k,
    resuming := false, forced := false }).armPhase d i

/-- RESUME's test of the other regions of the die (R71). -/
def State.resumeBusy (s : State) (d i : Nat) : Bool :=
  let r := s.slot d i
  (others i).any fun j =>
    let q := s.slot d j
    q.state.holds && (r.shares q || r.splitClash q)

end Sys2Proof.Machine
end

