-- ==== Sys2Proof/Machine/Csr.lean ====
section
/-! DEFINITION. Control and status registers (03 R58; 09 R200-R202; and the register maps of the other chapters):
which numbers name a register, reads, and writes with their effects. A write carries the value for RW fields and the
bits for W1C and WO fields (R5, R428). -/

namespace Sys2Proof.Machine

/-- The registers of the CTX group (R200). -/
def ctxCsr (n : Nat) : Bool := n ≤ 3 || (8 ≤ n && n ≤ 10) || n == 0x10 || n == 0x11 || (0x20 ≤ n && n ≤ 0x27)
/-- The registers of the SYS group (R23, R39, R45-R47, R53, R61, R76, R115, R128, R184, R278, R282, R434, R453). -/
def sysCsr (n : Nat) : Bool :=
  (0xC40 ≤ n && n ≤ 0xC46) || (0xC48 ≤ n && n ≤ 0xC4A) || n == 0xC4C || (0xC50 ≤ n && n ≤ 0xC5F)
/-- The numbers that the manual assigns to a register. -/
def knownCsr (n : Nat) : Bool := ctxCsr n || tileCsr n || regCsr n || sysCsr n

/-! Reads. -/

/-- A CTX register of the executing agent (R200, R262, R268, R276). -/
def State.readCtx (s : State) (n : Nat) : Word :=
  let h := s.hart
  match n with
  | 0x000 =>
    if s.onCore then w64 (s.cix % 8 * 256 + 16)
    else w64 (b2n s.me.coach * 65536 + s.cix % 8 * 256 + b2n s.isSup * 16 + s.me.cls % 16)
  | 0x001 => w64 h.nbv
  | 0x002 => w64 h.rnd
  | 0x003 => w64 h.fflags.toNat
  | 0x008 => h.epc
  | 0x009 => h.cause.word
  | 0x00A => h.tval
  | 0x010 => if s.onCore then w64 (h.stall * 65536 + h.peak * 256) else s.me.chainWord
  | 0x011 => w64 h.cutcnt
  | n => if s.onCore then 0 else s.myTile.portPos s.me (n - 0x20)

/-- A TILE register (R202, R454). -/
def State.readTile (s : State) (d t n : Nat) : Word :=
  if n == 0x400 then w64 (s.tile d t).pred.toNat
  else if n == 0x401 then w64 (d % 4 * 256 + t % 256)
  else w64 (vget (s.tile d t).sigs (n - 0x408) 0).toNat

/-- A REG register of a slot (R107, R108, R114, R115, R126, R127, R184, R189, R279, R282, R286). -/
def State.readReg (s : State) (d i n : Nat) : Word :=
  let r := s.slot d i
  match n with
  | 0x800 => w64 (bits (r.h 0) 3 0 * 2 ^ 36 + bits (r.h 0) 7 4 * 2 ^ 32 + (s.liveCtxs d i).length * 65536 + i * 256 + r.state.code)
  | 0x801 => w64 (r.target * 2 ^ 32 + r.count)
  | 0x802 => w64 r.whold
  | 0x803 => r.ptbr
  | 0x804 => r.grant
  | 0x805 => r.finfo
  | 0x806 => r.fva
  | 0x807 => r.fpos
  | 0x808 => w64 (b2n r.xv * 2 ^ 63 + r.x % 65536 * 2 ^ 32 + r.drops)
  | 0x809 => w64 (r.siding.length % 65536 * 2 ^ 48 + r.ovf * 2 ^ 32 + r.total * 256 + r.sreason % 16)
  | 0x80A => r.trapcfg
  | 0x80B => r.trapinfo
  | 0x80C => r.trapval
  | _ => w64 r.wdog

/-- A SYS register as core n or other supervisor code reads it. Which core's SYS.SVWDOG supervisor code on a context reaches (R453) the
spec leaves open: DESIGN CHOICE (entry 55), the core of the context's number. -/
def State.readSys (s : State) (n : Nat) : Word :=
  let y := s.sys
  match n with
  | 0xC40 => w64 (y.power.thr * 2 ^ 32 + y.power.tj % 256 * 4096 + y.power.cause % 4 * 64 + y.power.step % 4)
  | 0xC41 => w64 (y.boot.svn % 65536 * 2 ^ 32 + y.boot.failCode % 256 * 2 ^ 24 + y.boot.failStep % 16 * 65536
      + y.boot.step % 16 * 256 + y.boot.kind % 2)
  | 0xC42 => w64 (b2n y.boot.pres * 32 + y.boot.npres % 16 * 2)
  | 0xC43 => y.bootwalk
  | 0xC44 => y.svtvec
  | 0xC45 => w64 (s.core s.cix).wlim
  | 0xC46 => w64 y.evpend
  | 0xC48 => y.time
  | 0xC49 => w64 (y.ptp.offset.toNat * 2 ^ 32 + y.ptp.port % 256 * 65536 + y.ptp.domain % 256 * 256 + y.ptp.state % 8)
  | 0xC4A => w64 y.timerate.toNat
  | 0xC4C => y.podcfg
  | 0xC58 => y.svptbr
  | 0xC59 => y.podptbr
  | 0xC5A => y.hotcfg
  | 0xC5B => y.hotbase
  | n =>
    if n < 0xC54 then (s.box (n - 0xC50)).sbbase
    else if n < 0xC58 then (s.box (n - 0xC54)).stccfg
    else vget y.kdrop (n - 0xC5C) 0

/-- A register by its number, as the executing agent reads it: its own tile's, its own region's (R107). -/
def State.readCsr (s : State) (n : Nat) : Word :=
  if n < 0x400 then s.readCtx n
  else if n < 0x800 then s.readTile s.die s.tix n
  else if n < 0xC00 then s.readReg s.die (s.mySlotIx.getD 0) n
  else s.readSys n

/-! Writes. -/

/-- A write of a CTX register of the executing agent. -/
def State.writeCtx (s : State) (n : Nat) (v : Word) : State :=
  match n with
  | 0x001 => if bits v 1 0 == 1 || bits v 1 0 == 2 then s.modHart fun h => { h with nbv := bits v 1 0 } else s
  | 0x002 => s.modHart fun h => { h with rnd := bits v 1 0 }
  | 0x003 => s.modHart fun h => { h with fflags := BitVec.ofNat 7 v.toNat }
  | 0x008 => s.modHart fun h => { h with epc := w64 (v.toNat / 8 * 8) }
  | 0x00A => s.modHart fun h => { h with tval := v }
  | 0x010 => s.modHart fun h => { h with stall := bits v 31 16, peak := bits v 12 8 }
  | 0x011 => s.modHart fun h => { h with cutcnt := bits v 31 0 }
  | _ => s

/-- A write of TILE.PRED (R202, R326): guards see it from the next arbitration. -/
def State.writePred (s : State) (d t : Nat) (v : Word) : State :=
  (s.modTile d t fun x => { x with pred := BitVec.ofNat 8 (bits v 7 1 * 2 + 1) }).post 1 .triggerFire (.tileRef { die := d, tile := t })

/-- A write of a TILE register. -/
def State.writeTile (s : State) (d t n : Nat) (v : Word) : State :=
  match n with
  | 0x400 => s.writePred d t v
  | 0x401 => s
  | n => s.modTile d t fun x => { x with sigs := vput x.sigs (n - 0x408) (BitVec.ofNat 32 v.toNat) }

/-- The acknowledgement of REG.TRAPINFO.valid (R286, R287, R460). While the freeze is still saving it clears the record alone. -/
def State.ackTrap (s : State) (d i : Nat) (w1 : Word) : State :=
  let r := s.slot d i
  if !bit w1 63 || !bit r.trapinfo 63 then s
  else
    let s1 := s.modSlot d i fun r => { r with trapinfo := setBits r.trapinfo 63 63 0 }
    let s2 := s1.modSlot d i fun r => { r with sfault := .none }
    if r.state != .frozen || r.freezing then s1
    else if r.sfault == .saving then (s2.save d i).settle d
    else (s2.slotTo d i .preempted).settle d

/-- A WATCHDOG event for each live context of a region, its limit having been written (R282). -/
def State.postWdogs (s : State) (d i : Nat) : State :=
  (s.liveCtxs d i).foldl (fun s tc => s.post 0 .watchdog (.agentRef { a := .ctx d tc.1 tc.2 })) s

/-- A WITHHOLD_TIMEOUT event for each agent of a region that withholds, T_withhold having been written (R124, R126). -/
def State.postTimeouts (s : State) (d i : Nat) : State :=
  (s.withheld.filter fun w => w.u.die == d && w.slot == i).foldl (fun s w =>
    s.post (w.since + (s.slot d i).tw - s.sys.clock) .withholdTimeout (.unitRef w.u)) s

/-- A write of a REG register of a slot: v for RW fields, w1 for W1C fields. -/
def State.writeReg (s : State) (d i n : Nat) (v w1 : Word) : State :=
  match n with
  | 0x802 => if bits v 15 0 == 0 then s else (s.modSlot d i fun r => { r with whold := bits v 15 0 }).postTimeouts d i
  | 0x803 => s.modSlot d i fun r => { r with ptbr := v &&& 0xFFFF007FFFFFF001 }
  | 0x804 => s.modSlot d i fun r => { r with grant := v &&& 0x10F0F }
  | 0x805 => s.modSlot d i fun r => { r with finfo := r.finfo &&& ~~~(w1 &&& 0x8000000000000000) }
  | 0x80A => s.modSlot d i fun r => { r with trapcfg := v &&& 0x1FDEFFFF }
  | 0x80B => s.ackTrap d i w1
  | 0x80D => (s.modSlot d i fun r => { r with wdog := bits v 31 0 }).postWdogs d i
  | _ => s

/-- Every timetable entry's next fire is due at the rate that SYS.TIME has now (R45, R73). -/
def State.postFires (s : State) : State := s.boxes.foldl (fun s e => e.2.ttab.foldl (fun s f => s.postFire e.1 f.1) s) s

/-- A write of SYS.TIMERATE: clamped to plus and minus 549,755,814 (R46). -/
def State.writeTimerate (s : State) (v : Word) : State :=
  let x := (BitVec.ofNat 32 v.toNat).toInt
  (s.modSys fun y => { y with
    timerate := BitVec.ofInt 32 (if 549755814 < x then 549755814 else if x < -549755814 then -549755814 else x) }).postFires

/-- A write of SYS.PTPSTAT (R47, R48): a change of port makes the servo free-run. -/
def State.writePtpstat (s : State) (v : Word) : State :=
  let port := bits v 23 16
  let dom := bits v 15 8
  s.modSys fun y => { y with ptp := { y.ptp with
    port := if port < 12 then port else y.ptp.port
    domain := if dom < 128 then dom else y.ptp.domain
    state := if port < 12 && port != y.ptp.port then 0 else y.ptp.state
    since := if port < 12 && port != y.ptp.port then 0 else y.ptp.since } }

/-- A write of SYS.PODCFG (R39). -/
def State.writePodcfg (s : State) (v : Word) : State :=
  let size := bits v 22 16
  if size == 0 || 64 < size || size ≤ bits v 5 0 || (bit s.sys.podcfg 31 && bit v 31) then s
  else s.modSys fun y => { y with podcfg := v &&& 0x0000FFFF807F003F }

/-- A write of SYS.HOTCFG (R128): v for RW fields, w1 for flt. The depots' counts stay (entry 61). -/
def State.writeHotcfg (s : State) (v w1 : Word) : State :=
  let old := s.sys.hotcfg
  if bits v 4 0 < 8 || 20 < bits v 4 0 || bits v 12 8 < 7 || 20 < bits v 12 8 then s
  else s.modSys fun y => { y with
    hotcfg := (v &&& 0x11F1F) ||| (old &&& 0x80000000 &&& ~~~w1)
    hotk := if bit v 16 && !bit old 16 then 0 else y.hotk }

/-- A write of SYS.EVPEND (R434). -/
def State.ackEvents (s : State) (w1 : Word) : State := s.modSys fun y => { y with evpend := y.evpend - bits w1 63 32 }

/-- A write of SYS.SVWDOG of a core: it restarts the count (R282). -/
def State.writeSvwdog (s : State) (n : Nat) (v : Word) : State :=
  let s1 := s.modCore n fun x => { x with wlim := bits v 31 0, wstart := s.sys.clock, wdone := false }
  if bits v 31 0 == 0 then s1 else s1.post (bits v 31 0 * 1000) .watchdog (.agentRef { a := .core n })

/-- The first idle walker of a die. -/
def State.idleWalker (s : State) (d : Nat) : Option Nat :=
  (List.range 16).find? fun w => ((s.box d).walker w).st == .idle

/-- A boot walk on a die (R453): a GRAPH record from queue 0 with arg 0, cva 0 and index 0. -/
def State.bootWalk (s : State) (d : Nat) (va : Word) : State :=
  match s.idleWalker d with
  | none => s
  | some w =>
    ((s.modWalker d w fun _ => { Walker.init with st := .run, boot := true, record := vput zero8 1 va }).modSys fun y =>
      { y with bootwalk := setBits y.bootwalk (60 + d) (60 + d) 1 }).postNode d w

/-- A write of SYS.BOOTWALK (R453): v for va and dies, w1 for go. -/
def State.writeBootwalk (s : State) (v w1 : Word) : State :=
  let old := s.sys.bootwalk
  if bit w1 4 && (s.sys.boot.cur != 4 || bits old 63 60 != 0) then s
  else
    let s1 := s.modSys fun y => { y with bootwalk := (v &&& 0x01FFFFFFFFFFFFEF) ||| (old &&& 0xF000000000000000) }
    if bit w1 4 then
      (List.range 4).foldl (fun s d => if bit v d then s.bootWalk d (v &&& 0x01FFFFFFFFFFFFE0) else s) s1
    else s1

/-- A start that meets nothing out of order outside the module (R49). -/
def plainStart : StartIn :=
  { fuseOk := true, hbmFail := none, repairFail := none, portsDown := [], hold := false, cont := false, resBase := none,
    fw := none }

/-- A write of SYS.BOOTCTL (R53): v for pres and npres, w1 for warm; the warm start follows. -/
def State.writeBootctl (s : State) (v w1 : Word) : State :=
  let s1 := s.modSys fun y => { y with boot := { y.boot with pres := bit v 5, npres := bits v 4 1 } }
  if bit w1 0 then s1.post 0 .warmStart (.warmIn { v := v, tj := [], start := plainStart }) else s1

/-- A write of a SYS register. Which core's SYS.SVWDOG supervisor code on a context reaches the spec leaves open: DESIGN CHOICE
(entry 55), the core of the context's number. -/
def State.writeSys (s : State) (n : Nat) (v w1 : Word) : State :=
  match n with
  | 0xC42 => s.writeBootctl v w1
  | 0xC43 => s.writeBootwalk v w1
  | 0xC44 => s.modSys fun y => { y with svtvec := v &&& 0x01FFFFFFFFFFFFF8 }
  | 0xC45 => s.writeSvwdog s.cix v
  | 0xC46 => s.ackEvents w1
  | 0xC48 => s.stepTime v
  | 0xC49 => s.writePtpstat v
  | 0xC4A => s.writeTimerate v
  | 0xC4C => s.writePodcfg v
  | 0xC50 => s.writeSbbase 0 v
  | 0xC51 => s.writeSbbase 1 v
  | 0xC52 => s.writeSbbase 2 v
  | 0xC53 => s.writeSbbase 3 v
  | 0xC54 => s.writeStccfg 0 v
  | 0xC55 => s.writeStccfg 1 v
  | 0xC56 => s.writeStccfg 2 v
  | 0xC57 => s.writeStccfg 3 v
  | 0xC58 => s.modSys fun y => { y with svptbr := v &&& 0xFFFF007FFFFFF001 }
  | 0xC59 => s.modSys fun y => { y with podptbr := v &&& 0xFFFF007FFFFFF001 }
  | 0xC5A => s.writeHotcfg v w1
  | 0xC5B => s.modSys fun y => { y with hotbase := v &&& 0x01FFFFFFFFFFF000 }
  | _ => s

/-- A write of a register by its number by the executing agent. -/
def State.writeCsr (s : State) (n : Nat) (v w1 : Word) : State :=
  if n < 0x400 then s.writeCtx n v
  else if n < 0x800 then s.writeTile s.die s.tix n v
  else if n < 0xC00 then s.writeReg s.die (s.mySlotIx.getD 0) n v w1
  else s.writeSys n v w1

/-- A register reached through control space (R111): the TILE and REG groups. -/
def State.readCtl (s : State) (csr d loc : Nat) : Word := if csr < 0x800 then s.readTile d loc csr else s.readReg d loc csr
/-- A write through control space acts as CSRW (R111). -/
def State.writeCtl (s : State) (csr d loc : Nat) (v : Word) : State :=
  if csr < 0x800 then s.writeTile d loc csr v else s.writeReg d loc csr v v

end Sys2Proof.Machine
end

