-- ==== Sys2Proof/Machine/Fetch.lean ====
section
/-! DEFINITION. What a step does around an instruction or event: time passes (02 R45, R46), a waiting agent becomes ready
(05 R96), a tile chooses a context (R96), and the chosen agent's word is fetched and decoded (12 R275; 13 R292, R305). -/

namespace Sys2Proof.Machine

/-! Time (R45, R46; entry 2). -/

/-- The time that passes in a step: the time domain's clock, the core clock, and SYS.TIME at its trimmed rate. -/
def State.pass (s : State) : State :=
  let e := Config.elapsed s.steps
  let f := s.sys.frac + e * s.sys.timerate.toInt
  { (s.modSys fun y => { y with
      clock := y.clock + e
      cycles := y.cycles + y.power.tenths e
      time := y.time + w64 e + BitVec.ofInt 64 (f / 2 ^ 40)
      frac := f % 2 ^ 40 }) with steps := s.steps + 1 }

/-! Ready agents (R96, R328-R330). -/

/-- Whether a wait for request id has ended: its reply has come, or the request is forgotten, so that the instruction asks anew. -/
def State.replied (s : State) (id : Nat) : Bool := (s.net.got.any fun r => r.id == id) || !(s.net.asked.any fun e => e.id == id)

/-- Whether a context is ready: it holds an invocation and is not waiting (R96). A park ends at the start of a step (unpark). -/
def State.ready (s : State) (d t c : Nat) : Bool :=
  let x := s.ctx d t c
  let tile := s.tile d t
  x.live && (match x.hart.wait with
    | .run => true
    | .links n => x.links.length < n
    | .settle => x.links.isEmpty
    | .signal k target => (vget tile.sigs k 0 - target).toNat < 2 ^ 31
    | .pred .. => false
    | .yield .. => false
    | .matrix n => tile.mq.length < n
    | .acc n => !tile.mq.any fun m => m.on n
    | .pushes => !tile.pushing c
    | .streams => !x.pushesPort
    | .turn e k => !tile.turnTaken c e k
    | .send n => tile.sendq.length + n ≤ 16
    | .channel ch => (tile.chan ch).state == .idle || (tile.chan ch).state == .error
    | .withhold => !s.withheld.any fun w => w.u == { kind := .access, die := d, tile := t, i := c }
    | .fetch => !s.withheld.any fun w => w.u == { kind := .fetch, die := d, tile := t, i := c }
    | .ape e => !(tile.ape e).wh
    | .bar _ => false
    | .time at_ => at_ ≤ s.sys.time
    | .halt => (match s.regionAt d t with | some i => (s.slot d i).state != .armed | none => true)
    | .stream _ => false
    | .loaded _ => true
    | .remote id => s.replied id
    | .load e i =>
      (match (s.slot e i).state with
       | .arming | .draining | .quiescing | .saving | .restoring => false
       | .empty | .loaded | .armed | .preempted | .frozen => true)
    | .arming e i => (s.slot e i).state != .arming
    | .capture e => !tile.taken c e)

/-- The contexts of a tile other than c that are ready, each with its count of issues. -/
def State.readyOthers (s : State) (d t c : Nat) : List (Nat × Nat) :=
  ((List.range 8).filter fun o => o != c && s.ready d t o).map fun o => (o, (s.ctx d t o).hart.nissue)

/-- Whether a core that runs has ended its wait. -/
def State.coreReady (s : State) (n : Nat) : Bool :=
  let x := s.core n
  x.running && (match x.hart.wait with
    | .time at_ => at_ ≤ s.sys.time
    | .halt => s.sys.evpend != 0
    | .remote id => s.replied id
    | .load e i =>
      (match (s.slot e i).state with
       | .arming | .draining | .quiescing | .saving | .restoring => false
       | .empty | .loaded | .armed | .preempted | .frozen => true)
    | .arming e i => (s.slot e i).state != .arming
    | _ => true)

/-- Whether the contexts of a tile may issue: their region is ARMED or DRAINING (R102), the core clock runs (R22). -/
def State.tileIssues (s : State) (d t : Nat) : Bool :=
  !s.sys.power.stopped && (match s.regionAt d t with
    | some i => (s.slot d i).state == .armed || (s.slot d i).state == .draining
    | none => false)

/-- Whether a context of a region that quiesces may issue once more: to take the reply to an access that another module has performed
(R166, R342). -/
def State.finishes (s : State) (d t c : Nat) : Bool :=
  !s.sys.power.stopped && (match s.regionAt d t with
    | some i => (s.slot d i).state == .quiescing || ((s.slot d i).state == .frozen && (s.slot d i).freezing)
    | none => false)
    && (match (s.ctx d t c).hart.wait with | .remote id => s.net.got.any fun r => r.id == id | _ => false)

/-- The context a tile issues from (R96): the least class, then the least last issue, ties to the lower number. -/
def State.pick (s : State) (d t : Nat) : Option Nat :=
  let on := s.tileIssues d t
  (List.range 8).foldl (fun (best : Option Nat) c =>
    if !((on || s.finishes d t c) && s.ready d t c) then best
    else match best with
      | none => some c
      | some b =>
        let x := s.ctx d t c
        let y := s.ctx d t b
        if x.cls < y.cls || (x.cls == y.cls && x.hart.issue < y.hart.issue) then some c else best) none

/-- The agents that may issue next: each tile's choice, and the running cores. -/
def State.agents (s : State) : List Agent :=
  (s.tiles.filterMap fun e => (s.pick (e.1 / 256) (e.1 % 256)).map fun c => Agent.ctx (e.1 / 256) (e.1 % 256) c)
    ++ ((List.range 8).filter s.coreReady).map Agent.core

/-- Of the agents that may issue, the one that issued longest ago (entry 3). -/
def State.nextAgent (s : State) : Option Agent :=
  s.agents.foldl (fun (best : Option Agent) a =>
    match best with
    | none => some a
    | some b => if (s.hartOf a).issue < (s.hartOf b).issue then some a else best) none

/-- Whether an agent may issue next: a context where it is its tile's choice (R96). -/
def State.canIssue (s : State) (a : Agent) : Bool :=
  match a with
  | .ctx d t c => s.pick d t == some c
  | .core n => s.coreReady n

/-- Whether an agent has run to its limit and its WATCHDOG is to be taken before its next instruction (R275, R282). -/
def State.overdue (s : State) (a : Agent) : Bool :=
  match a with
  | .core n =>
    let x := s.core n
    x.wlim != 0 && !x.wdone && x.wstart + 1000 * x.wlim ≤ s.sys.clock
  | .ctx d t c =>
    let x := s.ctx d t c
    (match s.regionAt d t with
     | none => false
     | some i =>
       let r := s.slot d i
       r.wdog != 0 && !x.wdogDone && x.fired + 1000 * r.wdog ≤ r.active s.sys.clock && s.tileIssues d t)

/-! Parks (R328-R331). -/

/-- A parked context at the start of a step: a YIELD drops the contexts that have issued since or are no longer ready, and its park
ends once none is left and its cycles have run; a WAITP whose condition holds has completed. -/
def State.unpark (s : State) (d t : Nat) (x : Context) : Context :=
  match x.hart.wait with
  | .yield til others =>
    let left := others.filter fun o => (s.ctx d t o.1).hart.nissue == o.2 && s.ready d t o.1
    let w : Wait := if til ≤ s.sys.cycles && left.isEmpty then .run else .yield til left
    { x with hart := { x.hart with wait := w } }
  | .pred m v =>
    if (s.tile d t).pred &&& m == v &&& m then { x with hart := { x.hart with pc := x.hart.pc + 8, wait := .run } } else x
  | _ => x

/-- Whether a context is parked. -/
def Hart.parks (h : Hart) : Bool := match h.wait with | .yield .. => true | .pred .. => true | _ => false

/-- Every parked context of a tile that issues looks whether its park ends (R328, R329). -/
def State.unparkAll (s : State) : State :=
  { s with tiles := s.tiles.map fun e =>
      if (e.2.ctxs.any fun x => x.2.live && x.2.hart.parks) && s.tileIssues (e.1 / 256) (e.1 % 256) then
        (e.1, { e.2 with ctxs := e.2.ctxs.map fun x =>
          (x.1, if x.2.live then s.unpark (e.1 / 256) (e.1 % 256) x.2 else x.2) })
      else e }

/-- What happens at the start of a step: time passes, and parks end. -/
def State.tick (s : State) : State := s.pass.unparkAll

/-! Fetch and decode. -/

/-- The word at the program counter of the executing agent, or the state after the trap or withholding that the fetch
ends in: ACCESS where the fetch is refused or leaves path 0x0, POISON, and on a core PAGE (R123, R125, R275, R277). -/
def State.fetch (s : State) : Except State (State × Word) :=
  let ea := s.pc.toNat
  if ea / 2 ^ 60 != 0 then .error (s.trap 4 5 s.pc)
  else match s.check s.req ea 8 .fetch with
    | .ok p =>
      if s.poisoned p then .error (s.trap 6 5 s.pc)
      else
        let w := w64 (s.rd p 8)
        .ok (s.touch s.req ea .fetch p, w)
    | .fault level code =>
      match s.cur with
      | .core _ => .error (s.trap 5 5 s.pc)
      | .ctx d t c =>
        .error ((s.withhold { kind := .fetch, die := d, tile := t, i := c } ea .fetch level code none).waits .fetch)
    | _ => .error (s.trap 4 5 s.pc)

/-- The word of the executing agent to execute: the fetched word in State.ir and its instruction, or the state that the
fetch or an undecodable word (ILLEGAL, R305) ends in. -/
def State.issueWord (s : State) : State × Option Instr :=
  match s.fetch with
  | .error t => (t, none)
  | .ok (s1, w) =>
    let s2 : State := { s1 with ir := w }
    let s3 := if s2.hart.wait == .fetch then s2.modHart fun h => { h with wait := .run } else s2
    match decodeWord w with
    | .ok i => (s3, some i)
    | .error _ => (s3.illegal, none)

/-- An agent issues; one that has run to its limit takes its WATCHDOG first. -/
def State.issueFrom (s : State) (a : Agent) : State × Option Instr :=
  if s.overdue a then ({ s with arg := .agentRef { a := a } }, some .watchdog)
  else (({ s with cur := a }).modHartOf a fun h => { h with issue := s.steps, nissue := h.nissue + 1, prev := h.issue }).issueWord

/-- The events of the I/O die (R10): those that the root of trust, the firmware, the ports, the time domain and the power
controller take part in, and accesses to memory from the ports. -/
def ioEvent (i : Instr) (a : Arg) : Bool :=
  match i with
  | .coldStart | .powerLoss | .warmStart | .thermalStopEnd | .attestationRequest | .fuseSvnRaise | .lifetimeRecordWrite
  | .recordCopyRequest | .powerSample | .cmRequest | .hostWrite | .hostWriteImm | .hostRead | .hostSend | .fetchAdd
  | .cmpSwap | .hostInvalidOpcode | .cnpReceived | .loopDataFrame | .loopAckFrame | .loopNakFrame | .ackTimer
  | .replayTimeout | .podcfgWrite | .linkDown | .linkUp | .remoteRequest | .ptpSync | .ptpAnnounceTimeout | .timeStep
  | .timerateWrite | .ptpstatWrite | .announceReceived | .eccError | .hotcfgWrite | .evpendAck | .registerWrite
  | .svwdogWrite | .bootwalkGo => true
  | .watchdog => (match a with | .agentRef o => (match o.a with | .core _ => true | .ctx .. => false) | _ => false)
  | _ => false

/-- Whether an event can come about: without power or after a failed fuse load only a cold start (R52), in recovery mode
what R56 gives, in a thermal stop nothing of the compute dies (R22); the lifetime records are written on time while there is power (R59;
entry 58). -/
def State.takes (s : State) (i : Instr) (a : Arg) : Bool :=
  match i with
  | .coldStart => true
  | .powerLoss => s.sys.on
  | .recoveryFrame | .recoveryEnd => s.sys.on && s.sys.boot.recovery
  | .lifetimeRecordWrite => s.sys.on
  | i => s.sys.on && !s.sys.boot.halted && !s.sys.boot.recovery && (!s.sys.power.stopped || ioEvent i a)

/-- An event with its operand, where it can come about and the operand's numbers name parts of the module. -/
def State.takeEvent (s : State) (i : Instr) (a : Arg) : State × Option Instr :=
  if i.isEvent && a.wf && s.takes i a then ({ s with arg := a }, some i) else (s, none)

/-- The first event of the agenda, where it is due. -/
def State.dueEvent (s : State) : Option (Pending × List Pending) :=
  match s.agenda with
  | p :: r => if p.due ≤ s.sys.clock then some (p, r) else none
  | [] => none

/-- What happens next (entry 3): what the script says, else an event from outside, else an event of the hardware that is
due and an instruction in turn. -/
def State.choose (s : State) : State × Option Instr :=
  match s.script with
  | .issue a :: r =>
    let s1 : State := { s with script := r }
    if s.canIssue a then s1.issueFrom a else (s1, none)
  | .event k :: r =>
    match s.agenda[k]? with
    | some p => ({ s with script := r, agenda := s.agenda.eraseIdx k }).takeEvent p.ev p.arg
    | none => ({ s with script := r }, none)
  | .idle :: r => ({ s with script := r }, none)
  | [] =>
    match s.inbox with
    | (i, a) :: r => ({ s with inbox := r }).takeEvent i a
    | [] =>
      match s.dueEvent, s.nextAgent with
      | some (p, r), none => ({ s with agenda := r }).takeEvent p.ev p.arg
      | some (p, r), some a => if s.steps % 2 == 0 then ({ s with agenda := r }).takeEvent p.ev p.arg else s.issueFrom a
      | none, some a => s.issueFrom a
      | none, none => (s, none)

/-! The host's question: a word placed where the next step fetches it (entry 4). -/

/-- The page table entry of a table at a physical address. -/
def tableEntry (pa : Nat) : List Byte := leOf 8 (pa + 1)

/-- The module with a word at VA 0x10000 of a supervisor-level region of die 0 (slot 0, boot walk) whose context 0 of
tile 0 is live, its program counter there, and the next step set to issue from it. -/
def State.placed (s : State) (w : Nat) : State :=
  let m := ((((((s.mem.put 0x1000 (tableEntry 0x2000)).put 0x2000 (tableEntry 0x3000)).put 0x3000 (tableEntry 0x4000)).put 0x4000
    (tableEntry 0x5000)).put 0x5080 (leOf 8 (0x6000 + 0x3F))).put 0x6000 (leOf 8 w))
  { ((({ s with mem := m, tlb := [], l2 := [], inbox := [], script := [.issue (.ctx 0 0 0)] }).modSlot 0 0 fun r =>
        { r with state := .armed, boot := true, ptbr := 0x1001 }).modCtx 0 0 0 fun x =>
          { x with live := true, cls := 0, wdogDone := true, hart := { x.hart with pc := 0x10000, wait := .run, issue := 0 } }) with
    withheld := []
    poison := []
    sys := { s.sys with power := { s.sys.power with stopped := false } } }

end Sys2Proof.Machine
end

