-- ==== Sys2Proof/Machine/Access.lean ====
section
/-! DEFINITION. Accesses of an instruction (15 R332-R334; 06 R123, R125; 12 R288): the checks in the order of R333, then
the access at its home, a register of control space, or a request to another module (02 R40, R41). -/

namespace Sys2Proof.Machine

/-- The address of a format S instruction (R332). -/
def State.ea (s : State) (o : SFmt) : Word := s.getG o.a + s.getG o.b + o.imm.signExtend 64

/-- The executing agent's access meets a translation fault (R123, R125): PAGE on a core, else the context withholds. -/
def State.pageFault (s : State) (ea : Nat) (a : Acc) (level code : Nat) : State :=
  if s.onCore then s.trap 5 0 (w64 ea) else (s.withhold s.myUnit ea a level code none).waits .withhold

/-- The checks of R333 on an access of n bytes at ea; align is the alignment the instruction calls for. -/
def State.access (s : State) (ea n align : Nat) (a : Acc) (k : Place → State → State) : State :=
  if ea / 2 ^ 60 == 4 && !s.isSup then s.priv
  else if ea % align != 0 then s.trap 3 0 (w64 ea)
  else match s.check s.req ea n a with
    | .ok p => k (.mem p) (s.touch s.req ea a p)
    | .void => k .void s
    | .reg c d l => k (.reg c d l) s
    | .remote m va => k (.remote m va) s
    | .hold d i => s.waits (.arming d i)
    | .refuse _ => s.trap 4 0 (w64 ea)
    | .fault level code => s.pageFault ea a level code

/-- A guarded instruction with a memory operand at ea: an application-level address on path 0x4 traps PRIV whatever the guard holds
(R275, R295). -/
def State.guardedAt (s : State) (gn : Bool) (gs : BitVec 3) (ea : Nat) (k : State → State) : State :=
  if ea / 2 ^ 60 == 4 && !s.isSup then s.priv else s.guarded gn gs k

/-- A request of the executing context to another module, of the operand that loc names (R276): it waits for the reply; a refused one traps ACCESS, poisoned
data POISON (R41). -/
def State.viaPod (s : State) (loc ea m va n : Nat) (op : RemoteOp) (x y : Word) (data : List Byte)
    (k : RemoteReq → State → State) : State :=
  match s.remote s.myUnit (s.myTag 0) m va n op x y data with
  | (s1, .error id) => s1.waits (.remote id)
  | (s1, .ok r) =>
    if !r.ok then s1.trap 4 loc (w64 ea)
    else match r.pois with
      | some off => s1.trap 6 loc (w64 (ea + off))
      | none => k r s1

/-! Aliases (R140): an access of HBM through another form of address may go before the context's own store for a while (R143). -/

/-- Whether an own store of a byte may be missed by a read of n bytes at ea, which stand at p. -/
def State.isLate (s : State) (ea : Nat) (p : Phys) (n : Nat) (e : Late) : Bool :=
  p.key ≤ e.key && e.key < p.key + n && e.ea != ea + (e.key - p.key) && s.sys.cycles ≤ e.til && (!e.far || e.ea / 2 ^ 60 != ea / 2 ^ 60)

/-- Whether a read of the executing context may miss an own store. -/
def State.mayMiss (s : State) (ea : Nat) (p : Phys) (n : Nat) : Bool := !s.onCore && p.mt != 3 && s.me.late.any (s.isLate ea p n)

/-- The value of a read that misses the own stores it may miss. -/
def State.missed (s : State) (ea : Nat) (p : Phys) (n : Nat) : Nat :=
  leVal ((leOf n (s.rdFor s.req p n)).zipIdx.map fun b =>
    ((s.me.late.find? fun e => e.key == p.key + b.2 && s.isLate ea p n e).map (·.old)).getD b.1)

/-- The executing context has seen its stores to n bytes at p: no later read misses them (R139). -/
def State.dropLate (s : State) (p : Phys) (n : Nat) : State :=
  if s.onCore || s.me.late.isEmpty then s
  else s.modMe fun x => { x with late := x.late.filter fun e => !(p.key ≤ e.key && e.key < p.key + n) }

/-- A store of the executing context of n bytes at ea, which stand at p. -/
def State.noteLate (s : State) (ea : Nat) (p : Phys) (n : Nat) : State :=
  if s.onCore || p.mt == 3 then s
  else
    let new := (List.range n).map fun i =>
      ({ ea := ea + i, key := p.key + i, old := s.mem.byte (s.home p + i), til := s.sys.cycles + 2560, far := false, st := 0 } : Late)
    s.modMe fun x => { x with late := new ++ x.late.filter fun e => s.sys.cycles ≤ e.til && !(p.key ≤ e.key && e.key < p.key + n) }

/-- Whether a store of n bytes at ea, which stand at p, may be performed before an own earlier store of a byte. -/
def State.isPassed (s : State) (ea : Nat) (p : Phys) (n : Nat) (e : Late) : Bool :=
  s.isLate ea p n e && (e.st == 0 || (e.st == 1 && e.ea / 2 ^ 60 != ea / 2 ^ 60))

/-- Whether a store of the executing context may be performed before an own earlier store. -/
def State.mayPass (s : State) (ea : Nat) (p : Phys) (n : Nat) : Bool := !s.onCore && p.mt != 3 && s.me.late.any (s.isPassed ea p n)

/-- Whether a queued instruction is an MMA of context c, which reads scratch as it stands at its issue for that context (R378). -/
def MatOp.reads (m : MatOp) (c : Nat) : Bool := m.c == c && (match m.kind with | .mma _ => true | _ => false)

/-- A queued MMA with the n scratch bytes from key k on as they stand before a store, those that it keeps already left out. -/
def MatOp.keep (m : MatOp) (s : State) (k n : Nat) : MatOp :=
  { m with own := m.own ++ ((List.range n).filter fun i => !m.own.any fun o => o.1 == k + i).map fun i =>
      (k + i, s.mem.byte (k + i), s.poison.contains ((k + i) / 64)) }

/-- The scratch bytes from key k on as they stand before an own store of n bytes, kept for the MMAs of the executing context that are
queued: they do not see the store (R136, R139, R378). -/
def State.keepOld (s : State) (k n : Nat) : State :=
  if s.onCore || k < 2 ^ 41 || 2 ^ 42 ≤ k || !(s.myTile.mq.any fun m => m.reads s.cix) then s
  else s.modMyTile fun t => { t with mq := t.mq.map fun m => if m.reads s.cix then m.keep s k n else m }

/-- A store of the executing context of n bytes at ea, which stand at p, by an instruction that makes several: what depends on the bytes
that stood there is kept. -/
def State.noteStore (s : State) (ea : Nat) (p : Phys) (n : Nat) : State := (s.keepOld p.key n).noteLate ea p n

/-- A store of the executing context performed before its earlier stores that it may pass: their bytes stay, and what they hide is now
this store's. -/
def State.putBefore (s : State) (ea : Nat) (p : Phys) (bs : List Byte) : State :=
  let n := bs.length
  let hit := fun i => s.me.late.any fun e => e.key == p.key + i && s.isPassed ea p n e
  let mine := fun (e : Late) => p.key ≤ e.key && e.key < p.key + n && !hit (e.key - p.key)
  let old := (s.me.late.filter fun e => !mine e).map fun e => if s.isPassed ea p n e then { e with old := bs.getD (e.key - p.key) 0 } else e
  let both := bs.zipIdx.map fun b => if hit b.2 then s.mem.byte (s.home p + b.2) else b.1
  let s1 := s.noteLate ea p n
  (s1.modMe fun x => { x with late := x.late.filter mine ++ old }).wrFor s.req p both

/-- A store of the executing context at its home; where rel is not set, it may be performed before earlier ones of its own (R140). -/
def State.putOwn (s : State) (rel : Bool) (ea : Nat) (p : Phys) (bs : List Byte) : State :=
  let plain := fun (s : State) => (s.noteStore ea p bs.length).wrFor s.req p bs
  if !rel && s.mayPass ea p bs.length then
    let (s1, w) := s.freeVal
    if w.getLsbD 0 then s1.putBefore ea p bs else plain s1
  else plain s

/-- The executing context's earlier stores are ordered before its later ones at a scope (R148). -/
def State.orderStores (s : State) (pod : Bool) : State :=
  if s.onCore || s.me.late.isEmpty then s
  else s.modMe fun x => { x with late := x.late.map fun e => { e with st := if pod then 2 else max e.st 1 } }

/-- What orders the context's earlier stores before its later accesses at a scope: below pod scope paths 0x0 and 0x3 stay unordered. An
acquire is taken to order every own store that it may have observed again (R146; entry 21). -/
def Context.orderLate (x : Context) (pod : Bool) : Context :=
  { x with late := if pod then [] else x.late.map fun e => { e with far := true } }

/-- As Context.orderLate, of the executing context. -/
def State.orderLate (s : State) (pod : Bool) : State :=
  if s.onCore || s.me.late.isEmpty then s else s.modMe fun x => x.orderLate pod

/-- Whether a scalar load or store of n bytes is refused on path 0x4, where only those of 8 pass (R335, R336). -/
def narrow4 (ea n : Nat) : Bool := ea / 2 ^ 60 == 4 && n != 8

/-- A read of n bytes, aligned to n: k takes the value (R335). -/
def State.load (s : State) (ea n : Nat) (k : Nat → State → State) : State :=
  s.access ea n n .read fun p s =>
    if narrow4 ea n then s.trap 4 0 (w64 ea)
    else match p with
    | .mem p =>
      if s.poisonFor s.req p then s.trap 6 0 (w64 ea)
      else if s.mayMiss ea p n then
        let (s1, w) := s.freeVal
        if w.getLsbD 0 then k (s.missed ea p n) s1 else k (s.rdFor s.req p n) (s1.dropLate p n)
      else k (s.rdFor s.req p n) s
    | .void => k 0 s
    | .reg c d l => k (s.readCtl c d l).toNat s
    | .remote m va => s.viaPod 0 ea m va n .read 0 0 [] fun r s => k (leVal r.data) s

/-- A write of bytes, aligned to their number, that ends the instruction (R335); rel tells that it is a release (R343). -/
def State.store (s : State) (rel : Bool) (ea : Nat) (bs : List Byte) : State :=
  s.access ea bs.length bs.length .write fun p s =>
    if narrow4 ea bs.length then s.trap 4 0 (w64 ea)
    else match p with
    | .mem p => s.advance.putOwn rel ea p bs
    | .void => s.advance
    | .reg c d l => s.advance.writeCtl c d l (w64 (leVal bs))
    | .remote m va => s.viaPod 0 ea m va bs.length .write 0 0 bs fun _ s => s.advance

/-- Whether a read-modify-write of 8 bytes may be performed whole before the context's earlier stores. -/
def State.atomicPasses (s : State) (ea : Nat) (p : Phys) : Bool :=
  s.mayPass ea p 8 && s.me.late.all fun e => !s.isLate ea p 8 e || s.isPassed ea p 8 e

/-- A read-modify-write of 8 bytes (R340-R342): f gives the new value, or none where nothing is written; k takes the old
value. x and y are the operands as another module receives them; rel tells that it is a release, which no earlier access of the context
follows (R140, R146). -/
def State.atomic (s : State) (rel : Bool) (ea : Nat) (op : RemoteOp) (x y : Word) (f : Word → Option Word) (k : Word → State → State) :
    State :=
  s.access ea 8 8 .rmw fun p s =>
    match p with
    | .mem p =>
      if s.poisonFor s.req p then s.trap 6 0 (w64 ea)
      else
        let plain := fun (s : State) =>
          let old := w64 (s.rdFor s.req p 8)
          k old (match f old with
            | some v => (s.noteStore ea p 8).wrFor s.req p (leOf 8 v.toNat)
            | none => s.dropLate p 8)
        if !rel && s.atomicPasses ea p then
          let (s1, w) := s.freeVal
          let old := w64 (s1.missed ea p 8)
          if w.getLsbD 0 then k old (match f old with | some v => s1.putBefore ea p (leOf 8 v.toNat) | none => s1) else plain s1
        else plain s
    | .void => k 0 s
    | .reg .. => s.trap 4 0 (w64 ea)
    | .remote m va => s.viaPod 0 ea m va 8 op x y [] fun r s => k (w64 (leVal r.data)) s

end Sys2Proof.Machine
end

