-- ==== Sys2Proof/Machine/Memory.lean ====
section
/-! DEFINITION. Scalar memory, atomics and ordering (15 R335-R347). Every access is performed at its home in the step of its
instruction, so that the orders of acquire and release hold of themselves (entry 21); what a context's own accesses through another form
of address may go before, and what fences, acquires and releases order of it, follows R140. -/

namespace Sys2Proof.Machine

/-- A load of n bytes, extended by ext (R335). -/
def State.loadReg (s : State) (o : SFmt) (n : Nat) (ext : Nat → Word) : State :=
  s.guardedAt o.gn o.gs (s.ea o).toNat fun s => s.load (s.ea o).toNat n fun v s => (s.setG o.d (ext v)).advance

/-- A store of the low n bytes of g[d] (R335). -/
def State.storeReg (s : State) (o : SFmt) (n : Nat) : State :=
  s.guardedAt o.gn o.gs (s.ea o).toNat fun s => s.store false (s.ea o).toNat (leOf n (s.getG o.d).toNat)

/-- A value of 8 n bits, sign extended. -/
def signed (n v : Nat) : Word := if v < 2 ^ (8 * n - 1) then w64 v else w64 (2 ^ 64 - 2 ^ (8 * n) + v)

/-- The new value of an atomic from the old and the operand (R340). -/
def atomicOp (op : RemoteOp) (old v : Word) : Word :=
  match op with
  | .add => old + v
  | .and => old &&& v
  | .or => old ||| v
  | .xor => old ^^^ v
  | .min => if old.toInt ≤ v.toInt then old else v
  | .max => if old.toInt ≤ v.toInt then v else old
  | .minu => if old ≤ v then old else v
  | .maxu => if old ≤ v then v else old
  | .swap => v
  | .read | .write | .cas | .flush | .inval | .ref _ | .pin _ => old

/-- Whether an atomic is an acquire: ord 1 and 3 (R146). -/
def acquires (o : SFmt) : Bool := o.ord.getLsbD 0
/-- Whether an atomic is a release: ord 2 and 3 (R146). -/
def releases (o : SFmt) : Bool := o.ord.getLsbD 1

/-- What an atomic orders of the context's own accesses: an acquire its stores before its later ones (R140, R146). -/
def State.orderAtomic (s : State) (o : SFmt) : State := if acquires o then s.orderLate (o.scope = 3) else s

/-- An atomic on g[d] (R340). -/
def State.atomicReg (s : State) (o : SFmt) (op : RemoteOp) : State :=
  s.guardedAt o.gn o.gs (s.ea o).toNat fun s =>
    let v := s.getG o.d
    s.atomic (releases o) (s.ea o).toNat op v 0 (fun old => some (atomicOp op old v)) fun old s => ((s.orderAtomic o).setG o.d old).advance

/-- A line instruction: on path 0x0, or path 0x3 to this module, with mt 0 or 2 the home slice drops its copy, at another
module the same is done there; elsewhere it does nothing (R338, R339). -/
def State.lineOp (s : State) (o : SFmt) (a : Acc) (op : RemoteOp) (wb : Bool) : State :=
  s.access (s.ea o).toNat 1 1 a fun p s =>
    match p with
    | .mem p => if p.mt == 0 || p.mt == 2 then s.advance.drop p.key wb else s.advance
    | .void => s.advance
    | .reg .. => s.trap 4 0 (s.ea o)
    | .remote m va => s.viaPod 0 (s.ea o).toNat m va 1 op 0 0 [] fun _ s => s.advance

/-- The line a PREF asks for: of a cached page, not yet held, whose home slice caches (R337). -/
def State.prefetch (s : State) (ea : Nat) : State :=
  if ea / 2 ^ 60 != 0 then s
  else match s.check s.req ea 1 .read with
    | .ok p => if (p.mt == 0 || p.mt == 2) && s.cacheable p.key && !s.held p.key then s.fill p.key false else s
    | _ => s

/-- LDB (R335). -/
def execLdb (o : SFmt) (s : State) : Host.Outcome State Fault Refusal :=
  .next (s.loadReg o 1 (signed 1))

/-- LDBU (R335). -/
def execLdbu (o : SFmt) (s : State) : Host.Outcome State Fault Refusal :=
  .next (s.loadReg o 1 w64)

/-- LDH (R335). -/
def execLdh (o : SFmt) (s : State) : Host.Outcome State Fault Refusal :=
  .next (s.loadReg o 2 (signed 2))

/-- LDHU (R335). -/
def execLdhu (o : SFmt) (s : State) : Host.Outcome State Fault Refusal :=
  .next (s.loadReg o 2 w64)

/-- LDW (R335). -/
def execLdw (o : SFmt) (s : State) : Host.Outcome State Fault Refusal :=
  .next (s.loadReg o 4 (signed 4))

/-- LDWU (R335). -/
def execLdwu (o : SFmt) (s : State) : Host.Outcome State Fault Refusal :=
  .next (s.loadReg o 4 w64)

/-- LDD (R335). -/
def execLdd (o : SFmt) (s : State) : Host.Outcome State Fault Refusal :=
  .next (s.loadReg o 8 w64)

/-- STB (R335). -/
def execStb (o : SFmt) (s : State) : Host.Outcome State Fault Refusal :=
  .next (s.storeReg o 1)

/-- STH (R335). -/
def execSth (o : SFmt) (s : State) : Host.Outcome State Fault Refusal :=
  .next (s.storeReg o 2)

/-- STW (R335). -/
def execStw (o : SFmt) (s : State) : Host.Outcome State Fault Refusal :=
  .next (s.storeReg o 4)

/-- STD (R335). -/
def execStd (o : SFmt) (s : State) : Host.Outcome State Fault Refusal :=
  .next (s.storeReg o 8)

/-- LDQ: two pieces of 8 bytes (R336). -/
def execLdq (o : SFmt) (s : State) : Host.Outcome State Fault Refusal :=
  .next (s.guardedAt o.gn o.gs (s.ea o).toNat fun s => s.load (s.ea o).toNat 16 fun v s =>
    ((s.setG o.d (w64 v)).setG (o.d + 1) (w64 (v / 2 ^ 64))).advance)

/-- STQ (R336). -/
def execStq (o : SFmt) (s : State) : Host.Outcome State Fault Refusal :=
  .next (s.guardedAt o.gn o.gs (s.ea o).toNat fun s =>
    s.store false (s.ea o).toNat (leOf 8 (s.getG o.d).toNat ++ leOf 8 (s.getG (o.d + 1)).toNat))

/-- PREF: it never traps and never withholds (R337). -/
def execPref (o : SFmt) (s : State) : Host.Outcome State Fault Refusal :=
  .next (s.guarded o.gn o.gs fun s => (s.prefetch (s.ea o).toNat).advance)

/-- CFLUSH (R338). -/
def execCflush (o : SFmt) (s : State) : Host.Outcome State Fault Refusal :=
  .next (s.guardedAt o.gn o.gs (s.ea o).toNat fun s => s.lineOp o .line .flush true)

/-- CINV: supervisor only; its page needs w (R339). -/
def execCinv (o : SFmt) (s : State) : Host.Outcome State Fault Refusal :=
  .next (s.guardedSup o.gn o.gs true fun s => s.lineOp o .write .inval false)

/-- AADD (R340). -/
def execAadd (o : SFmt) (s : State) : Host.Outcome State Fault Refusal :=
  .next (s.atomicReg o .add)

/-- AAND (R340). -/
def execAand (o : SFmt) (s : State) : Host.Outcome State Fault Refusal :=
  .next (s.atomicReg o .and)

/-- AOR (R340). -/
def execAor (o : SFmt) (s : State) : Host.Outcome State Fault Refusal :=
  .next (s.atomicReg o .or)

/-- AXOR (R340). -/
def execAxor (o : SFmt) (s : State) : Host.Outcome State Fault Refusal :=
  .next (s.atomicReg o .xor)

/-- AMIN (R340). -/
def execAmin (o : SFmt) (s : State) : Host.Outcome State Fault Refusal :=
  .next (s.atomicReg o .min)

/-- AMAX (R340). -/
def execAmax (o : SFmt) (s : State) : Host.Outcome State Fault Refusal :=
  .next (s.atomicReg o .max)

/-- AMINU (R340). -/
def execAminu (o : SFmt) (s : State) : Host.Outcome State Fault Refusal :=
  .next (s.atomicReg o .minu)

/-- AMAXU (R340). -/
def execAmaxu (o : SFmt) (s : State) : Host.Outcome State Fault Refusal :=
  .next (s.atomicReg o .maxu)

/-- ASWAP (R340). -/
def execAswap (o : SFmt) (s : State) : Host.Outcome State Fault Refusal :=
  .next (s.atomicReg o .swap)

/-- ACAS: expected g[d], new g[d + 1]; a failure writes nothing (R341). -/
def execAcas (o : SFmt) (s : State) : Host.Outcome State Fault Refusal :=
  .next (s.guardedAt o.gn o.gs (s.ea o).toNat fun s =>
    let exp := s.getG o.d
    let new := s.getG (o.d + 1)
    s.atomic (releases o) (s.ea o).toNat .cas exp new (fun old => if old = exp then some new else none) fun old s =>
      ((s.orderAtomic o).setG o.d old).advance)

/-- LDAQ: a load that is an acquire at its scope (R343). -/
def execLdaq (o : SFmt) (s : State) : Host.Outcome State Fault Refusal :=
  .next (s.guardedAt o.gn o.gs (s.ea o).toNat fun s => s.load (s.ea o).toNat 8 fun v s =>
    ((s.orderLate (o.scope = 3)).setG o.d (w64 v)).advance)

/-- STREL: a store that is a release (R343). -/
def execStrel (o : SFmt) (s : State) : Host.Outcome State Fault Refusal :=
  .next (s.guardedAt o.gn o.gs (s.ea o).toNat fun s => s.store true (s.ea o).toNat (leOf 8 (s.getG o.d).toNat))

/-- What a FENCE of a kind orders of the executing context's own accesses at a scope (R148): kind 2 its stores before later stores, the
other kinds what it has observed before all that follows. -/
def State.fenced (s : State) (kind : Nat) (pod : Bool) : State := if kind = 2 then s.orderStores pod else s.orderLate pod

/-- FENCE: earlier accesses are performed at their issue; of kind streams it waits until the pushes of the context's links are written
(R140, R148, R344). -/
def execFence (o : SFmt) (s : State) : Host.Outcome State Fault Refusal :=
  .next (s.guarded o.gn o.gs fun s =>
    let kind := o.imm.toNat % 4
    if kind = 3 && !s.onCore && s.me.pushesPort then s.waits .streams else (s.fenced kind (o.scope = 3)).advance)

/-- SBAR: the named read streams read again what they have not delivered (R154, R345). -/
def execSbar (o : SFmt) (s : State) : Host.Outcome State Fault Refusal :=
  .next (s.guardedCtx o.gn o.gs fun s =>
    ((List.range 16).foldl (fun s e => if o.imm.getLsbD e && !bit (vget (s.myTile.ape e).cfg 1 0) 4 then s.rereads s.die s.tix e else s) s).advance)

/-- SGPOST (R346). -/
def execSgpost (o : SFmt) (s : State) : Host.Outcome State Fault Refusal :=
  .next (s.guardedCtx o.gn o.gs fun s =>
    (s.modMyTile fun t => { t with sigs := vput t.sigs (o.imm.toNat % 8) (vget t.sigs (o.imm.toNat % 8) 0 + 1) }).advance)

/-- SGWAIT: until the count reaches its target, modulo 2^32; it acquires the posts that it counts (R158, R347). -/
def execSgwait (o : SFmt) (s : State) : Host.Outcome State Fault Refusal :=
  .next (s.guardedCtx o.gn o.gs fun s =>
    let k := o.imm.toNat % 8
    let n : Lane := (s.getG o.a).setWidth 32 + (o.imm >>> 8)
    if (vget s.myTile.sigs k 0 - n).toNat < 2 ^ 31 then (s.orderLate false).advance else s.waits (.signal k n))

end Sys2Proof.Machine
end

