-- ==== Sys2Proof/Machine/Flags.lean ====
section
/-! DEFINITION. Number formats, exact values, rounding and the exception flags (10 R231-R253; 11 R258). A result is
computed exactly as sign, magnitude m x 2^e and a mark that a non-zero part below m was cut off, and rounded once. -/

namespace Sys2Proof.Machine

/-! Flags (R200, R240). -/

/-- The seven flags in the bit order of CTX.FFLAGS. -/
abbrev Fl := BitVec 7
/-- inexact. -/
def flInexact : Fl := 1
/-- underflow. -/
def flUnderflow : Fl := 2
/-- overflow. -/
def flOverflow : Fl := 4
/-- divzero. -/
def flDivzero : Fl := 8
/-- invalid. -/
def flInvalid : Fl := 16
/-- cutread. -/
def flCutread : Fl := 32
/-- nanseen. -/
def flNan : Fl := 64
/-- A flag where a condition holds. -/
def flIf (c : Bool) (f : Fl) : Fl := if c then f else 0

/-! Formats (R231). -/

/-- A floating format: fraction width, exponent width, bias, and whether it holds infinities (all but E4M3). -/
structure FFmt where
  fb : Nat
  eb : Nat
  bias : Nat
  ieee : Bool
  deriving DecidableEq, Repr

/-- FP32. -/
def fp32 : FFmt := { fb := 23, eb := 8, bias := 127, ieee := true }
/-- FP16. -/
def fp16 : FFmt := { fb := 10, eb := 5, bias := 15, ieee := true }
/-- BF16. -/
def bf16 : FFmt := { fb := 7, eb := 8, bias := 127, ieee := true }
/-- E5M2. -/
def e5m2 : FFmt := { fb := 2, eb := 5, bias := 15, ieee := true }
/-- E4M3. -/
def e4m3 : FFmt := { fb := 3, eb := 4, bias := 7, ieee := false }

/-- The format of a floating type code (R237); FP32 for the others. -/
def fmtOf (typ : Nat) : FFmt := match typ with | 1 => bf16 | 2 => fp16 | 3 => e4m3 | 4 => e5m2 | 6 => e4m3 | _ => fp32

/-- The exponent of the subnormal grid. -/
def FFmt.qmin (f : FFmt) : Int := 1 - (f.bias : Int) - f.fb
/-- The sign bit. -/
def FFmt.signBit (f : FFmt) : Nat := 2 ^ (f.fb + f.eb)
/-- The magnitude code of the largest finite value. -/
def FFmt.maxCode (f : FFmt) : Nat := if f.ieee then (2 ^ f.eb - 1) * 2 ^ f.fb - 1 else 2 ^ (f.fb + f.eb) - 2
/-- The magnitude code of infinity; of the NaN in E4M3. -/
def FFmt.infCode (f : FFmt) : Nat := f.maxCode + 1
/-- The canonical NaN (R232). -/
def FFmt.nanCode (f : FFmt) : Nat := if f.ieee then (2 ^ f.eb - 1) * 2 ^ f.fb + 2 ^ (f.fb - 1) else 2 ^ (f.fb + f.eb) - 1
/-- A code with a sign. -/
def FFmt.signed (f : FFmt) (neg : Bool) (code : Nat) : Nat := code + b2n neg * f.signBit

/-- A value of a floating format; in num m is not 0. -/
inductive FNum where
  | nan
  | inf (neg : Bool)
  | zero (neg : Bool)
  | num (neg : Bool) (m : Nat) (e : Int)
  deriving DecidableEq, Repr

/-- The value of an encoding (R231). -/
def FFmt.val (f : FFmt) (code : Nat) : FNum :=
  let neg := code / f.signBit % 2 == 1
  let mag := code % f.signBit
  let e := mag / 2 ^ f.fb
  let fr := mag % 2 ^ f.fb
  if f.infCode < mag || (mag == f.infCode && !f.ieee) then .nan
  else if mag == f.infCode then .inf neg
  else if e == 0 then (if fr == 0 then .zero neg else .num neg fr f.qmin)
  else .num neg (2 ^ f.fb + fr) ((e : Int) - f.bias - f.fb)

/-- The FP32 reading of a lane. -/
def laneVal (x : Lane) : FNum := fp32.val x.toNat

/-! Exact results. -/

/-- An exact result: a NaN with its invalid flag, an infinity with its divzero flag, a signed zero, or m x 2^e with m not
0; sticky says that the value exceeds m x 2^e by less than 2^e. -/
inductive Exact where
  | nan (inv : Bool)
  | inf (neg : Bool) (dz : Bool)
  | zero (neg : Bool)
  | num (neg : Bool) (m : Nat) (e : Int) (sticky : Bool)
  deriving DecidableEq, Repr

/-- A value as a result. -/
def FNum.exact : FNum → Exact
  | .nan => .nan false
  | .inf s => .inf s false
  | .zero s => .zero s
  | .num s m e => .num s m e false

/-- The sign of a value; a NaN has none. -/
def FNum.neg : FNum → Bool
  | .nan => false
  | .inf s => s
  | .zero s => s
  | .num s _ _ => s

/-- A value with its sign changed. -/
def FNum.flip : FNum → FNum
  | .nan => .nan
  | .inf s => .inf !s
  | .zero s => .zero !s
  | .num s m e => .num (!s) m e

/-- A signed magnitude as an integer. -/
def sgn (neg : Bool) (m : Nat) : Int := if neg then -(m : Int) else m

/-- The sum m1 x 2^e1 + m2 x 2^e2 as an integer at the lesser exponent. -/
def alignSum (a : Int) (ea : Int) (b : Int) (eb : Int) : Int × Int :=
  let e := min ea eb
  (a * 2 ^ (ea - e).toNat + b * 2 ^ (eb - e).toNat, e)

/-- x + y (R242): an exact zero sum of opposite signs is -0 in RDN only. -/
def addE (x y : FNum) (rnd : Nat) : Exact :=
  match x, y with
  | .nan, _ => .nan false
  | _, .nan => .nan false
  | .inf s, .inf t => if s == t then .inf s false else .nan true
  | .inf s, _ => .inf s false
  | _, .inf s => .inf s false
  | .zero s, .zero t => .zero (if s == t then s else rnd == 3)
  | .zero _, .num s m e => .num s m e false
  | .num s m e, .zero _ => .num s m e false
  | .num s m e, .num t n f =>
    let (v, g) := alignSum (sgn s m) e (sgn t n) f
    if v = 0 then .zero (rnd == 3) else .num (v < 0) v.natAbs g false

/-- x times y as a value, and whether it is invalid. -/
def mulV (x y : FNum) : FNum × Bool :=
  match x, y with
  | .nan, _ => (.nan, false)
  | _, .nan => (.nan, false)
  | .inf _, .zero _ => (.nan, true)
  | .zero _, .inf _ => (.nan, true)
  | .num s m e, .num t n f => (.num (s != t) (m * n) (e + f), false)
  | .inf s, y => (.inf (s != y.neg), false)
  | x, .inf t => (.inf (x.neg != t), false)
  | .zero s, y => (.zero (s != y.neg), false)
  | x, .zero t => (.zero (x.neg != t), false)

/-- A result that is invalid where a part of it was. -/
def Exact.orInvalid (x : Exact) (inv : Bool) : Exact := match x with | .nan i => .nan (i || inv) | _ => if inv then .nan true else x

/-- x times y. -/
def mulE (x y : FNum) : Exact := let (p, i) := mulV x y; p.exact.orInvalid i

/-- x times y plus z, the product negated where neg is set (R353). -/
def fmaE (x y z : FNum) (neg : Bool) (rnd : Nat) : Exact :=
  let (p, i) := mulV x y
  (addE (if neg then p.flip else p) z rnd).orInvalid i

/-- x / y; the quotient keeps 64 bits or more and a sticky mark. -/
def divE (x y : FNum) : Exact :=
  match x, y with
  | .nan, _ => .nan false
  | _, .nan => .nan false
  | .inf _, .inf _ => .nan true
  | .zero _, .zero _ => .nan true
  | .inf s, y => .inf (s != y.neg) false
  | x, .inf t => .zero (x.neg != t)
  | .zero s, y => .zero (s != y.neg)
  | x, .zero t => .inf (x.neg != t) true
  | .num s m e, .num t n f =>
    let k := 64 + n.log2
    .num (s != t) (m * 2 ^ k / n) (e - f - k) (m * 2 ^ k % n != 0)

/-- The integer square root of n, tried bit by bit from 2^k down. -/
def isqrtFrom (n : Nat) : Nat → Nat → Nat
  | 0, r => r
  | k + 1, r => if (r + 2 ^ k) * (r + 2 ^ k) ≤ n then isqrtFrom n k (r + 2 ^ k) else isqrtFrom n k r

/-- The integer square root. -/
def isqrt (n : Nat) : Nat := isqrtFrom n (n.log2 / 2 + 1) 0

/-- The square root. -/
def sqrtE (x : FNum) : Exact :=
  match x with
  | .nan => .nan false
  | .zero s => .zero s
  | .inf s => if s then .nan true else .inf false false
  | .num s m e =>
    if s then .nan true
    else
      let odd := e % 2 = 1
      let n := (if odd then 2 * m else m) * 2 ^ 128
      let r := isqrt n
      .num false r ((if odd then e - 1 else e) / 2 - 64) (r * r != n)

/-- x times 2^n (R353, VSCALE). -/
def scaleE (x : FNum) (n : Int) : Exact := match x with | .num s m e => .num s m (e + n) false | x => x.exact

/-- Order of two values that are not NaNs, -0 below +0 where zeros is set. -/
def ltV (zeros : Bool) (x y : FNum) : Bool :=
  match x, y with
  | .nan, _ => false
  | _, .nan => false
  | .inf s, .inf t => s && !t
  | .inf s, _ => s
  | _, .inf t => !t
  | .zero s, .zero t => zeros && s && !t
  | .zero _, .num t _ _ => !t
  | .num s _ _, .zero _ => s
  | .num s m e, .num t n f => let (v, _) := alignSum (sgn s m) e (-(sgn t n)) f; v < 0

/-- The greater of two values (R242). -/
def maxE (x y : FNum) : Exact :=
  if x == .nan || y == .nan then .nan false else if ltV true x y then y.exact else x.exact
/-- The lesser of two values (R242). -/
def minE (x y : FNum) : Exact :=
  if x == .nan || y == .nan then .nan false else if ltV true y x then y.exact else x.exact

/-! Rounding (R239). -/

/-- A magnitude rounded to a multiple of 2^q: the multiple, and whether it differs from the value. -/
def roundAt (neg : Bool) (m : Nat) (e : Int) (sticky : Bool) (q : Int) (rnd : Nat) : Nat × Bool :=
  if q ≤ e then (m * 2 ^ (e - q).toNat, sticky)
  else
    let sh := (q - e).toNat
    let far := m.log2 + 2 ≤ sh
    let hi := if far then 0 else m / 2 ^ sh
    let rem := if far then 1 else m % 2 ^ sh
    let half := if far then 2 else 2 ^ (sh - 1)
    let inexact := sticky || rem != 0
    let up := match rnd with
      | 0 => half < rem || (rem == half && (sticky || hi % 2 == 1))
      | 1 => false
      | 2 => inexact && !neg
      | _ => inexact && neg
    (hi + b2n up, inexact)

/-- The first step of Round (R239): a multiple r of 2^q, and whether it differs. -/
def roundStep (f : FFmt) (neg : Bool) (m : Nat) (e : Int) (sticky : Bool) (rnd : Nat) : Nat × Int × Bool :=
  let q := max ((m.log2 : Int) + e - f.fb) f.qmin
  let (r, x) := roundAt neg m e sticky q rnd
  if r == 2 ^ (f.fb + 1) then (2 ^ f.fb, q + 1, x) else (r, q, x)

/-- Whether r x 2^q, r below 2^(fb + 1), exceeds the largest finite value. -/
def FFmt.exceeds (f : FFmt) (r : Nat) (q : Int) : Bool :=
  let qmax : Int := (f.maxCode / 2 ^ f.fb : Nat) - (f.bias : Int) - f.fb
  qmax < q || (q == qmax && 2 ^ f.fb + f.maxCode % 2 ^ f.fb < r)

/-- The magnitude code of r x 2^q. -/
def FFmt.code (f : FFmt) (r : Nat) (q : Int) : Nat :=
  if r < 2 ^ f.fb then r else (q - f.qmin + 1).toNat * 2 ^ f.fb + (r - 2 ^ f.fb)

/-- What an overflow delivers (R239); the infinity of E4M3 is its NaN. -/
def FFmt.overflow (f : FFmt) (neg : Bool) (rnd : Nat) : Nat × Fl :=
  let toMax := match rnd with | 0 => false | 1 => true | 2 => neg | _ => !neg
  if toMax then (f.signed neg f.maxCode, 0)
  else if f.ieee then (f.signed neg f.infCode, 0) else (f.nanCode, flNan)

/-- A result rounded to a format, with its flags (R239, R240). -/
def Exact.round (x : Exact) (f : FFmt) (rnd : Nat) : Nat × Fl :=
  match x with
  | .nan inv => (f.nanCode, flNan ||| flIf inv flInvalid)
  | .inf s dz => (if f.ieee then f.signed s f.infCode else f.nanCode, flIf dz flDivzero)
  | .zero s => (f.signed s 0, 0)
  | .num s m e st =>
    let (r, q, inexact) := roundStep f s m e st rnd
    if f.exceeds r q then let (c, fl) := f.overflow s rnd; (c, fl ||| flOverflow ||| flInexact)
    else (f.signed s (f.code r q), flIf inexact flInexact ||| flIf (inexact && r < 2 ^ f.fb) flUnderflow)

/-- A result rounded to FP32 as a lane. -/
def Exact.lane (x : Exact) (rnd : Nat) : Lane × Fl := let (c, fl) := x.round fp32 rnd; (BitVec.ofNat 32 c, fl)

/-- A result under a digit budget of n digits (R258), rounded to FP32. -/
def Exact.budget (x : Exact) (n rnd : Nat) : Lane × Fl :=
  match x with
  | .num s m e st =>
    if n = 0 then x.lane rnd
    else
      let drop := (m.log2 + 1) - 2 * n
      let c := m / 2 ^ drop * 2 ^ drop
      let (l, fl) := (Exact.num s c e false).lane rnd
      (l, fl ||| flIf (st || c != m) flInexact)
  | _ => x.lane rnd

/-- The residual of v and its rounded lane h (R243). -/
def residual (v : Exact) (h : Lane) (rnd : Nat) : Lane :=
  match laneVal h, v with
  | .nan, _ => 0x7FC00000
  | .inf _, _ => 0
  | hv, .num s m e _ =>
    match addE (.num s m e) hv.flip rnd with
    | .zero _ => 0
    | d => (d.lane rnd).1
  | _, _ => 0

/-! Reference algorithms (R247-R252), in exact dyadic arithmetic. -/

/-- A dyadic number m x 2^e. -/
structure Dy where
  m : Int
  e : Int
  deriving DecidableEq, Repr

/-- A whole number. -/
def Dy.int (n : Int) : Dy := { m := n, e := 0 }
/-- A sum. -/
def Dy.add (a b : Dy) : Dy := let (v, e) := alignSum a.m a.e b.m b.e; { m := v, e := e }
/-- A product. -/
def Dy.mul (a b : Dy) : Dy := { m := a.m * b.m, e := a.e + b.e }
/-- A difference. -/
def Dy.sub (a b : Dy) : Dy := a.add { m := -b.m, e := b.e }
/-- A product with 2^n. -/
def Dy.scale (a : Dy) (n : Int) : Dy := { a with e := a.e + n }
/-- The greatest whole number not above. -/
def Dy.floor (a : Dy) : Int := if 0 ≤ a.e then a.m * 2 ^ a.e.toNat else a.m / 2 ^ (-a.e).toNat
/-- As a result; 0 is +0. -/
def Dy.exact (a : Dy) : Exact := if a.m = 0 then .zero false else .num (a.m < 0) a.m.natAbs a.e false

/-- n / d rounded to the nearest whole number, ties to even. -/
def nearest (n d : Nat) : Nat :=
  let q := n / d
  let r := n % d
  if d < 2 * r || (2 * r == d && q % 2 == 1) then q + 1 else q

/-- Parameters A, T, B and U of R248 under CTX.NBV. -/
def tblA (nbv : Nat) : Nat := if nbv == 1 then 7 else 8
/-- T of R248. -/
def tblT (nbv : Nat) : Nat := if nbv == 1 then 12 else 16
/-- B of R248. -/
def tblB (nbv : Nat) : Nat := if nbv == 1 then 5 else 6
/-- U of R248. -/
def tblU (nbv : Nat) : Nat := if nbv == 1 then 24 else 30

/-- The significand in [1, 2) of m x 2^e, and its exponent (R247). -/
def decompose (m : Nat) (e : Int) : Dy × Int := ({ m := m, e := -(m.log2 : Int) }, e + m.log2)

/-- RoundMultiple(1 / (1 + (i + 0.5) / 2^k), 2^-T) (R249). -/
def rcpTable (k t i : Nat) : Dy := { m := nearest (2 ^ (k + 1 + t)) (2 ^ (k + 1) + 2 * i + 1), e := -(t : Int) }
/-- RoundMultiple(1 / Sqrt(1 + (i + 0.5) / 2^k), 2^-T) (R250). -/
def rsqTable (k t i : Nat) : Dy := { m := (isqrt (2 ^ (k + 1 + 2 * t + 2) / (2 ^ (k + 1) + 2 * i + 1)) + 1) / 2, e := -(t : Int) }

/-- The reference value of VRCP (R249), and whether it is exact. -/
def rcpRef (x : FNum) (nbv : Nat) : Exact × Bool :=
  match x with
  | .nan => (.nan false, true)
  | .zero s => (.inf s true, true)
  | .inf s => (.zero s, true)
  | .num s m e =>
    let (f, ex) := decompose m e
    if f.m = 2 ^ f.e.natAbs then (.num s 1 (-ex) false, true)
    else
      let i := ((f.sub (.int 1)).scale (tblA nbv)).floor.toNat
      let step := fun (y : Dy) => y.mul ((Dy.int 2).sub (f.mul y))
      let y := step (step (rcpTable (tblA nbv) (tblT nbv) i))
      (match (y.scale (-ex)).exact with | .num _ m e st => .num s m e st | r => r, false)

/-- The reference value of VRSQ (R250). -/
def rsqRef (x : FNum) (nbv : Nat) : Exact × Bool :=
  match x with
  | .nan => (.nan false, true)
  | .zero s => (.inf s true, true)
  | .inf s => if s then (.nan true, true) else (.zero false, true)
  | .num s m e =>
    if s then (.nan true, true)
    else
      let (f, ex) := decompose m e
      let odd := ex % 2 = 1
      let g := if odd then f.scale 1 else f
      let k := (if odd then ex - 1 else ex) / 2
      if (g.sub (.int 1)).m = 0 then (.num false 1 (-k) false, true)
      else
        let i := ((g.sub (.int 1)).scale (tblA nbv - 2)).floor.toNat
        let step := fun (y : Dy) => (y.mul ((Dy.int 3).sub ((g.mul y).mul y))).scale (-1)
        let y := step (step (rsqTable (tblA nbv - 2) (tblT nbv) i))
        ((y.scale (-k)).exact, false)

/-- RoundMultiple(2^(i / 2^B), 2^-U): the 2^B-th root by B square roots (R251). -/
def exp2Table (b u i : Nat) : Dy :=
  { m := ((List.range b).foldl (fun n _ => isqrt n) (2 ^ (i + (u + 1) * 2 ^ b)) + 1) / 2, e := -(u : Int) }

/-- RoundMultiple(Ln(2)^k / k!, 2^-40) for k from 1 to 4, over 2^-40 (R251). -/
def exp2Coef : List Int := [762123384786, 264131837702, 61027412866, 10575244791]

/-- A polynomial of coefficients in multiples of 2^-40 for powers 1, 2, ... of r. -/
def poly (cs : List Int) (r : Dy) : Dy :=
  (cs.foldl (fun (acc : Dy × Dy) c => (acc.1.add (acc.2.mul { m := c, e := -40 }), acc.2.mul r)) (Dy.int 0, r)).1

/-- The reference value of VEXP2 (R251); beyond the range of FP32 by far, a value as large or small. -/
def exp2Ref (x : FNum) (nbv : Nat) : Exact × Bool :=
  match x with
  | .nan => (.nan false, true)
  | .inf s => if s then (.zero false, true) else (.inf false false, true)
  | .zero _ => (.num false 1 0 false, true)
  | .num s m e =>
    if 20 < (m.log2 : Int) + e then (.num false 1 (if s then -(2 ^ 20) else 2 ^ 20) false, true)
    else
      let v : Dy := { m := sgn s m, e := e }
      let n := v.floor
      let f := v.sub (.int n)
      if f.m = 0 then (.num false 1 n false, true)
      else
        let i := (f.scale (tblB nbv)).floor
        let r := f.sub { m := i, e := -(tblB nbv : Int) }
        let p := (Dy.int 1).add (poly exp2Coef r)
        ((((exp2Table (tblB nbv) (tblU nbv) i.toNat).mul p).scale n).exact, false)

/-- RoundMultiple((-1)^(k + 1) / (k Ln(2)), 2^-40) for k from 1 to 5, over 2^-40 (R252). -/
def log2Coef : List Int := [1586259972792, -793129986396, 528753324264, -396564993198, 317251994558]

/-- Bits of Log2 of a number in [1, 2) held with 128 fraction bits, k of them, highest first. -/
def log2Bits : Nat → Nat → Nat
  | 0, _ => 0
  | k + 1, x =>
    let y := x * x / 2 ^ 128
    if 2 ^ 129 ≤ y then 2 ^ k + log2Bits k (y / 2) else log2Bits k y

/-- RoundMultiple(-Log2(c / 2^t), 2^-40) over 2^-40, c above 0 (R252). -/
def negLog2 (c t : Nat) : Int :=
  let l := c.log2
  let fr := log2Bits 60 (c * 2 ^ 128 / 2 ^ l)
  ((t : Int) - l) * 2 ^ 40 - (((fr + 2 ^ 19) / 2 ^ 20 : Nat) : Int)

/-- The reference value of VLOG2 (R252). -/
def log2Ref (x : FNum) (nbv : Nat) : Exact × Bool :=
  match x with
  | .nan => (.nan false, true)
  | .zero _ => (.inf true true, true)
  | .inf s => if s then (.nan true, true) else (.inf false false, true)
  | .num s m e =>
    if s then (.nan true, true)
    else
      let (f0, e0) := decompose m e
      let high := 0 ≤ (f0.sub { m := 3, e := -1 }).m
      let f := if high then f0.scale (-1) else f0
      let ex := if high then e0 + 1 else e0
      let d := f.sub (.int 1)
      let near := (Dy.sub { m := d.m.natAbs, e := d.e } { m := 1, e := -7 }).m < 0
      let i := ((f.sub { m := 3, e := -2 }).scale (tblA nbv)).floor.toNat
      let c := nearest (2 ^ (tblA nbv + 1 + tblT nbv)) (3 * 2 ^ (tblA nbv - 1) + 2 * i + 1)
      let cd : Dy := if near then .int 1 else { m := c, e := -(tblT nbv : Int) }
      let l : Dy := if near then .int 0 else { m := negLog2 c (tblT nbv), e := -40 }
      let z := (f.mul cd).sub (.int 1)
      ((((Dy.int ex).add l).add (poly log2Coef z)).exact, d.m = 0)

/-- A reference value rounded (R247), or under a budget (R258). -/
def refLane (r : Exact × Bool) (n rnd : Nat) : Lane × Fl :=
  let (l, fl) := r.1.budget n rnd
  (l, fl ||| flIf (n == 0 && !r.2) flInexact)

/-! Conversions (R244). -/

/-- The range of an integer type code (R233). -/
def intRange (typ : Nat) : Int × Int :=
  match typ with | 7 => (-128, 127) | 10 => (0, 255) | 8 => (-(2 ^ 31), 2 ^ 31 - 1) | _ => (0, 2 ^ 32 - 1)
/-- The width of an integer type code. -/
def intWidth (typ : Nat) : Nat := match typ with | 7 => 8 | 10 => 8 | _ => 32

/-- A value rounded to a whole number by rnd. -/
def toInteger (neg : Bool) (m : Nat) (e : Int) (rnd : Nat) : Int × Bool :=
  let (r, x) := roundAt neg m e false 0 rnd
  (sgn neg r, x)

/-- A conversion to an integer type: the bits of its width. Values beyond 2^40 by far are taken as they are modulo 2^w. -/
def toIntType (x : FNum) (typ rnd : Nat) (sat : Bool) : Nat × Fl :=
  let (lo, hi) := intRange typ
  let w := intWidth typ
  let wrap := fun (v : Int) => (v % 2 ^ w).toNat
  match x with
  | .nan => (0, flInvalid ||| flNan)
  | .inf s => (if sat then wrap (if s then lo else hi) else 0, flInvalid)
  | .zero _ => (0, 0)
  | .num s m e =>
    let (v, inexact) := toInteger s m e rnd
    if v < lo || hi < v then (if sat then wrap (if s then lo else hi) else wrap v, flInvalid)
    else (wrap v, flIf inexact flInexact)

/-- A conversion to a floating format. -/
def toFloatType (x : FNum) (f : FFmt) (rnd : Nat) (sat : Bool) : Nat × Fl :=
  match x with
  | .nan => (f.nanCode, flNan)
  | .inf s =>
    if sat then (f.signed s f.maxCode, 0)
    else if f.ieee then (f.signed s f.infCode, 0) else (f.nanCode, flInvalid ||| flNan)
  | .zero s => (f.signed s 0, 0)
  | .num s m e =>
    let (c, fl) := x.exact.round f rnd
    let (r, q, _) := roundStep f s m e false rnd
    if sat && f.exceeds r q then (f.signed s f.maxCode, flOverflow ||| flInexact) else (c, fl)

/-- An exact result converted to a floating format (R244, R360). -/
def Exact.toFmt (x : Exact) (f : FFmt) (rnd : Nat) (sat : Bool) : Nat × Fl :=
  match x with
  | .nan inv => (f.nanCode, flNan ||| flIf inv flInvalid)
  | .inf s _ => toFloatType (.inf s) f rnd sat
  | .zero s => (f.signed s 0, 0)
  | .num s m e st =>
    let (c, fl) := x.round f rnd
    let (r, q, _) := roundStep f s m e st rnd
    if sat && f.exceeds r q then (f.signed s f.maxCode, flOverflow ||| flInexact) else (c, fl)

/-- Whether a type code is an integer type. -/
def isIntType (typ : Nat) : Bool := typ == 7 || typ == 8 || typ == 9 || typ == 10

/-- A lane read by a type code (R237, R359): FP32, INT32 or UINT32. -/
def laneAs (typ : Nat) (x : Lane) : FNum :=
  let ofInt := fun (v : Int) => if v = 0 then FNum.zero false else .num (v < 0) v.natAbs 0
  match typ with | 7 => ofInt x.toInt | 8 => ofInt x.toInt | 9 => ofInt x.toNat | 10 => ofInt x.toNat | _ => laneVal x

/-- A value converted to a type code's stored bits (R244). -/
def convert (x : FNum) (dest rnd : Nat) (sat : Bool) : Nat × Fl :=
  if isIntType dest then toIntType x dest rnd sat else toFloatType x (fmtOf dest) rnd sat

/-- A stored element as its lane (R208, R237): a narrow float exactly as FP32, its NaN canonical. -/
def widen (typ code : Nat) : Lane :=
  match typ with
  | 0 => BitVec.ofNat 32 code
  | 7 => (BitVec.ofNat 8 code).signExtend 32
  | 8 => BitVec.ofNat 32 code
  | 9 => BitVec.ofNat 32 code
  | 10 => BitVec.ofNat 32 (code % 256)
  | _ => (((fmtOf typ).val code).exact.lane 0).1

/-! Block formats (R234-R236). -/

/-- The CQ4 levels over 2^-8 (R234). -/
def cq4Level (k : Nat) : Nat := match k with | 0 => 0 | 1 => 23 | 2 => 48 | 3 => 73 | 4 => 102 | 5 => 135 | 6 => 179 | _ => 256

/-- The value of a CQ4 code; codes 0 and 8 are +0. -/
def cq4Val (c : Nat) : FNum := if c % 8 == 0 then .zero false else .num (8 ≤ c) (cq4Level (c % 8)) (-8)

/-- A code's value times b times a scale lane (R235, R236), and whether an infinity met a zero. -/
def blockVal (v : FNum) (b : Nat) (s : Lane) : FNum × Bool :=
  let (vb, _) := mulV v (if b = 0 then .zero false else .num false b 0)
  mulV vb (laneVal s)

/-- A CQ4 or BS8 element as its FP32 lane, rounded once RNE (R208). -/
def blockLane (typ code b : Nat) (s : Lane) : Lane × Fl :=
  let v := if typ == 5 then cq4Val (code % 16) else e4m3.val code
  let (p, inv) := blockVal v (if typ == 5 then b else 1) s
  (p.exact.orInvalid inv).lane 0

/-! Comparison and reduction orders. -/

/-- The comparison of two FP32 values under a code (R355). -/
def cmpF (cc : Nat) (x y : FNum) : Bool :=
  let un := x == .nan || y == .nan
  let lt := ltV false x y
  let gt := ltV false y x
  match cc with
  | 0 => !un && !lt && !gt
  | 1 => un || lt || gt
  | 2 => lt
  | 3 => !un && !gt
  | 4 => gt
  | 5 => !un && !lt
  | 6 => !un
  | _ => un

/-- The comparison of two whole numbers under a code (R355). -/
def cmpI (cc : Nat) (x y : Int) : Bool :=
  match cc with | 0 => x == y | 1 => x != y | 2 => x < y | 3 => x ≤ y | 4 => x > y | _ => x ≥ y

/-- One addition of a reduction (R253). -/
def addLane (x y : Lane) (rnd : Nat) : Lane × Fl := (addE (laneVal x) (laneVal y) rnd).lane rnd

/-- Neighbouring pairs of a list added. -/
def pairSums (rnd : Nat) : List Lane → List Lane × Fl
  | a :: b :: r => let (s, f) := addLane a b rnd; let (rest, g) := pairSums rnd r; (s :: rest, f ||| g)
  | l => (l, 0)

/-- Tree of R253 over 2^k lanes. -/
def treeSum (rnd : Nat) : Nat → List Lane → Lane × Fl
  | 0, l => (l.headD 0, 0)
  | k + 1, l => let (t, f) := pairSums rnd l; let (s, g) := treeSum rnd k t; (s, f ||| g)

/-- Seq of R253. -/
def seqSum (rnd : Nat) (l : List Lane) : Lane × Fl :=
  (l.drop 1).foldl (fun acc x => let (s, f) := addLane acc.1 x rnd; (s, acc.2 ||| f)) (l.headD 0, 0)

/-- The fixed-order sum of 64 lanes under CTX.NBV (R253, R366). -/
def sumLanes (nbv rnd : Nat) (l : List Lane) : Lane × Fl := if nbv == 1 then seqSum rnd l else treeSum rnd 6 l

end Sys2Proof.Machine
end

