-- ==== Sys2Proof/Machine/Pages.lean ====
section
/-! DEFINITION. Shard descriptors, page entries and the place of a position (06 R129-R131), and the reads and writes of a
tile's units. -/

namespace Sys2Proof.Machine

/-- A shard descriptor (R129). -/
structure Desc where
  parray : Nat
  nh : Nat
  dq : Nat
  typ : Nat
  cap : Nat
  len : Nat
  wlen : Nat
  tarray : Nat
  deriving DecidableEq, Repr

/-- Bytes of an element of a KV page (R130). -/
def Desc.es (d : Desc) : Nat := if d.typ == 1 || d.typ == 2 then 2 else 1
/-- Head dimension. -/
def Desc.dim (d : Desc) : Nat := 32 * d.dq
/-- Bytes of a KV page (R130). -/
def Desc.pageBytes (d : Desc) : Nat := ceilDiv (256 * d.dim * d.es) 4096 * 4096

/-- The descriptor of eight words, where its fields keep the table of R129. -/
def Desc.ofWords (w : Nat → Word) : Option Desc :=
  let d : Desc := { parray := bits (w 0) 56 0, nh := bits (w 1) 7 0, dq := bits (w 1) 11 8, typ := bits (w 1) 15 12,
                    cap := bits (w 1) 47 16, len := bits (w 2) 39 0, wlen := bits (w 3) 39 0, tarray := bits (w 4) 56 0 }
  let zeros := bits (w 0) 63 57 == 0 && bits (w 1) 63 48 == 0 && bits (w 2) 63 40 == 0 && bits (w 3) 63 40 == 0
    && bits (w 4) 63 57 == 0 && w 5 == 0 && w 6 == 0 && w 7 == 0
  if zeros && d.parray % 64 == 0 && 1 ≤ d.dq && d.dq ≤ 8 && 1 ≤ d.typ && d.typ ≤ 4 && d.cap != 0
      && d.wlen % 128 == 0 && (if d.wlen == 0 then d.tarray == 0 else d.tarray % 8 == 0 && d.cap == d.wlen / 128 + 1)
    then some d else none

/-- Where a position lies (R131): the VA of its page entry and the offset in the page, or RANGE or EXPIRED. -/
inductive Located where
  | at_ (entry off : Nat)
  | range
  | expired
  deriving DecidableEq, Repr

/-- Locate of R131. -/
def Desc.locate (d : Desc) (h p : Nat) : Located :=
  let pg := p / 128
  let off := p % 128
  if d.nh < h || 2 ^ 40 ≤ p then .range
  else if d.wlen == 0 then (if d.cap ≤ pg then .range else .at_ (d.parray + 8 * (h * d.cap + pg)) off)
  else
    let lo := (d.len - d.wlen) / 128
    if pg < lo then .expired
    else if pg < lo + d.cap then .at_ (d.parray + 8 * (h * d.cap + pg % d.cap)) off
    else if pg == lo + d.cap && d.len ≤ p then .at_ (d.tarray + 8 * h) off
    else .range

/-- Fields of a page entry (R130). -/
def entFill (e : Word) : Nat := bits e 52 45
/-- Speculative positions. -/
def entSpec (e : Word) : Nat := bits e 44 37
/-- Reference count. -/
def entRef (e : Word) : Nat := bits e 60 53
/-- The address a page entry names (R130, R401). -/
def entAddr (e : Word) : Nat :=
  if bit e 61 then 2 ^ 60 + bits e 36 35 * 2 ^ 30 + bits e 34 28 * 2 ^ 23 + bits e 27 17 * 4096 else bits e 36 0 * 4096

/-- What a unit's access of up to 64 bytes in one granule meets. -/
inductive URes where
  | ok (v : Nat) (pois : Bool)
  | fault (level code : Nat)
  | refuse (err : Nat)
  | hold (die slot : Nat)
  | wait (id : Nat)
  deriving DecidableEq, Repr

/-- A unit of a tile: its kind as a requester, its name, and whether REG.GRANT binds its reads: it does not bind those of shard
pages by page-list streams and SHCPY (R114). -/
structure UnitAt where
  kind : Nat
  u : UnitRef
  free : Bool
  deriving DecidableEq, Repr

/-- The unit as a requester: for the region of its tile, a channel for the region whose command it performs. -/
def State.asReq (s : State) (x : UnitAt) : Req :=
  if x.kind == 3 then s.unitReq 3 x.u.die (depotTile x.u.tile)
  else if x.kind == 2 then s.reqOf 2 x.u.die x.u.tile (some ((s.tile x.u.die x.u.tile).chan x.u.i).slot)
  else s.unitReq x.kind x.u.die x.u.tile

/-- The requester of an access that REG.GRANT does not bind, where free (R114, R418). -/
def Req.freed (q : Req) (free : Bool) (ea : Nat) : Req := { q with sup := q.sup || (free && ea / 2 ^ 60 == 1) }

/-- A read of n bytes by a unit under a tag. -/
def State.unitRead (s : State) (x : UnitAt) (tag ea n : Nat) : State × URes :=
  let q := (s.asReq x).freed x.free ea
  match s.check q ea n .read with
  | .ok p => (s.touch q ea .read p, .ok (s.rdFor q p n) (s.poisonFor q p))
  | .void => (s, .ok 0 false)
  | .reg .. => (s, .refuse 4)
  | .remote m va =>
    match s.remote x.u tag m va n .read 0 0 [] with
    | (s1, .error id) => (s1, .wait id)
    | (s1, .ok r) => if r.ok then (s1, .ok (leVal r.data) r.pois.isSome) else (s1, .refuse 5)
  | .hold d i => (s, .hold d i)
  | .refuse e => (s, .refuse e)
  | .fault lv c => (s, .fault lv c)

/-- A write of bytes by a unit under a tag; pois marks the granule after. -/
def State.unitWrite (s : State) (x : UnitAt) (tag ea : Nat) (bs : List Byte) (pois : Bool) : State × URes :=
  let q := s.asReq x
  match s.check q ea bs.length .write with
  | .ok p =>
    let s1 := (s.touch q ea .write p).wrFor q p bs
    (if pois then s1.mark (s1.home p / 64) true else s1, .ok 0 false)
  | .void => (s, .ok 0 false)
  | .reg .. => (s, .refuse 4)
  | .remote m va =>
    match s.remote x.u tag m va bs.length .write 0 (if pois then 1 else 0) bs with
    | (s1, .error id) => (s1, .wait id)
    | (s1, .ok r) => if r.ok then (s1, .ok 0 false) else (s1, .refuse 5)
  | .hold d i => (s, .hold d i)
  | .refuse e => (s, .refuse e)
  | .fault lv c => (s, .fault lv c)

end Sys2Proof.Machine
end

