-- ==== Sys2Proof/Machine/Operands.lean ====
section
/-! DEFINITION. Operands of the vector and matrix groups: streams and their elements (09 R205-R209), ports, pops, pushes
and replay latches (R210-R216), lanes of registers as links and cut marks leave them (11 R256-R268), and masks. -/

namespace Sys2Proof.Machine

/-! The fields of an APE (R205). -/

/-- Word w of the record. -/
def Ape.w (a : Ape) (i : Nat) : Word := vget a.cfg i 0
/-- Element type. -/
def Ape.typ (a : Ape) : Nat := bits (a.w 1) 3 0
/-- Whether it writes. -/
def Ape.dir (a : Ape) : Bool := bit (a.w 1) 4
/-- Page-list mode. -/
def Ape.pl (a : Ape) : Bool := bit (a.w 1) 5
/-- Fed by a generator. -/
def Ape.fedBit (a : Ape) : Bool := bit (a.w 1) 6
/-- Dimensions minus 1. -/
def Ape.ndim (a : Ape) : Nat := bits (a.w 1) 8 7
/-- Predicate of the end. -/
def Ape.endp (a : Ape) : Nat := bits (a.w 1) 11 9
/-- Length. -/
def Ape.len (a : Ape) : Nat := bits (a.w 1) 63 16

/-- Whether a record's words are refused (R392). -/
def Ape.bad (a : Ape) : Bool :=
  11 ≤ a.typ || (a.dir && (a.typ == 5 || a.typ == 6)) || (a.fedBit && (a.dir || a.pl))
    || (a.pl && (a.dir || a.typ == 0 || 5 ≤ a.typ)) || (!a.fedBit && bits (a.w 1) 15 12 != 0)
    || (!a.pl && (List.range a.ndim).any fun k => bits (a.w (2 + k)) 23 0 == 0)
    || (a.pl && (bits (a.w 2) 63 9 != 0 || bits (a.w 3) 63 40 != 0 || a.w 4 != 0 || a.w 5 != 0))

/-- ElementAddr of R206 for dimensions in words 2 on: base, dimensions left, dimension and index. -/
def elementAddr (dims : Nat → Word) : Nat → Nat → Word → Nat → Word
  | 0, k, a, e => a + w64 e * ((dims k).sshiftRight 24)
  | n + 1, k, a, e =>
    let c := bits (dims k) 23 0
    elementAddr dims n (k + 1) (a + w64 (e % c) * ((dims k).sshiftRight 24)) (e / c)

/-- The address of element n, or of its block (R206). -/
def Ape.addr (a : Ape) (n : Nat) : Nat := (elementAddr (fun k => a.w (2 + k)) a.ndim 0 (a.w 0) n).toNat

/-- What a stream gives at a position. -/
inductive Got where
  | elem (x : Elem)
  /-- The stream ends here. -/
  | stop
  /-- A PORT fault at a position (R206, R207, R209). -/
  | fault (pos : Nat)
  | withheld (va level code : Nat)
  | hold (die slot : Nat)
  | wait (id : Nat)
  /-- A generator has not delivered the element yet (R229). -/
  | dry
  deriving DecidableEq, Repr

/-- Reads of a unit one after another: the values and whether one met poison, or what stopped them. -/
def State.unitReads (s : State) (x : UnitAt) (tag pos : Nat) : List (Nat × Nat) → State × Except Got (List Nat × Bool)
  | [] => (s, .ok ([], false))
  | (ea, n) :: r =>
    match s.unitRead x tag ea n with
    | (s1, .ok v p) =>
      (match s1.unitReads x (tag + 1) pos r with
       | (s2, .ok (vs, q)) => (s2, .ok (v :: vs, p || q))
       | (s2, .error g) => (s2, .error g))
    | (s1, .fault lv c) => (s1, .error (.withheld ea lv c))
    | (s1, .refuse _) => (s1, .error (.fault pos))
    | (s1, .hold d i) => (s1, .error (.hold d i))
    | (s1, .wait id) => (s1, .error (.wait id))

/-- The replies to a unit's reads are all taken, or none where one of them is still to come. -/
def State.keepReplies (s : State) (r : State × Except Got (List Nat × Bool)) : State × Except Got (List Nat × Bool) :=
  match r with
  | (s1, .error (.wait id)) =>
    ({ s1 with net := { s1.net with
        asked := (s1.net.asked.filter fun e => !s.net.asked.any fun f => f.id == e.id) ++ s.net.asked, got := s.net.got } }, .error (.wait id))
  | r => r

/-- An APE of a tile as a unit. -/
def apeUnit (d t e : Nat) : UnitAt := { kind := 1, u := { kind := .ape, die := d, tile := t, i := e }, free := false }

/-- Element n of a stream in plain mode (R206). -/
def State.plainElem (s : State) (d t e n : Nat) : State × Got :=
  let a := (s.tile d t).ape e
  let x := apeUnit d t e
  if a.typ == 5 || a.typ == 6 then
    let b := a.addr (n / 256)
    let j := n % 256
    if b % 4 != 0 then (s, .fault n)
    else
      let code := if a.typ == 5 then b + j / 2 else b + j
      let rest := if a.typ == 5 then [(b + 132, 4), (b + 128 + j / 64, 1)] else [(b + 256, 4)]
      match s.keepReplies (s.unitReads x (n * 4) n ((code, 1) :: rest)) with
      | (s1, .ok (c :: sc :: r, p)) =>
        (s1, .elem { code := if a.typ == 5 then (if j % 2 == 0 then c % 16 else c / 16) else c, sub := r.headD 1,
                     scale := BitVec.ofNat 32 sc, pois := p })
      | (s1, .ok _) => (s1, .stop)
      | (s1, .error g) => (s1, g)
  else
    let ea := a.addr n
    let sz := elemSize a.typ
    if ea % sz != 0 then (s, .fault n)
    else match s.unitReads x (n * 4) n [(ea, sz)] with
      | (s1, .ok (v, p)) => (s1, .elem { code := v.headD 0, sub := 0, scale := 0, pois := p })
      | (s1, .error g) => (s1, g)

/-- A descriptor's words from the value of its 64 bytes. -/
def wordsOf (v : Nat) (i : Nat) : Word := w64 (v / 2 ^ (64 * i))

/-- Element n of a page-list stream (R207). -/
def State.pageElem (s : State) (d t e n : Nat) : State × Got :=
  let a := (s.tile d t).ape e
  let x := { apeUnit d t e with free := true }
  let base := bits (a.w 0) 56 0
  if base % 64 != 0 then (s, .fault n)
  else match s.unitReads x (n * 4) n [(base, 64)] with
    | (s1, .error g) => (s1, g)
    | (s1, .ok (v, p0)) =>
      match Desc.ofWords (wordsOf (v.headD 0)) with
      | none => (s1, .fault n)
      | some ds =>
        if a.typ != ds.typ || ds.dim % 64 != 0 then (s1, .fault 0)
        else
          let pos := bits (a.w 3) 39 0 + n / ds.dim
          match ds.locate (bits (a.w 2) 7 0) pos with
          | .range => (s1, .stop)
          | .expired => (s1, .stop)
          | .at_ ent off =>
            let known := a.page.filter fun q => q.1 == pos / 128
            let (s2, r) := match known with
              | some q => (s1, Except.ok ([q.2.1.toNat], q.2.2))
              | none => s1.unitReads x (n * 4 + 1) n [(ent, 8)]
            match r with
            | .error g => (s2, g)
            | .ok (w, p1) =>
              let entry := w64 (w.headD 0)
              let s3 := s2.modTile d t fun tl => tl.modApe e fun b => { b with page := some (pos / 128, entry, p1) }
              if entFill entry + entSpec entry ≤ off then (s3, .stop)
              else
                let row := (if bit (a.w 2) 8 then 128 else 0) + off
                match s3.unitReads x (n * 4 + 2) n [(entAddr entry + (row * ds.dim + n % ds.dim) * ds.es, ds.es)] with
                | (s4, .error g) => (s4, g)
                | (s4, .ok (c, p2)) => (s4, .elem { code := c.headD 0, sub := 0, scale := 0, pois := p0 || p1 || p2 })

/-- Depot tile number of a compute tile's neighbour on a side: 0 north, 1 east, 2 south, 3 west (R205). -/
def neighbour (t side : Nat) : Option Nat :=
  match side with
  | 0 => if t < 16 then none else some (t - 16)
  | 1 => if t % 16 == 15 then none else some (t + 1)
  | 2 => if 240 ≤ t then none else some (t + 16)
  | _ => if t % 16 == 0 then none else some (t - 1)

/-- Whether the generator that feeds an APE has delivered all its passes (R229). -/
def State.feedEnded (s : State) (d t : Nat) (a : Ape) : Bool :=
  match neighbour t (bits (a.w 1) 13 12) with
  | none => false
  | some n => let g := (s.depot d (n / 2)).gens.get (bits (a.w 1) 15 14) .init; !g.on && g.pass != 0

/-- Element n of a stream that no read-ahead holds. -/
def State.nextElem (s : State) (d t e n : Nat) : State × Got :=
  let a := (s.tile d t).ape e
  if a.len ≤ n then (s, .stop)
  else if a.fedBit then (s, if s.feedEnded d t a then .stop else .dry)
  else if a.pl then s.pageElem d t e n
  else s.plainElem d t e n

/-- k elements from position n on: those of the read-ahead first. What stopped them, where fewer came. -/
def State.gather (d t e : Nat) : Nat → Nat → List Elem → State → State × List Elem × Option Got
  | 0, _, _, s => (s, [], none)
  | k + 1, n, x :: r, s => let (s1, l, g) := State.gather d t e k (n + 1) r s; (s1, x :: l, g)
  | k + 1, n, [], s =>
    match s.nextElem d t e n with
    | (s1, .elem x) => let (s2, l, g) := State.gather d t e k (n + 1) [] s1; (s2, x :: l, g)
    | (s1, g) => (s1, [], some g)

/-- The elements an APE holds undelivered, within its length. -/
def Ape.held (a : Ape) : List Elem := (if a.fedBit then a.fed else a.ahead).take (a.len - a.pos)

/-- k elements of an APE from its position on; none beyond its end. -/
def State.streamElems (s : State) (d t e k : Nat) : State × List Elem × Option Got :=
  let a := (s.tile d t).ape e
  if a.fin then (s, [], some .stop) else State.gather d t e k a.pos a.held s

/-- Elements that a gather has read, behind skip others, stand undelivered in their stream: each is bound once (R152, R209). -/
def State.stash (s : State) (d t e skip : Nat) (els : List Elem) : State :=
  s.modTile d t fun x => x.modApe e fun a =>
    if a.fedBit then a else { a with ahead := a.ahead.take skip ++ els ++ a.ahead.drop (skip + els.length) }

/-- An APE after m elements were taken. -/
def Ape.taken (a : Ape) (m : Nat) : Ape := { a with pos := a.pos + m, ahead := a.ahead.drop m, fed := a.fed.drop m }

/-- A predicate set at an end of stream (R212); guards see it from the next arbitration. -/
def State.endOf (s : State) (d t e : Nat) : State :=
  let p := ((s.tile d t).ape e).endp
  let s1 := s.modTile d t fun x => x.modApe e fun a => { a with fin := true }
  if p == 0 then s1
  else (s1.modTile d t fun x => { x with pred := x.pred ||| (1#8 <<< p) }).post 1 .triggerFire (.tileRef { die := d, tile := t })

/-! Elements of a coach payload (R215). -/

/-- Byte i of a payload, where it lies in it. -/
def Coach.byteAt (c : Coach) (i : Nat) : Option Byte := if i < c.plen then some (c.pay.getD i 0) else none

/-- n bytes of a payload from i, where all lie in it. -/
def Coach.bytesAt (c : Coach) (i n : Nat) : Option Nat := if i + n ≤ c.plen then some (leVal (padTo n (c.pay.drop i))) else none

/-- Whether a byte of a payload is poisoned. -/
def Coach.poisAt (c : Coach) (i : Nat) : Bool := c.pois.contains (i / 64)

/-- Element n of a payload read as a type; none where it is missing. -/
def Coach.elem (c : Coach) (typ n : Nat) : Option Elem :=
  if typ == 5 || typ == 6 then
    let b := n / 256 * blockSize typ
    let j := n % 256
    let at_ := if typ == 5 then b + j / 2 else b + j
    match c.bytesAt at_ 1, c.bytesAt (b + (if typ == 5 then 132 else 256)) 4 with
    | some v, some sc =>
      some { code := if typ == 5 then (if j % 2 == 0 then v % 16 else v / 16) else v
             sub := (c.byteAt (b + 128 + j / 64)).elim 0 (·.toNat)
             scale := BitVec.ofNat 32 sc
             pois := c.poisAt at_ || c.poisAt (b + (if typ == 5 then 132 else 256)) || (typ == 5 && c.poisAt (b + 128 + j / 64)) }
    | _, _ => none
  else
    let sz := elemSize typ
    (c.bytesAt (n * sz) sz).map fun v => { code := v, sub := 0, scale := 0, pois := c.poisAt (n * sz) }

/-- Elements of a payload from n on, up to k. -/
def Coach.elems (c : Coach) (typ n : Nat) : Nat → List Elem
  | 0 => []
  | k + 1 => match c.elem typ n with | some x => x :: c.elems typ (n + 1) k | none => []

/-! Ports. -/

/-- Binding of port p of the executing context. -/
def State.port (s : State) (p : Nat) : PortBind := vget s.me.ports p .init
/-- The APE a port is bound to. -/
def State.portApe (s : State) (p : Nat) : Ape := s.myTile.ape (s.port p).ape
/-- The coach of a coach port. -/
def State.portCoach (s : State) (p : Nat) : Option Coach := if p == 7 then s.me.q7 else s.me.q6

/-- The position of a port: of its APE, or of its coach buffer. -/
def State.portAt (s : State) (p : Nat) : Nat :=
  let b := s.port p
  if !b.bnd then 0 else if b.kb then b.pos else (s.portApe p).pos

/-- A PORT trap: the port and a position (R277). -/
def State.portTrap (s : State) (loc p pos : Nat) : State := s.trap 7 loc (w64 (p * 2 ^ 48 + pos % 2 ^ 48))

/-- Why a read of a port traps PORT: the position it reports (R210, R391). -/
def State.popBad (s : State) (p : Nat) : Option Nat :=
  let b := s.port p
  if !b.bnd then some 0
  else if b.kb then (if (s.portCoach p).isSome then none else some 0)
  else if (s.portApe p).bad then some 0
  else if (s.portApe p).dir then some (s.portApe p).pos else none

/-- Why a write of a port traps PORT (R210, R391): q7, a read stream, an unbound port; q6 with a block type has no push. -/
def State.pushBad (s : State) (p : Nat) : Option Nat :=
  let b := s.port p
  if !b.bnd then some 0
  else if p == 7 then some (s.portAt p)
  else if b.kb then (if s.me.q6.isNone || b.typ == 5 || b.typ == 6 then some b.pos else none)
  else if (s.portApe p).bad then some 0
  else if !(s.portApe p).dir then some (s.portApe p).pos else none

/-- Why an access of need elements of an APE waits: it withholds, what it has read ahead not being enough (R123, R209), or
another context's capture or push holds it (R152, R381). -/
def State.apeBusy (s : State) (e need : Nat) : Option Wait :=
  let a := s.myTile.ape e
  if a.wh && (a.dir || a.held.length < need) then some (.ape e)
  else if s.myTile.taken s.cix e then some (.capture e) else none

/-- Why an access of a port waits. -/
def State.portBusy (s : State) (need p : Nat) : Option Wait :=
  let b := s.port p
  if b.bnd && !b.kb then s.apeBusy b.ape need else none

/-- Why a push to port p waits: as an access of its APE, or for the pushes reserved before that go first (R152). -/
def State.pushBusy (s : State) (need kind p : Nat) : Option Wait :=
  let b := s.port p
  (s.portBusy need p).orElse fun _ =>
    if b.bnd && !b.kb && s.myTile.turnTaken s.cix b.ape kind then some (.turn b.ape kind) else none

/-- The latch of a port, where it holds a vector for the instruction that executes (R214). -/
def State.latched (s : State) (p : Nat) : Option Latch :=
  (s.me.latches.find? fun e => e.1 % 8 == p && e.2.valid && e.2.addr == s.pc).map (·.2)

/-- Where a vector popped from port p is latched: a latch that another instruction has left there stays (R214). -/
def State.latchKey (s : State) (p : Nat) : Nat :=
  let l := s.me.latches.get p .init
  if l.valid && l.addr != s.pc then p + 8 else p

/-- The number of lanes of a mask below lane i. -/
def laneRank (m : Word) (i : Nat) : Nat := popcBelow m i
where
  /-- Set bits of m below k. -/
  popcBelow (m : Word) : Nat → Nat
    | 0 => 0
    | k + 1 => b2n (m.getLsbD k) + popcBelow m k

/-- Elements placed in the lanes of a mask, lowest lane first; +0 elsewhere. -/
def placeLanes (m : Word) (ls : Array Lane) : Lanes :=
  Vector.ofFn fun i => if m.getLsbD i.val then ls.getD (laneRank m i.val) 0 else 0

/-- A mask of the lanes i that satisfy f. -/
def maskOf (f : Nat → Bool) : Word := w64 ((List.range 64).foldl (fun n i => n + b2n (f i) * 2 ^ i) 0)

/-- The lanes of m whose rank is below k. -/
def firstLanes (m : Word) (k : Nat) : Word := maskOf fun i => m.getLsbD i && laneRank m i < k

/-- The replay latch of a vector popped at a position, with the flags of each lane's conversion. -/
def latchOf (pc : Word) (typ : Nat) (m : Word) (pos : Nat) (els : List Elem) : Latch :=
  let cv := els.map fun x => if typ == 5 || typ == 6 then blockLane typ x.code x.sub x.scale else (widen typ x.code, 0)
  { valid := true, lanes := placeLanes m (cv.map (·.1)).toArray, mask := firstLanes m els.length
    pois := maskOf (fun i => m.getLsbD i && (els[laneRank m i]?.elim false (·.pois))), addr := pc
    fl := placeLanes m (cv.map fun x => x.2.setWidth 32).toArray, pos := pos }

/-- Flags added to the executing context. -/
def State.addFlags (s : State) (f : Fl) : State := s.modHart fun h => { h with fflags := h.fflags ||| f }

/-- The elements of a coach port from its position on, none once it has ended (R212, R215). -/
def PortBind.elems (b : PortBind) (c : Coach) (n : Nat) : List Elem := if b.fin then [] else c.elems b.typ b.pos n

/-- A pop of port p for the lanes of m: the vector stands in the latch, or the state the pop ends in. -/
def State.pop (s : State) (loc p : Nat) (m : Word) : Except State State :=
  if (s.latched p).isSome then .ok s
  else
    let b := s.port p
    let n := laneRank m 64
    let latch := fun (s : State) (typ : Nat) (els : List Elem) =>
      s.modMe fun x => { x with latches := x.latches.set (s.latchKey p) (latchOf s.pc typ m (s.portAt p) els) }
    if b.kb then
      match s.portCoach p with
      | none => .error (s.portTrap loc p 0)
      | some c =>
        let els := b.elems c n
        .ok ((latch s b.typ els).modMe fun x =>
          { x with ports := vput x.ports p { b with pos := b.pos + els.length, fin := b.fin || els.length < n } })
    else
      let d := s.die
      let t := s.tix
      match s.streamElems d t b.ape n with
      | (s1, _, some (.fault pos)) => .error (s1.portTrap loc p pos)
      | (s1, els, some (.withheld va lv c)) =>
        .error ((((s1.stash d t b.ape 0 els).modTile d t fun x => x.modApe b.ape fun a => { a with wh := true }).withhold
          (apeUnit d t b.ape).u va .read lv c (some ((s1.portApe p).pos + els.length))).waits (.ape b.ape))
      | (s1, els, some (.hold e i)) => .error ((s1.stash d t b.ape 0 els).waits (.arming e i))
      | (s1, els, some (.wait id)) => .error ((s1.stash d t b.ape 0 els).waits (.remote id))
      | (s1, _, some .dry) => .error (s1.waits (.ape b.ape))
      | (s1, els, some _) =>
        let s2 := (latch s1 (s1.portApe p).typ els).modTile d t fun x => x.modApe b.ape fun a => a.taken els.length
        .ok (if (s1.portApe p).fin then s2 else s2.endOf d t b.ape)
      | (s1, els, none) =>
        .ok (((latch s1 (s1.portApe p).typ els).modTile d t fun x => x.modApe b.ape fun a => a.taken els.length).post 1 .apeElement
          (.tileIdx { die := d, tile := t, i := b.ape }))

/-- The pops of a list of fields (where, port) in order; a port pops once (R211). -/
def State.pops (m : Word) : List (Nat × Nat) → State → Except State State
  | [], s => .ok s
  | (loc, p) :: r, s =>
    match s.pop loc p m with
    | .ok s1 => State.pops m r s1
    | .error t => .error t

/-- The lowest set lane of a mask. -/
def lowest (m : Word) : Nat := ((List.range 64).find? fun i => m.getLsbD i).getD 64

/-- The POISON trap of a field whose popped vector holds a poisoned lane (R277, R288). -/
def State.poisonedField (s : State) (f : Nat × Nat) : Option State :=
  match s.latched f.2 with
  | none => none
  | some l =>
    if l.pois = 0 then none
    else
      let pos := l.pos + laneRank l.mask (lowest l.pois)
      some (s.trap 6 f.1 (w64 (f.2 * 2 ^ 48 + pos % 2 ^ 48)))

/-- A link after mask register n was written by a later instruction in the lanes of a mask (R260). -/
def Link.overMask (l : Link) (n : Nat) (m : Word) : Link := if l.toMask && l.dst == n then { l with opn := l.opn &&& ~~~m } else l

/-- A mask register written in the lanes of a mask, m0 discarded: a link that still writes it ends there (R198, R260). -/
def Context.putMask (x : Context) (n : Nat) (m v : Word) : Context :=
  if n = 0 then x else
  (({ x with links := x.links.map fun l => l.overMask n m } : Context)).reap.setMask n ((x.mask n &&& ~~~m) ||| (v &&& m))

/-- The flags that the conversions of popped vectors raised in the lanes of a mask (R208, R350). -/
def latchFl (ls : List Latch) (a : Word) : Fl :=
  (List.range 64).foldl (fun f i => if a.getLsbD i then ls.foldl (fun f l => f ||| (vget l.fl i 0).setWidth 7) f else f) 0

/-- An instruction's pops are done: m7 after its partial pops, the flags of its lanes a, and its latches emptied; ls are the latches of
its fields (R208, R212, R214, R350). -/
def State.popsDone (s : State) (pc m a : Word) (ls : List Latch) : State :=
  let part := ls.filter fun l => l.mask != m
  let s0 := if ls.isEmpty then s else s.addFlags (latchFl ls a)
  let s1 := if part.isEmpty then s0
    else s0.modMe fun x => x.putMask 7 (BitVec.allOnes 64) (part.foldl (fun w l => w &&& l.mask) (BitVec.allOnes 64))
  s1.modMe fun x => { x with latches := x.latches.filter fun e => e.2.addr != pc }

/-! Pushes (R208, R213). -/

/-- The positions of a push: (offset, lane) of the lanes that write, and the positions it consumes (R213). -/
def pushPlan (m : Word) (pm : Bool) : List (Nat × Nat) × Nat :=
  let on := (List.range 64).filter fun i => m.getLsbD i
  if pm then (on.map fun i => (laneRank m i, i), on.length) else (on.map fun i => (i, i), 64)

/-- An element of a push: its position past the port's, its code, the flags of its conversion, its poison. -/
structure PushElem where
  off : Nat
  code : Nat
  fl : Fl
  pois : Bool
  deriving DecidableEq, Repr

/-- The type of the elements a port takes. -/
def State.portType (s : State) (p : Nat) : Nat := let b := s.port p; if b.kb then b.typ else (s.portApe p).typ

/-- Where an element of a push to APE e stands, whose record and position a holds; or its position and what stops it (R41, R123,
R206). -/
def State.pushPlace (s : State) (d t e : Nat) (a : Ape) (sz : Nat) (x : PushElem) : Except (Nat × Got) (PushElem × Nat × Chk) :=
  let n := a.pos + x.off
  let ea := a.addr n
  if ea % sz != 0 then .error (n, .fault n)
  else match s.check (s.asReq (apeUnit d t e)) ea sz .write with
    | .refuse _ => .error (n, .fault n)
    | .reg .. => .error (n, .fault n)
    | .hold d i => .error (n, .hold d i)
    | .fault lv c => .error (n, .withheld ea lv c)
    | c => .ok (x, ea, c)

/-- Where the elements of a push stand, or the position of the first that fails and what stops it. -/
def State.pushPlaces (s : State) (d t e : Nat) (a : Ape) (sz : Nat) : List PushElem → Except (Nat × Got) (List (PushElem × Nat × Chk))
  | [] => .ok []
  | x :: r => (s.pushPlace d t e a sz x).bind fun y => (s.pushPlaces d t e a sz r).map fun l => y :: l

/-- The elements of a push that lie within its port's length. -/
def inLength (len pos : Nat) (els : List PushElem) : List PushElem := els.filter fun x => pos + x.off < len

/-- The length of port p in elements: of its stream, or of the outgoing payload (R213, R215). -/
def State.portLen (s : State) (p : Nat) : Nat :=
  let b := s.port p
  if b.kb then (s.me.q6.map Coach.plen).getD 0 / elemSize b.typ else (s.portApe p).len

/-- Whether port p has ended: a push is discarded whole (R213). -/
def State.pushEnded (s : State) (p : Nat) : Bool :=
  let b := s.port p
  if b.kb then b.fin else (s.portApe p).fin

/-- The position of the first element of a push at offsets past the port's that its stream refuses (R206, R275). -/
def State.pushFault (s : State) (p : Nat) (offs : List Nat) : Option Nat :=
  let b := s.port p
  if b.kb || s.pushEnded p then none
  else match s.pushPlaces s.die s.tix b.ape (s.portApe p) (elemSize (s.portType p))
      (inLength (s.portLen p) (s.portAt p) (offs.map fun i => { off := i, code := 0, fl := 0, pois := false })) with
    | .error (_, .fault n) => some n
    | _ => none

/-- What an instruction pushes to: its port, the offsets of the elements it writes, and the kind of its push (Wait.turn). -/
structure PushDest where
  p : Nat
  offs : List Nat
  kind : Nat
  deriving DecidableEq, Repr

/-- The push of the lanes of a mask to the port that a vector field names. -/
def pushDest (port : Option Nat) (a : Word) (pm : Bool) (kind : Nat) : Option PushDest :=
  port.map fun p => { p := p, offs := (pushPlan a pm).1.map (·.1), kind := kind }

/-- An instruction's port work (R210-R216): source fields (where, port) and the port it pushes. Fields are checked, waits
for a busy APE taken, the ports popped, the places of the push checked, poison found (R275); then k runs with the popped vectors. Where it
pushes a port, k may end in a trap or wait: the vectors stay in their latches. Else m7 is written before the result of k. a has the lanes
whose conversions raise flags. -/
def State.withPorts (s : State) (m a : Word) (srcs : List (Nat × Nat)) (dest : Option PushDest)
    (k : (Nat → Latch) → State → Except State State) : State :=
  match srcs.findSome? fun f => if (s.latched f.2).isSome then none else (s.popBad f.2).map fun pos => (f.1, f.2, pos) with
  | some (loc, p, pos) => s.portTrap loc p pos
  | none =>
    match dest.bind fun x => (s.pushBad x.p).map fun pos => (x.p, pos) with
    | some (p, pos) => s.portTrap 4 p pos
    | none =>
      let need := laneRank m 64
      match (srcs.findSome? fun f => if (s.latched f.2).isSome then none else s.portBusy need f.2),
          dest.bind fun x => s.pushBusy need x.kind x.p with
      | some w, _ => s.waits w
      | none, some w => s.waits w
      | none, none =>
        match State.pops m srcs s with
        | .error t => t
        | .ok s1 =>
          match dest.bind fun x => (s1.pushFault x.p x.offs).map fun pos => (x.p, pos) with
          | some (p, pos) => s1.portTrap 4 p pos
          | none =>
            match srcs.findSome? s1.poisonedField with
            | some t => t
            | none =>
              let ls := srcs.filterMap fun f => s1.latched f.2
              let pops := fun p => (s1.latched p).getD .init
              match dest with
              | none => (match k pops (s1.popsDone s1.pc m a ls) with | .ok t => t | .error t => t)
              | some _ => (match k pops s1 with | .ok t => t.popsDone s1.pc m a ls | .error t => t)

/-- A lane converted to a stream's type with sat = 1 (R208); FP32 unchanged. -/
def pushCode (typ rnd : Nat) (x : Lane) : Nat × Fl := if typ == 0 then (x.toNat, 0) else convert (laneAs typ x) typ rnd true

/-- Bytes of a payload replaced from i on. -/
def putBytes (pay : List Byte) (i : Nat) (bs : List Byte) : List Byte := padTo i pay ++ bs ++ pay.drop (i + bs.length)

/-- An element written into a payload of n bytes; beyond it, nothing. -/
def putElem (n sz : Nat) (pay : List Byte) (pos code : Nat) : List Byte :=
  if pos * sz + sz ≤ n then putBytes (padTo n pay) (pos * sz) (leOf sz code) else pay

/-- The elements of a push of lanes under a mask, from offset base on (R208, R213); lanes of pois are poisoned (R385). -/
def pushElems (typ rnd base : Nat) (m : Word) (pm : Bool) (lanes : Lanes) (pois : Word) : List PushElem :=
  (pushPlan m pm).1.map fun e =>
    let (c, f) := pushCode typ rnd (vget lanes e.2 0)
    { off := base + e.1, code := c, fl := f, pois := pois.getLsbD e.2 }

/-- The state that a push of the executing context ends in where an element of it is stopped. -/
def State.pushStop (s : State) (loc p e : Nat) (r : Nat × Got) : State :=
  match r.2 with
  | .fault n => s.portTrap loc p n
  | .hold d i => s.waits (.arming d i)
  | .withheld ea lv c =>
    ((s.modMyTile fun t => t.modApe e fun a => { a with wh := true }).withhold (apeUnit s.die s.tix e).u ea .write lv c (some r.1)).waits
      (.ape e)
  | .elem _ | .stop | .wait _ | .dry => s

/-- The granules that the writes of a push cover whole (R289): a list of places with their bytes. -/
def wholeGranules (sz : Nat) (keys : List Nat) : List Nat :=
  let ks := keys.eraseDups
  (ks.map (· / 64)).eraseDups.filter fun g => sz * (ks.filter fun k => k / 64 == g).length == 64

/-- The writes of a push performed in position order. -/
def State.pushWrites (s : State) (u : UnitAt) (sz : Nat) (ps : List (PushElem × Nat × Chk)) : State :=
  let q := s.asReq u
  let near := ps.filterMap fun x => match x.2.2 with | .ok p => some (x.1, x.2.1, p) | _ => none
  let s1 := near.foldl (fun s x => (s.touch q x.2.1 .write x.2.2).wrFor q x.2.2 (leOf sz x.1.code)) s
  let s2 := (wholeGranules sz (near.map fun x => s1.home x.2.2)).foldl (fun s g => s.mark g false) s1
  near.foldl (fun s x => if x.1.pois then s.mark (s.home x.2.2 / 64) true else s) s2

/-- The elements of a push whose places are at other modules, and what asks those modules whether they take a write there (R40, R41). -/
def farPush (a : Ape) (ps : List (PushElem × Nat × Chk)) : List (PushElem × Wish) :=
  ps.filterMap fun x => match x.2.2 with
    | .remote m va => some (x.1, { tag := (a.pos + x.1.off) * 4 + 1, m := m, va := va, n := 0, op := .write, y := 0, data := [] })
    | _ => none

/-- Whether the places of elements of a push are asked for at their modules: the number of the request to wait for, or the first position
that is refused there (R41). -/
def State.pushAsk (s : State) (u : UnitAt) (a : Ape) (ps : List (PushElem × Nat × Chk)) : State × Except Nat (Option Nat) :=
  let far := farPush a ps
  match s.remoteAll u.u (far.map (·.2)) with
  | (s1, .error id) => (s1, .error id)
  | (s1, .ok gs) => (s1, .ok (((far.zip gs).find? fun e => !e.2.ok).map fun e => a.pos + e.1.1.off))

/-- The elements of a push written one after another, each once the one before is visible (R152): how many, and the request at which they
wait. An element that its module refuses by now is discarded (entry 56). -/
def State.pushRun (s : State) (u : UnitAt) (a : Ape) (sz : Nat) : List (PushElem × Nat × Chk) → State × Nat × Option Nat
  | [] => (s, 0, none)
  | x :: r =>
    match x.2.2 with
    | .remote m va =>
      (match s.remote u.u ((a.pos + x.1.off) * 4) m va sz .write 0 (if x.1.pois then 1 else 0) (leOf sz x.1.code) with
       | (s1, .error id) => (s1, 0, some id)
       | (s1, .ok _) => let (s2, n, w) := s1.pushRun u a sz r; (s2, n + 1, w))
    | _ => let (s2, n, w) := (s.pushWrites u sz [x]).pushRun u a sz r; (s2, n + 1, w)

/-- The elements of a push from number k on, all of this module at once. -/
def State.pushFrom (s : State) (u : UnitAt) (a : Ape) (sz k : Nat) (ps : List (PushElem × Nat × Chk)) : State × Nat × Option Nat :=
  if (farPush a ps).isEmpty then (s.pushWrites u sz ps, 0, none) else s.pushRun u a sz (ps.drop k)

/-- A coach after the elements of a push at position pos (R213, R289). -/
def Coach.pushed (c : Coach) (sz pos : Nat) (els : List PushElem) : Coach :=
  let keep := els.filter fun x => (pos + x.off) * sz + sz ≤ c.plen
  let whole := wholeGranules 1 (keep.flatMap fun x => (List.range sz).map fun i => (pos + x.off) * sz + i)
  let bad := (keep.filter (·.pois)).map fun x => (pos + x.off) * sz / 64
  { c with pay := keep.foldl (fun pay e => putElem c.plen sz pay (pos + e.off) e.code) c.pay
           pois := ((c.pois.filter fun g => !whole.contains g) ++ bad).eraseDups }

/-- The positions of a push are consumed; the one that reaches the length ends the port, an APE only where now is set (R213). -/
def State.pushTaken (s : State) (p used : Nat) (now : Bool) : State :=
  let b := s.port p
  if b.kb then s.modMe fun x => { x with ports := vput x.ports p { b with pos := b.pos + used, fin := s.portLen p ≤ b.pos + used } }
  else
    let s1 := s.modMyTile fun t => t.modApe b.ape fun a => { a with pos := a.pos + used, wh := false }
    if now && s.portLen p ≤ (s.portApe p).pos + used then s1.endOf s.die s.tix b.ape else s1

/-- A push of elements to port p, which pushBad and portBusy have passed: it consumes used positions (R213). The flags are
those of the elements written. A stream's writes of this module are performed in the same step; those to other modules one after another,
once every place has passed its checks: the push ends in a trap before any of them. -/
def State.pushTo (s : State) (loc p : Nat) (els : List PushElem) (used : Nat) : Except State (State × Fl) :=
  let b := s.port p
  let sz := elemSize (s.portType p)
  let keep := inLength (s.portLen p) (s.portAt p) els
  let fl := keep.foldl (fun f x => f ||| x.fl) 0
  if s.pushEnded p then .ok (s, 0)
  else if b.kb then
    .ok ((s.modMe fun x => { x with q6 := x.q6.map fun c => c.pushed sz b.pos keep }).pushTaken p used true, fl)
  else
    let a := s.portApe p
    match s.pushPlaces s.die s.tix b.ape a sz keep with
    | .error r => .error (s.pushStop loc p b.ape r)
    | .ok ps =>
      let u := apeUnit s.die s.tix b.ape
      let go := fun (s : State) (k : Nat) =>
        match s.pushFrom u a sz k ps with
        | (s1, n, some id) => Except.error ((s1.modMe fun x => { x with part := some (b.ape, k + n) }).waits (.remote id))
        | (s1, _, none) => .ok ((s1.pushTaken p used true).modMe fun x => { x with part := none }, fl)
      match s.me.part with
      | some k => go s k.2
      | none =>
        match s.pushAsk u a ps with
        | (s1, .error id) => .error (s1.waits (.remote id))
        | (s1, .ok (some n)) => .error (s1.portTrap loc p n)
        | (s1, .ok none) => go s1 0

/-- A push of the lanes of a mask to port p. Lanes of cut were read with a cut mark: the conversion sets cutread (R266). -/
def State.push (s : State) (p : Nat) (m : Word) (pm : Bool) (lanes : Lanes) (cut : Word) : Except State State :=
  (s.pushTo 4 p (pushElems (s.portType p) s.hart.rnd 0 m pm lanes 0) (pushPlan m pm).2).map fun r =>
    r.1.addFlags (r.2 ||| flIf ((cut &&& m) != 0) flCutread)

/-! Registers under links and cut marks (R256, R257, R260, R266). -/

/-- The settled value of a lane of register r: the youngest link that still writes it, else the register. -/
def settledLane (x : Context) (r i : Nat) : Lane :=
  x.links.foldl (fun v l =>
    if l.toMask || l.push.isSome then v
    else if l.dst == r && l.opn.getLsbD i then vget l.vals i 0
    else if l.dst + 1 == r && l.opn2.getLsbD i then vget l.vals2 i 0 else v) (vget (vget x.v r .zero) i 0)

/-- Register r as a reading instruction sees it: settled values, +0 in lanes with a cut mark. -/
def Context.readV (x : Context) (r : Nat) : Lanes :=
  Vector.ofFn fun i => if (vget x.cut r 0).getLsbD i.val then 0 else settledLane x r i.val

/-- Register r of the executing context as an instruction reads it, the defects of its array included (R459). -/
def State.readV (s : State) (r : Nat) : Lanes := s.seen s.die s.tix s.cix r (s.me.readV r)

/-- Register r written in the lanes of a mask by an instruction that is no link: cut marks fall there, links end there. -/
def Context.writeV (x : Context) (r : Nat) (m : Word) (new : Lanes) : Context :=
  ({ x with v := vput x.v r (pickLanes m new (vget x.v r .zero))
            cut := vput x.cut r (vget x.cut r 0 &&& ~~~m)
            links := x.links.map fun l => l.overwrite r m } : Context).reap

/-- Lanes of register r marked as cut, and ended in links (R266, R267). -/
def Context.markV (x : Context) (r : Nat) (m : Word) : Context :=
  ({ x with cut := vput x.cut r (vget x.cut r 0 ||| m), links := x.links.map fun l => l.overwrite r m } : Context).reap

/-- How many lanes of register r gain a mark where those of a mask are cut (R268). -/
def Context.newCuts (x : Context) (r : Nat) (m : Word) : Nat := laneRank (m &&& ~~~(vget x.cut r 0)) 64

/-- Lanes of register r cut (R266-R268): marked, and counted where they were not. -/
def Context.cutV (x : Context) (r : Nat) (m : Word) : Context :=
  let y := x.markV r m
  { y with hart := { y.hart with cutcnt := stick (y.hart.cutcnt + x.newCuts r m) 0xFFFFFFFF } }

/-- A vector field's lanes: a register, or a popped port. -/
def State.vsrc (s : State) (pops : Nat → Lanes) (f : BitVec 5) : Lanes :=
  if f.toNat < 24 then s.readV f.toNat else pops (f.toNat - 24)

/-- The cut marks of a vector field; a port has none. -/
def State.vcut (s : State) (f : BitVec 5) : Word := if f.toNat < 24 then vget s.me.cut f.toNat 0 else 0

/-- A general register's low 32 bits in every lane (R298). -/
def State.splat (s : State) (f : BitVec 5) : Lanes := let x : Lane := (s.getG f).setWidth 32; Vector.ofFn fun _ => x

/-- The port a vector field names. -/
def portOf (f : BitVec 5) : Option Nat := if 24 ≤ f.toNat then some (f.toNat - 24) else none

/-- The source fields that name ports, with their place (R275), each port once. -/
def srcPorts (l : List (Nat × BitVec 5)) : List (Nat × Nat) :=
  l.foldl (fun acc e => match portOf e.2 with | some p => if acc.any (·.2 == p) then acc else acc ++ [(e.1, p)] | none => acc) []

/-! Links (R260, R261). -/

/-- Register r as a new link of some lanes leaves it: their marks fall, marked lanes show +0 there until it settles, and older links
write them no more (R260). -/
def Context.linkReg (x : Context) (r : Nat) (active : Word) : Context :=
  let c := vget x.cut r 0 &&& active
  { x with v := vput x.v r (pickLanes c .zero (vget x.v r .zero)), cut := vput x.cut r (vget x.cut r 0 &&& ~~~active)
           links := x.links.map fun l => l.overwrite r active }

/-- A context with a new link. -/
def Context.link (x : Context) (l : Link) : Context :=
  let y := if l.push.isSome then x
    else if l.toMask then { x with links := x.links.map fun o => o.overMask l.dst l.active }
    else if l.two then (x.linkReg l.dst l.active).linkReg (l.dst + 1) l.active else x.linkReg l.dst l.active
  let z := y.reap
  { z with links := z.links ++ [l], hart := { z.hart with peak := max z.hart.peak (z.links.length + 1) } }

/-- A new link of the executing context; it settles after those before it. -/
def State.link (s : State) (l : Link) : State :=
  (s.modMe fun x => x.link l).post 20 .linkSettle (.tileIdx { die := s.die, tile := s.tix, i := s.cix })

/-- The oldest link of a context has settled in every lane: it writes its destinations, adds its flags and counts its cuts (R264, R268,
R271). -/
def Context.settleLink (x : Context) (l : Link) : Context :=
  let y := if l.push.isSome then x
    else if l.toMask then x.setMask l.dst ((x.mask l.dst &&& ~~~l.opn) ||| maskOf fun i => l.opn.getLsbD i && vget l.vals i 0 != 0)
    else
      let z := { x with v := vput x.v l.dst (pickLanes l.opn l.vals (vget x.v l.dst .zero)) }
      if l.two then { z with v := vput z.v (l.dst + 1) (pickLanes l.opn2 l.vals2 (vget z.v (l.dst + 1) .zero)) } else z
  { y with links := x.links.drop 1
           hart := { y.hart with fflags := y.hart.fflags ||| l.pendFl, cutcnt := stick (y.hart.cutcnt + l.cuts) 0xFFFFFFFF } }

/-! Links that push a port (R257). -/

/-- The elements of a link's push: the codes of its lanes, converted at its issue. -/
def Link.elems (l : Link) (p : PushTo) : List PushElem :=
  (pushPlan l.active p.pm).1.map fun e => { off := e.1, code := (vget l.vals e.2 0).toNat, fl := 0, pois := false }

/-- The APE that a push reserved its positions in, as it stood then. -/
def PushTo.stream (p : PushTo) : Ape := { Ape.init with cfg := p.cfg, pos := p.pos }

/-- A stream whose write meets a translation fault withholds (R123); one that writes withholds no longer. -/
def State.pushHolds (s : State) (d t e : Nat) (at_ : Option (Nat × Nat × Nat × Nat)) : State :=
  let s1 := if ((s.tile d t).ape e).wh == at_.isSome then s else s.modTile d t fun x => x.modApe e fun a => { a with wh := at_.isSome }
  match at_ with
  | some (pos, va, lv, c) => s1.withhold (apeUnit d t e).u va .write lv c (some pos)
  | none => s1.unwithhold (apeUnit d t e).u

/-- A push whose positions were reserved at issue, and how many of its elements are written where it is not performed yet: it waits for a
page, for which its stream withholds, for a reply, or for an arming region's tile. An element that its stream refuses by now is
discarded (entry 56). -/
def State.latePush (s : State) (d t c : Nat) (p : PushTo) (els : List PushElem) : State × Option Nat :=
  let sz := elemSize p.typ
  if p.gone then (s, none)
  else if p.kb then (s.modCtx d t c fun x => { x with q6 := x.q6.map fun k => k.pushed sz p.pos els }, none)
  else
    let a := p.stream
    let ok := (inLength a.len p.pos els).filter fun x =>
      match s.pushPlace d t p.ape a sz x with | .error (_, .fault _) => false | _ => true
    match s.pushPlaces d t p.ape a sz ok with
    | .error (n, .withheld ea lv e) => (s.pushHolds d t p.ape (some (n, ea, lv, e)), some p.skip)
    | .error _ => (s, some p.skip)
    | .ok ps =>
      match (s.pushHolds d t p.ape none).pushFrom (apeUnit d t p.ape) a sz p.skip ps with
      | (s1, n, some _) => (s1, some (p.skip + n))
      | (s1, _, none) => (s1, none)

/-- A link's push, and how many of its elements are written where it is not performed yet: the push that reaches the length ends its
stream (R213, R257). -/
def State.linkPush (s : State) (d t c : Nat) (l : Link) (p : PushTo) : State × Option Nat :=
  let (s1, left) := s.latePush d t c p (l.elems p)
  let b := (s1.tile d t).ape p.ape
  (if left.isNone && !p.gone && !p.kb && p.stream.len ≤ p.pos + (pushPlan l.active p.pm).2 && b.cfg == p.cfg && !b.fin then
      s1.endOf d t p.ape else s1, left)

end Sys2Proof.Machine
end

