-- ==== Sys2Proof/Machine/VecArith.lean ====
section
/-! DEFINITION. The vector group's arithmetic (16 R350-R364): how a chain instruction and any other vector instruction
take their operands and write their result, floating arithmetic, comparison, cuts, conversion, quantisation, selection,
integer, logical and shift operations. -/

namespace Sys2Proof.Machine

/-! The frames of vector instructions. -/

/-- The lanes a pop serves: all, or under pm the active ones (R211). -/
def popMask (o : VFmt) (a : Word) : Word := if o.pm then a else BitVec.allOnes 64

/-- The first register among fields whose lanes a link still writes: its link (R257). -/
def State.regWait (s : State) (regs : List (BitVec 5)) (lanes : Word) : Option Nat :=
  regs.findSome? fun f => if f.toNat < 24 then s.me.vecLink f.toNat lanes else none

/-- The first mask among several that a link still writes: its link (R257, R369). -/
def State.maskWait (s : State) (ms : List Nat) : Option Nat := ms.findSome? s.me.maskLink

/-- An instruction of the vector group that is no chain instruction: it waits for the links that write the lanes of its
source registers and masks, does its ports' work, and runs k with the popped lanes and the active lanes. -/
def State.vecWork (s : State) (o : VFmt) (srcs : List (Nat × BitVec 5)) (need : Word → Word) (ms : List Nat) (dest : Option Nat)
    (k : (Nat → Lanes) → Word → State → Except State State) : State :=
  s.masked o.gn o.gs fun a s =>
    match s.regWait (srcs.map (·.2)) (need a), s.maskWait ms with
    | some j, _ => s.waitLink j
    | none, some j => s.waitLink j
    | none, none => s.withPorts (popMask o a) a (srcPorts srcs) (pushDest dest a o.pm 0) fun pops s => k (fun p => (pops p).lanes) a s

/-- As vecWork, where no port is pushed. -/
def State.vecOp (s : State) (o : VFmt) (srcs : List (Nat × BitVec 5)) (need : Word → Word) (ms : List Nat)
    (k : (Nat → Lanes) → Word → State → State) : State :=
  s.vecWork o srcs need ms none fun pops a s => .ok (k pops a s)

/-- The lanes an instruction writes, those read with a cut mark, and its flags. -/
structure VRes where
  lanes : Lanes
  cut : Word
  fl : Fl

/-- The result lanes in the vector field vd: a register's active lanes, or a push (R213). -/
def State.putV (s : State) (o : VFmt) (a : Word) (r : VRes) : Except State State :=
  match portOf o.vd with
  | some p => (s.push p a o.pm r.lanes r.cut).map fun t => (t.addFlags r.fl).advance
  | none => .ok ((s.modMe fun x => x.writeV o.vd.toNat a r.lanes).addFlags r.fl).advance

/-- As vecWork, for a result in the vector field vd. -/
def State.vecPut (s : State) (o : VFmt) (srcs : List (Nat × BitVec 5)) (need : Word → Word) (ms : List Nat)
    (k : (Nat → Lanes) → Word → State → VRes) : State :=
  s.vecWork o srcs need ms (portOf o.vd) fun pops a s => s.putV o a (k pops a s)

/-- All 64 lanes. -/
def allLanes (_ : Word) : Word := BitVec.allOnes 64

/-- Operand va, or with sa = 1 the general register in every lane (R298). -/
def State.vaLanes (s : State) (o : VFmt) (pops : Nat → Lanes) : Lanes := if o.sa then s.splat o.va else s.vsrc pops o.va

/-- The source field va, where it is a vector field. -/
def vaSrc (o : VFmt) : List (Nat × BitVec 5) := if o.sa then [] else [(1, o.va)]

/-- The cut marks of operand va. -/
def State.vaCut (s : State) (o : VFmt) : Word := if o.sa then 0 else s.vcut o.va

/-- Lanes from a function. -/
def lanesFn (f : Nat → Lane) : Lanes := Vector.ofFn fun i => f i.val

/-- The union of the flags of the lanes of a mask. -/
def unionFl (a : Word) (f : Nat → Fl) : Fl := (List.range 64).foldl (fun x i => if a.getLsbD i then x ||| f i else x) 0

/-- A chain instruction's result of a lane: the value, the residual under .x, and its flags. -/
structure LaneRes where
  v : Lane
  e : Lane
  fl : Fl
  deriving DecidableEq, Repr

/-- The flags of lane i that the conversions of a chain instruction's popped vectors raised; its link adds them (R264, R350). -/
def popFl (ports : List (Nat × Nat)) (pops : Nat → Latch) (i : Nat) : Fl :=
  ports.foldl (fun f e => f ||| (vget (pops e.2).fl i 0).setWidth 7) 0

/-- The link of a chain instruction for the lanes of a: r gives a lane's result. -/
def State.newLink (s : State) (o : VFmt) (a : Word) (rnd : Nat) (r : Nat → LaneRes) : Link :=
  { word := s.ir, dst := o.vd.toNat, two := o.aux.getLsbD 0, nbv := s.hart.nbv, rnd := rnd, active := a, opn := a
    opn2 := if o.aux.getLsbD 0 then a else 0, vals := lanesFn fun i => (r i).v, vals2 := lanesFn fun i => (r i).e
    fl := lanesFn fun i => (r i).fl.setWidth 32, cuts := 0, push := none }

/-- A chain instruction whose destination is port p (R257): its positions are reserved at issue, where what they meet is checked, and its
link pushes the lanes when they have settled. -/
def State.chainPush (s : State) (o : VFmt) (a : Word) (p : Nat) (r : Nat → LaneRes) : Except State State :=
  let b := s.port p
  let ape := s.portApe p
  let typ := s.portType p
  let c := fun i => pushCode typ s.hart.rnd (r i).v
  let plan := pushPlan a o.pm
  let gone := s.pushEnded p
  let keep := if gone then [] else
    inLength (s.portLen p) (s.portAt p) (plan.1.map fun e => { off := e.1, code := (c e.2).1, fl := 0, pois := false })
  let on := fun i => plan.1.any fun e => e.2 == i && keep.any fun x => x.off == e.1
  let l := s.newLink o a o.rnd.toNat fun i => { v := BitVec.ofNat 32 (c i).1, e := 0, fl := (r i).fl ||| (if on i then (c i).2 else 0) }
  let to_ : PushTo := { kb := b.kb, ape := b.ape, cfg := ape.cfg, typ := typ, pos := s.portAt p, pm := o.pm, gone := gone
                        skip := 0 }
  let done := fun (s : State) => (s.link { l with opn2 := 0, push := some to_ }).advance
  if gone then .ok (done s)
  else if b.kb then .ok (done (s.pushTaken p plan.2 false))
  else match s.pushPlaces s.die s.tix b.ape ape (elemSize typ) keep with
    | .error e => .error (s.pushStop 4 p b.ape e)
    | .ok ps =>
      match s.pushAsk (apeUnit s.die s.tix b.ape) ape ps with
      | (s1, .error id) => .error (s1.waits (.remote id))
      | (s1, .ok (some n)) => .error (s1.portTrap 4 p n)
      | (s1, .ok none) => .ok (done (s1.pushTaken p plan.2 false))

/-- A chain instruction (R255-R261): at the depth limit it waits; its operands are the settled lanes; it becomes a link, which writes a
register or pushes a port when it settles. f gives a lane's result from the lanes of va, vb and vc. -/
def State.chainOp (s : State) (o : VFmt) (vb vc : Option (BitVec 5)) (f : Lane → Lane → Lane → LaneRes) : State :=
  s.masked o.gn o.gs fun a s =>
    if 16 ≤ s.me.links.length then (s.modHart fun h => { h with stall := stick (h.stall + 1) 0xFFFF }).waits (.links 16)
    else
      let ports := srcPorts (vaSrc o ++ (vb.map fun f => (2, f)).toList ++ (vc.map fun f => (3, f)).toList)
      s.withPorts (popMask o a) 0 ports (pushDest (portOf o.vd) a o.pm 1) fun pops s =>
        let p := fun n => (pops n).lanes
        let x := s.vaLanes o p
        let y := vb.elim Lanes.zero (s.vsrc p)
        let z := vc.elim Lanes.zero (s.vsrc p)
        let r := fun i =>
          let v := f (vget x i 0) (vget y i 0) (vget z i 0)
          { v with fl := v.fl ||| popFl ports pops i }
        match portOf o.vd with
        | some q => s.chainPush o a q r
        | none => .ok (s.link (s.newLink o a o.rnd.toNat r)).advance

/-- The digits of a budget (R258): 2 times prec. -/
def digits (o : VFmt) : Nat := 2 * o.prec.toNat

/-- With .x, the rounded result and its residual (R243). -/
def roundX (o : VFmt) (e : Exact) : LaneRes :=
  let (v, fl) := e.budget (digits o) o.rnd.toNat
  { v := v, e := if o.aux.getLsbD 0 then residual e v o.rnd.toNat else 0, fl := fl }

/-- A two-operand floating instruction (R353). -/
def State.float2 (s : State) (o : VFmt) (f : FNum → FNum → Exact) : State :=
  s.chainOp o (some o.vb) none fun x y _ => roundX o (f (laneVal x) (laneVal y))

/-- A one-operand reference function (R353). -/
def State.floatRef (s : State) (o : VFmt) (f : FNum → Nat → Exact × Bool) : State :=
  let nbv := s.hart.nbv
  s.chainOp o none none fun x _ _ =>
    let (v, fl) := refLane (f (laneVal x) nbv) (digits o) o.rnd.toNat
    { v := v, e := 0, fl := fl }

/-! Floating arithmetic (R353, R354). -/

/-- VADD. -/
def execVadd (o : VFmt) (s : State) : Host.Outcome State Fault Refusal :=
  .next (s.float2 o fun x y => addE x y o.rnd.toNat)

/-- VSUB. -/
def execVsub (o : VFmt) (s : State) : Host.Outcome State Fault Refusal :=
  .next (s.float2 o fun x y => addE x y.flip o.rnd.toNat)

/-- VMUL. -/
def execVmul (o : VFmt) (s : State) : Host.Outcome State Fault Refusal :=
  .next (s.float2 o mulE)

/-- VFMA: x y + z. -/
def execVfma (o : VFmt) (s : State) : Host.Outcome State Fault Refusal :=
  .next (s.chainOp o (some o.vb) (some o.vc) fun x y z => roundX o (fmaE (laneVal x) (laneVal y) (laneVal z) false o.rnd.toNat))

/-- VFMS: x y - z. -/
def execVfms (o : VFmt) (s : State) : Host.Outcome State Fault Refusal :=
  .next (s.chainOp o (some o.vb) (some o.vc) fun x y z =>
    roundX o (fmaE (laneVal x) (laneVal y) (laneVal z).flip false o.rnd.toNat))

/-- VNFMA: z - x y. -/
def execVnfma (o : VFmt) (s : State) : Host.Outcome State Fault Refusal :=
  .next (s.chainOp o (some o.vb) (some o.vc) fun x y z => roundX o (fmaE (laneVal x) (laneVal y) (laneVal z) true o.rnd.toNat))

/-- VABS: the sign bit alone, no rounding and no flag (R242). -/
def execVabs (o : VFmt) (s : State) : Host.Outcome State Fault Refusal :=
  .next (s.chainOp o none none fun x _ _ => { v := x &&& 0x7FFFFFFF, e := 0, fl := 0 })

/-- VNEG: the sign bit alone (R242). -/
def execVneg (o : VFmt) (s : State) : Host.Outcome State Fault Refusal :=
  .next (s.chainOp o none none fun x _ _ => { v := x ^^^ 0x80000000, e := 0, fl := 0 })

/-- VMAX (R242). -/
def execVmax (o : VFmt) (s : State) : Host.Outcome State Fault Refusal :=
  .next (s.float2 o maxE)

/-- VMIN (R242). -/
def execVmin (o : VFmt) (s : State) : Host.Outcome State Fault Refusal :=
  .next (s.float2 o minE)

/-- VDIV. -/
def execVdiv (o : VFmt) (s : State) : Host.Outcome State Fault Refusal :=
  .next (s.float2 o divE)

/-- VRCP (R249). -/
def execVrcp (o : VFmt) (s : State) : Host.Outcome State Fault Refusal :=
  .next (s.floatRef o rcpRef)

/-- VSQRT. -/
def execVsqrt (o : VFmt) (s : State) : Host.Outcome State Fault Refusal :=
  .next (s.chainOp o none none fun x _ _ => roundX o (sqrtE (laneVal x)))

/-- VRSQ (R250). -/
def execVrsq (o : VFmt) (s : State) : Host.Outcome State Fault Refusal :=
  .next (s.floatRef o rsqRef)

/-- VEXP2 (R251). -/
def execVexp2 (o : VFmt) (s : State) : Host.Outcome State Fault Refusal :=
  .next (s.floatRef o exp2Ref)

/-- VLOG2 (R252). -/
def execVlog2 (o : VFmt) (s : State) : Host.Outcome State Fault Refusal :=
  .next (s.floatRef o log2Ref)

/-- VSCALE: x times 2^n, n the INT32 reading of vb's lane. -/
def execVscale (o : VFmt) (s : State) : Host.Outcome State Fault Refusal :=
  .next (s.chainOp o (some o.vb) none fun x y _ => roundX o (scaleE (laneVal x) y.toInt))

/-! Compare, cut and settle (R355-R358). -/

/-- The comparison of two lanes read by typ, and its flags (R355). -/
def cmpLane (typ cc : Nat) (x y : Lane) : Bool × Fl :=
  if typ == 8 then (cmpI cc x.toInt y.toInt, 0)
  else if typ == 9 then (cmpI cc x.toNat y.toNat, 0)
  else (cmpF cc (laneVal x) (laneVal y), flIf (laneVal x == .nan || laneVal y == .nan) flNan)

/-- A chain instruction that writes a mask (R355, R356): f gives the bit and flags of a lane, and whether the lane is cut
in register cutReg. src2 is the second operand, a field with its place or a general register in every lane. -/
def State.chainMask (s : State) (o : VFmt) (loc : Nat) (src2 : BitVec 5) (isReg : Bool) (f : Lane → Lane → Bool × Fl)
    (cutReg : Option Nat) : State :=
  s.masked o.gn o.gs fun a s =>
    if 16 ≤ s.me.links.length then (s.modHart fun h => { h with stall := stick (h.stall + 1) 0xFFFF }).waits (.links 16)
    else
      let ports := srcPorts (vaSrc o ++ (if isReg then [] else [(loc, src2)]))
      s.withPorts (popMask o a) 0 ports none fun pops s =>
        let p := fun n => (pops n).lanes
        let x := s.vaLanes o p
        let y := if isReg then s.splat src2 else s.vsrc p src2
        let r := fun i => f (vget x i 0) (vget y i 0)
        let lost := maskOf fun i => a.getLsbD i && !(r i).1 && laneVal (vget x i 0) != .nan && laneVal (vget y i 0) != .nan
        let l : Link :=
          { word := s.ir, dst := o.vd.toNat, two := false, nbv := s.hart.nbv, rnd := 0, active := a, opn := a, opn2 := 0
            vals := lanesFn fun i => if (r i).1 then 1 else 0, vals2 := .zero
            fl := lanesFn fun i => ((r i).2 ||| popFl ports pops i).setWidth 32
            cuts := (cutReg.map fun v => s.me.newCuts v lost).getD 0, push := none }
        .ok (match cutReg with | some v => (s.link l).modMe fun c => c.markV v lost | none => s.link l).advance

/-- VCMP (R355). -/
def execVcmp (o : VFmt) (s : State) : Host.Outcome State Fault Refusal :=
  .next (s.chainMask o 2 o.vb false (cmpLane o.typ.toNat (o.imm.toNat % 8)) none)

/-- VCMPT: with aux bit 1 the threshold is a general register; lanes not kept are cut in vb (R356). -/
def execVcmpt (o : VFmt) (s : State) : Host.Outcome State Fault Refusal :=
  .next (s.chainMask o 3 o.vc (o.aux.getLsbD 1) (cmpLane 0 (o.imm.toNat % 8)) (some o.vb.toNat))

/-- VCUT: the lanes of the mask mk among the active ones (R357). -/
def execVcut (o : VFmt) (s : State) : Host.Outcome State Fault Refusal :=
  .next (s.vecOp o [] allLanes [o.mkf.toNat] fun _ a s =>
    (s.modMe fun x => x.cutV o.vd.toNat (x.mask o.mkf.toNat &&& a)).advance)

/-- VSETTLE (R358). -/
def execVsettle (o : VFmt) (s : State) : Host.Outcome State Fault Refusal :=
  .next (s.masked o.gn o.gs fun _ s => if s.me.links.isEmpty then s.advance else s.waits (.links 1))

/-! Conversion, quantisation and selection (R359-R362). -/

/-- VCVT (R359). -/
def execVcvt (o : VFmt) (s : State) : Host.Outcome State Fault Refusal :=
  .next (s.vecPut o (vaSrc o) id [] fun pops a s =>
    let dest := o.imm.toNat % 16
    let x := s.vaLanes o pops
    let r := fun i => convert (laneAs o.typ.toNat (vget x i 0)) dest o.rnd.toNat o.sat
    let fl := unionFl a (fun i => (r i).2) ||| flIf ((s.vaCut o &&& a) != 0) flCutread
    let out := lanesFn fun i => widen dest (r i).1
    { lanes := out, cut := 0, fl := fl })

/-- A quantised CQ4 code and its flags (R360): x = lane / t. -/
def quantCq4 (x t : FNum) : Nat × Fl :=
  match x with
  | .nan => (0, flNan)
  | _ =>
    let neg := x.neg != t.neg
    let ax := if x.neg then x.flip else x
    let at_ := if t.neg then t.flip else t
    let lv := fun (n : Nat) (e : Int) => if n = 0 then FNum.zero false else (mulV at_ (.num false n e)).1
    let k := ((List.range 7).filter fun k => ltV false (lv (cq4Level k + cq4Level (k + 1)) (-9)) ax).length
    let same := !ltV false (lv (cq4Level k) (-8)) ax && !ltV false ax (lv (cq4Level k) (-8))
    let zero := match x with | .zero _ => true | _ => false
    (if neg && k != 0 && !zero then 8 + k else k, flIf (!same) flInexact)

/-- Whether a quantisation's divisor gives codes of 0 (R360). -/
def badScale (t : FNum) : Option Fl :=
  match t with | .nan => some (flInvalid ||| flNan) | .inf _ => some flInvalid | .zero _ => some flInvalid | .num .. => none

/-- A lane quantised by t (R360). -/
def quantLane (o : VFmt) (x : Lane) (t : FNum) : Nat × Fl :=
  match badScale t with
  | some fl => (0, fl)
  | none => if o.typ == 5 then quantCq4 (laneVal x) t else (divE (laneVal x) t).toFmt e4m3 o.rnd.toNat o.sat

/-- Codes of w bits packed into lanes (R360). -/
def packLanes (w : Nat) (codes : Array Nat) : Lanes :=
  lanesFn fun i =>
    let per := 32 / w
    if i < 64 / per then BitVec.ofNat 32 ((List.range per).foldl (fun n j => n + codes.getD (i * per + j) 0 * 2 ^ (w * j)) 0) else 0

/-- VQNT: every lane of vd is written (R360). -/
def execVqnt (o : VFmt) (s : State) : Host.Outcome State Fault Refusal :=
  .next (s.vecOp o [(1, o.va)] id [] fun pops a s =>
    let t := laneVal ((s.getG o.vb).setWidth 32)
    let x := s.vsrc pops o.va
    let r := fun i => quantLane o (vget x i 0) t
    let codes := ((List.range 64).map fun i => if a.getLsbD i then (r i).1 else 0).toArray
    let fl := unionFl a (fun i => (r i).2) ||| flIf ((s.vcut o.va &&& a) != 0) flCutread
    ((s.addFlags fl).modMe fun c =>
      c.writeV o.vd.toNat (BitVec.allOnes 64) (packLanes (if o.typ == 5 then 4 else 8) codes)).advance)

/-- Code i of a packed sub-block (R360). -/
def unpackCode (w : Nat) (x : Lanes) (i : Nat) : Nat := (vget x (i / (32 / w)) 0).toNat / 2 ^ (w * (i % (32 / w))) % 2 ^ w

/-- VDQ (R361). -/
def execVdq (o : VFmt) (s : State) : Host.Outcome State Fault Refusal :=
  .next (s.vecPut o [(1, o.va)] allLanes [] fun pops a s =>
    let t := laneVal ((s.getG o.vb).setWidth 32)
    let x := s.vsrc pops o.va
    let w := if o.typ == 5 then 4 else 8
    let r := fun i =>
      let c := unpackCode w x i
      (mulE (if o.typ == 5 then cq4Val c else e4m3.val c) t).lane o.rnd.toNat
    let out := lanesFn fun i => (r i).1
    { lanes := out, cut := 0, fl := unionFl a fun i => (r i).2 })

/-- VSEL: bit patterns unchanged; m7 is read as it was before the instruction's own pops (R212, R362). -/
def execVsel (o : VFmt) (s : State) : Host.Outcome State Fault Refusal :=
  let m := s.me.mask o.mkf.toNat
  .next (s.vecPut o (vaSrc o ++ [(2, o.vb)]) id [o.mkf.toNat] fun pops _ s =>
    { lanes := pickLanes m (s.vaLanes o pops) (s.vsrc pops o.vb), cut := (s.vaCut o &&& m) ||| (s.vcut o.vb &&& ~~~m), fl := 0 })

/-! Integer, logical and shift operations (R363, R364). -/

/-- A lane operation on va and vb that sets no flag. -/
def State.lane2 (s : State) (o : VFmt) (f : Lane → Lane → Lane) : State :=
  s.vecPut o (vaSrc o ++ [(2, o.vb)]) id [] fun pops _ s =>
    let x := s.vaLanes o pops
    let y := s.vsrc pops o.vb
    let out := lanesFn fun i => f (vget x i 0) (vget y i 0)
    { lanes := out, cut := 0, fl := 0 }

/-- A lane's integer reading by typ. -/
def laneInt (o : VFmt) (x : Lane) : Int := if o.typ == 8 then x.toInt else x.toNat

/-- An exact integer result wrapped, or clamped under sat (R246). -/
def intLane (o : VFmt) (v : Int) : Lane :=
  let (lo, hi) := intRange o.typ.toNat
  BitVec.ofInt 32 (if o.sat then (if v < lo then lo else if hi < v then hi else v) else v)

/-- VIADD. -/
def execViadd (o : VFmt) (s : State) : Host.Outcome State Fault Refusal :=
  .next (s.lane2 o fun x y => intLane o (laneInt o x + laneInt o y))

/-- VISUB. -/
def execVisub (o : VFmt) (s : State) : Host.Outcome State Fault Refusal :=
  .next (s.lane2 o fun x y => intLane o (laneInt o x - laneInt o y))

/-- VIMUL. -/
def execVimul (o : VFmt) (s : State) : Host.Outcome State Fault Refusal :=
  .next (s.lane2 o fun x y => intLane o (laneInt o x * laneInt o y))

/-- VIMIN. -/
def execVimin (o : VFmt) (s : State) : Host.Outcome State Fault Refusal :=
  .next (s.lane2 o fun x y => if laneInt o x ≤ laneInt o y then x else y)

/-- VIMAX. -/
def execVimax (o : VFmt) (s : State) : Host.Outcome State Fault Refusal :=
  .next (s.lane2 o fun x y => if laneInt o x ≤ laneInt o y then y else x)

/-- VAND. -/
def execVand (o : VFmt) (s : State) : Host.Outcome State Fault Refusal :=
  .next (s.lane2 o fun x y => x &&& y)

/-- VOR. -/
def execVor (o : VFmt) (s : State) : Host.Outcome State Fault Refusal :=
  .next (s.lane2 o fun x y => x ||| y)

/-- VXOR. -/
def execVxor (o : VFmt) (s : State) : Host.Outcome State Fault Refusal :=
  .next (s.lane2 o fun x y => x ^^^ y)

/-- A shift by vb's lane, or by imm13 where aux bit 1 is set (R364). -/
def State.laneShift (s : State) (o : VFmt) (f : Lane → Nat → Lane) : State :=
  if o.aux.getLsbD 1 then
    s.vecPut o (vaSrc o) id [] fun pops _ s =>
      let x := s.vaLanes o pops
      let out := lanesFn fun i => f (vget x i 0) (o.imm.toNat % 64)
      { lanes := out, cut := 0, fl := 0 }
  else s.lane2 o fun x y => f x y.toNat

/-- VSHL: 0 for amounts of 32 and more. -/
def execVshl (o : VFmt) (s : State) : Host.Outcome State Fault Refusal :=
  .next (s.laneShift o fun x n => if 32 ≤ n then 0 else x <<< n)

/-- VSHR. -/
def execVshr (o : VFmt) (s : State) : Host.Outcome State Fault Refusal :=
  .next (s.laneShift o fun x n => if 32 ≤ n then 0 else x >>> n)

/-- VSRA: the sign in every bit for amounts of 32 and more. -/
def execVsra (o : VFmt) (s : State) : Host.Outcome State Fault Refusal :=
  .next (s.laneShift o fun x n => if 32 ≤ n then (if x.msb then BitVec.allOnes 32 else 0) else x.sshiftRight n)

end Sys2Proof.Machine
end

