-- ==== Sys2Proof/Machine/VecLane.lean ====
section
/-! DEFINITION. The vector group's moves, lane operations, reductions, masks, vector memory and random numbers
(16 R365-R373). -/

namespace Sys2Proof.Machine

/-! Moves and lane operations (R365). -/

/-- A lane operation whose lane i is lane at_ i of va, or 0. -/
def State.moveLanes (s : State) (o : VFmt) (srcs : List (Nat × BitVec 5)) (at_ : State → (Nat → Lanes) → Nat → Option Nat) : State :=
  s.vecPut o srcs allLanes [] fun pops _ s =>
    let x := s.vaLanes o pops
    let j := at_ s pops
    { lanes := lanesFn fun i => (j i).elim 0 fun k => vget x k 0
      cut := maskOf fun i => (j i).elim false fun k => (s.vaCut o).getLsbD k
      fl := 0 }

/-- VMOV. -/
def execVmov (o : VFmt) (s : State) : Host.Outcome State Fault Refusal :=
  .next (s.moveLanes o (vaSrc o) fun _ _ i => some i)

/-- VBCAST. -/
def execVbcast (o : VFmt) (s : State) : Host.Outcome State Fault Refusal :=
  .next (s.moveLanes o [(1, o.va)] fun _ _ _ => some (o.imm.toNat % 64))

/-- VEXT: lane k need not be active. -/
def execVext (o : VFmt) (s : State) : Host.Outcome State Fault Refusal :=
  .next (s.vecOp o [(1, o.va)] (fun _ => 1#64 <<< (o.imm.toNat % 64)) [] fun pops _ s =>
    let x := vget (s.vsrc pops o.va) (o.imm.toNat % 64) 0
    (s.setG o.vd (if o.typ == 8 then x.signExtend 64 else x.setWidth 64)).advance)

/-- VINS. -/
def execVins (o : VFmt) (s : State) : Host.Outcome State Fault Refusal :=
  .next (s.vecOp o [] id [] fun _ a s =>
    let m := (1#64 <<< (o.imm.toNat % 64)) &&& a
    (s.modMe fun x => x.writeV o.vd.toNat m (s.splat o.va)).advance)

/-- VPERM. -/
def execVperm (o : VFmt) (s : State) : Host.Outcome State Fault Refusal :=
  .next (s.moveLanes o [(1, o.va), (2, o.vb)] fun s pops i =>
    let j := (vget (s.vsrc pops o.vb) i 0).toNat
    if j < 64 then some j else none)

/-- VROT. -/
def execVrot (o : VFmt) (s : State) : Host.Outcome State Fault Refusal :=
  .next (s.moveLanes o [(1, o.va)] fun s _ i =>
    some ((i + (if o.aux.getLsbD 1 then (s.getG o.vb).toNat else o.imm.toNat) % 64) % 64))

/-- VIOTA. -/
def execViota (o : VFmt) (s : State) : Host.Outcome State Fault Refusal :=
  .next (s.vecPut o [] id [] fun _ _ s =>
    let base : Lane := if o.sa then (s.getG o.va).setWidth 32 else o.imm.signExtend 32
    let out := lanesFn fun i => base + BitVec.ofNat 32 i
    { lanes := out, cut := 0, fl := 0 })

/-! Reductions (R366-R368). -/

/-- Whether lane x ranks above lane y under typ; -0 below +0. -/
def above (typ : Nat) (x y : Lane) : Bool :=
  if typ == 8 then decide (y.toInt < x.toInt) else if typ == 9 then decide (y.toNat < x.toNat) else ltV true (laneVal y) (laneVal x)

/-- Whether a lane is a NaN under typ. -/
def nanAs (typ : Nat) (x : Lane) : Bool := typ == 0 && laneVal x == .nan

/-- The least value of typ (R366). -/
def leastOf (typ : Nat) : Lane := if typ == 8 then 0x80000000 else if typ == 9 then 0 else 0xFF800000

/-- A reduction of va's lanes: f has the lanes, those outside A and the cut ones at the identity. -/
def State.reduce (s : State) (o : VFmt) (ident : Lane) (f : State → List Lane → List Lane × Fl) : State :=
  s.vecPut o [(1, o.va)] id [] fun pops a s =>
    let x := s.vsrc pops o.va
    let live := a &&& ~~~(s.vcut o.va)
    let (r, fl) := f s ((List.range 64).map fun i => if live.getLsbD i then vget x i 0 else ident)
    let arr := r.toArray
    let out := lanesFn fun i => arr.getD i 0
    { lanes := out, cut := 0, fl := fl }

/-- The sum modulo 2^32 of lanes. -/
def sumInt (l : List Lane) : Lane := l.foldl (fun x y => x + y) 0

/-- VRSUM: the order is that of CTX.NBV. -/
def execVrsum (o : VFmt) (s : State) : Host.Outcome State Fault Refusal :=
  .next (s.reduce o 0 fun s l =>
    let (v, fl) := if o.typ == 0 then sumLanes s.hart.nbv o.rnd.toNat l else (sumInt l, 0)
    (List.replicate 64 v, fl))

/-- VRMAX. -/
def execVrmax (o : VFmt) (s : State) : Host.Outcome State Fault Refusal :=
  .next (s.reduce o (leastOf o.typ.toNat) fun _ l =>
    let nan := l.any (nanAs o.typ.toNat)
    let v := l.foldl (fun b x => if above o.typ.toNat x b then x else b) (leastOf o.typ.toNat)
    (List.replicate 64 (if nan then 0x7FC00000 else v), flIf nan flNan))

/-- The inclusive prefix sums of lanes after a sum, and their flags (R366). -/
def scanSums (typ rnd : Nat) : Lane → List Lane → List Lane × Fl
  | _, [] => ([], 0)
  | acc, x :: r =>
    let (v, f) := if typ == 0 then addLane acc x rnd else (acc + x, 0)
    let (l, g) := scanSums typ rnd v r
    (v :: l, f ||| g)

/-- A lane that a reduction hands on: a NaN becomes the canonical one (R232). -/
def canonLane (typ : Nat) (x : Lane) : Lane := if nanAs typ x then 0x7FC00000 else x

/-- VSCAN: lane 0 is the first lane of va, a NaN the canonical one, which sets nanseen (R232, R240, R366). -/
def execVscan (o : VFmt) (s : State) : Host.Outcome State Fault Refusal :=
  .next (s.reduce o 0 fun _ l =>
    let x := l.headD 0
    let (r, fl) := scanSums o.typ.toNat o.rnd.toNat x (l.drop 1)
    (canonLane o.typ.toNat x :: r, fl ||| flIf (nanAs o.typ.toNat x) flNan))

/-- The rank of lane i among candidates: those before it in the order of R368. -/
def rankOf (typ : Nat) (c : List (Nat × Lane)) (i : Nat) (x : Lane) : Nat :=
  (c.filter fun e =>
    if nanAs typ e.2 then !nanAs typ x || e.1 < i
    else !nanAs typ x && (above typ e.2 x || (!above typ x e.2 && e.1 < i))).length

/-- The candidates of A in the order of R368. -/
def ranked (typ : Nat) (a : Word) (x : Lanes) : Array (Nat × Lane) :=
  let c := ((List.range 64).filter fun i => a.getLsbD i).map fun i => (i, vget x i 0)
  let r := c.map fun e => (rankOf typ c e.1 e.2, e)
  ((List.range c.length).filterMap fun j => (r.find? fun e => e.1 == j).map (·.2)).toArray

/-- VRARG: a NaN ranks first (R367). -/
def execVrarg (o : VFmt) (s : State) : Host.Outcome State Fault Refusal :=
  .next (s.vecOp o [(1, o.va)] id [] fun pops a s =>
    let x := s.vsrc pops o.va
    let best := (ranked o.typ.toNat a x).getD 0 (0, 0)
    ((s.addFlags (flIf (nanAs o.typ.toNat best.2) flNan)).setG o.vd (w64 best.1)).advance)

/-- VTOPK: lanes 0 to k - 1 of vd and vd + 1 are written whatever A holds (R368). -/
def execVtopk (o : VFmt) (s : State) : Host.Outcome State Fault Refusal :=
  .next (s.vecOp o [(1, o.va)] id [] fun pops a s =>
    let typ := o.typ.toNat
    let r := ranked typ a (s.vsrc pops o.va)
    let k := o.imm.toNat % 128
    let m := maskOf fun i => i < k
    let vals := lanesFn fun i => let x := (r.getD i (64, leastOf typ)).2; canonLane typ x
    let nums := lanesFn fun i => BitVec.ofNat 32 (r.getD i (64, leastOf typ)).1
    ((s.addFlags (flIf (r.any fun e => nanAs typ e.2) flNan)).modMe fun x =>
      (x.writeV o.vd.toNat m vals).writeV (o.vd.toNat + 1) m nums).advance)

/-! Masks (R369). -/

/-- A mask instruction on ma and mb, once no link writes them: md in the lanes of A. -/
def State.maskOp (s : State) (o : VFmt) (srcs : List Nat) (f : State → Word) : State :=
  s.vecOp o [] id srcs fun _ a s => (s.modMe fun x => x.putMask o.vd.toNat a (f s)).advance

/-- MAND. -/
def execMand (o : VFmt) (s : State) : Host.Outcome State Fault Refusal :=
  .next (s.maskOp o [o.va.toNat, o.vb.toNat] fun s => s.me.mask o.va.toNat &&& s.me.mask o.vb.toNat)

/-- MOR. -/
def execMor (o : VFmt) (s : State) : Host.Outcome State Fault Refusal :=
  .next (s.maskOp o [o.va.toNat, o.vb.toNat] fun s => s.me.mask o.va.toNat ||| s.me.mask o.vb.toNat)

/-- MXOR. -/
def execMxor (o : VFmt) (s : State) : Host.Outcome State Fault Refusal :=
  .next (s.maskOp o [o.va.toNat, o.vb.toNat] fun s => s.me.mask o.va.toNat ^^^ s.me.mask o.vb.toNat)

/-- MNOT. -/
def execMnot (o : VFmt) (s : State) : Host.Outcome State Fault Refusal :=
  .next (s.maskOp o [o.va.toNat] fun s => ~~~(s.me.mask o.va.toNat))

/-- MPOP. -/
def execMpop (o : VFmt) (s : State) : Host.Outcome State Fault Refusal :=
  .next (s.vecOp o [] id [o.va.toNat] fun _ a s =>
    (s.setG o.vd (w64 (laneRank (s.me.mask o.va.toNat &&& a) 64))).advance)

/-- MFIRST. -/
def execMfirst (o : VFmt) (s : State) : Host.Outcome State Fault Refusal :=
  .next (s.vecOp o [] id [o.va.toNat] fun _ a s => (s.setG o.vd (w64 (lowest (s.me.mask o.va.toNat &&& a)))).advance)

/-- MSET: the lanes below n, or the bits of g[va]. -/
def execMset (o : VFmt) (s : State) : Host.Outcome State Fault Refusal :=
  .next (s.maskOp o [] fun s => if o.sa then s.getG o.va else maskOf fun i => i < o.imm.toNat % 128)

/-! Vector memory (R370-R372). -/

/-- What stops the element of a lane in the checks of R333. -/
inductive LaneStop where
  | priv
  | align
  | refuse
  | hold (die slot : Nat)
  | fault (level code : Nat)

/-- The checks of R333 on the element of a lane. -/
def State.laneCheck (s : State) (e n : Nat) (a : Acc) : Except LaneStop Place :=
  if e / 2 ^ 60 == 4 && !s.isSup then .error .priv
  else if e % n != 0 then .error .align
  else match s.check s.req e n a with
    | .ok p => .ok (.mem p)
    | .void => .ok .void
    | .remote m va => .ok (.remote m va)
    | .reg c d l => .ok (.reg c d l)
    | .hold d j => .error (.hold d j)
    | .refuse _ => .error .refuse
    | .fault level code => .error (.fault level code)

/-- The checks of the elements of lanes in ascending order: the places of those that pass before the first that fails, and that one. -/
def State.laneChecks (s : State) (ea : Nat → Nat) (n : Nat) (a : Acc) : List Nat → List (Nat × Place) × Option (Nat × LaneStop)
  | [] => ([], none)
  | i :: r =>
    match s.laneCheck (ea i) n a with
    | .error e => ([], some (i, e))
    | .ok p => let (l, f) := s.laneChecks ea n a r; ((i, p) :: l, f)

/-- The elements that have passed their checks are kept while the instruction waits (R371). -/
def State.keepChecked (s : State) (ps : List (Nat × Place)) : State := s.modMe fun x => { x with checked := ps }

/-- The state that the first lane to fail ends in, its operand named by loc; ps have passed (R276, R371). -/
def State.laneEnd (s : State) (loc e : Nat) (a : Acc) (ps : List (Nat × Place)) (f : LaneStop) : State :=
  match f with
  | .priv => s.priv
  | .align => s.trap 3 loc (w64 e)
  | .refuse => s.trap 4 loc (w64 e)
  | .hold d j => (s.keepChecked ps).waits (.arming d j)
  | .fault level code => (s.keepChecked ps).pageFault e a level code

/-- The numbers of the active lanes. -/
def activeList (a : Word) : List Nat := (List.range 64).filter fun i => a.getLsbD i

/-- What is asked of other modules for places: under tags from k on, n bytes each, data giving the bytes of a lane. -/
def State.laneReqs (s : State) (ps : List (Nat × Place)) (k n : Nat) (op : RemoteOp) (data : Nat → List Byte) : List Wish :=
  ps.filterMap fun e =>
    match e.2 with
    | .remote m va => some { tag := s.myTag (k + e.1), m := m, va := va, n := n, op := op, y := 0, data := data e.1 }
    | .mem _ => none
    | .void => none
    | .reg .. => none

/-- The lanes whose places are at other modules. -/
def farLanes (ps : List (Nat × Place)) : List Nat :=
  ps.filterMap fun e => match e.2 with | .remote .. => some e.1 | .mem _ => none | .void => none | .reg .. => none

/-- The accesses of places counted as performed. -/
def State.touchLanes (s : State) (ea : Nat → Nat) (a : Acc) (ps : List (Nat × Place)) : State :=
  ps.foldl (fun s e => match e.2 with | .mem p => s.touch s.req (ea e.1) a p | .void => s | .reg .. => s | .remote .. => s) s

/-- Requests of places answered: replies by lane; or a refusal, which traps ACCESS at the first lane that met it, or a wait. -/
def State.farWork (s : State) (loc : Nat) (ea : Nat → Nat) (ps : List (Nat × Place)) (k n : Nat) (op : RemoteOp) (data : Nat → List Byte)
    (f : List (Nat × RemoteReq) → State → State) : State :=
  match s.remoteAll s.myUnit (s.laneReqs ps k n op data) with
  | (s1, .error id) => s1.waits (.remote id)
  | (s1, .ok gs) =>
    let got := (farLanes ps).zip gs
    match got.find? fun e => !e.2.ok with
    | some e => s1.trap 4 loc (w64 (ea e.1))
    | none => f got s1

/-- The checks of the elements of the active lanes in ascending order, those at other modules made there by a request for no bytes; the
first lane that fails decides the outcome. Elements that passed while the instruction waited are not checked again (R333, R371). -/
def State.lanePlaces (s : State) (loc : Nat) (ea : Nat → Nat) (n : Nat) (a : Acc) (op : RemoteOp) (lanes : List Nat)
    (k : List (Nat × Place) → State → State) : State :=
  let known := s.me.checked
  let (new, stop) := s.laneChecks ea n a (lanes.filter fun i => !known.any fun e => e.1 == i)
  s.farWork loc ea new 128 0 op (fun _ => []) fun _ s =>
    match stop with
    | some (i, f) => s.laneEnd loc (ea i) a (known ++ new) f
    | none => if (farLanes new).isEmpty then k (known ++ new) s else k (known ++ new) (s.keepChecked (known ++ new))

/-- The lowest of a list of addresses. -/
def leastAddr (l : List Nat) : Option Nat := l.foldl (fun b x => match b with | none => some x | some y => some (min x y)) none

/-- The value of a lane's element in memory, an own store missed or not (R140). -/
def State.laneRead (s : State) (miss : Bool) (e n : Nat) (p : Phys) : Nat :=
  if miss && s.mayMiss e p n then s.missed e p n else s.rdFor s.req p n

/-- The executing context has seen its own stores to places, unless the read missed them. -/
def State.seeLanes (s : State) (n : Nat) (ps : List (Nat × Place)) : State :=
  if s.me.late.isEmpty then s
  else ps.foldl (fun s e => match e.2 with | .mem p => s.dropLate p n | .void => s | .reg .. => s | .remote .. => s) s

/-- Whether some place may be read without an own store; then a free value decides (R140). -/
def State.laneMiss (s : State) (ea : Nat → Nat) (n : Nat) (ps : List (Nat × Place)) : State × Bool :=
  if ps.any fun e => match e.2 with | .mem p => s.mayMiss (ea e.1) p n | .void => false | .reg .. => false | .remote .. => false then
    let (s1, w) := s.freeVal
    if w.getLsbD 0 then (s1, true) else (s1.seeLanes n ps, false)
  else (s, false)

/-- A vector load (R371, R372): the register's active lanes take the elements at ea. -/
def State.vload (s : State) (o : VFmt) (a : Word) (ea : Nat → Nat) : State :=
  let n := elemSize o.typ.toNat
  s.lanePlaces 0 ea n .read .read (activeList a) fun ps s =>
    s.farWork 0 ea ps 0 n .read (fun _ => []) fun got s =>
      let near := ps.filterMap fun e =>
        match e.2 with
        | .mem p => if s.poisonFor s.req p then some (ea e.1) else none
        | .void => none
        | .reg .. => none
        | .remote .. => none
      let far := got.filterMap fun e => e.2.pois.map fun off => ea e.1 + off
      match leastAddr (near ++ far) with
      | some x => s.trap 6 0 (w64 x)
      | none =>
        let (s, miss) := s.laneMiss ea n ps
        let codes := ps.map fun e => (e.1, match e.2 with
          | .mem p => s.laneRead miss (ea e.1) n p
          | .void => 0
          | .reg .. => 0
          | .remote .. => ((got.find? fun g => g.1 == e.1).map fun g => leVal g.2.data).getD 0)
        let lanes := lanesFn fun i => ((codes.find? fun c => c.1 == i).map fun c => widen o.typ.toNat c.2).getD 0
        ((s.touchLanes ea .read ps).modMe fun x => { x.writeV o.vd.toNat a lanes with checked := [] }).advance

/-- A lane converted for a store (R372). -/
def storeCode (o : VFmt) (x : Lane) : Nat × Fl :=
  if o.typ == 0 then (x.toNat, 0) else convert (laneAs o.typ.toNat x) o.typ.toNat o.rnd.toNat o.sat

/-- Whether n bytes of two places share one. -/
def meets (n : Nat) (p : Phys) : Place → Bool
  | .mem q => q.key < p.key + n && p.key < q.key + n
  | .void | .reg .. | .remote .. => false

/-- Writes of places in ascending lane order (R372): each may be performed before the context's earlier stores (R140), but not before
those of lower lanes. -/
def State.putPlaces (s : State) (ea : Nat → Nat) (n : Nat) (code : Nat → Nat) (ps : List (Nat × Place)) : State :=
  ps.foldl (fun s e => match e.2 with
    | .mem p => s.putOwn (ps.any fun f => f.1 < e.1 && meets n p f.2) (ea e.1) p (leOf n (code e.1))
    | .void => s
    | .reg .. => s
    | .remote .. => s) s

/-- A VST of 256 bytes clears the marks of the granules it covers whole (R289). -/
def State.clearWhole (s : State) (ea : Nat → Nat) (ps : List (Nat × Place)) : State :=
  ps.foldl (fun s e => match e.2 with
    | .mem p => if ea e.1 % 64 == 0 && e.1 ≤ 48 then s.mark (s.home p / 64) false else s
    | .void => s
    | .reg .. => s
    | .remote .. => s) s

/-- A vector store of vd's active lanes (R371, R372); whole tells a VST, whose 256 bytes may cover granules. -/
def State.vstore (s : State) (o : VFmt) (a : Word) (ea : Nat → Nat) (whole : Bool) : State :=
  let n := elemSize o.typ.toNat
  let x := s.vsrc (fun _ => .zero) o.vd
  let r := fun i => storeCode o (vget x i 0)
  s.lanePlaces 0 ea n .write .write (activeList a) fun ps s =>
    s.farWork 0 ea ps 0 n .write (fun i => leOf n (r i).1) fun _ s =>
      let narrow := o.typ != 0 && o.typ != 8 && o.typ != 9
      let fl := unionFl a (fun i => (r i).2) ||| flIf (narrow && (s.vcut o.vd &&& a) != 0) flCutread
      let s1 := (((((s.addFlags fl).touchLanes ea .write ps)).modMe fun x => { x with checked := [] }).advance).putPlaces ea n
        (fun i => (r i).1) ps
      if whole && n == 4 && a == BitVec.allOnes 64 then s1.clearWhole ea ps else s1

/-- g[va] + g[vb] + imm13 of VLD, VST, VLDS and VSTS (R370). -/
def State.vbase (s : State) (o : VFmt) : Word := s.getG o.va + s.getG o.vb + o.imm.signExtend 64

/-- The elements of VLD and VST (R370). -/
def State.unitEa (s : State) (o : VFmt) (i : Nat) : Nat := (s.vbase o + w64 (i * elemSize o.typ.toNat)).toNat
/-- The elements of VLDS and VSTS (R370). -/
def State.strideEa (s : State) (o : VFmt) (i : Nat) : Nat := (s.vbase o + w64 i * s.getG o.vc).toNat
/-- The elements of VGTH and VSCT (R370). -/
def State.indexEa (s : State) (o : VFmt) (i : Nat) : Nat :=
  (s.getG o.va + o.imm.signExtend 64 + (vget (s.readV o.vb.toNat) i 0).signExtend 64 * w64 (elemSize o.typ.toNat)).toNat

/-- VLD. -/
def execVld (o : VFmt) (s : State) : Host.Outcome State Fault Refusal :=
  .next (s.vecOp o [] id [] fun _ a s => s.vload o a (s.unitEa o))

/-- VST. -/
def execVst (o : VFmt) (s : State) : Host.Outcome State Fault Refusal :=
  .next (s.vecOp o [(4, o.vd)] id [] fun _ a s => s.vstore o a (s.unitEa o) true)

/-- VLDS. -/
def execVlds (o : VFmt) (s : State) : Host.Outcome State Fault Refusal :=
  .next (s.vecOp o [] id [] fun _ a s => s.vload o a (s.strideEa o))

/-- VSTS. -/
def execVsts (o : VFmt) (s : State) : Host.Outcome State Fault Refusal :=
  .next (s.vecOp o [(4, o.vd)] id [] fun _ a s => s.vstore o a (s.strideEa o) false)

/-- VGTH. -/
def execVgth (o : VFmt) (s : State) : Host.Outcome State Fault Refusal :=
  .next (s.vecOp o [(2, o.vb)] id [] fun _ a s => s.vload o a (s.indexEa o))

/-- VSCT: in ascending lane order. -/
def execVsct (o : VFmt) (s : State) : Host.Outcome State Fault Refusal :=
  .next (s.vecOp o [(4, o.vd), (2, o.vb)] id [] fun _ a s => s.vstore o a (s.indexEa o) false)

/-! Random numbers (R373). -/

/-- One round of Philox: the key and the counter of four lanes. -/
def philoxRound (k0 k1 : Lane) (c : Lane × Lane × Lane × Lane) : Lane × Lane × Lane × Lane :=
  let h := 0xD2511F53 * c.1.toNat
  let f := 0xCD9E8D57 * c.2.2.1.toNat
  (BitVec.ofNat 32 (f / 2 ^ 32) ^^^ c.2.1 ^^^ k0, BitVec.ofNat 32 f, BitVec.ofNat 32 (h / 2 ^ 32) ^^^ c.2.2.2 ^^^ k1, BitVec.ofNat 32 h)

/-- n rounds, the key stepped after each. -/
def philox : Nat → Lane → Lane → Lane × Lane × Lane × Lane → Lane × Lane × Lane × Lane
  | 0, _, _, c => c
  | n + 1, k0, k1, c => philox n (k0 + 0x9E3779B9) (k1 + 0xBB67AE85) (philoxRound k0 k1 c)

/-- Word w of four. -/
def pick4 (w : Nat) (c : Lane × Lane × Lane × Lane) : Lane :=
  match w with | 0 => c.1 | 1 => c.2.1 | 2 => c.2.2.1 | _ => c.2.2.2

/-- The low and high half of a word. -/
def halves (w : Word) : Lane × Lane := (w.setWidth 32, (w >>> 32).setWidth 32)

/-- VRNG. -/
def execVrng (o : VFmt) (s : State) : Host.Outcome State Fault Refusal :=
  .next (s.vecOp o [] id [] fun _ a s =>
    let key := halves (s.getG o.va)
    let hi := halves (s.getG (o.va + 1))
    let r := fun i =>
      let ctr := halves (s.getG o.vb + w64 i)
      let x := pick4 (o.imm.toNat % 4) (philox 10 key.1 key.2 (ctr.1, ctr.2, hi.1, hi.2))
      if o.typ == 9 then x
      else if x >>> 8 = 0 then 0 else ((Exact.num false (x >>> 8).toNat (-24) false).lane 0).1
    (s.modMe fun x => x.writeV o.vd.toNat a (lanesFn r)).advance)

end Sys2Proof.Machine
end

