-- ==== Sys2Proof/Machine/Ports.lean ====
section
/-! DEFINITION. Address-pattern engines and port bindings as instructions act on them (17 R390-R396; 09 R205-R215), and
their read-ahead (R209). -/

namespace Sys2Proof.Machine

/-- An instruction that names APE e: it waits while another context's capture holds it (R394), or its push is under way there (R152,
R392). -/
def State.apeOp (s : State) (o : CFmt) (k : Nat → State → State) : State :=
  s.masked o.gn o.gs fun _ s =>
    let e := o.imm.toNat % 16
    if s.myTile.taken s.cix e then s.waits (.capture e) else k e s

/-- An APE restarted by f: a withholding access is abandoned, what was read and not delivered is discarded, and the
stream may read again (R392, R393). -/
def State.restart (s : State) (e : Nat) (f : Ape → Ape) : State :=
  ((((s.unwithhold (apeUnit s.die s.tix e).u).rereads s.die s.tix e).modMyTile fun t => t.modApe e fun a => { f a with wh := false }).post 1
    .apeElement (.tileIdx { die := s.die, tile := s.tix, i := e })).advance

/-- The refusal of an APE state (R392). -/
def State.apeRefused (s : State) (e : Nat) : State := s.trap 7 0 (w64 (2 ^ 63 + e * 2 ^ 56))

/-- Words 0 to 5 for an APE, refused where they are malformed; else the APE stands at position 0, ended (R392). -/
def State.configure (s : State) (e : Nat) (f : Nat → Word) : State :=
  let new : Ape := { Ape.init with cfg := Vector.ofFn fun i => f i.val }
  if new.bad then s.apeRefused e
  else s.restart e fun a => { a with cfg := new.cfg, pos := 0, fin := true }

/-- n words of 8 bytes from ea on, the address of operand a, checked by R333 as reads (R276, R392): k takes them. -/
def State.readWords (s : State) (ea n : Nat) (k : List Word → State → State) : State :=
  let at_ := fun i => (w64 ea + w64 (8 * i)).toNat
  s.lanePlaces 1 at_ 8 .read .read (List.range n) fun ps s =>
    s.farWork 1 at_ ps 0 8 .read (fun _ => []) fun got s =>
      let near := ps.filterMap fun e =>
        match e.2 with
        | .mem p => if s.poisonFor s.req p then some (at_ e.1) else none
        | .void => none
        | .reg .. => none
        | .remote .. => none
      let far := got.filterMap fun e => e.2.pois.map fun off => at_ e.1 + off
      match leastAddr (near ++ far) with
      | some x => s.trap 6 1 (w64 x)
      | none =>
        k (ps.map fun e => match e.2 with
          | .mem p => w64 (s.rdFor s.req p 8)
          | .void => 0
          | .reg c d l => s.readCtl c d l
          | .remote .. => w64 (((got.find? fun g => g.1 == e.1).map fun g => leVal g.2.data).getD 0))
          ((s.touchLanes at_ .read ps).modMe fun x => { x with checked := [] })

/-- APCFG.m: the record at g[a] (R392); PRIV of its address comes before the guard (R295). -/
def execApcfgM (o : CFmt) (s : State) : Host.Outcome State Fault Refusal :=
  .next (if !s.onCore && !s.isSup && (s.getG o.a).toNat / 2 ^ 60 == 4 then s.priv else s.apeOp o fun e s =>
    let ea := (s.getG o.a).toNat
    if ea % 64 != 0 then s.trap 3 1 (w64 ea)
    else s.readWords ea 8 fun ws s => s.configure e fun i => ws.getD i 0)

/-- APCFG.r: words 2 to 5 are kept (R392). -/
def execApcfgR (o : CFmt) (s : State) : Host.Outcome State Fault Refusal :=
  .next (s.apeOp o fun e s => s.configure e fun i =>
    match i with | 0 => s.getG o.a | 1 => s.getG o.b | k => (s.myTile.ape e).w k)

/-- The VERSION trap of an instruction that reads the trigger plane (R91, R277). -/
def State.tverBad (s : State) : Option State :=
  if s.me.tver != s.myTile.tver then some (s.trap 8 0 (w64 (256 + s.myTile.tver % 16 * 16 + s.me.tver % 16))) else none

/-- APCFG.pre: preset n of the tile's trigger plane (R391, R392). -/
def execApcfgPre (o : CFmt) (s : State) : Host.Outcome State Fault Refusal :=
  .next (s.apeOp o fun e s =>
    match s.tverBad with
    | some t => t
    | none =>
      match s.myTile.presets[o.imm.toNat / 256 % 16]? with
      | none => s.apeRefused e
      | some p => s.configure e fun i => vget p i 0)

/-- APDIM (R393). -/
def execApdim (o : CFmt) (s : State) : Host.Outcome State Fault Refusal :=
  .next (s.apeOp o fun e s => s.configure e fun i =>
    if i == 2 + o.imm.toNat / 16 % 4 then s.getG o.a else (s.myTile.ape e).w i)

/-- APSTART (R393). -/
def execApstart (o : CFmt) (s : State) : Host.Outcome State Fault Refusal :=
  .next (s.apeOp o fun e s => s.restart e fun a => { a with pos := 0, fin := false })

/-- APSTOP: pos stays, and endp is not set (R393). -/
def execApstop (o : CFmt) (s : State) : Host.Outcome State Fault Refusal :=
  .next (s.apeOp o fun e s =>
    (s.modMyTile fun t => t.modApe e fun a => { a with fin := true, ahead := [] }).advance)

/-- APPOS: word 6 of the APE (R393). -/
def execAppos (o : CFmt) (s : State) : Host.Outcome State Fault Refusal :=
  .next (s.apeOp o fun e s =>
    ((s.setG o.d ((s.myTile.ape e).words.getD 6 0)).modMyTile fun t => t.modApe e fun a => { a with ahead := [] }).advance)

/-- APSEEK (R393). -/
def execApseek (o : CFmt) (s : State) : Host.Outcome State Fault Refusal :=
  .next (s.apeOp o fun e s =>
    let pos := bits (s.getG o.a) 47 0
    s.restart e fun a => { a with pos := pos, fin := a.len ≤ pos })

/-- Port N of an instruction's imm32. -/
def portN (o : CFmt) : Nat := o.imm.toNat / 2 ^ 16 % 8

/-- The executing context's port n bound. -/
def State.bindPort (s : State) (n : Nat) (b : PortBind) : State := (s.modMe fun x => { x with ports := vput x.ports n b }).advance

/-- Whether q6 or q7 is port n and holds a coach. -/
def State.holdsCoach (s : State) (n : Nat) : Bool := (n == 7 && s.me.q7.isSome) || (n == 6 && s.me.q6.isSome)

/-- QBIND: no APE state changes (R395). -/
def execQbind (o : CFmt) (s : State) : Host.Outcome State Fault Refusal :=
  .next (s.masked o.gn o.gs fun _ s =>
    let n := portN o
    if s.holdsCoach n then s.portTrap 0 n (s.portAt n)
    else s.bindPort n { PortBind.init with bnd := true, ape := o.imm.toNat % 16, ncol := o.imm.toNat / 256 % 256 })

/-- QBIND.k (R395). -/
def execQbindK (o : CFmt) (s : State) : Host.Outcome State Fault Refusal :=
  .next (s.masked o.gn o.gs fun _ s =>
    let n := portN o
    let typ := o.imm.toNat / 2 ^ 24 % 16
    let at_ := (s.getG o.a).toNat
    let unit := if typ == 5 || typ == 6 then blockSize typ else elemSize typ
    if !s.holdsCoach n || at_ % unit != 0 then s.portTrap 0 n (s.portAt n)
    else s.bindPort n { PortBind.init with bnd := true, kb := true, typ := typ, pos := elemsIn typ at_ })

/-- QBIND.u: a payload stays held (R395). -/
def execQbindU (o : CFmt) (s : State) : Host.Outcome State Fault Refusal :=
  .next (s.masked o.gn o.gs fun _ s => s.bindPort (portN o) .init)

/-- QSTAT (R396). -/
def execQstat (o : CFmt) (s : State) : Host.Outcome State Fault Refusal :=
  .next (s.masked o.gn o.gs fun _ s =>
    let n := portN o
    let b := s.port n
    let a := s.portApe n
    let v := if !b.bnd then 0
      else if b.kb then 2 ^ 63 + 2 ^ 62 + b.typ % 16 * 2 ^ 52 + b.pos % 2 ^ 48
      else 2 ^ 63 + b2n a.wh * 2 ^ 61 + b2n a.fin * 2 ^ 60 + b.ape % 16 * 2 ^ 56
        + b.ncol % 256 * 2 ^ 48 + a.pos % 2 ^ 48
    (s.setG o.d (w64 v)).advance)

/-! Read-ahead (R153, R209). -/

/-- APE_ELEMENT: a read stream reads its next element ahead of the pops, up to 256; an element that a fault strikes
stops it there (R209), a translation fault makes it withhold (R123). -/
def execApeElement (s : State) : Host.Outcome State Fault Refusal :=
  .next (match s.arg with
    | .tileIdx o =>
      let a := (s.tile o.die o.tile).ape o.i
      let runs := s.tileIssues o.die o.tile
      if !runs || a.bad || a.dir || a.fedBit || a.fin || a.wh || a.holder.isSome || 256 ≤ a.ahead.length
          || a.len ≤ a.pos + a.ahead.length then s
      else match s.nextElem o.die o.tile o.i (a.pos + a.ahead.length) with
        | (s1, .elem x) =>
          (s1.modTile o.die o.tile fun t => t.modApe o.i fun b => { b with ahead := b.ahead ++ [x] }).post 2 .apeElement s.arg
        | (s1, .withheld va lv c) =>
          (s1.modTile o.die o.tile fun t => t.modApe o.i fun b => { b with wh := true }).withhold
            (apeUnit o.die o.tile o.i).u va .read lv c (some (a.pos + a.ahead.length))
        | (s1, .wait _) => s1.post 100 .apeElement s.arg
        | (s1, .hold ..) => s1.post 100 .apeElement s.arg
        | (s1, _) => s1
    | _ => s)

end Sys2Proof.Machine
end

