-- ==== Sys2Proof/Machine/Copy.lean ====
section
/-! DEFINITION. The copy engine (09 R222-R224; 17 R397-R403; 07 R156, R157): commands at their issue, and a channel's
granules as it performs them, in ascending order (entry 13). -/

namespace Sys2Proof.Machine

/-! A command's range. -/

/-- Bytes of a page of CEPG. -/
def Chan.pageLen (c : Chan) : Nat := 4096 * 2 ^ bits c.p3 2 0
/-- CEPG's dir: the list names the destination pages. -/
def Chan.toList (c : Chan) : Bool := bit c.p3 3

/-- Bytes of a command (R397-R401, R417). -/
def Chan.total (c : Chan) : Nat :=
  match c.kind with
  | .cpy => c.p2.toNat
  | .twoD => bits c.p2 31 0 * bits c.p2 63 32
  | .fill => c.p2.toNat
  | .pages => c.p2.toNat * c.pageLen
  | .shard => 2 * c.p2.toNat * c.p3.toNat

/-- A signed 32-bit stride of CE2D. -/
def stride2D (w : Word) (hi : Bool) : Word := ((if hi then w >>> 32 else w).setWidth 32).signExtend 64

/-- Offset in a page of byte prog of SHCPY: K rows, then V rows (R130, R417). -/
def Chan.shardOff (c : Chan) : Nat :=
  let half := c.p2.toNat * c.p3.toNat
  if c.prog < half then c.prog else 128 * c.p3.toNat + (c.prog - half)

/-- Address of the destination byte at prog; page gives a list page's address. -/
def Chan.dstAt (c : Chan) (page : Nat → Nat) : Nat :=
  match c.kind with
  | .twoD =>
    let n := bits c.p2 31 0
    (c.dst + w64 (c.prog / n) * stride2D c.p3 true + w64 (c.prog % n)).toNat
  | .pages => if c.toList then page (c.prog / c.pageLen) + c.prog % c.pageLen else (c.dst + w64 c.prog).toNat
  | .shard => (c.dst + w64 c.shardOff).toNat
  | .cpy => (c.dst + w64 c.prog).toNat
  | .fill => (c.dst + w64 c.prog).toNat

/-- Bytes from prog to the end of its row, page or section. -/
def Chan.run (c : Chan) : Nat :=
  match c.kind with
  | .twoD => let n := bits c.p2 31 0; n - c.prog % n
  | .pages => if c.toList then c.pageLen - c.prog % c.pageLen else c.total - c.prog
  | .shard => let half := c.p2.toNat * c.p3.toNat; if c.prog < half then half - c.prog else c.total - c.prog
  | .cpy => c.total - c.prog
  | .fill => c.total - c.prog

/-- Bytes of the granule at prog (R222). -/
def Chan.granule (c : Chan) (page : Nat → Nat) : Nat := min (64 - c.dstAt page % 64) c.run

/-- A range of up to 64 bytes in parts within 64-byte blocks. -/
def parts (ea n : Nat) : List (Nat × Nat) :=
  let k := min n (64 - ea % 64)
  if n == 0 then [] else if k == n then [(ea, n)] else [(ea, k), ((w64 (ea + k)).toNat, n - k)]

/-- The source pieces of the n bytes at prog. -/
def Chan.srcPieces (c : Chan) (page : Nat → Nat) (n : Nat) : List (Nat × Nat) :=
  match c.kind with
  | .fill => []
  | .cpy => parts (c.src + w64 c.prog).toNat n
  | .shard => parts (c.src + w64 c.shardOff).toNat n
  | .twoD =>
    let k := bits c.p2 31 0
    parts (c.src + w64 (c.prog / k) * stride2D c.p3 false + w64 (c.prog % k)).toNat n
  | .pages =>
    if c.toList then parts (c.src + w64 c.prog).toNat n
    else
      let off := c.prog % c.pageLen
      let m := min n (c.pageLen - off)
      parts (page (c.prog / c.pageLen) + off) m ++ (if m == n then [] else parts (page (c.prog / c.pageLen + 1)) (n - m))

/-- The list pages that the n bytes at prog touch. -/
def Chan.pagesOf (c : Chan) (n : Nat) : List Nat :=
  match c.kind with
  | .pages =>
    let i := c.prog / c.pageLen
    if !c.toList && c.pageLen < c.prog % c.pageLen + n then [i, i + 1] else [i]
  | .cpy => []
  | .twoD => []
  | .fill => []
  | .shard => []

/-- The page address that a list word names (R401). -/
def Chan.pageAddr (c : Chan) (w : Word) : Nat := if bit c.p3 4 then entAddr w else w.toNat

/-- Whether a list word that the n bytes at prog go by was poisoned (R223, R401). -/
def Chan.listPoison (c : Chan) (n : Nat) : Bool := c.pages.any fun e => (c.pagesOf n).contains e.1 && e.2.2

/-! Reads of a channel. -/

/-- A channel as a unit. -/
def chanUnit (d t ch : Nat) : UnitAt := { kind := 2, u := { kind := .channel, die := d, tile := t, i := ch }, free := false }

/-- Reads one after another: the bytes and whether one met poison, or the address and what stopped them. -/
def State.readPieces (s : State) (x : UnitAt) (tag : Nat) : List (Nat × Nat) → State × Except (Nat × URes) (List Byte × Bool)
  | [] => (s, .ok ([], false))
  | (ea, n) :: r =>
    match s.unitRead x tag ea n with
    | (s1, .ok v p) =>
      (match s1.readPieces x (tag + 1) r with
       | (s2, .ok (bs, q)) => (s2, .ok (leOf n v ++ bs, p || q))
       | (s2, .error e) => (s2, .error e))
    | (s1, e) => (s1, .error (ea, e))

/-- The words of list pages read where the channel does not hold them yet, each with its poison (R223, R401). -/
def State.learnPages (s : State) (d t ch : Nat) : List Nat → State × Except (Nat × URes) Unit
  | [] => (s, .ok ())
  | i :: r =>
    let c := (s.tile d t).chan ch
    if c.pages.any fun e => e.1 == i then s.learnPages d t ch r
    else
      let list := if c.toList then c.dst else c.src
      match s.readPieces (chanUnit d t ch) (c.prog * 8) (parts (list + w64 (8 * i)).toNat 8) with
      | (s1, .error e) => (s1, .error e)
      | (s1, .ok (bs, p)) =>
        let w := w64 (leVal bs)
        if c.pageAddr w % 64 != 0 then (s1, .error (c.pageAddr w, .refuse 3))
        else (s1.modTile d t fun x => x.modChan ch fun c => { c with
          pages := (i, w, p) :: c.pages.filter fun e => i ≤ e.1 + 1 }).learnPages d t ch r

/-! Ends and faults of a command. -/

/-- A signal of a tile counts a completion post (R157). -/
def State.postSignal (s : State) (d t k : Nat) : State :=
  s.modTile d t fun x => { x with sigs := vput x.sigs k (vget x.sigs k 0 + 1) }

/-- A command ends: its post, where enabled, and the channel's state; a record that waited for it ends (R66). -/
def State.endCommand (s : State) (d t ch : Nat) (st : ChanState) (err : Nat) : State :=
  let c := (s.tile d t).chan ch
  let s1 := s.modTile d t fun x => x.modChan ch fun c => { c with state := st, err := err, pages := [] }
  (if c.pe then s1.postSignal d t c.sg else s1).settle d

/-- What stops a channel at address ea (R223): it pauses on a translation fault, waits for another module or an arming
tile, and enters state error on a refusal. -/
def State.chanStop (s : State) (d t ch ea : Nat) (a : Acc) (r : URes) : State :=
  let c := (s.tile d t).chan ch
  match r with
  | .fault lv code =>
    (s.modTile d t fun x => x.modChan ch fun c => { c with state := .paused }).withhold (chanUnit d t ch).u ea a lv code (some c.prog)
  | .refuse e => s.endCommand d t ch .error e
  | .hold .. => s.post 100 .ceGranule (.tileIdx { die := d, tile := t, i := ch })
  | .wait _ => s.post 100 .ceGranule (.tileIdx { die := d, tile := t, i := ch })
  | .ok .. => s

/-- The data of n bytes at prog: a pattern's bytes by their addresses (R400), or the source's. -/
def State.granuleData (s : State) (d t ch : Nat) (page : Nat → Nat) (n : Nat) : State × Except (Nat × URes) (List Byte × Bool) :=
  let c := (s.tile d t).chan ch
  match c.kind with
  | .fill =>
    let a := c.dstAt page
    (s, .ok ((List.range n).map fun i => BitVec.ofNat 8 (c.p3.toNat / 2 ^ (8 * ((a + i) % 8))), false))
  | .cpy => s.readPieces (chanUnit d t ch) (c.prog * 8 + 2) (c.srcPieces page n)
  | .twoD => s.readPieces (chanUnit d t ch) (c.prog * 8 + 2) (c.srcPieces page n)
  | .pages => s.readPieces (chanUnit d t ch) (c.prog * 8 + 2) (c.srcPieces page n)
  | .shard => s.readPieces { chanUnit d t ch with free := true } (c.prog * 8 + 2) (c.srcPieces page n)

/-- A granule of a command counted, at its offset at_, where it is poisoned (R223). -/
def State.countPoison (s : State) (d t ch at_ : Nat) (pois : Bool) : State :=
  if pois then s.modTile d t fun x => x.modChan ch fun c => { c with
    npois := stick (c.npois + 1) 0xFFFFFFFF, fpois := if c.npois == 0 then at_ else c.fpois }
  else s

/-- The granule at prog performed (R222, R223). -/
def State.doGranule (s : State) (d t ch : Nat) : State :=
  let c0 := (s.tile d t).chan ch
  match s.learnPages d t ch (c0.pagesOf 1) with
  | (s1, .error (ea, r)) => s1.chanStop d t ch ea .read r
  | (s1, .ok ()) =>
    let pageOf := fun (c : Chan) i => ((c.pages.find? fun e => e.1 == i).map fun e => c.pageAddr e.2.1).getD 0
    let n := c0.granule (pageOf ((s1.tile d t).chan ch))
    match s1.learnPages d t ch (c0.pagesOf n) with
    | (s2, .error (ea, r)) => s2.chanStop d t ch ea .read r
    | (s2, .ok ()) =>
      let c := (s2.tile d t).chan ch
      let page := pageOf c
      match s2.granuleData d t ch page n with
      | (s3, .error (ea, r)) => s3.chanStop d t ch ea .read r
      | (s3, .ok (bs, p)) =>
        let pois := p || c.listPoison n
        match s3.unitWrite (chanUnit d t ch) (c.prog * 8 + 7) (c.dstAt page) bs pois with
        | (s4, .ok ..) =>
          ((s4.modTile d t fun x => x.modChan ch fun c => { c with
            prog := c.prog + n }).countPoison d t ch c.prog pois).post 3 .ceGranule (.tileIdx { die := d, tile := t, i := ch })
        | (s4, r) => s4.chanStop d t ch (c.dstAt page) .write r

/-- CE_GRANULE: a running channel performs its next granule; after the last, CE_COMPLETE follows. -/
def execCeGranule (s : State) : Host.Outcome State Fault Refusal :=
  .next (match s.arg with
    | .tileIdx o =>
      let c := (s.tile o.die o.tile).chan o.i
      if c.state != .running then s
      else if c.total ≤ c.prog then s.post 1 .ceComplete s.arg
      else if s.sys.power.stopped then s.post 100 .ceGranule s.arg
      else s.doGranule o.die o.tile o.i
    | _ => s)

/-- The destination entry of SHCPY after its copy: fill n, spec 0, ref 1; pin, stuck, loc and addr stay (R417). The refcount of an entry
that is stuck by then does not change (R132). -/
def copiedEntry (e : Word) (n : Nat) : Word :=
  let e1 := setBits (setBits e 52 45 n) 44 37 0
  if bit e 62 then e1 else setBits e1 60 53 1

/-- CE_COMPLETE: SHCPY's entry is set, the channel is idle, and the command posts (R157, R417). -/
def execCeComplete (s : State) : Host.Outcome State Fault Refusal :=
  .next (match s.arg with
    | .tileIdx o =>
      let c := (s.tile o.die o.tile).chan o.i
      if c.state != .running || c.prog < c.total then s
      else if c.kind == .shard then
        let x := chanUnit o.die o.tile o.i
        match s.unitRead x (c.prog * 8) c.p4.toNat 8 with
        | (s1, .ok v p) =>
          (match s1.unitWrite x (c.prog * 8 + 1) c.p4.toNat (leOf 8 (copiedEntry (w64 v) c.p2.toNat).toNat) p with
           | (s2, .ok ..) => (s2.countPoison o.die o.tile o.i c.prog p).endCommand o.die o.tile o.i .idle 0
           | (s2, r) => s2.chanStop o.die o.tile o.i c.p4.toNat .rmw r)
        | (s1, r) => s1.chanStop o.die o.tile o.i c.p4.toNat .rmw r
      else s.endCommand o.die o.tile o.i .idle 0
    | _ => s)

/-! The instructions. -/

/-- The channel of an instruction. -/
def chanOf (o : CFmt) : Nat := o.imm.toNat / 2 ^ 24 % 4

/-- A command's start on a free channel (R397): f gives the command with its record words. -/
def State.startCommand (s : State) (o : CFmt) (c : Chan) : State :=
  let ch := chanOf o
  let old := s.myTile.chan ch
  if old.state == .running || old.state == .paused then s.waits (.channel ch)
  else if old.state == .error then s.trap 9 7 (w64 (ch + old.err % 256 * 256))
  else if 2 ^ 40 ≤ c.total then s.trap 9 7 (w64 (ch + 3 * 256))
  else
    ((s.modMyTile fun t => t.modChan ch fun _ => { c with
      sg := o.imm.toNat / 2 ^ 29 % 8, pe := o.imm.getLsbD 28, scope := o.imm.toNat / 2 ^ 26 % 4, state := .running, inv := s.me.inv
      slot := (s.regionAt s.die s.tix).getD 0 }).forget
      (chanUnit s.die s.tix ch).u).advance.post 10 .ceGranule (.tileIdx { die := s.die, tile := s.tix, i := ch })

/-- CECPY (R398). -/
def execCecpy (o : CFmt) (s : State) : Host.Outcome State Fault Refusal :=
  .next (s.guardedCtx o.gn o.gs fun s =>
    s.startCommand o { Chan.init with kind := .cpy, src := s.getG o.a, dst := s.getG o.d, p2 := s.getG o.b })

/-- CE2D (R399). -/
def execCe2d (o : CFmt) (s : State) : Host.Outcome State Fault Refusal :=
  .next (s.guardedCtx o.gn o.gs fun s =>
    s.startCommand o { Chan.init with kind := .twoD, src := s.getG o.a, dst := s.getG o.d, p2 := s.getG o.b, p3 := s.getG o.c })

/-- CEFILL (R400). -/
def execCefill (o : CFmt) (s : State) : Host.Outcome State Fault Refusal :=
  .next (s.guardedCtx o.gn o.gs fun s =>
    s.startCommand o { Chan.init with kind := .fill, dst := s.getG o.d, p2 := s.getG o.b, p3 := s.getG o.a })

/-- CEPG (R401). -/
def execCepg (o : CFmt) (s : State) : Host.Outcome State Fault Refusal :=
  .next (s.guardedCtx o.gn o.gs fun s =>
    s.startCommand o { Chan.init with
      kind := .pages, src := s.getG o.a, dst := s.getG o.d, p2 := s.getG o.b, p3 := w64 (o.imm.toNat % 32) })

/-- CESTAT (R402). -/
def execCestat (o : CFmt) (s : State) : Host.Outcome State Fault Refusal :=
  .next (s.guardedCtx o.gn o.gs fun s =>
    let ch := chanOf o
    let c := s.myTile.chan ch
    let s1 := s.setG o.d (match o.imm.toNat % 4 with | 0 => c.word5 | 1 => c.word6 | _ => w64 (c.fpois % 2 ^ 40))
    (if o.imm.getLsbD 2 && (c.state == .error || c.state == .idle) then
      s1.modMyTile fun t => t.modChan ch fun c => { c with state := .idle, prog := 0, npois := 0, err := 0, fpois := 0 }
    else s1).advance)

/-- CEABT: the command stops at a granule boundary and posts nothing (R403). -/
def execCeabt (o : CFmt) (s : State) : Host.Outcome State Fault Refusal :=
  .next (s.guardedCtx o.gn o.gs fun s =>
    let ch := chanOf o
    let u := (chanUnit s.die s.tix ch).u
    ((((s.unwithhold u).forget u).modMyTile fun t => t.modChan ch fun c => { c with state := .idle, pages := [] }).advance).settle s.die)

end Sys2Proof.Machine
end

