-- ==== Sys2Proof/Machine/Matrix.lean ====
section
/-! DEFINITION. The matrix group (09 R217-R220; 17 R375-R389). An instruction is checked and its captures are taken at its issue; its
place in the queue holds its operands, and the unit performs it at MATRIX_COMPLETE (R156, R376; entry 11). -/

namespace Sys2Proof.Machine

/-! Operand elements (R218, R219, R377-R381). -/

/-- An element of an operand: its logical index along K (R380), its exact value, whether forming it was invalid, and its
poison. -/
structure MElem where
  k : Nat
  v : FNum
  inv : Bool
  pois : Bool
  deriving DecidableEq, Repr

/-- An element that is +0 (R381). -/
def MElem.none (k : Nat) : MElem := { k := k, v := .zero false, inv := false, pois := false }

/-- Width in bits of a format (R377). -/
def opWidth (typ : Nat) : Nat := match typ with | 1 => 16 | 2 => 16 | 5 => 4 | _ => 8

/-- Whether a format has scales. -/
def isBlock (typ : Nat) : Bool := typ == 5 || typ == 6

/-- The exact value of a stored element (R219, R234-R236). -/
def elemVal (typ code sub : Nat) (scale : Lane) : FNum × Bool :=
  if typ == 5 then blockVal (cq4Val (code % 16)) sub scale
  else if typ == 6 then blockVal (e4m3.val code) 1 scale
  else if typ == 7 then (laneAs 7 (widen 7 code), false)
  else ((fmtOf typ).val code, false)

/-- An operand: whether it is A, the register or port field, whether it is a port, its direction and format, its lines
(rows of A, columns of B) and its elements along K as stored. -/
structure Operand where
  isA : Bool
  f : BitVec 5
  q : Bool
  dir : Bool
  typ : Nat
  lines : Nat
  kn : Nat
  deriving DecidableEq, Repr

/-- The field of an operand in traps (R276): 1 for A, 2 for B. -/
def Operand.loc (o : Operand) : Nat := if o.isA then 1 else 2

/-- Whether K runs along a scratch line (R379). -/
def Operand.along (o : Operand) : Bool := if o.isA then !o.dir else o.dir

/-- Byte of element e of line i in scratch (R218, R379). -/
def Operand.byteOf (o : Operand) (i e : Nat) : Nat :=
  let w := opWidth o.typ
  let b := e * w / 8
  if o.along then (if o.isA then 16384 * (b / 256) + 256 * i + b % 256 else 256 * i + b) else 256 * e + i * w / 8

/-- N of a sparse operation (R380). -/
def spN (sp : Nat) : Nat := match sp with | 1 => 6 | 2 => 8 | _ => 12

/-- The elements of 32 bytes (R377). -/
def chunkLen (o : MFmt) : Nat := 256 / opWidth o.fmtA.toNat

/-- Stored elements along K of B: kc x n. -/
def storedK (o : MFmt) : Nat := o.kc.toNat * chunkLen o

/-- Groups of a sparse column (R380). -/
def spGroups (o : MFmt) : Nat := storedK o / spN o.sp.toNat

/-- Operand A: under sparsity it has 24 x G elements (R377). -/
def opA (o : MFmt) : Operand :=
  { isA := true, f := o.sa, q := o.qa, dir := o.dirA, typ := o.fmtA.toNat, lines := o.rows.toNat,
    kn := if o.sp = 0 then storedK o else 24 * spGroups o }

/-- Operand B. -/
def opB (o : MFmt) : Operand :=
  { isA := false, f := o.sb, q := o.qb, dir := o.dirB, typ := o.fmtB.toNat, lines := 128, kn := storedK o }

/-! Scratch operands. -/

/-- An address an operand takes in scratch: address, alignment, bytes to the end, field. -/
structure ScratchUse where
  x : Word
  align : Nat
  len : Nat
  loc : Nat
  deriving DecidableEq, Repr

/-- What an operand takes in scratch (R378, R379). -/
def State.usesOf (s : State) (o : Operand) : List ScratchUse :=
  if o.q then []
  else
    { x := s.getG o.f, align := 256, len := o.byteOf (o.lines - 1) (o.kn - 1) + ceilDiv (opWidth o.typ) 8, loc := o.loc } ::
      (if isBlock o.typ then
        [{ x := s.getG (o.f + 1), align := 16, len := 16 * (o.lines - 1) + 8 * ceilDiv o.kn 256, loc := o.loc }] else [])

/-- The mask plane of a sparse B (R380). -/
def State.maskUse (s : State) (o : MFmt) : List ScratchUse :=
  if o.sp = 0 then [] else [{ x := s.getG (o.sb + 1), align := 4, len := 4 * 128 * spGroups o, loc := 2 }]

/-- Whether a scratch use is refused (R378). -/
def State.scratchRefused (s : State) (u : ScratchUse) : Bool :=
  let x := u.x.toNat
  x / 2 ^ 60 != 2 || x / 2 ^ 28 % 2 ^ 32 != 0 || x / 2 ^ 19 % 2 == 1
    || (x / 2 ^ 20 % 256 != 255 && x / 2 ^ 20 % 256 != s.tix) || 2 ^ 19 < x % 2 ^ 19 + u.len

/-- The trap of a list of scratch uses: ALIGN before ACCESS, fields in order (R275, R378). -/
def State.scratchTrap (s : State) (us : List ScratchUse) : Option State :=
  match us.find? fun u => u.x.toNat % 2 ^ 19 % u.align != 0 with
  | some u => some (s.trap 3 u.loc u.x)
  | none => (us.find? s.scratchRefused).map fun u => s.trap 4 u.loc u.x

/-- n bytes of a tile's scratch as its matrix unit reads them, and whether it meets their poison (R288, R453). Bytes of own stand as
they were before a later store of the issuing context (R136, R378). -/
def State.scratchAt (s : State) (own : List (Nat × Byte × Bool)) (d t off n : Nat) : Nat × Bool :=
  let q := s.unitReq 1 d t
  let p : Phys := { key := scratchKey d t off, mt := 3 }
  let kept := fun i => own.find? fun o => o.1 == p.key + i
  if (List.range n).all fun i => (kept i).isNone then (s.rdFor q p n, s.poisonFor q p)
  else
    let bs := (leOf n (s.rd p n)).zipIdx.map fun b => ((kept b.2).map (·.2.1)).getD b.1
    (leVal (if bypasses q p then s.raw p.key bs else bs),
      (List.range n).any fun i => ((kept i).map fun o => o.2.2 && !bypasses q p).getD (s.poisonFor q p))

/-- Element e of line i of a scratch operand. -/
def State.scratchElem (s : State) (own : List (Nat × Byte × Bool)) (d t : Nat) (m : MatIn) (o : Operand) (i e : Nat) : MElem :=
  let x := m.x.toNat % 2 ^ 19
  let w := opWidth o.typ
  let (raw, p) := s.scratchAt own d t (x + o.byteOf i e) (ceilDiv w 8)
  let code := if w == 4 then (if (if o.along then e else i) % 2 == 0 then raw % 16 else raw / 16) else raw
  if isBlock o.typ then
    let y := m.y.toNat % 2 ^ 19 + 16 * i + 8 * (e / 256)
    let (ent, p2) := s.scratchAt own d t y 8
    let sub := ent / 2 ^ (8 * (e % 256 / 64)) % 256
    let scale : Lane := BitVec.ofNat 32 (if o.typ == 5 then ent / 2 ^ 32 else ent)
    let (v, inv) := elemVal o.typ code sub scale
    { k := e, v := v, inv := inv, pois := p || p2 }
  else
    let (v, inv) := elemVal o.typ code 0 0
    { k := e, v := v, inv := inv, pois := p }

/-- The lines of a scratch operand. -/
def State.scratchLines (s : State) (own : List (Nat × Byte × Bool)) (d t : Nat) (m : MatIn) (o : Operand) : List (List MElem) :=
  (List.range o.lines).map fun i => (List.range o.kn).map fun e => s.scratchElem own d t m o i e

/-! Captures (R381). -/

/-- Columns of a port: 0 stands for 128 (R395). -/
def State.columns (s : State) (p : Nat) : Nat := let n := (s.port p).ncol; if n == 0 || 128 < n then 128 else n

/-- The length of a line along K in a stream. -/
def Operand.span (o : Operand) : Nat := if isBlock o.typ then 256 * ceilDiv o.kn 256 else o.kn

/-- The elements a capture takes; c is the port's column count. -/
def Operand.count (o : Operand) (c : Nat) : Nat :=
  if o.isA then o.lines * o.span else c * o.span

/-- Stream offset of element e of line i. -/
def Operand.offset (o : Operand) (c i e : Nat) : Nat :=
  if o.along then i * o.span + e else e * (if o.isA then o.lines else c) + i

/-- Why a capture's port traps PORT: its position (R381, R391). -/
def State.captureBad (s : State) (o : Operand) : Option (Nat × Nat × Nat) :=
  if !o.q then none
  else
    let p := o.f.toNat - 24
    let b := s.port p
    let a := s.portApe p
    let bad := (s.popBad p).isSome || (b.kb && p != 7) || (if b.kb then b.typ != o.typ else a.fedBit || a.typ != o.typ)
    if bad then some (o.loc, p, if b.bnd && !b.kb && a.bad then 0 else s.portAt p) else none

/-- The APE a capture holds. -/
def State.captureApe (s : State) (o : Operand) : Option Nat :=
  if o.q && !(s.port (o.f.toNat - 24)).kb then some (s.port (o.f.toNat - 24)).ape else none

/-- The executing context holds an APE that no other holds, or holds it no longer. -/
def State.hold (s : State) (e : Option Nat) (on : Bool) : State :=
  match e with
  | none => s
  | some e => s.modMyTile fun t => t.modApe e fun a =>
    if a.holder.getD s.cix != s.cix then a else if on then { a with holder := some s.cix } else a.letGo

/-- The elements of a captured operand, skip positions past the stream's; or the state the capture ends or waits in. -/
def State.capture (s : State) (o : Operand) (skip : Nat) : Except State (State × List Elem) :=
  let p := o.f.toNat - 24
  let b := s.port p
  let n := o.count (s.columns p)
  if !o.q then .ok (s, [])
  else if b.kb then .ok (s, ((s.portCoach p).map fun c => b.elems c n).getD [])
  else
    let d := s.die
    let t := s.tix
    let a := s.portApe p
    let (s0, els, g) := if a.fin then (s, [], some Got.stop) else State.gather d t b.ape n (a.pos + skip) (a.held.drop skip) s
    let s1 := s0.stash d t b.ape skip els
    match g with
    | some (.fault pos) => .error (s1.portTrap o.loc p pos)
    | some (.withheld va lv c) =>
      .error ((((s1.hold (some b.ape) true).modTile d t fun x => x.modApe b.ape fun a => { a with wh := true }).withhold
        (apeUnit d t b.ape).u va .read lv c (some (a.pos + skip + els.length))).waits (.ape b.ape))
    | some (.hold e i) => .error ((s1.hold (some b.ape) true).waits (.arming e i))
    | some (.wait id) => .error ((s1.hold (some b.ape) true).waits (.remote id))
    | some .dry => .error (s1.waits (.ape b.ape))
    | _ => .ok (s1, els)

/-- A capture's elements taken from their stream as the instruction leaves the context (R381). -/
def State.takeCapture (s : State) (o : Operand) (n : Nat) : State :=
  if !o.q then s
  else
    let p := o.f.toNat - 24
    let b := s.port p
    if b.kb then s.modMe fun x => { x with ports := vput x.ports p { b with pos := b.pos + n, fin := b.fin || n < o.count (s.columns p) } }
    else
      let s1 := s.modMyTile fun t => t.modApe b.ape fun a => { a.taken n with holder := none }
      if n < o.count (s.columns p) then (if (s1.portApe p).fin then s1 else s1.endOf s.die s.tix b.ape)
      else s1.post 1 .apeElement (.tileIdx { die := s.die, tile := s.tix, i := b.ape })

/-- The lines of a captured operand; what the stream did not supply, and columns from C on, are +0. -/
def Operand.linesOf (o : Operand) (c : Nat) (els : Array Elem) : List (List MElem) :=
  (List.range o.lines).map fun i => (List.range o.kn).map fun e =>
    if !o.isA && c ≤ i then MElem.none e
    else match els[o.offset c i e]? with
      | none => MElem.none e
      | some x => let (v, inv) := elemVal o.typ x.code x.sub x.scale; { k := e, v := v, inv := inv, pois := x.pois }

/-- The lines of an operand. -/
def State.operandLines (s : State) (own : List (Nat × Byte × Bool)) (d t : Nat) (m : MatIn) (o : Operand) : List (List MElem) :=
  if o.q then o.linesOf m.cols m.els.toArray else s.scratchLines own d t m o

/-- An operand at its issue; els are its captured elements. -/
def State.matIn (s : State) (o : Operand) (els : List Elem) : MatIn :=
  { x := s.getG o.f, y := s.getG (o.f + 1), els := els, cols := if o.q then s.columns (o.f.toNat - 24) else 0 }

/-! Sparse columns (R380). -/

/-- Position of the j-th lowest set bit of a mask. -/
def nthBit (m j : Nat) : Nat := (((List.range 24).filter fun q => m / 2 ^ q % 2 == 1)[j]?).getD 0

/-- A column of a sparse B with each element at its logical index, or none where a group's mask is wrong. -/
def State.sparseColumn (s : State) (own : List (Nat × Byte × Bool)) (d t : Nat) (y : Word) (o : MFmt) (c : Nat) (col : List MElem) : Option (List MElem) :=
  let g := spGroups o
  let n := spN o.sp.toNat
  let base := y.toNat % 2 ^ 19
  let masks := ((List.range g).map fun i => s.scratchAt own d t (base + 4 * (c * g + i)) 4).toArray
  if masks.any fun m => 2 ^ 24 ≤ m.1 || ((List.range 24).filter fun q => m.1 / 2 ^ q % 2 == 1).length != n then none
  else some (col.map fun x =>
    let m := masks.getD (x.k / n) (0, false)
    { x with k := 24 * (x.k / n) + nthBit m.1 (x.k % n), pois := x.pois || m.2 })

/-- The columns of B. -/
def State.columnsOf (s : State) (own : List (Nat × Byte × Bool)) (d t : Nat) (y : Word) (o : MFmt) (ls : List (List MElem)) : List (Option (List MElem)) :=
  if o.sp = 0 then ls.map some else ls.zipIdx.map fun e => s.sparseColumn own d t y o e.2 e.1

/-! Accumulation (R219, R220). -/

/-- A sum under way: a NaN, whether invalid occurred, infinities by sign, and the finite part. -/
structure Partial where
  nan : Bool
  inv : Bool
  pos : Bool
  neg : Bool
  fin : Dy
  deriving DecidableEq, Repr

/-- A term added. -/
def Partial.term (s : Partial) (x y : MElem) : Partial :=
  if x.v == .nan || y.v == .nan then { s with nan := true, inv := s.inv || x.inv || y.inv }
  else match mulV x.v y.v with
    | (_, true) => { s with nan := true, inv := true }
    | (.inf false, _) => { s with pos := true }
    | (.inf true, _) => { s with neg := true }
    | (.num g m e, _) => { s with fin := s.fin.add { m := sgn g m, e := e } }
    | _ => s

/-- One chunk's sum over pairs of elements. -/
def chunkSum (ps : List (MElem × MElem)) : Partial :=
  ps.foldl (fun s p => s.term p.1 p.2) { nan := false, inv := false, pos := false, neg := false, fin := Dy.int 0 }

/-- An accumulator element after a chunk (R219). -/
def addChunk (cell : Lane) (s : Partial) : Lane × Fl :=
  if s.nan || (s.pos && s.neg) then (0x7FC00000, flNan ||| flIf (s.inv || (s.pos && s.neg)) flInvalid)
  else if s.pos || s.neg then (addE (laneVal cell) (.inf s.neg) 0).lane 0
  else if s.fin.m = 0 then (cell, 0)
  else (addE (laneVal cell) (.num (s.fin.m < 0) s.fin.m.natAbs s.fin.e) 0).lane 0

/-- An accumulator element after kc chunks of n pairs. -/
def addChunks (n : Nat) : Nat → List (MElem × MElem) → Lane → Lane × Fl
  | 0, _, cell => (cell, 0)
  | k + 1, ps, cell =>
    let (c1, f1) := addChunk cell (chunkSum (ps.take n))
    let (c2, f2) := addChunks n k (ps.drop n) c1
    (c2, f1 ||| f2)

/-- An element of the accumulator after the instruction, its flags, and whether it summed a poisoned term. -/
def mmaCell (n kc : Nat) (row : Array MElem) (col : Option (List MElem)) (cell : Lane) : Lane × Fl × Bool :=
  match col with
  | none => (0x7FC00000, flInvalid ||| flNan, false)
  | some ys =>
    let ps := ys.map fun y => (row.getD y.k (MElem.none y.k), y)
    let (v, f) := addChunks n kc ps cell
    (v, f, ps.any fun p => p.1.pois || p.2.pois)

/-- A row after the instruction, and its flags (R219, R288, R382). -/
def mmaRow (n kc : Nat) (row : List MElem) (cols : Array (Option (List MElem))) (r : AccRow) : AccRow × Fl :=
  let a := row.toArray
  let out := ((List.range 128).map fun c => mmaCell n kc a (cols.getD c none) (vget r.cells c 0)).toArray
  let at_ := fun c => out.getD c (0, 0, false)
  ({ cells := Vector.ofFn fun c => (at_ c.val).1
     pois := r.pois ||| BitVec.ofNat 8 ((List.range 8).foldl (fun x g =>
       x + b2n ((List.range 16).any fun j => (at_ (16 * g + j)).2.2) * 2 ^ g) 0) },
   (List.range 128).foldl (fun f c => f ||| (at_ c).2.1) 0)

/-! The queue (R376). -/

/-- An operand that an instruction does not have. -/
def MatIn.none : MatIn := { x := 0, y := 0, els := [], cols := 0 }

/-- The executing instruction as a place of the queue, for the lanes of a mask. -/
def State.matOp (s : State) (o : MFmt) (k : MatKind) (a : Word) : MatOp :=
  { word := s.ir, c := s.cix, inv := s.me.inv, o := o, kind := k, mask := a, rnd := s.hart.rnd, a := .none, b := .none, f := .zero
    push := none, own := [] }

/-- The executing instruction takes its place in the queue. -/
def State.enqueue (s : State) (m : MatOp) : State :=
  ((s.modMyTile fun t => { t with mq := t.mq ++ [m] }).post 200 .matrixComplete (.tileRef { die := s.die, tile := s.tix })).advance

/-- A matrix instruction that enters the queue: it waits for room (R376). -/
def State.matrixOp (s : State) (o : MFmt) (k : Word → State → State) : State :=
  s.masked o.gn o.gs fun a s => if 8 ≤ s.myTile.mq.length then s.waits (.matrix 8) else k a s

/-- The captures of an instruction that traps let go of their APEs (R381). -/
def State.letGo (t : State) (es : List (Option Nat)) : State :=
  if t.hart.wait.issued then t else es.foldl (fun t e => t.hold e false) t

/-- The captures of MMA and MMAS: their elements, taken from the streams, or the state that they end or wait in (R381). -/
def State.captures (s : State) (a b : Operand) : Except State (State × MatIn × MatIn) :=
  let es := [s.captureApe a, s.captureApe b]
  match [a, b].findSome? s.captureBad with
  | some (loc, p, pos) => .error ((s.portTrap loc p pos).letGo es)
  | none =>
    match [a, b].findSome? fun x => (s.captureApe x).bind fun e => s.apeBusy e (x.count (s.columns (x.f.toNat - 24))) with
    | some w => .error ((match w with | .ape e => s.hold (some e) true | _ => s).waits w)
    | none =>
      match s.capture a 0 with
      | .error t => .error (t.letGo es)
      | .ok (s1, ea) =>
        match (s1.hold (s1.captureApe a) true).capture b (if s1.captureApe a == s1.captureApe b then ea.length else 0) with
        | .error t => .error (t.letGo es)
        | .ok (s2, eb) => .ok ((s2.takeCapture a ea.length).takeCapture b eb.length, s2.matIn a ea, s2.matIn b eb)

/-- MMA and MMAS: checks and captures, then a place in the queue (R378, R381, R382). set clears the rows first. -/
def State.multiply (s : State) (o : MFmt) (set : Bool) : State :=
  s.matrixOp o fun m s =>
    let a := opA o
    let b := opB o
    match s.scratchTrap (s.usesOf a ++ s.usesOf b ++ s.maskUse o) with
    | some t => t.letGo [s.captureApe a, s.captureApe b]
    | none =>
      match s.captures a b with
      | .error t => t
      | .ok (s1, x, y) => s1.enqueue { s.matOp o (.mma set) m with a := x, b := y }

/-! The instructions. -/

/-- The rows a rows guard takes (R375). -/
def takenRows (o : MFmt) (a : Word) : List Nat := (List.range o.rows.toNat).filter fun r => a.getLsbD r

/-- MZERO (R383). -/
def execMzero (o : MFmt) (s : State) : Host.Outcome State Fault Refusal :=
  .next (s.matrixOp o fun a s => s.enqueue (s.matOp o .zero a))

/-- MMA (R382). -/
def execMma (o : MFmt) (s : State) : Host.Outcome State Fault Refusal :=
  .next (s.multiply o false)

/-- MMAS (R382). -/
def execMmas (o : MFmt) (s : State) : Host.Outcome State Fault Refusal :=
  .next (s.multiply o true)

/-- MRD: a chain instruction on an accumulator row, after the queued instructions on the accumulator (R269, R384). -/
def execMrd (o : MFmt) (s : State) : Host.Outcome State Fault Refusal :=
  .next (s.masked o.gn o.gs fun a s =>
    if 16 ≤ s.me.links.length then (s.modHart fun h => { h with stall := stick (h.stall + 1) 0xFFFF }).waits (.links 16)
    else if s.myTile.mq.any fun m => m.on o.acc.toNat then s.waits (.acc o.acc.toNat)
    else
      let r := (s.getG o.sb).toNat % 64
      let h := b2n o.dirA
      let row := s.myTile.accRow o.acc.toNat r
      if (List.range 4).any fun g => row.pois.getLsbD (4 * h + g) then s.trap 6 6 (w64 (o.acc.toNat * 256 + r))
      else
        (s.link { word := s.ir, dst := o.sa.toNat, two := false, nbv := s.hart.nbv, rnd := 0, active := a, opn := a, opn2 := 0
                  vals := lanesFn fun i => vget row.cells (64 * h + i) 0, vals2 := .zero, fl := .zero, cuts := 0
                  push := none }).advance)

/-- The lanes of half a row that carry a mark (R288). -/
def rowMarks (row : AccRow) (h : Nat) : Word := maskOf fun i => row.pois.getLsbD (4 * h + i / 16)

/-- The elements of one row's two pushes, row j of the instruction (R385). -/
def rowElems (typ rnd : Nat) (a : Word) (j : Nat) (row : AccRow) : List PushElem :=
  [0, 1].flatMap fun h =>
    pushElems typ rnd (128 * j + 64 * h) a false (lanesFn fun i => vget row.cells (64 * h + i) 0) (rowMarks row h)

/-- The elements that the lanes of a mask push from n rows, row j of the instruction by row j (R385). -/
def rowsElems (typ rnd : Nat) (a : Word) (n : Nat) (row : Nat → AccRow) : List PushElem :=
  (List.range n).flatMap fun j => rowElems typ rnd a j (row j)

/-- MRDQ: its positions are reserved at issue, where what they meet is checked, and its rows are pushed when the unit performs it
(R376, R385). -/
def execMrdq (o : MFmt) (s : State) : Host.Outcome State Fault Refusal :=
  .next (s.matrixOp o fun a s =>
    let p := o.sa.toNat - 24
    match s.pushBad p with
    | some pos => s.portTrap 1 p pos
    | none =>
      match s.pushBusy 64 2 p with
      | some w => s.waits w
      | none =>
        let b := s.port p
        let ape := s.portApe p
        let typ := s.portType p
        let m := { s.matOp o .push a with b := { MatIn.none with x := s.getG o.sb } }
        let dst : PushTo :=
          { kb := b.kb, ape := b.ape, cfg := ape.cfg, typ := typ, pos := s.portAt p, pm := false, gone := false, skip := 0 }
        if s.pushEnded p then s.enqueue m
        else
          let go := fun (s : State) => (s.pushTaken p (128 * o.rows.toNat) true).enqueue { m with push := some dst }
          if b.kb then go s
          else
            match s.pushPlaces s.die s.tix b.ape ape (elemSize typ)
                (inLength ape.len ape.pos (rowsElems typ 0 a o.rows.toNat fun _ => .init)) with
            | .error e => s.pushStop 1 p b.ape e
            | .ok ps =>
              match s.pushAsk (apeUnit s.die s.tix b.ape) ape ps with
              | (s1, .error id) => s1.waits (.remote id)
              | (s1, .ok (some n)) => s1.portTrap 1 p n
              | (s1, .ok none) => go s1)

/-- MLDA: rows of scratch (R386). -/
def execMlda (o : MFmt) (s : State) : Host.Outcome State Fault Refusal :=
  .next (s.matrixOp o fun a s =>
    let x := s.getG o.sa
    match s.scratchTrap [{ x := x, align := 256, len := 512 * o.rows.toNat, loc := 1 }] with
    | some t => t
    | none => s.enqueue { s.matOp o .load a with a := { MatIn.none with x := x } })

/-- MSCL: rows times the lanes of va (R387). -/
def execMscl (o : MFmt) (s : State) : Host.Outcome State Fault Refusal :=
  .next (s.masked o.gn o.gs fun a s =>
    match s.regWait [o.sa] (BitVec.allOnes 64) with
    | some j => s.waitLink j
    | none =>
      if 8 ≤ s.myTile.mq.length then s.waits (.matrix 8)
      else s.enqueue { s.matOp o .scale a with f := s.readV o.sa.toNat })

/-- MWAIT: its completion posts sgk (R388). -/
def execMwait (o : MFmt) (s : State) : Host.Outcome State Fault Refusal :=
  .next (s.matrixOp o fun a s => s.enqueue (s.matOp o .wait a))

/-! The unit's work. -/

/-- Rows of an accumulator of a tile changed, and the flags. -/
def State.modRows (s : State) (d t acc : Nat) (rows : List Nat) (f : Nat → AccRow → AccRow × Fl) : State × Fl :=
  rows.foldl (fun (x : State × Fl) r =>
    let (row, fl) := f r ((x.1.tile d t).accRow acc r)
    (x.1.modTile d t fun t => t.modRow acc r fun _ => row, x.2 ||| fl)) (s, 0)

/-- A row as MLDA reads it at an offset of scratch, marks included (R386). -/
def State.loadRow (s : State) (d t off : Nat) : AccRow :=
  { cells := Vector.ofFn fun c => BitVec.ofNat 32 (s.scratchAt [] d t (off + 4 * c.val) 4).1
    pois := BitVec.ofNat 8 ((List.range 8).foldl (fun n g => n + b2n (s.scratchAt [] d t (off + 64 * g) 4).2 * 2 ^ g) 0) }

/-- A row times a factor, and its flags (R387). -/
def scaleRow (f : Lane) (row : AccRow) : AccRow × Fl :=
  let out := row.cells.map fun c => (mulE (laneVal c) (laneVal f)).lane 0
  ({ row with cells := out.map (·.1) }, out.foldl (fun x e => x ||| e.2) 0)

/-- MRDQ performed: its rows pushed, the flags of the elements written, and how many of them are where it is not done yet (R385). -/
def State.pushRows (s : State) (d t : Nat) (m : MatOp) (p : PushTo) : State × Fl × Option Nat :=
  let els := rowsElems p.typ m.rnd m.mask m.o.rows.toNat fun j => (s.tile d t).accRow m.o.acc.toNat ((m.b.x.toNat + j) % 64)
  let x := s.ctx d t m.c
  let len := if p.kb then (x.q6.map Coach.plen).getD 0 / elemSize p.typ else p.stream.len
  if p.kb && !(x.live && x.inv == m.inv) then (s, 0, none)
  else
    let (s1, left) := s.latePush d t m.c p els
    (s1, (inLength len p.pos els).foldl (fun f x => f ||| x.fl) 0, left)

/-- A queued instruction performed (R217, R376): the state, the flags, and where a push waits how many of its elements are written. -/
def State.matrixWork (s : State) (d t : Nat) (m : MatOp) : State × Fl × Option Nat :=
  let acc := m.o.acc.toNat
  let n := m.o.rows.toNat
  let whole : State × Fl → State × Fl × Option Nat := fun r => (r.1, r.2, none)
  match m.kind with
  | .zero => whole (s.modRows d t acc (takenRows m.o m.mask) fun _ _ => (.init, 0))
  | .mma set =>
    let rows := (s.operandLines m.own d t m.a (opA m.o)).toArray
    let cols := (s.columnsOf m.own d t m.b.y m.o (s.operandLines m.own d t m.b (opB m.o))).toArray
    whole (s.modRows d t acc (List.range n) fun r row =>
      mmaRow (chunkLen m.o) m.o.kc.toNat (rows.getD r []) cols (if set then .init else row))
  | .push => match m.push with | some p => s.pushRows d t m p | none => (s, 0, none)
  | .load => whole (s.modRows d t acc (List.range n) fun r _ => (s.loadRow d t (m.a.x.toNat % 2 ^ 19 + 512 * r), 0))
  | .scale => whole (s.modRows d t acc (takenRows m.o m.mask) fun r row => scaleRow (vget m.f r 0) row)
  | .wait => (s, 0, none)

/-- What the completion of a queued instruction adds: its flags, where the invocation still runs, and a signal (R220, R388); a record
that waited for a push ends (R66). -/
def State.matrixDone (s : State) (d t : Nat) (m : MatOp) (fl : Fl) : State :=
  let s1 := if (s.ctx d t m.c).live && (s.ctx d t m.c).inv == m.inv then
      s.modCtx d t m.c fun x => { x with hart := { x.hart with fflags := x.hart.fflags ||| fl } } else s
  match m.kind with
  | .wait => s1.modTile d t fun x => { x with sigs := vput x.sigs (m.o.sa.toNat % 8) (vget x.sigs (m.o.sa.toNat % 8) 0 + 1) }
  | .push => s1.settle d
  | .zero | .mma _ | .load | .scale => s1

/-- The head of a tile's queue performed and completed, or the state in which it waits; whether it does not (R376). -/
def State.matrixStep (s : State) (d t : Nat) : State × Bool :=
  match (s.tile d t).mq with
  | [] => (s, true)
  | m :: r =>
    let w := s.matrixWork d t m
    match w.2.2 with
    | none => ((w.1.modTile d t fun x => { x with mq := r }).matrixDone d t m w.2.1, true)
    | some k => (w.1.modTile d t fun x => { x with mq := { m with push := m.push.map fun p => { p with skip := k } } :: r }, false)

/-- MATRIX_COMPLETE: the head of the queue completes (R376); while it waits, the event comes again. -/
def execMatrixComplete (s : State) : Host.Outcome State Fault Refusal :=
  .next (match s.arg with
    | .tileRef o =>
      let (s1, done) := s.matrixStep o.die o.tile
      if done then s1 else s1.post 100 .matrixComplete (.tileRef o)
    | _ => s)

end Sys2Proof.Machine
end

