-- ==== Sys2Proof/Machine/Coach.lean ====
section
/-! DEFINITION. Routes (08 R174-R177) and the coach instructions (18 R405-R413; 08 R170-R173, R194, R195). -/

namespace Sys2Proof.Machine

/-! Routes (R174-R177). -/

/-- Whether a route entry keeps the table of R174. -/
def entryOk (e : Vector Word 8) : Bool :=
  let w := vget e 0 0
  1 ≤ bits w 3 0 && bits w 3 0 ≤ 14 && bits w 63 32 == 0 && bits w 15 9 == 0 && bits w 7 4 == 0

/-- Route entry i of a plane, where it exists and keeps R174 (R177). -/
def routeEntry (routes : List (Vector Word 8)) (i : Nat) : Option (Vector Word 8) := (routes[i]?).filter entryOk

/-- Stop code k of an entry (R174). -/
def entryCode (e : Vector Word 8) (k : Nat) : Word := w64 (bits (vget e (1 + k / 2) 0) (32 * (k % 2) + 31) (32 * (k % 2)))

/-- Place of a stop code (R175). -/
def codePlace (c : Word) : Nat := bits c 21 20
/-- Module of a stop code. -/
def codeModule (c : Word) : Nat := bits c 31 24
/-- Die of a stop code. -/
def codeDie (c : Word) : Nat := bits c 23 22
/-- Arrival queue of a stop code. -/
def codeAq (c : Word) : Nat := bits c 19 18
/-- Tee of a stop code. -/
def codeTee (c : Word) : Bool := bit c 17
/-- Action of a stop code. -/
def codeAct (c : Word) : Nat := bits c 15 12
/-- Index of a stop code. -/
def codeIndex (c : Word) : Nat := bits c 7 0

/-- Whether a stop code keeps R175. -/
def codeOk (c : Word) : Bool :=
  let p := codePlace c
  let act := codeAct c
  !bit c 16 && bits c 11 8 == 0 && act ≤ 3
    && (act != 0 || p == 0 || p == 3) && (!(act == 1 || act == 2) || p == 1 || p == 2)
    && (match p with
        | 0 => isCompute (codeIndex c)
        | 1 => codeIndex c < 16
        | 2 => codeIndex c == 0
        | _ => codeModule c == 0 && codeDie c == 0 && codeIndex c == 0)

/-- A stop code with a home stop as the origin tile of a coach, and module 0xFF as this module (R175). -/
def State.resolve (s : State) (c : Coach) (code : Word) : Word :=
  let here := bits s.sys.podcfg 5 0
  if codePlace code == 3 then
    w64 (bits (c.h 3) 7 0 * 2 ^ 24 + bits (c.h 3) 9 8 * 2 ^ 22 + bits code 19 8 * 2 ^ 8 + bits (c.h 3) 17 10)
  else if codeModule code == 0xFF then setBits code 31 24 here
  else code

/-- Whether a resolved stop code names a module on the pod loop (R177). -/
def State.moduleOk (s : State) (code : Word) : Bool :=
  let m := codeModule code
  let c := s.sys.podcfg
  m == bits c 5 0 || (bit c 31 && m < bits c 22 16)

/-- The stop code, resolved, of a coach's next stop (R176), none at a route fault (R177). -/
def State.nextStop (s : State) (routes : List (Vector Word 8)) (c : Coach) : Option Word :=
  match routeEntry routes c.route with
  | none => none
  | some e =>
    if bits (vget e 0 0) 3 0 ≤ c.stopIx then none
    else
      let code := entryCode e c.stopIx
      let r := s.resolve c code
      if codeOk code && s.moduleOk r then some r else none

/-- A coach that leaves for its next stop is on no home stop (R171). -/
def Coach.departs (c : Coach) : Coach := c.setF 0 24 24 0

/-- A coach at its stop: the home flag tells whether that is its home stop (R171). -/
def Coach.atHome (c : Coach) (routes : List (Vector Word 8)) : Coach :=
  match routeEntry routes c.route with
  | none => c
  | some e => c.setF 0 24 24 (b2n (codePlace (entryCode e c.stopIx) == 3))

/-- What Advance makes of a coach (R176). -/
inductive Advanced where
  | on (c : Coach)
  | ends
  | fault
  deriving DecidableEq, Repr

/-- Advance of R176. -/
def Coach.advance (c : Coach) (routes : List (Vector Word 8)) : Advanced :=
  match routeEntry routes c.route with
  | none => .fault
  | some e =>
    if c.stopIx + 1 < bits (vget e 0 0) 3 0 then .on (c.setF 3 28 21 (c.stopIx + 1))
    else if bit (vget e 0 0) 8 then .on ((c.setF 4 15 0 (bits (vget e 0 0) 31 16)).setF 3 28 21 0)
    else .ends

/-! Coach buffers (R407-R409). -/

/-- A refused coach operation (R406). -/
def State.coachTrap (s : State) (port reason : Nat) : State := s.trap 7 0 (w64 (2 ^ 63 + port * 2 ^ 48 + reason))

/-- The route entries that the depots of a slot's region hold (R98, R174). -/
def Slot.heldRoutes (r : Slot) : List (Vector Word 8) := (r.plane.map (·.2)).getD []

/-- The VERSION trap of an instruction that reads the route plane (R91, R277). -/
def State.rverBad (s : State) : Option State :=
  if s.me.rver != s.myTile.rver then some (s.trap 8 0 (w64 (s.myTile.rver % 16 * 16 + s.me.rver % 16))) else none

/-- A coach instruction that reads the route plane: the guard, the place and the version. -/
def State.routeOp (s : State) (o : CFmt) (k : State → State) : State :=
  s.guardedCtx o.gn o.gs fun s => match s.rverBad with | some t => t | none => k s

/-- Port 6 or 7 of an instruction (R408). -/
def coachN (o : CFmt) : Nat := o.f 18 16

/-- An instruction on the coach of a port: NOCOACH where it holds none (R406). -/
def State.withCoach (s : State) (n : Nat) (k : Coach → State → State) : State :=
  match s.portCoach n with
  | none => s.coachTrap n 1
  | some c => k c s

/-- The coach of a port set. -/
def Context.setCoach (x : Context) (n : Nat) (c : Option Coach) : Context := if n == 7 then { x with q7 := c } else { x with q6 := c }

/-- The coach of a port released and the port unbound (R411, R412). -/
def State.release (s : State) (n : Nat) : State :=
  s.modMe fun x => { x.setCoach n none with ports := vput x.ports n .init }

/-- The writable bits of header word 0 (R409, R410). -/
def hdrMask : Word := 0x0FFFFFF00E2F807F

/-- The outgoing buffer allocated, and q6 bound to its payload (R409). -/
def State.allocate (s : State) (c : Coach) : State :=
  (s.modMe fun x => { x with
    q6 := some c
    ports := vput x.ports 6 { PortBind.init with bnd := true, kb := true, typ := tagType c.fmt } }).advance

/-- KNEW (R409). -/
def execKnew (o : CFmt) (s : State) : Host.Outcome State Fault Refusal :=
  .next (s.routeOp o fun s =>
    if s.me.q6.isSome then s.coachTrap 6 2
    else
      let w3 := w64 (bits s.sys.podcfg 5 0 + s.die * 2 ^ 8 + s.tix * 2 ^ 10 + s.cix * 2 ^ 18)
      let hdr := vput (vput (vput zero8 0 (s.getG o.a &&& hdrMask)) 3 w3) 4 (s.getG o.b)
      s.allocate { hdr := hdr, pay := List.replicate (bits (s.getG o.b) 31 16) 0, pois := [] })

/-- KNEW.c (R409). -/
def execKnewC (o : CFmt) (s : State) : Host.Outcome State Fault Refusal :=
  .next (s.routeOp o fun s =>
    if s.me.q6.isSome then s.coachTrap 6 2
    else s.withCoach 7 fun c s => s.allocate c)

/-- KHDR (R410). -/
def execKhdr (o : CFmt) (s : State) : Host.Outcome State Fault Refusal :=
  .next (s.guardedCtx o.gn o.gs fun s =>
    s.withCoach (coachN o) fun c s => (s.setG o.d (c.h (o.f 2 0))).advance)

/-- The bits of header word w that KSET writes on a port (R410). -/
def ksetMask (w n : Nat) : Word :=
  match w with
  | 0 => hdrMask
  | 3 => 0x1FE00000
  | 4 => if n == 6 then BitVec.allOnes 64 else 0xFFFFFFFF0000FFFF
  | _ => BitVec.allOnes 64

/-- KSET (R410). -/
def execKset (o : CFmt) (s : State) : Host.Outcome State Fault Refusal :=
  .next (s.guardedCtx o.gn o.gs fun s =>
    let n := coachN o
    s.withCoach n fun c s =>
      let w := o.f 2 0
      let m := ksetMask w n
      let c1 := c.setH w ((c.h w &&& ~~~m) ||| (s.getG o.a &&& m))
      (s.modMe fun x => x.setCoach n (some c1)).advance)

/-- An instruction that takes q6's buffer away: the pushes to it write it first (R411; of a KDROP, entry 56). -/
def State.pushed (s : State) (k : State → State) : State := if s.myTile.pushing s.cix then s.waits .pushes else k s

/-- KDROP (R412). -/
def execKdrop (o : CFmt) (s : State) : Host.Outcome State Fault Refusal :=
  .next (s.guardedCtx o.gn o.gs fun s =>
    s.withCoach (coachN o) fun _ s =>
      let k := fun (s : State) => (s.release (coachN o)).advance
      if coachN o == 6 then s.pushed k else k s)

/-! Sends (R411). -/

/-- The number under which the head of a tile's send queue moves (COACH_HOP). -/
def sendId (d t : Nat) : Nat := 2 ^ 32 + d * 256 + t

/-- A coach without the payload bytes and marks beyond its payload length, which KSET may have lowered (R170). -/
def Coach.cut (c : Coach) : Coach := { c with pay := c.pay.take c.plen, pois := c.pois.filter fun g => 64 * g < c.plen }

/-- A coach as it is sent: its payload alone, the invocation's versions, the poison flag (R290), and its stop; or the reason of PORT. -/
def State.toSend (s : State) (c : Coach) : Except Nat Entrant :=
  let routes := s.mySlot.heldRoutes
  if c.malformed then .error 3
  else match s.nextStop routes c with
    | none => .error 4
    | some code =>
      let c1 := (((c.cut.setF 0 10 7 s.me.rver).setF 0 14 11 s.me.tver).flagPoison).departs
      .ok { coach := c1, code := code, plane := s.mySlotIx.map fun i => (s.die, i) }

/-- Coaches placed in the send queue in order, once all fit (R407); k follows. -/
def State.place (s : State) (es : List Entrant) (k : State → State) : State :=
  if 16 < s.myTile.sendq.length + es.length then s.waits (.send es.length)
  else k ((s.modMyTile fun t => { t with sendq := t.sendq ++ es }).post 2 .coachHop (.idxRef { i := sendId s.die s.tix }))

/-- KSEND (R411). -/
def execKsend (o : CFmt) (s : State) : Host.Outcome State Fault Refusal :=
  .next (s.routeOp o fun s =>
    s.withCoach 6 fun c s => s.pushed fun s =>
      match s.toSend (c.setF 0 35 28 0) with
      | .error r => s.coachTrap 6 r
      | .ok e => s.place [e] fun s => (s.release 6).advance)

/-- KFWD (R411): a coach that Advance ends is dropped and counted. -/
def execKfwd (o : CFmt) (s : State) : Host.Outcome State Fault Refusal :=
  .next (s.routeOp o fun s =>
    let n := coachN o
    s.withCoach n fun c s => s.pushed fun s =>
      match if o.imm.getLsbD 0 then Advanced.on c else c.advance s.mySlot.heldRoutes with
      | .fault => s.coachTrap n 4
      | .ends => ((s.release n).kdrop s.die 16).advance
      | .on c1 =>
        match s.toSend c1 with
        | .error r => s.coachTrap n r
        | .ok e => s.place [e] fun s => (s.release n).advance)

/-- Part p of a split (R411). -/
def Coach.part (c : Coach) (p n base mid : Nat) : Coach :=
  (((((c.setF 0 55 52 p).setF 0 59 56 n).setF 4 15 0 (base + p)).setF 3 28 21 0).setF 0 21 21 1).setF 4 63 48 mid

/-- KSPLIT (R411). -/
def execKsplit (o : CFmt) (s : State) : Host.Outcome State Fault Refusal :=
  .next (s.routeOp o fun s =>
    let n := coachN o
    let k := o.f 3 0
    s.withCoach n fun c s => s.pushed fun s =>
      let parts := (List.range k).map fun p => s.toSend (c.part p k (bits (s.getG o.a) 15 0) (bits (s.getG o.b) 15 0))
      match parts.findSome? fun r => match r with | .error e => some e | .ok _ => none with
      | some e => s.coachTrap n e
      | none =>
        let es := parts.filterMap fun r => match r with | .ok e => some e | .error _ => none
        s.place es fun s => (s.release n).advance)

/-! The merge of attention states (R195, R413). -/

/-- A value rounded to FP32, RNE. -/
def rne (x : Exact) : Lane × Fl := x.lane 0

/-- FmaX(x, y, 0): the rounded product and its residual. -/
def prodX (x y : Lane) : (Lane × Lane) × Fl :=
  let v := fmaE (laneVal x) (laneVal y) (.zero false) false 0
  let (h, f) := rne v
  ((h, residual v h 0), f)

/-- AddX. -/
def addX (x y : Lane) : (Lane × Lane) × Fl :=
  let v := addE (laneVal x) (laneVal y) 0
  let (h, f) := rne v
  ((h, residual v h 0), f)

/-- RoundFP32(x y + z). -/
def fmaLane (x y z : Lane) : Lane × Fl := rne (fmaE (laneVal x) (laneVal y) (laneVal z) false 0)

/-- The scale of a state in a merge: 0 for an empty one, else 2^(m1 - m) (R195). -/
def mergeScale (nbv : Nat) (m1 m : Lane) : Lane × Fl :=
  if laneVal m1 == .inf true then (0, 0)
  else
    let (x, f) := rne (addE (laneVal m1) (laneVal m).flip 0)
    let (y, g) := refLane (exp2Ref (laneVal x) nbv) 0 0
    (y, f ||| g)

/-- The state of one query: m, lh, ll and o. -/
structure AttnState where
  m : Lane
  lh : Lane
  ll : Lane
  o : List Lane
  deriving DecidableEq, Repr

/-- MergeState of R195, with the flags of its roundings. -/
def mergeState (nbv : Nat) (x y : AttnState) : AttnState × Fl :=
  let (m, f0) := rne (maxE (laneVal x.m) (laneVal y.m))
  let (a1, f1) := mergeScale nbv x.m m
  let (a2, f2) := mergeScale nbv y.m m
  let ((h1, e1), f3) := prodX x.lh a1
  let ((g, e2), f4) := prodX y.lh a2
  let ((h, e3), f5) := addX h1 g
  let (t1, f6) := fmaLane x.ll a1 e1
  let (t2, f7) := fmaLane y.ll a2 t1
  let (t3, f8) := addLane t2 e2 0
  let (t4, f9) := addLane t3 e3 0
  let ((lh, ll), f10) := addX h t4
  let os := (x.o.zip y.o).map fun e =>
    let (r, g1) := rne (mulE (laneVal e.2) (laneVal a2))
    let (v, g2) := fmaLane e.1 a1 r
    (v, g1 ||| g2)
  ({ m := m, lh := lh, ll := ll, o := os.map (·.1) },
   os.foldl (fun f e => f ||| e.2) (f0 ||| f1 ||| f2 ||| f3 ||| f4 ||| f5 ||| f6 ||| f7 ||| f8 ||| f9 ||| f10))

/-- Lane at a byte of a list. -/
def laneAt (bs : List Byte) (off : Nat) : Lane := BitVec.ofNat 32 (leVal ((bs.drop off).take 4))

/-- The states of a section of q queries with d elements (R173). -/
def statesOf (bs : List Byte) (q d : Nat) : List AttnState :=
  (List.range q).map fun i =>
    { m := laneAt bs (16 * i), lh := laneAt bs (16 * i + 4), ll := laneAt bs (16 * i + 8),
      o := (List.range d).map fun k => laneAt bs (16 * q + 4 * (d * i + k)) }

/-- A section of states (R173), the pad words 0. -/
def statesLe (l : List AttnState) : List Byte :=
  l.flatMap (fun x => leOf 4 x.m.toNat ++ leOf 4 x.lh.toNat ++ leOf 4 x.ll.toNat ++ leOf 4 0)
    ++ l.flatMap (fun x => x.o.flatMap fun v => leOf 4 v.toNat)

/-- A state section: in the coach of a port, or in scratch at the address in a register; its field in traps. -/
structure Section where
  port : Option Nat
  x : Word
  loc : Nat
  deriving DecidableEq, Repr

/-- The granules of a range. -/
def granulesOf (off n : Nat) : List Nat := (List.range ((off + n + 63) / 64 - off / 64)).map (off / 64 + ·)

/-- The bytes of a section of n bytes, skip bytes into a payload, or the POISON trap (R277, R413). -/
def State.sectionBytes (s : State) (c : Section) (skip n : Nat) : Except State (List Byte) :=
  match c.port with
  | some p =>
    let k := (s.portCoach p).getD { hdr := zero8, pay := [], pois := [] }
    (match (granulesOf skip n).find? fun g => k.pois.contains g with
     | some g => .error (s.trap 6 c.loc (w64 (p * 2 ^ 48 + max skip (64 * g) / 4)))
     | none => .ok (padTo n (k.pay.drop skip)))
  | none =>
    let off := c.x.toNat % 2 ^ 19
    let at_ := fun k => ({ key := scratchKey s.die s.tix k, mt := 3 } : Phys)
    (match (granulesOf off n).find? fun g => s.poisonFor s.req (at_ (64 * g)) with
     | some g => .error (s.trap 6 c.loc (w64 (c.x.toNat - off + max off (64 * g))))
     | none => .ok ((List.range (n / 16)).flatMap fun k => leOf 16 (s.rdFor s.req (at_ (off + 16 * k)) 16)))

/-- A section written. -/
def State.putSection (s : State) (c : Section) (skip : Nat) (bs : List Byte) : State :=
  match c.port with
  | some _ => s.modMe fun x => { x with q6 := x.q6.map fun k => { k with pay := putBytes (padTo k.plen k.pay) skip bs } }
  | none => (List.range (bs.length / 16)).foldl (fun s k =>
      let p : Phys := { key := scratchKey s.die s.tix (c.x.toNat % 2 ^ 19 + 16 * k), mt := 3 }
      (s.keepOld p.key 16).wrFor s.req p ((bs.drop (16 * k)).take 16)) s

/-- Whether the destination overlaps a source in scratch without being it (R413). -/
def overlaps (n : Nat) (a b : Section) : Bool :=
  let x := a.x.toNat % 2 ^ 19
  let y := b.x.toNat % 2 ^ 19
  a.port.isNone && b.port.isNone && x != y && x < y + n && y < x + n

/-- KMRG (R413). -/
def execKmrg (o : CFmt) (s : State) : Host.Outcome State Fault Refusal :=
  .next (s.guardedCtx o.gn o.gs fun s =>
    let q := o.f 4 0
    let d := 32 * o.f 11 8
    let n := 16 * q + 4 * q * d
    let a : Section := { port := if o.imm.getLsbD 16 then some 7 else none, x := s.getG o.a, loc := 1 }
    let b : Section := { port := if o.imm.getLsbD 17 then some 7 else none, x := s.getG o.b, loc := 2 }
    let c : Section := { port := if o.imm.getLsbD 18 then some 6 else none, x := s.getG o.c, loc := 3 }
    let uses := [a, b, c].filterMap fun e =>
      if e.port.isNone then some { x := e.x, align := 16, len := n, loc := e.loc : ScratchUse } else none
    match s.scratchTrap uses with
    | some t => t
    | none =>
      if overlaps n c a || overlaps n c b then s.trap 4 3 c.x
      else match [a, b, c].findSome? fun e => e.port.bind fun p =>
          match s.portCoach p with
          | none => some (p, 1)
          | some k => if k.plen < q * (6 * d + 16) then some (p, 5) else none with
        | some (p, r) => s.coachTrap p r
        | none =>
          match s.sectionBytes a (2 * q * d) n, s.sectionBytes b (2 * q * d) n with
          | .error t, _ => t
          | .ok _, .error t => t
          | .ok xs, .ok ys =>
            let rs := ((statesOf xs q d).zip (statesOf ys q d)).map fun e => mergeState s.hart.nbv e.1 e.2
            (((s.putSection c (2 * q * d) (statesLe (rs.map (·.1)))).addFlags (rs.foldl (fun f e => f ||| e.2) 0)).advance))

end Sys2Proof.Machine
end

