-- ==== Sys2Proof/Machine/Shard.lean ====
section
/-! DEFINITION. The shard instructions (18 R414-R420; 06 R129-R135). Each reads and checks all it needs first and then
writes, in one step. -/

namespace Sys2Proof.Machine

/-- The state that a computation ends in, whether it ran through or stopped. -/
def ran (r : Except State State) : State := match r with | .ok t => t | .error t => t

/-- A range in pieces within 64-byte granules, m pieces at most. -/
def spans : Nat → Nat → Nat → List (Nat × Nat)
  | 0, _, _ => []
  | m + 1, ea, n =>
    if n = 0 then []
    else
      let k := min n (64 - ea % 64)
      (ea, k) :: spans m ((ea + k) % 2 ^ 64) (n - k)

/-- An instruction of compute contexts with memory operands: an application-level address on path 0x4 traps PRIV whatever the guard
holds (R275, R295). -/
def State.guardedFor (s : State) (o : CFmt) (eas : List Word) (k : State → State) : State :=
  if s.onCore then s.illegal
  else if eas.any (fun a => a.toNat / 2 ^ 60 == 4) && !s.isSup then s.priv else s.guarded o.gn o.gs k

/-- The checks of R333 on an access of n bytes at ea, an address of the operand that loc names (R276), or the state they end in. free
tells that REG.GRANT does not bind it (R114, R418). -/
def State.spot (s : State) (loc ea n align : Nat) (a : Acc) (free : Bool) : Except State (State × Place) :=
  let q := s.req.freed free ea
  if ea / 2 ^ 60 == 4 && !s.isSup then .error s.priv
  else if ea % align != 0 then .error (s.trap 3 loc (w64 ea))
  else match s.check q ea n a with
    | .ok p => .ok (s.touch s.req ea a p, .mem p)
    | .void => .ok (s, .void)
    | .reg .. => .error (s.trap 4 loc (w64 ea))
    | .remote m va => .ok (s, .remote m va)
    | .hold d i => .error (s.waits (.arming d i))
    | .refuse _ => .error (s.trap 4 loc (w64 ea))
    | .fault level code => .error (s.pageFault ea a level code)

/-- A place of this module: the words of SHCPY and of the KV instructions lie at no other (entry 23). -/
def State.nearPlace (s : State) (loc ea : Nat) (p : Place) : Except State Unit :=
  match p with | .remote .. => .error (s.trap 4 loc (w64 ea)) | _ => .ok ()

/-- The place of the 8-byte word at ea: REG.GRANT binds its updates, not its reads (R114, R416). -/
def State.wordSpot (s : State) (loc ea : Nat) (a : Acc) : Except State (State × Place) := do
  let (s, p) ← s.spot loc ea 8 8 a (a == .read)
  s.nearPlace loc ea p
  .ok (s, p)

/-- n bytes at a place, or the POISON trap of an access at ea (R288). -/
def State.spotValue (s : State) (loc ea n : Nat) (p : Place) : Except State Nat :=
  match p with
  | .mem p => if s.poisonFor s.req p then .error (s.trap 6 loc (w64 ea)) else .ok (s.rdFor s.req p n)
  | _ => .ok 0

/-- The 8-byte word at ea under a kind of access. -/
def State.getWord (s : State) (loc ea : Nat) (a : Acc) : Except State (State × Word) := do
  let (s, p) ← s.wordSpot loc ea a
  let v ← s.spotValue loc ea 8 p
  .ok (s, w64 v)

/-- The 8-byte word at ea written; a place that getWord passed for an update. -/
def State.putWord (s : State) (ea : Nat) (v : Word) : State :=
  match s.check s.req ea 8 .rmw with | .ok p => (s.noteStore ea p 8).wrFor s.req p (leOf 8 v.toNat) | _ => s

/-- The place of the 64 bytes at ea, on path 0x0 (R414, R424). -/
def State.lineSpot (s : State) (loc ea : Nat) : Except State (State × Place) :=
  if ea / 2 ^ 60 == 4 && !s.isSup then .error s.priv
  else if ea % 64 != 0 then .error (s.trap 3 loc (w64 ea))
  else if ea / 2 ^ 60 != 0 then .error (s.trap 4 loc (w64 ea))
  else s.spot loc ea 64 64 .read false

/-- The value of the 64 bytes at ea, the address of operand a. -/
def State.getLine (s : State) (ea : Nat) : Except State (State × Nat) := do
  let (s, p) ← s.lineSpot 1 ea
  let v ← s.spotValue 1 ea 64 p
  .ok (s, v)

/-- The descriptor at ea; none where it is malformed (R129, R414). -/
def State.getDesc (s : State) (ea : Nat) : Except State (State × Option Desc) :=
  (s.getLine ea).map fun r => (r.1, Desc.ofWords (wordsOf r.2))

/-- The words at a list of VAs checked for their updates (R130, R416). -/
def State.updatable (s : State) : List Nat → Except State State
  | [] => .ok s
  | ea :: r => (s.getWord 1 ea .rmw).bind fun x => x.1.updatable r

/-- A status in g[d], nothing else changed (R405). -/
def State.status (s : State) (o : CFmt) (n : Nat) : State := (s.setG o.d (w64 n)).advance

/-- The end of an instruction that is an acq_rel at module scope as a whole (R147, R414). -/
def State.ordered (s : State) (o : CFmt) (n : Nat) : State := (s.orderLate false).status o n

/-- SHLK (R415). -/
def execShlk (o : CFmt) (s : State) : Host.Outcome State Fault Refusal :=
  .next (s.guardedFor o [s.getG o.a] fun s => ran (do
    let (s, ds) ← s.getDesc (s.getG o.a).toNat
    .ok (s.status o (match ds with
      | none => 2 ^ 64 - 3
      | some ds =>
        match ds.locate (s.getG o.b).toNat (s.getG o.c).toNat with
        | .range => 2 ^ 64 - 1
        | .expired => 2 ^ 64 - 2
        | .at_ ent off => ent % 2 ^ 57 + off * 2 ^ 57))))

/-- A page entry with stuck and pin set (R132). -/
def stickEntry (e : Word) : Word := setBits e 63 62 3

/-- A refcount changed (R132): the new entry, and whether it became stuck. -/
def refStep (dec : Bool) (e : Word) : Word × Bool :=
  if bit e 62 then (e, false)
  else if dec then (if entRef e == 0 then (stickEntry e, true) else (setBits e 60 53 (entRef e - 1), false))
  else if entRef e == 255 then (stickEntry e, true)
  else (setBits e 60 53 (entRef e + 1), false)

/-- The audit event of a refcount that became stuck, and the lifetime count (R132, R59). -/
def State.audit (s : State) (ea : Nat) : State :=
  ({ s with life := { s.life with stuck := bump s.life.stuck } }).inform 6 (w64 ea)

/-- The word that SHPIN leaves of an entry (R416). -/
def pinStep (on : Bool) (e : Word) : Word := setBits e 63 63 (b2n (on || bit e 62))

/-- An update of the entry at g[a], as one step at its home, which may be another module; the old word in g[d] (R40, R416). near updates
it at this module. -/
def State.entryOp (s : State) (o : CFmt) (op : RemoteOp) (near : Nat → Word → State → State) : State :=
  s.guardedFor o [s.getG o.a] fun s =>
    let ea := (s.getG o.a).toNat
    ran (s.spot 1 ea 8 8 .rmw false >>= fun x =>
      match x.2 with
      | .remote m va => .ok (x.1.viaPod 1 ea m va 8 op 0 0 [] fun r s => s.ordered o (leVal r.data))
      | p => x.1.spotValue 1 ea 8 p >>= fun v => .ok ((near ea (w64 v) x.1).ordered o v))

/-- The refcount of the entry at g[a] changed; the old word in g[d] (R416). -/
def State.shref (s : State) (o : CFmt) (dec : Bool) : State :=
  s.entryOp o (.ref dec) fun ea e s =>
    let (new, stuck) := refStep dec e
    let s1 := s.putWord ea new
    if stuck then s1.audit ea else s1

/-- SHREF.inc (R416). -/
def execShrefInc (o : CFmt) (s : State) : Host.Outcome State Fault Refusal := .next (s.shref o false)

/-- SHREF.dec (R416). -/
def execShrefDec (o : CFmt) (s : State) : Host.Outcome State Fault Refusal := .next (s.shref o true)

/-- SHPIN (R416). -/
def execShpin (o : CFmt) (s : State) : Host.Outcome State Fault Refusal :=
  .next (s.entryOp o (.pin (o.imm.getLsbD 0)) fun ea e s => s.putWord ea (pinStep (o.imm.getLsbD 0) e))

/-- What SHCPY reads, each cause of a trap for all its operands before the next cause (R275, R417): the two entries and the
descriptor. -/
def State.copyWords (s : State) (o : CFmt) : Except State (State × Word × Word × Option Desc) := do
  let a := (s.getG o.a).toNat
  let b := (s.getG o.b).toNat
  let c := (s.getG o.c).toNat
  let old := s.myTile.chan (chanOf o)
  match [(1, a, 8), (2, b, 8), (3, c, 64)].find? fun x => x.2.1 % x.2.2 != 0 with
  | some x => .error (s.trap 3 x.1 (w64 x.2.1))
  | none =>
    let (s, pa) ← s.wordSpot 1 a .read
    let (s, pb) ← s.wordSpot 2 b .read
    let (s, pc) ← s.lineSpot 3 c
    if old.state == .error then .error (s.trap 9 7 (w64 (chanOf o + old.err % 256 * 256)))
    else
      let e1 ← s.spotValue 1 a 8 pa
      let e2 ← s.spotValue 2 b 8 pb
      let v ← s.spotValue 3 c 64 pc
      .ok (s, w64 e1, w64 e2, Desc.ofWords (wordsOf v))

/-- SHCPY: a status other than 0 starts nothing (R417). -/
def execShcpy (o : CFmt) (s : State) : Host.Outcome State Fault Refusal :=
  .next (s.guardedFor o [s.getG o.a, s.getG o.b, s.getG o.c] fun s =>
    let old := s.myTile.chan (chanOf o)
    if old.state == .running || old.state == .paused then s.waits (.channel (chanOf o))
    else ran (do
      let n := o.f 6 0
      let (s, e1, e2, ds) ← s.copyWords o
      .ok (match ds with
        | none => s.status o 5
        | some ds =>
          if entFill e1 < n then s.status o 8
          else if 1 < entRef e2 then s.status o 4
          else if bit e2 62 then s.status o 9
          else
            (s.startCommand o { Chan.init with
              kind := .shard, src := w64 (entAddr e1), dst := w64 (entAddr e2), p2 := w64 n, p3 := w64 (ds.dim * ds.es)
              p4 := s.getG o.b }).setG o.d 0)))

/-! Appending, committing and rejecting (R418-R420). -/

/-- Places of pieces of ranges of the operand that loc names; the first is aligned to align. -/
def State.spots (s : State) (loc : Nat) (a : Acc) (align : Nat) (free : Bool) : List (Nat × Nat) →
    Except State (State × List ((Nat × Nat) × Place))
  | [] => .ok (s, [])
  | (ea, n) :: r => do
    let (s, p) ← s.spot loc ea n align a free
    let (s, l) ← s.spots loc a align free r
    .ok (s, ((ea, n), p) :: l)

/-- The bytes at places, those of other modules asked for (R40, R41). -/
def State.readSpots (s : State) (loc : Nat) (l : List ((Nat × Nat) × Place)) : Except State (State × List Byte) :=
  let reqs := l.zipIdx.filterMap fun e =>
    match e.1.2 with
    | .remote m va => some ({ tag := s.myTag (e.2 + 1), m := m, va := va, n := e.1.1.2, op := .read, y := 0, data := [] } : Wish)
    | _ => none
  match s.remoteAll s.myUnit reqs with
  | (s1, .error id) => .error (s1.waits (.remote id))
  | (s1, .ok gs) =>
    let far := l.filter fun e => match e.2 with | .remote .. => true | _ => false
    let got := far.zip gs
    match got.find? fun e => !e.2.ok with
    | some e => .error (s1.trap 4 loc (w64 e.1.1.1))
    | none =>
      let bad := (l.filterMap fun e => match e.2 with
          | .mem p => if s1.poisonFor s1.req p then some e.1.1 else none
          | _ => none)
        ++ got.filterMap fun e => e.2.pois.map fun off => e.1.1.1 + off
      match leastAddr bad with
      | some x => .error (s1.trap 6 loc (w64 x))
      | none => .ok (s1, l.flatMap fun e => match e.2 with
          | .mem p => leOf e.1.2 (s1.rdFor s1.req p e.1.2)
          | .remote .. => ((got.find? fun g => g.1.1 == e.1).map fun g => padTo e.1.2 g.2.data).getD []
          | _ => List.replicate e.1.2 0)

/-- Bytes written to a place in two halves: no write of a whole granule, so that its poison mark stays (R289). -/
def State.wrHalves (s : State) (p : Phys) (bs : List Byte) : State :=
  if bs.length ≤ 32 then s.wrFor s.req p bs
  else (s.wrFor s.req p (bs.take 32)).wrFor s.req { p with key := p.key + 32 } (bs.drop 32)

/-- Bytes written to places in turn, as stores of the executing context. -/
def State.writeSpots (s : State) : List ((Nat × Nat) × Place) → List Byte → State
  | [], _ => s
  | ((ea, n), p) :: r, bs =>
    (match p with | .mem p => (s.noteStore ea p n).wrHalves p (bs.take n) | _ => s).writeSpots r (bs.drop n)

/-- A page entry with fill and spec set. -/
def setCounts (e : Word) (fill spec : Nat) : Word := setBits (setBits e 52 45 fill) 44 37 spec

/-- The pieces of the rows of n positions in a page (R130): K and V of each position in turn. -/
def rowSpans (page off n rb : Nat) : List (Nat × Nat) :=
  (List.range n).flatMap fun j => spans 16 (page + (off + j) * rb) rb ++ spans 16 (page + (128 + off + j) * rb) rb

/-- The pieces of the rows of n positions at g[c] (R418). -/
def sourceSpans (src : Word) (n rb : Nat) : List (Nat × Nat) :=
  (List.range (2 * n)).flatMap fun j => spans 16 (src + w64 (j * rb)).toNat rb

/-- KVAPP (R418). -/
def execKvapp (o : CFmt) (s : State) : Host.Outcome State Fault Refusal :=
  .next (s.guardedFor o [s.getG o.a, s.getG o.c] fun s => ran (do
    let n := o.f 4 0
    let p := bits (s.getG o.b) 39 0
    let h := bits (s.getG o.b) 55 48
    let (s, ds) ← s.getDesc (s.getG o.a).toNat
    match ds with
    | none => .ok (s.ordered o 5)
    | some ds =>
      match ds.locate h p, ds.locate h (p + n - 1) with
      | .range, _ => .ok (s.ordered o 1)
      | .expired, _ => .ok (s.ordered o 2)
      | .at_ ent off, last =>
        if (match last with | .at_ e _ => e != ent | _ => true) then .ok (s.ordered o 7)
        else
          let (s, e) ← s.getWord 1 ent .read
          if 1 < entRef e then .ok (s.ordered o 4)
          else if off != entFill e + entSpec e then .ok (s.ordered o 3)
          else
            let rb := ds.dim * ds.es
            let (s, src) ← s.spots 3 .read ds.es true (sourceSpans (s.getG o.c) n rb)
            let (s, dst) ← s.spots 1 .write 1 true (rowSpans (entAddr e) off n rb)
            let s ← s.updatable [ent]
            let (s, bs) ← s.readSpots 3 src
            match dst.find? fun x => match x.2 with | .remote .. => true | _ => false with
            | some x => .error (s.trap 4 1 (w64 x.1.1))
            | none =>
              let s1 := s.writeSpots dst bs
              .ok ((s1.putWord ent (setCounts e (entFill e) (entSpec e + n))).ordered o 0)))

/-- Pages pg to pg + n - 1 of head h with new length L: their entries, where every position from len on lies within fill
and spec; none where one does not (R419). -/
def State.touchedPages (s : State) (ds : Desc) (h new : Nat) : Nat → Nat → Except State (State × Option (List (Nat × Nat × Word)))
  | 0, _ => .ok (s, some [])
  | n + 1, pg =>
    match ds.locate h (max ds.len (128 * pg)) with
    | .at_ ent _ => do
      let (s, e) ← s.getWord 1 ent .read
      if entFill e + entSpec e < min 128 (new - 128 * pg) then .ok (s, none)
      else
        let (s, r) ← s.touchedPages ds h new n (pg + 1)
        .ok (s, r.map fun l => (ent, pg, e) :: l)
    | _ => .ok (s, none)

/-- As touchedPages for heads h on, n of them. -/
def State.touchedHeads (s : State) (ds : Desc) (new : Nat) : Nat → Nat → Except State (State × Option (List (Nat × Nat × Word)))
  | 0, _ => .ok (s, some [])
  | n + 1, h => do
    let (s, r) ← s.touchedPages ds h new ((new - 1) / 128 + 1 - ds.len / 128) (ds.len / 128)
    match r with
    | none => .ok (s, none)
    | some l =>
      let (s, m) ← s.touchedHeads ds new n (h + 1)
      .ok (s, m.map fun m => l ++ m)

/-- The slots that a commit to a new length releases, per head: entry VA, tail entry VA, and whether it is the oldest
(R135). -/
def Desc.released (ds : Desc) (new : Nat) : List (Nat × Nat × Bool) :=
  if ds.wlen == 0 then []
  else
    let lo := (ds.len - ds.wlen) / 128
    let lo2 := min ((new - ds.wlen) / 128) (lo + ds.cap)
    (List.range (ds.nh + 1)).flatMap fun h =>
      (List.range (lo2 - lo)).map fun k =>
        (ds.parray + 8 * (h * ds.cap + (lo + k) % ds.cap), ds.tarray + 8 * h, k == 0)

/-- One released slot (R135): the oldest takes the tail page where positions lie in it; the others are emptied. -/
def State.releaseSlot (s : State) (x : Nat × Nat × Bool) : State :=
  let word := fun ea => match s.check s.req ea 8 .rmw with | .ok p => w64 (s.rdFor s.req p 8) | _ => 0
  let se := word x.1
  let te := word x.2.1
  if x.2.2 && entFill te + entSpec te != 0 then (s.putWord x.1 te).putWord x.2.1 (setCounts se 0 0)
  else s.putWord x.1 (setCounts se 0 0)

/-- KVCMT (R419, R135). The length that its first issue read decides, should it withhold: another length by then is status 6. -/
def execKvcmt (o : CFmt) (s : State) : Host.Outcome State Fault Refusal :=
  .next (s.guardedFor o [s.getG o.a] fun s => ran (do
    let a := (s.getG o.a).toNat
    let new := (s.getG o.b).toNat
    let done := fun (s : State) n => Except.ok ((s.modMe fun x => { x with read := none }).ordered o n)
    let (s, ds) ← s.getDesc a
    match ds with
    | none => done s 5
    | some d0 =>
      let ds := { d0 with len := s.me.read.getD d0.len }
      let s := s.modMe fun x => { x with read := some ds.len }
      if new < ds.len || 2 ^ 40 ≤ new then done s 1
      else if new == ds.len then done s 0
      else
        let (s, l) ← s.touchedHeads ds new (ds.nh + 1) 0
        match l with
        | none => done s 3
        | some l =>
          let (s, w2) ← s.getWord 1 (a + 16) .rmw
          if bits w2 39 0 != ds.len then done s 6
          else
            let slots := ds.released new
            let s ← s.updatable (l.map (·.1) ++ slots.flatMap fun x => [x.1, x.2.1])
            let s1 := s.putWord (a + 16) (setBits w2 39 0 new)
            let s2 := l.foldl (fun s x =>
              let fill := min 128 (new - 128 * x.2.1)
              s.putWord x.1 (setCounts x.2.2 fill (entFill x.2.2 + entSpec x.2.2 - fill))) s1
            done (slots.foldl (fun s x => s.releaseSlot x) s2) 0))

/-- The entries of head h from page pg on that hold speculative positions, up to the first that holds none (R420). -/
def State.specPages (s : State) (ds : Desc) (h : Nat) : Nat → Nat → Except State (State × List (Nat × Word))
  | 0, _ => .ok (s, [])
  | n + 1, pg =>
    match ds.locate h (max ds.len (128 * pg)) with
    | .at_ ent _ => do
      let (s, e) ← s.getWord 1 ent .read
      if entSpec e == 0 then .ok (s, [])
      else
        let (s, l) ← s.specPages ds h n (pg + 1)
        .ok (s, (ent, e) :: l)
    | _ => .ok (s, [])

/-- The entries of heads h on that a KVREJ empties, tail entries included. -/
def State.specHeads (s : State) (ds : Desc) : Nat → Nat → Except State (State × List (Nat × Word))
  | 0, _ => .ok (s, [])
  | n + 1, h => do
    let (s, l) ← s.specPages ds h (ds.cap + 1) (ds.len / 128)
    let tail := ds.tarray + 8 * h
    let (s, t) ← if ds.wlen == 0 || l.any (fun x => x.1 == tail) then Except.ok (s, [])
      else (s.getWord 1 tail .read).map fun r => (r.1, if entSpec r.2 == 0 then [] else [(tail, r.2)])
    let (s, r) ← s.specHeads ds n (h + 1)
    .ok (s, l ++ t ++ r)

/-- KVREJ (R420). -/
def execKvrej (o : CFmt) (s : State) : Host.Outcome State Fault Refusal :=
  .next (s.guardedFor o [s.getG o.a] fun s => ran (do
    let (s, ds) ← s.getDesc (s.getG o.a).toNat
    match ds with
    | none => .ok (s.ordered o (2 ^ 64 - 1))
    | some ds =>
      let (s, l) ← s.specHeads ds (ds.nh + 1) 0
      let s ← s.updatable (l.map (·.1))
      let s1 := l.foldl (fun s x => s.putWord x.1 (setBits x.2 44 37 0)) s
      .ok (s1.ordered o (l.foldl (fun n x => n + entSpec x.2) 0))))

end Sys2Proof.Machine
end

