-- ==== Sys2Proof/Machine/Stream.lean ====
section
/-! DEFINITION. Stream contexts, speculation, token rings and launches as instructions (18 R421-R425; 04 R75, R78, R79). -/

namespace Sys2Proof.Machine

/-! Stream contexts (R421). -/

/-- The state field of an entry (R78). -/
def Stc.code (e : Stc) : Nat := bits (e.word 2) 2 0

/-- The index of an instruction, and whether it is refused. -/
def State.scIndex (s : State) (o : CFmt) : Nat × Bool :=
  let i := bits (s.getG o.a) 15 0
  (i, !s.stcEn s.die || s.stcNent s.die < i || ((s.box s.die).entry i).state == .free)

/-- The state before, as SCTCH and SCEV report it: 0 for an index above nent. -/
def State.scBefore (s : State) (i : Nat) : Nat := if s.stcNent s.die < i then 0 else ((s.box s.die).entry i).code

/-- SCTCH (R421). -/
def execSctch (o : CFmt) (s : State) : Host.Outcome State Fault Refusal :=
  .next (s.guardedCtx o.gn o.gs fun s =>
    let (i, refused) := s.scIndex o
    let before := s.scBefore i
    if refused then s.status o (before + 512)
    else
      let (s1, t) := s.touchStc s.die i
      s1.status o (before + b2n (t == .noframe) * 256))

/-- SCLD: a touch, and a wait until the entry is RESIDENT or the touch has failed, whose result stands in the wait (R79, R421). -/
def execScld (o : CFmt) (s : State) : Host.Outcome State Fault Refusal :=
  .next (s.guardedCtx o.gn o.gs fun s =>
    match s.hart.wait with
    | .loaded v => s.status o v
    | _ =>
      let (i, refused) := s.scIndex o
      if refused then s.status o 0
      else match s.touchStc s.die i with
        | (s1, .free) => s1.status o 0
        | (s1, .noframe) => s1.status o 1
        | (s1, .wait) => s1.waits (.stream i)
        | (s1, .resident) => s1.status o (s1.frameAddr s1.die ((s1.box s1.die).entry i).frame))

/-- SCEV (R421). -/
def execScev (o : CFmt) (s : State) : Host.Outcome State Fault Refusal :=
  .next (s.guardedCtx o.gn o.gs fun s =>
    let (i, refused) := s.scIndex o
    let before := s.scBefore i
    let e := (s.box s.die).entry i
    if refused then s.status o (before + 512)
    else if e.state == .resident && e.holds == 0 then (s.evict s.die i).status o before
    else s.status o (before + b2n (e.holds != 0 || e.state == .restoring || e.state == .evicting) * 256))

/-- SCQRY: the word, whether or not the table is in use (R76, R421). -/
def execScqry (o : CFmt) (s : State) : Host.Outcome State Fault Refusal :=
  .next (s.guardedCtx o.gn o.gs fun s =>
    let i := bits (s.getG o.a) 15 0
    (s.setG o.d (if s.stcNent s.die < i then 0 else ((s.box s.die).entry i).word (o.f 1 0))).advance)

/-! Speculation (R422, R423). -/

/-- Accepted lanes before the first that is not, from lane i on, n of them, and the flags (R422). -/
def acceptRun (u q p : Lanes) : Nat → Nat → Nat × Fl
  | 0, _ => (0, 0)
  | n + 1, i =>
    let x := laneVal (vget u i 0)
    let y := laneVal (vget q i 0)
    let z := laneVal (vget p i 0)
    let (v, inv) := mulV x y
    if x == .nan || y == .nan || z == .nan || inv then (0, flNan)
    else if (match y with | .zero _ => true | _ => false) || !ltV false v z then (0, 0)
    else let (k, f) := acceptRun u q p n (i + 1); (k + 1, f)

/-- SPACC (R422). -/
def execSpacc (o : CFmt) (s : State) : Host.Outcome State Fault Refusal :=
  .next (s.guardedCtx o.gn o.gs fun s =>
    let n := o.f 6 0
    let (k, f) := acceptRun (s.readV o.a.toNat) (s.readV o.b.toNat) (s.readV o.c.toNat) n 0
    (s.addFlags f).status o (k + 256 * b2n (decide (k < n))))

/-- Max(p - q, 0), rounded once, RNE (R423). -/
def residualLane (p q : Lane) : Lane × Fl :=
  match addE (laneVal p) (laneVal q).flip 0 with
  | .num true _ _ _ => (0, 0)
  | .inf true _ => (0, 0)
  | .zero _ => (0, 0)
  | e => e.lane 0

/-- The first lane at which the running sum exceeds a bound, and the flags of the sums made (R423). -/
def drawLane (bound : FNum) : Nat → Lane → List Lane → Option Nat × Fl
  | _, _, [] => (none, 0)
  | i, c, r :: rs =>
    let (c1, f) := addLane c r 0
    if ltV false bound (laneVal c1) then (some i, f)
    else let (j, g) := drawLane bound (i + 1) c1 rs; (j, f ||| g)

/-- The draw of SPRES from residual lanes under u (R423); a NaN in u x T is seen (R240). -/
def sampleLane (r : List Lane) (u : Lane) : Nat × Fl :=
  let (t, f) := treeSum 0 6 r
  if r.any (fun x => laneVal x == .nan) || laneVal t == .nan then (64, f ||| flNan)
  else match laneVal t with
    | .inf _ => (64, f ||| flInvalid)
    | .zero _ => (64, f)
    | tv =>
      let (j, g) := drawLane (mulV (laneVal u) tv).1 0 0 r
      (j.getD ((r.zipIdx.filter fun e => ltV false (.zero false) (laneVal e.1)).foldl (fun _ e => e.2) 0),
        f ||| g ||| flIf (laneVal u == .nan) flNan)

/-- SPRES (R423). -/
def execSpres (o : CFmt) (s : State) : Host.Outcome State Fault Refusal :=
  .next (s.guardedCtx o.gn o.gs fun s =>
    match s.regWait [o.a, o.b] (BitVec.allOnes 64) with
    | some j => s.waitLink j
    | none =>
      let p := s.readV o.a.toNat
      let q := s.readV o.b.toNat
      let rs := (List.range 64).map fun i => residualLane (vget p i 0) (vget q i 0)
      let (k, f) := sampleLane (rs.map (·.1)) ((s.getG o.c).setWidth 32)
      (s.addFlags (rs.foldl (fun x r => x ||| r.2) f)).status o k)

/-! Token rings (R424). -/

/-- TRPUB (R424). -/
def execTrpub (o : CFmt) (s : State) : Host.Outcome State Fault Refusal :=
  .next (s.guardedFor o [s.getG o.a] fun s =>
    let k := o.f 6 0
    match s.regWait [o.b] (maskOf fun i => i < k) with
    | some j => s.waitLink j
    | none => ran (do
      let ea := (s.getG o.a).toNat
      let lanes := s.readV o.b.toNat
      let (s, v) ← s.getLine ea
      let w := wordsOf v
      let c0 := (w 0).toNat
      let lsize := bits (w 1) 4 0
      if lsize < 4 || 24 < lsize || bits (w 1) 63 5 != 0 || [3, 4, 5, 6, 7].any fun i => w i != 0 then
        .ok (s.status o (2 ^ 64 - 2))
      else if 2 ^ lsize < (w 0 + w64 k - w 2).toNat then .ok (s.status o (2 ^ 64 - 1))
      else
        let (s, ps) ← s.spots 1 .write 4 false ((List.range k).map fun i => (ea + 64 + 4 * ((c0 + i) % 2 ^ lsize), 4))
        let (s, _) ← s.spot 1 ea 8 8 .write false
        let s1 := s.writeSpots ps ((List.range k).flatMap fun i => leOf 4 (vget lanes i 0).toNat)
        let s2 := match s1.check s1.req ea 8 .write with
          | .ok p => (s1.noteStore ea p 8).wr p (leOf 8 (c0 + k))
          | _ => s1
        .ok (s2.status o (c0 + k))))

/-! Launches (R425). -/

/-- LAUNCH (R425). Before start step 5 the record waits in its berth until step 5 (R51; entry 48). -/
def execLaunch (o : CFmt) (s : State) : Host.Outcome State Fault Refusal :=
  .next (s.guardedFor o [s.getG o.a] fun s => ran (do
    let ea := (s.getG o.a).toNat
    let d := if o.imm.getLsbD 10 then s.die else o.f 9 8
    let q := o.f 2 0
    let (s, ps) ← s.spots 1 .read 64 false [(ea, 64)]
    let (s, bs) ← s.readSpots 1 ps
    let record : Vector Word 8 := Vector.ofFn fun i => wordAt bs (8 * i.val)
    .ok (if !s.qEnabled d q then s.status o 2
      else if 4 ≤ ((s.box d).queue q).berth.length then s.status o 1
      else ((s.modQueue d q fun x => { x with berth := x.berth ++ [record] }).status o 0).postTake d)))

end Sys2Proof.Machine
end

