-- ==== Sys2Proof/Machine/System.lean ====
section
/-! DEFINITION. The system group (18 R426-R434; 12 R281): traps, control and status registers, time, barriers, saved
contexts, translation and configuration. -/

namespace Sys2Proof.Machine

/-- TRAP (R427). -/
def execTrap (o : CFmt) (s : State) : Host.Outcome State Fault Refusal :=
  .next (s.guarded o.gn o.gs fun s => s.trap 10 0 (o.imm.setWidth 64))

/-- BKPT (R427). -/
def execBkpt (o : CFmt) (s : State) : Host.Outcome State Fault Refusal :=
  .next (s.guarded o.gn o.gs fun s => s.trap 11 0 0)

/-- ERET (R281): with no trap active it is ILLEGAL whatever the guard holds (R295). -/
def execEret (o : CFmt) (s : State) : Host.Outcome State Fault Refusal :=
  .next (if !s.hart.cause.active then s.illegal
    else s.guarded o.gn o.gs fun s => match s.cur with
      | .core n => s.modCore n fun x => { x with
          hart := { x.hart with pc := x.hart.epc, cause := { x.hart.cause with active := false }, wait := .run } }
      | .ctx d t c =>
        if !s.me.links.isEmpty then s.waits .settle
        else match s.regionAt d t with
          | none => s.advance
          | some i => s.eretCtx d t c i)

/-! Control and status registers (R58, R428). -/

/-- Whether a CSR instruction is a settle point (R263, R428). -/
def csrSettles (n : Nat) (write : Bool) : Bool := n == 3 || n == 0x11 || (write && (n == 1 || n == 2))

/-- The checks of a CSR instruction on the register its imm32 names (R428): ILLEGAL and PRIV whatever the guard holds (R295). -/
def State.csrOp (s : State) (o : CFmt) (write : Bool) (k : Nat → State → State) : State :=
  let n := o.f 11 0
  if !knownCsr n || (s.onCore && 0x400 ≤ n && n < 0xC00) then s.illegal
  else if !s.isSup && 0x400 ≤ n && (write || !(tileCsr n && n != 0x401)) then s.trap 2 0 (w64 n)
  else s.guarded o.gn o.gs fun s =>
    if csrSettles n write && !s.onCore && !s.me.links.isEmpty then s.waits .settle else k n s

/-- CSRR (R428). -/
def execCsrr (o : CFmt) (s : State) : Host.Outcome State Fault Refusal :=
  .next (s.csrOp o false fun n s => (s.setG o.d (s.readCsr n)).advance)

/-- A write of a CSR: f gives the value for RW fields, g the bits for W1C and WO fields, from the old value and g[a]. -/
def State.csrWrite (s : State) (o : CFmt) (f g : Word → Word → Word) : State :=
  s.csrOp o true fun n s =>
    let old := s.readCsr n
    let x := s.getG o.a
    ((s.setG o.d old).advance).writeCsr n (f old x) (g old x)

/-- CSRW (R428). -/
def execCsrw (o : CFmt) (s : State) : Host.Outcome State Fault Refusal :=
  .next (s.csrWrite o (fun _ x => x) fun _ x => x)

/-- CSRS (R428). -/
def execCsrs (o : CFmt) (s : State) : Host.Outcome State Fault Refusal :=
  .next (s.csrWrite o (fun old x => old ||| x) fun _ x => x)

/-- CSRC (R428). -/
def execCsrc (o : CFmt) (s : State) : Host.Outcome State Fault Refusal :=
  .next (s.csrWrite o (fun old x => old &&& ~~~x) fun _ _ => 0)

/-! Time (R429). -/

/-- TIME (R429). -/
def execTime (o : CFmt) (s : State) : Host.Outcome State Fault Refusal :=
  .next (s.guarded o.gn o.gs fun s => (s.setG o.d s.sys.time).advance)

/-- WAITT: a context that parks becomes ready at WAITT_EXPIRY, or when it next looks (R429). -/
def execWaitt (o : CFmt) (s : State) : Host.Outcome State Fault Refusal :=
  .next (s.guarded o.gn o.gs fun s =>
    let t := s.getG o.a
    if t ≤ s.sys.time then s.advance
    else if s.onCore then s.waits (.time t)
    else (s.waits (.time t)).post (t - s.sys.time).toNat .waittExpiry (.tileIdx { die := s.die, tile := s.tix, i := s.cix }))

/-- WAITT_EXPIRY: a parked context whose time has come goes on at the next instruction (R429); one whose region is
being saved issues its WAITT again. -/
def execWaittExpiry (s : State) : Host.Outcome State Fault Refusal :=
  .next (match s.arg with
    | .tileIdx o =>
      let x := s.ctx o.die o.tile o.i
      (match x.hart.wait with
       | .time t =>
         if !x.live || !s.tileIssues o.die o.tile then s
         else if t ≤ s.sys.time then
           s.modHartOf (.ctx o.die o.tile o.i) fun h => { h with pc := h.pc + 8, wait := .run }
         else s.post (t - s.sys.time).toNat .waittExpiry s.arg
       | _ => s)
    | _ => s)

/-! Barriers (R430). -/

/-- BAR (R430): the arrival that completes a generation lets every waiting context go on. -/
def execBar (o : CFmt) (s : State) : Host.Outcome State Fault Refusal :=
  .next (s.guardedCtx o.gn o.gs fun s =>
    match s.mySlotIx with
    | none => s.advance
    | some i =>
      let id := o.f 3 0
      let b := (s.slot s.die i).bars.get id .init
      let n := if b.count == 0 then o.f 25 16 + 1 else b.n
      if n ≤ b.count + 1 then
        let s1 := s.modSlot s.die i fun r => { r with bars := r.bars.set id .init }
        (b.waiting.foldl (fun s w =>
          s.modCtx s.die w.1 w.2 fun x =>
            { x.orderLate false with hart := { x.hart with pc := x.hart.pc + 8, wait := .run } }) (s1.orderLate false)).advance
      else
        (s.modSlot s.die i fun r => { r with
          bars := r.bars.set id { count := b.count + 1, n := n, waiting := (s.tix, s.cix) :: b.waiting } }).waits (.bar id))

/-! Saved contexts (R431). -/

/-- The pieces of the area at g[a], on path 0x0, 0x1 or 0x2 (R431). -/
def State.areaSpots (s : State) (o : CFmt) (a : Acc) : Except State (State × List ((Nat × Nat) × Place)) :=
  let ea := (s.getG o.a).toNat
  if ea % 64 != 0 then .error (s.trap 3 1 (w64 ea))
  else if 3 ≤ ea / 2 ^ 60 then .error (s.trap 4 1 (w64 ea))
  else s.spots 1 a 64 false (spans 384 ea 24576)

/-- CTXSV (R431). -/
def execCtxsv (o : CFmt) (s : State) : Host.Outcome State Fault Refusal :=
  .next (s.guardedSup o.gn o.gs false fun s =>
    if !s.me.links.isEmpty then s.waits .settle
    else ran (do
      let (s, ps) ← s.areaSpots o .write
      let x := { s.me with hart := { s.me.hart with wait := .run } }
      let img := s.myTile.image x (s.pc + 8) true (fun r => s.seen s.die s.tix s.cix r (vget x.v r .zero)) ++ chainBlock [] x.cut
      .ok (s.writeSpots ps img).advance))

/-- CTXLD (R431, R271, R272). Its latches raise no flags: the area holds none (entry 54). -/
def execCtxld (o : CFmt) (s : State) : Host.Outcome State Fault Refusal :=
  .next (s.guardedSup o.gn o.gs false fun s => ran (do
    let (s, ps) ← s.areaSpots o .read
    let (s, bs) ← s.readSpots 1 ps
    if !bit (wordAt bs 8) 16 then .error (s.trap 4 1 (s.getG o.a))
    else match linksOf (bs.drop 12288) with
      | .error k => .error (s.trap 13 0 (w64 k))
      | .ok ls =>
        let s1 := s.modMe fun x => let y := x.load bs 6 []; { y with links := dropCut ls y.cut }
        .ok (s1.postSettles s.die s.tix s.cix s1.me.links.length)))

/-! Translations (R432). -/

/-- The cached translations that match removed, the issuer's earlier stores being performed (R432). -/
def State.tlbi (s : State) (o : CFmt) (f : State → TlbEntry → Bool) : State :=
  s.guardedSup o.gn o.gs true fun s =>
    ({ s.orderLate false with tlb := s.tlb.filter fun e => !f s e }).advance

/-- Whether a translation lies in the 64 KiB fragment of g[a] (R432). -/
def State.inFragment (s : State) (o : CFmt) (e : TlbEntry) : Bool := e.vpn * e.size / 2 ^ 16 == bits (s.getG o.a) 56 16

/-- Whether a translation is of the ASID in g[b] (R432). -/
def State.ofAsid (s : State) (o : CFmt) (e : TlbEntry) : Bool := e.asid == bits (s.getG o.b) 15 0

/-- TLBI.all (R432). -/
def execTlbiAll (o : CFmt) (s : State) : Host.Outcome State Fault Refusal := .next (s.tlbi o fun _ _ => true)

/-- TLBI.asid (R432). -/
def execTlbiAsid (o : CFmt) (s : State) : Host.Outcome State Fault Refusal := .next (s.tlbi o fun s e => s.ofAsid o e)

/-- TLBI.va (R432). -/
def execTlbiVa (o : CFmt) (s : State) : Host.Outcome State Fault Refusal :=
  .next (s.tlbi o fun s e => s.ofAsid o e && s.inFragment o e)

/-- TLBI.vall (R432). -/
def execTlbiVall (o : CFmt) (s : State) : Host.Outcome State Fault Refusal := .next (s.tlbi o fun s e => s.inFragment o e)

/-! Configuration (R433). -/

/-- CFGLD (R433). -/
def execCfgld (o : CFmt) (s : State) : Host.Outcome State Fault Refusal :=
  .next (s.guardedSup o.gn o.gs true fun s =>
    let d := o.f 9 8
    let i := o.f 3 0
    if (s.slot d i).owner.isSome then s.status o 3
    else match s.loadConfig d i (s.getG o.a).toNat (o.imm.getLsbD 4) with
      | .wait => s.waits (.load d i)
      | .ok t => (t.status o 0).settle d
      | .status 259 => s.trap 4 1 (s.getG o.a)
      | .status n => s.status o n)

/-- TRGLD (R433). -/
def execTrgld (o : CFmt) (s : State) : Host.Outcome State Fault Refusal :=
  .next (s.guardedSup o.gn o.gs false fun s => ran (do
    let (s, ps) ← s.spots 1 .read 1 false (spans 2 (s.getG o.a).toNat 16)
    let (s, bs) ← s.readSpots 1 ps
    let w0 := wordAt bs 0
    let w1 := wordAt bs 8
    let k := o.f 3 0
    .ok (if !trgOk w0 w1 then s.status o 2
      else if s.mySlot.state != .armed then s.status o 3
      else
        ((s.modMyTile fun t => { t with
          trg := vput (vput t.trg (2 * k) w0) (2 * k + 1) w1
          age := vput t.age k 0
          promo := vput t.promo k none
          onego := t.onego &&& ~~~(1#16 <<< k) }).post 1 .triggerFire (.tileRef { die := s.die, tile := s.tix })).status o 0)))

/-- HALT (R434). -/
def execHalt (o : CFmt) (s : State) : Host.Outcome State Fault Refusal :=
  .next (s.guardedSup o.gn o.gs true fun s =>
    if s.onCore then (if s.sys.evpend != 0 then s.advance else s.waits .halt)
    else if s.mySlot.state == .armed then s.waits .halt else s.advance)

end Sys2Proof.Machine
end

