-- ==== Sys2Proof/Machine/Loops.lean ====
section
/-! DEFINITION. Coaches as they travel (08 R168-R188, R197): the paths of R169, berths and exits, deliveries, merges, and the
pod loop's frames as a gateway sends them (02 R35-R38; 12 R290). COACH_HOP names a coach in transit, or the head of a send
queue, of a tile's returned coaches, or of a junction's released ones. -/

namespace Sys2Proof.Machine

/-! Stops and paths (R168, R169). -/

/-- Where a stop lies. -/
inductive Here where
  | tile (die t : Nat)
  | junc (die j : Nat)
  | gate
  deriving DecidableEq, Repr

/-- Stops of a loop. -/
def LoopId.size (l : LoopId) : Nat := match l with | .row .. => 17 | .die _ => 16 | .package => 9 | .pod => 1

/-- The place of a stop. -/
def hereOf (l : LoopId) (stop : Nat) : Here :=
  match l with
  | .row d r => if stop == 0 then .junc d r else .tile d (16 * r + stop - 1)
  | .die d => .junc d stop
  | .package => if stop == 8 then .gate else .junc (stop / 2) (8 * (stop % 2))
  | .pod => .gate

/-- The number of a junction; 64 for the gateway. -/
def Here.num (h : Here) : Nat := match h with | .tile .. => 0 | .junc d j => 16 * d + j | .gate => 64

/-- The die that counts a loss at a place (R184). -/
def Here.lossDie (h : Here) : Nat := match h with | .tile d _ => d | .junc d _ => d | .gate => 0

/-- This module's number. -/
def State.module (s : State) : Nat := bits s.sys.podcfg 5 0

/-- Whether a place is the stop that a resolved stop code names. -/
def State.atStop (s : State) (h : Here) (code : Word) : Bool :=
  codeModule code == s.module &&
    match h, codePlace code with
    | .tile d t, 0 => codeDie code == d && codeIndex code == t
    | .junc d j, 1 => codeDie code == d && codeIndex code == j
    | .gate, 2 => true
    | _, _ => false

/-- Row of a stop code's place on its die. -/
def codeRow (code : Word) : Nat := if codePlace code == 0 then codeIndex code / 16 else codeIndex code

/-- Part of a path: a loop, the stop where it is entered, and the stop where it is left. -/
structure Leg where
  loop : LoopId
  entry : Nat
  exit : Nat
  up : Bool
  deriving DecidableEq, Repr

/-- A leg in the direction of fewer hops, on a tie in rising order (R169). -/
def shortLeg (l : LoopId) (entry exit : Nat) : Leg :=
  let n := l.size
  { loop := l, entry := entry, exit := exit, up := (exit + n - entry) % n ≤ (entry + n - exit) % n }

/-- Whether the way downstream to a module has no more hops than upstream (R40). -/
def State.downFirst (s : State) (m : Nat) : Bool :=
  let size := bits s.sys.podcfg 22 16
  (m + size - s.module) % size ≤ (s.module + size - m) % size

/-- The next leg from a place towards a stop code (R169); at the stop itself a leg of no hops. -/
def State.legFrom (s : State) (h : Here) (code : Word) : Leg :=
  let inMod := codeModule code == s.module
  let exitPkg := if inMod && codePlace code != 2 then 2 * codeDie code + codeRow code / 8 else 8
  match h with
  | .tile d t =>
    if inMod && codePlace code == 0 && codeDie code == d && codeRow code == t / 16 then
      shortLeg (.row d (t / 16)) (t % 16 + 1) (codeIndex code % 16 + 1)
    else shortLeg (.row d (t / 16)) (t % 16 + 1) 0
  | .junc d j =>
    if inMod && codePlace code != 2 && codeDie code == d then
      if codeRow code == j then shortLeg (.row d j) 0 (if codePlace code == 0 then codeIndex code % 16 + 1 else 0)
      else shortLeg (.die d) j (codeRow code)
    else if j % 8 == 0 then shortLeg .package (2 * d + j / 8) exitPkg
    else shortLeg (.die d) j (j / 8 * 8)
  | .gate =>
    if inMod then shortLeg .package 8 exitPkg
    else { loop := .pod, entry := 0, exit := 0, up := s.downFirst (codeModule code) }

/-! Berths (R178). -/

/-- Coaches in the berths of a stop in a direction. -/
def State.berthed (s : State) (l : LoopId) (stop : Nat) (up : Bool) : Nat :=
  (s.transit.filter fun t => t.loop == l && t.stop == stop && t.up == up).length

/-- Whether some port of a pod link is up. -/
def State.podUp (s : State) (down : Bool) : Bool :=
  (List.range 4).any fun i => (s.net.ports.get (4 + (if down then i else 4 + i)) .init).up

/-- The leg onto the pod loop: in the direction kept since the coach turned, else turned where the link in its direction is down;
none where the coach must wait (R40, R169, R181). -/
def State.podLeg (s : State) (g : Leg) (turned : Option Bool) : Option (Leg × Option Bool) :=
  if g.loop != .pod then some (g, turned)
  else match turned with
    | some d => if s.podUp d then some ({ g with up := d }, some d) else none
    | none =>
      if s.podUp g.up then some (g, none) else if s.podUp (!g.up) then some ({ g with up := !g.up }, some (!g.up)) else none

/-- Whether a coach can enter a loop by a leg: both berths of its direction are free at the entry stop. -/
def State.canEnter (s : State) (g : Leg) : Bool := s.berthed g.loop g.entry g.up == 0

/-- A coach enters a loop. -/
def State.enter (s : State) (e : Entrant) (g : Leg) (turned : Option Bool) : State :=
  let (s1, id) := s.fresh
  let t : Transit := { id := id, coach := e.coach, loop := g.loop, stop := g.entry, up := g.up, exit := g.exit, code := e.code,
                       tried := false, passed := none, turned := turned, linked := false, plane := e.plane }
  let s2 : State := { s1 with transit := s1.transit ++ [t] }
  s2.post 2 .coachHop (.idxRef { i := id })

/-- A coach in transit changed. -/
def State.modTransit (s : State) (id : Nat) (f : Transit → Transit) : State :=
  { s with transit := s.transit.map fun t => if t.id == id then f t else t }

/-- A berth of the pod loop becomes free: the neighbour behind is to be told (R36). -/
def State.berthFreed (s : State) (t : Transit) : State :=
  if t.loop != .pod || !t.linked then s
  else if t.up then { s with net := { s.net with up := { s.net.up with freed := s.net.up.freed + 1 } } }
  else { s with net := { s.net with down := { s.net.down with freed := s.net.down.freed + 1 } } }

/-- A coach taken off its loop. -/
def State.takeOff (s : State) (t : Transit) : State :=
  let s1 : State := { s with transit := s.transit.filter fun u => u.id != t.id }
  s1.berthFreed t

/-- Whether a coach is the first to have come to its stop of those there in its direction: only that one acts (R180). -/
def State.first (s : State) (t : Transit) : Bool :=
  ((s.transit.find? fun u => u.loop == t.loop && u.stop == t.stop && u.up == t.up).map (·.id)).getD t.id == t.id

/-- The event of a coach in transit. -/
def State.postHop (s : State) (id : Nat) : State := s.post 2 .coachHop (.idxRef { i := id })

/-! Route planes (entry 22). -/

/-- The lowest-numbered slot whose depots hold the route-plane version of a coach (R91, R98). -/
def State.planeFor (s : State) (c : Coach) : Plane :=
  let v := bits (c.h 0) 10 7
  ((List.range 64).find? fun k => (s.slot (k / 16) (k % 16)).plane.any fun p => p.1 == v).map fun k =>
    (k / 16, k % 16)

/-- The region of a tile for a coach that arrives there (R182). -/
def State.regionFor (s : State) (d t : Nat) : Option Nat :=
  let on := (List.range 16).filter fun i => (s.slot d i).state != .empty && (s.slot d i).inRect t
  match on.find? fun i => (s.slot d i).state == .arming || (s.slot d i).state == .armed with
  | some i => some i
  | none => on.head?

/-- The plane by which a coach advances at a place. -/
def State.planeAt (s : State) (h : Here) (p : Plane) (c : Coach) : Plane :=
  let known := match p with | some x => some x | none => s.planeFor c
  match h with
  | .tile d t => (match s.regionFor d t with | some i => some (d, i) | none => known)
  | .junc .. => known
  | .gate => known

/-- The route entries of a plane, as the depots of its region hold them (R174). -/
def State.routesOf (s : State) (p : Plane) : List (Vector Word 8) := match p with | some (d, i) => (s.slot d i).heldRoutes | none => []

/-- What a coach becomes that advances at a place (R176, R177): it goes on, or is lost with a route fault or at its end. -/
inductive Onward where
  | on (e : Entrant)
  | ends
  | fault
  deriving DecidableEq, Repr

/-- Advance at a place. -/
def State.onward (s : State) (h : Here) (p : Plane) (c : Coach) : Onward :=
  let q := s.planeAt h p c
  match c.advance (s.routesOf q) with
  | .fault => .fault
  | .ends => .ends
  | .on c1 =>
    match s.nextStop (s.routesOf q) c1 with
    | none => .fault
    | some code => .on { coach := c1.departs, code := code, plane := q }

/-- A coach lost at a place: counted in the route field of SYS.KDROP, or at a region's stop with a route fault in its siding
(R177, R184). -/
def State.lose (s : State) (h : Here) (fault : Bool) (aq : Nat) (c : Coach) : State :=
  match h with
  | .tile d t =>
    (match fault, s.regionFor d t with
     | true, some i => s.side d i 6 aq t false c
     | _, _ => s.kdrop d 16)
  | .junc d _ => s.kdrop d 16
  | .gate => s.kdrop 0 16

/-! Exits (R179). -/

/-- Whether a coach is a contribution: kind 14 without the result flag (R190). -/
def Coach.contributes (c : Coach) : Bool := c.kind == 14 && !bit (c.h 0) 23

/-- The next loop and direction of a coach that goes on from a place to a stop code. -/
def State.wantsLeg (s : State) (h : Here) (code : Word) (turned : Option Bool) : List Nat :=
  let g := s.legFrom h code
  let up := ((s.podLeg g turned).map (·.1.up)).getD (turned.getD g.up)
  [3, (match g.loop with | .row _ r => r | .die _ => 16 | .package => 17 | .pod => 18), b2n up]

/-- The next loop and direction of a coach that advances at its stop: none where it ends there. -/
def State.wantsNext (s : State) (h : Here) (t : Transit) : List (List Nat) :=
  match s.onward h t.plane t.coach with
  | .on e => [s.wantsLeg h e.code none]
  | .ends => []
  | .fault => []

/-- What a coach needs at its exit point, as numbers that tell such needs apart: an arrival queue (with tee its next loop too), a
merge unit from its arm of the split, or a loop and direction (R179, R187; entry 44). A reduction takes every contribution. -/
def State.wants (s : State) (t : Transit) : List (List Nat) :=
  let h := hereOf t.loop t.stop
  if !s.atStop h t.code then [s.wantsLeg h t.code t.turned]
  else match codeAct t.code with
    | 0 => [0, codeAq t.code] :: (if codeTee t.code then s.wantsNext h t else [])
    | 1 => if t.coach.contributes then [] else s.wantsNext h t
    | 2 => if bit (t.coach.h 0) 21 then [[2, bits (t.coach.h 4) 63 48, bits (t.coach.h 0) 55 52]] else s.wantsNext h t
    | _ => s.wantsNext h t

/-- A coach without its count of hops, which is what changes on its way round the pod loop. -/
def Coach.noHops (c : Coach) : Coach := c.setF 0 35 28 0

/-- The coaches that passed their exit by: on the loops of the module, and on their way round the pod loop. -/
def State.passing (s : State) : List Transit := s.transit ++ s.net.around

/-- Whether a coach that passed this exit point earlier for one of the same needs has not left yet (R179). -/
def State.blocked (s : State) (t : Transit) : Bool :=
  s.passing.any fun y => y.id != t.id && y.loop == t.loop && y.exit == t.exit &&
    (match y.passed, t.passed with | some a, some b => decide (a < b) | some _, none => true | none, _ => false) &&
    (s.wants { y with stop := y.exit }).any fun w => (s.wants t).contains w

/-- A coach that cannot leave passes by. -/
def State.passBy (s : State) (t : Transit) : State :=
  let (s1, n) := s.fresh
  (s1.modTransit t.id fun t => { t with tried := true, passed := some (t.passed.getD n) }).postHop t.id

/-- The direction kept since it turned by a coach that goes on to a stop code: none towards a new stop. -/
def Transit.keeps (t : Transit) (code : Word) : Option Bool := if code == t.code then t.turned else none

/-- Whether a leg goes on in a coach's berth. -/
def Transit.stays (t : Transit) (g : Leg) : Bool := g.loop == t.loop && g.up == t.up && g.entry == t.stop

/-- Whether a coach at its stop can go on as an entrant now. -/
def State.canGo (s : State) (t : Transit) (e : Entrant) : Bool :=
  match s.podLeg (s.legFrom (hereOf t.loop t.stop) e.code) (t.keeps e.code) with
  | none => false
  | some (g, _) => t.stays g || s.canEnter g

/-- A coach leaves its loop and goes on as an entrant by its next leg, in the same direction without giving up its berth; it
passes by where the berths it needs are taken. -/
def State.goOn (s : State) (t : Transit) (e : Entrant) : State :=
  match s.podLeg (s.legFrom (hereOf t.loop t.stop) e.code) (t.keeps e.code) with
  | none => s.passBy t
  | some (g, turned) =>
    if t.stays g then
      (s.modTransit t.id fun t => { t with
        coach := e.coach, code := e.code, plane := e.plane, exit := g.exit, tried := g.exit == t.stop && e.code == t.code, passed := none
        turned := turned }).postHop t.id
    else if s.canEnter g then (s.takeOff t).enter e g turned
    else s.passBy t

/-- A coach advances at its stop: an unchanged passage of R175, R186 or R190. -/
def State.passOn (s : State) (t : Transit) : State :=
  let h := hereOf t.loop t.stop
  match s.onward h t.plane t.coach with
  | .on e => s.goOn t e
  | .ends => (s.takeOff t).lose h false 0 t.coach
  | .fault => (s.takeOff t).lose h true 0 t.coach

/-! Frames to a neighbour (R35-R38, R290). -/

/-- The pattern in place of a poisoned flit (R290). -/
def poisonFlit : List Byte := (List.replicate 8 (leOf 8 0xDEAD0BADDEAD0BAD)).flatten

/-- The flits of a coach on the pod loop. -/
def Coach.flitsOf (c : Coach) : List (List Byte) :=
  wordsLe c.hdr.toList :: (List.range (ceilDiv c.plen 64)).map fun i =>
    if c.pois.contains i then poisonFlit else padTo 64 (c.pay.drop (64 * i))

/-- A pod link by its direction. -/
def Net.link (n : Net) (down : Bool) : PodLink := if down then n.down else n.up
/-- The state with a pod link changed. -/
def State.modLink (s : State) (down : Bool) (f : PodLink → PodLink) : State :=
  { s with net := if down then { s.net with down := f s.net.down } else { s.net with up := f s.net.up } }

/-- The live ports of a link: loop ports L0 to L7. -/
def State.livePorts (s : State) (down : Bool) : List Nat :=
  ((List.range 4).map fun i => if down then i else 4 + i).filter fun p => (s.net.ports.get (4 + p) .init).up

/-- A frame of a link with its header filled in: type, sequence number, acknowledgement and credit (R36). -/
def State.frameOf (s : State) (down : Bool) (type seq : Nat) (flits : List (List Byte)) : FrameIn :=
  let l := s.net.link down
  let ports := s.livePorts down
  let p := ports.getD (seq % max 1 ports.length) 0
  { dst := Config.peerMac p, src := Config.portMac p, port := p, fcsOk := true, etype := BitVec.ofNat 16 (bits s.sys.podcfg 47 32)
    w0 := w64 ((l.rseq + 2 ^ 24 - 1) % 2 ^ 24 * 2 ^ 40 + seq % 2 ^ 24 * 2 ^ 16 + flits.length * 256 + type)
    w1 := w64 (l.freed % 65536 * 65536 + s.module), flits := flits }

/-- A frame sent: it carries the acknowledgement and the credit. -/
def State.sendFrame (s : State) (down : Bool) (f : FrameIn) : State :=
  (s.modLink down fun l => { l with freed := 0, unacked := false }).emit (.frame down f)

/-- Lists of up to n items. -/
def chunks {α : Type} (n : Nat) : Nat → List α → List (List α)
  | 0, _ => []
  | k + 1, l => if l.isEmpty then [] else l.take n :: chunks n k (l.drop n)

/-- A data frame sent and kept for replay (R37). -/
def State.sendData (s : State) (down : Bool) (flits : List (List Byte)) : State :=
  let l := s.net.link down
  let f := s.frameOf down 0 l.seq flits
  let s1 := (s.sendFrame down f).modLink down fun l => { l with
    seq := (l.seq + 1) % 2 ^ 24, replay := l.replay ++ [f], sentAt := if l.replay.isEmpty then s.sys.clock else l.sentAt }
  if l.replay.isEmpty then s1.post 20000 .replayTimeout (.dirRef { down := down }) else s1

/-- Whether a coach can go over a link: a berth there and room in the replay buffer. -/
def State.canSend (s : State) (down : Bool) (c : Coach) : Bool :=
  let l := s.net.link down
  s.podUp down && 0 < l.credit && l.replay.length + ceilDiv c.flits 64 ≤ 256

/-- A coach goes over a pod link: its flits in frames of its own (entry 44). One that goes round past its own module's gateway is
remembered (R179). -/
def State.overLink (s : State) (t : Transit) : State :=
  let s1 := (chunks 64 8 t.coach.flitsOf).foldl (fun s fs => s.sendData t.up fs)
    ((s.takeOff t).modLink t.up fun l => { l with credit := l.credit - 1 })
  if t.tried then { s1 with net := { s1.net with around := s1.net.around ++ [t] } } else s1

/-- A coach on the pod loop whose way goes on over its link: over the link, or turned, or onto the package loop to wait there, or
it waits for a berth (R40, R169, R181). -/
def State.podAway (s : State) (t : Transit) : State :=
  let e : Entrant := { coach := t.coach, code := t.code, plane := t.plane }
  if s.podUp t.up then (if s.canSend t.up t.coach then s.overLink t else s.postHop t.id)
  else
    let g : Leg := { loop := .pod, entry := 0, exit := 0, up := !t.up }
    if t.turned.isNone && s.podUp (!t.up) then (if s.canEnter g then (s.takeOff t).enter e g (some (!t.up)) else s.postHop t.id)
    else if s.canEnter (shortLeg .package 8 8) then (s.takeOff t).enter e (shortLeg .package 8 8) t.turned
    else s.postHop t.id

/-- A coach on the pod loop turns back at the gateway, where it passes by its exit: it keeps its place among those that passed (R40, R179,
R181). -/
def State.turnBack (s : State) (t : Transit) : State :=
  let s1 : State := { s with
    transit := (s.transit.filter fun u => u.id != t.id) ++ [{ t with up := !t.up, turned := some (!t.up), linked := false }] }
  (s1.berthFreed t).postHop t.id

/-- A coach on the pod loop that can neither leave it nor go on stands behind the others at the gateway, and tries again (R181). -/
def State.waitHere (s : State) (t : Transit) : State :=
  ({ s with transit := (s.transit.filter fun u => u.id != t.id) ++ [{ t with tried := false }] } : State).postHop t.id

/-- A coach on the pod loop at the gateway (R169, R179, R181): at its module it leaves the loop or passes by, round the pod loop where
a link is up, turned where its own is down; else it goes on. -/
def State.podHop (s : State) (t : Transit) : State :=
  if codeModule t.code != s.module then s.podAway t
  else if !t.tried then
    (if s.blocked t then s.passBy t else s.goOn t { coach := t.coach, code := t.code, plane := t.plane })
  else if s.podUp t.up then s.podAway t
  else if t.turned.isNone && s.podUp (!t.up) && s.berthed .pod 0 (!t.up) == 0 then s.turnBack t
  else s.waitHere t

/-! Hops (R178). -/

/-- A coach that enters a stop: one more hop, to 255 (R169). -/
def Coach.hopped (c : Coach) : Coach := c.setF 0 35 28 (stick (bits (c.h 0) 35 28 + 1) 255)

/-- A coach moves to the next stop of its loop where a berth is free there, behind the coaches that stand there. -/
def State.moveOn (s : State) (t : Transit) : State :=
  let n := t.loop.size
  let next := if t.up then (t.stop + 1) % n else (t.stop + n - 1) % n
  if s.berthed t.loop next t.up < 2 then
    ({ s with transit := (s.transit.filter fun u => u.id != t.id) ++ [{ t with stop := next, tried := false, coach := t.coach.hopped }] } :
      State).postHop t.id
  else s.postHop t.id

/-- A coach whose header flit is poisoned is dropped, counted, and reported to the supervisor (R290). -/
def State.dropBad (s : State) (h : Here) : State := (s.kdrop h.lossDie 16).inform 2 0

/-- A hop of a coach in transit. -/
def State.hop (s : State) (t : Transit) : State :=
  if t.coach.hbad then (s.takeOff t).dropBad (hereOf t.loop t.stop)
  else if !s.first t then s.postHop t.id
  else if t.loop == .pod then s.podHop t
  else if t.stop != t.exit || t.tried then s.moveOn t
  else if s.blocked t then s.passBy t
  else if s.atStop (hereOf t.loop t.stop) t.code then
    match codeAct t.code with
    | 0 => s.post 0 .coachDelivery (.idxRef { i := t.id })
    | 1 => s.post 0 .reduce (.idxRef { i := t.id })
    | 2 => s.post 0 .merge (.idxRef { i := t.id })
    | _ => s.passOn t
  else s.goOn t { coach := t.coach, code := t.code, plane := t.plane }

/-- The head of a queue of entrants at a place enters its loop where it can: the rest of the queue. -/
def State.takeIn (s : State) (h : Here) (l : List Entrant) : State × List Entrant :=
  match l with
  | [] => (s, [])
  | e :: r =>
    match s.podLeg (s.legFrom h e.code) none with
    | none => (s, e :: r)
    | some (g, turned) => if s.canEnter g then (s.enter e g turned, r) else (s, e :: r)

/-- The number under which a tile's returned coaches move. -/
def backId (d t : Nat) : Nat := 2 ^ 32 + 2 ^ 16 + d * 256 + t
/-- The number under which a junction's released coaches move. -/
def juncId (j : Nat) : Nat := 2 ^ 33 + j

/-- The place of a junction's number. -/
def juncHere (j : Nat) : Here := if j == 64 then .gate else .junc (j / 16) (j % 16)

/-- The released coaches of a junction enter their loops, each behind those before it for the same loop and direction; a
result's slot is free once it has entered (R178, R191). -/
def State.enterOut (s : State) (j : Nat) : List (Entrant × Option Nat) → List Leg → State × List (Entrant × Option Nat)
  | [], _ => (s, [])
  | (e, rid) :: r, taken =>
    let g := s.legFrom (juncHere j) e.code
    let busy := taken.any fun k => k.loop == g.loop && k.up == g.up
    match s.podLeg g none with
    | some (k, turned) =>
      if !busy && s.canEnter k then
        let s1 := s.enter e k turned
        let s2 := match rid with
          | some n => (s1.modJunc j fun x => { x with red := x.red.filter fun a => !(a.rid == n && a.closing) }).post 0
              .junctionSidingRelease (.idxRef { i := j })
          | none => s1
        s2.enterOut j r taken
      else let (s1, l) := s.enterOut j r (g :: taken); (s1, (e, rid) :: l)
    | none => let (s1, l) := s.enterOut j r (g :: taken); (s1, (e, rid) :: l)

/-- The coaches that wait at a junction enter their loops where they can; what is left hops again. -/
def State.leaveJunction (s : State) (j : Nat) : State :=
  let (s1, l) := s.enterOut j (s.junc j).out []
  let s2 := s1.modJunc j fun x => { x with out := l }
  if l.isEmpty then s2 else s2.post 4 .coachHop s.arg

/-- The coaches that a tile sends, or that came back to it, enter their loops where they can; what is left hops again. -/
def State.leaveTile (s : State) (k d t : Nat) : State :=
  if k < 2 ^ 16 then
    let (s1, l) := s.takeIn (.tile d t) (s.tile d t).sendq
    let s2 := s1.modTile d t fun x => { x with sendq := l }
    if l.isEmpty then s2 else s2.post 4 .coachHop s.arg
  else
    let (s1, l) := s.takeIn (.tile d t) (s.tile d t).back
    let s2 := s1.modTile d t fun x => { x with back := l }
    if l.isEmpty then s2 else s2.post 4 .coachHop s.arg

/-- The number under which the coaches that wait at a pod link move. -/
def linkId (down : Bool) : Nat := 2 ^ 34 + b2n down

/-- The first coach that came over a link enters the gateway's berths where both are free; it travels on in the direction away from
the link, which it has turned to where that is not the one of fewer hops (R178, R40; entry 44). One that went round the pod loop
keeps its place among those that passed by. -/
def State.leaveLink (s : State) (down : Bool) : State :=
  match (s.net.link down).held with
  | [] => s
  | e :: r =>
    let g : Leg := { loop := .pod, entry := 0, exit := 0, up := !down }
    if !s.canEnter g then s.post 4 .coachHop s.arg
    else
      let off := codeModule e.code != s.module && s.downFirst (codeModule e.code) == down
      let back := s.net.around.find? fun y => y.up == !down && y.coach.noHops == e.coach.noHops
      let (s1, id) := (s.modLink down fun l => { l with held := r }).fresh
      let t : Transit := { id := id, coach := e.coach, loop := .pod, stop := 0, up := !down, exit := 0, code := e.code, tried := false
                           passed := back.bind (·.passed), turned := if off then some (!down) else none
                           linked := true, plane := e.plane }
      let s2 : State := { s1 with
        transit := s1.transit ++ [t]
        net := { s1.net with around := s1.net.around.filter fun y => back.map (·.id) != some y.id } }
      let s3 := s2.postHop id
      if r.isEmpty then s3 else s3.post 4 .coachHop s.arg

/-- COACH_HOP. -/
def execCoachHop (s : State) : Host.Outcome State Fault Refusal :=
  .next (match s.arg with
    | .idxRef o =>
      if 2 ^ 34 ≤ o.i then s.leaveLink (o.i == linkId true)
      else if 2 ^ 33 ≤ o.i then s.leaveJunction (o.i - 2 ^ 33)
      else if 2 ^ 32 ≤ o.i then s.leaveTile (o.i - 2 ^ 32) ((o.i - 2 ^ 32) / 256 % 4) ((o.i - 2 ^ 32) % 256)
      else match s.transit.find? fun t => t.id == o.i with
        | none => s
        | some t => s.hop t
    | _ => s)

/-! Deliveries (R182-R188). -/

/-- Flits of the coaches in an arrival queue. -/
def queueFlits (q : List Coach) : Nat := q.foldl (fun n c => n + c.flits) 0

/-- What R182 makes of a coach at a compute tile. -/
inductive Admission where
  | noreg
  | side (slot reason : Nat)
  | control (slot : Nat)
  | queue (slot : Nat)
  deriving DecidableEq, Repr

/-- The checks of R182. -/
def State.admission (s : State) (d t : Nat) (c : Coach) : Admission :=
  match s.regionFor d t with
  | none => .noreg
  | some i =>
    let st := (s.slot d i).state
    if st != .arming && st != .armed then .side i 4
    else if c.malformed then .side i 6
    else if bits (c.h 0) 10 7 != (s.tile d t).rver then .side i 1
    else if bits (c.h 0) 14 11 != (s.tile d t).tver then .side i 2
    else if c.kind == 15 then (if c.h 5 == 1 then .control i else .side i 6)
    else .queue i

/-- A coach at the end of an arrival queue; the tile arbitrates. -/
def State.intoQueue (s : State) (d t aq : Nat) (c : Coach) : State :=
  (s.modTile d t fun x => { x with arr := vput x.arr aq (vget x.arr aq [] ++ [c]) }).post 1 .triggerFire
    (.tileRef { die := d, tile := t })

/-- Whether an arrival queue has room for a coach (R436). -/
def State.queueRoom (s : State) (d t aq : Nat) (c : Coach) : Bool := queueFlits (vget (s.tile d t).arr aq []) + c.flits ≤ 512

/-- The exit iteration recorded: the smaller where one stands (R188). -/
def State.recordExit (s : State) (d i x : Nat) : State :=
  (s.modSlot d i fun r => { r with xv := true, x := if r.xv then min r.x x else x }).fireAll d i

/-- A coach at its tile with what R182 makes of it, act: its travel ends there, or with tee act befalls a copy and the coach goes
on, once the berths it needs are free (R176, R197). -/
def State.deliverAs (s : State) (t : Transit) (d k : Nat) (act : State → State) : State :=
  if !codeTee t.code then act (s.takeOff t)
  else
    let h : Here := .tile d k
    match s.onward h t.plane t.coach with
    | .ends => (act (s.takeOff t)).lose h false (codeAq t.code) t.coach
    | .fault => (act (s.takeOff t)).lose h true (codeAq t.code) t.coach
    | .on e => if s.canGo t e then (act s).goOn t e else s.passBy t

/-- A coach in transit at its tile: into its queue, or into the siding, or dropped (R182); it is on its home stop where its stop code
says so (R171). -/
def State.deliver (s : State) (t : Transit) (d k : Nat) : State :=
  let aq := codeAq t.code
  let c := t.coach.atHome (s.routesOf (s.planeAt (.tile d k) t.plane t.coach))
  match s.admission d k t.coach with
  | .noreg => s.deliverAs t d k fun s => s.kdrop d 32
  | .side i r => s.deliverAs t d k fun s => s.side d i r aq k false c
  | .control _ => s.post 0 .loopexit (.idxRef { i := t.id })
  | .queue _ => if s.queueRoom d k aq t.coach then s.deliverAs t d k fun s => s.intoQueue d k aq c else s.passBy t

/-- The coach in transit that an event names acts at its stop, where it stands at its exit: it passes by behind one that passed
earlier for the same need (R179). -/
def State.atAct (s : State) (id act : Nat) (k : Transit → State) : State :=
  match s.transit.find? fun t => t.id == id && t.stop == t.exit && !t.tried && codeAct t.code == act && s.atStop (hereOf t.loop t.stop) t.code with
  | none => s
  | some t => if s.blocked t then s.passBy t else k t

/-- COACH_DELIVERY. -/
def execCoachDelivery (s : State) : Host.Outcome State Fault Refusal :=
  .next (match s.arg with
    | .idxRef o => s.atAct o.i 0 fun t => (match hereOf t.loop t.stop with
         | .tile d k => s.deliver t d k
         | .junc .. => s
         | .gate => s)
    | _ => s)

/-- LOOPEXIT: with tee the control coach goes on, else it ends (R188). -/
def execLoopexit (s : State) : Host.Outcome State Fault Refusal :=
  .next (match s.arg with
    | .idxRef o => s.atAct o.i 0 fun t => (match hereOf t.loop t.stop with
         | .tile d k =>
           (match s.admission d k t.coach with
            | .control i => s.deliverAs t d k fun s => s.recordExit d i t.coach.iter
            | _ => s.deliver t d k)
         | .junc .. => s
         | .gate => s)
    | _ => s)

/-! Coaches that leave the siding (R185, R106, R197). -/

/-- A coach that goes on from a compute tile, by the loop as a send does. -/
def State.sendBack (s : State) (d t : Nat) (e : Entrant) : State :=
  (s.modTile d t fun x => { x with back := x.back ++ [e] }).post 2 .coachHop (.idxRef { i := backId d t })

/-- A coach leaves the siding: checked as though it had just arrived, into its queue or, where that is full, onto the loop. It
is the copy of a delivery: it does not go on beyond its queue. -/
def State.unside (s : State) (d i : Nat) (x : Sided) : State :=
  let c := x.coach.setF 0 22 22 1
  match s.admission d x.tile c with
  | .noreg => s.kdrop d 32
  | .side j r => s.side d j r x.aq x.tile false c
  | .control j => s.recordExit d j c.iter
  | .queue _ =>
    if s.queueRoom d x.tile x.aq c then s.intoQueue d x.tile x.aq c
    else s.sendBack d x.tile
      { coach := c, code := w64 (s.module * 2 ^ 24 + d * 2 ^ 22 + x.aq * 2 ^ 18 + x.tile), plane := some (d, i) }

/-- The siding records that satisfy a test leave the siding in an order; those that stay move down (R183). -/
def State.returnSided (s : State) (d i : Nat) (go : Sided → Bool) (order : List Sided → List Sided) : State :=
  let all := (s.slot d i).siding
  let s1 := (s.modSlot d i fun r => { r with siding := all.filter fun x => !go x }).putSiding d i
  (order (all.filter go)).foldl (fun s x => s.unside d i x) s1

/-! Merges (R186). -/

/-- A coach released at a junction: it advances and waits there to enter its next loop (R176, R178). -/
def State.releaseAt (s : State) (j : Nat) (p : Plane) (rid : Option Nat) (c : Coach) : State :=
  let h := juncHere j
  match s.onward h p c with
  | .on e =>
    (s.modJunc j fun x => { x with out := x.out ++ [(e, rid)] }).post 2 .coachHop (.idxRef { i := juncId j })
  | _ =>
    let s1 := s.lose h false 0 c
    match rid with
    | some n => (s1.modJunc j fun x => { x with red := x.red.filter fun a => !(a.rid == n && a.closing) }).post 0
        .junctionSidingRelease (.idxRef { i := j })
    | none => s1

/-- The part a unit expects after the present one. -/
def MergeUnit.step (u : MergeUnit) : MergeUnit :=
  if u.part + 1 < u.np then { u with part := u.part + 1 } else { u with iter := (u.iter + 1) % 65536, part := 0 }

/-- Part of a split. -/
def Coach.partNo (c : Coach) : Nat := bits (c.h 0) 55 52

/-- The held parts that are next in order, released one after another: the unit, and the coaches in order (R186). -/
def MergeUnit.drain : Nat → MergeUnit → MergeUnit × List Entrant
  | 0, u => (u, [])
  | n + 1, u =>
    match u.held.find? fun e => e.coach.iter == u.iter && e.coach.partNo == u.part with
    | none => (u, [])
    | some e => let (v, l) := MergeUnit.drain n ({ u with held := u.held.erase e }).step; (v, e :: l)

/-- The merge unit of a coach at a junction: its merge id's, or a free one; none where no unit is free. -/
def State.unitFor (s : State) (j : Nat) (c : Coach) : Option MergeUnit :=
  let mid := bits (c.h 4) 63 48
  let us := (s.junc j).mrg
  match us.find? fun u => u.mid == mid with
  | some u => some u
  | none => if 16 ≤ us.length then none else some { mid := mid, iter := c.iter, part := 0, np := max (bits (c.h 0) 59 56) 1, held := [] }

/-- A merge unit set at a junction; free where it holds nothing and expects part 0 after a release. -/
def State.putUnit (s : State) (j : Nat) (u : MergeUnit) (released : Bool) : State :=
  s.modJunc j fun x =>
    let rest := x.mrg.filter fun v => v.mid != u.mid
    { x with mrg := if released && u.held.isEmpty && u.part == 0 then rest else rest ++ [u] }

/-- The unit after the expected coach: it steps, and the held parts that follow are released at the junction. -/
def State.releaseHeld (s : State) (j : Nat) (u : MergeUnit) : State :=
  let (v, l) := MergeUnit.drain 33 u.step
  l.foldl (fun s e => s.releaseAt j e.plane none e.coach) (s.putUnit j v true)

/-- Whether a coach released at a merge stop can go on now: the berths it needs are free, and no released coach waits there for the
same loop and direction (R178, R179). -/
def State.canRelease (s : State) (j : Nat) (t : Transit) (e : Entrant) : Bool :=
  let w := s.wantsLeg (juncHere j) e.code none
  s.canGo t e && !(s.junc j).out.any fun x => s.wantsLeg (juncHere j) x.1.code none == w

/-- The expected coach of a merge unit: it advances and goes on at once, or passes by (R176, R179, R186). -/
def State.release1 (s : State) (j : Nat) (t : Transit) (u : MergeUnit) : State :=
  let h := hereOf t.loop t.stop
  match s.onward h t.plane t.coach with
  | .on e => if s.canRelease j t e then (s.goOn t e).releaseHeld j u else s.passBy t
  | .ends => ((s.takeOff t).lose h false 0 t.coach).releaseHeld j u
  | .fault => ((s.takeOff t).lose h true 0 t.coach).releaseHeld j u

/-- MERGE: the coach leaves its loop where its merge unit takes it (R186, R187). -/
def execMerge (s : State) : Host.Outcome State Fault Refusal :=
  .next (match s.arg with
    | .idxRef o => s.atAct o.i 2 fun t =>
         let j := (hereOf t.loop t.stop).num
         if !bit (t.coach.h 0) 21 then s.passOn t
         else match s.unitFor j t.coach with
           | none => s.passBy t
           | some u =>
             if t.coach.iter == u.iter && t.coach.partNo == u.part then s.release1 j t u
             else if u.held.length < 32 then
               (s.takeOff t).putUnit j { u with held := u.held ++ [{ coach := t.coach, code := t.code, plane := t.plane }] } false
             else s.passBy t
    | _ => s)

end Sys2Proof.Machine
end

