-- ==== Sys2Proof/Machine/Reduce.lean ====
section
/-! DEFINITION. Reduction slots at junctions and the gateway (08 R190-R193). -/

namespace Sys2Proof.Machine

/-- Word 5 of a contribution: its op. -/
def Coach.redOp (c : Coach) : Nat := bits (c.h 5) 2 0
/-- Its contributor index. -/
def Coach.redWho (c : Coach) : Nat := bits (c.h 5) 13 8
/-- Its timeout in us. -/
def Coach.redTmo (c : Coach) : Nat := bits (c.h 5) 31 16
/-- Its reduction id. -/
def Coach.redId (c : Coach) : Nat := bits (c.h 4) 63 48
/-- Bytes of an element under an op. -/
def redSize (op : Nat) : Nat := if op == 1 then 8 else 4

/-- Whether a contribution breaks the table of R190 or its payload size. -/
def Coach.redBad (c : Coach) : Bool :=
  bits (c.h 5) 63 32 != 0 || bits (c.h 5) 7 3 != 0 || bits (c.h 5) 15 14 != 0 || 4 < c.redOp || c.redTmo == 0
    || !bit (c.h 6) c.redWho || c.h 7 != 0 || c.plen == 0 || c.plen % redSize c.redOp != 0

/-! The operations (R192). -/

/-- The exact sum of finite values, and whether every one is -0. -/
def dySum (xs : List FNum) : Dy :=
  xs.foldl (fun acc x => match x with | .num neg m e => acc.add { m := sgn neg m, e := e } | _ => acc) (Dy.int 0)

/-- SUM.F32 of an element's terms, none a NaN; the flag is NAN_SEEN. -/
def sumTerms (xs : List FNum) : Lane × Bool :=
  let pos := xs.contains (.inf false)
  let neg := xs.contains (.inf true)
  if pos && neg then (0x7FC00000, true)
  else if pos then (0x7F800000, false)
  else if neg then (0xFF800000, false)
  else
    let d := dySum xs
    if d.m == 0 then (if xs.all (· == .zero true) then 0x80000000 else 0, false) else ((d.exact.lane 0).1, false)

/-- The greatest of some lanes, none a NaN, +0 above -0; the least where least is set. -/
def extreme (least : Bool) : List Lane → Lane
  | [] => 0
  | x :: r => r.foldl (fun a b => if (if least then ltV true (laneVal b) (laneVal a) else ltV true (laneVal a) (laneVal b)) then b else a) x

/-- A 32-bit result element from its terms, with NAN_SEEN. -/
def redLane (op : Nat) (xs : List Lane) : Lane × Bool :=
  if xs.any fun x => laneVal x == .nan then (0x7FC00000, true)
  else match op with
    | 0 => sumTerms (xs.map laneVal)
    | 2 => (extreme false xs, false)
    | 3 => (extreme true xs, false)
    | _ => (extreme false (xs.map fun x => x &&& 0x7FFFFFFF), false)

/-- The bytes of a result element, with NAN_SEEN: k is its number. -/
def redElem (op k : Nat) (terms : List Coach) : List Byte × Bool :=
  if op == 1 then
    (leOf 8 (terms.foldl (fun n c => n + leVal ((c.pay.drop (8 * k)).take 8)) 0), false)
  else
    let (x, nan) := redLane op (terms.map fun c => BitVec.ofNat 32 (leVal ((c.pay.drop (4 * k)).take 4)))
    (leOf 4 x.toNat, nan)

/-- The payload granules of a result that hold a poisoned element: an element with a poisoned term lies in the granule of the
same number as the term. -/
def redPois (n : Nat) (terms : List Coach) : List Nat :=
  (List.range (ceilDiv n 64)).filter fun g => terms.any fun c => c.pois.contains g

/-- The result coach of a slot (R191). -/
def RedSlot.result (x : RedSlot) (status : Nat) : Coach :=
  let els := (List.range (x.n / redSize x.op)).map fun k => redElem x.op k x.terms
  let pois := redPois x.n x.terms
  let c : Coach := { hdr := x.hdr, pay := els.flatMap (·.1), pois := pois }
  (((c.setF 0 23 23 1).setF 0 20 20 (b2n !pois.isEmpty)).setH 6 (x.want &&& ~~~x.got)).setH 7
    (w64 (status + b2n (els.any (·.2)) * 4 + b2n x.mismatch * 8))

/-! Slots (R190, R191). -/

/-- The slot of a rid. -/
def Junction.slotOf (j : Junction) (rid : Nat) : Option RedSlot := j.red.find? fun x => x.rid == rid

/-- The junction with a slot changed. -/
def Junction.modRed (j : Junction) (rid : Nat) (f : RedSlot → RedSlot) : Junction :=
  { j with red := j.red.map fun x => if x.rid == rid then f x else x }

/-- Close: the result goes on from the junction; the slot holds its rid until it has entered its loop. -/
def State.closeRed (s : State) (j rid status : Nat) : State :=
  match (s.junc j).slotOf rid with
  | none => s
  | some x =>
    if x.closing then s
    else (s.modJunc j fun k => k.modRed rid fun x => { x with closing := true }).releaseAt j x.plane (some rid) (x.result status)

/-- The die that counts the losses of a junction. -/
def juncDie (j : Nat) : Nat := (juncHere j).lossDie

/-- A slot as a contribution allocates it. -/
def newRed (c : Coach) (p : Plane) (now : Nat) : RedSlot :=
  { rid := c.redId, op := c.redOp, n := c.plen, want := c.h 6, got := 0, deadline := now + 1000 * c.redTmo, hdr := c.hdr, terms := [],
    mismatch := false, closing := false, plane := p }

/-- A contribution joins the slot of its rid. -/
def State.joinRed (s : State) (j : Nat) (c : Coach) : State :=
  match (s.junc j).slotOf c.redId with
  | none => s
  | some x =>
    if x.op != c.redOp || x.n != c.plen || x.want != c.h 6 || bit x.got c.redWho then
      (s.modJunc j fun k => k.modRed x.rid fun x => { x with mismatch := true }).kdrop (juncDie j) 0
    else
      let got := x.got ||| w64 (2 ^ c.redWho)
      let s1 := s.modJunc j fun k => k.modRed x.rid fun x => { x with got := got, terms := x.terms ++ [c] }
      if got == x.want then s1.closeRed j x.rid 0 else s1

/-- A contribution that passed its own checks is taken by its rid's slot or a new one; none where it must wait for a slot. -/
def State.takeRed (s : State) (j : Nat) (c : Coach) (p : Plane) : Option State :=
  match (s.junc j).slotOf c.redId with
  | some x => some (if x.closing then s.kdrop (juncDie j) 48 else s.joinRed j c)
  | none =>
    if 64 ≤ (s.junc j).red.length then none
    else some (((s.modJunc j fun k => { k with red := k.red ++ [newRed c p s.sys.clock] }).post (1000 * c.redTmo) .reduceDeadline
      (.juncIdx { j := j, i := c.redId })).joinRed j c)

/-- A contribution that goes on without a slot (R193). -/
def Coach.noSlot (c : Coach) : Coach := ((c.setF 0 23 23 1).setH 6 (c.h 6 &&& ~~~w64 (2 ^ c.redWho))).setH 7 2

/-- REDUCE: a coach at a reduce stop (R190, R191, R193, R197). -/
def execReduce (s : State) : Host.Outcome State Fault Refusal :=
  .next (match s.arg with
    | .idxRef o => s.atAct o.i 1 fun t =>
         let j := (hereOf t.loop t.stop).num
         if !t.coach.contributes then s.passOn t
         else if t.coach.redBad then (s.takeOff t).kdrop (juncDie j) 0
         else match (s.takeOff t).takeRed j t.coach t.plane with
           | some s1 => s1
           | none =>
             if (s.junc j).side.length < 16 then
               ((s.takeOff t).modJunc j fun k => { k with side := k.side ++
                  [{ coach := t.coach, deadline := s.sys.clock + 1000 * t.coach.redTmo, plane := t.plane }] }).post
                 (1000 * t.coach.redTmo) .junctionSidingTimeout (.juncIdx { j := j, i := t.coach.redId })
             else
               let u : Transit := { t with coach := t.coach.noSlot }
               let s1 := s.modTransit t.id fun _ => u
               if s1.blocked u then s1.passBy u else s1.passOn u
    | _ => s)

/-- REDUCE_DEADLINE: the slot closes INCOMPLETE (R191). -/
def execReduceDeadline (s : State) : Host.Outcome State Fault Refusal :=
  .next (match s.arg with
    | .juncIdx o =>
      (match (s.junc o.j).slotOf o.i with
       | some x =>
         if x.closing then s
         else if s.sys.clock < x.deadline then s.post (x.deadline - s.sys.clock) .reduceDeadline s.arg
         else s.closeRed o.j o.i 1
       | none => s)
    | _ => s)

/-- The waiting contributions take slots in arrival order: those that still wait (R193). -/
def State.drainSide (s : State) (j : Nat) : List JWait → State × List JWait
  | [] => (s, [])
  | w :: r =>
    match s.takeRed j w.coach w.plane with
    | some s1 => s1.drainSide j r
    | none => let (s1, l) := s.drainSide j r; (s1, w :: l)

/-- JUNCTION_SIDING_RELEASE: a slot is free (R193). -/
def execJunctionSidingRelease (s : State) : Host.Outcome State Fault Refusal :=
  .next (match s.arg with
    | .idxRef o =>
      let (s1, l) := s.drainSide o.i (s.junc o.i).side
      s1.modJunc o.i fun k => { k with side := l }
    | _ => s)

/-- JUNCTION_SIDING_TIMEOUT: contributions whose own timeout has run out go on with status NOSLOT (R193). -/
def execJunctionSidingTimeout (s : State) : Host.Outcome State Fault Refusal :=
  .next (match s.arg with
    | .juncIdx o =>
      let out := fun (w : JWait) => w.coach.redId == o.i && w.deadline ≤ s.sys.clock
      let side := (s.junc o.j).side
      let s1 := (side.filter out).foldl (fun s w => s.releaseAt o.j w.plane none w.coach.noSlot)
        (s.modJunc o.j fun k => { k with side := side.filter fun w => !out w })
      match side.find? fun w => w.coach.redId == o.i && !out w with
      | some w => s1.post (w.deadline - s.sys.clock) .junctionSidingTimeout s.arg
      | none => s1
    | _ => s)

end Sys2Proof.Machine
end

