-- ==== Sys2Proof/Machine/Records.lean ====
section
/-! DEFINITION. Launch records, graph nodes and the signal box's own events (04 R61-R80; 05 R98-R105; 12 R287). -/

namespace Sys2Proof.Machine

/-! Taking a record (R64-R67). -/

/-- Kind of a record. -/
def recKind (r : Vector Word 8) : Nat := bits (vget r 0 0) 3 0
/-- Index of a record. -/
def recIndex (r : Vector Word 8) : Nat := bits (vget r 0 0) 31 16
/-- Whether a record waits for those taken earlier. -/
def recSerial (r : Vector Word 8) : Bool := bit (vget r 0 0) 8

/-- Whether a record breaks R64, or what R65 asks of its kind. -/
def State.recBad (s : State) (d : Nat) (r : Vector Word 8) : Bool :=
  let w0 := vget r 0 0
  let va := vget r 1 0
  let p := vget r 5 0
  let i := recIndex r
  let noEntry := !s.stcEn d || s.stcNent d < i
  bits w0 63 32 != 0 || bits w0 15 10 != 0 || bits w0 7 4 != 0 || vget r 6 0 != 0 || vget r 7 0 != 0
    || bits (vget r 3 0) 2 0 != 0
    || (match recKind r with
        | 0 => bits va 4 0 != 0
        | 1 => 15 < i
        | 2 => 15 < i
        | 3 => 15 < i
        | 4 => noEntry || bits va 11 0 != 0 || bits va 63 57 != 0 || bits p 31 5 != 0
        | 5 => noEntry
        | 6 => 255 < i || bits va 5 0 != 0
        | 7 => bits va 5 0 != 0 || 1 < p.toNat || (if p == 0 then noEntry else 255 < i)
        | _ => true)

/-- What an eligible queue gives next: a berth launch, or the ring record at head, none where it cannot be read. -/
inductive Source where
  | berth (r : Vector Word 8)
  | ring (r : Option (Vector Word 8))
  deriving DecidableEq, Repr

/-- Eight words as a record. -/
def recordOf (ws : List Word) : Vector Word 8 := Vector.ofFn fun i => ws.getD i.val 0

/-- The ring's next record, where one is visible and not held back by serial. -/
def State.ringNext (s : State) (d q : Nat) : Option Source :=
  let k := (s.box d).queue q
  if k.tail ≤ k.head then none
  else match s.boxWords (k.ring + 64 * (k.head.toNat % 2 ^ k.lsize)) 8 with
    | none => some (.ring none)
    | some ws => if recSerial (recordOf ws) && k.nrun != 0 then none else some (.ring (some (recordOf ws)))

/-- What a queue gives next (R67): berth launches before ring records. -/
def State.eligible (s : State) (d q : Nat) : Option Source :=
  let k := (s.box d).queue q
  if !s.qEnabled d q then none
  else match k.berth with
    | r :: _ => if recSerial r && k.nrun != 0 then s.ringNext d q else some (.berth r)
    | [] => s.ringNext d q

/-- The eligible queue of lowest prio number, then of lowest number. -/
def State.bestQueue (s : State) (d : Nat) : Option (Nat × Source) :=
  (List.range 8).foldl (fun (best : Option (Nat × Source)) q =>
    match s.eligible d q with
    | none => best
    | some x =>
      match best with
      | none => some (q, x)
      | some b => if ((s.box d).queue q).prio < ((s.box d).queue b.1).prio then some (q, x) else best) none

/-- The event of a record's kind other than GRAPH. -/
def recordEvent (kind : Nat) : Instr :=
  match kind with
  | 1 => .preempt | 2 => .resume | 3 => .abort | 4 => .scset | 5 => .scfree | 6 => .ttset | _ => .query

/-- A walker begins a record: a malformed one ends BADREC, one that could not be read ACCESS. -/
def State.beginRecord (s : State) (d w : Nat) (r : Option (Vector Word 8)) : State :=
  match r with
  | none => s.endRecord d w 8
  | some r =>
    if s.recBad d r then s.endRecord d w 1
    else if recKind r == 0 then s.postNode d w
    else s.post 10 (recordEvent (recKind r)) (.dieRef { die := d })

/-- A free walker takes the next record of the die (R67), once the queues are open (R51). -/
def State.takeRecord (s : State) (d : Nat) : State :=
  if s.sys.boot.step < 5 then s
  else match s.idleWalker d, s.bestQueue d with
    | some w, some (q, .berth r) =>
      let k := (s.box d).queue q
      let s1 := s.modQueue d q fun k => { k with berth := k.berth.drop 1, nberth := k.nberth + 1, nrun := k.nrun + 1 }
      let s2 := s1.modWalker d w fun _ => { Walker.init with st := .run, record := r, queue := q, src := 1, index := k.nberth }
      (s2.beginRecord d w (some r)).postTake d
    | some w, some (q, .ring r) =>
      let k := (s.box d).queue q
      let s1 := (s.modQueue d q fun k => { k with head := k.head + 1, nrun := k.nrun + 1 }).putDesc d q 3 (k.head + 1)
      let s2 := s1.modWalker d w fun _ => { Walker.init with
        st := .run, record := r.getD zero8, queue := q, src := 0, index := k.head.toNat }
      (s2.beginRecord d w r).postTake d
    | _, _ => s

/-- GRAPH: the signal box takes the next record. A GRAPH record's walk begins; the event of another kind follows. -/
def execGraph (s : State) : Host.Outcome State Fault Refusal :=
  .next (match s.arg with
    | .dieRef o => s.takeRecord o.die
    | _ => s)

/-! Records of the other kinds (R65, R71, R287). -/

/-- A walker that holds a record of a kind, not begun. -/
def State.heldRecord (s : State) (d kind : Nat) : Option Nat :=
  (List.range 16).find? fun w =>
    let k := (s.box d).walker w
    k.st != .idle && !k.boot && k.ending.isNone && k.node == 0 && recKind k.record == kind

/-- The event of a record: f acts for the walker that holds it. -/
def State.onRecord (s : State) (kind : Nat) (f : Nat → Nat → Walker → State → State) : State :=
  match s.arg with
  | .dieRef o =>
    (match s.heldRecord o.die kind with
     | none => s
     | some w => f o.die w ((s.box o.die).walker w) s)
  | _ => s

/-- PREEMPT (R71): its node tells how far it is: 0 not begun, 1 begun, 2 waiting for an ARMING slot. -/
def execPreempt (s : State) : Host.Outcome State Fault Refusal :=
  .next (s.onRecord 1 fun d w k s =>
    let i := recIndex k.record
    match (s.slot d i).state with
    | .armed => ((s.modWalker d w fun k => { k with node := 1, st := .slot i }).quiesce d i).settle d
    | .arming => s.modWalker d w fun k => { k with node := 2, st := .slot i }
    | _ => s.endRecord d w 3)

/-- RESUME (R71, R106). -/
def execResume (s : State) : Host.Outcome State Fault Refusal :=
  .next (s.onRecord 2 fun d w k s =>
    let i := recIndex k.record
    if (s.slot d i).state != .preempted || s.resumeBusy d i then s.endRecord d w 3
    else
      (((s.modWalker d w fun k => { k with node := 1, st := .slot i }).modSlot d i fun r =>
        { r.goTo s.sys.clock .restoring with sfault := .none }).post 100 .regionRestoreDone (.dieIdx { die := d, i := i })).settle d)

/-- ABORT: the walk that owns the slot ends, with FAULT where a region it owns is frozen (R65, R70, R287). -/
def execAbort (s : State) : Host.Outcome State Fault Refusal :=
  .next (s.onRecord 3 fun d w k s =>
    match (s.slot d (recIndex k.record)).owner with
    | none => s.endRecord d w 3
    | some v =>
      let o := (s.box d).walker v
      let status := if o.owns.any fun i => (s.slot d i).state == .frozen then 5 else 9
      let s1 := if o.ending.isSome then s else (s.failWalk d v status).settle d
      s1.endRecord d w 0)

/-- SCSET (R65, R79). -/
def execScset (s : State) : Host.Outcome State Fault Refusal :=
  .next (s.onRecord 4 fun d w k s =>
    let i := recIndex k.record
    if ((s.box d).entry i).state != .free then s.endRecord d w 3
    else
      (s.modStc d i fun e => { e with
        back := vget k.record 1 0, last := s.sys.time, state := .evicted, size := bits (vget k.record 5 0) 4 0
        idle := bits (vget k.record 5 0) 63 32, holds := 0, want := false }).endRecord d w 0)

/-- SCFREE (R65, R79). -/
def execScfree (s : State) : Host.Outcome State Fault Refusal :=
  .next (s.onRecord 5 fun d w k s =>
    let i := recIndex k.record
    let e := (s.box d).entry i
    match e.state with
    | .free => s.endRecord d w 0
    | .evicted =>
      if e.holds != 0 || e.want then s.endRecord d w 3 else (s.modStc d i fun e => { e with state := .free }).endRecord d w 0
    | .resident =>
      if e.holds != 0 then s.endRecord d w 3
      else ((s.modWalker d w fun k => { k with node := 1 }).evict d i).modStc d i fun e => { e with freeing := some w }
    | .restoring => s.endRecord d w 3
    | .evicting => s.endRecord d w 3)

/-- Whether a timetable image keeps R72. -/
def ttOk (ws : List Word) : Bool :=
  let w := fun k => ws.getD k 0
  (w 1 == 0 || 10000 ≤ (w 1).toNat) && bits (w 2) 5 0 == 0 && bits (w 3) 31 10 == 0 && bits (w 3) 7 3 == 0
    && w 4 == 0 && w 5 == 0 && w 6 == 0 && w 7 == 0

/-- An entry as an image loads it at a time (R72, R73). -/
def ttLoad (ws : List Word) (r : Vector Word 8) (now : Nat) : TTEntry :=
  let w := fun k => ws.getD k 0
  let t0 := (w 0).toNat
  let period := (w 1).toNat
  let k := if period == 0 || now ≤ t0 then 0 else ceilDiv (now - t0) period
  { img := Vector.ofFn fun i => w i.val, record := r, next := w64 (t0 + k * period), last := 0, fires := 0, misses := 0, k := k,
    left := bits (w 3) 63 32, en := bit (w 3) 8 }

/-- TTSET (R65, R72, R73). -/
def execTtset (s : State) : Host.Outcome State Fault Refusal :=
  .next (s.onRecord 6 fun d w k s =>
    let i := recIndex k.record
    match s.boxWords (vget k.record 1 0).toNat 8 with
    | none => s.endRecord d w 8
    | some ws =>
      if !ttOk ws then s.endRecord d w 1
      else match s.boxWords (ws.getD 2 0).toNat 8 with
        | none => s.endRecord d w 8
        | some rs =>
          let r := recordOf rs
          if recKind r != 0 || s.recBad d r then s.endRecord d w 1
          else ((s.modTt d i fun _ => ttLoad ws r s.sys.time.toNat).postFire d i).endRecord d w 0)

/-- A timetable entry as QUERY copies it (R72). -/
def TTEntry.words (e : TTEntry) : List Word :=
  [vget e.img 0 0, vget e.img 1 0, vget e.img 2 0, setBits (setBits (vget e.img 3 0) 63 32 e.left) 8 8 (b2n e.en), e.next, e.last,
   w64 (e.fires + e.misses * 2 ^ 32), 0]

/-- QUERY (R65, R72, R78). -/
def execQuery (s : State) : Host.Outcome State Fault Refusal :=
  .next (s.onRecord 7 fun d w k s =>
    let i := recIndex k.record
    let ws := if vget k.record 5 0 == 0 then (List.range 8).map ((s.box d).entry i).word else ((s.box d).tt i).words
    match s.writeVa s.sys.svptbr true (vget k.record 1 0).toNat (wordsLe ws) with
    | none => s.endRecord d w 8
    | some s1 => s1.endRecord d w 0)

/-! Graph nodes (R68). -/

/-- Whether the bits of a node that its op does not name are zero. -/
def nodeOk (k : Walker) : Bool :=
  let w0 := k.nw 0
  let only := fun (m : Word) => w0 &&& ~~~m == 0
  match bits w0 3 0 with
  | 0 => only 0xF && k.nw 1 == 0 && k.nw 2 == 0 && k.nw 3 == 0
  | 1 => only 0x10F0F && k.nw 2 == 0 && k.nw 3 == 0
  | 2 => only 0xF0F && k.nw 2 == 0 && bits (k.nw 3) 63 32 == 0
  | 3 => only 0xFFFFFFFF0F0F && k.nw 1 == 0 && k.nw 2 == 0 && k.nw 3 == 0
  | 4 => only 0xFFFFFFFF0FFF000F && k.nw 1 == 0 && k.nw 2 == 0 && k.nw 3 == 0
  | 5 => only 0x3000F && k.nw 3 == 0
  | 6 => only 0x1FFFFFFFF000F && k.nw 1 == 0 && k.nw 2 == 0 && k.nw 3 == 0
  | 7 => only 0xF0F && k.nw 1 == 0 && k.nw 2 == 0 && k.nw 3 == 0
  | _ => false

/-- The event of a node: f acts for the walker that stands at it, with the slot the node names. A node that breaks its limits
ends the walk BADNODE; one whose slot another walk owns, or a boot walk's CFG or ARM of a slot that is not EMPTY, BUSY (R68, R457). -/
def State.onNode (s : State) (op : Nat) (slotted : Bool) (f : Nat → Nat → Walker → Nat → State → State) : State :=
  match s.arg with
  | .dieIdx o =>
    let k := (s.box o.die).walker o.i
    let i := bits (k.nw 0) 11 8
    if k.st == .idle || k.ending.isSome || recKind k.record != 0 || bits (k.nw 0) 3 0 != op then s
    else if !nodeOk k then s.failWalk o.die o.i 2
    else if slotted && ((s.slot o.die i).owner.getD o.i != o.i
        || (k.boot && op != 7 && !k.owns.contains i && (s.slot o.die i).state != .empty)) then s.failWalk o.die o.i 3
    else f o.die o.i k i s
  | _ => s

/-- The walk stays at its node until a slot's state changes. -/
def State.waitSlot (s : State) (d w i : Nat) : State := s.modWalker d w fun k => { k with st := .slot i }

/-- The walk owns a slot; a boot walk's region runs at supervisor level (R68, R453). -/
def State.own (s : State) (d w i : Nat) (boot : Bool) : State :=
  (s.modSlot d i fun r => { r with owner := some w, boot := boot }).modWalker d w fun k => { k with owns := i :: k.owns.filter (· != i) }

/-- A drain that a node asks for, by the slot's state (R105): whether it has ended. -/
def State.drainNode (s : State) (d i : Nat) : State × Bool :=
  match (s.slot d i).state with
  | .empty => (s, true)
  | .loaded => (s, true)
  | .armed => (s.startDrain d i, false)
  | _ => (s, false)

/-- END: the regions of the walk drain, then the record ends (R68). -/
def execEndNode (s : State) : Host.Outcome State Fault Refusal :=
  .next (s.onNode 0 false fun d w k _ s =>
    let (s1, ok) := k.arms.foldl (fun (acc : State × Bool) i => let (t, b) := acc.1.drainNode d i; (t, acc.2 && b)) (s, true)
    if ok then s1.endRecord d w 0 else s1.waitSlot d w (k.arms.headD 0))

/-- CFG (R68, R87-R90). -/
def execCfg (s : State) : Host.Outcome State Fault Refusal :=
  .next (s.onNode 1 true fun d w k i s =>
    let s1 := s.own d w i k.boot
    match s1.loadConfig d i (k.nw 1).toNat (bit (k.nw 0) 16) with
    | .wait => s1.waitSlot d w i
    | .ok t => (t.goNode d w (k.node + 1)).settle d
    | .status 259 => s1.failWalk d w 3
    | .status n => s1.failWalk d w n)

/-- The arming of an ARM node begins, or the walk ends BUSY or ACCESS, the tile blocks already written staying so (R98, R101). -/
def State.armNow (s : State) (d w i : Nat) (k : Walker) : State :=
  if s.armBusy d i then s.failWalk d w 3
  else match s.armBlocks d i (others i) with
    | .error s1 => s1.failWalk d w 8
    | .ok s1 =>
      (((s1.modWalker d w fun k => { k with begun := true, arms := i :: k.arms.filter (· != i) }).startArm d i (k.nw 1) (k.nw 3) k).waitSlot d w
        i).settle d

/-- ARM: on a LOADED slot at once, on an ARMED one once its invocations have ended, else BUSY; the walk proceeds when the region
is ARMED (R68, R98, R100, R103). -/
def execArm (s : State) : Host.Outcome State Fault Refusal :=
  .next (s.onNode 2 true fun d w k i s =>
    let s1 := s.own d w i k.boot
    let r := s1.slot d i
    if k.begun then (if r.state == .armed then s1.goNode d w (k.node + 1) else s1)
    else if r.state == .loaded then s1.armNow d w i k
    else if r.state == .armed then
      (if (s1.liveCtxs d i).isEmpty then s1.armNow d w i k else (s1.modSlot d i fun r => { r with rearm := true }).waitSlot d w i)
    else if r.rearm then s1.waitSlot d w i
    else s1.failWalk d w 3)

/-- WAIT (R68, R71). -/
def execWaitNode (s : State) : Host.Outcome State Fault Refusal :=
  .next (s.onNode 3 true fun d w k i s =>
    let tmo := bits (k.nw 0) 47 16
    if tmo == 0 then s.failWalk d w 2
    else if (s.slot d i).target ≤ (s.slot d i).count then s.goNode d w (k.node + 1)
    else match k.st with
      | .count _ => s
      | _ =>
        ((s.modWalker d w fun k => { k with st := .count i, deadline := some (s.sys.clock + 1000 * tmo) }).post (1000 * tmo)
          .waitTimeout (.dieIdx { die := d, i := w })).retime d w)

/-- WAIT_TIMEOUT: the walk ends TIMEOUT where its WAIT has expired (R68, R71). -/
def execWaitTimeout (s : State) : Host.Outcome State Fault Refusal :=
  .next (match s.arg with
    | .dieIdx o =>
      let k := (s.box o.die).walker o.i
      (match k.st, k.deadline with
       | .count _, some t => if t ≤ s.sys.clock && k.ending.isNone then s.failWalk o.die o.i 4 else s
       | _, _ => s)
    | _ => s)

/-- REPEAT (R68): a fifth distinct REPEAT running ends the walk LIMIT. -/
def execRepeatNode (s : State) : Host.Outcome State Fault Refusal :=
  .next (s.onNode 4 false fun d w k _ s =>
    let t := bits (k.nw 0) 27 16
    let n := bits (k.nw 0) 63 32
    if k.node ≤ t || n == 0 then s.failWalk d w 2
    else
      let done := ((k.reps.find? fun e => e.1 == k.node).map (·.2)).getD 0
      let rest := k.reps.filter fun e => e.1 != k.node
      if done < n then
        (if 4 ≤ rest.length then s.failWalk d w 7
         else (s.modWalker d w fun k => { k with reps := (k.node, done + 1) :: rest }).goNode d w t)
      else (s.modWalker d w fun k => { k with reps := rest }).goNode d w (k.node + 1))

/-- SIGNAL: it waits as the end of the record does for the copies of the walk's regions (R66, R68). -/
def execSignal (s : State) : Host.Outcome State Fault Refusal :=
  .next (s.onNode 5 false fun d w k _ s =>
    let va := k.nw 1
    if bits va 2 0 != 0 then s.failWalk d w 2
    else if s.copiesLeft d k.arms then s.waitSlot d w (k.arms.headD 0)
    else
      let new := if bit (k.nw 0) 16 then (s.boxWords va.toNat 1).map fun ws => ws.headD 0 + k.nw 2 else some (k.nw 2)
      match new.bind fun v => s.boxStore va.toNat v with
      | none => s.failWalk d w 8
      | some s1 => (if bit (k.nw 0) 17 then s1.inform 9 (w64 (d * 16 + w)) else s1).goNode d w (k.node + 1))

/-- What an SCT node meets that looks at an entry again, which it has touched: a touch whose entry is EVICTED again got no frame, one
whose entry is RESIDENT has ended (R79, R116; entry 57). -/
def State.sctAgain (s : State) (d i : Nat) : State × Touched :=
  match ((s.box d).entry i).state with
  | .evicted => (s, if ((s.box d).entry i).want then .wait else .noframe)
  | .resident => (s, .resident)
  | .free => (s, .free)
  | .restoring => (s, .wait)
  | .evicting => s.touchStc d i

/-- The touches of an SCT node from entry i on: what each met, RESIDENT ones held where hold is set, once the walk finds them so
(entry 57). One touch an entry, and another where an entry found RESIDENT has been evicted since; those behind a FREE entry or one without
a frame are touched too (entry 48). -/
def State.sctTouch (s : State) (d w i : Nat) (hold again : Bool) : Nat → State × List Touched
  | 0 => (s, [])
  | n + 1 =>
    let k := (s.box d).walker w
    let old := k.seen.contains i
    let (s1, t) :=
      if old && ((s.box d).entry i).state == .resident then (s, .resident) else if again && !old then s.sctAgain d i else s.touchStc d i
    let s2 := if t == .resident && !old then
        (if hold && !k.holds.contains i then
          (s1.modStc d i fun e => { e with holds := e.holds + 1 }).modWalker d w fun k => { k with holds := i :: k.holds }
         else s1).modWalker d w fun k => { k with seen := i :: k.seen }
      else if old && t != .resident then s1.modWalker d w fun k => { k with seen := k.seen.filter (· != i) }
      else s1
    let (s3, l) := s2.sctTouch d w (i + 1) hold again n
    (s3, t :: l)

/-- Whether n entries from entry i on are RESIDENT: a touch of a later one may have evicted an earlier one (R68, R79). -/
def State.allResident (s : State) (d i n : Nat) : Bool := (List.range n).all fun j => ((s.box d).entry (i + j)).state == .resident

/-- SCT (R68, R79). -/
def execSct (s : State) : Host.Outcome State Fault Refusal :=
  .next (s.onNode 6 false fun d w k _ s =>
    let first := bits (k.nw 0) 31 16
    let n := bits (k.nw 0) 47 32
    if n == 0 || !s.stcEn d || s.stcNent d + 1 < first + n then s.failWalk d w 2
    else
      let (s1, l) := s.sctTouch d w first (bit (k.nw 0) 48) (k.st == .sct) n
      match l.find? fun t => t == .free || t == .noframe with
      | some t => s1.failWalk d w (if t == .free then 2 else 6)
      | none =>
        if l.all (· == .resident) && s1.allResident d first n then s1.goNode d w (k.node + 1)
        else s1.modWalker d w fun k => { k with st := .sct })

/-- DRAIN (R68, R105). -/
def execDrain (s : State) : Host.Outcome State Fault Refusal :=
  .next (s.onNode 7 true fun d w k i s =>
    let (s1, ok) := s.drainNode d i
    if ok then s1.goNode d w (k.node + 1) else s1.waitSlot d w i)

/-! The signal box's own events. -/

/-- TAIL_STORE (R63). -/
def execTailStore (s : State) : Host.Outcome State Fault Refusal :=
  .next (match s.arg with
    | .dieIdx o => s.tailStored o.die o.i
    | _ => s)

/-- TIMETABLE_FIRE (R74): where a fire comes before it, it is due again behind that one (R75). -/
def execTimetableFire (s : State) : Host.Outcome State Fault Refusal :=
  .next (match s.arg with
    | .dieIdx o => if (s.firstFire o.die).getD o.i == o.i then s.ttFire o.die o.i else s.postFire o.die o.i
    | _ => s)

/-- STC_RESTORE_DONE (R79). -/
def execStcRestoreDone (s : State) : Host.Outcome State Fault Refusal :=
  .next (match s.arg with
    | .dieIdx o => s.restored o.die o.i
    | _ => s)

/-- STC_EVICT_DONE (R79). -/
def execStcEvictDone (s : State) : Host.Outcome State Fault Refusal :=
  .next (match s.arg with
    | .dieIdx o => s.evicted o.die o.i
    | _ => s)

/-- SCAN_VISIT: the scanner visits an entry and goes on to the next (R80). -/
def execScanVisit (s : State) : Host.Outcome State Fault Refusal :=
  .next (match s.arg with
    | .dieRef o =>
      if !s.stcEn o.die then s
      else
        let i := (s.box o.die).scan
        let s1 := if s.silent ((s.box o.die).entry i) then s.evict o.die i else s
        (s1.modBox o.die fun b => { b with scan := if s.stcNent o.die ≤ i then 0 else i + 1 }).post 20 .scanVisit s.arg
    | _ => s)

/-- SBBASE_WRITE (R61). -/
def execSbbaseWrite (s : State) : Host.Outcome State Fault Refusal :=
  .next (match s.arg with
    | .dieVal o => s.writeSbbase o.die o.v
    | _ => s)

/-- STCCFG_WRITE (R76). -/
def execStccfgWrite (s : State) : Host.Outcome State Fault Refusal :=
  .next (match s.arg with
    | .dieVal o => s.writeStccfg o.die o.v
    | _ => s)

end Sys2Proof.Machine
end

