-- ==== Sys2Proof/Machine/Sched.lean ====
section
/-! DEFINITION. Triggers and fires (05 R88-R95), the events of a region's states (05 R98-R106; 12 R286, R460), withholding
(06 R123-R127), watchdogs (12 R282), links that settle (11 R264), and depot address generators (09 R228, R229). -/

namespace Sys2Proof.Machine

/-! Triggers (R88-R94). -/

/-- Word 0 of a tile's trigger slot. -/
def Tile.trig (t : Tile) (k : Nat) : Word := vget t.trg (2 * k) 0
/-- Whether a slot's guard includes an arrival queue. -/
def Tile.aqen (t : Tile) (k : Nat) : Bool := bit (t.trig k) 17
/-- The queue of a slot. -/
def Tile.aqOf (t : Tile) (k : Nat) : Nat := bits (t.trig k) 19 18

/-- Whether a slot's sets hold a coach's kind and tag. -/
def trigMatches (w : Word) (c : Coach) : Bool := w.getLsbD (24 + c.kind) && w.getLsbD (40 + c.fmt)

/-- Invocations of a slot that run. -/
def Tile.running (t : Tile) (k : Nat) : Nat := ((List.range 8).filter fun c => (t.ctx c).live && (t.ctx c).cls == k).length

/-- ReadyGuard (R92). -/
def Tile.readyGuard (t : Tile) (k : Nat) : Bool :=
  let w := t.trig k
  let pm : BitVec 8 := w.extractLsb' 0 8
  let pv : BitVec 8 := w.extractLsb' 8 8
  bit w 16 && (t.pred &&& pm) == (pv &&& pm) && t.running k != bits w 52 50 + 1 && !(bit w 49 && t.onego.getLsbD k)
    && (!t.aqen k || (match (vget t.arr (t.aqOf k) []).head? with | some c => trigMatches w c | none => false))

/-- Whether some slot of a tile could match a coach in a queue (R92). -/
def Tile.matchable (t : Tile) (q : Nat) (c : Coach) : Bool :=
  (List.range 16).any fun k => bit (t.trig k) 16 && t.aqen k && t.aqOf k == q && trigMatches (t.trig k) c

/-- The head of a queue that no fire takes leaves it: beyond the exit iteration it is dropped and counted (R189), matched by no
slot it goes to the siding (R92). What is left of the queue, and whether a head left. -/
def State.trimHeads (s : State) (d i t q : Nat) : List Coach → State × List Coach
  | [] => (s, [])
  | c :: r =>
    if (s.slot d i).xv && (s.slot d i).x < c.iter then
      (s.modSlot d i fun x => { x with drops := stick (x.drops + 1) 0xFFFFFFFF }).trimHeads d i t q r
    else if !(s.tile d t).matchable q c then (s.side d i 3 q t false c).trimHeads d i t q r
    else (s, c :: r)

/-- The heads of a tile's four queues. -/
def State.trimQueues (s : State) (d i t : Nat) : State :=
  (List.range 4).foldl (fun s q =>
    let (s1, l) := s.trimHeads d i t q (vget (s.tile d t).arr q [])
    s1.modTile d t fun x => { x with arr := vput x.arr q l }) s

/-- The lowest-numbered free context of a tile. -/
def Tile.freeCtx (t : Tile) : Option Nat := (List.range 8).find? fun c => !(t.ctx c).live

/-- A slot put behind those that precede it under a time. -/
def insertSlot (at_ : Nat → Nat) (k : Nat) : List Nat → List Nat
  | [] => [k]
  | j :: r => if at_ k < at_ j then k :: j :: r else j :: insertSlot at_ k r

/-- The order of arbitration (R93): promoted slots by the time of their promotion, then the others. -/
def Tile.order (t : Tile) (ready : List Nat) : List Nat :=
  let prom := ready.filter fun k => (vget t.promo k none).isSome
  let at_ := fun k => (vget t.promo k none).getD 0
  (prom.foldl (fun l k => insertSlot at_ k l) []) ++ ready.filter fun k => (vget t.promo k none).isNone

/-- Pair(i, j) of R93. -/
def Slot.pair (r : Slot) (i j : Nat) : Bool :=
  let b := fun k => bit (r.h (8 + k / 64)) (k % 64)
  b (16 * i + j) && b (16 * j + i)

/-- A context as a fire of slot k sets it (R94): the head coach, the region's parameters, the tile's versions. -/
def firedCtx (t : Tile) (r : Slot) (k : Nat) (old : Context) (head : Option Coach) (step clock inv : Nat) : Context :=
  let g : Nat → Word := fun n =>
    if n < 24 then 0
    else match head with
      | some c => c.h (n - 24)
      | none => vget r.wpar (n - 24) 0
  { Context.init with
    hart := { Hart.init with
      g := Vector.ofFn fun n => g n.val
      pc := t.code + 8 * w64 (bits (vget t.trg (2 * k + 1) 0) 15 0)
      nbv := if bit (t.trig k) 53 then 1 else 2
      issue := step
      nissue := old.hart.nissue + 1 }
    live := true
    coach := head.isSome
    cls := k
    rver := t.rver
    tver := t.tver
    inv := inv
    ports := match head with
      | some c => vput Context.init.ports 7 { PortBind.init with bnd := true, kb := true, typ := tagType c.fmt }
      | none => Context.init.ports
    q7 := head
    fired := clock }

/-- A fire of slot k of a tile into its lowest free context (R94). -/
def State.fire (s : State) (d i t k : Nat) : State :=
  let x := s.tile d t
  match x.freeCtx with
  | none => s
  | some c =>
    let (s1, inv) := s.fresh
    let queue := vget x.arr (x.aqOf k) []
    let head := if x.aqen k then queue.head? else none
    let new := firedCtx x (s.slot d i) k (x.ctx c) head s.steps ((s.slot d i).active s.sys.clock) inv
    let s2 := s1.modTile d t fun y => { (y.modCtx c fun _ => new) with
      arr := if y.aqen k then vput y.arr (y.aqOf k) (queue.drop 1) else y.arr
      onego := y.onego ||| (1#16 <<< k)
      age := vput y.age k 0
      promo := vput y.promo k none }
    if (s.slot d i).wdog == 0 then s2
    else s2.post (1000 * (s.slot d i).wdog) .watchdog (.agentRef { a := .ctx d t c })

/-- A slot that was ready and did not fire (R93): its age count, and its promotion. -/
def Tile.lost (t : Tile) (now k : Nat) : Tile :=
  let n := stick (vget t.age k 0 + 1) 15
  let age := bits (t.trig k) 23 20
  { t with
    age := vput t.age k n
    promo := if age != 0 && age ≤ n && (vget t.promo k none).isNone then vput t.promo k (some now) else t.promo }

/-- A slot that is not ready: its age count falls to 0. -/
def Tile.unready (t : Tile) (k : Nat) : Tile := { t with age := vput t.age k 0, promo := vput t.promo k none }

/-- One arbitration of a compute tile (R93): the state, and whether a slot fired. -/
def State.arbitrate (s : State) (d i t : Nat) : State × Bool :=
  let x := s.tile d t
  let ready := (List.range 16).filter x.readyGuard
  let s1 := s.modTile d t fun y => ((List.range 16).filter fun k => !ready.contains k).foldl Tile.unready y
  match x.order ready, x.freeCtx with
  | first :: rest, some _ =>
    let s2 := s1.fire d i t first
    let second := if (s2.tile d t).freeCtx.isNone then none
      else rest.find? fun k => (s.slot d i).pair first k && !(x.aqen first && x.aqen k && x.aqOf first == x.aqOf k)
    let s3 := match second with | some k => s2.fire d i t k | none => s2
    (s3.modTile d t fun y => (rest.filter fun k => second != some k).foldl (fun y k => y.lost s.steps k) y, true)
  | _, _ => (s1, false)

/-- TRIGGER_FIRE: a cycle of trigger arbitration on a compute tile of an ARMED region (R92-R94, R189). -/
def execTriggerFire (s : State) : Host.Outcome State Fault Refusal :=
  .next (match s.arg with
    | .tileRef o =>
      (match s.regionAt o.die o.tile with
       | none => s
       | some i =>
         if (s.slot o.die i).state != .armed || (s.slot o.die i).rearm then s
         else
           let (s1, fired) := (s.trimQueues o.die i o.tile).arbitrate o.die i o.tile
           if fired then s1.post 1 .triggerFire s.arg else s1)
    | _ => s)

/-! Go (R98, R99, R185, R189, R229, R430). -/

/-- The generators of a depot start at go, each with its record as it stands (R229). -/
def State.startGens (s : State) (d n : Nat) : State :=
  (List.range 4).foldl (fun s g =>
    let r : Vector Word 8 := Vector.ofFn fun i => w64 (leVal (s.mem.bytes (depotKey d n (0x8000 + 64 * g + 8 * i.val)) 8))
    let on := bit (vget r 0 0) 0
    let s1 := s.modDepot d n fun x => { x with gens := x.gens.set g { Gen.init with on := on, record := r } }
    if on then s1.post 2 .generatorElement (.dieIdx2 { die := d, depot := n, gen := g }) else s1) s

/-- The restored invocations of a region go on (R106, R282): links in flight settle, their watchdogs run again. -/
def State.goContexts (s : State) (d i : Nat) : State :=
  (s.liveCtxs d i).foldl (fun s tc =>
    let x := s.ctx d tc.1 tc.2
    let s2 := s.postSettles d tc.1 tc.2 x.links.length
    let r := s.slot d i
    if r.wdog == 0 then s2
    else s2.post (x.fired + 1000 * r.wdog - r.active s.sys.clock) .watchdog (.agentRef { a := .ctx d tc.1 tc.2 })) s

/-- The streams of a region's tiles may read, and where it is resumed its paused commands go on, but those that withhold. -/
def State.goUnits (s : State) (d i : Nat) (resumed : Bool) : State :=
  (s.slot d i).computeTiles.foldl (fun s t =>
    let paused := (List.range 4).filter fun c =>
      resumed && ((s.tile d t).chan c).state == .paused && ((s.tile d t).chan c).slot == i
        && !s.withheld.any fun w => w.u == (chanUnit d t c).u
    let s1 := paused.foldl (fun s c =>
      (s.modTile d t fun x => x.modChan c fun y => { y with state := .running }).post 4 .ceGranule (.tileIdx { die := d, tile := t, i := c })) s
    (List.range 16).foldl (fun s e => s.post 2 .apeElement (.tileIdx { die := d, tile := t, i := e })) s1) s

/-- What a pre-emption left in the matrix queues of a region's tiles stands there again (R104, R166). -/
def State.goMatrix (s : State) (d i : Nat) : State :=
  ((s.slot d i).mqs.foldl (fun s e =>
    e.2.foldl (fun s _ => s.post 200 .matrixComplete (.tileRef { die := d, tile := e.1 }))
      (s.modTile d e.1 fun x => { x with mq := e.2 ++ x.mq })) s).modSlot d i fun r => { r with mqs := [] }

/-- GO: an ARMING region is ARMED (R98); one whose walk failed meanwhile drains. -/
def execGo (s : State) : Host.Outcome State Fault Refusal :=
  .next (match s.arg with
    | .dieIdx o =>
      let d := o.die
      let i := o.i
      let r := s.slot d i
      if r.state != .arming then s
      else if r.forced then (s.forceDrain d i).settle d
      else
        let s1 := (s.slotTo d i .armed).modSlot d i fun r => { r with
          resuming := false
          bars := if r.resuming then r.bars else []
          xv := r.resuming && r.xv
          x := if r.resuming then r.x else 0
          drops := if r.resuming then r.drops else 0 }
        let s2 := if r.resuming then (s1.goContexts d i).goMatrix d i
          else s1.returnSided d i (fun x => x.reason ≤ 5 && bits (x.coach.h 0) 10 7 == bits (r.h 0) 3 0
            && bits (x.coach.h 0) 14 11 == bits (r.h 0) 7 4) id
        let s3 := r.depotsOf.foldl (fun s n => s.startGens d n) (s2.goUnits d i r.resuming)
        (s3.fireAll d i).settle d
    | _ => s)

/-! Draining, quiescing, saving, restoring (R103-R106). -/

/-- The matrix instructions of a tile complete in order, up to one that waits; n at most. -/
def State.finishTile (s : State) (d t : Nat) : Nat → State
  | 0 => s
  | n + 1 => match s.matrixStep d t with | (s1, true) => s1.finishTile d t n | (s1, false) => s1

/-- The matrix instructions in the queues of a region's tiles complete (R104, R376). -/
def State.finishMatrix (s : State) (d i : Nat) : State :=
  (s.ownTiles d i).foldl (fun s t => s.finishTile d t (s.tile d t).mq.length) s

/-- Whether a matrix instruction of a region's tiles has still to complete: an MRDQ whose push waits. -/
def State.matrixLeft (s : State) (d i : Nat) : Bool := (s.ownTiles d i).any fun t => !(s.tile d t).mq.isEmpty

/-- The matrix queues of a region's tiles emptied. -/
def State.dropMatrix (s : State) (d i : Nat) : State := (s.ownTiles d i).foldl (fun s t => s.modTile d t fun x => { x with mq := [] }) s

/-- The requests of a region's contexts and pushes that no link has taken are abandoned at quiescing (R40, R166). -/
def State.abandonUnsent (s : State) (d i : Nat) : State :=
  let unsent := fun (e : Asked) => (e.u.kind == .access || e.u.kind == .ape) && e.u.die == d && (s.ownTiles d i).contains e.u.tile
    && s.net.waiting.any fun r => !r.reply && r.id == e.id
  let ids := (s.net.asked.filter unsent).map (·.id)
  let s1 := s.forgetWhere unsent
  { s1 with net := { s1.net with waiting := s1.net.waiting.filter fun r => r.reply || !ids.contains r.id } }

/-- Whether another module may have performed what a context of a region waits for, or a write of a push of its tiles, with its reply not
taken yet (R166, R342). -/
def State.replyLeft (s : State) (d i : Nat) : Bool :=
  ((s.liveCtxs d i).any fun tc =>
      match (s.ctx d tc.1 tc.2).hart.wait with | .remote id => s.net.asked.any fun e => e.id == id | _ => false)
    || s.net.asked.any fun e => e.u.kind == .ape && e.u.die == d && (s.ownTiles d i).contains e.u.tile && e.op == .write

/-- DRAIN_DONE: with no invocation left and its matrix instructions complete a DRAINING region is LOADED; queued coaches go to the
siding (R68, R103, R105, R376). Commands of ended invocations go on. A forced drain abandons a push that waits for a page as quiescing
does (R104, R105). -/
def execDrainDone (s : State) : Host.Outcome State Fault Refusal :=
  .next (match s.arg with
    | .dieIdx o =>
      if (s.slot o.die o.i).state != .draining || !(s.liveCtxs o.die o.i).isEmpty then s
      else
        let s1 := s.finishMatrix o.die o.i
        let forced := (s.slot o.die o.i).forced
        if s1.matrixLeft o.die o.i && !(forced && !s1.replyLeft o.die o.i) then s1.post 100 .drainDone s.arg
        else
          let s2 := (s1.dropMatrix o.die o.i).sideQueues o.die o.i
          let s3 : State := { s2 with withheld := s2.withheld.filter fun w => !(w.u.die == o.die && w.slot == o.i && w.u.kind != .channel) }
          ((s3.slotTo o.die o.i .loaded).modSlot o.die o.i fun r => { r with forced := false }).settle o.die
    | _ => s)

/-- The oldest link of a context ends; a push that waits keeps it, with the number of its elements written (R257, R264). -/
def State.settleOldest (s : State) (d t c : Nat) (l : Link) : State × Bool :=
  match l.push with
  | none => (s.modCtx d t c fun x => x.settleLink l, true)
  | some p =>
    match s.linkPush d t c l p with
    | (s1, none) => (s1.modCtx d t c fun x => x.settleLink l, true)
    | (s1, some k) => (s1.modCtx d t c fun x => { x with links := { l with push := some { p with skip := k } } :: x.links.drop 1 }, false)

/-- The pushes of a region's links that await a reply go on at quiescing, as far as the replies have come (R166). -/
def State.finishPushes (s : State) (d i : Nat) : State :=
  (s.liveCtxs d i).foldl (fun s tc =>
    match (s.ctx d tc.1 tc.2).links with
    | l :: _ =>
      (match l.push with
       | some p =>
         if s.net.asked.any fun e => e.u == (apeUnit d tc.1 p.ape).u && e.op == .write && s.net.got.any fun g => g.id == e.id then
           (s.settleOldest d tc.1 tc.2 l).1
         else s
       | none => s)
    | [] => s) s

/-- What is left in the matrix queues of a region's tiles as it is saved, pushes that wait for a page and what stands behind them, is kept
for its RESUME (R104, R166). -/
def State.keepMatrix (s : State) (d i : Nat) : State :=
  let left := (s.ownTiles d i).filterMap fun t => if (s.tile d t).mq.isEmpty then none else some (t, (s.tile d t).mq)
  (s.dropMatrix d i).modSlot d i fun r => { r with mqs := left }

/-- QUIESCE_DONE: every context stands at a boundary, the replies that contexts and pushes wait for taken and the matrix instructions
complete; the save of live contexts begins (R103, R104, R166, R286). -/
def execQuiesceDone (s : State) : Host.Outcome State Fault Refusal :=
  .next (match s.arg with
    | .dieIdx o =>
      let r := s.slot o.die o.i
      if r.state == .quiescing || (r.state == .frozen && r.freezing && r.sfault != .saving) then
        let s1 := (((s.abandonUnsent o.die o.i).finishMatrix o.die o.i).finishPushes o.die o.i).abandonUnsent o.die o.i
        if s1.replyLeft o.die o.i then s1.post 100 .quiesceDone s.arg
        else ((((s1.keepMatrix o.die o.i).boundary o.die o.i false).sideQueues o.die o.i).save o.die o.i).settle o.die
      else s
    | _ => s)

/-- SAVE_DONE: the last save write is visible (R103, R286, R460). -/
def execSaveDone (s : State) : Host.Outcome State Fault Refusal :=
  .next (match s.arg with
    | .dieIdx o =>
      let r := s.slot o.die o.i
      if r.state == .saving then (s.slotTo o.die o.i .preempted).settle o.die
      else if r.state == .frozen && r.freezing then (s.frozenNow o.die o.i).settle o.die
      else s
    | _ => s)

/-- A region freezes on a fault of its save area as it is restored (R460). -/
def State.restoreFault (s : State) (d i t c va n : Nat) : State :=
  s.freeze d i (trapInfoWord d t c 4 false true) (w64 (s.areaFault d i .read va n)) .restoring

/-- The tile blocks that R101 wrote read back, over whatever block the tile still holds (entry 24); or the block that faults. -/
def State.restoreBlocks (s : State) (d i : Nat) : List Nat → Except Nat State
  | [] => .ok s
  | t :: r => (s.readBlock d i t).elim (.error t) fun s1 => s1.restoreBlocks d i r

/-- One saved context as its area restores it (R106, R271, R272): CHAIN discards its links. The links of a trap handler are those kept
beside its area, whose chain block stays the trap's (R286; entry 54). -/
def restoredCtx (old : Context) (x : SavedCtx) (bs : List Byte) : Context × Option Nat :=
  let st := wordAt bs 8
  let y := { old.load bs 8 x.latches with
    live := true, cls := bits st 3 0, coach := bit st 4, q7 := if bit st 5 then old.q7 else none
    q6 := if bit st 6 then old.q6 else none, inv := x.inv, fired := x.fired, wdogDone := x.wdogDone
    checked := [], read := none, part := x.part, late := [] }
  match x.links with
  | some ls => ({ y with links := ls }, none)
  | none =>
    match linksOf (bs.drop 12288) with
    | .ok ls => ({ y with links := ls }, none)
    | .error k => ({ y with links := [] }, some k)

/-- The saved contexts read back; those that CHAIN strikes, with their TVAL; or the one whose area faults. -/
def State.restoreCtxs (s : State) (d i : Nat) : List SavedCtx → Except SavedCtx (State × List (Nat × Nat × Nat))
  | [] => .ok (s, [])
  | x :: r =>
    (s.areaRead d i ((s.slot d i).area x.tile x.c) 24576).elim (.error x) fun bs =>
      let (y, bad) := restoredCtx (s.ctx d x.tile x.c) x bs
      match (s.modCtx d x.tile x.c fun _ => y).restoreCtxs d i r with
      | .error e => .error e
      | .ok (s2, l) => .ok (s2, match bad with | some k => (x.tile, x.c, k) :: l | none => l)

/-- REGION_RESTORE_DONE: the areas and blocks of a RESTORING region are read back, it takes its planes as at an arming, and its
siding returns (R98, R106); CHAIN or a fault of the save area freezes it (R272, R460). -/
def execRegionRestoreDone (s : State) : Host.Outcome State Fault Refusal :=
  .next (match s.arg with
    | .dieIdx o =>
      let d := o.die
      let i := o.i
      let r := s.slot d i
      if r.state != .restoring then s
      else match s.restoreBlocks d i r.blocks with
        | .error t => s.restoreFault d i t 0 (r.blockVa t) 659456
        | .ok s1 =>
          match s1.restoreCtxs d i r.saved with
          | .error x => s.restoreFault d i x.tile x.c (r.area x.tile x.c) 24576
          | .ok (s2, bad) =>
            let s3 := s2.modSlot d i fun r => { r with saved := [], blocks := [], resuming := true }
            if bad.isEmpty then
              ((s3.armPhase d i).returnSided d i (fun _ => true) fun l =>
                l.filter (fun x => x.queued) ++ l.filter fun x => !x.queued).settle d
            else
              (bad.foldl (fun s b => s.chainTrap d b.1 b.2.1 i b.2.2)
                (s3.modSlot d i fun r => { r with resuming := false })).settle d
    | _ => s)

/-! Withholding (R123-R127). -/

/-- The code of a withholding unit in REG.FINFO. -/
def unitCode (k : UnitKind) : Nat := match k with | .access => 0 | .fetch => 1 | .ape => 2 | .channel => 3 | .generator => 4
/-- The code of an access in REG.FINFO. -/
def accCode (a : Acc) : Nat := match a with | .read => 0 | .write => 1 | .rmw => 2 | .fetch => 3 | .line => 0

/-- REG.FINFO, REG.FVA and REG.FPOS take a record, unless one stands there unacknowledged (R127). -/
def Slot.faultRecord (r : Slot) (u : UnitRef) (a : Acc) (level code va : Nat) (pos : Option Nat) : Slot :=
  if bit r.finfo 63 then r
  else
    let tile := match u.kind with | .generator => depotTile u.tile | _ => u.tile
    { r with
      finfo := w64 (2 ^ 63 + u.die * 2 ^ 56 + tile * 2 ^ 48 + unitCode u.kind * 2 ^ 36 + u.i % 16 * 2 ^ 32 + accCode a * 2 ^ 20
        + level % 16 * 2 ^ 16 + code % 2 ^ 8)
      fva := w64 (va % 2 ^ 57)
      fpos := w64 (match pos with | some p => 2 ^ 63 + p % 2 ^ 48 | none => 0) }

/-- REWALK: the walk of a withholding unit is made again each 2 us; where it succeeds the unit goes on (R124). One that was due to an
earlier withholding of the unit does nothing. -/
def execRewalk (s : State) : Host.Outcome State Fault Refusal :=
  .next (match s.arg with
    | .unitRef u =>
      (match s.withheld.find? fun w => w.u == u with
       | none => s
       | some w =>
         if s.sys.clock < w.next then
           (if s.agenda.any fun p => p.ev == .rewalk && p.arg == s.arg then s else s.post (w.next - s.sys.clock) .rewalk s.arg)
         else match s.translate (s.slot u.die w.slot).ptbr (s.slot u.die w.slot).boot w.acc (w.va % 2 ^ 57) with
         | .error (lv, c) =>
           let again := fun (x : Withheld) => { x with level := lv, code := c, next := s.sys.clock + 2000 }
           ({ s with withheld := s.withheld.map fun x => if x.u == u then again x else x } : State).post 2000 .rewalk s.arg
         | .ok _ =>
           let s1 := s.unwithhold u
           match u.kind with
           | .ape =>
             (s1.modTile u.die u.tile fun t => t.modApe u.i fun a => { a with wh := false }).post 1 .apeElement
               (.tileIdx { die := u.die, tile := u.tile, i := u.i })
           | .channel =>
             (s1.modTile u.die u.tile fun t => t.modChan u.i fun c => { c with
               state := if c.state == .paused then .running else c.state }).post 1 .ceGranule
               (.tileIdx { die := u.die, tile := u.tile, i := u.i })
           | .access => s1
           | .fetch => s1
           | .generator => s1)
    | _ => s)

/-- WITHHOLD_TIMEOUT: the fault is recorded and the region pre-empted (R124, R125, R127); a region of a boot walk drains and its
walk ends (R453). -/
def execWithholdTimeout (s : State) : Host.Outcome State Fault Refusal :=
  .next (match s.arg with
    | .unitRef u =>
      (match s.withheld.find? fun w => w.u == u with
       | none => s
       | some w =>
         let d := u.die
         let r := s.slot d w.slot
         if r.state != .armed then s
         else if s.sys.clock < w.since + r.tw then s.post (w.since + r.tw - s.sys.clock) .withholdTimeout s.arg
         else
           let s1 := (s.modSlot d w.slot fun r => r.faultRecord u w.acc w.level w.code w.va w.pos).inform 4 (w64 (d * 16 + w.slot))
           let s2 : State := { s1 with life := { s1.life with timeouts := bump s1.life.timeouts } }
           if r.boot then (s2.bootFail d w.slot).settle d else (s2.quiesce d w.slot).settle d)
    | _ => s)

/-! Watchdogs (R282). -/

/-- What a waiting instruction abandoned by a WATCHDOG holds is let go: its withholding, that of the stream it waits for (R291), its
captures. Its arrival at a barrier stays counted (R430). A YIELD still parked issues again (R328). -/
def State.abandonWait (s : State) (d t c i : Nat) : State :=
  let s1 := (s.unwithhold { kind := .access, die := d, tile := t, i := c }).unwithhold { kind := .fetch, die := d, tile := t, i := c }
  let s2 := s1.modTile d t fun x => { x with
    apes := x.apes.map fun e => (e.1, if e.2.holder == some c then e.2.letGo else e.2) }
  match (s.ctx d t c).hart.wait with
  | .yield .. => s2.modCtx d t c fun x => { x with hart := { x.hart with pc := x.hart.pc - 8 } }
  | .bar id =>
    s2.modSlot d i fun r =>
      let b := r.bars.get id .init
      { r with bars := r.bars.set id { b with waiting := b.waiting.filter (· != (t, c)) } }
  | .ape e =>
    ((s2.unwithhold (apeUnit d t e).u).modTile d t fun x => x.modApe e fun a => { a with wh := false }).post 1 .apeElement
      (.tileIdx { die := d, tile := t, i := e })
  | _ => s2

/-- WATCHDOG: an invocation or a supervisor core has run to its limit (R278, R279, R282). -/
def execWatchdog (s : State) : Host.Outcome State Fault Refusal :=
  .next (match s.arg with
    | .agentRef o =>
      (match o.a with
       | .core n =>
         let x := s.core n
         if !x.running || x.wlim == 0 || x.wdone || s.sys.clock < x.wstart + 1000 * x.wlim then s
         else { (({ s with cur := o.a }).modCore n fun x => { x with wdone := true }).trap 12 0 (w64 ((s.sys.clock - x.wstart) / 1000)) with
                cur := s.cur }
       | .ctx d t c =>
         let x := s.ctx d t c
         (match s.regionAt d t with
          | none => s
          | some i =>
            let r := s.slot d i
            if !x.live || x.wdogDone || r.wdog == 0 || !(r.state == .armed || r.state == .draining) then s
            else if r.active s.sys.clock < x.fired + 1000 * r.wdog then
              s.post (x.fired + 1000 * r.wdog - r.active s.sys.clock) .watchdog s.arg
            else
              let s1 := (s.abandonWait d t c i).modCtx d t c fun x => { x with wdogDone := true }
              { (({ s1 with cur := o.a }).trap 12 0 (w64 ((r.active s.sys.clock - x.fired) / 1000))) with cur := s.cur }))
    | _ => s)

/-! Links (R264). -/

/-- LINK_SETTLE: the oldest link of a context ends; while its push waits, the event comes again. -/
def execLinkSettle (s : State) : Host.Outcome State Fault Refusal :=
  .next (match s.arg with
    | .tileIdx o =>
      let runs := match s.regionAt o.die o.tile with
        | some i => (s.slot o.die i).state == .armed || (s.slot o.die i).state == .draining
        | none => false
      if !runs then s
      else match (s.ctx o.die o.tile o.i).links with
        | [] => s
        | l :: _ =>
          let (s1, done) := s.settleOldest o.die o.tile o.i l
          if done then s1 else s1.post 100 .linkSettle s.arg
    | _ => s)

/-! Depot address generators (R228, R229). -/

/-- Word w of a generator's record. -/
def Gen.w (g : Gen) (i : Nat) : Word := vget g.record i 0
/-- Element type. -/
def Gen.typ (g : Gen) : Nat := bits (g.w 0) 15 12
/-- Whether it is a line-buffer generator. -/
def Gen.line (g : Gen) : Bool := bits (g.w 0) 2 1 == 1

/-- Whether a record is malformed (R228). -/
def Gen.bad (g : Gen) : Bool :=
  let ndim := bits (g.w 0) 7 6
  2 ≤ bits (g.w 0) 2 1 || bit (g.w 0) 5 || bits (g.w 0) 63 16 != 0 || bits (g.w 1) 63 23 != 0 || g.w 7 != 0
    || g.typ == 5 || g.typ == 6 || 11 ≤ g.typ || (!g.line && bits (g.w 6) 63 48 != 0)
    || (List.range ndim).any fun k => bits (g.w (2 + k)) 23 0 == 0

/-- The compute tile a generator feeds, where it lies in the region. -/
def State.genTarget (s : State) (d n i : Nat) (g : Gen) : Option Nat :=
  (neighbour (depotTile n) (bits (g.w 0) 4 3)).filter fun t => (s.slot d i).inRect t && isCompute t

/-- Whether the target APE of a generator matches it (R229). -/
def State.genMatches (s : State) (d n k t : Nat) (g : Gen) : Bool :=
  let a := (s.tile d t).ape (bits (g.w 0) 11 8)
  !a.bad && a.fedBit && !a.dir && a.typ == g.typ && neighbour t (bits (a.w 1) 13 12) == some (depotTile n) && bits (a.w 1) 15 14 == k

/-- A generator after one element. -/
def Gen.stepped (g : Gen) : Gen :=
  if g.n + 1 < bits (g.w 6) 47 0 then { g with n := g.n + 1 }
  else { g with n := 0, pass := g.pass + 1, on := decide (g.pass + 1 < bits (g.w 6) 63 48 + 1) }

/-- A generator stops with a record in REG.FINFO (R229). -/
def State.genStop (s : State) (d n k i : Nat) (g : Gen) : State :=
  (s.modDepot d n fun x => { x with gens := x.gens.set k .init }).modSlot d i fun r =>
    r.faultRecord { kind := .generator, die := d, tile := n, i := k } .read 0 0 0 (some g.n)

/-- The waiting contexts of a tile see the element at their next look: those that wait for the APE are ready. -/
def State.feed (s : State) (d t e : Nat) (x : Elem) : State :=
  s.modTile d t fun tl => tl.modApe e fun a => { a with fed := a.fed ++ [x] }

/-- GENERATOR_ELEMENT: a generator of an ARMED region delivers its next element, or waits for room, or stops (R229); a unit that holds
a stream context's frame is no FIFO or line buffer (R226). -/
def execGeneratorElement (s : State) : Host.Outcome State Fault Refusal :=
  .next (match s.arg with
    | .dieIdx2 o =>
      let d := o.die
      let n := o.depot
      let k := o.gen
      let g := (s.depot d n).gens.get k .init
      (match s.regionAt d (depotTile n) with
       | none => s
       | some i =>
         if !g.on || (s.slot d i).state != .armed then s
         else if g.bad then s.genStop d n k i g
         else match s.genTarget d n i g with
           | none => s.genStop d n k i g
           | some t =>
             let e := bits (g.w 0) 11 8
             let a := (s.tile d t).ape e
             if !s.genMatches d n k t g then s.genStop d n k i g
             else if bits (g.w 6) 47 0 == 0 then
               s.modDepot d n fun x => { x with gens := x.gens.set k { g with on := false, pass := 1 } }
             else if 256 ≤ a.fed.length then s.post 10 .generatorElement s.arg
             else
               let ndim := bits (g.w 0) 7 6
               let off := (elementAddr (fun j => g.w (2 + j)) ndim 0 (w64 (bits (g.w 1) 22 0)) g.n).toNat
               let sz := elemSize g.typ
               let lo := if g.line then (s.depot d n).fend * 65536 else (s.depot d n).pend * 65536
               let hi := if g.line then 2 ^ 23 else (s.depot d n).fend * 65536
               if off < lo || hi < off + sz || s.pinned d off then s.genStop d n k i g
               else
                 let p : Phys := { key := depotKey d n off, mt := 3 }
                 let el : Elem := { code := s.rd p sz, sub := 0, scale := 0, pois := s.poisoned p }
                 ((s.feed d t e el).modDepot d n fun x => { x with gens := x.gens.set k g.stepped }).post 2 .generatorElement s.arg)
    | _ => s)

/-! Register writes by firmware, named by their register. -/

/-- WHOLD_WRITE (R126). -/
def execWholdWrite (s : State) : Host.Outcome State Fault Refusal :=
  .next (match s.arg with
    | .slotVal o => s.writeReg o.die o.slot 0x802 o.v o.v
    | _ => s)

/-- TRAPINFO_ACK (R286, R287, R460). -/
def execTrapinfoAck (s : State) : Host.Outcome State Fault Refusal :=
  .next (match s.arg with
    | .slotVal o => s.ackTrap o.die o.slot o.v
    | _ => s)

/-- TILE_PRED_WRITE (R202, R326). -/
def execTilePredWrite (s : State) : Host.Outcome State Fault Refusal :=
  .next (match s.arg with
    | .tileVal o => s.writePred o.die o.tile o.v
    | _ => s)

/-- SVWDOG_WRITE (R282). -/
def execSvwdogWrite (s : State) : Host.Outcome State Fault Refusal :=
  .next (match s.arg with
    | .coreVal o => s.writeSvwdog o.core o.v
    | _ => s)

end Sys2Proof.Machine
end

