-- ==== Sys2Proof/Machine/Net.lean ====
section
/-! DEFINITION. The Ethernet ports: host operations (02 R27-R33; 07 R163, R164), the pod loop's frames (02 R34-R39; 12 R290)
and requests of other modules (02 R40, R41; 07 R165). Ports are numbered 0-3 for H0-H3 and 4-11 for L0-L7. -/

namespace Sys2Proof.Machine

/-! Ports and queue pairs. -/

/-- A port. -/
def State.portOfNet (s : State) (p : Nat) : Port := s.net.ports.get p .init
/-- The state with a port changed. -/
def State.modPort (s : State) (p : Nat) (f : Port → Port) : State :=
  { s with net := { s.net with ports := s.net.ports.set p (f (s.portOfNet p)) } }
/-- A QP. -/
def State.qp (s : State) (q : Nat) : QP := s.net.qps.get q .init
/-- The state with a QP changed. -/
def State.modQp (s : State) (q : Nat) (f : QP → QP) : State := { s with net := { s.net with qps := s.net.qps.set q (f (s.qp q)) } }

/-- A reply to the host. -/
def State.answer (s : State) (q : Nat) (r : HostReply) : State := s.emit (.host q r)
/-- A NAK that moves the QP to the error state. -/
def State.nak (s : State) (q : Nat) (r : HostReply) : State := (s.answer q r).modQp q fun x => { x with err := true }
/-- A frame dropped and counted at a port (R25, R35, R36). -/
def State.dropFrame (s : State) (p : Nat) : State := s.modPort p fun x => { x with dropped := x.dropped + 1 }

/-- a - b in sequence numbers modulo 2^24. -/
def seqDiff (a b : Nat) : Nat := (a + 2 ^ 24 - b % 2 ^ 24) % 2 ^ 24

/-- Packets of a message of n bytes at a path MTU. -/
def packetsOf (mtu n : Nat) : Nat := max 1 (ceilDiv n mtu)

/-- The congestion answer to a packet with CE set: a CNP, at most once per 50 us of its QP (R33). -/
def State.sendCnp (s : State) (q : Nat) (ce : Bool) : State :=
  let due := match (s.qp q).cnpAt with | none => true | some t => decide (t + 50000 ≤ s.sys.clock)
  if ce && due then (s.emit (.cnp q)).modQp q fun y => { y with cnpAt := some s.sys.clock } else s

/-- A message whose sequence number is ahead of the one that QP x expects by so much, modulo 2^24: k takes it where it is the one expected;
a later one draws one sequence error, an earlier one was received before, and again takes it (R33; entry 18). -/
def State.inSequence (s : State) (p : PktIn) (n : Nat) (x : QP) (ahead : Nat) (again k : QP → State → State) : State :=
  if ahead == 0 then
    k x (s.modQp p.qp fun y => { y with epsn := (p.psn + packetsOf x.mtu n) % 2 ^ 24, nakSent := false })
  else if 2 ^ 23 ≤ ahead then again x s
  else if x.nakSent then s
  else (s.answer p.qp (.nakSeq x.epsn)).modQp p.qp fun y => { y with nakSent := true }

/-- A message of n bytes on a QP that is connected, not in error, and whose port's link is up. A frame too long for the MAC is dropped and
counted at the port it comes to, whatever its QP (R25). -/
def State.onQp (s : State) (p : PktIn) (n : Nat) (again k : QP → State → State) : State :=
  let x := s.qp p.qp
  let port := if x.conn then x.port else p.port
  if !(s.portOfNet port).up then s
  else if 9216 < p.frame then s.dropFrame port
  else if !x.conn || x.err then s
  else (s.sendCnp p.qp p.ce).inSequence p n x (seqDiff p.psn x.epsn) again k

/-- An RNR NAK: the message is still the next one expected (R28). -/
def State.notReady (s : State) (q : Nat) (x : QP) : State := (s.answer q (.rnr x.timer)).modQp q fun y => { y with epsn := x.epsn }

/-- The parts of an operand that every message has. -/
def pktOfWr (o : HostWr) : PktIn := { qp := o.qp, ce := o.ce, frame := o.frame, psn := o.psn, port := o.port }
/-- The parts of an operand that every message has. -/
def pktOfRd (o : HostRd) : PktIn := { qp := o.qp, ce := o.ce, frame := o.frame, psn := o.psn, port := o.port }
/-- The parts of an operand that every message has. -/
def pktOfAt (o : HostAt) : PktIn := { qp := o.qp, ce := o.ce, frame := o.frame, psn := o.psn, port := o.port }

/-- The longest message, in bytes (R29). -/
def maxMessage : Nat := 2 ^ 31

/-! Memory regions (R30, R31). -/

/-- A host access that R31 turns away: NAK (remote access error), the QP in error, a host-fault event with the VA. -/
def State.hostFault (s : State) (q va : Nat) : State := (s.nak q .nakAccess).inform 1 (w64 va)

/-- The memory region an rkey names, where the range lies in it and it has the right. -/
def State.mrOf (s : State) (rkey : BitVec 32) (va n : Nat) (right : MR → Bool) : Option MR :=
  let m := s.net.mrs.get (rkey.toNat % 1024) .init
  if m.used && m.key == rkey.toNat / 1024 && right m && m.base.toNat ≤ va && va + n ≤ m.base.toNat + m.len && va + n ≤ 2 ^ 57
  then some m else none

/-- The root a region translates through (R115). -/
def mrRoot (m : MR) (rkey : BitVec 32) : Word := setBits m.root 63 48 (0xFC00 + rkey.toNat % 1024)

/-- A host's requests at the home slices. -/
def hostReq (root : Word) : Req := { kind := 5, die := 0, tile := 0, slot := none, root := root, sup := false }

/-- Pieces written in ascending order until one faults: the state, and the VA of the fault (R31, R163). -/
def State.hostWrite (s : State) (root : Word) (sup : Bool) : List (Nat × Nat) → List Byte → State × Option Nat
  | [], _ => (s, none)
  | (va, n) :: r, bs =>
    match s.translate root sup .write va with
    | .error _ => (s, some va)
    | .ok l =>
      let p : Phys := { key := l.page + va % 4096, mt := l.mt }
      ((s.hot (hostReq root) .write p va).wr p (bs.take n)).hostWrite root sup r (bs.drop n)

/-- What a host READ meets. -/
inductive ReadEnd where
  | done | fault (va : Nat) | poison (va : Nat)
  deriving DecidableEq, Repr

/-- Pieces read in ascending order, with what stopped them (R31, R164). -/
def State.hostRead (s : State) (root : Word) (sup : Bool) : List (Nat × Nat) → State × List Byte × ReadEnd
  | [] => (s, [], .done)
  | (va, n) :: r =>
    match s.translate root sup .read va with
    | .error _ => (s, [], .fault va)
    | .ok l =>
      let p : Phys := { key := l.page + va % 4096, mt := l.mt }
      if s.poisoned p then (s, [], .poison va)
      else
        let bs := leOf n (s.rd p n)
        let (s1, rest, e) := (s.hot (hostReq root) .read p va).hostRead root sup r
        (s1, bs ++ rest, e)

/-- A WRITE into a region: k follows where it succeeds. A message longer than R29 allows is an invalid request. -/
def State.doWrite (s : State) (o : HostWr) (k : State → State) : State :=
  let va := o.va.toNat
  if maxMessage < o.data.length then s.nak o.qp .nakInvalid
  else match s.mrOf o.rkey va o.data.length (·.wr) with
  | none => s.hostFault o.qp va
  | some m =>
    match s.hostWrite (mrRoot m o.rkey) false (pieces va o.data.length) o.data with
    | (s1, some x) => s1.hostFault o.qp x
    | (s1, none) => k s1

/-- HOST_WRITE (R28, R30, R31). -/
def execHostWrite (s : State) : Host.Outcome State Fault Refusal :=
  .next (match s.arg with
    | .hostWr o => s.onQp (pktOfWr o) o.data.length (fun _ s => s.answer o.qp .ack) fun _ s => s.doWrite o fun s => s.answer o.qp .ack
    | _ => s)

/-- HOST_WRITE_IMM: the receive queue is checked first (R28). -/
def execHostWriteImm (s : State) : Host.Outcome State Fault Refusal :=
  .next (match s.arg with
    | .hostWr o => s.onQp (pktOfWr o) o.data.length (fun _ s => s.answer o.qp .ack) fun x s =>
      (match x.recv with
       | [] => s.notReady o.qp x
       | b :: r => s.doWrite o fun s =>
         ((s.modQp o.qp fun x => { x with recv := r }).emit (.deliver o.qp b.1 o.data.length (some o.imm) false)).answer o.qp .ack)
    | _ => s)

/-- HOST_SEND: into the next posted buffer of the firmware, which lies in its own address space; a message longer than it leaves
the bytes that fit, with a length error (R28). -/
def execHostSend (s : State) : Host.Outcome State Fault Refusal :=
  .next (match s.arg with
    | .hostWr o => s.onQp (pktOfWr o) o.data.length (fun _ s => s.answer o.qp .ack) fun x s =>
      (match x.recv with
       | [] => s.notReady o.qp x
       | b :: r =>
         let long := decide (b.2 < o.data.length) || decide (maxMessage < o.data.length)
         let fit := o.data.take b.2
         match s.hostWrite s.sys.svptbr true (pieces b.1.toNat fit.length) fit with
         | (s1, some va) => s1.hostFault o.qp va
         | (s1, none) =>
           let s2 := (s1.modQp o.qp fun x => { x with recv := r }).emit (.deliver o.qp b.1 fit.length none long)
           if long then s2.nak o.qp .nakInvalid else s2.answer o.qp .ack)
    | _ => s)

/-- The response of a READ: the packets before the one that would carry a poisoned granule stand; a page that faults in translation
draws the NAK alone (R28, R31; entry 18). -/
def State.doRead (s : State) (o : HostRd) (x : QP) : State :=
  let va := o.va.toNat
  if 64 ≤ o.ahead || maxMessage < o.len then s.nak o.qp .nakInvalid
  else match s.mrOf o.rkey va o.len (·.rd) with
    | none => s.hostFault o.qp va
    | some m =>
      match s.hostRead (mrRoot m o.rkey) false (pieces va o.len) with
      | (s1, bs, .done) => s1.answer o.qp (.data bs)
      | (s1, _, .fault f) => s1.hostFault o.qp f
      | (s1, bs, .poison f) =>
        let n := (f - va) / x.mtu * x.mtu
        (((if n == 0 then s1 else s1.answer o.qp (.data (bs.take n))).nak o.qp .nakOp).inform 2 (w64 f))

/-- HOST_READ: one received again is performed again. -/
def execHostRead (s : State) : Host.Outcome State Fault Refusal :=
  .next (match s.arg with
    | .hostRd o => s.onQp (pktOfRd o) o.len (fun x s => s.doRead o x) fun x s => s.doRead o x
    | _ => s)

/-- The read and write of a host's atomic at the place that its address names; poison is answered, not written (R32). -/
def State.hostAtomicAt (s : State) (o : HostAt) (root : Word) (p : Phys) (f : Word → Option Word) : State :=
  if s.poisoned p then (s.nak o.qp .nakOp).inform 2 o.va
  else
    let old := w64 (s.rd p 8)
    let s1 := s.hot (hostReq root) .rmw p o.va.toNat
    ((match f old with | some v => s1.wr p (leOf 8 v.toNat) | none => s1).modQp o.qp fun x => { x with
      saved := ((o.psn, old) :: x.saved).take 64 }).answer o.qp (.old old)

/-- An atomic received again: the old value that was answered, where it is held (entry 18). -/
def State.oldAgain (s : State) (o : HostAt) (x : QP) : State :=
  match x.saved.find? fun e => e.1 == o.psn with
  | some e => s.answer o.qp (.old e.2)
  | none => s

/-- A host atomic of 8 bytes: f gives the new value, or none (R31, R32). -/
def State.hostAtomic (s : State) (o : HostAt) (f : Word → Option Word) : State :=
  s.onQp (pktOfAt o) 0 (fun x s => s.oldAgain o x) fun _ s =>
    if 64 ≤ o.ahead then s.nak o.qp .nakInvalid
    else match s.mrOf o.rkey o.va.toNat 8 (·.at_) with
    | none => s.hostFault o.qp o.va.toNat
    | some m =>
      if o.va.toNat % 8 != 0 then s.nak o.qp .nakInvalid
      else match s.translate (mrRoot m o.rkey) false .rmw o.va.toNat with
        | .error _ => s.hostFault o.qp o.va.toNat
        | .ok l => s.hostAtomicAt o (mrRoot m o.rkey) { key := l.page + o.va.toNat % 4096, mt := l.mt } f

/-- FETCH_ADD (R32). -/
def execFetchAdd (s : State) : Host.Outcome State Fault Refusal :=
  .next (match s.arg with
    | .hostAt o => s.hostAtomic o fun old => some (old + o.x)
    | _ => s)

/-- CMP_SWAP (R32). -/
def execCmpSwap (s : State) : Host.Outcome State Fault Refusal :=
  .next (match s.arg with
    | .hostAt o => s.hostAtomic o fun old => if old == o.x then some o.y else none
    | _ => s)

/-- HOST_INVALID_OPCODE (R28). -/
def execHostInvalidOpcode (s : State) : Host.Outcome State Fault Refusal :=
  .next (match s.arg with
    | .pktIn o => s.onQp o 0 (fun _ s => s.answer o.qp .ack) fun _ s => s.nak o.qp .nakInvalid
    | _ => s)

/-- CNP_RECEIVED: the send rate falls by DCQCN (R33; entry 18). -/
def execCnpReceived (s : State) : Host.Outcome State Fault Refusal :=
  .next (match s.arg with
    | .idxRef o =>
      let x := s.qp o.i
      if !x.conn || x.err || !(s.portOfNet x.port).up then s else s.modQp o.i fun x => { x with rate := Config.dcqcn x.dcq x.rate }
    | _ => s)

/-! The firmware at the host ports (R27-R33; entry 5): connections, buffers, regions, and the requests it posts. -/

/-- Whether the frames of a QP wait for the end of a pause of its priority at its port (R33; entry 18). -/
def State.pausedQp (s : State) (x : QP) : Bool := (s.portOfNet x.port).paused && (s.portOfNet x.port).pfc == some (x.dscp / 8)

/-- A posted request sent, where the QP's link is up; a paused one is held back until the pause ends (R33). -/
def State.sendPost (s : State) (q : Nat) (p : Posted) : State :=
  if !(s.portOfNet (s.qp q).port).up then s
  else if s.pausedQp (s.qp q) then
    s.modQp q fun x => { x with posted := x.posted.map fun e => if e.psn == p.psn then { e with held := true } else e }
  else s.emit (.request q p)

/-- The requests that a pause at port p held back are sent, in order (R33). -/
def State.unpause (s : State) (p : Nat) : State :=
  s.net.qps.foldl (fun s e =>
    if e.2.conn && e.2.port == p then
      (e.2.posted.filter (·.held)).foldl (fun s r => s.sendPost e.1 { r with held := false })
        (s.modQp e.1 fun x => { x with posted := x.posted.map fun r => { r with held := false } })
    else s) s

/-- A PFC frame for a priority at port p: where it is the port's lossless one, transmission of it stops or goes on (R33). -/
def State.pauseAt (s : State) (p prio : Nat) (on : Bool) : State :=
  if !(s.portOfNet p).up || (s.portOfNet p).pfc != some prio then s
  else if on then s.modPort p fun x => { x with paused := true }
  else (s.modPort p fun x => { x with paused := false }).unpause p

/-- The packets of a posted request: those of its answer for a READ. -/
def postLen (p : PostIn) : Nat := match p.op with | .send | .write | .writeImm | .read => p.n | .fetchAdd | .cmpSwap => 0

/-- The bytes that a posted request sends from the firmware's memory; none where they cannot be read. -/
def State.postData (s : State) (p : PostIn) : State × Option (List Byte) :=
  match p.op with
  | .send | .write | .writeImm =>
    (match s.hostRead s.sys.svptbr true (pieces p.loc.toNat p.n) with
     | (s1, bs, .done) => (s1, some bs)
     | (s1, _, .fault _) => (s1, none)
     | (s1, _, .poison _) => (s1, none))
  | .read | .fetchAdd | .cmpSwap => (s, some [])

/-- A request posted on a QP (R27). -/
def State.postReq (s : State) (q : Nat) (p : PostIn) : State :=
  let x := s.qp q
  if !x.conn || x.err then s
  else match s.postData p with
    | (s1, none) => s1.inform 1 p.loc
    | (s1, some bs) =>
      let e : Posted := { psn := x.spsn, pkts := packetsOf x.mtu (postLen p), req := p, data := bs, held := false }
      (s1.modQp q fun y => { y with spsn := (y.spsn + e.pkts) % 2 ^ 24, posted := y.posted ++ [e] }).sendPost q e

/-- The requests that a sequence number does not acknowledge: those whose last packet comes after it. -/
def unacked (psn : Nat) (l : List Posted) : List Posted := l.filter fun e => 2 ^ 23 ≤ seqDiff psn (e.psn + e.pkts - 1)

/-- The posted requests of a QP sent again in order: go-back-N (R33). -/
def State.resendAll (s : State) (q : Nat) : State := (s.qp q).posted.foldl (fun s e => s.sendPost q e) s

/-- An answer of the host to a posted request; the data of a READ or atomic fills the firmware's buffer. -/
def State.takeReply (s : State) (q psn : Nat) (r : PostReply) : State :=
  let x := s.qp q
  if !x.conn || x.err then s
  else match r with
    | .ack => s.modQp q fun y => { y with posted := unacked psn y.posted }
    | .again => (s.modQp q fun y => { y with posted := unacked ((psn + 2 ^ 24 - 1) % 2 ^ 24) y.posted }).resendAll q
    | .nak => s.modQp q fun y => { y with err := true, posted := [] }
    | .data bs =>
      (match x.posted.find? fun e => e.psn == psn with
       | none => s
       | some e =>
         let fit := bs.take e.req.n
         let s1 := s.modQp q fun y => { y with posted := unacked ((e.psn + e.pkts - 1) % 2 ^ 24) y.posted }
         match s1.hostWrite s1.sys.svptbr true (pieces e.req.loc.toNat fit.length) fit with
         | (s2, none) => s2.emit (.deliver q e.req.loc fit.length none false)
         | (s2, some va) => s2.inform 1 (w64 va))

/-- A frame with an answer of the host: one too long is dropped and counted (R25); one with CE set draws a CNP (R33). -/
def State.onReply (s : State) (q psn : Nat) (r : PostReply) (ce : Bool) (frame : Nat) : State :=
  let x := s.qp q
  if !x.conn || !(s.portOfNet x.port).up then s
  else if 9216 < frame then s.dropFrame x.port
  else if x.err then s
  else (s.sendCnp q ce).takeReply q psn r

/-- What the firmware does at the host ports, and the frames that come there in answer. -/
def State.firmwareNet (s : State) (o : FwNet) : State :=
  match o with
  | .recv q va n => s.modQp q fun x => { x with recv := x.recv ++ [(va, n)] }
  | .region i key base len root rd wr at_ =>
    let m : MR := { used := true, key := key, base := base, len := len, root := root, rd := rd, wr := wr, at_ := at_ }
    { s with net := { s.net with mrs := s.net.mrs.set i m } }
  | .noRegion i => { s with net := { s.net with mrs := s.net.mrs.set i .init } }
  | .pfc p prio => (s.modPort p fun x => { x with pfc := prio, paused := false }).unpause p
  | .gid p i v => s.modPort p fun x => { x with gids := x.gids.set i v }
  | .dcqcn q ps => s.modQp q fun x => { x with dcq := ps }
  | .post q p => s.postReq q p
  | .resend q => s.resendAll q
  | .reply q psn r ce frame => s.onReply q psn r ce frame
  | .pause p prio on => s.pauseAt p prio on

/-- The firmware answers a connection request: it connects a QP for its whole life to one host port (R27, R29). One with an MTU that
R29 does not name, or on another port than the QP's, gets no answer; one on the QP's own port connects it anew (entry 18). -/
def State.connect (s : State) (o : CmIn) : State :=
  let x := s.qp o.qp
  if !(s.portOfNet o.port).up || !(o.mtu == 1024 || o.mtu == 2048 || o.mtu == 4096) || (x.conn && x.port != o.port) then s
  else
    (s.modQp o.qp fun x => { x with
      conn := true, err := false, port := o.port, mtu := o.mtu, timer := o.timer, dscp := o.dscp, cnpAt := none
      epsn := o.psn % 2 ^ 24, nakSent := false, saved := [], spsn := o.spsn % 2 ^ 24, posted := [] }).emit (.cm o.port o.qp)

/-- CM_REQUEST: a connection request that the firmware answers, or what else the firmware does at the host ports. -/
def execCmRequest (s : State) : Host.Outcome State Fault Refusal :=
  .next (match s.arg with
    | .cmIn o => s.connect o
    | .fwNet o => s.firmwareNet o
    | _ => s)

/-! The pod loop's frames (R35-R38). -/

/-- Frames of the replay buffer sent again, with the acknowledgement and credit of now (R37). -/
def State.replay (s : State) (down : Bool) : State :=
  (s.net.link down).replay.foldl (fun s f =>
    let g := s.frameOf down 0 (bits f.w0 39 16) f.flits
    s.sendFrame down g) s

/-- Every port of a link retrains, and each retrain is counted (R26, R37). -/
def State.retrain (s : State) (down : Bool) : State :=
  ((List.range 4).map fun i => if down then 4 + i else 8 + i).foldl (fun s p =>
    let s1 := s.modPort p fun x => { x with retrains := x.retrains + 1 }
    { s1 with life := { s1.life with retrains := s1.life.retrains.set p (bump (s1.life.retrains.get p 0)) } }) s

/-- A replay: the eighth of the same frame without progress retrains the link instead (R37). -/
def State.replayOnce (s : State) (down : Bool) : State :=
  let n := (s.net.link down).replays
  if 8 ≤ n then ((s.retrain down).modLink down fun l => { l with replays := 0, sentAt := s.sys.clock }).replay down
  else (s.replay down).modLink down fun l => { l with replays := n + 1, sentAt := s.sys.clock }

/-- REPLAY_TIMEOUT: the oldest frame has stood unacknowledged for 20 us (R37). -/
def execReplayTimeout (s : State) : Host.Outcome State Fault Refusal :=
  .next (match s.arg with
    | .dirRef o =>
      let l := s.net.link o.down
      if l.replay.isEmpty then s
      else if s.sys.clock < l.sentAt + 20000 then s.post (l.sentAt + 20000 - s.sys.clock) .replayTimeout s.arg
      else ((if s.podUp o.down then s.replayOnce o.down else s).post 20000 .replayTimeout s.arg)
    | _ => s)

/-- ACK_TIMER: a standalone ack goes out while received frames are unacknowledged (R37). -/
def execAckTimer (s : State) : Host.Outcome State Fault Refusal :=
  .next (match s.arg with
    | .dirRef o =>
      if !(s.net.link o.down).unacked then s
      else if s.podUp o.down then s.sendFrame o.down (s.frameOf o.down 1 0 [])
      else s.post 1000 .ackTimer s.arg
    | _ => s)

/-- The module expected on a link (R34). -/
def State.podNeighbour (s : State) (down : Bool) : Nat :=
  let size := bits s.sys.podcfg 22 16
  if down then (s.module + 1) % size else (s.module + size - 1) % size

/-- Whether a frame is bad (R36). -/
def State.badFrame (s : State) (down : Bool) (f : FrameIn) : Bool :=
  let type := bits f.w0 3 0
  let n := bits f.w0 15 8
  !f.fcsOk || 3 ≤ type || bits f.w0 7 4 != 0 || bits f.w1 63 32 != 0 || bits f.w1 15 8 != 0
    || (if type == 0 then n == 0 || 64 < n else n != 0) || f.flits.length != n || f.flits.any (fun x => x.length != 64)
    || bits f.w1 7 0 != s.podNeighbour down

/-- The acknowledgement and the credit of a frame (R36, R37): the 20 us of a frame that becomes the oldest count from there
(entry 18). -/
def State.takeAck (s : State) (down : Bool) (f : FrameIn) : State :=
  s.modLink down fun l =>
    let left := l.replay.dropWhile fun g => seqDiff (bits f.w0 63 40) (bits g.w0 39 16) < 2 ^ 23
    let moved := left.length != l.replay.length
    { l with replay := left, replays := if moved then 0 else l.replays, sentAt := if moved then s.sys.clock else l.sentAt,
             credit := l.credit + bits f.w1 31 16 }

/-- A coach from its flits; with its poison flag set, payload flits of the pattern are poisoned (R290). -/
def coachOfFlits (fs : List (List Byte)) : Coach :=
  let h := fs.headD []
  let c : Coach := { hdr := Vector.ofFn fun i => wordAt h (8 * i.val), pay := (fs.drop 1).flatten, pois := [] }
  { c with
    pay := c.pay.take c.plen
    pois := if bit (c.h 0) 20 then ((fs.drop 1).zipIdx.filter fun e => e.1 == poisonFlit).map (·.2) else [] }

/-- A coach arrives over a link: one more hop (R169), and it waits for the gateway's berths (R178). A route fault drops it (R177). -/
def State.arrive (s : State) (down : Bool) (c : Coach) : State :=
  let plane := s.planeFor c
  match s.nextStop (s.routesOf plane) c with
  | none => (s.kdrop 0 16).modLink down fun l => { l with freed := l.freed + 1 }
  | some code =>
    (s.modLink down fun l => { l with held := l.held ++ [{ coach := c.hopped, code := code, plane := plane }] }).post 2 .coachHop
      (.idxRef { i := linkId down })

/-- The whole coaches at the front of a link's flits arrive; the rest is kept. fuel is the number of flits. -/
def State.assemble (s : State) (down : Bool) : Nat → List (List Byte) → State
  | 0, fs => s.modLink down fun l => { l with part := fs }
  | n + 1, fs =>
    let k := (coachOfFlits (fs.take 1)).flits
    if fs.isEmpty || fs.length < k then s.modLink down fun l => { l with part := fs }
    else (s.arrive down (coachOfFlits (fs.take k))).assemble down n (fs.drop k)

/-- The frames that came early and are next in order are delivered. -/
def State.deliverEarly (s : State) (down : Bool) : Nat → State
  | 0 => s
  | n + 1 =>
    let l := s.net.link down
    match l.early.find? fun f => bits f.w0 39 16 == l.rseq with
    | none => s
    | some f =>
      let fs := l.part ++ f.flits
      let s1 := s.modLink down fun l => { l with
        rseq := (l.rseq + 1) % 2 ^ 24, early := l.early.filter fun g => bits g.w0 39 16 != bits f.w0 39 16 }
      (s1.assemble down fs.length fs).deliverEarly down n

/-- A data frame received: delivered in sequence order, held where it came early, discarded where delivered before (R37). -/
def State.takeData (s : State) (down : Bool) (f : FrameIn) : State :=
  let l := s.net.link down
  let seq := bits f.w0 39 16
  let ahead := seqDiff seq l.rseq
  let s1 := (s.modLink down fun l => { l with
    unacked := true
    early := if ahead < 256 && !(l.early.any fun g => bits g.w0 39 16 == seq) then l.early ++ [f] else l.early }).post 1000 .ackTimer
    (.dirRef { down := down })
  s1.deliverEarly down 256

/-- Bytes of a loop frame (R35). -/
def frameSize (f : FrameIn) : Nat := f.flits.foldl (fun n x => n + x.length) 34

/-- A frame received on a loop port whose link is up: k takes a good one of a type; one longer than 4,130 bytes or of another
EtherType is dropped and counted, a bad one is besides answered by a nak (R25, R35, R36). -/
def State.onFrame (s : State) (type : Nat) (k : Bool → FrameIn → State → State) : State :=
  match s.arg with
  | .frameIn f =>
    let down := decide (f.port < 4)
    if !(s.portOfNet (4 + f.port)).up then s
    else if 4130 < frameSize f then s.dropFrame (4 + f.port)
    else if f.etype == 0x88F7 then s
    else if f.etype.toNat != bits s.sys.podcfg 47 32 || !bit s.sys.podcfg 31 then s.dropFrame (4 + f.port)
    else if s.badFrame down f then
      let s1 := s.dropFrame (4 + f.port)
      s1.sendFrame down (s1.frameOf down 2 0 [])
    else if bits f.w0 3 0 != type then s
    else k down f (s.takeAck down f)
  | _ => s

/-- LOOP_DATA_FRAME (R37). -/
def execLoopDataFrame (s : State) : Host.Outcome State Fault Refusal := .next (s.onFrame 0 fun down f s => s.takeData down f)

/-- LOOP_ACK_FRAME: what it acknowledges has left the replay buffer (R37). -/
def execLoopAckFrame (s : State) : Host.Outcome State Fault Refusal := .next (s.onFrame 1 fun _ _ s => s)

/-- LOOP_NAK_FRAME: the frames from the first wanted on are replayed (R37). -/
def execLoopNakFrame (s : State) : Host.Outcome State Fault Refusal :=
  .next (s.onFrame 2 fun down _ s => if (s.net.link down).replay.isEmpty then s else s.replayOnce down)

/-- PODCFG_WRITE (R39). -/
def execPodcfgWrite (s : State) : Host.Outcome State Fault Refusal :=
  .next (match s.arg with
    | .valRef o => s.writePodcfg o.v
    | _ => s)

/-! Links (R26, R38, R40). -/

/-- Requests that waited for a link look for their way again. -/
def State.reroute (s : State) : State :=
  let rs := s.net.waiting
  rs.foldl (fun s r => s.routeRemote r) { s with net := { s.net with waiting := [] } }

/-- LINK_DOWN: a loop link goes on with its other ports, on which its frames are replayed, not counted as replays of R37 (entry 18);
with none left it carries nothing and the supervisor is informed (R26, R38). -/
def execLinkDown (s : State) : Host.Outcome State Fault Refusal :=
  .next (match s.arg with
    | .idxRef o =>
      if 12 ≤ o.i || !(s.portOfNet o.i).up then s
      else
        let s1 := s.modPort o.i fun x => { x with up := false }
        if o.i < 4 then s1
        else
          let down := decide (o.i < 8)
          if s1.podUp down then s1.replay down else s1.inform 3 (w64 (b2n down))
    | _ => s)

/-- LINK_UP: a port that was down has retrained; what waited for its link moves again, and its unacknowledged frames are replayed at
once. It may come before start step 5 (R26, R38, R40; entry 18). -/
def execLinkUp (s : State) : Host.Outcome State Fault Refusal :=
  .next (match s.arg with
    | .idxRef o =>
      if 12 ≤ o.i || (s.portOfNet o.i).up then s
      else
        let s1 := s.modPort o.i fun x => { x with up := true, retrains := x.retrains + 1 }
        let s2 : State := { s1 with life := { s1.life with retrains := s1.life.retrains.set o.i (bump (s1.life.retrains.get o.i 0)) } }
        if o.i < 4 then s2 else (s2.replay (decide (o.i < 8))).reroute
    | _ => s)

/-! Requests of other modules (R40, R41, R165). -/

/-- The access a remote op makes. -/
def remoteAcc (op : RemoteOp) : Acc :=
  match op with
  | .read => .read | .write => .write | .inval => .write | .flush => .line
  | .add | .and | .or | .xor | .min | .max | .minu | .maxu | .swap | .cas | .ref _ | .pin _ => .rmw

/-- The word that a read-modify-write of another module leaves of an old one, or none where it writes nothing (R165, R416). -/
def rmwWord (r : RemoteReq) (old : Word) : Option Word :=
  match r.op with
  | .cas => if old == r.x then some r.y else none
  | .ref dec => some (refStep dec old).1
  | .pin on => some (pinStep on old)
  | op => some (atomicOp op old r.x)

/-- Whether a request makes a refcount stuck (R132). -/
def rmwSticks (r : RemoteReq) (old : Word) : Bool := match r.op with | .ref dec => (refStep dec old).2 | _ => false

/-- The reply to a request: it looks for its own way by fewer hops, as a request does (R40; entry 18). -/
def State.replyTo (s : State) (r : RemoteReq) (ok : Bool) (data : List Byte) (pois : Option Nat) : RemoteReq :=
  { r with reply := true, src := r.dst, dst := r.src, down := s.downFirst r.src, turned := false, ok := ok, data := data, pois := pois }

/-- Bytes written at places; pois marks their granules after, as poisoned data arrives (R41, R288). -/
def State.wrMarked (s : State) (ps : List (Phys × Nat)) (bs : List Byte) (pois : Bool) : State :=
  let s1 := s.wrAll ps bs
  if pois then ps.foldl (fun s x => s.mark (s.home x.1 / 64) true) s1 else s1

/-- A request performed at this module, through its pod page tables: the state and the reply (R40, R41). A read or write of no bytes
only checks (R371). -/
def State.performRemote (s : State) (r : RemoteReq) : State × RemoteReq :=
  let va := r.va % 2 ^ 48
  let a := remoteAcc r.op
  match s.places s.sys.podptbr false a va (max r.n 1) with
  | none => (s, s.replyTo r false [] none)
  | some ps =>
    let p := (ps.headD ({ key := 0, mt := 3 }, 0)).1
    let q : Req := { kind := 4, die := 0, tile := 0, slot := none, root := s.sys.podptbr, sup := false }
    let s1 := s.hot q a p va
    let bad := ((ps.zip (pieces va (max r.n 1))).find? fun e => s.poisoned e.1.1).map fun e => e.2.1 - va
    if r.n == 0 && (r.op == .read || r.op == .write) then (s, s.replyTo r true [] none)
    else match r.op with
    | .read => (s1, s.replyTo r true (ps.flatMap fun x => leOf x.2 (s.rd x.1 x.2)) bad)
    | .write => (s1.wrMarked ps r.data (r.y.getLsbD 0), s.replyTo r true [] none)
    | .flush => (if p.mt == 0 || p.mt == 2 then s1.drop p.key true else s1, s.replyTo r true [] none)
    | .inval => (if p.mt == 0 || p.mt == 2 then s1.drop p.key false else s1, s.replyTo r true [] none)
    | _ =>
      if bad.isSome then (s, s.replyTo r true [] bad)
      else if r.n != 8 || va % 8 != 0 then (s, s.replyTo r false [] none)
      else
        let old := w64 (s.rd p 8)
        let s2 := match rmwWord r old with | some v => s1.wr p (leOf 8 v.toNat) | none => s1
        (if rmwSticks r old then s2.audit va else s2, s.replyTo r true (leOf 8 old.toNat) none)

/-- REMOTE_REQUEST: a request or reply at this gateway goes on, is performed here, or reaches the unit that asked (R40, R41). -/
def execRemoteRequest (s : State) : Host.Outcome State Fault Refusal :=
  .next (match s.arg with
    | .remoteReq r =>
      if !bit s.sys.podcfg 31 then s
      else if r.dst != s.module then s.routeRemote r
      else if r.reply then
        (if s.net.asked.any (fun e => e.id == r.id) && !s.net.got.any (fun g => g.id == r.id) then
          { s with net := { s.net with got := s.net.got ++ [r] } }
         else s)
      else
        let (s1, a) := s.performRemote r
        s1.routeRemote a
    | _ => s)

end Sys2Proof.Machine
end

