-- ==== Sys2Proof/Machine/Power.lean ====
section
/-! DEFINITION. Power, temperature and the clock step (01 R20-R23), the lifetime records (03 R59, R60) and ECC errors
(01 R15; 12 R288). -/

namespace Sys2Proof.Machine

/-! Lifetime records (R59, R60). -/

/-- The newer valid flash copy. -/
def State.newestCopy (s : State) : Option LifeCopy :=
  s.copies.foldl (fun (best : Option LifeCopy) c =>
    if !c.valid then best
    else match best with
      | none => some c
      | some b => if b.seq < c.seq then some c else best) none

/-- The older flash copy is written over with the present counters. -/
def State.writeLife (s : State) : State :=
  match s.newestCopy with
  | none => { s with copies := [{ seq := 0, valid := true, image := s.life }] }
  | some c => { s with copies := [c, { seq := c.seq + 1, valid := true, image := s.life }] }

/-- Whether an event is the writing of the lifetime records. -/
def isLifeWrite (i : Instr) : Bool := match i with | .lifetimeRecordWrite => true | _ => false

/-- The writing of the lifetime records 60 s later, unless one is due (R59). -/
def State.postLife (s : State) : State :=
  if s.agenda.any fun p => isLifeWrite p.ev then s else s.post 60000000000 .lifetimeRecordWrite .noRef

/-- LIFETIME_RECORD_WRITE. -/
def execLifetimeRecordWrite (s : State) : Host.Outcome State Fault Refusal := .next (s.writeLife.postLife)

/-- The counters of the records in one order: temperature seconds by die and bin, droops and their times, corrected errors by
depot and stack, retrains, stuck refcounts, timeouts, starts. -/
def Lifetime.counters (l : Lifetime) : List Nat :=
  (List.range 64).map (fun i => l.temps.get i 0 / 1000000) ++ [l.droops]
    ++ (List.range 16).map (fun i => (l.droopTimes.getD i 0).toNat)
    ++ (List.range 512).map (fun i => l.eccDepot.get i 0) ++ (List.range 8).map (fun i => l.eccStack.get i 0)
    ++ (List.range 12).map (fun i => l.retrains.get i 0)
    ++ [l.stuck, l.timeouts, l.colds, l.warms, l.thermals, l.recoveries]

/-- The completion word of a copy: some word that is not 0 (R60). -/
def completionWord (v : Word) : Word := if v = 0 then 1 else v

/-- The bytes of a record copy at their address, then its completion word; an address that faults ends it with an event. -/
def State.copyOut (s : State) (root : Word) (base n : Nat) (bs : List Byte) : State :=
  match s.hostWrite root false (pieces base n) bs with
  | (s1, some va) => s1.inform 1 (w64 va)
  | (s1, none) =>
    let (s2, v) := s1.freeVal
    match s2.hostWrite root false (pieces (base + n) 8) (leOf 8 (completionWord v).toNat) with
    | (s3, some va) => s3.inform 1 (w64 va)
    | (s3, none) => s3

/-- RECORD_COPY_REQUEST: the newer valid copy into the region's first 64 KiB, then the completion word; nothing while no
copy is valid (R60; entry 58). -/
def execRecordCopyRequest (s : State) : Host.Outcome State Fault Refusal :=
  .next (match s.arg with
    | .idxRef o =>
      let m := s.net.mrs.get (o.i % 1024) .init
      if !m.used || m.len < 65536 then s
      else match s.newestCopy with
        | none => s
        | some c =>
          let root := mrRoot m (BitVec.ofNat 32 (o.i % 1024))
          let cs := c.image.counters
          s.copyOut root m.base.toNat 65528 ((List.range 65528).map (Config.lifetimeByte cs))
    | _ => s)

/-! Power and temperature (R20-R23). -/

/-- A count of microseconds one higher; as a count of seconds it sticks at 2^64 - 1 (R59). -/
def moreTime (n : Nat) : Nat := min (n + 1) ((2 ^ 64 - 1) * 1000000)

/-- The temperature bin of R59. -/
def tempBin (t : Int) : Nat := if t < 0 then 0 else min 15 (t.toNat / 8 + 1)

/-- The rows of R20 that step the clock down in a sample: for each, the clock step it requires and its cause. -/
def Power.downs (p : Power) (mw : Nat) : List (Nat × Nat) :=
  let next := min 3 (p.step + 1)
  (if p.tThermal != 0 && p.tThermal % 1000 == 0 then [(next, 3)] else [])
    ++ (if 2800000 < mw then [(3, 2)] else [])
    ++ (if 10000 ≤ p.above && (p.above - 10000) % 50 == 0 then [(next, 2)] else [])
    ++ (if p.tPower != 0 && p.tPower % 50 == 0 then [(next, 1)] else [])

/-- The lowest clock that a row requires, and the first cause in order of precedence that requires it (R21). -/
def lowestClock (rows : List (Nat × Nat)) : Option (Nat × Nat) :=
  rows.foldl (fun (best : Option (Nat × Nat)) r =>
    match best with
    | none => some r
    | some b => if b.1 < r.1 then some r else best) none

/-- The samples and the counts of how long each condition of R20 has held, after one more sample. -/
def Power.count (p : Power) (mw : Nat) (tj : List Int) : Power :=
  let samples := (mw :: p.samples).take 1000
  let sum := samples.foldl (· + ·) 0
  { p with
    samples := samples
    tj := min 255 (tj.foldl (fun m t => max m t) 0).toNat
    above := if 2400000 < mw then p.above + 1 else 0
    tPower := if 2400000 * 1000 < sum then p.tPower + 1 else 0
    tThermal := if tj.any fun t => 100 ≤ t then p.tThermal + 1 else 0
    calm := if sum ≤ 2300000 * 1000 && tj.all fun t => t < 95 then p.calm + 1 else 0 }

/-- Whether a step-down condition holds (R21). -/
def Power.hot (p : Power) (mw : Nat) : Bool := p.tThermal != 0 || 2800000 < mw || 10000 ≤ p.above || p.tPower != 0

/-- The clock step after a sample: a step down where a row asks for one, else a step up after 10 ms of calm. -/
def Power.move (p : Power) (mw : Nat) : Power :=
  match lowestClock (p.downs mw) with
  | some (n, c) => { p with step := n, cause := c, thr := if n == p.step then p.thr else stick (p.thr + 1) 0xFFFFFFFF }
  | none =>
    if 10000 ≤ p.calm && !p.hot mw && p.step != 0 then
      { p with step := p.step - 1, cause := if p.step == 1 then 0 else p.cause, calm := 0 }
    else p

/-- A context whose state is lost: its registers hold any value (R22; entry 19). -/
def lostCtx (k : Nat) : Context :=
  let w := fun i => Config.freeWord (k + i)
  { Context.init with
    hart := { Hart.init with
      g := Vector.ofFn fun i => if i.val = 0 then 0 else w i.val
      pc := w64 ((w 32).toNat / 8 * 8)
      epc := w64 ((w 33).toNat / 8 * 8)
      cause := Cause.ofWord (w 34)
      tval := w 35
      nbv := if (w 36).getLsbD 0 then 1 else 2
      rnd := bits (w 36) 2 1
      fflags := (w 36).extractLsb' 8 7
      stall := bits (w 36) 31 16
      peak := bits (w 36) 36 32 % 17
      cutcnt := bits (w 37) 31 0 }
    live := (w 38).getLsbD 0
    coach := (w 38).getLsbD 1
    cls := bits (w 38) 7 4
    rver := bits (w 38) 11 8
    tver := bits (w 38) 15 12
    m := Vector.ofFn fun i => w (40 + i.val)
    cut := Vector.ofFn fun i => w (48 + i.val) }

/-- An APE whose state is lost. -/
def lostApe (k : Nat) : Ape :=
  { Ape.init with cfg := Vector.ofFn fun i => Config.freeWord (k + i.val), pos := bits (Config.freeWord (k + 6)) 47 0
                  fin := bit (Config.freeWord (k + 6)) 48 }

/-- A compute tile whose state is lost: what other agents can read of it holds any value. Its vector registers and accumulators nobody
can read before the warm start that clears them (R22, R50; entry 19). -/
def lostTile (k : Nat) : Tile :=
  { Tile.init with
    pred := BitVec.ofNat 8 ((Config.freeWord k).toNat / 2 * 2 + 1)
    sigs := Vector.ofFn fun i => BitVec.ofNat 32 (Config.freeWord (k + 1 + i.val)).toNat
    ctxs := (List.range 8).map fun c => (c, lostCtx (k + 16 + 72 * c))
    apes := (List.range 16).map fun e => (e, lostApe (k + 600 + 7 * e)) }

/-- A depot tile whose state is lost: a split that R226 allows and a count of requests, of any value (R22; entry 19). -/
def lostDepot (k : Nat) : Depot :=
  let w := Config.freeWord k
  let c := 1 + bits w 6 0
  let p := c + bits w 23 8 % (129 - c)
  { Depot.init with cend := c, pend := p, fend := p + bits w 39 24 % (129 - p), hot := bits (Config.freeWord (k + 512)) 31 0 }

/-- A thermal stop (R22): the core clock stops, the state of tiles and depots is lost, the event is recorded. What SRAM held reads as
any value while it lasts (State.lost). -/
def State.thermalStop (s : State) : State :=
  let k := s.freeCtr
  let s1 : State := { s with
    mem := s.mem.filter fun c => c.1 < 2 ^ 40
    poison := s.poison.filter (· < 2 ^ 34)
    l2 := []
    tiles := (List.range 1024).filterMap fun i => if isCompute (i % 256) then some (i, lostTile (k + 1000 * i)) else none
    depots := (List.range 512).map fun i => (i, lostDepot (k + 2 ^ 21 + i))
    transit := []
    withheld := []
    freeCtr := k + 2 ^ 43
    agenda := s.agenda.filter fun p => ioEvent p.ev p.arg
    life := { s.life with thermals := bump s.life.thermals } }
  (s1.modSys fun y => { y with power := { y.power with stopped := true, cause := 3 } }).writeLife

/-- POWER_SAMPLE: one sample of the power and clock controller. -/
def execPowerSample (s : State) : Host.Outcome State Fault Refusal :=
  .next (match s.arg with
    | .powerIn o =>
      let p := s.sys.power.count o.mw o.tj
      let s1 : State := { s.modSys fun y => { y with power := p.move o.mw } with
        life := { s.life with
          temps := (o.tj.zipIdx).foldl (fun m e => m.set (e.2 * 16 + tempBin e.1) (moreTime (m.get (e.2 * 16 + tempBin e.1) 0))) s.life.temps
          droops := if 2800000 < o.mw then bump s.life.droops else s.life.droops
          droopTimes := if 2800000 < o.mw then (s.sys.time :: s.life.droopTimes).take 16 else s.life.droopTimes } }
      if (o.tj.any fun t => 110 ≤ t) && !p.stopped then s1.thermalStop else s1
    | _ => s)

/-! ECC errors (R15, R288). -/

/-- A corrected error counted for the stack or the depot whose memory it struck: a depot's SRAM, its L2 lines among it (R15, R59). -/
def State.countEcc (s : State) (key : Nat) : State :=
  let depot := fun (k : Nat) => { s with life := { s.life with eccDepot := s.life.eccDepot.set k (bump (s.life.eccDepot.get k 0)) } }
  if key < 2 ^ 39 then
    let k := key / 4096 % 8
    { s with life := { s.life with eccStack := s.life.eccStack.set k (bump (s.life.eccStack.get k 0)) } }
  else if 2 ^ 40 ≤ key && key < 2 ^ 40 + 2 ^ 32 then depot ((key - 2 ^ 40) / 2 ^ 23)
  else if 2 ^ 42 ≤ key && key < 2 ^ 42 + 2 ^ 39 then depot ((homeOf (key - 2 ^ 42)).1 * 128 + (homeOf (key - 2 ^ 42)).2)
  else s

/-- Flit n of a coach in transit poisoned: its header, or a granule of its payload (R171, R290). -/
def Coach.poisonFlit (c : Coach) (n : Nat) : Coach :=
  if n == 0 then { c with hbad := true }
  else if n ≤ ceilDiv c.plen 64 then ({ c with pois := (n - 1) :: c.pois.filter (· != n - 1) } : Coach).flagPoison
  else c

/-- ECC_ERROR: an error that ECC corrected is counted for its depot or stack; one that it could not correct poisons its granule and
informs the supervisor, or poisons a flit of a coach in transit (R290); a defect makes a bit stuck (R458, R459). -/
def execEccError (s : State) : Host.Outcome State Fault Refusal :=
  .next (match s.arg with
    | .eccIn o =>
      (match o.stuck, o.coach with
       | some (b, v), _ => { s with stuck := (o.key, b, v) :: s.stuck.filter fun e => !(e.1 == o.key && e.2.1 == b) }
       | none, some (id, n) =>
         { s with transit := s.transit.map fun t => if t.id == id then { t with coach := t.coach.poisonFlit n } else t }
       | none, none => if o.fixed then s.countEcc o.key else (s.mark (o.key / 64) true).inform 2 (w64 o.key))
    | _ => s)

end Sys2Proof.Machine
end

