-- ==== Sys2Proof/Machine/Starts.lean ====
section
/-! DEFINITION. Starts, the firmware image, recovery mode and attestation (03 R49-R57; 24 R456). A start is one step; where
the march test of chapter 24 runs, it stops inside start step 4 and a second COLD_START event continues it. -/

namespace Sys2Proof.Machine

/-! The firmware image (R54, R55). -/

/-- The value of n bytes at an offset. -/
def fieldAt (bs : List Byte) (off n : Nat) : Nat := leVal ((bs.drop off).take n)

/-- Whether n bytes at an offset are all zero. -/
def zeroAt (bs : List Byte) (off n : Nat) : Bool := ((bs.drop off).take n).all (· == 0)

/-- Whether an image has the layout of R54. -/
def imageForm (bs : List Byte) : Bool :=
  let len := fieldAt bs 16 8
  fieldAt bs 0 4 == 0x5746564D && fieldAt bs 4 4 == 1 && fieldAt bs 8 8 ≤ 65535 && len % 64 == 0 && len ≤ 2 ^ 26 &&
    7296 + len ≤ bs.length && zeroAt bs 24 40 && zeroAt bs 7283 13

/-- The image without what follows it in its bank. -/
def trimImage (bs : List Byte) : List Byte := bs.take (7296 + fieldAt bs 16 8)

/-- The public key of an image. -/
def imageKey (bs : List Byte) : List Byte := (bs.drop 64).take 2592

/-- The key digests whose revoke fuse is unblown. -/
def Flash.goodDigests (f : Flash) : List (List Byte) :=
  ((List.range 4).filter fun i => !f.revoked.getD i false).filterMap fun i => f.digests[i]?

/-- The bytes of an image whose digest step 2 verifies: its header to 2,655, and its body (R55). -/
def signedPart (img : List Byte) : List Byte := img.take 2656 ++ img.drop 7296

/-- What step 2 finds wrong with an image, as the fail code of R52; none where it accepts the image (R55). -/
def Flash.reject (f : Flash) (bs : List Byte) : Option Nat :=
  let img := trimImage bs
  if !imageForm bs then some 4
  else if !f.goodDigests.contains (Config.sha3 (imageKey img)) then some 1
  else if fieldAt img 8 8 < f.minSvn then some 3
  else if !Config.mldsaVerify (imageKey img) ((img.drop 2656).take 4627) (Config.sha3 (signedPart img)) then some 2
  else none

/-- The flash bank in force. -/
def Flash.bank (f : Flash) : List Byte := if f.active == 0 then f.bank0 else f.bank1

/-! What a start clears (R50). -/

/-- HBM with its dirty L2 lines written back. -/
def State.writtenBack (s : State) : State := s.l2.foldl (fun s e => s.drop (e.1 * 64) true) s

/-- The state with SRAM, registers, tables and links cleared, HBM kept; the ports come up again in step 5. Defects stay, and the
lifetime records are written on time (R59). -/
def State.cleared (s : State) : State :=
  let s1 := s.writtenBack
  { s1 with
    mem := s1.mem.filter fun c => c.1 < 2 ^ 40
    poison := s1.poison.filter (· < 2 ^ 34)
    l2 := []
    tlb := []
    tiles := []
    depots := []
    slots := []
    boxes := []
    cores := []
    transit := []
    juncs := []
    withheld := []
    net := { ports := [], down := .init, up := .init, qps := [], mrs := [], waiting := [], asked := [], got := [], around := [] }
    agenda := s1.agenda.filter fun p => isLifeWrite p.ev }

/-- HBM zeroed but for the ranges, their poison marks included. -/
def State.zeroHbm (s : State) (keep : List (Nat × Nat)) : State :=
  let kept (a : Nat) : Bool := keep.any fun r => r.1 ≤ a && a < r.1 + r.2
  { s with
    mem := s.mem.filter fun c => 2 ^ 39 ≤ c.1 || kept c.1
    poison := s.poison.filter fun g => 2 ^ 33 ≤ g || kept (g * 64) }

/-- The used entries of the preserve table, which HBM holds at address 0 (R53). -/
def State.preserveList (s : State) : List (Nat × Nat) :=
  (List.range (s.sys.boot.npres + 1)).map fun i => (leVal (s.mem.bytes (16 * i) 8), leVal (s.mem.bytes (16 * i + 8) 8))

/-- Whether a preserve list is well formed (R53). -/
def preserveOk : List (Nat × Nat) → Bool
  | [] => true
  | r :: rs =>
    r.1 % 4096 == 0 && r.2 % 4096 == 0 && r.2 != 0 && r.1 + r.2 ≤ 2 ^ 39 &&
      (rs.all fun x => x.1 + x.2 ≤ r.1 || r.1 + r.2 ≤ x.1) && preserveOk rs

/-! The steps. -/

/-- The fields of SYS.BOOTSTAT changed. -/
def State.modBoot (s : State) (f : Boot → Boot) : State := s.modSys fun y => { y with boot := f y.boot }

/-- A failed step (R52). -/
def State.bootStop (s : State) (step code : Nat) : State :=
  s.modBoot fun b => { b with failStep := step, failCode := code, cur := 0 }

/-- A core as step 2 starts it (entry 5). -/
def startedCore (f : FwIn) : Core := { Core.init with hart := { Hart.init with pc := w64 (f.entry.toNat / 8 * 8) }, running := true }

/-- The supervisor cores started: their firmware in HBM, its address space and trap vector set. With no firmware they take
no part, and what the firmware does comes as events from outside. -/
def State.startCores (s : State) : State :=
  match s.sys.boot.fw with
  | none => s
  | some f =>
    let s1 := f.cells.foldl (fun s c => { s with mem := s.mem.put c.1 (leOf 8 c.2.toNat) }) s
    { s1.modSys fun y => { y with svptbr := f.root &&& 0xFFFF007FFFFFF001, svtvec := f.tvec &&& 0x01FFFFFFFFFFFFF8 } with
      cores := (List.range 8).map fun n => (n, startedCore f) }

/-- Step 5: the links come up, those of the failed ports stay down (R52); launch queues accept launches after it (R51). -/
def State.linkStep (s : State) (down : List Nat) : State :=
  let s1 : State := { s with net := { s.net with
    ports := (List.range 12).map fun p => (p, ({ Port.init with up := !down.contains p } : Port)) } }
  let bad := (List.range 12).filter down.contains
  let s2 := s1.modBoot fun b => { b with
    step := 5, cur := 6
    failStep := if bad.isEmpty then b.failStep else 5
    failCode := match bad.getLast? with | none => b.failCode | some p => 0x30 + p }
  (List.range 4).foldl (fun s d => s.postTake d) s2

/-- Step 4 ends: with a row without a spare the die fails, else step 5 follows. -/
def State.endRepair (s : State) (fail : Option Nat) (down : List Nat) : State :=
  match fail with
  | some d => s.bootStop 4 (0x20 + d)
  | none => (s.modBoot fun b => { b with step := 4 }).linkStep down

/-- Steps 3 and 4 of a cold start, after the image was accepted: HBM zeroed, the repair table rebuilt. -/
def State.coldRest (s : State) (o : StartIn) : State :=
  let s1 := (s.zeroHbm []).startCores
  match o.hbmFail with
  | some k => s1.bootStop 3 (0x10 + k % 8)
  | none =>
    let s2 := s1.modBoot fun b => { b with step := 3, cur := 4, repair := [] }
    if o.hold then s2 else s2.endRepair (o.repairFail.map (· % 4)) o.portsDown

/-- Steps 3 and 4 of a warm start: the preserve list checked before HBM is zeroed, the page of its table always kept (R53), the repair
table applied. -/
def State.warmRest (s : State) (o : StartIn) : State :=
  let b := s.sys.boot
  let l := s.preserveList
  if b.pres && !preserveOk l then s.startCores.bootStop 3 0x1F
  else (((s.zeroHbm ((0, 4096) :: if b.pres then l else [])).startCores).modBoot fun b => { b with step := 3 }).endRepair none o.portsDown

/-- Steps 1 and 2; then the rest. The lifetime records are written 60 s after the write before, however the start ends (R59; entry 58). -/
def State.firstSteps (s : State) (kind : Nat) (o : StartIn) (rest : State → State) : State :=
  let s1 := s.postLife.modBoot fun b => { b with
    kind := kind, step := 0, failStep := 0, failCode := 0, svn := 0, cur := 1, recovery := false, image := [], halted := false
    fw := match o.fw with | some f => some f | none => b.fw }
  if !o.fuseOk then (s1.bootStop 1 0).modBoot fun b => { b with halted := true }
  else
    let s2 := s1.modBoot fun b => { b with step := 1 }
    match s.flash.reject s.flash.bank with
    | some c => (s2.bootStop 2 c).modBoot fun b => { b with recovery := true }
    | none => rest (s2.modBoot fun b => { b with step := 2, svn := fieldAt s.flash.bank 8 8 })

/-- A cold start (R49, R50): every register of the module takes its reset value. It ends a thermal stop at any temperature (entry 19). -/
def State.coldStart (s : State) (o : StartIn) : State :=
  let s1 := s.cleared
  let s2 : State := { s1 with
    sys := { Sys.init with clock := s1.sys.clock, on := true, boot := { Sys.init.boot with fw := s1.sys.boot.fw } }
    life := { s1.life with colds := bump s1.life.colds } }
  s2.firstSteps 0 o fun s => s.coldRest o

/-- A warm start (R49, R50): the registers of the module stay but for those that a start clears. -/
def State.warmStart (s : State) (o : StartIn) : State :=
  let s1 := s.cleared
  let s2 : State := { s1.modSys fun y => { y with
      power := { y.power with thr := 0, stopped := false }
      bootwalk := setBits y.bootwalk 63 60 0
      ptp := { y.ptp with state := 0, since := 0, announce := 0, everLocked := false }
      podptbr := 0
      kdrop := zero4 } with
    life := { s1.life with warms := bump s1.life.warms } }
  s2.firstSteps 1 o fun s => s.warmRest o

/-! The march test of chapter 24, judged by the firmware (R455, R456). -/

/-- The doublewords of result block n. -/
def State.resultBlock (s : State) (base n : Nat) : List Word :=
  (List.range 8).map fun i => w64 (s.rd { key := base + 64 * n + 8 * i, mt := 0 } 8)

/-- Whether a block makes its die fail: done = 0, regf = 1, or more than four failing lines. -/
def blockFails (ws : List Word) : Bool :=
  let w := ws.getD 0 0
  !bit w 63 || bit w 62 || 4 < bits w 39 32

/-- The failing lines that a block records. -/
def blockLines (ws : List Word) : List Nat :=
  (((ws.drop 1).take 4).filter fun w => w != BitVec.allOnes 64).map fun w => w.toNat

/-- The firmware's judgement: the first die that fails, and the spares of the blocks that do not fail, by global tile number. -/
def State.judge (s : State) (base : Nat) : State × Option Nat :=
  let fail := ((List.range 512).find? fun n => blockFails (s.resultBlock base n)).map (· / 128)
  let t := (List.range 512).filterMap fun n =>
    let l := blockLines (s.resultBlock base n)
    if blockFails (s.resultBlock base n) || l.isEmpty then none else some (n, l)
  (s.modBoot fun b => { b with repair := t }, fail)

/-- COLD_START; with cont set, a start that stands in step 4 goes on once every boot walk has ended. -/
def execColdStart (s : State) : Host.Outcome State Fault Refusal :=
  .next (match s.arg with
    | .startIn o =>
      if !o.cont then s.coldStart o
      else if s.sys.boot.cur != 4 || bits s.sys.bootwalk 63 60 != 0 then s
      else match o.resBase with
        | none => s.endRepair (o.repairFail.map (· % 4)) o.portsDown
        | some b =>
          let (s1, fail) := s.judge b
          s1.endRepair (match fail with | some d => some d | none => o.repairFail.map (· % 4)) o.portsDown
    | _ => s)

/-- WARM_START: the write of SYS.BOOTCTL that asks for it; during a thermal stop only once all dies read below 95 degrees
(R22, R53). -/
def execWarmStart (s : State) : Host.Outcome State Fault Refusal :=
  .next (match s.arg with
    | .warmIn o =>
      let s1 := s.modBoot fun b => { b with pres := bit o.v 5, npres := bits o.v 4 1 }
      if !bit o.v 0 || (s.sys.power.stopped && 95 ≤ s.sys.power.tj) then s1 else s1.warmStart o.start
    | _ => s)

/-- THERMAL_STOP_END: a warm start once all dies read below 95 degrees (R22). -/
def execThermalStopEnd (s : State) : Host.Outcome State Fault Refusal :=
  .next (match s.arg with
    | .warmIn o => if !s.sys.power.stopped || o.tj.length != 4 || (o.tj.any fun t => 95 ≤ t) then s else s.warmStart o.start
    | _ => s)

/-! Recovery mode (R56) and power loss (R56, R59). -/

/-- Bytes of an image put from an offset on. -/
def putImage : Tbl Byte → Nat → List Byte → Tbl Byte
  | t, _, [] => t
  | t, off, b :: bs => putImage (t.set off b) (off + 1) bs

/-- RECOVERY_FRAME: image data at an offset, answered with the offset. -/
def execRecoveryFrame (s : State) : Host.Outcome State Fault Refusal :=
  .next (match s.arg with
    | .imageIn o =>
      if !s.sys.boot.recovery || o.data.length < 64 || 8192 < o.data.length || o.offset == BitVec.allOnes 64 then s
      else (s.modBoot fun b => { b with image := putImage b.image o.offset.toNat o.data }).emit (.recovery o.port o.offset)
    | _ => s)

/-- The image received: its bytes up to the end of the body that its header names; bytes that no frame carried are 0 (entry 58). -/
def receivedImage (t : Tbl Byte) : List Byte :=
  let hdr := (List.range 7296).map fun i => t.get i 0
  hdr ++ (List.range (min (fieldAt hdr 16 8) (2 ^ 26))).map fun i => t.get (7296 + i) 0

/-- An image written to the inactive bank, which then comes into force. -/
def Flash.write (f : Flash) (img : List Byte) : Flash :=
  if f.active == 0 then { f with bank1 := img, active := 1 } else { f with bank0 := img, active := 0 }

/-- RECOVERY_END: the image verified, written to flash, counted, and a cold start; or recovery mode goes on, the received image
discarded and not counted (entry 58). -/
def execRecoveryEnd (s : State) : Host.Outcome State Fault Refusal :=
  .next (match s.arg with
    | .recEndIn o =>
      if !s.sys.boot.recovery then s
      else
        let img := receivedImage s.sys.boot.image
        let s1 := s.emit (.recovery o.port (BitVec.allOnes 64))
        match s.flash.reject img with
        | some _ => s1.modBoot fun b => { b with image := [] }
        | none =>
          ({ s1.modBoot fun b => { b with fw := none } with
             flash := s1.flash.write (trimImage img)
             life := { s1.life with recoveries := bump s1.life.recoveries } } : State).coldStart o.start
    | _ => s)

/-- POWER_LOSS: operation ends; flash and fuses stay, the lifetime counts since the last flash copy are lost. A flash write
under way leaves the image in force, since the banks switch last. -/
def execPowerLoss (s : State) : Host.Outcome State Fault Refusal :=
  .next (match s.arg with
    | .lossIn _ =>
      { s.cleared with
        mem := []
        poison := []
        agenda := []
        sys := { Sys.init with clock := s.sys.clock, boot := { Sys.init.boot with fw := s.sys.boot.fw } }
        life := match s.newestCopy with | some c => c.image | none => .init }
    | _ => s)

/-! Attestation and fuses (R55, R57). -/

/-- Bytes 0-255 of an attestation report. The image's digest is the one that step 2 verifies; the starts since manufacture are the cold
and warm starts of the lifetime records (entry 58). -/
def State.reportHead (s : State) (nonce : List Byte) : List Byte :=
  let f := s.flash
  padTo 64 nonce ++ padTo 64 (Config.sha3 (signedPart (trimImage f.bank)))
    ++ padTo 64 (Config.sha3 (Config.fuseImage f.digests f.revoked f.minSvn f.serial f.fuses))
    ++ leOf 8 s.sys.boot.svn ++ padTo 16 s.flash.serial ++ leOf 8 (s.life.colds + s.life.warms)
    ++ leOf 8 (s.readSys 0xC41).toNat ++ List.replicate 24 0

/-- ATTESTATION_REQUEST: the report, signed with the key derived from the fused seed. -/
def execAttestationRequest (s : State) : Host.Outcome State Fault Refusal :=
  .next (match s.arg with
    | .nonceIn o =>
      let h := s.reportHead o.nonce
      s.emit (.report (h ++ padTo 4627 (Config.mldsaSign s.flash.seed (Config.sha3 h))))
    | _ => s)

/-- FUSE_SVN_RAISE: the fused minimum rises, and never falls. -/
def execFuseSvnRaise (s : State) : Host.Outcome State Fault Refusal :=
  .next (match s.arg with
    | .valRef o =>
      let v := o.v.toNat
      if v ≤ s.flash.minSvn || 65535 < v then s else { s with flash := { s.flash with minSvn := v } }
    | _ => s)

end Sys2Proof.Machine
end

