-- ==== Sys2Proof/Machine/Clock.lean ====
section
/-! DEFINITION. Time and the PTP servo (02 R45-R48), and writes of the module's registers as events (00 R5). -/

namespace Sys2Proof.Machine

/-! The servo (R48). -/

/-- The state with the servo changed. -/
def State.modPtp (s : State) (f : Ptp → Ptp) : State := s.modSys fun y => { y with ptp := f y.ptp }

/-- An offset as SYS.PTPSTAT reports it (R47). -/
def offsetField (x : Int) : BitVec 32 := BitVec.ofInt 32 (if 2147483647 < x then 2147483647 else if x < -2147483647 then -2147483647 else x)

/-- The servo after a Sync and Follow_Up pair. -/
def Ptp.sync (p : Ptp) (x : Int) : Ptp :=
  let p1 := { p with offset := offsetField x }
  match p.state with
  | 1 =>
    if 100 ≤ x.natAbs then { p1 with since := 0 }
    else if p.since + 1 < 16 then { p1 with since := p.since + 1 }
    else { p1 with state := 2, since := 0, everLocked := true }
  | 2 =>
    if x.natAbs < 1000 then { p1 with since := 0 }
    else if p.since + 1 < 4 then { p1 with since := p.since + 1 }
    else { p1 with state := 1, since := 0 }
  | _ => { p1 with state := 1, since := 0 }

/-- Start step 6 completes on entry to locked (R48, R49). -/
def State.lockStep (s : State) : State :=
  if s.sys.ptp.state == 2 && s.sys.boot.step == 5 then s.modBoot fun b => { b with step := 6, cur := 0 } else s

/-- The offset from the master by the delay request-response mechanism: the Sync's time in transit less the mean path delay
(R43; entry 17). -/
def ptpOffset (o : PtpIn) : Int := (o.t2 - o.t1) - ((o.t2 - o.t1) + (o.t4 - o.t3)) / 2

/-- Whether a Sync is one for the servo: on the slave port, its link up, in its domain, by a supported transport, in two steps
(R43, R47). -/
def State.ptpTakes (s : State) (o : PtpIn) : Bool :=
  o.port == s.sys.ptp.port && o.domain == s.sys.ptp.domain && (s.portOfNet o.port).up && o.transport ≤ 2 && o.twoStep

/-- PTP_SYNC: the servo takes the offset, and a delay request goes out. -/
def execPtpSync (s : State) : Host.Outcome State Fault Refusal :=
  .next (match s.arg with
    | .ptpIn o => if s.ptpTakes o then ((s.modPtp fun p => p.sync (ptpOffset o)).lockStep).emit (.delayReq o.port o.domain) else s
    | _ => s)

/-- PTP_ANNOUNCE_TIMEOUT: no Announce for 3 announce intervals moves the servo to holdover. -/
def execPtpAnnounceTimeout (s : State) : Host.Outcome State Fault Refusal :=
  .next (s.modPtp fun p =>
    if p.state == 1 || p.state == 2 then { p with announce := 3, since := 0, state := 3 } else { p with announce := 3 })

/-- ANNOUNCE_RECEIVED: the count of announce intervals starts again. -/
def execAnnounceReceived (s : State) : Host.Outcome State Fault Refusal := .next (s.modPtp fun p => { p with announce := 0 })

/-! Register writes. -/

/-- TIME_STEP (R45). -/
def execTimeStep (s : State) : Host.Outcome State Fault Refusal :=
  .next (match s.arg with | .valRef o => s.stepTime o.v | _ => s)

/-- TIMERATE_WRITE (R46). -/
def execTimerateWrite (s : State) : Host.Outcome State Fault Refusal :=
  .next (match s.arg with | .valRef o => s.writeTimerate o.v | _ => s)

/-- PTPSTAT_WRITE (R47, R48). -/
def execPtpstatWrite (s : State) : Host.Outcome State Fault Refusal :=
  .next (match s.arg with | .valRef o => s.writePtpstat o.v | _ => s)

/-- HOTCFG_WRITE (R128). -/
def execHotcfgWrite (s : State) : Host.Outcome State Fault Refusal :=
  .next (match s.arg with | .valRef o => s.writeHotcfg o.v o.v | _ => s)

/-- EVPEND_ACK (R434). -/
def execEvpendAck (s : State) : Host.Outcome State Fault Refusal :=
  .next (match s.arg with | .valRef o => s.ackEvents o.v | _ => s)

/-- BOOTWALK_GO (R453). -/
def execBootwalkGo (s : State) : Host.Outcome State Fault Refusal :=
  .next (match s.arg with | .valRef o => s.writeBootwalk o.v o.v | _ => s)

/-- REGISTER_WRITE: of a TILE register at a tile index, a REG register at a slot, or a SYS register; SYS.SVWDOG is the named
core's (R5, R111, R282). -/
def execRegisterWrite (s : State) : Host.Outcome State Fault Refusal :=
  .next (match s.arg with
    | .regWr o =>
      if tileCsr o.csr then (if isCompute (o.loc % 256) then s.writeTile o.die (o.loc % 256) o.csr o.v else s)
      else if regCsr o.csr then s.writeReg o.die (o.loc % 16) o.csr o.v o.v
      else if o.csr == 0xC45 then s.writeSvwdog (o.loc % 8) o.v
      else if sysCsr o.csr then s.writeSys o.csr o.v o.v
      else s
    | _ => s)

end Sys2Proof.Machine
end

