-- ==== Sys2Proof/Machine/Control.lean ====
section
/-! DEFINITION. The control instructions (14 R320-R330): branches, calls, loops, tile predicates, the end of an
invocation and the waits of a context. -/

namespace Sys2Proof.Machine

/-- The target of a branch (R297). -/
def State.target (s : State) (o : BFmt) : Word := s.pc + (o.off.signExtend 64 <<< 3)

/-- The program counter at the target, or past the instruction. -/
def State.branchIf (s : State) (o : BFmt) (taken : Bool) : State := if taken then s.setPc (s.target o) else s.advance

/-- A branch that compares a and b (R321). -/
def State.cmpBranch (s : State) (o : BFmt) (f : Word → Word → Bool) : State :=
  s.guarded o.gn o.gs fun s => s.branchIf o (f (s.getG o.a) (s.getG o.b))

/-- BR (R321). -/
def execBr (o : BFmt) (s : State) : Host.Outcome State Fault Refusal :=
  .next (s.cmpBranch o fun _ _ => true)

/-- BEQ (R321). -/
def execBeq (o : BFmt) (s : State) : Host.Outcome State Fault Refusal :=
  .next (s.cmpBranch o fun a b => a == b)

/-- BNE (R321). -/
def execBne (o : BFmt) (s : State) : Host.Outcome State Fault Refusal :=
  .next (s.cmpBranch o fun a b => a != b)

/-- BLT (R321). -/
def execBlt (o : BFmt) (s : State) : Host.Outcome State Fault Refusal :=
  .next (s.cmpBranch o fun a b => a.toInt < b.toInt)

/-- BGE (R321). -/
def execBge (o : BFmt) (s : State) : Host.Outcome State Fault Refusal :=
  .next (s.cmpBranch o fun a b => b.toInt ≤ a.toInt)

/-- BLTU (R321). -/
def execBltu (o : BFmt) (s : State) : Host.Outcome State Fault Refusal :=
  .next (s.cmpBranch o fun a b => a < b)

/-- BGEU (R321). -/
def execBgeu (o : BFmt) (s : State) : Host.Outcome State Fault Refusal :=
  .next (s.cmpBranch o fun a b => b ≤ a)

/-- BPT: a tile predicate, negated by aux bit 3 (R322). -/
def execBpt (o : BFmt) (s : State) : Host.Outcome State Fault Refusal :=
  .next (s.guardedCtx o.gn o.gs fun s =>
    s.branchIf o (s.myTile.pred.getLsbD (o.aux.toNat % 8) != o.aux.getLsbD 3))

/-- The condition of BMK on a mask (R322). -/
def maskCond (c : Nat) (m : Word) : Bool :=
  match c with
  | 0 => m != 0
  | 1 => m == 0
  | 2 => m == BitVec.allOnes 64
  | _ => m != BitVec.allOnes 64

/-- BMK: a mask, once no link in flight writes it (R322). -/
def execBmk (o : BFmt) (s : State) : Host.Outcome State Fault Refusal :=
  .next (s.guardedCtx o.gn o.gs fun s =>
    let n := o.aux.toNat % 8
    match s.me.maskLink n with
    | some k => s.waitLink k
    | none => s.branchIf o (maskCond (o.aux.toNat / 8 % 4) (s.me.mask n)))

/-- JAL (R323). -/
def execJal (o : BFmt) (s : State) : Host.Outcome State Fault Refusal :=
  .next (s.guarded o.gn o.gs fun s => (s.setG o.a (s.pc + 8)).setPc (s.target o))

/-- JALR: the target is read before g[a] is written; a misaligned one traps ALIGN, where = 2 (R323). -/
def execJalr (o : BFmt) (s : State) : Host.Outcome State Fault Refusal :=
  .next (s.guarded o.gn o.gs fun s =>
    let t := s.getG o.b + (o.off.signExtend 64 <<< 3)
    if bits t 2 0 = 0 then (s.setG o.a (s.pc + 8)).setPc t else s.trap 3 2 t)

/-- LOOP (R324). -/
def execLoop (o : BFmt) (s : State) : Host.Outcome State Fault Refusal :=
  .next (s.guarded o.gn o.gs fun s =>
    if 1 < (s.getG o.a).toNat then (s.setG o.a (s.getG o.a - 1)).setPc (s.target o) else (s.setG o.a 0).advance)

/-- TILE.PRED under a mask takes a value; trigger guards see it from the next arbitration (R109, R325). -/
def State.psetWith (s : State) (o : BFmt) (v : State → BitVec 8) : State :=
  s.guardedCtx o.gn o.gs fun s =>
    let new := (s.myTile.pred &&& ~~~o.aux) ||| (v s &&& o.aux)
    ((s.modMyTile fun t => { t with pred := new }).post 1 .triggerFire (.tileRef { die := s.die, tile := s.tix })).advance

/-- PSET (R325). -/
def execPset (o : BFmt) (s : State) : Host.Outcome State Fault Refusal :=
  .next (s.psetWith o fun _ => o.off.extractLsb' 8 8)

/-- PSET.r (R325). -/
def execPsetR (o : BFmt) (s : State) : Host.Outcome State Fault Refusal :=
  .next (s.psetWith o fun s => (s.getG o.a).setWidth 8)

/-- PSET.nz (R325). -/
def execPsetNz (o : BFmt) (s : State) : Host.Outcome State Fault Refusal :=
  .next (s.psetWith o fun s => if s.getG o.a = 0 then 0 else 0xFF)

/-- An invocation ends (R95): what it holds is released, the completion count of a cc slot rises, its context is free,
and the tile arbitrates again. A drain or an ARM that waits for the last invocation goes on. -/
def State.endInvocation (s : State) (d t c : Nat) : State :=
  let cls := (s.ctx d t c).cls
  let cc := bit (vget (s.tile d t).trg (2 * cls) 0) 48
  let s1 := ((s.forget { kind := .access, die := d, tile := t, i := c }).modCtx d t c Context.free).post 1 .triggerFire
    (.tileRef { die := d, tile := t })
  match s.regionAt d t with
  | none => s1
  | some i =>
    let s2 := if cc then s1.modSlot d i fun r => { r with count := stick (r.count + 1) 0xFFFFFFFF } else s1
    let s3 := if (s2.slot d i).state == .draining && (s2.liveCtxs d i).isEmpty
      then s2.post 0 .drainDone (.dieIdx { die := d, i := i }) else s2
    s3.settle d

/-- RET: once every link has ended, the invocation ends (R327). -/
def execRet (o : BFmt) (s : State) : Host.Outcome State Fault Refusal :=
  .next (s.guardedCtx o.gn o.gs fun s =>
    if s.me.links.isEmpty then (s.advance).endInvocation s.die s.tix s.cix else s.waits .settle)

/-- YIELD: the context parks at the next instruction (R328). -/
def execYield (o : BFmt) (s : State) : Host.Outcome State Fault Refusal :=
  .next (s.guardedCtx o.gn o.gs fun s =>
    s.advance.waits (.yield (s.sys.cycles + 10 * o.aux.toNat) (s.readyOthers s.die s.tix s.cix)))

/-- WAITP: the context parks until the predicates under the mask have the value (R329). -/
def execWaitp (o : BFmt) (s : State) : Host.Outcome State Fault Refusal :=
  .next (s.guardedCtx o.gn o.gs fun s =>
    let v := o.off.extractLsb' 8 8
    if s.myTile.pred &&& o.aux = v &&& o.aux then s.advance else s.waits (.pred o.aux v))

end Sys2Proof.Machine
end

