-- ==== Sys2Proof/Machine/Scalar.lean ====
section
/-! DEFINITION. The scalar integer instructions (14 R312-R318). Every source is read before g[d] is written. -/

namespace Sys2Proof.Machine

/-- A result of a and b (R313). -/
def State.regReg (s : State) (o : SFmt) (f : Word → Word → Word) : State :=
  s.guarded o.gn o.gs fun s => (s.setG o.d (f (s.getG o.a) (s.getG o.b))).advance

/-- A result of a and the sign-extended imm32 (R315). -/
def State.regImm (s : State) (o : SFmt) (f : Word → Word → Word) : State :=
  s.guarded o.gn o.gs fun s => (s.setG o.d (f (s.getG o.a) (o.imm.signExtend 64))).advance

/-- A result of a and the shift amount in bits 5:0 of imm32 (R315). -/
def State.regShift (s : State) (o : SFmt) (f : Word → Nat → Word) : State :=
  s.guarded o.gn o.gs fun s => (s.setG o.d (f (s.getG o.a) (o.imm.toNat % 64))).advance

/-- A result of a (R316). -/
def State.regUn (s : State) (o : SFmt) (f : Word → Word) : State :=
  s.guarded o.gn o.gs fun s => (s.setG o.d (f (s.getG o.a))).advance

/-- A shift (R314): a left shift by 64 or more gives 0. -/
def shiftL (a : Word) (n : Nat) : Word := if 64 ≤ n then 0 else a <<< n
/-- A logical right shift (R314). -/
def shiftR (a : Word) (n : Nat) : Word := if 64 ≤ n then 0 else a >>> n
/-- An arithmetic right shift (R314). -/
def shiftA (a : Word) (n : Nat) : Word := if 64 ≤ n then (if a.msb then BitVec.allOnes 64 else 0) else a.sshiftRight n

/-- DIV (R245, R313). -/
def divS (a b : Word) : Word :=
  if b = 0 then BitVec.allOnes 64 else if a = BitVec.intMin 64 ∧ b = BitVec.allOnes 64 then a else BitVec.ofInt 64 (a.toInt.tdiv b.toInt)
/-- REM (R245, R313): the sign of the dividend. -/
def remS (a b : Word) : Word :=
  if b = 0 then a else if a = BitVec.intMin 64 ∧ b = BitVec.allOnes 64 then 0 else BitVec.ofInt 64 (a.toInt.tmod b.toInt)

/-- Zero bits above the highest set bit of the low k bits. -/
def clzTo (a : Word) : Nat → Nat
  | 0 => 0
  | k + 1 => if a.getLsbD k then 0 else clzTo a k + 1
/-- Zero bits below the lowest set bit, counted over the k bits from 64 - k up. -/
def ctzFrom (a : Word) : Nat → Nat
  | 0 => 0
  | k + 1 => if a.getLsbD (63 - k) then 0 else ctzFrom a k + 1
/-- Set bits among the low k. -/
def popcTo (a : Word) : Nat → Nat
  | 0 => 0
  | k + 1 => b2n (a.getLsbD k) + popcTo a k
/-- Bit i of the result is bit 63 - i (R316). -/
def brev (a : Word) : Word := BitVec.ofNat 64 ((List.range 64).foldl (fun n i => n + b2n (a.getLsbD (63 - i)) * 2 ^ i) 0)
/-- Byte i of the result is byte 7 - i (R316). -/
def bswap (a : Word) : Word := w64 (leVal (leOf 8 a.toNat).reverse)

/-- Field position and width of EXTU, EXTS and INS (R318). -/
def fieldPos (o : SFmt) : Nat := o.imm.toNat % 64
/-- Field width (R318). -/
def fieldWid (o : SFmt) : Nat := o.imm.toNat / 256 % 64 + 1

/-- NOP: no effect (R292). -/
def execNop (o : SFmt) (s : State) : Host.Outcome State Fault Refusal :=
  .next (s.guarded o.gn o.gs State.advance)

/-- ADD (R313). -/
def execAdd (o : SFmt) (s : State) : Host.Outcome State Fault Refusal :=
  .next (s.regReg o fun a b => a + b)

/-- SUB (R313). -/
def execSub (o : SFmt) (s : State) : Host.Outcome State Fault Refusal :=
  .next (s.regReg o fun a b => a - b)

/-- MUL (R313). -/
def execMul (o : SFmt) (s : State) : Host.Outcome State Fault Refusal :=
  .next (s.regReg o fun a b => a * b)

/-- MULH (R313). -/
def execMulh (o : SFmt) (s : State) : Host.Outcome State Fault Refusal :=
  .next (s.regReg o fun a b => BitVec.ofInt 64 (a.toInt * b.toInt / 2 ^ 64))

/-- MULHU (R313). -/
def execMulhu (o : SFmt) (s : State) : Host.Outcome State Fault Refusal :=
  .next (s.regReg o fun a b => w64 (a.toNat * b.toNat / 2 ^ 64))

/-- DIV (R313). -/
def execDiv (o : SFmt) (s : State) : Host.Outcome State Fault Refusal :=
  .next (s.regReg o fun a b => divS a b)

/-- DIVU (R313). -/
def execDivu (o : SFmt) (s : State) : Host.Outcome State Fault Refusal :=
  .next (s.regReg o fun a b => if b = 0 then BitVec.allOnes 64 else w64 (a.toNat / b.toNat))

/-- REM (R313). -/
def execRem (o : SFmt) (s : State) : Host.Outcome State Fault Refusal :=
  .next (s.regReg o fun a b => remS a b)

/-- REMU (R313). -/
def execRemu (o : SFmt) (s : State) : Host.Outcome State Fault Refusal :=
  .next (s.regReg o fun a b => if b = 0 then a else w64 (a.toNat % b.toNat))

/-- AND (R313). -/
def execAnd (o : SFmt) (s : State) : Host.Outcome State Fault Refusal :=
  .next (s.regReg o fun a b => a &&& b)

/-- OR (R313). -/
def execOr (o : SFmt) (s : State) : Host.Outcome State Fault Refusal :=
  .next (s.regReg o fun a b => a ||| b)

/-- XOR (R313). -/
def execXor (o : SFmt) (s : State) : Host.Outcome State Fault Refusal :=
  .next (s.regReg o fun a b => a ^^^ b)

/-- ANDN (R313). -/
def execAndn (o : SFmt) (s : State) : Host.Outcome State Fault Refusal :=
  .next (s.regReg o fun a b => a &&& ~~~b)

/-- SHL (R313). -/
def execShl (o : SFmt) (s : State) : Host.Outcome State Fault Refusal :=
  .next (s.regReg o fun a b => shiftL a b.toNat)

/-- SHR (R313). -/
def execShr (o : SFmt) (s : State) : Host.Outcome State Fault Refusal :=
  .next (s.regReg o fun a b => shiftR a b.toNat)

/-- SRA (R313). -/
def execSra (o : SFmt) (s : State) : Host.Outcome State Fault Refusal :=
  .next (s.regReg o fun a b => shiftA a b.toNat)

/-- ROTL (R313). -/
def execRotl (o : SFmt) (s : State) : Host.Outcome State Fault Refusal :=
  .next (s.regReg o fun a b => a.rotateLeft (b.toNat % 64))

/-- MIN (R313). -/
def execMin (o : SFmt) (s : State) : Host.Outcome State Fault Refusal :=
  .next (s.regReg o fun a b => if a.toInt ≤ b.toInt then a else b)

/-- MAX (R313). -/
def execMax (o : SFmt) (s : State) : Host.Outcome State Fault Refusal :=
  .next (s.regReg o fun a b => if a.toInt ≤ b.toInt then b else a)

/-- MINU (R313). -/
def execMinu (o : SFmt) (s : State) : Host.Outcome State Fault Refusal :=
  .next (s.regReg o fun a b => if a ≤ b then a else b)

/-- MAXU (R313). -/
def execMaxu (o : SFmt) (s : State) : Host.Outcome State Fault Refusal :=
  .next (s.regReg o fun a b => if a ≤ b then b else a)

/-- SLT (R313). -/
def execSlt (o : SFmt) (s : State) : Host.Outcome State Fault Refusal :=
  .next (s.regReg o fun a b => if a.toInt < b.toInt then 1 else 0)

/-- SLTU (R313). -/
def execSltu (o : SFmt) (s : State) : Host.Outcome State Fault Refusal :=
  .next (s.regReg o fun a b => if a < b then 1 else 0)

/-- SEQ (R313). -/
def execSeq (o : SFmt) (s : State) : Host.Outcome State Fault Refusal :=
  .next (s.regReg o fun a b => if a = b then 1 else 0)

/-- ADDI (R315). -/
def execAddi (o : SFmt) (s : State) : Host.Outcome State Fault Refusal :=
  .next (s.regImm o fun a i => a + i)

/-- ANDI (R315). -/
def execAndi (o : SFmt) (s : State) : Host.Outcome State Fault Refusal :=
  .next (s.regImm o fun a i => a &&& i)

/-- ORI (R315). -/
def execOri (o : SFmt) (s : State) : Host.Outcome State Fault Refusal :=
  .next (s.regImm o fun a i => a ||| i)

/-- XORI (R315). -/
def execXori (o : SFmt) (s : State) : Host.Outcome State Fault Refusal :=
  .next (s.regImm o fun a i => a ^^^ i)

/-- SLTI (R315). -/
def execSlti (o : SFmt) (s : State) : Host.Outcome State Fault Refusal :=
  .next (s.regImm o fun a i => if a.toInt < i.toInt then 1 else 0)

/-- SHLI (R315). -/
def execShli (o : SFmt) (s : State) : Host.Outcome State Fault Refusal :=
  .next (s.regShift o shiftL)

/-- SHRI (R315). -/
def execShri (o : SFmt) (s : State) : Host.Outcome State Fault Refusal :=
  .next (s.regShift o shiftR)

/-- SRAI (R315). -/
def execSrai (o : SFmt) (s : State) : Host.Outcome State Fault Refusal :=
  .next (s.regShift o shiftA)

/-- CLZ (R316). -/
def execClz (o : SFmt) (s : State) : Host.Outcome State Fault Refusal :=
  .next (s.regUn o fun a => w64 (clzTo a 64))

/-- CTZ (R316). -/
def execCtz (o : SFmt) (s : State) : Host.Outcome State Fault Refusal :=
  .next (s.regUn o fun a => w64 (ctzFrom a 64))

/-- POPC (R316). -/
def execPopc (o : SFmt) (s : State) : Host.Outcome State Fault Refusal :=
  .next (s.regUn o fun a => w64 (popcTo a 64))

/-- BREV (R316). -/
def execBrev (o : SFmt) (s : State) : Host.Outcome State Fault Refusal :=
  .next (s.regUn o fun a => brev a)

/-- BSWAP (R316). -/
def execBswap (o : SFmt) (s : State) : Host.Outcome State Fault Refusal :=
  .next (s.regUn o fun a => bswap a)

/-- SEL: g[a] where g[c] is not 0, else g[b] (R317). -/
def execSel (o : SFmt) (s : State) : Host.Outcome State Fault Refusal :=
  .next (s.guarded o.gn o.gs fun s =>
    (s.setG o.d (if s.getG (o.imm.setWidth 5) ≠ 0 then s.getG o.a else s.getG o.b)).advance)

/-- MOVI (R317). -/
def execMovi (o : SFmt) (s : State) : Host.Outcome State Fault Refusal :=
  .next (s.guarded o.gn o.gs fun s => (s.setG o.d (o.imm.signExtend 64)).advance)

/-- LIH: imm32 above the low half of a (R317). -/
def execLih (o : SFmt) (s : State) : Host.Outcome State Fault Refusal :=
  .next (s.regUn o fun a => o.imm ++ a.setWidth 32)

/-- EXTU (R318). -/
def execExtu (o : SFmt) (s : State) : Host.Outcome State Fault Refusal :=
  .next (s.regUn o fun a => w64 (a.toNat >>> fieldPos o % 2 ^ fieldWid o))

/-- EXTS (R318). -/
def execExts (o : SFmt) (s : State) : Host.Outcome State Fault Refusal :=
  .next (s.regUn o fun a =>
    let v := a.toNat >>> fieldPos o % 2 ^ fieldWid o
    if v < 2 ^ (fieldWid o - 1) then w64 v else w64 (2 ^ 64 - 2 ^ fieldWid o + v))

/-- INS: bits of a replaced by the low bits of b (R318). -/
def execIns (o : SFmt) (s : State) : Host.Outcome State Fault Refusal :=
  .next (s.regReg o fun a b =>
    let m := w64 ((2 ^ fieldWid o - 1) * 2 ^ fieldPos o)
    (a &&& ~~~m) ||| ((b <<< fieldPos o) &&& m))

end Sys2Proof.Machine
end

