-- ==== Sys2Proof/Machine/Dispatch.lean ====
section
/-! DEFINITION. The dispatch: one arm per constructor of Instr, each one direct call of that instruction's meaning. -/

namespace Sys2Proof.Machine

open Sys2Proof

/-- The meaning of an instruction or event. -/
def exec (i : Instr) (s : State) : Host.Outcome State Fault Refusal :=
  match i with
  | .nop o => Sys2Proof.Machine.execNop o s
  | .add o => Sys2Proof.Machine.execAdd o s
  | .sub o => Sys2Proof.Machine.execSub o s
  | .addi o => Sys2Proof.Machine.execAddi o s
  | .mul o => Sys2Proof.Machine.execMul o s
  | .mulh o => Sys2Proof.Machine.execMulh o s
  | .mulhu o => Sys2Proof.Machine.execMulhu o s
  | .div o => Sys2Proof.Machine.execDiv o s
  | .divu o => Sys2Proof.Machine.execDivu o s
  | .rem o => Sys2Proof.Machine.execRem o s
  | .remu o => Sys2Proof.Machine.execRemu o s
  | .and o => Sys2Proof.Machine.execAnd o s
  | .or o => Sys2Proof.Machine.execOr o s
  | .xor o => Sys2Proof.Machine.execXor o s
  | .andn o => Sys2Proof.Machine.execAndn o s
  | .andi o => Sys2Proof.Machine.execAndi o s
  | .ori o => Sys2Proof.Machine.execOri o s
  | .xori o => Sys2Proof.Machine.execXori o s
  | .shl o => Sys2Proof.Machine.execShl o s
  | .shr o => Sys2Proof.Machine.execShr o s
  | .sra o => Sys2Proof.Machine.execSra o s
  | .shli o => Sys2Proof.Machine.execShli o s
  | .shri o => Sys2Proof.Machine.execShri o s
  | .srai o => Sys2Proof.Machine.execSrai o s
  | .rotl o => Sys2Proof.Machine.execRotl o s
  | .clz o => Sys2Proof.Machine.execClz o s
  | .ctz o => Sys2Proof.Machine.execCtz o s
  | .popc o => Sys2Proof.Machine.execPopc o s
  | .min o => Sys2Proof.Machine.execMin o s
  | .max o => Sys2Proof.Machine.execMax o s
  | .minu o => Sys2Proof.Machine.execMinu o s
  | .maxu o => Sys2Proof.Machine.execMaxu o s
  | .slt o => Sys2Proof.Machine.execSlt o s
  | .sltu o => Sys2Proof.Machine.execSltu o s
  | .seq o => Sys2Proof.Machine.execSeq o s
  | .slti o => Sys2Proof.Machine.execSlti o s
  | .sel o => Sys2Proof.Machine.execSel o s
  | .movi o => Sys2Proof.Machine.execMovi o s
  | .lih o => Sys2Proof.Machine.execLih o s
  | .extu o => Sys2Proof.Machine.execExtu o s
  | .exts o => Sys2Proof.Machine.execExts o s
  | .ins o => Sys2Proof.Machine.execIns o s
  | .brev o => Sys2Proof.Machine.execBrev o s
  | .bswap o => Sys2Proof.Machine.execBswap o s
  | .br o => Sys2Proof.Machine.execBr o s
  | .beq o => Sys2Proof.Machine.execBeq o s
  | .bne o => Sys2Proof.Machine.execBne o s
  | .blt o => Sys2Proof.Machine.execBlt o s
  | .bge o => Sys2Proof.Machine.execBge o s
  | .bltu o => Sys2Proof.Machine.execBltu o s
  | .bgeu o => Sys2Proof.Machine.execBgeu o s
  | .bpt o => Sys2Proof.Machine.execBpt o s
  | .bmk o => Sys2Proof.Machine.execBmk o s
  | .jal o => Sys2Proof.Machine.execJal o s
  | .jalr o => Sys2Proof.Machine.execJalr o s
  | .loop o => Sys2Proof.Machine.execLoop o s
  | .pset o => Sys2Proof.Machine.execPset o s
  | .psetR o => Sys2Proof.Machine.execPsetR o s
  | .psetNz o => Sys2Proof.Machine.execPsetNz o s
  | .ret o => Sys2Proof.Machine.execRet o s
  | .yield o => Sys2Proof.Machine.execYield o s
  | .waitp o => Sys2Proof.Machine.execWaitp o s
  | .ldb o => Sys2Proof.Machine.execLdb o s
  | .ldbu o => Sys2Proof.Machine.execLdbu o s
  | .ldh o => Sys2Proof.Machine.execLdh o s
  | .ldhu o => Sys2Proof.Machine.execLdhu o s
  | .ldw o => Sys2Proof.Machine.execLdw o s
  | .ldwu o => Sys2Proof.Machine.execLdwu o s
  | .ldd o => Sys2Proof.Machine.execLdd o s
  | .stb o => Sys2Proof.Machine.execStb o s
  | .sth o => Sys2Proof.Machine.execSth o s
  | .stw o => Sys2Proof.Machine.execStw o s
  | .std o => Sys2Proof.Machine.execStd o s
  | .ldq o => Sys2Proof.Machine.execLdq o s
  | .stq o => Sys2Proof.Machine.execStq o s
  | .pref o => Sys2Proof.Machine.execPref o s
  | .cflush o => Sys2Proof.Machine.execCflush o s
  | .cinv o => Sys2Proof.Machine.execCinv o s
  | .aadd o => Sys2Proof.Machine.execAadd o s
  | .aand o => Sys2Proof.Machine.execAand o s
  | .aor o => Sys2Proof.Machine.execAor o s
  | .axor o => Sys2Proof.Machine.execAxor o s
  | .amin o => Sys2Proof.Machine.execAmin o s
  | .amax o => Sys2Proof.Machine.execAmax o s
  | .aminu o => Sys2Proof.Machine.execAminu o s
  | .amaxu o => Sys2Proof.Machine.execAmaxu o s
  | .aswap o => Sys2Proof.Machine.execAswap o s
  | .acas o => Sys2Proof.Machine.execAcas o s
  | .ldaq o => Sys2Proof.Machine.execLdaq o s
  | .strel o => Sys2Proof.Machine.execStrel o s
  | .fence o => Sys2Proof.Machine.execFence o s
  | .sbar o => Sys2Proof.Machine.execSbar o s
  | .sgpost o => Sys2Proof.Machine.execSgpost o s
  | .sgwait o => Sys2Proof.Machine.execSgwait o s
  | .vadd o => Sys2Proof.Machine.execVadd o s
  | .vsub o => Sys2Proof.Machine.execVsub o s
  | .vmul o => Sys2Proof.Machine.execVmul o s
  | .vfma o => Sys2Proof.Machine.execVfma o s
  | .vfms o => Sys2Proof.Machine.execVfms o s
  | .vnfma o => Sys2Proof.Machine.execVnfma o s
  | .vabs o => Sys2Proof.Machine.execVabs o s
  | .vneg o => Sys2Proof.Machine.execVneg o s
  | .vmax o => Sys2Proof.Machine.execVmax o s
  | .vmin o => Sys2Proof.Machine.execVmin o s
  | .vdiv o => Sys2Proof.Machine.execVdiv o s
  | .vrcp o => Sys2Proof.Machine.execVrcp o s
  | .vsqrt o => Sys2Proof.Machine.execVsqrt o s
  | .vrsq o => Sys2Proof.Machine.execVrsq o s
  | .vexp2 o => Sys2Proof.Machine.execVexp2 o s
  | .vlog2 o => Sys2Proof.Machine.execVlog2 o s
  | .vscale o => Sys2Proof.Machine.execVscale o s
  | .vcmp o => Sys2Proof.Machine.execVcmp o s
  | .vcmpt o => Sys2Proof.Machine.execVcmpt o s
  | .vcut o => Sys2Proof.Machine.execVcut o s
  | .vsettle o => Sys2Proof.Machine.execVsettle o s
  | .vcvt o => Sys2Proof.Machine.execVcvt o s
  | .vqnt o => Sys2Proof.Machine.execVqnt o s
  | .vdq o => Sys2Proof.Machine.execVdq o s
  | .vsel o => Sys2Proof.Machine.execVsel o s
  | .viadd o => Sys2Proof.Machine.execViadd o s
  | .visub o => Sys2Proof.Machine.execVisub o s
  | .vimul o => Sys2Proof.Machine.execVimul o s
  | .vimin o => Sys2Proof.Machine.execVimin o s
  | .vimax o => Sys2Proof.Machine.execVimax o s
  | .vand o => Sys2Proof.Machine.execVand o s
  | .vor o => Sys2Proof.Machine.execVor o s
  | .vxor o => Sys2Proof.Machine.execVxor o s
  | .vshl o => Sys2Proof.Machine.execVshl o s
  | .vshr o => Sys2Proof.Machine.execVshr o s
  | .vsra o => Sys2Proof.Machine.execVsra o s
  | .vmov o => Sys2Proof.Machine.execVmov o s
  | .vbcast o => Sys2Proof.Machine.execVbcast o s
  | .vext o => Sys2Proof.Machine.execVext o s
  | .vins o => Sys2Proof.Machine.execVins o s
  | .vperm o => Sys2Proof.Machine.execVperm o s
  | .vrot o => Sys2Proof.Machine.execVrot o s
  | .viota o => Sys2Proof.Machine.execViota o s
  | .vrsum o => Sys2Proof.Machine.execVrsum o s
  | .vrmax o => Sys2Proof.Machine.execVrmax o s
  | .vrarg o => Sys2Proof.Machine.execVrarg o s
  | .vtopk o => Sys2Proof.Machine.execVtopk o s
  | .vscan o => Sys2Proof.Machine.execVscan o s
  | .mand o => Sys2Proof.Machine.execMand o s
  | .mor o => Sys2Proof.Machine.execMor o s
  | .mxor o => Sys2Proof.Machine.execMxor o s
  | .mnot o => Sys2Proof.Machine.execMnot o s
  | .mpop o => Sys2Proof.Machine.execMpop o s
  | .mfirst o => Sys2Proof.Machine.execMfirst o s
  | .mset o => Sys2Proof.Machine.execMset o s
  | .vld o => Sys2Proof.Machine.execVld o s
  | .vst o => Sys2Proof.Machine.execVst o s
  | .vlds o => Sys2Proof.Machine.execVlds o s
  | .vsts o => Sys2Proof.Machine.execVsts o s
  | .vgth o => Sys2Proof.Machine.execVgth o s
  | .vsct o => Sys2Proof.Machine.execVsct o s
  | .vrng o => Sys2Proof.Machine.execVrng o s
  | .mzero o => Sys2Proof.Machine.execMzero o s
  | .mma o => Sys2Proof.Machine.execMma o s
  | .mmas o => Sys2Proof.Machine.execMmas o s
  | .mrd o => Sys2Proof.Machine.execMrd o s
  | .mrdq o => Sys2Proof.Machine.execMrdq o s
  | .mlda o => Sys2Proof.Machine.execMlda o s
  | .mscl o => Sys2Proof.Machine.execMscl o s
  | .mwait o => Sys2Proof.Machine.execMwait o s
  | .apcfgM o => Sys2Proof.Machine.execApcfgM o s
  | .apcfgR o => Sys2Proof.Machine.execApcfgR o s
  | .apcfgPre o => Sys2Proof.Machine.execApcfgPre o s
  | .apdim o => Sys2Proof.Machine.execApdim o s
  | .apstart o => Sys2Proof.Machine.execApstart o s
  | .apstop o => Sys2Proof.Machine.execApstop o s
  | .appos o => Sys2Proof.Machine.execAppos o s
  | .apseek o => Sys2Proof.Machine.execApseek o s
  | .qbind o => Sys2Proof.Machine.execQbind o s
  | .qbindK o => Sys2Proof.Machine.execQbindK o s
  | .qbindU o => Sys2Proof.Machine.execQbindU o s
  | .qstat o => Sys2Proof.Machine.execQstat o s
  | .cecpy o => Sys2Proof.Machine.execCecpy o s
  | .ce2d o => Sys2Proof.Machine.execCe2d o s
  | .cefill o => Sys2Proof.Machine.execCefill o s
  | .cepg o => Sys2Proof.Machine.execCepg o s
  | .cestat o => Sys2Proof.Machine.execCestat o s
  | .ceabt o => Sys2Proof.Machine.execCeabt o s
  | .knew o => Sys2Proof.Machine.execKnew o s
  | .knewC o => Sys2Proof.Machine.execKnewC o s
  | .ksend o => Sys2Proof.Machine.execKsend o s
  | .kfwd o => Sys2Proof.Machine.execKfwd o s
  | .khdr o => Sys2Proof.Machine.execKhdr o s
  | .kset o => Sys2Proof.Machine.execKset o s
  | .kdrop o => Sys2Proof.Machine.execKdrop o s
  | .kmrg o => Sys2Proof.Machine.execKmrg o s
  | .ksplit o => Sys2Proof.Machine.execKsplit o s
  | .shlk o => Sys2Proof.Machine.execShlk o s
  | .shrefInc o => Sys2Proof.Machine.execShrefInc o s
  | .shrefDec o => Sys2Proof.Machine.execShrefDec o s
  | .shpin o => Sys2Proof.Machine.execShpin o s
  | .shcpy o => Sys2Proof.Machine.execShcpy o s
  | .kvapp o => Sys2Proof.Machine.execKvapp o s
  | .kvcmt o => Sys2Proof.Machine.execKvcmt o s
  | .kvrej o => Sys2Proof.Machine.execKvrej o s
  | .sctch o => Sys2Proof.Machine.execSctch o s
  | .scld o => Sys2Proof.Machine.execScld o s
  | .scev o => Sys2Proof.Machine.execScev o s
  | .scqry o => Sys2Proof.Machine.execScqry o s
  | .spacc o => Sys2Proof.Machine.execSpacc o s
  | .spres o => Sys2Proof.Machine.execSpres o s
  | .trpub o => Sys2Proof.Machine.execTrpub o s
  | .launch o => Sys2Proof.Machine.execLaunch o s
  | .trap o => Sys2Proof.Machine.execTrap o s
  | .eret o => Sys2Proof.Machine.execEret o s
  | .csrr o => Sys2Proof.Machine.execCsrr o s
  | .csrw o => Sys2Proof.Machine.execCsrw o s
  | .csrs o => Sys2Proof.Machine.execCsrs o s
  | .csrc o => Sys2Proof.Machine.execCsrc o s
  | .time o => Sys2Proof.Machine.execTime o s
  | .waitt o => Sys2Proof.Machine.execWaitt o s
  | .bar o => Sys2Proof.Machine.execBar o s
  | .ctxsv o => Sys2Proof.Machine.execCtxsv o s
  | .ctxld o => Sys2Proof.Machine.execCtxld o s
  | .tlbiAll o => Sys2Proof.Machine.execTlbiAll o s
  | .tlbiAsid o => Sys2Proof.Machine.execTlbiAsid o s
  | .tlbiVa o => Sys2Proof.Machine.execTlbiVa o s
  | .tlbiVall o => Sys2Proof.Machine.execTlbiVall o s
  | .cfgld o => Sys2Proof.Machine.execCfgld o s
  | .trgld o => Sys2Proof.Machine.execTrgld o s
  | .bkpt o => Sys2Proof.Machine.execBkpt o s
  | .halt o => Sys2Proof.Machine.execHalt o s
  | .coldStart => Sys2Proof.Machine.execColdStart s
  | .warmStart => Sys2Proof.Machine.execWarmStart s
  | .thermalStopEnd => Sys2Proof.Machine.execThermalStopEnd s
  | .recoveryFrame => Sys2Proof.Machine.execRecoveryFrame s
  | .recoveryEnd => Sys2Proof.Machine.execRecoveryEnd s
  | .attestationRequest => Sys2Proof.Machine.execAttestationRequest s
  | .fuseSvnRaise => Sys2Proof.Machine.execFuseSvnRaise s
  | .lifetimeRecordWrite => Sys2Proof.Machine.execLifetimeRecordWrite s
  | .recordCopyRequest => Sys2Proof.Machine.execRecordCopyRequest s
  | .powerSample => Sys2Proof.Machine.execPowerSample s
  | .linkDown => Sys2Proof.Machine.execLinkDown s
  | .cmRequest => Sys2Proof.Machine.execCmRequest s
  | .hostSend => Sys2Proof.Machine.execHostSend s
  | .hostWrite => Sys2Proof.Machine.execHostWrite s
  | .hostWriteImm => Sys2Proof.Machine.execHostWriteImm s
  | .hostRead => Sys2Proof.Machine.execHostRead s
  | .fetchAdd => Sys2Proof.Machine.execFetchAdd s
  | .cmpSwap => Sys2Proof.Machine.execCmpSwap s
  | .hostInvalidOpcode => Sys2Proof.Machine.execHostInvalidOpcode s
  | .cnpReceived => Sys2Proof.Machine.execCnpReceived s
  | .loopDataFrame => Sys2Proof.Machine.execLoopDataFrame s
  | .loopAckFrame => Sys2Proof.Machine.execLoopAckFrame s
  | .loopNakFrame => Sys2Proof.Machine.execLoopNakFrame s
  | .ackTimer => Sys2Proof.Machine.execAckTimer s
  | .replayTimeout => Sys2Proof.Machine.execReplayTimeout s
  | .remoteRequest => Sys2Proof.Machine.execRemoteRequest s
  | .podcfgWrite => Sys2Proof.Machine.execPodcfgWrite s
  | .ptpSync => Sys2Proof.Machine.execPtpSync s
  | .ptpAnnounceTimeout => Sys2Proof.Machine.execPtpAnnounceTimeout s
  | .timeStep => Sys2Proof.Machine.execTimeStep s
  | .timerateWrite => Sys2Proof.Machine.execTimerateWrite s
  | .ptpstatWrite => Sys2Proof.Machine.execPtpstatWrite s
  | .sbbaseWrite => Sys2Proof.Machine.execSbbaseWrite s
  | .tailStore => Sys2Proof.Machine.execTailStore s
  | .graph => Sys2Proof.Machine.execGraph s
  | .preempt => Sys2Proof.Machine.execPreempt s
  | .resume => Sys2Proof.Machine.execResume s
  | .abort => Sys2Proof.Machine.execAbort s
  | .scset => Sys2Proof.Machine.execScset s
  | .scfree => Sys2Proof.Machine.execScfree s
  | .ttset => Sys2Proof.Machine.execTtset s
  | .query => Sys2Proof.Machine.execQuery s
  | .endNode => Sys2Proof.Machine.execEndNode s
  | .cfg => Sys2Proof.Machine.execCfg s
  | .arm => Sys2Proof.Machine.execArm s
  | .waitNode => Sys2Proof.Machine.execWaitNode s
  | .waitTimeout => Sys2Proof.Machine.execWaitTimeout s
  | .repeatNode => Sys2Proof.Machine.execRepeatNode s
  | .signal => Sys2Proof.Machine.execSignal s
  | .sct => Sys2Proof.Machine.execSct s
  | .drain => Sys2Proof.Machine.execDrain s
  | .timetableFire => Sys2Proof.Machine.execTimetableFire s
  | .stccfgWrite => Sys2Proof.Machine.execStccfgWrite s
  | .scanVisit => Sys2Proof.Machine.execScanVisit s
  | .stcRestoreDone => Sys2Proof.Machine.execStcRestoreDone s
  | .stcEvictDone => Sys2Proof.Machine.execStcEvictDone s
  | .triggerFire => Sys2Proof.Machine.execTriggerFire s
  | .go => Sys2Proof.Machine.execGo s
  | .quiesceDone => Sys2Proof.Machine.execQuiesceDone s
  | .saveDone => Sys2Proof.Machine.execSaveDone s
  | .regionRestoreDone => Sys2Proof.Machine.execRegionRestoreDone s
  | .drainDone => Sys2Proof.Machine.execDrainDone s
  | .rewalk => Sys2Proof.Machine.execRewalk s
  | .withholdTimeout => Sys2Proof.Machine.execWithholdTimeout s
  | .hotcfgWrite => Sys2Proof.Machine.execHotcfgWrite s
  | .wholdWrite => Sys2Proof.Machine.execWholdWrite s
  | .coachHop => Sys2Proof.Machine.execCoachHop s
  | .coachDelivery => Sys2Proof.Machine.execCoachDelivery s
  | .loopexit => Sys2Proof.Machine.execLoopexit s
  | .merge => Sys2Proof.Machine.execMerge s
  | .reduce => Sys2Proof.Machine.execReduce s
  | .reduceDeadline => Sys2Proof.Machine.execReduceDeadline s
  | .junctionSidingTimeout => Sys2Proof.Machine.execJunctionSidingTimeout s
  | .junctionSidingRelease => Sys2Proof.Machine.execJunctionSidingRelease s
  | .apeElement => Sys2Proof.Machine.execApeElement s
  | .generatorElement => Sys2Proof.Machine.execGeneratorElement s
  | .ceGranule => Sys2Proof.Machine.execCeGranule s
  | .ceComplete => Sys2Proof.Machine.execCeComplete s
  | .matrixComplete => Sys2Proof.Machine.execMatrixComplete s
  | .linkSettle => Sys2Proof.Machine.execLinkSettle s
  | .watchdog => Sys2Proof.Machine.execWatchdog s
  | .eccError => Sys2Proof.Machine.execEccError s
  | .trapinfoAck => Sys2Proof.Machine.execTrapinfoAck s
  | .tilePredWrite => Sys2Proof.Machine.execTilePredWrite s
  | .svwdogWrite => Sys2Proof.Machine.execSvwdogWrite s
  | .evpendAck => Sys2Proof.Machine.execEvpendAck s
  | .bootwalkGo => Sys2Proof.Machine.execBootwalkGo s
  | .registerWrite => Sys2Proof.Machine.execRegisterWrite s
  | .linkUp => Sys2Proof.Machine.execLinkUp s
  | .powerLoss => Sys2Proof.Machine.execPowerLoss s
  | .announceReceived => Sys2Proof.Machine.execAnnounceReceived s
  | .waittExpiry => Sys2Proof.Machine.execWaittExpiry s

end Sys2Proof.Machine
end

