-- ==== Sys2Proof/Machine/Step.lean ====
section
/-! DEFINITION. One step of the module. -/

namespace Sys2Proof.Machine

/-- Time passes; then what happens next happens: an event, or an instruction fetched and decoded. -/
def step (s : State) : Host.Outcome State Fault Refusal :=
  match s.tick.choose with
  | (t, some i) => exec i t
  | (t, none) => .next t

/-- The state with an instruction word stored where the next step fetches its instruction (entry 4). -/
def State.withFetchWord (s : State) (nbits w : Nat) : State := s.placed (w % 2 ^ nbits)

end Sys2Proof.Machine
end

