-- ==== Sys2Proof/Safety.lean ====
section
/-! DEFINITION. The terms in which claims speak: when an instruction is not passed over, what an access meets, what a state
keeps of another, and the invariant of the machine. -/

namespace Sys2Proof.Safety

open Sys2Proof.Machine

/-- What a step answers. -/
abbrev Res := Host.Outcome State Fault Refusal

/-- A step that answers a next state. -/
def Completes (o : Res) : Prop := ∃ t, o = .next t

/-! When an instruction runs. -/

/-- An instruction with a predicate guard is not passed over: on a core GS is 0 (R304), in a context the guard is true. -/
def GuardOn (s : State) (gn : Bool) (gs : BitVec 3) : Prop := if s.onCore then gs = 0 else s.predTrue gn gs = true

/-- The guard of an instruction in a context is true (R294, R295). -/
def CtxOn (s : State) (gn : Bool) (gs : BitVec 3) : Prop := s.onCore = false ∧ s.predTrue gn gs = true

/-- The executing context's predicate guard is false: the instruction is passed over (R295). -/
def GuardOff (s : State) (gn : Bool) (gs : BitVec 3) : Prop := s.onCore = false ∧ s.predTrue gn gs = false

/-- A supervisor-level instruction runs: the level holds, and a context's guard is true or a core's GS is 0 (R304). -/
def SupOn (s : State) (gn : Bool) (gs : BitVec 3) : Prop := s.isSup = true ∧ GuardOn s gn gs

/-- An instruction of the vector, matrix or port groups runs in a context with active lanes a: no link still writes its
guard mask (R295), and the mask leaves a lane (R199). -/
def LanesOn (s : State) (gn : Bool) (gs : BitVec 3) (a : Word) : Prop :=
  s.onCore = false ∧ s.me.maskLink gs.toNat = none ∧ s.activeLanes gn gs = a ∧ a ≠ 0

/-! Accesses. -/

/-- The access checks of R333 before the address itself: control space needs supervisor level, and the alignment holds. -/
def Aligned (s : State) (ea align : Nat) : Prop := (ea / 2 ^ 60 = 4 → s.isSup = true) ∧ ea % align = 0

/-- An access passes R333 and lies in memory at p. -/
def InMem (s : State) (ea n align : Nat) (a : Acc) (p : Phys) : Prop :=
  Aligned s ea align ∧ s.check s.req ea n a = .ok p

/-! What a state keeps of another. -/

/-- A context by a tile below 256, or a core: agents that the tables tell apart. -/
def AgentOk : Agent → Prop
  | .ctx _ t _ => t < 256
  | .core _ => True

/-- t differs from s in registers that a context and a core have alike, and in nothing else. -/
def OnlyHarts (s t : State) : Prop :=
  t = { s with tiles := t.tiles, cores := t.cores }
    ∧ (∀ d k, t.tile d k = { s.tile d k with ctxs := (t.tile d k).ctxs })
    ∧ (∀ d k c, t.ctx d k c = { s.ctx d k c with hart := (t.ctx d k c).hart })
    ∧ ∀ n, t.core n = { s.core n with hart := (t.core n).hart }

/-- The frame of an instruction on general registers: of the whole state, only the executing agent's registers ds, its
program counter and its wait, with the word that waits and when it last issued (R96), may differ; every flag, mode and trap register and every byte of memory stays. -/
def RegFrame (s t : State) (ds : List (BitVec 5)) : Prop :=
  OnlyHarts s t
    ∧ (∀ a, AgentOk a → a ≠ s.cur → t.hartOf a = s.hartOf a)
    ∧ t.hart = { s.hart with
        g := t.hart.g, pc := t.hart.pc, wait := t.hart.wait, word := t.hart.word, issue := t.hart.issue, nissue := t.hart.nissue }
    ∧ (∀ n, n ∉ ds → t.getG n = s.getG n)
    ∧ ∀ k, t.mem.byte k = s.mem.byte k

/-! Vector instructions on registers. -/

/-- The vector fields of an instruction name registers, not ports (R199); with sa the field va is a general register. -/
def RegOps (o : VFmt) (fs : List (BitVec 5)) : Prop := (o.sa = true ∨ o.va.toNat < 24) ∧ ∀ f ∈ fs, f.toNat < 24

/-- No link in flight writes a lane, among those given, of operand va or of the registers fs (R257). -/
def Settled (s : State) (o : VFmt) (fs : List (BitVec 5)) (lanes : Word) : Prop :=
  s.regWait ((vaSrc o).map (·.2) ++ fs) lanes = none

/-- Lane j of a vector register as an instruction reads it: settled, and +0 under a cut mark (R257, R266). -/
def laneOf (s : State) (f : BitVec 5) (j : Nat) : Lane := vget (s.readV f.toNat) j 0

/-- Lane j of operand va: the register's, or with sa the low half of g[va] (R298). -/
def vaOf (s : State) (o : VFmt) (j : Nat) : Lane := if o.sa then (s.getG o.va).setWidth 32 else laneOf s o.va j

/-- What an instruction keeps that writes no register of the trap and rounding kind: the executing agent's CTX.EPC, CAUSE,
TVAL, NBV and RND, and every register that any other agent has. -/
def Kept (s t : State) : Prop :=
  t.cur = s.cur ∧ t.hart.epc = s.hart.epc ∧ t.hart.cause = s.hart.cause ∧ t.hart.tval = s.hart.tval ∧ t.hart.nbv = s.hart.nbv
    ∧ t.hart.rnd = s.hart.rnd ∧ (AgentOk s.cur → ∀ a, AgentOk a → a ≠ s.cur → t.hartOf a = s.hartOf a)

/-- t moves on to the next instruction and keeps all memory and what Kept says. -/
def Steps (s t : State) : Prop := t.pc = s.pc + 8 ∧ t.mem = s.mem ∧ Kept s t

/-- t moves on and keeps memory and the general registers of s. -/
def MovedOn (s t : State) : Prop := Steps s t ∧ ∀ n, t.getG n = s.getG n

/-- The result of an instruction that writes a vector register: the lanes of a take f, every other lane and register and
every mask stays, and the flags fl are added. -/
def WroteLanes (s t : State) (r : Nat) (a : Word) (f : Nat → Lane) (fl : Fl) : Prop :=
  MovedOn s t ∧ t.me.m = s.me.m ∧ t.hart.fflags = s.hart.fflags ||| fl
    ∧ (∀ j, j < 64 → vget (vget t.me.v r .zero) j 0 = if a.getLsbD j then f j else vget (vget s.me.v r .zero) j 0)
    ∧ ∀ k, k ≠ r → vget t.me.v k .zero = vget s.me.v k .zero

/-- An older link beside a new one: it writes no more the lanes that the new one writes (R260). -/
def yields (l o : Link) : Link :=
  if l.toMask then o.overMask l.dst l.active
  else if l.two then (o.overwrite l.dst l.active).overwrite (l.dst + 1) l.active else o.overwrite l.dst l.active

/-- The links of s that a new one leaves: one without lanes has ended (R260). -/
def older (s : State) (l : Link) : List Link := (s.me.links.map (yields l)).filter fun o => o.open_ != 0

/-- The link of the instruction at s for the lanes of a, with their values, residuals and flags (R260, R261, R264). -/
def NewLink (s : State) (dst : Nat) (a : Word) (f : Nat → LaneRes) (l : Link) : Prop :=
  l.word = s.ir ∧ l.dst = dst ∧ l.active = a ∧ l.opn = a ∧ l.push = none
    ∧ ∀ j, j < 64 → vget l.vals j 0 = (f j).v ∧ vget l.vals2 j 0 = (f j).e ∧ vget l.fl j 0 = (f j).fl.setWidth 32

/-- The result of a chain instruction: its link stands after those it leaves. -/
def Linked (s t : State) (dst : Nat) (a : Word) (f : Nat → LaneRes) : Prop :=
  ∃ l, NewLink s dst a f l ∧ t.me.links = older s l ++ [l]

/-! Matrix instructions. -/

/-- The executing matrix instruction as its place in the tile's queue, for the lanes of a mask and without operands (R376). -/
def queuedAs (s : State) (o : MFmt) (a : Word) (k : MatKind) : MatOp :=
  { word := s.ir, c := s.cix, inv := s.me.inv, o := o, kind := k, mask := a, rnd := s.hart.rnd
    a := { x := 0, y := 0, els := [], cols := 0 }, b := { x := 0, y := 0, els := [], cols := 0 }, f := .zero, push := none, own := [] }

end Sys2Proof.Safety
end

