-- ==== Sys2Proof/Certificates/Slice0/Obligations.lean ====
section
/-! DEFINITION. The statements for the provers, by family of the opcode table. -/

open Sys2Proof Sys2Proof.Machine Sys2Proof.Safety

/-! Scalar integer and control. -/

/-- R198, R312: a write of g0 is discarded and g0 reads 0; any other register takes the value, and no other register of any
agent changes. -/
def Obligations.GeneralRegisterWrite : Prop :=
  ∀ (s : State) (n : BitVec 5) (v : Word), AgentOk s.cur →
    s.getG 0 = 0 ∧ s.setG 0 v = s
      ∧ (n ≠ 0 → (s.setG n v).getG n = v)
      ∧ (∀ k, k ≠ n → (s.setG n v).getG k = s.getG k)
      ∧ ∀ a, AgentOk a → a ≠ s.cur → (s.setG n v).hartOf a = s.hartOf a

/-- R313, R314: the register-register instructions write g[d] with the value of R313 and move on. -/
def Obligations.ScalarRegisterResults : Prop :=
  ∀ (s : State) (o : SFmt), GuardOn s o.gn o.gs →
    let a := s.getG o.a
    let b := s.getG o.b
    let n := b.toNat
    let r : Word → Res := fun v => .next (s.setG o.d v).advance
    exec (.add o) s = r (BitVec.ofNat 64 (a.toNat + b.toNat))
      ∧ exec (.sub o) s = r (BitVec.ofInt 64 (a.toNat - b.toNat))
      ∧ exec (.mul o) s = r (BitVec.ofNat 64 (a.toNat * b.toNat))
      ∧ exec (.mulh o) s = r (BitVec.ofInt 64 (a.toInt * b.toInt / 2 ^ 64))
      ∧ exec (.mulhu o) s = r (BitVec.ofNat 64 (a.toNat * b.toNat / 2 ^ 64))
      ∧ exec (.div o) s = r (if b = 0 then BitVec.allOnes 64 else BitVec.ofInt 64 (a.toInt.tdiv b.toInt))
      ∧ exec (.divu o) s = r (if b = 0 then BitVec.allOnes 64 else BitVec.ofNat 64 (a.toNat / b.toNat))
      ∧ exec (.rem o) s = r (if b = 0 then a else BitVec.ofInt 64 (a.toInt - b.toInt * a.toInt.tdiv b.toInt))
      ∧ exec (.remu o) s = r (if b = 0 then a else BitVec.ofNat 64 (a.toNat % b.toNat))
      ∧ exec (.and o) s = r (a &&& b)
      ∧ exec (.or o) s = r (a ||| b)
      ∧ exec (.xor o) s = r (a ^^^ b)
      ∧ exec (.andn o) s = r (a &&& ~~~b)
      ∧ exec (.shl o) s = r (if 64 ≤ n then 0 else BitVec.ofNat 64 (a.toNat * 2 ^ n))
      ∧ exec (.shr o) s = r (if 64 ≤ n then 0 else BitVec.ofNat 64 (a.toNat / 2 ^ n))
      ∧ exec (.sra o) s = r (if 64 ≤ n then (if a.toInt < 0 then BitVec.allOnes 64 else 0) else BitVec.ofInt 64 (a.toInt / 2 ^ n))
      ∧ exec (.rotl o) s = r (BitVec.ofNat 64 (a.toNat * 2 ^ (n % 64)) ||| BitVec.ofNat 64 (a.toNat / 2 ^ (64 - n % 64)))
      ∧ exec (.min o) s = r (if a.toInt ≤ b.toInt then a else b)
      ∧ exec (.max o) s = r (if b.toInt ≤ a.toInt then a else b)
      ∧ exec (.minu o) s = r (if a.toNat ≤ b.toNat then a else b)
      ∧ exec (.maxu o) s = r (if b.toNat ≤ a.toNat then a else b)
      ∧ exec (.slt o) s = r (if a.toInt < b.toInt then 1 else 0)
      ∧ exec (.sltu o) s = r (if a.toNat < b.toNat then 1 else 0)
      ∧ exec (.seq o) s = r (if a = b then 1 else 0)

/-- R315, R317, R318: the immediate forms, SEL, MOVI, LIH and the field instructions, and NOP (R292). R316: the unary
instructions, each by the bits of its result. -/
def Obligations.ScalarImmediateAndUnaryResults : Prop :=
  (
  ∀ (s : State) (o : SFmt), GuardOn s o.gn o.gs →
    let a := s.getG o.a
    let b := s.getG o.b
    let i := o.imm.signExtend 64
    let n := o.imm.toNat % 64
    let w := o.imm.toNat / 256 % 64 + 1
    let r : Word → Res := fun v => .next (s.setG o.d v).advance
    exec (.nop o) s = .next s.advance
      ∧ exec (.addi o) s = r (a + i)
      ∧ exec (.andi o) s = r (a &&& i)
      ∧ exec (.ori o) s = r (a ||| i)
      ∧ exec (.xori o) s = r (a ^^^ i)
      ∧ exec (.slti o) s = r (if a.toInt < i.toInt then 1 else 0)
      ∧ exec (.shli o) s = r (BitVec.ofNat 64 (a.toNat * 2 ^ n))
      ∧ exec (.shri o) s = r (BitVec.ofNat 64 (a.toNat / 2 ^ n))
      ∧ exec (.srai o) s = r (BitVec.ofInt 64 (a.toInt / 2 ^ n))
      ∧ exec (.sel o) s = r (if s.getG (o.imm.setWidth 5) ≠ 0 then a else b)
      ∧ exec (.movi o) s = r i
      ∧ exec (.lih o) s = r (BitVec.ofNat 64 (o.imm.toNat * 2 ^ 32 + a.toNat % 2 ^ 32))
      ∧ exec (.extu o) s = r (BitVec.ofNat 64 (a.toNat / 2 ^ n % 2 ^ w))
      ∧ exec (.exts o) s = r ((BitVec.ofNat w (a.toNat / 2 ^ n)).signExtend 64)
      ∧ ∃ v, exec (.ins o) s = r v ∧ ∀ k, k < 64 →
          v.getLsbD k = if n ≤ k ∧ k < n + w then b.getLsbD (k - n) else a.getLsbD k
  )
  ∧
  (
  ∀ (s : State) (o : SFmt), GuardOn s o.gn o.gs →
    let a := s.getG o.a
    let r : Word → Res := fun v => .next (s.setG o.d v).advance
    (∃ k, exec (.clz o) s = r (BitVec.ofNat 64 k) ∧ k ≤ 64 ∧ (k < 64 → a.getLsbD (63 - k) = true)
        ∧ ∀ j, 64 - k ≤ j → a.getLsbD j = false)
      ∧ (∃ k, exec (.ctz o) s = r (BitVec.ofNat 64 k) ∧ k ≤ 64 ∧ (k < 64 → a.getLsbD k = true)
        ∧ ∀ j, j < k → a.getLsbD j = false)
      ∧ exec (.popc o) s = r (BitVec.ofNat 64 ((List.range 64).filter fun i => a.getLsbD i).length)
      ∧ (∃ v, exec (.brev o) s = r v ∧ ∀ i, i < 64 → v.getLsbD i = a.getLsbD (63 - i))
      ∧ ∃ v, exec (.bswap o) s = r v ∧ ∀ i, i < 8 → v.extractLsb' (8 * i) 8 = a.extractLsb' (8 * (7 - i)) 8
  )

/-- R312: no scalar integer instruction touches memory, sets a flag or changes more than g[d] and the program counter. -/
def Obligations.ScalarFrame : Prop :=
  ∀ (s t : State) (o : SFmt) (i : Instr), AgentOk s.cur → (s.onCore = true → o.gs = 0) →
    i ∈ [Instr.nop o, .add o, .sub o, .addi o, .mul o, .mulh o, .mulhu o, .div o, .divu o, .rem o, .remu o, .and o, .or o, .xor o,
      .andn o, .andi o, .ori o, .xori o, .shl o, .shr o, .sra o, .shli o, .shri o, .srai o, .rotl o, .clz o, .ctz o, .popc o,
      .min o, .max o, .minu o, .maxu o, .slt o, .sltu o, .seq o, .slti o, .sel o, .movi o, .lih o, .extu o, .exts o, .ins o,
      .brev o, .bswap o] →
    exec i s = .next t → RegFrame s t [o.d] ∧ t.pc = s.pc + 8

/-- R321, R324: the branches and LOOP go to the target of R297 or to the next instruction. R323: JAL and JALR write the return
address and go to the target; a misaligned target of JALR traps ALIGN with no register written. -/
def Obligations.BranchAndCallResults : Prop :=
  (
  ∀ (s : State) (o : BFmt), GuardOn s o.gn o.gs →
    let a := s.getG o.a
    let b := s.getG o.b
    let dest := s.pc + BitVec.ofInt 64 (8 * o.off.toInt)
    let r : Bool → Res := fun c => .next (if c then s.setPc dest else s.advance)
    exec (.br o) s = r true
      ∧ exec (.beq o) s = r (a = b)
      ∧ exec (.bne o) s = r (a ≠ b)
      ∧ exec (.blt o) s = r (a.toInt < b.toInt)
      ∧ exec (.bge o) s = r (b.toInt ≤ a.toInt)
      ∧ exec (.bltu o) s = r (a.toNat < b.toNat)
      ∧ exec (.bgeu o) s = r (b.toNat ≤ a.toNat)
      ∧ exec (.loop o) s = (if 1 < a.toNat then .next ((s.setG o.a (a - 1)).setPc dest) else .next (s.setG o.a 0).advance)
  )
  ∧
  (
  ∀ (s : State) (o : BFmt), GuardOn s o.gn o.gs →
    let dest := s.getG o.b + BitVec.ofInt 64 (8 * o.off.toInt)
    exec (.jal o) s = .next ((s.setG o.a (s.pc + 8)).setPc (s.pc + BitVec.ofInt 64 (8 * o.off.toInt)))
      ∧ (dest.toNat % 8 = 0 → exec (.jalr o) s = .next ((s.setG o.a (s.pc + 8)).setPc dest))
      ∧ (dest.toNat % 8 ≠ 0 → exec (.jalr o) s = .next (s.trap 3 2 dest))
  )

/-- R322: BPT branches on a tile predicate, BMK on a mask once no link in flight writes it. R325: PSET, PSET.r and PSET.nz set
TILE.PRED under aux8, leave p-bits outside it, and move on. -/
def Obligations.PredicateResults : Prop :=
  (
  ∀ (s : State) (o : BFmt), CtxOn s o.gn o.gs →
    let dest := s.pc + BitVec.ofInt 64 (8 * o.off.toInt)
    let r : Bool → Res := fun c => .next (if c then s.setPc dest else s.advance)
    let n := o.aux.toNat % 8
    let m := s.me.mask n
    exec (.bpt o) s = r (s.myTile.pred.getLsbD n ^^ o.aux.getLsbD 3)
      ∧ (s.me.maskLink n = none → exec (.bmk o) s =
          match o.aux.toNat / 8 % 4 with
          | 0 => r (m != 0)
          | 1 => r (m == 0)
          | 2 => r (m == BitVec.allOnes 64)
          | _ => r (m != BitVec.allOnes 64))
      ∧ ∀ k, s.me.maskLink n = some k → exec (.bmk o) s = .next (s.waits (.links (s.me.links.length - k)))
  )
  ∧
  (
  ∀ (s : State) (o : BFmt), CtxOn s o.gn o.gs →
    let w := fun (t : State) (v : BitVec 8) => t.myTile.pred = (s.myTile.pred &&& ~~~o.aux) ||| (v &&& o.aux) ∧ t.pc = s.pc + 8
      ∧ t.mem = s.mem ∧ ∀ n, t.getG n = s.getG n
    (∃ t, exec (.pset o) s = .next t ∧ w t (o.off.extractLsb' 8 8))
      ∧ (∃ t, exec (.psetR o) s = .next t ∧ w t ((s.getG o.a).extractLsb' 0 8))
      ∧ ∃ t, exec (.psetNz o) s = .next t ∧ w t (if s.getG o.a = 0 then 0 else 0xFF)
  )

/-- R327, R328, R329: RET ends the invocation and frees its context; YIELD parks at the next instruction; WAITP moves on where
the predicates have the value, and parks where not. -/
def Obligations.InvocationEndAndWaits : Prop :=
  ∀ (s : State) (o : BFmt), CtxOn s o.gn o.gs → AgentOk s.cur →
    (s.me.links = [] → exec (.ret o) s = .next (s.advance.endInvocation s.die s.tix s.cix))
      ∧ (s.me.links = [] → (∀ w, ((s.box s.die).walker w).st = .idle) → ∀ i, s.regionAt s.die s.tix = some i →
          ∃ t, exec (.ret o) s = .next t ∧ (t.ctx s.die s.tix s.cix).live = false ∧ t.mem = s.mem
            ∧ (t.slot s.die i).count = if bit (vget s.myTile.trg (2 * s.me.cls) 0) 48
                then min ((s.slot s.die i).count + 1) 0xFFFFFFFF else (s.slot s.die i).count)
      ∧ (s.me.links ≠ [] → exec (.ret o) s = .next (s.waits .settle))
      ∧ (∃ t, exec (.yield o) s = .next t ∧ Steps s t
          ∧ t.hart.wait = .yield (s.sys.cycles + 10 * o.aux.toNat) (s.readyOthers s.die s.tix s.cix))
      ∧ (s.myTile.pred &&& o.aux = o.off.extractLsb' 8 8 &&& o.aux → exec (.waitp o) s = .next s.advance)
      ∧ (s.myTile.pred &&& o.aux ≠ o.off.extractLsb' 8 8 &&& o.aux →
          exec (.waitp o) s = .next (s.waits (.pred o.aux (o.off.extractLsb' 8 8))))

/-- R321-R324: a branch, call or LOOP changes the program counter and its link or count register, and nothing else. -/
def Obligations.BranchFrame : Prop :=
  ∀ (s t : State) (o : BFmt) (i : Instr), AgentOk s.cur → (s.onCore = true → o.gs = 0) →
    (i ∈ [Instr.br o, .beq o, .bne o, .blt o, .bge o, .bltu o, .bgeu o] → exec i s = .next t → RegFrame s t [])
      ∧ (i ∈ [Instr.jal o, .loop o] → exec i s = .next t → RegFrame s t [o.a])
      ∧ (s.onCore = false → i ∈ [Instr.bpt o, .bmk o] → exec i s = .next t → RegFrame s t [])

/-! Guards, memory and atomics. -/

/-- R295, R199: an instruction whose guard is false only advances the program counter: of formats S, B and C under a
predicate, of formats V and M, and of APE and port instructions, where no lane is active. PRIV of an application-level address
in control space, PRIV of a supervisor-level instruction at application level, the checks of a CSR and ILLEGAL of an ERET
where no trap is active are taken whatever the guard holds. -/
def Obligations.FalseGuardPassesOver : Prop :=
  ∀ (s : State) (o : SFmt) (p : BFmt) (c : CFmt) (v : VFmt) (m : MFmt),
    let off := fun (gn : Bool) (gs : BitVec 3) => s.onCore = false ∧ s.me.maskLink gs.toNat = none ∧ s.activeLanes gn gs = 0
    let ctl := fun (x : Word) => x.toNat / 2 ^ 60 = 4 ∧ s.isSup = false
    let mems := [Instr.ldb o, .ldbu o, .ldh o, .ldhu o, .ldw o, .ldwu o, .ldd o, .stb o, .sth o, .stw o, .std o, .ldq o, .stq o, .cflush o,
      .aadd o, .aand o, .aor o, .axor o, .amin o, .amax o, .aminu o, .amaxu o, .aswap o, .acas o, .ldaq o, .strel o]
    let sup := [Instr.tlbiAll c, .tlbiAsid c, .tlbiVa c, .tlbiVall c, .cfgld c, .trgld c, .halt c, .ctxsv c, .ctxld c, .cinv o]
    let n := c.f 11 0
    let csrs := [Instr.csrw c, .csrs c, .csrc c]
    let shards := [Instr.shlk c, .shrefInc c, .shrefDec c, .shpin c, .kvcmt c, .kvrej c, .trpub c, .launch c]
    (GuardOff s o.gn o.gs → ∀ i ∈ [Instr.nop o, .add o, .sub o, .addi o, .mul o, .mulh o,
      .mulhu o, .div o, .divu o, .rem o, .remu o, .and o, .or o, .xor o, .andn o, .andi o, .ori o, .xori o, .shl o, .shr o,
      .sra o, .shli o, .shri o, .srai o, .rotl o, .clz o, .ctz o, .popc o, .min o, .max o, .minu o, .maxu o, .slt o, .sltu o,
      .seq o, .slti o, .sel o, .movi o, .lih o, .extu o, .exts o, .ins o, .brev o, .bswap o, .pref o, .fence o, .sbar o, .sgpost o,
      .sgwait o], exec i s = .next s.advance)
      ∧ (GuardOff s o.gn o.gs → ¬ctl (s.ea o) → ∀ i ∈ mems, exec i s = .next s.advance)
      ∧ (ctl (s.ea o) → ∀ i ∈ mems, exec i s = .next (s.trap 2 0 s.ir))
      ∧ (GuardOff s p.gn p.gs → ∀ i ∈ [Instr.br p, .beq p, .bne p, .blt p, .bge p, .bltu p, .bgeu p, .bpt p, .bmk p, .jal p,
      .jalr p, .loop p, .pset p, .psetR p, .psetNz p, .ret p, .yield p, .waitp p], exec i s = .next s.advance)
      ∧ (GuardOff s c.gn c.gs → ∀ i ∈ [Instr.cecpy c, .ce2d c, .cefill c, .cepg c, .cestat c, .ceabt c, .knew c, .knewC c, .ksend c, .kfwd c, .khdr c,
        .kset c, .kdrop c, .kmrg c, .ksplit c, .sctch c, .scld c, .scev c, .scqry c, .spacc c, .spres c, .bar c, .trap c, .bkpt c,
        .time c, .waitt c], exec i s = .next s.advance)
      ∧ (GuardOff s c.gn c.gs → s.hart.cause.active = true → exec (.eret c) s = .next s.advance)
      ∧ (s.hart.cause.active = false → exec (.eret c) s = .next (s.trap 1 0 s.ir))
      ∧ (GuardOff s c.gn c.gs → (¬ctl (s.getG c.a) → ∀ i ∈ shards, exec i s = .next s.advance)
        ∧ (¬ctl (s.getG c.a) → ¬ctl (s.getG c.c) → exec (.kvapp c) s = .next s.advance)
        ∧ (¬ctl (s.getG c.a) → ¬ctl (s.getG c.b) → ¬ctl (s.getG c.c) → exec (.shcpy c) s = .next s.advance))
      ∧ (s.onCore = false → (ctl (s.getG c.a) → ∀ i ∈ Instr.kvapp c :: Instr.shcpy c :: shards, exec i s = .next (s.trap 2 0 s.ir))
        ∧ (ctl (s.getG c.c) → ∀ i ∈ [Instr.kvapp c, .shcpy c], exec i s = .next (s.trap 2 0 s.ir))
        ∧ (ctl (s.getG c.b) → exec (.shcpy c) s = .next (s.trap 2 0 s.ir)))
      ∧ (s.isSup = true → GuardOff s c.gn c.gs → GuardOff s o.gn o.gs → ∀ i ∈ sup, exec i s = .next s.advance)
      ∧ (s.onCore = false → s.isSup = false → ∀ i ∈ sup, exec i s = .next (s.trap 2 0 s.ir))
      ∧ (GuardOff s c.gn c.gs → knownCsr n = true →
          ((s.isSup = true ∨ n < 0x400) → ∀ i ∈ Instr.csrr c :: csrs, exec i s = .next s.advance)
            ∧ (tileCsr n = true → n ≠ 0x401 → exec (.csrr c) s = .next s.advance))
      ∧ (s.onCore = false → (knownCsr n = false → ∀ i ∈ Instr.csrr c :: csrs, exec i s = .next (s.trap 1 0 s.ir))
        ∧ (knownCsr n = true → s.isSup = false → 0x400 ≤ n → (∀ i ∈ csrs, exec i s = .next (s.trap 2 0 (BitVec.ofNat 64 n)))
          ∧ (tileCsr n = false ∨ n = 0x401 → exec (.csrr c) s = .next (s.trap 2 0 (BitVec.ofNat 64 n)))))
      ∧ (off c.gn c.gs → ¬ctl (s.getG c.a) → exec (.apcfgM c) s = .next s.advance)
      ∧ (s.onCore = false → ctl (s.getG c.a) → exec (.apcfgM c) s = .next (s.trap 2 0 s.ir))
      ∧ (off v.gn v.gs → ∀ i ∈ [Instr.vadd v, .vsub v, .vmul v, .vfma v, .vfms v, .vnfma v, .vabs v, .vneg v, .vmax v, .vmin v, .vdiv v, .vrcp v,
        .vsqrt v, .vrsq v, .vexp2 v, .vlog2 v, .vscale v, .vcmp v, .vcmpt v, .vcut v, .vsettle v, .vcvt v, .vqnt v, .vdq v,
        .vsel v, .viadd v, .visub v, .vimul v, .vimin v, .vimax v, .vand v, .vor v, .vxor v, .vshl v, .vshr v, .vsra v,
        .vmov v, .vbcast v, .vext v, .vins v, .vperm v, .vrot v, .viota v, .vrsum v, .vrmax v, .vrarg v, .vtopk v, .vscan v,
        .mand v, .mor v, .mxor v, .mnot v, .mpop v, .mfirst v, .mset v, .vld v, .vst v, .vlds v, .vsts v, .vgth v, .vsct v,
        .vrng v], exec i s = .next s.advance)
      ∧ (off m.gn m.gs → ∀ i ∈ [Instr.mzero m, .mma m, .mmas m, .mrd m, .mrdq m, .mlda m, .mscl m, .mwait m], exec i s = .next s.advance)
      ∧ (off c.gn c.gs → ∀ i ∈ [Instr.apcfgR c, .apcfgPre c, .apdim c, .apstart c, .apstop c, .appos c, .apseek c, .qbind c, .qbindK c,
        .qbindU c, .qstat c], exec i s = .next s.advance)

/-- R335, R336, R343, R140: a load from memory gives g[d] the little-endian value of its bytes, extended as its row says.
Where the context may still miss a store of its own to those bytes, made through another form of address, the load gives the
value with the store or the one without it. LDAQ orders what the context has observed before what follows (R146). That the
access is performed in its step is the model's choice (entry 21). -/
def Obligations.LoadResults : Prop :=
  ∀ (s : State) (o : SFmt) (p : Phys), GuardOn s o.gn o.gs →
    let ea := (s.ea o).toNat
    let u := s.touch s.req ea .read p
    let r := fun (i : Instr) (n : Nat) (put : State → Nat → State) => ∃ v z, exec i s = .next (put z v).advance
      ∧ (v = u.rdFor u.req p n ∨ (u.mayMiss ea p n = true ∧ v = u.missed ea p n))
      ∧ (u.mayMiss ea p n = false → z = u) ∧ z.mem = u.mem ∧ z.pc = u.pc ∧ ∀ k, z.getG k = u.getG k
    let d := fun (f : Nat → Word) (z : State) (v : Nat) => z.setG o.d (f v)
    (u.stuck = [] → u.sys.power.stopped = false → ∀ n, u.rdFor u.req p n = leVal (u.mem.bytes (u.home p) n))
      ∧ (u.poisonFor u.req p = false →
        (ea / 2 ^ 60 ≠ 4 →
          (InMem s ea 1 1 .read p → r (.ldb o) 1 (d fun v => (BitVec.ofNat 8 v).signExtend 64) ∧ r (.ldbu o) 1 (d (BitVec.ofNat 64)))
            ∧ (InMem s ea 2 2 .read p → r (.ldh o) 2 (d fun v => (BitVec.ofNat 16 v).signExtend 64) ∧ r (.ldhu o) 2 (d (BitVec.ofNat 64)))
            ∧ (InMem s ea 4 4 .read p → r (.ldw o) 4 (d fun v => (BitVec.ofNat 32 v).signExtend 64) ∧ r (.ldwu o) 4 (d (BitVec.ofNat 64)))
            ∧ (InMem s ea 16 16 .read p →
              r (.ldq o) 16 fun z v => (z.setG o.d (BitVec.ofNat 64 v)).setG (o.d + 1) (BitVec.ofNat 64 (v / 2 ^ 64))))
          ∧ (InMem s ea 8 8 .read p → r (.ldd o) 8 (d (BitVec.ofNat 64))
            ∧ r (.ldaq o) 8 fun z v => (z.orderLate (o.scope = 3)).setG o.d (BitVec.ofNat 64 v)))

/-- R335, R336, R343, R140: a store to memory writes the low bytes of g[d], lowest first, at the place of its address, and no
other byte: in scratch, depots and uncached pages as memory holds it, in cached pages as a cached read sees it (R118, R137).
No general register changes. A byte that the store may pass, of an own earlier store through another form of address, may keep
that store's value; a release passes none. That the access is performed in its step is the model's choice (entry 21). -/
def Obligations.StoreResults : Prop :=
  ∀ (s : State) (o : SFmt) (p : Phys), GuardOn s o.gn o.gs → AgentOk s.cur →
    let ea := (s.ea o).toNat
    let u := s.touch s.req ea .write p
    let at_ := fun (t : State) (k : Nat) => t.rd { key := k, mt := p.mt } 1
    let done := fun (rel : Bool) (i : Instr) (n : Nat) (v : Nat) => ∃ t, exec i s = .next t ∧ t.pc = s.pc + 8 ∧ (∀ k, t.getG k = s.getG k)
      ∧ (let stays := fun k => ¬(p.key ≤ k ∧ k < p.key + n)
            ∨ (rel = false ∧ u.mayPass ea p n = true ∧ ∃ e ∈ u.me.late, e.key = k ∧ u.isPassed ea p n e = true)
        ((p.mt = 1 ∨ p.mt = 3) → ∀ k,
            (¬stays k → t.mem.byte k = BitVec.ofNat 8 (v / 256 ^ (k - p.key)))
              ∧ (stays k → t.mem.byte k = s.mem.byte k
                  ∨ (p.key ≤ k ∧ k < p.key + n ∧ t.mem.byte k = BitVec.ofNat 8 (v / 256 ^ (k - p.key)))))
          ∧ ((p.mt = 0 ∨ p.mt = 2) → p.key < 2 ^ 40 → ∀ k, k < 2 ^ 40 →
            (¬stays k → at_ t k = v / 256 ^ (k - p.key) % 256)
              ∧ (stays k → at_ t k = at_ u k ∨ (p.key ≤ k ∧ k < p.key + n ∧ at_ t k = v / 256 ^ (k - p.key) % 256))))
    (ea / 2 ^ 60 ≠ 4 → (InMem s ea 1 1 .write p → done false (.stb o) 1 (s.getG o.d).toNat)
        ∧ (InMem s ea 2 2 .write p → done false (.sth o) 2 (s.getG o.d).toNat)
        ∧ (InMem s ea 4 4 .write p → done false (.stw o) 4 (s.getG o.d).toNat)
        ∧ (InMem s ea 16 16 .write p → done false (.stq o) 16 ((s.getG o.d).toNat + 2 ^ 64 * (s.getG (o.d + 1)).toNat)))
      ∧ (InMem s ea 8 8 .write p → done false (.std o) 8 (s.getG o.d).toNat ∧ done true (.strel o) 8 (s.getG o.d).toNat)

/-- R340, R341, R140, R146: an atomic on memory gives g[d] the old value and leaves Op(old, v) in its 8 bytes; ACAS writes
only where the old value is the expected one. An acquire orders what the context has observed before what follows. An atomic
that is no release and may pass the context's own earlier stores through another form of address is performed after them or,
whole, before them. That the access is performed in its step is the model's choice (entry 21). -/
def Obligations.AtomicResults : Prop :=
  ∀ (s : State) (o : SFmt) (p : Phys), GuardOn s o.gn o.gs → InMem s (s.ea o).toNat 8 8 .rmw p →
    let ea := (s.ea o).toNat
    let u := s.touch s.req ea .rmw p
    let w := u.freeVal.1
    let v := s.getG o.d
    let new := s.getG (o.d + 1)
    let pass := releases o = false ∧ u.atomicPasses ea p = true
    let fin := fun (t : State) (old : Word) =>
      (Host.Outcome.next ((((if o.ord.getLsbD 0 then t.orderLate (o.scope = 3) else t).setG o.d old).advance)) : Res)
    let old := fun (t : State) => BitVec.ofNat 64 (t.rdFor t.req p 8)
    let first := fun (t : State) => BitVec.ofNat 64 (t.missed ea p 8)
    let after := fun (t : State) (x : Word) => fin ((t.noteStore ea p 8).wrFor t.req p (leOf 8 x.toNat)) (old t)
    let before := fun (t : State) (x : Word) => fin (t.putBefore ea p (leOf 8 x.toNat)) (first t)
    let r := fun (i : Instr) (f : Word → Word) => (¬pass → exec i s = after u (f (old u)))
      ∧ (pass → exec i s = after w (f (old w)) ∨ exec i s = before w (f (first w)))
    u.poisonFor u.req p = false →
    r (.aadd o) (fun x => x + v)
      ∧ r (.aand o) (fun x => x &&& v)
      ∧ r (.aor o) (fun x => x ||| v)
      ∧ r (.axor o) (fun x => x ^^^ v)
      ∧ r (.amin o) (fun x => if x.toInt ≤ v.toInt then x else v)
      ∧ r (.amax o) (fun x => if x.toInt ≤ v.toInt then v else x)
      ∧ r (.aminu o) (fun x => if x.toNat ≤ v.toNat then x else v)
      ∧ r (.amaxu o) (fun x => if x.toNat ≤ v.toNat then v else x)
      ∧ r (.aswap o) (fun _ => v)
      ∧ (¬pass → exec (.acas o) s = if old u = v then after u new else fin (u.dropLate p 8) (old u))
      ∧ (pass → exec (.acas o) s = (if old w = v then after w new else fin (w.dropLate p 8) (old w))
          ∨ exec (.acas o) s = if first w = v then before w new else fin w (first w))

/-- R333, R335, R336, R343: the checks of an access in their order, for every load, store and atomic: PRIV on control space at
application level, ALIGN, ACCESS, then withholding or, on a core, PAGE; on path 0x4 only accesses of 8 bytes pass. R334, R288:
a load or atomic that meets a poisoned granule traps POISON with the lowest poisoned byte address, here the address of the
access, which lies within one granule. CTX.CAUSE.where is 0 in all of these, the model's reading for an address that several
operands give (entry 32). -/
def Obligations.AccessChecksAndPoison : Prop :=
  (
  ∀ (s : State) (o : SFmt) (i : Instr) (n : Nat) (a : Acc), GuardOn s o.gn o.gs →
    (i, n, a) ∈ [(Instr.ldb o, 1, Acc.read), (.ldbu o, 1, .read), (.ldh o, 2, .read), (.ldhu o, 2, .read), (.ldw o, 4, .read),
      (.ldwu o, 4, .read), (.ldd o, 8, .read), (.ldaq o, 8, .read), (.ldq o, 16, .read), (.stb o, 1, .write), (.sth o, 2, .write),
      (.stw o, 4, .write), (.std o, 8, .write), (.strel o, 8, .write), (.stq o, 16, .write), (.aadd o, 8, .rmw), (.aand o, 8, .rmw),
      (.aor o, 8, .rmw), (.axor o, 8, .rmw), (.amin o, 8, .rmw), (.amax o, 8, .rmw), (.aminu o, 8, .rmw), (.amaxu o, 8, .rmw),
      (.aswap o, 8, .rmw), (.acas o, 8, .rmw)] →
    let ea := (s.ea o).toNat
    (ea / 2 ^ 60 = 4 → s.isSup = false → exec i s = .next (s.trap 2 0 s.ir))
      ∧ ((ea / 2 ^ 60 = 4 → s.isSup = true) → ea % n ≠ 0 → exec i s = .next (s.trap 3 0 (s.ea o)))
      ∧ (Aligned s ea n → ∀ e, s.check s.req ea n a = .refuse e → exec i s = .next (s.trap 4 0 (s.ea o)))
      ∧ (Aligned s ea n → ∀ lv c, s.check s.req ea n a = .fault lv c → s.onCore = true → exec i s = .next (s.trap 5 0 (s.ea o)))
      ∧ (Aligned s ea n → ∀ lv c, s.check s.req ea n a = .fault lv c → s.onCore = false →
          exec i s = .next ((s.withhold s.myUnit ea a lv c none).waits .withhold))
      ∧ (Aligned s ea n → ∀ d j, s.check s.req ea n a = .hold d j → exec i s = .next (s.waits (.arming d j)))
      ∧ (Aligned s ea n → ∀ m va, s.check s.req ea n a = .remote m va →
          (∀ e ∈ s.net.asked, e.u ≠ s.myUnit) →
          ∃ t id, exec i s = .next t ∧ t.hart.wait = .remote id ∧ t.pc = s.pc
            ∧ ∃ e ∈ t.net.asked, e.u = s.myUnit ∧ e.tag = s.myTag 0 ∧ e.m = m ∧ e.va = va ∧ e.id = id)
      ∧ (Aligned s ea n → ∀ p, s.check s.req ea n a = .ok p → ea / 2 ^ 60 = 4 → n ≠ 8 → exec i s = .next (s.trap 4 0 (s.ea o)))
  )
  ∧
  (
  ∀ (s : State) (o : SFmt) (p : Phys), GuardOn s o.gn o.gs →
    let ea := (s.ea o).toNat
    (∀ i n, (i, n) ∈ [(Instr.ldb o, 1), (.ldbu o, 1), (.ldh o, 2), (.ldhu o, 2), (.ldw o, 4), (.ldwu o, 4), (.ldd o, 8), (.ldaq o, 8),
        (.ldq o, 16)] → InMem s ea n n .read p → (ea / 2 ^ 60 = 4 → n = 8) → let u := s.touch s.req ea .read p
      u.poisonFor u.req p = true → exec i s = .next (u.trap 6 0 (s.ea o)))
      ∧ (InMem s ea 8 8 .rmw p → let u := s.touch s.req ea .rmw p
      u.poisonFor u.req p = true → ∀ i ∈ [Instr.aadd o, .aand o, .aor o, .axor o, .amin o, .amax o, .aminu o, .amaxu o,
        .aswap o, .acas o], exec i s = .next (u.trap 6 0 (s.ea o)))
  )

/-- R335, R111, R225: LDD and STD of a register of control space act as CSRR and CSRW of it; the reserved bytes of a depot
read 0 and ignore writes. -/
def Obligations.ControlSpaceResults : Prop :=
  ∀ (s : State) (o : SFmt), GuardOn s o.gn o.gs → Aligned s (s.ea o).toNat 8 →
    let ea := (s.ea o).toNat
    (∀ c d l, s.check s.req ea 8 .read = .reg c d l →
        exec (.ldd o) s = .next ((s.setG o.d (if c < 0x800 then s.readTile d l c else s.readReg d l c)).advance))
      ∧ (∀ c d l, s.check s.req ea 8 .write = .reg c d l →
        exec (.std o) s = .next (let v := s.getG o.d
          if c < 0x800 then s.advance.writeTile d l c v else s.advance.writeReg d l c v v))
      ∧ (s.check s.req ea 8 .read = .void → exec (.ldd o) s = .next ((s.setG o.d 0).advance))
      ∧ (s.check s.req ea 8 .write = .void → exec (.std o) s = .next s.advance)

/-- R337-R339, R344-R347, R148, R158: PREF moves on; FENCE orders the context's own accesses as its kind says, after waiting,
of kind str, for the pushes of its links; CFLUSH drops the home slice's copy after writing it back, CINV without; SBAR makes
the named read streams forget what they have read and not delivered, and the page entry in use; SGPOST adds 1 to a signal
count; SGWAIT moves on where the count has reached its target modulo 2^32, an acquire, and waits where not. What FENCE and
PREF leave in the caches is the model's choice (entries 8, 21). -/
def Obligations.CacheOrderSignalResults : Prop :=
  ∀ (s : State) (o : SFmt) (p : Phys),
    let ea := (s.ea o).toNat
    let k := o.imm.toNat % 8
    let n : Lane := BitVec.ofNat 32 ((s.getG o.a).toNat + o.imm.toNat / 256)
    let c := vget s.myTile.sigs k 0
    let kind := o.imm.toNat % 4
    let pushes := kind = 3 ∧ s.onCore = false ∧ s.me.pushesPort = true
    (GuardOn s o.gn o.gs → (¬pushes →
          exec (.fence o) s = .next (if kind = 2 then s.orderStores (o.scope = 3) else s.orderLate (o.scope = 3)).advance)
        ∧ (pushes → exec (.fence o) s = .next (s.waits .streams)))
      ∧ (GuardOn s o.gn o.gs → ∃ t, exec (.pref o) s = .next t ∧ t.pc = s.pc + 8 ∧ ∀ j, t.getG j = s.getG j)
      ∧ (GuardOn s o.gn o.gs → InMem s ea 1 1 .line p →
          let u := s.touch s.req ea .line p
          exec (.cflush o) s = .next (if p.mt = 0 ∨ p.mt = 2 then u.advance.drop p.key true else u.advance))
      ∧ (SupOn s o.gn o.gs → InMem s ea 1 1 .write p →
          let u := s.touch s.req ea .write p
          exec (.cinv o) s = .next (if p.mt = 0 ∨ p.mt = 2 then u.advance.drop p.key false else u.advance))
      ∧ (CtxOn s o.gn o.gs → ∃ t, exec (.sbar o) s = .next t ∧ Steps s t
          ∧ ∀ e, e < 16 → o.imm.getLsbD e = true → bit (vget (s.myTile.ape e).cfg 1 0) 4 = false →
            (t.myTile.ape e).ahead = [] ∧ (t.myTile.ape e).page = none)
      ∧ (CtxOn s o.gn o.gs → ∃ t, exec (.sgpost o) s = .next t ∧ t.pc = s.pc + 8 ∧ vget t.myTile.sigs k 0 = c + 1
          ∧ ∀ j, j ≠ k → vget t.myTile.sigs j 0 = vget s.myTile.sigs j 0)
      ∧ (CtxOn s o.gn o.gs → (c.toNat + 2 ^ 32 - n.toNat) % 2 ^ 32 < 2 ^ 31 → exec (.sgwait o) s = .next (s.orderLate false).advance)
      ∧ (CtxOn s o.gn o.gs → 2 ^ 31 ≤ (c.toNat + 2 ^ 32 - n.toNat) % 2 ^ 32 → exec (.sgwait o) s = .next (s.waits (.signal k n)))

/-! Vectors. -/

/-- R242, R353, R354: a floating instruction of the chains begins a link whose lanes hold the rule's result of the settled
operands, rounded to the budget of R258 and, under .x, with its residual. That a link's values are fixed at its issue is the
model's reading (entry 10). -/
def Obligations.ChainArithmeticResults : Prop :=
  ∀ (s : State) (o : VFmt) (a : Word), LanesOn s o.gn o.gs a → s.me.links.length < 16 → RegOps o [o.vb, o.vc, o.vd] →
    let x := fun j => laneVal (vaOf s o j)
    let y := fun j => laneVal (laneOf s o.vb j)
    let z := fun j => laneVal (laneOf s o.vc j)
    let m := o.rnd.toNat
    let nbv := s.hart.nbv
    let one := fun (r : Lane × Fl) => ({ v := r.1, e := 0, fl := r.2 } : LaneRes)
    let r := fun (i : Instr) (f : Nat → LaneRes) => ∃ t, exec i s = .next t ∧ MovedOn s t ∧ Linked s t o.vd.toNat a f
    r (.vadd o) (fun j => roundX o (addE (x j) (y j) m))
      ∧ r (.vsub o) (fun j => roundX o (addE (x j) (y j).flip m))
      ∧ r (.vmul o) (fun j => roundX o (mulE (x j) (y j)))
      ∧ r (.vfma o) (fun j => roundX o (fmaE (x j) (y j) (z j) false m))
      ∧ r (.vfms o) (fun j => roundX o (fmaE (x j) (y j) (z j).flip false m))
      ∧ r (.vnfma o) (fun j => roundX o (fmaE (x j) (y j) (z j) true m))
      ∧ r (.vabs o) (fun j => one (vaOf s o j &&& 0x7FFFFFFF, 0))
      ∧ r (.vneg o) (fun j => one (vaOf s o j ^^^ 0x80000000, 0))
      ∧ r (.vmax o) (fun j => roundX o (maxE (x j) (y j)))
      ∧ r (.vmin o) (fun j => roundX o (minE (x j) (y j)))
      ∧ r (.vdiv o) (fun j => roundX o (divE (x j) (y j)))
      ∧ r (.vrcp o) (fun j => one (refLane (rcpRef (x j) nbv) (2 * o.prec.toNat) m))
      ∧ r (.vsqrt o) (fun j => roundX o (sqrtE (x j)))
      ∧ r (.vrsq o) (fun j => one (refLane (rsqRef (x j) nbv) (2 * o.prec.toNat) m))
      ∧ r (.vexp2 o) (fun j => one (refLane (exp2Ref (x j) nbv) (2 * o.prec.toNat) m))
      ∧ r (.vlog2 o) (fun j => one (refLane (log2Ref (x j) nbv) (2 * o.prec.toNat) m))
      ∧ r (.vscale o) (fun j => roundX o (scaleE (x j) (laneOf s o.vb j).toInt))

/-- R261, R263, R358: at the depth limit of 16 links a chain instruction waits; VSETTLE waits until no link is in flight, and
then moves on; where its guard is false it moves on whatever is in flight. -/
def Obligations.ChainDepthAndSettle : Prop :=
  (∀ (s : State) (o : VFmt), s.onCore = false → s.me.maskLink o.gs.toNat = none → s.activeLanes o.gn o.gs = 0 →
      exec (.vsettle o) s = .next s.advance)
    ∧ ∀ (s : State) (o : VFmt) (a : Word), LanesOn s o.gn o.gs a →
    (16 ≤ s.me.links.length → ∀ i ∈ [Instr.vadd o, .vsub o, .vmul o, .vfma o, .vfms o, .vnfma o, .vabs o, .vneg o, .vmax o, .vmin o,
        .vdiv o, .vrcp o, .vsqrt o, .vrsq o, .vexp2 o, .vlog2 o, .vscale o, .vcmp o, .vcmpt o],
        ∃ t, exec i s = .next t ∧ t.pc = s.pc ∧ t.hart.wait = .links 16
          ∧ t.me.links = s.me.links ∧ t.mem = s.mem)
      ∧ (s.me.links = [] → exec (.vsettle o) s = .next s.advance)
      ∧ (s.me.links ≠ [] → exec (.vsettle o) s = .next (s.waits (.links 1)))

/-- R355-R357: VCMP and VCMPT begin a link that writes mask vd, a lane 1 where the comparison holds; VCMPT cuts the lanes that
fail it in vb, where neither operand is a NaN, so that no older link writes them any more; VCUT cuts the lanes of a mask among
the active ones. That a link's values are fixed at its issue is the model's reading (entry 10). -/
def Obligations.CompareAndCutResults : Prop :=
  ∀ (s : State) (o : VFmt) (a : Word), LanesOn s o.gn o.gs a →
    let bitOf := fun (r : Bool × Fl) => ({ v := if r.1 then 1 else 0, e := 0, fl := r.2 } : LaneRes)
    let cc := o.imm.toNat % 8
    let th := fun j => if o.aux.getLsbD 1 then (s.getG o.vc).setWidth 32 else laneOf s o.vc j
    let kept := fun j => cmpLane 0 cc (vaOf s o j) (th j)
    let lost := fun j => a.getLsbD j && !(kept j).1 && laneVal (vaOf s o j) != .nan && laneVal (th j) != .nan
    (s.me.links.length < 16 → RegOps o [o.vb] → ∃ t, exec (.vcmp o) s = .next t ∧ MovedOn s t
        ∧ Linked s t o.vd.toNat a fun j => bitOf (cmpLane o.typ.toNat cc (vaOf s o j) (laneOf s o.vb j)))
      ∧ (s.me.links.length < 16 → bits s.ir 63 56 = 0x72 → RegOps o [o.vb] → (o.aux.getLsbD 1 = true ∨ o.vc.toNat < 24) →
          ∃ t, exec (.vcmpt o) s = .next t ∧ MovedOn s t
            ∧ (∃ l, NewLink s o.vd.toNat a (fun j => bitOf (kept j)) l
              ∧ t.me.links = (((older s l).map fun k => k.overwrite o.vb.toNat (maskOf lost)).filter fun k => k.open_ != 0) ++ [l])
            ∧ ∀ j, j < 64 → (vget t.me.cut o.vb.toNat 0).getLsbD j = ((vget s.me.cut o.vb.toNat 0).getLsbD j || lost j))
      ∧ (o.vd.toNat < 24 → s.me.maskLink o.mkf.toNat = none → ∃ t, exec (.vcut o) s = .next t ∧ MovedOn s t
          ∧ vget t.me.cut o.vd.toNat 0 = vget s.me.cut o.vd.toNat 0 ||| (s.me.mask o.mkf.toNat &&& a))

/-- R362-R364: the integer, logical and shift operations and VSEL on registers write the rule's result in the active lanes of
vd, once no link writes their sources. R246, R363: a lane is read as its type says, and its exact integer result wraps modulo
2^32, or under sat is clamped to the range of the type. -/
def Obligations.LaneIntegerResults : Prop :=
  (
  ∀ (s : State) (o : VFmt) (a : Word), LanesOn s o.gn o.gs a → RegOps o [o.vd] →
    let x := vaOf s o
    let y := laneOf s o.vb
    let k := o.imm.toNat % 64
    let r := fun (i : Instr) (f : Nat → Lane) => ∃ t, exec i s = .next t ∧ WroteLanes s t o.vd.toNat a f 0
    (o.vb.toNat < 24 → Settled s o [o.vb] a →
        r (.viadd o) (fun j => intLane o (laneInt o (x j) + laneInt o (y j)))
          ∧ r (.visub o) (fun j => intLane o (laneInt o (x j) - laneInt o (y j)))
          ∧ r (.vimul o) (fun j => intLane o (laneInt o (x j) * laneInt o (y j)))
          ∧ r (.vimin o) (fun j => if laneInt o (x j) ≤ laneInt o (y j) then x j else y j)
          ∧ r (.vimax o) (fun j => if laneInt o (y j) ≤ laneInt o (x j) then x j else y j)
          ∧ r (.vand o) (fun j => x j &&& y j)
          ∧ r (.vor o) (fun j => x j ||| y j)
          ∧ r (.vxor o) (fun j => x j ^^^ y j)
          ∧ (s.me.maskLink o.mkf.toNat = none →
              r (.vsel o) (fun j => if (s.me.mask o.mkf.toNat).getLsbD j then x j else y j)))
      ∧ (o.aux.getLsbD 1 = false → o.vb.toNat < 24 → Settled s o [o.vb] a →
          r (.vshl o) (fun j => BitVec.ofNat 32 ((x j).toNat * 2 ^ (y j).toNat))
            ∧ r (.vshr o) (fun j => BitVec.ofNat 32 ((x j).toNat / 2 ^ (y j).toNat))
            ∧ r (.vsra o) (fun j => BitVec.ofInt 32 ((x j).toInt / 2 ^ (y j).toNat)))
      ∧ (o.aux.getLsbD 1 = true → Settled s o [] a →
          r (.vshl o) (fun j => BitVec.ofNat 32 ((x j).toNat * 2 ^ k))
            ∧ r (.vshr o) (fun j => BitVec.ofNat 32 ((x j).toNat / 2 ^ k))
            ∧ r (.vsra o) (fun j => BitVec.ofInt 32 ((x j).toInt / 2 ^ k)))
  )
  ∧
  (
  ∀ (o : VFmt) (v : Int),
    (∀ x : Lane, (o.typ = 8 → laneInt o x = x.toInt) ∧ (o.typ = 9 → laneInt o x = x.toNat))
      ∧ (o.sat = false → intLane o v = BitVec.ofInt 32 v)
      ∧ (o.sat = true → o.typ = 8 → (intLane o v).toInt = max (-2 ^ 31) (min (2 ^ 31 - 1) v))
      ∧ (o.sat = true → o.typ = 9 → ((intLane o v).toNat : Int) = max 0 (min (2 ^ 32 - 1) v))
  )

/-- R359-R361: VCVT converts each active lane to the destination type; VQNT packs the quantised codes of the active lanes and
zeroes the rest of vd; VDQ multiplies the unpacked codes by the scale. -/
def Obligations.ConversionResults : Prop :=
  ∀ (s : State) (o : VFmt) (a : Word), LanesOn s o.gn o.gs a → o.vd.toNat < 24 →
    let t := laneVal ((s.getG o.vb).setWidth 32)
    let dest := o.imm.toNat % 16
    let m := o.rnd.toNat
    let cv := fun j => convert (laneAs o.typ.toNat (vaOf s o j)) dest m o.sat
    let q := fun j => quantLane o (laneOf s o.va j) t
    let w := if o.typ = 5 then 4 else 8
    let dq := fun j => (mulE (if o.typ = 5 then cq4Val (unpackCode w (s.readV o.va.toNat) j)
      else e4m3.val (unpackCode w (s.readV o.va.toNat) j)) t).lane m
    (RegOps o [] → Settled s o [] a → ∃ u fl, exec (.vcvt o) s = .next u ∧ WroteLanes s u o.vd.toNat a (fun j => widen dest (cv j).1) fl)
      ∧ (o.va.toNat < 24 → s.regWait [o.va] a = none → ∃ u fl, exec (.vqnt o) s = .next u
          ∧ WroteLanes s u o.vd.toNat (BitVec.allOnes 64) (fun j => vget (packLanes w
              (((List.range 64).map fun i => if a.getLsbD i then (q i).1 else 0).toArray)) j 0) fl)
      ∧ (o.va.toNat < 24 → s.regWait [o.va] (BitVec.allOnes 64) = none → ∃ u fl, exec (.vdq o) s = .next u
          ∧ WroteLanes s u o.vd.toNat a (fun j => (dq j).1) fl)

/-- R365: the moves and lane operations. R373: VRNG writes each active lane with its word of ten rounds of Philox over the key
g[va] and the counter of the lane: the word itself under UINT32, its upper 24 bits as a fraction under FP32. -/
def Obligations.LaneMoveAndRandomResults : Prop :=
  (
  ∀ (s : State) (o : VFmt) (a : Word), LanesOn s o.gn o.gs a →
    let all : Word := BitVec.allOnes 64
    let v := laneOf s o.va
    let k := o.imm.toNat % 64
    let turn := fun j => (j + (if o.aux.getLsbD 1 then (s.getG o.vb).toNat else o.imm.toNat) % 64) % 64
    let r := fun (i : Instr) (f : Nat → Lane) => ∃ t, exec i s = .next t ∧ WroteLanes s t o.vd.toNat a f 0
    (o.vd.toNat < 24 → RegOps o [] → Settled s o [] all → r (.vmov o) (vaOf s o))
      ∧ (o.vd.toNat < 24 → o.sa = false → o.va.toNat < 24 → s.regWait [o.va] all = none →
          r (.vbcast o) (fun _ => v k) ∧ r (.vrot o) (fun j => v (turn j)))
      ∧ (o.vd.toNat < 24 → o.sa = false → o.va.toNat < 24 → o.vb.toNat < 24 → s.regWait [o.va, o.vb] all = none →
          r (.vperm o) (fun j => if (laneOf s o.vb j).toNat < 64 then v (laneOf s o.vb j).toNat else 0))
      ∧ (o.vd.toNat < 24 →
          r (.viota o) (fun j => (if o.sa then (s.getG o.va).setWidth 32 else o.imm.signExtend 32) + BitVec.ofNat 32 j))
      ∧ (o.vd.toNat < 24 → ∃ t, exec (.vins o) s = .next t
          ∧ WroteLanes s t o.vd.toNat ((1#64 <<< k) &&& a) (fun _ => (s.getG o.va).setWidth 32) 0)
      ∧ (o.va.toNat < 24 → s.regWait [o.va] (1#64 <<< k) = none → ∃ t, exec (.vext o) s = .next t ∧ Steps s t
          ∧ (o.vd ≠ 0 → t.getG o.vd = if o.typ = 8 then (v k).signExtend 64 else (v k).setWidth 64)
          ∧ ∀ n, n ≠ o.vd → t.getG n = s.getG n)
  )
  ∧
  (
  ∀ (s : State) (o : VFmt) (a : Word), LanesOn s o.gn o.gs a → o.vd.toNat < 24 →
    let key := halves (s.getG o.va)
    let hi := halves (s.getG (o.va + 1))
    let x := fun j =>
      let ctr := halves (s.getG o.vb + BitVec.ofNat 64 j)
      pick4 (o.imm.toNat % 4) (philox 10 key.1 key.2 (ctr.1, ctr.2, hi.1, hi.2))
    ∃ t f, exec (.vrng o) s = .next t ∧ WroteLanes s t o.vd.toNat a f 0
      ∧ ∀ j, j < 64 → (o.typ = 9 → f j = x j)
        ∧ (o.typ ≠ 9 → f j = if (x j).toNat / 256 = 0 then 0 else ((Exact.num false ((x j).toNat / 256) (-24) false).lane 0).1)
  )

/-- R366: the sum, the prefix sums and the maximum of va's active lanes that carry no cut mark, every other lane at the
identity: under INT32 and UINT32 modulo 2^32, under FP32 in the order of CTX.NBV for the sum, in lane order for the prefix
sums; the maximum is a lane that none ranks above, -0 below +0, or the least value, and a NaN for any NaN. R366-R368: VRARG
gives g[d] the lane that ranks first; VTOPK writes lanes 0 to k - 1 of vd and vd + 1 with the first k values and lane numbers,
whatever the active lanes are. -/
def Obligations.ReductionAndRankResults : Prop :=
  (
  ∀ (s : State) (o : VFmt) (a : Word), LanesOn s o.gn o.gs a → o.va.toNat < 24 → o.vd.toNat < 24 → s.regWait [o.va] a = none →
    let live := fun j => a.getLsbD j && !(vget s.me.cut o.va.toNat 0).getLsbD j
    let lanes := fun (e : Lane) => (List.range 64).map fun j => if live j then laneOf s o.va j else e
    let sum := fun n => ((List.range n).filter live).foldl (fun x j => x + laneOf s o.va j) (0 : Lane)
    let typ := o.typ.toNat
    let nan := (lanes (leastOf typ)).any (nanAs typ)
    (o.typ = 8 ∨ o.typ = 9 → (∃ t, exec (.vrsum o) s = .next t ∧ WroteLanes s t o.vd.toNat a (fun _ => sum 64) 0)
        ∧ ∃ t, exec (.vscan o) s = .next t ∧ WroteLanes s t o.vd.toNat a (fun j => sum (j + 1)) 0)
      ∧ (o.typ = 0 → (∃ t, exec (.vrsum o) s = .next t
            ∧ WroteLanes s t o.vd.toNat a (fun _ => (sumLanes s.hart.nbv o.rnd.toNat (lanes 0)).1)
              (sumLanes s.hart.nbv o.rnd.toNat (lanes 0)).2)
          ∧ ∃ t fl, exec (.vscan o) s = .next t ∧ WroteLanes s t o.vd.toNat a
              (fun j => if j = 0 then (if nanAs 0 ((lanes 0).headD 0) then 0x7FC00000 else (lanes 0).headD 0)
                else (((lanes 0).take (j + 1)).drop 1).foldl (fun x y => (addLane x y o.rnd.toNat).1) ((lanes 0).headD 0)) fl)
      ∧ ∃ t x, exec (.vrmax o) s = .next t ∧ WroteLanes s t o.vd.toNat a (fun _ => x) (if nan then flNan else 0)
          ∧ (nan = true → x = 0x7FC00000)
          ∧ (nan = false → (o.typ = 0 ∨ o.typ = 8 ∨ o.typ = 9) → (∀ j, j < 64 → live j = true → above typ (laneOf s o.va j) x = false)
              ∧ (x = leastOf typ ∨ ∃ j, j < 64 ∧ live j = true ∧ x = laneOf s o.va j))
  )
  ∧
  (
  ∀ (s : State) (o : VFmt) (a : Word), LanesOn s o.gn o.gs a → o.va.toNat < 24 → s.regWait [o.va] a = none →
    let r := ranked o.typ.toNat a (s.readV o.va.toNat)
    let k := o.imm.toNat % 128
    (∃ t, exec (.vrarg o) s = .next t ∧ Steps s t
        ∧ (o.vd ≠ 0 → t.getG o.vd = BitVec.ofNat 64 (r.getD 0 (0, 0)).1) ∧ ∀ n, n ≠ o.vd → t.getG n = s.getG n)
      ∧ (o.vd.toNat < 23 → ∃ t, exec (.vtopk o) s = .next t ∧ MovedOn s t ∧ t.me.m = s.me.m
          ∧ (∀ j, j < 64 → vget (vget t.me.v (o.vd.toNat + 1) .zero) j 0 =
              if j < k then BitVec.ofNat 32 (r.getD j (64, 0)).1 else vget (vget s.me.v (o.vd.toNat + 1) .zero) j 0)
          ∧ (∀ j, j < 64 → vget (vget t.me.v o.vd.toNat .zero) j 0 =
              if j < k then (let x := (r.getD j (64, leastOf o.typ.toNat)).2; if nanAs o.typ.toNat x then 0x7FC00000 else x)
              else vget (vget s.me.v o.vd.toNat .zero) j 0)
          ∧ ∀ n, n ≠ o.vd.toNat → n ≠ o.vd.toNat + 1 → vget t.me.v n .zero = vget s.me.v n .zero)
  )

/-- R369, R198: the mask instructions write md in the active lanes, m0 discarded; MPOP and MFIRST give g[d] the number of set
lanes and the lowest set lane, 64 for none. -/
def Obligations.MaskResults : Prop :=
  ∀ (s : State) (o : VFmt) (a : Word), LanesOn s o.gn o.gs a →
    let x := s.me.mask o.va.toNat
    let y := s.me.mask o.vb.toNat
    let r := fun (i : Instr) (v : Word) => ∃ t, exec i s = .next t ∧ MovedOn s t
      ∧ (∀ j, j < 64 → o.vd ≠ 0 → (t.me.mask o.vd.toNat).getLsbD j = if a.getLsbD j then v.getLsbD j else (s.me.mask o.vd.toNat).getLsbD j)
      ∧ (∀ n, n ≠ o.vd.toNat → t.me.mask n = s.me.mask n) ∧ t.me.mask 0 = BitVec.allOnes 64
      ∧ t.me.v = s.me.v ∧ t.hart.fflags = s.hart.fflags
    let g := fun (i : Instr) (v : Word) => ∃ t, exec i s = .next t ∧ Steps s t
      ∧ (o.vd ≠ 0 → t.getG o.vd = v) ∧ ∀ n, n ≠ o.vd → t.getG n = s.getG n
    (o.vd.toNat < 8 → s.me.maskLink o.va.toNat = none → s.me.maskLink o.vb.toNat = none →
        r (.mand o) (x &&& y) ∧ r (.mor o) (x ||| y) ∧ r (.mxor o) (x ^^^ y))
      ∧ (o.vd.toNat < 8 → s.me.maskLink o.va.toNat = none → r (.mnot o) (~~~x))
      ∧ (o.vd.toNat < 8 → r (.mset o) (if o.sa then s.getG o.va else maskOf fun i => i < o.imm.toNat % 128))
      ∧ (s.me.maskLink o.va.toNat = none →
          g (.mpop o) (BitVec.ofNat 64 ((List.range 64).filter fun j => (x &&& a).getLsbD j).length)
            ∧ g (.mfirst o) (BitVec.ofNat 64 (((List.range 64).find? fun j => (x &&& a).getLsbD j).getD 64)))

/-- R370-R372: a vector load from memory writes the active lanes of vd with their elements, widened; element addresses are
those of its form. Every place passes its checks at this issue, no granule is poisoned, the context has seen its own stores to
them (R140), and no hotness sample is taken (R128). R370-R372: a vector store writes each active lane's element, converted, at
the address of its form, in ascending lane order, and no other byte: in uncached pages, depots and scratch as memory holds it,
in cached pages as a cached read sees it where no hotness sample is taken. A byte that may pass an own earlier store through
another form of address may keep that store's value (R140). That every access is performed in the instruction's step is the
model's choice (entries 21, 37). -/
def Obligations.VectorMemoryResults : Prop :=
  (
  ∀ (s : State) (o : VFmt) (a : Word) (p : Nat → Phys), LanesOn s o.gn o.gs a → o.vd.toNat < 24 →
    let n := elemSize o.typ.toNat
    let base := s.getG o.va + s.getG o.vb + o.imm.signExtend 64
    let r := fun (i : Instr) (ea : Nat → Nat) => s.me.checked = [] →
      (∀ j, j < 64 → a.getLsbD j = true → Aligned s (ea j) n ∧ s.check s.req (ea j) n .read = .ok (p j)
        ∧ s.poisonFor s.req (p j) = false ∧ s.mayMiss (ea j) (p j) n = false
        ∧ (ea j / 2 ^ 60 = 0 → bit s.sys.hotcfg 16 = false)) →
      ∃ t, exec i s = .next t ∧ WroteLanes s t o.vd.toNat a (fun j => widen o.typ.toNat (s.rdFor s.req (p j) n)) 0
    r (.vld o) (fun j => (base + BitVec.ofNat 64 (j * n)).toNat)
      ∧ r (.vlds o) (fun j => (base + BitVec.ofNat 64 j * s.getG o.vc).toNat)
      ∧ (o.vb.toNat < 24 → s.regWait [o.vb] a = none →
          r (.vgth o) (fun j => (s.getG o.va + o.imm.signExtend 64 + (laneOf s o.vb j).signExtend 64 * BitVec.ofNat 64 n).toNat))
  )
  ∧
  (
  ∀ (s : State) (o : VFmt) (a : Word) (p : Nat → Phys), LanesOn s o.gn o.gs a → o.vd.toNat < 24 → s.regWait [o.vd] a = none →
    let n := elemSize o.typ.toNat
    let base := s.getG o.va + s.getG o.vb + o.imm.signExtend 64
    let code := fun j => (storeCode o (laneOf s o.vd j)).1
    let lane := fun j => j < 64 ∧ a.getLsbD j = true
    let covers := fun j k => lane j ∧ (p j).key ≤ k ∧ k < (p j).key + n
    let byteOf := fun j k => code j / 256 ^ (k - (p j).key) % 256
    let seen := fun (x : State) (k : Nat) => x.rd { key := k, mt := 0 } 1
    let r := fun (i : Instr) (ea : Nat → Nat) => s.me.checked = [] →
      (∀ j, lane j → Aligned s (ea j) n ∧ s.check s.req (ea j) n .write = .ok (p j)) →
      let plain := ∀ j, lane j → s.mayPass (ea j) (p j) n = false
      ((∀ j, lane j → (p j).mt = 1 ∨ (p j).mt = 3) →
        ∃ t, exec i s = .next t ∧ t.pc = s.pc + 8 ∧ (∀ k, t.getG k = s.getG k) ∧ t.me.v = s.me.v
          ∧ (∀ k, t.mem.byte k = s.mem.byte k ∨ ∃ j, covers j k ∧ t.mem.byte k = BitVec.ofNat 8 (byteOf j k))
          ∧ (plain → ∀ j k, covers j k → (∀ l, j < l → ¬covers l k) → t.mem.byte k = BitVec.ofNat 8 (byteOf j k)))
      ∧ ((∀ j, lane j → ((p j).mt = 0 ∨ (p j).mt = 2) ∧ (p j).key < 2 ^ 40) → bit s.sys.hotcfg 16 = false →
        ∃ t, exec i s = .next t ∧ t.pc = s.pc + 8 ∧ (∀ k, t.getG k = s.getG k) ∧ t.me.v = s.me.v
          ∧ (∀ k, k < 2 ^ 40 → seen t k = seen s k ∨ ∃ j, covers j k ∧ seen t k = byteOf j k)
          ∧ (plain → ∀ j k, k < 2 ^ 40 → covers j k → (∀ l, j < l → ¬covers l k) → seen t k = byteOf j k))
    r (.vst o) (fun j => (base + BitVec.ofNat 64 (j * n)).toNat)
      ∧ r (.vsts o) (fun j => (base + BitVec.ofNat 64 j * s.getG o.vc).toNat)
      ∧ (o.vb.toNat < 24 → s.regWait [o.vd, o.vb] a = none →
          r (.vsct o) (fun j => (s.getG o.va + o.imm.signExtend 64 + (laneOf s o.vb j).signExtend 64 * BitVec.ofNat 64 n).toNat))
  )

/-- The frame of the vector group on registers, where no field of an instruction names a port: of the whole state, only the
executing context's vector registers, cut marks, masks, links, latches and flags, its chain counts, program counter and wait,
with its word, may differ, g[vd] for the four that write it, and the agenda of the links' ends; all memory, every other
context and every trap register stays. -/
def Obligations.VectorFrame : Prop :=
  ∀ (s t : State) (o : VFmt) (i : Instr), AgentOk s.cur → s.onCore = false → exec i s = .next t →
    let regs := [Instr.vadd o, .vsub o, .vmul o, .vfma o, .vfms o, .vnfma o, .vabs o, .vneg o, .vmax o, .vmin o, .vdiv o, .vrcp o,
      .vsqrt o, .vrsq o, .vexp2 o, .vlog2 o, .vscale o, .vcmp o, .vsel o, .viadd o, .visub o, .vimul o, .vimin o, .vimax o, .vand o,
      .vor o, .vxor o, .vmov o]
    let gdest := [Instr.vext o, .vrarg o, .mpop o, .mfirst o]
    (i ∈ regs ∧ RegOps o [o.vb, o.vc, o.vd])
        ∨ (i ∈ [Instr.vcvt o] ∧ RegOps o [o.vd])
        ∨ (i ∈ [Instr.vshl o, .vshr o, .vsra o] ∧ RegOps o [o.vd] ∧ (o.aux.getLsbD 1 = true ∨ o.vb.toNat < 24))
        ∨ (i ∈ [Instr.vcmpt o] ∧ RegOps o [] ∧ (o.aux.getLsbD 1 = true ∨ o.vc.toNat < 24))
        ∨ (i ∈ [Instr.vqnt o, .vdq o, .vbcast o, .vrot o, .vrsum o, .vrmax o, .vscan o, .vtopk o] ∧ o.va.toNat < 24 ∧ o.vd.toNat < 24)
        ∨ (i ∈ [Instr.vperm o] ∧ o.va.toNat < 24 ∧ o.vb.toNat < 24 ∧ o.vd.toNat < 24)
        ∨ (i ∈ [Instr.vins o, .viota o, .vrng o] ∧ o.vd.toNat < 24)
        ∨ (i ∈ [Instr.vext o, .vrarg o] ∧ o.va.toNat < 24)
        ∨ i ∈ [Instr.vcut o, .vsettle o, .mand o, .mor o, .mxor o, .mnot o, .mset o, .mpop o, .mfirst o] →
    t = { s with tiles := t.tiles, agenda := t.agenda }
      ∧ (∀ d k, t.tile d k = { s.tile d k with ctxs := (t.tile d k).ctxs })
      ∧ (∀ d k c, k < 256 → Agent.ctx d k c ≠ s.cur → t.ctx d k c = s.ctx d k c)
      ∧ t.me = { s.me with hart := t.hart, m := t.me.m, v := t.me.v, cut := t.me.cut, links := t.me.links, latches := t.me.latches }
      ∧ (∃ g pc w x fl n p c, t.hart = { s.hart with g := g, pc := pc, wait := w, word := x, fflags := fl, stall := n, peak := p, cutcnt := c })
      ∧ ∀ n, (i ∉ gdest ∨ n ≠ o.vd) → t.getG n = s.getG n

/-! Matrix, streams and ports. -/

/-- R375, R376, R378, R381-R383, R386-R388: a matrix instruction takes the last place of its tile's queue, with its operands,
and moves on; the accumulators are unchanged until the unit performs it. A full queue waits; a scratch operand, scale plane or
mask plane that R378 refuses traps ALIGN, then ACCESS, with its address and its operand's number. That the work is done when
MATRIX_COMPLETE is due is the model's reading (entry 11). -/
def Obligations.MatrixResults : Prop :=
  ∀ (s : State) (o : MFmt) (a : Word), LanesOn s o.gn o.gs a →
    let m := queuedAs s o a
    let r := fun (i : Instr) (e : MatOp) => ∃ t, exec i s = .next t ∧ MovedOn s t
      ∧ t.myTile = { s.myTile with mq := s.myTile.mq ++ [e], ctxs := t.myTile.ctxs }
    let addr := fun (x y : Word) => ({ x := x, y := y, els := [], cols := 0 } : MatIn)
    let at_ := fun (f : BitVec 5) => addr (s.getG f) (s.getG (f + 1))
    let x := s.getG o.sa
    let last := x.toNat % 2 ^ 19 + 512 * o.rows.toNat
    let other := x.toNat / 2 ^ 60 ≠ 2 ∨ x.toNat / 2 ^ 28 % 2 ^ 32 ≠ 0 ∨ x.toNat / 2 ^ 19 % 2 = 1
      ∨ (x.toNat / 2 ^ 20 % 256 ≠ 255 ∧ x.toNat / 2 ^ 20 % 256 ≠ s.tix)
    let uses := s.usesOf (opA o) ++ s.usesOf (opB o) ++ s.maskUse o
    let odd := fun (u : ScratchUse) => u.x.toNat % 2 ^ 19 % u.align ≠ 0
    let out := fun (u : ScratchUse) => u.x.toNat / 2 ^ 60 ≠ 2 ∨ u.x.toNat / 2 ^ 28 % 2 ^ 32 ≠ 0 ∨ u.x.toNat / 2 ^ 19 % 2 = 1
      ∨ (u.x.toNat / 2 ^ 20 % 256 ≠ 255 ∧ u.x.toNat / 2 ^ 20 % 256 ≠ s.tix) ∨ 2 ^ 19 < u.x.toNat % 2 ^ 19 + u.len
    (8 ≤ s.myTile.mq.length →
        (∀ i ∈ [Instr.mzero o, .mma o, .mmas o, .mrdq o, .mlda o, .mwait o], exec i s = .next (s.waits (.matrix 8)))
          ∧ (s.regWait [o.sa] (BitVec.allOnes 64) = none → exec (.mscl o) s = .next (s.waits (.matrix 8))))
      ∧ (∀ j, s.regWait [o.sa] (BitVec.allOnes 64) = some j → exec (.mscl o) s = .next (s.waits (.links (s.me.links.length - j))))
      ∧ (s.myTile.mq.length < 8 →
          r (.mzero o) (m .zero)
            ∧ r (.mwait o) (m .wait)
            ∧ (o.qa = false → o.qb = false → s.scratchTrap (s.usesOf (opA o) ++ s.usesOf (opB o) ++ s.maskUse o) = none →
                r (.mma o) { m (.mma false) with a := at_ o.sa, b := at_ o.sb }
                  ∧ r (.mmas o) { m (.mma true) with a := at_ o.sa, b := at_ o.sb })
            ∧ (s.scratchTrap (s.usesOf (opA o) ++ s.usesOf (opB o) ++ s.maskUse o) = none →
                ∀ u p q, s.captures (opA o) (opB o) = .ok (u, p, q) →
                  exec (.mma o) s = .next (u.enqueue { m (.mma false) with a := p, b := q })
                    ∧ exec (.mmas o) s = .next (u.enqueue { m (.mma true) with a := p, b := q }))
            ∧ (o.qa = false → o.qb = false → ∀ l u r, uses = l ++ u :: r → ∀ i ∈ [Instr.mma o, .mmas o],
                (odd u → (∀ v ∈ l, ¬odd v) → exec i s = .next (s.trap 3 u.loc u.x))
                  ∧ ((∀ v ∈ uses, ¬odd v) → out u → (∀ v ∈ l, ¬out v) → exec i s = .next (s.trap 4 u.loc u.x)))
            ∧ (x.toNat % 256 = 0 → ¬other → last ≤ 2 ^ 19 → r (.mlda o) { m .load with a := addr x 0 })
            ∧ (x.toNat % 256 ≠ 0 → exec (.mlda o) s = .next (s.trap 3 1 x))
            ∧ (x.toNat % 256 = 0 → other ∨ 2 ^ 19 < last → exec (.mlda o) s = .next (s.trap 4 1 x))
            ∧ (s.regWait [o.sa] (BitVec.allOnes 64) = none → r (.mscl o) { m .scale with f := s.readV o.sa.toNat }))

/-- R384, R385, R276: MRD waits for the queued instructions on its accumulator, begins a link with the 64 elements of half a
row, and traps POISON with where = 6 on a poisoned granule of it; MRDQ reserves its positions of the port and takes its place
in the queue, is discarded whole at a port that has ended, and traps PORT where the port takes no push. That an MRDQ pushes
when MATRIX_COMPLETE is due, and that one which meets an unmapped place waits, are the model's readings (entries 11, 56). -/
def Obligations.MatrixReadResults : Prop :=
  ∀ (s : State) (o : MFmt) (a : Word), LanesOn s o.gn o.gs a →
    let k := (s.getG o.sb).toNat % 64
    let h := if o.dirA then 1 else 0
    let row := s.myTile.accRow o.acc.toNat k
    let bad := (List.range 4).any fun g => row.pois.getLsbD (4 * h + g)
    let p := o.sa.toNat - 24
    let b := s.port p
    let n := 128 * o.rows.toNat
    let e := s.portApe p
    let dst : PushTo := { kb := b.kb, ape := b.ape, cfg := e.cfg, typ := s.portType p, pos := s.portAt p, pm := false, gone := false, skip := 0 }
    let m := { queuedAs s o a .push with b := { x := s.getG o.sb, y := 0, els := [], cols := 0 } }
    let els := inLength e.len e.pos (rowsElems (s.portType p) 0 a o.rows.toNat fun _ => .init)
    let queued := fun (x : MatOp) => ∃ t, exec (.mrdq o) s = .next t ∧ MovedOn s t ∧ t.myTile.mq = s.myTile.mq ++ [x]
      ∧ t.myTile.acc = s.myTile.acc
    let free := s.me.links.length < 16
    let idle := ∀ x ∈ s.myTile.mq, x.on o.acc.toNat = false
    (free → idle → bad = false → ∃ t, exec (.mrd o) s = .next t ∧ MovedOn s t
        ∧ Linked s t o.sa.toNat a fun j => { v := vget row.cells (64 * h + j) 0, e := 0, fl := 0 })
      ∧ (free → idle → bad = true → exec (.mrd o) s = .next (s.trap 6 6 (BitVec.ofNat 64 (o.acc.toNat * 256 + k))))
      ∧ (free → ¬idle → exec (.mrd o) s = .next (s.waits (.acc o.acc.toNat)))
      ∧ (s.myTile.mq.length < 8 →
          (∀ pos, s.pushBad p = some pos → exec (.mrdq o) s = .next (s.trap 7 1 (BitVec.ofNat 64 (p * 2 ^ 48 + pos % 2 ^ 48))))
            ∧ (∀ w, s.pushBad p = none → s.pushBusy 64 2 p = some w → exec (.mrdq o) s = .next (s.waits w))
            ∧ (s.pushBad p = none → s.pushBusy 64 2 p = none →
              (s.pushEnded p = true → queued m)
                ∧ (s.pushEnded p = false → b.kb = true → queued { m with push := some dst })
                ∧ (s.pushEnded p = false → b.kb = false → ∀ l, s.pushPlaces s.die s.tix b.ape e (elemSize (s.portType p)) els = .ok l →
                    (farPush e l = [] → queued { m with push := some dst })
                      ∧ (∀ u, s.pushAsk (apeUnit s.die s.tix b.ape) e l = (u, .ok none) →
                        exec (.mrdq o) s = .next ((u.pushTaken p n true).enqueue { m with push := some dst }))
                      ∧ (∀ u k, s.pushAsk (apeUnit s.die s.tix b.ape) e l = (u, .ok (some k)) →
                        exec (.mrdq o) s = .next (u.trap 7 1 (BitVec.ofNat 64 (p * 2 ^ 48 + k % 2 ^ 48))))
                      ∧ ∀ u k, s.pushAsk (apeUnit s.die s.tix b.ape) e l = (u, .error k) → exec (.mrdq o) s = .next (u.waits (.remote k)))
                ∧ (s.pushEnded p = false → b.kb = false → ∀ r, s.pushPlaces s.die s.tix b.ape e (elemSize (s.portType p)) els = .error r →
                    exec (.mrdq o) s = .next (s.pushStop 1 p b.ape r))))

/-- R256, R264: when the oldest link settles in a region that runs, it writes the lanes it still has in its register, and
under .x the residuals that it still has in the next, or its mask; it adds their flags and leaves the chain; no other register
changes. R376, R217, R219, R220, R383, R386-R388: at MATRIX_COMPLETE the unit performs the oldest instruction of its tile's
queue: the rows that it takes get their values and every other row stays, its flags are added to the context where the
invocation that issued it still runs, and an MWAIT's signal is posted. R385, R376: an MRDQ performed pushes its rows at the
positions that it reserved: where every place of them takes a push, the element of each written position is the row's
converted one, and the queue goes on; a place that is not mapped makes it wait. R209, R153: an APE that reads ahead takes its
next element behind those it holds, and memory stays; a translation fault makes it withhold at that position. That the oldest
link settles first, that a matrix instruction's work is done when its completion is due, and when a stream reads ahead, are
the model's readings (entries 10, 11, 12). -/
def Obligations.TileEventResults : Prop :=
  (
  ∀ (s : State) (d t c i : Nat) (l : Link) (r : List Link), s.arg = .tileIdx { die := d, tile := t, i := c } →
    s.regionAt d t = some i → ((s.slot d i).state = .armed ∨ (s.slot d i).state = .draining) →
    (s.ctx d t c).links = l :: r → l.push = none → l.dst < 23 →
    let x := s.ctx d t c
    ∃ u, exec .linkSettle s = .next u ∧ (u.ctx d t c).links = r ∧ u.mem = s.mem ∧ (u.ctx d t c).hart.g = x.hart.g
      ∧ (u.ctx d t c).hart.pc = x.hart.pc
      ∧ (∀ k, k < 24 → ∀ j, j < 64 → vget (vget (u.ctx d t c).v k .zero) j 0 =
          if l.toMask = false ∧ l.opn.getLsbD j = true ∧ k = l.dst then vget l.vals j 0
          else if l.toMask = false ∧ l.two = true ∧ l.opn2.getLsbD j = true ∧ k = l.dst + 1 then vget l.vals2 j 0
          else vget (vget x.v k .zero) j 0)
      ∧ (∀ k, 1 ≤ k → k < 8 → ∀ j, j < 64 → ((u.ctx d t c).mask k).getLsbD j =
          if l.toMask = true ∧ l.opn.getLsbD j = true ∧ k = l.dst then vget l.vals j 0 != 0 else (x.mask k).getLsbD j)
      ∧ ∀ b, b < 7 → (u.ctx d t c).hart.fflags.getLsbD b =
          (x.hart.fflags.getLsbD b || (List.range 64).any fun j => l.opn.getLsbD j && (vget l.fl j 0).getLsbD b)
  )
  ∧
  (
  ∀ (s : State) (d t : Nat) (m : MatOp) (r : List MatOp), s.arg = .tileRef { die := d, tile := t } → (s.tile d t).mq = m :: r →
    m.o.rows.toNat ≤ 64 →
    let x := s.ctx d t m.c
    let n := m.o.acc.toNat
    let row := (s.tile d t).accRow n
    let rows := m.o.rows.toNat
    let taken := fun k => decide (k < rows) && m.mask.getLsbD k
    let all := fun k => decide (k < rows)
    let ends := fun (take : Nat → Bool) (f : Nat → AccRow × Fl) (sig : Option Nat) => ∃ u, exec .matrixComplete s = .next u
      ∧ (u.tile d t).mq = r ∧ u.mem = s.mem
      ∧ (∀ c k, k < 64 → (u.tile d t).accRow c k = if c = n ∧ take k then (f k).1 else (s.tile d t).accRow c k)
      ∧ (∀ b, b < 7 → (u.ctx d t m.c).hart.fflags.getLsbD b = (x.hart.fflags.getLsbD b
          || (x.live && (x.inv == m.inv) && (List.range 64).any fun k => take k && (f k).2.getLsbD b)))
      ∧ ∀ k, k < 8 → vget (u.tile d t).sigs k 0 = vget (s.tile d t).sigs k 0 + if sig = some k then 1 else 0
    let lines := (s.operandLines m.own d t m.a (opA m.o)).toArray
    let cols := (s.columnsOf m.own d t m.b.y m.o (s.operandLines m.own d t m.b (opB m.o))).toArray
    let sum := fun (start : AccRow) k => mmaRow (chunkLen m.o) m.o.kc.toNat (lines.getD k []) cols start
    (m.kind = .zero → ends taken (fun _ => (.init, 0)) none)
      ∧ (m.kind = .mma false → ends all (fun k => sum (row k) k) none)
      ∧ (m.kind = .mma true → ends all (fun k => sum .init k) none)
      ∧ (m.kind = .load → ∃ f : Nat → AccRow, ends all (fun k => (f k, 0)) none ∧ (s.stuck = [] → s.sys.power.stopped = false → ∀ k c, c < 128 →
          vget (f k).cells c 0 = BitVec.ofNat 32 (leVal (s.mem.bytes (scratchKey d t (m.a.x.toNat % 2 ^ 19 + 512 * k + 4 * c)) 4))))
      ∧ (m.kind = .scale → ∃ g : Nat → AccRow × Fl, ends taken g none ∧ ∀ k, (g k).1.pois = (row k).pois
          ∧ ∀ c, c < 128 → vget (g k).1.cells c 0 = ((mulE (laneVal (vget (row k).cells c 0)) (laneVal (vget m.f k 0))).lane 0).1)
      ∧ (m.kind = .wait → ends (fun _ => false) (fun _ => (.init, 0)) (some (m.o.sa.toNat % 8)))
  )
  ∧
  (
  ∀ (s : State) (d t : Nat) (m : MatOp) (r : List MatOp) (p : PushTo), s.arg = .tileRef { die := d, tile := t } →
    (s.tile d t).mq = m :: r → m.kind = .push → m.push = some p → p.kb = false →
    let els := rowsElems p.typ m.rnd m.mask m.o.rows.toNat fun j => (s.tile d t).accRow m.o.acc.toNat ((m.b.x.toNat + j) % 64)
    (∀ u, s.latePush d t m.c p els = (u, none) → exec .matrixComplete s =
        .next ((u.modTile d t fun x => { x with mq := r }).matrixDone d t m
          (((inLength p.stream.len p.pos els).map fun x => x.fl).foldl (fun f x => f ||| x) 0)))
      ∧ ∀ u k, s.latePush d t m.c p els = (u, some k) → exec .matrixComplete s =
        .next ((u.modTile d t fun x => { x with mq := { m with push := some { p with skip := k } } :: r }).post 100 .matrixComplete s.arg)
  )
  ∧
  (
  ∀ (s : State) (d t e : Nat), s.arg = .tileIdx { die := d, tile := t, i := e } → s.tileIssues d t = true →
    let a := (s.tile d t).ape e
    let n := a.pos + a.ahead.length
    a.bad = false → a.dir = false → a.fedBit = false → a.fin = false → a.wh = false → a.holder = none → a.ahead.length < 256 →
    n < a.len →
    (∀ s1 x, s.nextElem d t e n = (s1, .elem x) →
        ∃ u, exec .apeElement s = .next u ∧ u.mem = s1.mem ∧ ((u.tile d t).ape e).ahead = ((s1.tile d t).ape e).ahead ++ [x]
          ∧ ((u.tile d t).ape e).pos = ((s1.tile d t).ape e).pos)
      ∧ ∀ s1 va lv c, s.nextElem d t e n = (s1, .withheld va lv c) →
        ∃ u, exec .apeElement s = .next u ∧ ((u.tile d t).ape e).wh = true
          ∧ u.withheld.any (fun w => w.u == { kind := .ape, die := d, tile := t, i := e }) = true
  )

/-- R391-R393: the instructions on an APE give it the words, position and state of the rule; words that R392 refuses trap PORT
and leave the APE; an APE that another context's capture holds, or its push, is waited for (R152, R394). When a stream reads
ahead is the model's reading (entry 12). -/
def Obligations.ApeResults : Prop :=
  ∀ (s : State) (o : CFmt) (m : Word), LanesOn s o.gn o.gs m →
    let e := o.imm.toNat % 16
    let a := s.myTile.ape e
    let fresh := fun (f : Nat → Word) => ({ Ape.init with cfg := Vector.ofFn fun i => f i.val } : Ape)
    let set := fun (i : Instr) (f : Nat → Word) =>
      ((fresh f).bad = false → ∃ t, exec i s = .next t ∧ MovedOn s t ∧ (t.myTile.ape e).cfg = (fresh f).cfg
        ∧ (t.myTile.ape e).pos = 0 ∧ (t.myTile.ape e).fin = true ∧ (t.myTile.ape e).wh = false ∧ (t.myTile.ape e).ahead = []
        ∧ (t.myTile.ape e).page = none)
      ∧ ((fresh f).bad = true → exec i s = .next (s.trap 7 0 (BitVec.ofNat 64 (2 ^ 63 + e * 2 ^ 56))))
    let run := fun (i : Instr) (pos : Nat) (fin : Bool) => ∃ t, exec i s = .next t ∧ MovedOn s t ∧ (t.myTile.ape e).cfg = a.cfg
      ∧ (t.myTile.ape e).pos = pos ∧ (t.myTile.ape e).fin = fin ∧ (t.myTile.ape e).ahead = []
    let taken := s.myTile.taken s.cix e
    (a.holder.getD s.cix ≠ s.cix → taken = true)
      ∧ (taken = true → (∀ i ∈ [Instr.apcfgR o, .apcfgPre o, .apdim o, .apstart o, .apstop o, .appos o, .apseek o],
          exec i s = .next (s.waits (.capture e)))
        ∧ ((s.getG o.a).toNat / 2 ^ 60 ≠ 4 ∨ s.isSup = true → exec (.apcfgM o) s = .next (s.waits (.capture e))))
      ∧ (taken = false →
          set (.apcfgR o) (fun i => if i = 0 then s.getG o.a else if i = 1 then s.getG o.b else a.w i)
            ∧ set (.apdim o) (fun i => if i = 2 + o.imm.toNat / 16 % 4 then s.getG o.a else a.w i)
            ∧ (∀ w, s.me.tver = s.myTile.tver → s.myTile.presets[o.imm.toNat / 256 % 16]? = some w →
                set (.apcfgPre o) (fun i => vget w i 0))
            ∧ (s.me.tver ≠ s.myTile.tver → ∃ v, exec (.apcfgPre o) s = .next (s.trap 8 0 v))
            ∧ (∀ p : Nat → Phys, let ea := (s.getG o.a).toNat
                ea % 64 = 0 → s.me.checked = [] → (ea / 2 ^ 60 = 0 → bit s.sys.hotcfg 16 = false) →
                (∀ k, k < 8 → s.check s.req (ea + 8 * k) 8 .read = .ok (p k) ∧ s.poisonFor s.req (p k) = false) →
                let w := fun i => BitVec.ofNat 64 (s.rdFor s.req (p i) 8)
                ((fresh w).bad = false → ∃ t, exec (.apcfgM o) s = .next t ∧ MovedOn s t ∧ (t.myTile.ape e).cfg = (fresh w).cfg
                  ∧ (t.myTile.ape e).pos = 0 ∧ (t.myTile.ape e).fin = true)
                  ∧ ((fresh w).bad = true → ∃ u : State, exec (.apcfgM o) s = .next (u.trap 7 0 (BitVec.ofNat 64 (2 ^ 63 + e * 2 ^ 56)))
                    ∧ u.mem = s.mem ∧ u.myTile.apes = s.myTile.apes))
            ∧ run (.apstart o) 0 false
            ∧ run (.apstop o) a.pos true
            ∧ run (.apseek o) ((s.getG o.a).toNat % 2 ^ 48) (decide (a.len ≤ (s.getG o.a).toNat % 2 ^ 48))
            ∧ ∃ t, exec (.appos o) s = .next t ∧ Steps s t ∧ (∀ n, n ≠ o.d → t.getG n = s.getG n)
                ∧ (o.d ≠ 0 → bits (t.getG o.d) 47 0 = a.pos % 2 ^ 48))

/-- R395, R396: QBIND, QBIND.k and QBIND.u bind and unbind a port, changing no APE; a port that holds a coach takes no APE,
and QBIND.k needs one, with an aligned byte position: else PORT. QSTAT reads a port's state: binding, end, withholding, APE,
columns, type, position. R208, R210-R212, R391, R288: VMOV of a port to a register pops a vector: each lane of the pop takes
the next element, converted, the lanes that the stream or the payload has none for +0; the position moves on by the elements
taken; a pop that finds too few ends the port and gives m7 its mask. A port with no binding, or bound to a write stream, traps
PORT with the field in where; an access of an APE that withholds waits; a poisoned element traps POISON. R208, R210, R213,
R391: VMOV of a register to a port pushes: the elements of the lanes that write, converted, stand at the port's next
positions, those at or beyond the length are discarded, and 64 positions, or under .pm those of the active lanes, are
consumed; the push that reaches the length ends the port, and a later one is discarded whole. A port with no binding, a read
stream and q7 trap PORT. That QSTAT reports ncol as written is the model's reading (entry 31). -/
def Obligations.PortResults : Prop :=
  (
  ∀ (s : State) (o : CFmt) (m : Word), LanesOn s o.gn o.gs m →
    let n := o.imm.toNat / 2 ^ 16 % 8
    let typ := o.imm.toNat / 2 ^ 24 % 16
    let pos := (s.getG o.a).toNat
    let unit := if typ = 5 ∨ typ = 6 then blockSize typ else elemSize typ
    let b := s.port n
    let refused := fun (i : Instr) => exec i s = .next (s.trap 7 0 (BitVec.ofNat 64 (n * 2 ^ 48 + s.portAt n % 2 ^ 48)))
    let bound := fun (i : Instr) (x : PortBind) => ∃ t, exec i s = .next t ∧ MovedOn s t ∧ t.port n = x ∧ t.myTile.apes = s.myTile.apes
      ∧ ∀ k, k ≠ n → t.port k = s.port k
    (s.holdsCoach n = true → refused (.qbind o))
      ∧ (s.holdsCoach n = false →
          bound (.qbind o) { bnd := true, kb := false, ape := o.imm.toNat % 16, ncol := o.imm.toNat / 256 % 256, typ := 0, pos := 0, fin := false })
      ∧ (s.holdsCoach n = false ∨ pos % unit ≠ 0 → refused (.qbindK o))
      ∧ (s.holdsCoach n = true → pos % unit = 0 →
          bound (.qbindK o) { bnd := true, kb := true, ape := 0, ncol := 0, typ := typ, pos := elemsIn typ pos, fin := false })
      ∧ bound (.qbindU o) .init
      ∧ ∃ t, exec (.qstat o) s = .next t ∧ Steps s t ∧ (∀ k, k ≠ o.d → t.getG k = s.getG k)
          ∧ (o.d ≠ 0 → (b.bnd = false → t.getG o.d = 0)
            ∧ (b.bnd = true → bit (t.getG o.d) 63 = true ∧ bit (t.getG o.d) 62 = b.kb
                ∧ bits (t.getG o.d) 47 0 = (if b.kb then b.pos else (s.portApe n).pos) % 2 ^ 48
                ∧ (b.kb = true → bits (t.getG o.d) 55 52 = b.typ % 16)
                ∧ (b.kb = false → bit (t.getG o.d) 61 = (s.portApe n).wh ∧ bit (t.getG o.d) 60 = (s.portApe n).fin
                  ∧ bits (t.getG o.d) 59 56 = b.ape % 16 ∧ bits (t.getG o.d) 55 48 = b.ncol % 256)))
  )
  ∧
  (
  ∀ (s : State) (o : VFmt) (a : Word) (p : Nat), LanesOn s o.gn o.gs a → o.sa = false → o.va.toNat = 24 + p → o.vd.toNat < 24 →
    s.latched p = none →
    let mask := if o.pm then a else BitVec.allOnes 64
    let n := laneRank mask 64
    let b := s.port p
    let e := s.portApe p
    let lane := fun (typ : Nat) (x : Machine.Elem) => if typ = 5 ∨ typ = 6 then (blockLane typ x.code x.sub x.scale).1 else widen typ x.code
    let got := fun (u t : State) (typ : Nat) (els : List Machine.Elem) => t.pc = s.pc + 8 ∧ t.mem = u.mem ∧ (∀ k, t.getG k = u.getG k)
      ∧ (∀ j, j < 64 → vget (vget t.me.v o.vd.toNat .zero) j 0 = if a.getLsbD j then
          (if mask.getLsbD j then (els[laneRank mask j]?).elim 0 (lane typ) else 0) else vget (vget u.me.v o.vd.toNat .zero) j 0)
      ∧ (∀ k, k ≠ o.vd.toNat → vget t.me.v k .zero = vget u.me.v k .zero)
      ∧ (els.length < n → t.me.mask 7 = firstLanes mask els.length) ∧ (els.length = n → t.me.m = u.me.m)
    (∀ pos, s.popBad p = some pos → exec (.vmov o) s = .next (s.trap 7 1 (BitVec.ofNat 64 (p * 2 ^ 48 + pos % 2 ^ 48))))
      ∧ (∀ w, s.popBad p = none → s.portBusy n p = some w → exec (.vmov o) s = .next (s.waits w))
      ∧ (b.bnd = false → s.popBad p = some 0)
      ∧ (b.bnd = true → b.kb = false → e.bad = false → e.dir = true → s.popBad p = some e.pos)
      ∧ (b.kb = false → e.fin = true → s.streamElems s.die s.tix b.ape n = (s, [], some .stop))
      ∧ (b.kb = false → e.fin = false → n ≤ e.held.length → s.streamElems s.die s.tix b.ape n = (s, e.held.take n, none))
      ∧ (s.popBad p = none → s.portBusy n p = none →
        (b.kb = false → ∀ u els g, s.streamElems s.die s.tix b.ape n = (u, els, g) → (g = none ∨ g = some .stop) →
            ((∀ x ∈ els, x.pois = false) → ∃ t, exec (.vmov o) s = .next t ∧ got u t (u.portApe p).typ els
              ∧ (t.myTile.ape b.ape).pos = (u.myTile.ape b.ape).pos + els.length
              ∧ (g = some .stop → (t.myTile.ape b.ape).fin = true))
            ∧ ((∃ j, j < 64 ∧ mask.getLsbD j = true ∧ (els[laneRank mask j]?).any (·.pois) = true) → ∃ (t : State) (v : Word), exec (.vmov o) s = .next (t.trap 6 1 v) ∧ v.toNat / 2 ^ 48 = p ∧ t.mem = u.mem))
          ∧ (b.kb = true → ∀ c, s.portCoach p = some c → (∀ x ∈ b.elems c n, x.pois = false) →
            ∃ t, exec (.vmov o) s = .next t ∧ got s t b.typ (b.elems c n)
              ∧ (t.port p).pos = b.pos + (b.elems c n).length ∧ ((b.elems c n).length < n → (t.port p).fin = true)))
  )
  ∧
  (
  ∀ (s : State) (o : VFmt) (a : Word) (p : Nat), LanesOn s o.gn o.gs a → o.sa = false → o.va.toNat < 24 → o.vd.toNat = 24 + p →
    s.regWait [o.va] (BitVec.allOnes 64) = none →
    let b := s.port p
    let e := s.portApe p
    let typ := s.portType p
    let sz := elemSize typ
    let code := fun j => pushCode typ s.hart.rnd (laneOf s o.va j)
    let keep := inLength (s.portLen p) (s.portAt p)
      ((pushPlan a o.pm).1.map fun x => ({ off := x.1, code := (code x.2).1, fl := (code x.2).2, pois := false } : PushElem))
    let used := if o.pm then ((List.range 64).filter fun j => a.getLsbD j).length else 64
    let pushed := fun (t : State) => exec (.vmov o) s = .next t ∧ t.pc = s.pc + 8 ∧ (∀ k, t.getG k = s.getG k) ∧ t.me.v = s.me.v
      ∧ t.me.m = s.me.m
    (∀ pos, s.pushBad p = some pos → exec (.vmov o) s = .next (s.trap 7 4 (BitVec.ofNat 64 (p * 2 ^ 48 + pos % 2 ^ 48))))
      ∧ (b.bnd = false → s.pushBad p = some 0)
      ∧ (b.bnd = true → p = 7 → s.pushBad p = some (s.portAt p))
      ∧ (b.bnd = true → p ≠ 7 → b.kb = false → e.bad = false → e.dir = false → s.pushBad p = some e.pos)
      ∧ (∀ w, s.pushBad p = none → s.pushBusy (if o.pm then laneRank a 64 else 64) 0 p = some w → exec (.vmov o) s = .next (s.waits w))
      ∧ (s.pushBad p = none → s.pushBusy (if o.pm then laneRank a 64 else 64) 0 p = none →
        (s.pushEnded p = true → ∃ t, pushed t ∧ t.mem = s.mem ∧ t.port p = b ∧ t.me.q6 = s.me.q6 ∧ t.portApe p = e)
          ∧ (s.pushEnded p = false → b.kb = true → ∃ t, pushed t ∧ t.mem = s.mem
            ∧ t.me.q6 = s.me.q6.map (fun c => c.pushed sz b.pos keep) ∧ (t.port p).pos = b.pos + used
            ∧ (t.port p).fin = decide (s.portLen p ≤ b.pos + used))
          ∧ (s.pushEnded p = false → b.kb = false → s.me.part = none → ∀ l, s.pushPlaces s.die s.tix b.ape e sz keep = .ok l →
            (∀ x ∈ l, ∃ q, x.2.2 = .ok q ∧ (q.mt = 1 ∨ q.mt = 3)) →
            let key := fun (x : PushElem × Nat × Chk) => match x.2.2 with | .ok q => q.key | _ => 0
            let covers := fun (x : PushElem × Nat × Chk) (k : Nat) => key x ≤ k ∧ k < key x + sz
            let byteOf := fun (x : PushElem × Nat × Chk) (k : Nat) => BitVec.ofNat 8 (x.1.code / 256 ^ (k - key x))
            ∃ t, pushed t ∧ (t.portApe p).pos = e.pos + used ∧ (t.portApe p).fin = decide (e.len ≤ e.pos + used)
              ∧ (∀ k, t.mem.byte k = s.mem.byte k ∨ ∃ x ∈ l, covers x k ∧ t.mem.byte k = byteOf x k)
              ∧ ∀ l1 x l2, l = l1 ++ x :: l2 → ∀ k, covers x k → (∀ y ∈ l2, ¬covers y k) → t.mem.byte k = byteOf x k))
  )

/-! The copy engine. -/

/-- R397-R403, R224: a copy command on an idle channel fills the channel with its record and runs, one of 2^40 bytes or more
traps CE with error 3, one on a running or paused channel waits, one on a channel in error traps CE with its error. CESTAT
reads a record word and with clr empties an ended channel's counts; CEABT makes the channel idle, and a record that waited for
the command (R66) goes on. Other channels stay. -/
def Obligations.CopyCommandResults : Prop :=
  ∀ (s : State) (o : CFmt), CtxOn s o.gn o.gs →
    let ch := o.imm.toNat / 2 ^ 24 % 4
    let old := s.myTile.chan ch
    let a := s.getG o.a
    let b := s.getG o.b
    let d := s.getG o.d
    let rest := fun (t : State) => ∀ k, k ≠ ch → t.myTile.chan k = s.myTile.chan k
    let r := fun (i : Instr) (n : Nat) (c : Chan) =>
      (old.state = .idle → n < 2 ^ 40 → ∃ t, exec i s = .next t ∧ MovedOn s t ∧ rest t
          ∧ t.myTile.chan ch = { c with
              sg := o.imm.toNat / 2 ^ 29 % 8, pe := o.imm.getLsbD 28, scope := o.imm.toNat / 2 ^ 26 % 4, state := .running
              inv := s.me.inv, slot := (s.regionAt s.die s.tix).getD 0 })
        ∧ (old.state = .idle → 2 ^ 40 ≤ n → exec i s = .next (s.trap 9 7 (BitVec.ofNat 64 (ch + 768))))
        ∧ (old.state = .running ∨ old.state = .paused → exec i s = .next (s.waits (.channel ch)))
        ∧ (old.state = .error → exec i s = .next (s.trap 9 7 (BitVec.ofNat 64 (ch + old.err % 256 * 256))))
    let ended := old.state = .error ∨ old.state = .idle
    r (.cecpy o) b.toNat { Chan.init with kind := .cpy, src := a, dst := d, p2 := b }
      ∧ r (.ce2d o) (b.toNat % 2 ^ 32 * (b.toNat / 2 ^ 32)) { Chan.init with kind := .twoD, src := a, dst := d, p2 := b, p3 := s.getG o.c }
      ∧ r (.cefill o) b.toNat { Chan.init with kind := .fill, dst := d, p2 := b, p3 := a }
      ∧ r (.cepg o) (b.toNat * (4096 * 2 ^ (o.imm.toNat % 8)))
          { Chan.init with kind := .pages, src := a, dst := d, p2 := b, p3 := BitVec.ofNat 64 (o.imm.toNat % 32) }
      ∧ (∃ t, exec (.cestat o) s = .next t ∧ Steps s t ∧ rest t ∧ (∀ k, k ≠ o.d → t.getG k = s.getG k)
          ∧ (o.d ≠ 0 → o.imm.toNat % 4 = 0 → bits (t.getG o.d) 39 0 = old.prog % 2 ^ 40
              ∧ bits (t.getG o.d) 49 48 = match old.state with | .idle => 0 | .running => 1 | .paused => 2 | .error => 3)
          ∧ (o.d ≠ 0 → o.imm.toNat % 4 = 1 → bits (t.getG o.d) 31 0 = min old.npois 0xFFFFFFFF
              ∧ bits (t.getG o.d) 39 32 = old.err % 256)
          ∧ (o.d ≠ 0 → o.imm.toNat % 4 = 2 → t.getG o.d = BitVec.ofNat 64 (old.fpois % 2 ^ 40))
          ∧ (o.imm.getLsbD 2 = true → ended → t.myTile.chan ch = { old with state := .idle, prog := 0, npois := 0, err := 0, fpois := 0 })
          ∧ (o.imm.getLsbD 2 = false ∨ ¬ended → t.myTile.chan ch = old))
      ∧ ∃ t, exec (.ceabt o) s = .next (t.settle s.die) ∧ MovedOn s t ∧ rest t ∧ t.myTile.chan ch = { old with state := .idle, pages := [] }

/-- R222, R223, R398-R401, R157: a running fill writes the bytes of its pattern up to the end of its 64-byte block and no
other byte, and advances by them; a copy, a two-dimensional copy, and a page copy whose list pages the channel holds write
there the bytes read of the source pieces that their rules name, and no other byte, poisoned where a source is, which is
counted; a refused write puts the channel in error; at its end the channel is idle and its post, where enabled, adds 1 to its
signal; then a record that waited for it goes on (R66). The ascending order of granules is the model's reading (entry 13). -/
def Obligations.CopyEventResults : Prop :=
  ∀ (s : State) (d t i : Nat) (p : Phys), s.arg = .tileIdx { die := d, tile := t, i := i } → i < 4 →
    let c := (s.tile d t).chan i
    let q := s.asReq (chanUnit d t i)
    let ea := (c.dst + BitVec.ofNat 64 c.prog).toNat
    let n := min (64 - ea % 64) (c.p2.toNat - c.prog)
    let page := fun j => ((c.pages.find? fun e => e.1 == j).map fun e => c.pageAddr e.2.1).getD 0
    let da := c.dstAt page
    let m := c.granule page
    let block := 64 - da % 64
    let at_ := fun (x : Word) => (x + BitVec.ofNat 64 c.prog).toNat
    let row := c.p2.toNat % 2 ^ 32
    let rowAt := fun (x w : Word) => (x + BitVec.ofNat 64 (c.prog / row) * (BitVec.ofNat 32 w.toNat).signExtend 64
      + BitVec.ofNat 64 (c.prog % row)).toNat
    let size := 4096 * 2 ^ (c.p3.toNat % 8)
    let j := c.prog / size
    let off := c.prog % size
    c.state = .running →
    (c.kind = .fill → c.prog < c.p2.toNat → s.sys.power.stopped = false → s.check q ea n .write = .ok p → (p.mt = 1 ∨ p.mt = 3) →
        ∃ u, exec .ceGranule s = .next u ∧ (u.tile d t).chan i = { c with prog := c.prog + n }
          ∧ ∀ k, u.mem.byte k =
              if p.key ≤ k ∧ k < p.key + n then BitVec.ofNat 8 (c.p3.toNat / 256 ^ ((ea + (k - p.key)) % 8)) else s.mem.byte k)
      ∧ (c.kind = .cpy → da = at_ c.dst ∧ m = min block (c.p2.toNat - c.prog) ∧ c.srcPieces page m = parts (at_ c.src) m)
      ∧ (c.kind = .twoD → da = rowAt c.dst (c.p3 >>> 32) ∧ m = min block (row - c.prog % row)
          ∧ c.srcPieces page m = parts (rowAt c.src c.p3) m)
      ∧ (c.kind = .pages → c.p3.getLsbD 3 = false → da = at_ c.dst ∧ m = min block (c.p2.toNat * size - c.prog)
          ∧ (off + m ≤ size → c.srcPieces page m = parts (page j + off) m)
          ∧ (size < off + m → c.srcPieces page m = parts (page j + off) (size - off) ++ parts (page (j + 1)) (m - (size - off))))
      ∧ (c.kind = .pages → c.p3.getLsbD 3 = true → da = page j + off ∧ m = min block (size - off)
          ∧ c.srcPieces page m = parts (at_ c.src) m)
      ∧ (c.kind = .cpy ∨ c.kind = .twoD ∨ c.kind = .pages → c.prog < c.total → s.sys.power.stopped = false →
          (∀ k ∈ c.pagesOf 1 ++ c.pagesOf m, c.pages.any (fun e => e.1 == k) = true) →
          ∀ v bs bad, s.readPieces (chanUnit d t i) (c.prog * 8 + 2) (c.srcPieces page m) = (v, .ok (bs, bad)) →
          v.check (v.asReq (chanUnit d t i)) da bs.length .write = .ok p → (p.mt = 1 ∨ p.mt = 3) →
          let old := (v.tile d t).chan i
          let pois := bad || c.listPoison m
          ∃ u, exec .ceGranule s = .next u ∧ ((u.tile d t).chan i).prog = old.prog + m ∧ ((u.tile d t).chan i).state = old.state
            ∧ ((u.tile d t).chan i).npois = (if pois = true then min (old.npois + 1) 0xFFFFFFFF else old.npois)
            ∧ (pois = true → u.poison.contains (p.key / 64) = true)
            ∧ ∀ k, u.mem.byte k = if p.key ≤ k ∧ k < p.key + bs.length then bs.getD (k - p.key) 0 else v.mem.byte k)
      ∧ (c.kind = .fill → c.prog < c.p2.toNat → s.sys.power.stopped = false → ∀ e, s.check q ea n .write = .refuse e →
          ∃ u : State, exec .ceGranule s = .next (u.settle d) ∧ u.mem = s.mem ∧ ((u.tile d t).chan i).state = .error ∧ ((u.tile d t).chan i).err = e
            ∧ ((u.tile d t).chan i).prog = c.prog)
      ∧ (c.total ≤ c.prog → exec .ceGranule s = .next (s.post 1 .ceComplete s.arg))
      ∧ (c.total ≤ c.prog → c.kind ≠ .shard → c.sg < 8 → ∃ u : State, exec .ceComplete s = .next (u.settle d) ∧ u.mem = s.mem
          ∧ (u.tile d t).chan i = { c with state := .idle, err := 0, pages := [] }
          ∧ (∀ k, k < 8 → vget (u.tile d t).sigs k 0 = if c.pe = true ∧ k = c.sg then vget (s.tile d t).sigs k 0 + 1 else vget (s.tile d t).sigs k 0))

/-! Coaches. -/

/-- R406, R409, R410, R412: KNEW allocates the outgoing buffer with the header of the rule, KNEW.c copies the arrived coach
into it; KHDR reads a header word, KSET writes the bits of the rule, KDROP releases the buffer and unbinds its port. A port
without a coach traps PORT with reason 1, a held outgoing buffer with reason 2; a route plane that changed traps VERSION.
R195, R413: KMRG takes the states of each query from scratch or the payload of q7 and writes their merge by R195, pad words 0,
to scratch or the payload of q6, changes no other byte of memory, and moves on. Scratch sections that R378 refuses trap, a
destination that overlaps a source traps ACCESS, a port without a coach or with too short a payload PORT, a poisoned source
POISON. -/
def Obligations.CoachAndStateMergeResults : Prop :=
  (
  ∀ (s : State) (o : CFmt), CtxOn s o.gn o.gs →
    let n := o.imm.toNat / 2 ^ 16 % 8
    let w := o.imm.toNat % 8
    let port := fun (p r : Nat) => (Host.Outcome.next (s.trap 7 0 (BitVec.ofNat 64 (2 ^ 63 + p * 2 ^ 48 + r))) : Res)
    let kb := fun (t : State) (typ : Nat) => t.port 6 = { bnd := true, kb := true, ape := 0, ncol := 0, typ := typ, pos := 0, fin := false }
    let h0 := s.getG o.a &&& 0x0FFFFFF00E2F807F
    let writable : Word := if w = 0 then 0x0FFFFFF00E2F807F else if w = 3 then 0x1FE00000
      else if w = 4 ∧ n ≠ 6 then 0xFFFFFFFF0000FFFF else BitVec.allOnes 64
    (s.me.rver ≠ s.myTile.rver → ∀ i ∈ [Instr.knew o, .knewC o, .ksend o, .kfwd o, .ksplit o], ∃ v, exec i s = .next (s.trap 8 0 v))
      ∧ (s.me.rver = s.myTile.rver → s.me.q6 = none →
          (∃ t c, exec (.knew o) s = .next t ∧ MovedOn s t ∧ t.me.q6 = some c ∧ t.me.q7 = s.me.q7 ∧ kb t (tagType (bits h0 6 4))
            ∧ c.h 0 = h0 ∧ c.h 4 = s.getG o.b ∧ c.pay = List.replicate ((s.getG o.b).toNat / 2 ^ 16 % 2 ^ 16) 0 ∧ c.pois = []
            ∧ c.h 3 = BitVec.ofNat 64 (s.sys.podcfg.toNat % 64 + s.die * 2 ^ 8 + s.tix * 2 ^ 10 + s.cix * 2 ^ 18)
            ∧ ∀ k, k ≠ 0 → k ≠ 3 → k ≠ 4 → c.h k = 0)
          ∧ (∀ c, s.me.q7 = some c → ∃ t, exec (.knewC o) s = .next t ∧ MovedOn s t ∧ t.me.q6 = some c ∧ t.me.q7 = some c ∧ kb t (tagType c.fmt))
          ∧ (s.me.q7 = none → exec (.knewC o) s = port 7 1))
      ∧ (s.me.rver = s.myTile.rver → s.me.q6 ≠ none → ∀ i ∈ [Instr.knew o, .knewC o], exec i s = port 6 2)
      ∧ (n = 6 ∨ n = 7 → s.portCoach n = none → ∀ i ∈ [Instr.khdr o, .kset o, .kdrop o], exec i s = port n 1)
      ∧ (n = 6 ∨ n = 7 → ∀ c, s.portCoach n = some c →
          exec (.khdr o) s = .next ((s.setG o.d (vget c.hdr w 0)).advance)
            ∧ (∃ t c1, exec (.kset o) s = .next t ∧ MovedOn s t ∧ t.portCoach n = some c1 ∧ t.portCoach (13 - n) = s.portCoach (13 - n)
                ∧ c1.pay = c.pay ∧ ∀ k, k < 8 → vget c1.hdr k 0 =
                    if k = w then (vget c.hdr k 0 &&& ~~~writable) ||| (s.getG o.a &&& writable) else vget c.hdr k 0)
            ∧ (n = 6 → s.myTile.pushing s.cix = true → exec (.kdrop o) s = .next (s.waits .pushes))
            ∧ (n = 7 ∨ s.myTile.pushing s.cix = false → ∃ t, exec (.kdrop o) s = .next t ∧ MovedOn s t ∧ t.portCoach n = none ∧ t.port n = .init
                ∧ t.portCoach (13 - n) = s.portCoach (13 - n)))
  )
  ∧
  (
  ∀ (s : State) (o : CFmt), CtxOn s o.gn o.gs →
    let q := o.imm.toNat % 32
    let d := 32 * (o.imm.toNat / 256 % 16)
    let n := 16 * q + 4 * q * d
    let skip := 2 * q * d
    let a : Section := { port := if o.imm.getLsbD 16 then some 7 else none, x := s.getG o.a, loc := 1 }
    let b : Section := { port := if o.imm.getLsbD 17 then some 7 else none, x := s.getG o.b, loc := 2 }
    let c : Section := { port := if o.imm.getLsbD 18 then some 6 else none, x := s.getG o.c, loc := 3 }
    let uses := ([a, b, c].filter fun e => e.port.isNone).map fun e => ({ x := e.x, align := 16, len := n, loc := e.loc } : ScratchUse)
    let dst := scratchKey s.die s.tix (c.x.toNat % 2 ^ 19)
    let bad := fun (e : Section) => e.port.bind fun k => match s.portCoach k with
      | none => some (k, 1)
      | some x => if x.plen < q * (6 * d + 16) then some (k, 5) else none
    let add := fun (x y : Lane) => ((addE (laneVal x) (laneVal y) 0).lane 0).1
    let fma := fun (x y z : Lane) => ((fmaE (laneVal x) (laneVal y) (laneVal z) false 0).lane 0).1
    let addX := fun (x y : Lane) => (add x y, residual (addE (laneVal x) (laneVal y) 0) (add x y) 0)
    let mulX := fun (x y : Lane) =>
      let v := fmaE (laneVal x) (laneVal y) (.zero false) false 0
      ((v.lane 0).1, residual v (v.lane 0).1 0)
    let ratio := fun (x m : Lane) => if laneVal x = .inf true then (0 : Lane)
      else (refLane (exp2Ref (laneVal ((addE (laneVal x) (laneVal m).flip 0).lane 0).1) s.hart.nbv) 0 0).1
    let merge := fun (x y : AttnState) =>
      let m := ((maxE (laneVal x.m) (laneVal y.m)).lane 0).1
      let a1 := ratio x.m m
      let a2 := ratio y.m m
      let h := mulX x.lh a1
      let g := mulX y.lh a2
      let k := addX h.1 g.1
      let r := addX k.1 (add (add (fma y.ll a2 (fma x.ll a1 h.2)) g.2) k.2)
      ({ m := m, lh := r.1, ll := r.2,
         o := (x.o.zip y.o).map fun e => fma e.1 a1 ((mulE (laneVal e.2) (laneVal a2)).lane 0).1 } : AttnState)
    (∀ t, s.scratchTrap uses = some t → exec (.kmrg o) s = .next t)
      ∧ (s.scratchTrap uses = none →
        (overlaps n c a = true ∨ overlaps n c b = true → exec (.kmrg o) s = .next (s.trap 4 3 c.x))
          ∧ (overlaps n c a = false → overlaps n c b = false →
            (∀ k r, [a, b, c].findSome? bad = some (k, r) →
                exec (.kmrg o) s = .next (s.trap 7 0 (BitVec.ofNat 64 (2 ^ 63 + k * 2 ^ 48 + r))))
              ∧ ([a, b, c].findSome? bad = none →
                (∀ t, s.sectionBytes a skip n = .error t → exec (.kmrg o) s = .next t)
                  ∧ (∀ xs t, s.sectionBytes a skip n = .ok xs → s.sectionBytes b skip n = .error t → exec (.kmrg o) s = .next t)
                  ∧ (∀ xs ys, s.sectionBytes a skip n = .ok xs → s.sectionBytes b skip n = .ok ys →
                    let out := statesLe (((statesOf xs q d).zip (statesOf ys q d)).map fun e => merge e.1 e.2)
                    out.length = n ∧ ∃ t, exec (.kmrg o) s = .next t ∧ t.pc = s.pc + 8 ∧ (∀ k, t.getG k = s.getG k)
                      ∧ (c.port = none → t.me.q6 = s.me.q6 ∧ ∀ k, t.mem.byte k =
                          if dst ≤ k ∧ k < dst + n then out.getD (k - dst) 0 else s.mem.byte k)
                      ∧ (c.port = some 6 → t.mem = s.mem ∧ ∀ x, s.me.q6 = some x → ∃ y, t.me.q6 = some y ∧ y.hdr = x.hdr
                        ∧ (y.pay.drop skip).take n = out ∧ y.pay.take skip = padTo skip x.pay)))))
  )

/-- R407, R411: KSEND, KFWD and KSPLIT put the coach, or each part of it, at the end of the tile's send queue with the
versions of the invocation, release its buffer and unbind its port; where pushes to q6 have not yet written it (R257), or the
queue has too little room, they wait; a coach that is malformed or that the route plane gives no stop traps PORT; a coach that
KFWD advances past its last stop is dropped and counted. That the checks come before the wait is the model's reading (entry
46). -/
def Obligations.CoachSendResults : Prop :=
  ∀ (s : State) (o : CFmt), CtxOn s o.gn o.gs → s.me.rver = s.myTile.rver →
    let n := o.imm.toNat / 2 ^ 16 % 8
    let k := o.imm.toNat % 16
    let port := fun (p r : Nat) => (Host.Outcome.next (s.trap 7 0 (BitVec.ofNat 64 (2 ^ 63 + p * 2 ^ 48 + r))) : Res)
    let sent := fun (i : Instr) (p : Nat) (es : List Entrant) =>
      (s.myTile.sendq.length + es.length ≤ 16 → ∃ t, exec i s = .next t ∧ MovedOn s t ∧ t.myTile.sendq = s.myTile.sendq ++ es
          ∧ t.portCoach p = none ∧ t.port p = .init ∧ t.portCoach (13 - p) = s.portCoach (13 - p))
        ∧ (16 < s.myTile.sendq.length + es.length → exec i s = .next (s.waits (.send es.length)))
    let goes := fun (i : Instr) (p : Nat) (c : Coach) =>
      (∀ e, s.toSend c = .ok e → sent i p [e] ∧ bits (e.coach.h 0) 10 7 = s.me.rver % 16 ∧ bits (e.coach.h 0) 14 11 = s.me.tver % 16)
        ∧ (c.malformed = true → exec i s = port p 3)
        ∧ (c.malformed = false → s.nextStop s.mySlot.heldRoutes c = none → exec i s = port p 4)
    (s.myTile.pushing s.cix = true → ∀ c, (s.me.q6 = some c → exec (.ksend o) s = .next (s.waits .pushes))
        ∧ (n = 6 ∨ n = 7 → s.portCoach n = some c → ∀ i ∈ [Instr.kfwd o, .ksplit o], exec i s = .next (s.waits .pushes)))
      ∧ (s.me.q6 = none → exec (.ksend o) s = port 6 1)
      ∧ (n = 6 ∨ n = 7 → s.portCoach n = none → exec (.kfwd o) s = port n 1 ∧ exec (.ksplit o) s = port n 1)
      ∧ (s.myTile.pushing s.cix = false → (∀ c, s.me.q6 = some c → goes (.ksend o) 6 (c.setF 0 35 28 0))
      ∧ (n = 6 ∨ n = 7 → ∀ c, s.portCoach n = some c →
          (o.imm.getLsbD 0 = true → goes (.kfwd o) n c)
            ∧ (o.imm.getLsbD 0 = false → (∀ c1, c.advance s.mySlot.heldRoutes = .on c1 → goes (.kfwd o) n c1)
                ∧ (c.advance s.mySlot.heldRoutes = .fault → exec (.kfwd o) s = port n 4)
                ∧ (c.advance s.mySlot.heldRoutes = .ends → ∃ t, exec (.kfwd o) s = .next t ∧ MovedOn s t ∧ t.portCoach n = none
                    ∧ t.myTile.sendq = s.myTile.sendq ∧ (s.die < 4 → bits (vget t.sys.kdrop s.die 0) 31 16 =
                        min (bits (vget s.sys.kdrop s.die 0) 31 16 + 1) 0xFFFF)))
            ∧ ∀ es : List Entrant, es.length = k →
                (∀ p, p < k → ∀ e, es[p]? = some e → s.toSend (c.part p k (bits (s.getG o.a) 15 0) (bits (s.getG o.b) 15 0)) = .ok e) →
                sent (.ksplit o) n es))

/-! Shards, stream contexts, speculation, launches. -/

/-- R415-R420, R414, R135, R275, R276: what the shard instructions write once their words are read: SHLK the place of a
position or its status, SHREF the old entry with the count raised, lowered or stuck, SHPIN the pin, both at this module or at
the home module of the entry, SHCPY a status or a copy, KVAPP the rows and the speculative count, KVCMT a status, the length,
the counts and the window's slots, or 6 where the length has changed since its first issue read it, and KVREJ the counts.
SHREF, SHPIN, KVAPP, KVCMT and KVREJ order the agent's earlier accesses before its later ones. A misaligned operand of SHCPY
traps with the number of its operand. That the words of SHCPY, KVAPP, KVCMT and KVREJ lie in this module, and what the
ordering covers, are the model's readings (entries 21, 23). -/
def Obligations.ShardResults : Prop :=
  ∀ (s u v : State) (o : CFmt) (ds : Desc) (e : Word), CtxOn s o.gn o.gs →
    let a := (s.getG o.a).toNat
    let b := (s.getG o.b).toNat
    let c := (s.getG o.c).toNat
    let sup := fun (x : Nat) => x / 2 ^ 60 = 4 → s.isSup = true
    let st := fun (t : State) (n : Nat) => (Host.Outcome.next ((t.setG o.d (BitVec.ofNat 64 n)).advance) : Res)
    let ord := fun (t : State) (n : Nat) => st (t.orderLate false) n
    let fill := bits e 52 45
    let spec := bits e 44 37
    let ref := bits e 60 53
    let n := o.imm.toNat % 32
    let p := b % 2 ^ 40
    let h := b / 2 ^ 48 % 256
    let ended := fun (t : State) (n : Nat) => ord (t.modMe fun x => { x with read := none }) n
    let release := fun (t : State) (x : Nat × Nat × Bool) =>
      let word := fun (ea : Nat) => match t.check t.req ea 8 .rmw with
        | .ok q => BitVec.ofNat 64 (t.rdFor t.req q 8)
        | _ => (0 : Word)
      if x.2.2 = true ∧ bits (word x.2.1) 52 45 + bits (word x.2.1) 44 37 ≠ 0
      then (t.putWord x.1 (word x.2.1)).putWord x.2.1 (setCounts (word x.1) 0 0)
      else t.putWord x.1 (setCounts (word x.1) 0 0)
    (s.getDesc a = .ok (u, none) → exec (.shlk o) s = st u (2 ^ 64 - 3) ∧ (sup c → exec (.kvapp o) s = ord u 5)
        ∧ exec (.kvcmt o) s = ended u 5 ∧ exec (.kvrej o) s = ord u (2 ^ 64 - 1))
      ∧ (s.getDesc a = .ok (u, some ds) →
          let d1 := { ds with len := u.me.read.getD ds.len }
          let w := u.modMe fun x => { x with read := some d1.len }
          let more := d1.len < b ∧ b < 2 ^ 40
          let lo := (d1.len - ds.wlen) / 128
          let slots := if ds.wlen = 0 then ([] : List (Nat × Nat × Bool)) else
            (List.range (ds.nh + 1)).flatMap fun i => (List.range (min ((b - ds.wlen) / 128) (lo + ds.cap) - lo)).map fun k =>
              (ds.parray + 8 * (i * ds.cap + (lo + k) % ds.cap), ds.tarray + 8 * i, k == 0)
          (ds.locate b c = .range → exec (.shlk o) s = st u (2 ^ 64 - 1))
            ∧ (ds.locate b c = .expired → exec (.shlk o) s = st u (2 ^ 64 - 2))
            ∧ (∀ ent off, ds.locate b c = .at_ ent off → exec (.shlk o) s = st u (ent % 2 ^ 57 + off * 2 ^ 57))
            ∧ (sup c → (ds.locate h p = .range → exec (.kvapp o) s = ord u 1)
              ∧ (ds.locate h p = .expired → exec (.kvapp o) s = ord u 2)
              ∧ (∀ ent off, ds.locate h p = .at_ ent off → (∀ off2, ds.locate h (p + n - 1) ≠ .at_ ent off2) →
                exec (.kvapp o) s = ord u 7)
              ∧ (∀ ent off off2 s2 s3 s4 s5 s6 src dst bs, ds.locate h p = .at_ ent off → ds.locate h (p + n - 1) = .at_ ent off2 →
                u.getWord 1 ent .read = .ok (v, e) → ref ≤ 1 → off = fill + spec →
                v.spots 3 .read ds.es true (sourceSpans (v.getG o.c) n (ds.dim * ds.es)) = .ok (s2, src) →
                s2.spots 1 .write 1 true (rowSpans (entAddr e) off n (ds.dim * ds.es)) = .ok (s3, dst) →
                s3.updatable [ent] = .ok s6 → s6.readSpots 3 src = .ok (s4, bs) →
                (∀ x ∈ dst, ∀ m va, x.2 ≠ .remote m va) → s5 = s4.writeSpots dst bs →
                exec (.kvapp o) s = ord (s5.putWord ent (setCounts e fill (spec + n))) 0)
              ∧ (∀ ent off off2, ds.locate h p = .at_ ent off → ds.locate h (p + n - 1) = .at_ ent off2 →
                u.getWord 1 ent .read = .ok (v, e) → (1 < ref → exec (.kvapp o) s = ord v 4)
                  ∧ (ref ≤ 1 → off ≠ fill + spec → exec (.kvapp o) s = ord v 3)))
            ∧ (b < d1.len ∨ 2 ^ 40 ≤ b → exec (.kvcmt o) s = ended w 1)
            ∧ (b = d1.len → b < 2 ^ 40 → exec (.kvcmt o) s = ended w 0)
            ∧ (more → w.touchedHeads d1 b (ds.nh + 1) 0 = .ok (v, none) → exec (.kvcmt o) s = ended v 3)
            ∧ (more → ∀ l s1, w.touchedHeads d1 b (ds.nh + 1) 0 = .ok (s1, some l) → s1.getWord 1 (a + 16) .rmw = .ok (v, e) →
                (e.toNat % 2 ^ 40 ≠ d1.len → exec (.kvcmt o) s = ended v 6)
                  ∧ (e.toNat % 2 ^ 40 = d1.len → ∀ s2, v.updatable (l.map (fun x => x.1) ++ slots.flatMap fun x => [x.1, x.2.1]) = .ok s2 →
                    exec (.kvcmt o) s = ended (slots.foldl release
                      (l.foldl (fun t x => t.putWord x.1 (setCounts x.2.2 (min 128 (b - 128 * x.2.1))
                        (bits x.2.2 52 45 + bits x.2.2 44 37 - min 128 (b - 128 * x.2.1)))) (s2.putWord (a + 16) (setBits e 39 0 b)))) 0))
            ∧ (∀ l t, u.specHeads ds (ds.nh + 1) 0 = .ok (v, l) → v.updatable (l.map fun x => x.1) = .ok t →
                exec (.kvrej o) s = ord (l.foldl (fun t x => t.putWord x.1 (setBits x.2 44 37 0)) t)
                  (l.foldl (fun k x => k + bits x.2 44 37) 0)))
      ∧ (s.getWord 1 a .rmw = .ok (u, e) →
          let put := fun (t : State) => (Host.Outcome.next (((t.orderLate false).setG o.d e).advance) : Res)
          (bit e 62 = true → exec (.shrefInc o) s = put (u.putWord a e) ∧ exec (.shrefDec o) s = put (u.putWord a e))
            ∧ (bit e 62 = false → ref < 255 → exec (.shrefInc o) s = put (u.putWord a (e + 0x0020000000000000)))
            ∧ (bit e 62 = false → 0 < ref → exec (.shrefDec o) s = put (u.putWord a (e - 0x0020000000000000)))
            ∧ (bit e 62 = false → ref = 255 → exec (.shrefInc o) s = put ((u.putWord a (e ||| 0xC000000000000000)).audit a))
            ∧ (bit e 62 = false → ref = 0 → exec (.shrefDec o) s = put ((u.putWord a (e ||| 0xC000000000000000)).audit a))
            ∧ exec (.shpin o) s = put (u.putWord a (if o.imm.getLsbD 0 = true ∨ bit e 62 = true then e ||| 0x8000000000000000
                else e &&& 0x7FFFFFFFFFFFFFFF)))
      ∧ (∀ m va, s.spot 1 a 8 8 .rmw false = .ok (u, .remote m va) →
          let asks := fun (op : RemoteOp) => (Host.Outcome.next (u.viaPod 1 a m va 8 op 0 0 [] fun r t =>
            ((t.orderLate false).setG o.d (BitVec.ofNat 64 (leVal r.data))).advance) : Res)
          exec (.shrefInc o) s = asks (.ref false) ∧ exec (.shrefDec o) s = asks (.ref true)
            ∧ exec (.shpin o) s = asks (.pin (o.imm.getLsbD 0)))
      ∧ (sup a → sup b → sup c →
          let ch := o.imm.toNat / 2 ^ 24 % 4
          let old := s.myTile.chan ch
          let busy := old.state = .running ∨ old.state = .paused
          let m := o.imm.toNat % 128
          (busy → exec (.shcpy o) s = .next (s.waits (.channel ch)))
            ∧ (¬busy → (a % 8 ≠ 0 → exec (.shcpy o) s = .next (s.trap 3 1 (s.getG o.a)))
              ∧ (a % 8 = 0 → b % 8 ≠ 0 → exec (.shcpy o) s = .next (s.trap 3 2 (s.getG o.b)))
              ∧ (a % 8 = 0 → b % 8 = 0 → c % 64 ≠ 0 → exec (.shcpy o) s = .next (s.trap 3 3 (s.getG o.c)))
              ∧ (a % 8 = 0 → b % 8 = 0 → c % 64 = 0 → old.state = .error → ∀ s1 s2 s3 pa pb pc,
                s.wordSpot 1 a .read = .ok (s1, pa) → s1.wordSpot 2 b .read = .ok (s2, pb) → s2.lineSpot 3 c = .ok (s3, pc) →
                exec (.shcpy o) s = .next (s3.trap 9 7 (BitVec.ofNat 64 (ch + old.err % 256 * 256))))
              ∧ (∀ e1, s.copyWords o = .ok (v, e1, e, none) → exec (.shcpy o) s = st v 5)
              ∧ ∀ e1, s.copyWords o = .ok (v, e1, e, some ds) →
                (bits e1 52 45 < m → exec (.shcpy o) s = st v 8)
                  ∧ (m ≤ bits e1 52 45 → 1 < ref → exec (.shcpy o) s = st v 4)
                  ∧ (m ≤ bits e1 52 45 → ref ≤ 1 → bit e 62 = true → exec (.shcpy o) s = st v 9)
                  ∧ (m ≤ bits e1 52 45 → ref ≤ 1 → bit e 62 = false → exec (.shcpy o) s =
                      .next ((v.startCommand o { Chan.init with
                        kind := .shard, src := BitVec.ofNat 64 (entAddr e1), dst := BitVec.ofNat 64 (entAddr e)
                        p2 := BitVec.ofNat 64 m, p3 := BitVec.ofNat 64 (ds.dim * ds.es), p4 := v.getG o.b }).setG o.d 0))))

/-- R79, R421: the instructions on stream contexts give g[d] the state before and what the touch met, the frame of a RESIDENT
entry, or the entry's word; a FREE index, one above nent, or a table out of use is refused, SCQRY reading an entry whether or
not the table is in use; SCLD waits while the entry is restored, and then takes the result of its wait; SCEV of a RESIDENT
entry without holds begins its eviction. R76, R79, R80: a write of SYS.STCCFG; a visit of the scanner evicts a silent entry
and goes on; a restore that has copied makes its entry RESIDENT with the backing bytes in its frame, an eviction EVICTED with
one more eviction counted. Corners that the rules leave open are the model's readings (entry 48). -/
def Obligations.StreamContextResults : Prop :=
  (
  ∀ (s : State) (o : CFmt), CtxOn s o.gn o.gs →
    let i := (s.getG o.a).toNat % 2 ^ 16
    let e := (s.box s.die).entry i
    let inUse := s.stcEn s.die = true ∧ i ≤ s.stcNent s.die
    let st := fun (t : State) (n : Nat) => (Host.Outcome.next ((t.setG o.d (BitVec.ofNat 64 n)).advance) : Res)
    let code := match e.state with | .free => 0 | .evicted => 1 | .restoring => 2 | .resident => 3 | .evicting => 4
    let fresh := ∀ v, s.hart.wait ≠ .loaded v
    (∀ v, s.hart.wait = .loaded v → exec (.scld o) s = st s v)
      ∧ (¬(inUse ∧ e.state ≠ .free) → (fresh → exec (.scld o) s = st s 0) ∧ (i ≤ s.stcNent s.die → exec (.sctch o) s = st s (code + 512)
          ∧ exec (.scev o) s = st s (code + 512)))
      ∧ (inUse → e.state = .resident →
          exec (.sctch o) s = st (s.modStc s.die i fun x => { x with last := s.sys.time }) 3
            ∧ (fresh → exec (.scld o) s = st (s.modStc s.die i fun x => { x with last := s.sys.time })
                (2 ^ 60 + s.die * 2 ^ 30 + e.frame % 128 * 2 ^ 23 + ((s.box s.die).stccfg.toNat % 64 + e.frame / 128) * 131072))
            ∧ (e.holds = 0 → exec (.scev o) s = st (s.evict s.die i) 3)
            ∧ (e.holds ≠ 0 → exec (.scev o) s = st s 259))
      ∧ (inUse → e.state = .restoring → exec (.sctch o) s = st s 2 ∧ (fresh → exec (.scld o) s = .next (s.waits (.stream i)))
          ∧ exec (.scev o) s = st s 258)
      ∧ (inUse → e.state = .evicted → e.want = false → ∀ f, s.freeFrame s.die = some f →
          exec (.sctch o) s = st (s.restore s.die i f) 1 ∧ (fresh → exec (.scld o) s = .next ((s.restore s.die i f).waits (.stream i))))
      ∧ (inUse → e.state = .evicted → e.want = false → s.freeFrame s.die = none → s.victim s.die = none →
          exec (.sctch o) s = st s 257 ∧ (fresh → exec (.scld o) s = st s 1))
      ∧ exec (.scqry o) s = .next ((s.setG o.d (if s.stcNent s.die < i then 0
            else e.word (o.imm.toNat % 4))).advance)
  )
  ∧
  (
  ∀ (s : State) (d i : Nat) (v : Word), (∀ w, ((s.box d).walker w).st ≠ .sct) →
    let e := (s.box d).entry i
    let nf := v.toNat / 2 ^ 8 % 64
    let n := (e.size + 1) * 4096
    let va := e.back.toNat % 2 ^ 57
    let dst := depotKey d (e.frame % 128) (((s.box d).stccfg.toNat % 64 + e.frame / 128) * 131072)
    let scan := (s.box d).scan
    (s.arg = .dieVal { die := d, v := v } →
        (nf = 0 ∨ 32 < nf ∨ 64 < v.toNat % 64 + nf ∨ (bit (s.box d).stccfg 28 = true ∧ bit v 28 = true) → exec .stccfgWrite s = .next s)
          ∧ (nf ≠ 0 → nf ≤ 32 → v.toNat % 64 + nf ≤ 64 → (bit (s.box d).stccfg 28 = false ∨ bit v 28 = false) →
              ∃ t, exec .stccfgWrite s = .next t ∧ (t.box d).stccfg = v &&& 0x1FFF3F3F ∧ (bit v 28 = false → t.mem = s.mem)))
      ∧ (s.arg = .dieRef { die := d } → s.stcEn d = true → ∃ t, exec .scanVisit s = .next t ∧ t.mem = s.mem
          ∧ (t.box d).scan = (if s.stcNent d ≤ scan then 0 else scan + 1)
          ∧ ((t.box d).entry scan).state = if s.silent ((s.box d).entry scan) then .evicting else ((s.box d).entry scan).state)
      ∧ (s.arg = .dieIdx { die := d, i := i } → e.state = .restoring → ∀ bs, s.readVa s.sys.svptbr true va n = some bs →
          ∃ t, exec .stcRestoreDone s = .next t ∧ ((t.box d).entry i).state = .resident ∧ ((t.box d).entry i).last = s.sys.time
            ∧ (∀ k, k < dst ∨ dst + bs.length ≤ k → t.mem.byte k = s.mem.byte k)
            ∧ ∀ k, k < bs.length → t.mem.byte (dst + k) = bs.getD k 0)
      ∧ (s.arg = .dieIdx { die := d, i := i } → e.state = .evicting → e.freeing = none → (∀ x ∈ (s.box d).stc, x.2.want = false) →
          ∀ s1, s.writeVa s.sys.svptbr true va (s.mem.bytes dst n) = some s1 →
          ∃ t, exec .stcEvictDone s = .next t ∧ t.mem = s1.mem ∧ ((t.box d).entry i).state = .evicted
            ∧ ((t.box d).entry i).evic = min (e.evic + 1) 0xFFFFFFFF)
  )

/-- R422, R423: SPACC counts the lanes accepted before the first that is not and tells whether one was not; SPRES draws from
the lanes' residuals, and waits for links that still write its sources. Neither changes anything but g[d] and the flags. -/
def Obligations.SpeculationResults : Prop :=
  ∀ (s : State) (o : CFmt), CtxOn s o.gn o.gs →
    let n := o.imm.toNat % 128
    let lane := fun (f : BitVec 5) j => laneVal (laneOf s f j)
    let ok := fun j =>
      let prod := (mulV (lane o.a j) (lane o.b j)).1
      lane o.a j ≠ .nan ∧ lane o.b j ≠ .nan ∧ lane o.c j ≠ .nan ∧ prod ≠ .nan ∧ (∀ g, lane o.b j ≠ .zero g) ∧ ltV false prod (lane o.c j) = true
    let rs := (List.range 64).map fun j => residualLane (laneOf s o.a j) (laneOf s o.b j)
    let draw := sampleLane (rs.map (·.1)) ((s.getG o.c).setWidth 32)
    (n ≤ 64 → ∃ t k, exec (.spacc o) s = .next t ∧ Steps s t ∧ (∀ r, r ≠ o.d → t.getG r = s.getG r)
        ∧ k ≤ n ∧ (∀ j, j < k → ok j) ∧ (k < n → ¬ok k)
        ∧ (o.d ≠ 0 → t.getG o.d = BitVec.ofNat 64 (k + if k < n then 256 else 0)))
      ∧ (o.a.toNat < 24 → o.b.toNat < 24 → s.regWait [o.a, o.b] (BitVec.allOnes 64) = none →
          ∃ t, exec (.spres o) s = .next t ∧ Steps s t ∧ (∀ r, r ≠ o.d → t.getG r = s.getG r)
            ∧ (o.d ≠ 0 → t.getG o.d = BitVec.ofNat 64 draw.1)
            ∧ t.hart.fflags = s.hart.fflags ||| rs.foldl (fun x r => x ||| r.2) draw.2)
      ∧ ∀ j, s.regWait [o.a, o.b] (BitVec.allOnes 64) = some j → exec (.spres o) s = .next (s.waits (.links (s.me.links.length - j)))

/-- R424, R425, R75: TRPUB publishes lanes of vb behind a ring's count and then the count, or refuses a malformed or full
ring; LAUNCH puts its record into a berth of the queue, or reports a queue that is not enabled or has no berth free. -/
def Obligations.PublishAndLaunchResults : Prop :=
  ∀ (s u : State) (o : CFmt) (x : Nat), CtxOn s o.gn o.gs →
    let k := o.imm.toNat % 128
    let ea := (s.getG o.a).toNat
    let c0 := x % 2 ^ 64
    let lsize := x / 2 ^ 64 % 32
    let seen := x / 2 ^ 128 % 2 ^ 64
    let bad := lsize < 4 ∨ 24 < lsize ∨ x / 2 ^ 69 % 2 ^ 59 ≠ 0 ∨ x / 2 ^ 192 % 2 ^ 320 ≠ 0
    let behind := (c0 + k + 2 ^ 64 - seen) % 2 ^ 64
    let st := fun (t : State) (n : Nat) => (Host.Outcome.next ((t.setG o.d (BitVec.ofNat 64 n)).advance) : Res)
    let d := if o.imm.getLsbD 10 = true then s.die else o.imm.toNat / 256 % 4
    let q := o.imm.toNat % 8
    (s.regWait [o.b] (maskOf fun i => i < k) = none → s.getLine ea = .ok (u, x) →
        (bad → exec (.trpub o) s = st u (2 ^ 64 - 2))
          ∧ (¬bad → 2 ^ lsize < behind → exec (.trpub o) s = st u (2 ^ 64 - 1))
          ∧ (¬bad → behind ≤ 2 ^ lsize → ∀ s1 s2 s3 ps p0 p1,
              u.spots 1 .write 4 false ((List.range k).map fun i => (ea + 64 + 4 * ((c0 + i) % 2 ^ lsize), 4)) = .ok (s1, ps) →
              s1.spot 1 ea 8 8 .write false = .ok (s2, p0) →
              s3 = s2.writeSpots ps ((List.range k).flatMap fun i => leOf 4 (laneOf s o.b i).toNat) →
              s3.check s3.req ea 8 .write = .ok p1 →
              exec (.trpub o) s = st ((s3.noteStore ea p1 8).wr p1 (leOf 8 (c0 + k))) (c0 + k)))
      ∧ (∀ s1 ps bs, s.spots 1 .read 64 false [(ea, 64)] = .ok (s1, ps) → s1.readSpots 1 ps = .ok (u, bs) →
          (u.qEnabled d q = false → exec (.launch o) s = st u 2)
            ∧ (u.qEnabled d q = true → 4 ≤ ((u.box d).queue q).berth.length → exec (.launch o) s = st u 1)
            ∧ (u.qEnabled d q = true → ((u.box d).queue q).berth.length < 4 → ∃ t r, exec (.launch o) s = .next t
                ∧ t.pc = u.pc + 8 ∧ (o.d ≠ 0 → t.getG o.d = 0) ∧ (∀ x, x ≠ o.d → t.getG x = u.getG x) ∧ (∀ i, i < 8 → vget r i 0 = BitVec.ofNat 64 (leVal ((bs.drop (8 * i)).take 8)))
                ∧ ((t.box d).queue q).berth = ((u.box d).queue q).berth ++ [r]))

/-! The system group, traps and privilege. -/

/-- R429, R430, R434: TIME reads SYS.TIME; WAITT moves on where its time has come, and parks where not, until WAITT_EXPIRY
finds it come; a BAR that does not complete its generation waits, the one that does lets every waiting context go on; HALT
moves on once its wait is over and waits before. -/
def Obligations.TimeAndBarrierResults : Prop :=
  ∀ (s : State) (o : CFmt),
    let t := s.getG o.a
    let id := o.imm.toNat % 16
    (GuardOn s o.gn o.gs → exec (.time o) s = .next ((s.setG o.d s.sys.time).advance))
      ∧ (GuardOn s o.gn o.gs → t.toNat ≤ s.sys.time.toNat → exec (.waitt o) s = .next s.advance)
      ∧ (GuardOn s o.gn o.gs → s.sys.time.toNat < t.toNat →
          ∃ u, exec (.waitt o) s = .next u ∧ u.pc = s.pc ∧ u.hart.wait = .time t ∧ u.mem = s.mem ∧ ∀ k, u.getG k = s.getG k)
      ∧ (∀ d k c, s.arg = .tileIdx { die := d, tile := k, i := c } → (s.ctx d k c).live = true → s.tileIssues d k = true →
          ∀ x, (s.ctx d k c).hart.wait = .time x → x.toNat ≤ s.sys.time.toNat → ∃ u, exec .waittExpiry s = .next u
            ∧ (u.ctx d k c).hart.wait = .run ∧ (u.ctx d k c).hart.pc = (s.ctx d k c).hart.pc + 8 ∧ u.mem = s.mem)
      ∧ (CtxOn s o.gn o.gs → ∀ i, s.mySlotIx = some i →
          let b := (s.slot s.die i).bars.get id .init
          let n := if b.count = 0 then o.imm.toNat / 2 ^ 16 % 1024 + 1 else b.n
          (b.count + 1 < n → ∃ u, exec (.bar o) s = .next u ∧ u.pc = s.pc ∧ u.hart.wait = .bar id ∧ u.mem = s.mem
              ∧ (u.slot s.die i).bars.get id .init = { count := b.count + 1, n := n, waiting := (s.tix, s.cix) :: b.waiting })
            ∧ (n ≤ b.count + 1 → b.waiting.Nodup → (s.tix, s.cix) ∉ b.waiting → ∃ u, exec (.bar o) s = .next u ∧ u.pc = s.pc + 8
              ∧ (u.slot s.die i).bars.get id .init = .init ∧ u.mem = s.mem
              ∧ u.me.late = s.me.late.map (fun e => { e with far := true })
              ∧ ∀ w ∈ b.waiting, (u.ctx s.die w.1 w.2).hart.wait = .run
                ∧ (u.ctx s.die w.1 w.2).hart.pc = (s.ctx s.die w.1 w.2).hart.pc + 8
                ∧ (u.ctx s.die w.1 w.2).late = (s.ctx s.die w.1 w.2).late.map fun e => { e with far := true }))
      ∧ (SupOn s o.gn o.gs → exec (.halt o) s =
          if (s.onCore = true ∧ s.sys.evpend = 0) ∨ (s.onCore = false ∧ s.mySlot.state = .armed) then .next (s.waits .halt)
          else .next s.advance)

/-- R121, R432, R433, R89: TLBI removes exactly the cached translations it names; TRGLD reads a record and changes the trigger
slot of an ARMED region's tile, with status 2 for a malformed record and 3 in another state; CFGLD reports 3 for a slot that a
walk owns, and else the load's result. Which translations are cached, and that TRGLD's record needs no alignment, are the
model's readings (entries 9, 49). -/
def Obligations.TranslationAndConfigurationResults : Prop :=
  ∀ (s : State) (o : CFmt), SupOn s o.gn o.gs →
    let frag := (s.getG o.a).toNat % 2 ^ 57 / 2 ^ 16
    let asid := (s.getG o.b).toNat % 2 ^ 16
    let st := fun (t : State) (n : Nat) => (Host.Outcome.next ((t.setG o.d (BitVec.ofNat 64 n)).advance) : Res)
    let r := fun (i : Instr) (f : TlbEntry → Bool) => ∃ t, exec i s = .next t ∧ MovedOn s t ∧ ∀ e, e ∈ t.tlb ↔ e ∈ s.tlb ∧ f e = false
    let d := o.imm.toNat / 256 % 4
    let i := o.imm.toNat % 16
    r (.tlbiAll o) (fun _ => true)
      ∧ r (.tlbiAsid o) (fun e => decide (e.asid = asid))
      ∧ r (.tlbiVa o) (fun e => decide (e.asid = asid) && decide ((if e.big then e.vpn else e.vpn / 16) = frag))
      ∧ r (.tlbiVall o) (fun e => decide ((if e.big then e.vpn else e.vpn / 16) = frag))
      ∧ ((s.slot d i).owner ≠ none → exec (.cfgld o) s = st s 3)
      ∧ ((s.slot d i).owner = none →
          (∀ t, s.loadConfig d i (s.getG o.a).toNat (o.imm.getLsbD 4) = .ok t →
              exec (.cfgld o) s = .next (((t.setG o.d 0).advance).settle d))
            ∧ (∀ n, n ≠ 259 → s.loadConfig d i (s.getG o.a).toNat (o.imm.getLsbD 4) = .status n → exec (.cfgld o) s = st s n)
            ∧ (s.loadConfig d i (s.getG o.a).toNat (o.imm.getLsbD 4) = .wait → exec (.cfgld o) s = .next (s.waits (.load d i))))
      ∧ (s.onCore = false → ∀ s1 u ps bs, s.spots 1 .read 1 false (spans 2 (s.getG o.a).toNat 16) = .ok (s1, ps) →
          s1.readSpots 1 ps = .ok (u, bs) →
          (trgOk (wordAt bs 0) (wordAt bs 8) = false → exec (.trgld o) s = st u 2)
            ∧ (trgOk (wordAt bs 0) (wordAt bs 8) = true → u.mySlot.state ≠ .armed → exec (.trgld o) s = st u 3)
            ∧ (trgOk (wordAt bs 0) (wordAt bs 8) = true → u.mySlot.state = .armed → ∃ t, exec (.trgld o) s = .next t
                ∧ t.pc = u.pc + 8 ∧ t.mem = u.mem ∧ (t.myTile.onego.getLsbD i) = false
                ∧ vget t.myTile.age i 1 = 0 ∧ vget t.myTile.promo i none = none
                ∧ ∀ k, k < 32 → vget t.myTile.trg k 0 = if k = 2 * i then wordAt bs 0 else if k = 2 * i + 1 then wordAt bs 8
                    else vget u.myTile.trg k 0))

/-- R58, R428, R277: CSRR gives g[d] the register, CSRW, CSRS and CSRC give it the old value and write; an unassigned number
traps ILLEGAL, and one of another group than CTX that application code may not use traps PRIV; the registers that settle wait
for the links. -/
def Obligations.ControlRegisterResults : Prop :=
  ∀ (s : State) (o : CFmt),
    let n := o.imm.toNat % 4096
    let x := s.getG o.a
    let all := fun (p : Instr → Prop) => p (.csrr o) ∧ p (.csrw o) ∧ p (.csrs o) ∧ p (.csrc o)
    let old := s.readCsr n
    let own := knownCsr n = true ∧ (s.onCore = true → n < 0x400 ∨ 0xC00 ≤ n)
    let may := s.isSup = true ∨ n < 0x400
    let settled := s.onCore = true ∨ s.me.links = []
    (¬own → all fun i => exec i s = .next (s.trap 1 0 s.ir))
      ∧ (own → ¬may → ∀ i ∈ [Instr.csrw o, .csrs o, .csrc o], exec i s = .next (s.trap 2 0 (BitVec.ofNat 64 n)))
      ∧ (own → ¬may → (n = 0x401 ∨ 0x800 ≤ n) → exec (.csrr o) s = .next (s.trap 2 0 (BitVec.ofNat 64 n)))
      ∧ (own → may → GuardOn s o.gn o.gs → settled →
          exec (.csrr o) s = .next ((s.setG o.d old).advance)
            ∧ exec (.csrw o) s = .next (((s.setG o.d old).advance).writeCsr n x x)
            ∧ exec (.csrs o) s = .next (((s.setG o.d old).advance).writeCsr n (old ||| x) x)
            ∧ exec (.csrc o) s = .next (((s.setG o.d old).advance).writeCsr n (old &&& ~~~x) 0)
            ∧ (n = 3 → old = BitVec.ofNat 64 s.hart.fflags.toNat ∧ ∃ t, exec (.csrw o) s = .next t ∧ t.hart.fflags = BitVec.ofNat 7 x.toNat)
            ∧ (n = 2 → ∃ t, exec (.csrw o) s = .next t ∧ t.hart.rnd = x.toNat % 4)
            ∧ (n = 0xA → old = s.hart.tval ∧ ∃ t, exec (.csrs o) s = .next t ∧ t.hart.tval = old ||| x)
            ∧ (n = 0xC44 → ∃ t, exec (.csrw o) s = .next t ∧ t.sys.svtvec = x &&& 0x01FFFFFFFFFFFFF8))
      ∧ (own → may → GuardOn s o.gn o.gs → s.onCore = false → s.me.links ≠ [] →
          ((n = 3 ∨ n = 0x11) → all fun i => exec i s = .next (s.waits .settle))
            ∧ ((n = 1 ∨ n = 2) → ∀ i ∈ [Instr.csrw o, .csrs o, .csrc o], exec i s = .next (s.waits .settle)))

/-- R283, R431, R271: CTXSV writes a 24,576-byte image whose words hold the next instruction's address and the general
registers; CTXLD takes its registers and the links that its image restores, and goes on at the image's program counter; an
image that is not valid traps ACCESS, links that cannot be restored trap CHAIN; both wait or trap where their area is refused.
The number of operand a, 1, in CTX.CAUSE.where of an ACCESS on the area is the model's reading of R276 (entry 32). The
contents of the opaque link records are the model's (entry 14). -/
def Obligations.SavedContextResults : Prop :=
  ∀ (s s1 : State) (o : CFmt) (ps : List ((Nat × Nat) × Place)), s.isSup = true → CtxOn s o.gn o.gs →
    (s.me.links = [] → s.areaSpots o .write = .ok (s1, ps) → ∃ img, exec (.ctxsv o) s = .next ((s1.writeSpots ps img).advance)
        ∧ img.length = 24576 ∧ wordAt img 0 = s1.pc + 8 ∧ bit (wordAt img 8) 16 = true
        ∧ ∀ n : BitVec 5, wordAt img (64 + 8 * n.toNat) = s1.getG n)
      ∧ (s.me.links ≠ [] → exec (.ctxsv o) s = .next (s.waits .settle))
      ∧ (∀ t, s.areaSpots o .read = .error t → exec (.ctxld o) s = .next t)
      ∧ ∀ u bs, s.areaSpots o .read = .ok (s1, ps) → s1.readSpots 1 ps = .ok (u, bs) →
          (bit (wordAt bs 8) 16 = false → exec (.ctxld o) s = .next (u.trap 4 1 (u.getG o.a)))
            ∧ (∀ k, bit (wordAt bs 8) 16 = true → linksOf (bs.drop 12288) = .error k →
                exec (.ctxld o) s = .next (u.trap 13 0 (BitVec.ofNat 64 k)))
            ∧ ∀ ls, bit (wordAt bs 8) 16 = true → linksOf (bs.drop 12288) = .ok ls →
                ∃ t, exec (.ctxld o) s = .next t ∧ t.mem = u.mem ∧ t.pc = BitVec.ofNat 64 ((wordAt bs 0).toNat / 8 * 8)
                  ∧ t.hart.wait = .run ∧ t.me.links = dropCut ls t.me.cut
                  ∧ (∀ n : BitVec 5, n ≠ 0 → t.getG n = wordAt bs (64 + 8 * n.toNat))
                  ∧ ∀ m, 1 ≤ m → m < 8 → t.me.mask m = wordAt bs (320 + 8 * m)

/-- R276-R280, R427: TRAP and BKPT take their trap. On a core the program counter, cause and value are saved and the handler
at SYS.SVTVEC runs, unless a trap is active: then the core stops and the supervisor is informed. In a context whose region
handles the code, the chain block is written, the chain is empty, and the region's handler runs; else the region freezes. -/
def Obligations.TrapEntry : Prop :=
  ∀ (s : State) (o : CFmt), GuardOn s o.gn o.gs →
    let saved := fun (h : Hart) (active : Bool) (code : Nat) (v : Word) =>
      h.epc = s.pc ∧ h.cause = { active := active, async := false, loc := 0, code := code } ∧ h.tval = v ∧ h.wait = .run
        ∧ h.g = s.hart.g ∧ h.fflags = s.hart.fflags
    let enters := fun (i : Instr) (code : Nat) (v : Word) =>
      (∀ n, s.cur = .core n → s.hart.cause.active = false → ∃ t, exec i s = .next t ∧ saved t.hart true code v ∧ t.pc = s.sys.svtvec
          ∧ t.mem = s.mem)
        ∧ (∀ n, s.cur = .core n → s.hart.cause.active = true → ∃ t, exec i s = .next t ∧ (t.core n).stopped = true
          ∧ (t.core n).running = false ∧ t.sys.evpend = min (s.sys.evpend + 1) 0xFFFFFFFF ∧ t.mem = s.mem)
        ∧ (∀ d k c j s1, s.cur = .ctx d k c → s.regionAt d k = some j → s.hart.cause.active = false →
            bit (s.slot d j).trapcfg (16 + code) = true →
            s.areaWriteSome d j ((s.slot d j).area k c + 12288) (chainBlock s.me.links s.me.cut) = (s1, true) →
            ∃ t, exec i s = .next t ∧ saved t.hart true code v ∧ t.me.links = [] ∧ t.mem = s1.mem
              ∧ t.pc = (s1.tile d k).code + BitVec.ofNat 64 (8 * ((s.slot d j).trapcfg.toNat % 2 ^ 16)))
        ∧ (∀ d k c j, s.cur = .ctx d k c → s.regionAt d k = some j → s.hart.cause.active = false →
            bit (s.slot d j).trapcfg (16 + code) = false → ∃ (s1 : State) (info : Word), exec i s = .next (s1.freeze d j info v .none)
              ∧ saved s1.hart false code v ∧ s1.pc = s.pc ∧ s1.mem = s.mem ∧ s1.slots = s.slots
              ∧ bit info 63 = true ∧ bits info 57 56 = d % 4 ∧ bits info 55 48 = k % 256 ∧ bits info 44 42 = c % 8 ∧ bits info 7 0 = code)
    enters (.trap o) 10 (o.imm.setWidth 64) ∧ enters (.bkpt o) 11 0

/-- R281: ERET without an active trap is ILLEGAL; on a core it goes to the saved program counter with no trap active; in a
context it waits for the links, then takes back the links of the chain block but for cut lanes, and goes on at the saved
program counter; a chain block of links that R272 refuses traps CHAIN with the link's index. -/
def Obligations.TrapReturn : Prop :=
  ∀ (s : State) (o : CFmt), GuardOn s o.gn o.gs →
    (s.hart.cause.active = false → exec (.eret o) s = .next (s.trap 1 0 s.ir))
      ∧ (∀ n, s.cur = .core n → s.hart.cause.active = true → ∃ t, exec (.eret o) s = .next t ∧ t.pc = s.hart.epc
          ∧ t.hart = { s.hart with pc := s.hart.epc, wait := .run, cause := { s.hart.cause with active := false } } ∧ t.mem = s.mem)
      ∧ (s.onCore = false → s.hart.cause.active = true → s.me.links ≠ [] → exec (.eret o) s = .next (s.waits .settle))
      ∧ ∀ d k c j blk, s.cur = .ctx d k c → s.hart.cause.active = true → s.me.links = [] → s.regionAt d k = some j →
          s.areaRead d j ((s.slot d j).area k c + 12288) 12288 = some blk → 
          (∀ i, linksOf blk = .error i → exec (.eret o) s = .next (s.chainTrap d k c j i)) ∧ ∀ ls, linksOf blk = .ok ls →
          ∃ t, exec (.eret o) s = .next t ∧ t.pc = s.hart.epc ∧ t.me.links = dropCut ls s.me.cut ∧ t.mem = s.mem
            ∧ t.hart = { s.hart with pc := s.hart.epc, wait := .run, cause := { s.hart.cause with active := false } }
            ∧ ∀ e ∈ t.me.latches, e.2.addr = s.hart.epc

/-- R304, R295: what a supervisor core may not run traps ILLEGAL there, whatever its guard; a guard other than 0 on a core is
ILLEGAL; a supervisor-level instruction at application level traps PRIV, whatever its guard. -/
def Obligations.IllegalAndPrivileged : Prop :=
  ∀ (s : State) (v : VFmt) (m : MFmt) (o : CFmt) (b : BFmt) (f : SFmt),
    (s.onCore = true → ∀ i ∈ [Instr.vadd v, .vsub v, .vmul v, .vfma v, .vfms v, .vnfma v, .vabs v, .vneg v, .vmax v, .vmin v, .vdiv v,
        .vrcp v, .vsqrt v, .vrsq v, .vexp2 v, .vlog2 v, .vscale v, .vcmp v, .vcmpt v, .vcut v, .vsettle v, .vcvt v, .vqnt v, .vdq v,
        .vsel v, .viadd v, .visub v, .vimul v, .vimin v, .vimax v, .vand v, .vor v, .vxor v, .vshl v, .vshr v, .vsra v, .vmov v,
        .vbcast v, .vext v, .vins v, .vperm v, .vrot v, .viota v, .vrsum v, .vrmax v, .vrarg v, .vtopk v, .vscan v, .mand v, .mor v,
        .mxor v, .mnot v, .mpop v, .mfirst v, .mset v, .vld v, .vst v, .vlds v, .vsts v, .vgth v, .vsct v, .vrng v, .mzero m, .mma m,
        .mmas m, .mrd m, .mrdq m, .mlda m, .mscl m, .mwait m, .apcfgM o, .apcfgR o, .apcfgPre o, .apdim o, .apstart o, .apstop o,
        .appos o, .apseek o, .qbind o, .qbindK o, .qbindU o, .qstat o, .cecpy o, .ce2d o, .cefill o, .cepg o, .cestat o, .ceabt o,
        .knew o, .knewC o, .ksend o, .kfwd o, .khdr o, .kset o, .kdrop o, .kmrg o, .ksplit o, .shlk o, .shrefInc o, .shrefDec o,
        .shpin o, .shcpy o, .kvapp o, .kvcmt o, .kvrej o, .sctch o, .scld o, .scev o, .scqry o, .spacc o, .spres o, .trpub o,
        .launch o, .bar o, .ctxsv o, .ctxld o, .trgld o, .bpt b, .bmk b, .pset b, .psetR b, .psetNz b, .ret b, .yield b, .waitp b,
        .sbar f, .sgpost f, .sgwait f], exec i s = .next (s.trap 1 0 s.ir))
      ∧ (s.onCore = true → f.gs ≠ 0 → ∀ i ∈ [Instr.nop f, .add f, .sub f, .addi f, .mul f, .mulh f, .mulhu f, .div f, .divu f, .rem f, .remu f, .and f, .or f, .xor
        f, .andn f, .andi f, .ori f, .xori f, .shl f, .shr f, .sra f, .shli f, .shri f, .srai f, .rotl f, .clz f, .ctz f,
        .popc f, .min f, .max f, .minu f, .maxu f, .slt f, .sltu f, .seq f, .slti f, .sel f, .movi f, .lih f, .extu f, .exts
        f, .ins f, .brev f, .bswap f, .ldb f, .ldbu f, .ldh f, .ldhu f, .ldw f, .ldwu f, .ldd f, .stb f, .sth f, .stw f, .std
        f, .ldq f, .stq f, .pref f, .cflush f, .cinv f, .aadd f, .aand f, .aor f, .axor f, .amin f, .amax f, .aminu f, .amaxu
        f, .aswap f, .acas f, .ldaq f, .strel f, .fence f], exec i s = .next (s.trap 1 0 s.ir))
      ∧ (s.onCore = true → b.gs ≠ 0 → ∀ i ∈ [Instr.br b, .beq b, .bne b, .blt b, .bge b, .bltu b, .bgeu b, .jal b, .jalr b, .loop b], exec i s = .next (s.trap 1 0 s.ir))
      ∧ (s.onCore = true → o.gs ≠ 0 → ∀ i ∈ [Instr.trap o, .bkpt o, .eret o, .csrr o, .csrw o, .csrs o, .csrc o, .time o, .waitt o, .tlbiAll o, .tlbiAsid o,
        .tlbiVa o, .tlbiVall o, .cfgld o, .halt o],
          exec i s = .next (s.trap 1 0 s.ir))
      ∧ (s.isSup = false → (∀ i ∈ [Instr.ctxsv o, .ctxld o, .tlbiAll o, .tlbiAsid o, .tlbiVa o, .tlbiVall o, .cfgld o, .trgld o, .halt o],
            exec i s = .next (s.trap 2 0 s.ir)) ∧ exec (.cinv f) s = .next (s.trap 2 0 s.ir))

/-! The machine as a whole. -/

/-- R23, R39, R45-R47, R53, R61, R76, R78, R102, R114, R115, R126, R128, R183, R184, R202, R226, R279, R282, R286, R434, R453:
the registers that a rule gives a reset value have it. -/
def Obligations.ResetValues : Prop :=
  let s := State.reset
  (s.sys.power.step = 0 ∧ s.sys.power.thr = 0 ∧ s.sys.boot.step = 0 ∧ s.sys.bootwalk = 0 ∧ s.sys.evpend = 0 ∧ s.sys.time = 0
      ∧ s.sys.timerate = 0 ∧ s.sys.ptp.state = 0 ∧ s.sys.podcfg = 0x000088B500010000 ∧ s.sys.podptbr = 0 ∧ s.sys.hotcfg = 0x708
      ∧ ∀ d, vget s.sys.kdrop d 0 = 0)
    ∧ (∀ d i, (s.slot d i).state = .empty ∧ (s.slot d i).whold = 20 ∧ (s.slot d i).grant = 0 ∧ (s.slot d i).trapcfg = 0
      ∧ (s.slot d i).trapinfo = 0 ∧ (s.slot d i).wdog = 0 ∧ (s.slot d i).siding = [])
    ∧ (∀ d, (s.box d).sbbase = 0 ∧ (s.box d).stccfg = 0 ∧ ∀ i, ((s.box d).entry i).state = .free)
    ∧ (∀ d t, (s.tile d t).pred = 1 ∧ ∀ k, vget (s.tile d t).sigs k 0 = 0)
    ∧ (∀ d n, (s.depot d n).cend = 128)

/-- The reset memory has the canonical form that MemoryFormKept says every step keeps, and reads 0 at every byte (the model's
choice where R50 gives no value before the first start: entry 7). -/
def Obligations.ResetMemoryForm : Prop :=
  State.reset.mem.wf ∧ ∀ k, State.reset.mem.byte k = 0

/-- R96, R275, R282, R292, R305: a step that lets an agent issue, where its WATCHDOG is not due, reads the 8 bytes at its
program counter, and runs the instruction they decode to from the state after the fetch; a word that decodes to none traps
ILLEGAL. An event that the script takes out of the agenda runs, with its operand, as the event it is (entry 3: the script is
the model's own). -/
def Obligations.StepRunsTheDecodedInstruction : Prop :=
  (∀ (s : State) (a : Agent) (r : List Choice), s.script = .issue a :: r →
    let u : State := { s.tick with script := r }
    let v := ({ u with cur := a }).modHartOf a fun h => { h with issue := u.steps, nissue := h.nissue + 1 }
    u.canIssue a = true →
    (u.overdue a = true → step s = exec .watchdog { u with arg := .agentRef { a := a } }) ∧ (u.overdue a = false →
    ∀ p, v.pc.toNat / 2 ^ 60 = 0 → v.check v.req v.pc.toNat 8 .fetch = .ok p → v.poisoned p = false →
      let w : Word := BitVec.ofNat 64 (v.rd p 8)
      let y : State := { v.touch v.req v.pc.toNat .fetch p with ir := w }
      let x := if y.hart.wait = .fetch then y.modHart fun h => { h with wait := .run } else y
      (∀ i, decodeWord w = .ok i → step s = exec i x) ∧ (∀ e, decodeWord w = .error e → step s = .next (x.trap 1 0 w))
        ∧ (v.sys.power.stopped = false → v.rd p 8 = leVal (v.mem.bytes (v.home p) 8))))
    ∧ ∀ (s : State) (k : Nat) (r : List Choice) (p : Pending), s.script = .event k :: r →
      let u : State := { s.tick with script := r }
      u.agenda[k]? = some p → p.ev.isEvent = true → p.arg.wf = true → u.takes p.ev p.arg = true →
      step s = exec p.ev { u with agenda := u.agenda.eraseIdx k, arg := p.arg }

/-- Words that the manual prints (13-18) decode to the instructions it prints them for, and the word of zeros to NOP (R292).
-/
def Obligations.PrintedWords : Prop :=
  decodeWord 0x4502_8800_0000_000C = .ok (.ldwu { gn := false, gs := 0, d := 5, a := 2, b := 0, scope := 0, ord := 0, imm := 12 })
    ∧ decodeWord 0x5003_8C0B_0000_0000 = .ok (.aadd { gn := false, gs := 0, d := 7, a := 3, b := 0, scope := 2, ord := 3, imm := 0 })
    ∧ decodeWord 0x2706_2C00_0000_0700 = .ok (.extu { gn := false, gs := 0, d := 12, a := 11, b := 0, scope := 0, ord := 0, imm := 0x700 })
    ∧ decodeWord 0x3201_8002_FFFF_FFFB = .ok (.bne { gn := false, gs := 0, a := 3, b := 0, aux := 0, hint := 2, off := 0xFFFFFFFB })
    ∧ decodeWord 0x6322_0704_0600_0000 = .ok (.vfma { gn := false, gs := 2, vd := 4, va := 1, vb := 24, vc := 4, typ := 0, prec := 6, rnd := 0, sat := false, pm := false, mkf := 0, sa := false, aux := 0, imm := 0 })
    ∧ decodeWord 0xA105_1A43_3044_0000 = .ok (.mma { gn := false, gs := 0, acc := 1, sa := 8, sb := 26, qa := false, qb := true, dirA := false, dirB := false, fmtA := 3, fmtB := 3, sp := 0, kc := 8, rows := 64, low := 0 })
    ∧ decodeWord 0xB803_1D00_5900_0000 = .ok (.cecpy { gn := false, gs := 0, d := 6, a := 7, b := 8, c := 0, imm := 0x59000000 })
    ∧ decodeWord 0xC600_0C85_0000_0210 = .ok (.kmrg { gn := false, gs := 0, d := 0, a := 3, b := 4, c := 5, imm := 0x210 })
    ∧ decodeWord 0xE202_8000_0000_0003 = .ok (.csrr { gn := false, gs := 0, d := 5, a := 0, b := 0, c := 0, imm := 3 })
    ∧ decodeWord 0 = .ok (.nop { gn := false, gs := 0, d := 0, a := 0, b := 0, scope := 0, ord := 0, imm := 0 })

/-- R292, R296-R305: every instruction decodes back from its word, whatever its fields, and a word that decodes is the word of
what it decodes to. -/
def Obligations.DecodeEncodeAgree : Prop :=
  (∀ i w, i.wf = true → encode i = some w → decodeWord w = .ok i) ∧ ∀ i w, decodeWord w = .ok i → encode i = some w

/-- The memory's canonical form is kept by every step. -/
def Obligations.MemoryFormKept : Prop :=
  ∀ (s t : State), s.mem.wf → step s = .next t → t.mem.wf

/-! The signal box, regions and units. -/

/-- R61-R67, R70, R72-R74, R287: what the signal box makes of its records, tails and register: a record is taken by a free
walker, which reads the first node of a GRAPH record's walk; the other kinds act on their slot or entry, or end BUSY; a stored
tail is taken, or disables its queue; a timetable entry that is due gives its launch or counts a miss. R61, R63, R74: a write
of SYS.SBBASE sets its fields; a stored tail of an enabled queue is taken, or disables the queue with OVERRUN; a timetable
entry that fires first of those due puts its record into a berth and counts a fire, or counts a miss, and takes its next time.
Parameter bits and corners are the model's readings (entries 25, 48). -/
def Obligations.SignalBoxResults : Prop :=
  (
  ∀ (s : State) (d w : Nat),
    let k := (s.box d).walker w
    let i := recIndex k.record
    let e := (s.box d).entry i
    let holds := fun (kind : Nat) => s.arg = .dieRef { die := d } ∧ s.heldRecord d kind = some w
    let done := fun (x : Instr) (status : Nat) => exec x s = .next (s.endRecord d w status)
    (s.arg = .dieRef { die := d } → 5 ≤ s.sys.boot.step → s.idleWalker d = some w → ∀ q r, s.recBad d r = false →
        let va := (vget r 1 0).toNat
        let due := fun (t : State) (x : Instr) => t.agenda.any (fun p => p.ev == x && p.arg == .dieIdx { die := d, i := w }) = true
        let node := fun (ws : List Word) => Vector.ofFn fun (j : Fin 4) => ws.getD j.val 0
        (recKind r = 0 → s.bestQueue d = some (q, .berth r) → ∀ ws x, s.boxWords va 4 = some ws → nodeEvent ((ws.getD 0 0).toNat % 16) = some x →
            ∃ t, exec .graph s = .next t ∧ (t.box d).walker w = { Walker.init with
                st := .run, record := r, queue := q, src := 1, index := ((s.box d).queue q).nberth, words := node ws }
              ∧ ((t.box d).queue q).berth = ((s.box d).queue q).berth.drop 1 ∧ ((t.box d).queue q).nrun = ((s.box d).queue q).nrun + 1
              ∧ due t x)
        ∧ (recKind r = 0 → s.bestQueue d = some (q, .ring (some r)) →
            let h := ((s.box d).queue q).head
            let u := (s.modQueue d q fun k => { k with head := h + 1, nrun := k.nrun + 1 }).putDesc d q 3 (h + 1)
            ∀ ws x, u.boxWords va 4 = some ws → nodeEvent ((ws.getD 0 0).toNat % 16) = some x →
            ∃ t, exec .graph s = .next t ∧ (t.box d).walker w = { Walker.init with
                st := .run, record := r, queue := q, src := 0, index := h.toNat, words := node ws }
              ∧ ((t.box d).queue q).head = h + 1 ∧ ((t.box d).queue q).nrun = ((s.box d).queue q).nrun + 1 ∧ due t x)
        ∧ (recKind r ≠ 0 → (s.bestQueue d = some (q, .berth r) → ∃ t, exec .graph s = .next t
            ∧ (t.box d).walker w = { Walker.init with st := .run, record := r, queue := q, src := 1, index := ((s.box d).queue q).nberth }
            ∧ ((t.box d).queue q).berth = ((s.box d).queue q).berth.drop 1 ∧ ((t.box d).queue q).nrun = ((s.box d).queue q).nrun + 1)
          ∧ (s.bestQueue d = some (q, .ring (some r)) → ∃ t, exec .graph s = .next t ∧ ((t.box d).walker w).record = r
            ∧ ((t.box d).walker w).st = .run ∧ ((t.box d).walker w).src = 0
            ∧ ((t.box d).queue q).head = ((s.box d).queue q).head + 1 ∧ ((t.box d).queue q).nrun = ((s.box d).queue q).nrun + 1)))
      ∧ (holds 1 → ((s.slot d i).state = .armed → exec .preempt s =
              .next (((s.modWalker d w fun x => { x with node := 1, st := .slot i }).quiesce d i).settle d))
          ∧ ((s.slot d i).state = .arming → exec .preempt s = .next (s.modWalker d w fun x => { x with node := 2, st := .slot i }))
          ∧ ((s.slot d i).state ≠ .armed → (s.slot d i).state ≠ .arming → done .preempt 3))
      ∧ (holds 2 → ((s.slot d i).state ≠ .preempted ∨ s.resumeBusy d i = true → done .resume 3)
          ∧ ((s.slot d i).state = .preempted → s.resumeBusy d i = false → ∃ u, exec .resume s = .next (State.settle u d)
              ∧ (u.slot d i).state = .restoring ∧ ((u.box d).walker w).st = .slot i ∧ u.mem = s.mem
              ∧ u.agenda.any (fun p => p.ev == .regionRestoreDone && p.arg == .dieIdx { die := d, i := i }) = true))
      ∧ (holds 3 → ((s.slot d i).owner = none → done .abort 3)
          ∧ ∀ v, (s.slot d i).owner = some v → ((s.box d).walker v).ending = none →
              (∀ j ∈ ((s.box d).walker v).owns, (s.slot d j).state ≠ .frozen) →
              exec .abort s = .next (((s.failWalk d v 9).settle d).endRecord d w 0))
      ∧ (holds 4 → (e.state ≠ .free → done .scset 3)
          ∧ (e.state = .free → k.holds = [] → ∃ t, exec .scset s = .next t ∧ ((t.box d).entry i).state = .evicted
              ∧ ((t.box d).entry i).back = vget k.record 1 0 ∧ ((t.box d).entry i).last = s.sys.time
              ∧ ((t.box d).entry i).size = (vget k.record 5 0).toNat % 32 ∧ ((t.box d).entry i).holds = 0))
      ∧ (holds 5 → (e.state = .free → done .scfree 0)
          ∧ (e.state = .restoring ∨ e.state = .evicting ∨ e.holds ≠ 0 → e.state ≠ .free → done .scfree 3)
          ∧ (e.state = .evicted → e.holds = 0 → e.want = false → k.holds = [] → ∃ t, exec .scfree s = .next t
              ∧ ((t.box d).entry i).state = .free)
          ∧ (e.state = .resident → e.holds = 0 → ∃ t, exec .scfree s = .next t ∧ ((t.box d).entry i).state = .evicting
              ∧ ((t.box d).entry i).freeing = some w))
      ∧ (holds 6 → ∀ ws rs, s.boxWords (vget k.record 1 0).toNat 8 = some ws →
          (ttOk ws = false → done .ttset 1)
            ∧ (ttOk ws = true → s.boxWords (ws.getD 2 0).toNat 8 = some rs → recKind (recordOf rs) = 0 → s.recBad d (recordOf rs) = false →
              ∃ t, exec .ttset s = .next t ∧ (t.box d).tt i = ttLoad ws (recordOf rs) s.sys.time.toNat))
      ∧ (holds 7 → ∀ s1, s.writeVa s.sys.svptbr true (vget k.record 1 0).toNat
            (wordsLe (if vget k.record 5 0 = 0 then (List.range 8).map e.word else ((s.box d).tt i).words)) = some s1 →
          exec .query s = .next (s1.endRecord d w 0))
  )
  ∧
  (
  ∀ (s : State) (d i : Nat) (v : Word),
    let k := (s.box d).queue i
    let va := (s.box d).sbbase.toNat / 2 ^ 12 % 2 ^ 45 * 4096 + 64 * i + 16
    let tail := fun (ws : List Word) => (ws.headD 0).toNat
    let e := (s.box d).tt i
    let q := (vget e.img 3 0).toNat % 8
    let can := ((s.box d).queue q).berth.length < 4 ∧ s.qEnabled d q = true ∧ s.sys.ptp.everLocked = true
    (s.arg = .dieVal { die := d, v := v } → ∃ t, exec .sbbaseWrite s = .next t ∧ (t.box d).sbbase = v &&& 0x01FFFFFFFFFFF0FF)
      ∧ (s.arg = .dieIdx { die := d, i := i } →
          (s.qEnabled d i = false ∨ s.boxWords va 1 = none → exec .tailStore s = .next s)
            ∧ (∀ ws, s.boxWords va 1 = some ws → s.qEnabled d i = true → k.head.toNat ≤ tail ws → tail ws - k.head.toNat ≤ 2 ^ k.lsize →
              ∃ t, exec .tailStore s = .next t ∧ (t.box d).queue i = { k with tail := BitVec.ofNat 64 (tail ws) } ∧ t.mem = s.mem)
            ∧ (∀ ws, s.boxWords va 1 = some ws → s.qEnabled d i = true →
              (tail ws < k.head.toNat ∨ 2 ^ k.lsize < tail ws - k.head.toNat) →
              ∃ t, exec .tailStore s = .next t ∧ ((t.box d).queue i).ok = false
                ∧ ((t.box d).queue i).err = BitVec.ofNat 64 (10 * 2 ^ 56 + k.head.toNat % 2 ^ 55))
            ∧ (∀ j, s.firstFire d = some j → j ≠ i → exec .timetableFire s = .next (s.postFire d i))
            ∧ (s.firstFire d = some i → e.en = true → e.next.toNat ≤ s.sys.time.toNat → can → ∃ t, exec .timetableFire s = .next t
                ∧ ((t.box d).queue q).berth = ((s.box d).queue q).berth ++ [e.record] ∧ ((t.box d).tt i).last = e.next
                ∧ ((t.box d).tt i).fires = min (e.fires + 1) 0xFFFFFFFF ∧ ((t.box d).tt i).misses = e.misses ∧ t.mem = s.mem)
            ∧ (s.firstFire d = some i → e.en = true → e.next.toNat ≤ s.sys.time.toNat → ¬can → ∃ t, exec .timetableFire s = .next t
                ∧ ((t.box d).queue q).berth = ((s.box d).queue q).berth
                ∧ ((t.box d).tt i).fires = e.fires ∧ ((t.box d).tt i).misses = min (e.misses + 1) 0xFFFFFFFF))
  )

/-- R68-R71: the nodes of a walk: END ends the record once its regions have drained; CFG, ARM, WAIT, REPEAT, SIGNAL, SCT and
DRAIN do what they name and the walk goes on; an ARM of an ARMED region, and a SIGNAL while copies run, wait (R66, R100); a
node with bits that its op does not name ends the walk BADNODE, one on a slot that another walk owns BUSY, an expired WAIT
TIMEOUT, a fifth REPEAT LIMIT. Slot bits of nodes without a slot, when SCT raises holds, and corners, are the model's (entries
25, 48, 57). -/
def Obligations.NodeResults : Prop :=
  ∀ (s : State) (d w : Nat), s.arg = .dieIdx { die := d, i := w } →
    let k := (s.box d).walker w
    let w0 := k.nw 0
    let i := w0.toNat / 2 ^ 8 % 16
    let hi := w0.toNat / 2 ^ 32
    let stands := fun (op : Nat) => k.st ≠ .idle ∧ k.ending = none ∧ recKind k.record = 0 ∧ w0.toNat % 16 = op
    let at_ := fun (op : Nat) => stands op ∧ nodeOk k = true
    let mine := fun (op : Nat) => ((s.slot d i).owner = none ∨ (s.slot d i).owner = some w)
      ∧ (k.boot = true → op ≠ 7 → i ∈ k.owns ∨ (s.slot d i).state = .empty)
    let own := s.own d w i k.boot
    let on := fun (t : State) => (Host.Outcome.next (t.goNode d w (k.node + 1)) : Res)
    let ends := fun (x : Instr) (status : Nat) => exec x s = .next (s.failWalk d w status)
    (∀ op x, (op, x) ∈ [(0, Instr.endNode), (1, .cfg), (2, .arm), (3, .waitNode), (4, .repeatNode), (5, .signal), (6, .sct), (7, .drain)] →
        stands op → nodeOk k = false → ends x 2)
      ∧ (∀ op x, (op, x) ∈ [(1, Instr.cfg), (2, .arm), (3, .waitNode), (7, .drain)] → at_ op → ¬mine op → ends x 3)
      ∧ (at_ 0 → (∀ j ∈ k.arms, (s.slot d j).state = .loaded ∨ (s.slot d j).state = .empty) → exec .endNode s = .next (s.endRecord d w 0))
      ∧ (at_ 1 → mine 1 → (∀ t, own.loadConfig d i (k.nw 1).toNat (bit w0 16) = .ok t →
            exec .cfg s = .next ((t.goNode d w (k.node + 1)).settle d))
          ∧ (∀ n, n ≠ 259 → own.loadConfig d i (k.nw 1).toNat (bit w0 16) = .status n → exec .cfg s = .next (own.failWalk d w n))
          ∧ (own.loadConfig d i (k.nw 1).toNat (bit w0 16) = .wait → exec .cfg s = .next (own.waitSlot d w i)))
      ∧ (at_ 2 → mine 2 → (k.begun = true → (s.slot d i).state = .armed → exec .arm s = on own)
          ∧ (k.begun = false → (s.slot d i).state = .loaded ∨ ((s.slot d i).state = .armed ∧ own.liveCtxs d i = []) →
            (own.armBusy d i = true → exec .arm s = .next (own.failWalk d w 3))
              ∧ (own.armBusy d i = false → (∀ s1, own.armBlocks d i (others i) = .error s1 → exec .arm s = .next (s1.failWalk d w 8))
                ∧ ∀ s1, own.armBlocks d i (others i) = .ok s1 →
                  ∃ u, exec .arm s = .next (State.settle u d) ∧ (u.slot d i).state = .arming ∧ (u.slot d i).count = 0
                    ∧ (u.slot d i).args = k.nw 1 ∧ (u.slot d i).target = (k.nw 3).toNat % 2 ^ 32 ∧ ((u.box d).walker w).begun = true))
          ∧ (k.begun = false → (s.slot d i).state = .armed → own.liveCtxs d i ≠ [] →
              exec .arm s = .next ((own.modSlot d i fun r => { r with rearm := true }).waitSlot d w i))
          ∧ (k.begun = false → (s.slot d i).state ≠ .armed → (s.slot d i).state ≠ .loaded →
              exec .arm s = .next (if (s.slot d i).rearm then own.waitSlot d w i else own.failWalk d w 3)))
      ∧ (at_ 3 → mine 3 → w0.toNat / 2 ^ 16 % 2 ^ 32 ≠ 0 →
          ((s.slot d i).target ≤ (s.slot d i).count → exec .waitNode s = on s)
            ∧ ((s.slot d i).count < (s.slot d i).target → (∀ j, k.st ≠ .count j) → ∃ u, exec .waitNode s = .next (State.retime u d w)
              ∧ ((u.box d).walker w).st = .count i
              ∧ ((u.box d).walker w).deadline = some (s.sys.clock + 1000 * (w0.toNat / 2 ^ 16 % 2 ^ 32))))
      ∧ (∀ j x, k.st = .count j → k.deadline = some x → k.ending = none →
          (x ≤ s.sys.clock → ends .waitTimeout 4) ∧ (s.sys.clock < x → exec .waitTimeout s = .next s))
      ∧ (at_ 4 → w0.toNat / 2 ^ 16 % 4096 < k.node → hi ≠ 0 →
          let n := ((k.reps.find? fun e => e.1 == k.node).map (·.2)).getD 0
          let rest := k.reps.filter fun e => e.1 != k.node
          (n < hi → rest.length < 4 → exec .repeatNode s =
              .next ((s.modWalker d w fun x => { x with reps := (k.node, n + 1) :: rest }).goNode d w (w0.toNat / 2 ^ 16 % 4096)))
            ∧ (n < hi → 4 ≤ rest.length → ends .repeatNode 7)
            ∧ (hi ≤ n → exec .repeatNode s = on (s.modWalker d w fun x => { x with reps := rest })))
      ∧ (at_ 5 → (k.nw 1).toNat % 8 = 0 → s.copiesLeft d k.arms = true → exec .signal s = .next (s.waitSlot d w (k.arms.headD 0)))
      ∧ (at_ 5 → (k.nw 1).toNat % 8 = 0 → s.copiesLeft d k.arms = false → bit w0 17 = false →
          (bit w0 16 = false → ∀ s1, s.boxStore (k.nw 1).toNat (k.nw 2) = some s1 → exec .signal s = on s1)
            ∧ (bit w0 16 = true → ∀ x r s1, s.boxWords (k.nw 1).toNat 1 = some (x :: r) → s.boxStore (k.nw 1).toNat (x + k.nw 2) = some s1 →
              exec .signal s = on s1))
      ∧ (at_ 6 → hi % 2 ^ 16 ≠ 0 → s.stcEn d = true → w0.toNat / 2 ^ 16 % 2 ^ 16 + hi % 2 ^ 16 ≤ s.stcNent d + 1 →
          ∀ s1 l, s.sctTouch d w (w0.toNat / 2 ^ 16 % 2 ^ 16) (bit w0 48) (k.st == .sct) (hi % 2 ^ 16) = (s1, l) →
          let all := ∀ j, j < hi % 2 ^ 16 → ((s1.box d).entry (w0.toNat / 2 ^ 16 % 2 ^ 16 + j)).state = .resident
          ((∀ t ∈ l, t = .resident) → all → exec .sct s = on s1)
            ∧ ((∀ t ∈ l, t = .resident ∨ t = .wait) → (.wait ∈ l ∨ ¬all) → exec .sct s = .next (s1.modWalker d w fun x => { x with st := .sct })))
      ∧ (at_ 7 → mine 7 → ((s.slot d i).state = .loaded ∨ (s.slot d i).state = .empty → exec .drain s = on s)
          ∧ ((s.slot d i).state = .armed → ∃ u, exec .drain s = .next u ∧ (u.slot d i).state = .draining ∧ ((u.box d).walker w).st = .slot i
              ∧ u.mem = s.mem))

/-- R92-R94, R98, R103-R106, R286, R460: the events of a region: a trigger slot that is first in the order fires into the
tile's lowest free context, at its handler; go arms an ARMING region; a drain, a quiescing, a save, a restore and an
acknowledged freeze end in the state of the rule. Where waiting walks look again, settle does that last. The order of a
cycle's work, and what a second ARM, a return, a restore and a quiescing with requests under way do, are the model's readings
(entries 24, 49, 51, 59). -/
def Obligations.RegionEventResults : Prop :=
  ∀ (s : State) (d i : Nat),
    let r := s.slot d i
    let named := s.arg = .dieIdx { die := d, i := i }
    let dest := fun (x : Instr) (st : RState) => ∃ u, exec x s = .next (State.settle u d) ∧ (u.slot d i).state = st
    (∀ t k c rest, s.arg = .tileRef { die := d, tile := t } → s.regionAt d t = some i → r.state = .armed → r.rearm = false →
        let u := s.trimQueues d i t
        let x := u.tile d t
        x.order ((List.range 16).filter x.readyGuard) = k :: rest → x.freeCtx = some c →
        ∃ v, exec .triggerFire s = .next v ∧ (v.ctx d t c).live = true ∧ (v.ctx d t c).cls = k ∧ (v.ctx d t c).hart.wait = .run
          ∧ (v.ctx d t c).links = [] ∧ (v.ctx d t c).hart.pc = x.code + 8 * BitVec.ofNat 64 ((vget x.trg (2 * k + 1) 0).toNat % 2 ^ 16))
      ∧ (named → r.state = .arming → r.forced = false → r.resuming = false → r.siding = [] → dest .go .armed)
      ∧ (named → r.state = .arming → r.forced = true → exec .go s = .next ((s.forceDrain d i).settle d))
      ∧ (named → r.state = .draining → s.liveCtxs d i = [] →
          let u := s.finishMatrix d i
          (u.matrixLeft d i = false ∨ (r.forced = true ∧ u.replyLeft d i = false) → dest .drainDone .loaded)
            ∧ (u.matrixLeft d i = true → (r.forced = false ∨ u.replyLeft d i = true) → exec .drainDone s = .next (u.post 100 .drainDone s.arg)))
      ∧ (named → r.state = .draining → s.liveCtxs d i ≠ [] → exec .drainDone s = .next s)
      ∧ (named → r.state = .quiescing →
          let u := (((s.abandonUnsent d i).finishMatrix d i).finishPushes d i).abandonUnsent d i
          (u.replyLeft d i = false →
              exec .quiesceDone s = .next (((((u.keepMatrix d i).boundary d i false).sideQueues d i).save d i).settle d))
            ∧ (u.replyLeft d i = true → exec .quiesceDone s = .next (u.post 100 .quiesceDone s.arg)))
      ∧ (named → r.state = .saving → dest .saveDone .preempted)
      ∧ (named → r.state = .restoring → r.blocks = [] → r.saved = [] → r.siding = [] → dest .regionRestoreDone .arming)
      ∧ (∀ v, s.arg = .slotVal { die := d, slot := i, v := v } →
          (bit v 63 = false ∨ bit r.trapinfo 63 = false → exec .trapinfoAck s = .next s)
            ∧ (bit v 63 = true → bit r.trapinfo 63 = true → r.state = .frozen → r.sfault ≠ .saving → r.freezing = false →
              ∃ u, exec .trapinfoAck s = .next (State.settle u d) ∧ (u.slot d i).state = .preempted ∧ bit (u.slot d i).trapinfo 63 = false))

/-- R123-R127, R229, R282, R202, R326, R288: a walk made again ends a withholding or leaves it with its new fault; a
withholding that lasts its time is recorded and pre-empts the region; a watchdog takes its trap; in an ARMED region a
generator's element goes to its APE and a malformed generator stops; the writes of the registers take their fields; an error
that ECC does not correct poisons its granule. When a generator starts and stops, and how ECC errors come, are the model's
readings (entries 35, 51). -/
def Obligations.UnitEventResults : Prop :=
  ∀ (s : State) (d t c : Nat) (v : Word),
    (∀ u w, s.arg = .unitRef u → (s.withheld.find? fun w => w.u == u) = some w →
        let r := s.slot u.die w.slot
        (s.sys.clock < w.next → ∃ x, exec .rewalk s = .next x ∧ x.mem = s.mem ∧ x.withheld = s.withheld)
          ∧ (w.next ≤ s.sys.clock → ∀ lv n, s.translate r.ptbr r.boot w.acc (w.va % 2 ^ 57) = .error (lv, n) →
            ∃ x, exec .rewalk s = .next x ∧ x.mem = s.mem
            ∧ x.withheld = s.withheld.map fun y => if y.u = u then { y with level := lv, code := n, next := s.sys.clock + 2000 } else y)
          ∧ (w.next ≤ s.sys.clock → ∀ l, s.translate r.ptbr r.boot w.acc (w.va % 2 ^ 57) = .ok l → ∃ x, exec .rewalk s = .next x ∧ x.mem = s.mem
            ∧ (∀ y ∈ x.withheld, y.u ≠ u) ∧ (u.kind = .ape → ((x.tile u.die u.tile).ape u.i).wh = false))
          ∧ (r.state = .armed → r.boot = false → r.freezing = false → w.since + r.tw ≤ s.sys.clock → u.die < 4 → u.tile < 128 →
            ∃ x, exec .withholdTimeout s = .next (State.settle x u.die) ∧ (x.slot u.die w.slot).state = .quiescing
              ∧ bit (x.slot u.die w.slot).finfo 63 = true ∧ x.life.timeouts = min (s.life.timeouts + 1) (2 ^ 64 - 1))
          ∧ (r.state = .armed → s.sys.clock < w.since + r.tw →
            exec .withholdTimeout s = .next (s.post (w.since + r.tw - s.sys.clock) .withholdTimeout s.arg)))
      ∧ (∀ n, s.arg = .agentRef { a := .core n } → (s.core n).running = true → (s.core n).wlim ≠ 0 → (s.core n).wdone = false →
          (s.core n).wstart + 1000 * (s.core n).wlim ≤ s.sys.clock → (s.core n).hart.cause.active = false →
          ∃ x, exec .watchdog s = .next x ∧ x.cur = s.cur ∧ x.mem = s.mem ∧ (x.core n).hart.pc = s.sys.svtvec
            ∧ (x.core n).hart.epc = (s.core n).hart.pc ∧ (x.core n).hart.cause = { active := true, async := true, loc := 0, code := 12 }
            ∧ (x.core n).hart.tval = BitVec.ofNat 64 ((s.sys.clock - (s.core n).wstart) / 1000))
      ∧ (∀ i, s.arg = .agentRef { a := .ctx d t c } → s.regionAt d t = some i → (s.ctx d t c).live = true →
          (s.ctx d t c).wdogDone = false → (s.slot d i).wdog ≠ 0 → ((s.slot d i).state = .armed ∨ (s.slot d i).state = .draining) →
          (s.ctx d t c).fired + 1000 * (s.slot d i).wdog ≤ (s.slot d i).active s.sys.clock →
          ∃ x : State, exec .watchdog s = .next { x.trap 12 0 (BitVec.ofNat 64 (((s.slot d i).active s.sys.clock - (s.ctx d t c).fired) / 1000)) with cur := s.cur }
            ∧ x.cur = .ctx d t c ∧ (x.ctx d t c).wdogDone = true ∧ x.mem = s.mem)
      ∧ (∀ n k i, s.arg = .dieIdx2 { die := d, depot := n, gen := k } → s.regionAt d (depotTile n) = some i →
          ((s.slot d i).state ≠ .armed → exec .generatorElement s = .next s) ∧ ((s.slot d i).state = .armed →
          let g := (s.depot d n).gens.get k .init
          let e := bits (g.w 0) 11 8
          let off := (elementAddr (fun j => g.w (2 + j)) (bits (g.w 0) 7 6) 0 (BitVec.ofNat 64 (bits (g.w 1) 22 0)) g.n).toNat
          let lo := (if g.line then (s.depot d n).fend else (s.depot d n).pend) * 65536
          let hi := if g.line then 2 ^ 23 else (s.depot d n).fend * 65536
          g.on = true → (g.bad = false → s.genTarget d n i g = some t → s.genMatches d n k t g = true → bits (g.w 6) 47 0 ≠ 0 →
              ((s.tile d t).ape e).fed.length < 256 → lo ≤ off → off + elemSize g.typ ≤ hi → s.pinned d off = false →
              ∃ u el, exec .generatorElement s = .next u ∧ ((u.tile d t).ape e).fed = ((s.tile d t).ape e).fed ++ [el]
                ∧ (s.sys.power.stopped = false → el.code = leVal (s.mem.bytes (depotKey d n off) (elemSize g.typ))) ∧ (u.depot d n).gens.get k .init = g.stepped
                ∧ u.mem = s.mem)
            ∧ (g.bad = true → d < 4 → n < 128 → ∃ u, exec .generatorElement s = .next u ∧ (u.depot d n).gens.get k .init = .init
                ∧ bit (u.slot d i).finfo 63 = true ∧ u.mem = s.mem)))
      ∧ (∀ i, s.arg = .slotVal { die := d, slot := i, v := v } → ∃ u, exec .wholdWrite s = .next u ∧ u.mem = s.mem
          ∧ (u.slot d i).whold = if v.toNat % 2 ^ 16 = 0 then (s.slot d i).whold else v.toNat % 2 ^ 16)
      ∧ (s.arg = .tileVal { die := d, tile := t, v := v } → ∃ u, exec .tilePredWrite s = .next u ∧ u.mem = s.mem
          ∧ (u.tile d t).pred = (v.setWidth 8 &&& 0xFE) ||| 1)
      ∧ (s.arg = .coreVal { core := c, v := v } → ∃ u, exec .svwdogWrite s = .next u ∧ (u.core c).wlim = v.toNat % 2 ^ 32
          ∧ (u.core c).wstart = s.sys.clock ∧ (u.core c).wdone = false ∧ u.mem = s.mem)
      ∧ ∀ k, s.arg = .eccIn { key := k, fixed := false, stuck := none, coach := none } → ∃ u, exec .eccError s = .next u ∧ u.mem = s.mem ∧ k / 64 ∈ u.poison
          ∧ (∀ g, g ≠ k / 64 → (g ∈ u.poison ↔ g ∈ s.poison)) ∧ u.sys.evpend = min (s.sys.evpend + 1) 0xFFFFFFFF

/-- R178-R197, R290: a hop moves a coach that is first at its stop to the next stop where a berth is free there, and drops one
whose header is poisoned; a delivery puts it into its arrival queue, or counts the loss where no region holds the tile; a
control coach records its exit iteration; a merge unit holds a part that came early; a contribution joins its slot, a slot
closes at its deadline, and the junction siding gives up its coaches. How berths, exits and planes are told apart is the
model's reading (entries 22, 44). -/
def Obligations.CoachEventResults : Prop :=
  ∀ (s : State) (x : Transit) (d k : Nat),
    let here := s.arg = .idxRef { i := x.id }
    let off := fun (u : State) => u.transit = s.transit.filter fun y => y.id != x.id
    let there := s.transit.find? (fun t => t.id == x.id) = some x
    let at_ := fun (act : Nat) => here ∧ there ∧ x.stop = x.exit ∧ x.tried = false ∧ codeAct x.code = act
      ∧ s.atStop (hereOf x.loop x.stop) x.code = true ∧ s.blocked x = false
    let c := x.coach.atHome (s.routesOf (s.planeAt (.tile d k) x.plane x.coach))
    let aq := codeAq x.code
    let next := if x.up then (x.stop + 1) % x.loop.size else (x.stop + x.loop.size - 1) % x.loop.size
    let part := fun (u : MergeUnit) => x.coach.iter = u.iter ∧ x.coach.partNo = u.part
    (here → x.id < 2 ^ 32 → there → x.coach.hbad = false → s.first x = false → exec .coachHop s = .next (s.postHop x.id))
      ∧ (here → x.id < 2 ^ 32 → there → x.coach.hbad = true → x.loop ≠ .pod → exec .coachHop s =
          .next ({ s with transit := s.transit.filter fun y => y.id != x.id }.dropBad (hereOf x.loop x.stop)))
      ∧ (here → x.id < 2 ^ 32 → there → x.coach.hbad = false → s.first x = true → x.loop ≠ .pod → x.stop ≠ x.exit →
        (s.berthed x.loop next x.up < 2 → ∃ u, exec .coachHop s = .next u ∧ u.mem = s.mem
            ∧ ∃ y, u.transit.find? (fun t => t.id == x.id) = some y ∧ y.stop = next ∧ y.tried = false ∧ y.loop = x.loop ∧ y.up = x.up
              ∧ bits (y.coach.h 0) 35 28 = min (bits (x.coach.h 0) 35 28 + 1) 255 ∧ y.coach.pay = x.coach.pay)
          ∧ (2 ≤ s.berthed x.loop next x.up → exec .coachHop s = .next (s.postHop x.id)))
      ∧ (at_ 0 → hereOf x.loop x.stop = .tile d k → codeTee x.code = false →
          (∀ i, s.admission d k x.coach = .queue i → s.queueRoom d k aq x.coach = true → ∃ u, exec .coachDelivery s = .next u ∧ off u
              ∧ u.mem = s.mem ∧ vget (u.tile d k).arr aq [] = vget (s.tile d k).arr aq [] ++ [c])
            ∧ (s.admission d k x.coach = .noreg → d < 4 → ∃ u, exec .coachDelivery s = .next u ∧ off u
              ∧ bits (vget u.sys.kdrop d 0) 47 32 = min (bits (vget s.sys.kdrop d 0) 47 32 + 1) 0xFFFF)
            ∧ (∀ i, s.admission d k x.coach = .queue i → s.queueRoom d k aq x.coach = false → exec .coachDelivery s = .next (s.passBy x))
            ∧ (∀ i, s.admission d k x.coach = .control i → ∃ u, exec .loopexit s = .next u ∧ off u ∧ (u.slot d i).xv = true
              ∧ (u.slot d i).x = if (s.slot d i).xv then min (s.slot d i).x x.coach.iter else x.coach.iter))
      ∧ (at_ 2 → let j := (hereOf x.loop x.stop).num
          (bit (x.coach.h 0) 21 = false → exec .merge s = .next (s.passOn x))
            ∧ (∀ u, bit (x.coach.h 0) 21 = true → ((s.junc j).mrg.find? fun m => m.mid == bits (x.coach.h 4) 63 48) = some u → ¬part u →
              (u.held.length < 32 → ∃ t m, exec .merge s = .next t ∧ off t ∧ m ∈ (t.junc j).mrg
                ∧ m = { u with held := u.held ++ [{ coach := x.coach, code := x.code, plane := x.plane }] })
                ∧ (32 ≤ u.held.length → exec .merge s = .next (s.passBy x))))
      ∧ (at_ 1 → let j := (hereOf x.loop x.stop).num
          (x.coach.contributes = false → exec .reduce s = .next (s.passOn x))
            ∧ (∀ r, x.coach.contributes = true → x.coach.redBad = false → (s.junc j).slotOf x.coach.redId = some r → r.closing = false →
              r.op = x.coach.redOp → r.n = x.coach.plen → r.want = x.coach.h 6 → bit r.got x.coach.redWho = false →
              r.got ||| BitVec.ofNat 64 (2 ^ x.coach.redWho) ≠ r.want →
              ∃ u, exec .reduce s = .next u ∧ off u ∧ u.mem = s.mem ∧ (u.junc j).slotOf x.coach.redId =
                some { r with got := r.got ||| BitVec.ofNat 64 (2 ^ x.coach.redWho), terms := r.terms ++ [x.coach] }))
      ∧ (s.arg = .juncIdx { j := d, i := k } →
          (∀ r, (s.junc d).slotOf k = some r → r.closing = false → r.deadline ≤ s.sys.clock →
              exec .reduceDeadline s = .next (s.closeRed d k 1))
            ∧ (∀ r, (s.junc d).slotOf k = some r → r.closing = false → s.sys.clock < r.deadline →
              exec .reduceDeadline s = .next (s.post (r.deadline - s.sys.clock) .reduceDeadline s.arg))
            ∧ ∃ u, exec .junctionSidingTimeout s = .next u
              ∧ (u.junc d).side = (s.junc d).side.filter fun w => !(w.coach.redId == k && decide (w.deadline ≤ s.sys.clock)))
      ∧ ∀ w, s.arg = .idxRef { i := d } → (s.junc d).side = [w] →
          (∀ u, s.takeRed d w.coach w.plane = some u → exec .junctionSidingRelease s = .next (u.modJunc d fun j => { j with side := [] }))
            ∧ (s.takeRed d w.coach w.plane = none → ∃ u, exec .junctionSidingRelease s = .next u ∧ (u.junc d).side = [w])

/-! The ports, and the module's registers and starts. -/

/-- R25, R27-R33: host operations on a connected QP whose port is up, each in sequence: the requests that R29 and R31 turn
away, the bytes a WRITE or SEND leaves, the old value an atomic answers, the receive queue that a SEND or WRITE with immediate
needs, and a CNP; a message out of sequence; a frame too long, whatever its QP; a READ that the firmware posts, held back
while its priority is paused, and the answers of the host. On any other QP nothing happens. The sequence numbers of whole
messages are the model's choice (log entry 18). The order of the checks, which frames a pause holds back, and the firmware's
part are the model's readings (entries 5, 18, 50). -/
def Obligations.HostOperationResults : Prop :=
  ∀ (s : State) (q : Nat),
    let x := s.qp q
    let live := x.conn = true ∧ (s.portOfNet x.port).up = true
    let ready := live ∧ x.err = false
    let seen := fun (n psn : Nat) => s.modQp q fun y => { y with epsn := (psn + packetsOf x.mtu n) % 2 ^ 24, nakSent := false }
    let next := fun (p : PktIn) => p.qp = q ∧ p.ce = false ∧ p.frame ≤ 9216 ∧ seqDiff p.psn x.epsn = 0
    (∀ o, s.arg = .cmIn o → (s.portOfNet o.port).up = true → (o.mtu = 1024 ∨ o.mtu = 2048 ∨ o.mtu = 4096) →
        ((s.qp o.qp).conn = true → (s.qp o.qp).port = o.port) →
        ∃ t, exec .cmRequest s = .next t ∧ t.mem = s.mem ∧ (t.qp o.qp).conn = true ∧ (t.qp o.qp).err = false ∧ (t.qp o.qp).port = o.port
          ∧ (t.qp o.qp).mtu = o.mtu ∧ t.outbox = s.outbox ++ [.cm o.port o.qp])
      ∧ (∀ p, s.arg = .fwNet (.post q p) → p.op = .read → ready →
          let e : Posted := { psn := x.spsn, pkts := packetsOf x.mtu p.n, req := p, data := [], held := false }
          (s.pausedQp x = false → ∃ t, exec .cmRequest s = .next t ∧ t.mem = s.mem ∧ (t.qp q).posted = x.posted ++ [e]
              ∧ (t.qp q).spsn = (x.spsn + e.pkts) % 2 ^ 24 ∧ t.outbox = s.outbox ++ [.request q e])
            ∧ (s.pausedQp x = true → (∀ y ∈ x.posted, y.psn ≠ x.spsn) → ∃ t, exec .cmRequest s = .next t ∧ t.mem = s.mem
              ∧ (t.qp q).posted = x.posted ++ [{ e with held := true }] ∧ t.outbox = s.outbox))
      ∧ (∀ psn r ce n, s.arg = .fwNet (.reply q psn r ce n) → live →
          (9216 < n → exec .cmRequest s = .next (s.dropFrame x.port))
            ∧ (n ≤ 9216 → x.err = false → exec .cmRequest s = .next ((s.sendCnp q ce).takeReply q psn r)))
      ∧ (∀ p prio, s.arg = .fwNet (.pause p prio true) → (s.portOfNet p).up = true →
          (s.portOfNet p).pfc = some prio → ∃ t, exec .cmRequest s = .next t ∧ t.mem = s.mem ∧ (t.portOfNet p).paused = true
            ∧ t.outbox = s.outbox)
      ∧ (∀ o, s.arg = .hostWr o → o.qp = q → o.frame ≤ 9216 → ¬ready → ∀ i ∈ [Instr.hostSend, .hostWrite, .hostWriteImm], exec i s = .next s)
      ∧ (∀ o, s.arg = .hostWr o → o.qp = q → 9216 < o.frame → ∀ i ∈ [Instr.hostSend, .hostWrite, .hostWriteImm],
          (live → exec i s = .next (s.dropFrame x.port))
            ∧ (x.conn = false → (s.portOfNet o.port).up = true → exec i s = .next (s.dropFrame o.port)))
      ∧ (∀ o, s.arg = .hostWr o → o.qp = q → o.ce = false → o.frame ≤ 9216 → ready →
          let ahead := seqDiff o.psn x.epsn
          ∀ i ∈ [Instr.hostSend, .hostWrite, .hostWriteImm],
            (2 ^ 23 ≤ ahead → exec i s = .next (s.answer q .ack))
              ∧ (0 < ahead → ahead < 2 ^ 23 → x.nakSent = true → exec i s = .next s)
              ∧ (0 < ahead → ahead < 2 ^ 23 → x.nakSent = false → ∃ t, exec i s = .next t ∧ t.mem = s.mem
                  ∧ t.outbox = s.outbox ++ [.host q (.nakSeq x.epsn)] ∧ (t.qp q).nakSent = true ∧ (t.qp q).err = false))
      ∧ (∀ o, s.arg = .hostWr o → next (pktOfWr o) → ready →
          let va := o.va.toNat
          let n := o.data.length
          let u := seen n o.psn
          (2 ^ 31 < n → exec .hostWrite s = .next (u.nak q .nakInvalid))
            ∧ (n ≤ 2 ^ 31 → s.mrOf o.rkey va n (·.wr) = none → exec .hostWrite s = .next (u.hostFault q va))
            ∧ (n ≤ 2 ^ 31 → ∀ m s1, s.mrOf o.rkey va n (·.wr) = some m →
                u.hostWrite (mrRoot m o.rkey) false (pieces va n) o.data = (s1, none) →
                exec .hostWrite s = .next (s1.answer q .ack)
                  ∧ ∀ b r, x.recv = b :: r → ∃ t, exec .hostWriteImm s = .next t ∧ t.mem = s1.mem ∧ (t.qp q).recv = r
                      ∧ t.outbox = s1.outbox ++ [.deliver q b.1 n (some o.imm) false, .host q .ack])
            ∧ (n ≤ 2 ^ 31 → ∀ m s1 f, s.mrOf o.rkey va n (·.wr) = some m →
                u.hostWrite (mrRoot m o.rkey) false (pieces va n) o.data = (s1, some f) → exec .hostWrite s = .next (s1.hostFault q f))
            ∧ (x.recv = [] → ∀ i ∈ [Instr.hostSend, .hostWriteImm], ∃ t, exec i s = .next t ∧ t.mem = s.mem
                ∧ t.outbox = s.outbox ++ [.host q (.rnr x.timer)] ∧ (t.qp q).epsn = x.epsn)
            ∧ (n ≤ 2 ^ 31 → ∀ b r s1, x.recv = b :: r →
                u.hostWrite s.sys.svptbr true (pieces b.1.toNat (min b.2 n)) (o.data.take b.2) = (s1, none) →
                ∃ t, exec .hostSend s = .next t ∧ t.mem = s1.mem ∧ (t.qp q).recv = r ∧ ((t.qp q).err = true ↔ (b.2 < n ∨ (s1.qp q).err = true))
                  ∧ t.outbox = s1.outbox ++ [.deliver q b.1 (min b.2 n) none (decide (b.2 < n)),
                      .host q (if b.2 < n then .nakInvalid else .ack)]))
      ∧ (∀ o, s.arg = .hostRd o → next (pktOfRd o) → ready →
          let va := o.va.toNat
          let u := seen o.len o.psn
          (64 ≤ o.ahead ∨ 2 ^ 31 < o.len → exec .hostRead s = .next (u.nak q .nakInvalid))
            ∧ (o.ahead < 64 → o.len ≤ 2 ^ 31 → s.mrOf o.rkey va o.len (·.rd) = none → exec .hostRead s = .next (u.hostFault q va))
            ∧ (o.ahead < 64 → o.len ≤ 2 ^ 31 → ∀ m s1 bs e, s.mrOf o.rkey va o.len (·.rd) = some m →
                u.hostRead (mrRoot m o.rkey) false (pieces va o.len) = (s1, bs, e) →
              exec .hostRead s = .next (match e with
                | .done => s1.answer q (.data bs)
                | .fault f => s1.hostFault q f
                | .poison f =>
                  let n := (f - va) / x.mtu * x.mtu
                  ((if n = 0 then s1 else s1.answer q (.data (bs.take n))).nak q .nakOp).inform 2 (BitVec.ofNat 64 f))))
      ∧ (∀ o, s.arg = .hostAt o → next (pktOfAt o) → ready →
          let va := o.va.toNat
          let u := seen 0 o.psn
          (64 ≤ o.ahead → ∀ i ∈ [Instr.fetchAdd, .cmpSwap], exec i s = .next (u.nak q .nakInvalid))
            ∧ (o.ahead < 64 → s.mrOf o.rkey va 8 (·.at_) = none → ∀ i ∈ [Instr.fetchAdd, .cmpSwap], exec i s = .next (u.hostFault q va))
            ∧ ∀ m, o.ahead < 64 → s.mrOf o.rkey va 8 (·.at_) = some m →
              (va % 8 ≠ 0 → ∀ i ∈ [Instr.fetchAdd, .cmpSwap], exec i s = .next (u.nak q .nakInvalid))
                ∧ ∀ l, va % 8 = 0 → u.translate (mrRoot m o.rkey) false .rmw va = .ok l →
                  let p : Phys := { key := l.page + va % 4096, mt := l.mt }
                  let old := BitVec.ofNat 64 (u.rd p 8)
                  let h := u.hot (hostReq (mrRoot m o.rkey)) .rmw p va
                  let keep := fun (t : State) => t.modQp q fun y => { y with saved := ((o.psn, old) :: y.saved).take 64 }
                  u.poisoned p = false →
                  exec .fetchAdd s = .next ((keep (h.wr p (leOf 8 (old + o.x).toNat))).answer q (.old old))
                    ∧ exec .cmpSwap s = .next ((keep (if old = o.x then h.wr p (leOf 8 o.y.toNat) else h)).answer q (.old old)))
      ∧ (∀ o, s.arg = .pktIn o → next o → ready → exec .hostInvalidOpcode s = .next ((seen 0 o.psn).nak q .nakInvalid))
      ∧ (s.arg = .idxRef { i := q } → ready →
          ∃ t, exec .cnpReceived s = .next t ∧ t.mem = s.mem ∧ (t.qp q).rate = Config.dcqcn x.dcq x.rate)

/-- R25, R26, R34-R41: a frame too long is dropped and counted, a bad one answered by a nak besides; a good one acknowledges,
and a data frame that comes in order is delivered; the timers of a link; a request of another module, or its reply, at this
gateway; a port that goes down or comes up; and the writes of SYS.PODCFG that take effect. Sequence numbers, retrains, replays
at a port's change and the way of a reply are the model's (entries 18, 45). -/
def Obligations.PodLinkResults : Prop :=
  ∀ (s : State),
    (∀ f, s.arg = .frameIn f → (s.portOfNet (4 + f.port)).up = true → f.etype.toNat = bits s.sys.podcfg 47 32 → f.etype ≠ 0x88F7 →
        bit s.sys.podcfg 31 = true →
        let down := decide (f.port < 4)
        let left := (s.net.link down).replay.dropWhile fun g => decide (seqDiff (bits f.w0 63 40) (bits g.w0 39 16) < 2 ^ 23)
        let fits := frameSize f ≤ 4130
        (4130 < frameSize f → ∀ i ∈ [Instr.loopDataFrame, .loopAckFrame, .loopNakFrame], exec i s = .next (s.dropFrame (4 + f.port)))
          ∧ (fits → s.badFrame down f = true → ∀ i ∈ [Instr.loopDataFrame, .loopAckFrame, .loopNakFrame], ∃ t g, exec i s = .next t ∧ t.mem = s.mem
            ∧ (t.portOfNet (4 + f.port)).dropped = (s.portOfNet (4 + f.port)).dropped + 1 ∧ t.outbox = s.outbox ++ [.frame down g]
            ∧ bits g.w0 3 0 = 2)
          ∧ (fits → s.badFrame down f = false → bits f.w0 3 0 = 1 → ∃ t, exec .loopAckFrame s = .next t ∧ t.mem = s.mem
              ∧ (t.net.link down).replay = left ∧ (t.net.link down).credit = (s.net.link down).credit + bits f.w1 31 16)
          ∧ (fits → s.badFrame down f = false → bits f.w0 3 0 = 2 → (left = [] → exec .loopNakFrame s = .next (s.takeAck down f))
              ∧ (left ≠ [] → (s.net.link down).replays < 8 → ∃ t, exec .loopNakFrame s = .next t ∧ t.mem = s.mem
                ∧ (t.net.link down).replay = left ∧ t.outbox.length = s.outbox.length + left.length))
          ∧ (fits → s.badFrame down f = false → bits f.w0 3 0 = 0 → (s.net.link down).early = [] → bits f.w0 39 16 = (s.net.link down).rseq →
              ∃ t, exec .loopDataFrame s = .next t ∧ t.mem = s.mem ∧ (t.net.link down).rseq = (bits f.w0 39 16 + 1) % 2 ^ 24
                ∧ (t.net.link down).early = [] ∧ (t.net.link down).unacked = true ∧ (t.net.link down).replay = left))
      ∧ (∀ d, s.arg = .dirRef { down := d } →
          let l := s.net.link d
          (l.unacked = true → s.podUp d = true → ∃ t f, exec .ackTimer s = .next t ∧ t.mem = s.mem ∧ t.outbox = s.outbox ++ [.frame d f]
              ∧ bits f.w0 3 0 = 1 ∧ bits f.w0 63 40 = (l.rseq + 2 ^ 24 - 1) % 2 ^ 24 ∧ (t.net.link d).unacked = false)
            ∧ (l.unacked = true → s.podUp d = false → exec .ackTimer s = .next (s.post 1000 .ackTimer s.arg))
            ∧ (l.unacked = false → exec .ackTimer s = .next s)
            ∧ (l.replay = [] → exec .replayTimeout s = .next s)
            ∧ (l.replay ≠ [] → s.sys.clock < l.sentAt + 20000 →
                exec .replayTimeout s = .next (s.post (l.sentAt + 20000 - s.sys.clock) .replayTimeout s.arg))
            ∧ (l.replay ≠ [] → l.sentAt + 20000 ≤ s.sys.clock → s.podUp d = true → l.replays < 8 → ∃ t, exec .replayTimeout s = .next t
                ∧ t.mem = s.mem ∧ t.outbox.length = s.outbox.length + l.replay.length ∧ (t.net.link d).replay = l.replay
                ∧ (t.net.link d).replays = l.replays + 1 ∧ (t.net.link d).sentAt = s.sys.clock))
      ∧ (∀ r, s.arg = .remoteReq r →
          (bit s.sys.podcfg 31 = false → exec .remoteRequest s = .next s)
            ∧ (bit s.sys.podcfg 31 = true → r.dst ≠ s.module → exec .remoteRequest s = .next (s.routeRemote r))
            ∧ (bit s.sys.podcfg 31 = true → r.dst = s.module → r.reply = true → (∃ e ∈ s.net.asked, e.id = r.id) →
                (∀ g ∈ s.net.got, g.id ≠ r.id) → ∃ t, exec .remoteRequest s = .next t ∧ t.mem = s.mem ∧ t.net.got = s.net.got ++ [r])
            ∧ (bit s.sys.podcfg 31 = true → r.dst = s.module → r.reply = false →
                (s.places s.sys.podptbr false (remoteAcc r.op) (r.va % 2 ^ 48) (max r.n 1) = none →
                    exec .remoteRequest s = .next (s.routeRemote (s.replyTo r false [] none)))
                  ∧ ∀ ps, s.places s.sys.podptbr false (remoteAcc r.op) (r.va % 2 ^ 48) (max r.n 1) = some ps → r.op = .write →
                    bit s.sys.hotcfg 16 = false → exec .remoteRequest s = .next ((if r.n = 0 then s else s.wrMarked ps r.data (r.y.getLsbD 0)).routeRemote
                      (s.replyTo r true [] none))))
      ∧ (∀ v, s.arg = .valRef { v := v } →
          let size := bits v 22 16
          let taken := 1 ≤ size ∧ size ≤ 64 ∧ bits v 5 0 < size ∧ ¬(bit s.sys.podcfg 31 = true ∧ bit v 31 = true)
          (taken → ∃ t, exec .podcfgWrite s = .next t ∧ t.mem = s.mem ∧ t.sys.podcfg = v &&& 0x0000FFFF807F003F)
            ∧ (¬taken → exec .podcfgWrite s = .next s))
      ∧ ∀ p, s.arg = .idxRef { i := p } → p < 12 →
          ((s.portOfNet p).up = true → p < 4 → ∃ t, exec .linkDown s = .next t ∧ t.mem = s.mem ∧ (t.portOfNet p).up = false
              ∧ ∀ k, k ≠ p → t.portOfNet k = s.portOfNet k)
            ∧ ((s.portOfNet p).up = true → 4 ≤ p → (∀ k, k ≠ p → 4 ≤ k → (s.portOfNet k).up = false) →
              ∃ t, exec .linkDown s = .next t ∧ t.mem = s.mem ∧ (t.portOfNet p).up = false
                ∧ t.sys.evpend = min (s.sys.evpend + 1) 0xFFFFFFFF)
            ∧ ((s.portOfNet p).up = false → ∃ t, exec .linkUp s = .next t ∧ t.mem = s.mem ∧ (t.portOfNet p).up = true
              ∧ (t.portOfNet p).retrains = (s.portOfNet p).retrains + 1)

/-- R45-R48, R128, R434, R453, R5, R111: the servo's states after a Sync and after a lost Announce, and what each register
takes of a value written to it. How Sync intervals are counted and an offset is formed are the model's (entries 17, 43). -/
def Obligations.RegisterEventResults : Prop :=
  ∀ (s : State) (v : Word),
    let p := s.sys.ptp
    let keeps := fun (t : State) => t.mem = s.mem
    (∀ o, s.arg = .ptpIn o → s.ptpTakes o = false → exec .ptpSync s = .next s)
      ∧ (∀ o, s.arg = .ptpIn o → s.ptpTakes o = true → let x := ptpOffset o; ∃ t, exec .ptpSync s = .next t ∧ keeps t
        ∧ t.outbox = s.outbox ++ [.delayReq o.port o.domain]
        ∧ (-2147483647 ≤ x → x ≤ 2147483647 → t.sys.ptp.offset.toInt = x)
        ∧ (p.state = 0 ∨ p.state = 3 → t.sys.ptp.state = 1 ∧ t.sys.ptp.since = 0)
        ∧ (p.state = 1 → t.sys.ptp.state = if x.natAbs < 100 ∧ 15 ≤ p.since then 2 else 1)
        ∧ (p.state = 1 → 100 ≤ x.natAbs → t.sys.ptp.since = 0)
        ∧ (p.state = 2 → t.sys.ptp.state = if 1000 ≤ x.natAbs ∧ 3 ≤ p.since then 1 else 2)
        ∧ (p.state = 2 → x.natAbs < 1000 → t.sys.ptp.since = 0))
      ∧ (∃ t, exec .ptpAnnounceTimeout s = .next t ∧ keeps t ∧ t.sys.ptp.state = if p.state = 1 ∨ p.state = 2 then 3 else p.state)
      ∧ (∃ t, exec .announceReceived s = .next t ∧ keeps t ∧ t.sys.ptp = { p with announce := 0 })
      ∧ (s.arg = .valRef { v := v } →
          let lo := (v.setWidth 32).toInt
          let port := bits v 23 16
          let hotOk := 8 ≤ bits v 4 0 ∧ bits v 4 0 ≤ 20 ∧ 7 ≤ bits v 12 8 ∧ bits v 12 8 ≤ 20
          (∃ t, exec .timeStep s = .next t ∧ keeps t ∧ t.sys.time = v)
            ∧ (∃ t, exec .timerateWrite s = .next t ∧ keeps t ∧ t.sys.timerate.toInt = max (-549755814) (min 549755814 lo))
            ∧ (∃ t, exec .ptpstatWrite s = .next t ∧ keeps t ∧ t.sys.ptp.port = (if port < 12 then port else p.port)
                ∧ t.sys.ptp.state = (if port < 12 ∧ port ≠ p.port then 0 else p.state)
                ∧ t.sys.ptp.domain = if bits v 15 8 < 128 then bits v 15 8 else p.domain)
            ∧ (hotOk → ∃ t, exec .hotcfgWrite s = .next t ∧ keeps t
                ∧ t.sys.hotcfg = (v &&& 0x11F1F) ||| (s.sys.hotcfg &&& 0x80000000 &&& ~~~v)
                ∧ t.sys.hotk = if bit v 16 = true ∧ bit s.sys.hotcfg 16 = false then 0 else s.sys.hotk)
            ∧ (¬hotOk → exec .hotcfgWrite s = .next s)
            ∧ (∃ t, exec .evpendAck s = .next t ∧ keeps t ∧ t.sys.evpend = s.sys.evpend - bits v 63 32)
            ∧ (bit v 4 = false → ∃ t, exec .bootwalkGo s = .next t ∧ keeps t
                ∧ t.sys.bootwalk = (v &&& 0x01FFFFFFFFFFFFEF) ||| (s.sys.bootwalk &&& 0xF000000000000000))
            ∧ (bit v 4 = true → s.sys.boot.cur ≠ 4 ∨ bits s.sys.bootwalk 63 60 ≠ 0 → exec .bootwalkGo s = .next s)
            ∧ (∀ ws, bit v 4 = true → s.sys.boot.cur = 4 → bits s.sys.bootwalk 63 60 = 0 → (∀ d, (s.box d).walkers = []) →
                s.boxWords (v &&& 0x01FFFFFFFFFFFFE0).toNat 4 = some ws → nodeEvent (bits (ws.getD 0 0) 3 0) ≠ none →
                ∃ t, exec .bootwalkGo s = .next t ∧ keeps t ∧ ∀ d, d < 4 → bit t.sys.bootwalk (60 + d) = bit v d
                  ∧ (bit v d = true → ((t.box d).walker 0).st = .run ∧ ((t.box d).walker 0).boot = true
                      ∧ vget ((t.box d).walker 0).record 1 0 = v &&& 0x01FFFFFFFFFFFFE0)))
      ∧ ∀ n d i, s.arg = .regWr { csr := n, die := d, loc := i, v := v } →
          (n = 0x400 → isCompute (i % 256) = true → ∃ t, exec .registerWrite s = .next t ∧ keeps t
              ∧ (t.tile d (i % 256)).pred = (v.setWidth 8 &&& 0xFE) ||| 1)
            ∧ (n = 0x80A → ∃ t, exec .registerWrite s = .next t ∧ keeps t ∧ (t.slot d (i % 16)).trapcfg = v &&& 0x1FDEFFFF)
            ∧ (n = 0xC44 → ∃ t, exec .registerWrite s = .next t ∧ keeps t ∧ t.sys.svtvec = v &&& 0x01FFFFFFFFFFFFF8)
            ∧ (0xC60 ≤ n → exec .registerWrite s = .next s)

/-- R20-R22, R50-R60: a start that fails records its step and code; one that meets nothing out of order zeroes HBM but for
what a preserve table keeps and brings the links up; recovery frames fill the image, which takes force where it verifies; a
report, a fuse, the lifetime records; a power sample above the droop limit and one at 110 degrees; power loss. No firmware is
given here. The order of the image's checks, what a warm start keeps, how samples are counted, the firmware's part, recovery's
corners and the opaque functions are the model's (entries 5, 15, 16, 41, 42, 58). -/
def Obligations.StartEventResults : Prop :=
  ∀ (s : State) (o : StartIn),
    let bank := s.flash.bank
    let plain := o.fuseOk = true ∧ o.hbmFail = none ∧ o.repairFail = none ∧ o.portsDown = [] ∧ o.hold = false ∧ o.fw = none
      ∧ s.sys.boot.fw = none
    let linked := fun (t : State) => t.sys.boot.step = 5 ∧ t.sys.boot.failStep = 0 ∧ t.sys.boot.failCode = 0
      ∧ t.sys.boot.svn = fieldAt bank 8 8 ∧ (∀ p, p < 12 → (t.portOfNet p).up = true) ∧ t.slots = [] ∧ t.tiles = [] ∧ t.tlb = []
    let u := s.writtenBack
    (s.arg = .startIn o → o.cont = false →
        (o.fuseOk = false → ∃ t, exec .coldStart s = .next t ∧ t.sys.boot.failStep = 1 ∧ t.sys.boot.halted = true ∧ t.sys.boot.step = 0)
          ∧ (∀ c, o.fuseOk = true → s.flash.reject bank = some c → ∃ t, exec .coldStart s = .next t ∧ t.sys.boot.failStep = 2
            ∧ t.sys.boot.failCode = c ∧ t.sys.boot.recovery = true ∧ t.sys.boot.step = 1)
          ∧ (∀ k, o.fuseOk = true → s.flash.reject bank = none → o.hbmFail = some k → k < 8 → ∃ t, exec .coldStart s = .next t
            ∧ t.sys.boot.failStep = 3 ∧ t.sys.boot.failCode = 0x10 + k ∧ t.sys.boot.step = 2)
          ∧ (plain → s.flash.reject bank = none → ∃ t, exec .coldStart s = .next t ∧ linked t ∧ t.sys.boot.kind = 0 ∧ t.sys.time = 0
            ∧ t.sys.podcfg = Sys.init.podcfg ∧ t.life.colds = min (s.life.colds + 1) (2 ^ 64 - 1) ∧ ∀ k, k < 2 ^ 39 → t.mem.byte k = 0))
      ∧ (∀ w, s.arg = .warmIn w → w.start = o →
          let l := (List.range (bits w.v 4 1 + 1)).map fun i => (leVal (u.mem.bytes (16 * i) 8), leVal (u.mem.bytes (16 * i + 8) 8))
          let runs := bit w.v 0 = true ∧ (s.sys.power.stopped = true → s.sys.power.tj < 95)
          (¬runs → ∃ t, exec .warmStart s = .next t ∧ t.mem = s.mem ∧ t.sys.boot.pres = bit w.v 5 ∧ t.sys.boot.npres = bits w.v 4 1)
            ∧ (runs → plain → s.flash.reject bank = none → bit w.v 5 = false → ∃ t, exec .warmStart s = .next t ∧ linked t
              ∧ t.sys.boot.kind = 1 ∧ t.sys.time = s.sys.time ∧ t.sys.podcfg = s.sys.podcfg
              ∧ ∀ k, k < 2 ^ 39 → t.mem.byte k = if k < 4096 then u.mem.byte k else 0)
            ∧ (runs → plain → s.flash.reject bank = none → bit w.v 5 = true → preserveOk l = false → ∃ t, exec .warmStart s = .next t
              ∧ t.sys.boot.failStep = 3 ∧ t.sys.boot.failCode = 0x1F ∧ ∀ k, k < 2 ^ 39 → t.mem.byte k = u.mem.byte k)
            ∧ (runs → plain → s.flash.reject bank = none → bit w.v 5 = true → preserveOk l = true → ∃ t, exec .warmStart s = .next t
              ∧ linked t ∧ ∀ k, k < 2 ^ 39 →
                t.mem.byte k = if k < 4096 ∨ (∃ r ∈ l, r.1 ≤ k ∧ k < r.1 + r.2) then u.mem.byte k else 0)
            ∧ (s.sys.power.stopped = true → w.tj.length = 4 → (∀ x ∈ w.tj, x < 95) → exec .thermalStopEnd s = .next (s.warmStart o))
            ∧ (s.sys.power.stopped = false ∨ w.tj.length ≠ 4 ∨ (∃ x ∈ w.tj, 95 ≤ x) → exec .thermalStopEnd s = .next s))
      ∧ (∀ p a bs, s.arg = .imageIn { port := p, offset := a, data := bs } →
          (s.sys.boot.recovery = true → 64 ≤ bs.length → bs.length ≤ 8192 → a ≠ BitVec.allOnes 64 → ∃ t, exec .recoveryFrame s = .next t
              ∧ t.mem = s.mem ∧ t.outbox = s.outbox ++ [.recovery p a]
              ∧ ∀ k, t.sys.boot.image.get k 0 = if a.toNat ≤ k ∧ k < a.toNat + bs.length then bs.getD (k - a.toNat) 0 else s.sys.boot.image.get k 0)
            ∧ (s.sys.boot.recovery = false → exec .recoveryFrame s = .next s))
      ∧ (∀ p, s.arg = .recEndIn { port := p, start := o } → s.sys.boot.recovery = true →
          let img := receivedImage s.sys.boot.image
          (∀ c, s.flash.reject img = some c → ∃ t, exec .recoveryEnd s = .next t ∧ t.sys.boot.recovery = true ∧ t.sys.boot.image = []
              ∧ t.flash = s.flash ∧ t.outbox = s.outbox ++ [.recovery p (BitVec.allOnes 64)])
            ∧ (s.flash.reject img = none → ∃ t, exec .recoveryEnd s = .next t ∧ t.flash.bank = trimImage img
              ∧ t.life.recoveries = min (s.life.recoveries + 1) (2 ^ 64 - 1) ∧ t.sys.boot.kind = 0))
      ∧ (∀ bs, s.arg = .nonceIn { nonce := bs } → ∃ t h, exec .attestationRequest s = .next t ∧ t.mem = s.mem ∧ h.length = 256
          ∧ h.take 64 = padTo 64 bs ∧ t.outbox = s.outbox ++ [.report (h ++ padTo 4627 (Config.mldsaSign s.flash.seed (Config.sha3 h)))])
      ∧ (∀ v, s.arg = .valRef { v := v } →
          (s.flash.minSvn < v.toNat → v.toNat ≤ 65535 → exec .fuseSvnRaise s = .next { s with flash := { s.flash with minSvn := v.toNat } })
            ∧ (v.toNat ≤ s.flash.minSvn → exec .fuseSvnRaise s = .next s))
      ∧ (∃ t, exec .lifetimeRecordWrite s = .next t ∧ t.mem = s.mem ∧ t.life = s.life ∧ ∃ c ∈ t.copies, c.valid = true ∧ c.image = s.life)
      ∧ (∀ n s1 c, s.arg = .idxRef { i := n } → n < 1024 → s.newestCopy = some c →
          let m := s.net.mrs.get n .init
          let root := mrRoot m (BitVec.ofNat 32 n)
          m.used = true → 65536 ≤ m.len →
          s.hostWrite root false (pieces m.base.toNat 65528) ((List.range 65528).map (Config.lifetimeByte c.image.counters)) = (s1, none) →
          ∃ v : Word, v ≠ 0 ∧ ∀ s3, ({ s1 with freeCtr := s1.freeCtr + 1 } : State).hostWrite root false (pieces (m.base.toNat + 65528) 8)
            (leOf 8 v.toNat) = (s3, none) → exec .recordCopyRequest s = .next s3)
      ∧ (∀ x, s.arg = .powerIn x →
          (2800000 < x.mw → (∀ t ∈ x.tj, t < 100) → ∃ t, exec .powerSample s = .next t ∧ t.mem = s.mem ∧ t.sys.power.step = 3
              ∧ t.sys.power.cause = 2 ∧ t.life.droops = min (s.life.droops + 1) (2 ^ 64 - 1)
              ∧ t.sys.power.thr = if s.sys.power.step = 3 then s.sys.power.thr else min (s.sys.power.thr + 1) 0xFFFFFFFF)
            ∧ ((∃ t ∈ x.tj, 110 ≤ t) → s.sys.power.stopped = false → ∃ t, exec .powerSample s = .next t ∧ t.sys.power.stopped = true
              ∧ t.sys.power.cause = 3 ∧ t.life.thermals = min (s.life.thermals + 1) (2 ^ 64 - 1) ∧ t.transit = [] ∧ t.l2 = []
              ∧ (∀ n, n < 512 → let q := t.depots.get n .init; 1 ≤ q.cend ∧ q.cend ≤ q.pend ∧ q.pend ≤ q.fend ∧ q.fend ≤ 128)
              ∧ ∀ k, k < 2 ^ 40 → t.mem.byte k = s.mem.byte k))
      ∧ ∀ x, s.arg = .lossIn x → ∃ t, exec .powerLoss s = .next t ∧ t.mem = [] ∧ t.flash = s.flash ∧ t.sys.on = false ∧ t.sys.time = 0
end

