-- ==== Sys2Proof/Laws/Encoding.lean ====
section
/-! SUPPORT. The five word formats: the fields of a word made of fields are those fields, and its opcode is its opcode. -/

namespace Sys2Proof.Laws

/-- A bit field is a value where its bits are the value's. -/
theorem extract_eq_of_bits {n m : Nat} (w : BitVec n) (s : Nat) (f : BitVec m) (h : ∀ i, i < m → w.getLsbD (s + i) = f.getLsbD i) :
    w.extractLsb' s m = f := by
  apply BitVec.eq_of_getLsbD_eq
  intro i hi
  rw [BitVec.getLsbD_extractLsb', h i hi]
  simp [hi]

/-- The fields of a S word made of fields are those fields (R296). -/
@[simp] theorem sfmt_ofWord_toWord (c : BitVec 8) (o : SFmt) : SFmt.ofWord (o.toWord c) = o := by
  obtain ⟨xgn, xgs, xd, xa, xb, xscope, xord, ximm⟩ := o
  simp only [SFmt.ofWord, SFmt.toWord, SFmt.mk.injEq]
  refine ⟨?_, ?_, ?_, ?_, ?_, ?_, ?_, ?_⟩
  · simp only [BitVec.getLsbD_append]; simp
  · apply extract_eq_of_bits; intro i h; simp only [BitVec.getLsbD_append]
    repeat (first | rw [if_neg (by omega)] | rw [if_pos (by omega)])
    congr 1; omega
  · apply extract_eq_of_bits; intro i h; simp only [BitVec.getLsbD_append]
    repeat (first | rw [if_neg (by omega)] | rw [if_pos (by omega)])
    congr 1; omega
  · apply extract_eq_of_bits; intro i h; simp only [BitVec.getLsbD_append]
    repeat (first | rw [if_neg (by omega)] | rw [if_pos (by omega)])
    congr 1; omega
  · apply extract_eq_of_bits; intro i h; simp only [BitVec.getLsbD_append]
    repeat (first | rw [if_neg (by omega)] | rw [if_pos (by omega)])
    congr 1; omega
  · apply extract_eq_of_bits; intro i h; simp only [BitVec.getLsbD_append]
    repeat (first | rw [if_neg (by omega)] | rw [if_pos (by omega)])
    congr 1; omega
  · apply extract_eq_of_bits; intro i h; simp only [BitVec.getLsbD_append]
    repeat (first | rw [if_neg (by omega)] | rw [if_pos (by omega)])
    congr 1; omega
  · apply extract_eq_of_bits; intro i h; simp only [BitVec.getLsbD_append]
    repeat (first | rw [if_neg (by omega)] | rw [if_pos (by omega)])
    congr 1; omega

/-- The opcode of a S word is the opcode it was made with. -/
@[simp] theorem sfmt_opc (c : BitVec 8) (o : SFmt) : opcOf (o.toWord c) = c := by
  unfold opcOf SFmt.toWord
  apply extract_eq_of_bits; intro i h; simp only [BitVec.getLsbD_append]
  repeat (first | rw [if_neg (by omega)] | rw [if_pos (by omega)])
  congr 1; omega

/-- The fields of a B word made of fields are those fields (R297). -/
@[simp] theorem bfmt_ofWord_toWord (c : BitVec 8) (o : BFmt) : BFmt.ofWord (o.toWord c) = o := by
  obtain ⟨xgn, xgs, xa, xb, xaux, xhint, xoff⟩ := o
  simp only [BFmt.ofWord, BFmt.toWord, BFmt.mk.injEq]
  refine ⟨?_, ?_, ?_, ?_, ?_, ?_, ?_⟩
  · simp only [BitVec.getLsbD_append]; simp
  · apply extract_eq_of_bits; intro i h; simp only [BitVec.getLsbD_append]
    repeat (first | rw [if_neg (by omega)] | rw [if_pos (by omega)])
    congr 1; omega
  · apply extract_eq_of_bits; intro i h; simp only [BitVec.getLsbD_append]
    repeat (first | rw [if_neg (by omega)] | rw [if_pos (by omega)])
    congr 1; omega
  · apply extract_eq_of_bits; intro i h; simp only [BitVec.getLsbD_append]
    repeat (first | rw [if_neg (by omega)] | rw [if_pos (by omega)])
    congr 1; omega
  · apply extract_eq_of_bits; intro i h; simp only [BitVec.getLsbD_append]
    repeat (first | rw [if_neg (by omega)] | rw [if_pos (by omega)])
    congr 1; omega
  · apply extract_eq_of_bits; intro i h; simp only [BitVec.getLsbD_append]
    repeat (first | rw [if_neg (by omega)] | rw [if_pos (by omega)])
    congr 1; omega
  · apply extract_eq_of_bits; intro i h; simp only [BitVec.getLsbD_append]
    repeat (first | rw [if_neg (by omega)] | rw [if_pos (by omega)])
    congr 1; omega

/-- The opcode of a B word is the opcode it was made with. -/
@[simp] theorem bfmt_opc (c : BitVec 8) (o : BFmt) : opcOf (o.toWord c) = c := by
  unfold opcOf BFmt.toWord
  apply extract_eq_of_bits; intro i h; simp only [BitVec.getLsbD_append]
  repeat (first | rw [if_neg (by omega)] | rw [if_pos (by omega)])
  congr 1; omega

/-- The fields of a V word made of fields are those fields (R298). -/
@[simp] theorem vfmt_ofWord_toWord (c : BitVec 8) (o : VFmt) : VFmt.ofWord (o.toWord c) = o := by
  obtain ⟨xgn, xgs, xvd, xva, xvb, xvc, xtyp, xprec, xrnd, xsat, xpm, xmkf, xsa, xaux, ximm⟩ := o
  simp only [VFmt.ofWord, VFmt.toWord, VFmt.mk.injEq]
  refine ⟨?_, ?_, ?_, ?_, ?_, ?_, ?_, ?_, ?_, ?_, ?_, ?_, ?_, ?_, ?_⟩
  · simp only [BitVec.getLsbD_append]; simp
  · apply extract_eq_of_bits; intro i h; simp only [BitVec.getLsbD_append]
    repeat (first | rw [if_neg (by omega)] | rw [if_pos (by omega)])
    congr 1; omega
  · apply extract_eq_of_bits; intro i h; simp only [BitVec.getLsbD_append]
    repeat (first | rw [if_neg (by omega)] | rw [if_pos (by omega)])
    congr 1; omega
  · apply extract_eq_of_bits; intro i h; simp only [BitVec.getLsbD_append]
    repeat (first | rw [if_neg (by omega)] | rw [if_pos (by omega)])
    congr 1; omega
  · apply extract_eq_of_bits; intro i h; simp only [BitVec.getLsbD_append]
    repeat (first | rw [if_neg (by omega)] | rw [if_pos (by omega)])
    congr 1; omega
  · apply extract_eq_of_bits; intro i h; simp only [BitVec.getLsbD_append]
    repeat (first | rw [if_neg (by omega)] | rw [if_pos (by omega)])
    congr 1; omega
  · apply extract_eq_of_bits; intro i h; simp only [BitVec.getLsbD_append]
    repeat (first | rw [if_neg (by omega)] | rw [if_pos (by omega)])
    congr 1; omega
  · apply extract_eq_of_bits; intro i h; simp only [BitVec.getLsbD_append]
    repeat (first | rw [if_neg (by omega)] | rw [if_pos (by omega)])
    congr 1; omega
  · apply extract_eq_of_bits; intro i h; simp only [BitVec.getLsbD_append]
    repeat (first | rw [if_neg (by omega)] | rw [if_pos (by omega)])
    congr 1; omega
  · simp only [BitVec.getLsbD_append]; simp
  · simp only [BitVec.getLsbD_append]; simp
  · apply extract_eq_of_bits; intro i h; simp only [BitVec.getLsbD_append]
    repeat (first | rw [if_neg (by omega)] | rw [if_pos (by omega)])
    congr 1; omega
  · simp only [BitVec.getLsbD_append]; simp
  · apply extract_eq_of_bits; intro i h; simp only [BitVec.getLsbD_append]
    repeat (first | rw [if_neg (by omega)] | rw [if_pos (by omega)])
    congr 1; omega
  · apply extract_eq_of_bits; intro i h; simp only [BitVec.getLsbD_append]
    repeat (first | rw [if_neg (by omega)] | rw [if_pos (by omega)])
    congr 1; omega

/-- The opcode of a V word is the opcode it was made with. -/
@[simp] theorem vfmt_opc (c : BitVec 8) (o : VFmt) : opcOf (o.toWord c) = c := by
  unfold opcOf VFmt.toWord
  apply extract_eq_of_bits; intro i h; simp only [BitVec.getLsbD_append]
  repeat (first | rw [if_neg (by omega)] | rw [if_pos (by omega)])
  congr 1; omega

/-- The fields of a M word made of fields are those fields (R299). -/
@[simp] theorem mfmt_ofWord_toWord (c : BitVec 8) (o : MFmt) : MFmt.ofWord (o.toWord c) = o := by
  obtain ⟨xgn, xgs, xacc, xsa, xsb, xqa, xqb, xdirA, xdirB, xfmtA, xfmtB, xsp, xkc, xrows, xlow⟩ := o
  simp only [MFmt.ofWord, MFmt.toWord, MFmt.mk.injEq]
  refine ⟨?_, ?_, ?_, ?_, ?_, ?_, ?_, ?_, ?_, ?_, ?_, ?_, ?_, ?_, ?_⟩
  · simp only [BitVec.getLsbD_append]; simp
  · apply extract_eq_of_bits; intro i h; simp only [BitVec.getLsbD_append]
    repeat (first | rw [if_neg (by omega)] | rw [if_pos (by omega)])
    congr 1; omega
  · apply extract_eq_of_bits; intro i h; simp only [BitVec.getLsbD_append]
    repeat (first | rw [if_neg (by omega)] | rw [if_pos (by omega)])
    congr 1; omega
  · apply extract_eq_of_bits; intro i h; simp only [BitVec.getLsbD_append]
    repeat (first | rw [if_neg (by omega)] | rw [if_pos (by omega)])
    congr 1; omega
  · apply extract_eq_of_bits; intro i h; simp only [BitVec.getLsbD_append]
    repeat (first | rw [if_neg (by omega)] | rw [if_pos (by omega)])
    congr 1; omega
  · simp only [BitVec.getLsbD_append]; simp
  · simp only [BitVec.getLsbD_append]; simp
  · simp only [BitVec.getLsbD_append]; simp
  · simp only [BitVec.getLsbD_append]; simp
  · apply extract_eq_of_bits; intro i h; simp only [BitVec.getLsbD_append]
    repeat (first | rw [if_neg (by omega)] | rw [if_pos (by omega)])
    congr 1; omega
  · apply extract_eq_of_bits; intro i h; simp only [BitVec.getLsbD_append]
    repeat (first | rw [if_neg (by omega)] | rw [if_pos (by omega)])
    congr 1; omega
  · apply extract_eq_of_bits; intro i h; simp only [BitVec.getLsbD_append]
    repeat (first | rw [if_neg (by omega)] | rw [if_pos (by omega)])
    congr 1; omega
  · apply extract_eq_of_bits; intro i h; simp only [BitVec.getLsbD_append]
    repeat (first | rw [if_neg (by omega)] | rw [if_pos (by omega)])
    congr 1; omega
  · apply extract_eq_of_bits; intro i h; simp only [BitVec.getLsbD_append]
    repeat (first | rw [if_neg (by omega)] | rw [if_pos (by omega)])
    congr 1; omega
  · apply extract_eq_of_bits; intro i h; simp only [BitVec.getLsbD_append]
    repeat (first | rw [if_neg (by omega)] | rw [if_pos (by omega)])
    congr 1; omega

/-- The opcode of a M word is the opcode it was made with. -/
@[simp] theorem mfmt_opc (c : BitVec 8) (o : MFmt) : opcOf (o.toWord c) = c := by
  unfold opcOf MFmt.toWord
  apply extract_eq_of_bits; intro i h; simp only [BitVec.getLsbD_append]
  repeat (first | rw [if_neg (by omega)] | rw [if_pos (by omega)])
  congr 1; omega

/-- The fields of a C word made of fields are those fields (R300). -/
@[simp] theorem cfmt_ofWord_toWord (c : BitVec 8) (o : CFmt) : CFmt.ofWord (o.toWord c) = o := by
  obtain ⟨xgn, xgs, xd, xa, xb, xc, ximm⟩ := o
  simp only [CFmt.ofWord, CFmt.toWord, CFmt.mk.injEq]
  refine ⟨?_, ?_, ?_, ?_, ?_, ?_, ?_⟩
  · simp only [BitVec.getLsbD_append]; simp
  · apply extract_eq_of_bits; intro i h; simp only [BitVec.getLsbD_append]
    repeat (first | rw [if_neg (by omega)] | rw [if_pos (by omega)])
    congr 1; omega
  · apply extract_eq_of_bits; intro i h; simp only [BitVec.getLsbD_append]
    repeat (first | rw [if_neg (by omega)] | rw [if_pos (by omega)])
    congr 1; omega
  · apply extract_eq_of_bits; intro i h; simp only [BitVec.getLsbD_append]
    repeat (first | rw [if_neg (by omega)] | rw [if_pos (by omega)])
    congr 1; omega
  · apply extract_eq_of_bits; intro i h; simp only [BitVec.getLsbD_append]
    repeat (first | rw [if_neg (by omega)] | rw [if_pos (by omega)])
    congr 1; omega
  · apply extract_eq_of_bits; intro i h; simp only [BitVec.getLsbD_append]
    repeat (first | rw [if_neg (by omega)] | rw [if_pos (by omega)])
    congr 1; omega
  · apply extract_eq_of_bits; intro i h; simp only [BitVec.getLsbD_append]
    repeat (first | rw [if_neg (by omega)] | rw [if_pos (by omega)])
    congr 1; omega

/-- The opcode of a C word is the opcode it was made with. -/
@[simp] theorem cfmt_opc (c : BitVec 8) (o : CFmt) : opcOf (o.toWord c) = c := by
  unfold opcOf CFmt.toWord
  apply extract_eq_of_bits; intro i h; simp only [BitVec.getLsbD_append]
  repeat (first | rw [if_neg (by omega)] | rw [if_pos (by omega)])
  congr 1; omega

end Sys2Proof.Laws
end

