-- ==== Sys2Proof/Laws/State.lean ====
section
/-! SUPPORT. What each update of the state leaves of each field: one lemma per update and field it does not write. -/

namespace Sys2Proof.Laws

open Sys2Proof.Machine

@[simp] theorem modTile_mem (s : State) (d t : Nat) (f : Tile → Tile) : (s.modTile d t f).mem = s.mem := rfl
@[simp] theorem modTile_poison (s : State) (d t : Nat) (f : Tile → Tile) : (s.modTile d t f).poison = s.poison := rfl
@[simp] theorem modTile_stuck (s : State) (d t : Nat) (f : Tile → Tile) : (s.modTile d t f).stuck = s.stuck := rfl
@[simp] theorem modTile_l2 (s : State) (d t : Nat) (f : Tile → Tile) : (s.modTile d t f).l2 = s.l2 := rfl
@[simp] theorem modTile_tlb (s : State) (d t : Nat) (f : Tile → Tile) : (s.modTile d t f).tlb = s.tlb := rfl
@[simp] theorem modTile_depots (s : State) (d t : Nat) (f : Tile → Tile) : (s.modTile d t f).depots = s.depots := rfl
@[simp] theorem modTile_slots (s : State) (d t : Nat) (f : Tile → Tile) : (s.modTile d t f).slots = s.slots := rfl
@[simp] theorem modTile_boxes (s : State) (d t : Nat) (f : Tile → Tile) : (s.modTile d t f).boxes = s.boxes := rfl
@[simp] theorem modTile_cores (s : State) (d t : Nat) (f : Tile → Tile) : (s.modTile d t f).cores = s.cores := rfl
@[simp] theorem modTile_transit (s : State) (d t : Nat) (f : Tile → Tile) : (s.modTile d t f).transit = s.transit := rfl
@[simp] theorem modTile_juncs (s : State) (d t : Nat) (f : Tile → Tile) : (s.modTile d t f).juncs = s.juncs := rfl
@[simp] theorem modTile_withheld (s : State) (d t : Nat) (f : Tile → Tile) : (s.modTile d t f).withheld = s.withheld := rfl
@[simp] theorem modTile_sys (s : State) (d t : Nat) (f : Tile → Tile) : (s.modTile d t f).sys = s.sys := rfl
@[simp] theorem modTile_net (s : State) (d t : Nat) (f : Tile → Tile) : (s.modTile d t f).net = s.net := rfl
@[simp] theorem modTile_flash (s : State) (d t : Nat) (f : Tile → Tile) : (s.modTile d t f).flash = s.flash := rfl
@[simp] theorem modTile_life (s : State) (d t : Nat) (f : Tile → Tile) : (s.modTile d t f).life = s.life := rfl
@[simp] theorem modTile_copies (s : State) (d t : Nat) (f : Tile → Tile) : (s.modTile d t f).copies = s.copies := rfl
@[simp] theorem modTile_cur (s : State) (d t : Nat) (f : Tile → Tile) : (s.modTile d t f).cur = s.cur := rfl
@[simp] theorem modTile_ir (s : State) (d t : Nat) (f : Tile → Tile) : (s.modTile d t f).ir = s.ir := rfl
@[simp] theorem modTile_arg (s : State) (d t : Nat) (f : Tile → Tile) : (s.modTile d t f).arg = s.arg := rfl
@[simp] theorem modTile_inbox (s : State) (d t : Nat) (f : Tile → Tile) : (s.modTile d t f).inbox = s.inbox := rfl
@[simp] theorem modTile_agenda (s : State) (d t : Nat) (f : Tile → Tile) : (s.modTile d t f).agenda = s.agenda := rfl
@[simp] theorem modTile_script (s : State) (d t : Nat) (f : Tile → Tile) : (s.modTile d t f).script = s.script := rfl
@[simp] theorem modTile_outbox (s : State) (d t : Nat) (f : Tile → Tile) : (s.modTile d t f).outbox = s.outbox := rfl
@[simp] theorem modTile_steps (s : State) (d t : Nat) (f : Tile → Tile) : (s.modTile d t f).steps = s.steps := rfl
@[simp] theorem modTile_uid (s : State) (d t : Nat) (f : Tile → Tile) : (s.modTile d t f).uid = s.uid := rfl
@[simp] theorem modTile_freeCtr (s : State) (d t : Nat) (f : Tile → Tile) : (s.modTile d t f).freeCtr = s.freeCtr := rfl

@[simp] theorem modCtx_mem (s : State) (d t c : Nat) (f : Context → Context) : (s.modCtx d t c f).mem = s.mem := rfl
@[simp] theorem modCtx_poison (s : State) (d t c : Nat) (f : Context → Context) : (s.modCtx d t c f).poison = s.poison := rfl
@[simp] theorem modCtx_stuck (s : State) (d t c : Nat) (f : Context → Context) : (s.modCtx d t c f).stuck = s.stuck := rfl
@[simp] theorem modCtx_l2 (s : State) (d t c : Nat) (f : Context → Context) : (s.modCtx d t c f).l2 = s.l2 := rfl
@[simp] theorem modCtx_tlb (s : State) (d t c : Nat) (f : Context → Context) : (s.modCtx d t c f).tlb = s.tlb := rfl
@[simp] theorem modCtx_depots (s : State) (d t c : Nat) (f : Context → Context) : (s.modCtx d t c f).depots = s.depots := rfl
@[simp] theorem modCtx_slots (s : State) (d t c : Nat) (f : Context → Context) : (s.modCtx d t c f).slots = s.slots := rfl
@[simp] theorem modCtx_boxes (s : State) (d t c : Nat) (f : Context → Context) : (s.modCtx d t c f).boxes = s.boxes := rfl
@[simp] theorem modCtx_cores (s : State) (d t c : Nat) (f : Context → Context) : (s.modCtx d t c f).cores = s.cores := rfl
@[simp] theorem modCtx_transit (s : State) (d t c : Nat) (f : Context → Context) : (s.modCtx d t c f).transit = s.transit := rfl
@[simp] theorem modCtx_juncs (s : State) (d t c : Nat) (f : Context → Context) : (s.modCtx d t c f).juncs = s.juncs := rfl
@[simp] theorem modCtx_withheld (s : State) (d t c : Nat) (f : Context → Context) : (s.modCtx d t c f).withheld = s.withheld := rfl
@[simp] theorem modCtx_sys (s : State) (d t c : Nat) (f : Context → Context) : (s.modCtx d t c f).sys = s.sys := rfl
@[simp] theorem modCtx_net (s : State) (d t c : Nat) (f : Context → Context) : (s.modCtx d t c f).net = s.net := rfl
@[simp] theorem modCtx_flash (s : State) (d t c : Nat) (f : Context → Context) : (s.modCtx d t c f).flash = s.flash := rfl
@[simp] theorem modCtx_life (s : State) (d t c : Nat) (f : Context → Context) : (s.modCtx d t c f).life = s.life := rfl
@[simp] theorem modCtx_copies (s : State) (d t c : Nat) (f : Context → Context) : (s.modCtx d t c f).copies = s.copies := rfl
@[simp] theorem modCtx_cur (s : State) (d t c : Nat) (f : Context → Context) : (s.modCtx d t c f).cur = s.cur := rfl
@[simp] theorem modCtx_ir (s : State) (d t c : Nat) (f : Context → Context) : (s.modCtx d t c f).ir = s.ir := rfl
@[simp] theorem modCtx_arg (s : State) (d t c : Nat) (f : Context → Context) : (s.modCtx d t c f).arg = s.arg := rfl
@[simp] theorem modCtx_inbox (s : State) (d t c : Nat) (f : Context → Context) : (s.modCtx d t c f).inbox = s.inbox := rfl
@[simp] theorem modCtx_agenda (s : State) (d t c : Nat) (f : Context → Context) : (s.modCtx d t c f).agenda = s.agenda := rfl
@[simp] theorem modCtx_script (s : State) (d t c : Nat) (f : Context → Context) : (s.modCtx d t c f).script = s.script := rfl
@[simp] theorem modCtx_outbox (s : State) (d t c : Nat) (f : Context → Context) : (s.modCtx d t c f).outbox = s.outbox := rfl
@[simp] theorem modCtx_steps (s : State) (d t c : Nat) (f : Context → Context) : (s.modCtx d t c f).steps = s.steps := rfl
@[simp] theorem modCtx_uid (s : State) (d t c : Nat) (f : Context → Context) : (s.modCtx d t c f).uid = s.uid := rfl
@[simp] theorem modCtx_freeCtr (s : State) (d t c : Nat) (f : Context → Context) : (s.modCtx d t c f).freeCtr = s.freeCtr := rfl

@[simp] theorem modSlot_mem (s : State) (d i : Nat) (f : Slot → Slot) : (s.modSlot d i f).mem = s.mem := rfl
@[simp] theorem modSlot_poison (s : State) (d i : Nat) (f : Slot → Slot) : (s.modSlot d i f).poison = s.poison := rfl
@[simp] theorem modSlot_stuck (s : State) (d i : Nat) (f : Slot → Slot) : (s.modSlot d i f).stuck = s.stuck := rfl
@[simp] theorem modSlot_l2 (s : State) (d i : Nat) (f : Slot → Slot) : (s.modSlot d i f).l2 = s.l2 := rfl
@[simp] theorem modSlot_tlb (s : State) (d i : Nat) (f : Slot → Slot) : (s.modSlot d i f).tlb = s.tlb := rfl
@[simp] theorem modSlot_tiles (s : State) (d i : Nat) (f : Slot → Slot) : (s.modSlot d i f).tiles = s.tiles := rfl
@[simp] theorem modSlot_depots (s : State) (d i : Nat) (f : Slot → Slot) : (s.modSlot d i f).depots = s.depots := rfl
@[simp] theorem modSlot_boxes (s : State) (d i : Nat) (f : Slot → Slot) : (s.modSlot d i f).boxes = s.boxes := rfl
@[simp] theorem modSlot_cores (s : State) (d i : Nat) (f : Slot → Slot) : (s.modSlot d i f).cores = s.cores := rfl
@[simp] theorem modSlot_transit (s : State) (d i : Nat) (f : Slot → Slot) : (s.modSlot d i f).transit = s.transit := rfl
@[simp] theorem modSlot_juncs (s : State) (d i : Nat) (f : Slot → Slot) : (s.modSlot d i f).juncs = s.juncs := rfl
@[simp] theorem modSlot_withheld (s : State) (d i : Nat) (f : Slot → Slot) : (s.modSlot d i f).withheld = s.withheld := rfl
@[simp] theorem modSlot_sys (s : State) (d i : Nat) (f : Slot → Slot) : (s.modSlot d i f).sys = s.sys := rfl
@[simp] theorem modSlot_net (s : State) (d i : Nat) (f : Slot → Slot) : (s.modSlot d i f).net = s.net := rfl
@[simp] theorem modSlot_flash (s : State) (d i : Nat) (f : Slot → Slot) : (s.modSlot d i f).flash = s.flash := rfl
@[simp] theorem modSlot_life (s : State) (d i : Nat) (f : Slot → Slot) : (s.modSlot d i f).life = s.life := rfl
@[simp] theorem modSlot_copies (s : State) (d i : Nat) (f : Slot → Slot) : (s.modSlot d i f).copies = s.copies := rfl
@[simp] theorem modSlot_cur (s : State) (d i : Nat) (f : Slot → Slot) : (s.modSlot d i f).cur = s.cur := rfl
@[simp] theorem modSlot_ir (s : State) (d i : Nat) (f : Slot → Slot) : (s.modSlot d i f).ir = s.ir := rfl
@[simp] theorem modSlot_arg (s : State) (d i : Nat) (f : Slot → Slot) : (s.modSlot d i f).arg = s.arg := rfl
@[simp] theorem modSlot_inbox (s : State) (d i : Nat) (f : Slot → Slot) : (s.modSlot d i f).inbox = s.inbox := rfl
@[simp] theorem modSlot_agenda (s : State) (d i : Nat) (f : Slot → Slot) : (s.modSlot d i f).agenda = s.agenda := rfl
@[simp] theorem modSlot_script (s : State) (d i : Nat) (f : Slot → Slot) : (s.modSlot d i f).script = s.script := rfl
@[simp] theorem modSlot_outbox (s : State) (d i : Nat) (f : Slot → Slot) : (s.modSlot d i f).outbox = s.outbox := rfl
@[simp] theorem modSlot_steps (s : State) (d i : Nat) (f : Slot → Slot) : (s.modSlot d i f).steps = s.steps := rfl
@[simp] theorem modSlot_uid (s : State) (d i : Nat) (f : Slot → Slot) : (s.modSlot d i f).uid = s.uid := rfl
@[simp] theorem modSlot_freeCtr (s : State) (d i : Nat) (f : Slot → Slot) : (s.modSlot d i f).freeCtr = s.freeCtr := rfl

@[simp] theorem modBox_mem (s : State) (d : Nat) (f : SigBox → SigBox) : (s.modBox d f).mem = s.mem := rfl
@[simp] theorem modBox_poison (s : State) (d : Nat) (f : SigBox → SigBox) : (s.modBox d f).poison = s.poison := rfl
@[simp] theorem modBox_stuck (s : State) (d : Nat) (f : SigBox → SigBox) : (s.modBox d f).stuck = s.stuck := rfl
@[simp] theorem modBox_l2 (s : State) (d : Nat) (f : SigBox → SigBox) : (s.modBox d f).l2 = s.l2 := rfl
@[simp] theorem modBox_tlb (s : State) (d : Nat) (f : SigBox → SigBox) : (s.modBox d f).tlb = s.tlb := rfl
@[simp] theorem modBox_tiles (s : State) (d : Nat) (f : SigBox → SigBox) : (s.modBox d f).tiles = s.tiles := rfl
@[simp] theorem modBox_depots (s : State) (d : Nat) (f : SigBox → SigBox) : (s.modBox d f).depots = s.depots := rfl
@[simp] theorem modBox_slots (s : State) (d : Nat) (f : SigBox → SigBox) : (s.modBox d f).slots = s.slots := rfl
@[simp] theorem modBox_cores (s : State) (d : Nat) (f : SigBox → SigBox) : (s.modBox d f).cores = s.cores := rfl
@[simp] theorem modBox_transit (s : State) (d : Nat) (f : SigBox → SigBox) : (s.modBox d f).transit = s.transit := rfl
@[simp] theorem modBox_juncs (s : State) (d : Nat) (f : SigBox → SigBox) : (s.modBox d f).juncs = s.juncs := rfl
@[simp] theorem modBox_withheld (s : State) (d : Nat) (f : SigBox → SigBox) : (s.modBox d f).withheld = s.withheld := rfl
@[simp] theorem modBox_sys (s : State) (d : Nat) (f : SigBox → SigBox) : (s.modBox d f).sys = s.sys := rfl
@[simp] theorem modBox_net (s : State) (d : Nat) (f : SigBox → SigBox) : (s.modBox d f).net = s.net := rfl
@[simp] theorem modBox_flash (s : State) (d : Nat) (f : SigBox → SigBox) : (s.modBox d f).flash = s.flash := rfl
@[simp] theorem modBox_life (s : State) (d : Nat) (f : SigBox → SigBox) : (s.modBox d f).life = s.life := rfl
@[simp] theorem modBox_copies (s : State) (d : Nat) (f : SigBox → SigBox) : (s.modBox d f).copies = s.copies := rfl
@[simp] theorem modBox_cur (s : State) (d : Nat) (f : SigBox → SigBox) : (s.modBox d f).cur = s.cur := rfl
@[simp] theorem modBox_ir (s : State) (d : Nat) (f : SigBox → SigBox) : (s.modBox d f).ir = s.ir := rfl
@[simp] theorem modBox_arg (s : State) (d : Nat) (f : SigBox → SigBox) : (s.modBox d f).arg = s.arg := rfl
@[simp] theorem modBox_inbox (s : State) (d : Nat) (f : SigBox → SigBox) : (s.modBox d f).inbox = s.inbox := rfl
@[simp] theorem modBox_agenda (s : State) (d : Nat) (f : SigBox → SigBox) : (s.modBox d f).agenda = s.agenda := rfl
@[simp] theorem modBox_script (s : State) (d : Nat) (f : SigBox → SigBox) : (s.modBox d f).script = s.script := rfl
@[simp] theorem modBox_outbox (s : State) (d : Nat) (f : SigBox → SigBox) : (s.modBox d f).outbox = s.outbox := rfl
@[simp] theorem modBox_steps (s : State) (d : Nat) (f : SigBox → SigBox) : (s.modBox d f).steps = s.steps := rfl
@[simp] theorem modBox_uid (s : State) (d : Nat) (f : SigBox → SigBox) : (s.modBox d f).uid = s.uid := rfl
@[simp] theorem modBox_freeCtr (s : State) (d : Nat) (f : SigBox → SigBox) : (s.modBox d f).freeCtr = s.freeCtr := rfl

@[simp] theorem modWalker_mem (s : State) (d w : Nat) (f : Walker → Walker) : (s.modWalker d w f).mem = s.mem := rfl
@[simp] theorem modWalker_poison (s : State) (d w : Nat) (f : Walker → Walker) : (s.modWalker d w f).poison = s.poison := rfl
@[simp] theorem modWalker_stuck (s : State) (d w : Nat) (f : Walker → Walker) : (s.modWalker d w f).stuck = s.stuck := rfl
@[simp] theorem modWalker_l2 (s : State) (d w : Nat) (f : Walker → Walker) : (s.modWalker d w f).l2 = s.l2 := rfl
@[simp] theorem modWalker_tlb (s : State) (d w : Nat) (f : Walker → Walker) : (s.modWalker d w f).tlb = s.tlb := rfl
@[simp] theorem modWalker_tiles (s : State) (d w : Nat) (f : Walker → Walker) : (s.modWalker d w f).tiles = s.tiles := rfl
@[simp] theorem modWalker_depots (s : State) (d w : Nat) (f : Walker → Walker) : (s.modWalker d w f).depots = s.depots := rfl
@[simp] theorem modWalker_slots (s : State) (d w : Nat) (f : Walker → Walker) : (s.modWalker d w f).slots = s.slots := rfl
@[simp] theorem modWalker_cores (s : State) (d w : Nat) (f : Walker → Walker) : (s.modWalker d w f).cores = s.cores := rfl
@[simp] theorem modWalker_transit (s : State) (d w : Nat) (f : Walker → Walker) : (s.modWalker d w f).transit = s.transit := rfl
@[simp] theorem modWalker_juncs (s : State) (d w : Nat) (f : Walker → Walker) : (s.modWalker d w f).juncs = s.juncs := rfl
@[simp] theorem modWalker_withheld (s : State) (d w : Nat) (f : Walker → Walker) : (s.modWalker d w f).withheld = s.withheld := rfl
@[simp] theorem modWalker_sys (s : State) (d w : Nat) (f : Walker → Walker) : (s.modWalker d w f).sys = s.sys := rfl
@[simp] theorem modWalker_net (s : State) (d w : Nat) (f : Walker → Walker) : (s.modWalker d w f).net = s.net := rfl
@[simp] theorem modWalker_flash (s : State) (d w : Nat) (f : Walker → Walker) : (s.modWalker d w f).flash = s.flash := rfl
@[simp] theorem modWalker_life (s : State) (d w : Nat) (f : Walker → Walker) : (s.modWalker d w f).life = s.life := rfl
@[simp] theorem modWalker_copies (s : State) (d w : Nat) (f : Walker → Walker) : (s.modWalker d w f).copies = s.copies := rfl
@[simp] theorem modWalker_cur (s : State) (d w : Nat) (f : Walker → Walker) : (s.modWalker d w f).cur = s.cur := rfl
@[simp] theorem modWalker_ir (s : State) (d w : Nat) (f : Walker → Walker) : (s.modWalker d w f).ir = s.ir := rfl
@[simp] theorem modWalker_arg (s : State) (d w : Nat) (f : Walker → Walker) : (s.modWalker d w f).arg = s.arg := rfl
@[simp] theorem modWalker_inbox (s : State) (d w : Nat) (f : Walker → Walker) : (s.modWalker d w f).inbox = s.inbox := rfl
@[simp] theorem modWalker_agenda (s : State) (d w : Nat) (f : Walker → Walker) : (s.modWalker d w f).agenda = s.agenda := rfl
@[simp] theorem modWalker_script (s : State) (d w : Nat) (f : Walker → Walker) : (s.modWalker d w f).script = s.script := rfl
@[simp] theorem modWalker_outbox (s : State) (d w : Nat) (f : Walker → Walker) : (s.modWalker d w f).outbox = s.outbox := rfl
@[simp] theorem modWalker_steps (s : State) (d w : Nat) (f : Walker → Walker) : (s.modWalker d w f).steps = s.steps := rfl
@[simp] theorem modWalker_uid (s : State) (d w : Nat) (f : Walker → Walker) : (s.modWalker d w f).uid = s.uid := rfl
@[simp] theorem modWalker_freeCtr (s : State) (d w : Nat) (f : Walker → Walker) : (s.modWalker d w f).freeCtr = s.freeCtr := rfl

@[simp] theorem modQueue_mem (s : State) (d q : Nat) (f : Queue → Queue) : (s.modQueue d q f).mem = s.mem := rfl
@[simp] theorem modQueue_poison (s : State) (d q : Nat) (f : Queue → Queue) : (s.modQueue d q f).poison = s.poison := rfl
@[simp] theorem modQueue_stuck (s : State) (d q : Nat) (f : Queue → Queue) : (s.modQueue d q f).stuck = s.stuck := rfl
@[simp] theorem modQueue_l2 (s : State) (d q : Nat) (f : Queue → Queue) : (s.modQueue d q f).l2 = s.l2 := rfl
@[simp] theorem modQueue_tlb (s : State) (d q : Nat) (f : Queue → Queue) : (s.modQueue d q f).tlb = s.tlb := rfl
@[simp] theorem modQueue_tiles (s : State) (d q : Nat) (f : Queue → Queue) : (s.modQueue d q f).tiles = s.tiles := rfl
@[simp] theorem modQueue_depots (s : State) (d q : Nat) (f : Queue → Queue) : (s.modQueue d q f).depots = s.depots := rfl
@[simp] theorem modQueue_slots (s : State) (d q : Nat) (f : Queue → Queue) : (s.modQueue d q f).slots = s.slots := rfl
@[simp] theorem modQueue_cores (s : State) (d q : Nat) (f : Queue → Queue) : (s.modQueue d q f).cores = s.cores := rfl
@[simp] theorem modQueue_transit (s : State) (d q : Nat) (f : Queue → Queue) : (s.modQueue d q f).transit = s.transit := rfl
@[simp] theorem modQueue_juncs (s : State) (d q : Nat) (f : Queue → Queue) : (s.modQueue d q f).juncs = s.juncs := rfl
@[simp] theorem modQueue_withheld (s : State) (d q : Nat) (f : Queue → Queue) : (s.modQueue d q f).withheld = s.withheld := rfl
@[simp] theorem modQueue_sys (s : State) (d q : Nat) (f : Queue → Queue) : (s.modQueue d q f).sys = s.sys := rfl
@[simp] theorem modQueue_net (s : State) (d q : Nat) (f : Queue → Queue) : (s.modQueue d q f).net = s.net := rfl
@[simp] theorem modQueue_flash (s : State) (d q : Nat) (f : Queue → Queue) : (s.modQueue d q f).flash = s.flash := rfl
@[simp] theorem modQueue_life (s : State) (d q : Nat) (f : Queue → Queue) : (s.modQueue d q f).life = s.life := rfl
@[simp] theorem modQueue_copies (s : State) (d q : Nat) (f : Queue → Queue) : (s.modQueue d q f).copies = s.copies := rfl
@[simp] theorem modQueue_cur (s : State) (d q : Nat) (f : Queue → Queue) : (s.modQueue d q f).cur = s.cur := rfl
@[simp] theorem modQueue_ir (s : State) (d q : Nat) (f : Queue → Queue) : (s.modQueue d q f).ir = s.ir := rfl
@[simp] theorem modQueue_arg (s : State) (d q : Nat) (f : Queue → Queue) : (s.modQueue d q f).arg = s.arg := rfl
@[simp] theorem modQueue_inbox (s : State) (d q : Nat) (f : Queue → Queue) : (s.modQueue d q f).inbox = s.inbox := rfl
@[simp] theorem modQueue_agenda (s : State) (d q : Nat) (f : Queue → Queue) : (s.modQueue d q f).agenda = s.agenda := rfl
@[simp] theorem modQueue_script (s : State) (d q : Nat) (f : Queue → Queue) : (s.modQueue d q f).script = s.script := rfl
@[simp] theorem modQueue_outbox (s : State) (d q : Nat) (f : Queue → Queue) : (s.modQueue d q f).outbox = s.outbox := rfl
@[simp] theorem modQueue_steps (s : State) (d q : Nat) (f : Queue → Queue) : (s.modQueue d q f).steps = s.steps := rfl
@[simp] theorem modQueue_uid (s : State) (d q : Nat) (f : Queue → Queue) : (s.modQueue d q f).uid = s.uid := rfl
@[simp] theorem modQueue_freeCtr (s : State) (d q : Nat) (f : Queue → Queue) : (s.modQueue d q f).freeCtr = s.freeCtr := rfl

@[simp] theorem modStc_mem (s : State) (d i : Nat) (f : Stc → Stc) : (s.modStc d i f).mem = s.mem := rfl
@[simp] theorem modStc_poison (s : State) (d i : Nat) (f : Stc → Stc) : (s.modStc d i f).poison = s.poison := rfl
@[simp] theorem modStc_stuck (s : State) (d i : Nat) (f : Stc → Stc) : (s.modStc d i f).stuck = s.stuck := rfl
@[simp] theorem modStc_l2 (s : State) (d i : Nat) (f : Stc → Stc) : (s.modStc d i f).l2 = s.l2 := rfl
@[simp] theorem modStc_tlb (s : State) (d i : Nat) (f : Stc → Stc) : (s.modStc d i f).tlb = s.tlb := rfl
@[simp] theorem modStc_tiles (s : State) (d i : Nat) (f : Stc → Stc) : (s.modStc d i f).tiles = s.tiles := rfl
@[simp] theorem modStc_depots (s : State) (d i : Nat) (f : Stc → Stc) : (s.modStc d i f).depots = s.depots := rfl
@[simp] theorem modStc_slots (s : State) (d i : Nat) (f : Stc → Stc) : (s.modStc d i f).slots = s.slots := rfl
@[simp] theorem modStc_cores (s : State) (d i : Nat) (f : Stc → Stc) : (s.modStc d i f).cores = s.cores := rfl
@[simp] theorem modStc_transit (s : State) (d i : Nat) (f : Stc → Stc) : (s.modStc d i f).transit = s.transit := rfl
@[simp] theorem modStc_juncs (s : State) (d i : Nat) (f : Stc → Stc) : (s.modStc d i f).juncs = s.juncs := rfl
@[simp] theorem modStc_withheld (s : State) (d i : Nat) (f : Stc → Stc) : (s.modStc d i f).withheld = s.withheld := rfl
@[simp] theorem modStc_sys (s : State) (d i : Nat) (f : Stc → Stc) : (s.modStc d i f).sys = s.sys := rfl
@[simp] theorem modStc_net (s : State) (d i : Nat) (f : Stc → Stc) : (s.modStc d i f).net = s.net := rfl
@[simp] theorem modStc_flash (s : State) (d i : Nat) (f : Stc → Stc) : (s.modStc d i f).flash = s.flash := rfl
@[simp] theorem modStc_life (s : State) (d i : Nat) (f : Stc → Stc) : (s.modStc d i f).life = s.life := rfl
@[simp] theorem modStc_copies (s : State) (d i : Nat) (f : Stc → Stc) : (s.modStc d i f).copies = s.copies := rfl
@[simp] theorem modStc_cur (s : State) (d i : Nat) (f : Stc → Stc) : (s.modStc d i f).cur = s.cur := rfl
@[simp] theorem modStc_ir (s : State) (d i : Nat) (f : Stc → Stc) : (s.modStc d i f).ir = s.ir := rfl
@[simp] theorem modStc_arg (s : State) (d i : Nat) (f : Stc → Stc) : (s.modStc d i f).arg = s.arg := rfl
@[simp] theorem modStc_inbox (s : State) (d i : Nat) (f : Stc → Stc) : (s.modStc d i f).inbox = s.inbox := rfl
@[simp] theorem modStc_agenda (s : State) (d i : Nat) (f : Stc → Stc) : (s.modStc d i f).agenda = s.agenda := rfl
@[simp] theorem modStc_script (s : State) (d i : Nat) (f : Stc → Stc) : (s.modStc d i f).script = s.script := rfl
@[simp] theorem modStc_outbox (s : State) (d i : Nat) (f : Stc → Stc) : (s.modStc d i f).outbox = s.outbox := rfl
@[simp] theorem modStc_steps (s : State) (d i : Nat) (f : Stc → Stc) : (s.modStc d i f).steps = s.steps := rfl
@[simp] theorem modStc_uid (s : State) (d i : Nat) (f : Stc → Stc) : (s.modStc d i f).uid = s.uid := rfl
@[simp] theorem modStc_freeCtr (s : State) (d i : Nat) (f : Stc → Stc) : (s.modStc d i f).freeCtr = s.freeCtr := rfl

@[simp] theorem modDepot_mem (s : State) (d n : Nat) (f : Depot → Depot) : (s.modDepot d n f).mem = s.mem := rfl
@[simp] theorem modDepot_poison (s : State) (d n : Nat) (f : Depot → Depot) : (s.modDepot d n f).poison = s.poison := rfl
@[simp] theorem modDepot_stuck (s : State) (d n : Nat) (f : Depot → Depot) : (s.modDepot d n f).stuck = s.stuck := rfl
@[simp] theorem modDepot_l2 (s : State) (d n : Nat) (f : Depot → Depot) : (s.modDepot d n f).l2 = s.l2 := rfl
@[simp] theorem modDepot_tlb (s : State) (d n : Nat) (f : Depot → Depot) : (s.modDepot d n f).tlb = s.tlb := rfl
@[simp] theorem modDepot_tiles (s : State) (d n : Nat) (f : Depot → Depot) : (s.modDepot d n f).tiles = s.tiles := rfl
@[simp] theorem modDepot_slots (s : State) (d n : Nat) (f : Depot → Depot) : (s.modDepot d n f).slots = s.slots := rfl
@[simp] theorem modDepot_boxes (s : State) (d n : Nat) (f : Depot → Depot) : (s.modDepot d n f).boxes = s.boxes := rfl
@[simp] theorem modDepot_cores (s : State) (d n : Nat) (f : Depot → Depot) : (s.modDepot d n f).cores = s.cores := rfl
@[simp] theorem modDepot_transit (s : State) (d n : Nat) (f : Depot → Depot) : (s.modDepot d n f).transit = s.transit := rfl
@[simp] theorem modDepot_juncs (s : State) (d n : Nat) (f : Depot → Depot) : (s.modDepot d n f).juncs = s.juncs := rfl
@[simp] theorem modDepot_withheld (s : State) (d n : Nat) (f : Depot → Depot) : (s.modDepot d n f).withheld = s.withheld := rfl
@[simp] theorem modDepot_sys (s : State) (d n : Nat) (f : Depot → Depot) : (s.modDepot d n f).sys = s.sys := rfl
@[simp] theorem modDepot_net (s : State) (d n : Nat) (f : Depot → Depot) : (s.modDepot d n f).net = s.net := rfl
@[simp] theorem modDepot_flash (s : State) (d n : Nat) (f : Depot → Depot) : (s.modDepot d n f).flash = s.flash := rfl
@[simp] theorem modDepot_life (s : State) (d n : Nat) (f : Depot → Depot) : (s.modDepot d n f).life = s.life := rfl
@[simp] theorem modDepot_copies (s : State) (d n : Nat) (f : Depot → Depot) : (s.modDepot d n f).copies = s.copies := rfl
@[simp] theorem modDepot_cur (s : State) (d n : Nat) (f : Depot → Depot) : (s.modDepot d n f).cur = s.cur := rfl
@[simp] theorem modDepot_ir (s : State) (d n : Nat) (f : Depot → Depot) : (s.modDepot d n f).ir = s.ir := rfl
@[simp] theorem modDepot_arg (s : State) (d n : Nat) (f : Depot → Depot) : (s.modDepot d n f).arg = s.arg := rfl
@[simp] theorem modDepot_inbox (s : State) (d n : Nat) (f : Depot → Depot) : (s.modDepot d n f).inbox = s.inbox := rfl
@[simp] theorem modDepot_agenda (s : State) (d n : Nat) (f : Depot → Depot) : (s.modDepot d n f).agenda = s.agenda := rfl
@[simp] theorem modDepot_script (s : State) (d n : Nat) (f : Depot → Depot) : (s.modDepot d n f).script = s.script := rfl
@[simp] theorem modDepot_outbox (s : State) (d n : Nat) (f : Depot → Depot) : (s.modDepot d n f).outbox = s.outbox := rfl
@[simp] theorem modDepot_steps (s : State) (d n : Nat) (f : Depot → Depot) : (s.modDepot d n f).steps = s.steps := rfl
@[simp] theorem modDepot_uid (s : State) (d n : Nat) (f : Depot → Depot) : (s.modDepot d n f).uid = s.uid := rfl
@[simp] theorem modDepot_freeCtr (s : State) (d n : Nat) (f : Depot → Depot) : (s.modDepot d n f).freeCtr = s.freeCtr := rfl

@[simp] theorem modJunc_mem (s : State) (j : Nat) (f : Junction → Junction) : (s.modJunc j f).mem = s.mem := rfl
@[simp] theorem modJunc_poison (s : State) (j : Nat) (f : Junction → Junction) : (s.modJunc j f).poison = s.poison := rfl
@[simp] theorem modJunc_stuck (s : State) (j : Nat) (f : Junction → Junction) : (s.modJunc j f).stuck = s.stuck := rfl
@[simp] theorem modJunc_l2 (s : State) (j : Nat) (f : Junction → Junction) : (s.modJunc j f).l2 = s.l2 := rfl
@[simp] theorem modJunc_tlb (s : State) (j : Nat) (f : Junction → Junction) : (s.modJunc j f).tlb = s.tlb := rfl
@[simp] theorem modJunc_tiles (s : State) (j : Nat) (f : Junction → Junction) : (s.modJunc j f).tiles = s.tiles := rfl
@[simp] theorem modJunc_depots (s : State) (j : Nat) (f : Junction → Junction) : (s.modJunc j f).depots = s.depots := rfl
@[simp] theorem modJunc_slots (s : State) (j : Nat) (f : Junction → Junction) : (s.modJunc j f).slots = s.slots := rfl
@[simp] theorem modJunc_boxes (s : State) (j : Nat) (f : Junction → Junction) : (s.modJunc j f).boxes = s.boxes := rfl
@[simp] theorem modJunc_cores (s : State) (j : Nat) (f : Junction → Junction) : (s.modJunc j f).cores = s.cores := rfl
@[simp] theorem modJunc_transit (s : State) (j : Nat) (f : Junction → Junction) : (s.modJunc j f).transit = s.transit := rfl
@[simp] theorem modJunc_withheld (s : State) (j : Nat) (f : Junction → Junction) : (s.modJunc j f).withheld = s.withheld := rfl
@[simp] theorem modJunc_sys (s : State) (j : Nat) (f : Junction → Junction) : (s.modJunc j f).sys = s.sys := rfl
@[simp] theorem modJunc_net (s : State) (j : Nat) (f : Junction → Junction) : (s.modJunc j f).net = s.net := rfl
@[simp] theorem modJunc_flash (s : State) (j : Nat) (f : Junction → Junction) : (s.modJunc j f).flash = s.flash := rfl
@[simp] theorem modJunc_life (s : State) (j : Nat) (f : Junction → Junction) : (s.modJunc j f).life = s.life := rfl
@[simp] theorem modJunc_copies (s : State) (j : Nat) (f : Junction → Junction) : (s.modJunc j f).copies = s.copies := rfl
@[simp] theorem modJunc_cur (s : State) (j : Nat) (f : Junction → Junction) : (s.modJunc j f).cur = s.cur := rfl
@[simp] theorem modJunc_ir (s : State) (j : Nat) (f : Junction → Junction) : (s.modJunc j f).ir = s.ir := rfl
@[simp] theorem modJunc_arg (s : State) (j : Nat) (f : Junction → Junction) : (s.modJunc j f).arg = s.arg := rfl
@[simp] theorem modJunc_inbox (s : State) (j : Nat) (f : Junction → Junction) : (s.modJunc j f).inbox = s.inbox := rfl
@[simp] theorem modJunc_agenda (s : State) (j : Nat) (f : Junction → Junction) : (s.modJunc j f).agenda = s.agenda := rfl
@[simp] theorem modJunc_script (s : State) (j : Nat) (f : Junction → Junction) : (s.modJunc j f).script = s.script := rfl
@[simp] theorem modJunc_outbox (s : State) (j : Nat) (f : Junction → Junction) : (s.modJunc j f).outbox = s.outbox := rfl
@[simp] theorem modJunc_steps (s : State) (j : Nat) (f : Junction → Junction) : (s.modJunc j f).steps = s.steps := rfl
@[simp] theorem modJunc_uid (s : State) (j : Nat) (f : Junction → Junction) : (s.modJunc j f).uid = s.uid := rfl
@[simp] theorem modJunc_freeCtr (s : State) (j : Nat) (f : Junction → Junction) : (s.modJunc j f).freeCtr = s.freeCtr := rfl

@[simp] theorem modCore_mem (s : State) (n : Nat) (f : Core → Core) : (s.modCore n f).mem = s.mem := rfl
@[simp] theorem modCore_poison (s : State) (n : Nat) (f : Core → Core) : (s.modCore n f).poison = s.poison := rfl
@[simp] theorem modCore_stuck (s : State) (n : Nat) (f : Core → Core) : (s.modCore n f).stuck = s.stuck := rfl
@[simp] theorem modCore_l2 (s : State) (n : Nat) (f : Core → Core) : (s.modCore n f).l2 = s.l2 := rfl
@[simp] theorem modCore_tlb (s : State) (n : Nat) (f : Core → Core) : (s.modCore n f).tlb = s.tlb := rfl
@[simp] theorem modCore_tiles (s : State) (n : Nat) (f : Core → Core) : (s.modCore n f).tiles = s.tiles := rfl
@[simp] theorem modCore_depots (s : State) (n : Nat) (f : Core → Core) : (s.modCore n f).depots = s.depots := rfl
@[simp] theorem modCore_slots (s : State) (n : Nat) (f : Core → Core) : (s.modCore n f).slots = s.slots := rfl
@[simp] theorem modCore_boxes (s : State) (n : Nat) (f : Core → Core) : (s.modCore n f).boxes = s.boxes := rfl
@[simp] theorem modCore_transit (s : State) (n : Nat) (f : Core → Core) : (s.modCore n f).transit = s.transit := rfl
@[simp] theorem modCore_juncs (s : State) (n : Nat) (f : Core → Core) : (s.modCore n f).juncs = s.juncs := rfl
@[simp] theorem modCore_withheld (s : State) (n : Nat) (f : Core → Core) : (s.modCore n f).withheld = s.withheld := rfl
@[simp] theorem modCore_sys (s : State) (n : Nat) (f : Core → Core) : (s.modCore n f).sys = s.sys := rfl
@[simp] theorem modCore_net (s : State) (n : Nat) (f : Core → Core) : (s.modCore n f).net = s.net := rfl
@[simp] theorem modCore_flash (s : State) (n : Nat) (f : Core → Core) : (s.modCore n f).flash = s.flash := rfl
@[simp] theorem modCore_life (s : State) (n : Nat) (f : Core → Core) : (s.modCore n f).life = s.life := rfl
@[simp] theorem modCore_copies (s : State) (n : Nat) (f : Core → Core) : (s.modCore n f).copies = s.copies := rfl
@[simp] theorem modCore_cur (s : State) (n : Nat) (f : Core → Core) : (s.modCore n f).cur = s.cur := rfl
@[simp] theorem modCore_ir (s : State) (n : Nat) (f : Core → Core) : (s.modCore n f).ir = s.ir := rfl
@[simp] theorem modCore_arg (s : State) (n : Nat) (f : Core → Core) : (s.modCore n f).arg = s.arg := rfl
@[simp] theorem modCore_inbox (s : State) (n : Nat) (f : Core → Core) : (s.modCore n f).inbox = s.inbox := rfl
@[simp] theorem modCore_agenda (s : State) (n : Nat) (f : Core → Core) : (s.modCore n f).agenda = s.agenda := rfl
@[simp] theorem modCore_script (s : State) (n : Nat) (f : Core → Core) : (s.modCore n f).script = s.script := rfl
@[simp] theorem modCore_outbox (s : State) (n : Nat) (f : Core → Core) : (s.modCore n f).outbox = s.outbox := rfl
@[simp] theorem modCore_steps (s : State) (n : Nat) (f : Core → Core) : (s.modCore n f).steps = s.steps := rfl
@[simp] theorem modCore_uid (s : State) (n : Nat) (f : Core → Core) : (s.modCore n f).uid = s.uid := rfl
@[simp] theorem modCore_freeCtr (s : State) (n : Nat) (f : Core → Core) : (s.modCore n f).freeCtr = s.freeCtr := rfl

@[simp] theorem modSys_mem (s : State) (f : Sys → Sys) : (s.modSys f).mem = s.mem := rfl
@[simp] theorem modSys_poison (s : State) (f : Sys → Sys) : (s.modSys f).poison = s.poison := rfl
@[simp] theorem modSys_stuck (s : State) (f : Sys → Sys) : (s.modSys f).stuck = s.stuck := rfl
@[simp] theorem modSys_l2 (s : State) (f : Sys → Sys) : (s.modSys f).l2 = s.l2 := rfl
@[simp] theorem modSys_tlb (s : State) (f : Sys → Sys) : (s.modSys f).tlb = s.tlb := rfl
@[simp] theorem modSys_tiles (s : State) (f : Sys → Sys) : (s.modSys f).tiles = s.tiles := rfl
@[simp] theorem modSys_depots (s : State) (f : Sys → Sys) : (s.modSys f).depots = s.depots := rfl
@[simp] theorem modSys_slots (s : State) (f : Sys → Sys) : (s.modSys f).slots = s.slots := rfl
@[simp] theorem modSys_boxes (s : State) (f : Sys → Sys) : (s.modSys f).boxes = s.boxes := rfl
@[simp] theorem modSys_cores (s : State) (f : Sys → Sys) : (s.modSys f).cores = s.cores := rfl
@[simp] theorem modSys_transit (s : State) (f : Sys → Sys) : (s.modSys f).transit = s.transit := rfl
@[simp] theorem modSys_juncs (s : State) (f : Sys → Sys) : (s.modSys f).juncs = s.juncs := rfl
@[simp] theorem modSys_withheld (s : State) (f : Sys → Sys) : (s.modSys f).withheld = s.withheld := rfl
@[simp] theorem modSys_net (s : State) (f : Sys → Sys) : (s.modSys f).net = s.net := rfl
@[simp] theorem modSys_flash (s : State) (f : Sys → Sys) : (s.modSys f).flash = s.flash := rfl
@[simp] theorem modSys_life (s : State) (f : Sys → Sys) : (s.modSys f).life = s.life := rfl
@[simp] theorem modSys_copies (s : State) (f : Sys → Sys) : (s.modSys f).copies = s.copies := rfl
@[simp] theorem modSys_cur (s : State) (f : Sys → Sys) : (s.modSys f).cur = s.cur := rfl
@[simp] theorem modSys_ir (s : State) (f : Sys → Sys) : (s.modSys f).ir = s.ir := rfl
@[simp] theorem modSys_arg (s : State) (f : Sys → Sys) : (s.modSys f).arg = s.arg := rfl
@[simp] theorem modSys_inbox (s : State) (f : Sys → Sys) : (s.modSys f).inbox = s.inbox := rfl
@[simp] theorem modSys_agenda (s : State) (f : Sys → Sys) : (s.modSys f).agenda = s.agenda := rfl
@[simp] theorem modSys_script (s : State) (f : Sys → Sys) : (s.modSys f).script = s.script := rfl
@[simp] theorem modSys_outbox (s : State) (f : Sys → Sys) : (s.modSys f).outbox = s.outbox := rfl
@[simp] theorem modSys_steps (s : State) (f : Sys → Sys) : (s.modSys f).steps = s.steps := rfl
@[simp] theorem modSys_uid (s : State) (f : Sys → Sys) : (s.modSys f).uid = s.uid := rfl
@[simp] theorem modSys_freeCtr (s : State) (f : Sys → Sys) : (s.modSys f).freeCtr = s.freeCtr := rfl

@[simp] theorem modMyTile_mem (s : State) (f : Tile → Tile) : (s.modMyTile f).mem = s.mem := rfl
@[simp] theorem modMyTile_poison (s : State) (f : Tile → Tile) : (s.modMyTile f).poison = s.poison := rfl
@[simp] theorem modMyTile_stuck (s : State) (f : Tile → Tile) : (s.modMyTile f).stuck = s.stuck := rfl
@[simp] theorem modMyTile_l2 (s : State) (f : Tile → Tile) : (s.modMyTile f).l2 = s.l2 := rfl
@[simp] theorem modMyTile_tlb (s : State) (f : Tile → Tile) : (s.modMyTile f).tlb = s.tlb := rfl
@[simp] theorem modMyTile_depots (s : State) (f : Tile → Tile) : (s.modMyTile f).depots = s.depots := rfl
@[simp] theorem modMyTile_slots (s : State) (f : Tile → Tile) : (s.modMyTile f).slots = s.slots := rfl
@[simp] theorem modMyTile_boxes (s : State) (f : Tile → Tile) : (s.modMyTile f).boxes = s.boxes := rfl
@[simp] theorem modMyTile_cores (s : State) (f : Tile → Tile) : (s.modMyTile f).cores = s.cores := rfl
@[simp] theorem modMyTile_transit (s : State) (f : Tile → Tile) : (s.modMyTile f).transit = s.transit := rfl
@[simp] theorem modMyTile_juncs (s : State) (f : Tile → Tile) : (s.modMyTile f).juncs = s.juncs := rfl
@[simp] theorem modMyTile_withheld (s : State) (f : Tile → Tile) : (s.modMyTile f).withheld = s.withheld := rfl
@[simp] theorem modMyTile_sys (s : State) (f : Tile → Tile) : (s.modMyTile f).sys = s.sys := rfl
@[simp] theorem modMyTile_net (s : State) (f : Tile → Tile) : (s.modMyTile f).net = s.net := rfl
@[simp] theorem modMyTile_flash (s : State) (f : Tile → Tile) : (s.modMyTile f).flash = s.flash := rfl
@[simp] theorem modMyTile_life (s : State) (f : Tile → Tile) : (s.modMyTile f).life = s.life := rfl
@[simp] theorem modMyTile_copies (s : State) (f : Tile → Tile) : (s.modMyTile f).copies = s.copies := rfl
@[simp] theorem modMyTile_cur (s : State) (f : Tile → Tile) : (s.modMyTile f).cur = s.cur := rfl
@[simp] theorem modMyTile_ir (s : State) (f : Tile → Tile) : (s.modMyTile f).ir = s.ir := rfl
@[simp] theorem modMyTile_arg (s : State) (f : Tile → Tile) : (s.modMyTile f).arg = s.arg := rfl
@[simp] theorem modMyTile_inbox (s : State) (f : Tile → Tile) : (s.modMyTile f).inbox = s.inbox := rfl
@[simp] theorem modMyTile_agenda (s : State) (f : Tile → Tile) : (s.modMyTile f).agenda = s.agenda := rfl
@[simp] theorem modMyTile_script (s : State) (f : Tile → Tile) : (s.modMyTile f).script = s.script := rfl
@[simp] theorem modMyTile_outbox (s : State) (f : Tile → Tile) : (s.modMyTile f).outbox = s.outbox := rfl
@[simp] theorem modMyTile_steps (s : State) (f : Tile → Tile) : (s.modMyTile f).steps = s.steps := rfl
@[simp] theorem modMyTile_uid (s : State) (f : Tile → Tile) : (s.modMyTile f).uid = s.uid := rfl
@[simp] theorem modMyTile_freeCtr (s : State) (f : Tile → Tile) : (s.modMyTile f).freeCtr = s.freeCtr := rfl

@[simp] theorem modMe_mem (s : State) (f : Context → Context) : (s.modMe f).mem = s.mem := rfl
@[simp] theorem modMe_poison (s : State) (f : Context → Context) : (s.modMe f).poison = s.poison := rfl
@[simp] theorem modMe_stuck (s : State) (f : Context → Context) : (s.modMe f).stuck = s.stuck := rfl
@[simp] theorem modMe_l2 (s : State) (f : Context → Context) : (s.modMe f).l2 = s.l2 := rfl
@[simp] theorem modMe_tlb (s : State) (f : Context → Context) : (s.modMe f).tlb = s.tlb := rfl
@[simp] theorem modMe_depots (s : State) (f : Context → Context) : (s.modMe f).depots = s.depots := rfl
@[simp] theorem modMe_slots (s : State) (f : Context → Context) : (s.modMe f).slots = s.slots := rfl
@[simp] theorem modMe_boxes (s : State) (f : Context → Context) : (s.modMe f).boxes = s.boxes := rfl
@[simp] theorem modMe_cores (s : State) (f : Context → Context) : (s.modMe f).cores = s.cores := rfl
@[simp] theorem modMe_transit (s : State) (f : Context → Context) : (s.modMe f).transit = s.transit := rfl
@[simp] theorem modMe_juncs (s : State) (f : Context → Context) : (s.modMe f).juncs = s.juncs := rfl
@[simp] theorem modMe_withheld (s : State) (f : Context → Context) : (s.modMe f).withheld = s.withheld := rfl
@[simp] theorem modMe_sys (s : State) (f : Context → Context) : (s.modMe f).sys = s.sys := rfl
@[simp] theorem modMe_net (s : State) (f : Context → Context) : (s.modMe f).net = s.net := rfl
@[simp] theorem modMe_flash (s : State) (f : Context → Context) : (s.modMe f).flash = s.flash := rfl
@[simp] theorem modMe_life (s : State) (f : Context → Context) : (s.modMe f).life = s.life := rfl
@[simp] theorem modMe_copies (s : State) (f : Context → Context) : (s.modMe f).copies = s.copies := rfl
@[simp] theorem modMe_cur (s : State) (f : Context → Context) : (s.modMe f).cur = s.cur := rfl
@[simp] theorem modMe_ir (s : State) (f : Context → Context) : (s.modMe f).ir = s.ir := rfl
@[simp] theorem modMe_arg (s : State) (f : Context → Context) : (s.modMe f).arg = s.arg := rfl
@[simp] theorem modMe_inbox (s : State) (f : Context → Context) : (s.modMe f).inbox = s.inbox := rfl
@[simp] theorem modMe_agenda (s : State) (f : Context → Context) : (s.modMe f).agenda = s.agenda := rfl
@[simp] theorem modMe_script (s : State) (f : Context → Context) : (s.modMe f).script = s.script := rfl
@[simp] theorem modMe_outbox (s : State) (f : Context → Context) : (s.modMe f).outbox = s.outbox := rfl
@[simp] theorem modMe_steps (s : State) (f : Context → Context) : (s.modMe f).steps = s.steps := rfl
@[simp] theorem modMe_uid (s : State) (f : Context → Context) : (s.modMe f).uid = s.uid := rfl
@[simp] theorem modMe_freeCtr (s : State) (f : Context → Context) : (s.modMe f).freeCtr = s.freeCtr := rfl

@[simp] theorem post_mem (s : State) (n : Nat) (ev : Instr) (x : Arg) : (s.post n ev x).mem = s.mem := rfl
@[simp] theorem post_poison (s : State) (n : Nat) (ev : Instr) (x : Arg) : (s.post n ev x).poison = s.poison := rfl
@[simp] theorem post_stuck (s : State) (n : Nat) (ev : Instr) (x : Arg) : (s.post n ev x).stuck = s.stuck := rfl
@[simp] theorem post_l2 (s : State) (n : Nat) (ev : Instr) (x : Arg) : (s.post n ev x).l2 = s.l2 := rfl
@[simp] theorem post_tlb (s : State) (n : Nat) (ev : Instr) (x : Arg) : (s.post n ev x).tlb = s.tlb := rfl
@[simp] theorem post_tiles (s : State) (n : Nat) (ev : Instr) (x : Arg) : (s.post n ev x).tiles = s.tiles := rfl
@[simp] theorem post_depots (s : State) (n : Nat) (ev : Instr) (x : Arg) : (s.post n ev x).depots = s.depots := rfl
@[simp] theorem post_slots (s : State) (n : Nat) (ev : Instr) (x : Arg) : (s.post n ev x).slots = s.slots := rfl
@[simp] theorem post_boxes (s : State) (n : Nat) (ev : Instr) (x : Arg) : (s.post n ev x).boxes = s.boxes := rfl
@[simp] theorem post_cores (s : State) (n : Nat) (ev : Instr) (x : Arg) : (s.post n ev x).cores = s.cores := rfl
@[simp] theorem post_transit (s : State) (n : Nat) (ev : Instr) (x : Arg) : (s.post n ev x).transit = s.transit := rfl
@[simp] theorem post_juncs (s : State) (n : Nat) (ev : Instr) (x : Arg) : (s.post n ev x).juncs = s.juncs := rfl
@[simp] theorem post_withheld (s : State) (n : Nat) (ev : Instr) (x : Arg) : (s.post n ev x).withheld = s.withheld := rfl
@[simp] theorem post_sys (s : State) (n : Nat) (ev : Instr) (x : Arg) : (s.post n ev x).sys = s.sys := rfl
@[simp] theorem post_net (s : State) (n : Nat) (ev : Instr) (x : Arg) : (s.post n ev x).net = s.net := rfl
@[simp] theorem post_flash (s : State) (n : Nat) (ev : Instr) (x : Arg) : (s.post n ev x).flash = s.flash := rfl
@[simp] theorem post_life (s : State) (n : Nat) (ev : Instr) (x : Arg) : (s.post n ev x).life = s.life := rfl
@[simp] theorem post_copies (s : State) (n : Nat) (ev : Instr) (x : Arg) : (s.post n ev x).copies = s.copies := rfl
@[simp] theorem post_cur (s : State) (n : Nat) (ev : Instr) (x : Arg) : (s.post n ev x).cur = s.cur := rfl
@[simp] theorem post_ir (s : State) (n : Nat) (ev : Instr) (x : Arg) : (s.post n ev x).ir = s.ir := rfl
@[simp] theorem post_arg (s : State) (n : Nat) (ev : Instr) (x : Arg) : (s.post n ev x).arg = s.arg := rfl
@[simp] theorem post_inbox (s : State) (n : Nat) (ev : Instr) (x : Arg) : (s.post n ev x).inbox = s.inbox := rfl
@[simp] theorem post_script (s : State) (n : Nat) (ev : Instr) (x : Arg) : (s.post n ev x).script = s.script := rfl
@[simp] theorem post_outbox (s : State) (n : Nat) (ev : Instr) (x : Arg) : (s.post n ev x).outbox = s.outbox := rfl
@[simp] theorem post_steps (s : State) (n : Nat) (ev : Instr) (x : Arg) : (s.post n ev x).steps = s.steps := rfl
@[simp] theorem post_uid (s : State) (n : Nat) (ev : Instr) (x : Arg) : (s.post n ev x).uid = s.uid := rfl
@[simp] theorem post_freeCtr (s : State) (n : Nat) (ev : Instr) (x : Arg) : (s.post n ev x).freeCtr = s.freeCtr := rfl

@[simp] theorem emit_mem (s : State) (o : Out) : (s.emit o).mem = s.mem := rfl
@[simp] theorem emit_poison (s : State) (o : Out) : (s.emit o).poison = s.poison := rfl
@[simp] theorem emit_stuck (s : State) (o : Out) : (s.emit o).stuck = s.stuck := rfl
@[simp] theorem emit_l2 (s : State) (o : Out) : (s.emit o).l2 = s.l2 := rfl
@[simp] theorem emit_tlb (s : State) (o : Out) : (s.emit o).tlb = s.tlb := rfl
@[simp] theorem emit_tiles (s : State) (o : Out) : (s.emit o).tiles = s.tiles := rfl
@[simp] theorem emit_depots (s : State) (o : Out) : (s.emit o).depots = s.depots := rfl
@[simp] theorem emit_slots (s : State) (o : Out) : (s.emit o).slots = s.slots := rfl
@[simp] theorem emit_boxes (s : State) (o : Out) : (s.emit o).boxes = s.boxes := rfl
@[simp] theorem emit_cores (s : State) (o : Out) : (s.emit o).cores = s.cores := rfl
@[simp] theorem emit_transit (s : State) (o : Out) : (s.emit o).transit = s.transit := rfl
@[simp] theorem emit_juncs (s : State) (o : Out) : (s.emit o).juncs = s.juncs := rfl
@[simp] theorem emit_withheld (s : State) (o : Out) : (s.emit o).withheld = s.withheld := rfl
@[simp] theorem emit_sys (s : State) (o : Out) : (s.emit o).sys = s.sys := rfl
@[simp] theorem emit_net (s : State) (o : Out) : (s.emit o).net = s.net := rfl
@[simp] theorem emit_flash (s : State) (o : Out) : (s.emit o).flash = s.flash := rfl
@[simp] theorem emit_life (s : State) (o : Out) : (s.emit o).life = s.life := rfl
@[simp] theorem emit_copies (s : State) (o : Out) : (s.emit o).copies = s.copies := rfl
@[simp] theorem emit_cur (s : State) (o : Out) : (s.emit o).cur = s.cur := rfl
@[simp] theorem emit_ir (s : State) (o : Out) : (s.emit o).ir = s.ir := rfl
@[simp] theorem emit_arg (s : State) (o : Out) : (s.emit o).arg = s.arg := rfl
@[simp] theorem emit_inbox (s : State) (o : Out) : (s.emit o).inbox = s.inbox := rfl
@[simp] theorem emit_agenda (s : State) (o : Out) : (s.emit o).agenda = s.agenda := rfl
@[simp] theorem emit_script (s : State) (o : Out) : (s.emit o).script = s.script := rfl
@[simp] theorem emit_steps (s : State) (o : Out) : (s.emit o).steps = s.steps := rfl
@[simp] theorem emit_uid (s : State) (o : Out) : (s.emit o).uid = s.uid := rfl
@[simp] theorem emit_freeCtr (s : State) (o : Out) : (s.emit o).freeCtr = s.freeCtr := rfl

@[simp] theorem mark_mem (s : State) (g : Nat) (on : Bool) : (s.mark g on).mem = s.mem := rfl
@[simp] theorem mark_stuck (s : State) (g : Nat) (on : Bool) : (s.mark g on).stuck = s.stuck := rfl
@[simp] theorem mark_l2 (s : State) (g : Nat) (on : Bool) : (s.mark g on).l2 = s.l2 := rfl
@[simp] theorem mark_tlb (s : State) (g : Nat) (on : Bool) : (s.mark g on).tlb = s.tlb := rfl
@[simp] theorem mark_tiles (s : State) (g : Nat) (on : Bool) : (s.mark g on).tiles = s.tiles := rfl
@[simp] theorem mark_depots (s : State) (g : Nat) (on : Bool) : (s.mark g on).depots = s.depots := rfl
@[simp] theorem mark_slots (s : State) (g : Nat) (on : Bool) : (s.mark g on).slots = s.slots := rfl
@[simp] theorem mark_boxes (s : State) (g : Nat) (on : Bool) : (s.mark g on).boxes = s.boxes := rfl
@[simp] theorem mark_cores (s : State) (g : Nat) (on : Bool) : (s.mark g on).cores = s.cores := rfl
@[simp] theorem mark_transit (s : State) (g : Nat) (on : Bool) : (s.mark g on).transit = s.transit := rfl
@[simp] theorem mark_juncs (s : State) (g : Nat) (on : Bool) : (s.mark g on).juncs = s.juncs := rfl
@[simp] theorem mark_withheld (s : State) (g : Nat) (on : Bool) : (s.mark g on).withheld = s.withheld := rfl
@[simp] theorem mark_sys (s : State) (g : Nat) (on : Bool) : (s.mark g on).sys = s.sys := rfl
@[simp] theorem mark_net (s : State) (g : Nat) (on : Bool) : (s.mark g on).net = s.net := rfl
@[simp] theorem mark_flash (s : State) (g : Nat) (on : Bool) : (s.mark g on).flash = s.flash := rfl
@[simp] theorem mark_life (s : State) (g : Nat) (on : Bool) : (s.mark g on).life = s.life := rfl
@[simp] theorem mark_copies (s : State) (g : Nat) (on : Bool) : (s.mark g on).copies = s.copies := rfl
@[simp] theorem mark_cur (s : State) (g : Nat) (on : Bool) : (s.mark g on).cur = s.cur := rfl
@[simp] theorem mark_ir (s : State) (g : Nat) (on : Bool) : (s.mark g on).ir = s.ir := rfl
@[simp] theorem mark_arg (s : State) (g : Nat) (on : Bool) : (s.mark g on).arg = s.arg := rfl
@[simp] theorem mark_inbox (s : State) (g : Nat) (on : Bool) : (s.mark g on).inbox = s.inbox := rfl
@[simp] theorem mark_agenda (s : State) (g : Nat) (on : Bool) : (s.mark g on).agenda = s.agenda := rfl
@[simp] theorem mark_script (s : State) (g : Nat) (on : Bool) : (s.mark g on).script = s.script := rfl
@[simp] theorem mark_outbox (s : State) (g : Nat) (on : Bool) : (s.mark g on).outbox = s.outbox := rfl
@[simp] theorem mark_steps (s : State) (g : Nat) (on : Bool) : (s.mark g on).steps = s.steps := rfl
@[simp] theorem mark_uid (s : State) (g : Nat) (on : Bool) : (s.mark g on).uid = s.uid := rfl
@[simp] theorem mark_freeCtr (s : State) (g : Nat) (on : Bool) : (s.mark g on).freeCtr = s.freeCtr := rfl

@[simp] theorem modHartOf_mem (s : State) (a : Agent) (f : Hart → Hart) : (s.modHartOf a f).mem = s.mem := by cases a <;> rfl
@[simp] theorem modHartOf_poison (s : State) (a : Agent) (f : Hart → Hart) : (s.modHartOf a f).poison = s.poison := by cases a <;> rfl
@[simp] theorem modHartOf_stuck (s : State) (a : Agent) (f : Hart → Hart) : (s.modHartOf a f).stuck = s.stuck := by cases a <;> rfl
@[simp] theorem modHartOf_l2 (s : State) (a : Agent) (f : Hart → Hart) : (s.modHartOf a f).l2 = s.l2 := by cases a <;> rfl
@[simp] theorem modHartOf_tlb (s : State) (a : Agent) (f : Hart → Hart) : (s.modHartOf a f).tlb = s.tlb := by cases a <;> rfl
@[simp] theorem modHartOf_depots (s : State) (a : Agent) (f : Hart → Hart) : (s.modHartOf a f).depots = s.depots := by cases a <;> rfl
@[simp] theorem modHartOf_slots (s : State) (a : Agent) (f : Hart → Hart) : (s.modHartOf a f).slots = s.slots := by cases a <;> rfl
@[simp] theorem modHartOf_boxes (s : State) (a : Agent) (f : Hart → Hart) : (s.modHartOf a f).boxes = s.boxes := by cases a <;> rfl
@[simp] theorem modHartOf_transit (s : State) (a : Agent) (f : Hart → Hart) : (s.modHartOf a f).transit = s.transit := by cases a <;> rfl
@[simp] theorem modHartOf_juncs (s : State) (a : Agent) (f : Hart → Hart) : (s.modHartOf a f).juncs = s.juncs := by cases a <;> rfl
@[simp] theorem modHartOf_withheld (s : State) (a : Agent) (f : Hart → Hart) : (s.modHartOf a f).withheld = s.withheld := by cases a <;> rfl
@[simp] theorem modHartOf_sys (s : State) (a : Agent) (f : Hart → Hart) : (s.modHartOf a f).sys = s.sys := by cases a <;> rfl
@[simp] theorem modHartOf_net (s : State) (a : Agent) (f : Hart → Hart) : (s.modHartOf a f).net = s.net := by cases a <;> rfl
@[simp] theorem modHartOf_flash (s : State) (a : Agent) (f : Hart → Hart) : (s.modHartOf a f).flash = s.flash := by cases a <;> rfl
@[simp] theorem modHartOf_life (s : State) (a : Agent) (f : Hart → Hart) : (s.modHartOf a f).life = s.life := by cases a <;> rfl
@[simp] theorem modHartOf_copies (s : State) (a : Agent) (f : Hart → Hart) : (s.modHartOf a f).copies = s.copies := by cases a <;> rfl
@[simp] theorem modHartOf_cur (s : State) (a : Agent) (f : Hart → Hart) : (s.modHartOf a f).cur = s.cur := by cases a <;> rfl
@[simp] theorem modHartOf_ir (s : State) (a : Agent) (f : Hart → Hart) : (s.modHartOf a f).ir = s.ir := by cases a <;> rfl
@[simp] theorem modHartOf_arg (s : State) (a : Agent) (f : Hart → Hart) : (s.modHartOf a f).arg = s.arg := by cases a <;> rfl
@[simp] theorem modHartOf_inbox (s : State) (a : Agent) (f : Hart → Hart) : (s.modHartOf a f).inbox = s.inbox := by cases a <;> rfl
@[simp] theorem modHartOf_agenda (s : State) (a : Agent) (f : Hart → Hart) : (s.modHartOf a f).agenda = s.agenda := by cases a <;> rfl
@[simp] theorem modHartOf_script (s : State) (a : Agent) (f : Hart → Hart) : (s.modHartOf a f).script = s.script := by cases a <;> rfl
@[simp] theorem modHartOf_outbox (s : State) (a : Agent) (f : Hart → Hart) : (s.modHartOf a f).outbox = s.outbox := by cases a <;> rfl
@[simp] theorem modHartOf_steps (s : State) (a : Agent) (f : Hart → Hart) : (s.modHartOf a f).steps = s.steps := by cases a <;> rfl
@[simp] theorem modHartOf_uid (s : State) (a : Agent) (f : Hart → Hart) : (s.modHartOf a f).uid = s.uid := by cases a <;> rfl
@[simp] theorem modHartOf_freeCtr (s : State) (a : Agent) (f : Hart → Hart) : (s.modHartOf a f).freeCtr = s.freeCtr := by cases a <;> rfl

@[simp] theorem modHart_mem (s : State) (f : Hart → Hart) : (s.modHart f).mem = s.mem := modHartOf_mem s s.cur f
@[simp] theorem modHart_poison (s : State) (f : Hart → Hart) : (s.modHart f).poison = s.poison := modHartOf_poison s s.cur f
@[simp] theorem modHart_stuck (s : State) (f : Hart → Hart) : (s.modHart f).stuck = s.stuck := modHartOf_stuck s s.cur f
@[simp] theorem modHart_l2 (s : State) (f : Hart → Hart) : (s.modHart f).l2 = s.l2 := modHartOf_l2 s s.cur f
@[simp] theorem modHart_tlb (s : State) (f : Hart → Hart) : (s.modHart f).tlb = s.tlb := modHartOf_tlb s s.cur f
@[simp] theorem modHart_depots (s : State) (f : Hart → Hart) : (s.modHart f).depots = s.depots := modHartOf_depots s s.cur f
@[simp] theorem modHart_slots (s : State) (f : Hart → Hart) : (s.modHart f).slots = s.slots := modHartOf_slots s s.cur f
@[simp] theorem modHart_boxes (s : State) (f : Hart → Hart) : (s.modHart f).boxes = s.boxes := modHartOf_boxes s s.cur f
@[simp] theorem modHart_transit (s : State) (f : Hart → Hart) : (s.modHart f).transit = s.transit := modHartOf_transit s s.cur f
@[simp] theorem modHart_juncs (s : State) (f : Hart → Hart) : (s.modHart f).juncs = s.juncs := modHartOf_juncs s s.cur f
@[simp] theorem modHart_withheld (s : State) (f : Hart → Hart) : (s.modHart f).withheld = s.withheld := modHartOf_withheld s s.cur f
@[simp] theorem modHart_sys (s : State) (f : Hart → Hart) : (s.modHart f).sys = s.sys := modHartOf_sys s s.cur f
@[simp] theorem modHart_net (s : State) (f : Hart → Hart) : (s.modHart f).net = s.net := modHartOf_net s s.cur f
@[simp] theorem modHart_flash (s : State) (f : Hart → Hart) : (s.modHart f).flash = s.flash := modHartOf_flash s s.cur f
@[simp] theorem modHart_life (s : State) (f : Hart → Hart) : (s.modHart f).life = s.life := modHartOf_life s s.cur f
@[simp] theorem modHart_copies (s : State) (f : Hart → Hart) : (s.modHart f).copies = s.copies := modHartOf_copies s s.cur f
@[simp] theorem modHart_cur (s : State) (f : Hart → Hart) : (s.modHart f).cur = s.cur := modHartOf_cur s s.cur f
@[simp] theorem modHart_ir (s : State) (f : Hart → Hart) : (s.modHart f).ir = s.ir := modHartOf_ir s s.cur f
@[simp] theorem modHart_arg (s : State) (f : Hart → Hart) : (s.modHart f).arg = s.arg := modHartOf_arg s s.cur f
@[simp] theorem modHart_inbox (s : State) (f : Hart → Hart) : (s.modHart f).inbox = s.inbox := modHartOf_inbox s s.cur f
@[simp] theorem modHart_agenda (s : State) (f : Hart → Hart) : (s.modHart f).agenda = s.agenda := modHartOf_agenda s s.cur f
@[simp] theorem modHart_script (s : State) (f : Hart → Hart) : (s.modHart f).script = s.script := modHartOf_script s s.cur f
@[simp] theorem modHart_outbox (s : State) (f : Hart → Hart) : (s.modHart f).outbox = s.outbox := modHartOf_outbox s s.cur f
@[simp] theorem modHart_steps (s : State) (f : Hart → Hart) : (s.modHart f).steps = s.steps := modHartOf_steps s s.cur f
@[simp] theorem modHart_uid (s : State) (f : Hart → Hart) : (s.modHart f).uid = s.uid := modHartOf_uid s s.cur f
@[simp] theorem modHart_freeCtr (s : State) (f : Hart → Hart) : (s.modHart f).freeCtr = s.freeCtr := modHartOf_freeCtr s s.cur f

@[simp] theorem setPc_mem (s : State) (v : Word) : (s.setPc v).mem = s.mem := modHart_mem s _
@[simp] theorem setPc_poison (s : State) (v : Word) : (s.setPc v).poison = s.poison := modHart_poison s _
@[simp] theorem setPc_stuck (s : State) (v : Word) : (s.setPc v).stuck = s.stuck := modHart_stuck s _
@[simp] theorem setPc_l2 (s : State) (v : Word) : (s.setPc v).l2 = s.l2 := modHart_l2 s _
@[simp] theorem setPc_tlb (s : State) (v : Word) : (s.setPc v).tlb = s.tlb := modHart_tlb s _
@[simp] theorem setPc_depots (s : State) (v : Word) : (s.setPc v).depots = s.depots := modHart_depots s _
@[simp] theorem setPc_slots (s : State) (v : Word) : (s.setPc v).slots = s.slots := modHart_slots s _
@[simp] theorem setPc_boxes (s : State) (v : Word) : (s.setPc v).boxes = s.boxes := modHart_boxes s _
@[simp] theorem setPc_transit (s : State) (v : Word) : (s.setPc v).transit = s.transit := modHart_transit s _
@[simp] theorem setPc_juncs (s : State) (v : Word) : (s.setPc v).juncs = s.juncs := modHart_juncs s _
@[simp] theorem setPc_withheld (s : State) (v : Word) : (s.setPc v).withheld = s.withheld := modHart_withheld s _
@[simp] theorem setPc_sys (s : State) (v : Word) : (s.setPc v).sys = s.sys := modHart_sys s _
@[simp] theorem setPc_net (s : State) (v : Word) : (s.setPc v).net = s.net := modHart_net s _
@[simp] theorem setPc_flash (s : State) (v : Word) : (s.setPc v).flash = s.flash := modHart_flash s _
@[simp] theorem setPc_life (s : State) (v : Word) : (s.setPc v).life = s.life := modHart_life s _
@[simp] theorem setPc_copies (s : State) (v : Word) : (s.setPc v).copies = s.copies := modHart_copies s _
@[simp] theorem setPc_cur (s : State) (v : Word) : (s.setPc v).cur = s.cur := modHart_cur s _
@[simp] theorem setPc_ir (s : State) (v : Word) : (s.setPc v).ir = s.ir := modHart_ir s _
@[simp] theorem setPc_arg (s : State) (v : Word) : (s.setPc v).arg = s.arg := modHart_arg s _
@[simp] theorem setPc_inbox (s : State) (v : Word) : (s.setPc v).inbox = s.inbox := modHart_inbox s _
@[simp] theorem setPc_agenda (s : State) (v : Word) : (s.setPc v).agenda = s.agenda := modHart_agenda s _
@[simp] theorem setPc_script (s : State) (v : Word) : (s.setPc v).script = s.script := modHart_script s _
@[simp] theorem setPc_outbox (s : State) (v : Word) : (s.setPc v).outbox = s.outbox := modHart_outbox s _
@[simp] theorem setPc_steps (s : State) (v : Word) : (s.setPc v).steps = s.steps := modHart_steps s _
@[simp] theorem setPc_uid (s : State) (v : Word) : (s.setPc v).uid = s.uid := modHart_uid s _
@[simp] theorem setPc_freeCtr (s : State) (v : Word) : (s.setPc v).freeCtr = s.freeCtr := modHart_freeCtr s _

@[simp] theorem advance_mem (s : State) : s.advance.mem = s.mem := modHart_mem s _
@[simp] theorem advance_poison (s : State) : s.advance.poison = s.poison := modHart_poison s _
@[simp] theorem advance_stuck (s : State) : s.advance.stuck = s.stuck := modHart_stuck s _
@[simp] theorem advance_l2 (s : State) : s.advance.l2 = s.l2 := modHart_l2 s _
@[simp] theorem advance_tlb (s : State) : s.advance.tlb = s.tlb := modHart_tlb s _
@[simp] theorem advance_depots (s : State) : s.advance.depots = s.depots := modHart_depots s _
@[simp] theorem advance_slots (s : State) : s.advance.slots = s.slots := modHart_slots s _
@[simp] theorem advance_boxes (s : State) : s.advance.boxes = s.boxes := modHart_boxes s _
@[simp] theorem advance_transit (s : State) : s.advance.transit = s.transit := modHart_transit s _
@[simp] theorem advance_juncs (s : State) : s.advance.juncs = s.juncs := modHart_juncs s _
@[simp] theorem advance_withheld (s : State) : s.advance.withheld = s.withheld := modHart_withheld s _
@[simp] theorem advance_sys (s : State) : s.advance.sys = s.sys := modHart_sys s _
@[simp] theorem advance_net (s : State) : s.advance.net = s.net := modHart_net s _
@[simp] theorem advance_flash (s : State) : s.advance.flash = s.flash := modHart_flash s _
@[simp] theorem advance_life (s : State) : s.advance.life = s.life := modHart_life s _
@[simp] theorem advance_copies (s : State) : s.advance.copies = s.copies := modHart_copies s _
@[simp] theorem advance_cur (s : State) : s.advance.cur = s.cur := modHart_cur s _
@[simp] theorem advance_ir (s : State) : s.advance.ir = s.ir := modHart_ir s _
@[simp] theorem advance_arg (s : State) : s.advance.arg = s.arg := modHart_arg s _
@[simp] theorem advance_inbox (s : State) : s.advance.inbox = s.inbox := modHart_inbox s _
@[simp] theorem advance_agenda (s : State) : s.advance.agenda = s.agenda := modHart_agenda s _
@[simp] theorem advance_script (s : State) : s.advance.script = s.script := modHart_script s _
@[simp] theorem advance_outbox (s : State) : s.advance.outbox = s.outbox := modHart_outbox s _
@[simp] theorem advance_steps (s : State) : s.advance.steps = s.steps := modHart_steps s _
@[simp] theorem advance_uid (s : State) : s.advance.uid = s.uid := modHart_uid s _
@[simp] theorem advance_freeCtr (s : State) : s.advance.freeCtr = s.freeCtr := modHart_freeCtr s _

@[simp] theorem waits_mem (s : State) (w : Wait) : (s.waits w).mem = s.mem := modHart_mem s _
@[simp] theorem waits_poison (s : State) (w : Wait) : (s.waits w).poison = s.poison := modHart_poison s _
@[simp] theorem waits_stuck (s : State) (w : Wait) : (s.waits w).stuck = s.stuck := modHart_stuck s _
@[simp] theorem waits_l2 (s : State) (w : Wait) : (s.waits w).l2 = s.l2 := modHart_l2 s _
@[simp] theorem waits_tlb (s : State) (w : Wait) : (s.waits w).tlb = s.tlb := modHart_tlb s _
@[simp] theorem waits_depots (s : State) (w : Wait) : (s.waits w).depots = s.depots := modHart_depots s _
@[simp] theorem waits_slots (s : State) (w : Wait) : (s.waits w).slots = s.slots := modHart_slots s _
@[simp] theorem waits_boxes (s : State) (w : Wait) : (s.waits w).boxes = s.boxes := modHart_boxes s _
@[simp] theorem waits_transit (s : State) (w : Wait) : (s.waits w).transit = s.transit := modHart_transit s _
@[simp] theorem waits_juncs (s : State) (w : Wait) : (s.waits w).juncs = s.juncs := modHart_juncs s _
@[simp] theorem waits_withheld (s : State) (w : Wait) : (s.waits w).withheld = s.withheld := modHart_withheld s _
@[simp] theorem waits_sys (s : State) (w : Wait) : (s.waits w).sys = s.sys := modHart_sys s _
@[simp] theorem waits_net (s : State) (w : Wait) : (s.waits w).net = s.net := modHart_net s _
@[simp] theorem waits_flash (s : State) (w : Wait) : (s.waits w).flash = s.flash := modHart_flash s _
@[simp] theorem waits_life (s : State) (w : Wait) : (s.waits w).life = s.life := modHart_life s _
@[simp] theorem waits_copies (s : State) (w : Wait) : (s.waits w).copies = s.copies := modHart_copies s _
@[simp] theorem waits_cur (s : State) (w : Wait) : (s.waits w).cur = s.cur := modHart_cur s _
@[simp] theorem waits_ir (s : State) (w : Wait) : (s.waits w).ir = s.ir := modHart_ir s _
@[simp] theorem waits_arg (s : State) (w : Wait) : (s.waits w).arg = s.arg := modHart_arg s _
@[simp] theorem waits_inbox (s : State) (w : Wait) : (s.waits w).inbox = s.inbox := modHart_inbox s _
@[simp] theorem waits_agenda (s : State) (w : Wait) : (s.waits w).agenda = s.agenda := modHart_agenda s _
@[simp] theorem waits_script (s : State) (w : Wait) : (s.waits w).script = s.script := modHart_script s _
@[simp] theorem waits_outbox (s : State) (w : Wait) : (s.waits w).outbox = s.outbox := modHart_outbox s _
@[simp] theorem waits_steps (s : State) (w : Wait) : (s.waits w).steps = s.steps := modHart_steps s _
@[simp] theorem waits_uid (s : State) (w : Wait) : (s.waits w).uid = s.uid := modHart_uid s _
@[simp] theorem waits_freeCtr (s : State) (w : Wait) : (s.waits w).freeCtr = s.freeCtr := modHart_freeCtr s _

@[simp] theorem setG_mem (s : State) (n : BitVec 5) (v : Word) : (s.setG n v).mem = s.mem := by unfold State.setG; split <;> simp only [modHart_mem]
@[simp] theorem setG_poison (s : State) (n : BitVec 5) (v : Word) : (s.setG n v).poison = s.poison := by unfold State.setG; split <;> simp only [modHart_poison]
@[simp] theorem setG_stuck (s : State) (n : BitVec 5) (v : Word) : (s.setG n v).stuck = s.stuck := by unfold State.setG; split <;> simp only [modHart_stuck]
@[simp] theorem setG_l2 (s : State) (n : BitVec 5) (v : Word) : (s.setG n v).l2 = s.l2 := by unfold State.setG; split <;> simp only [modHart_l2]
@[simp] theorem setG_tlb (s : State) (n : BitVec 5) (v : Word) : (s.setG n v).tlb = s.tlb := by unfold State.setG; split <;> simp only [modHart_tlb]
@[simp] theorem setG_depots (s : State) (n : BitVec 5) (v : Word) : (s.setG n v).depots = s.depots := by unfold State.setG; split <;> simp only [modHart_depots]
@[simp] theorem setG_slots (s : State) (n : BitVec 5) (v : Word) : (s.setG n v).slots = s.slots := by unfold State.setG; split <;> simp only [modHart_slots]
@[simp] theorem setG_boxes (s : State) (n : BitVec 5) (v : Word) : (s.setG n v).boxes = s.boxes := by unfold State.setG; split <;> simp only [modHart_boxes]
@[simp] theorem setG_transit (s : State) (n : BitVec 5) (v : Word) : (s.setG n v).transit = s.transit := by unfold State.setG; split <;> simp only [modHart_transit]
@[simp] theorem setG_juncs (s : State) (n : BitVec 5) (v : Word) : (s.setG n v).juncs = s.juncs := by unfold State.setG; split <;> simp only [modHart_juncs]
@[simp] theorem setG_withheld (s : State) (n : BitVec 5) (v : Word) : (s.setG n v).withheld = s.withheld := by unfold State.setG; split <;> simp only [modHart_withheld]
@[simp] theorem setG_sys (s : State) (n : BitVec 5) (v : Word) : (s.setG n v).sys = s.sys := by unfold State.setG; split <;> simp only [modHart_sys]
@[simp] theorem setG_net (s : State) (n : BitVec 5) (v : Word) : (s.setG n v).net = s.net := by unfold State.setG; split <;> simp only [modHart_net]
@[simp] theorem setG_flash (s : State) (n : BitVec 5) (v : Word) : (s.setG n v).flash = s.flash := by unfold State.setG; split <;> simp only [modHart_flash]
@[simp] theorem setG_life (s : State) (n : BitVec 5) (v : Word) : (s.setG n v).life = s.life := by unfold State.setG; split <;> simp only [modHart_life]
@[simp] theorem setG_copies (s : State) (n : BitVec 5) (v : Word) : (s.setG n v).copies = s.copies := by unfold State.setG; split <;> simp only [modHart_copies]
@[simp] theorem setG_cur (s : State) (n : BitVec 5) (v : Word) : (s.setG n v).cur = s.cur := by unfold State.setG; split <;> simp only [modHart_cur]
@[simp] theorem setG_ir (s : State) (n : BitVec 5) (v : Word) : (s.setG n v).ir = s.ir := by unfold State.setG; split <;> simp only [modHart_ir]
@[simp] theorem setG_arg (s : State) (n : BitVec 5) (v : Word) : (s.setG n v).arg = s.arg := by unfold State.setG; split <;> simp only [modHart_arg]
@[simp] theorem setG_inbox (s : State) (n : BitVec 5) (v : Word) : (s.setG n v).inbox = s.inbox := by unfold State.setG; split <;> simp only [modHart_inbox]
@[simp] theorem setG_agenda (s : State) (n : BitVec 5) (v : Word) : (s.setG n v).agenda = s.agenda := by unfold State.setG; split <;> simp only [modHart_agenda]
@[simp] theorem setG_script (s : State) (n : BitVec 5) (v : Word) : (s.setG n v).script = s.script := by unfold State.setG; split <;> simp only [modHart_script]
@[simp] theorem setG_outbox (s : State) (n : BitVec 5) (v : Word) : (s.setG n v).outbox = s.outbox := by unfold State.setG; split <;> simp only [modHart_outbox]
@[simp] theorem setG_steps (s : State) (n : BitVec 5) (v : Word) : (s.setG n v).steps = s.steps := by unfold State.setG; split <;> simp only [modHart_steps]
@[simp] theorem setG_uid (s : State) (n : BitVec 5) (v : Word) : (s.setG n v).uid = s.uid := by unfold State.setG; split <;> simp only [modHart_uid]
@[simp] theorem setG_freeCtr (s : State) (n : BitVec 5) (v : Word) : (s.setG n v).freeCtr = s.freeCtr := by unfold State.setG; split <;> simp only [modHart_freeCtr]

end Sys2Proof.Laws
end

