-- ==== Sys2Proof/Laws/Ops.lean ====
section
/-! SUPPORT. What the operations over tables, memory and registers do, said once each. -/

namespace Sys2Proof.Laws

open Sys2Proof.Machine

/-! Tables and vectors. -/

theorem tbl_get_set {α : Type} (t : Tbl α) (k j : Nat) (v d : α) :
    (t.set k v).get j d = if j = k then v else t.get j d := by
  induction t with
  | nil => simp only [Tbl.set, Tbl.get, eq_comm]
  | cons e r ih =>
    obtain ⟨i, w⟩ := e
    by_cases h1 : k < i
    · simp only [Tbl.set, h1, if_true, Tbl.get, eq_comm (a := j)]
    · by_cases h2 : i = k
      · subst h2; simp only [Tbl.set, Nat.lt_irrefl, if_false, if_true, Tbl.get, eq_comm (a := j)]; split <;> rfl
      · simp only [Tbl.set, h1, h2, if_false, Tbl.get, ih]
        by_cases h3 : i = j
        · subst h3; simp [h2]
        · simp [h3]

@[simp] theorem tbl_get_set_self {α : Type} (t : Tbl α) (k : Nat) (v d : α) : (t.set k v).get k d = v := by
  simp [tbl_get_set]

theorem tbl_get_set_ne {α : Type} (t : Tbl α) {k j : Nat} (v d : α) (h : j ≠ k) : (t.set k v).get j d = t.get j d := by
  simp [tbl_get_set, h]

@[simp] theorem vget_vput_self {α : Type} {n : Nat} (v : Vector α n) (i : Nat) (x d : α) (h : i < n) :
    vget (vput v i x) i d = x := by simp [vget, vput, h]

theorem vget_vput_ne {α : Type} {n : Nat} (v : Vector α n) {i j : Nat} (x d : α) (h : i ≠ j) :
    vget (vput v i x) j d = vget v j d := by
  unfold vget vput
  by_cases hj : j < n <;> by_cases hi : i < n <;> simp [hj, hi, h]

/-! Memory. -/

theorem byte_append (m n : Memory) (a : Nat) :
    Memory.byte (m ++ n) a = if m.any (fun c => c.1 == a) then Memory.byte m a else Memory.byte n a := by
  induction m with
  | nil => simp
  | cons c r ih =>
    obtain ⟨k, b⟩ := c
    by_cases h : k = a <;> simp [Memory.byte, h, ih]

theorem byte_absent (m : Memory) (a : Nat) (h : m.any (fun c => c.1 == a) = false) : m.byte a = 0 := by
  induction m with
  | nil => rfl
  | cons c r ih =>
    obtain ⟨k, b⟩ := c
    simp only [List.any_cons, Bool.or_eq_false_iff, beq_eq_false_iff_ne] at h
    simp [Memory.byte, h.1, ih h.2]

theorem byte_filter (m : Memory) (p : Nat → Bool) (a : Nat) :
    Memory.byte (m.filter fun c => p c.1) a = if p a then m.byte a else 0 := by
  induction m with
  | nil => simp [Memory.byte]
  | cons c r ih =>
    obtain ⟨k, b⟩ := c
    by_cases hp : p k <;> by_cases h : k = a
    · subst h; simp [Memory.byte, hp]
    · simp [Memory.byte, hp, h, ih]
    · subst h; simp [hp, ih]
    · simp [Memory.byte, hp, h, ih]

theorem byte_cellsFrom (bs : List Byte) (a k : Nat) :
    Memory.byte (cellsFrom a bs) k = if a ≤ k ∧ k < a + bs.length then bs.getD (k - a) 0 else 0 := by
  induction bs generalizing a with
  | nil => simp [cellsFrom, Memory.byte]
  | cons b r ih =>
    have key : Memory.byte (cellsFrom (a + 1) r) k = if a + 1 ≤ k ∧ k < a + 1 + r.length then r.getD (k - (a + 1)) 0 else 0 := ih (a + 1)
    by_cases hk : k = a
    · subst hk
      have z : Memory.byte (cellsFrom (k + 1) r) k = 0 := by rw [key, if_neg (by omega)]
      unfold cellsFrom; split
      · rename_i h0; rw [z]; simp [h0]
      · simp [Memory.byte]
    · have e : Memory.byte (cellsFrom a (b :: r)) k = Memory.byte (cellsFrom (a + 1) r) k := by
        rw [cellsFrom]; split
        · rfl
        · simp [Memory.byte, Ne.symm hk]
      rw [e, key]
      by_cases h : a + 1 ≤ k ∧ k < a + 1 + r.length
      · have h2 : a ≤ k ∧ k < a + (b :: r).length := by simp only [List.length_cons]; omega
        rw [if_pos h, if_pos h2]
        obtain ⟨j, rfl⟩ : ∃ j, k = a + 1 + j := ⟨k - (a + 1), by omega⟩
        have e1 : a + 1 + j - (a + 1) = j := by omega
        have e2 : a + 1 + j - a = j + 1 := by omega
        rw [e1, e2]; rfl
      · have h2 : ¬(a ≤ k ∧ k < a + (b :: r).length) := by simp only [List.length_cons]; omega
        rw [if_neg h, if_neg h2]

theorem any_cellsFrom (bs : List Byte) (a k : Nat) (h : (cellsFrom a bs).any (fun c => c.1 == k) = true) :
    a ≤ k ∧ k < a + bs.length := by
  induction bs generalizing a with
  | nil => simp [cellsFrom] at h
  | cons b r ih =>
    unfold cellsFrom at h
    simp only [List.length_cons]
    split at h
    · have := ih (a + 1) h; omega
    · simp only [List.any_cons, Bool.or_eq_true, beq_iff_eq] at h
      rcases h with h | h
      · omega
      · have := ih (a + 1) h; omega

/-- A store read back: the stored bytes in their place, every other byte as before. -/
theorem byte_put (m : Memory) (a : Nat) (bs : List Byte) (k : Nat) :
    (m.put a bs).byte k = if a ≤ k ∧ k < a + bs.length then bs.getD (k - a) 0 else m.byte k := by
  unfold Memory.put
  rw [List.append_assoc, byte_append, byte_append, byte_cellsFrom]
  have f1 := byte_filter m (fun x => decide (x < a)) k
  have f2 := byte_filter m (fun x => decide (a + bs.length ≤ x)) k
  simp only [decide_eq_true_eq] at f1 f2
  rw [f1, f2]
  by_cases h : a ≤ k ∧ k < a + bs.length
  · have n1 : (List.filter (fun c : Host.Cell => decide (c.1 < a)) m).any (fun c => c.1 == k) = false := by
      rw [List.any_eq_false]; intro c hc; simp only [List.mem_filter, decide_eq_true_eq] at hc
      simp only [beq_iff_eq]; omega
    rw [n1, if_pos h]
    simp only [Bool.false_eq_true, if_false]
    by_cases hc : (cellsFrom a bs).any (fun c => c.1 == k) = true
    · rw [if_pos hc, if_pos h]
    · rw [if_neg hc, if_pos h]
      have z := byte_absent (cellsFrom a bs) k (Bool.eq_false_iff.2 hc)
      rw [byte_cellsFrom, if_pos h] at z
      rw [z, if_neg (by omega)]
  · have nc : (cellsFrom a bs).any (fun c => c.1 == k) = false :=
      Bool.eq_false_iff.2 fun hc => h (any_cellsFrom bs a k hc)
    rw [nc, if_neg h, if_neg h]
    by_cases hk : k < a
    · rw [if_pos hk]
      by_cases ha : (List.filter (fun c : Host.Cell => decide (c.1 < a)) m).any (fun c => c.1 == k) = true
      · rw [if_pos ha]
      · rw [if_neg ha]
        have z := byte_absent _ k (Bool.eq_false_iff.2 ha)
        rw [f1, if_pos hk] at z
        rw [z]; simp only [Bool.false_eq_true, if_false]; split <;> rfl
    · have n1 : (List.filter (fun c : Host.Cell => decide (c.1 < a)) m).any (fun c => c.1 == k) = false := by
        rw [List.any_eq_false]; intro c hc; simp only [List.mem_filter, decide_eq_true_eq] at hc
        simp only [beq_iff_eq]; omega
      rw [n1]
      simp only [Bool.false_eq_true, if_false]
      rw [if_pos (by omega)]

theorem cellsFrom_wf (bs : List Byte) (a : Nat) :
    Memory.wf (cellsFrom a bs) ∧ ∀ c ∈ cellsFrom a bs, a ≤ c.1 ∧ c.1 < a + bs.length := by
  induction bs generalizing a with
  | nil => simp [cellsFrom, Memory.wf]
  | cons b r ih =>
    obtain ⟨⟨hp, hz⟩, hr⟩ := ih (a + 1)
    unfold cellsFrom
    simp only [List.length_cons]
    split
    · exact ⟨⟨hp, hz⟩, fun c hc => by have := hr c hc; omega⟩
    · rename_i hb
      refine ⟨⟨List.Pairwise.cons (fun c hc => by have := hr c hc; simp only; omega) hp, ?_⟩, ?_⟩
      · intro c hc; rcases List.mem_cons.1 hc with rfl | hc
        · exact hb
        · exact hz c hc
      · intro c hc; rcases List.mem_cons.1 hc with rfl | hc
        · simp only; omega
        · have := hr c hc; omega

/-- Every write of memory is a put, and a put keeps the canonical form. -/
theorem put_wf (m : Memory) (a : Nat) (bs : List Byte) (h : m.wf) : (m.put a bs).wf := by
  obtain ⟨hp, hz⟩ := h
  obtain ⟨⟨cp, cz⟩, cr⟩ := cellsFrom_wf bs a
  refine ⟨?_, ?_⟩
  · unfold Memory.put
    rw [List.append_assoc]
    refine List.pairwise_append.2 ⟨hp.filter _, List.pairwise_append.2 ⟨cp, hp.filter _, ?_⟩, ?_⟩
    · intro x hx y hy
      have := cr x hx
      simp only [List.mem_filter, decide_eq_true_eq] at hy
      omega
    · intro x hx y hy
      simp only [List.mem_filter, decide_eq_true_eq] at hx
      rcases List.mem_append.1 hy with hy | hy
      · have := cr y hy; omega
      · simp only [List.mem_filter, decide_eq_true_eq] at hy; omega
  · intro c hc
    unfold Memory.put at hc
    rcases List.mem_append.1 hc with hc | hc
    · rcases List.mem_append.1 hc with hc | hc
      · exact hz c (List.mem_filter.1 hc).1
      · exact cz c hc
    · exact hz c (List.mem_filter.1 hc).1

theorem bytes_length (m : Memory) (a n : Nat) : (m.bytes a n).length = n := by simp [Memory.bytes]

theorem leOf_length (n v : Nat) : (leOf n v).length = n := by
  induction n generalizing v with
  | zero => rfl
  | succ n ih => simp [leOf, ih]

/-- Little-endian bytes and their value (R3). -/
theorem leVal_leOf (n v : Nat) : leVal (leOf n v) = v % 256 ^ n := by
  induction n generalizing v with
  | zero => simp [leOf, leVal, Nat.mod_one]
  | succ n ih =>
    have e : 256 ^ (n + 1) = 256 * 256 ^ n := by rw [Nat.pow_succ, Nat.mul_comm]
    rw [leOf, leVal, ih, BitVec.toNat_ofNat, e, Nat.mod_mul]

/-! Parts of the state. -/

theorem tile_modTile (s : State) (d t e u : Nat) (f : Tile → Tile) :
    (s.modTile d t f).tile e u = if e * 256 + u = d * 256 + t then f (s.tile d t) else s.tile e u := by
  simp only [State.modTile, State.tile, tbl_get_set]

@[simp] theorem tile_modTile_self (s : State) (d t : Nat) (f : Tile → Tile) : (s.modTile d t f).tile d t = f (s.tile d t) := by
  simp [tile_modTile]

@[simp] theorem ctx_modCtx_self (s : State) (d t c : Nat) (f : Context → Context) :
    (s.modCtx d t c f).ctx d t c = f (s.ctx d t c) := by
  simp [State.modCtx, State.ctx, Tile.modCtx, Tile.ctx]

theorem ctx_modCtx (s : State) (d t c e u k : Nat) (f : Context → Context) :
    (s.modCtx d t c f).ctx e u k = if e * 256 + u = d * 256 + t ∧ k = c then f (s.ctx d t c) else s.ctx e u k := by
  unfold State.modCtx State.ctx
  rw [tile_modTile]
  by_cases h : e * 256 + u = d * 256 + t
  · have ht : s.tile e u = s.tile d t := by simp only [State.tile, h]
    rw [if_pos h, ht]
    unfold Tile.modCtx Tile.ctx
    simp only [tbl_get_set, h, true_and]
  · rw [if_neg h, if_neg (fun x => h x.1)]

@[simp] theorem core_modCore_self (s : State) (n : Nat) (f : Core → Core) : (s.modCore n f).core n = f (s.core n) := by
  simp [State.modCore, State.core]

theorem core_modCore (s : State) (n k : Nat) (f : Core → Core) :
    (s.modCore n f).core k = if k = n then f (s.core n) else s.core k := by
  simp only [State.modCore, State.core, tbl_get_set]

@[simp] theorem slot_modSlot_self (s : State) (d i : Nat) (f : Slot → Slot) : (s.modSlot d i f).slot d i = f (s.slot d i) := by
  simp [State.modSlot, State.slot]

@[simp] theorem box_modBox_self (s : State) (d : Nat) (f : SigBox → SigBox) : (s.modBox d f).box d = f (s.box d) := by
  simp [State.modBox, State.box]

@[simp] theorem depot_modDepot_self (s : State) (d n : Nat) (f : Depot → Depot) :
    (s.modDepot d n f).depot d n = f (s.depot d n) := by simp [State.modDepot, State.depot]

@[simp] theorem junc_modJunc_self (s : State) (j : Nat) (f : Junction → Junction) : (s.modJunc j f).junc j = f (s.junc j) := by
  simp [State.modJunc, State.junc]

@[simp] theorem sys_modSys (s : State) (f : Sys → Sys) : (s.modSys f).sys = f s.sys := rfl

/-! Registers of the executing agent. -/

@[simp] theorem hartOf_modHartOf_self (s : State) (a : Agent) (f : Hart → Hart) : (s.modHartOf a f).hartOf a = f (s.hartOf a) := by
  cases a <;> simp [State.modHartOf, State.hartOf]

@[simp] theorem hart_modHart (s : State) (f : Hart → Hart) : (s.modHart f).hart = f s.hart := by
  unfold State.hart; rw [modHart_cur]; exact hartOf_modHartOf_self s s.cur f

/-- A change of an agent's registers leaves every other agent's; contexts are told apart by tiles below 256. -/
theorem hartOf_modHartOf_ne (s : State) (a b : Agent) (f : Hart → Hart)
    (h : a ≠ b) (ha : ∀ d t c, a = .ctx d t c → t < 256) (hb : ∀ d t c, b = .ctx d t c → t < 256) :
    (s.modHartOf a f).hartOf b = s.hartOf b := by
  cases a with
  | core n =>
    cases b with
    | core k =>
      have hk : k ≠ n := fun e => h (by rw [e])
      simp [State.modHartOf, State.hartOf, core_modCore, hk]
    | ctx d t c => rfl
  | ctx d t c =>
    cases b with
    | core k => rfl
    | ctx e u k =>
      have h1 := ha d t c rfl
      have h2 := hb e u k rfl
      have hne : ¬(e * 256 + u = d * 256 + t ∧ k = c) := by
        rintro ⟨x, rfl⟩
        have : e = d := by omega
        subst this
        have : u = t := by omega
        subst this
        exact h rfl
      simp only [State.modHartOf, State.hartOf, ctx_modCtx, hne, if_false]

@[simp] theorem getG_zero (s : State) : s.getG 0 = 0 := rfl

@[simp] theorem setG_zero (s : State) (v : Word) : s.setG 0 v = s := rfl

theorem reg_lt (n : BitVec 5) : n.toNat < 32 := n.isLt

theorem getG_modHart (s : State) (f : Hart → Hart) (n : BitVec 5) :
    (s.modHart f).getG n = if n = 0 then 0 else vget (f s.hart).g n.toNat 0 := by
  simp [State.getG]

@[simp] theorem getG_setG_self (s : State) (n : BitVec 5) (v : Word) (h : n ≠ 0) : (s.setG n v).getG n = v := by
  unfold State.setG
  rw [if_neg h, getG_modHart, if_neg h]
  exact vget_vput_self _ _ _ _ (reg_lt n)

theorem getG_setG_ne (s : State) (n k : BitVec 5) (v : Word) (h : k ≠ n) : (s.setG n v).getG k = s.getG k := by
  unfold State.setG
  split
  · rfl
  · rw [getG_modHart]
    have : n.toNat ≠ k.toNat := fun e => h (BitVec.eq_of_toNat_eq e.symm)
    simp only [State.getG]
    split
    · rfl
    · exact vget_vput_ne _ _ _ this

@[simp] theorem getG_advance (s : State) (n : BitVec 5) : s.advance.getG n = s.getG n := by
  unfold State.advance; rw [getG_modHart]; rfl

@[simp] theorem pc_setG (s : State) (n : BitVec 5) (v : Word) : (s.setG n v).pc = s.pc := by
  unfold State.setG; split
  · rfl
  · simp [State.pc]

@[simp] theorem pc_advance (s : State) : s.advance.pc = s.pc + 8 := by simp [State.advance, State.pc]

@[simp] theorem pc_setPc (s : State) (v : Word) : (s.setPc v).pc = v := by simp [State.setPc, State.pc]

/-! Guards. -/

/-- A state differs by a trap or an advance where its guard is false; else the instruction runs. -/
theorem guarded_cases (s : State) (gn : Bool) (gs : BitVec 3) (k : State → State) :
    s.guarded gn gs k = k s ∨ s.guarded gn gs k = s.advance ∨ s.guarded gn gs k = s.illegal := by
  unfold State.guarded; split <;> split <;> simp

end Sys2Proof.Laws
end

