-- ==== Sys2Proof/Laws/Form.lean ====
section
/-! SUPPORT. The memory's canonical form (O51): what carries it through the model's ways of computing. -/

namespace Sys2Proof.Laws

open Sys2Proof.Machine

/-- A computation that stops or goes on keeps the canonical form: f picks the state it goes on with. -/
def Ran {α : Type} (f : α → State) (r : Except State α) : Prop :=
  match r with | .ok a => (f a).mem.wf | .error t => t.mem.wf

/-- A state that a computation stops in has the canonical form. -/
def Stops {α : Type} (r : Except State α) : Prop := ∀ t, r = .error t → t.mem.wf

/-- A state that an operation may give has the canonical form. -/
def Gives (x : Option State) : Prop := ∀ t, x = some t → t.mem.wf

theorem gives_none : Gives none := fun _ e => nomatch e
theorem gives_some {s : State} (h : s.mem.wf) : Gives (some s) := fun _ e => Option.some.inj e ▸ h
theorem gives_map {x : Option State} {f : State → State} (h : Gives x) (hf : ∀ t, t.mem.wf → (f t).mem.wf) : Gives (x.map f) := by
  intro t e
  obtain ⟨u, hu, rfl⟩ := Option.map_eq_some_iff.mp e
  exact hf u (h u hu)
theorem wf_ite {c : Prop} [Decidable c] {a b : State} (ha : a.mem.wf) (hb : b.mem.wf) : (if c then a else b).mem.wf := by
  split
  · exact ha
  · exact hb
theorem wf_ite_fst {α : Type} {c : Prop} [Decidable c] {a b : State × α} (ha : a.1.mem.wf) (hb : b.1.mem.wf) :
    (if c then a else b).1.mem.wf := by
  split
  · exact ha
  · exact hb
theorem ran_ite {α : Type} {f : α → State} {c : Prop} [Decidable c] {a b : Except State α} (ha : Ran f a) (hb : Ran f b) :
    Ran f (if c then a else b) := by
  split
  · exact ha
  · exact hb
theorem gives_ite {c : Prop} [Decidable c] {a b : Option State} (ha : Gives a) (hb : Gives b) : Gives (if c then a else b) := by
  split
  · exact ha
  · exact hb
theorem gives_read {β : Type} {x : Option β} {f : β → State} (hf : ∀ b, (f b).mem.wf) : Gives (x.map f) := by
  intro t e
  obtain ⟨b, -, rfl⟩ := Option.map_eq_some_iff.mp e
  exact hf b
theorem ran_ok {s : State} (h : s.mem.wf) : Ran (fun s => s) (.ok s) := h
theorem ran_ok_fst {α : Type} {s : State} {x : α} (h : s.mem.wf) : Ran Prod.fst (.ok (s, x)) := h
theorem ran_error {α : Type} {f : α → State} {t : State} (h : t.mem.wf) : Ran f (.error t) := h
theorem ran_bind {α β : Type} {f : α → State} {g : β → State} {x : Except State α} {k : α → Except State β} (h : Ran f x)
    (hk : ∀ a, (f a).mem.wf → Ran g (k a)) : Ran g (x >>= k) := by
  cases x with
  | ok a => exact hk a h
  | error t => exact h
theorem ran_bind_stops {α β : Type} {g : β → State} {x : Except State α} {k : α → Except State β} (h : Stops x)
    (hk : ∀ a, Ran g (k a)) : Ran g (x >>= k) := by
  cases x with
  | ok a => exact hk a
  | error t => exact h t rfl
theorem ran_map {α β : Type} {f : α → State} {g : β → State} {x : Except State α} {k : α → β} (h : Ran f x)
    (hk : ∀ a, (f a).mem.wf → (g (k a)).mem.wf) : Ran g (x.map k) := by
  cases x with
  | ok a => exact hk a h
  | error t => exact h
theorem ran_ran {r : Except State State} (h : Ran (fun s => s) r) : (ran r).mem.wf := by cases r <;> exact h

theorem of_fst {α : Type} {x : State × α} {s : State} {a : α} (h : x.1.mem.wf) (e : x = (s, a)) : s.mem.wf := by subst e; exact h
theorem of_some {x : Option State} {s : State} (h : Gives x) (e : x = some s) : s.mem.wf := h s e
theorem of_ok_fst {α : Type} {x : Except State (State × α)} {s : State} {a : α} (h : Ran Prod.fst x) (e : x = .ok (s, a)) : s.mem.wf := by
  subst e; exact h
theorem of_ok {x : Except State State} {s : State} (h : Ran (fun s => s) x) (e : x = .ok s) : s.mem.wf := by subst e; exact h
theorem of_error {α : Type} {f : α → State} {x : Except State α} {s : State} (h : Ran f x) (e : x = .error s) : s.mem.wf := by
  subst e; exact h
theorem of_stops {α : Type} {x : Except State α} {s : State} (h : Stops x) (e : x = .error s) : s.mem.wf := h s e

theorem wf_foldl {α : Type} {f : State → α → State} {l : List α} {s : State} (h : s.mem.wf)
    (hf : ∀ t x, t.mem.wf → (f t x).mem.wf) : (l.foldl f s).mem.wf := by
  induction l generalizing s with
  | nil => exact h
  | cons x r ih => exact ih (hf s x h)
theorem wf_foldl_fst {α β : Type} {f : State × β → α → State × β} {l : List α} {p : State × β} (h : p.1.mem.wf)
    (hf : ∀ t x, t.1.mem.wf → (f t x).1.mem.wf) : (l.foldl f p).1.mem.wf := by
  induction l generalizing p with
  | nil => exact h
  | cons x r ih => exact ih (hf p x h)

theorem gives_foldl {α : Type} {f : Option State → α → Option State} {l : List α} {x : Option State} (h : Gives x)
    (hf : ∀ t a, Gives t → Gives (f t a)) : Gives (l.foldl f x) := by
  induction l generalizing x with
  | nil => exact h
  | cons a r ih => exact ih (hf x a h)

theorem of_gives {s : State} (h : Gives (some s)) : s.mem.wf := h s rfl

/-- A state that a computation goes on with, where it says why it does not, has the canonical form. -/
def Goes {ε α : Type} (f : α → State) (r : Except ε α) : Prop := ∀ a, r = .ok a → (f a).mem.wf

theorem goes_ok {ε : Type} {s : State} (h : s.mem.wf) : Goes (fun s => s) (.ok s : Except ε State) := fun _ e => Except.ok.inj e ▸ h
theorem goes_ok_fst {ε α : Type} {s : State} {x : α} (h : s.mem.wf) : Goes Prod.fst (.ok (s, x) : Except ε (State × α)) :=
  fun _ e => Except.ok.inj e ▸ h
theorem goes_error {ε α : Type} {f : α → State} {t : ε} : Goes f (.error t) := fun _ e => nomatch e
theorem of_goes {ε : Type} {x : Except ε State} {s : State} (h : Goes (fun s => s) x) (e : x = .ok s) : s.mem.wf := h s e
theorem of_goes_fst {ε α : Type} {x : Except ε (State × α)} {s : State} {a : α} (h : Goes Prod.fst x) (e : x = .ok (s, a)) : s.mem.wf :=
  h (s, a) e

theorem stops_ok {α : Type} {x : α} : Stops (.ok x) := fun _ e => nomatch e
theorem stops_error {α : Type} {t : State} (h : t.mem.wf) : Stops (.error t : Except State α) := fun _ e => Except.error.inj e ▸ h
theorem stops_map {α β : Type} {x : Except State α} {f : α → β} (h : Stops x) : Stops (x.map f) := by
  intro t e
  cases x with
  | ok a => nomatch e
  | error u => exact h t (Except.error.inj e ▸ rfl)
theorem stops_bind {α β : Type} {x : Except State α} {k : α → Except State β} (h : Stops x) (hk : ∀ a, Stops (k a)) : Stops (x >>= k) := by
  cases x with
  | ok a => exact hk a
  | error u => exact fun t e => h t (Except.error.inj e ▸ rfl)
theorem stops_bind_ran {α β : Type} {f : α → State} {x : Except State α} {k : α → Except State β} (h : Ran f x)
    (hk : ∀ a, (f a).mem.wf → Stops (k a)) : Stops (x >>= k) := by
  cases x with
  | ok a => exact hk a h
  | error u => exact stops_error h
theorem stops_ite {α : Type} {c : Prop} [Decidable c] {a b : Except State α} (ha : Stops a) (hb : Stops b) : Stops (if c then a else b) := by
  split
  · exact ha
  · exact hb

theorem gives_findSome {α : Type} {f : α → Option State} {l : List α} (h : ∀ a, Gives (f a)) : Gives (l.findSome? f) := by
  intro t e
  obtain ⟨a, -, ha⟩ := List.exists_of_findSome?_eq_some e
  exact h a t ha

/-- The next state that a meaning answers has the canonical form. -/
def Leaves (o : Host.Outcome State Fault Refusal) : Prop := ∀ t, o = .next t → t.mem.wf

theorem leaves_next {s : State} (h : s.mem.wf) : Leaves (.next s) := fun _ e => Host.Outcome.next.inj e ▸ h

/-- The state that loads a configuration record has the canonical form. -/
def Loads (x : Loaded) : Prop := ∀ t, x = .ok t → t.mem.wf

theorem loads_ok {s : State} (h : s.mem.wf) : Loads (.ok s) := fun _ e => Loaded.ok.inj e ▸ h
theorem loads_status {n : Nat} : Loads (.status n) := fun _ e => nomatch e
theorem loads_wait : Loads .wait := fun _ e => nomatch e
theorem of_loads {x : Loaded} {s : State} (h : Loads x) (e : x = .ok s) : s.mem.wf := h s e

theorem gives_bind {β : Type} {x : Option β} {f : β → Option State} (h : ∀ b, Gives (f b)) : Gives (x.bind f) := by
  intro t e
  obtain ⟨b, -, hb⟩ := Option.bind_eq_some_iff.mp e
  exact h b t hb

theorem filter_wf {m : Memory} {p : Host.Cell → Bool} (h : m.wf) : Memory.wf (m.filter p) :=
  ⟨h.1.filter _, fun c hc => h.2 c (List.mem_filter.mp hc).1⟩

theorem of_getD {x : Option State} {s : State} (hx : Gives x) (h : s.mem.wf) : (x.getD s).mem.wf := by
  cases x with
  | none => exact h
  | some t => exact hx t rfl

theorem nil_wf : Memory.wf [] := ⟨List.Pairwise.nil, fun _ h => nomatch h⟩

end Sys2Proof.Laws
end

