-- ==== Sys2Proof/Laws/FormOps.lean ====
section
/-! SUPPORT. The memory's canonical form (O51) is kept by the shared operations, from the bytes of memory to traps, queues, registers, accesses and operands: one lemma for each. -/

namespace Sys2Proof.Laws

open Sys2Proof.Machine

theorem wf_modTile {s : State} (h : s.mem.wf) (d t : Nat) (f : Tile → Tile) : (s.modTile d t f).mem.wf := by
  unfold State.modTile
  repeat' first
    | (with_reducible first
       | assumption | intro _ | apply wf_ite | apply wf_ite_fst)
    | split | dsimp only

theorem wf_modCtx {s : State} (h : s.mem.wf) (d t c : Nat) (f : Context → Context) : (s.modCtx d t c f).mem.wf := by
  unfold State.modCtx
  repeat' first
    | (with_reducible first
       | assumption | intro _ | apply wf_ite | apply wf_ite_fst | apply wf_modTile)
    | split | dsimp only

theorem wf_modCore {s : State} (h : s.mem.wf) (n : Nat) (f : Core → Core) : (s.modCore n f).mem.wf := by
  unfold State.modCore
  repeat' first
    | (with_reducible first
       | assumption | intro _ | apply wf_ite | apply wf_ite_fst)
    | split | dsimp only

theorem wf_modSlot {s : State} (h : s.mem.wf) (d i : Nat) (f : Slot → Slot) : (s.modSlot d i f).mem.wf := by
  unfold State.modSlot
  repeat' first
    | (with_reducible first
       | assumption | intro _ | apply wf_ite | apply wf_ite_fst)
    | split | dsimp only

theorem wf_modBox {s : State} (h : s.mem.wf) (d : Nat) (f : SigBox → SigBox) : (s.modBox d f).mem.wf := by
  unfold State.modBox
  repeat' first
    | (with_reducible first
       | assumption | intro _ | apply wf_ite | apply wf_ite_fst)
    | split | dsimp only

theorem wf_modDepot {s : State} (h : s.mem.wf) (d n : Nat) (f : Depot → Depot) : (s.modDepot d n f).mem.wf := by
  unfold State.modDepot
  repeat' first
    | (with_reducible first
       | assumption | intro _ | apply wf_ite | apply wf_ite_fst)
    | split | dsimp only

theorem wf_modJunc {s : State} (h : s.mem.wf) (j : Nat) (f : Junction → Junction) : (s.modJunc j f).mem.wf := by
  unfold State.modJunc
  repeat' first
    | (with_reducible first
       | assumption | intro _ | apply wf_ite | apply wf_ite_fst)
    | split | dsimp only

theorem wf_modSys {s : State} (h : s.mem.wf) (f : Sys → Sys) : (s.modSys f).mem.wf := by
  unfold State.modSys
  repeat' first
    | (with_reducible first
       | assumption | intro _ | apply wf_ite | apply wf_ite_fst)
    | split | dsimp only

theorem wf_modWalker {s : State} (h : s.mem.wf) (d w : Nat) (f : Walker → Walker) : (s.modWalker d w f).mem.wf := by
  unfold State.modWalker
  repeat' first
    | (with_reducible first
       | assumption | intro _ | apply wf_ite | apply wf_ite_fst | apply wf_modBox)
    | split | dsimp only

theorem wf_modQueue {s : State} (h : s.mem.wf) (d q : Nat) (f : Queue → Queue) : (s.modQueue d q f).mem.wf := by
  unfold State.modQueue
  repeat' first
    | (with_reducible first
       | assumption | intro _ | apply wf_ite | apply wf_ite_fst | apply wf_modBox)
    | split | dsimp only

theorem wf_modStc {s : State} (h : s.mem.wf) (d i : Nat) (f : Stc → Stc) : (s.modStc d i f).mem.wf := by
  unfold State.modStc
  repeat' first
    | (with_reducible first
       | assumption | intro _ | apply wf_ite | apply wf_ite_fst | apply wf_modBox)
    | split | dsimp only

theorem wf_modMyTile {s : State} (h : s.mem.wf) (f : Tile → Tile) : (s.modMyTile f).mem.wf := by
  unfold State.modMyTile
  repeat' first
    | (with_reducible first
       | assumption | intro _ | apply wf_ite | apply wf_ite_fst | apply wf_modTile)
    | split | dsimp only

theorem wf_modMe {s : State} (h : s.mem.wf) (f : Context → Context) : (s.modMe f).mem.wf := by
  unfold State.modMe
  repeat' first
    | (with_reducible first
       | assumption | intro _ | apply wf_ite | apply wf_ite_fst | apply wf_modCtx)
    | split | dsimp only

theorem wf_modHartOf {s : State} (h : s.mem.wf) (a : Agent) (f : Hart → Hart) : (s.modHartOf a f).mem.wf := by
  unfold State.modHartOf
  repeat' first
    | (with_reducible first
       | assumption | intro _ | apply wf_ite | apply wf_ite_fst | apply wf_modCtx | apply wf_modCore)
    | split | dsimp only

theorem wf_modHart {s : State} (h : s.mem.wf) (f : Hart → Hart) : (s.modHart f).mem.wf := by
  unfold State.modHart
  repeat' first
    | (with_reducible first
       | assumption | intro _ | apply wf_ite | apply wf_ite_fst | apply wf_modHartOf)
    | split | dsimp only

theorem wf_setG {s : State} (h : s.mem.wf) (n : BitVec 5) (v : Word) : (s.setG n v).mem.wf := by
  unfold State.setG
  repeat' first
    | (with_reducible first
       | assumption | intro _ | apply wf_ite | apply wf_ite_fst | apply wf_modHart)
    | split | dsimp only

theorem wf_setPc {s : State} (h : s.mem.wf) (v : Word) : (s.setPc v).mem.wf := by
  unfold State.setPc
  repeat' first
    | (with_reducible first
       | assumption | intro _ | apply wf_ite | apply wf_ite_fst | apply wf_modHart)
    | split | dsimp only

theorem wf_advance {s : State} (h : s.mem.wf) : (s.advance).mem.wf := by
  unfold State.advance
  repeat' first
    | (with_reducible first
       | assumption | intro _ | apply wf_ite | apply wf_ite_fst | apply wf_modHart)
    | split | dsimp only

theorem wf_waits {s : State} (h : s.mem.wf) (w : Wait) : (s.waits w).mem.wf := by
  unfold State.waits
  repeat' first
    | (with_reducible first
       | assumption | intro _ | apply wf_ite | apply wf_ite_fst | apply wf_modHart)
    | split | dsimp only

theorem wf_post {s : State} (h : s.mem.wf) (delay : Nat) (ev : Instr) (arg : Arg) : (s.post delay ev arg).mem.wf := by
  unfold State.post
  repeat' first
    | (with_reducible first
       | assumption | intro _ | apply wf_ite | apply wf_ite_fst)
    | split | dsimp only

theorem wf_emit {s : State} (h : s.mem.wf) (o : Out) : (s.emit o).mem.wf := by
  unfold State.emit
  repeat' first
    | (with_reducible first
       | assumption | intro _ | apply wf_ite | apply wf_ite_fst)
    | split | dsimp only

theorem wf_inform {s : State} (h : s.mem.wf) (code : Nat) (info : Word) : (s.inform code info).mem.wf := by
  unfold State.inform
  repeat' first
    | (with_reducible first
       | assumption | intro _ | apply wf_ite | apply wf_ite_fst | apply wf_modSys | apply wf_emit)
    | split | dsimp only

theorem wf_fresh {s : State} (h : s.mem.wf) : (s.fresh).1.mem.wf := by
  unfold State.fresh
  repeat' first
    | (with_reducible first
       | assumption | intro _ | apply wf_ite | apply wf_ite_fst)
    | split | dsimp only

theorem wf_freeVal {s : State} (h : s.mem.wf) : (s.freeVal).1.mem.wf := by
  unfold State.freeVal
  repeat' first
    | (with_reducible first
       | assumption | intro _ | apply wf_ite | apply wf_ite_fst)
    | split | dsimp only

theorem wf_slotTo {s : State} (h : s.mem.wf) (d i : Nat) (st : RState) : (s.slotTo d i st).mem.wf := by
  unfold State.slotTo
  repeat' first
    | (with_reducible first
       | assumption | intro _ | apply wf_ite | apply wf_ite_fst | apply wf_modSlot)
    | split | dsimp only

theorem wf_mark {s : State} (h : s.mem.wf) (g : Nat) (on : Bool) : (s.mark g on).mem.wf := by
  unfold State.mark
  repeat' first
    | (with_reducible first
       | assumption | intro _ | apply wf_ite | apply wf_ite_fst)
    | split | dsimp only

theorem wf_copyLine {s : State} (h : s.mem.wf) (src dst : Nat) : (s.copyLine src dst).mem.wf := by
  unfold State.copyLine
  repeat' first
    | (with_reducible first
       | assumption | intro _ | apply wf_ite | apply wf_ite_fst | apply wf_mark | apply put_wf)
    | split | dsimp only

theorem wf_fill {s : State} (h : s.mem.wf) (pa : Nat) (dirty : Bool) : (s.fill pa dirty).mem.wf := by
  unfold State.fill
  repeat' first
    | (with_reducible first
       | assumption | intro _ | apply wf_ite | apply wf_ite_fst | apply wf_copyLine)
    | split | dsimp only

theorem wf_drop {s : State} (h : s.mem.wf) (pa : Nat) (wb : Bool) : (s.drop pa wb).mem.wf := by
  unfold State.drop
  repeat' first
    | (with_reducible first
       | assumption | intro _ | apply wf_ite | apply wf_ite_fst | apply wf_mark | apply wf_copyLine | apply put_wf)
    | split | dsimp only

theorem wf_prepWrite {s : State} (h : s.mem.wf) (p : Phys) : (s.prepWrite p).mem.wf := by
  unfold State.prepWrite
  repeat' first
    | (with_reducible first
       | assumption | intro _ | apply wf_ite | apply wf_ite_fst | apply wf_fill)
    | split | dsimp only

theorem wf_cacheXlate {s : State} (h : s.mem.wf) (q : Req) (va : Nat) (l : Leaf) : (s.cacheXlate q va l).mem.wf := by
  unfold State.cacheXlate
  repeat' first
    | (with_reducible first
       | assumption | intro _ | apply wf_ite | apply wf_ite_fst)
    | split | dsimp only

theorem wf_tailHits {s : State} (h : s.mem.wf) (pa n : Nat) : (s.tailHits pa n).mem.wf := by
  unfold State.tailHits
  repeat' first
    | (with_reducible first
       | assumption | intro _ | apply wf_ite | apply wf_ite_fst | apply wf_post | apply wf_foldl | apply wf_foldl_fst)
    | split | dsimp only

theorem wf_wr {s : State} (h : s.mem.wf) (p : Phys) (bs : List Byte) : (s.wr p bs).mem.wf := by
  unfold State.wr
  repeat' first
    | (with_reducible first
       | assumption | intro _ | apply wf_ite | apply wf_ite_fst | apply wf_mark | apply wf_prepWrite | apply wf_tailHits
       | apply put_wf)
    | split | dsimp only

theorem wf_wrFor {s : State} (h : s.mem.wf) (q : Req) (p : Phys) (bs : List Byte) : (s.wrFor q p bs).mem.wf := by
  unfold State.wrFor
  repeat' first
    | (with_reducible first
       | assumption | intro _ | apply wf_ite | apply wf_ite_fst | apply wf_mark | apply wf_wr)
    | split | dsimp only

theorem wf_sample {s : State} (h : s.mem.wf) (q : Req) (ty : Nat) (miss : Bool) (va : Nat) : (s.sample q ty miss va).mem.wf := by
  unfold State.sample
  repeat' first
    | (with_reducible first
       | assumption | intro _ | apply wf_ite | apply wf_ite_fst | apply wf_modSys | apply wf_inform | apply wf_wr)
    | split | dsimp only

theorem wf_hot {s : State} (h : s.mem.wf) (q : Req) (a : Acc) (p : Phys) (va : Nat) : (s.hot q a p va).mem.wf := by
  unfold State.hot
  repeat' first
    | (with_reducible first
       | assumption | intro _ | apply wf_ite | apply wf_ite_fst | apply wf_modDepot | apply wf_sample)
    | split | dsimp only

theorem wf_touch {s : State} (h : s.mem.wf) (q : Req) (ea : Nat) (a : Acc) (p : Phys) : (s.touch q ea a p).mem.wf := by
  unfold State.touch
  repeat' first
    | (with_reducible first
       | assumption | intro _ | apply wf_ite | apply wf_ite_fst | apply wf_cacheXlate | apply wf_hot)
    | split | dsimp only

theorem wf_wrAll {s : State} (h : s.mem.wf) (ps : List (Phys × Nat)) (bs : List Byte) : (s.wrAll ps bs).mem.wf := by
  induction ps generalizing s bs with
  | nil => exact h
  | cons x r ih => exact ih (wf_wr h _ _) _

theorem wf_writeVa {s : State} (h : s.mem.wf) (root : Word) (sup : Bool) (va : Nat) (bs : List Byte) :
    Gives (s.writeVa root sup va bs) := by
  intro t e
  obtain ⟨ps, -, rfl⟩ := Option.map_eq_some_iff.mp e
  exact wf_wrAll h ps bs

theorem wf_writeSome {s : State} (h : s.mem.wf) (root : Word) (sup : Bool) (va : Nat) (bs : List Byte) : (s.writeSome root sup va bs).1.mem.wf := by
  unfold State.writeSome
  repeat' first
    | (with_reducible first
       | assumption | intro _ | apply wf_ite | apply wf_ite_fst | apply wf_drop | apply wf_wr | apply wf_foldl
       | apply wf_foldl_fst)
    | split | dsimp only

theorem wf_boxStore {s : State} (h : s.mem.wf) (va : Nat) (v : Word) : Gives (s.boxStore va v) := by
  unfold State.boxStore
  repeat' first
    | (with_reducible first
       | assumption | intro _ | apply wf_ite | apply wf_ite_fst | apply gives_ite | exact gives_none | apply gives_some
       | apply wf_writeVa | refine gives_map ?_ ?_ | refine of_some ?_ (by assumption) | refine of_gives (by assumption)
       | refine gives_read ?_)
    | split | dsimp only

theorem wf_withhold {s : State} (h : s.mem.wf) (u : UnitRef) (va : Nat) (a : Acc) (level code : Nat) (pos : Option Nat) : (s.withhold u va a level code pos).mem.wf := by
  unfold State.withhold
  repeat' first
    | (with_reducible first
       | assumption | intro _ | apply wf_ite | apply wf_ite_fst | apply wf_post)
    | split | dsimp only

theorem wf_unwithhold {s : State} (h : s.mem.wf) (u : UnitRef) : (s.unwithhold u).mem.wf := by
  unfold State.unwithhold
  repeat' first
    | (with_reducible first
       | assumption | intro _ | apply wf_ite | apply wf_ite_fst)
    | split | dsimp only

theorem wf_routeRemote {s : State} (h : s.mem.wf) (r : RemoteReq) : (s.routeRemote r).mem.wf := by
  unfold State.routeRemote
  repeat' first
    | (with_reducible first
       | assumption | intro _ | apply wf_ite | apply wf_ite_fst | apply wf_emit)
    | split | dsimp only

theorem wf_ask {s : State} (h : s.mem.wf) (u : UnitRef) (tag m va n : Nat) (op : RemoteOp) (x y : Word) (data : List Byte) : (s.ask u tag m va n op x y data).1.mem.wf := by
  unfold State.ask
  repeat' first
    | (with_reducible first
       | assumption | intro _ | apply wf_ite | apply wf_ite_fst | apply wf_fresh | apply wf_routeRemote
       | refine of_fst ?_ (by assumption))
    | split | dsimp only

theorem wf_asked1 {s : State} (h : s.mem.wf) (id : Nat) : (s.asked1 id).mem.wf := by
  unfold State.asked1
  repeat' first
    | (with_reducible first
       | assumption | intro _ | apply wf_ite | apply wf_ite_fst)
    | split | dsimp only

theorem wf_remote {s : State} (h : s.mem.wf) (u : UnitRef) (tag m va n : Nat) (op : RemoteOp) (x y : Word) (data : List Byte) : (s.remote u tag m va n op x y data).1.mem.wf := by
  unfold State.remote
  repeat' first
    | (with_reducible first
       | assumption | intro _ | apply wf_ite | apply wf_ite_fst | apply wf_ask | apply wf_asked1
       | refine of_fst ?_ (by assumption))
    | split | dsimp only

theorem wf_remoteAll {s : State} (h : s.mem.wf) (u : UnitRef) (rs : List Wish) : (s.remoteAll u rs).1.mem.wf := by
  unfold State.remoteAll
  repeat' first
    | (with_reducible first
       | assumption | intro _ | apply wf_ite | apply wf_ite_fst | apply wf_ask | apply wf_remote | apply wf_foldl
       | apply wf_foldl_fst | refine of_fst ?_ (by assumption))
    | split | dsimp only

theorem wf_forgetWhere {s : State} (h : s.mem.wf) (f : Asked → Bool) : (s.forgetWhere f).mem.wf := by
  unfold State.forgetWhere
  repeat' first
    | (with_reducible first
       | assumption | intro _ | apply wf_ite | apply wf_ite_fst)
    | split | dsimp only

theorem wf_forget {s : State} (h : s.mem.wf) (u : UnitRef) : (s.forget u).mem.wf := by
  unfold State.forget
  repeat' first
    | (with_reducible first
       | assumption | intro _ | apply wf_ite | apply wf_ite_fst | apply wf_forgetWhere)
    | split | dsimp only

theorem wf_rereads {s : State} (h : s.mem.wf) (d t e : Nat) : (s.rereads d t e).mem.wf := by
  unfold State.rereads
  repeat' first
    | (with_reducible first
       | assumption | intro _ | apply wf_ite | apply wf_ite_fst | apply wf_modTile | apply wf_forgetWhere)
    | split | dsimp only

theorem wf_areaWrite {s : State} (h : s.mem.wf) (d i va : Nat) (bs : List Byte) : Gives (s.areaWrite d i va bs) := by
  unfold State.areaWrite
  repeat' first
    | (with_reducible first
       | assumption | intro _ | apply wf_ite | apply wf_ite_fst | apply gives_ite | exact gives_none | apply gives_some
       | apply wf_writeVa | refine gives_map ?_ ?_ | refine of_some ?_ (by assumption) | refine of_gives (by assumption)
       | refine gives_read ?_)
    | split | dsimp only

theorem wf_areaWriteSome {s : State} (h : s.mem.wf) (d i va : Nat) (bs : List Byte) : (s.areaWriteSome d i va bs).1.mem.wf := by
  unfold State.areaWriteSome
  repeat' first
    | (with_reducible first
       | assumption | intro _ | apply wf_ite | apply wf_ite_fst | apply wf_writeSome | refine of_fst ?_ (by assumption))
    | split | dsimp only

theorem wf_putSiding {s : State} (h : s.mem.wf) (d i : Nat) : (s.putSiding d i).mem.wf := by
  unfold State.putSiding
  repeat' first
    | (with_reducible first
       | assumption | intro _ | apply wf_ite | apply wf_ite_fst | apply put_wf)
    | split | dsimp only

theorem wf_side {s : State} (h : s.mem.wf) (d i reason aq tile : Nat) (queued : Bool) (c : Coach) : (s.side d i reason aq tile queued c).mem.wf := by
  unfold State.side
  repeat' first
    | (with_reducible first
       | assumption | intro _ | apply wf_ite | apply wf_ite_fst | apply wf_modSlot | apply wf_putSiding | apply wf_foldl
       | apply wf_foldl_fst)
    | split | dsimp only

theorem wf_kdrop {s : State} (h : s.mem.wf) (die shift : Nat) : (s.kdrop die shift).mem.wf := by
  unfold State.kdrop
  repeat' first
    | (with_reducible first
       | assumption | intro _ | apply wf_ite | apply wf_ite_fst | apply wf_modSys)
    | split | dsimp only

theorem wf_sideQueues {s : State} (h : s.mem.wf) (d i : Nat) : (s.sideQueues d i).mem.wf := by
  unfold State.sideQueues
  repeat' first
    | (with_reducible first
       | assumption | intro _ | apply wf_ite | apply wf_ite_fst | apply wf_modTile | apply wf_side | apply wf_foldl
       | apply wf_foldl_fst)
    | split | dsimp only

theorem wf_fireAll {s : State} (h : s.mem.wf) (d i : Nat) : (s.fireAll d i).mem.wf := by
  unfold State.fireAll
  repeat' first
    | (with_reducible first
       | assumption | intro _ | apply wf_ite | apply wf_ite_fst | apply wf_post | apply wf_foldl | apply wf_foldl_fst)
    | split | dsimp only

theorem wf_putDesc {s : State} (h : s.mem.wf) (d q w : Nat) (v : Word) : (s.putDesc d q w v).mem.wf := by
  unfold State.putDesc
  repeat' first
    | (with_reducible first
       | assumption | intro _ | apply wf_ite | apply wf_ite_fst | apply wf_boxStore | refine gives_map ?_ ?_
       | refine of_some ?_ (by assumption) | refine of_gives (by assumption) | apply of_getD)
    | split | dsimp only

theorem wf_postTake {s : State} (h : s.mem.wf) (d : Nat) : (s.postTake d).mem.wf := by
  unfold State.postTake
  repeat' first
    | (with_reducible first
       | assumption | intro _ | apply wf_ite | apply wf_ite_fst | apply wf_post)
    | split | dsimp only

theorem wf_queueErr {s : State} (h : s.mem.wf) (d q status src ix : Nat) : (s.queueErr d q status src ix).mem.wf := by
  unfold State.queueErr
  repeat' first
    | (with_reducible first
       | assumption | intro _ | apply wf_ite | apply wf_ite_fst | apply wf_modQueue | apply wf_putDesc)
    | split | dsimp only

theorem wf_releaseHolds {s : State} (h : s.mem.wf) (d : Nat) (hs : List Nat) : (s.releaseHolds d hs).mem.wf := by
  unfold State.releaseHolds
  repeat' first
    | (with_reducible first
       | assumption | intro _ | apply wf_ite | apply wf_ite_fst | apply wf_modStc | apply wf_foldl | apply wf_foldl_fst)
    | split | dsimp only

theorem wf_finishRecord {s : State} (h : s.mem.wf) (d w status : Nat) : (s.finishRecord d w status).mem.wf := by
  unfold State.finishRecord
  repeat' first
    | (with_reducible first
       | assumption | intro _ | apply wf_ite | apply wf_ite_fst | apply wf_modSlot | apply wf_modSys | apply wf_modWalker
       | apply wf_modQueue | apply wf_inform | apply wf_boxStore | apply wf_putDesc | apply wf_postTake | apply wf_queueErr
       | apply wf_releaseHolds | apply wf_foldl | refine gives_map ?_ ?_ | apply gives_foldl | apply wf_foldl_fst
       | refine of_some ?_ (by assumption) | refine of_gives (by assumption) | apply of_getD)
    | split | dsimp only

theorem wf_endRecord {s : State} (h : s.mem.wf) (d w status : Nat) : (s.endRecord d w status).mem.wf := by
  unfold State.endRecord
  repeat' first
    | (with_reducible first
       | assumption | intro _ | apply wf_ite | apply wf_ite_fst | apply wf_modWalker | apply wf_finishRecord)
    | split | dsimp only

theorem wf_freeAll {s : State} (h : s.mem.wf) (d i : Nat) : (s.freeAll d i).mem.wf := by
  unfold State.freeAll
  repeat' first
    | (with_reducible first
       | assumption | intro _ | apply wf_ite | apply wf_ite_fst | apply wf_modTile | apply wf_foldl | apply wf_foldl_fst)
    | split | dsimp only

theorem wf_stopGens {s : State} (h : s.mem.wf) (d i : Nat) : (s.stopGens d i).mem.wf := by
  unfold State.stopGens
  repeat' first
    | (with_reducible first
       | assumption | intro _ | apply wf_ite | apply wf_ite_fst | apply wf_modDepot | apply wf_foldl | apply wf_foldl_fst)
    | split | dsimp only

theorem wf_dropChans {s : State} (h : s.mem.wf) (d i : Nat) : (s.dropChans d i).mem.wf := by
  unfold State.dropChans
  repeat' first
    | (with_reducible first
       | assumption | intro _ | apply wf_ite | apply wf_ite_fst)
    | split | dsimp only

theorem wf_forgetReads {s : State} (h : s.mem.wf) (d : Nat) (tiles : List Nat) : (s.forgetReads d tiles).mem.wf := by
  unfold State.forgetReads
  repeat' first
    | (with_reducible first
       | assumption | intro _ | apply wf_ite | apply wf_ite_fst | apply wf_forgetWhere)
    | split | dsimp only

theorem wf_boundary {s : State} (h : s.mem.wf) (d i : Nat) (drop : Bool) : (s.boundary d i drop).mem.wf := by
  unfold State.boundary
  repeat' first
    | (with_reducible first
       | assumption | intro _ | apply wf_ite | apply wf_ite_fst | apply wf_modTile | apply wf_modSlot | apply wf_drop
       | apply wf_dropChans | apply wf_forgetReads | apply wf_foldl | apply wf_foldl_fst)
    | split | dsimp only

theorem wf_forceDrain {s : State} (h : s.mem.wf) (d i : Nat) : (s.forceDrain d i).mem.wf := by
  unfold State.forceDrain
  repeat' first
    | (with_reducible first
       | assumption | intro _ | apply wf_ite | apply wf_ite_fst | apply wf_modSlot | apply wf_post | apply wf_freeAll
       | apply wf_stopGens | apply wf_boundary)
    | split | dsimp only

theorem wf_startDrain {s : State} (h : s.mem.wf) (d i : Nat) : (s.startDrain d i).mem.wf := by
  unfold State.startDrain
  repeat' first
    | (with_reducible first
       | assumption | intro _ | apply wf_ite | apply wf_ite_fst | apply wf_modSlot | apply wf_post | apply wf_stopGens)
    | split | dsimp only

theorem wf_failWalk {s : State} (h : s.mem.wf) (d w status : Nat) : (s.failWalk d w status).mem.wf := by
  unfold State.failWalk
  repeat' first
    | (with_reducible first
       | assumption | intro _ | apply wf_ite | apply wf_ite_fst | apply wf_modSlot | apply wf_modWalker | apply wf_endRecord
       | apply wf_forceDrain | apply wf_foldl | apply wf_foldl_fst)
    | split | dsimp only

theorem wf_retime {s : State} (h : s.mem.wf) (d w : Nat) : (s.retime d w).mem.wf := by
  unfold State.retime
  repeat' first
    | (with_reducible first
       | assumption | intro _ | apply wf_ite | apply wf_ite_fst | apply wf_modWalker | apply wf_post)
    | split | dsimp only

theorem wf_nodeAgain {s : State} (h : s.mem.wf) (d w : Nat) : (s.nodeAgain d w).mem.wf := by
  unfold State.nodeAgain
  repeat' first
    | (with_reducible first
       | assumption | intro _ | apply wf_ite | apply wf_ite_fst | apply wf_post | apply wf_failWalk)
    | split | dsimp only

theorem wf_postNode {s : State} (h : s.mem.wf) (d w : Nat) : (s.postNode d w).mem.wf := by
  unfold State.postNode
  repeat' first
    | (with_reducible first
       | assumption | intro _ | apply wf_ite | apply wf_ite_fst | apply wf_modWalker | apply wf_failWalk
       | apply wf_nodeAgain)
    | split | dsimp only

theorem wf_goNode {s : State} (h : s.mem.wf) (d w j : Nat) : (s.goNode d w j).mem.wf := by
  unfold State.goNode
  repeat' first
    | (with_reducible first
       | assumption | intro _ | apply wf_ite | apply wf_ite_fst | apply wf_modWalker | apply wf_postNode)
    | split | dsimp only

theorem wf_finishCmd {s : State} (h : s.mem.wf) (d w i : Nat) : (s.finishCmd d w i).mem.wf := by
  unfold State.finishCmd
  repeat' first
    | (with_reducible first
       | assumption | intro _ | apply wf_ite | apply wf_ite_fst | apply wf_modWalker | apply wf_post | apply wf_endRecord
       | apply wf_nodeAgain | apply wf_goNode)
    | split | dsimp only

theorem wf_settle {s : State} (h : s.mem.wf) (d : Nat) : (s.settle d).mem.wf := by
  unfold State.settle
  repeat' first
    | (with_reducible first
       | assumption | intro _ | apply wf_ite | apply wf_ite_fst | apply wf_endRecord | apply wf_retime | apply wf_nodeAgain
       | apply wf_finishCmd | apply wf_foldl | apply wf_foldl_fst)
    | split | dsimp only

theorem wf_quiesce {s : State} (h : s.mem.wf) (d i : Nat) : (s.quiesce d i).mem.wf := by
  unfold State.quiesce
  repeat' first
    | (with_reducible first
       | assumption | intro _ | apply wf_ite | apply wf_ite_fst | apply wf_post | apply wf_slotTo | apply wf_sideQueues
       | apply wf_boundary)
    | split | dsimp only

theorem wf_bootFail {s : State} (h : s.mem.wf) (d i : Nat) : (s.bootFail d i).mem.wf := by
  unfold State.bootFail
  repeat' first
    | (with_reducible first
       | assumption | intro _ | apply wf_ite | apply wf_ite_fst | apply wf_forceDrain | apply wf_failWalk)
    | split | dsimp only

theorem wf_freeze {s : State} (h : s.mem.wf) (d i : Nat) (info val : Word) (at_ : SaveFault) : (s.freeze d i info val at_).mem.wf := by
  unfold State.freeze
  repeat' first
    | (with_reducible first
       | assumption | intro _ | apply wf_ite | apply wf_ite_fst | apply wf_modSlot | apply wf_inform | apply wf_slotTo
       | apply wf_settle | apply wf_quiesce | apply wf_bootFail)
    | split | dsimp only

theorem wf_frozenNow {s : State} (h : s.mem.wf) (d i : Nat) : (s.frozenNow d i).mem.wf := by
  unfold State.frozenNow
  repeat' first
    | (with_reducible first
       | assumption | intro _ | apply wf_ite | apply wf_ite_fst | apply wf_modSlot | apply wf_inform)
    | split | dsimp only

theorem wf_savedCtx {s : State} (h : s.mem.wf) (d i t c : Nat) : (s.savedCtx d i t c).mem.wf := by
  unfold State.savedCtx
  repeat' first
    | (with_reducible first
       | assumption | intro _ | apply wf_ite | apply wf_ite_fst | apply wf_modCtx | apply wf_modSlot)
    | split | dsimp only

theorem wf_saveCtx {s : State} (h : s.mem.wf) (d i : Nat) (tc : Nat × Nat) : (s.saveCtx d i tc).1.mem.wf := by
  unfold State.saveCtx
  repeat' first
    | (with_reducible first
       | assumption | intro _ | apply wf_ite | apply wf_ite_fst | apply wf_areaWriteSome | apply wf_savedCtx
       | apply wf_foldl | apply wf_foldl_fst | refine of_fst ?_ (by assumption))
    | split | dsimp only

theorem wf_saveCtxs {s : State} (h : s.mem.wf) (d i : Nat) (l : List (Nat × Nat)) : (s.saveCtxs d i l).mem.wf := by
  induction l generalizing s with
  | nil => exact h
  | cons tc r ih =>
    unfold State.saveCtxs
    split
    have h1 := of_fst (wf_saveCtx h d i tc) ‹_›
    with_reducible apply wf_ite
    · exact ih h1
    · with_reducible apply wf_ite
      · exact ih (wf_modSlot h1 _ _ _)
      · dsimp only
        have h2 : ∀ f g x w, (((State.modSlot _ d i f).slotTo d i g).inform x w).mem.wf := fun f g x w =>
          wf_inform (wf_slotTo (wf_modSlot h1 d i f) d i g) x w
        with_reducible apply wf_ite
        · exact wf_bootFail (h2 _ _ _ _) d i
        · exact wf_settle (h2 _ _ _ _) d

theorem wf_save {s : State} (h : s.mem.wf) (d i : Nat) : (s.save d i).mem.wf := by
  unfold State.save
  repeat' first
    | (with_reducible first
       | assumption | intro _ | apply wf_ite | apply wf_ite_fst | apply wf_slotTo | apply wf_saveCtxs)
    | split | dsimp only

theorem wf_flushDepot {s : State} (h : s.mem.wf) (d n : Nat) : (s.flushDepot d n).mem.wf := by
  unfold State.flushDepot
  repeat' first
    | (with_reducible first
       | assumption | intro _ | apply wf_ite | apply wf_ite_fst | apply wf_drop | apply wf_foldl | apply wf_foldl_fst)
    | split | dsimp only

theorem wf_takeSplit {s : State} (h : s.mem.wf) (d n : Nat) (w : Word) : (s.takeSplit d n w).mem.wf := by
  unfold State.takeSplit
  repeat' first
    | (with_reducible first
       | assumption | intro _ | apply wf_ite | apply wf_ite_fst | apply wf_modDepot | apply wf_flushDepot)
    | split | dsimp only

theorem wf_armPhase {s : State} (h : s.mem.wf) (d i : Nat) : (s.armPhase d i).mem.wf := by
  unfold State.armPhase
  repeat' first
    | (with_reducible first
       | assumption | intro _ | apply wf_ite | apply wf_ite_fst | apply wf_modTile | apply wf_modSlot | apply wf_post
       | apply wf_forgetReads | apply wf_takeSplit | apply wf_foldl | apply wf_foldl_fst)
    | split | dsimp only

theorem wf_blockMarks {s : State} (h : s.mem.wf) (old : State) (d i t va : Nat) : (s.blockMarks old d i t va).mem.wf := by
  unfold State.blockMarks
  with_reducible apply wf_modSlot
  with_reducible apply wf_foldl h
  intro u x hu
  split
  · exact wf_mark hu _ _
  · exact hu
theorem wf_writeBlock {s : State} (h : s.mem.wf) (d i t : Nat) : (s.writeBlock d i t).1.mem.wf := by
  unfold State.writeBlock
  dsimp only
  with_reducible apply wf_ite
  · with_reducible exact wf_blockMarks (wf_areaWriteSome h _ _ _ _) _ _ _ _ _
  · with_reducible exact wf_areaWriteSome h _ _ _ _

theorem wf_blockTaken {s : State} (h : s.mem.wf) (d i t va : Nat) (bs : List Byte) : (s.blockTaken d i t va bs).mem.wf := by
  unfold State.blockTaken
  with_reducible apply wf_modTile
  with_reducible apply wf_foldl
  · exact put_wf _ _ _ h
  · intro u x hu
    exact wf_mark hu _ _
theorem wf_readBlock {s : State} (h : s.mem.wf) (d i t : Nat) : Gives (s.readBlock d i t) := by
  unfold State.readBlock
  with_reducible apply gives_read
  intro bs
  with_reducible exact wf_blockTaken h _ _ _ _ _

theorem wf_coreTrap {s : State} (h : s.mem.wf) (n code loc : Nat) (tval : Word) : (s.coreTrap n code loc tval).mem.wf := by
  unfold State.coreTrap
  repeat' first
    | (with_reducible first
       | assumption | intro _ | apply wf_ite | apply wf_ite_fst | apply wf_modCore | apply wf_inform)
    | split | dsimp only

theorem wf_freezeTrap {s : State} (h : s.mem.wf) (d t c i code loc : Nat) (tval : Word) (savef : Bool) : (s.freezeTrap d t c i code loc tval savef).mem.wf := by
  unfold State.freezeTrap
  repeat' first
    | (with_reducible first
       | assumption | intro _ | apply wf_ite | apply wf_ite_fst | apply wf_modCtx | apply wf_freeze)
    | split | dsimp only

theorem wf_chainTrap {s : State} (h : s.mem.wf) (d t c i k : Nat) : (s.chainTrap d t c i k).mem.wf := by
  unfold State.chainTrap
  repeat' first
    | (with_reducible first
       | assumption | intro _ | apply wf_ite | apply wf_ite_fst | apply wf_modCtx | apply wf_areaWriteSome
       | apply wf_freezeTrap | refine of_fst ?_ (by assumption))
    | split | dsimp only

theorem wf_trapInContext {s : State} (h : s.mem.wf) (d t c i code loc : Nat) (tval : Word) : (s.trapInContext d t c i code loc tval).mem.wf := by
  unfold State.trapInContext
  repeat' first
    | (with_reducible first
       | assumption | intro _ | apply wf_ite | apply wf_ite_fst | apply wf_modCtx | apply wf_areaWriteSome
       | apply wf_freezeTrap | refine of_fst ?_ (by assumption))
    | split | dsimp only

theorem wf_trap {s : State} (h : s.mem.wf) (code loc : Nat) (tval : Word) : (s.trap code loc tval).mem.wf := by
  unfold State.trap
  repeat' first
    | (with_reducible first
       | assumption | intro _ | apply wf_ite | apply wf_ite_fst | apply wf_modCtx | apply wf_coreTrap | apply wf_freezeTrap
       | apply wf_trapInContext)
    | split | dsimp only

theorem wf_illegal {s : State} (h : s.mem.wf) : (s.illegal).mem.wf := by
  unfold State.illegal
  repeat' first
    | (with_reducible first
       | assumption | intro _ | apply wf_ite | apply wf_ite_fst | apply wf_trap)
    | split | dsimp only

theorem wf_priv {s : State} (h : s.mem.wf) : (s.priv).mem.wf := by
  unfold State.priv
  repeat' first
    | (with_reducible first
       | assumption | intro _ | apply wf_ite | apply wf_ite_fst | apply wf_trap)
    | split | dsimp only

theorem wf_guarded {s : State} (h : s.mem.wf) (gn : Bool) (gs : BitVec 3) (k : State → State) (hk : ∀ (t : State), t.mem.wf → (k t).mem.wf) : (s.guarded gn gs k).mem.wf := by
  unfold State.guarded
  repeat' first
    | (with_reducible first
       | assumption | intro _ | apply wf_ite | apply wf_ite_fst | apply hk | apply wf_advance | apply wf_illegal)
    | split | dsimp only

theorem wf_guardedCtx {s : State} (h : s.mem.wf) (gn : Bool) (gs : BitVec 3) (k : State → State) (hk : ∀ (t : State), t.mem.wf → (k t).mem.wf) : (s.guardedCtx gn gs k).mem.wf := by
  unfold State.guardedCtx
  repeat' first
    | (with_reducible first
       | assumption | intro _ | apply wf_ite | apply wf_ite_fst | apply hk | apply wf_illegal | apply wf_guarded)
    | split | dsimp only

theorem wf_guardedSup {s : State} (h : s.mem.wf) (gn : Bool) (gs : BitVec 3) (core : Bool) (k : State → State) (hk : ∀ (t : State), t.mem.wf → (k t).mem.wf) : (s.guardedSup gn gs core k).mem.wf := by
  unfold State.guardedSup
  repeat' first
    | (with_reducible first
       | assumption | intro _ | apply wf_ite | apply wf_ite_fst | apply hk | apply wf_illegal | apply wf_priv
       | apply wf_guarded)
    | split | dsimp only

theorem wf_waitLink {s : State} (h : s.mem.wf) (k : Nat) : (s.waitLink k).mem.wf := by
  unfold State.waitLink
  repeat' first
    | (with_reducible first
       | assumption | intro _ | apply wf_ite | apply wf_ite_fst | apply wf_waits)
    | split | dsimp only

theorem wf_masked {s : State} (h : s.mem.wf) (gn : Bool) (gs : BitVec 3) (k : Word → State → State) (hk : ∀ x0 (t : State), t.mem.wf → (k x0 t).mem.wf) : (s.masked gn gs k).mem.wf := by
  unfold State.masked
  repeat' first
    | (with_reducible first
       | assumption | intro _ | apply wf_ite | apply wf_ite_fst | apply hk | apply wf_advance | apply wf_illegal
       | apply wf_waitLink)
    | split | dsimp only

theorem wf_postSettles {s : State} (h : s.mem.wf) (d t c n : Nat) : (s.postSettles d t c n).mem.wf := by
  unfold State.postSettles
  repeat' first
    | (with_reducible first
       | assumption | intro _ | apply wf_ite | apply wf_ite_fst | apply wf_post | apply wf_foldl | apply wf_foldl_fst)
    | split | dsimp only

theorem wf_eretCtx {s : State} (h : s.mem.wf) (d t c i : Nat) : (s.eretCtx d t c i).mem.wf := by
  unfold State.eretCtx
  repeat' first
    | (with_reducible first
       | assumption | intro _ | apply wf_ite | apply wf_ite_fst | apply wf_modCtx | apply wf_forgetWhere | apply wf_freeze
       | apply wf_chainTrap | apply wf_postSettles)
    | split | dsimp only

theorem wf_enableQueue {s : State} (h : s.mem.wf) (d q : Nat) : (s.enableQueue d q).mem.wf := by
  unfold State.enableQueue
  repeat' first
    | (with_reducible first
       | assumption | intro _ | apply wf_ite | apply wf_ite_fst | apply wf_modQueue | apply wf_post | apply wf_inform
       | apply wf_queueErr)
    | split | dsimp only

theorem wf_writeSbbase {s : State} (h : s.mem.wf) (d : Nat) (v : Word) : (s.writeSbbase d v).mem.wf := by
  unfold State.writeSbbase
  repeat' first
    | (with_reducible first
       | assumption | intro _ | apply wf_ite | apply wf_ite_fst | apply wf_modBox | apply wf_enableQueue | apply wf_foldl
       | apply wf_foldl_fst)
    | split | dsimp only

theorem wf_tailStored {s : State} (h : s.mem.wf) (d q : Nat) : (s.tailStored d q).mem.wf := by
  unfold State.tailStored
  repeat' first
    | (with_reducible first
       | assumption | intro _ | apply wf_ite | apply wf_ite_fst | apply wf_modBox | apply wf_modQueue | apply wf_postTake
       | apply wf_queueErr)
    | split | dsimp only

theorem wf_modTt {s : State} (h : s.mem.wf) (d i : Nat) (f : TTEntry → TTEntry) : (s.modTt d i f).mem.wf := by
  unfold State.modTt
  repeat' first
    | (with_reducible first
       | assumption | intro _ | apply wf_ite | apply wf_ite_fst | apply wf_modBox)
    | split | dsimp only

theorem wf_postFire {s : State} (h : s.mem.wf) (d i : Nat) : (s.postFire d i).mem.wf := by
  unfold State.postFire
  repeat' first
    | (with_reducible first
       | assumption | intro _ | apply wf_ite | apply wf_ite_fst | apply wf_post)
    | split | dsimp only

theorem wf_informs {s : State} (h : s.mem.wf) (code : Nat) (info : Word) (n : Nat) : (s.informs code info n).mem.wf := by
  induction n generalizing s with
  | zero =>
    unfold State.informs
    repeat' first
      | (with_reducible first
         | assumption | intro _ | apply wf_ite | apply wf_ite_fst | apply wf_inform)
      | split | dsimp only
  | succ n ih =>
    unfold State.informs
    repeat' first
      | (with_reducible first
         | assumption | intro _ | apply wf_ite | apply wf_ite_fst | apply ih | apply wf_inform)
      | split | dsimp only

theorem wf_miss {s : State} (h : s.mem.wf) (d i n : Nat) : (s.miss d i n).mem.wf := by
  unfold State.miss
  repeat' first
    | (with_reducible first
       | assumption | intro _ | apply wf_ite | apply wf_ite_fst | apply wf_modTt | apply wf_informs)
    | split | dsimp only

theorem wf_ttFire {s : State} (h : s.mem.wf) (d i : Nat) : (s.ttFire d i).mem.wf := by
  unfold State.ttFire
  repeat' first
    | (with_reducible first
       | assumption | intro _ | apply wf_ite | apply wf_ite_fst | apply wf_modQueue | apply wf_postTake | apply wf_modTt
       | apply wf_postFire | apply wf_miss)
    | split | dsimp only

theorem wf_fireReached {s : State} (h : s.mem.wf) (d n : Nat) : (s.fireReached d n).mem.wf := by
  induction n generalizing s with
  | zero => exact h
  | succ n ih =>
    unfold State.fireReached
    split
    · exact h
    · exact ih (wf_ttFire h d _)

theorem wf_fireDue {s : State} (h : s.mem.wf) : (s.fireDue).mem.wf := by
  unfold State.fireDue
  repeat' first
    | (with_reducible first
       | assumption | intro _ | apply wf_ite | apply wf_ite_fst | apply wf_fireReached | apply wf_foldl | apply wf_foldl_fst)
    | split | dsimp only

theorem wf_stepTime {s : State} (h : s.mem.wf) (v : Word) : (s.stepTime v).mem.wf := by
  unfold State.stepTime
  repeat' first
    | (with_reducible first
       | assumption | intro _ | apply wf_ite | apply wf_ite_fst | apply wf_modSys | apply wf_postFire | apply wf_miss
       | apply wf_fireDue | apply wf_foldl | apply wf_foldl_fst)
    | split | dsimp only

theorem wf_wakeStc {s : State} (h : s.mem.wf) (d i v : Nat) : (s.wakeStc d i v).mem.wf := by
  unfold State.wakeStc
  repeat' first
    | (with_reducible first
       | assumption | intro _ | apply wf_ite | apply wf_ite_fst)
    | split | dsimp only

theorem wf_settleSct {s : State} (h : s.mem.wf) (d : Nat) : (s.settleSct d).mem.wf := by
  unfold State.settleSct
  repeat' first
    | (with_reducible first
       | assumption | intro _ | apply wf_ite | apply wf_ite_fst | apply wf_nodeAgain | apply wf_foldl | apply wf_foldl_fst)
    | split | dsimp only

theorem wf_restore {s : State} (h : s.mem.wf) (d i f : Nat) : (s.restore d i f).mem.wf := by
  unfold State.restore
  repeat' first
    | (with_reducible first
       | assumption | intro _ | apply wf_ite | apply wf_ite_fst | apply wf_modStc | apply wf_post)
    | split | dsimp only

theorem wf_evict {s : State} (h : s.mem.wf) (d i : Nat) : (s.evict d i).mem.wf := by
  unfold State.evict
  repeat' first
    | (with_reducible first
       | assumption | intro _ | apply wf_ite | apply wf_ite_fst | apply wf_modStc | apply wf_post)
    | split | dsimp only

theorem wf_touchStc {s : State} (h : s.mem.wf) (d i : Nat) : (s.touchStc d i).1.mem.wf := by
  unfold State.touchStc
  repeat' first
    | (with_reducible first
       | assumption | intro _ | apply wf_ite | apply wf_ite_fst | apply wf_modStc | apply wf_restore | apply wf_evict)
    | split | dsimp only

theorem wf_serveOne {s : State} (h : s.mem.wf) (d i : Nat) : (s.serveOne d i).mem.wf := by
  unfold State.serveOne
  repeat' first
    | (with_reducible first
       | assumption | intro _ | apply wf_ite | apply wf_ite_fst | apply wf_modStc | apply wf_wakeStc | apply wf_restore
       | apply wf_evict)
    | split | dsimp only

theorem wf_serveWant {s : State} (h : s.mem.wf) (d : Nat) : (s.serveWant d).mem.wf := by
  unfold State.serveWant
  repeat' first
    | (with_reducible first
       | assumption | intro _ | apply wf_ite | apply wf_ite_fst | apply wf_serveOne | apply wf_foldl | apply wf_foldl_fst)
    | split | dsimp only

theorem wf_copyMarks {s : State} (h : s.mem.wf) (src dst : Nat → Nat) (n : Nat) : (s.copyMarks src dst n).mem.wf := by
  unfold State.copyMarks
  repeat' first
    | (with_reducible first
       | assumption | intro _ | apply wf_ite | apply wf_ite_fst | apply wf_inform | apply wf_mark | apply wf_foldl
       | apply wf_foldl_fst)
    | split | dsimp only

theorem wf_restored {s : State} (h : s.mem.wf) (d i : Nat) : (s.restored d i).mem.wf := by
  unfold State.restored
  repeat' first
    | (with_reducible first
       | assumption | intro _ | apply wf_ite | apply wf_ite_fst | apply wf_modStc | apply wf_inform | apply wf_wakeStc
       | apply wf_settleSct | apply wf_serveWant | apply wf_copyMarks | apply put_wf)
    | split | dsimp only

theorem wf_evicted {s : State} (h : s.mem.wf) (d i : Nat) : (s.evicted d i).mem.wf := by
  unfold State.evicted
  repeat' first
    | (with_reducible first
       | assumption | intro _ | apply wf_ite | apply wf_ite_fst | apply wf_modStc | apply wf_inform | apply wf_writeVa
       | apply wf_endRecord | apply wf_wakeStc | apply wf_settleSct | apply wf_serveWant | apply wf_copyMarks
       | refine gives_map ?_ ?_ | refine of_some ?_ (by assumption) | refine of_gives (by assumption))
    | split | dsimp only

theorem wf_writeStccfg {s : State} (h : s.mem.wf) (d : Nat) (v : Word) : (s.writeStccfg d v).mem.wf := by
  unfold State.writeStccfg
  repeat' first
    | (with_reducible first
       | assumption | intro _ | apply wf_ite | apply wf_ite_fst | apply wf_modBox | apply wf_post | apply wf_flushDepot
       | apply wf_foldl | apply wf_foldl_fst)
    | split | dsimp only

theorem wf_loadConfig {s : State} (h : s.mem.wf) (d i va : Nat) (drain : Bool) : Loads (s.loadConfig d i va drain) := by
  unfold State.loadConfig
  repeat' first
    | (with_reducible first
       | assumption | intro _ | apply wf_ite | apply wf_ite_fst | apply loads_ok | exact loads_status | exact loads_wait
       | apply wf_modTile | apply wf_modSlot | apply wf_sideQueues | apply wf_fireAll | apply wf_foldl | apply wf_foldl_fst)
    | split | dsimp only

theorem wf_writeBlocks {s : State} (h : s.mem.wf) (d j : Nat) (l : List Nat) :
    Ran (fun s => s) (s.writeBlocks d j l) := by
  induction l generalizing s with
  | nil =>
    unfold State.writeBlocks
    with_reducible exact ran_ok h
  | cons t r ih =>
    unfold State.writeBlocks
    have h1 := wf_writeBlock h d j t
    generalize s.writeBlock d j t = p at *
    obtain ⟨u, ok⟩ := p
    cases ok
    · exact ran_error h1
    · exact ih (wf_modSlot h1 _ _ _)

theorem wf_armWrites {s : State} (h : s.mem.wf) (d i : Nat) (l : List Nat) : Ran (fun s => s) (s.armWrites d i l) := by
  induction l generalizing s with
  | nil =>
    unfold State.armWrites
    with_reducible exact ran_ok h
  | cons j r ih =>
    unfold State.armWrites
    dsimp only
    have h1 := wf_writeBlocks h d j
    split
    · exact ih h
    · split
      · exact ih (of_ok (h1 _) ‹_›)
      · exact ran_error (of_error (h1 _) ‹_›)

theorem wf_blocksAs {s : State} (h : s.mem.wf) (old : State) (d : Nat) : (s.blocksAs old d).mem.wf := by
  unfold State.blocksAs
  with_reducible apply wf_foldl h
  intro t j ht
  with_reducible exact wf_modSlot ht _ _ _

theorem wf_freeChans {s : State} (h : s.mem.wf) (d i : Nat) : (s.freeChans d i).mem.wf := by
  unfold State.freeChans
  repeat' first
    | (with_reducible first
       | assumption | intro _ | apply wf_ite | apply wf_ite_fst | apply wf_modTile | apply wf_foldl | apply wf_foldl_fst)
    | split | dsimp only

theorem wf_armBlocks {s : State} (h : s.mem.wf) (d i : Nat) (js : List Nat) : Ran (fun s => s) (s.armBlocks d i js) := by
  unfold State.armBlocks
  repeat' first
    | (with_reducible first
       | assumption | intro _ | apply wf_ite | apply wf_ite_fst | apply ran_ite | apply wf_armWrites | apply wf_blocksAs
       | apply wf_freeChans | apply ran_ok | apply ran_ok_fst | apply ran_error | apply ran_ran
       | refine ran_bind (f := Prod.fst) ?_ ?_ | refine ran_bind (f := fun s => s) ?_ ?_ | refine ran_bind_stops ?_ ?_
       | refine of_ok ?_ (by assumption) | refine of_error (f := fun s => s) ?_ (by assumption))
    | split | dsimp only

theorem wf_startArm {s : State} (h : s.mem.wf) (d i : Nat) (args target : Word) (k : Walker) : (s.startArm d i args target k).mem.wf := by
  unfold State.startArm
  repeat' first
    | (with_reducible first
       | assumption | intro _ | apply wf_ite | apply wf_ite_fst | apply wf_modSlot | apply wf_armPhase)
    | split | dsimp only

theorem wf_writeCtx {s : State} (h : s.mem.wf) (n : Nat) (v : Word) : (s.writeCtx n v).mem.wf := by
  unfold State.writeCtx
  repeat' first
    | (with_reducible first
       | assumption | intro _ | apply wf_ite | apply wf_ite_fst | apply wf_modHart)
    | split | dsimp only

theorem wf_writePred {s : State} (h : s.mem.wf) (d t : Nat) (v : Word) : (s.writePred d t v).mem.wf := by
  unfold State.writePred
  repeat' first
    | (with_reducible first
       | assumption | intro _ | apply wf_ite | apply wf_ite_fst | apply wf_modTile | apply wf_post)
    | split | dsimp only

theorem wf_writeTile {s : State} (h : s.mem.wf) (d t n : Nat) (v : Word) : (s.writeTile d t n v).mem.wf := by
  unfold State.writeTile
  repeat' first
    | (with_reducible first
       | assumption | intro _ | apply wf_ite | apply wf_ite_fst | apply wf_modTile | apply wf_writePred)
    | split | dsimp only

theorem wf_ackTrap {s : State} (h : s.mem.wf) (d i : Nat) (w1 : Word) : (s.ackTrap d i w1).mem.wf := by
  unfold State.ackTrap
  repeat' first
    | (with_reducible first
       | assumption | intro _ | apply wf_ite | apply wf_ite_fst | apply wf_modSlot | apply wf_slotTo | apply wf_settle
       | apply wf_save)
    | split | dsimp only

theorem wf_postWdogs {s : State} (h : s.mem.wf) (d i : Nat) : (s.postWdogs d i).mem.wf := by
  unfold State.postWdogs
  repeat' first
    | (with_reducible first
       | assumption | intro _ | apply wf_ite | apply wf_ite_fst | apply wf_post | apply wf_foldl | apply wf_foldl_fst)
    | split | dsimp only

theorem wf_postTimeouts {s : State} (h : s.mem.wf) (d i : Nat) : (s.postTimeouts d i).mem.wf := by
  unfold State.postTimeouts
  repeat' first
    | (with_reducible first
       | assumption | intro _ | apply wf_ite | apply wf_ite_fst | apply wf_post | apply wf_foldl | apply wf_foldl_fst)
    | split | dsimp only

theorem wf_writeReg {s : State} (h : s.mem.wf) (d i n : Nat) (v w1 : Word) : (s.writeReg d i n v w1).mem.wf := by
  unfold State.writeReg
  repeat' first
    | (with_reducible first
       | assumption | intro _ | apply wf_ite | apply wf_ite_fst | apply wf_modSlot | apply wf_ackTrap | apply wf_postWdogs
       | apply wf_postTimeouts)
    | split | dsimp only

theorem wf_postFires {s : State} (h : s.mem.wf) : (s.postFires).mem.wf := by
  unfold State.postFires
  repeat' first
    | (with_reducible first
       | assumption | intro _ | apply wf_ite | apply wf_ite_fst | apply wf_postFire | apply wf_foldl | apply wf_foldl_fst)
    | split | dsimp only

theorem wf_writeTimerate {s : State} (h : s.mem.wf) (v : Word) : (s.writeTimerate v).mem.wf := by
  unfold State.writeTimerate
  repeat' first
    | (with_reducible first
       | assumption | intro _ | apply wf_ite | apply wf_ite_fst | apply wf_modSys | apply wf_postFires)
    | split | dsimp only

theorem wf_writePtpstat {s : State} (h : s.mem.wf) (v : Word) : (s.writePtpstat v).mem.wf := by
  unfold State.writePtpstat
  repeat' first
    | (with_reducible first
       | assumption | intro _ | apply wf_ite | apply wf_ite_fst | apply wf_modSys)
    | split | dsimp only

theorem wf_writePodcfg {s : State} (h : s.mem.wf) (v : Word) : (s.writePodcfg v).mem.wf := by
  unfold State.writePodcfg
  repeat' first
    | (with_reducible first
       | assumption | intro _ | apply wf_ite | apply wf_ite_fst | apply wf_modSys)
    | split | dsimp only

theorem wf_writeHotcfg {s : State} (h : s.mem.wf) (v w1 : Word) : (s.writeHotcfg v w1).mem.wf := by
  unfold State.writeHotcfg
  repeat' first
    | (with_reducible first
       | assumption | intro _ | apply wf_ite | apply wf_ite_fst | apply wf_modSys)
    | split | dsimp only

theorem wf_ackEvents {s : State} (h : s.mem.wf) (w1 : Word) : (s.ackEvents w1).mem.wf := by
  unfold State.ackEvents
  repeat' first
    | (with_reducible first
       | assumption | intro _ | apply wf_ite | apply wf_ite_fst | apply wf_modSys)
    | split | dsimp only

theorem wf_writeSvwdog {s : State} (h : s.mem.wf) (n : Nat) (v : Word) : (s.writeSvwdog n v).mem.wf := by
  unfold State.writeSvwdog
  repeat' first
    | (with_reducible first
       | assumption | intro _ | apply wf_ite | apply wf_ite_fst | apply wf_modCore | apply wf_post)
    | split | dsimp only

theorem wf_bootWalk {s : State} (h : s.mem.wf) (d : Nat) (va : Word) : (s.bootWalk d va).mem.wf := by
  unfold State.bootWalk
  repeat' first
    | (with_reducible first
       | assumption | intro _ | apply wf_ite | apply wf_ite_fst | apply wf_modSys | apply wf_modWalker | apply wf_postNode)
    | split | dsimp only

theorem wf_writeBootwalk {s : State} (h : s.mem.wf) (v w1 : Word) : (s.writeBootwalk v w1).mem.wf := by
  unfold State.writeBootwalk
  repeat' first
    | (with_reducible first
       | assumption | intro _ | apply wf_ite | apply wf_ite_fst | apply wf_modSys | apply wf_bootWalk | apply wf_foldl
       | apply wf_foldl_fst)
    | split | dsimp only

theorem wf_writeBootctl {s : State} (h : s.mem.wf) (v w1 : Word) : (s.writeBootctl v w1).mem.wf := by
  unfold State.writeBootctl
  repeat' first
    | (with_reducible first
       | assumption | intro _ | apply wf_ite | apply wf_ite_fst | apply wf_modSys | apply wf_post)
    | split | dsimp only

theorem wf_writeSys {s : State} (h : s.mem.wf) (n : Nat) (v w1 : Word) : (s.writeSys n v w1).mem.wf := by
  unfold State.writeSys
  repeat' first
    | (with_reducible first
       | assumption | intro _ | apply wf_ite | apply wf_ite_fst | apply wf_modSys | apply wf_writeSbbase | apply wf_stepTime
       | apply wf_writeStccfg | apply wf_writeTimerate | apply wf_writePtpstat | apply wf_writePodcfg | apply wf_writeHotcfg
       | apply wf_ackEvents | apply wf_writeSvwdog | apply wf_writeBootwalk | apply wf_writeBootctl)
    | split | dsimp only

theorem wf_writeCsr {s : State} (h : s.mem.wf) (n : Nat) (v w1 : Word) : (s.writeCsr n v w1).mem.wf := by
  unfold State.writeCsr
  repeat' first
    | (with_reducible first
       | assumption | intro _ | apply wf_ite | apply wf_ite_fst | apply wf_writeCtx | apply wf_writeTile | apply wf_writeReg
       | apply wf_writeSys)
    | split | dsimp only

theorem wf_writeCtl {s : State} (h : s.mem.wf) (csr d loc : Nat) (v : Word) : (s.writeCtl csr d loc v).mem.wf := by
  unfold State.writeCtl
  repeat' first
    | (with_reducible first
       | assumption | intro _ | apply wf_ite | apply wf_ite_fst | apply wf_writeTile | apply wf_writeReg)
    | split | dsimp only

theorem wf_pass {s : State} (h : s.mem.wf) : (s.pass).mem.wf := by
  unfold State.pass
  repeat' first
    | (with_reducible first
       | assumption | intro _ | apply wf_ite | apply wf_ite_fst | apply wf_modSys)
    | split | dsimp only

theorem wf_unparkAll {s : State} (h : s.mem.wf) : (s.unparkAll).mem.wf := by
  unfold State.unparkAll
  repeat' first
    | (with_reducible first
       | assumption | intro _ | apply wf_ite | apply wf_ite_fst)
    | split | dsimp only

theorem wf_tick {s : State} (h : s.mem.wf) : (s.tick).mem.wf := by
  unfold State.tick
  repeat' first
    | (with_reducible first
       | assumption | intro _ | apply wf_ite | apply wf_ite_fst | apply wf_pass | apply wf_unparkAll)
    | split | dsimp only

theorem wf_fetch {s : State} (h : s.mem.wf) : Ran Prod.fst (s.fetch) := by
  unfold State.fetch
  repeat' first
    | (with_reducible first
       | assumption | intro _ | apply wf_ite | apply wf_ite_fst | apply ran_ite | apply wf_waits | apply wf_touch
       | apply wf_withhold | apply wf_trap | apply ran_ok | apply ran_ok_fst | apply ran_error | apply ran_ran
       | refine ran_bind (f := Prod.fst) ?_ ?_ | refine ran_bind (f := fun s => s) ?_ ?_ | refine ran_bind_stops ?_ ?_)
    | split | dsimp only

theorem wf_issueWord {s : State} (h : s.mem.wf) : (s.issueWord).1.mem.wf := by
  unfold State.issueWord
  repeat' first
    | (with_reducible first
       | assumption | intro _ | apply wf_ite | apply wf_ite_fst | apply wf_modHart | apply wf_illegal | apply wf_fetch
       | apply ran_ok | apply ran_ok_fst | apply ran_error | apply ran_ran | refine ran_bind (f := Prod.fst) ?_ ?_
       | refine ran_bind (f := fun s => s) ?_ ?_ | refine ran_bind_stops ?_ ?_ | refine of_ok_fst ?_ (by assumption)
       | refine of_error (f := Prod.fst) ?_ (by assumption))
    | split | dsimp only

theorem wf_issueFrom {s : State} (h : s.mem.wf) (a : Agent) : (s.issueFrom a).1.mem.wf := by
  unfold State.issueFrom
  repeat' first
    | (with_reducible first
       | assumption | intro _ | apply wf_ite | apply wf_ite_fst | apply wf_modHartOf | apply wf_issueWord
       | refine of_fst ?_ (by assumption))
    | split | dsimp only

theorem wf_takeEvent {s : State} (h : s.mem.wf) (i : Instr) (a : Arg) : (s.takeEvent i a).1.mem.wf := by
  unfold State.takeEvent
  repeat' first
    | (with_reducible first
       | assumption | intro _ | apply wf_ite | apply wf_ite_fst)
    | split | dsimp only

theorem wf_choose {s : State} (h : s.mem.wf) : (s.choose).1.mem.wf := by
  unfold State.choose
  repeat' first
    | (with_reducible first
       | assumption | intro _ | apply wf_ite | apply wf_ite_fst | apply wf_issueFrom | apply wf_takeEvent
       | refine of_fst ?_ (by assumption))
    | split | dsimp only

theorem wf_pageFault {s : State} (h : s.mem.wf) (ea : Nat) (a : Acc) (level code : Nat) : (s.pageFault ea a level code).mem.wf := by
  unfold State.pageFault
  repeat' first
    | (with_reducible first
       | assumption | intro _ | apply wf_ite | apply wf_ite_fst | apply wf_waits | apply wf_withhold | apply wf_trap)
    | split | dsimp only

theorem wf_access {s : State} (h : s.mem.wf) (ea n align : Nat) (a : Acc) (k : Place → State → State) (hk : ∀ x0 (t : State), t.mem.wf → (k x0 t).mem.wf) : (s.access ea n align a k).mem.wf := by
  unfold State.access
  repeat' first
    | (with_reducible first
       | assumption | intro _ | apply wf_ite | apply wf_ite_fst | apply hk | apply wf_waits | apply wf_touch
       | apply wf_remote | apply wf_trap | apply wf_priv | apply wf_pageFault | refine of_fst ?_ (by assumption))
    | split | dsimp only

theorem wf_guardedAt {s : State} (h : s.mem.wf) (gn : Bool) (gs : BitVec 3) (ea : Nat) (k : State → State) (hk : ∀ (t : State), t.mem.wf → (k t).mem.wf) : (s.guardedAt gn gs ea k).mem.wf := by
  unfold State.guardedAt
  repeat' first
    | (with_reducible first
       | assumption | intro _ | apply wf_ite | apply wf_ite_fst | apply hk | apply wf_priv | apply wf_guarded)
    | split | dsimp only

theorem wf_viaPod {s : State} (h : s.mem.wf) (loc ea m va n : Nat) (op : RemoteOp) (x y : Word) (data : List Byte) (k : RemoteReq → State → State) (hk : ∀ x0 (t : State), t.mem.wf → (k x0 t).mem.wf) : (s.viaPod loc ea m va n op x y data k).mem.wf := by
  unfold State.viaPod
  repeat' first
    | (with_reducible first
       | assumption | intro _ | apply wf_ite | apply wf_ite_fst | apply hk | apply wf_waits | apply wf_remote
       | apply wf_trap | refine of_fst ?_ (by assumption))
    | split | dsimp only

theorem wf_dropLate {s : State} (h : s.mem.wf) (p : Phys) (n : Nat) : (s.dropLate p n).mem.wf := by
  unfold State.dropLate
  repeat' first
    | (with_reducible first
       | assumption | intro _ | apply wf_ite | apply wf_ite_fst | apply wf_modMe)
    | split | dsimp only

theorem wf_noteLate {s : State} (h : s.mem.wf) (ea : Nat) (p : Phys) (n : Nat) : (s.noteLate ea p n).mem.wf := by
  unfold State.noteLate
  repeat' first
    | (with_reducible first
       | assumption | intro _ | apply wf_ite | apply wf_ite_fst | apply wf_modMe)
    | split | dsimp only

theorem wf_keepOld {s : State} (h : s.mem.wf) (k n : Nat) : (s.keepOld k n).mem.wf := by
  unfold State.keepOld
  repeat' first
    | (with_reducible first
       | assumption | intro _ | apply wf_ite | apply wf_ite_fst | apply wf_modMyTile)
    | split | dsimp only

theorem wf_noteStore {s : State} (h : s.mem.wf) (ea : Nat) (p : Phys) (n : Nat) : (s.noteStore ea p n).mem.wf := by
  unfold State.noteStore
  repeat' first
    | (with_reducible first
       | assumption | intro _ | apply wf_ite | apply wf_ite_fst | apply wf_noteLate | apply wf_keepOld)
    | split | dsimp only

theorem wf_putBefore {s : State} (h : s.mem.wf) (ea : Nat) (p : Phys) (bs : List Byte) : (s.putBefore ea p bs).mem.wf := by
  unfold State.putBefore
  repeat' first
    | (with_reducible first
       | assumption | intro _ | apply wf_ite | apply wf_ite_fst | apply wf_modMe | apply wf_wrFor | apply wf_noteLate)
    | split | dsimp only

theorem wf_putOwn {s : State} (h : s.mem.wf) (rel : Bool) (ea : Nat) (p : Phys) (bs : List Byte) : (s.putOwn rel ea p bs).mem.wf := by
  unfold State.putOwn
  repeat' first
    | (with_reducible first
       | assumption | intro _ | apply wf_ite | apply wf_ite_fst | apply wf_freeVal | apply wf_wrFor | apply wf_noteStore
       | apply wf_putBefore | refine of_fst ?_ (by assumption))
    | split | dsimp only

theorem wf_orderStores {s : State} (h : s.mem.wf) (pod : Bool) : (s.orderStores pod).mem.wf := by
  unfold State.orderStores
  repeat' first
    | (with_reducible first
       | assumption | intro _ | apply wf_ite | apply wf_ite_fst | apply wf_modMe)
    | split | dsimp only

theorem wf_orderLate {s : State} (h : s.mem.wf) (pod : Bool) : (s.orderLate pod).mem.wf := by
  unfold State.orderLate
  repeat' first
    | (with_reducible first
       | assumption | intro _ | apply wf_ite | apply wf_ite_fst | apply wf_modMe)
    | split | dsimp only

theorem wf_load {s : State} (h : s.mem.wf) (ea n : Nat) (k : Nat → State → State) (hk : ∀ x0 (t : State), t.mem.wf → (k x0 t).mem.wf) : (s.load ea n k).mem.wf := by
  unfold State.load
  repeat' first
    | (with_reducible first
       | assumption | intro _ | apply wf_ite | apply wf_ite_fst | apply hk | apply wf_freeVal | apply wf_remote
       | apply wf_trap | apply wf_access | apply wf_viaPod | apply wf_dropLate | refine of_fst ?_ (by assumption))
    | split | dsimp only

theorem wf_store {s : State} (h : s.mem.wf) (rel : Bool) (ea : Nat) (bs : List Byte) : (s.store rel ea bs).mem.wf := by
  unfold State.store
  repeat' first
    | (with_reducible first
       | assumption | intro _ | apply wf_ite | apply wf_ite_fst | apply wf_advance | apply wf_remote | apply wf_trap
       | apply wf_writeCtl | apply wf_access | apply wf_viaPod | apply wf_putOwn | refine of_fst ?_ (by assumption))
    | split | dsimp only

theorem wf_atomic {s : State} (h : s.mem.wf) (rel : Bool) (ea : Nat) (op : RemoteOp) (x y : Word) (f : Word → Option Word) (k : Word → State → State) (hk : ∀ x0 (t : State), t.mem.wf → (k x0 t).mem.wf) : (s.atomic rel ea op x y f k).mem.wf := by
  unfold State.atomic
  repeat' first
    | (with_reducible first
       | assumption | intro _ | apply wf_ite | apply wf_ite_fst | apply hk | apply wf_freeVal | apply wf_wrFor
       | apply wf_remote | apply wf_trap | apply wf_access | apply wf_viaPod | apply wf_dropLate | apply wf_noteStore
       | apply wf_putBefore | refine of_fst ?_ (by assumption))
    | split | dsimp only

theorem wf_unitRead {s : State} (h : s.mem.wf) (x : UnitAt) (tag ea n : Nat) : (s.unitRead x tag ea n).1.mem.wf := by
  unfold State.unitRead
  repeat' first
    | (with_reducible first
       | assumption | intro _ | apply wf_ite | apply wf_ite_fst | apply wf_touch | apply wf_remote
       | refine of_fst ?_ (by assumption))
    | split | dsimp only

theorem wf_unitWrite {s : State} (h : s.mem.wf) (x : UnitAt) (tag ea : Nat) (bs : List Byte) (pois : Bool) : (s.unitWrite x tag ea bs pois).1.mem.wf := by
  unfold State.unitWrite
  repeat' first
    | (with_reducible first
       | assumption | intro _ | apply wf_ite | apply wf_ite_fst | apply wf_mark | apply wf_wrFor | apply wf_touch
       | apply wf_remote | refine of_fst ?_ (by assumption))
    | split | dsimp only

theorem wf_unitReads {s : State} (h : s.mem.wf) (x : UnitAt) (tag pos : Nat) (l : List (Nat × Nat)) : (s.unitReads x tag pos l).1.mem.wf := by
  induction l generalizing s tag with
  | nil =>
    unfold State.unitReads
    repeat' first
      | (with_reducible first
         | assumption | intro _ | apply wf_ite | apply wf_ite_fst | apply wf_unitRead
         | refine of_fst ?_ (by assumption))
      | split | dsimp only
  | cons x r ih =>
    unfold State.unitReads
    repeat' first
      | (with_reducible first
         | assumption | intro _ | apply wf_ite | apply wf_ite_fst | apply ih | apply wf_unitRead
         | refine of_fst ?_ (by assumption))
      | split | dsimp only

theorem wf_keepReplies {s : State} {r : State × Except Got (List Nat × Bool)} (h : r.1.mem.wf) : (s.keepReplies r).1.mem.wf := by
  unfold State.keepReplies
  split
  · exact h
  · exact h

theorem wf_plainElem {s : State} (h : s.mem.wf) (d t e n : Nat) : (s.plainElem d t e n).1.mem.wf := by
  unfold State.plainElem
  repeat' first
    | (with_reducible first
       | assumption | intro _ | apply wf_ite | apply wf_ite_fst | apply wf_unitReads | apply wf_keepReplies
       | refine of_fst ?_ (by assumption))
    | split | dsimp only

theorem wf_pageElem {s : State} (h : s.mem.wf) (d t e n : Nat) : (s.pageElem d t e n).1.mem.wf := by
  unfold State.pageElem
  repeat' first
    | (with_reducible first
       | assumption | intro _ | apply wf_ite | apply wf_ite_fst | apply wf_modTile | apply wf_unitReads
       | refine of_fst ?_ (by assumption))
    | split | dsimp only

theorem wf_nextElem {s : State} (h : s.mem.wf) (d t e n : Nat) : (s.nextElem d t e n).1.mem.wf := by
  unfold State.nextElem
  repeat' first
    | (with_reducible first
       | assumption | intro _ | apply wf_ite | apply wf_ite_fst | apply wf_plainElem | apply wf_pageElem
       | refine of_fst ?_ (by assumption))
    | split | dsimp only

theorem wf_gather {s : State} (h : s.mem.wf) (d t e k n : Nat) (l : List Elem) : (State.gather d t e k n l s).1.mem.wf := by
  induction k generalizing s n l with
  | zero => exact h
  | succ k ih =>
    cases l with
    | cons x r => exact ih h (n + 1) r
    | nil =>
      unfold State.gather
      split
      · exact ih (of_fst (wf_nextElem h d t e n) ‹_›) (n + 1) []
      · exact of_fst (wf_nextElem h d t e n) ‹_›

theorem wf_streamElems {s : State} (h : s.mem.wf) (d t e k : Nat) : (s.streamElems d t e k).1.mem.wf := by
  unfold State.streamElems
  repeat' first
    | (with_reducible first
       | assumption | intro _ | apply wf_ite | apply wf_ite_fst | apply wf_gather | refine of_fst ?_ (by assumption))
    | split | dsimp only

theorem wf_stash {s : State} (h : s.mem.wf) (d t e skip : Nat) (els : List Elem) : (s.stash d t e skip els).mem.wf := by
  unfold State.stash
  repeat' first
    | (with_reducible first
       | assumption | intro _ | apply wf_ite | apply wf_ite_fst | apply wf_modTile | apply wf_drop)
    | split | dsimp only

theorem wf_endOf {s : State} (h : s.mem.wf) (d t e : Nat) : (s.endOf d t e).mem.wf := by
  unfold State.endOf
  repeat' first
    | (with_reducible first
       | assumption | intro _ | apply wf_ite | apply wf_ite_fst | apply wf_modTile | apply wf_post)
    | split | dsimp only

theorem wf_portTrap {s : State} (h : s.mem.wf) (loc p pos : Nat) : (s.portTrap loc p pos).mem.wf := by
  unfold State.portTrap
  repeat' first
    | (with_reducible first
       | assumption | intro _ | apply wf_ite | apply wf_ite_fst | apply wf_trap)
    | split | dsimp only

theorem wf_addFlags {s : State} (h : s.mem.wf) (f : Fl) : (s.addFlags f).mem.wf := by
  unfold State.addFlags
  repeat' first
    | (with_reducible first
       | assumption | intro _ | apply wf_ite | apply wf_ite_fst | apply wf_modHart)
    | split | dsimp only

theorem wf_pop {s : State} (h : s.mem.wf) (loc p : Nat) (m : Word) : Ran (fun s => s) (s.pop loc p m) := by
  unfold State.pop
  repeat' first
    | (with_reducible first
       | assumption | intro _ | apply wf_ite | apply wf_ite_fst | apply ran_ite | apply wf_modTile | apply wf_modMe
       | apply wf_waits | apply wf_post | apply wf_withhold | apply wf_remote | apply wf_streamElems | apply wf_stash
       | apply wf_endOf | apply wf_portTrap | apply ran_ok | apply ran_ok_fst | apply ran_error | apply ran_ran
       | refine ran_bind (f := Prod.fst) ?_ ?_ | refine ran_bind (f := fun s => s) ?_ ?_ | refine ran_bind_stops ?_ ?_
       | refine of_fst ?_ (by assumption))
    | split | dsimp only

theorem wf_pops {s : State} (h : s.mem.wf) (m : Word) (l : List (Nat × Nat)) : Ran (fun s => s) (State.pops m l s) := by
  induction l generalizing s with
  | nil =>
    unfold State.pops
    repeat' first
      | (with_reducible first
         | assumption | intro _ | apply wf_ite | apply wf_ite_fst | apply ran_ite | apply wf_pop | apply ran_ok
         | apply ran_ok_fst | apply ran_error | apply ran_ran | refine ran_bind (f := Prod.fst) ?_ ?_
         | refine ran_bind (f := fun s => s) ?_ ?_ | refine ran_bind_stops ?_ ?_ | refine of_ok ?_ (by assumption)
         | refine of_error (f := fun s => s) ?_ (by assumption))
      | split | dsimp only
  | cons x r ih =>
    unfold State.pops
    repeat' first
      | (with_reducible first
         | assumption | intro _ | apply wf_ite | apply wf_ite_fst | apply ran_ite | apply ih | apply wf_pop | apply ran_ok
         | apply ran_ok_fst | apply ran_error | apply ran_ran | refine ran_bind (f := Prod.fst) ?_ ?_
         | refine ran_bind (f := fun s => s) ?_ ?_ | refine ran_bind_stops ?_ ?_ | refine of_ok ?_ (by assumption)
         | refine of_error (f := fun s => s) ?_ (by assumption))
      | split | dsimp only

theorem wf_poisonedField {s : State} (h : s.mem.wf) (f : Nat × Nat) : Gives (s.poisonedField f) := by
  unfold State.poisonedField
  repeat' first
    | (with_reducible first
       | assumption | intro _ | apply wf_ite | apply wf_ite_fst | apply gives_ite | exact gives_none | apply gives_some
       | apply wf_trap | refine gives_map ?_ ?_ | refine of_gives (by assumption) | refine gives_read ?_)
    | split | dsimp only

theorem wf_popsDone {s : State} (h : s.mem.wf) (pc m a : Word) (ls : List Latch) : (s.popsDone pc m a ls).mem.wf := by
  unfold State.popsDone
  repeat' first
    | (with_reducible first
       | assumption | intro _ | apply wf_ite | apply wf_ite_fst | apply wf_modMe | apply wf_addFlags | apply wf_foldl
       | apply wf_foldl_fst)
    | split | dsimp only

theorem wf_withPorts {s : State} (h : s.mem.wf) (m a : Word) (srcs : List (Nat × Nat)) (dest : Option PushDest) (k : (Nat → Latch) → State → Except State State) (hk : ∀ x0 (t : State), t.mem.wf → Ran (fun s => s) (k x0 t)) : (s.withPorts m a srcs dest k).mem.wf := by
  unfold State.withPorts
  repeat' first
    | (with_reducible first
       | assumption | intro _ | apply wf_ite | apply wf_ite_fst | apply hk | apply wf_waits | apply wf_portTrap
       | apply wf_pops | apply wf_poisonedField | apply wf_popsDone | apply ran_ok | apply ran_ok_fst | apply ran_error
       | apply ran_ran | refine ran_bind (f := Prod.fst) ?_ ?_ | refine ran_bind (f := fun s => s) ?_ ?_
       | refine ran_bind_stops ?_ ?_ | refine ran_map (f := Prod.fst) ?_ ?_ | refine ran_map (f := fun s => s) ?_ ?_
       | refine gives_map ?_ ?_ | apply gives_bind | apply gives_findSome | refine of_some ?_ (by assumption)
       | refine of_ok ?_ (by assumption) | refine of_error (f := fun s => s) ?_ (by assumption)
       | refine of_gives (by assumption) | apply of_getD)
    | split | dsimp only

theorem wf_pushStop {s : State} (h : s.mem.wf) (loc p e : Nat) (r : Nat × Got) : (s.pushStop loc p e r).mem.wf := by
  unfold State.pushStop
  repeat' first
    | (with_reducible first
       | assumption | intro _ | apply wf_ite | apply wf_ite_fst | apply wf_modMyTile | apply wf_waits | apply wf_withhold
       | apply wf_portTrap)
    | split | dsimp only

theorem wf_pushWrites {s : State} (h : s.mem.wf) (u : UnitAt) (sz : Nat) (ps : List (PushElem × Nat × Chk)) : (s.pushWrites u sz ps).mem.wf := by
  unfold State.pushWrites
  repeat' first
    | (with_reducible first
       | assumption | intro _ | apply wf_ite | apply wf_ite_fst | apply wf_mark | apply wf_wrFor | apply wf_touch
       | apply wf_foldl | apply wf_foldl_fst)
    | split | dsimp only

theorem wf_pushAsk {s : State} (h : s.mem.wf) (u : UnitAt) (a : Ape) (ps : List (PushElem × Nat × Chk)) : (s.pushAsk u a ps).1.mem.wf := by
  unfold State.pushAsk
  repeat' first
    | (with_reducible first
       | assumption | intro _ | apply wf_ite | apply wf_ite_fst | apply wf_remoteAll | refine of_fst ?_ (by assumption))
    | split | dsimp only

theorem wf_pushRun {s : State} (h : s.mem.wf) (u : UnitAt) (a : Ape) (sz : Nat) (ps : List (PushElem × Nat × Chk)) :
    (s.pushRun u a sz ps).1.mem.wf := by
  induction ps generalizing s with
  | nil => exact h
  | cons x r ih =>
    unfold State.pushRun
    split
    · split
      · exact of_fst (wf_remote h _ _ _ _ _ _ _ _ _) ‹_›
      · exact ih (of_fst (wf_remote h _ _ _ _ _ _ _ _ _) ‹_›)
    · exact ih (wf_pushWrites h u sz [x])

theorem wf_pushFrom {s : State} (h : s.mem.wf) (u : UnitAt) (a : Ape) (sz k : Nat) (ps : List (PushElem × Nat × Chk)) : (s.pushFrom u a sz k ps).1.mem.wf := by
  unfold State.pushFrom
  repeat' first
    | (with_reducible first
       | assumption | intro _ | apply wf_ite | apply wf_ite_fst | apply wf_drop | apply wf_pushWrites | apply wf_pushRun
       | refine of_fst ?_ (by assumption))
    | split | dsimp only

theorem wf_pushTaken {s : State} (h : s.mem.wf) (p used : Nat) (now : Bool) : (s.pushTaken p used now).mem.wf := by
  unfold State.pushTaken
  repeat' first
    | (with_reducible first
       | assumption | intro _ | apply wf_ite | apply wf_ite_fst | apply wf_modMyTile | apply wf_modMe | apply wf_endOf)
    | split | dsimp only

theorem wf_pushTo {s : State} (h : s.mem.wf) (loc p : Nat) (els : List PushElem) (used : Nat) : Ran Prod.fst (s.pushTo loc p els used) := by
  unfold State.pushTo
  repeat' first
    | (with_reducible first
       | assumption | intro _ | apply wf_ite | apply wf_ite_fst | apply ran_ite | apply wf_modMe | apply wf_waits
       | apply wf_remote | apply wf_portTrap | apply wf_pushStop | apply wf_pushAsk | apply wf_pushFrom | apply wf_pushTaken
       | apply ran_ok | apply ran_ok_fst | apply ran_error | apply ran_ran | refine ran_bind (f := Prod.fst) ?_ ?_
       | refine ran_bind (f := fun s => s) ?_ ?_ | refine ran_bind_stops ?_ ?_ | apply wf_foldl | apply wf_foldl_fst
       | refine of_fst ?_ (by assumption))
    | split | dsimp only

theorem wf_push {s : State} (h : s.mem.wf) (p : Nat) (m : Word) (pm : Bool) (lanes : Lanes) (cut : Word) : Ran (fun s => s) (s.push p m pm lanes cut) := by
  unfold State.push
  repeat' first
    | (with_reducible first
       | assumption | intro _ | apply wf_ite | apply wf_ite_fst | apply ran_ite | apply wf_addFlags | apply wf_pushTo
       | apply ran_ok | apply ran_ok_fst | apply ran_error | apply ran_ran | refine ran_bind (f := Prod.fst) ?_ ?_
       | refine ran_bind (f := fun s => s) ?_ ?_ | refine ran_bind_stops ?_ ?_ | refine ran_map (f := Prod.fst) ?_ ?_
       | refine ran_map (f := fun s => s) ?_ ?_ | refine of_ok_fst ?_ (by assumption)
       | refine of_error (f := Prod.fst) ?_ (by assumption))
    | split | dsimp only

theorem wf_link {s : State} (h : s.mem.wf) (l : Link) : (s.link l).mem.wf := by
  unfold State.link
  repeat' first
    | (with_reducible first
       | assumption | intro _ | apply wf_ite | apply wf_ite_fst | apply wf_modMe | apply wf_post)
    | split | dsimp only

theorem wf_pushHolds {s : State} (h : s.mem.wf) (d t e : Nat) (at_ : Option (Nat × Nat × Nat × Nat)) : (s.pushHolds d t e at_).mem.wf := by
  unfold State.pushHolds
  repeat' first
    | (with_reducible first
       | assumption | intro _ | apply wf_ite | apply wf_ite_fst | apply wf_modTile | apply wf_withhold | apply wf_unwithhold)
    | split | dsimp only

theorem wf_latePush {s : State} (h : s.mem.wf) (d t c : Nat) (p : PushTo) (els : List PushElem) : (s.latePush d t c p els).1.mem.wf := by
  unfold State.latePush
  repeat' first
    | (with_reducible first
       | assumption | intro _ | apply wf_ite | apply wf_ite_fst | apply wf_modCtx | apply wf_pushFrom | apply wf_pushHolds
       | refine of_fst ?_ (by assumption))
    | split | dsimp only

theorem wf_linkPush {s : State} (h : s.mem.wf) (d t c : Nat) (l : Link) (p : PushTo) : (s.linkPush d t c l p).1.mem.wf := by
  unfold State.linkPush
  repeat' first
    | (with_reducible first
       | assumption | intro _ | apply wf_ite | apply wf_ite_fst | apply wf_endOf | apply wf_latePush
       | refine of_fst ?_ (by assumption))
    | split | dsimp only

end Sys2Proof.Laws
end

