-- ==== Sys2Proof/Laws/FormUnits.lean ====
section
/-! SUPPORT. The memory's canonical form (O51) is kept by vector and matrix work, stream ports, channels, coaches, shards and the system instructions: one lemma for each. -/

namespace Sys2Proof.Laws

open Sys2Proof.Machine

theorem wf_vecWork {s : State} (h : s.mem.wf) (o : VFmt) (srcs : List (Nat × BitVec 5)) (need : Word → Word) (ms : List Nat) (dest : Option Nat) (k : (Nat → Lanes) → Word → State → Except State State) (hk : ∀ x0 x1 (t : State), t.mem.wf → Ran (fun s => s) (k x0 x1 t)) : (s.vecWork o srcs need ms dest k).mem.wf := by
  unfold State.vecWork
  repeat' first
    | (with_reducible first
       | assumption | intro _ | apply wf_ite | apply wf_ite_fst | apply hk | apply wf_waitLink | apply wf_masked
       | apply wf_pops | apply wf_withPorts | apply ran_ok | apply ran_ok_fst | apply ran_error | apply ran_ran
       | refine ran_bind (f := Prod.fst) ?_ ?_ | refine ran_bind (f := fun s => s) ?_ ?_ | refine ran_bind_stops ?_ ?_
       | refine ran_map (f := Prod.fst) ?_ ?_ | refine ran_map (f := fun s => s) ?_ ?_ | refine of_ok ?_ (by assumption)
       | refine of_error (f := fun s => s) ?_ (by assumption))
    | split | dsimp only

theorem wf_vecOp {s : State} (h : s.mem.wf) (o : VFmt) (srcs : List (Nat × BitVec 5)) (need : Word → Word) (ms : List Nat) (k : (Nat → Lanes) → Word → State → State) (hk : ∀ x0 x1 (t : State), t.mem.wf → (k x0 x1 t).mem.wf) : (s.vecOp o srcs need ms k).mem.wf := by
  unfold State.vecOp
  repeat' first
    | (with_reducible first
       | assumption | intro _ | apply wf_ite | apply wf_ite_fst | apply hk | apply wf_pops | apply wf_vecWork | apply ran_ok
       | apply ran_ok_fst | apply ran_error | apply ran_ran | refine ran_bind (f := Prod.fst) ?_ ?_
       | refine ran_bind (f := fun s => s) ?_ ?_ | refine ran_bind_stops ?_ ?_ | refine of_ok ?_ (by assumption)
       | refine of_error (f := fun s => s) ?_ (by assumption))
    | split | dsimp only

theorem wf_putV {s : State} (h : s.mem.wf) (o : VFmt) (a : Word) (r : VRes) : Ran (fun s => s) (s.putV o a r) := by
  unfold State.putV
  repeat' first
    | (with_reducible first
       | assumption | intro _ | apply wf_ite | apply wf_ite_fst | apply ran_ite | apply wf_modMe | apply wf_advance
       | apply wf_addFlags | apply wf_push | apply ran_ok | apply ran_ok_fst | apply ran_error | apply ran_ran
       | refine ran_bind (f := Prod.fst) ?_ ?_ | refine ran_bind (f := fun s => s) ?_ ?_ | refine ran_bind_stops ?_ ?_
       | refine ran_map (f := Prod.fst) ?_ ?_ | refine ran_map (f := fun s => s) ?_ ?_ | refine of_ok ?_ (by assumption)
       | refine of_error (f := fun s => s) ?_ (by assumption))
    | split | dsimp only

theorem wf_vecPut {s : State} (h : s.mem.wf) (o : VFmt) (srcs : List (Nat × BitVec 5)) (need : Word → Word) (ms : List Nat) (k : (Nat → Lanes) → Word → State → VRes) : (s.vecPut o srcs need ms k).mem.wf := by
  unfold State.vecPut
  repeat' first
    | (with_reducible first
       | assumption | intro _ | apply wf_ite | apply wf_ite_fst | apply wf_pops | apply wf_vecWork | apply wf_putV
       | apply ran_ok | apply ran_ok_fst | apply ran_error | apply ran_ran | refine ran_bind (f := Prod.fst) ?_ ?_
       | refine ran_bind (f := fun s => s) ?_ ?_ | refine ran_bind_stops ?_ ?_ | refine of_ok ?_ (by assumption)
       | refine of_error (f := fun s => s) ?_ (by assumption))
    | split | dsimp only

theorem wf_chainPush {s : State} (h : s.mem.wf) (o : VFmt) (a : Word) (p : Nat) (r : Nat → LaneRes) : Ran (fun s => s) (s.chainPush o a p r) := by
  unfold State.chainPush
  repeat' first
    | (with_reducible first
       | assumption | intro _ | apply wf_ite | apply wf_ite_fst | apply ran_ite | apply wf_advance | apply wf_waits
       | apply wf_remote | apply wf_portTrap | apply wf_pushStop | apply wf_pushAsk | apply wf_pushTaken | apply wf_push
       | apply wf_link | apply ran_ok | apply ran_ok_fst | apply ran_error | apply ran_ran
       | refine ran_bind (f := Prod.fst) ?_ ?_ | refine ran_bind (f := fun s => s) ?_ ?_ | refine ran_bind_stops ?_ ?_
       | refine ran_map (f := Prod.fst) ?_ ?_ | refine ran_map (f := fun s => s) ?_ ?_ | refine of_fst ?_ (by assumption)
       | refine of_ok ?_ (by assumption) | refine of_error (f := fun s => s) ?_ (by assumption))
    | split | dsimp only

theorem wf_chainOp {s : State} (h : s.mem.wf) (o : VFmt) (vb vc : Option (BitVec 5)) (f : Lane → Lane → Lane → LaneRes) : (s.chainOp o vb vc f).mem.wf := by
  unfold State.chainOp
  repeat' first
    | (with_reducible first
       | assumption | intro _ | apply wf_ite | apply wf_ite_fst | apply wf_modHart | apply wf_advance | apply wf_waits
       | apply wf_masked | apply wf_pops | apply wf_withPorts | apply wf_link | apply wf_chainPush | apply ran_ok
       | apply ran_ok_fst | apply ran_error | apply ran_ran | refine ran_bind (f := Prod.fst) ?_ ?_
       | refine ran_bind (f := fun s => s) ?_ ?_ | refine ran_bind_stops ?_ ?_ | refine ran_map (f := Prod.fst) ?_ ?_
       | refine ran_map (f := fun s => s) ?_ ?_ | refine of_ok ?_ (by assumption)
       | refine of_error (f := fun s => s) ?_ (by assumption))
    | split | dsimp only

theorem wf_float2 {s : State} (h : s.mem.wf) (o : VFmt) (f : FNum → FNum → Exact) : (s.float2 o f).mem.wf := by
  unfold State.float2
  repeat' first
    | (with_reducible first
       | assumption | intro _ | apply wf_ite | apply wf_ite_fst | apply wf_chainOp)
    | split | dsimp only

theorem wf_floatRef {s : State} (h : s.mem.wf) (o : VFmt) (f : FNum → Nat → Exact × Bool) : (s.floatRef o f).mem.wf := by
  unfold State.floatRef
  repeat' first
    | (with_reducible first
       | assumption | intro _ | apply wf_ite | apply wf_ite_fst | apply wf_chainOp)
    | split | dsimp only

theorem wf_execVadd {s : State} (h : s.mem.wf) (o : VFmt) : Leaves (execVadd o s) := by
  unfold execVadd
  repeat' first
    | (with_reducible first
       | assumption | intro _ | apply wf_ite | apply wf_ite_fst | apply leaves_next | apply wf_float2)
    | split | dsimp only

theorem wf_execVsub {s : State} (h : s.mem.wf) (o : VFmt) : Leaves (execVsub o s) := by
  unfold execVsub
  repeat' first
    | (with_reducible first
       | assumption | intro _ | apply wf_ite | apply wf_ite_fst | apply leaves_next | apply wf_float2)
    | split | dsimp only

theorem wf_execVmul {s : State} (h : s.mem.wf) (o : VFmt) : Leaves (execVmul o s) := by
  unfold execVmul
  repeat' first
    | (with_reducible first
       | assumption | intro _ | apply wf_ite | apply wf_ite_fst | apply leaves_next | apply wf_float2)
    | split | dsimp only

theorem wf_execVfma {s : State} (h : s.mem.wf) (o : VFmt) : Leaves (execVfma o s) := by
  unfold execVfma
  repeat' first
    | (with_reducible first
       | assumption | intro _ | apply wf_ite | apply wf_ite_fst | apply leaves_next | apply wf_chainOp)
    | split | dsimp only

theorem wf_execVfms {s : State} (h : s.mem.wf) (o : VFmt) : Leaves (execVfms o s) := by
  unfold execVfms
  repeat' first
    | (with_reducible first
       | assumption | intro _ | apply wf_ite | apply wf_ite_fst | apply leaves_next | apply wf_chainOp)
    | split | dsimp only

theorem wf_execVnfma {s : State} (h : s.mem.wf) (o : VFmt) : Leaves (execVnfma o s) := by
  unfold execVnfma
  repeat' first
    | (with_reducible first
       | assumption | intro _ | apply wf_ite | apply wf_ite_fst | apply leaves_next | apply wf_chainOp)
    | split | dsimp only

theorem wf_execVabs {s : State} (h : s.mem.wf) (o : VFmt) : Leaves (execVabs o s) := by
  unfold execVabs
  repeat' first
    | (with_reducible first
       | assumption | intro _ | apply wf_ite | apply wf_ite_fst | apply leaves_next | apply wf_chainOp)
    | split | dsimp only

theorem wf_execVneg {s : State} (h : s.mem.wf) (o : VFmt) : Leaves (execVneg o s) := by
  unfold execVneg
  repeat' first
    | (with_reducible first
       | assumption | intro _ | apply wf_ite | apply wf_ite_fst | apply leaves_next | apply wf_chainOp)
    | split | dsimp only

theorem wf_execVmax {s : State} (h : s.mem.wf) (o : VFmt) : Leaves (execVmax o s) := by
  unfold execVmax
  repeat' first
    | (with_reducible first
       | assumption | intro _ | apply wf_ite | apply wf_ite_fst | apply leaves_next | apply wf_float2)
    | split | dsimp only

theorem wf_execVmin {s : State} (h : s.mem.wf) (o : VFmt) : Leaves (execVmin o s) := by
  unfold execVmin
  repeat' first
    | (with_reducible first
       | assumption | intro _ | apply wf_ite | apply wf_ite_fst | apply leaves_next | apply wf_float2)
    | split | dsimp only

theorem wf_execVdiv {s : State} (h : s.mem.wf) (o : VFmt) : Leaves (execVdiv o s) := by
  unfold execVdiv
  repeat' first
    | (with_reducible first
       | assumption | intro _ | apply wf_ite | apply wf_ite_fst | apply leaves_next | apply wf_float2)
    | split | dsimp only

theorem wf_execVrcp {s : State} (h : s.mem.wf) (o : VFmt) : Leaves (execVrcp o s) := by
  unfold execVrcp
  repeat' first
    | (with_reducible first
       | assumption | intro _ | apply wf_ite | apply wf_ite_fst | apply leaves_next | apply wf_floatRef)
    | split | dsimp only

theorem wf_execVsqrt {s : State} (h : s.mem.wf) (o : VFmt) : Leaves (execVsqrt o s) := by
  unfold execVsqrt
  repeat' first
    | (with_reducible first
       | assumption | intro _ | apply wf_ite | apply wf_ite_fst | apply leaves_next | apply wf_chainOp)
    | split | dsimp only

theorem wf_execVrsq {s : State} (h : s.mem.wf) (o : VFmt) : Leaves (execVrsq o s) := by
  unfold execVrsq
  repeat' first
    | (with_reducible first
       | assumption | intro _ | apply wf_ite | apply wf_ite_fst | apply leaves_next | apply wf_floatRef)
    | split | dsimp only

theorem wf_execVexp2 {s : State} (h : s.mem.wf) (o : VFmt) : Leaves (execVexp2 o s) := by
  unfold execVexp2
  repeat' first
    | (with_reducible first
       | assumption | intro _ | apply wf_ite | apply wf_ite_fst | apply leaves_next | apply wf_floatRef)
    | split | dsimp only

theorem wf_execVlog2 {s : State} (h : s.mem.wf) (o : VFmt) : Leaves (execVlog2 o s) := by
  unfold execVlog2
  repeat' first
    | (with_reducible first
       | assumption | intro _ | apply wf_ite | apply wf_ite_fst | apply leaves_next | apply wf_floatRef)
    | split | dsimp only

theorem wf_execVscale {s : State} (h : s.mem.wf) (o : VFmt) : Leaves (execVscale o s) := by
  unfold execVscale
  repeat' first
    | (with_reducible first
       | assumption | intro _ | apply wf_ite | apply wf_ite_fst | apply leaves_next | apply wf_chainOp)
    | split | dsimp only

theorem wf_chainMask {s : State} (h : s.mem.wf) (o : VFmt) (loc : Nat) (src2 : BitVec 5) (isReg : Bool) (f : Lane → Lane → Bool × Fl) (cutReg : Option Nat) : (s.chainMask o loc src2 isReg f cutReg).mem.wf := by
  unfold State.chainMask
  repeat' first
    | (with_reducible first
       | assumption | intro _ | apply wf_ite | apply wf_ite_fst | apply wf_modMe | apply wf_modHart | apply wf_advance
       | apply wf_waits | apply wf_masked | apply wf_pops | apply wf_withPorts | apply wf_push | apply wf_link
       | apply ran_ok | apply ran_ok_fst | apply ran_error | apply ran_ran | refine ran_bind (f := Prod.fst) ?_ ?_
       | refine ran_bind (f := fun s => s) ?_ ?_ | refine ran_bind_stops ?_ ?_ | refine ran_map (f := Prod.fst) ?_ ?_
       | refine ran_map (f := fun s => s) ?_ ?_ | refine of_ok ?_ (by assumption)
       | refine of_error (f := fun s => s) ?_ (by assumption))
    | split | dsimp only

theorem wf_execVcmp {s : State} (h : s.mem.wf) (o : VFmt) : Leaves (execVcmp o s) := by
  unfold execVcmp
  repeat' first
    | (with_reducible first
       | assumption | intro _ | apply wf_ite | apply wf_ite_fst | apply leaves_next | apply wf_chainMask)
    | split | dsimp only

theorem wf_execVcmpt {s : State} (h : s.mem.wf) (o : VFmt) : Leaves (execVcmpt o s) := by
  unfold execVcmpt
  repeat' first
    | (with_reducible first
       | assumption | intro _ | apply wf_ite | apply wf_ite_fst | apply leaves_next | apply wf_chainMask)
    | split | dsimp only

theorem wf_execVcut {s : State} (h : s.mem.wf) (o : VFmt) : Leaves (execVcut o s) := by
  unfold execVcut
  repeat' first
    | (with_reducible first
       | assumption | intro _ | apply wf_ite | apply wf_ite_fst | apply leaves_next | apply wf_modMe | apply wf_advance
       | apply wf_vecOp)
    | split | dsimp only

theorem wf_execVsettle {s : State} (h : s.mem.wf) (o : VFmt) : Leaves (execVsettle o s) := by
  unfold execVsettle
  repeat' first
    | (with_reducible first
       | assumption | intro _ | apply wf_ite | apply wf_ite_fst | apply leaves_next | apply wf_advance | apply wf_waits
       | apply wf_masked)
    | split | dsimp only

theorem wf_execVcvt {s : State} (h : s.mem.wf) (o : VFmt) : Leaves (execVcvt o s) := by
  unfold execVcvt
  repeat' first
    | (with_reducible first
       | assumption | intro _ | apply wf_ite | apply wf_ite_fst | apply leaves_next | apply wf_pops | apply wf_vecPut
       | apply ran_ok | apply ran_ok_fst | apply ran_error | apply ran_ran | refine ran_bind (f := Prod.fst) ?_ ?_
       | refine ran_bind (f := fun s => s) ?_ ?_ | refine ran_bind_stops ?_ ?_ | refine of_ok ?_ (by assumption)
       | refine of_error (f := fun s => s) ?_ (by assumption))
    | split | dsimp only

theorem wf_execVqnt {s : State} (h : s.mem.wf) (o : VFmt) : Leaves (execVqnt o s) := by
  unfold execVqnt
  repeat' first
    | (with_reducible first
       | assumption | intro _ | apply wf_ite | apply wf_ite_fst | apply leaves_next | apply wf_modMe | apply wf_advance
       | apply wf_addFlags | apply wf_pops | apply wf_vecOp | apply ran_ok | apply ran_ok_fst | apply ran_error
       | apply ran_ran | refine ran_bind (f := Prod.fst) ?_ ?_ | refine ran_bind (f := fun s => s) ?_ ?_
       | refine ran_bind_stops ?_ ?_ | refine ran_map (f := Prod.fst) ?_ ?_ | refine ran_map (f := fun s => s) ?_ ?_
       | refine of_ok ?_ (by assumption) | refine of_error (f := fun s => s) ?_ (by assumption))
    | split | dsimp only

theorem wf_execVdq {s : State} (h : s.mem.wf) (o : VFmt) : Leaves (execVdq o s) := by
  unfold execVdq
  repeat' first
    | (with_reducible first
       | assumption | intro _ | apply wf_ite | apply wf_ite_fst | apply leaves_next | apply wf_pops | apply wf_vecPut
       | apply ran_ok | apply ran_ok_fst | apply ran_error | apply ran_ran | refine ran_bind (f := Prod.fst) ?_ ?_
       | refine ran_bind (f := fun s => s) ?_ ?_ | refine ran_bind_stops ?_ ?_ | refine of_ok ?_ (by assumption)
       | refine of_error (f := fun s => s) ?_ (by assumption))
    | split | dsimp only

theorem wf_execVsel {s : State} (h : s.mem.wf) (o : VFmt) : Leaves (execVsel o s) := by
  unfold execVsel
  repeat' first
    | (with_reducible first
       | assumption | intro _ | apply wf_ite | apply wf_ite_fst | apply leaves_next | apply wf_pops | apply wf_vecPut
       | apply ran_ok | apply ran_ok_fst | apply ran_error | apply ran_ran | refine ran_bind (f := Prod.fst) ?_ ?_
       | refine ran_bind (f := fun s => s) ?_ ?_ | refine ran_bind_stops ?_ ?_ | refine of_ok ?_ (by assumption)
       | refine of_error (f := fun s => s) ?_ (by assumption))
    | split | dsimp only

theorem wf_lane2 {s : State} (h : s.mem.wf) (o : VFmt) (f : Lane → Lane → Lane) : (s.lane2 o f).mem.wf := by
  unfold State.lane2
  repeat' first
    | (with_reducible first
       | assumption | intro _ | apply wf_ite | apply wf_ite_fst | apply wf_pops | apply wf_vecPut | apply ran_ok
       | apply ran_ok_fst | apply ran_error | apply ran_ran | refine ran_bind (f := Prod.fst) ?_ ?_
       | refine ran_bind (f := fun s => s) ?_ ?_ | refine ran_bind_stops ?_ ?_ | refine of_ok ?_ (by assumption)
       | refine of_error (f := fun s => s) ?_ (by assumption))
    | split | dsimp only

theorem wf_execViadd {s : State} (h : s.mem.wf) (o : VFmt) : Leaves (execViadd o s) := by
  unfold execViadd
  repeat' first
    | (with_reducible first
       | assumption | intro _ | apply wf_ite | apply wf_ite_fst | apply leaves_next | apply wf_lane2)
    | split | dsimp only

theorem wf_execVisub {s : State} (h : s.mem.wf) (o : VFmt) : Leaves (execVisub o s) := by
  unfold execVisub
  repeat' first
    | (with_reducible first
       | assumption | intro _ | apply wf_ite | apply wf_ite_fst | apply leaves_next | apply wf_lane2)
    | split | dsimp only

theorem wf_execVimul {s : State} (h : s.mem.wf) (o : VFmt) : Leaves (execVimul o s) := by
  unfold execVimul
  repeat' first
    | (with_reducible first
       | assumption | intro _ | apply wf_ite | apply wf_ite_fst | apply leaves_next | apply wf_lane2)
    | split | dsimp only

theorem wf_execVimin {s : State} (h : s.mem.wf) (o : VFmt) : Leaves (execVimin o s) := by
  unfold execVimin
  repeat' first
    | (with_reducible first
       | assumption | intro _ | apply wf_ite | apply wf_ite_fst | apply leaves_next | apply wf_lane2)
    | split | dsimp only

theorem wf_execVimax {s : State} (h : s.mem.wf) (o : VFmt) : Leaves (execVimax o s) := by
  unfold execVimax
  repeat' first
    | (with_reducible first
       | assumption | intro _ | apply wf_ite | apply wf_ite_fst | apply leaves_next | apply wf_lane2)
    | split | dsimp only

theorem wf_execVand {s : State} (h : s.mem.wf) (o : VFmt) : Leaves (execVand o s) := by
  unfold execVand
  repeat' first
    | (with_reducible first
       | assumption | intro _ | apply wf_ite | apply wf_ite_fst | apply leaves_next | apply wf_lane2)
    | split | dsimp only

theorem wf_execVor {s : State} (h : s.mem.wf) (o : VFmt) : Leaves (execVor o s) := by
  unfold execVor
  repeat' first
    | (with_reducible first
       | assumption | intro _ | apply wf_ite | apply wf_ite_fst | apply leaves_next | apply wf_lane2)
    | split | dsimp only

theorem wf_execVxor {s : State} (h : s.mem.wf) (o : VFmt) : Leaves (execVxor o s) := by
  unfold execVxor
  repeat' first
    | (with_reducible first
       | assumption | intro _ | apply wf_ite | apply wf_ite_fst | apply leaves_next | apply wf_lane2)
    | split | dsimp only

theorem wf_laneShift {s : State} (h : s.mem.wf) (o : VFmt) (f : Lane → Nat → Lane) : (s.laneShift o f).mem.wf := by
  unfold State.laneShift
  repeat' first
    | (with_reducible first
       | assumption | intro _ | apply wf_ite | apply wf_ite_fst | apply wf_pops | apply wf_vecPut | apply wf_lane2
       | apply ran_ok | apply ran_ok_fst | apply ran_error | apply ran_ran | refine ran_bind (f := Prod.fst) ?_ ?_
       | refine ran_bind (f := fun s => s) ?_ ?_ | refine ran_bind_stops ?_ ?_ | refine of_ok ?_ (by assumption)
       | refine of_error (f := fun s => s) ?_ (by assumption))
    | split | dsimp only

theorem wf_execVshl {s : State} (h : s.mem.wf) (o : VFmt) : Leaves (execVshl o s) := by
  unfold execVshl
  repeat' first
    | (with_reducible first
       | assumption | intro _ | apply wf_ite | apply wf_ite_fst | apply leaves_next | apply wf_laneShift)
    | split | dsimp only

theorem wf_execVshr {s : State} (h : s.mem.wf) (o : VFmt) : Leaves (execVshr o s) := by
  unfold execVshr
  repeat' first
    | (with_reducible first
       | assumption | intro _ | apply wf_ite | apply wf_ite_fst | apply leaves_next | apply wf_laneShift)
    | split | dsimp only

theorem wf_execVsra {s : State} (h : s.mem.wf) (o : VFmt) : Leaves (execVsra o s) := by
  unfold execVsra
  repeat' first
    | (with_reducible first
       | assumption | intro _ | apply wf_ite | apply wf_ite_fst | apply leaves_next | apply wf_laneShift)
    | split | dsimp only

theorem wf_moveLanes {s : State} (h : s.mem.wf) (o : VFmt) (srcs : List (Nat × BitVec 5)) (at_ : State → (Nat → Lanes) → Nat → Option Nat) : (s.moveLanes o srcs at_).mem.wf := by
  unfold State.moveLanes
  repeat' first
    | (with_reducible first
       | assumption | intro _ | apply wf_ite | apply wf_ite_fst | apply wf_pops | apply wf_vecPut | apply ran_ok
       | apply ran_ok_fst | apply ran_error | apply ran_ran | refine ran_bind (f := Prod.fst) ?_ ?_
       | refine ran_bind (f := fun s => s) ?_ ?_ | refine ran_bind_stops ?_ ?_ | refine of_ok ?_ (by assumption)
       | refine of_error (f := fun s => s) ?_ (by assumption))
    | split | dsimp only

theorem wf_execVmov {s : State} (h : s.mem.wf) (o : VFmt) : Leaves (execVmov o s) := by
  unfold execVmov
  repeat' first
    | (with_reducible first
       | assumption | intro _ | apply wf_ite | apply wf_ite_fst | apply leaves_next | apply wf_moveLanes)
    | split | dsimp only

theorem wf_execVbcast {s : State} (h : s.mem.wf) (o : VFmt) : Leaves (execVbcast o s) := by
  unfold execVbcast
  repeat' first
    | (with_reducible first
       | assumption | intro _ | apply wf_ite | apply wf_ite_fst | apply leaves_next | apply wf_moveLanes)
    | split | dsimp only

theorem wf_execVext {s : State} (h : s.mem.wf) (o : VFmt) : Leaves (execVext o s) := by
  unfold execVext
  repeat' first
    | (with_reducible first
       | assumption | intro _ | apply wf_ite | apply wf_ite_fst | apply leaves_next | apply wf_setG | apply wf_advance
       | apply wf_pops | apply wf_vecOp | apply ran_ok | apply ran_ok_fst | apply ran_error | apply ran_ran
       | refine ran_bind (f := Prod.fst) ?_ ?_ | refine ran_bind (f := fun s => s) ?_ ?_ | refine ran_bind_stops ?_ ?_
       | refine of_ok ?_ (by assumption) | refine of_error (f := fun s => s) ?_ (by assumption))
    | split | dsimp only

theorem wf_execVins {s : State} (h : s.mem.wf) (o : VFmt) : Leaves (execVins o s) := by
  unfold execVins
  repeat' first
    | (with_reducible first
       | assumption | intro _ | apply wf_ite | apply wf_ite_fst | apply leaves_next | apply wf_modMe | apply wf_advance
       | apply wf_vecOp)
    | split | dsimp only

theorem wf_execVperm {s : State} (h : s.mem.wf) (o : VFmt) : Leaves (execVperm o s) := by
  unfold execVperm
  repeat' first
    | (with_reducible first
       | assumption | intro _ | apply wf_ite | apply wf_ite_fst | apply leaves_next | apply wf_pops | apply wf_moveLanes
       | apply ran_ok | apply ran_ok_fst | apply ran_error | apply ran_ran | refine ran_bind (f := Prod.fst) ?_ ?_
       | refine ran_bind (f := fun s => s) ?_ ?_ | refine ran_bind_stops ?_ ?_ | refine of_ok ?_ (by assumption)
       | refine of_error (f := fun s => s) ?_ (by assumption))
    | split | dsimp only

theorem wf_execVrot {s : State} (h : s.mem.wf) (o : VFmt) : Leaves (execVrot o s) := by
  unfold execVrot
  repeat' first
    | (with_reducible first
       | assumption | intro _ | apply wf_ite | apply wf_ite_fst | apply leaves_next | apply wf_moveLanes)
    | split | dsimp only

theorem wf_execViota {s : State} (h : s.mem.wf) (o : VFmt) : Leaves (execViota o s) := by
  unfold execViota
  repeat' first
    | (with_reducible first
       | assumption | intro _ | apply wf_ite | apply wf_ite_fst | apply leaves_next | apply wf_vecPut)
    | split | dsimp only

theorem wf_reduce {s : State} (h : s.mem.wf) (o : VFmt) (ident : Lane) (f : State → List Lane → List Lane × Fl) : (s.reduce o ident f).mem.wf := by
  unfold State.reduce
  repeat' first
    | (with_reducible first
       | assumption | intro _ | apply wf_ite | apply wf_ite_fst | apply wf_pops | apply wf_vecPut | apply ran_ok
       | apply ran_ok_fst | apply ran_error | apply ran_ran | refine ran_bind (f := Prod.fst) ?_ ?_
       | refine ran_bind (f := fun s => s) ?_ ?_ | refine ran_bind_stops ?_ ?_ | refine ran_map (f := Prod.fst) ?_ ?_
       | refine ran_map (f := fun s => s) ?_ ?_ | refine of_ok ?_ (by assumption)
       | refine of_error (f := fun s => s) ?_ (by assumption))
    | split | dsimp only

theorem wf_execVrsum {s : State} (h : s.mem.wf) (o : VFmt) : Leaves (execVrsum o s) := by
  unfold execVrsum
  repeat' first
    | (with_reducible first
       | assumption | intro _ | apply wf_ite | apply wf_ite_fst | apply leaves_next | apply wf_reduce)
    | split | dsimp only

theorem wf_execVrmax {s : State} (h : s.mem.wf) (o : VFmt) : Leaves (execVrmax o s) := by
  unfold execVrmax
  repeat' first
    | (with_reducible first
       | assumption | intro _ | apply wf_ite | apply wf_ite_fst | apply leaves_next | apply wf_reduce | apply wf_foldl
       | apply wf_foldl_fst)
    | split | dsimp only

theorem wf_execVscan {s : State} (h : s.mem.wf) (o : VFmt) : Leaves (execVscan o s) := by
  unfold execVscan
  repeat' first
    | (with_reducible first
       | assumption | intro _ | apply wf_ite | apply wf_ite_fst | apply leaves_next | apply wf_drop | apply wf_reduce)
    | split | dsimp only

theorem wf_execVrarg {s : State} (h : s.mem.wf) (o : VFmt) : Leaves (execVrarg o s) := by
  unfold execVrarg
  repeat' first
    | (with_reducible first
       | assumption | intro _ | apply wf_ite | apply wf_ite_fst | apply leaves_next | apply wf_setG | apply wf_advance
       | apply wf_addFlags | apply wf_pops | apply wf_vecOp | apply ran_ok | apply ran_ok_fst | apply ran_error
       | apply ran_ran | refine ran_bind (f := Prod.fst) ?_ ?_ | refine ran_bind (f := fun s => s) ?_ ?_
       | refine ran_bind_stops ?_ ?_ | refine of_ok ?_ (by assumption)
       | refine of_error (f := fun s => s) ?_ (by assumption))
    | split | dsimp only

theorem wf_execVtopk {s : State} (h : s.mem.wf) (o : VFmt) : Leaves (execVtopk o s) := by
  unfold execVtopk
  repeat' first
    | (with_reducible first
       | assumption | intro _ | apply wf_ite | apply wf_ite_fst | apply leaves_next | apply wf_modMe | apply wf_advance
       | apply wf_addFlags | apply wf_pops | apply wf_vecOp | apply ran_ok | apply ran_ok_fst | apply ran_error
       | apply ran_ran | refine ran_bind (f := Prod.fst) ?_ ?_ | refine ran_bind (f := fun s => s) ?_ ?_
       | refine ran_bind_stops ?_ ?_ | refine of_ok ?_ (by assumption)
       | refine of_error (f := fun s => s) ?_ (by assumption))
    | split | dsimp only

theorem wf_maskOp {s : State} (h : s.mem.wf) (o : VFmt) (srcs : List Nat) (f : State → Word) : (s.maskOp o srcs f).mem.wf := by
  unfold State.maskOp
  repeat' first
    | (with_reducible first
       | assumption | intro _ | apply wf_ite | apply wf_ite_fst | apply wf_modMe | apply wf_advance | apply wf_vecOp)
    | split | dsimp only

theorem wf_execMand {s : State} (h : s.mem.wf) (o : VFmt) : Leaves (execMand o s) := by
  unfold execMand
  repeat' first
    | (with_reducible first
       | assumption | intro _ | apply wf_ite | apply wf_ite_fst | apply leaves_next | apply wf_maskOp)
    | split | dsimp only

theorem wf_execMor {s : State} (h : s.mem.wf) (o : VFmt) : Leaves (execMor o s) := by
  unfold execMor
  repeat' first
    | (with_reducible first
       | assumption | intro _ | apply wf_ite | apply wf_ite_fst | apply leaves_next | apply wf_maskOp)
    | split | dsimp only

theorem wf_execMxor {s : State} (h : s.mem.wf) (o : VFmt) : Leaves (execMxor o s) := by
  unfold execMxor
  repeat' first
    | (with_reducible first
       | assumption | intro _ | apply wf_ite | apply wf_ite_fst | apply leaves_next | apply wf_maskOp)
    | split | dsimp only

theorem wf_execMnot {s : State} (h : s.mem.wf) (o : VFmt) : Leaves (execMnot o s) := by
  unfold execMnot
  repeat' first
    | (with_reducible first
       | assumption | intro _ | apply wf_ite | apply wf_ite_fst | apply leaves_next | apply wf_maskOp)
    | split | dsimp only

theorem wf_execMpop {s : State} (h : s.mem.wf) (o : VFmt) : Leaves (execMpop o s) := by
  unfold execMpop
  repeat' first
    | (with_reducible first
       | assumption | intro _ | apply wf_ite | apply wf_ite_fst | apply leaves_next | apply wf_setG | apply wf_advance
       | apply wf_vecOp)
    | split | dsimp only

theorem wf_execMfirst {s : State} (h : s.mem.wf) (o : VFmt) : Leaves (execMfirst o s) := by
  unfold execMfirst
  repeat' first
    | (with_reducible first
       | assumption | intro _ | apply wf_ite | apply wf_ite_fst | apply leaves_next | apply wf_setG | apply wf_advance
       | apply wf_vecOp)
    | split | dsimp only

theorem wf_execMset {s : State} (h : s.mem.wf) (o : VFmt) : Leaves (execMset o s) := by
  unfold execMset
  repeat' first
    | (with_reducible first
       | assumption | intro _ | apply wf_ite | apply wf_ite_fst | apply leaves_next | apply wf_maskOp)
    | split | dsimp only

theorem wf_keepChecked {s : State} (h : s.mem.wf) (ps : List (Nat × Place)) : (s.keepChecked ps).mem.wf := by
  unfold State.keepChecked
  repeat' first
    | (with_reducible first
       | assumption | intro _ | apply wf_ite | apply wf_ite_fst | apply wf_modMe)
    | split | dsimp only

theorem wf_laneEnd {s : State} (h : s.mem.wf) (loc e : Nat) (a : Acc) (ps : List (Nat × Place)) (f : LaneStop) : (s.laneEnd loc e a ps f).mem.wf := by
  unfold State.laneEnd
  repeat' first
    | (with_reducible first
       | assumption | intro _ | apply wf_ite | apply wf_ite_fst | apply wf_waits | apply wf_trap | apply wf_priv
       | apply wf_pageFault | apply wf_keepChecked)
    | split | dsimp only

theorem wf_touchLanes {s : State} (h : s.mem.wf) (ea : Nat → Nat) (a : Acc) (ps : List (Nat × Place)) : (s.touchLanes ea a ps).mem.wf := by
  unfold State.touchLanes
  repeat' first
    | (with_reducible first
       | assumption | intro _ | apply wf_ite | apply wf_ite_fst | apply wf_touch | apply wf_remote | apply wf_foldl
       | apply wf_foldl_fst | refine of_fst ?_ (by assumption))
    | split | dsimp only

theorem wf_farWork {s : State} (h : s.mem.wf) (loc : Nat) (ea : Nat → Nat) (ps : List (Nat × Place)) (k n : Nat) (op : RemoteOp) (data : Nat → List Byte) (f : List (Nat × RemoteReq) → State → State) (hf : ∀ x0 (t : State), t.mem.wf → (f x0 t).mem.wf) : (s.farWork loc ea ps k n op data f).mem.wf := by
  unfold State.farWork
  repeat' first
    | (with_reducible first
       | assumption | intro _ | apply wf_ite | apply wf_ite_fst | apply hf | apply wf_waits | apply wf_remote
       | apply wf_remoteAll | apply wf_trap | refine of_fst ?_ (by assumption))
    | split | dsimp only

theorem wf_lanePlaces {s : State} (h : s.mem.wf) (loc : Nat) (ea : Nat → Nat) (n : Nat) (a : Acc) (op : RemoteOp) (lanes : List Nat) (k : List (Nat × Place) → State → State) (hk : ∀ x0 (t : State), t.mem.wf → (k x0 t).mem.wf) : (s.lanePlaces loc ea n a op lanes k).mem.wf := by
  unfold State.lanePlaces
  repeat' first
    | (with_reducible first
       | assumption | intro _ | apply wf_ite | apply wf_ite_fst | apply hk | apply wf_keepChecked | apply wf_laneEnd
       | apply wf_farWork)
    | split | dsimp only

theorem wf_seeLanes {s : State} (h : s.mem.wf) (n : Nat) (ps : List (Nat × Place)) : (s.seeLanes n ps).mem.wf := by
  unfold State.seeLanes
  repeat' first
    | (with_reducible first
       | assumption | intro _ | apply wf_ite | apply wf_ite_fst | apply wf_remote | apply wf_dropLate | apply wf_foldl
       | apply wf_foldl_fst | refine of_fst ?_ (by assumption))
    | split | dsimp only

theorem wf_laneMiss {s : State} (h : s.mem.wf) (ea : Nat → Nat) (n : Nat) (ps : List (Nat × Place)) : (s.laneMiss ea n ps).1.mem.wf := by
  unfold State.laneMiss
  repeat' first
    | (with_reducible first
       | assumption | intro _ | apply wf_ite | apply wf_ite_fst | apply wf_freeVal | apply wf_remote | apply wf_seeLanes
       | refine of_fst ?_ (by assumption))
    | split | dsimp only

theorem wf_vload {s : State} (h : s.mem.wf) (o : VFmt) (a : Word) (ea : Nat → Nat) : (s.vload o a ea).mem.wf := by
  unfold State.vload
  repeat' first
    | (with_reducible first
       | assumption | intro _ | apply wf_ite | apply wf_ite_fst | apply wf_modMe | apply wf_advance | apply wf_remote
       | apply wf_trap | apply wf_miss | apply wf_touchLanes | apply wf_farWork | apply wf_lanePlaces | apply wf_laneMiss
       | refine of_fst ?_ (by assumption))
    | split | dsimp only

theorem wf_putPlaces {s : State} (h : s.mem.wf) (ea : Nat → Nat) (n : Nat) (code : Nat → Nat) (ps : List (Nat × Place)) : (s.putPlaces ea n code ps).mem.wf := by
  unfold State.putPlaces
  repeat' first
    | (with_reducible first
       | assumption | intro _ | apply wf_ite | apply wf_ite_fst | apply wf_remote | apply wf_putOwn | apply wf_foldl
       | apply wf_foldl_fst | refine of_fst ?_ (by assumption))
    | split | dsimp only

theorem wf_clearWhole {s : State} (h : s.mem.wf) (ea : Nat → Nat) (ps : List (Nat × Place)) : (s.clearWhole ea ps).mem.wf := by
  unfold State.clearWhole
  repeat' first
    | (with_reducible first
       | assumption | intro _ | apply wf_ite | apply wf_ite_fst | apply wf_mark | apply wf_remote | apply wf_foldl
       | apply wf_foldl_fst | refine of_fst ?_ (by assumption))
    | split | dsimp only

theorem wf_vstore {s : State} (h : s.mem.wf) (o : VFmt) (a : Word) (ea : Nat → Nat) (whole : Bool) : (s.vstore o a ea whole).mem.wf := by
  unfold State.vstore
  repeat' first
    | (with_reducible first
       | assumption | intro _ | apply wf_ite | apply wf_ite_fst | apply wf_modMe | apply wf_advance | apply wf_addFlags
       | apply wf_touchLanes | apply wf_farWork | apply wf_lanePlaces | apply wf_putPlaces | apply wf_clearWhole)
    | split | dsimp only

theorem wf_execVld {s : State} (h : s.mem.wf) (o : VFmt) : Leaves (execVld o s) := by
  unfold execVld
  repeat' first
    | (with_reducible first
       | assumption | intro _ | apply wf_ite | apply wf_ite_fst | apply leaves_next | apply wf_vecOp | apply wf_vload)
    | split | dsimp only

theorem wf_execVst {s : State} (h : s.mem.wf) (o : VFmt) : Leaves (execVst o s) := by
  unfold execVst
  repeat' first
    | (with_reducible first
       | assumption | intro _ | apply wf_ite | apply wf_ite_fst | apply leaves_next | apply wf_vecOp | apply wf_vstore)
    | split | dsimp only

theorem wf_execVlds {s : State} (h : s.mem.wf) (o : VFmt) : Leaves (execVlds o s) := by
  unfold execVlds
  repeat' first
    | (with_reducible first
       | assumption | intro _ | apply wf_ite | apply wf_ite_fst | apply leaves_next | apply wf_vecOp | apply wf_vload)
    | split | dsimp only

theorem wf_execVsts {s : State} (h : s.mem.wf) (o : VFmt) : Leaves (execVsts o s) := by
  unfold execVsts
  repeat' first
    | (with_reducible first
       | assumption | intro _ | apply wf_ite | apply wf_ite_fst | apply leaves_next | apply wf_vecOp | apply wf_vstore)
    | split | dsimp only

theorem wf_execVgth {s : State} (h : s.mem.wf) (o : VFmt) : Leaves (execVgth o s) := by
  unfold execVgth
  repeat' first
    | (with_reducible first
       | assumption | intro _ | apply wf_ite | apply wf_ite_fst | apply leaves_next | apply wf_vecOp | apply wf_vload)
    | split | dsimp only

theorem wf_execVsct {s : State} (h : s.mem.wf) (o : VFmt) : Leaves (execVsct o s) := by
  unfold execVsct
  repeat' first
    | (with_reducible first
       | assumption | intro _ | apply wf_ite | apply wf_ite_fst | apply leaves_next | apply wf_vecOp | apply wf_vstore)
    | split | dsimp only

theorem wf_execVrng {s : State} (h : s.mem.wf) (o : VFmt) : Leaves (execVrng o s) := by
  unfold execVrng
  repeat' first
    | (with_reducible first
       | assumption | intro _ | apply wf_ite | apply wf_ite_fst | apply leaves_next | apply wf_modMe | apply wf_advance
       | apply wf_vecOp)
    | split | dsimp only

theorem wf_apeOp {s : State} (h : s.mem.wf) (o : CFmt) (k : Nat → State → State) (hk : ∀ x0 (t : State), t.mem.wf → (k x0 t).mem.wf) : (s.apeOp o k).mem.wf := by
  unfold State.apeOp
  repeat' first
    | (with_reducible first
       | assumption | intro _ | apply wf_ite | apply wf_ite_fst | apply hk | apply wf_waits | apply wf_masked)
    | split | dsimp only

theorem wf_restart {s : State} (h : s.mem.wf) (e : Nat) (f : Ape → Ape) : (s.restart e f).mem.wf := by
  unfold State.restart
  repeat' first
    | (with_reducible first
       | assumption | intro _ | apply wf_ite | apply wf_ite_fst | apply wf_modMyTile | apply wf_advance | apply wf_post
       | apply wf_unwithhold | apply wf_rereads)
    | split | dsimp only

theorem wf_apeRefused {s : State} (h : s.mem.wf) (e : Nat) : (s.apeRefused e).mem.wf := by
  unfold State.apeRefused
  repeat' first
    | (with_reducible first
       | assumption | intro _ | apply wf_ite | apply wf_ite_fst | apply wf_trap)
    | split | dsimp only

theorem wf_configure {s : State} (h : s.mem.wf) (e : Nat) (f : Nat → Word) : (s.configure e f).mem.wf := by
  unfold State.configure
  repeat' first
    | (with_reducible first
       | assumption | intro _ | apply wf_ite | apply wf_ite_fst | apply wf_restart | apply wf_apeRefused)
    | split | dsimp only

theorem wf_readWords {s : State} (h : s.mem.wf) (ea n : Nat) (k : List Word → State → State) (hk : ∀ x0 (t : State), t.mem.wf → (k x0 t).mem.wf) : (s.readWords ea n k).mem.wf := by
  unfold State.readWords
  repeat' first
    | (with_reducible first
       | assumption | intro _ | apply wf_ite | apply wf_ite_fst | apply hk | apply wf_modMe | apply wf_remote
       | apply wf_trap | apply wf_touchLanes | apply wf_farWork | apply wf_lanePlaces | refine of_fst ?_ (by assumption))
    | split | dsimp only

theorem wf_execApcfgM {s : State} (h : s.mem.wf) (o : CFmt) : Leaves (execApcfgM o s) := by
  unfold execApcfgM
  repeat' first
    | (with_reducible first
       | assumption | intro _ | apply wf_ite | apply wf_ite_fst | apply leaves_next | apply wf_trap | apply wf_priv
       | apply wf_apeOp | apply wf_configure | apply wf_readWords)
    | split | dsimp only

theorem wf_execApcfgR {s : State} (h : s.mem.wf) (o : CFmt) : Leaves (execApcfgR o s) := by
  unfold execApcfgR
  repeat' first
    | (with_reducible first
       | assumption | intro _ | apply wf_ite | apply wf_ite_fst | apply leaves_next | apply wf_apeOp | apply wf_configure)
    | split | dsimp only

theorem wf_tverBad {s : State} (h : s.mem.wf) : Gives (s.tverBad) := by
  unfold State.tverBad
  repeat' first
    | (with_reducible first
       | assumption | intro _ | apply wf_ite | apply wf_ite_fst | apply gives_ite | exact gives_none | apply gives_some
       | apply wf_trap | refine gives_map ?_ ?_ | refine of_gives (by assumption) | refine gives_read ?_)
    | split | dsimp only

theorem wf_execApcfgPre {s : State} (h : s.mem.wf) (o : CFmt) : Leaves (execApcfgPre o s) := by
  unfold execApcfgPre
  repeat' first
    | (with_reducible first
       | assumption | intro _ | apply wf_ite | apply wf_ite_fst | apply leaves_next | apply wf_apeOp | apply wf_apeRefused
       | apply wf_configure | apply wf_tverBad | refine gives_map ?_ ?_ | refine of_some ?_ (by assumption)
       | refine of_gives (by assumption))
    | split | dsimp only

theorem wf_execApdim {s : State} (h : s.mem.wf) (o : CFmt) : Leaves (execApdim o s) := by
  unfold execApdim
  repeat' first
    | (with_reducible first
       | assumption | intro _ | apply wf_ite | apply wf_ite_fst | apply leaves_next | apply wf_apeOp | apply wf_configure)
    | split | dsimp only

theorem wf_execApstart {s : State} (h : s.mem.wf) (o : CFmt) : Leaves (execApstart o s) := by
  unfold execApstart
  repeat' first
    | (with_reducible first
       | assumption | intro _ | apply wf_ite | apply wf_ite_fst | apply leaves_next | apply wf_apeOp | apply wf_restart)
    | split | dsimp only

theorem wf_execApstop {s : State} (h : s.mem.wf) (o : CFmt) : Leaves (execApstop o s) := by
  unfold execApstop
  repeat' first
    | (with_reducible first
       | assumption | intro _ | apply wf_ite | apply wf_ite_fst | apply leaves_next | apply wf_modMyTile | apply wf_advance
       | apply wf_apeOp)
    | split | dsimp only

theorem wf_execAppos {s : State} (h : s.mem.wf) (o : CFmt) : Leaves (execAppos o s) := by
  unfold execAppos
  repeat' first
    | (with_reducible first
       | assumption | intro _ | apply wf_ite | apply wf_ite_fst | apply leaves_next | apply wf_modMyTile | apply wf_setG
       | apply wf_advance | apply wf_apeOp)
    | split | dsimp only

theorem wf_execApseek {s : State} (h : s.mem.wf) (o : CFmt) : Leaves (execApseek o s) := by
  unfold execApseek
  repeat' first
    | (with_reducible first
       | assumption | intro _ | apply wf_ite | apply wf_ite_fst | apply leaves_next | apply wf_apeOp | apply wf_restart)
    | split | dsimp only

theorem wf_bindPort {s : State} (h : s.mem.wf) (n : Nat) (b : PortBind) : (s.bindPort n b).mem.wf := by
  unfold State.bindPort
  repeat' first
    | (with_reducible first
       | assumption | intro _ | apply wf_ite | apply wf_ite_fst | apply wf_modMe | apply wf_advance)
    | split | dsimp only

theorem wf_execQbind {s : State} (h : s.mem.wf) (o : CFmt) : Leaves (execQbind o s) := by
  unfold execQbind
  repeat' first
    | (with_reducible first
       | assumption | intro _ | apply wf_ite | apply wf_ite_fst | apply leaves_next | apply wf_masked | apply wf_portTrap
       | apply wf_bindPort)
    | split | dsimp only

theorem wf_execQbindK {s : State} (h : s.mem.wf) (o : CFmt) : Leaves (execQbindK o s) := by
  unfold execQbindK
  repeat' first
    | (with_reducible first
       | assumption | intro _ | apply wf_ite | apply wf_ite_fst | apply leaves_next | apply wf_masked | apply wf_portTrap
       | apply wf_bindPort)
    | split | dsimp only

theorem wf_execQbindU {s : State} (h : s.mem.wf) (o : CFmt) : Leaves (execQbindU o s) := by
  unfold execQbindU
  repeat' first
    | (with_reducible first
       | assumption | intro _ | apply wf_ite | apply wf_ite_fst | apply leaves_next | apply wf_masked | apply wf_bindPort)
    | split | dsimp only

theorem wf_execQstat {s : State} (h : s.mem.wf) (o : CFmt) : Leaves (execQstat o s) := by
  unfold execQstat
  repeat' first
    | (with_reducible first
       | assumption | intro _ | apply wf_ite | apply wf_ite_fst | apply leaves_next | apply wf_setG | apply wf_advance
       | apply wf_masked)
    | split | dsimp only

theorem wf_execApeElement {s : State} (h : s.mem.wf) : Leaves (execApeElement s) := by
  unfold execApeElement
  repeat' first
    | (with_reducible first
       | assumption | intro _ | apply wf_ite | apply wf_ite_fst | apply leaves_next | apply wf_modTile | apply wf_post
       | apply wf_withhold | apply wf_nextElem | refine of_fst ?_ (by assumption))
    | split | dsimp only

theorem wf_readPieces {s : State} (h : s.mem.wf) (x : UnitAt) (tag : Nat) (l : List (Nat × Nat)) : (s.readPieces x tag l).1.mem.wf := by
  induction l generalizing s tag with
  | nil =>
    unfold State.readPieces
    repeat' first
      | (with_reducible first
         | assumption | intro _ | apply wf_ite | apply wf_ite_fst | apply wf_unitRead
         | refine of_fst ?_ (by assumption))
      | split | dsimp only
  | cons x r ih =>
    unfold State.readPieces
    repeat' first
      | (with_reducible first
         | assumption | intro _ | apply wf_ite | apply wf_ite_fst | apply ih | apply wf_unitRead
         | refine of_fst ?_ (by assumption))
      | split | dsimp only

theorem wf_learnPages {s : State} (h : s.mem.wf) (d t ch : Nat) (l : List Nat) : (s.learnPages d t ch l).1.mem.wf := by
  induction l generalizing s with
  | nil =>
    unfold State.learnPages
    repeat' first
      | (with_reducible first
         | assumption | intro _ | apply wf_ite | apply wf_ite_fst | apply wf_modTile | apply wf_readPieces
         | refine of_fst ?_ (by assumption))
      | split | dsimp only
  | cons x r ih =>
    unfold State.learnPages
    repeat' first
      | (with_reducible first
         | assumption | intro _ | apply wf_ite | apply wf_ite_fst | apply ih | apply wf_modTile | apply wf_readPieces
         | refine of_fst ?_ (by assumption))
      | split | dsimp only

theorem wf_postSignal {s : State} (h : s.mem.wf) (d t k : Nat) : (s.postSignal d t k).mem.wf := by
  unfold State.postSignal
  repeat' first
    | (with_reducible first
       | assumption | intro _ | apply wf_ite | apply wf_ite_fst | apply wf_modTile)
    | split | dsimp only

theorem wf_endCommand {s : State} (h : s.mem.wf) (d t ch : Nat) (st : ChanState) (err : Nat) : (s.endCommand d t ch st err).mem.wf := by
  unfold State.endCommand
  repeat' first
    | (with_reducible first
       | assumption | intro _ | apply wf_ite | apply wf_ite_fst | apply wf_modTile | apply wf_settle | apply wf_postSignal)
    | split | dsimp only

theorem wf_chanStop {s : State} (h : s.mem.wf) (d t ch ea : Nat) (a : Acc) (r : URes) : (s.chanStop d t ch ea a r).mem.wf := by
  unfold State.chanStop
  repeat' first
    | (with_reducible first
       | assumption | intro _ | apply wf_ite | apply wf_ite_fst | apply wf_modTile | apply wf_post | apply wf_withhold
       | apply wf_endCommand)
    | split | dsimp only

theorem wf_granuleData {s : State} (h : s.mem.wf) (d t ch : Nat) (page : Nat → Nat) (n : Nat) : (s.granuleData d t ch page n).1.mem.wf := by
  unfold State.granuleData
  repeat' first
    | (with_reducible first
       | assumption | intro _ | apply wf_ite | apply wf_ite_fst | apply wf_fill | apply wf_readPieces
       | refine of_fst ?_ (by assumption))
    | split | dsimp only

theorem wf_countPoison {s : State} (h : s.mem.wf) (d t ch at_ : Nat) (pois : Bool) : (s.countPoison d t ch at_ pois).mem.wf := by
  unfold State.countPoison
  repeat' first
    | (with_reducible first
       | assumption | intro _ | apply wf_ite | apply wf_ite_fst | apply wf_modTile)
    | split | dsimp only

theorem wf_doGranule {s : State} (h : s.mem.wf) (d t ch : Nat) : (s.doGranule d t ch).mem.wf := by
  unfold State.doGranule
  repeat' first
    | (with_reducible first
       | assumption | intro _ | apply wf_ite | apply wf_ite_fst | apply wf_modTile | apply wf_post | apply wf_unitWrite
       | apply wf_learnPages | apply wf_chanStop | apply wf_granuleData | apply wf_countPoison
       | refine of_fst ?_ (by assumption))
    | split | dsimp only

theorem wf_execCeGranule {s : State} (h : s.mem.wf) : Leaves (execCeGranule s) := by
  unfold execCeGranule
  repeat' first
    | (with_reducible first
       | assumption | intro _ | apply wf_ite | apply wf_ite_fst | apply leaves_next | apply wf_post | apply wf_doGranule)
    | split | dsimp only

theorem wf_execCeComplete {s : State} (h : s.mem.wf) : Leaves (execCeComplete s) := by
  unfold execCeComplete
  repeat' first
    | (with_reducible first
       | assumption | intro _ | apply wf_ite | apply wf_ite_fst | apply leaves_next | apply wf_unitRead | apply wf_unitWrite
       | apply wf_endCommand | apply wf_chanStop | apply wf_countPoison | refine of_fst ?_ (by assumption))
    | split | dsimp only

theorem wf_startCommand {s : State} (h : s.mem.wf) (o : CFmt) (c : Chan) : (s.startCommand o c).mem.wf := by
  unfold State.startCommand
  repeat' first
    | (with_reducible first
       | assumption | intro _ | apply wf_ite | apply wf_ite_fst | apply wf_modMyTile | apply wf_advance | apply wf_waits
       | apply wf_post | apply wf_forget | apply wf_trap)
    | split | dsimp only

theorem wf_execCecpy {s : State} (h : s.mem.wf) (o : CFmt) : Leaves (execCecpy o s) := by
  unfold execCecpy
  repeat' first
    | (with_reducible first
       | assumption | intro _ | apply wf_ite | apply wf_ite_fst | apply leaves_next | apply wf_guardedCtx
       | apply wf_startCommand)
    | split | dsimp only

theorem wf_execCe2d {s : State} (h : s.mem.wf) (o : CFmt) : Leaves (execCe2d o s) := by
  unfold execCe2d
  repeat' first
    | (with_reducible first
       | assumption | intro _ | apply wf_ite | apply wf_ite_fst | apply leaves_next | apply wf_guardedCtx
       | apply wf_startCommand)
    | split | dsimp only

theorem wf_execCefill {s : State} (h : s.mem.wf) (o : CFmt) : Leaves (execCefill o s) := by
  unfold execCefill
  repeat' first
    | (with_reducible first
       | assumption | intro _ | apply wf_ite | apply wf_ite_fst | apply leaves_next | apply wf_fill | apply wf_guardedCtx
       | apply wf_startCommand)
    | split | dsimp only

theorem wf_execCepg {s : State} (h : s.mem.wf) (o : CFmt) : Leaves (execCepg o s) := by
  unfold execCepg
  repeat' first
    | (with_reducible first
       | assumption | intro _ | apply wf_ite | apply wf_ite_fst | apply leaves_next | apply wf_guardedCtx
       | apply wf_startCommand)
    | split | dsimp only

theorem wf_execCestat {s : State} (h : s.mem.wf) (o : CFmt) : Leaves (execCestat o s) := by
  unfold execCestat
  repeat' first
    | (with_reducible first
       | assumption | intro _ | apply wf_ite | apply wf_ite_fst | apply leaves_next | apply wf_modMyTile | apply wf_setG
       | apply wf_advance | apply wf_guardedCtx)
    | split | dsimp only

theorem wf_execCeabt {s : State} (h : s.mem.wf) (o : CFmt) : Leaves (execCeabt o s) := by
  unfold execCeabt
  repeat' first
    | (with_reducible first
       | assumption | intro _ | apply wf_ite | apply wf_ite_fst | apply leaves_next | apply wf_modMyTile | apply wf_advance
       | apply wf_unwithhold | apply wf_forget | apply wf_settle | apply wf_guardedCtx)
    | split | dsimp only

theorem wf_scratchTrap {s : State} (h : s.mem.wf) (us : List ScratchUse) : Gives (s.scratchTrap us) := by
  unfold State.scratchTrap
  repeat' first
    | (with_reducible first
       | assumption | intro _ | apply wf_ite | apply wf_ite_fst | apply gives_ite | exact gives_none | apply gives_some
       | apply wf_trap | refine gives_map ?_ ?_ | refine of_gives (by assumption) | refine gives_read ?_)
    | split | dsimp only

theorem wf_hold {s : State} (h : s.mem.wf) (e : Option Nat) (on : Bool) : (s.hold e on).mem.wf := by
  unfold State.hold
  repeat' first
    | (with_reducible first
       | assumption | intro _ | apply wf_ite | apply wf_ite_fst | apply wf_modMyTile)
    | split | dsimp only

theorem wf_capture {s : State} (h : s.mem.wf) (o : Operand) (skip : Nat) : Ran Prod.fst (s.capture o skip) := by
  unfold State.capture
  repeat' first
    | (with_reducible first
       | assumption | intro _ | apply wf_ite | apply wf_ite_fst | apply ran_ite | apply wf_modTile | apply wf_waits
       | apply wf_drop | apply wf_withhold | apply wf_remote | apply wf_gather | apply wf_stash | apply wf_portTrap
       | apply wf_hold | apply ran_ok | apply ran_ok_fst | apply ran_error | apply ran_ran
       | refine ran_bind (f := Prod.fst) ?_ ?_ | refine ran_bind (f := fun s => s) ?_ ?_ | refine ran_bind_stops ?_ ?_
       | refine of_fst ?_ (by assumption))
    | split | dsimp only

theorem wf_takeCapture {s : State} (h : s.mem.wf) (o : Operand) (n : Nat) : (s.takeCapture o n).mem.wf := by
  unfold State.takeCapture
  repeat' first
    | (with_reducible first
       | assumption | intro _ | apply wf_ite | apply wf_ite_fst | apply wf_modMyTile | apply wf_modMe | apply wf_post
       | apply wf_endOf)
    | split | dsimp only

theorem wf_enqueue {s : State} (h : s.mem.wf) (m : MatOp) : (s.enqueue m).mem.wf := by
  unfold State.enqueue
  repeat' first
    | (with_reducible first
       | assumption | intro _ | apply wf_ite | apply wf_ite_fst | apply wf_modMyTile | apply wf_advance | apply wf_post)
    | split | dsimp only

theorem wf_matrixOp {s : State} (h : s.mem.wf) (o : MFmt) (k : Word → State → State) (hk : ∀ x0 (t : State), t.mem.wf → (k x0 t).mem.wf) : (s.matrixOp o k).mem.wf := by
  unfold State.matrixOp
  repeat' first
    | (with_reducible first
       | assumption | intro _ | apply wf_ite | apply wf_ite_fst | apply hk | apply wf_waits | apply wf_masked)
    | split | dsimp only

theorem wf_letGo {t : State} (h : t.mem.wf) (es : List (Option Nat)) : (t.letGo es).mem.wf := by
  unfold State.letGo
  with_reducible apply wf_ite h
  with_reducible apply wf_foldl h
  intro u e hu
  with_reducible exact wf_hold hu e false

theorem wf_captures {s : State} (h : s.mem.wf) (a b : Operand) : Ran Prod.fst (s.captures a b) := by
  unfold State.captures
  repeat' first
    | (with_reducible first
       | assumption | intro _ | apply wf_ite | apply wf_ite_fst | apply ran_ite | apply wf_waits | apply wf_portTrap
       | apply wf_hold | apply wf_capture | apply wf_takeCapture | apply wf_letGo | apply ran_ok | apply ran_ok_fst
       | apply ran_error | apply ran_ran | refine ran_bind (f := Prod.fst) ?_ ?_ | refine ran_bind (f := fun s => s) ?_ ?_
       | refine ran_bind_stops ?_ ?_ | refine of_ok_fst ?_ (by assumption)
       | refine of_error (f := Prod.fst) ?_ (by assumption))
    | split | dsimp only

theorem wf_multiply {s : State} (h : s.mem.wf) (o : MFmt) (set : Bool) : (s.multiply o set).mem.wf := by
  unfold State.multiply
  repeat' first
    | (with_reducible first
       | assumption | intro _ | apply wf_ite | apply wf_ite_fst | apply wf_scratchTrap | apply wf_enqueue
       | apply wf_matrixOp | apply wf_letGo | apply wf_captures | apply ran_ok | apply ran_ok_fst | apply ran_error
       | apply ran_ran | refine ran_bind (f := Prod.fst) ?_ ?_ | refine ran_bind (f := fun s => s) ?_ ?_
       | refine ran_bind_stops ?_ ?_ | refine gives_map ?_ ?_ | refine of_some ?_ (by assumption)
       | refine of_ok_fst ?_ (by assumption) | refine of_error (f := Prod.fst) ?_ (by assumption)
       | refine of_gives (by assumption))
    | split | dsimp only

theorem wf_execMzero {s : State} (h : s.mem.wf) (o : MFmt) : Leaves (execMzero o s) := by
  unfold execMzero
  repeat' first
    | (with_reducible first
       | assumption | intro _ | apply wf_ite | apply wf_ite_fst | apply leaves_next | apply wf_enqueue | apply wf_matrixOp)
    | split | dsimp only

theorem wf_execMma {s : State} (h : s.mem.wf) (o : MFmt) : Leaves (execMma o s) := by
  unfold execMma
  repeat' first
    | (with_reducible first
       | assumption | intro _ | apply wf_ite | apply wf_ite_fst | apply leaves_next | apply wf_multiply)
    | split | dsimp only

theorem wf_execMmas {s : State} (h : s.mem.wf) (o : MFmt) : Leaves (execMmas o s) := by
  unfold execMmas
  repeat' first
    | (with_reducible first
       | assumption | intro _ | apply wf_ite | apply wf_ite_fst | apply leaves_next | apply wf_multiply)
    | split | dsimp only

theorem wf_execMrd {s : State} (h : s.mem.wf) (o : MFmt) : Leaves (execMrd o s) := by
  unfold execMrd
  repeat' first
    | (with_reducible first
       | assumption | intro _ | apply wf_ite | apply wf_ite_fst | apply leaves_next | apply wf_modHart | apply wf_advance
       | apply wf_waits | apply wf_trap | apply wf_masked | apply wf_push | apply wf_link | apply ran_ok | apply ran_ok_fst
       | apply ran_error | apply ran_ran | refine ran_bind (f := Prod.fst) ?_ ?_ | refine ran_bind (f := fun s => s) ?_ ?_
       | refine ran_bind_stops ?_ ?_ | refine of_ok ?_ (by assumption)
       | refine of_error (f := fun s => s) ?_ (by assumption))
    | split | dsimp only

theorem wf_execMrdq {s : State} (h : s.mem.wf) (o : MFmt) : Leaves (execMrdq o s) := by
  unfold execMrdq
  repeat' first
    | (with_reducible first
       | assumption | intro _ | apply wf_ite | apply wf_ite_fst | apply leaves_next | apply wf_waits | apply wf_remote
       | apply wf_portTrap | apply wf_pushStop | apply wf_pushAsk | apply wf_pushTaken | apply wf_push | apply wf_enqueue
       | apply wf_matrixOp | apply ran_ok | apply ran_ok_fst | apply ran_error | apply ran_ran
       | refine ran_bind (f := Prod.fst) ?_ ?_ | refine ran_bind (f := fun s => s) ?_ ?_ | refine ran_bind_stops ?_ ?_
       | refine of_fst ?_ (by assumption) | refine of_ok ?_ (by assumption)
       | refine of_error (f := fun s => s) ?_ (by assumption))
    | split | dsimp only

theorem wf_execMlda {s : State} (h : s.mem.wf) (o : MFmt) : Leaves (execMlda o s) := by
  unfold execMlda
  repeat' first
    | (with_reducible first
       | assumption | intro _ | apply wf_ite | apply wf_ite_fst | apply leaves_next | apply wf_load | apply wf_scratchTrap
       | apply wf_enqueue | apply wf_matrixOp | refine gives_map ?_ ?_ | refine of_some ?_ (by assumption)
       | refine of_gives (by assumption))
    | split | dsimp only

theorem wf_execMscl {s : State} (h : s.mem.wf) (o : MFmt) : Leaves (execMscl o s) := by
  unfold execMscl
  repeat' first
    | (with_reducible first
       | assumption | intro _ | apply wf_ite | apply wf_ite_fst | apply leaves_next | apply wf_waits | apply wf_waitLink
       | apply wf_masked | apply wf_enqueue)
    | split | dsimp only

theorem wf_execMwait {s : State} (h : s.mem.wf) (o : MFmt) : Leaves (execMwait o s) := by
  unfold execMwait
  repeat' first
    | (with_reducible first
       | assumption | intro _ | apply wf_ite | apply wf_ite_fst | apply leaves_next | apply wf_enqueue | apply wf_matrixOp)
    | split | dsimp only

theorem wf_modRows {s : State} (h : s.mem.wf) (d t acc : Nat) (rows : List Nat) (f : Nat → AccRow → AccRow × Fl) : (s.modRows d t acc rows f).1.mem.wf := by
  unfold State.modRows
  repeat' first
    | (with_reducible first
       | assumption | intro _ | apply wf_ite | apply wf_ite_fst | apply wf_modTile | apply wf_foldl | apply wf_foldl_fst)
    | split | dsimp only

theorem wf_pushRows {s : State} (h : s.mem.wf) (d t : Nat) (m : MatOp) (p : PushTo) : (s.pushRows d t m p).1.mem.wf := by
  unfold State.pushRows
  repeat' first
    | (with_reducible first
       | assumption | intro _ | apply wf_ite | apply wf_ite_fst | apply wf_latePush | apply wf_foldl | apply wf_foldl_fst
       | refine of_fst ?_ (by assumption))
    | split | dsimp only

theorem wf_matrixWork {s : State} (h : s.mem.wf) (d t : Nat) (m : MatOp) : (s.matrixWork d t m).1.mem.wf := by
  unfold State.matrixWork
  repeat' first
    | (with_reducible first
       | assumption | intro _ | apply wf_ite | apply wf_ite_fst | apply wf_load | apply wf_push | apply wf_modRows
       | apply wf_pushRows | apply ran_ok | apply ran_ok_fst | apply ran_error | apply ran_ran
       | refine ran_bind (f := Prod.fst) ?_ ?_ | refine ran_bind (f := fun s => s) ?_ ?_ | refine ran_bind_stops ?_ ?_
       | refine of_fst ?_ (by assumption) | refine of_ok ?_ (by assumption)
       | refine of_error (f := fun s => s) ?_ (by assumption))
    | split | dsimp only

theorem wf_matrixDone {s : State} (h : s.mem.wf) (d t : Nat) (m : MatOp) (fl : Fl) : (s.matrixDone d t m fl).mem.wf := by
  unfold State.matrixDone
  repeat' first
    | (with_reducible first
       | assumption | intro _ | apply wf_ite | apply wf_ite_fst | apply wf_modTile | apply wf_modCtx | apply wf_settle
       | apply wf_load | apply wf_push | apply ran_ok | apply ran_ok_fst | apply ran_error | apply ran_ran
       | refine ran_bind (f := Prod.fst) ?_ ?_ | refine ran_bind (f := fun s => s) ?_ ?_ | refine ran_bind_stops ?_ ?_
       | refine of_ok ?_ (by assumption) | refine of_error (f := fun s => s) ?_ (by assumption))
    | split | dsimp only

theorem wf_matrixStep {s : State} (h : s.mem.wf) (d t : Nat) : (s.matrixStep d t).1.mem.wf := by
  unfold State.matrixStep
  repeat' first
    | (with_reducible first
       | assumption | intro _ | apply wf_ite | apply wf_ite_fst | apply wf_modTile | apply wf_push | apply wf_matrixWork
       | apply wf_matrixDone | apply ran_ok | apply ran_ok_fst | apply ran_error | apply ran_ran
       | refine ran_bind (f := Prod.fst) ?_ ?_ | refine ran_bind (f := fun s => s) ?_ ?_ | refine ran_bind_stops ?_ ?_
       | refine ran_map (f := Prod.fst) ?_ ?_ | refine ran_map (f := fun s => s) ?_ ?_ | refine of_fst ?_ (by assumption)
       | refine of_ok ?_ (by assumption) | refine of_error (f := fun s => s) ?_ (by assumption))
    | split | dsimp only

theorem wf_execMatrixComplete {s : State} (h : s.mem.wf) : Leaves (execMatrixComplete s) := by
  unfold execMatrixComplete
  repeat' first
    | (with_reducible first
       | assumption | intro _ | apply wf_ite | apply wf_ite_fst | apply leaves_next | apply wf_post | apply wf_matrixStep
       | refine of_fst ?_ (by assumption))
    | split | dsimp only

theorem wf_coachTrap {s : State} (h : s.mem.wf) (port reason : Nat) : (s.coachTrap port reason).mem.wf := by
  unfold State.coachTrap
  repeat' first
    | (with_reducible first
       | assumption | intro _ | apply wf_ite | apply wf_ite_fst | apply wf_trap)
    | split | dsimp only

theorem wf_rverBad {s : State} (h : s.mem.wf) : Gives (s.rverBad) := by
  unfold State.rverBad
  repeat' first
    | (with_reducible first
       | assumption | intro _ | apply wf_ite | apply wf_ite_fst | apply gives_ite | exact gives_none | apply gives_some
       | apply wf_trap | refine gives_map ?_ ?_ | refine of_gives (by assumption) | refine gives_read ?_)
    | split | dsimp only

theorem wf_routeOp {s : State} (h : s.mem.wf) (o : CFmt) (k : State → State) (hk : ∀ (t : State), t.mem.wf → (k t).mem.wf) : (s.routeOp o k).mem.wf := by
  unfold State.routeOp
  repeat' first
    | (with_reducible first
       | assumption | intro _ | apply wf_ite | apply wf_ite_fst | apply hk | apply wf_guardedCtx | apply wf_rverBad
       | refine gives_map ?_ ?_ | refine of_some ?_ (by assumption) | refine of_gives (by assumption))
    | split | dsimp only

theorem wf_withCoach {s : State} (h : s.mem.wf) (n : Nat) (k : Coach → State → State) (hk : ∀ x0 (t : State), t.mem.wf → (k x0 t).mem.wf) : (s.withCoach n k).mem.wf := by
  unfold State.withCoach
  repeat' first
    | (with_reducible first
       | assumption | intro _ | apply wf_ite | apply wf_ite_fst | apply hk | apply wf_coachTrap)
    | split | dsimp only

theorem wf_release {s : State} (h : s.mem.wf) (n : Nat) : (s.release n).mem.wf := by
  unfold State.release
  repeat' first
    | (with_reducible first
       | assumption | intro _ | apply wf_ite | apply wf_ite_fst | apply wf_modMe)
    | split | dsimp only

theorem wf_allocate {s : State} (h : s.mem.wf) (c : Coach) : (s.allocate c).mem.wf := by
  unfold State.allocate
  repeat' first
    | (with_reducible first
       | assumption | intro _ | apply wf_ite | apply wf_ite_fst | apply wf_modMe | apply wf_advance)
    | split | dsimp only

theorem wf_execKnew {s : State} (h : s.mem.wf) (o : CFmt) : Leaves (execKnew o s) := by
  unfold execKnew
  repeat' first
    | (with_reducible first
       | assumption | intro _ | apply wf_ite | apply wf_ite_fst | apply leaves_next | apply wf_coachTrap | apply wf_routeOp
       | apply wf_allocate)
    | split | dsimp only

theorem wf_execKnewC {s : State} (h : s.mem.wf) (o : CFmt) : Leaves (execKnewC o s) := by
  unfold execKnewC
  repeat' first
    | (with_reducible first
       | assumption | intro _ | apply wf_ite | apply wf_ite_fst | apply leaves_next | apply wf_coachTrap | apply wf_routeOp
       | apply wf_withCoach | apply wf_allocate)
    | split | dsimp only

theorem wf_execKhdr {s : State} (h : s.mem.wf) (o : CFmt) : Leaves (execKhdr o s) := by
  unfold execKhdr
  repeat' first
    | (with_reducible first
       | assumption | intro _ | apply wf_ite | apply wf_ite_fst | apply leaves_next | apply wf_setG | apply wf_advance
       | apply wf_guardedCtx | apply wf_withCoach)
    | split | dsimp only

theorem wf_execKset {s : State} (h : s.mem.wf) (o : CFmt) : Leaves (execKset o s) := by
  unfold execKset
  repeat' first
    | (with_reducible first
       | assumption | intro _ | apply wf_ite | apply wf_ite_fst | apply leaves_next | apply wf_modMe | apply wf_advance
       | apply wf_guardedCtx | apply wf_withCoach)
    | split | dsimp only

theorem wf_pushed {s : State} (h : s.mem.wf) (k : State → State) (hk : ∀ (t : State), t.mem.wf → (k t).mem.wf) : (s.pushed k).mem.wf := by
  unfold State.pushed
  repeat' first
    | (with_reducible first
       | assumption | intro _ | apply wf_ite | apply wf_ite_fst | apply hk | apply wf_waits)
    | split | dsimp only

theorem wf_execKdrop {s : State} (h : s.mem.wf) (o : CFmt) : Leaves (execKdrop o s) := by
  unfold execKdrop
  repeat' first
    | (with_reducible first
       | assumption | intro _ | apply wf_ite | apply wf_ite_fst | apply leaves_next | apply wf_advance | apply wf_guardedCtx
       | apply wf_withCoach | apply wf_release | apply wf_pushed)
    | split | dsimp only

theorem wf_place {s : State} (h : s.mem.wf) (es : List Entrant) (k : State → State) (hk : ∀ (t : State), t.mem.wf → (k t).mem.wf) : (s.place es k).mem.wf := by
  unfold State.place
  repeat' first
    | (with_reducible first
       | assumption | intro _ | apply wf_ite | apply wf_ite_fst | apply hk | apply wf_modMyTile | apply wf_waits
       | apply wf_post)
    | split | dsimp only

theorem wf_execKsend {s : State} (h : s.mem.wf) (o : CFmt) : Leaves (execKsend o s) := by
  unfold execKsend
  repeat' first
    | (with_reducible first
       | assumption | intro _ | apply wf_ite | apply wf_ite_fst | apply leaves_next | apply wf_advance | apply wf_coachTrap
       | apply wf_routeOp | apply wf_withCoach | apply wf_release | apply wf_pushed | apply wf_place)
    | split | dsimp only

theorem wf_execKfwd {s : State} (h : s.mem.wf) (o : CFmt) : Leaves (execKfwd o s) := by
  unfold execKfwd
  repeat' first
    | (with_reducible first
       | assumption | intro _ | apply wf_ite | apply wf_ite_fst | apply leaves_next | apply wf_advance | apply wf_kdrop
       | apply wf_coachTrap | apply wf_routeOp | apply wf_withCoach | apply wf_release | apply wf_pushed | apply wf_place)
    | split | dsimp only

theorem wf_execKsplit {s : State} (h : s.mem.wf) (o : CFmt) : Leaves (execKsplit o s) := by
  unfold execKsplit
  repeat' first
    | (with_reducible first
       | assumption | intro _ | apply wf_ite | apply wf_ite_fst | apply leaves_next | apply wf_advance | apply wf_coachTrap
       | apply wf_routeOp | apply wf_withCoach | apply wf_release | apply wf_pushed | apply wf_place)
    | split | dsimp only

theorem wf_sectionBytes {s : State} (h : s.mem.wf) (c : Section) (skip n : Nat) : Stops (s.sectionBytes c skip n) := by
  unfold State.sectionBytes
  repeat' first
    | (with_reducible first
       | assumption | intro _ | apply wf_ite | apply wf_ite_fst | apply wf_drop | apply wf_trap | exact stops_ok
       | apply stops_error | apply stops_map | apply stops_ite | refine stops_bind ?_ ?_)
    | split | dsimp only

theorem wf_putSection {s : State} (h : s.mem.wf) (c : Section) (skip : Nat) (bs : List Byte) : (s.putSection c skip bs).mem.wf := by
  unfold State.putSection
  repeat' first
    | (with_reducible first
       | assumption | intro _ | apply wf_ite | apply wf_ite_fst | apply wf_modMe | apply wf_drop | apply wf_wrFor
       | apply wf_keepOld | apply wf_foldl | apply wf_foldl_fst)
    | split | dsimp only

theorem wf_execKmrg {s : State} (h : s.mem.wf) (o : CFmt) : Leaves (execKmrg o s) := by
  unfold execKmrg
  repeat' first
    | (with_reducible first
       | assumption | intro _ | apply wf_ite | apply wf_ite_fst | apply leaves_next | apply wf_advance | apply wf_trap
       | apply wf_guardedCtx | apply wf_addFlags | apply wf_scratchTrap | apply wf_coachTrap | apply wf_sectionBytes
       | apply wf_putSection | apply ran_ok | apply ran_ok_fst | apply ran_error | apply ran_ran
       | refine ran_bind (f := Prod.fst) ?_ ?_ | refine ran_bind (f := fun s => s) ?_ ?_ | refine ran_bind_stops ?_ ?_
       | apply wf_foldl | refine gives_map ?_ ?_ | apply gives_bind | apply gives_findSome | apply gives_foldl
       | apply wf_foldl_fst | refine of_some ?_ (by assumption) | refine of_gives (by assumption)
       | refine of_stops ?_ (by assumption))
    | split | dsimp only

theorem wf_guardedFor {s : State} (h : s.mem.wf) (o : CFmt) (eas : List Word) (k : State → State) (hk : ∀ (t : State), t.mem.wf → (k t).mem.wf) : (s.guardedFor o eas k).mem.wf := by
  unfold State.guardedFor
  repeat' first
    | (with_reducible first
       | assumption | intro _ | apply wf_ite | apply wf_ite_fst | apply hk | apply wf_illegal | apply wf_priv
       | apply wf_guarded)
    | split | dsimp only

theorem wf_spot {s : State} (h : s.mem.wf) (loc ea n align : Nat) (a : Acc) (free : Bool) : Ran Prod.fst (s.spot loc ea n align a free) := by
  unfold State.spot
  repeat' first
    | (with_reducible first
       | assumption | intro _ | apply wf_ite | apply wf_ite_fst | apply ran_ite | apply wf_waits | apply wf_touch
       | apply wf_remote | apply wf_trap | apply wf_priv | apply wf_pageFault | apply wf_hold | apply ran_ok
       | apply ran_ok_fst | apply ran_error | apply ran_ran | refine ran_bind (f := Prod.fst) ?_ ?_
       | refine ran_bind (f := fun s => s) ?_ ?_ | refine ran_bind_stops ?_ ?_ | refine of_fst ?_ (by assumption))
    | split | dsimp only

theorem wf_nearPlace {s : State} (h : s.mem.wf) (loc ea : Nat) (p : Place) : Stops (s.nearPlace loc ea p) := by
  unfold State.nearPlace
  repeat' first
    | (with_reducible first
       | assumption | intro _ | apply wf_ite | apply wf_ite_fst | apply wf_remote | apply wf_trap
       | refine of_fst ?_ (by assumption) | exact stops_ok | apply stops_error | apply stops_map | apply stops_ite
       | refine stops_bind ?_ ?_)
    | split | dsimp only

theorem wf_wordSpot {s : State} (h : s.mem.wf) (loc ea : Nat) (a : Acc) : Ran Prod.fst (s.wordSpot loc ea a) := by
  unfold State.wordSpot
  repeat' first
    | (with_reducible first
       | assumption | intro _ | apply wf_ite | apply wf_ite_fst | apply ran_ite | apply wf_spot | apply wf_nearPlace
       | apply ran_ok | apply ran_ok_fst | apply ran_error | apply ran_ran | refine ran_bind (f := Prod.fst) ?_ ?_
       | refine ran_bind (f := fun s => s) ?_ ?_ | refine ran_bind_stops ?_ ?_ | refine of_ok_fst ?_ (by assumption)
       | refine of_error (f := Prod.fst) ?_ (by assumption) | refine of_stops ?_ (by assumption))
    | split | dsimp only

theorem wf_spotValue {s : State} (h : s.mem.wf) (loc ea n : Nat) (p : Place) : Stops (s.spotValue loc ea n p) := by
  unfold State.spotValue
  repeat' first
    | (with_reducible first
       | assumption | intro _ | apply wf_ite | apply wf_ite_fst | apply wf_trap | exact stops_ok | apply stops_error
       | apply stops_map | apply stops_ite | refine stops_bind ?_ ?_)
    | split | dsimp only

theorem wf_getWord {s : State} (h : s.mem.wf) (loc ea : Nat) (a : Acc) : Ran Prod.fst (s.getWord loc ea a) := by
  unfold State.getWord
  repeat' first
    | (with_reducible first
       | assumption | intro _ | apply wf_ite | apply wf_ite_fst | apply ran_ite | apply wf_wordSpot | apply wf_spotValue
       | apply ran_ok | apply ran_ok_fst | apply ran_error | apply ran_ran | refine ran_bind (f := Prod.fst) ?_ ?_
       | refine ran_bind (f := fun s => s) ?_ ?_ | refine ran_bind_stops ?_ ?_ | refine of_ok_fst ?_ (by assumption)
       | refine of_error (f := Prod.fst) ?_ (by assumption) | refine of_stops ?_ (by assumption))
    | split | dsimp only

theorem wf_putWord {s : State} (h : s.mem.wf) (ea : Nat) (v : Word) : (s.putWord ea v).mem.wf := by
  unfold State.putWord
  repeat' first
    | (with_reducible first
       | assumption | intro _ | apply wf_ite | apply wf_ite_fst | apply wf_wrFor | apply wf_noteStore)
    | split | dsimp only

theorem wf_lineSpot {s : State} (h : s.mem.wf) (loc ea : Nat) : Ran Prod.fst (s.lineSpot loc ea) := by
  unfold State.lineSpot
  repeat' first
    | (with_reducible first
       | assumption | intro _ | apply wf_ite | apply wf_ite_fst | apply ran_ite | apply wf_trap | apply wf_priv
       | apply wf_spot | apply ran_ok | apply ran_ok_fst | apply ran_error | apply ran_ran
       | refine ran_bind (f := Prod.fst) ?_ ?_ | refine ran_bind (f := fun s => s) ?_ ?_ | refine ran_bind_stops ?_ ?_
       | refine of_ok_fst ?_ (by assumption) | refine of_error (f := Prod.fst) ?_ (by assumption))
    | split | dsimp only

theorem wf_getLine {s : State} (h : s.mem.wf) (ea : Nat) : Ran Prod.fst (s.getLine ea) := by
  unfold State.getLine
  repeat' first
    | (with_reducible first
       | assumption | intro _ | apply wf_ite | apply wf_ite_fst | apply ran_ite | apply wf_spotValue | apply wf_lineSpot
       | apply ran_ok | apply ran_ok_fst | apply ran_error | apply ran_ran | refine ran_bind (f := Prod.fst) ?_ ?_
       | refine ran_bind (f := fun s => s) ?_ ?_ | refine ran_bind_stops ?_ ?_ | refine of_ok_fst ?_ (by assumption)
       | refine of_error (f := Prod.fst) ?_ (by assumption) | refine of_stops ?_ (by assumption))
    | split | dsimp only

theorem wf_getDesc {s : State} (h : s.mem.wf) (ea : Nat) : Ran Prod.fst (s.getDesc ea) := by
  unfold State.getDesc
  repeat' first
    | (with_reducible first
       | assumption | intro _ | apply wf_ite | apply wf_ite_fst | apply ran_ite | apply wf_getLine | apply ran_ok
       | apply ran_ok_fst | apply ran_error | apply ran_ran | refine ran_bind (f := Prod.fst) ?_ ?_
       | refine ran_bind (f := fun s => s) ?_ ?_ | refine ran_bind_stops ?_ ?_ | refine ran_map (f := Prod.fst) ?_ ?_
       | refine ran_map (f := fun s => s) ?_ ?_ | refine of_ok_fst ?_ (by assumption)
       | refine of_error (f := Prod.fst) ?_ (by assumption))
    | split | dsimp only

theorem wf_updatable {s : State} (h : s.mem.wf) (l : List Nat) : Ran (fun s => s) (s.updatable l) := by
  induction l generalizing s with
  | nil => exact ran_ok h
  | cons x r ih => exact ran_bind (f := Prod.fst) (wf_getWord h 1 x .rmw) fun a ha => ih ha

theorem wf_status {s : State} (h : s.mem.wf) (o : CFmt) (n : Nat) : (s.status o n).mem.wf := by
  unfold State.status
  repeat' first
    | (with_reducible first
       | assumption | intro _ | apply wf_ite | apply wf_ite_fst | apply wf_setG | apply wf_advance)
    | split | dsimp only

theorem wf_ordered {s : State} (h : s.mem.wf) (o : CFmt) (n : Nat) : (s.ordered o n).mem.wf := by
  unfold State.ordered
  repeat' first
    | (with_reducible first
       | assumption | intro _ | apply wf_ite | apply wf_ite_fst | apply wf_orderLate | apply wf_status)
    | split | dsimp only

theorem wf_execShlk {s : State} (h : s.mem.wf) (o : CFmt) : Leaves (execShlk o s) := by
  unfold execShlk
  repeat' first
    | (with_reducible first
       | assumption | intro _ | apply wf_ite | apply wf_ite_fst | apply leaves_next | apply wf_guardedFor | apply wf_getDesc
       | apply wf_status | apply ran_ok | apply ran_ok_fst | apply ran_error | apply ran_ran
       | refine ran_bind (f := Prod.fst) ?_ ?_ | refine ran_bind (f := fun s => s) ?_ ?_ | refine ran_bind_stops ?_ ?_
       | refine of_ok_fst ?_ (by assumption) | refine of_error (f := Prod.fst) ?_ (by assumption))
    | split | dsimp only

theorem wf_audit {s : State} (h : s.mem.wf) (ea : Nat) : (s.audit ea).mem.wf := by
  unfold State.audit
  repeat' first
    | (with_reducible first
       | assumption | intro _ | apply wf_ite | apply wf_ite_fst | apply wf_inform)
    | split | dsimp only

theorem wf_entryOp {s : State} (h : s.mem.wf) (o : CFmt) (op : RemoteOp) (near : Nat → Word → State → State) (hnear : ∀ x0 x1 (t : State), t.mem.wf → (near x0 x1 t).mem.wf) : (s.entryOp o op near).mem.wf := by
  unfold State.entryOp
  repeat' first
    | (with_reducible first
       | assumption | intro _ | apply wf_ite | apply wf_ite_fst | apply hnear | apply wf_remote | apply wf_viaPod
       | apply wf_guardedFor | apply wf_spot | apply wf_spotValue | apply wf_ordered | apply ran_ok | apply ran_ok_fst
       | apply ran_error | apply ran_ran | refine ran_bind (f := Prod.fst) ?_ ?_ | refine ran_bind (f := fun s => s) ?_ ?_
       | refine ran_bind_stops ?_ ?_ | refine of_fst ?_ (by assumption) | refine of_ok_fst ?_ (by assumption)
       | refine of_error (f := Prod.fst) ?_ (by assumption) | refine of_stops ?_ (by assumption))
    | split | dsimp only

theorem wf_shref {s : State} (h : s.mem.wf) (o : CFmt) (dec : Bool) : (s.shref o dec).mem.wf := by
  unfold State.shref
  repeat' first
    | (with_reducible first
       | assumption | intro _ | apply wf_ite | apply wf_ite_fst | apply wf_putWord | apply wf_audit | apply wf_entryOp)
    | split | dsimp only

theorem wf_execShrefInc {s : State} (h : s.mem.wf) (o : CFmt) : Leaves (execShrefInc o s) := by
  unfold execShrefInc
  repeat' first
    | (with_reducible first
       | assumption | intro _ | apply wf_ite | apply wf_ite_fst | apply leaves_next | apply wf_shref)
    | split | dsimp only

theorem wf_execShrefDec {s : State} (h : s.mem.wf) (o : CFmt) : Leaves (execShrefDec o s) := by
  unfold execShrefDec
  repeat' first
    | (with_reducible first
       | assumption | intro _ | apply wf_ite | apply wf_ite_fst | apply leaves_next | apply wf_shref)
    | split | dsimp only

theorem wf_execShpin {s : State} (h : s.mem.wf) (o : CFmt) : Leaves (execShpin o s) := by
  unfold execShpin
  repeat' first
    | (with_reducible first
       | assumption | intro _ | apply wf_ite | apply wf_ite_fst | apply leaves_next | apply wf_putWord | apply wf_entryOp)
    | split | dsimp only

theorem wf_copyWords {s : State} (h : s.mem.wf) (o : CFmt) : Ran Prod.fst (s.copyWords o) := by
  unfold State.copyWords
  repeat' first
    | (with_reducible first
       | assumption | intro _ | apply wf_ite | apply wf_ite_fst | apply ran_ite | apply wf_trap | apply wf_wordSpot
       | apply wf_spotValue | apply wf_lineSpot | apply ran_ok | apply ran_ok_fst | apply ran_error | apply ran_ran
       | refine ran_bind (f := Prod.fst) ?_ ?_ | refine ran_bind (f := fun s => s) ?_ ?_ | refine ran_bind_stops ?_ ?_
       | refine of_ok_fst ?_ (by assumption) | refine of_error (f := Prod.fst) ?_ (by assumption)
       | refine of_stops ?_ (by assumption))
    | split | dsimp only

theorem wf_execShcpy {s : State} (h : s.mem.wf) (o : CFmt) : Leaves (execShcpy o s) := by
  unfold execShcpy
  repeat' first
    | (with_reducible first
       | assumption | intro _ | apply wf_ite | apply wf_ite_fst | apply leaves_next | apply wf_setG | apply wf_waits
       | apply wf_startCommand | apply wf_guardedFor | apply wf_status | apply wf_copyWords | apply ran_ok
       | apply ran_ok_fst | apply ran_error | apply ran_ran | refine ran_bind (f := Prod.fst) ?_ ?_
       | refine ran_bind (f := fun s => s) ?_ ?_ | refine ran_bind_stops ?_ ?_ | refine of_ok_fst ?_ (by assumption)
       | refine of_error (f := Prod.fst) ?_ (by assumption))
    | split | dsimp only

theorem wf_spots {s : State} (h : s.mem.wf) (loc : Nat) (a : Acc) (align : Nat) (free : Bool) (l : List (Nat × Nat)) : Ran Prod.fst (s.spots loc a align free l) := by
  induction l generalizing s with
  | nil =>
    unfold State.spots
    repeat' first
      | (with_reducible first
         | assumption | intro _ | apply wf_ite | apply wf_ite_fst | apply ran_ite | apply wf_spot | apply ran_ok
         | apply ran_ok_fst | apply ran_error | apply ran_ran | refine ran_bind (f := Prod.fst) ?_ ?_
         | refine ran_bind (f := fun s => s) ?_ ?_ | refine ran_bind_stops ?_ ?_ | refine of_ok_fst ?_ (by assumption)
         | refine of_error (f := Prod.fst) ?_ (by assumption))
      | split | dsimp only
  | cons x r ih =>
    unfold State.spots
    repeat' first
      | (with_reducible first
         | assumption | intro _ | apply wf_ite | apply wf_ite_fst | apply ran_ite | apply ih | apply wf_spot | apply ran_ok
         | apply ran_ok_fst | apply ran_error | apply ran_ran | refine ran_bind (f := Prod.fst) ?_ ?_
         | refine ran_bind (f := fun s => s) ?_ ?_ | refine ran_bind_stops ?_ ?_ | refine of_ok_fst ?_ (by assumption)
         | refine of_error (f := Prod.fst) ?_ (by assumption))
      | split | dsimp only

theorem wf_readSpots {s : State} (h : s.mem.wf) (loc : Nat) (l : List ((Nat × Nat) × Place)) : Ran Prod.fst (s.readSpots loc l) := by
  unfold State.readSpots
  repeat' first
    | (with_reducible first
       | assumption | intro _ | apply wf_ite | apply wf_ite_fst | apply ran_ite | apply wf_waits | apply wf_remote
       | apply wf_remoteAll | apply wf_trap | apply ran_ok | apply ran_ok_fst | apply ran_error | apply ran_ran
       | refine ran_bind (f := Prod.fst) ?_ ?_ | refine ran_bind (f := fun s => s) ?_ ?_ | refine ran_bind_stops ?_ ?_
       | refine of_fst ?_ (by assumption))
    | split | dsimp only

theorem wf_wrHalves {s : State} (h : s.mem.wf) (p : Phys) (bs : List Byte) : (s.wrHalves p bs).mem.wf := by
  unfold State.wrHalves
  repeat' first
    | (with_reducible first
       | assumption | intro _ | apply wf_ite | apply wf_ite_fst | apply wf_drop | apply wf_wrFor)
    | split | dsimp only

theorem wf_writeSpots {s : State} (h : s.mem.wf) (l : List ((Nat × Nat) × Place)) (bs : List Byte) : (s.writeSpots l bs).mem.wf := by
  induction l generalizing s bs with
  | nil =>
    unfold State.writeSpots
    repeat' first
      | (with_reducible first
         | assumption | intro _ | apply wf_ite | apply wf_ite_fst | apply wf_drop | apply wf_noteStore
         | apply wf_wrHalves)
      | split | dsimp only
  | cons x r ih =>
    unfold State.writeSpots
    repeat' first
      | (with_reducible first
         | assumption | intro _ | apply wf_ite | apply wf_ite_fst | apply ih | apply wf_drop | apply wf_noteStore
         | apply wf_wrHalves)
      | split | dsimp only

theorem wf_execKvapp {s : State} (h : s.mem.wf) (o : CFmt) : Leaves (execKvapp o s) := by
  unfold execKvapp
  repeat' first
    | (with_reducible first
       | assumption | intro _ | apply wf_ite | apply wf_ite_fst | apply leaves_next | apply wf_remote | apply wf_trap
       | apply wf_guardedFor | apply wf_getWord | apply wf_putWord | apply wf_getDesc | apply wf_updatable
       | apply wf_ordered | apply wf_spots | apply wf_readSpots | apply wf_writeSpots | apply ran_ok | apply ran_ok_fst
       | apply ran_error | apply ran_ran | refine ran_bind (f := Prod.fst) ?_ ?_ | refine ran_bind (f := fun s => s) ?_ ?_
       | refine ran_bind_stops ?_ ?_ | refine of_fst ?_ (by assumption) | refine of_ok_fst ?_ (by assumption)
       | refine of_error (f := Prod.fst) ?_ (by assumption) | refine of_ok ?_ (by assumption)
       | refine of_error (f := fun s => s) ?_ (by assumption))
    | split | dsimp only

theorem wf_touchedPages {s : State} (h : s.mem.wf) (ds : Desc) (hd new n pg : Nat) : Ran Prod.fst (s.touchedPages ds hd new n pg) := by
  induction n generalizing s pg with
  | zero =>
    unfold State.touchedPages
    repeat' first
      | (with_reducible first
         | assumption | intro _ | apply wf_ite | apply wf_ite_fst | apply ran_ite | apply wf_getWord | apply ran_ok
         | apply ran_ok_fst | apply ran_error | apply ran_ran | refine ran_bind (f := Prod.fst) ?_ ?_
         | refine ran_bind (f := fun s => s) ?_ ?_ | refine ran_bind_stops ?_ ?_ | refine ran_map (f := Prod.fst) ?_ ?_
         | refine ran_map (f := fun s => s) ?_ ?_ | refine of_ok_fst ?_ (by assumption)
         | refine of_error (f := Prod.fst) ?_ (by assumption))
      | split | dsimp only
  | succ n ih =>
    unfold State.touchedPages
    repeat' first
      | (with_reducible first
         | assumption | intro _ | apply wf_ite | apply wf_ite_fst | apply ran_ite | apply ih | apply wf_getWord | apply ran_ok
         | apply ran_ok_fst | apply ran_error | apply ran_ran | refine ran_bind (f := Prod.fst) ?_ ?_
         | refine ran_bind (f := fun s => s) ?_ ?_ | refine ran_bind_stops ?_ ?_ | refine ran_map (f := Prod.fst) ?_ ?_
         | refine ran_map (f := fun s => s) ?_ ?_ | refine of_ok_fst ?_ (by assumption)
         | refine of_error (f := Prod.fst) ?_ (by assumption))
      | split | dsimp only

theorem wf_touchedHeads {s : State} (h : s.mem.wf) (ds : Desc) (new n hd : Nat) : Ran Prod.fst (s.touchedHeads ds new n hd) := by
  induction n generalizing s hd with
  | zero =>
    unfold State.touchedHeads
    repeat' first
      | (with_reducible first
         | assumption | intro _ | apply wf_ite | apply wf_ite_fst | apply ran_ite | apply wf_touchedPages
         | apply ran_ok | apply ran_ok_fst | apply ran_error | apply ran_ran | refine ran_bind (f := Prod.fst) ?_ ?_
         | refine ran_bind (f := fun s => s) ?_ ?_ | refine ran_bind_stops ?_ ?_ | refine ran_map (f := Prod.fst) ?_ ?_
         | refine ran_map (f := fun s => s) ?_ ?_ | refine of_ok_fst ?_ (by assumption)
         | refine of_error (f := Prod.fst) ?_ (by assumption))
      | split | dsimp only
  | succ n ih =>
    unfold State.touchedHeads
    repeat' first
      | (with_reducible first
         | assumption | intro _ | apply wf_ite | apply wf_ite_fst | apply ran_ite | apply ih | apply wf_touchedPages
         | apply ran_ok | apply ran_ok_fst | apply ran_error | apply ran_ran | refine ran_bind (f := Prod.fst) ?_ ?_
         | refine ran_bind (f := fun s => s) ?_ ?_ | refine ran_bind_stops ?_ ?_ | refine ran_map (f := Prod.fst) ?_ ?_
         | refine ran_map (f := fun s => s) ?_ ?_ | refine of_ok_fst ?_ (by assumption)
         | refine of_error (f := Prod.fst) ?_ (by assumption))
      | split | dsimp only

theorem wf_releaseSlot {s : State} (h : s.mem.wf) (x : Nat × Nat × Bool) : (s.releaseSlot x).mem.wf := by
  unfold State.releaseSlot
  repeat' first
    | (with_reducible first
       | assumption | intro _ | apply wf_ite | apply wf_ite_fst | apply wf_putWord)
    | split | dsimp only

theorem wf_execKvcmt {s : State} (h : s.mem.wf) (o : CFmt) : Leaves (execKvcmt o s) := by
  unfold execKvcmt
  repeat' first
    | (with_reducible first
       | assumption | intro _ | apply wf_ite | apply wf_ite_fst | apply leaves_next | apply wf_modMe | apply wf_fill
       | apply wf_guardedFor | apply wf_getWord | apply wf_putWord | apply wf_getDesc | apply wf_updatable
       | apply wf_ordered | apply wf_touchedHeads | apply wf_releaseSlot | apply ran_ok | apply ran_ok_fst | apply ran_error
       | apply ran_ran | refine ran_bind (f := Prod.fst) ?_ ?_ | refine ran_bind (f := fun s => s) ?_ ?_
       | refine ran_bind_stops ?_ ?_ | apply wf_foldl | refine ran_map (f := Prod.fst) ?_ ?_
       | refine ran_map (f := fun s => s) ?_ ?_ | apply wf_foldl_fst | refine of_ok_fst ?_ (by assumption)
       | refine of_error (f := Prod.fst) ?_ (by assumption) | refine of_ok ?_ (by assumption)
       | refine of_error (f := fun s => s) ?_ (by assumption))
    | split | dsimp only

theorem wf_specPages {s : State} (h : s.mem.wf) (ds : Desc) (hd n pg : Nat) : Ran Prod.fst (s.specPages ds hd n pg) := by
  induction n generalizing s pg with
  | zero =>
    unfold State.specPages
    repeat' first
      | (with_reducible first
         | assumption | intro _ | apply wf_ite | apply wf_ite_fst | apply ran_ite | apply wf_getWord | apply ran_ok
         | apply ran_ok_fst | apply ran_error | apply ran_ran | refine ran_bind (f := Prod.fst) ?_ ?_
         | refine ran_bind (f := fun s => s) ?_ ?_ | refine ran_bind_stops ?_ ?_ | refine of_ok_fst ?_ (by assumption)
         | refine of_error (f := Prod.fst) ?_ (by assumption))
      | split | dsimp only
  | succ n ih =>
    unfold State.specPages
    repeat' first
      | (with_reducible first
         | assumption | intro _ | apply wf_ite | apply wf_ite_fst | apply ran_ite | apply ih | apply wf_getWord | apply ran_ok
         | apply ran_ok_fst | apply ran_error | apply ran_ran | refine ran_bind (f := Prod.fst) ?_ ?_
         | refine ran_bind (f := fun s => s) ?_ ?_ | refine ran_bind_stops ?_ ?_ | refine of_ok_fst ?_ (by assumption)
         | refine of_error (f := Prod.fst) ?_ (by assumption))
      | split | dsimp only

theorem wf_specHeads {s : State} (h : s.mem.wf) (ds : Desc) (n hd : Nat) : Ran Prod.fst (s.specHeads ds n hd) := by
  induction n generalizing s hd with
  | zero =>
    unfold State.specHeads
    repeat' first
      | (with_reducible first
         | assumption | intro _ | apply wf_ite | apply wf_ite_fst | apply ran_ite | apply wf_getWord
         | apply wf_specPages | apply ran_ok | apply ran_ok_fst | apply ran_error | apply ran_ran
         | refine ran_bind (f := Prod.fst) ?_ ?_ | refine ran_bind (f := fun s => s) ?_ ?_ | refine ran_bind_stops ?_ ?_
         | refine ran_map (f := Prod.fst) ?_ ?_ | refine ran_map (f := fun s => s) ?_ ?_ | refine of_ok_fst ?_ (by assumption)
         | refine of_error (f := Prod.fst) ?_ (by assumption))
      | split | dsimp only
  | succ n ih =>
    unfold State.specHeads
    repeat' first
      | (with_reducible first
         | assumption | intro _ | apply wf_ite | apply wf_ite_fst | apply ran_ite | apply ih | apply wf_getWord
         | apply wf_specPages | apply ran_ok | apply ran_ok_fst | apply ran_error | apply ran_ran
         | refine ran_bind (f := Prod.fst) ?_ ?_ | refine ran_bind (f := fun s => s) ?_ ?_ | refine ran_bind_stops ?_ ?_
         | refine ran_map (f := Prod.fst) ?_ ?_ | refine ran_map (f := fun s => s) ?_ ?_ | refine of_ok_fst ?_ (by assumption)
         | refine of_error (f := Prod.fst) ?_ (by assumption))
      | split | dsimp only

theorem wf_execKvrej {s : State} (h : s.mem.wf) (o : CFmt) : Leaves (execKvrej o s) := by
  unfold execKvrej
  repeat' first
    | (with_reducible first
       | assumption | intro _ | apply wf_ite | apply wf_ite_fst | apply leaves_next | apply wf_guardedFor | apply wf_putWord
       | apply wf_getDesc | apply wf_updatable | apply wf_ordered | apply wf_specHeads | apply ran_ok | apply ran_ok_fst
       | apply ran_error | apply ran_ran | refine ran_bind (f := Prod.fst) ?_ ?_ | refine ran_bind (f := fun s => s) ?_ ?_
       | refine ran_bind_stops ?_ ?_ | apply wf_foldl | refine ran_map (f := Prod.fst) ?_ ?_
       | refine ran_map (f := fun s => s) ?_ ?_ | apply wf_foldl_fst | refine of_ok_fst ?_ (by assumption)
       | refine of_error (f := Prod.fst) ?_ (by assumption) | refine of_ok ?_ (by assumption)
       | refine of_error (f := fun s => s) ?_ (by assumption))
    | split | dsimp only

theorem wf_execSctch {s : State} (h : s.mem.wf) (o : CFmt) : Leaves (execSctch o s) := by
  unfold execSctch
  repeat' first
    | (with_reducible first
       | assumption | intro _ | apply wf_ite | apply wf_ite_fst | apply leaves_next | apply wf_guardedCtx
       | apply wf_touchStc | apply wf_status | refine of_fst ?_ (by assumption))
    | split | dsimp only

theorem wf_execScld {s : State} (h : s.mem.wf) (o : CFmt) : Leaves (execScld o s) := by
  unfold execScld
  repeat' first
    | (with_reducible first
       | assumption | intro _ | apply wf_ite | apply wf_ite_fst | apply leaves_next | apply wf_waits | apply wf_guardedCtx
       | apply wf_touchStc | apply wf_status | refine of_fst ?_ (by assumption))
    | split | dsimp only

theorem wf_execScev {s : State} (h : s.mem.wf) (o : CFmt) : Leaves (execScev o s) := by
  unfold execScev
  repeat' first
    | (with_reducible first
       | assumption | intro _ | apply wf_ite | apply wf_ite_fst | apply leaves_next | apply wf_guardedCtx | apply wf_evict
       | apply wf_status)
    | split | dsimp only

theorem wf_execScqry {s : State} (h : s.mem.wf) (o : CFmt) : Leaves (execScqry o s) := by
  unfold execScqry
  repeat' first
    | (with_reducible first
       | assumption | intro _ | apply wf_ite | apply wf_ite_fst | apply leaves_next | apply wf_setG | apply wf_advance
       | apply wf_guardedCtx)
    | split | dsimp only

theorem wf_execSpacc {s : State} (h : s.mem.wf) (o : CFmt) : Leaves (execSpacc o s) := by
  unfold execSpacc
  repeat' first
    | (with_reducible first
       | assumption | intro _ | apply wf_ite | apply wf_ite_fst | apply leaves_next | apply wf_guardedCtx
       | apply wf_addFlags | apply wf_status)
    | split | dsimp only

theorem wf_execSpres {s : State} (h : s.mem.wf) (o : CFmt) : Leaves (execSpres o s) := by
  unfold execSpres
  repeat' first
    | (with_reducible first
       | assumption | intro _ | apply wf_ite | apply wf_ite_fst | apply leaves_next | apply wf_guardedCtx
       | apply wf_waitLink | apply wf_addFlags | apply wf_status | apply wf_foldl | apply wf_foldl_fst)
    | split | dsimp only

theorem wf_execTrpub {s : State} (h : s.mem.wf) (o : CFmt) : Leaves (execTrpub o s) := by
  unfold execTrpub
  repeat' first
    | (with_reducible first
       | assumption | intro _ | apply wf_ite | apply wf_ite_fst | apply leaves_next | apply wf_wr | apply wf_waitLink
       | apply wf_noteStore | apply wf_guardedFor | apply wf_spot | apply wf_getLine | apply wf_status | apply wf_spots
       | apply wf_writeSpots | apply ran_ok | apply ran_ok_fst | apply ran_error | apply ran_ran
       | refine ran_bind (f := Prod.fst) ?_ ?_ | refine ran_bind (f := fun s => s) ?_ ?_ | refine ran_bind_stops ?_ ?_
       | refine ran_map (f := Prod.fst) ?_ ?_ | refine ran_map (f := fun s => s) ?_ ?_ | refine of_ok_fst ?_ (by assumption)
       | refine of_error (f := Prod.fst) ?_ (by assumption))
    | split | dsimp only

theorem wf_execLaunch {s : State} (h : s.mem.wf) (o : CFmt) : Leaves (execLaunch o s) := by
  unfold execLaunch
  repeat' first
    | (with_reducible first
       | assumption | intro _ | apply wf_ite | apply wf_ite_fst | apply leaves_next | apply wf_modQueue | apply wf_postTake
       | apply wf_guardedFor | apply wf_status | apply wf_spots | apply wf_readSpots | apply ran_ok | apply ran_ok_fst
       | apply ran_error | apply ran_ran | refine ran_bind (f := Prod.fst) ?_ ?_ | refine ran_bind (f := fun s => s) ?_ ?_
       | refine ran_bind_stops ?_ ?_ | refine of_ok_fst ?_ (by assumption)
       | refine of_error (f := Prod.fst) ?_ (by assumption))
    | split | dsimp only

theorem wf_execTrap {s : State} (h : s.mem.wf) (o : CFmt) : Leaves (execTrap o s) := by
  unfold execTrap
  repeat' first
    | (with_reducible first
       | assumption | intro _ | apply wf_ite | apply wf_ite_fst | apply leaves_next | apply wf_trap | apply wf_guarded)
    | split | dsimp only

theorem wf_execBkpt {s : State} (h : s.mem.wf) (o : CFmt) : Leaves (execBkpt o s) := by
  unfold execBkpt
  repeat' first
    | (with_reducible first
       | assumption | intro _ | apply wf_ite | apply wf_ite_fst | apply leaves_next | apply wf_trap | apply wf_guarded)
    | split | dsimp only

theorem wf_execEret {s : State} (h : s.mem.wf) (o : CFmt) : Leaves (execEret o s) := by
  unfold execEret
  repeat' first
    | (with_reducible first
       | assumption | intro _ | apply wf_ite | apply wf_ite_fst | apply leaves_next | apply wf_modCore | apply wf_advance
       | apply wf_waits | apply wf_settle | apply wf_illegal | apply wf_guarded | apply wf_eretCtx)
    | split | dsimp only

theorem wf_csrOp {s : State} (h : s.mem.wf) (o : CFmt) (write : Bool) (k : Nat → State → State) (hk : ∀ x0 (t : State), t.mem.wf → (k x0 t).mem.wf) : (s.csrOp o write k).mem.wf := by
  unfold State.csrOp
  repeat' first
    | (with_reducible first
       | assumption | intro _ | apply wf_ite | apply wf_ite_fst | apply hk | apply wf_waits | apply wf_settle
       | apply wf_trap | apply wf_illegal | apply wf_guarded)
    | split | dsimp only

theorem wf_execCsrr {s : State} (h : s.mem.wf) (o : CFmt) : Leaves (execCsrr o s) := by
  unfold execCsrr
  repeat' first
    | (with_reducible first
       | assumption | intro _ | apply wf_ite | apply wf_ite_fst | apply leaves_next | apply wf_setG | apply wf_advance
       | apply wf_csrOp)
    | split | dsimp only

theorem wf_csrWrite {s : State} (h : s.mem.wf) (o : CFmt) (f g : Word → Word → Word) : (s.csrWrite o f g).mem.wf := by
  unfold State.csrWrite
  repeat' first
    | (with_reducible first
       | assumption | intro _ | apply wf_ite | apply wf_ite_fst | apply wf_setG | apply wf_advance | apply wf_writeCsr
       | apply wf_csrOp)
    | split | dsimp only

theorem wf_execCsrw {s : State} (h : s.mem.wf) (o : CFmt) : Leaves (execCsrw o s) := by
  unfold execCsrw
  repeat' first
    | (with_reducible first
       | assumption | intro _ | apply wf_ite | apply wf_ite_fst | apply leaves_next | apply wf_csrWrite)
    | split | dsimp only

theorem wf_execCsrs {s : State} (h : s.mem.wf) (o : CFmt) : Leaves (execCsrs o s) := by
  unfold execCsrs
  repeat' first
    | (with_reducible first
       | assumption | intro _ | apply wf_ite | apply wf_ite_fst | apply leaves_next | apply wf_csrWrite)
    | split | dsimp only

theorem wf_execCsrc {s : State} (h : s.mem.wf) (o : CFmt) : Leaves (execCsrc o s) := by
  unfold execCsrc
  repeat' first
    | (with_reducible first
       | assumption | intro _ | apply wf_ite | apply wf_ite_fst | apply leaves_next | apply wf_csrWrite)
    | split | dsimp only

theorem wf_execTime {s : State} (h : s.mem.wf) (o : CFmt) : Leaves (execTime o s) := by
  unfold execTime
  repeat' first
    | (with_reducible first
       | assumption | intro _ | apply wf_ite | apply wf_ite_fst | apply leaves_next | apply wf_setG | apply wf_advance
       | apply wf_guarded)
    | split | dsimp only

theorem wf_execWaitt {s : State} (h : s.mem.wf) (o : CFmt) : Leaves (execWaitt o s) := by
  unfold execWaitt
  repeat' first
    | (with_reducible first
       | assumption | intro _ | apply wf_ite | apply wf_ite_fst | apply leaves_next | apply wf_advance | apply wf_waits
       | apply wf_post | apply wf_guarded)
    | split | dsimp only

theorem wf_execWaittExpiry {s : State} (h : s.mem.wf) : Leaves (execWaittExpiry s) := by
  unfold execWaittExpiry
  repeat' first
    | (with_reducible first
       | assumption | intro _ | apply wf_ite | apply wf_ite_fst | apply leaves_next | apply wf_modHartOf | apply wf_post)
    | split | dsimp only

theorem wf_execBar {s : State} (h : s.mem.wf) (o : CFmt) : Leaves (execBar o s) := by
  unfold execBar
  repeat' first
    | (with_reducible first
       | assumption | intro _ | apply wf_ite | apply wf_ite_fst | apply leaves_next | apply wf_modCtx | apply wf_modSlot
       | apply wf_advance | apply wf_waits | apply wf_guardedCtx | apply wf_orderLate | apply wf_foldl | apply wf_foldl_fst)
    | split | dsimp only

theorem wf_areaSpots {s : State} (h : s.mem.wf) (o : CFmt) (a : Acc) : Ran Prod.fst (s.areaSpots o a) := by
  unfold State.areaSpots
  repeat' first
    | (with_reducible first
       | assumption | intro _ | apply wf_ite | apply wf_ite_fst | apply ran_ite | apply wf_trap | apply wf_spots
       | apply ran_ok | apply ran_ok_fst | apply ran_error | apply ran_ran | refine ran_bind (f := Prod.fst) ?_ ?_
       | refine ran_bind (f := fun s => s) ?_ ?_ | refine ran_bind_stops ?_ ?_ | refine of_ok_fst ?_ (by assumption)
       | refine of_error (f := Prod.fst) ?_ (by assumption))
    | split | dsimp only

theorem wf_execCtxsv {s : State} (h : s.mem.wf) (o : CFmt) : Leaves (execCtxsv o s) := by
  unfold execCtxsv
  repeat' first
    | (with_reducible first
       | assumption | intro _ | apply wf_ite | apply wf_ite_fst | apply leaves_next | apply wf_advance | apply wf_waits
       | apply wf_settle | apply wf_guardedSup | apply wf_writeSpots | apply wf_areaSpots | apply ran_ok | apply ran_ok_fst
       | apply ran_error | apply ran_ran | refine ran_bind (f := Prod.fst) ?_ ?_ | refine ran_bind (f := fun s => s) ?_ ?_
       | refine ran_bind_stops ?_ ?_ | refine of_ok_fst ?_ (by assumption)
       | refine of_error (f := Prod.fst) ?_ (by assumption))
    | split | dsimp only

theorem wf_execCtxld {s : State} (h : s.mem.wf) (o : CFmt) : Leaves (execCtxld o s) := by
  unfold execCtxld
  repeat' first
    | (with_reducible first
       | assumption | intro _ | apply wf_ite | apply wf_ite_fst | apply leaves_next | apply wf_modMe | apply wf_drop
       | apply wf_trap | apply wf_guardedSup | apply wf_postSettles | apply wf_load | apply wf_readSpots
       | apply wf_areaSpots | apply ran_ok | apply ran_ok_fst | apply ran_error | apply ran_ran
       | refine ran_bind (f := Prod.fst) ?_ ?_ | refine ran_bind (f := fun s => s) ?_ ?_ | refine ran_bind_stops ?_ ?_
       | refine of_ok_fst ?_ (by assumption) | refine of_error (f := Prod.fst) ?_ (by assumption))
    | split | dsimp only

theorem wf_tlbi {s : State} (h : s.mem.wf) (o : CFmt) (f : State → TlbEntry → Bool) : (s.tlbi o f).mem.wf := by
  unfold State.tlbi
  repeat' first
    | (with_reducible first
       | assumption | intro _ | apply wf_ite | apply wf_ite_fst | apply wf_advance | apply wf_guardedSup
       | apply wf_orderLate)
    | split | dsimp only

theorem wf_execTlbiAll {s : State} (h : s.mem.wf) (o : CFmt) : Leaves (execTlbiAll o s) := by
  unfold execTlbiAll
  repeat' first
    | (with_reducible first
       | assumption | intro _ | apply wf_ite | apply wf_ite_fst | apply leaves_next | apply wf_tlbi)
    | split | dsimp only

theorem wf_execTlbiAsid {s : State} (h : s.mem.wf) (o : CFmt) : Leaves (execTlbiAsid o s) := by
  unfold execTlbiAsid
  repeat' first
    | (with_reducible first
       | assumption | intro _ | apply wf_ite | apply wf_ite_fst | apply leaves_next | apply wf_tlbi)
    | split | dsimp only

theorem wf_execTlbiVa {s : State} (h : s.mem.wf) (o : CFmt) : Leaves (execTlbiVa o s) := by
  unfold execTlbiVa
  repeat' first
    | (with_reducible first
       | assumption | intro _ | apply wf_ite | apply wf_ite_fst | apply leaves_next | apply wf_tlbi)
    | split | dsimp only

theorem wf_execTlbiVall {s : State} (h : s.mem.wf) (o : CFmt) : Leaves (execTlbiVall o s) := by
  unfold execTlbiVall
  repeat' first
    | (with_reducible first
       | assumption | intro _ | apply wf_ite | apply wf_ite_fst | apply leaves_next | apply wf_tlbi)
    | split | dsimp only

theorem wf_execCfgld {s : State} (h : s.mem.wf) (o : CFmt) : Leaves (execCfgld o s) := by
  unfold execCfgld
  repeat' first
    | (with_reducible first
       | assumption | intro _ | apply wf_ite | apply wf_ite_fst | refine of_loads ?_ (by assumption) | apply leaves_next
       | apply wf_waits | apply wf_settle | apply wf_trap | apply wf_guardedSup | apply wf_loadConfig | apply wf_load
       | apply wf_status)
    | split | dsimp only

theorem wf_execTrgld {s : State} (h : s.mem.wf) (o : CFmt) : Leaves (execTrgld o s) := by
  unfold execTrgld
  repeat' first
    | (with_reducible first
       | assumption | intro _ | apply wf_ite | apply wf_ite_fst | apply leaves_next | apply wf_modMyTile | apply wf_post
       | apply wf_guardedSup | apply wf_status | apply wf_spots | apply wf_readSpots | apply ran_ok | apply ran_ok_fst
       | apply ran_error | apply ran_ran | refine ran_bind (f := Prod.fst) ?_ ?_ | refine ran_bind (f := fun s => s) ?_ ?_
       | refine ran_bind_stops ?_ ?_ | refine of_ok_fst ?_ (by assumption)
       | refine of_error (f := Prod.fst) ?_ (by assumption))
    | split | dsimp only

theorem wf_execHalt {s : State} (h : s.mem.wf) (o : CFmt) : Leaves (execHalt o s) := by
  unfold execHalt
  repeat' first
    | (with_reducible first
       | assumption | intro _ | apply wf_ite | apply wf_ite_fst | apply leaves_next | apply wf_advance | apply wf_waits
       | apply wf_guardedSup)
    | split | dsimp only

end Sys2Proof.Laws
end

