-- ==== Sys2Proof/Laws/FormAgents.lean ====
section
/-! SUPPORT. The memory's canonical form (O51) is kept by the loops, the junctions, the frames' records and the schedulers: one lemma for each. -/

namespace Sys2Proof.Laws

open Sys2Proof.Machine

theorem wf_enter {s : State} (h : s.mem.wf) (e : Entrant) (g : Leg) (turned : Option Bool) : (s.enter e g turned).mem.wf := by
  unfold State.enter
  repeat' first
    | (with_reducible first
       | assumption | intro _ | apply wf_ite | apply wf_ite_fst | apply wf_post | apply wf_fresh
       | refine of_fst ?_ (by assumption))
    | split | dsimp only

theorem wf_modTransit {s : State} (h : s.mem.wf) (id : Nat) (f : Transit → Transit) : (s.modTransit id f).mem.wf := by
  unfold State.modTransit
  repeat' first
    | (with_reducible first
       | assumption | intro _ | apply wf_ite | apply wf_ite_fst)
    | split | dsimp only

theorem wf_berthFreed {s : State} (h : s.mem.wf) (t : Transit) : (s.berthFreed t).mem.wf := by
  unfold State.berthFreed
  repeat' first
    | (with_reducible first
       | assumption | intro _ | apply wf_ite | apply wf_ite_fst)
    | split | dsimp only

theorem wf_takeOff {s : State} (h : s.mem.wf) (t : Transit) : (s.takeOff t).mem.wf := by
  unfold State.takeOff
  repeat' first
    | (with_reducible first
       | assumption | intro _ | apply wf_ite | apply wf_ite_fst | apply wf_berthFreed)
    | split | dsimp only

theorem wf_postHop {s : State} (h : s.mem.wf) (id : Nat) : (s.postHop id).mem.wf := by
  unfold State.postHop
  repeat' first
    | (with_reducible first
       | assumption | intro _ | apply wf_ite | apply wf_ite_fst | apply wf_post)
    | split | dsimp only

theorem wf_lose {s : State} (h : s.mem.wf) (h : Here) (fault : Bool) (aq : Nat) (c : Coach) : (s.lose h fault aq c).mem.wf := by
  unfold State.lose
  repeat' first
    | (with_reducible first
       | assumption | intro _ | apply wf_ite | apply wf_ite_fst | apply wf_side | apply wf_kdrop)
    | split | dsimp only

theorem wf_passBy {s : State} (h : s.mem.wf) (t : Transit) : (s.passBy t).mem.wf := by
  unfold State.passBy
  repeat' first
    | (with_reducible first
       | assumption | intro _ | apply wf_ite | apply wf_ite_fst | apply wf_fresh | apply wf_modTransit | apply wf_postHop
       | refine of_fst ?_ (by assumption))
    | split | dsimp only

theorem wf_goOn {s : State} (h : s.mem.wf) (t : Transit) (e : Entrant) : (s.goOn t e).mem.wf := by
  unfold State.goOn
  repeat' first
    | (with_reducible first
       | assumption | intro _ | apply wf_ite | apply wf_ite_fst | apply wf_enter | apply wf_modTransit | apply wf_takeOff
       | apply wf_postHop | apply wf_passBy)
    | split | dsimp only

theorem wf_passOn {s : State} (h : s.mem.wf) (t : Transit) : (s.passOn t).mem.wf := by
  unfold State.passOn
  repeat' first
    | (with_reducible first
       | assumption | intro _ | apply wf_ite | apply wf_ite_fst | apply wf_takeOff | apply wf_lose | apply wf_goOn)
    | split | dsimp only

theorem wf_modLink {s : State} (h : s.mem.wf) (down : Bool) (f : PodLink → PodLink) : (s.modLink down f).mem.wf := by
  unfold State.modLink
  repeat' first
    | (with_reducible first
       | assumption | intro _ | apply wf_ite | apply wf_ite_fst)
    | split | dsimp only

theorem wf_sendFrame {s : State} (h : s.mem.wf) (down : Bool) (f : FrameIn) : (s.sendFrame down f).mem.wf := by
  unfold State.sendFrame
  repeat' first
    | (with_reducible first
       | assumption | intro _ | apply wf_ite | apply wf_ite_fst | apply wf_emit | apply wf_modLink)
    | split | dsimp only

theorem wf_sendData {s : State} (h : s.mem.wf) (down : Bool) (flits : List (List Byte)) : (s.sendData down flits).mem.wf := by
  unfold State.sendData
  repeat' first
    | (with_reducible first
       | assumption | intro _ | apply wf_ite | apply wf_ite_fst | apply wf_post | apply wf_link | apply wf_modLink
       | apply wf_sendFrame)
    | split | dsimp only

theorem wf_overLink {s : State} (h : s.mem.wf) (t : Transit) : (s.overLink t).mem.wf := by
  unfold State.overLink
  repeat' first
    | (with_reducible first
       | assumption | intro _ | apply wf_ite | apply wf_ite_fst | apply wf_takeOff | apply wf_modLink | apply wf_sendData
       | apply wf_foldl | apply wf_foldl_fst)
    | split | dsimp only

theorem wf_podAway {s : State} (h : s.mem.wf) (t : Transit) : (s.podAway t).mem.wf := by
  unfold State.podAway
  repeat' first
    | (with_reducible first
       | assumption | intro _ | apply wf_ite | apply wf_ite_fst | apply wf_enter | apply wf_takeOff | apply wf_postHop
       | apply wf_overLink)
    | split | dsimp only

theorem wf_turnBack {s : State} (h : s.mem.wf) (t : Transit) : (s.turnBack t).mem.wf := by
  unfold State.turnBack
  repeat' first
    | (with_reducible first
       | assumption | intro _ | apply wf_ite | apply wf_ite_fst | apply wf_berthFreed | apply wf_postHop)
    | split | dsimp only

theorem wf_waitHere {s : State} (h : s.mem.wf) (t : Transit) : (s.waitHere t).mem.wf := by
  unfold State.waitHere
  repeat' first
    | (with_reducible first
       | assumption | intro _ | apply wf_ite | apply wf_ite_fst | apply wf_postHop)
    | split | dsimp only

theorem wf_podHop {s : State} (h : s.mem.wf) (t : Transit) : (s.podHop t).mem.wf := by
  unfold State.podHop
  repeat' first
    | (with_reducible first
       | assumption | intro _ | apply wf_ite | apply wf_ite_fst | apply wf_passBy | apply wf_goOn | apply wf_podAway
       | apply wf_turnBack | apply wf_waitHere)
    | split | dsimp only

theorem wf_moveOn {s : State} (h : s.mem.wf) (t : Transit) : (s.moveOn t).mem.wf := by
  unfold State.moveOn
  repeat' first
    | (with_reducible first
       | assumption | intro _ | apply wf_ite | apply wf_ite_fst | apply wf_postHop)
    | split | dsimp only

theorem wf_dropBad {s : State} (h : s.mem.wf) (h : Here) : (s.dropBad h).mem.wf := by
  unfold State.dropBad
  repeat' first
    | (with_reducible first
       | assumption | intro _ | apply wf_ite | apply wf_ite_fst | apply wf_inform | apply wf_kdrop)
    | split | dsimp only

theorem wf_hop {s : State} (h : s.mem.wf) (t : Transit) : (s.hop t).mem.wf := by
  unfold State.hop
  repeat' first
    | (with_reducible first
       | assumption | intro _ | apply wf_ite | apply wf_ite_fst | apply wf_post | apply wf_reduce | apply wf_takeOff
       | apply wf_postHop | apply wf_passBy | apply wf_goOn | apply wf_passOn | apply wf_podHop | apply wf_moveOn
       | apply wf_dropBad)
    | split | dsimp only

theorem wf_takeIn {s : State} (h : s.mem.wf) (h : Here) (l : List Entrant) : (s.takeIn h l).1.mem.wf := by
  unfold State.takeIn
  repeat' first
    | (with_reducible first
       | assumption | intro _ | apply wf_ite | apply wf_ite_fst | apply wf_enter)
    | split | dsimp only

theorem wf_enterOut {s : State} (h : s.mem.wf) (j : Nat) (l : List (Entrant × Option Nat)) (taken : List Leg) : (s.enterOut j l taken).1.mem.wf := by
  induction l generalizing s taken with
  | nil =>
    unfold State.enterOut
    repeat' first
      | (with_reducible first
         | assumption | intro _ | apply wf_ite | apply wf_ite_fst | apply wf_modJunc | apply wf_post
         | apply wf_enter | refine of_fst ?_ (by assumption))
      | split | dsimp only
  | cons x r ih =>
    unfold State.enterOut
    repeat' first
      | (with_reducible first
         | assumption | intro _ | apply wf_ite | apply wf_ite_fst | apply ih | apply wf_modJunc | apply wf_post
         | apply wf_enter | refine of_fst ?_ (by assumption))
      | split | dsimp only

theorem wf_leaveJunction {s : State} (h : s.mem.wf) (j : Nat) : (s.leaveJunction j).mem.wf := by
  unfold State.leaveJunction
  repeat' first
    | (with_reducible first
       | assumption | intro _ | apply wf_ite | apply wf_ite_fst | apply wf_modJunc | apply wf_post | apply wf_enterOut
       | refine of_fst ?_ (by assumption))
    | split | dsimp only

theorem wf_leaveTile {s : State} (h : s.mem.wf) (k d t : Nat) : (s.leaveTile k d t).mem.wf := by
  unfold State.leaveTile
  repeat' first
    | (with_reducible first
       | assumption | intro _ | apply wf_ite | apply wf_ite_fst | apply wf_modTile | apply wf_post | apply wf_takeIn
       | refine of_fst ?_ (by assumption))
    | split | dsimp only

theorem wf_leaveLink {s : State} (h : s.mem.wf) (down : Bool) : (s.leaveLink down).mem.wf := by
  unfold State.leaveLink
  repeat' first
    | (with_reducible first
       | assumption | intro _ | apply wf_ite | apply wf_ite_fst | apply wf_post | apply wf_fresh | apply wf_link
       | apply wf_postHop | apply wf_modLink | refine of_fst ?_ (by assumption))
    | split | dsimp only

theorem wf_execCoachHop {s : State} (h : s.mem.wf) : Leaves (execCoachHop s) := by
  unfold execCoachHop
  repeat' first
    | (with_reducible first
       | assumption | intro _ | apply wf_ite | apply wf_ite_fst | apply leaves_next | apply wf_hop | apply wf_leaveJunction
       | apply wf_leaveTile | apply wf_leaveLink)
    | split | dsimp only

theorem wf_intoQueue {s : State} (h : s.mem.wf) (d t aq : Nat) (c : Coach) : (s.intoQueue d t aq c).mem.wf := by
  unfold State.intoQueue
  repeat' first
    | (with_reducible first
       | assumption | intro _ | apply wf_ite | apply wf_ite_fst | apply wf_modTile | apply wf_post)
    | split | dsimp only

theorem wf_recordExit {s : State} (h : s.mem.wf) (d i x : Nat) : (s.recordExit d i x).mem.wf := by
  unfold State.recordExit
  repeat' first
    | (with_reducible first
       | assumption | intro _ | apply wf_ite | apply wf_ite_fst | apply wf_modSlot | apply wf_fireAll)
    | split | dsimp only

theorem wf_deliverAs {s : State} (h : s.mem.wf) (t : Transit) (d k : Nat) (act : State → State) (hact : ∀ (t : State), t.mem.wf → (act t).mem.wf) : (s.deliverAs t d k act).mem.wf := by
  unfold State.deliverAs
  repeat' first
    | (with_reducible first
       | assumption | intro _ | apply wf_ite | apply wf_ite_fst | apply hact | apply wf_takeOff | apply wf_lose
       | apply wf_passBy | apply wf_goOn)
    | split | dsimp only

theorem wf_deliver {s : State} (h : s.mem.wf) (t : Transit) (d k : Nat) : (s.deliver t d k).mem.wf := by
  unfold State.deliver
  repeat' first
    | (with_reducible first
       | assumption | intro _ | apply wf_ite | apply wf_ite_fst | apply wf_post | apply wf_side | apply wf_kdrop
       | apply wf_passBy | apply wf_intoQueue | apply wf_deliverAs)
    | split | dsimp only

theorem wf_atAct {s : State} (h : s.mem.wf) (id act : Nat) (k : Transit → State) (hk : ∀ x0, (k x0).mem.wf) : (s.atAct id act k).mem.wf := by
  unfold State.atAct
  repeat' first
    | (with_reducible first
       | assumption | intro _ | apply wf_ite | apply wf_ite_fst | apply hk | apply wf_passBy)
    | split | dsimp only

theorem wf_execCoachDelivery {s : State} (h : s.mem.wf) : Leaves (execCoachDelivery s) := by
  unfold execCoachDelivery
  repeat' first
    | (with_reducible first
       | assumption | intro _ | apply wf_ite | apply wf_ite_fst | apply leaves_next | apply wf_deliver | apply wf_atAct)
    | split | dsimp only

theorem wf_execLoopexit {s : State} (h : s.mem.wf) : Leaves (execLoopexit s) := by
  unfold execLoopexit
  repeat' first
    | (with_reducible first
       | assumption | intro _ | apply wf_ite | apply wf_ite_fst | apply leaves_next | apply wf_recordExit
       | apply wf_deliverAs | apply wf_deliver | apply wf_atAct)
    | split | dsimp only

theorem wf_sendBack {s : State} (h : s.mem.wf) (d t : Nat) (e : Entrant) : (s.sendBack d t e).mem.wf := by
  unfold State.sendBack
  repeat' first
    | (with_reducible first
       | assumption | intro _ | apply wf_ite | apply wf_ite_fst | apply wf_modTile | apply wf_post)
    | split | dsimp only

theorem wf_unside {s : State} (h : s.mem.wf) (d i : Nat) (x : Sided) : (s.unside d i x).mem.wf := by
  unfold State.unside
  repeat' first
    | (with_reducible first
       | assumption | intro _ | apply wf_ite | apply wf_ite_fst | apply wf_side | apply wf_kdrop | apply wf_intoQueue
       | apply wf_recordExit | apply wf_sendBack)
    | split | dsimp only

theorem wf_returnSided {s : State} (h : s.mem.wf) (d i : Nat) (go : Sided → Bool) (order : List Sided → List Sided) : (s.returnSided d i go order).mem.wf := by
  unfold State.returnSided
  repeat' first
    | (with_reducible first
       | assumption | intro _ | apply wf_ite | apply wf_ite_fst | apply wf_modSlot | apply wf_putSiding | apply wf_unside
       | apply wf_foldl | apply wf_foldl_fst)
    | split | dsimp only

theorem wf_releaseAt {s : State} (h : s.mem.wf) (j : Nat) (p : Plane) (rid : Option Nat) (c : Coach) : (s.releaseAt j p rid c).mem.wf := by
  unfold State.releaseAt
  repeat' first
    | (with_reducible first
       | assumption | intro _ | apply wf_ite | apply wf_ite_fst | apply wf_modJunc | apply wf_post | apply wf_lose)
    | split | dsimp only

theorem wf_putUnit {s : State} (h : s.mem.wf) (j : Nat) (u : MergeUnit) (released : Bool) : (s.putUnit j u released).mem.wf := by
  unfold State.putUnit
  repeat' first
    | (with_reducible first
       | assumption | intro _ | apply wf_ite | apply wf_ite_fst | apply wf_modJunc)
    | split | dsimp only

theorem wf_releaseHeld {s : State} (h : s.mem.wf) (j : Nat) (u : MergeUnit) : (s.releaseHeld j u).mem.wf := by
  unfold State.releaseHeld
  repeat' first
    | (with_reducible first
       | assumption | intro _ | apply wf_ite | apply wf_ite_fst | apply wf_releaseAt | apply wf_putUnit | apply wf_foldl
       | apply wf_foldl_fst)
    | split | dsimp only

theorem wf_release1 {s : State} (h : s.mem.wf) (j : Nat) (t : Transit) (u : MergeUnit) : (s.release1 j t u).mem.wf := by
  unfold State.release1
  repeat' first
    | (with_reducible first
       | assumption | intro _ | apply wf_ite | apply wf_ite_fst | apply wf_takeOff | apply wf_lose | apply wf_passBy
       | apply wf_goOn | apply wf_releaseHeld)
    | split | dsimp only

theorem wf_execMerge {s : State} (h : s.mem.wf) : Leaves (execMerge s) := by
  unfold execMerge
  repeat' first
    | (with_reducible first
       | assumption | intro _ | apply wf_ite | apply wf_ite_fst | apply leaves_next | apply wf_takeOff | apply wf_passBy
       | apply wf_passOn | apply wf_atAct | apply wf_putUnit | apply wf_release1)
    | split | dsimp only

theorem wf_closeRed {s : State} (h : s.mem.wf) (j rid status : Nat) : (s.closeRed j rid status).mem.wf := by
  unfold State.closeRed
  repeat' first
    | (with_reducible first
       | assumption | intro _ | apply wf_ite | apply wf_ite_fst | apply wf_modJunc | apply wf_status | apply wf_releaseAt)
    | split | dsimp only

theorem wf_joinRed {s : State} (h : s.mem.wf) (j : Nat) (c : Coach) : (s.joinRed j c).mem.wf := by
  unfold State.joinRed
  repeat' first
    | (with_reducible first
       | assumption | intro _ | apply wf_ite | apply wf_ite_fst | apply wf_modJunc | apply wf_kdrop | apply wf_closeRed)
    | split | dsimp only

theorem wf_takeRed {s : State} (h : s.mem.wf) (j : Nat) (c : Coach) (p : Plane) : Gives (s.takeRed j c p) := by
  unfold State.takeRed
  repeat' first
    | (with_reducible first
       | assumption | intro _ | apply wf_ite | apply wf_ite_fst | apply gives_ite | exact gives_none | apply gives_some
       | apply wf_modJunc | apply wf_post | apply wf_kdrop | apply wf_joinRed | refine gives_map ?_ ?_
       | refine of_gives (by assumption) | refine gives_read ?_)
    | split | dsimp only

theorem wf_execReduce {s : State} (h : s.mem.wf) : Leaves (execReduce s) := by
  unfold execReduce
  repeat' first
    | (with_reducible first
       | assumption | intro _ | apply wf_ite | apply wf_ite_fst | apply leaves_next | apply wf_modJunc | apply wf_post
       | apply wf_side | apply wf_kdrop | apply wf_modTransit | apply wf_takeOff | apply wf_passBy | apply wf_passOn
       | apply wf_atAct | apply wf_takeRed | refine gives_map ?_ ?_ | refine of_some ?_ (by assumption)
       | refine of_gives (by assumption))
    | split | dsimp only

theorem wf_execReduceDeadline {s : State} (h : s.mem.wf) : Leaves (execReduceDeadline s) := by
  unfold execReduceDeadline
  repeat' first
    | (with_reducible first
       | assumption | intro _ | apply wf_ite | apply wf_ite_fst | apply leaves_next | apply wf_post | apply wf_closeRed)
    | split | dsimp only

theorem wf_drainSide {s : State} (h : s.mem.wf) (j : Nat) (l : List JWait) : (s.drainSide j l).1.mem.wf := by
  induction l generalizing s with
  | nil =>
    unfold State.drainSide
    repeat' first
      | (with_reducible first
         | assumption | intro _ | apply wf_ite | apply wf_ite_fst | apply wf_takeRed | refine gives_map ?_ ?_
         | refine of_fst ?_ (by assumption) | refine of_some ?_ (by assumption) | refine of_gives (by assumption))
      | split | dsimp only
  | cons x r ih =>
    unfold State.drainSide
    repeat' first
      | (with_reducible first
         | assumption | intro _ | apply wf_ite | apply wf_ite_fst | apply ih | apply wf_takeRed | refine gives_map ?_ ?_
         | refine of_fst ?_ (by assumption) | refine of_some ?_ (by assumption) | refine of_gives (by assumption))
      | split | dsimp only

theorem wf_execJunctionSidingRelease {s : State} (h : s.mem.wf) : Leaves (execJunctionSidingRelease s) := by
  unfold execJunctionSidingRelease
  repeat' first
    | (with_reducible first
       | assumption | intro _ | apply wf_ite | apply wf_ite_fst | apply leaves_next | apply wf_modJunc | apply wf_side
       | apply wf_drainSide | refine of_fst ?_ (by assumption))
    | split | dsimp only

theorem wf_execJunctionSidingTimeout {s : State} (h : s.mem.wf) : Leaves (execJunctionSidingTimeout s) := by
  unfold execJunctionSidingTimeout
  repeat' first
    | (with_reducible first
       | assumption | intro _ | apply wf_ite | apply wf_ite_fst | apply leaves_next | apply wf_modJunc | apply wf_post
       | apply wf_side | apply wf_releaseAt | apply wf_foldl | apply wf_foldl_fst)
    | split | dsimp only

theorem wf_beginRecord {s : State} (h : s.mem.wf) (d w : Nat) (r : Option (Vector Word 8)) : (s.beginRecord d w r).mem.wf := by
  unfold State.beginRecord
  repeat' first
    | (with_reducible first
       | assumption | intro _ | apply wf_ite | apply wf_ite_fst | apply wf_post | apply wf_endRecord | apply wf_postNode)
    | split | dsimp only

theorem wf_takeRecord {s : State} (h : s.mem.wf) (d : Nat) : (s.takeRecord d).mem.wf := by
  unfold State.takeRecord
  repeat' first
    | (with_reducible first
       | assumption | intro _ | apply wf_ite | apply wf_ite_fst | apply wf_modWalker | apply wf_modQueue | apply wf_drop
       | apply wf_putDesc | apply wf_postTake | apply wf_beginRecord)
    | split | dsimp only

theorem wf_execGraph {s : State} (h : s.mem.wf) : Leaves (execGraph s) := by
  unfold execGraph
  repeat' first
    | (with_reducible first
       | assumption | intro _ | apply wf_ite | apply wf_ite_fst | apply leaves_next | apply wf_takeRecord)
    | split | dsimp only

theorem wf_onRecord {s : State} (h : s.mem.wf) (kind : Nat) (f : Nat → Nat → Walker → State → State) (hf : ∀ x0 x1 x2 (t : State), t.mem.wf → (f x0 x1 x2 t).mem.wf) : (s.onRecord kind f).mem.wf := by
  unfold State.onRecord
  repeat' first
    | (with_reducible first
       | assumption | intro _ | apply wf_ite | apply wf_ite_fst | apply hf)
    | split | dsimp only

theorem wf_execPreempt {s : State} (h : s.mem.wf) : Leaves (execPreempt s) := by
  unfold execPreempt
  repeat' first
    | (with_reducible first
       | assumption | intro _ | apply wf_ite | apply wf_ite_fst | apply leaves_next | apply wf_modWalker
       | apply wf_endRecord | apply wf_settle | apply wf_quiesce | apply wf_onRecord)
    | split | dsimp only

theorem wf_execResume {s : State} (h : s.mem.wf) : Leaves (execResume s) := by
  unfold execResume
  repeat' first
    | (with_reducible first
       | assumption | intro _ | apply wf_ite | apply wf_ite_fst | apply leaves_next | apply wf_modSlot | apply wf_modWalker
       | apply wf_post | apply wf_endRecord | apply wf_settle | apply wf_onRecord)
    | split | dsimp only

theorem wf_execAbort {s : State} (h : s.mem.wf) : Leaves (execAbort s) := by
  unfold execAbort
  repeat' first
    | (with_reducible first
       | assumption | intro _ | apply wf_ite | apply wf_ite_fst | apply leaves_next | apply wf_endRecord | apply wf_failWalk
       | apply wf_settle | apply wf_status | apply wf_onRecord)
    | split | dsimp only

theorem wf_execScset {s : State} (h : s.mem.wf) : Leaves (execScset s) := by
  unfold execScset
  repeat' first
    | (with_reducible first
       | assumption | intro _ | apply wf_ite | apply wf_ite_fst | apply leaves_next | apply wf_modStc | apply wf_endRecord
       | apply wf_evicted | apply wf_onRecord)
    | split | dsimp only

theorem wf_execScfree {s : State} (h : s.mem.wf) : Leaves (execScfree s) := by
  unfold execScfree
  repeat' first
    | (with_reducible first
       | assumption | intro _ | apply wf_ite | apply wf_ite_fst | apply leaves_next | apply wf_modWalker | apply wf_modStc
       | apply wf_endRecord | apply wf_evict | apply wf_evicted | apply wf_onRecord)
    | split | dsimp only

theorem wf_execTtset {s : State} (h : s.mem.wf) : Leaves (execTtset s) := by
  unfold execTtset
  repeat' first
    | (with_reducible first
       | assumption | intro _ | apply wf_ite | apply wf_ite_fst | apply leaves_next | apply wf_endRecord | apply wf_modTt
       | apply wf_postFire | apply wf_onRecord)
    | split | dsimp only

theorem wf_execQuery {s : State} (h : s.mem.wf) : Leaves (execQuery s) := by
  unfold execQuery
  repeat' first
    | (with_reducible first
       | assumption | intro _ | apply wf_ite | apply wf_ite_fst | apply leaves_next | apply wf_writeVa | apply wf_endRecord
       | apply wf_onRecord | refine gives_map ?_ ?_ | refine of_some ?_ (by assumption) | refine of_gives (by assumption))
    | split | dsimp only

theorem wf_onNode {s : State} (h : s.mem.wf) (op : Nat) (slotted : Bool) (f : Nat → Nat → Walker → Nat → State → State) (hf : ∀ x0 x1 x2 x3 (t : State), t.mem.wf → (f x0 x1 x2 x3 t).mem.wf) : (s.onNode op slotted f).mem.wf := by
  unfold State.onNode
  repeat' first
    | (with_reducible first
       | assumption | intro _ | apply wf_ite | apply wf_ite_fst | apply hf | apply wf_failWalk)
    | split | dsimp only

theorem wf_waitSlot {s : State} (h : s.mem.wf) (d w i : Nat) : (s.waitSlot d w i).mem.wf := by
  unfold State.waitSlot
  repeat' first
    | (with_reducible first
       | assumption | intro _ | apply wf_ite | apply wf_ite_fst | apply wf_modWalker)
    | split | dsimp only

theorem wf_own {s : State} (h : s.mem.wf) (d w i : Nat) (boot : Bool) : (s.own d w i boot).mem.wf := by
  unfold State.own
  repeat' first
    | (with_reducible first
       | assumption | intro _ | apply wf_ite | apply wf_ite_fst | apply wf_modSlot | apply wf_modWalker)
    | split | dsimp only

theorem wf_drainNode {s : State} (h : s.mem.wf) (d i : Nat) : (s.drainNode d i).1.mem.wf := by
  unfold State.drainNode
  repeat' first
    | (with_reducible first
       | assumption | intro _ | apply wf_ite | apply wf_ite_fst | apply wf_startDrain)
    | split | dsimp only

theorem wf_execEndNode {s : State} (h : s.mem.wf) : Leaves (execEndNode s) := by
  unfold execEndNode
  repeat' first
    | (with_reducible first
       | assumption | intro _ | apply wf_ite | apply wf_ite_fst | apply leaves_next | apply wf_endRecord | apply wf_onNode
       | apply wf_waitSlot | apply wf_drainNode | apply wf_foldl | apply wf_foldl_fst | refine of_fst ?_ (by assumption))
    | split | dsimp only

theorem wf_execCfg {s : State} (h : s.mem.wf) : Leaves (execCfg s) := by
  unfold execCfg
  repeat' first
    | (with_reducible first
       | assumption | intro _ | apply wf_ite | apply wf_ite_fst | refine of_loads ?_ (by assumption) | apply leaves_next
       | apply wf_failWalk | apply wf_goNode | apply wf_settle | apply wf_loadConfig | apply wf_status | apply wf_onNode
       | apply wf_waitSlot | apply wf_own)
    | split | dsimp only

theorem wf_armNow {s : State} (h : s.mem.wf) (d w i : Nat) (k : Walker) : (s.armNow d w i k).mem.wf := by
  unfold State.armNow
  repeat' first
    | (with_reducible first
       | assumption | intro _ | apply wf_ite | apply wf_ite_fst | apply wf_modWalker | apply wf_failWalk | apply wf_settle
       | apply wf_armBlocks | apply wf_startArm | apply wf_waitSlot | apply ran_ok | apply ran_ok_fst | apply ran_error
       | apply ran_ran | refine ran_bind (f := Prod.fst) ?_ ?_ | refine ran_bind (f := fun s => s) ?_ ?_
       | refine ran_bind_stops ?_ ?_ | refine of_ok ?_ (by assumption)
       | refine of_error (f := fun s => s) ?_ (by assumption))
    | split | dsimp only

theorem wf_execArm {s : State} (h : s.mem.wf) : Leaves (execArm s) := by
  unfold execArm
  repeat' first
    | (with_reducible first
       | assumption | intro _ | apply wf_ite | apply wf_ite_fst | apply leaves_next | apply wf_modSlot | apply wf_failWalk
       | apply wf_goNode | apply wf_onNode | apply wf_waitSlot | apply wf_own | apply wf_armNow)
    | split | dsimp only

theorem wf_execWaitNode {s : State} (h : s.mem.wf) : Leaves (execWaitNode s) := by
  unfold execWaitNode
  repeat' first
    | (with_reducible first
       | assumption | intro _ | apply wf_ite | apply wf_ite_fst | apply leaves_next | apply wf_modWalker | apply wf_post
       | apply wf_failWalk | apply wf_retime | apply wf_goNode | apply wf_onNode)
    | split | dsimp only

theorem wf_execWaitTimeout {s : State} (h : s.mem.wf) : Leaves (execWaitTimeout s) := by
  unfold execWaitTimeout
  repeat' first
    | (with_reducible first
       | assumption | intro _ | apply wf_ite | apply wf_ite_fst | apply leaves_next | apply wf_failWalk)
    | split | dsimp only

theorem wf_execRepeatNode {s : State} (h : s.mem.wf) : Leaves (execRepeatNode s) := by
  unfold execRepeatNode
  repeat' first
    | (with_reducible first
       | assumption | intro _ | apply wf_ite | apply wf_ite_fst | apply leaves_next | apply wf_modWalker | apply wf_failWalk
       | apply wf_goNode | apply wf_onNode)
    | split | dsimp only

theorem wf_execSignal {s : State} (h : s.mem.wf) : Leaves (execSignal s) := by
  unfold execSignal
  repeat' first
    | (with_reducible first
       | assumption | intro _ | apply wf_ite | apply wf_ite_fst | apply leaves_next | apply wf_inform | apply wf_boxStore
       | apply wf_failWalk | apply wf_goNode | apply wf_onNode | apply wf_waitSlot | refine gives_map ?_ ?_
       | apply gives_bind | refine of_some ?_ (by assumption) | refine of_gives (by assumption))
    | split | dsimp only

theorem wf_sctAgain {s : State} (h : s.mem.wf) (d i : Nat) : (s.sctAgain d i).1.mem.wf := by
  unfold State.sctAgain
  repeat' first
    | (with_reducible first
       | assumption | intro _ | apply wf_ite | apply wf_ite_fst | apply wf_touchStc | apply wf_evicted
       | refine of_fst ?_ (by assumption))
    | split | dsimp only

theorem wf_sctTouch {s : State} (h : s.mem.wf) (d w i : Nat) (hold again : Bool) (n : Nat) : (s.sctTouch d w i hold again n).1.mem.wf := by
  induction n generalizing s i with
  | zero =>
    unfold State.sctTouch
    repeat' first
      | (with_reducible first
         | assumption | intro _ | apply wf_ite | apply wf_ite_fst | apply wf_modWalker | apply wf_modStc
         | apply wf_touchStc | apply wf_hold | apply wf_sctAgain | refine of_fst ?_ (by assumption))
      | split | dsimp only
  | succ n ih =>
    unfold State.sctTouch
    repeat' first
      | (with_reducible first
         | assumption | intro _ | apply wf_ite | apply wf_ite_fst | apply ih | apply wf_modWalker | apply wf_modStc
         | apply wf_touchStc | apply wf_hold | apply wf_sctAgain | refine of_fst ?_ (by assumption))
      | split | dsimp only

theorem wf_execSct {s : State} (h : s.mem.wf) : Leaves (execSct s) := by
  unfold execSct
  repeat' first
    | (with_reducible first
       | assumption | intro _ | apply wf_ite | apply wf_ite_fst | apply leaves_next | apply wf_modWalker | apply wf_failWalk
       | apply wf_goNode | apply wf_onNode | apply wf_sctTouch | refine of_fst ?_ (by assumption))
    | split | dsimp only

theorem wf_execDrain {s : State} (h : s.mem.wf) : Leaves (execDrain s) := by
  unfold execDrain
  repeat' first
    | (with_reducible first
       | assumption | intro _ | apply wf_ite | apply wf_ite_fst | apply leaves_next | apply wf_goNode | apply wf_onNode
       | apply wf_waitSlot | apply wf_drainNode | refine of_fst ?_ (by assumption))
    | split | dsimp only

theorem wf_execTailStore {s : State} (h : s.mem.wf) : Leaves (execTailStore s) := by
  unfold execTailStore
  repeat' first
    | (with_reducible first
       | assumption | intro _ | apply wf_ite | apply wf_ite_fst | apply leaves_next | apply wf_tailStored)
    | split | dsimp only

theorem wf_execTimetableFire {s : State} (h : s.mem.wf) : Leaves (execTimetableFire s) := by
  unfold execTimetableFire
  repeat' first
    | (with_reducible first
       | assumption | intro _ | apply wf_ite | apply wf_ite_fst | apply leaves_next | apply wf_postFire | apply wf_ttFire)
    | split | dsimp only

theorem wf_execStcRestoreDone {s : State} (h : s.mem.wf) : Leaves (execStcRestoreDone s) := by
  unfold execStcRestoreDone
  repeat' first
    | (with_reducible first
       | assumption | intro _ | apply wf_ite | apply wf_ite_fst | apply leaves_next | apply wf_restored)
    | split | dsimp only

theorem wf_execStcEvictDone {s : State} (h : s.mem.wf) : Leaves (execStcEvictDone s) := by
  unfold execStcEvictDone
  repeat' first
    | (with_reducible first
       | assumption | intro _ | apply wf_ite | apply wf_ite_fst | apply leaves_next | apply wf_evicted)
    | split | dsimp only

theorem wf_execScanVisit {s : State} (h : s.mem.wf) : Leaves (execScanVisit s) := by
  unfold execScanVisit
  repeat' first
    | (with_reducible first
       | assumption | intro _ | apply wf_ite | apply wf_ite_fst | apply leaves_next | apply wf_modBox | apply wf_post
       | apply wf_evict)
    | split | dsimp only

theorem wf_execSbbaseWrite {s : State} (h : s.mem.wf) : Leaves (execSbbaseWrite s) := by
  unfold execSbbaseWrite
  repeat' first
    | (with_reducible first
       | assumption | intro _ | apply wf_ite | apply wf_ite_fst | apply leaves_next | apply wf_writeSbbase)
    | split | dsimp only

theorem wf_execStccfgWrite {s : State} (h : s.mem.wf) : Leaves (execStccfgWrite s) := by
  unfold execStccfgWrite
  repeat' first
    | (with_reducible first
       | assumption | intro _ | apply wf_ite | apply wf_ite_fst | apply leaves_next | apply wf_writeStccfg)
    | split | dsimp only

theorem wf_trimHeads {s : State} (h : s.mem.wf) (d i t q : Nat) (l : List Coach) : (s.trimHeads d i t q l).1.mem.wf := by
  induction l generalizing s with
  | nil =>
    unfold State.trimHeads
    repeat' first
      | (with_reducible first
         | assumption | intro _ | apply wf_ite | apply wf_ite_fst | apply wf_modSlot | apply wf_side
         | refine of_fst ?_ (by assumption))
      | split | dsimp only
  | cons x r ih =>
    unfold State.trimHeads
    repeat' first
      | (with_reducible first
         | assumption | intro _ | apply wf_ite | apply wf_ite_fst | apply ih | apply wf_modSlot | apply wf_side
         | refine of_fst ?_ (by assumption))
      | split | dsimp only

theorem wf_trimQueues {s : State} (h : s.mem.wf) (d i t : Nat) : (s.trimQueues d i t).mem.wf := by
  unfold State.trimQueues
  repeat' first
    | (with_reducible first
       | assumption | intro _ | apply wf_ite | apply wf_ite_fst | apply wf_modTile | apply wf_trimHeads | apply wf_foldl
       | apply wf_foldl_fst | refine of_fst ?_ (by assumption))
    | split | dsimp only

theorem wf_fire {s : State} (h : s.mem.wf) (d i t k : Nat) : (s.fire d i t k).mem.wf := by
  unfold State.fire
  repeat' first
    | (with_reducible first
       | assumption | intro _ | apply wf_ite | apply wf_ite_fst | apply wf_modTile | apply wf_modCtx | apply wf_post
       | apply wf_fresh | apply wf_drop | refine of_fst ?_ (by assumption))
    | split | dsimp only

theorem wf_arbitrate {s : State} (h : s.mem.wf) (d i t : Nat) : (s.arbitrate d i t).1.mem.wf := by
  unfold State.arbitrate
  repeat' first
    | (with_reducible first
       | assumption | intro _ | apply wf_ite | apply wf_ite_fst | apply wf_modTile | apply wf_fire | apply wf_foldl
       | apply wf_foldl_fst)
    | split | dsimp only

theorem wf_execTriggerFire {s : State} (h : s.mem.wf) : Leaves (execTriggerFire s) := by
  unfold execTriggerFire
  repeat' first
    | (with_reducible first
       | assumption | intro _ | apply wf_ite | apply wf_ite_fst | apply leaves_next | apply wf_post | apply wf_trimQueues
       | apply wf_arbitrate | refine of_fst ?_ (by assumption))
    | split | dsimp only

theorem wf_startGens {s : State} (h : s.mem.wf) (d n : Nat) : (s.startGens d n).mem.wf := by
  unfold State.startGens
  repeat' first
    | (with_reducible first
       | assumption | intro _ | apply wf_ite | apply wf_ite_fst | apply wf_modDepot | apply wf_post | apply wf_foldl
       | apply wf_foldl_fst)
    | split | dsimp only

theorem wf_goContexts {s : State} (h : s.mem.wf) (d i : Nat) : (s.goContexts d i).mem.wf := by
  unfold State.goContexts
  repeat' first
    | (with_reducible first
       | assumption | intro _ | apply wf_ite | apply wf_ite_fst | apply wf_post | apply wf_postSettles | apply wf_foldl
       | apply wf_foldl_fst)
    | split | dsimp only

theorem wf_goUnits {s : State} (h : s.mem.wf) (d i : Nat) (resumed : Bool) : (s.goUnits d i resumed).mem.wf := by
  unfold State.goUnits
  repeat' first
    | (with_reducible first
       | assumption | intro _ | apply wf_ite | apply wf_ite_fst | apply wf_modTile | apply wf_post | apply wf_foldl
       | apply wf_foldl_fst)
    | split | dsimp only

theorem wf_goMatrix {s : State} (h : s.mem.wf) (d i : Nat) : (s.goMatrix d i).mem.wf := by
  unfold State.goMatrix
  repeat' first
    | (with_reducible first
       | assumption | intro _ | apply wf_ite | apply wf_ite_fst | apply wf_modTile | apply wf_modSlot | apply wf_post
       | apply wf_foldl | apply wf_foldl_fst)
    | split | dsimp only

theorem wf_execGo {s : State} (h : s.mem.wf) : Leaves (execGo s) := by
  unfold execGo
  repeat' first
    | (with_reducible first
       | assumption | intro _ | apply wf_ite | apply wf_ite_fst | apply leaves_next | apply wf_modSlot | apply wf_slotTo
       | apply wf_fireAll | apply wf_forceDrain | apply wf_settle | apply wf_returnSided | apply wf_startGens
       | apply wf_goContexts | apply wf_goUnits | apply wf_goMatrix | apply wf_foldl | apply wf_foldl_fst)
    | split | dsimp only

theorem wf_finishTile {s : State} (h : s.mem.wf) (d t n : Nat) : (s.finishTile d t n).mem.wf := by
  induction n generalizing s with
  | zero =>
    unfold State.finishTile
    repeat' first
      | (with_reducible first
         | assumption | intro _ | apply wf_ite | apply wf_ite_fst | apply wf_matrixStep
         | refine of_fst ?_ (by assumption))
      | split | dsimp only
  | succ n ih =>
    unfold State.finishTile
    repeat' first
      | (with_reducible first
         | assumption | intro _ | apply wf_ite | apply wf_ite_fst | apply ih | apply wf_matrixStep
         | refine of_fst ?_ (by assumption))
      | split | dsimp only

theorem wf_finishMatrix {s : State} (h : s.mem.wf) (d i : Nat) : (s.finishMatrix d i).mem.wf := by
  unfold State.finishMatrix
  repeat' first
    | (with_reducible first
       | assumption | intro _ | apply wf_ite | apply wf_ite_fst | apply wf_finishTile | apply wf_foldl | apply wf_foldl_fst)
    | split | dsimp only

theorem wf_dropMatrix {s : State} (h : s.mem.wf) (d i : Nat) : (s.dropMatrix d i).mem.wf := by
  unfold State.dropMatrix
  repeat' first
    | (with_reducible first
       | assumption | intro _ | apply wf_ite | apply wf_ite_fst | apply wf_modTile | apply wf_foldl | apply wf_foldl_fst)
    | split | dsimp only

theorem wf_abandonUnsent {s : State} (h : s.mem.wf) (d i : Nat) : (s.abandonUnsent d i).mem.wf := by
  unfold State.abandonUnsent
  repeat' first
    | (with_reducible first
       | assumption | intro _ | apply wf_ite | apply wf_ite_fst | apply wf_forgetWhere | apply wf_access)
    | split | dsimp only

theorem wf_execDrainDone {s : State} (h : s.mem.wf) : Leaves (execDrainDone s) := by
  unfold execDrainDone
  repeat' first
    | (with_reducible first
       | assumption | intro _ | apply wf_ite | apply wf_ite_fst | apply leaves_next | apply wf_modSlot | apply wf_post
       | apply wf_slotTo | apply wf_sideQueues | apply wf_settle | apply wf_finishMatrix | apply wf_dropMatrix)
    | split | dsimp only

theorem wf_settleOldest {s : State} (h : s.mem.wf) (d t c : Nat) (l : Link) : (s.settleOldest d t c l).1.mem.wf := by
  unfold State.settleOldest
  repeat' first
    | (with_reducible first
       | assumption | intro _ | apply wf_ite | apply wf_ite_fst | apply wf_modCtx | apply wf_drop | apply wf_push
       | apply wf_linkPush | apply ran_ok | apply ran_ok_fst | apply ran_error | apply ran_ran
       | refine ran_bind (f := Prod.fst) ?_ ?_ | refine ran_bind (f := fun s => s) ?_ ?_ | refine ran_bind_stops ?_ ?_
       | refine of_fst ?_ (by assumption) | refine of_ok ?_ (by assumption)
       | refine of_error (f := fun s => s) ?_ (by assumption))
    | split | dsimp only

theorem wf_finishPushes {s : State} (h : s.mem.wf) (d i : Nat) : (s.finishPushes d i).mem.wf := by
  unfold State.finishPushes
  repeat' first
    | (with_reducible first
       | assumption | intro _ | apply wf_ite | apply wf_ite_fst | apply wf_push | apply wf_settleOldest | apply ran_ok
       | apply ran_ok_fst | apply ran_error | apply ran_ran | refine ran_bind (f := Prod.fst) ?_ ?_
       | refine ran_bind (f := fun s => s) ?_ ?_ | refine ran_bind_stops ?_ ?_ | apply wf_foldl | apply wf_foldl_fst
       | refine of_fst ?_ (by assumption) | refine of_ok ?_ (by assumption)
       | refine of_error (f := fun s => s) ?_ (by assumption))
    | split | dsimp only

theorem wf_keepMatrix {s : State} (h : s.mem.wf) (d i : Nat) : (s.keepMatrix d i).mem.wf := by
  unfold State.keepMatrix
  repeat' first
    | (with_reducible first
       | assumption | intro _ | apply wf_ite | apply wf_ite_fst | apply wf_modSlot | apply wf_dropMatrix)
    | split | dsimp only

theorem wf_execQuiesceDone {s : State} (h : s.mem.wf) : Leaves (execQuiesceDone s) := by
  unfold execQuiesceDone
  repeat' first
    | (with_reducible first
       | assumption | intro _ | apply wf_ite | apply wf_ite_fst | apply leaves_next | apply wf_post | apply wf_sideQueues
       | apply wf_boundary | apply wf_settle | apply wf_save | apply wf_finishMatrix | apply wf_abandonUnsent
       | apply wf_finishPushes | apply wf_keepMatrix)
    | split | dsimp only

theorem wf_execSaveDone {s : State} (h : s.mem.wf) : Leaves (execSaveDone s) := by
  unfold execSaveDone
  repeat' first
    | (with_reducible first
       | assumption | intro _ | apply wf_ite | apply wf_ite_fst | apply leaves_next | apply wf_slotTo | apply wf_settle
       | apply wf_frozenNow)
    | split | dsimp only

theorem wf_restoreFault {s : State} (h : s.mem.wf) (d i t c va n : Nat) : (s.restoreFault d i t c va n).mem.wf := by
  unfold State.restoreFault
  repeat' first
    | (with_reducible first
       | assumption | intro _ | apply wf_ite | apply wf_ite_fst | apply wf_freeze)
    | split | dsimp only

theorem wf_restoreBlocks {s : State} (h : s.mem.wf) (d i : Nat) (l : List Nat) : Goes (fun s => s) (s.restoreBlocks d i l) := by
  induction l generalizing s with
  | nil => exact goes_ok h
  | cons t r ih =>
    unfold State.restoreBlocks
    cases e : s.readBlock d i t with
    | none => exact goes_error
    | some u => exact ih (of_some (wf_readBlock h d i t) e)

theorem wf_restoreCtxs {s : State} (h : s.mem.wf) (d i : Nat) (l : List SavedCtx) : Goes Prod.fst (s.restoreCtxs d i l) := by
  induction l generalizing s with
  | nil => exact goes_ok_fst h
  | cons x r ih =>
    unfold State.restoreCtxs
    cases s.areaRead d i ((s.slot d i).area x.tile x.c) 24576 with
    | none => exact goes_error
    | some bs =>
      dsimp only [Option.elim]
      split
      · exact goes_error
      · exact goes_ok_fst (of_goes_fst (ih (wf_modCtx h _ _ _ _)) ‹_›)

theorem wf_execRegionRestoreDone {s : State} (h : s.mem.wf) : Leaves (execRegionRestoreDone s) := by
  unfold execRegionRestoreDone
  repeat' first
    | (with_reducible first
       | assumption | intro _ | apply wf_ite | apply wf_ite_fst | apply leaves_next | apply wf_modSlot | apply wf_settle
       | apply wf_armPhase | apply wf_chainTrap | apply wf_returnSided | apply wf_restoreFault | apply wf_restoreBlocks
       | apply wf_restoreCtxs | apply wf_foldl | apply wf_foldl_fst | refine of_goes_fst ?_ (by assumption)
       | refine of_goes ?_ (by assumption))
    | split | dsimp only

theorem wf_execRewalk {s : State} (h : s.mem.wf) : Leaves (execRewalk s) := by
  unfold execRewalk
  repeat' first
    | (with_reducible first
       | assumption | intro _ | apply wf_ite | apply wf_ite_fst | apply leaves_next | apply wf_modTile | apply wf_post
       | apply wf_unwithhold | apply wf_fetch | apply wf_access | apply ran_ok | apply ran_ok_fst | apply ran_error
       | apply ran_ran | refine ran_bind (f := Prod.fst) ?_ ?_ | refine ran_bind (f := fun s => s) ?_ ?_
       | refine ran_bind_stops ?_ ?_ | refine ran_map (f := Prod.fst) ?_ ?_ | refine ran_map (f := fun s => s) ?_ ?_
       | refine of_ok_fst ?_ (by assumption) | refine of_error (f := Prod.fst) ?_ (by assumption))
    | split | dsimp only

theorem wf_execWithholdTimeout {s : State} (h : s.mem.wf) : Leaves (execWithholdTimeout s) := by
  unfold execWithholdTimeout
  repeat' first
    | (with_reducible first
       | assumption | intro _ | apply wf_ite | apply wf_ite_fst | apply leaves_next | apply wf_modSlot | apply wf_post
       | apply wf_inform | apply wf_settle | apply wf_quiesce | apply wf_bootFail)
    | split | dsimp only

theorem wf_abandonWait {s : State} (h : s.mem.wf) (d t c i : Nat) : (s.abandonWait d t c i).mem.wf := by
  unfold State.abandonWait
  repeat' first
    | (with_reducible first
       | assumption | intro _ | apply wf_ite | apply wf_ite_fst | apply wf_modTile | apply wf_modCtx | apply wf_modSlot
       | apply wf_post | apply wf_unwithhold | apply wf_fetch | apply wf_access | apply wf_letGo | apply ran_ok
       | apply ran_ok_fst | apply ran_error | apply ran_ran | refine ran_bind (f := Prod.fst) ?_ ?_
       | refine ran_bind (f := fun s => s) ?_ ?_ | refine ran_bind_stops ?_ ?_ | refine ran_map (f := Prod.fst) ?_ ?_
       | refine ran_map (f := fun s => s) ?_ ?_ | refine of_ok_fst ?_ (by assumption)
       | refine of_error (f := Prod.fst) ?_ (by assumption))
    | split | dsimp only

theorem wf_execWatchdog {s : State} (h : s.mem.wf) : Leaves (execWatchdog s) := by
  unfold execWatchdog
  repeat' first
    | (with_reducible first
       | assumption | intro _ | apply wf_ite | apply wf_ite_fst | apply leaves_next | apply wf_modCtx | apply wf_modCore
       | apply wf_post | apply wf_trap | apply wf_abandonWait)
    | split | dsimp only

theorem wf_execLinkSettle {s : State} (h : s.mem.wf) : Leaves (execLinkSettle s) := by
  unfold execLinkSettle
  repeat' first
    | (with_reducible first
       | assumption | intro _ | apply wf_ite | apply wf_ite_fst | apply leaves_next | apply wf_post | apply wf_settleOldest
       | refine of_fst ?_ (by assumption))
    | split | dsimp only

theorem wf_genStop {s : State} (h : s.mem.wf) (d n k i : Nat) (g : Gen) : (s.genStop d n k i g).mem.wf := by
  unfold State.genStop
  repeat' first
    | (with_reducible first
       | assumption | intro _ | apply wf_ite | apply wf_ite_fst | apply wf_modSlot | apply wf_modDepot)
    | split | dsimp only

theorem wf_feed {s : State} (h : s.mem.wf) (d t e : Nat) (x : Elem) : (s.feed d t e x).mem.wf := by
  unfold State.feed
  repeat' first
    | (with_reducible first
       | assumption | intro _ | apply wf_ite | apply wf_ite_fst | apply wf_modTile)
    | split | dsimp only

theorem wf_execGeneratorElement {s : State} (h : s.mem.wf) : Leaves (execGeneratorElement s) := by
  unfold execGeneratorElement
  repeat' first
    | (with_reducible first
       | assumption | intro _ | apply wf_ite | apply wf_ite_fst | apply leaves_next | apply wf_modDepot | apply wf_post
       | apply wf_pass | apply wf_genStop | apply wf_feed)
    | split | dsimp only

theorem wf_execWholdWrite {s : State} (h : s.mem.wf) : Leaves (execWholdWrite s) := by
  unfold execWholdWrite
  repeat' first
    | (with_reducible first
       | assumption | intro _ | apply wf_ite | apply wf_ite_fst | apply leaves_next | apply wf_writeReg)
    | split | dsimp only

theorem wf_execTrapinfoAck {s : State} (h : s.mem.wf) : Leaves (execTrapinfoAck s) := by
  unfold execTrapinfoAck
  repeat' first
    | (with_reducible first
       | assumption | intro _ | apply wf_ite | apply wf_ite_fst | apply leaves_next | apply wf_ackTrap)
    | split | dsimp only

theorem wf_execTilePredWrite {s : State} (h : s.mem.wf) : Leaves (execTilePredWrite s) := by
  unfold execTilePredWrite
  repeat' first
    | (with_reducible first
       | assumption | intro _ | apply wf_ite | apply wf_ite_fst | apply leaves_next | apply wf_writePred)
    | split | dsimp only

theorem wf_execSvwdogWrite {s : State} (h : s.mem.wf) : Leaves (execSvwdogWrite s) := by
  unfold execSvwdogWrite
  repeat' first
    | (with_reducible first
       | assumption | intro _ | apply wf_ite | apply wf_ite_fst | apply leaves_next | apply wf_writeSvwdog)
    | split | dsimp only

end Sys2Proof.Laws
end

