-- ==== Sys2Proof/Laws/FormOutside.lean ====
section
/-! SUPPORT. The memory's canonical form (O51) is kept by the links, the host, the memory controllers, power and the clock: one lemma for each. -/

namespace Sys2Proof.Laws

open Sys2Proof.Machine

theorem wf_modPort {s : State} (h : s.mem.wf) (p : Nat) (f : Port → Port) : (s.modPort p f).mem.wf := by
  unfold State.modPort
  repeat' first
    | (with_reducible first
       | assumption | intro _ | apply wf_ite | apply wf_ite_fst)
    | split | dsimp only

theorem wf_modQp {s : State} (h : s.mem.wf) (q : Nat) (f : QP → QP) : (s.modQp q f).mem.wf := by
  unfold State.modQp
  repeat' first
    | (with_reducible first
       | assumption | intro _ | apply wf_ite | apply wf_ite_fst)
    | split | dsimp only

theorem wf_answer {s : State} (h : s.mem.wf) (q : Nat) (r : HostReply) : (s.answer q r).mem.wf := by
  unfold State.answer
  repeat' first
    | (with_reducible first
       | assumption | intro _ | apply wf_ite | apply wf_ite_fst | apply wf_emit)
    | split | dsimp only

theorem wf_nak {s : State} (h : s.mem.wf) (q : Nat) (r : HostReply) : (s.nak q r).mem.wf := by
  unfold State.nak
  repeat' first
    | (with_reducible first
       | assumption | intro _ | apply wf_ite | apply wf_ite_fst | apply wf_modQp | apply wf_answer)
    | split | dsimp only

theorem wf_dropFrame {s : State} (h : s.mem.wf) (p : Nat) : (s.dropFrame p).mem.wf := by
  unfold State.dropFrame
  repeat' first
    | (with_reducible first
       | assumption | intro _ | apply wf_ite | apply wf_ite_fst | apply wf_modPort)
    | split | dsimp only

theorem wf_sendCnp {s : State} (h : s.mem.wf) (q : Nat) (ce : Bool) : (s.sendCnp q ce).mem.wf := by
  unfold State.sendCnp
  repeat' first
    | (with_reducible first
       | assumption | intro _ | apply wf_ite | apply wf_ite_fst | apply wf_emit | apply wf_modQp)
    | split | dsimp only

theorem wf_inSequence {s : State} (h : s.mem.wf) (p : PktIn) (n : Nat) (x : QP) (ahead : Nat) (again k : QP → State → State) (hagain : ∀ x0 (t : State), t.mem.wf → (again x0 t).mem.wf) (hk : ∀ x0 (t : State), t.mem.wf → (k x0 t).mem.wf) : (s.inSequence p n x ahead again k).mem.wf := by
  unfold State.inSequence
  repeat' first
    | (with_reducible first
       | assumption | intro _ | apply wf_ite | apply wf_ite_fst | apply hagain | apply hk | apply wf_modQp | apply wf_answer)
    | split | dsimp only

theorem wf_onQp {s : State} (h : s.mem.wf) (p : PktIn) (n : Nat) (again k : QP → State → State) (hagain : ∀ x0 (t : State), t.mem.wf → (again x0 t).mem.wf) (hk : ∀ x0 (t : State), t.mem.wf → (k x0 t).mem.wf) : (s.onQp p n again k).mem.wf := by
  unfold State.onQp
  repeat' first
    | (with_reducible first
       | assumption | intro _ | apply wf_ite | apply wf_ite_fst | apply hagain | apply hk | apply wf_dropFrame
       | apply wf_sendCnp | apply wf_inSequence)
    | split | dsimp only

theorem wf_notReady {s : State} (h : s.mem.wf) (q : Nat) (x : QP) : (s.notReady q x).mem.wf := by
  unfold State.notReady
  repeat' first
    | (with_reducible first
       | assumption | intro _ | apply wf_ite | apply wf_ite_fst | apply wf_modQp | apply wf_answer)
    | split | dsimp only

theorem wf_hostFault {s : State} (h : s.mem.wf) (q va : Nat) : (s.hostFault q va).mem.wf := by
  unfold State.hostFault
  repeat' first
    | (with_reducible first
       | assumption | intro _ | apply wf_ite | apply wf_ite_fst | apply wf_inform | apply wf_nak)
    | split | dsimp only

theorem wf_hostWrite {s : State} (h : s.mem.wf) (root : Word) (sup : Bool) (l : List (Nat × Nat)) (bs : List Byte) : (s.hostWrite root sup l bs).1.mem.wf := by
  induction l generalizing s bs with
  | nil =>
    unfold State.hostWrite
    repeat' first
      | (with_reducible first
         | assumption | intro _ | apply wf_ite | apply wf_ite_fst | apply wf_drop | apply wf_wr | apply wf_hot
         | refine of_fst ?_ (by assumption))
      | split | dsimp only
  | cons x r ih =>
    unfold State.hostWrite
    repeat' first
      | (with_reducible first
         | assumption | intro _ | apply wf_ite | apply wf_ite_fst | apply ih | apply wf_drop | apply wf_wr | apply wf_hot
         | refine of_fst ?_ (by assumption))
      | split | dsimp only

theorem wf_hostRead {s : State} (h : s.mem.wf) (root : Word) (sup : Bool) (l : List (Nat × Nat)) : (s.hostRead root sup l).1.mem.wf := by
  induction l generalizing s with
  | nil =>
    unfold State.hostRead
    repeat' first
      | (with_reducible first
         | assumption | intro _ | apply wf_ite | apply wf_ite_fst | apply wf_hot | refine of_fst ?_ (by assumption))
      | split | dsimp only
  | cons x r ih =>
    unfold State.hostRead
    repeat' first
      | (with_reducible first
         | assumption | intro _ | apply wf_ite | apply wf_ite_fst | apply ih | apply wf_hot | refine of_fst ?_ (by assumption))
      | split | dsimp only

theorem wf_doWrite {s : State} (h : s.mem.wf) (o : HostWr) (k : State → State) (hk : ∀ (t : State), t.mem.wf → (k t).mem.wf) : (s.doWrite o k).mem.wf := by
  unfold State.doWrite
  repeat' first
    | (with_reducible first
       | assumption | intro _ | apply wf_ite | apply wf_ite_fst | apply hk | apply wf_wr | apply wf_nak | apply wf_hostFault
       | apply wf_hostWrite | refine of_fst ?_ (by assumption))
    | split | dsimp only

theorem wf_execHostWrite {s : State} (h : s.mem.wf) : Leaves (execHostWrite s) := by
  unfold execHostWrite
  repeat' first
    | (with_reducible first
       | assumption | intro _ | apply wf_ite | apply wf_ite_fst | apply leaves_next | apply wf_answer | apply wf_onQp
       | apply wf_doWrite)
    | split | dsimp only

theorem wf_execHostWriteImm {s : State} (h : s.mem.wf) : Leaves (execHostWriteImm s) := by
  unfold execHostWriteImm
  repeat' first
    | (with_reducible first
       | assumption | intro _ | apply wf_ite | apply wf_ite_fst | apply leaves_next | apply wf_emit | apply wf_deliver
       | apply wf_modQp | apply wf_answer | apply wf_onQp | apply wf_notReady | apply wf_doWrite)
    | split | dsimp only

theorem wf_execHostSend {s : State} (h : s.mem.wf) : Leaves (execHostSend s) := by
  unfold execHostSend
  repeat' first
    | (with_reducible first
       | assumption | intro _ | apply wf_ite | apply wf_ite_fst | apply leaves_next | apply wf_emit | apply wf_deliver
       | apply wf_modQp | apply wf_answer | apply wf_nak | apply wf_onQp | apply wf_notReady | apply wf_hostFault
       | apply wf_hostWrite | refine of_fst ?_ (by assumption))
    | split | dsimp only

theorem wf_doRead {s : State} (h : s.mem.wf) (o : HostRd) (x : QP) : (s.doRead o x).mem.wf := by
  unfold State.doRead
  repeat' first
    | (with_reducible first
       | assumption | intro _ | apply wf_ite | apply wf_ite_fst | apply wf_inform | apply wf_answer | apply wf_nak
       | apply wf_hostFault | apply wf_hostRead | refine of_fst ?_ (by assumption))
    | split | dsimp only

theorem wf_execHostRead {s : State} (h : s.mem.wf) : Leaves (execHostRead s) := by
  unfold execHostRead
  repeat' first
    | (with_reducible first
       | assumption | intro _ | apply wf_ite | apply wf_ite_fst | apply leaves_next | apply wf_onQp | apply wf_doRead)
    | split | dsimp only

theorem wf_hostAtomicAt {s : State} (h : s.mem.wf) (o : HostAt) (root : Word) (p : Phys) (f : Word → Option Word) : (s.hostAtomicAt o root p f).mem.wf := by
  unfold State.hostAtomicAt
  repeat' first
    | (with_reducible first
       | assumption | intro _ | apply wf_ite | apply wf_ite_fst | apply wf_inform | apply wf_wr | apply wf_hot
       | apply wf_modQp | apply wf_answer | apply wf_nak)
    | split | dsimp only

theorem wf_oldAgain {s : State} (h : s.mem.wf) (o : HostAt) (x : QP) : (s.oldAgain o x).mem.wf := by
  unfold State.oldAgain
  repeat' first
    | (with_reducible first
       | assumption | intro _ | apply wf_ite | apply wf_ite_fst | apply wf_answer)
    | split | dsimp only

theorem wf_hostAtomic {s : State} (h : s.mem.wf) (o : HostAt) (f : Word → Option Word) : (s.hostAtomic o f).mem.wf := by
  unfold State.hostAtomic
  repeat' first
    | (with_reducible first
       | assumption | intro _ | apply wf_ite | apply wf_ite_fst | apply wf_nak | apply wf_onQp | apply wf_hostFault
       | apply wf_hostAtomicAt | apply wf_oldAgain)
    | split | dsimp only

theorem wf_execFetchAdd {s : State} (h : s.mem.wf) : Leaves (execFetchAdd s) := by
  unfold execFetchAdd
  repeat' first
    | (with_reducible first
       | assumption | intro _ | apply wf_ite | apply wf_ite_fst | apply leaves_next | apply wf_hostAtomic)
    | split | dsimp only

theorem wf_execCmpSwap {s : State} (h : s.mem.wf) : Leaves (execCmpSwap s) := by
  unfold execCmpSwap
  repeat' first
    | (with_reducible first
       | assumption | intro _ | apply wf_ite | apply wf_ite_fst | apply leaves_next | apply wf_hostAtomic)
    | split | dsimp only

theorem wf_execHostInvalidOpcode {s : State} (h : s.mem.wf) : Leaves (execHostInvalidOpcode s) := by
  unfold execHostInvalidOpcode
  repeat' first
    | (with_reducible first
       | assumption | intro _ | apply wf_ite | apply wf_ite_fst | apply leaves_next | apply wf_answer | apply wf_nak
       | apply wf_onQp)
    | split | dsimp only

theorem wf_execCnpReceived {s : State} (h : s.mem.wf) : Leaves (execCnpReceived s) := by
  unfold execCnpReceived
  repeat' first
    | (with_reducible first
       | assumption | intro _ | apply wf_ite | apply wf_ite_fst | apply leaves_next | apply wf_modQp)
    | split | dsimp only

theorem wf_sendPost {s : State} (h : s.mem.wf) (q : Nat) (p : Posted) : (s.sendPost q p).mem.wf := by
  unfold State.sendPost
  repeat' first
    | (with_reducible first
       | assumption | intro _ | apply wf_ite | apply wf_ite_fst | apply wf_emit | apply wf_modQp)
    | split | dsimp only

theorem wf_unpause {s : State} (h : s.mem.wf) (p : Nat) : (s.unpause p).mem.wf := by
  unfold State.unpause
  repeat' first
    | (with_reducible first
       | assumption | intro _ | apply wf_ite | apply wf_ite_fst | apply wf_modQp | apply wf_sendPost | apply wf_foldl
       | apply wf_foldl_fst)
    | split | dsimp only

theorem wf_pauseAt {s : State} (h : s.mem.wf) (p prio : Nat) (on : Bool) : (s.pauseAt p prio on).mem.wf := by
  unfold State.pauseAt
  repeat' first
    | (with_reducible first
       | assumption | intro _ | apply wf_ite | apply wf_ite_fst | apply wf_modPort | apply wf_unpause)
    | split | dsimp only

theorem wf_postData {s : State} (h : s.mem.wf) (p : PostIn) : (s.postData p).1.mem.wf := by
  unfold State.postData
  repeat' first
    | (with_reducible first
       | assumption | intro _ | apply wf_ite | apply wf_ite_fst | apply wf_hostRead | refine of_fst ?_ (by assumption))
    | split | dsimp only

theorem wf_postReq {s : State} (h : s.mem.wf) (q : Nat) (p : PostIn) : (s.postReq q p).mem.wf := by
  unfold State.postReq
  repeat' first
    | (with_reducible first
       | assumption | intro _ | apply wf_ite | apply wf_ite_fst | apply wf_inform | apply wf_modQp | apply wf_sendPost
       | apply wf_postData | refine of_fst ?_ (by assumption))
    | split | dsimp only

theorem wf_resendAll {s : State} (h : s.mem.wf) (q : Nat) : (s.resendAll q).mem.wf := by
  unfold State.resendAll
  repeat' first
    | (with_reducible first
       | assumption | intro _ | apply wf_ite | apply wf_ite_fst | apply wf_sendPost | apply wf_foldl | apply wf_foldl_fst)
    | split | dsimp only

theorem wf_takeReply {s : State} (h : s.mem.wf) (q psn : Nat) (r : PostReply) : (s.takeReply q psn r).mem.wf := by
  unfold State.takeReply
  repeat' first
    | (with_reducible first
       | assumption | intro _ | apply wf_ite | apply wf_ite_fst | apply wf_emit | apply wf_inform | apply wf_deliver
       | apply wf_modQp | apply wf_nak | apply wf_hostWrite | apply wf_resendAll | refine of_fst ?_ (by assumption))
    | split | dsimp only

theorem wf_onReply {s : State} (h : s.mem.wf) (q psn : Nat) (r : PostReply) (ce : Bool) (frame : Nat) : (s.onReply q psn r ce frame).mem.wf := by
  unfold State.onReply
  repeat' first
    | (with_reducible first
       | assumption | intro _ | apply wf_ite | apply wf_ite_fst | apply wf_dropFrame | apply wf_sendCnp | apply wf_takeReply)
    | split | dsimp only

theorem wf_firmwareNet {s : State} (h : s.mem.wf) (o : FwNet) : (s.firmwareNet o).mem.wf := by
  unfold State.firmwareNet
  repeat' first
    | (with_reducible first
       | assumption | intro _ | apply wf_ite | apply wf_ite_fst | apply wf_post | apply wf_wr | apply wf_modPort
       | apply wf_modQp | apply wf_unpause | apply wf_pauseAt | apply wf_postReq | apply wf_resendAll | apply wf_onReply)
    | split | dsimp only

theorem wf_connect {s : State} (h : s.mem.wf) (o : CmIn) : (s.connect o).mem.wf := by
  unfold State.connect
  repeat' first
    | (with_reducible first
       | assumption | intro _ | apply wf_ite | apply wf_ite_fst | apply wf_emit | apply wf_modQp)
    | split | dsimp only

theorem wf_execCmRequest {s : State} (h : s.mem.wf) : Leaves (execCmRequest s) := by
  unfold execCmRequest
  repeat' first
    | (with_reducible first
       | assumption | intro _ | apply wf_ite | apply wf_ite_fst | apply leaves_next | apply wf_firmwareNet
       | apply wf_connect)
    | split | dsimp only

theorem wf_replay {s : State} (h : s.mem.wf) (down : Bool) : (s.replay down).mem.wf := by
  unfold State.replay
  repeat' first
    | (with_reducible first
       | assumption | intro _ | apply wf_ite | apply wf_ite_fst | apply wf_link | apply wf_sendFrame | apply wf_foldl
       | apply wf_foldl_fst)
    | split | dsimp only

theorem wf_retrain {s : State} (h : s.mem.wf) (down : Bool) : (s.retrain down).mem.wf := by
  unfold State.retrain
  repeat' first
    | (with_reducible first
       | assumption | intro _ | apply wf_ite | apply wf_ite_fst | apply wf_modPort | apply wf_foldl | apply wf_foldl_fst)
    | split | dsimp only

theorem wf_replayOnce {s : State} (h : s.mem.wf) (down : Bool) : (s.replayOnce down).mem.wf := by
  unfold State.replayOnce
  repeat' first
    | (with_reducible first
       | assumption | intro _ | apply wf_ite | apply wf_ite_fst | apply wf_link | apply wf_modLink | apply wf_replay
       | apply wf_retrain)
    | split | dsimp only

theorem wf_execReplayTimeout {s : State} (h : s.mem.wf) : Leaves (execReplayTimeout s) := by
  unfold execReplayTimeout
  repeat' first
    | (with_reducible first
       | assumption | intro _ | apply wf_ite | apply wf_ite_fst | apply leaves_next | apply wf_post | apply wf_link
       | apply wf_replay | apply wf_replayOnce)
    | split | dsimp only

theorem wf_execAckTimer {s : State} (h : s.mem.wf) : Leaves (execAckTimer s) := by
  unfold execAckTimer
  repeat' first
    | (with_reducible first
       | assumption | intro _ | apply wf_ite | apply wf_ite_fst | apply leaves_next | apply wf_post | apply wf_link
       | apply wf_sendFrame)
    | split | dsimp only

theorem wf_takeAck {s : State} (h : s.mem.wf) (down : Bool) (f : FrameIn) : (s.takeAck down f).mem.wf := by
  unfold State.takeAck
  repeat' first
    | (with_reducible first
       | assumption | intro _ | apply wf_ite | apply wf_ite_fst | apply wf_modLink | apply wf_replay)
    | split | dsimp only

theorem wf_arrive {s : State} (h : s.mem.wf) (down : Bool) (c : Coach) : (s.arrive down c).mem.wf := by
  unfold State.arrive
  repeat' first
    | (with_reducible first
       | assumption | intro _ | apply wf_ite | apply wf_ite_fst | apply wf_post | apply wf_kdrop | apply wf_modLink)
    | split | dsimp only

theorem wf_assemble {s : State} (h : s.mem.wf) (down : Bool) (n : Nat) (fs : List (List Byte)) : (s.assemble down n fs).mem.wf := by
  induction n generalizing s fs with
  | zero =>
    unfold State.assemble
    repeat' first
      | (with_reducible first
         | assumption | intro _ | apply wf_ite | apply wf_ite_fst | apply wf_drop | apply wf_modLink
         | apply wf_arrive)
      | split | dsimp only
  | succ n ih =>
    unfold State.assemble
    repeat' first
      | (with_reducible first
         | assumption | intro _ | apply wf_ite | apply wf_ite_fst | apply ih | apply wf_drop | apply wf_modLink
         | apply wf_arrive)
      | split | dsimp only

theorem wf_deliverEarly {s : State} (h : s.mem.wf) (down : Bool) (n : Nat) : (s.deliverEarly down n).mem.wf := by
  induction n generalizing s with
  | zero =>
    unfold State.deliverEarly
    repeat' first
      | (with_reducible first
         | assumption | intro _ | apply wf_ite | apply wf_ite_fst | apply wf_link | apply wf_modLink
         | apply wf_assemble)
      | split | dsimp only
  | succ n ih =>
    unfold State.deliverEarly
    repeat' first
      | (with_reducible first
         | assumption | intro _ | apply wf_ite | apply wf_ite_fst | apply ih | apply wf_link | apply wf_modLink
         | apply wf_assemble)
      | split | dsimp only

theorem wf_takeData {s : State} (h : s.mem.wf) (down : Bool) (f : FrameIn) : (s.takeData down f).mem.wf := by
  unfold State.takeData
  repeat' first
    | (with_reducible first
       | assumption | intro _ | apply wf_ite | apply wf_ite_fst | apply wf_post | apply wf_link | apply wf_modLink
       | apply wf_deliverEarly)
    | split | dsimp only

theorem wf_onFrame {s : State} (h : s.mem.wf) (type : Nat) (k : Bool → FrameIn → State → State) (hk : ∀ x0 x1 (t : State), t.mem.wf → (k x0 x1 t).mem.wf) : (s.onFrame type k).mem.wf := by
  unfold State.onFrame
  repeat' first
    | (with_reducible first
       | assumption | intro _ | apply wf_ite | apply wf_ite_fst | apply hk | apply wf_sendFrame | apply wf_dropFrame
       | apply wf_takeAck)
    | split | dsimp only

theorem wf_execLoopDataFrame {s : State} (h : s.mem.wf) : Leaves (execLoopDataFrame s) := by
  unfold execLoopDataFrame
  repeat' first
    | (with_reducible first
       | assumption | intro _ | apply wf_ite | apply wf_ite_fst | apply leaves_next | apply wf_takeData | apply wf_onFrame)
    | split | dsimp only

theorem wf_execLoopAckFrame {s : State} (h : s.mem.wf) : Leaves (execLoopAckFrame s) := by
  unfold execLoopAckFrame
  repeat' first
    | (with_reducible first
       | assumption | intro _ | apply wf_ite | apply wf_ite_fst | apply leaves_next | apply wf_onFrame)
    | split | dsimp only

theorem wf_execLoopNakFrame {s : State} (h : s.mem.wf) : Leaves (execLoopNakFrame s) := by
  unfold execLoopNakFrame
  repeat' first
    | (with_reducible first
       | assumption | intro _ | apply wf_ite | apply wf_ite_fst | apply leaves_next | apply wf_link | apply wf_replay
       | apply wf_replayOnce | apply wf_onFrame)
    | split | dsimp only

theorem wf_execPodcfgWrite {s : State} (h : s.mem.wf) : Leaves (execPodcfgWrite s) := by
  unfold execPodcfgWrite
  repeat' first
    | (with_reducible first
       | assumption | intro _ | apply wf_ite | apply wf_ite_fst | apply leaves_next | apply wf_writePodcfg)
    | split | dsimp only

theorem wf_reroute {s : State} (h : s.mem.wf) : (s.reroute).mem.wf := by
  unfold State.reroute
  repeat' first
    | (with_reducible first
       | assumption | intro _ | apply wf_ite | apply wf_ite_fst | apply wf_routeRemote | apply wf_foldl | apply wf_foldl_fst)
    | split | dsimp only

theorem wf_execLinkDown {s : State} (h : s.mem.wf) : Leaves (execLinkDown s) := by
  unfold execLinkDown
  repeat' first
    | (with_reducible first
       | assumption | intro _ | apply wf_ite | apply wf_ite_fst | apply leaves_next | apply wf_inform | apply wf_modPort
       | apply wf_replay)
    | split | dsimp only

theorem wf_execLinkUp {s : State} (h : s.mem.wf) : Leaves (execLinkUp s) := by
  unfold execLinkUp
  repeat' first
    | (with_reducible first
       | assumption | intro _ | apply wf_ite | apply wf_ite_fst | apply leaves_next | apply wf_modPort | apply wf_replay
       | apply wf_reroute)
    | split | dsimp only

theorem wf_wrMarked {s : State} (h : s.mem.wf) (ps : List (Phys × Nat)) (bs : List Byte) (pois : Bool) : (s.wrMarked ps bs pois).mem.wf := by
  unfold State.wrMarked
  repeat' first
    | (with_reducible first
       | assumption | intro _ | apply wf_ite | apply wf_ite_fst | apply wf_mark | apply wf_wrAll | apply wf_foldl
       | apply wf_foldl_fst)
    | split | dsimp only

theorem wf_performRemote {s : State} (h : s.mem.wf) (r : RemoteReq) : (s.performRemote r).1.mem.wf := by
  unfold State.performRemote
  repeat' first
    | (with_reducible first
       | assumption | intro _ | apply wf_ite | apply wf_ite_fst | apply wf_drop | apply wf_wr | apply wf_hot
       | apply wf_audit | apply wf_wrMarked)
    | split | dsimp only

theorem wf_execRemoteRequest {s : State} (h : s.mem.wf) : Leaves (execRemoteRequest s) := by
  unfold execRemoteRequest
  repeat' first
    | (with_reducible first
       | assumption | intro _ | apply wf_ite | apply wf_ite_fst | apply leaves_next | apply wf_routeRemote
       | apply wf_performRemote | refine of_fst ?_ (by assumption))
    | split | dsimp only

theorem wf_loadReg {s : State} (h : s.mem.wf) (o : SFmt) (n : Nat) (ext : Nat → Word) : (s.loadReg o n ext).mem.wf := by
  unfold State.loadReg
  repeat' first
    | (with_reducible first
       | assumption | intro _ | apply wf_ite | apply wf_ite_fst | apply wf_setG | apply wf_advance | apply wf_guardedAt
       | apply wf_load)
    | split | dsimp only

theorem wf_storeReg {s : State} (h : s.mem.wf) (o : SFmt) (n : Nat) : (s.storeReg o n).mem.wf := by
  unfold State.storeReg
  repeat' first
    | (with_reducible first
       | assumption | intro _ | apply wf_ite | apply wf_ite_fst | apply wf_guardedAt | apply wf_store)
    | split | dsimp only

theorem wf_orderAtomic {s : State} (h : s.mem.wf) (o : SFmt) : (s.orderAtomic o).mem.wf := by
  unfold State.orderAtomic
  repeat' first
    | (with_reducible first
       | assumption | intro _ | apply wf_ite | apply wf_ite_fst | apply wf_orderLate)
    | split | dsimp only

theorem wf_atomicReg {s : State} (h : s.mem.wf) (o : SFmt) (op : RemoteOp) : (s.atomicReg o op).mem.wf := by
  unfold State.atomicReg
  repeat' first
    | (with_reducible first
       | assumption | intro _ | apply wf_ite | apply wf_ite_fst | apply wf_setG | apply wf_advance | apply wf_guardedAt
       | apply wf_atomic | apply wf_orderAtomic)
    | split | dsimp only

theorem wf_lineOp {s : State} (h : s.mem.wf) (o : SFmt) (a : Acc) (op : RemoteOp) (wb : Bool) : (s.lineOp o a op wb).mem.wf := by
  unfold State.lineOp
  repeat' first
    | (with_reducible first
       | assumption | intro _ | apply wf_ite | apply wf_ite_fst | apply wf_advance | apply wf_drop | apply wf_remote
       | apply wf_trap | apply wf_access | apply wf_viaPod | refine of_fst ?_ (by assumption))
    | split | dsimp only

theorem wf_prefetch {s : State} (h : s.mem.wf) (ea : Nat) : (s.prefetch ea).mem.wf := by
  unfold State.prefetch
  repeat' first
    | (with_reducible first
       | assumption | intro _ | apply wf_ite | apply wf_ite_fst | apply wf_fill)
    | split | dsimp only

theorem wf_execLdb {s : State} (h : s.mem.wf) (o : SFmt) : Leaves (execLdb o s) := by
  unfold execLdb
  repeat' first
    | (with_reducible first
       | assumption | intro _ | apply wf_ite | apply wf_ite_fst | apply leaves_next | apply wf_loadReg)
    | split | dsimp only

theorem wf_execLdbu {s : State} (h : s.mem.wf) (o : SFmt) : Leaves (execLdbu o s) := by
  unfold execLdbu
  repeat' first
    | (with_reducible first
       | assumption | intro _ | apply wf_ite | apply wf_ite_fst | apply leaves_next | apply wf_loadReg)
    | split | dsimp only

theorem wf_execLdh {s : State} (h : s.mem.wf) (o : SFmt) : Leaves (execLdh o s) := by
  unfold execLdh
  repeat' first
    | (with_reducible first
       | assumption | intro _ | apply wf_ite | apply wf_ite_fst | apply leaves_next | apply wf_loadReg)
    | split | dsimp only

theorem wf_execLdhu {s : State} (h : s.mem.wf) (o : SFmt) : Leaves (execLdhu o s) := by
  unfold execLdhu
  repeat' first
    | (with_reducible first
       | assumption | intro _ | apply wf_ite | apply wf_ite_fst | apply leaves_next | apply wf_loadReg)
    | split | dsimp only

theorem wf_execLdw {s : State} (h : s.mem.wf) (o : SFmt) : Leaves (execLdw o s) := by
  unfold execLdw
  repeat' first
    | (with_reducible first
       | assumption | intro _ | apply wf_ite | apply wf_ite_fst | apply leaves_next | apply wf_loadReg)
    | split | dsimp only

theorem wf_execLdwu {s : State} (h : s.mem.wf) (o : SFmt) : Leaves (execLdwu o s) := by
  unfold execLdwu
  repeat' first
    | (with_reducible first
       | assumption | intro _ | apply wf_ite | apply wf_ite_fst | apply leaves_next | apply wf_loadReg)
    | split | dsimp only

theorem wf_execLdd {s : State} (h : s.mem.wf) (o : SFmt) : Leaves (execLdd o s) := by
  unfold execLdd
  repeat' first
    | (with_reducible first
       | assumption | intro _ | apply wf_ite | apply wf_ite_fst | apply leaves_next | apply wf_loadReg)
    | split | dsimp only

theorem wf_execStb {s : State} (h : s.mem.wf) (o : SFmt) : Leaves (execStb o s) := by
  unfold execStb
  repeat' first
    | (with_reducible first
       | assumption | intro _ | apply wf_ite | apply wf_ite_fst | apply leaves_next | apply wf_storeReg)
    | split | dsimp only

theorem wf_execSth {s : State} (h : s.mem.wf) (o : SFmt) : Leaves (execSth o s) := by
  unfold execSth
  repeat' first
    | (with_reducible first
       | assumption | intro _ | apply wf_ite | apply wf_ite_fst | apply leaves_next | apply wf_storeReg)
    | split | dsimp only

theorem wf_execStw {s : State} (h : s.mem.wf) (o : SFmt) : Leaves (execStw o s) := by
  unfold execStw
  repeat' first
    | (with_reducible first
       | assumption | intro _ | apply wf_ite | apply wf_ite_fst | apply leaves_next | apply wf_storeReg)
    | split | dsimp only

theorem wf_execStd {s : State} (h : s.mem.wf) (o : SFmt) : Leaves (execStd o s) := by
  unfold execStd
  repeat' first
    | (with_reducible first
       | assumption | intro _ | apply wf_ite | apply wf_ite_fst | apply leaves_next | apply wf_storeReg)
    | split | dsimp only

theorem wf_execLdq {s : State} (h : s.mem.wf) (o : SFmt) : Leaves (execLdq o s) := by
  unfold execLdq
  repeat' first
    | (with_reducible first
       | assumption | intro _ | apply wf_ite | apply wf_ite_fst | apply leaves_next | apply wf_setG | apply wf_advance
       | apply wf_guardedAt | apply wf_load)
    | split | dsimp only

theorem wf_execStq {s : State} (h : s.mem.wf) (o : SFmt) : Leaves (execStq o s) := by
  unfold execStq
  repeat' first
    | (with_reducible first
       | assumption | intro _ | apply wf_ite | apply wf_ite_fst | apply leaves_next | apply wf_guardedAt | apply wf_store)
    | split | dsimp only

theorem wf_execPref {s : State} (h : s.mem.wf) (o : SFmt) : Leaves (execPref o s) := by
  unfold execPref
  repeat' first
    | (with_reducible first
       | assumption | intro _ | apply wf_ite | apply wf_ite_fst | apply leaves_next | apply wf_advance | apply wf_guarded
       | apply wf_prefetch)
    | split | dsimp only

theorem wf_execCflush {s : State} (h : s.mem.wf) (o : SFmt) : Leaves (execCflush o s) := by
  unfold execCflush
  repeat' first
    | (with_reducible first
       | assumption | intro _ | apply wf_ite | apply wf_ite_fst | apply leaves_next | apply wf_guardedAt | apply wf_lineOp)
    | split | dsimp only

theorem wf_execCinv {s : State} (h : s.mem.wf) (o : SFmt) : Leaves (execCinv o s) := by
  unfold execCinv
  repeat' first
    | (with_reducible first
       | assumption | intro _ | apply wf_ite | apply wf_ite_fst | apply leaves_next | apply wf_guardedSup | apply wf_lineOp)
    | split | dsimp only

theorem wf_execAadd {s : State} (h : s.mem.wf) (o : SFmt) : Leaves (execAadd o s) := by
  unfold execAadd
  repeat' first
    | (with_reducible first
       | assumption | intro _ | apply wf_ite | apply wf_ite_fst | apply leaves_next | apply wf_atomicReg)
    | split | dsimp only

theorem wf_execAand {s : State} (h : s.mem.wf) (o : SFmt) : Leaves (execAand o s) := by
  unfold execAand
  repeat' first
    | (with_reducible first
       | assumption | intro _ | apply wf_ite | apply wf_ite_fst | apply leaves_next | apply wf_atomicReg)
    | split | dsimp only

theorem wf_execAor {s : State} (h : s.mem.wf) (o : SFmt) : Leaves (execAor o s) := by
  unfold execAor
  repeat' first
    | (with_reducible first
       | assumption | intro _ | apply wf_ite | apply wf_ite_fst | apply leaves_next | apply wf_atomicReg)
    | split | dsimp only

theorem wf_execAxor {s : State} (h : s.mem.wf) (o : SFmt) : Leaves (execAxor o s) := by
  unfold execAxor
  repeat' first
    | (with_reducible first
       | assumption | intro _ | apply wf_ite | apply wf_ite_fst | apply leaves_next | apply wf_atomicReg)
    | split | dsimp only

theorem wf_execAmin {s : State} (h : s.mem.wf) (o : SFmt) : Leaves (execAmin o s) := by
  unfold execAmin
  repeat' first
    | (with_reducible first
       | assumption | intro _ | apply wf_ite | apply wf_ite_fst | apply leaves_next | apply wf_atomicReg)
    | split | dsimp only

theorem wf_execAmax {s : State} (h : s.mem.wf) (o : SFmt) : Leaves (execAmax o s) := by
  unfold execAmax
  repeat' first
    | (with_reducible first
       | assumption | intro _ | apply wf_ite | apply wf_ite_fst | apply leaves_next | apply wf_atomicReg)
    | split | dsimp only

theorem wf_execAminu {s : State} (h : s.mem.wf) (o : SFmt) : Leaves (execAminu o s) := by
  unfold execAminu
  repeat' first
    | (with_reducible first
       | assumption | intro _ | apply wf_ite | apply wf_ite_fst | apply leaves_next | apply wf_atomicReg)
    | split | dsimp only

theorem wf_execAmaxu {s : State} (h : s.mem.wf) (o : SFmt) : Leaves (execAmaxu o s) := by
  unfold execAmaxu
  repeat' first
    | (with_reducible first
       | assumption | intro _ | apply wf_ite | apply wf_ite_fst | apply leaves_next | apply wf_atomicReg)
    | split | dsimp only

theorem wf_execAswap {s : State} (h : s.mem.wf) (o : SFmt) : Leaves (execAswap o s) := by
  unfold execAswap
  repeat' first
    | (with_reducible first
       | assumption | intro _ | apply wf_ite | apply wf_ite_fst | apply leaves_next | apply wf_atomicReg)
    | split | dsimp only

theorem wf_execAcas {s : State} (h : s.mem.wf) (o : SFmt) : Leaves (execAcas o s) := by
  unfold execAcas
  repeat' first
    | (with_reducible first
       | assumption | intro _ | apply wf_ite | apply wf_ite_fst | apply leaves_next | apply wf_setG | apply wf_advance
       | apply wf_guardedAt | apply wf_atomic | apply wf_orderAtomic)
    | split | dsimp only

theorem wf_execLdaq {s : State} (h : s.mem.wf) (o : SFmt) : Leaves (execLdaq o s) := by
  unfold execLdaq
  repeat' first
    | (with_reducible first
       | assumption | intro _ | apply wf_ite | apply wf_ite_fst | apply leaves_next | apply wf_setG | apply wf_advance
       | apply wf_guardedAt | apply wf_orderLate | apply wf_load)
    | split | dsimp only

theorem wf_execStrel {s : State} (h : s.mem.wf) (o : SFmt) : Leaves (execStrel o s) := by
  unfold execStrel
  repeat' first
    | (with_reducible first
       | assumption | intro _ | apply wf_ite | apply wf_ite_fst | apply leaves_next | apply wf_guardedAt | apply wf_store)
    | split | dsimp only

theorem wf_fenced {s : State} (h : s.mem.wf) (kind : Nat) (pod : Bool) : (s.fenced kind pod).mem.wf := by
  unfold State.fenced
  repeat' first
    | (with_reducible first
       | assumption | intro _ | apply wf_ite | apply wf_ite_fst | apply wf_orderStores | apply wf_orderLate)
    | split | dsimp only

theorem wf_execFence {s : State} (h : s.mem.wf) (o : SFmt) : Leaves (execFence o s) := by
  unfold execFence
  repeat' first
    | (with_reducible first
       | assumption | intro _ | apply wf_ite | apply wf_ite_fst | apply leaves_next | apply wf_advance | apply wf_waits
       | apply wf_guarded | apply wf_fenced)
    | split | dsimp only

theorem wf_execSbar {s : State} (h : s.mem.wf) (o : SFmt) : Leaves (execSbar o s) := by
  unfold execSbar
  repeat' first
    | (with_reducible first
       | assumption | intro _ | apply wf_ite | apply wf_ite_fst | apply leaves_next | apply wf_advance | apply wf_rereads
       | apply wf_guardedCtx | apply wf_foldl | apply wf_foldl_fst)
    | split | dsimp only

theorem wf_execSgpost {s : State} (h : s.mem.wf) (o : SFmt) : Leaves (execSgpost o s) := by
  unfold execSgpost
  repeat' first
    | (with_reducible first
       | assumption | intro _ | apply wf_ite | apply wf_ite_fst | apply leaves_next | apply wf_modMyTile | apply wf_advance
       | apply wf_guardedCtx)
    | split | dsimp only

theorem wf_execSgwait {s : State} (h : s.mem.wf) (o : SFmt) : Leaves (execSgwait o s) := by
  unfold execSgwait
  repeat' first
    | (with_reducible first
       | assumption | intro _ | apply wf_ite | apply wf_ite_fst | apply leaves_next | apply wf_advance | apply wf_waits
       | apply wf_guardedCtx | apply wf_orderLate)
    | split | dsimp only

theorem wf_writeLife {s : State} (h : s.mem.wf) : (s.writeLife).mem.wf := by
  unfold State.writeLife
  repeat' first
    | (with_reducible first
       | assumption | intro _ | apply wf_ite | apply wf_ite_fst)
    | split | dsimp only

theorem wf_postLife {s : State} (h : s.mem.wf) : (s.postLife).mem.wf := by
  unfold State.postLife
  repeat' first
    | (with_reducible first
       | assumption | intro _ | apply wf_ite | apply wf_ite_fst | apply wf_post)
    | split | dsimp only

theorem wf_execLifetimeRecordWrite {s : State} (h : s.mem.wf) : Leaves (execLifetimeRecordWrite s) := by
  unfold execLifetimeRecordWrite
  repeat' first
    | (with_reducible first
       | assumption | intro _ | apply wf_ite | apply wf_ite_fst | apply leaves_next | apply wf_writeLife | apply wf_postLife)
    | split | dsimp only

theorem wf_copyOut {s : State} (h : s.mem.wf) (root : Word) (base n : Nat) (bs : List Byte) : (s.copyOut root base n bs).mem.wf := by
  unfold State.copyOut
  repeat' first
    | (with_reducible first
       | assumption | intro _ | apply wf_ite | apply wf_ite_fst | apply wf_inform | apply wf_freeVal | apply wf_hostWrite
       | refine of_fst ?_ (by assumption))
    | split | dsimp only

theorem wf_execRecordCopyRequest {s : State} (h : s.mem.wf) : Leaves (execRecordCopyRequest s) := by
  unfold execRecordCopyRequest
  repeat' first
    | (with_reducible first
       | assumption | intro _ | apply wf_ite | apply wf_ite_fst | apply leaves_next | apply wf_copyOut)
    | split | dsimp only

theorem wf_thermalStop {s : State} (h : s.mem.wf) : (s.thermalStop).mem.wf := by
  unfold State.thermalStop
  repeat' first
    | (with_reducible first
       | assumption | intro _ | apply wf_ite | apply wf_ite_fst | apply wf_modSys | apply wf_writeLife | apply filter_wf)
    | split | dsimp only

theorem wf_execPowerSample {s : State} (h : s.mem.wf) : Leaves (execPowerSample s) := by
  unfold execPowerSample
  repeat' first
    | (with_reducible first
       | assumption | intro _ | apply wf_ite | apply wf_ite_fst | apply leaves_next | apply wf_modSys | apply wf_thermalStop
       | apply wf_foldl | apply wf_foldl_fst)
    | split | dsimp only

theorem wf_countEcc {s : State} (h : s.mem.wf) (key : Nat) : (s.countEcc key).mem.wf := by
  unfold State.countEcc
  repeat' first
    | (with_reducible first
       | assumption | intro _ | apply wf_ite | apply wf_ite_fst)
    | split | dsimp only

theorem wf_execEccError {s : State} (h : s.mem.wf) : Leaves (execEccError s) := by
  unfold execEccError
  repeat' first
    | (with_reducible first
       | assumption | intro _ | apply wf_ite | apply wf_ite_fst | apply leaves_next | apply wf_inform | apply wf_mark
       | apply wf_countEcc)
    | split | dsimp only

theorem wf_writtenBack {s : State} (h : s.mem.wf) : (s.writtenBack).mem.wf := by
  unfold State.writtenBack
  repeat' first
    | (with_reducible first
       | assumption | intro _ | apply wf_ite | apply wf_ite_fst | apply wf_drop | apply wf_foldl | apply wf_foldl_fst)
    | split | dsimp only

theorem wf_cleared {s : State} (h : s.mem.wf) : (s.cleared).mem.wf := by
  unfold State.cleared
  repeat' first
    | (with_reducible first
       | assumption | intro _ | apply wf_ite | apply wf_ite_fst | apply wf_writtenBack | apply filter_wf)
    | split | dsimp only

theorem wf_zeroHbm {s : State} (h : s.mem.wf) (keep : List (Nat × Nat)) : (s.zeroHbm keep).mem.wf := by
  unfold State.zeroHbm
  repeat' first
    | (with_reducible first
       | assumption | intro _ | apply wf_ite | apply wf_ite_fst | apply filter_wf)
    | split | dsimp only

theorem wf_modBoot {s : State} (h : s.mem.wf) (f : Boot → Boot) : (s.modBoot f).mem.wf := by
  unfold State.modBoot
  repeat' first
    | (with_reducible first
       | assumption | intro _ | apply wf_ite | apply wf_ite_fst | apply wf_modSys)
    | split | dsimp only

theorem wf_bootStop {s : State} (h : s.mem.wf) (step code : Nat) : (s.bootStop step code).mem.wf := by
  unfold State.bootStop
  repeat' first
    | (with_reducible first
       | assumption | intro _ | apply wf_ite | apply wf_ite_fst | apply wf_modBoot)
    | split | dsimp only

theorem wf_startCores {s : State} (h : s.mem.wf) : (s.startCores).mem.wf := by
  unfold State.startCores
  repeat' first
    | (with_reducible first
       | assumption | intro _ | apply wf_ite | apply wf_ite_fst | apply wf_modSys | apply wf_foldl | apply wf_foldl_fst
       | apply put_wf)
    | split | dsimp only

theorem wf_linkStep {s : State} (h : s.mem.wf) (down : List Nat) : (s.linkStep down).mem.wf := by
  unfold State.linkStep
  repeat' first
    | (with_reducible first
       | assumption | intro _ | apply wf_ite | apply wf_ite_fst | apply wf_postTake | apply wf_modBoot | apply wf_foldl
       | apply wf_foldl_fst)
    | split | dsimp only

theorem wf_endRepair {s : State} (h : s.mem.wf) (fail : Option Nat) (down : List Nat) : (s.endRepair fail down).mem.wf := by
  unfold State.endRepair
  repeat' first
    | (with_reducible first
       | assumption | intro _ | apply wf_ite | apply wf_ite_fst | apply wf_modBoot | apply wf_bootStop | apply wf_linkStep)
    | split | dsimp only

theorem wf_coldRest {s : State} (h : s.mem.wf) (o : StartIn) : (s.coldRest o).mem.wf := by
  unfold State.coldRest
  repeat' first
    | (with_reducible first
       | assumption | intro _ | apply wf_ite | apply wf_ite_fst | apply wf_hold | apply wf_zeroHbm | apply wf_modBoot
       | apply wf_bootStop | apply wf_startCores | apply wf_endRepair)
    | split | dsimp only

theorem wf_warmRest {s : State} (h : s.mem.wf) (o : StartIn) : (s.warmRest o).mem.wf := by
  unfold State.warmRest
  repeat' first
    | (with_reducible first
       | assumption | intro _ | apply wf_ite | apply wf_ite_fst | apply wf_zeroHbm | apply wf_modBoot | apply wf_bootStop
       | apply wf_startCores | apply wf_endRepair)
    | split | dsimp only

theorem wf_firstSteps {s : State} (h : s.mem.wf) (kind : Nat) (o : StartIn) (rest : State → State) (hrest : ∀ (t : State), t.mem.wf → (rest t).mem.wf) : (s.firstSteps kind o rest).mem.wf := by
  unfold State.firstSteps
  repeat' first
    | (with_reducible first
       | assumption | intro _ | apply wf_ite | apply wf_ite_fst | apply hrest | apply wf_postLife | apply wf_modBoot
       | apply wf_bootStop)
    | split | dsimp only

theorem wf_coldStart {s : State} (h : s.mem.wf) (o : StartIn) : (s.coldStart o).mem.wf := by
  unfold State.coldStart
  repeat' first
    | (with_reducible first
       | assumption | intro _ | apply wf_ite | apply wf_ite_fst | apply wf_cleared | apply wf_coldRest | apply wf_firstSteps)
    | split | dsimp only

theorem wf_warmStart {s : State} (h : s.mem.wf) (o : StartIn) : (s.warmStart o).mem.wf := by
  unfold State.warmStart
  repeat' first
    | (with_reducible first
       | assumption | intro _ | apply wf_ite | apply wf_ite_fst | apply wf_modSys | apply wf_kdrop | apply wf_cleared
       | apply wf_warmRest | apply wf_firstSteps)
    | split | dsimp only

theorem wf_judge {s : State} (h : s.mem.wf) (base : Nat) : (s.judge base).1.mem.wf := by
  unfold State.judge
  repeat' first
    | (with_reducible first
       | assumption | intro _ | apply wf_ite | apply wf_ite_fst | apply wf_modBoot)
    | split | dsimp only

theorem wf_execColdStart {s : State} (h : s.mem.wf) : Leaves (execColdStart s) := by
  unfold execColdStart
  repeat' first
    | (with_reducible first
       | assumption | intro _ | apply wf_ite | apply wf_ite_fst | apply leaves_next | apply wf_endRepair
       | apply wf_coldStart | apply wf_judge | refine of_fst ?_ (by assumption))
    | split | dsimp only

theorem wf_execWarmStart {s : State} (h : s.mem.wf) : Leaves (execWarmStart s) := by
  unfold execWarmStart
  repeat' first
    | (with_reducible first
       | assumption | intro _ | apply wf_ite | apply wf_ite_fst | apply leaves_next | apply wf_modBoot | apply wf_warmStart)
    | split | dsimp only

theorem wf_execThermalStopEnd {s : State} (h : s.mem.wf) : Leaves (execThermalStopEnd s) := by
  unfold execThermalStopEnd
  repeat' first
    | (with_reducible first
       | assumption | intro _ | apply wf_ite | apply wf_ite_fst | apply leaves_next | apply wf_warmStart)
    | split | dsimp only

theorem wf_execRecoveryFrame {s : State} (h : s.mem.wf) : Leaves (execRecoveryFrame s) := by
  unfold execRecoveryFrame
  repeat' first
    | (with_reducible first
       | assumption | intro _ | apply wf_ite | apply wf_ite_fst | apply leaves_next | apply wf_emit | apply wf_modBoot)
    | split | dsimp only

theorem wf_execRecoveryEnd {s : State} (h : s.mem.wf) : Leaves (execRecoveryEnd s) := by
  unfold execRecoveryEnd
  repeat' first
    | (with_reducible first
       | assumption | intro _ | apply wf_ite | apply wf_ite_fst | apply leaves_next | apply wf_emit | apply wf_modBoot
       | apply wf_coldStart)
    | split | dsimp only

theorem wf_execPowerLoss {s : State} (h : s.mem.wf) : Leaves (execPowerLoss s) := by
  unfold execPowerLoss
  repeat' first
    | (with_reducible first
       | assumption | intro _ | apply wf_ite | apply wf_ite_fst | apply leaves_next | apply wf_cleared | exact nil_wf)
    | split | dsimp only

theorem wf_execAttestationRequest {s : State} (h : s.mem.wf) : Leaves (execAttestationRequest s) := by
  unfold execAttestationRequest
  repeat' first
    | (with_reducible first
       | assumption | intro _ | apply wf_ite | apply wf_ite_fst | apply leaves_next | apply wf_emit)
    | split | dsimp only

theorem wf_execFuseSvnRaise {s : State} (h : s.mem.wf) : Leaves (execFuseSvnRaise s) := by
  unfold execFuseSvnRaise
  repeat' first
    | (with_reducible first
       | assumption | intro _ | apply wf_ite | apply wf_ite_fst | apply leaves_next)
    | split | dsimp only

theorem wf_modPtp {s : State} (h : s.mem.wf) (f : Ptp → Ptp) : (s.modPtp f).mem.wf := by
  unfold State.modPtp
  repeat' first
    | (with_reducible first
       | assumption | intro _ | apply wf_ite | apply wf_ite_fst | apply wf_modSys)
    | split | dsimp only

theorem wf_lockStep {s : State} (h : s.mem.wf) : (s.lockStep).mem.wf := by
  unfold State.lockStep
  repeat' first
    | (with_reducible first
       | assumption | intro _ | apply wf_ite | apply wf_ite_fst | apply wf_modBoot)
    | split | dsimp only

theorem wf_execPtpSync {s : State} (h : s.mem.wf) : Leaves (execPtpSync s) := by
  unfold execPtpSync
  repeat' first
    | (with_reducible first
       | assumption | intro _ | apply wf_ite | apply wf_ite_fst | apply leaves_next | apply wf_emit | apply wf_modPtp
       | apply wf_lockStep)
    | split | dsimp only

theorem wf_execPtpAnnounceTimeout {s : State} (h : s.mem.wf) : Leaves (execPtpAnnounceTimeout s) := by
  unfold execPtpAnnounceTimeout
  repeat' first
    | (with_reducible first
       | assumption | intro _ | apply wf_ite | apply wf_ite_fst | apply leaves_next | apply wf_modPtp)
    | split | dsimp only

theorem wf_execAnnounceReceived {s : State} (h : s.mem.wf) : Leaves (execAnnounceReceived s) := by
  unfold execAnnounceReceived
  repeat' first
    | (with_reducible first
       | assumption | intro _ | apply wf_ite | apply wf_ite_fst | apply leaves_next | apply wf_modPtp)
    | split | dsimp only

theorem wf_execTimeStep {s : State} (h : s.mem.wf) : Leaves (execTimeStep s) := by
  unfold execTimeStep
  repeat' first
    | (with_reducible first
       | assumption | intro _ | apply wf_ite | apply wf_ite_fst | apply leaves_next | apply wf_stepTime)
    | split | dsimp only

theorem wf_execTimerateWrite {s : State} (h : s.mem.wf) : Leaves (execTimerateWrite s) := by
  unfold execTimerateWrite
  repeat' first
    | (with_reducible first
       | assumption | intro _ | apply wf_ite | apply wf_ite_fst | apply leaves_next | apply wf_writeTimerate)
    | split | dsimp only

theorem wf_execPtpstatWrite {s : State} (h : s.mem.wf) : Leaves (execPtpstatWrite s) := by
  unfold execPtpstatWrite
  repeat' first
    | (with_reducible first
       | assumption | intro _ | apply wf_ite | apply wf_ite_fst | apply leaves_next | apply wf_writePtpstat)
    | split | dsimp only

theorem wf_execHotcfgWrite {s : State} (h : s.mem.wf) : Leaves (execHotcfgWrite s) := by
  unfold execHotcfgWrite
  repeat' first
    | (with_reducible first
       | assumption | intro _ | apply wf_ite | apply wf_ite_fst | apply leaves_next | apply wf_writeHotcfg)
    | split | dsimp only

theorem wf_execEvpendAck {s : State} (h : s.mem.wf) : Leaves (execEvpendAck s) := by
  unfold execEvpendAck
  repeat' first
    | (with_reducible first
       | assumption | intro _ | apply wf_ite | apply wf_ite_fst | apply leaves_next | apply wf_ackEvents)
    | split | dsimp only

theorem wf_execBootwalkGo {s : State} (h : s.mem.wf) : Leaves (execBootwalkGo s) := by
  unfold execBootwalkGo
  repeat' first
    | (with_reducible first
       | assumption | intro _ | apply wf_ite | apply wf_ite_fst | apply leaves_next | apply wf_writeBootwalk)
    | split | dsimp only

theorem wf_execRegisterWrite {s : State} (h : s.mem.wf) : Leaves (execRegisterWrite s) := by
  unfold execRegisterWrite
  repeat' first
    | (with_reducible first
       | assumption | intro _ | apply wf_ite | apply wf_ite_fst | apply leaves_next | apply wf_writeTile | apply wf_writeReg
       | apply wf_writeSvwdog | apply wf_writeSys)
    | split | dsimp only

end Sys2Proof.Laws
end

