-- ==== Sys2Proof/Laws/FormScalar.lean ====
section
/-! SUPPORT. The memory's canonical form (O51) is kept by the control and scalar instructions: one lemma for each. -/

namespace Sys2Proof.Laws

open Sys2Proof.Machine

theorem wf_branchIf {s : State} (h : s.mem.wf) (o : BFmt) (taken : Bool) : (s.branchIf o taken).mem.wf := by
  unfold State.branchIf
  repeat' first
    | (with_reducible first
       | assumption | intro _ | apply wf_ite | apply wf_ite_fst | apply wf_setPc | apply wf_advance)
    | split | dsimp only

theorem wf_cmpBranch {s : State} (h : s.mem.wf) (o : BFmt) (f : Word → Word → Bool) : (s.cmpBranch o f).mem.wf := by
  unfold State.cmpBranch
  repeat' first
    | (with_reducible first
       | assumption | intro _ | apply wf_ite | apply wf_ite_fst | apply wf_guarded | apply wf_branchIf)
    | split | dsimp only

theorem wf_execBr {s : State} (h : s.mem.wf) (o : BFmt) : Leaves (execBr o s) := by
  unfold execBr
  repeat' first
    | (with_reducible first
       | assumption | intro _ | apply wf_ite | apply wf_ite_fst | apply leaves_next | apply wf_cmpBranch)
    | split | dsimp only

theorem wf_execBeq {s : State} (h : s.mem.wf) (o : BFmt) : Leaves (execBeq o s) := by
  unfold execBeq
  repeat' first
    | (with_reducible first
       | assumption | intro _ | apply wf_ite | apply wf_ite_fst | apply leaves_next | apply wf_cmpBranch)
    | split | dsimp only

theorem wf_execBne {s : State} (h : s.mem.wf) (o : BFmt) : Leaves (execBne o s) := by
  unfold execBne
  repeat' first
    | (with_reducible first
       | assumption | intro _ | apply wf_ite | apply wf_ite_fst | apply leaves_next | apply wf_cmpBranch)
    | split | dsimp only

theorem wf_execBlt {s : State} (h : s.mem.wf) (o : BFmt) : Leaves (execBlt o s) := by
  unfold execBlt
  repeat' first
    | (with_reducible first
       | assumption | intro _ | apply wf_ite | apply wf_ite_fst | apply leaves_next | apply wf_cmpBranch)
    | split | dsimp only

theorem wf_execBge {s : State} (h : s.mem.wf) (o : BFmt) : Leaves (execBge o s) := by
  unfold execBge
  repeat' first
    | (with_reducible first
       | assumption | intro _ | apply wf_ite | apply wf_ite_fst | apply leaves_next | apply wf_cmpBranch)
    | split | dsimp only

theorem wf_execBltu {s : State} (h : s.mem.wf) (o : BFmt) : Leaves (execBltu o s) := by
  unfold execBltu
  repeat' first
    | (with_reducible first
       | assumption | intro _ | apply wf_ite | apply wf_ite_fst | apply leaves_next | apply wf_cmpBranch)
    | split | dsimp only

theorem wf_execBgeu {s : State} (h : s.mem.wf) (o : BFmt) : Leaves (execBgeu o s) := by
  unfold execBgeu
  repeat' first
    | (with_reducible first
       | assumption | intro _ | apply wf_ite | apply wf_ite_fst | apply leaves_next | apply wf_cmpBranch)
    | split | dsimp only

theorem wf_execBpt {s : State} (h : s.mem.wf) (o : BFmt) : Leaves (execBpt o s) := by
  unfold execBpt
  repeat' first
    | (with_reducible first
       | assumption | intro _ | apply wf_ite | apply wf_ite_fst | apply leaves_next | apply wf_guardedCtx
       | apply wf_branchIf)
    | split | dsimp only

theorem wf_execBmk {s : State} (h : s.mem.wf) (o : BFmt) : Leaves (execBmk o s) := by
  unfold execBmk
  repeat' first
    | (with_reducible first
       | assumption | intro _ | apply wf_ite | apply wf_ite_fst | apply leaves_next | apply wf_guardedCtx
       | apply wf_waitLink | apply wf_branchIf)
    | split | dsimp only

theorem wf_execJal {s : State} (h : s.mem.wf) (o : BFmt) : Leaves (execJal o s) := by
  unfold execJal
  repeat' first
    | (with_reducible first
       | assumption | intro _ | apply wf_ite | apply wf_ite_fst | apply leaves_next | apply wf_setG | apply wf_setPc
       | apply wf_guarded)
    | split | dsimp only

theorem wf_execJalr {s : State} (h : s.mem.wf) (o : BFmt) : Leaves (execJalr o s) := by
  unfold execJalr
  repeat' first
    | (with_reducible first
       | assumption | intro _ | apply wf_ite | apply wf_ite_fst | apply leaves_next | apply wf_setG | apply wf_setPc
       | apply wf_trap | apply wf_guarded)
    | split | dsimp only

theorem wf_execLoop {s : State} (h : s.mem.wf) (o : BFmt) : Leaves (execLoop o s) := by
  unfold execLoop
  repeat' first
    | (with_reducible first
       | assumption | intro _ | apply wf_ite | apply wf_ite_fst | apply leaves_next | apply wf_setG | apply wf_setPc
       | apply wf_advance | apply wf_guarded)
    | split | dsimp only

theorem wf_psetWith {s : State} (h : s.mem.wf) (o : BFmt) (v : State → BitVec 8) : (s.psetWith o v).mem.wf := by
  unfold State.psetWith
  repeat' first
    | (with_reducible first
       | assumption | intro _ | apply wf_ite | apply wf_ite_fst | apply wf_modMyTile | apply wf_advance | apply wf_post
       | apply wf_guardedCtx)
    | split | dsimp only

theorem wf_execPset {s : State} (h : s.mem.wf) (o : BFmt) : Leaves (execPset o s) := by
  unfold execPset
  repeat' first
    | (with_reducible first
       | assumption | intro _ | apply wf_ite | apply wf_ite_fst | apply leaves_next | apply wf_psetWith)
    | split | dsimp only

theorem wf_execPsetR {s : State} (h : s.mem.wf) (o : BFmt) : Leaves (execPsetR o s) := by
  unfold execPsetR
  repeat' first
    | (with_reducible first
       | assumption | intro _ | apply wf_ite | apply wf_ite_fst | apply leaves_next | apply wf_psetWith)
    | split | dsimp only

theorem wf_execPsetNz {s : State} (h : s.mem.wf) (o : BFmt) : Leaves (execPsetNz o s) := by
  unfold execPsetNz
  repeat' first
    | (with_reducible first
       | assumption | intro _ | apply wf_ite | apply wf_ite_fst | apply leaves_next | apply wf_psetWith)
    | split | dsimp only

theorem wf_endInvocation {s : State} (h : s.mem.wf) (d t c : Nat) : (s.endInvocation d t c).mem.wf := by
  unfold State.endInvocation
  repeat' first
    | (with_reducible first
       | assumption | intro _ | apply wf_ite | apply wf_ite_fst | apply wf_modCtx | apply wf_modSlot | apply wf_post
       | apply wf_forget | apply wf_settle | apply wf_access)
    | split | dsimp only

theorem wf_execRet {s : State} (h : s.mem.wf) (o : BFmt) : Leaves (execRet o s) := by
  unfold execRet
  repeat' first
    | (with_reducible first
       | assumption | intro _ | apply wf_ite | apply wf_ite_fst | apply leaves_next | apply wf_advance | apply wf_waits
       | apply wf_settle | apply wf_guardedCtx | apply wf_endInvocation)
    | split | dsimp only

theorem wf_execYield {s : State} (h : s.mem.wf) (o : BFmt) : Leaves (execYield o s) := by
  unfold execYield
  repeat' first
    | (with_reducible first
       | assumption | intro _ | apply wf_ite | apply wf_ite_fst | apply leaves_next | apply wf_advance | apply wf_waits
       | apply wf_guardedCtx)
    | split | dsimp only

theorem wf_execWaitp {s : State} (h : s.mem.wf) (o : BFmt) : Leaves (execWaitp o s) := by
  unfold execWaitp
  repeat' first
    | (with_reducible first
       | assumption | intro _ | apply wf_ite | apply wf_ite_fst | apply leaves_next | apply wf_advance | apply wf_waits
       | apply wf_guardedCtx)
    | split | dsimp only

theorem wf_regReg {s : State} (h : s.mem.wf) (o : SFmt) (f : Word → Word → Word) : (s.regReg o f).mem.wf := by
  unfold State.regReg
  repeat' first
    | (with_reducible first
       | assumption | intro _ | apply wf_ite | apply wf_ite_fst | apply wf_setG | apply wf_advance | apply wf_guarded)
    | split | dsimp only

theorem wf_regImm {s : State} (h : s.mem.wf) (o : SFmt) (f : Word → Word → Word) : (s.regImm o f).mem.wf := by
  unfold State.regImm
  repeat' first
    | (with_reducible first
       | assumption | intro _ | apply wf_ite | apply wf_ite_fst | apply wf_setG | apply wf_advance | apply wf_guarded)
    | split | dsimp only

theorem wf_regShift {s : State} (h : s.mem.wf) (o : SFmt) (f : Word → Nat → Word) : (s.regShift o f).mem.wf := by
  unfold State.regShift
  repeat' first
    | (with_reducible first
       | assumption | intro _ | apply wf_ite | apply wf_ite_fst | apply wf_setG | apply wf_advance | apply wf_guarded)
    | split | dsimp only

theorem wf_regUn {s : State} (h : s.mem.wf) (o : SFmt) (f : Word → Word) : (s.regUn o f).mem.wf := by
  unfold State.regUn
  repeat' first
    | (with_reducible first
       | assumption | intro _ | apply wf_ite | apply wf_ite_fst | apply wf_setG | apply wf_advance | apply wf_guarded)
    | split | dsimp only

theorem wf_execNop {s : State} (h : s.mem.wf) (o : SFmt) : Leaves (execNop o s) := by
  unfold execNop
  repeat' first
    | (with_reducible first
       | assumption | intro _ | apply wf_ite | apply wf_ite_fst | apply leaves_next | apply wf_advance | apply wf_guarded)
    | split | dsimp only

theorem wf_execAdd {s : State} (h : s.mem.wf) (o : SFmt) : Leaves (execAdd o s) := by
  unfold execAdd
  repeat' first
    | (with_reducible first
       | assumption | intro _ | apply wf_ite | apply wf_ite_fst | apply leaves_next | apply wf_regReg)
    | split | dsimp only

theorem wf_execSub {s : State} (h : s.mem.wf) (o : SFmt) : Leaves (execSub o s) := by
  unfold execSub
  repeat' first
    | (with_reducible first
       | assumption | intro _ | apply wf_ite | apply wf_ite_fst | apply leaves_next | apply wf_regReg)
    | split | dsimp only

theorem wf_execMul {s : State} (h : s.mem.wf) (o : SFmt) : Leaves (execMul o s) := by
  unfold execMul
  repeat' first
    | (with_reducible first
       | assumption | intro _ | apply wf_ite | apply wf_ite_fst | apply leaves_next | apply wf_regReg)
    | split | dsimp only

theorem wf_execMulh {s : State} (h : s.mem.wf) (o : SFmt) : Leaves (execMulh o s) := by
  unfold execMulh
  repeat' first
    | (with_reducible first
       | assumption | intro _ | apply wf_ite | apply wf_ite_fst | apply leaves_next | apply wf_regReg)
    | split | dsimp only

theorem wf_execMulhu {s : State} (h : s.mem.wf) (o : SFmt) : Leaves (execMulhu o s) := by
  unfold execMulhu
  repeat' first
    | (with_reducible first
       | assumption | intro _ | apply wf_ite | apply wf_ite_fst | apply leaves_next | apply wf_regReg)
    | split | dsimp only

theorem wf_execDiv {s : State} (h : s.mem.wf) (o : SFmt) : Leaves (execDiv o s) := by
  unfold execDiv
  repeat' first
    | (with_reducible first
       | assumption | intro _ | apply wf_ite | apply wf_ite_fst | apply leaves_next | apply wf_regReg)
    | split | dsimp only

theorem wf_execDivu {s : State} (h : s.mem.wf) (o : SFmt) : Leaves (execDivu o s) := by
  unfold execDivu
  repeat' first
    | (with_reducible first
       | assumption | intro _ | apply wf_ite | apply wf_ite_fst | apply leaves_next | apply wf_regReg)
    | split | dsimp only

theorem wf_execRem {s : State} (h : s.mem.wf) (o : SFmt) : Leaves (execRem o s) := by
  unfold execRem
  repeat' first
    | (with_reducible first
       | assumption | intro _ | apply wf_ite | apply wf_ite_fst | apply leaves_next | apply wf_regReg)
    | split | dsimp only

theorem wf_execRemu {s : State} (h : s.mem.wf) (o : SFmt) : Leaves (execRemu o s) := by
  unfold execRemu
  repeat' first
    | (with_reducible first
       | assumption | intro _ | apply wf_ite | apply wf_ite_fst | apply leaves_next | apply wf_regReg)
    | split | dsimp only

theorem wf_execAnd {s : State} (h : s.mem.wf) (o : SFmt) : Leaves (execAnd o s) := by
  unfold execAnd
  repeat' first
    | (with_reducible first
       | assumption | intro _ | apply wf_ite | apply wf_ite_fst | apply leaves_next | apply wf_regReg)
    | split | dsimp only

theorem wf_execOr {s : State} (h : s.mem.wf) (o : SFmt) : Leaves (execOr o s) := by
  unfold execOr
  repeat' first
    | (with_reducible first
       | assumption | intro _ | apply wf_ite | apply wf_ite_fst | apply leaves_next | apply wf_regReg)
    | split | dsimp only

theorem wf_execXor {s : State} (h : s.mem.wf) (o : SFmt) : Leaves (execXor o s) := by
  unfold execXor
  repeat' first
    | (with_reducible first
       | assumption | intro _ | apply wf_ite | apply wf_ite_fst | apply leaves_next | apply wf_regReg)
    | split | dsimp only

theorem wf_execAndn {s : State} (h : s.mem.wf) (o : SFmt) : Leaves (execAndn o s) := by
  unfold execAndn
  repeat' first
    | (with_reducible first
       | assumption | intro _ | apply wf_ite | apply wf_ite_fst | apply leaves_next | apply wf_regReg)
    | split | dsimp only

theorem wf_execShl {s : State} (h : s.mem.wf) (o : SFmt) : Leaves (execShl o s) := by
  unfold execShl
  repeat' first
    | (with_reducible first
       | assumption | intro _ | apply wf_ite | apply wf_ite_fst | apply leaves_next | apply wf_regReg)
    | split | dsimp only

theorem wf_execShr {s : State} (h : s.mem.wf) (o : SFmt) : Leaves (execShr o s) := by
  unfold execShr
  repeat' first
    | (with_reducible first
       | assumption | intro _ | apply wf_ite | apply wf_ite_fst | apply leaves_next | apply wf_regReg)
    | split | dsimp only

theorem wf_execSra {s : State} (h : s.mem.wf) (o : SFmt) : Leaves (execSra o s) := by
  unfold execSra
  repeat' first
    | (with_reducible first
       | assumption | intro _ | apply wf_ite | apply wf_ite_fst | apply leaves_next | apply wf_regReg)
    | split | dsimp only

theorem wf_execRotl {s : State} (h : s.mem.wf) (o : SFmt) : Leaves (execRotl o s) := by
  unfold execRotl
  repeat' first
    | (with_reducible first
       | assumption | intro _ | apply wf_ite | apply wf_ite_fst | apply leaves_next | apply wf_regReg)
    | split | dsimp only

theorem wf_execMin {s : State} (h : s.mem.wf) (o : SFmt) : Leaves (execMin o s) := by
  unfold execMin
  repeat' first
    | (with_reducible first
       | assumption | intro _ | apply wf_ite | apply wf_ite_fst | apply leaves_next | apply wf_regReg)
    | split | dsimp only

theorem wf_execMax {s : State} (h : s.mem.wf) (o : SFmt) : Leaves (execMax o s) := by
  unfold execMax
  repeat' first
    | (with_reducible first
       | assumption | intro _ | apply wf_ite | apply wf_ite_fst | apply leaves_next | apply wf_regReg)
    | split | dsimp only

theorem wf_execMinu {s : State} (h : s.mem.wf) (o : SFmt) : Leaves (execMinu o s) := by
  unfold execMinu
  repeat' first
    | (with_reducible first
       | assumption | intro _ | apply wf_ite | apply wf_ite_fst | apply leaves_next | apply wf_regReg)
    | split | dsimp only

theorem wf_execMaxu {s : State} (h : s.mem.wf) (o : SFmt) : Leaves (execMaxu o s) := by
  unfold execMaxu
  repeat' first
    | (with_reducible first
       | assumption | intro _ | apply wf_ite | apply wf_ite_fst | apply leaves_next | apply wf_regReg)
    | split | dsimp only

theorem wf_execSlt {s : State} (h : s.mem.wf) (o : SFmt) : Leaves (execSlt o s) := by
  unfold execSlt
  repeat' first
    | (with_reducible first
       | assumption | intro _ | apply wf_ite | apply wf_ite_fst | apply leaves_next | apply wf_regReg)
    | split | dsimp only

theorem wf_execSltu {s : State} (h : s.mem.wf) (o : SFmt) : Leaves (execSltu o s) := by
  unfold execSltu
  repeat' first
    | (with_reducible first
       | assumption | intro _ | apply wf_ite | apply wf_ite_fst | apply leaves_next | apply wf_regReg)
    | split | dsimp only

theorem wf_execSeq {s : State} (h : s.mem.wf) (o : SFmt) : Leaves (execSeq o s) := by
  unfold execSeq
  repeat' first
    | (with_reducible first
       | assumption | intro _ | apply wf_ite | apply wf_ite_fst | apply leaves_next | apply wf_regReg)
    | split | dsimp only

theorem wf_execAddi {s : State} (h : s.mem.wf) (o : SFmt) : Leaves (execAddi o s) := by
  unfold execAddi
  repeat' first
    | (with_reducible first
       | assumption | intro _ | apply wf_ite | apply wf_ite_fst | apply leaves_next | apply wf_regImm)
    | split | dsimp only

theorem wf_execAndi {s : State} (h : s.mem.wf) (o : SFmt) : Leaves (execAndi o s) := by
  unfold execAndi
  repeat' first
    | (with_reducible first
       | assumption | intro _ | apply wf_ite | apply wf_ite_fst | apply leaves_next | apply wf_regImm)
    | split | dsimp only

theorem wf_execOri {s : State} (h : s.mem.wf) (o : SFmt) : Leaves (execOri o s) := by
  unfold execOri
  repeat' first
    | (with_reducible first
       | assumption | intro _ | apply wf_ite | apply wf_ite_fst | apply leaves_next | apply wf_regImm)
    | split | dsimp only

theorem wf_execXori {s : State} (h : s.mem.wf) (o : SFmt) : Leaves (execXori o s) := by
  unfold execXori
  repeat' first
    | (with_reducible first
       | assumption | intro _ | apply wf_ite | apply wf_ite_fst | apply leaves_next | apply wf_regImm)
    | split | dsimp only

theorem wf_execSlti {s : State} (h : s.mem.wf) (o : SFmt) : Leaves (execSlti o s) := by
  unfold execSlti
  repeat' first
    | (with_reducible first
       | assumption | intro _ | apply wf_ite | apply wf_ite_fst | apply leaves_next | apply wf_regImm)
    | split | dsimp only

theorem wf_execShli {s : State} (h : s.mem.wf) (o : SFmt) : Leaves (execShli o s) := by
  unfold execShli
  repeat' first
    | (with_reducible first
       | assumption | intro _ | apply wf_ite | apply wf_ite_fst | apply leaves_next | apply wf_regShift)
    | split | dsimp only

theorem wf_execShri {s : State} (h : s.mem.wf) (o : SFmt) : Leaves (execShri o s) := by
  unfold execShri
  repeat' first
    | (with_reducible first
       | assumption | intro _ | apply wf_ite | apply wf_ite_fst | apply leaves_next | apply wf_regShift)
    | split | dsimp only

theorem wf_execSrai {s : State} (h : s.mem.wf) (o : SFmt) : Leaves (execSrai o s) := by
  unfold execSrai
  repeat' first
    | (with_reducible first
       | assumption | intro _ | apply wf_ite | apply wf_ite_fst | apply leaves_next | apply wf_regShift)
    | split | dsimp only

theorem wf_execClz {s : State} (h : s.mem.wf) (o : SFmt) : Leaves (execClz o s) := by
  unfold execClz
  repeat' first
    | (with_reducible first
       | assumption | intro _ | apply wf_ite | apply wf_ite_fst | apply leaves_next | apply wf_regUn)
    | split | dsimp only

theorem wf_execCtz {s : State} (h : s.mem.wf) (o : SFmt) : Leaves (execCtz o s) := by
  unfold execCtz
  repeat' first
    | (with_reducible first
       | assumption | intro _ | apply wf_ite | apply wf_ite_fst | apply leaves_next | apply wf_regUn)
    | split | dsimp only

theorem wf_execPopc {s : State} (h : s.mem.wf) (o : SFmt) : Leaves (execPopc o s) := by
  unfold execPopc
  repeat' first
    | (with_reducible first
       | assumption | intro _ | apply wf_ite | apply wf_ite_fst | apply leaves_next | apply wf_regUn)
    | split | dsimp only

theorem wf_execBrev {s : State} (h : s.mem.wf) (o : SFmt) : Leaves (execBrev o s) := by
  unfold execBrev
  repeat' first
    | (with_reducible first
       | assumption | intro _ | apply wf_ite | apply wf_ite_fst | apply leaves_next | apply wf_regUn)
    | split | dsimp only

theorem wf_execBswap {s : State} (h : s.mem.wf) (o : SFmt) : Leaves (execBswap o s) := by
  unfold execBswap
  repeat' first
    | (with_reducible first
       | assumption | intro _ | apply wf_ite | apply wf_ite_fst | apply leaves_next | apply wf_regUn)
    | split | dsimp only

theorem wf_execSel {s : State} (h : s.mem.wf) (o : SFmt) : Leaves (execSel o s) := by
  unfold execSel
  repeat' first
    | (with_reducible first
       | assumption | intro _ | apply wf_ite | apply wf_ite_fst | apply leaves_next | apply wf_setG | apply wf_advance
       | apply wf_guarded)
    | split | dsimp only

theorem wf_execMovi {s : State} (h : s.mem.wf) (o : SFmt) : Leaves (execMovi o s) := by
  unfold execMovi
  repeat' first
    | (with_reducible first
       | assumption | intro _ | apply wf_ite | apply wf_ite_fst | apply leaves_next | apply wf_setG | apply wf_advance
       | apply wf_guarded)
    | split | dsimp only

theorem wf_execLih {s : State} (h : s.mem.wf) (o : SFmt) : Leaves (execLih o s) := by
  unfold execLih
  repeat' first
    | (with_reducible first
       | assumption | intro _ | apply wf_ite | apply wf_ite_fst | apply leaves_next | apply wf_regUn)
    | split | dsimp only

theorem wf_execExtu {s : State} (h : s.mem.wf) (o : SFmt) : Leaves (execExtu o s) := by
  unfold execExtu
  repeat' first
    | (with_reducible first
       | assumption | intro _ | apply wf_ite | apply wf_ite_fst | apply leaves_next | apply wf_regUn)
    | split | dsimp only

theorem wf_execExts {s : State} (h : s.mem.wf) (o : SFmt) : Leaves (execExts o s) := by
  unfold execExts
  repeat' first
    | (with_reducible first
       | assumption | intro _ | apply wf_ite | apply wf_ite_fst | apply leaves_next | apply wf_regUn)
    | split | dsimp only

theorem wf_execIns {s : State} (h : s.mem.wf) (o : SFmt) : Leaves (execIns o s) := by
  unfold execIns
  repeat' first
    | (with_reducible first
       | assumption | intro _ | apply wf_ite | apply wf_ite_fst | apply leaves_next | apply wf_regReg)
    | split | dsimp only

end Sys2Proof.Laws
end

