-- ==== Sys2Proof/Laws/Guards.lean ====
section
/-! SUPPORT. What each guard of an instruction lets happen, said once: the instruction's own effect, passing over, or a trap. -/

namespace Sys2Proof.Laws

open Sys2Proof.Machine Sys2Proof.Safety

variable {s : State} {gn : Bool} {gs : BitVec 3}

/-- A true guard, or 0 on a core, lets a predicated instruction act (R295, R304). -/
theorem guarded_on (h : GuardOn s gn gs) (k : State → State) : s.guarded gn gs k = k s := by
  unfold GuardOn at h
  unfold State.guarded
  by_cases c : s.onCore = true <;> simp_all

/-- A false guard passes a predicated instruction over (R295). -/
theorem guarded_off (h : GuardOff s gn gs) (k : State → State) : s.guarded gn gs k = s.advance := by
  simp [State.guarded, h.1, h.2]

/-- A guard other than 0 on a core is ILLEGAL (R304). -/
theorem guarded_core (h : s.onCore = true) (hg : gs ≠ 0) (k : State → State) : s.guarded gn gs k = s.illegal := by
  rw [State.guarded, if_pos h, if_neg hg]

/-- A true guard lets an instruction of a context act (R295). -/
theorem guardedCtx_on (h : CtxOn s gn gs) (k : State → State) : s.guardedCtx gn gs k = k s := by
  simp [State.guardedCtx, State.guarded, h.1, h.2]

/-- A false guard passes an instruction of a context over (R295). -/
theorem guardedCtx_off (h : GuardOff s gn gs) (k : State → State) : s.guardedCtx gn gs k = s.advance := by
  simp [State.guardedCtx, State.guarded, h.1, h.2]

/-- An instruction of contexts is ILLEGAL on a core (R304). -/
theorem guardedCtx_core (h : s.onCore = true) (k : State → State) : s.guardedCtx gn gs k = s.illegal := by
  simp [State.guardedCtx, h]

/-- A supervisor-level instruction acts at supervisor level under a true guard (R304). -/
theorem guardedSup_on (h : SupOn s gn gs) (k : State → State) : s.guardedSup gn gs true k = k s := by
  obtain ⟨h1, h2⟩ := h
  have h3 := guarded_on h2 k
  unfold GuardOn at h2
  by_cases c : s.onCore = true <;> simp_all [State.guardedSup]

/-- A supervisor-level instruction of contexts acts at supervisor level under a true guard (R304). -/
theorem guardedSup_ctx (h1 : s.isSup = true) (h : CtxOn s gn gs) (core : Bool) (k : State → State) :
    s.guardedSup gn gs core k = k s := by
  simp [State.guardedSup, State.guarded, h.1, h.2, h1]

/-- A supervisor-level instruction traps PRIV at application level, whatever its guard (R304). -/
theorem guardedSup_app (h : s.isSup = false) (core : Bool) (k : State → State) : s.guardedSup gn gs core k = s.priv := by
  have h1 : s.onCore = false := by
    cases c : s.onCore
    · rfl
    · simp [State.isSup, c] at h
  simp [State.guardedSup, h1, h]

/-- An instruction of the vector, matrix and port groups acts on its active lanes (R199, R295). -/
theorem masked_on {a : Word} (h : LanesOn s gn gs a) (k : Word → State → State) : s.masked gn gs k = k a s := by
  obtain ⟨h1, h2, h3, h4⟩ := h
  subst h3; rw [State.masked, if_neg (by simp [h1]), h2]; exact if_neg h4

/-- With no active lane it is passed over (R199). -/
theorem masked_off (h1 : s.onCore = false) (h2 : s.me.maskLink gs.toNat = none) (h3 : s.activeLanes gn gs = 0)
    (k : Word → State → State) : s.masked gn gs k = s.advance := by
  simp [State.masked, h1, h2, h3]

/-- It is ILLEGAL on a core (R304). -/
theorem masked_core (h : s.onCore = true) (k : Word → State → State) : s.masked gn gs k = s.illegal := by
  simp [State.masked, h]

end Sys2Proof.Laws
end

