-- ==== Sys2Proof/Laws/Frames.lean ====
section
/-! SUPPORT. The frame of the general register instructions, said once for each operation on registers. -/

namespace Sys2Proof.Laws

open Sys2Proof.Machine Sys2Proof.Safety

/-- An agent that the tables tell apart has its tile below 256. -/
theorem agentOk {a : Agent} (h : AgentOk a) : ∀ d t c, a = .ctx d t c → t < 256 := by
  rintro d t c rfl; exact h

/-- A change of an agent's registers changes nothing else. -/
theorem onlyHarts_modHartOf (s : State) (a : Agent) (f : Hart → Hart) : OnlyHarts s (s.modHartOf a f) := by
  cases a with
  | core n =>
    refine ⟨rfl, fun _ _ => rfl, fun _ _ _ => rfl, fun k => ?_⟩
    simp only [State.modHartOf, core_modCore]; split
    · next h => rw [h]
    · rfl
  | ctx d t c =>
    refine ⟨rfl, fun e u => ?_, fun e u k => ?_, fun _ => rfl⟩
    · simp only [State.modHartOf, State.modCtx, tile_modTile]; split
      · next h => simp only [State.tile, h]; rfl
      · rfl
    · simp only [State.modHartOf, ctx_modCtx]; split
      · next h => obtain ⟨h, rfl⟩ := h; simp only [State.ctx, State.tile, h]
      · rfl

theorem onlyHarts_trans {s t u : State} (h : OnlyHarts s t) (k : OnlyHarts t u) : OnlyHarts s u := by
  obtain ⟨a, b, c, d⟩ := h; obtain ⟨a1, b1, c1, d1⟩ := k
  refine ⟨?_, ?_, ?_, ?_⟩
  · rw [a1]; rw [a]
  · intro x y; rw [b1, b]
  · intro x y z; rw [c1, c]
  · intro x; rw [d1, d]

/-- A change of the executing agent's program counter, wait and registers among ds keeps their frame. -/
theorem regFrame_modHart (s : State) (f : Hart → Hart) (ds : List (BitVec 5)) (h : AgentOk s.cur)
    (hf : f s.hart = { s.hart with
      g := (f s.hart).g, pc := (f s.hart).pc, wait := (f s.hart).wait, word := (f s.hart).word, issue := (f s.hart).issue
      nissue := (f s.hart).nissue })
    (hg : ∀ n : BitVec 5, n ∉ ds → n ≠ 0 → vget (f s.hart).g n.toNat 0 = vget s.hart.g n.toNat 0) : RegFrame s (s.modHart f) ds := by
  refine ⟨onlyHarts_modHartOf _ _ _, fun a ha hne => hartOf_modHartOf_ne s s.cur a _ (Ne.symm hne) (agentOk h) (agentOk ha), ?_, ?_, ?_⟩
  · rw [hart_modHart]; exact hf
  · intro n hn; rw [getG_modHart]
    by_cases h0 : n = 0
    · subst h0; rfl
    · rw [if_neg h0, hg n hn h0, State.getG, if_neg h0]
  · intro k; cases hc : s.cur <;> simp only [State.modHart, hc] <;> rfl

theorem regFrame_trans {s t u : State} {ds : List (BitVec 5)} (h : RegFrame s t ds) (k : RegFrame t u ds) (hc : t.cur = s.cur) : RegFrame s u ds := by
  obtain ⟨a, b, c, d, e⟩ := h; obtain ⟨a1, b1, c1, d1, e1⟩ := k
  refine ⟨onlyHarts_trans a a1, ?_, ?_, ?_, ?_⟩
  · intro x h1 h2; rw [b1 x h1 (hc ▸ h2), b x h1 h2]
  · rw [c1, c]
  · intro n h; rw [d1 n h, d n h]
  · intro n; rw [e1, e]

@[simp] theorem cur_setG (s : State) (n : BitVec 5) (v : Word) : (s.setG n v).cur = s.cur := by
  unfold State.setG; split
  · rfl
  · exact modHart_cur _ _

theorem regFrame_refl (s : State) (ds) : RegFrame s s ds := ⟨⟨rfl, fun _ _ => rfl, fun _ _ _ => rfl, fun _ => rfl⟩, fun _ _ _ => rfl, rfl, fun _ _ => rfl, fun _ => rfl⟩

theorem regFrame_setG (s : State) (n : BitVec 5) (v : Word) (ds : List (BitVec 5)) (h : AgentOk s.cur) (hn : n ∈ ds) : RegFrame s (s.setG n v) ds := by
  unfold State.setG; split
  · exact regFrame_refl _ _
  · refine regFrame_modHart _ _ _ h rfl ?_
    intro k hk _; exact vget_vput_ne _ _ _ (fun e => hk (BitVec.eq_of_toNat_eq e ▸ hn))

theorem regFrame_advance (s : State) (ds : List (BitVec 5)) (h : AgentOk s.cur) : RegFrame s s.advance ds :=
  regFrame_modHart _ _ _ h rfl fun _ _ _ => rfl

theorem regFrame_setPc (s : State) (v : Word) (ds : List (BitVec 5)) (h : AgentOk s.cur) : RegFrame s (s.setPc v) ds :=
  regFrame_modHart _ _ _ h rfl fun _ _ _ => rfl

/-- The frame of an instruction that writes one general register and moves on. -/
theorem setG_frame (s : State) (n : BitVec 5) (v : Word) (h : AgentOk s.cur) : RegFrame s (s.setG n v).advance [n] ∧ (s.setG n v).advance.pc = s.pc + 8 :=
  ⟨regFrame_trans (regFrame_setG s n v _ h (by simp)) (regFrame_advance _ _ (by rw [cur_setG]; exact h)) (cur_setG _ _ _), by simp⟩

/-- What holds after the instruction and after passing over holds under any guard. -/
theorem guarded_all {s : State} {gn : Bool} {gs : BitVec 3} {k : State → State} {P : State → Prop} (hc : s.onCore = true → gs = 0)
   (h1 : P (k s)) (h2 : P s.advance) : P (s.guarded gn gs k) := by
  unfold State.guarded; split
  · next h => rw [if_pos (hc h)]; exact h1
  · split <;> assumption

end Sys2Proof.Laws
end

