-- ==== Sys2Proof/Laws/Order.lean ====
section
/-! SUPPORT. The order of FP32 lanes as the reductions use it (R366): infinities at the ends, between them the order of an integer key. -/

namespace Sys2Proof.Laws

open Sys2Proof.Machine

/-- Where a value stands: below, among or above the finite ones. -/
def orderEnd : FNum → Int
  | .inf s => if s then -1 else 1
  | .nan | .zero _ | .num .. => 0

/-- The key of a finite value: twice its multiple of 2^-149, +0 above -0. -/
def orderKey : FNum → Int
  | .nan | .inf _ => 0
  | .zero s => if s then 0 else 1
  | .num s m e => 2 * (sgn s m * 2 ^ (e + 149).toNat)

theorem orderKey_zero (s : Bool) : orderKey (.zero s) = if s then 0 else 1 := rfl

/-- A value that an FP32 lane can hold. -/
def IsLane : FNum → Prop
  | .num _ m e => 0 < m ∧ -149 ≤ e
  | .nan | .inf _ | .zero _ => True

theorem isLane_ite {c : Prop} [Decidable c] {a b : FNum} (ha : c → IsLane a) (hb : ¬c → IsLane b) : IsLane (if c then a else b) := by
  by_cases h : c
  · rw [if_pos h]; exact ha h
  · rw [if_neg h]; exact hb h

theorem isLane_laneVal (x : Lane) : IsLane (laneVal x) := by
  unfold laneVal FFmt.val
  simp only [fp32, FFmt.qmin]
  refine isLane_ite (fun _ => trivial) fun _ => isLane_ite (fun _ => trivial) fun _ =>
    isLane_ite (fun _ => isLane_ite (fun _ => trivial) fun h => ?_) fun h => ?_
  · simp only [beq_iff_eq] at h
    exact ⟨by omega, by omega⟩
  · simp only [beq_iff_eq] at h
    exact ⟨by omega, by omega⟩

theorem two_pow_pos (n : Nat) : (0 : Int) < 2 ^ n := Int.pow_pos (by decide)

theorem orderKey_sign (s : Bool) (m : Nat) (e : Int) (h : IsLane (.num s m e)) :
    if s then orderKey (.num s m e) < 0 else 1 < orderKey (.num s m e) := by
  obtain ⟨h0, -⟩ := h
  have h1 : (0 : Int) < (m : Int) * 2 ^ (e + 149).toNat := Int.mul_pos (by omega) (two_pow_pos _)
  cases s <;> simp [orderKey, sgn, Int.neg_mul] <;> omega

/-- An aligned difference has the sign of the difference of the keys. -/
theorem alignSum_neg (a b e f : Int) (he : -149 ≤ e) (hf : -149 ≤ f) :
    ((alignSum a e (-b) f).1 < 0) ↔ a * 2 ^ (e + 149).toNat < b * 2 ^ (f + 149).toNat := by
  unfold alignSum
  simp only
  have h1 : (e + 149).toNat = (e - min e f).toNat + (min e f + 149).toNat := by omega
  have h2 : (f + 149).toNat = (f - min e f).toNat + (min e f + 149).toNat := by omega
  rw [h1, h2, Int.pow_add, Int.pow_add, ← Int.mul_assoc, ← Int.mul_assoc, Int.mul_lt_mul_right (two_pow_pos _), Int.neg_mul]
  omega

/-- Where neither is a NaN, the order of values is that of their places and keys. -/
theorem ltV_key {x y : FNum} (hx : IsLane x) (hy : IsLane y) (nx : x ≠ .nan) (ny : y ≠ .nan) :
    ltV true x y = true ↔ orderEnd x < orderEnd y ∨ (orderEnd x = orderEnd y ∧ orderKey x < orderKey y) := by
  cases x with
  | nan => exact absurd rfl nx
  | inf s => cases y with
    | nan => exact absurd rfl ny
    | inf t => cases s <;> cases t <;> simp [ltV, orderEnd, orderKey]
    | zero t => cases s <;> simp [ltV, orderEnd]
    | num t n f => cases s <;> simp [ltV, orderEnd]
  | zero s => cases y with
    | nan => exact absurd rfl ny
    | inf t => cases t <;> simp [ltV, orderEnd]
    | zero t => cases s <;> cases t <;> simp [ltV, orderEnd, orderKey]
    | num t n f =>
      have := orderKey_sign t n f hy
      cases s <;> cases t <;> simp [ltV, orderEnd] at * <;> simp [orderKey_zero] at * <;> omega
  | num s m e => cases y with
    | nan => exact absurd rfl ny
    | inf t => cases t <;> simp [ltV, orderEnd]
    | zero t =>
      have := orderKey_sign s m e hx
      cases s <;> cases t <;> simp [ltV, orderEnd] at * <;> simp [orderKey_zero] at * <;> omega
    | num t n f =>
      have := alignSum_neg (sgn s m) (sgn t n) e f hx.2 hy.2
      simp only [ltV, orderEnd, orderKey, decide_eq_true_iff]
      rw [this]
      simp only [Int.lt_irrefl, false_or, true_and]
      omega

/-- Under FP32 a lane that ranks above another ranks above every third or the third ranks above the other. -/
theorem above_fp32_cotrans {x y z : Lane} (hx : nanAs 0 x = false) (hy : nanAs 0 y = false) (hz : nanAs 0 z = false)
    (h : above 0 x y = true) : above 0 x z = true ∨ above 0 z y = true := by
  have e : ∀ a b, above 0 a b = ltV true (laneVal b) (laneVal a) := fun _ _ => rfl
  simp only [nanAs, beq_self_eq_true, Bool.true_and, beq_eq_false_iff_ne] at hx hy hz
  rw [e, ltV_key (isLane_laneVal y) (isLane_laneVal x) hy hx] at h
  rw [e, e, ltV_key (isLane_laneVal z) (isLane_laneVal x) hz hx, ltV_key (isLane_laneVal y) (isLane_laneVal z) hy hz]
  omega

/-- Under FP32 no lane ranks above itself. -/
theorem above_fp32_irrefl {x : Lane} (hx : nanAs 0 x = false) : above 0 x x = false := by
  simp only [nanAs, beq_self_eq_true, Bool.true_and, beq_eq_false_iff_ne] at hx
  cases h : above 0 x x with
  | false => rfl
  | true =>
    have e : above 0 x x = ltV true (laneVal x) (laneVal x) := rfl
    rw [e, ltV_key (isLane_laneVal x) (isLane_laneVal x) hx hx] at h
    omega

end Sys2Proof.Laws
end

