-- ==== Sys2Proof/Laws/PerInstr.lean ====
section
/-! SUPPORT. The family RoundTrip: a well-formed instruction decodes back from its word. One lemma per constructor of Instr. -/

namespace Sys2Proof.Laws

/-- The well-formed instruction i decodes back from the word it has; an event has none. -/
def RoundTrip.Statement (i : Instr) : Prop := ∀ w, i.wf = true → encode i = some w → decodeWord w = .ok i

/-- The round trip of an instruction whose word names it before its fields are checked. -/
theorem roundTrip_of_raw (i : Instr) (w0 : Word) (he : encode i = some w0) (hr : i.wf = true → rawDecode w0 = some i) :
    RoundTrip.Statement i := by
  intro w hw h
  rw [he, Option.some.injEq] at h
  subst h
  rw [decodeWord, hr hw]
  exact if_pos hw

/-- A word of format S below 0x30 is decoded as such (R304). -/
theorem raw_scalar (c : BitVec 8) (o : SFmt) (h : c.toNat < 0x30) : rawDecode (o.toWord c) = decodeS c o := by
  simp [rawDecode, h]

/-- A word of format B (R304). -/
theorem raw_branch (c : BitVec 8) (o : BFmt) (h : 0x30 ≤ c.toNat) (h2 : c.toNat < 0x40) : rawDecode (o.toWord c) = decodeB c o := by
  simp [rawDecode, Nat.not_lt.mpr h, h2]

/-- A word of format S of the memory group (R304). -/
theorem raw_memory (c : BitVec 8) (o : SFmt) (h : 0x40 ≤ c.toNat) (h2 : c.toNat < 0x60) : rawDecode (o.toWord c) = decodeS c o := by
  have h1 : ¬c.toNat < 0x30 := by omega
  simp [rawDecode, h1, Nat.not_lt.mpr h, h2]

/-- A word of format V (R304). -/
theorem raw_vector (c : BitVec 8) (o : VFmt) (h : 0x60 ≤ c.toNat) (h2 : c.toNat < 0xA0) : rawDecode (o.toWord c) = decodeV c o := by
  have h1 : ¬c.toNat < 0x30 := by omega
  have h3 : ¬c.toNat < 0x40 := by omega
  simp [rawDecode, h1, h3, Nat.not_lt.mpr h, h2]

/-- A word of format M (R304). -/
theorem raw_matrix (c : BitVec 8) (o : MFmt) (h : 0xA0 ≤ c.toNat) (h2 : c.toNat < 0xB0) : rawDecode (o.toWord c) = decodeM c o := by
  have h1 : ¬c.toNat < 0x30 := by omega
  have h3 : ¬c.toNat < 0x40 := by omega
  have h4 : ¬c.toNat < 0x60 := by omega
  simp [rawDecode, h1, h3, h4, Nat.not_lt.mpr h, h2]

/-- A word of format C (R304). -/
theorem raw_system (c : BitVec 8) (o : CFmt) (h : 0xB0 ≤ c.toNat) : rawDecode (o.toWord c) = decodeC c o := by
  have h1 : ¬c.toNat < 0x30 := by omega
  have h3 : ¬c.toNat < 0x40 := by omega
  have h4 : ¬c.toNat < 0x60 := by omega
  have h5 : ¬c.toNat < 0xA0 := by omega
  simp [rawDecode, h1, h3, h4, h5, Nat.not_lt.mpr h]

/-- A field that lies outside the bits an instruction uses is 0. -/
theorem field_zero {x m : BitVec 32} (h : ((x &&& ~~~m) == 0) = true) (l k : Nat) (hl : l + k ≤ 32)
    (hm : ∀ i, i < k → m.getLsbD (l + i) = false) : x.toNat / 2 ^ l % 2 ^ k = 0 := by
  apply Nat.eq_of_testBit_eq
  intro i
  rw [Nat.testBit_mod_two_pow, Nat.testBit_div_two_pow, Nat.zero_testBit]
  by_cases hi : i < k
  · have h2 := congrArg (fun v => v.getLsbD (l + i)) (beq_iff_eq.mp h)
    simp only [BitVec.getLsbD_and, BitVec.getLsbD_not, hm i hi, BitVec.ofNat_eq_ofNat, BitVec.getLsbD_zero] at h2
    have h3 : l + i < 32 := by omega
    have h4 : x.getLsbD (l + i) = false := by simpa [h3] using h2
    rw [BitVec.testBit_toNat, Nat.add_comm i l, h4, Bool.and_false]
  · simp [hi]

/-- An event has no word. -/
theorem roundTrip_of_event (i : Instr) (he : encode i = none) : RoundTrip.Statement i := by
  intro w _ h
  rw [he] at h
  cases h

theorem RoundTrip.nop (o : SFmt) : RoundTrip.Statement (.nop o) :=
  roundTrip_of_raw _ _ rfl fun _ => (raw_scalar _ o (by decide)).trans rfl

theorem RoundTrip.add (o : SFmt) : RoundTrip.Statement (.add o) :=
  roundTrip_of_raw _ _ rfl fun _ => (raw_scalar _ o (by decide)).trans rfl

theorem RoundTrip.sub (o : SFmt) : RoundTrip.Statement (.sub o) :=
  roundTrip_of_raw _ _ rfl fun _ => (raw_scalar _ o (by decide)).trans rfl

theorem RoundTrip.addi (o : SFmt) : RoundTrip.Statement (.addi o) :=
  roundTrip_of_raw _ _ rfl fun _ => (raw_scalar _ o (by decide)).trans rfl

theorem RoundTrip.mul (o : SFmt) : RoundTrip.Statement (.mul o) :=
  roundTrip_of_raw _ _ rfl fun _ => (raw_scalar _ o (by decide)).trans rfl

theorem RoundTrip.mulh (o : SFmt) : RoundTrip.Statement (.mulh o) :=
  roundTrip_of_raw _ _ rfl fun _ => (raw_scalar _ o (by decide)).trans rfl

theorem RoundTrip.mulhu (o : SFmt) : RoundTrip.Statement (.mulhu o) :=
  roundTrip_of_raw _ _ rfl fun _ => (raw_scalar _ o (by decide)).trans rfl

theorem RoundTrip.div (o : SFmt) : RoundTrip.Statement (.div o) :=
  roundTrip_of_raw _ _ rfl fun _ => (raw_scalar _ o (by decide)).trans rfl

theorem RoundTrip.divu (o : SFmt) : RoundTrip.Statement (.divu o) :=
  roundTrip_of_raw _ _ rfl fun _ => (raw_scalar _ o (by decide)).trans rfl

theorem RoundTrip.rem (o : SFmt) : RoundTrip.Statement (.rem o) :=
  roundTrip_of_raw _ _ rfl fun _ => (raw_scalar _ o (by decide)).trans rfl

theorem RoundTrip.remu (o : SFmt) : RoundTrip.Statement (.remu o) :=
  roundTrip_of_raw _ _ rfl fun _ => (raw_scalar _ o (by decide)).trans rfl

theorem RoundTrip.and (o : SFmt) : RoundTrip.Statement (.and o) :=
  roundTrip_of_raw _ _ rfl fun _ => (raw_scalar _ o (by decide)).trans rfl

theorem RoundTrip.or (o : SFmt) : RoundTrip.Statement (.or o) :=
  roundTrip_of_raw _ _ rfl fun _ => (raw_scalar _ o (by decide)).trans rfl

theorem RoundTrip.xor (o : SFmt) : RoundTrip.Statement (.xor o) :=
  roundTrip_of_raw _ _ rfl fun _ => (raw_scalar _ o (by decide)).trans rfl

theorem RoundTrip.andn (o : SFmt) : RoundTrip.Statement (.andn o) :=
  roundTrip_of_raw _ _ rfl fun _ => (raw_scalar _ o (by decide)).trans rfl

theorem RoundTrip.andi (o : SFmt) : RoundTrip.Statement (.andi o) :=
  roundTrip_of_raw _ _ rfl fun _ => (raw_scalar _ o (by decide)).trans rfl

theorem RoundTrip.ori (o : SFmt) : RoundTrip.Statement (.ori o) :=
  roundTrip_of_raw _ _ rfl fun _ => (raw_scalar _ o (by decide)).trans rfl

theorem RoundTrip.xori (o : SFmt) : RoundTrip.Statement (.xori o) :=
  roundTrip_of_raw _ _ rfl fun _ => (raw_scalar _ o (by decide)).trans rfl

theorem RoundTrip.shl (o : SFmt) : RoundTrip.Statement (.shl o) :=
  roundTrip_of_raw _ _ rfl fun _ => (raw_scalar _ o (by decide)).trans rfl

theorem RoundTrip.shr (o : SFmt) : RoundTrip.Statement (.shr o) :=
  roundTrip_of_raw _ _ rfl fun _ => (raw_scalar _ o (by decide)).trans rfl

theorem RoundTrip.sra (o : SFmt) : RoundTrip.Statement (.sra o) :=
  roundTrip_of_raw _ _ rfl fun _ => (raw_scalar _ o (by decide)).trans rfl

theorem RoundTrip.shli (o : SFmt) : RoundTrip.Statement (.shli o) :=
  roundTrip_of_raw _ _ rfl fun _ => (raw_scalar _ o (by decide)).trans rfl

theorem RoundTrip.shri (o : SFmt) : RoundTrip.Statement (.shri o) :=
  roundTrip_of_raw _ _ rfl fun _ => (raw_scalar _ o (by decide)).trans rfl

theorem RoundTrip.srai (o : SFmt) : RoundTrip.Statement (.srai o) :=
  roundTrip_of_raw _ _ rfl fun _ => (raw_scalar _ o (by decide)).trans rfl

theorem RoundTrip.rotl (o : SFmt) : RoundTrip.Statement (.rotl o) :=
  roundTrip_of_raw _ _ rfl fun _ => (raw_scalar _ o (by decide)).trans rfl

theorem RoundTrip.clz (o : SFmt) : RoundTrip.Statement (.clz o) :=
  roundTrip_of_raw _ _ rfl fun _ => (raw_scalar _ o (by decide)).trans rfl

theorem RoundTrip.ctz (o : SFmt) : RoundTrip.Statement (.ctz o) :=
  roundTrip_of_raw _ _ rfl fun _ => (raw_scalar _ o (by decide)).trans rfl

theorem RoundTrip.popc (o : SFmt) : RoundTrip.Statement (.popc o) :=
  roundTrip_of_raw _ _ rfl fun _ => (raw_scalar _ o (by decide)).trans rfl

theorem RoundTrip.min (o : SFmt) : RoundTrip.Statement (.min o) :=
  roundTrip_of_raw _ _ rfl fun _ => (raw_scalar _ o (by decide)).trans rfl

theorem RoundTrip.max (o : SFmt) : RoundTrip.Statement (.max o) :=
  roundTrip_of_raw _ _ rfl fun _ => (raw_scalar _ o (by decide)).trans rfl

theorem RoundTrip.minu (o : SFmt) : RoundTrip.Statement (.minu o) :=
  roundTrip_of_raw _ _ rfl fun _ => (raw_scalar _ o (by decide)).trans rfl

theorem RoundTrip.maxu (o : SFmt) : RoundTrip.Statement (.maxu o) :=
  roundTrip_of_raw _ _ rfl fun _ => (raw_scalar _ o (by decide)).trans rfl

theorem RoundTrip.slt (o : SFmt) : RoundTrip.Statement (.slt o) :=
  roundTrip_of_raw _ _ rfl fun _ => (raw_scalar _ o (by decide)).trans rfl

theorem RoundTrip.sltu (o : SFmt) : RoundTrip.Statement (.sltu o) :=
  roundTrip_of_raw _ _ rfl fun _ => (raw_scalar _ o (by decide)).trans rfl

theorem RoundTrip.seq (o : SFmt) : RoundTrip.Statement (.seq o) :=
  roundTrip_of_raw _ _ rfl fun _ => (raw_scalar _ o (by decide)).trans rfl

theorem RoundTrip.slti (o : SFmt) : RoundTrip.Statement (.slti o) :=
  roundTrip_of_raw _ _ rfl fun _ => (raw_scalar _ o (by decide)).trans rfl

theorem RoundTrip.sel (o : SFmt) : RoundTrip.Statement (.sel o) :=
  roundTrip_of_raw _ _ rfl fun _ => (raw_scalar _ o (by decide)).trans rfl

theorem RoundTrip.movi (o : SFmt) : RoundTrip.Statement (.movi o) :=
  roundTrip_of_raw _ _ rfl fun _ => (raw_scalar _ o (by decide)).trans rfl

theorem RoundTrip.lih (o : SFmt) : RoundTrip.Statement (.lih o) :=
  roundTrip_of_raw _ _ rfl fun _ => (raw_scalar _ o (by decide)).trans rfl

theorem RoundTrip.extu (o : SFmt) : RoundTrip.Statement (.extu o) :=
  roundTrip_of_raw _ _ rfl fun _ => (raw_scalar _ o (by decide)).trans rfl

theorem RoundTrip.exts (o : SFmt) : RoundTrip.Statement (.exts o) :=
  roundTrip_of_raw _ _ rfl fun _ => (raw_scalar _ o (by decide)).trans rfl

theorem RoundTrip.ins (o : SFmt) : RoundTrip.Statement (.ins o) :=
  roundTrip_of_raw _ _ rfl fun _ => (raw_scalar _ o (by decide)).trans rfl

theorem RoundTrip.brev (o : SFmt) : RoundTrip.Statement (.brev o) :=
  roundTrip_of_raw _ _ rfl fun _ => (raw_scalar _ o (by decide)).trans rfl

theorem RoundTrip.bswap (o : SFmt) : RoundTrip.Statement (.bswap o) :=
  roundTrip_of_raw _ _ rfl fun _ => (raw_scalar _ o (by decide)).trans rfl

theorem RoundTrip.br (o : BFmt) : RoundTrip.Statement (.br o) :=
  roundTrip_of_raw _ _ rfl fun _ => (raw_branch _ o (by decide) (by decide)).trans rfl

theorem RoundTrip.beq (o : BFmt) : RoundTrip.Statement (.beq o) :=
  roundTrip_of_raw _ _ rfl fun _ => (raw_branch _ o (by decide) (by decide)).trans rfl

theorem RoundTrip.bne (o : BFmt) : RoundTrip.Statement (.bne o) :=
  roundTrip_of_raw _ _ rfl fun _ => (raw_branch _ o (by decide) (by decide)).trans rfl

theorem RoundTrip.blt (o : BFmt) : RoundTrip.Statement (.blt o) :=
  roundTrip_of_raw _ _ rfl fun _ => (raw_branch _ o (by decide) (by decide)).trans rfl

theorem RoundTrip.bge (o : BFmt) : RoundTrip.Statement (.bge o) :=
  roundTrip_of_raw _ _ rfl fun _ => (raw_branch _ o (by decide) (by decide)).trans rfl

theorem RoundTrip.bltu (o : BFmt) : RoundTrip.Statement (.bltu o) :=
  roundTrip_of_raw _ _ rfl fun _ => (raw_branch _ o (by decide) (by decide)).trans rfl

theorem RoundTrip.bgeu (o : BFmt) : RoundTrip.Statement (.bgeu o) :=
  roundTrip_of_raw _ _ rfl fun _ => (raw_branch _ o (by decide) (by decide)).trans rfl

theorem RoundTrip.bpt (o : BFmt) : RoundTrip.Statement (.bpt o) :=
  roundTrip_of_raw _ _ rfl fun _ => (raw_branch _ o (by decide) (by decide)).trans rfl

theorem RoundTrip.bmk (o : BFmt) : RoundTrip.Statement (.bmk o) :=
  roundTrip_of_raw _ _ rfl fun _ => (raw_branch _ o (by decide) (by decide)).trans rfl

theorem RoundTrip.jal (o : BFmt) : RoundTrip.Statement (.jal o) :=
  roundTrip_of_raw _ _ rfl fun _ => (raw_branch _ o (by decide) (by decide)).trans rfl

theorem RoundTrip.jalr (o : BFmt) : RoundTrip.Statement (.jalr o) :=
  roundTrip_of_raw _ _ rfl fun _ => (raw_branch _ o (by decide) (by decide)).trans rfl

theorem RoundTrip.loop (o : BFmt) : RoundTrip.Statement (.loop o) :=
  roundTrip_of_raw _ _ rfl fun _ => (raw_branch _ o (by decide) (by decide)).trans rfl

theorem RoundTrip.pset (o : BFmt) : RoundTrip.Statement (.pset o) :=
  roundTrip_of_raw _ _ rfl fun h => (raw_branch _ o (by decide) (by decide)).trans (by
    have h2 := field_zero (Bool.and_eq_true_iff.mp h).2 0 2 (by decide) (by decide)
    simp only [Nat.pow_zero, Nat.div_one, Nat.reducePow] at h2
    simp [decodeB, h2])

theorem RoundTrip.psetR (o : BFmt) : RoundTrip.Statement (.psetR o) :=
  roundTrip_of_raw _ _ rfl fun h => (raw_branch _ o (by decide) (by decide)).trans (by
    have h2 := beq_iff_eq.mp (Bool.and_eq_true_iff.mp h).2
    simp [decodeB, h2])

theorem RoundTrip.psetNz (o : BFmt) : RoundTrip.Statement (.psetNz o) :=
  roundTrip_of_raw _ _ rfl fun h => (raw_branch _ o (by decide) (by decide)).trans (by
    have h2 := beq_iff_eq.mp (Bool.and_eq_true_iff.mp h).2
    simp [decodeB, h2])

theorem RoundTrip.ret (o : BFmt) : RoundTrip.Statement (.ret o) :=
  roundTrip_of_raw _ _ rfl fun _ => (raw_branch _ o (by decide) (by decide)).trans rfl

theorem RoundTrip.yield (o : BFmt) : RoundTrip.Statement (.yield o) :=
  roundTrip_of_raw _ _ rfl fun _ => (raw_branch _ o (by decide) (by decide)).trans rfl

theorem RoundTrip.waitp (o : BFmt) : RoundTrip.Statement (.waitp o) :=
  roundTrip_of_raw _ _ rfl fun _ => (raw_branch _ o (by decide) (by decide)).trans rfl

theorem RoundTrip.ldb (o : SFmt) : RoundTrip.Statement (.ldb o) :=
  roundTrip_of_raw _ _ rfl fun _ => (raw_memory _ o (by decide) (by decide)).trans rfl

theorem RoundTrip.ldbu (o : SFmt) : RoundTrip.Statement (.ldbu o) :=
  roundTrip_of_raw _ _ rfl fun _ => (raw_memory _ o (by decide) (by decide)).trans rfl

theorem RoundTrip.ldh (o : SFmt) : RoundTrip.Statement (.ldh o) :=
  roundTrip_of_raw _ _ rfl fun _ => (raw_memory _ o (by decide) (by decide)).trans rfl

theorem RoundTrip.ldhu (o : SFmt) : RoundTrip.Statement (.ldhu o) :=
  roundTrip_of_raw _ _ rfl fun _ => (raw_memory _ o (by decide) (by decide)).trans rfl

theorem RoundTrip.ldw (o : SFmt) : RoundTrip.Statement (.ldw o) :=
  roundTrip_of_raw _ _ rfl fun _ => (raw_memory _ o (by decide) (by decide)).trans rfl

theorem RoundTrip.ldwu (o : SFmt) : RoundTrip.Statement (.ldwu o) :=
  roundTrip_of_raw _ _ rfl fun _ => (raw_memory _ o (by decide) (by decide)).trans rfl

theorem RoundTrip.ldd (o : SFmt) : RoundTrip.Statement (.ldd o) :=
  roundTrip_of_raw _ _ rfl fun _ => (raw_memory _ o (by decide) (by decide)).trans rfl

theorem RoundTrip.stb (o : SFmt) : RoundTrip.Statement (.stb o) :=
  roundTrip_of_raw _ _ rfl fun _ => (raw_memory _ o (by decide) (by decide)).trans rfl

theorem RoundTrip.sth (o : SFmt) : RoundTrip.Statement (.sth o) :=
  roundTrip_of_raw _ _ rfl fun _ => (raw_memory _ o (by decide) (by decide)).trans rfl

theorem RoundTrip.stw (o : SFmt) : RoundTrip.Statement (.stw o) :=
  roundTrip_of_raw _ _ rfl fun _ => (raw_memory _ o (by decide) (by decide)).trans rfl

theorem RoundTrip.std (o : SFmt) : RoundTrip.Statement (.std o) :=
  roundTrip_of_raw _ _ rfl fun _ => (raw_memory _ o (by decide) (by decide)).trans rfl

theorem RoundTrip.ldq (o : SFmt) : RoundTrip.Statement (.ldq o) :=
  roundTrip_of_raw _ _ rfl fun _ => (raw_memory _ o (by decide) (by decide)).trans rfl

theorem RoundTrip.stq (o : SFmt) : RoundTrip.Statement (.stq o) :=
  roundTrip_of_raw _ _ rfl fun _ => (raw_memory _ o (by decide) (by decide)).trans rfl

theorem RoundTrip.pref (o : SFmt) : RoundTrip.Statement (.pref o) :=
  roundTrip_of_raw _ _ rfl fun _ => (raw_memory _ o (by decide) (by decide)).trans rfl

theorem RoundTrip.cflush (o : SFmt) : RoundTrip.Statement (.cflush o) :=
  roundTrip_of_raw _ _ rfl fun _ => (raw_memory _ o (by decide) (by decide)).trans rfl

theorem RoundTrip.cinv (o : SFmt) : RoundTrip.Statement (.cinv o) :=
  roundTrip_of_raw _ _ rfl fun _ => (raw_memory _ o (by decide) (by decide)).trans rfl

theorem RoundTrip.aadd (o : SFmt) : RoundTrip.Statement (.aadd o) :=
  roundTrip_of_raw _ _ rfl fun _ => (raw_memory _ o (by decide) (by decide)).trans rfl

theorem RoundTrip.aand (o : SFmt) : RoundTrip.Statement (.aand o) :=
  roundTrip_of_raw _ _ rfl fun _ => (raw_memory _ o (by decide) (by decide)).trans rfl

theorem RoundTrip.aor (o : SFmt) : RoundTrip.Statement (.aor o) :=
  roundTrip_of_raw _ _ rfl fun _ => (raw_memory _ o (by decide) (by decide)).trans rfl

theorem RoundTrip.axor (o : SFmt) : RoundTrip.Statement (.axor o) :=
  roundTrip_of_raw _ _ rfl fun _ => (raw_memory _ o (by decide) (by decide)).trans rfl

theorem RoundTrip.amin (o : SFmt) : RoundTrip.Statement (.amin o) :=
  roundTrip_of_raw _ _ rfl fun _ => (raw_memory _ o (by decide) (by decide)).trans rfl

theorem RoundTrip.amax (o : SFmt) : RoundTrip.Statement (.amax o) :=
  roundTrip_of_raw _ _ rfl fun _ => (raw_memory _ o (by decide) (by decide)).trans rfl

theorem RoundTrip.aminu (o : SFmt) : RoundTrip.Statement (.aminu o) :=
  roundTrip_of_raw _ _ rfl fun _ => (raw_memory _ o (by decide) (by decide)).trans rfl

theorem RoundTrip.amaxu (o : SFmt) : RoundTrip.Statement (.amaxu o) :=
  roundTrip_of_raw _ _ rfl fun _ => (raw_memory _ o (by decide) (by decide)).trans rfl

theorem RoundTrip.aswap (o : SFmt) : RoundTrip.Statement (.aswap o) :=
  roundTrip_of_raw _ _ rfl fun _ => (raw_memory _ o (by decide) (by decide)).trans rfl

theorem RoundTrip.acas (o : SFmt) : RoundTrip.Statement (.acas o) :=
  roundTrip_of_raw _ _ rfl fun _ => (raw_memory _ o (by decide) (by decide)).trans rfl

theorem RoundTrip.ldaq (o : SFmt) : RoundTrip.Statement (.ldaq o) :=
  roundTrip_of_raw _ _ rfl fun _ => (raw_memory _ o (by decide) (by decide)).trans rfl

theorem RoundTrip.strel (o : SFmt) : RoundTrip.Statement (.strel o) :=
  roundTrip_of_raw _ _ rfl fun _ => (raw_memory _ o (by decide) (by decide)).trans rfl

theorem RoundTrip.fence (o : SFmt) : RoundTrip.Statement (.fence o) :=
  roundTrip_of_raw _ _ rfl fun _ => (raw_memory _ o (by decide) (by decide)).trans rfl

theorem RoundTrip.sbar (o : SFmt) : RoundTrip.Statement (.sbar o) :=
  roundTrip_of_raw _ _ rfl fun _ => (raw_memory _ o (by decide) (by decide)).trans rfl

theorem RoundTrip.sgpost (o : SFmt) : RoundTrip.Statement (.sgpost o) :=
  roundTrip_of_raw _ _ rfl fun _ => (raw_memory _ o (by decide) (by decide)).trans rfl

theorem RoundTrip.sgwait (o : SFmt) : RoundTrip.Statement (.sgwait o) :=
  roundTrip_of_raw _ _ rfl fun _ => (raw_memory _ o (by decide) (by decide)).trans rfl

theorem RoundTrip.vadd (o : VFmt) : RoundTrip.Statement (.vadd o) :=
  roundTrip_of_raw _ _ rfl fun _ => (raw_vector _ o (by decide) (by decide)).trans rfl

theorem RoundTrip.vsub (o : VFmt) : RoundTrip.Statement (.vsub o) :=
  roundTrip_of_raw _ _ rfl fun _ => (raw_vector _ o (by decide) (by decide)).trans rfl

theorem RoundTrip.vmul (o : VFmt) : RoundTrip.Statement (.vmul o) :=
  roundTrip_of_raw _ _ rfl fun _ => (raw_vector _ o (by decide) (by decide)).trans rfl

theorem RoundTrip.vfma (o : VFmt) : RoundTrip.Statement (.vfma o) :=
  roundTrip_of_raw _ _ rfl fun _ => (raw_vector _ o (by decide) (by decide)).trans rfl

theorem RoundTrip.vfms (o : VFmt) : RoundTrip.Statement (.vfms o) :=
  roundTrip_of_raw _ _ rfl fun _ => (raw_vector _ o (by decide) (by decide)).trans rfl

theorem RoundTrip.vnfma (o : VFmt) : RoundTrip.Statement (.vnfma o) :=
  roundTrip_of_raw _ _ rfl fun _ => (raw_vector _ o (by decide) (by decide)).trans rfl

theorem RoundTrip.vabs (o : VFmt) : RoundTrip.Statement (.vabs o) :=
  roundTrip_of_raw _ _ rfl fun _ => (raw_vector _ o (by decide) (by decide)).trans rfl

theorem RoundTrip.vneg (o : VFmt) : RoundTrip.Statement (.vneg o) :=
  roundTrip_of_raw _ _ rfl fun _ => (raw_vector _ o (by decide) (by decide)).trans rfl

theorem RoundTrip.vmax (o : VFmt) : RoundTrip.Statement (.vmax o) :=
  roundTrip_of_raw _ _ rfl fun _ => (raw_vector _ o (by decide) (by decide)).trans rfl

theorem RoundTrip.vmin (o : VFmt) : RoundTrip.Statement (.vmin o) :=
  roundTrip_of_raw _ _ rfl fun _ => (raw_vector _ o (by decide) (by decide)).trans rfl

theorem RoundTrip.vdiv (o : VFmt) : RoundTrip.Statement (.vdiv o) :=
  roundTrip_of_raw _ _ rfl fun _ => (raw_vector _ o (by decide) (by decide)).trans rfl

theorem RoundTrip.vrcp (o : VFmt) : RoundTrip.Statement (.vrcp o) :=
  roundTrip_of_raw _ _ rfl fun _ => (raw_vector _ o (by decide) (by decide)).trans rfl

theorem RoundTrip.vsqrt (o : VFmt) : RoundTrip.Statement (.vsqrt o) :=
  roundTrip_of_raw _ _ rfl fun _ => (raw_vector _ o (by decide) (by decide)).trans rfl

theorem RoundTrip.vrsq (o : VFmt) : RoundTrip.Statement (.vrsq o) :=
  roundTrip_of_raw _ _ rfl fun _ => (raw_vector _ o (by decide) (by decide)).trans rfl

theorem RoundTrip.vexp2 (o : VFmt) : RoundTrip.Statement (.vexp2 o) :=
  roundTrip_of_raw _ _ rfl fun _ => (raw_vector _ o (by decide) (by decide)).trans rfl

theorem RoundTrip.vlog2 (o : VFmt) : RoundTrip.Statement (.vlog2 o) :=
  roundTrip_of_raw _ _ rfl fun _ => (raw_vector _ o (by decide) (by decide)).trans rfl

theorem RoundTrip.vscale (o : VFmt) : RoundTrip.Statement (.vscale o) :=
  roundTrip_of_raw _ _ rfl fun _ => (raw_vector _ o (by decide) (by decide)).trans rfl

theorem RoundTrip.vcmp (o : VFmt) : RoundTrip.Statement (.vcmp o) :=
  roundTrip_of_raw _ _ rfl fun _ => (raw_vector _ o (by decide) (by decide)).trans rfl

theorem RoundTrip.vcmpt (o : VFmt) : RoundTrip.Statement (.vcmpt o) :=
  roundTrip_of_raw _ _ rfl fun _ => (raw_vector _ o (by decide) (by decide)).trans rfl

theorem RoundTrip.vcut (o : VFmt) : RoundTrip.Statement (.vcut o) :=
  roundTrip_of_raw _ _ rfl fun _ => (raw_vector _ o (by decide) (by decide)).trans rfl

theorem RoundTrip.vsettle (o : VFmt) : RoundTrip.Statement (.vsettle o) :=
  roundTrip_of_raw _ _ rfl fun _ => (raw_vector _ o (by decide) (by decide)).trans rfl

theorem RoundTrip.vcvt (o : VFmt) : RoundTrip.Statement (.vcvt o) :=
  roundTrip_of_raw _ _ rfl fun _ => (raw_vector _ o (by decide) (by decide)).trans rfl

theorem RoundTrip.vqnt (o : VFmt) : RoundTrip.Statement (.vqnt o) :=
  roundTrip_of_raw _ _ rfl fun _ => (raw_vector _ o (by decide) (by decide)).trans rfl

theorem RoundTrip.vdq (o : VFmt) : RoundTrip.Statement (.vdq o) :=
  roundTrip_of_raw _ _ rfl fun _ => (raw_vector _ o (by decide) (by decide)).trans rfl

theorem RoundTrip.vsel (o : VFmt) : RoundTrip.Statement (.vsel o) :=
  roundTrip_of_raw _ _ rfl fun _ => (raw_vector _ o (by decide) (by decide)).trans rfl

theorem RoundTrip.viadd (o : VFmt) : RoundTrip.Statement (.viadd o) :=
  roundTrip_of_raw _ _ rfl fun _ => (raw_vector _ o (by decide) (by decide)).trans rfl

theorem RoundTrip.visub (o : VFmt) : RoundTrip.Statement (.visub o) :=
  roundTrip_of_raw _ _ rfl fun _ => (raw_vector _ o (by decide) (by decide)).trans rfl

theorem RoundTrip.vimul (o : VFmt) : RoundTrip.Statement (.vimul o) :=
  roundTrip_of_raw _ _ rfl fun _ => (raw_vector _ o (by decide) (by decide)).trans rfl

theorem RoundTrip.vimin (o : VFmt) : RoundTrip.Statement (.vimin o) :=
  roundTrip_of_raw _ _ rfl fun _ => (raw_vector _ o (by decide) (by decide)).trans rfl

theorem RoundTrip.vimax (o : VFmt) : RoundTrip.Statement (.vimax o) :=
  roundTrip_of_raw _ _ rfl fun _ => (raw_vector _ o (by decide) (by decide)).trans rfl

theorem RoundTrip.vand (o : VFmt) : RoundTrip.Statement (.vand o) :=
  roundTrip_of_raw _ _ rfl fun _ => (raw_vector _ o (by decide) (by decide)).trans rfl

theorem RoundTrip.vor (o : VFmt) : RoundTrip.Statement (.vor o) :=
  roundTrip_of_raw _ _ rfl fun _ => (raw_vector _ o (by decide) (by decide)).trans rfl

theorem RoundTrip.vxor (o : VFmt) : RoundTrip.Statement (.vxor o) :=
  roundTrip_of_raw _ _ rfl fun _ => (raw_vector _ o (by decide) (by decide)).trans rfl

theorem RoundTrip.vshl (o : VFmt) : RoundTrip.Statement (.vshl o) :=
  roundTrip_of_raw _ _ rfl fun _ => (raw_vector _ o (by decide) (by decide)).trans rfl

theorem RoundTrip.vshr (o : VFmt) : RoundTrip.Statement (.vshr o) :=
  roundTrip_of_raw _ _ rfl fun _ => (raw_vector _ o (by decide) (by decide)).trans rfl

theorem RoundTrip.vsra (o : VFmt) : RoundTrip.Statement (.vsra o) :=
  roundTrip_of_raw _ _ rfl fun _ => (raw_vector _ o (by decide) (by decide)).trans rfl

theorem RoundTrip.vmov (o : VFmt) : RoundTrip.Statement (.vmov o) :=
  roundTrip_of_raw _ _ rfl fun _ => (raw_vector _ o (by decide) (by decide)).trans rfl

theorem RoundTrip.vbcast (o : VFmt) : RoundTrip.Statement (.vbcast o) :=
  roundTrip_of_raw _ _ rfl fun _ => (raw_vector _ o (by decide) (by decide)).trans rfl

theorem RoundTrip.vext (o : VFmt) : RoundTrip.Statement (.vext o) :=
  roundTrip_of_raw _ _ rfl fun _ => (raw_vector _ o (by decide) (by decide)).trans rfl

theorem RoundTrip.vins (o : VFmt) : RoundTrip.Statement (.vins o) :=
  roundTrip_of_raw _ _ rfl fun _ => (raw_vector _ o (by decide) (by decide)).trans rfl

theorem RoundTrip.vperm (o : VFmt) : RoundTrip.Statement (.vperm o) :=
  roundTrip_of_raw _ _ rfl fun _ => (raw_vector _ o (by decide) (by decide)).trans rfl

theorem RoundTrip.vrot (o : VFmt) : RoundTrip.Statement (.vrot o) :=
  roundTrip_of_raw _ _ rfl fun _ => (raw_vector _ o (by decide) (by decide)).trans rfl

theorem RoundTrip.viota (o : VFmt) : RoundTrip.Statement (.viota o) :=
  roundTrip_of_raw _ _ rfl fun _ => (raw_vector _ o (by decide) (by decide)).trans rfl

theorem RoundTrip.vrsum (o : VFmt) : RoundTrip.Statement (.vrsum o) :=
  roundTrip_of_raw _ _ rfl fun _ => (raw_vector _ o (by decide) (by decide)).trans rfl

theorem RoundTrip.vrmax (o : VFmt) : RoundTrip.Statement (.vrmax o) :=
  roundTrip_of_raw _ _ rfl fun _ => (raw_vector _ o (by decide) (by decide)).trans rfl

theorem RoundTrip.vrarg (o : VFmt) : RoundTrip.Statement (.vrarg o) :=
  roundTrip_of_raw _ _ rfl fun _ => (raw_vector _ o (by decide) (by decide)).trans rfl

theorem RoundTrip.vtopk (o : VFmt) : RoundTrip.Statement (.vtopk o) :=
  roundTrip_of_raw _ _ rfl fun _ => (raw_vector _ o (by decide) (by decide)).trans rfl

theorem RoundTrip.vscan (o : VFmt) : RoundTrip.Statement (.vscan o) :=
  roundTrip_of_raw _ _ rfl fun _ => (raw_vector _ o (by decide) (by decide)).trans rfl

theorem RoundTrip.mand (o : VFmt) : RoundTrip.Statement (.mand o) :=
  roundTrip_of_raw _ _ rfl fun _ => (raw_vector _ o (by decide) (by decide)).trans rfl

theorem RoundTrip.mor (o : VFmt) : RoundTrip.Statement (.mor o) :=
  roundTrip_of_raw _ _ rfl fun _ => (raw_vector _ o (by decide) (by decide)).trans rfl

theorem RoundTrip.mxor (o : VFmt) : RoundTrip.Statement (.mxor o) :=
  roundTrip_of_raw _ _ rfl fun _ => (raw_vector _ o (by decide) (by decide)).trans rfl

theorem RoundTrip.mnot (o : VFmt) : RoundTrip.Statement (.mnot o) :=
  roundTrip_of_raw _ _ rfl fun _ => (raw_vector _ o (by decide) (by decide)).trans rfl

theorem RoundTrip.mpop (o : VFmt) : RoundTrip.Statement (.mpop o) :=
  roundTrip_of_raw _ _ rfl fun _ => (raw_vector _ o (by decide) (by decide)).trans rfl

theorem RoundTrip.mfirst (o : VFmt) : RoundTrip.Statement (.mfirst o) :=
  roundTrip_of_raw _ _ rfl fun _ => (raw_vector _ o (by decide) (by decide)).trans rfl

theorem RoundTrip.mset (o : VFmt) : RoundTrip.Statement (.mset o) :=
  roundTrip_of_raw _ _ rfl fun _ => (raw_vector _ o (by decide) (by decide)).trans rfl

theorem RoundTrip.vld (o : VFmt) : RoundTrip.Statement (.vld o) :=
  roundTrip_of_raw _ _ rfl fun _ => (raw_vector _ o (by decide) (by decide)).trans rfl

theorem RoundTrip.vst (o : VFmt) : RoundTrip.Statement (.vst o) :=
  roundTrip_of_raw _ _ rfl fun _ => (raw_vector _ o (by decide) (by decide)).trans rfl

theorem RoundTrip.vlds (o : VFmt) : RoundTrip.Statement (.vlds o) :=
  roundTrip_of_raw _ _ rfl fun _ => (raw_vector _ o (by decide) (by decide)).trans rfl

theorem RoundTrip.vsts (o : VFmt) : RoundTrip.Statement (.vsts o) :=
  roundTrip_of_raw _ _ rfl fun _ => (raw_vector _ o (by decide) (by decide)).trans rfl

theorem RoundTrip.vgth (o : VFmt) : RoundTrip.Statement (.vgth o) :=
  roundTrip_of_raw _ _ rfl fun _ => (raw_vector _ o (by decide) (by decide)).trans rfl

theorem RoundTrip.vsct (o : VFmt) : RoundTrip.Statement (.vsct o) :=
  roundTrip_of_raw _ _ rfl fun _ => (raw_vector _ o (by decide) (by decide)).trans rfl

theorem RoundTrip.vrng (o : VFmt) : RoundTrip.Statement (.vrng o) :=
  roundTrip_of_raw _ _ rfl fun _ => (raw_vector _ o (by decide) (by decide)).trans rfl

theorem RoundTrip.mzero (o : MFmt) : RoundTrip.Statement (.mzero o) :=
  roundTrip_of_raw _ _ rfl fun _ => (raw_matrix _ o (by decide) (by decide)).trans rfl

theorem RoundTrip.mma (o : MFmt) : RoundTrip.Statement (.mma o) :=
  roundTrip_of_raw _ _ rfl fun _ => (raw_matrix _ o (by decide) (by decide)).trans rfl

theorem RoundTrip.mmas (o : MFmt) : RoundTrip.Statement (.mmas o) :=
  roundTrip_of_raw _ _ rfl fun _ => (raw_matrix _ o (by decide) (by decide)).trans rfl

theorem RoundTrip.mrd (o : MFmt) : RoundTrip.Statement (.mrd o) :=
  roundTrip_of_raw _ _ rfl fun _ => (raw_matrix _ o (by decide) (by decide)).trans rfl

theorem RoundTrip.mrdq (o : MFmt) : RoundTrip.Statement (.mrdq o) :=
  roundTrip_of_raw _ _ rfl fun _ => (raw_matrix _ o (by decide) (by decide)).trans rfl

theorem RoundTrip.mlda (o : MFmt) : RoundTrip.Statement (.mlda o) :=
  roundTrip_of_raw _ _ rfl fun _ => (raw_matrix _ o (by decide) (by decide)).trans rfl

theorem RoundTrip.mscl (o : MFmt) : RoundTrip.Statement (.mscl o) :=
  roundTrip_of_raw _ _ rfl fun _ => (raw_matrix _ o (by decide) (by decide)).trans rfl

theorem RoundTrip.mwait (o : MFmt) : RoundTrip.Statement (.mwait o) :=
  roundTrip_of_raw _ _ rfl fun _ => (raw_matrix _ o (by decide) (by decide)).trans rfl

theorem RoundTrip.apcfgM (o : CFmt) : RoundTrip.Statement (.apcfgM o) :=
  roundTrip_of_raw _ _ rfl fun h => (raw_system _ o (by decide)).trans (by
    have h2 : o.f 5 4 = 0 := field_zero (Bool.and_eq_true_iff.mp h).2 4 2 (by decide) (by decide)
    simp [decodeC, h2])

theorem RoundTrip.apcfgR (o : CFmt) : RoundTrip.Statement (.apcfgR o) :=
  roundTrip_of_raw _ _ rfl fun h => (raw_system _ o (by decide)).trans (by
    have h2 := beq_iff_eq.mp (Bool.and_eq_true_iff.mp h).2
    simp [decodeC, h2])

theorem RoundTrip.apcfgPre (o : CFmt) : RoundTrip.Statement (.apcfgPre o) :=
  roundTrip_of_raw _ _ rfl fun h => (raw_system _ o (by decide)).trans (by
    have h2 := beq_iff_eq.mp (Bool.and_eq_true_iff.mp h).2
    simp [decodeC, h2])

theorem RoundTrip.apdim (o : CFmt) : RoundTrip.Statement (.apdim o) :=
  roundTrip_of_raw _ _ rfl fun _ => (raw_system _ o (by decide)).trans rfl

theorem RoundTrip.apstart (o : CFmt) : RoundTrip.Statement (.apstart o) :=
  roundTrip_of_raw _ _ rfl fun _ => (raw_system _ o (by decide)).trans rfl

theorem RoundTrip.apstop (o : CFmt) : RoundTrip.Statement (.apstop o) :=
  roundTrip_of_raw _ _ rfl fun _ => (raw_system _ o (by decide)).trans rfl

theorem RoundTrip.appos (o : CFmt) : RoundTrip.Statement (.appos o) :=
  roundTrip_of_raw _ _ rfl fun _ => (raw_system _ o (by decide)).trans rfl

theorem RoundTrip.apseek (o : CFmt) : RoundTrip.Statement (.apseek o) :=
  roundTrip_of_raw _ _ rfl fun _ => (raw_system _ o (by decide)).trans rfl

theorem RoundTrip.qbind (o : CFmt) : RoundTrip.Statement (.qbind o) :=
  roundTrip_of_raw _ _ rfl fun h => (raw_system _ o (by decide)).trans (by
    have h2 : o.f 21 20 = 0 := field_zero (Bool.and_eq_true_iff.mp (Bool.and_eq_true_iff.mp h).1).2 20 2 (by decide) (by decide)
    simp [decodeC, h2])

theorem RoundTrip.qbindK (o : CFmt) : RoundTrip.Statement (.qbindK o) :=
  roundTrip_of_raw _ _ rfl fun h => (raw_system _ o (by decide)).trans (by
    have h2 := beq_iff_eq.mp (Bool.and_eq_true_iff.mp (Bool.and_eq_true_iff.mp h).1).2
    simp [decodeC, h2])

theorem RoundTrip.qbindU (o : CFmt) : RoundTrip.Statement (.qbindU o) :=
  roundTrip_of_raw _ _ rfl fun h => (raw_system _ o (by decide)).trans (by
    have h2 := beq_iff_eq.mp (Bool.and_eq_true_iff.mp h).2
    simp [decodeC, h2])

theorem RoundTrip.qstat (o : CFmt) : RoundTrip.Statement (.qstat o) :=
  roundTrip_of_raw _ _ rfl fun _ => (raw_system _ o (by decide)).trans rfl

theorem RoundTrip.cecpy (o : CFmt) : RoundTrip.Statement (.cecpy o) :=
  roundTrip_of_raw _ _ rfl fun _ => (raw_system _ o (by decide)).trans rfl

theorem RoundTrip.ce2d (o : CFmt) : RoundTrip.Statement (.ce2d o) :=
  roundTrip_of_raw _ _ rfl fun _ => (raw_system _ o (by decide)).trans rfl

theorem RoundTrip.cefill (o : CFmt) : RoundTrip.Statement (.cefill o) :=
  roundTrip_of_raw _ _ rfl fun _ => (raw_system _ o (by decide)).trans rfl

theorem RoundTrip.cepg (o : CFmt) : RoundTrip.Statement (.cepg o) :=
  roundTrip_of_raw _ _ rfl fun _ => (raw_system _ o (by decide)).trans rfl

theorem RoundTrip.cestat (o : CFmt) : RoundTrip.Statement (.cestat o) :=
  roundTrip_of_raw _ _ rfl fun _ => (raw_system _ o (by decide)).trans rfl

theorem RoundTrip.ceabt (o : CFmt) : RoundTrip.Statement (.ceabt o) :=
  roundTrip_of_raw _ _ rfl fun _ => (raw_system _ o (by decide)).trans rfl

theorem RoundTrip.knew (o : CFmt) : RoundTrip.Statement (.knew o) :=
  roundTrip_of_raw _ _ rfl fun h => (raw_system _ o (by decide)).trans (by
    have h2 : o.f 0 0 = 0 := field_zero (Bool.and_eq_true_iff.mp h).2 0 1 (by decide) (by decide)
    simp [decodeC, h2])

theorem RoundTrip.knewC (o : CFmt) : RoundTrip.Statement (.knewC o) :=
  roundTrip_of_raw _ _ rfl fun h => (raw_system _ o (by decide)).trans (by
    have h2 := beq_iff_eq.mp (Bool.and_eq_true_iff.mp h).2
    simp [decodeC, CFmt.f, h2])

theorem RoundTrip.ksend (o : CFmt) : RoundTrip.Statement (.ksend o) :=
  roundTrip_of_raw _ _ rfl fun _ => (raw_system _ o (by decide)).trans rfl

theorem RoundTrip.kfwd (o : CFmt) : RoundTrip.Statement (.kfwd o) :=
  roundTrip_of_raw _ _ rfl fun _ => (raw_system _ o (by decide)).trans rfl

theorem RoundTrip.khdr (o : CFmt) : RoundTrip.Statement (.khdr o) :=
  roundTrip_of_raw _ _ rfl fun _ => (raw_system _ o (by decide)).trans rfl

theorem RoundTrip.kset (o : CFmt) : RoundTrip.Statement (.kset o) :=
  roundTrip_of_raw _ _ rfl fun _ => (raw_system _ o (by decide)).trans rfl

theorem RoundTrip.kdrop (o : CFmt) : RoundTrip.Statement (.kdrop o) :=
  roundTrip_of_raw _ _ rfl fun _ => (raw_system _ o (by decide)).trans rfl

theorem RoundTrip.kmrg (o : CFmt) : RoundTrip.Statement (.kmrg o) :=
  roundTrip_of_raw _ _ rfl fun _ => (raw_system _ o (by decide)).trans rfl

theorem RoundTrip.ksplit (o : CFmt) : RoundTrip.Statement (.ksplit o) :=
  roundTrip_of_raw _ _ rfl fun _ => (raw_system _ o (by decide)).trans rfl

theorem RoundTrip.shlk (o : CFmt) : RoundTrip.Statement (.shlk o) :=
  roundTrip_of_raw _ _ rfl fun _ => (raw_system _ o (by decide)).trans rfl

theorem RoundTrip.shrefInc (o : CFmt) : RoundTrip.Statement (.shrefInc o) :=
  roundTrip_of_raw _ _ rfl fun h => (raw_system _ o (by decide)).trans (by
    have h2 : o.f 0 0 = 0 := field_zero (Bool.and_eq_true_iff.mp h).2 0 1 (by decide) (by decide)
    simp [decodeC, h2])

theorem RoundTrip.shrefDec (o : CFmt) : RoundTrip.Statement (.shrefDec o) :=
  roundTrip_of_raw _ _ rfl fun h => (raw_system _ o (by decide)).trans (by
    have h2 := beq_iff_eq.mp (Bool.and_eq_true_iff.mp h).2
    simp [decodeC, CFmt.f, h2])

theorem RoundTrip.shpin (o : CFmt) : RoundTrip.Statement (.shpin o) :=
  roundTrip_of_raw _ _ rfl fun _ => (raw_system _ o (by decide)).trans rfl

theorem RoundTrip.shcpy (o : CFmt) : RoundTrip.Statement (.shcpy o) :=
  roundTrip_of_raw _ _ rfl fun _ => (raw_system _ o (by decide)).trans rfl

theorem RoundTrip.kvapp (o : CFmt) : RoundTrip.Statement (.kvapp o) :=
  roundTrip_of_raw _ _ rfl fun _ => (raw_system _ o (by decide)).trans rfl

theorem RoundTrip.kvcmt (o : CFmt) : RoundTrip.Statement (.kvcmt o) :=
  roundTrip_of_raw _ _ rfl fun _ => (raw_system _ o (by decide)).trans rfl

theorem RoundTrip.kvrej (o : CFmt) : RoundTrip.Statement (.kvrej o) :=
  roundTrip_of_raw _ _ rfl fun _ => (raw_system _ o (by decide)).trans rfl

theorem RoundTrip.sctch (o : CFmt) : RoundTrip.Statement (.sctch o) :=
  roundTrip_of_raw _ _ rfl fun _ => (raw_system _ o (by decide)).trans rfl

theorem RoundTrip.scld (o : CFmt) : RoundTrip.Statement (.scld o) :=
  roundTrip_of_raw _ _ rfl fun _ => (raw_system _ o (by decide)).trans rfl

theorem RoundTrip.scev (o : CFmt) : RoundTrip.Statement (.scev o) :=
  roundTrip_of_raw _ _ rfl fun _ => (raw_system _ o (by decide)).trans rfl

theorem RoundTrip.scqry (o : CFmt) : RoundTrip.Statement (.scqry o) :=
  roundTrip_of_raw _ _ rfl fun _ => (raw_system _ o (by decide)).trans rfl

theorem RoundTrip.spacc (o : CFmt) : RoundTrip.Statement (.spacc o) :=
  roundTrip_of_raw _ _ rfl fun _ => (raw_system _ o (by decide)).trans rfl

theorem RoundTrip.spres (o : CFmt) : RoundTrip.Statement (.spres o) :=
  roundTrip_of_raw _ _ rfl fun _ => (raw_system _ o (by decide)).trans rfl

theorem RoundTrip.trpub (o : CFmt) : RoundTrip.Statement (.trpub o) :=
  roundTrip_of_raw _ _ rfl fun _ => (raw_system _ o (by decide)).trans rfl

theorem RoundTrip.launch (o : CFmt) : RoundTrip.Statement (.launch o) :=
  roundTrip_of_raw _ _ rfl fun _ => (raw_system _ o (by decide)).trans rfl

theorem RoundTrip.trap (o : CFmt) : RoundTrip.Statement (.trap o) :=
  roundTrip_of_raw _ _ rfl fun _ => (raw_system _ o (by decide)).trans rfl

theorem RoundTrip.eret (o : CFmt) : RoundTrip.Statement (.eret o) :=
  roundTrip_of_raw _ _ rfl fun _ => (raw_system _ o (by decide)).trans rfl

theorem RoundTrip.csrr (o : CFmt) : RoundTrip.Statement (.csrr o) :=
  roundTrip_of_raw _ _ rfl fun _ => (raw_system _ o (by decide)).trans rfl

theorem RoundTrip.csrw (o : CFmt) : RoundTrip.Statement (.csrw o) :=
  roundTrip_of_raw _ _ rfl fun _ => (raw_system _ o (by decide)).trans rfl

theorem RoundTrip.csrs (o : CFmt) : RoundTrip.Statement (.csrs o) :=
  roundTrip_of_raw _ _ rfl fun _ => (raw_system _ o (by decide)).trans rfl

theorem RoundTrip.csrc (o : CFmt) : RoundTrip.Statement (.csrc o) :=
  roundTrip_of_raw _ _ rfl fun _ => (raw_system _ o (by decide)).trans rfl

theorem RoundTrip.time (o : CFmt) : RoundTrip.Statement (.time o) :=
  roundTrip_of_raw _ _ rfl fun _ => (raw_system _ o (by decide)).trans rfl

theorem RoundTrip.waitt (o : CFmt) : RoundTrip.Statement (.waitt o) :=
  roundTrip_of_raw _ _ rfl fun _ => (raw_system _ o (by decide)).trans rfl

theorem RoundTrip.bar (o : CFmt) : RoundTrip.Statement (.bar o) :=
  roundTrip_of_raw _ _ rfl fun _ => (raw_system _ o (by decide)).trans rfl

theorem RoundTrip.ctxsv (o : CFmt) : RoundTrip.Statement (.ctxsv o) :=
  roundTrip_of_raw _ _ rfl fun _ => (raw_system _ o (by decide)).trans rfl

theorem RoundTrip.ctxld (o : CFmt) : RoundTrip.Statement (.ctxld o) :=
  roundTrip_of_raw _ _ rfl fun _ => (raw_system _ o (by decide)).trans rfl

theorem RoundTrip.tlbiAll (o : CFmt) : RoundTrip.Statement (.tlbiAll o) :=
  roundTrip_of_raw _ _ rfl fun h => (raw_system _ o (by decide)).trans (by
    have h2 : o.f 1 0 = 0 := field_zero (Bool.and_eq_true_iff.mp h).2 0 2 (by decide) (by decide)
    simp [decodeC, h2])

theorem RoundTrip.tlbiAsid (o : CFmt) : RoundTrip.Statement (.tlbiAsid o) :=
  roundTrip_of_raw _ _ rfl fun h => (raw_system _ o (by decide)).trans (by
    have h2 := beq_iff_eq.mp (Bool.and_eq_true_iff.mp h).2
    simp [decodeC, CFmt.f, h2])

theorem RoundTrip.tlbiVa (o : CFmt) : RoundTrip.Statement (.tlbiVa o) :=
  roundTrip_of_raw _ _ rfl fun h => (raw_system _ o (by decide)).trans (by
    have h2 := beq_iff_eq.mp (Bool.and_eq_true_iff.mp h).2
    simp [decodeC, CFmt.f, h2])

theorem RoundTrip.tlbiVall (o : CFmt) : RoundTrip.Statement (.tlbiVall o) :=
  roundTrip_of_raw _ _ rfl fun h => (raw_system _ o (by decide)).trans (by
    have h2 := beq_iff_eq.mp (Bool.and_eq_true_iff.mp h).2
    simp [decodeC, CFmt.f, h2])

theorem RoundTrip.cfgld (o : CFmt) : RoundTrip.Statement (.cfgld o) :=
  roundTrip_of_raw _ _ rfl fun _ => (raw_system _ o (by decide)).trans rfl

theorem RoundTrip.trgld (o : CFmt) : RoundTrip.Statement (.trgld o) :=
  roundTrip_of_raw _ _ rfl fun _ => (raw_system _ o (by decide)).trans rfl

theorem RoundTrip.bkpt (o : CFmt) : RoundTrip.Statement (.bkpt o) :=
  roundTrip_of_raw _ _ rfl fun _ => (raw_system _ o (by decide)).trans rfl

theorem RoundTrip.halt (o : CFmt) : RoundTrip.Statement (.halt o) :=
  roundTrip_of_raw _ _ rfl fun _ => (raw_system _ o (by decide)).trans rfl

theorem RoundTrip.coldStart : RoundTrip.Statement .coldStart := roundTrip_of_event _ rfl

theorem RoundTrip.warmStart : RoundTrip.Statement .warmStart := roundTrip_of_event _ rfl

theorem RoundTrip.thermalStopEnd : RoundTrip.Statement .thermalStopEnd := roundTrip_of_event _ rfl

theorem RoundTrip.recoveryFrame : RoundTrip.Statement .recoveryFrame := roundTrip_of_event _ rfl

theorem RoundTrip.recoveryEnd : RoundTrip.Statement .recoveryEnd := roundTrip_of_event _ rfl

theorem RoundTrip.attestationRequest : RoundTrip.Statement .attestationRequest := roundTrip_of_event _ rfl

theorem RoundTrip.fuseSvnRaise : RoundTrip.Statement .fuseSvnRaise := roundTrip_of_event _ rfl

theorem RoundTrip.lifetimeRecordWrite : RoundTrip.Statement .lifetimeRecordWrite := roundTrip_of_event _ rfl

theorem RoundTrip.recordCopyRequest : RoundTrip.Statement .recordCopyRequest := roundTrip_of_event _ rfl

theorem RoundTrip.powerSample : RoundTrip.Statement .powerSample := roundTrip_of_event _ rfl

theorem RoundTrip.linkDown : RoundTrip.Statement .linkDown := roundTrip_of_event _ rfl

theorem RoundTrip.cmRequest : RoundTrip.Statement .cmRequest := roundTrip_of_event _ rfl

theorem RoundTrip.hostSend : RoundTrip.Statement .hostSend := roundTrip_of_event _ rfl

theorem RoundTrip.hostWrite : RoundTrip.Statement .hostWrite := roundTrip_of_event _ rfl

theorem RoundTrip.hostWriteImm : RoundTrip.Statement .hostWriteImm := roundTrip_of_event _ rfl

theorem RoundTrip.hostRead : RoundTrip.Statement .hostRead := roundTrip_of_event _ rfl

theorem RoundTrip.fetchAdd : RoundTrip.Statement .fetchAdd := roundTrip_of_event _ rfl

theorem RoundTrip.cmpSwap : RoundTrip.Statement .cmpSwap := roundTrip_of_event _ rfl

theorem RoundTrip.hostInvalidOpcode : RoundTrip.Statement .hostInvalidOpcode := roundTrip_of_event _ rfl

theorem RoundTrip.cnpReceived : RoundTrip.Statement .cnpReceived := roundTrip_of_event _ rfl

theorem RoundTrip.loopDataFrame : RoundTrip.Statement .loopDataFrame := roundTrip_of_event _ rfl

theorem RoundTrip.loopAckFrame : RoundTrip.Statement .loopAckFrame := roundTrip_of_event _ rfl

theorem RoundTrip.loopNakFrame : RoundTrip.Statement .loopNakFrame := roundTrip_of_event _ rfl

theorem RoundTrip.ackTimer : RoundTrip.Statement .ackTimer := roundTrip_of_event _ rfl

theorem RoundTrip.replayTimeout : RoundTrip.Statement .replayTimeout := roundTrip_of_event _ rfl

theorem RoundTrip.remoteRequest : RoundTrip.Statement .remoteRequest := roundTrip_of_event _ rfl

theorem RoundTrip.podcfgWrite : RoundTrip.Statement .podcfgWrite := roundTrip_of_event _ rfl

theorem RoundTrip.ptpSync : RoundTrip.Statement .ptpSync := roundTrip_of_event _ rfl

theorem RoundTrip.ptpAnnounceTimeout : RoundTrip.Statement .ptpAnnounceTimeout := roundTrip_of_event _ rfl

theorem RoundTrip.timeStep : RoundTrip.Statement .timeStep := roundTrip_of_event _ rfl

theorem RoundTrip.timerateWrite : RoundTrip.Statement .timerateWrite := roundTrip_of_event _ rfl

theorem RoundTrip.ptpstatWrite : RoundTrip.Statement .ptpstatWrite := roundTrip_of_event _ rfl

theorem RoundTrip.sbbaseWrite : RoundTrip.Statement .sbbaseWrite := roundTrip_of_event _ rfl

theorem RoundTrip.tailStore : RoundTrip.Statement .tailStore := roundTrip_of_event _ rfl

theorem RoundTrip.graph : RoundTrip.Statement .graph := roundTrip_of_event _ rfl

theorem RoundTrip.preempt : RoundTrip.Statement .preempt := roundTrip_of_event _ rfl

theorem RoundTrip.resume : RoundTrip.Statement .resume := roundTrip_of_event _ rfl

theorem RoundTrip.abort : RoundTrip.Statement .abort := roundTrip_of_event _ rfl

theorem RoundTrip.scset : RoundTrip.Statement .scset := roundTrip_of_event _ rfl

theorem RoundTrip.scfree : RoundTrip.Statement .scfree := roundTrip_of_event _ rfl

theorem RoundTrip.ttset : RoundTrip.Statement .ttset := roundTrip_of_event _ rfl

theorem RoundTrip.query : RoundTrip.Statement .query := roundTrip_of_event _ rfl

theorem RoundTrip.endNode : RoundTrip.Statement .endNode := roundTrip_of_event _ rfl

theorem RoundTrip.cfg : RoundTrip.Statement .cfg := roundTrip_of_event _ rfl

theorem RoundTrip.arm : RoundTrip.Statement .arm := roundTrip_of_event _ rfl

theorem RoundTrip.waitNode : RoundTrip.Statement .waitNode := roundTrip_of_event _ rfl

theorem RoundTrip.waitTimeout : RoundTrip.Statement .waitTimeout := roundTrip_of_event _ rfl

theorem RoundTrip.repeatNode : RoundTrip.Statement .repeatNode := roundTrip_of_event _ rfl

theorem RoundTrip.signal : RoundTrip.Statement .signal := roundTrip_of_event _ rfl

theorem RoundTrip.sct : RoundTrip.Statement .sct := roundTrip_of_event _ rfl

theorem RoundTrip.drain : RoundTrip.Statement .drain := roundTrip_of_event _ rfl

theorem RoundTrip.timetableFire : RoundTrip.Statement .timetableFire := roundTrip_of_event _ rfl

theorem RoundTrip.stccfgWrite : RoundTrip.Statement .stccfgWrite := roundTrip_of_event _ rfl

theorem RoundTrip.scanVisit : RoundTrip.Statement .scanVisit := roundTrip_of_event _ rfl

theorem RoundTrip.stcRestoreDone : RoundTrip.Statement .stcRestoreDone := roundTrip_of_event _ rfl

theorem RoundTrip.stcEvictDone : RoundTrip.Statement .stcEvictDone := roundTrip_of_event _ rfl

theorem RoundTrip.triggerFire : RoundTrip.Statement .triggerFire := roundTrip_of_event _ rfl

theorem RoundTrip.go : RoundTrip.Statement .go := roundTrip_of_event _ rfl

theorem RoundTrip.quiesceDone : RoundTrip.Statement .quiesceDone := roundTrip_of_event _ rfl

theorem RoundTrip.saveDone : RoundTrip.Statement .saveDone := roundTrip_of_event _ rfl

theorem RoundTrip.regionRestoreDone : RoundTrip.Statement .regionRestoreDone := roundTrip_of_event _ rfl

theorem RoundTrip.drainDone : RoundTrip.Statement .drainDone := roundTrip_of_event _ rfl

theorem RoundTrip.rewalk : RoundTrip.Statement .rewalk := roundTrip_of_event _ rfl

theorem RoundTrip.withholdTimeout : RoundTrip.Statement .withholdTimeout := roundTrip_of_event _ rfl

theorem RoundTrip.hotcfgWrite : RoundTrip.Statement .hotcfgWrite := roundTrip_of_event _ rfl

theorem RoundTrip.wholdWrite : RoundTrip.Statement .wholdWrite := roundTrip_of_event _ rfl

theorem RoundTrip.coachHop : RoundTrip.Statement .coachHop := roundTrip_of_event _ rfl

theorem RoundTrip.coachDelivery : RoundTrip.Statement .coachDelivery := roundTrip_of_event _ rfl

theorem RoundTrip.loopexit : RoundTrip.Statement .loopexit := roundTrip_of_event _ rfl

theorem RoundTrip.merge : RoundTrip.Statement .merge := roundTrip_of_event _ rfl

theorem RoundTrip.reduce : RoundTrip.Statement .reduce := roundTrip_of_event _ rfl

theorem RoundTrip.reduceDeadline : RoundTrip.Statement .reduceDeadline := roundTrip_of_event _ rfl

theorem RoundTrip.junctionSidingTimeout : RoundTrip.Statement .junctionSidingTimeout := roundTrip_of_event _ rfl

theorem RoundTrip.junctionSidingRelease : RoundTrip.Statement .junctionSidingRelease := roundTrip_of_event _ rfl

theorem RoundTrip.apeElement : RoundTrip.Statement .apeElement := roundTrip_of_event _ rfl

theorem RoundTrip.generatorElement : RoundTrip.Statement .generatorElement := roundTrip_of_event _ rfl

theorem RoundTrip.ceGranule : RoundTrip.Statement .ceGranule := roundTrip_of_event _ rfl

theorem RoundTrip.ceComplete : RoundTrip.Statement .ceComplete := roundTrip_of_event _ rfl

theorem RoundTrip.matrixComplete : RoundTrip.Statement .matrixComplete := roundTrip_of_event _ rfl

theorem RoundTrip.linkSettle : RoundTrip.Statement .linkSettle := roundTrip_of_event _ rfl

theorem RoundTrip.watchdog : RoundTrip.Statement .watchdog := roundTrip_of_event _ rfl

theorem RoundTrip.eccError : RoundTrip.Statement .eccError := roundTrip_of_event _ rfl

theorem RoundTrip.trapinfoAck : RoundTrip.Statement .trapinfoAck := roundTrip_of_event _ rfl

theorem RoundTrip.tilePredWrite : RoundTrip.Statement .tilePredWrite := roundTrip_of_event _ rfl

theorem RoundTrip.svwdogWrite : RoundTrip.Statement .svwdogWrite := roundTrip_of_event _ rfl

theorem RoundTrip.evpendAck : RoundTrip.Statement .evpendAck := roundTrip_of_event _ rfl

theorem RoundTrip.bootwalkGo : RoundTrip.Statement .bootwalkGo := roundTrip_of_event _ rfl

theorem RoundTrip.registerWrite : RoundTrip.Statement .registerWrite := roundTrip_of_event _ rfl

theorem RoundTrip.linkUp : RoundTrip.Statement .linkUp := roundTrip_of_event _ rfl

theorem RoundTrip.powerLoss : RoundTrip.Statement .powerLoss := roundTrip_of_event _ rfl

theorem RoundTrip.announceReceived : RoundTrip.Statement .announceReceived := roundTrip_of_event _ rfl

theorem RoundTrip.waittExpiry : RoundTrip.Statement .waittExpiry := roundTrip_of_event _ rfl

end Sys2Proof.Laws
end

