-- ==== Sys2Proof/Laws/Vector.lean ====
section
/-! SUPPORT. What the shared operations of the vector group do on registers: operands, the write of a result, links. -/

namespace Sys2Proof.Laws

open Sys2Proof.Machine Sys2Proof.Safety

/-! The executing context. -/

@[simp] theorem me_modMe (s : State) (f : Context → Context) : (s.modMe f).me = f s.me := by
  unfold State.me State.modMe
  simp only [State.die, State.tix, State.cix, modCtx_cur]
  exact ctx_modCtx_self _ _ _ _ _

@[simp] theorem me_post (s : State) (n : Nat) (i : Instr) (a : Arg) : (s.post n i a).me = s.me := rfl

/-- In a context the executing agent's registers are the context's. -/
theorem hart_me {s : State} (h : s.onCore = false) : s.hart = s.me.hart := by
  unfold State.hart State.me State.hartOf State.die State.tix State.cix
  cases hc : s.cur with
  | ctx => rfl
  | core => simp [State.onCore, hc] at h

theorem modHart_me {s : State} (h : s.onCore = false) (f : Hart → Hart) :
    s.modHart f = s.modMe fun x => { x with hart := f x.hart } := by
  unfold State.modHart State.modMe State.modHartOf State.die State.tix State.cix
  cases hc : s.cur with
  | ctx => rfl
  | core => simp [State.onCore, hc] at h

@[simp] theorem onCore_modMe (s : State) (f : Context → Context) : (s.modMe f).onCore = s.onCore := rfl

theorem onCore_modHart (s : State) (f : Hart → Hart) : (s.modHart f).onCore = s.onCore := by
  simp [State.onCore]

/-- The executing context's change leaves every other agent's registers. -/
theorem hartOf_modMe_ne {s : State} (f : Context → Context) (h : s.onCore = false) (hs : AgentOk s.cur) (a : Agent)
    (ha : AgentOk a) (hne : a ≠ s.cur) : (s.modMe f).hartOf a = s.hartOf a := by
  cases hc : s.cur with
  | core => simp [State.onCore, hc] at h
  | ctx d t c =>
    unfold State.modMe State.die State.tix State.cix
    simp only [hc]
    cases a with
    | core k => rfl
    | ctx e u k =>
      have h1 : t < 256 := agentOk hs d t c hc
      have h2 : u < 256 := agentOk ha e u k rfl
      have hx : ¬(e * 256 + u = d * 256 + t ∧ k = c) := by
        rintro ⟨x, rfl⟩
        have : e = d := by omega
        subst this
        have : u = t := by omega
        subst this
        exact hne hc.symm
      simp only [State.hartOf, ctx_modCtx, hx, if_false]

/-- A change of the executing context that keeps its trap and rounding registers keeps what Kept says. -/
theorem kept_modMe {s : State} (f : Context → Context) (h : s.onCore = false)
    (h1 : (f s.me).hart.epc = s.me.hart.epc) (h2 : (f s.me).hart.cause = s.me.hart.cause)
    (h3 : (f s.me).hart.tval = s.me.hart.tval) (h4 : (f s.me).hart.nbv = s.me.hart.nbv)
    (h5 : (f s.me).hart.rnd = s.me.hart.rnd) : Kept s (s.modMe f) := by
  have e : (s.modMe f).hart = (f s.me).hart := by rw [hart_me (by simpa using h), me_modMe]
  have e0 := hart_me h
  refine ⟨rfl, ?_, ?_, ?_, ?_, ?_, fun hs a ha hne => hartOf_modMe_ne f h hs a ha hne⟩ <;> rw [e, e0] <;> assumption

theorem kept_refl (s : State) : Kept s s := ⟨rfl, rfl, rfl, rfl, rfl, rfl, fun _ _ _ _ => rfl⟩

theorem kept_trans {s t u : State} (h : Kept s t) (k : Kept t u) : Kept s u := by
  obtain ⟨a, b, c, d, e, f, g⟩ := h
  obtain ⟨a1, b1, c1, d1, e1, f1, g1⟩ := k
  refine ⟨a1.trans a, b1.trans b, c1.trans c, d1.trans d, e1.trans e, f1.trans f, fun hs x hx hne => ?_⟩
  rw [g1 (a ▸ hs) x hx (a ▸ hne), g hs x hx hne]

/-! Links that have ended. -/

@[simp] theorem reap_v (x : Context) : x.reap.v = x.v := rfl
@[simp] theorem reap_m (x : Context) : x.reap.m = x.m := rfl
@[simp] theorem reap_cut (x : Context) : x.reap.cut = x.cut := rfl
@[simp] theorem reap_links (x : Context) : x.reap.links = x.links.filter fun l => l.open_ != 0 := rfl
@[simp] theorem reap_hart (x : Context) :
    x.reap.hart = { x.hart with cutcnt := stick (x.hart.cutcnt + endedCuts x.links) 0xFFFFFFFF } := rfl

/-! Operands. -/

theorem portOf_reg {f : BitVec 5} (h : f.toNat < 24) : portOf f = none := if_neg (by omega)

theorem srcPorts_regs {l : List (Nat × BitVec 5)} (h : ∀ e ∈ l, e.2.toNat < 24) : srcPorts l = [] := by
  unfold srcPorts
  induction l with
  | nil => rfl
  | cons x r ih =>
    rw [List.foldl_cons, portOf_reg (h x (by simp))]
    exact ih fun e he => h e (by simp [he])

theorem vsrc_reg (s : State) (pops : Nat → Lanes) {f : BitVec 5} (h : f.toNat < 24) (j : Nat) : vget (s.vsrc pops f) j 0 = laneOf s f j := by
  rw [State.vsrc, if_pos h]; rfl

theorem vget_splat (s : State) (f : BitVec 5) {j : Nat} (h : j < 64) : vget (s.splat f) j 0 = (s.getG f).setWidth 32 := by
  simp [State.splat, vget, h]

/-- Operand va, lane by lane. -/
theorem vget_vaLanes (s : State) (o : VFmt) (pops : Nat → Lanes) (h : o.sa = true ∨ o.va.toNat < 24) {j : Nat} (hj : j < 64) :
    vget (s.vaLanes o pops) j 0 = vaOf s o j := by
  unfold State.vaLanes vaOf
  cases hs : o.sa
  · exact vsrc_reg s pops (h.resolve_left (by simp [hs])) j
  · exact vget_splat s o.va hj

@[simp] theorem vget_lanesFn (f : Nat → Lane) (d : Lane) {j : Nat} (h : j < 64) : vget (lanesFn f) j d = f j := by
  simp [lanesFn, vget, h]

@[simp] theorem vget_pickLanes (m : Word) (a b : Lanes) (d : Lane) {j : Nat} (h : j < 64) :
    vget (pickLanes m a b) j d = if m.getLsbD j then vget a j d else vget b j d := by
  simp [pickLanes, vget, h]

/-- Within a vector the default does not matter. -/
theorem vget_lt {α : Type} {n : Nat} (v : Vector α n) (i : Nat) (d : α) (h : i < n) : vget v i d = v[i] := dif_pos h

/-! An instruction whose vector fields name registers. -/

/-- The state in which such an instruction works: the latches filled for its address are empty (R214). -/
theorem popsDone_nil (s : State) (pc m w : Word) :
    s.popsDone pc m w [] = s.modMe fun x => { x with latches := x.latches.filter fun e => e.2.addr != pc } := rfl

/-- Without ports the work of an instruction is its own. -/
theorem withPorts_regs (s : State) (m w : Word) (k : (Nat → Latch) → State → Except State State) :
    ∃ pops, s.withPorts m w [] none k = match k pops (s.popsDone s.pc m w []) with | .ok t => t | .error t => t := ⟨_, rfl⟩

/-- An instruction of the vector group on registers does its work once no link writes its sources. -/
theorem vecWork_regs {s : State} {o : VFmt} {a : Word} (h : LanesOn s o.gn o.gs a) {srcs : List (Nat × BitVec 5)} {need : Word → Word}
    {ms : List Nat} (hs : ∀ e ∈ srcs, e.2.toNat < 24) (hr : s.regWait (srcs.map (·.2)) (need a) = none) (hm : s.maskWait ms = none)
    (k : (Nat → Lanes) → Word → State → Except State State) :
    ∃ pops, s.vecWork o srcs need ms none k =
      match k pops a (s.popsDone s.pc (popMask o a) a []) with | .ok t => t | .error t => t := by
  unfold State.vecWork
  rw [masked_on h, hr, hm, srcPorts_regs hs]
  exact ⟨_, rfl⟩

/-- As vecWork_regs, for an instruction that pushes no port. -/
theorem vecOp_regs {s : State} {o : VFmt} {a : Word} (h : LanesOn s o.gn o.gs a) {srcs : List (Nat × BitVec 5)} {need : Word → Word}
    {ms : List Nat} (hs : ∀ e ∈ srcs, e.2.toNat < 24) (hr : s.regWait (srcs.map (·.2)) (need a) = none) (hm : s.maskWait ms = none)
    (k : (Nat → Lanes) → Word → State → State) :
    ∃ pops, s.vecOp o srcs need ms k = k pops a (s.popsDone s.pc (popMask o a) a []) :=
  vecWork_regs h hs hr hm _

/-- As vecWork_regs, for a result in register vd. -/
theorem vecPut_regs {s : State} {o : VFmt} {a : Word} (h : LanesOn s o.gn o.gs a) (hd : o.vd.toNat < 24)
    {srcs : List (Nat × BitVec 5)} {need : Word → Word} {ms : List Nat} (hs : ∀ e ∈ srcs, e.2.toNat < 24)
    (hr : s.regWait (srcs.map (·.2)) (need a) = none) (hm : s.maskWait ms = none) (k : (Nat → Lanes) → Word → State → VRes) :
    ∃ pops, s.vecPut o srcs need ms k =
      (let u := s.popsDone s.pc (popMask o a) a []
       (((u.modMe fun x => x.writeV o.vd.toNat a (k pops a u).lanes).addFlags (k pops a u).fl).advance)) := by
  unfold State.vecPut State.putV
  rw [portOf_reg hd]
  exact vecWork_regs h hs hr hm _

theorem getG_modMe {s : State} (h : s.onCore = false) (f : Context → Context) (hg : (f s.me).hart.g = s.me.hart.g) (n : BitVec 5) :
    (s.modMe f).getG n = s.getG n := by
  rw [State.getG, State.getG, hart_me (by simpa using h), me_modMe, hg, hart_me h]

/-- A write of lanes of a register, with flags, that moves on, from the state in which the latches are empty. -/
theorem wroteLanes_write {s : State} (h : s.onCore = false) (r : Nat) (hr : r < 24) (a pc m w : Word) (new : Lanes) (fl : Fl) :
    WroteLanes s ((((s.popsDone pc m w []).modMe fun x => x.writeV r a new).addFlags fl).advance) r a (fun j => vget new j 0) fl := by
  have hm := hart_me h
  rw [popsDone_nil, State.addFlags, State.advance, modHart_me (by simpa [onCore_modHart] using h), modHart_me (by simpa using h)]
  refine ⟨⟨⟨?_, rfl, ?_⟩, ?_⟩, ?_, ?_, ?_, ?_⟩
  · simp only [State.pc]; rw [hart_me (by simpa using h), hm]; simp [Context.writeV]
  · refine kept_trans (kept_modMe _ h rfl rfl rfl rfl rfl) (kept_trans (kept_modMe _ (by simpa using h) rfl rfl rfl rfl rfl)
      (kept_trans (kept_modMe _ (by simpa using h) rfl rfl rfl rfl rfl) (kept_modMe _ (by simpa using h) rfl rfl rfl rfl rfl)))
  · intro n
    rw [getG_modMe (by simpa using h) _ rfl, getG_modMe (by simpa using h) _ rfl, getG_modMe (by simpa using h) _ rfl,
      getG_modMe (by simpa using h) _ rfl]
  · simp [Context.writeV]
  · rw [hart_me (by simpa using h), hm]; simp [Context.writeV]
  · intro j hj
    simp [Context.writeV, vput, hr, hj, vget_lt _ _ _ hr]
  · intro k hk; simp [Context.writeV, vget_vput_ne _ _ _ (Ne.symm hk)]

theorem wroteLanes_congr {s t : State} {r : Nat} {a : Word} {f g : Nat → Lane} {fl : Fl} (h : WroteLanes s t r a f fl)
    (hfg : ∀ j, j < 64 → f j = g j) : WroteLanes s t r a g fl := by
  obtain ⟨h1, h2, h3, h4, h5⟩ := h
  exact ⟨h1, h2, h3, fun j hj => by rw [h4 j hj, hfg j hj], h5⟩

theorem getG_unlatch {s : State} (h : s.onCore = false) (pc m w : Word) (n : BitVec 5) : (s.popsDone pc m w []).getG n = s.getG n := by
  rw [popsDone_nil]; exact getG_modMe h _ rfl n

theorem laneOf_unlatch (s : State) (f : BitVec 5) (pc m w : Word) (j : Nat) : laneOf (s.popsDone pc m w []) f j = laneOf s f j := by
  rw [popsDone_nil, laneOf, State.readV, me_modMe]; rfl

theorem vaOf_unlatch {s : State} (h : s.onCore = false) (o : VFmt) (pc m w : Word) (j : Nat) :
    vaOf (s.popsDone pc m w []) o j = vaOf s o j := by
  rw [vaOf, vaOf, getG_unlatch h, laneOf_unlatch]

@[simp] theorem mask_unlatch (s : State) (n : Nat) (pc m w : Word) : (s.popsDone pc m w []).me.mask n = s.me.mask n := by
  rw [popsDone_nil, me_modMe]; rfl

theorem vaSrc_regs {o : VFmt} (h : o.sa = true ∨ o.va.toNat < 24) : ∀ e ∈ vaSrc o, e.2.toNat < 24 := by
  unfold vaSrc; split
  · simp
  · next hs => simpa using h.resolve_left hs

/-- The result of an instruction on registers whose result is a function of the state without latches. -/
theorem vecPut_wrote {s : State} {o : VFmt} {a : Word} (h : LanesOn s o.gn o.gs a) (hd : o.vd.toNat < 24)
    {srcs : List (Nat × BitVec 5)} {need : Word → Word} {ms : List Nat} (hs : ∀ e ∈ srcs, e.2.toNat < 24)
    (hr : s.regWait (srcs.map (·.2)) (need a) = none) (hm : s.maskWait ms = none) (k : (Nat → Lanes) → Word → State → VRes)
    (f : Nat → Lane) (fl : Fl)
    (hk : ∀ pops, let r := k pops a (s.popsDone s.pc (popMask o a) a []); (∀ j, j < 64 → vget r.lanes j 0 = f j) ∧ r.fl = fl) :
    WroteLanes s (s.vecPut o srcs need ms k) o.vd.toNat a f fl := by
  obtain ⟨pops, e⟩ := vecPut_regs h hd hs hr hm k
  obtain ⟨h1, h2⟩ := hk pops
  rw [e, ← h2]
  exact wroteLanes_congr (wroteLanes_write h.1 _ hd a _ _ _ _ _) h1

/-- A lane operation on va and vb. -/
theorem lane2_regs {s : State} {o : VFmt} {a : Word} (h : LanesOn s o.gn o.gs a) (hr : RegOps o [o.vd]) (hb : o.vb.toNat < 24)
    (hs : Settled s o [o.vb] a) (f : Lane → Lane → Lane) :
    WroteLanes s (s.lane2 o f) o.vd.toNat a (fun j => f (vaOf s o j) (laneOf s o.vb j)) 0 := by
  refine vecPut_wrote h (hr.2 _ (by simp)) ?_ (by simpa [Settled] using hs) rfl _ _ _ fun pops => ⟨fun j hj => ?_, rfl⟩
  · intro e he
    rcases List.mem_append.1 he with he | he
    · exact vaSrc_regs hr.1 e he
    · simp at he; subst he; exact hb
  · simp only []
    rw [vget_lanesFn _ _ hj, vget_vaLanes _ _ _ hr.1 hj, vsrc_reg _ _ hb, vaOf_unlatch h.1, laneOf_unlatch]

/-- A shift by an amount of the instruction. -/
theorem laneShift_imm {s : State} {o : VFmt} {a : Word} (h : LanesOn s o.gn o.gs a) (hr : RegOps o [o.vd]) (hi : o.aux.getLsbD 1 = true)
    (hs : Settled s o [] a) (f : Lane → Nat → Lane) :
    WroteLanes s (s.laneShift o f) o.vd.toNat a (fun j => f (vaOf s o j) (o.imm.toNat % 64)) 0 := by
  rw [State.laneShift, if_pos hi]
  refine vecPut_wrote h (hr.2 _ (by simp)) (vaSrc_regs hr.1) (by simpa [Settled] using hs) rfl _ _ _ fun pops => ⟨fun j hj => ?_, rfl⟩
  simp only []
  rw [vget_lanesFn _ _ hj, vget_vaLanes _ _ _ hr.1 hj, vaOf_unlatch h.1]

/-- A shift by the lanes of vb. -/
theorem laneShift_reg {s : State} {o : VFmt} {a : Word} (h : LanesOn s o.gn o.gs a) (hr : RegOps o [o.vd]) (hi : o.aux.getLsbD 1 = false)
    (hb : o.vb.toNat < 24) (hs : Settled s o [o.vb] a) (f : Lane → Nat → Lane) :
    WroteLanes s (s.laneShift o f) o.vd.toNat a (fun j => f (vaOf s o j) (laneOf s o.vb j).toNat) 0 := by
  rw [State.laneShift, if_neg (by rw [hi]; decide)]
  exact lane2_regs h hr hb hs _

/-- A lane operation that moves lanes of va. -/
theorem moveLanes_regs {s : State} {o : VFmt} {a : Word} (h : LanesOn s o.gn o.gs a) (hd : o.vd.toNat < 24)
    (hv : o.sa = true ∨ o.va.toNat < 24) {srcs : List (Nat × BitVec 5)} (hs : ∀ e ∈ srcs, e.2.toNat < 24)
    (hr : s.regWait (srcs.map (·.2)) (BitVec.allOnes 64) = none) (at_ : State → (Nat → Lanes) → Nat → Option Nat) (g : Nat → Option Nat)
    (hg : ∀ pops j, j < 64 → at_ (s.popsDone s.pc (popMask o a) a []) pops j = g j) (h64 : ∀ j, j < 64 → ∀ k, g j = some k → k < 64) :
    WroteLanes s (s.moveLanes o srcs at_) o.vd.toNat a (fun j => (g j).elim 0 (vaOf s o)) 0 := by
  unfold State.moveLanes
  refine vecPut_wrote (need := allLanes) h hd hs hr rfl _ _ _ fun pops => ⟨fun j hj => ?_, rfl⟩
  simp only []
  rw [vget_lanesFn _ _ hj, hg pops j hj]
  cases e : g j with
  | none => rfl
  | some k =>
    simp only [Option.elim]
    rw [vget_vaLanes _ _ _ hv (h64 j hj k e), vaOf_unlatch h.1]

/-! Masks and general registers as results. -/

/-- An instruction on registers that writes g[vd] and moves on. -/
theorem setG_steps_unlatch {s : State} (h : s.onCore = false) (pc m w : Word) (n : BitVec 5) (v : Word) (f : Fl) :
    let t := ((((s.popsDone pc m w []).addFlags f).setG n v).advance)
    Steps s t ∧ (n ≠ 0 → t.getG n = v) ∧ ∀ k, k ≠ n → t.getG k = s.getG k := by
  have hu : (s.popsDone pc m w []).onCore = false := h
  have k0 : Kept s ((s.popsDone pc m w []).addFlags f) := by
    rw [popsDone_nil, State.addFlags, modHart_me (by simpa using h)]
    exact kept_trans (kept_modMe _ h rfl rfl rfl rfl rfl) (kept_modMe _ (by simpa using h) rfl rfl rfl rfl rfl)
  have g0 : ∀ k, ((s.popsDone pc m w []).addFlags f).getG k = s.getG k := by
    intro k
    rw [State.addFlags, modHart_me hu, getG_modMe hu _ rfl]
    exact getG_unlatch h pc m w k
  have hc : ((s.popsDone pc m w []).addFlags f).onCore = false := by rw [State.addFlags, onCore_modHart]; exact hu
  have p0 : ((s.popsDone pc m w []).addFlags f).pc = s.pc := by
    rw [State.pc, State.pc, State.addFlags, hart_modHart, hart_me hu, hart_me h, popsDone_nil, me_modMe]
  have kh : ∀ (t : State) (f : Hart → Hart), t.onCore = false → (∀ x, (f x).epc = x.epc) → (∀ x, (f x).cause = x.cause) →
      (∀ x, (f x).tval = x.tval) → (∀ x, (f x).nbv = x.nbv) → (∀ x, (f x).rnd = x.rnd) → Kept t (t.modHart f) := by
    intro t f ht a b c d e
    rw [modHart_me ht]
    exact kept_modMe _ ht (a _) (b _) (c _) (d _) (e _)
  have ks : Kept ((s.popsDone pc m w []).addFlags f) (((s.popsDone pc m w []).addFlags f).setG n v) := by
    unfold State.setG; split
    · exact kept_refl _
    · exact kh _ _ hc (fun _ => rfl) (fun _ => rfl) (fun _ => rfl) (fun _ => rfl) fun _ => rfl
  have hc2 : (((s.popsDone pc m w []).addFlags f).setG n v).onCore = false := by
    simp only [State.onCore, cur_setG]; exact hc
  refine ⟨⟨?_, ?_, ?_⟩, ?_, ?_⟩
  · rw [pc_advance, pc_setG, p0]
  · simp [State.addFlags, popsDone_nil]
  · exact kept_trans k0 (kept_trans ks (kh _ _ hc2 (fun _ => rfl) (fun _ => rfl) (fun _ => rfl) (fun _ => rfl) fun _ => rfl))
  · intro hn; rw [getG_advance, getG_setG_self _ _ _ hn]
  · intro k hk; rw [getG_advance, getG_setG_ne _ _ _ _ hk, g0]

/-! Links. -/

/-- The links beside a new one. -/
theorem links_contextLink (x : Context) {l : Link} (h : l.push = none) :
    (x.link l).links = ((x.links.map (yields l)).filter fun o => o.open_ != 0) ++ [l] := by
  have e : yields l = fun o => if l.toMask then o.overMask l.dst l.active
      else if l.two then (o.overwrite l.dst l.active).overwrite (l.dst + 1) l.active else o.overwrite l.dst l.active := rfl
  unfold Context.link Context.linkReg
  simp only [h, Option.isSome_none, Bool.false_eq_true, if_false, reap_links]
  rw [e]
  cases l.toMask <;> cases l.two <;> simp [Function.comp_def]

/-- A new link keeps the masks and all of the registers but the counts of links and cuts. -/
theorem keeps_contextLink (x : Context) (l : Link) :
    (x.link l).m = x.m ∧ (x.link l).hart = { x.hart with peak := (x.link l).hart.peak, cutcnt := (x.link l).hart.cutcnt } := by
  unfold Context.link Context.linkReg
  cases l.push.isSome <;> cases l.toMask <;> cases l.two <;> exact ⟨rfl, rfl⟩

/-- What a state on the way to MovedOn has: the trap registers, memory, general registers and program counter of s. -/
theorem keeps_modMe {s t : State} (f : Context → Context) (hc : t.onCore = false)
    (h : Kept s t ∧ t.mem = s.mem ∧ (∀ n, t.getG n = s.getG n) ∧ t.pc = s.pc)
    (hf : ∃ w fl n p c, (f t.me).hart = { t.me.hart with wait := w, fflags := fl, stall := n, peak := p, cutcnt := c }) :
    Kept s (t.modMe f) ∧ (t.modMe f).mem = s.mem ∧ (∀ n, (t.modMe f).getG n = s.getG n) ∧ (t.modMe f).pc = s.pc := by
  obtain ⟨w, fl, n, p, c, e⟩ := hf
  refine ⟨kept_trans h.1 (kept_modMe f hc ?_ ?_ ?_ ?_ ?_), h.2.1, fun n => (getG_modMe hc f ?_ n).trans (h.2.2.1 n), ?_⟩
  iterate 6 (rw [e])
  rw [State.pc, hart_me (by simpa using hc), me_modMe, e, ← h.2.2.2, State.pc, hart_me hc]

theorem keeps_refl (s : State) : Kept s s ∧ s.mem = s.mem ∧ (∀ n, s.getG n = s.getG n) ∧ s.pc = s.pc :=
  ⟨kept_refl s, rfl, fun _ => rfl, rfl⟩

theorem keeps_unlatch {s : State} (h : s.onCore = false) (pc m w : Word) :
    let t := s.popsDone pc m w []
    Kept s t ∧ t.mem = s.mem ∧ (∀ n, t.getG n = s.getG n) ∧ t.pc = s.pc := by
  rw [popsDone_nil]
  exact keeps_modMe _ h (keeps_refl s) ⟨_, _, _, _, _, rfl⟩

/-- Such a state, moved on. -/
theorem movedOn_advance {s t : State} (hc : t.onCore = false)
    (h : Kept s t ∧ t.mem = s.mem ∧ (∀ n, t.getG n = s.getG n) ∧ t.pc = s.pc) : MovedOn s t.advance := by
  have k : Kept t t.advance := by
    rw [State.advance, modHart_me hc]
    exact kept_modMe _ hc rfl rfl rfl rfl rfl
  exact ⟨⟨by rw [pc_advance, h.2.2.2], by rw [advance_mem]; exact h.2.1, kept_trans h.1 k⟩, fun n => by rw [getG_advance, h.2.2.1]⟩

theorem keeps_link {s t : State} (hc : t.onCore = false) (h : Kept s t ∧ t.mem = s.mem ∧ (∀ n, t.getG n = s.getG n) ∧ t.pc = s.pc)
    (l : Link) : let u := t.link l
    Kept s u ∧ u.mem = s.mem ∧ (∀ n, u.getG n = s.getG n) ∧ u.pc = s.pc := by
  exact keeps_modMe (fun x => x.link l) hc h ⟨t.me.hart.wait, t.me.hart.fflags, t.me.hart.stall, _, _, (keeps_contextLink _ l).2⟩

theorem links_link (s : State) {l : Link} (h : l.push = none) : (s.link l).me.links = older s l ++ [l] := by
  show ((s.modMe fun x => x.link l).post 20 .linkSettle _).me.links = _
  rw [me_post, me_modMe, links_contextLink _ h]; rfl

theorem onCore_link (s : State) (l : Link) : (s.link l).onCore = s.onCore := rfl

theorem me_advance {s : State} (h : s.onCore = false) :
    s.advance.me = { s.me with hart := { s.me.hart with pc := s.me.hart.pc + 8, wait := .run } } := by
  rw [State.advance, modHart_me h, me_modMe]

theorem links_advance {s : State} (h : s.onCore = false) : s.advance.me.links = s.me.links := by rw [me_advance h]

@[simp] theorem links_unlatch (s : State) (pc m w : Word) : (s.popsDone pc m w []).me.links = s.me.links := by
  rw [popsDone_nil, me_modMe]

@[simp] theorem cut_unlatch (s : State) (pc m w : Word) : (s.popsDone pc m w []).me.cut = s.me.cut := by
  rw [popsDone_nil, me_modMe]

/-- A chain instruction on registers, below the depth limit: the link it begins (R260, R261, R264). -/
theorem chainOp_regs {s : State} {o : VFmt} {a : Word} (h : LanesOn s o.gn o.gs a) (hl : s.me.links.length < 16)
    (hv : o.sa = true ∨ o.va.toNat < 24) (hd : o.vd.toNat < 24) (vb vc : Option (BitVec 5)) (hb : ∀ f, vb = some f → f.toNat < 24)
    (hc : ∀ f, vc = some f → f.toNat < 24) (f : Lane → Lane → Lane → LaneRes) :
    let t := s.chainOp o vb vc f
    MovedOn s t ∧ Linked s t o.vd.toNat a fun j =>
      f (vaOf s o j) (vb.elim 0 fun r => laneOf s r j) (vc.elim 0 fun r => laneOf s r j) := by
  have hs : srcPorts (vaSrc o ++ (vb.map fun f => (2, f)).toList ++ (vc.map fun f => (3, f)).toList) = [] := by
    refine srcPorts_regs fun e he => ?_
    rcases List.mem_append.1 he with he | he
    · rcases List.mem_append.1 he with he | he
      · exact vaSrc_regs hv e he
      · cases vb with
        | none => simp at he
        | some f => simp at he; subst he; exact hb f rfl
    · cases vc with
      | none => simp at he
      | some f => simp at he; subst he; exact hc f rfl
  unfold State.chainOp
  rw [masked_on h, if_neg (by omega)]
  simp only [hs, portOf_reg hd, pushDest, Option.map_none]
  obtain ⟨pops, e⟩ := withPorts_regs s (popMask o a) 0 _
  rw [e]
  have k := keeps_unlatch h.1 s.pc (popMask o a) 0
  have hu : (s.popsDone s.pc (popMask o a) 0 []).onCore = false := h.1
  have e1 : ∀ r : Option (BitVec 5), (∀ f, r = some f → f.toNat < 24) → ∀ pops j, j < 64 →
      vget (r.elim Lanes.zero (State.vsrc (s.popsDone s.pc (popMask o a) 0 []) pops)) j 0 = r.elim 0 fun r => laneOf s r j := by
    intro r hr pops j hj
    cases r with
    | none => simp [Lanes.zero, vget, hj]
    | some f => simp only [Option.elim]; rw [vsrc_reg _ _ (hr f rfl), laneOf_unlatch]
  have e2 : ∀ pops j, j < 64 → vget ((s.popsDone s.pc (popMask o a) 0 []).vaLanes o pops) j 0 = vaOf s o j := by
    intro pops j hj
    rw [vget_vaLanes _ _ _ hv hj, vaOf_unlatch h.1]
  have e3 : (s.popsDone s.pc (popMask o a) 0 []).me.links = s.me.links := links_unlatch _ _ _ _
  have e4 : (s.popsDone s.pc (popMask o a) 0 []).ir = s.ir := rfl
  clear e
  generalize s.popsDone s.pc (popMask o a) 0 [] = u at *
  simp only []
  refine ⟨movedOn_advance hu (keeps_link hu k _), _, ?_,
    (links_advance (s := u.link _) hu).trans ((links_link u rfl).trans (by rw [older, older, e3]))⟩
  refine ⟨e4, rfl, rfl, rfl, rfl, fun j hj => ?_⟩
  simp only [State.newLink]
  rw [vget_lanesFn _ _ hj, vget_lanesFn _ _ hj, vget_lanesFn _ _ hj, e1 vb hb _ j hj, e1 vc hc _ j hj, e2 _ j hj]
  exact ⟨rfl, rfl, by simp [popFl]⟩

/-- As wroteLanes_write, where no flag is added. -/
theorem wroteLanes_write0 {s : State} (h : s.onCore = false) (r : Nat) (hr : r < 24) (a pc m w : Word) (new : Lanes) :
    WroteLanes s (((s.popsDone pc m w []).modMe fun x => x.writeV r a new).advance) r a (fun j => vget new j 0) 0 := by
  have hu : (s.popsDone pc m w []).onCore = false := h
  have hc : ((s.popsDone pc m w []).modMe fun x => x.writeV r a new).onCore = false := h
  refine ⟨movedOn_advance hc (keeps_modMe _ hu (keeps_unlatch h pc m w) ⟨_, _, _, _, _, rfl⟩), ?_, ?_, ?_, ?_⟩
  · rw [me_advance hc, me_modMe, popsDone_nil, me_modMe]; rfl
  · rw [hart_me (by rw [State.advance, onCore_modHart]; exact hc), me_advance hc, me_modMe, popsDone_nil, me_modMe, hart_me h]
    simp [Context.writeV]
  · intro j hj
    rw [me_advance hc, me_modMe, popsDone_nil, me_modMe]
    simp [Context.writeV, vput, hr, hj, vget_lt _ _ _ hr]
  · intro k hk
    rw [me_advance hc, me_modMe, popsDone_nil, me_modMe]
    simp [Context.writeV, vget_vput_ne _ _ _ (Ne.symm hk)]

/-- A reduction of register va: f has its lanes that are live in the active ones, the others at the identity. -/
theorem reduce_regs {s : State} {o : VFmt} {a : Word} (h : LanesOn s o.gn o.gs a) (hv : o.va.toNat < 24) (hd : o.vd.toNat < 24)
    (hr : s.regWait [o.va] a = none) (ident : Lane) (f : State → List Lane → List Lane × Fl) (l : List Lane) (fl : Fl)
    (hf : f (s.popsDone s.pc (popMask o a) a []) ((List.range 64).map fun j =>
      if a.getLsbD j && !(vget s.me.cut o.va.toNat 0).getLsbD j then laneOf s o.va j else ident) = (l, fl)) :
    WroteLanes s (s.reduce o ident f) o.vd.toNat a (fun j => l.getD j 0) fl := by
  have e : ∀ pops, ((List.range 64).map fun i => if (a &&& ~~~(State.vcut (s.popsDone s.pc (popMask o a) a []) o.va)).getLsbD i then
      vget (State.vsrc (s.popsDone s.pc (popMask o a) a []) pops o.va) i 0 else ident) = (List.range 64).map fun j =>
      if a.getLsbD j && !(vget s.me.cut o.va.toNat 0).getLsbD j then laneOf s o.va j else ident := by
    intro pops
    refine List.map_congr_left fun i hi => ?_
    have hi : i < 64 := List.mem_range.1 hi
    rw [vsrc_reg _ _ hv, laneOf_unlatch, State.vcut, if_pos hv, cut_unlatch]
    simp [hi]
  refine vecPut_wrote (srcs := [(1, o.va)]) (need := id) h hd (by simpa using hv) hr rfl _ _ _ fun pops => ?_
  simp only [e pops, hf]
  exact ⟨fun j hj => by rw [vget_lanesFn _ _ hj, Array.getD_eq_getD_getElem?, List.getElem?_toArray, List.getD_eq_getElem?_getD], trivial⟩

/-! Masks. -/

/-- Mask register n written in the lanes of a mask. -/
theorem putMask_mask (x : Context) {n : Nat} (hn : n < 8) (a v : Word) (k : Nat) :
    (x.putMask n a v).mask k = if k = n ∧ n ≠ 0 then (x.mask n &&& ~~~a) ||| (v &&& a) else x.mask k := by
  unfold Context.putMask
  by_cases h0 : n = 0
  · simp [h0]
  · rw [if_neg h0]
    unfold Context.setMask
    rw [if_neg h0]
    by_cases hk : k = n
    · subst hk
      rw [if_pos ⟨rfl, h0⟩, Context.mask, if_neg h0, vget_vput_self _ _ _ _ hn]
    · rw [if_neg (fun e => hk e.1), Context.mask]
      by_cases k0 : k = 0
      · rw [if_pos k0, Context.mask, if_pos k0]
      · simp only [k0, if_false, Context.mask]
        exact vget_vput_ne _ _ _ (Ne.symm hk)

/-- A mask instruction: md in the active lanes, m0 discarded (R369). -/
theorem maskOp_regs {s : State} {o : VFmt} {a : Word} (h : LanesOn s o.gn o.gs a) (hd : o.vd.toNat < 8) {srcs : List Nat}
    (hm : s.maskWait srcs = none) (f : State → Word) (v : Word) (hf : f (s.popsDone s.pc (popMask o a) a []) = v) :
    let t := s.maskOp o srcs f
    MovedOn s t ∧ (∀ k, t.me.mask k = if k = o.vd.toNat ∧ o.vd.toNat ≠ 0 then (s.me.mask o.vd.toNat &&& ~~~a) ||| (v &&& a) else s.me.mask k)
      ∧ t.me.v = s.me.v ∧ t.hart.fflags = s.hart.fflags := by
  intro t
  obtain ⟨pops, e⟩ := vecOp_regs h (srcs := []) (need := id) (by simp) rfl hm fun _ a s =>
    (s.modMe fun x => x.putMask o.vd.toNat a (f s)).advance
  have et : t = _ := e
  have hu : (s.popsDone s.pc (popMask o a) a []).onCore = false := h.1
  have hp : ∀ x : Context, (∃ c, (x.putMask o.vd.toNat a v).hart = { x.hart with cutcnt := c }) ∧ (x.putMask o.vd.toNat a v).v = x.v := by
    intro x; unfold Context.putMask Context.setMask
    split
    · exact ⟨⟨_, rfl⟩, rfl⟩
    · exact ⟨⟨_, rfl⟩, rfl⟩
  rw [et, hf]
  have hc : ((s.popsDone s.pc (popMask o a) a []).modMe fun x => x.putMask o.vd.toNat a v).onCore = false := h.1
  refine ⟨movedOn_advance hc (keeps_modMe _ hu (keeps_unlatch h.1 s.pc (popMask o a) a) ⟨_, _, _, _, _, (hp _).1.choose_spec⟩), ?_, ?_, ?_⟩
  · intro k
    rw [me_advance hc, me_modMe]
    show Context.mask (Context.putMask _ _ _ _) k = _
    rw [putMask_mask _ hd, mask_unlatch, mask_unlatch]
  · rw [me_advance hc, me_modMe]
    show (Context.putMask _ _ _ _).v = _
    rw [(hp _).2, popsDone_nil, me_modMe]
  · rw [hart_me (by rw [State.advance, onCore_modHart]; exact hc), me_advance hc, me_modMe]
    show (Context.putMask _ _ _ _).hart.fflags = _
    rw [(hp _).1.choose_spec, popsDone_nil, me_modMe, hart_me h.1]

end Sys2Proof.Laws
end

