-- ==== Sys2Proof/Tests/Slice0.lean ====
section
/-! SUPPORT. Tests: ill-formed terms that WellFormed refuses, words of the manual that decode to the instructions printed for them,
a witness for the hypotheses of each obligation, and small tests of single steps. -/

namespace Sys2Proof.Tests

set_option Elab.async false

open Sys2Proof.Machine Sys2Proof.Safety

/-! Fields. -/

/-- Fields of format S without scope and order. -/
def fS (d a b : BitVec 5) (imm : BitVec 32) : SFmt := { gn := false, gs := 0, d := d, a := a, b := b, scope := 0, ord := 0, imm := imm }
/-- Fields of format S with scope and order. -/
def fO (scope : BitVec 3) (ord : BitVec 2) (d a b : BitVec 5) (imm : BitVec 32) : SFmt :=
  { gn := false, gs := 0, d := d, a := a, b := b, scope := scope, ord := ord, imm := imm }
/-- Fields of format B. -/
def fB (a b : BitVec 5) (aux : BitVec 8) (hint : BitVec 2) (off : BitVec 32) : BFmt :=
  { gn := false, gs := 0, a := a, b := b, aux := aux, hint := hint, off := off }
/-- Fields of format V, all zero but the registers. -/
def fV (vd va vb vc : BitVec 5) : VFmt :=
  { gn := false, gs := 0, vd := vd, va := va, vb := vb, vc := vc, typ := 0, prec := 0, rnd := 0, sat := false, pm := false, mkf := 0,
    sa := false, aux := 0, imm := 0 }
/-- Fields of format M, all zero but the operands. -/
def fM (acc : BitVec 2) (sa sb : BitVec 5) : MFmt :=
  { gn := false, gs := 0, acc := acc, sa := sa, sb := sb, qa := false, qb := false, dirA := false, dirB := false, fmtA := 0, fmtB := 0,
    sp := 0, kc := 0, rows := 0, low := 0 }
/-- Fields of format C. -/
def fC (d a b c : BitVec 5) (imm : BitVec 32) : CFmt := { gn := false, gs := 0, d := d, a := a, b := b, c := c, imm := imm }

/-! Ill-formed instructions, one for each kind of check. -/

/-- R294: GN = 1 without a guard register. -/
theorem smoke_guard : (Instr.add { fS 1 2 3 0 with gn := true }).wf = false := by decide
/-- R301: a reserved register field of format S. -/
theorem smoke_reserved_d : (Instr.fence (fS 1 0 0 0)).wf = false := by decide
theorem smoke_reserved_a : (Instr.movi (fS 1 1 0 0)).wf = false := by decide
theorem smoke_reserved_b : (Instr.addi (fS 1 1 1 0)).wf = false := by decide
/-- R301: scope and order where the instruction has none, and a scope above 3. -/
theorem smoke_scope : (Instr.add (fO 1 0 1 2 3 0)).wf = false := by decide
theorem smoke_order : (Instr.add (fO 0 1 1 2 3 0)).wf = false := by decide
theorem smoke_scope_range : (Instr.aadd (fO 4 0 1 2 3 0)).wf = false := by decide
/-- R313, R315: reserved bits of imm32. -/
theorem smoke_imm : (Instr.add (fS 1 2 3 1)).wf = false := by decide
theorem smoke_shift_imm : (Instr.shli (fS 1 2 0 64)).wf = false := by decide
/-- R318: a bit field beyond bit 63. -/
theorem smoke_field : (Instr.extu (fS 1 2 0 0x3F01)).wf = false := by decide
/-- R336: an odd register pair; R341: an expected value in g31. -/
theorem smoke_pair : (Instr.ldq (fS 1 2 0 0)).wf = false := by decide
theorem smoke_acas : (Instr.acas (fS 31 2 0 0)).wf = false := by decide
/-- R344, R345, R346, R347: reserved bits of the fences, masks, signal numbers. -/
theorem smoke_fence : (Instr.fence (fS 0 0 0 4)).wf = false := by decide
theorem smoke_sbar : (Instr.sbar (fS 0 0 0 0x10000)).wf = false := by decide
theorem smoke_sgpost : (Instr.sgpost (fS 0 0 0 8)).wf = false := by decide
theorem smoke_sgwait : (Instr.sgwait (fS 0 0 0 0x10)).wf = false := by decide
/-- R297: hint 3, and a hint where there is none; R301: aux8 and off of format B. -/
theorem smoke_hint : (Instr.beq (fB 1 2 0 3 0)).wf = false := by decide
theorem smoke_no_hint : (Instr.br (fB 0 0 0 1 0)).wf = false := by decide
theorem smoke_aux : (Instr.beq (fB 1 2 1 0 0)).wf = false := by decide
theorem smoke_off : (Instr.ret (fB 0 0 0 0 1)).wf = false := by decide
/-- R324: LOOP on g0; R325, R329: p0 named, a value outside the mask, a wrong mode. -/
theorem smoke_loop : (Instr.loop (fB 0 0 0 0 1)).wf = false := by decide
theorem smoke_pset : (Instr.pset (fB 0 0 1 0 0)).wf = false := by decide
theorem smoke_pset_mode : (Instr.psetR (fB 1 0 2 0 2)).wf = false := by decide
theorem smoke_waitp : (Instr.waitp (fB 0 0 2 0 0x400)).wf = false := by decide
/-- R302: a field that must name a register names a port; a mask above m7. -/
theorem smoke_vector_field : (Instr.vcut (fV 24 0 0 0)).wf = false := by decide
theorem smoke_mask_field : (Instr.mand (fV 8 0 0 0)).wf = false := by decide
theorem smoke_unused_field : (Instr.vneg (fV 1 2 3 0)).wf = false := by decide
/-- R351: a type, a rounding, a budget, sat, mk, sa, aux and imm13 that the instruction does not take. -/
theorem smoke_typ : (Instr.vadd { fV 1 2 3 0 with typ := 8 }).wf = false := by decide
theorem smoke_rnd : (Instr.vand { fV 1 2 3 0 with rnd := 1 }).wf = false := by decide
theorem smoke_prec : (Instr.vand { fV 1 2 3 0 with prec := 1 }).wf = false := by decide
theorem smoke_sat : (Instr.vimin { fV 1 2 3 0 with typ := 8, sat := true }).wf = false := by decide
theorem smoke_mk : (Instr.vand { fV 1 2 3 0 with mkf := 1 }).wf = false := by decide
theorem smoke_sa : (Instr.vbcast { fV 1 2 0 0 with sa := true }).wf = false := by decide
theorem smoke_vaux : (Instr.vmul { fV 1 2 3 0 with aux := 1 }).wf = false := by decide
theorem smoke_vimm : (Instr.vand { fV 1 2 3 0 with imm := 1 }).wf = false := by decide
/-- R352: pm without a port. -/
theorem smoke_pm : (Instr.vadd { fV 1 2 3 0 with pm := true }).wf = false := by decide
/-- R354: .x into v23, and .x with a budget. -/
theorem smoke_x_pair : (Instr.vadd { fV 23 2 3 0 with aux := 1 }).wf = false := by decide
theorem smoke_x_prec : (Instr.vadd { fV 1 2 3 0 with aux := 1, prec := 1 }).wf = false := by decide
/-- R355: an integer comparison above 5; R356: va = vb; R359: a destination type; R368: no lanes; R369: more than 64; R373: g31. -/
theorem smoke_vcmp : (Instr.vcmp { fV 1 2 3 0 with typ := 8, imm := 6 }).wf = false := by decide
theorem smoke_vcmpt : (Instr.vcmpt (fV 1 2 2 3)).wf = false := by decide
theorem smoke_vcvt : (Instr.vcvt { fV 1 2 0 0 with imm := 5 }).wf = false := by decide
theorem smoke_vtopk : (Instr.vtopk (fV 1 2 0 0)).wf = false := by decide
theorem smoke_vtopk_pair : (Instr.vtopk { fV 23 2 0 0 with imm := 1 }).wf = false := by decide
theorem smoke_mset : (Instr.mset { fV 1 0 0 0 with imm := 65 }).wf = false := by decide
theorem smoke_vrng : (Instr.vrng (fV 1 31 0 0)).wf = false := by decide
/-- R299, R377, R380: the cases of the matrix formats. -/
theorem smoke_low : (Instr.mlda { fM 0 1 0 with rows := 1, low := 1 }).wf = false := by decide
theorem smoke_rows : (Instr.mlda { fM 0 1 0 with rows := 65 }).wf = false := by decide
theorem smoke_kc : (Instr.mma { fM 0 1 2 with rows := 1, fmtA := 1, fmtB := 1 }).wf = false := by decide
theorem smoke_formats : (Instr.mma { fM 0 1 2 with rows := 1, kc := 1, fmtA := 1, fmtB := 3 }).wf = false := by decide
theorem smoke_stream : (Instr.mma { fM 0 1 2 with qa := true, rows := 1, kc := 1, fmtA := 1, fmtB := 1 }).wf = false := by decide
theorem smoke_sparse_port : (Instr.mma { fM 0 1 26 with qb := true, rows := 1, kc := 3, sp := 1, fmtA := 3, fmtB := 3 }).wf = false := by decide
theorem smoke_same_port :
    (Instr.mma { fM 0 26 26 with qa := true, qb := true, rows := 1, kc := 1, fmtA := 1, fmtB := 1 }).wf = false := by decide
theorem smoke_block_pair : (Instr.mma { fM 0 31 2 with rows := 1, kc := 1, fmtA := 6, fmtB := 6 }).wf = false := by decide
theorem smoke_mrd : (Instr.mrd (fM 0 24 2)).wf = false := by decide
theorem smoke_mrdq : (Instr.mrdq { fM 0 26 2 with rows := 1 }).wf = false := by decide
theorem smoke_mwait : (Instr.mwait (fM 0 8 0)).wf = false := by decide
/-- R301 of format C, and the excluded values of R395, R401, R402, R408, R411, R413, R417, R418, R422, R424, R425. -/
theorem smoke_c_reserved : (Instr.eret (fC 1 0 0 0 0)).wf = false := by decide
theorem smoke_qbind : (Instr.qbind (fC 0 0 0 0 0x8100)).wf = false := by decide
theorem smoke_qbindK : (Instr.qbindK (fC 0 1 0 0 0x0B100000)).wf = false := by decide
theorem smoke_cepg : (Instr.cepg (fC 1 2 3 0 5)).wf = false := by decide
theorem smoke_cestat : (Instr.cestat (fC 1 0 0 0 3)).wf = false := by decide
theorem smoke_port : (Instr.khdr (fC 1 0 0 0 0x50000)).wf = false := by decide
theorem smoke_split : (Instr.ksplit (fC 0 1 2 0 0x60001)).wf = false := by decide
theorem smoke_merge : (Instr.kmrg (fC 0 1 2 3 0x211)).wf = false := by decide
theorem smoke_merge_ports : (Instr.kmrg (fC 0 0 0 3 0x30101)).wf = false := by decide
theorem smoke_shcpy : (Instr.shcpy (fC 1 2 3 4 0)).wf = false := by decide
theorem smoke_kvapp : (Instr.kvapp (fC 1 2 3 4 17)).wf = false := by decide
theorem smoke_spacc : (Instr.spacc (fC 1 24 2 3 4)).wf = false := by decide
theorem smoke_trpub : (Instr.trpub (fC 1 2 3 0 65)).wf = false := by decide
theorem smoke_launch : (Instr.launch (fC 1 2 0 0 0x500)).wf = false := by decide
/-- The index ranges of events: a depot tile where a compute tile is meant, a die 4, a QP 4096. -/
theorem smoke_event_tile : (Arg.tileRef { die := 0, tile := 1 }).wf = false := by decide
theorem smoke_event_die : (Arg.dieRef { die := 4 }).wf = false := by decide
theorem smoke_event_qp : (Arg.hostRd { qp := 4096, ce := false, rkey := 0, va := 0, len := 0 }).wf = false := by decide

/-! Words. An unassigned opcode and a malformed word are rejected by name (R303, R305). -/

theorem decode_unassigned : decodeWord 0x2C00_0000_0000_0000 = .error .unassigned := by rfl
theorem decode_malformed : decodeWord 0x0100_0000_0000_0001 = .error .malformed := by rfl

/-! Words that chapters 13-18 print, with the fields of the line they are printed for. -/
theorem decode_shri : decodeWord 0x1604_0400_0000_0007 = .ok (.shri (fS 8 1 0 7)) := by rfl
theorem decode_beq : decodeWord 0x3101_0000_0000_0003 = .ok (.beq (fB 2 0 0 0 3)) := by rfl
theorem decode_loop : decodeWord 0x3B05_0001_FFFF_FFFF = .ok (.loop (fB 10 0 0 1 0xFFFFFFFF)) := by rfl
theorem decode_ret : decodeWord 0x3D00_0000_0000_0000 = .ok (.ret (fB 0 0 0 0 0)) := by rfl
theorem decode_br : decodeWord 0x3000_0000_FFFF_FFFB = .ok (.br (fB 0 0 0 0 0xFFFFFFFB)) := by rfl
theorem decode_yield : decodeWord 0x3E00_0040_0000_0000 = .ok (.yield (fB 0 0 16 0 0)) := by rfl
theorem decode_ldd : decodeWord 0x4603_10A0_0000_0010 = .ok (.ldd (fS 6 4 5 16)) := by rfl
theorem decode_strel_p : decodeWord 0x5B04_B00C_0000_0008 = .ok (.strel (fO 3 0 9 12 0 8)) := by rfl
theorem decode_strel_m : decodeWord 0x5B00_2808_0000_0000 = .ok (.strel (fO 2 0 0 10 0 0)) := by rfl
theorem decode_fence : decodeWord 0x5C00_0004_0000_0002 = .ok (.fence (fO 1 0 0 0 0 2)) := by rfl
theorem decode_sgwait : decodeWord 0x5F00_0000_0000_0402 = .ok (.sgwait (fS 0 0 0 0x402)) := by rfl
theorem decode_acas : decodeWord 0x5902_2809_0000_0000 = .ok (.acas (fO 2 1 4 10 0 0)) := by rfl
theorem decode_vadd_x : decodeWord 0x6003_0B20_0000_2000 = .ok (.vadd { fV 6 2 25 0 with aux := 1 }) := by rfl
theorem decode_vcmpt : decodeWord 0x7201_8487_0000_4005 = .ok (.vcmpt { fV 3 1 4 7 with aux := 2, imm := 5 }) := by rfl
theorem decode_vcvt : decodeWord 0x7502_9000_0020_0003 = .ok (.vcvt { fV 5 4 0 0 with sat := true, imm := 3 }) := by rfl
theorem decode_vqnt : decodeWord 0x7605_24A0_5000_0000 = .ok (.vqnt { fV 10 9 5 0 with typ := 5 }) := by rfl
theorem decode_vrsum : decodeWord 0x8B11_9000_0000_0000 = .ok (.vrsum { fV 3 4 0 0 with gs := 1 }) := by rfl
theorem decode_vld : decodeWord 0x9702_9000_1000_0040 = .ok (.vld { fV 5 4 0 0 with typ := 1, imm := 64 }) := by rfl
theorem decode_vrng : decodeWord 0x9D04_0920_0000_0001 = .ok (.vrng { fV 8 2 9 0 with imm := 1 }) := by rfl
theorem decode_mmas : decodeWord 0xA203_F9D1_1021_0000 = .ok (.mmas { fM 0 31 25 with qa := true, qb := true, dirB := true, fmtA := 1, fmtB := 1, kc := 4, rows := 16 }) := by rfl
theorem decode_mrd : decodeWord 0xA300_0520_0000_0000 = .ok (.mrd { fM 0 0 5 with dirA := true }) := by rfl
theorem decode_mwait : decodeWord 0xA700_6000_0000_0000 = .ok (.mwait (fM 0 3 0)) := by rfl
theorem decode_apcfg_r : decodeWord 0xB000_10A0_0000_0012 = .ok (.apcfgR (fC 0 4 5 0 0x12)) := by rfl
theorem decode_apcfg_pre : decodeWord 0xB000_0000_0000_0327 = .ok (.apcfgPre (fC 0 0 0 0 0x327)) := by rfl
theorem decode_apseek : decodeWord 0xB500_2400_0000_0002 = .ok (.apseek (fC 0 9 0 0 2)) := by rfl
theorem decode_qbind : decodeWord 0xB600_0000_0001_0002 = .ok (.qbind (fC 0 0 0 0 0x10002)) := by rfl
theorem decode_qbind_k : decodeWord 0xB600_1800_0017_0000 = .ok (.qbindK (fC 0 6 0 0 0x170000)) := by rfl
theorem decode_cestat : decodeWord 0xBC04_8000_0100_0005 = .ok (.cestat (fC 9 0 0 0 0x1000005)) := by rfl
theorem decode_ceabt : decodeWord 0xBD00_0000_0200_0000 = .ok (.ceabt (fC 0 0 0 0 0x2000000)) := by rfl
theorem decode_knew : decodeWord 0xC000_10A0_0000_0000 = .ok (.knew (fC 0 4 5 0 0)) := by rfl
theorem decode_knew_c : decodeWord 0xC000_0000_0000_0001 = .ok (.knewC (fC 0 0 0 0 1)) := by rfl
theorem decode_ksend : decodeWord 0xC100_0000_0000_0000 = .ok (.ksend (fC 0 0 0 0 0)) := by rfl
theorem decode_kfwd : decodeWord 0xC200_0000_0007_0001 = .ok (.kfwd (fC 0 0 0 0 0x70001)) := by rfl
theorem decode_ksplit : decodeWord 0xC700_2120_0006_0004 = .ok (.ksplit (fC 0 8 9 0 0x60004)) := by rfl
theorem decode_spacc : decodeWord 0xD403_8443_0000_0004 = .ok (.spacc (fC 7 1 2 3 4)) := by rfl
theorem decode_trpub : decodeWord 0xD604_A8A0_0000_0003 = .ok (.trpub (fC 9 10 5 0 3)) := by rfl
theorem decode_bar : decodeWord 0xE800_0000_001F_0002 = .ok (.bar (fC 0 0 0 0 0x1F0002)) := by rfl
theorem decode_trap : decodeWord 0xE000_0000_0000_002A = .ok (.trap (fC 0 0 0 0 42)) := by rfl

/-- R305, the fixed name of the host: a word's bits as the opcode table numbers them. -/
theorem decode_table_word : decodeTableWord 64 0x4603_10A0_0000_0010 = some (.ldd (fS 6 4 5 16)) := by decide

/-! States for the witnesses and tests. -/

/-- A context that runs. -/
def tCtx : Context := { Context.init with live := true }
/-- A module whose die 0 has one armed region of tile 0, with the given supervisor level, and whose context 0 executes. -/
def tBase (sup : Bool) : State :=
  { State.reset with
    slots := [(0, { Slot.init with state := .armed, boot := sup })]
    tiles := [(0, { Tile.init with ctxs := [(0, tCtx)] })]
    cur := .ctx 0 0 0 }
/-- Context 0 of a region at supervisor level. -/
def tState : State := tBase true
/-- Context 0 of a region at application level. -/
def tApp : State := tBase false
/-- Core 0 runs. -/
def tCore : State := { State.reset with cores := [(0, { Core.init with running := true })] }
/-- The next state of an instruction, the same state where it has none. -/
def run (i : Instr) (s : State) : State := match exec i s with | .next t => t | .fault _ => s | .refused _ => s
/-- A link in flight of a VADD to v1. -/
def tLink : Link :=
  { word := 0x6000_8000_0000_0000, dst := 1, two := false, nbv := 2, rnd := 0, active := 1, opn := 1, opn2 := 0, vals := .zero,
    vals2 := .zero, fl := .zero, cuts := 0, push := none }
/-- The context with n links in flight. -/
def tLinks (n : Nat) : State := tState.modMe fun c => { c with links := List.replicate n tLink }
/-- The address of an offset in the executing tile's own scratch (path 0x2). -/
def own : Word := 0x2000_0000_0FF0_0000
/-- g1 holds an address. -/
def at1 (s : State) (v : Word) : State := s.setG 1 v
/-- All lanes. -/
def all64 : Word := BitVec.allOnes 64

/-- A context with a link that is still to push to q6 (R257). -/
def tPushing : State := tState.modMe fun c => { c with links := [{ tLink with
  push := some { kb := true, ape := 0, cfg := Vector.ofFn fun _ => 0, typ := 0, pos := 0, pm := false, gone := false, skip := 0 } }] }

theorem t_agent : AgentOk tState.cur := by show (0 : Nat) < 256; decide
theorem t_guard : GuardOn tState false 0 := by unfold GuardOn; decide
theorem t_lanes : LanesOn tState false 0 all64 := by unfold LanesOn; decide

/-! Witnesses: states and operands that meet the hypotheses of an obligation, for each clause. -/

theorem witness_GeneralRegisterWrite : AgentOk tState.cur ∧ AgentOk tCore.cur ∧ (31 : BitVec 5) ≠ 0
    ∧ AgentOk (.ctx 3 255 7) ∧ Agent.ctx 3 255 7 ≠ tState.cur :=
  ⟨t_agent, trivial, by decide, by show (255 : Nat) < 256; decide, by decide⟩

/-- The guard holds in a context, under a negated predicate, and on a core. -/
theorem witness_ScalarRegisterResults :
    GuardOn tState (fS 31 1 2 0).gn (fS 31 1 2 0).gs ∧ GuardOn tState true 7 ∧ GuardOn tCore false 0 := by
  unfold GuardOn; decide
theorem witness_ScalarImmediateAndUnaryResults :
    GuardOn tState (fS 1 2 0 0x3F3F).gn (fS 1 2 0 0x3F3F).gs ∧ GuardOn tApp false 0 := by
  unfold GuardOn; decide
theorem witness_ScalarFrame : AgentOk tState.cur ∧ (tState.onCore = true → (fS 3 1 2 0).gs = 0)
    ∧ exec (.add (fS 3 1 2 0)) tState = .next (run (.add (fS 3 1 2 0)) tState)
    ∧ (tCore.onCore = true → (fS 3 1 2 0).gs = 0)
    ∧ exec (.div (fS 0 1 0 0)) tCore = .next (run (.div (fS 0 1 0 0)) tCore) :=
  ⟨t_agent, by decide, rfl, by decide, rfl⟩
/-- An aligned and a misaligned target of JALR. -/
theorem witness_BranchAndCallResults : GuardOn tState (fB 1 2 0 0 8).gn (fB 1 2 0 0 8).gs
    ∧ (tState.getG 2 + BitVec.ofInt 64 (8 * (fB 1 2 0 0 8).off.toInt)).toNat % 8 = 0
    ∧ ((tState.setG 2 7).getG 2 + BitVec.ofInt 64 (8 * (fB 1 2 0 0 8).off.toInt)).toNat % 8 ≠ 0 := by
  unfold GuardOn; decide
/-- Mask 1 free, and mask 1 written by a link. -/
theorem witness_PredicateResults : CtxOn tState false 0 ∧ tState.me.maskLink 1 = none
    ∧ CtxOn (tState.modMe fun c => { c with links := [{ tLink with word := 0x7100_8000_0000_0000 }] }) false 0
    ∧ (tState.modMe fun c => { c with links := [{ tLink with word := 0x7100_8000_0000_0000 }] }).me.maskLink 1 = some 0 := by
  unfold CtxOn; decide
theorem witness_InvocationEndAndWaits : CtxOn tState false 0 ∧ AgentOk tState.cur ∧ tState.me.links = []
    ∧ (∀ w, ((tState.box tState.die).walker w).st = .idle) ∧ tState.regionAt tState.die tState.tix = some 0
    ∧ CtxOn (tLinks 1) false 0 ∧ (tLinks 1).me.links ≠ []
    ∧ tState.myTile.pred &&& 1 = (0x100 : BitVec 32).extractLsb' 8 8 &&& 1
    ∧ tState.myTile.pred &&& 1 ≠ (0 : BitVec 32).extractLsb' 8 8 &&& 1 :=
  ⟨by unfold CtxOn; decide, t_agent, by decide, fun _ => rfl, by decide, by unfold CtxOn; decide, by decide, by decide, by decide⟩
theorem witness_BranchFrame : AgentOk tState.cur ∧ tState.onCore = false
    ∧ exec (.beq (fB 1 2 0 0 8)) tState = .next (run (.beq (fB 1 2 0 0 8)) tState)
    ∧ exec (.jal (fB 1 0 0 0 8)) tState = .next (run (.jal (fB 1 0 0 0 8)) tState)
    ∧ exec (.bpt (fB 0 0 7 0 8)) tState = .next (run (.bpt (fB 0 0 7 0 8)) tState) :=
  ⟨t_agent, rfl, rfl, rfl, rfl⟩
theorem witness_FalseGuardPassesOver : GuardOff tState false 1 ∧ GuardOff tState false 7
    ∧ tState.onCore = false ∧ tState.me.maskLink 1 = none ∧ tState.activeLanes false 1 = 0 ∧ tState.hart.cause.active = false
    ∧ (tState.modHart fun h => { h with cause := { h.cause with active := true } }).hart.cause.active = true
      ∧ (at1 tApp 0x4000_0000_0000_0000).isSup = false ∧ ((at1 tApp 0x4000_0000_0000_0000).getG 1).toNat / 2 ^ 60 = 4
      ∧ (at1 tApp 0x4000_0000_0000_0000).onCore = false ∧ (tApp.getG 1).toNat / 2 ^ 60 ≠ 4
      ∧ tState.isSup = true ∧ (fC 1 1 0 0 0x400).f 11 0 = 0x400 ∧ knownCsr 0x400 = true ∧ tileCsr 0x400 = true ∧ knownCsr 0xC44 = true
      ∧ tileCsr 0xC44 = false ∧ knownCsr 3 = true ∧ knownCsr 0xFFF = false := by
  unfold GuardOff; decide

/-- A page table at physical address 0, its own table at each level: it translates the n pages from 0x10 on to themselves, with every right
and type 1 (R117, R118). -/
def tPages (n : Nat) : Memory :=
  Memory.put (Memory.put [] 0 [1]) 0x80 (wordsLe ((List.range n).map fun i => BitVec.ofNat 64 (0x100BF + 4096 * i)))
/-- Page tables at physical addresses 0, 0x1000 and 0x2000: the first GiB translates to itself, with every right and type 1 (R118). -/
def tWide : Memory := [(0, 1), (1, 0x10), (0x1000, 1), (0x1001, 0x20), (0x2000, 0xBF)]
/-- A module whose region and supervisor translate the pages 0x10 to 0x13 to themselves, all rights, with words at 0x10000. -/
def tVa (ws : List Word) : State :=
  let s := tApp.modSlot 0 0 fun r => { r with ptbr := 1 }
  { s with
    sys := { s.sys with svptbr := 1 }
    mem := Memory.put (tPages 4) 0x10000 (wordsLe ws) }
/-- A context whose page 0x10 has a memory type and whose g1 holds its address: a store of it to byte 0x10040 through path 0x3 may still
be missed through path 0x0. -/
def tOwn (mt : Nat) : State :=
  at1 ({ tVa [] with mem := Memory.put (Memory.put [] 0 [1]) 0x80 (wordsLe [BitVec.ofNat 64 (0x1003F + 128 * mt)]) }.modMe fun x =>
    { x with late := [{ ea := 0x3000_0000_0001_0040, key := 0x10040, old := 7, til := 2560, far := false, st := 0 }] }) 0x10000

/-- Each width at an address of the last place of its alignment: own scratch, no poison. -/
theorem witness_LoadResults :
    let s := at1 tApp own
    let p : Phys := { key := 2 ^ 41, mt := 3 }
    GuardOn s false 0 ∧ (s.touch s.req (s.ea (fS 2 1 0 0)).toNat .read p).poisonFor s.req p = false
      ∧ InMem s (s.ea (fS 2 1 0 0x7FFFF)).toNat 1 1 .read { p with key := 2 ^ 41 + 0x7FFFF }
      ∧ InMem s (s.ea (fS 2 1 0 0x7FFFE)).toNat 2 2 .read { p with key := 2 ^ 41 + 0x7FFFE }
      ∧ InMem s (s.ea (fS 2 1 0 0x7FFFC)).toNat 4 4 .read { p with key := 2 ^ 41 + 0x7FFFC }
      ∧ InMem s (s.ea (fS 2 1 0 0x7FFF8)).toNat 8 8 .read { p with key := 2 ^ 41 + 0x7FFF8 }
      ∧ InMem s (s.ea (fS 2 1 0 0x7FFF0)).toNat 16 16 .read { p with key := 2 ^ 41 + 0x7FFF0 }
      ∧ (s.ea (fS 2 1 0 0)).toNat / 2 ^ 60 ≠ 4 ∧ s.stuck = [] ∧ s.sys.power.stopped = false := by
  unfold GuardOn InMem Aligned; decide
/-- The address and the place of an access of tOwn, in a page of type k. -/
def tEa (k x : Nat) : Nat := ((tOwn k).ea (fS 2 1 0 (BitVec.ofNat 32 x))).toNat
def tAt8 (k x : Nat) : Phys := { key := 0x10000 + x, mt := k }
/-- A load of bytes that an own store stands in through another address, in pages of each type; one beside it, that misses nothing. -/
theorem witness_LoadResults_alias : GuardOn (tOwn 0) false 0 ∧ ∀ k, k < 3 →
    InMem (tOwn k) (tEa k 0x40) 8 8 .read (tAt8 k 0x40)
      ∧ ((tOwn k).touch (tOwn k).req (tEa k 0x40) .read (tAt8 k 0x40)).mayMiss (tEa k 0x40) (tAt8 k 0x40) 8 = true
      ∧ ((tOwn k).touch (tOwn k).req (tEa k 0x48) .read (tAt8 k 0x48)).mayMiss (tEa k 0x48) (tAt8 k 0x48) 8 = false := by
  unfold GuardOn InMem Aligned; decide +kernel
/-- A store of such bytes, which may pass the own store, and one beside it; the cached types lie below 2^40. -/
theorem witness_StoreResults_alias : (tAt8 0 0x40).key < 2 ^ 40 ∧ ∀ k, k < 3 →
    InMem (tOwn k) (tEa k 0x40) 8 8 .write (tAt8 k 0x40) ∧ InMem (tOwn k) (tEa k 0x48) 8 8 .write (tAt8 k 0x48)
      ∧ (let u := (tOwn k).touch (tOwn k).req (tEa k 0x40) .write (tAt8 k 0x40)
         u.mayPass (tEa k 0x40) (tAt8 k 0x40) 8 = true
           ∧ u.me.late.any (fun e => e.key == 0x10040 && u.isPassed (tEa k 0x40) (tAt8 k 0x40) 8 e) = true
           ∧ u.me.late.any (fun e => e.key == 0x10041) = false ∧ u.mayPass (tEa k 0x48) (tAt8 k 0x48) 8 = false) := by
  unfold InMem Aligned; decide +kernel
/-- An atomic on such bytes that may pass, of kind relaxed, and a release. -/
theorem witness_AtomicResults_alias : releases (fO 0 0 2 1 0 0x40) = false ∧ releases (fO 0 2 2 1 0 0x40) = true ∧ ∀ k, k < 3 →
    InMem (tOwn k) (tEa k 0x40) 8 8 .rmw (tAt8 k 0x40)
      ∧ (let u := (tOwn k).touch (tOwn k).req (tEa k 0x40) .rmw (tAt8 k 0x40)
         u.atomicPasses (tEa k 0x40) (tAt8 k 0x40) = true ∧ u.poisonFor u.req (tAt8 k 0x40) = false) := by
  unfold InMem Aligned; decide +kernel
theorem witness_StoreResults :
    let s := at1 tApp own
    let p : Phys := { key := 2 ^ 41, mt := 3 }
    GuardOn s false 0 ∧ AgentOk s.cur ∧ (p.mt = 1 ∨ p.mt = 3)
      ∧ InMem s (s.ea (fS 2 1 0 0x7FFFF)).toNat 1 1 .write { p with key := 2 ^ 41 + 0x7FFFF }
      ∧ InMem s (s.ea (fS 2 1 0 0x7FFFE)).toNat 2 2 .write { p with key := 2 ^ 41 + 0x7FFFE }
      ∧ InMem s (s.ea (fS 2 1 0 0x7FFFC)).toNat 4 4 .write { p with key := 2 ^ 41 + 0x7FFFC }
      ∧ InMem s (s.ea (fS 2 1 0 0x7FFF8)).toNat 8 8 .write { p with key := 2 ^ 41 + 0x7FFF8 }
      ∧ InMem s (s.ea (fS 2 1 0 0x7FFF0)).toNat 16 16 .write { p with key := 2 ^ 41 + 0x7FFF0 } := by
  refine ⟨by unfold GuardOn; decide, t_agent, by decide, ?_⟩
  unfold InMem Aligned; decide
theorem witness_AtomicResults :
    let s := at1 tApp own
    let p : Phys := { key := 2 ^ 41 + 0x7FFF8, mt := 3 }
    let u := s.touch s.req (s.ea (fS 2 1 0 0x7FFF8)).toNat .rmw p
    GuardOn s false 0 ∧ InMem s (s.ea (fS 2 1 0 0x7FFF8)).toNat 8 8 .rmw p ∧ u.poisonFor u.req p = false := by
  unfold GuardOn InMem Aligned; decide

/-- A region on tile 2 that is ARMING. -/
def tArming : Slot := { Slot.init with state := .arming, hdr := vput Slot.init.hdr 0 0x2000 }
/-- A pod of two modules, this one 0. -/
def tPod : State := tState.modSys fun y => { y with podcfg := 0x000088B580020000 }

/-- Control space, misalignment, refusal, a fault on a core and in a context, a tile that waits for go, another module. -/
theorem witness_AccessChecksAndPoison_checks :
    (let s := at1 tApp 0x4000_0000_0000_0000
     GuardOn s false 0 ∧ (s.ea (fS 2 1 0 0)).toNat / 2 ^ 60 = 4 ∧ s.isSup = false)
      ∧ (let s := at1 tApp own; (s.ea (fS 2 1 0 7)).toNat / 2 ^ 60 ≠ 4 ∧ (s.ea (fS 2 1 0 7)).toNat % 8 ≠ 0)
      ∧ (let s := at1 tApp 0x1000_0000_0001_0000
         Aligned s (s.ea (fS 2 1 0 0)).toNat 8 ∧ s.check s.req (s.ea (fS 2 1 0 0)).toNat 8 .read = .refuse 2)
      ∧ (GuardOn tCore false 0 ∧ Aligned tCore (tCore.ea (fS 2 1 0 0)).toNat 8
         ∧ tCore.check tCore.req (tCore.ea (fS 2 1 0 0)).toNat 8 .read = .fault 4 1 ∧ tCore.onCore = true)
      ∧ (tApp.check tApp.req (tApp.ea (fS 2 1 0 0)).toNat 8 .read = .fault 4 1 ∧ tApp.onCore = false)
      ∧ (let s := at1 { tState with slots := tState.slots ++ [(1, tArming)] } 0x4000_0020_2000_0000
         Aligned s (s.ea (fS 2 1 0 0)).toNat 8 ∧ s.check s.req (s.ea (fS 2 1 0 0)).toNat 8 .read = .hold 0 1)
      ∧ (let s := at1 tState 0x4000_0020_0000_0000
         Aligned s (s.ea (fS 2 1 0 0)).toNat 4 ∧ (s.ea (fS 2 1 0 0)).toNat / 2 ^ 60 = 4
           ∧ s.check s.req (s.ea (fS 2 1 0 0)).toNat 4 .read = .ok { key := scratchKey 0 0 0, mt := 3 })
      ∧ (let s := at1 tPod 0x3001_0000_0000_0008
         s.check s.req (s.ea (fS 2 1 0 0)).toNat 8 .read = .remote 1 8
           ∧ ∀ e ∈ s.net.asked, e.u ≠ s.myUnit) := by
  unfold GuardOn Aligned; decide
theorem witness_AccessChecksAndPoison_poison :
    let s := at1 { tApp with poison := [2 ^ 35] } own
    let p : Phys := { key := 2 ^ 41 + 56, mt := 3 }
    let ea := (s.ea (fS 2 1 0 56)).toNat
    GuardOn s false 0 ∧ InMem s ea 1 1 .read p ∧ InMem s ea 2 2 .read p ∧ InMem s ea 4 4 .read p ∧ InMem s (s.ea (fS 2 1 0 48)).toNat 16 16 .read
        { p with key := 2 ^ 41 + 48 }
      ∧ InMem s ea 8 8 .read p ∧ (s.touch s.req ea .read p).poisonFor (s.touch s.req ea .read p).req p = true
      ∧ InMem s ea 8 8 .rmw p ∧ (s.touch s.req ea .rmw p).poisonFor (s.touch s.req ea .rmw p).req p = true := by
  unfold GuardOn InMem Aligned; decide
/-- A TILE register, a REG register, and reserved bytes of a depot. -/
theorem witness_ControlSpaceResults :
    let at_ := fun (v : Word) => at1 tState v
    let go := fun (v : Word) (c : Chk) => GuardOn (at_ v) false 0 ∧ Aligned (at_ v) ((at_ v).ea (fS 2 1 0 0)).toNat 8
      ∧ (at_ v).check (at_ v).req ((at_ v).ea (fS 2 1 0 0)).toNat 8 .read = c
      ∧ (at_ v).check (at_ v).req ((at_ v).ea (fS 2 1 0 0)).toNat 8 .write = c
    go 0x4000_0000_0000_2000 (.reg 0x400 0 0) ∧ go 0x4000_0000_0000_2078 (.reg 0x40F 0 0)
      ∧ go 0x4000_0010_0000_4000 (.reg 0x800 0 0) ∧ go 0x4000_00D0_F000_4068 (.reg 0x80D 3 15)
      ∧ go 0x1000_0000_0000_8100 .void ∧ go 0x1000_0000_0000_FFF8 .void := by
  unfold GuardOn Aligned; decide
/-- A count that has reached its target, at the edge, and one that has not. -/
theorem witness_CacheOrderSignalResults :
    let s := at1 tState own
    let p : Phys := { key := 2 ^ 41, mt := 3 }
    GuardOn s false 0 ∧ CtxOn s false 0 ∧ SupOn s false 0 ∧ InMem s (s.ea (fS 0 1 0 0)).toNat 1 1 .line p
      ∧ InMem s (s.ea (fS 0 1 0 0)).toNat 1 1 .write p
      ∧ ((vget tState.myTile.sigs 0 0).toNat + 2 ^ 32 - (0x8000_0001 : Lane).toNat) % 2 ^ 32 < 2 ^ 31
      ∧ 2 ^ 31 ≤ ((vget tState.myTile.sigs 0 0).toNat + 2 ^ 32 - (1 : Lane).toNat) % 2 ^ 32
      ∧ s.onCore = false ∧ s.me.pushesPort = false ∧ (tPushing.me.pushesPort = true ∧ tPushing.onCore = false) := by
  unfold GuardOn CtxOn SupOn GuardOn InMem Aligned; decide

/-! Vectors. -/

/-- Sixteen links, the depth limit, and one fewer. -/
theorem witness_ChainArithmeticResults : LanesOn (tLinks 15) false 0 all64 ∧ (tLinks 15).me.links.length < 16
    ∧ RegOps (fV 2 0 1 23) [1, 23, 2] := by
  unfold LanesOn RegOps; decide
theorem witness_ChainDepthAndSettle : tState.onCore = false ∧ tState.me.maskLink 1 = none ∧ tState.activeLanes false 1 = 0
    ∧ LanesOn (tLinks 16) false 0 all64 ∧ 16 ≤ (tLinks 16).me.links.length ∧ LanesOn tState false 0 all64 ∧ tState.me.links = []
    ∧ LanesOn (tLinks 1) false 0 all64 ∧ (tLinks 1).me.links ≠ [] := by
  unfold LanesOn; decide
theorem witness_CompareAndCutResults : LanesOn (tLinks 15) false 0 all64 ∧ (tLinks 15).me.links.length < 16
    ∧ RegOps (fV 1 0 23 2) [23] ∧ bits ({ tState with ir := 0x7200_0000_0000_0000 } : State).ir 63 56 = 0x72
    ∧ (fV 1 0 23 23).vc.toNat < 24 ∧ ({ fV 1 0 2 31 with aux := 2 } : VFmt).aux.getLsbD 1 = true
    ∧ (fV 23 0 0 0).vd.toNat < 24 ∧ tState.me.maskLink 0 = none := by
  unfold LanesOn RegOps; decide
/-- Register operands, and with aux bit 1 an immediate count; sat at both ends for both types. -/
theorem witness_LaneIntegerResults : LanesOn tState false 0 all64 ∧ RegOps (fV 23 0 1 0) [23]
    ∧ Settled tState (fV 23 0 1 0) [1] all64 ∧ tState.me.maskLink (fV 23 0 1 0).mkf.toNat = none
    ∧ (fV 23 0 1 0).aux.getLsbD 1 = false ∧ ({ fV 23 0 31 0 with aux := 2 } : VFmt).aux.getLsbD 1 = true
    ∧ Settled tState { fV 23 0 31 0 with aux := 2 } [] all64
    ∧ ({ fV 0 0 0 0 with sat := true, typ := 8 } : VFmt).sat = true ∧ ({ fV 0 0 0 0 with typ := 9 } : VFmt).typ = 9 := by
  unfold LanesOn RegOps Settled; decide
theorem witness_ConversionResults : LanesOn tState false 0 all64 ∧ (fV 23 0 1 0).vd.toNat < 24 ∧ RegOps (fV 23 0 1 0) []
    ∧ Settled tState (fV 23 0 1 0) [] all64 ∧ (fV 23 22 1 0).va.toNat < 24 ∧ tState.regWait [(fV 23 22 1 0).va] all64 = none := by
  unfold LanesOn RegOps Settled; decide
theorem witness_LaneMoveAndRandomResults : LanesOn tState false 0 all64 ∧ (fV 23 22 21 0).vd.toNat < 24 ∧ (fV 23 22 21 0).sa = false
    ∧ RegOps (fV 23 22 21 0) [] ∧ Settled tState (fV 23 22 21 0) [] all64 ∧ tState.regWait [22, 21] all64 = none
    ∧ tState.regWait [22] (1#64 <<< 63) = none ∧ (31 : BitVec 5) ≠ 0 := by
  unfold LanesOn RegOps Settled; decide
theorem witness_ReductionAndRankResults : LanesOn tState false 0 all64 ∧ (fV 22 23 0 0).va.toNat < 24 ∧ (fV 22 23 0 0).vd.toNat < 23
    ∧ tState.regWait [23] all64 = none ∧ ({ fV 22 23 0 0 with typ := 9 } : VFmt).typ = 9 ∧ (fV 22 23 0 0).typ = 0
    ∧ nanAs 0 0 = false ∧ nanAs 0 0x7FC0_0000 = true := by
  unfold LanesOn; decide
theorem witness_MaskResults : LanesOn tState false 0 all64 ∧ (fV 7 6 5 0).vd.toNat < 8 ∧ tState.me.maskLink 6 = none
    ∧ tState.me.maskLink 5 = none := by
  unfold LanesOn; decide
/-- Two active lanes whose elements lie in own scratch; a gather and a scatter with indices of 0. -/
theorem witness_VectorMemoryResults :
    let s := (at1 tApp own).modMe fun c => { c with m := vput c.m 1 0x8000_0000_0000_0001 }
    let a : Word := 0x8000_0000_0000_0001
    let o : VFmt := { fV 2 1 3 4 with gs := 1 }
    let p := fun j => ({ key := 2 ^ 41 + j * 4, mt := 3 } : Phys)
    let ea := fun (j : Nat) => (s.getG 1 + s.getG 3 + (0 : BitVec 32).signExtend 64 + BitVec.ofNat 64 (j * 4)).toNat
    let ok := fun j => Aligned s (ea j) 4 ∧ s.check s.req (ea j) 4 .read = .ok (p j) ∧ s.poisonFor s.req (p j) = false
      ∧ s.check s.req (ea j) 4 .write = .ok (p j) ∧ ((p j).mt = 1 ∨ (p j).mt = 3)
    LanesOn s o.gn o.gs a ∧ o.vd.toNat < 24 ∧ o.vb.toNat < 24 ∧ s.regWait [o.vd, o.vb] a = none ∧ s.regWait [o.vb] a = none
      ∧ bit s.sys.hotcfg 16 = false ∧ s.me.checked = [] ∧ s.mayMiss (ea 63) (p 63) 4 = false ∧ ok 0 ∧ ok 63 := by
  unfold LanesOn Aligned; decide
/-- A vector store of such lanes in cached pages, of two lanes that may pass an own store and of two that pass none. -/
theorem witness_VectorMemoryResults_cached :
    let s := fun (k : Nat) => (tOwn k).modMe fun c => { c with m := vput c.m 1 3 }
    let o : VFmt := { fV 2 1 31 4 with gs := 1 }
    let ea := fun (k x j : Nat) => (((s k).getG 1).toNat + x + 4 * j)
    let at_ := fun (k x j : Nat) => ({ key := 0x10000 + x + 4 * j, mt := k } : Phys)
    let ok := fun (k x : Nat) => (List.range 2).all fun j =>
      (s k).check (s k).req (ea k x j) 4 .write == .ok (at_ k x j) && (s k).mayPass (ea k x j) (at_ k x j) 4 == (x == 0x40 && j == 0)
    LanesOn (s 0) o.gn o.gs 3 ∧ bit (s 0).sys.hotcfg 16 = false ∧ (s 0).me.checked = [] ∧ (at_ 0 0x40 1).key < 2 ^ 40
      ∧ (ok 0 0x40 && ok 2 0x40 && ok 0 0x80 && ok 2 0x80) = true := by
  unfold LanesOn; decide +kernel
theorem witness_VectorFrame : AgentOk tState.cur ∧ tState.onCore = false
    ∧ exec (.vadd (fV 2 0 1 3)) tState = .next (run (.vadd (fV 2 0 1 3)) tState) ∧ RegOps (fV 2 0 1 3) [1, 3, 2]
    ∧ exec (.vcvt (fV 2 0 31 0)) tState = .next (run (.vcvt (fV 2 0 31 0)) tState) ∧ RegOps (fV 2 0 31 0) [2]
    ∧ exec (.vcmpt (fV 2 0 31 1)) tState = .next (run (.vcmpt (fV 2 0 31 1)) tState) ∧ RegOps (fV 2 0 31 1) []
    ∧ exec (.vsettle (fV 31 31 31 31)) tState = .next (run (.vsettle (fV 31 31 31 31)) tState) :=
  ⟨t_agent, rfl, rfl, by unfold RegOps; decide, rfl, by unfold RegOps; decide, rfl, by unfold RegOps; decide, rfl⟩

/-! Matrix, streams and ports. -/

/-- A tile of which the region holds the context, changed. -/
def tTile (f : Tile → Tile) : State := tState.modTile 0 0 f
/-- A matrix instruction of a kind on accumulator 3 and the first of its rows, with scratch addresses. -/
def tMatOp (k : MatKind) : MatOp :=
  { queuedAs tState { fM 3 1 2 with rows := 1, kc := 1, fmtA := 1, fmtB := 1 } all64 k with
    a := { x := own, y := 0, els := [], cols := 0 }, b := { x := own + 0x40000, y := 0, els := [], cols := 0 } }
/-- A tile with n matrix instructions in its queue, and scratch addresses in g1 and g2. -/
def tMat (n : Nat) : State := ((tTile fun t => { t with mq := List.replicate n (tMatOp .zero) }).setG 1 own).setG 2 (own + 0x40000)
theorem witness_MatrixResults :
    let o : MFmt := { fM 3 1 2 with rows := 64 }
    LanesOn (tMat 8) false 0 all64 ∧ 8 ≤ (tMat 8).myTile.mq.length ∧ o.rows.toNat ≤ 64
      ∧ LanesOn (tMat 7) false 0 all64 ∧ (tMat 7).myTile.mq.length < 8
      ∧ o.qa = false ∧ o.qb = false
      ∧ (tMat 7).scratchTrap ((tMat 7).usesOf (opA o) ++ (tMat 7).usesOf (opB o) ++ (tMat 7).maskUse o) = none
      ∧ (match (tMat 7).captures (opA o) (opB o) with | .ok _ => true | .error _ => false) = true
      ∧ ((tMat 7).getG o.sa).toNat % 256 = 0 ∧ ((tMat 7).getG o.sa).toNat % 2 ^ 19 + 512 * o.rows.toNat ≤ 2 ^ 19
      ∧ ((tMat 7).setG 1 (own + 1) |>.getG 1).toNat % 256 ≠ 0 ∧ (((tMat 7).setG 1 (own + 0x7_F000)).getG 1).toNat % 2 ^ 19 + 512 * 64 > 2 ^ 19
      ∧ ((tMat 7).setG 1 0).getG 1 ≠ own ∧ (((tMat 7).setG 1 0).getG 1).toNat / 2 ^ 60 ≠ 2
      ∧ (fM 3 23 0).sa.toNat < 24 ∧ (tMat 7).regWait [23] (BitVec.allOnes 64) = none
      ∧ LanesOn (tLinks 1) false 0 all64 ∧ (tLinks 1).regWait [(fM 3 1 0).sa] (BitVec.allOnes 64) = some 0 := by
  unfold LanesOn; decide
/-- Scratch operands of an MMA: a misaligned one, and one in HBM behind one that is not refused. -/
theorem witness_MatrixResults_scratch :
    let o : MFmt := { fM 3 1 2 with rows := 1, kc := 1, fmtA := 1, fmtB := 1 }
    let uses := fun (s : State) => s.usesOf (opA o) ++ s.usesOf (opB o) ++ s.maskUse o
    let odd := (tMat 7).setG 1 (own + 1)
    let out := (tMat 7).setG 2 0
    (uses odd).map (fun v => (v.x, v.loc, decide (v.x.toNat % 2 ^ 19 % v.align = 0))) = [(own + 1, 1, false), (own + 0x40000, 2, true)]
      ∧ (uses out).map (fun v => (v.x, decide (v.x.toNat % 2 ^ 19 % v.align = 0), decide (v.x.toNat / 2 ^ 60 = 2))) =
        [(own, true, true), (0, true, false)] := by decide +kernel
/-- Port 0 of the context on APE 0, with the words given. -/
def tPort (w0 w1 w2 : Word) : State :=
  (tState.modMe fun c => { c with ports := vput c.ports 0 { PortBind.init with bnd := true } }).modTile 0 0 fun t =>
    { t with apes := [(0, { Ape.init with cfg := vput (vput (vput Ape.init.cfg 0 w0) 1 w1) 2 w2 })] }
/-- A write stream of 128 FP32 elements over own scratch. -/
def tPush : State := tPort own 0x80_0010 0x400_0000
/-- A read stream of 128 FP32 elements of own scratch. -/
def tPop : State := tPort own 0x80_0000 0x400_0000

/-- Row 0 without and with a poisoned granule; a port that takes no push, and one whose stream takes one. -/
theorem witness_MatrixReadResults :
    let bad := tTile fun t => { t with acc := [(0, { AccRow.init with pois := 8 })] }
    LanesOn tState false 0 all64 ∧ tState.me.links.length < 16 ∧ LanesOn bad false 0 all64
      ∧ ((List.range 4).any fun g => (bad.myTile.accRow 0 0).pois.getLsbD (4 * 0 + g)) = true
      ∧ ((List.range 4).any fun g => (tState.myTile.accRow 0 0).pois.getLsbD (4 * 0 + g)) = false
      ∧ tState.myTile.mq.length < 8 ∧ tState.pushBad 0 = some 0 ∧ (∀ x ∈ tState.myTile.mq, x.on 0 = false)
      ∧ (tMatOp .zero).on 3 = true ∧ LanesOn (tMat 7) false 0 all64 := by
  unfold LanesOn; decide
/-- Places of one row of FP32 elements in own scratch, whose stream is 128 elements long, and past the end of it; a stream that has
ended, one that withholds, and a coach port. -/
theorem witness_MatrixReadResults_push :
    let places := fun (s : State) => s.pushPlaces 0 0 0 (s.portApe 0) 4 (inLength 128 0 (rowsElems 0 0 all64 1 fun _ => .init))
    let ended := tPush.modTile 0 0 fun t => t.modApe 0 fun a => { a with fin := true }
    let wh := tPush.modTile 0 0 fun t => t.modApe 0 fun a => { a with wh := true }
    let far := tPort (own + 0x7_FF00) 0x80_0010 0x400_0000
    let q6 := (tState.modMe fun c => { c with
      q6 := some { hdr := vput zero8 4 0x4000_0000, pay := List.replicate 16384 0, pois := [] }
      ports := vput c.ports 6 { PortBind.init with bnd := true, kb := true } })
    LanesOn tPush false 0 all64 ∧ tPush.myTile.mq.length < 8 ∧ tPush.pushBad 0 = none ∧ tPush.pushBusy 64 2 0 = none
      ∧ tPush.pushEnded 0 = false ∧ (tPush.port 0).kb = false ∧ (tPush.portApe 0).len = 128
      ∧ (match places tPush with | .ok _ => true | .error _ => false) = true ∧ (match places far with | .ok _ => true | .error _ => false) = false
      ∧ far.pushBad 0 = none ∧ far.pushEnded 0 = false ∧ ended.pushEnded 0 = true ∧ ended.pushBad 0 = none
      ∧ wh.pushBusy 64 2 0 = some (.ape 0) ∧ wh.pushBad 0 = none
      ∧ (q6.port 6).kb = true ∧ q6.pushBad 6 = none ∧ q6.pushBusy 64 2 6 = none ∧ q6.pushEnded 6 = false := by
  unfold LanesOn; decide +kernel
/-- A write stream of two elements at another module, and the answers to what it asks of it. -/
def tFar : State := (tPort 0x3001_0000_0000_0000 0x2_0010 0x400_0000).modSys fun y => { y with podcfg := 0x000088B580020000 }
def tAnswer (ok : Bool) (s : State) : State := { s with net := { s.net with waiting := [], got := s.net.asked.map fun a =>
  { reply := true, src := a.m, dst := 0, id := a.id, down := false, turned := false, op := a.op, va := a.va, n := 0, x := 0, y := 0
    ok := ok, data := [], pois := none } } }
/-- A push to it: it waits for the answers, goes on where they take it, and traps where one refuses; own scratch asks nothing. -/
theorem witness_MatrixReadResults_far :
    let els := fun (s : State) => inLength (s.portApe 0).len (s.portApe 0).pos (rowsElems 0 0 all64 1 fun _ => .init)
    let places := fun (s : State) => match s.pushPlaces 0 0 0 (s.portApe 0) 4 (els s) with | .ok l => l | .error _ => []
    let ask := fun (s : State) => s.pushAsk (apeUnit 0 0 0) (s.portApe 0) (places s)
    let asked := (ask tFar).1
    let is := fun (r : Except Nat (Option Nat)) => match r with | .error _ => 0 | .ok none => 1 | .ok (some k) => 2 + k
    LanesOn tFar false 0 all64 ∧ tFar.myTile.mq.length < 8 ∧ tFar.pushBad 0 = none ∧ tFar.pushBusy 64 2 0 = none ∧ tFar.pushEnded 0 = false
      ∧ (tFar.port 0).kb = false ∧ (places tFar).length = 2 ∧ (farPush (tFar.portApe 0) (places tFar)).length = 2
      ∧ farPush (tPush.portApe 0) (places tPush) = [] ∧ (places tPush).length = 128
      ∧ is (ask tFar).2 = 0 ∧ is (ask (tAnswer true asked)).2 = 1 ∧ is (ask (tAnswer false asked)).2 = 2 := by
  unfold LanesOn; decide +kernel
theorem witness_TileEventResults_link :
    let s : State := { tLinks 2 with arg := .tileIdx { die := 0, tile := 0, i := 0 } }
    s.arg = .tileIdx { die := 0, tile := 0, i := 0 } ∧ s.regionAt 0 0 = some 0 ∧ (s.slot 0 0).state = .armed
      ∧ (s.ctx 0 0 0).links = tLink :: [tLink] ∧ tLink.push = none ∧ tLink.dst < 23 := by decide
/-- Each kind of matrix instruction at the head of the queue, of one row and of 64. -/
theorem witness_TileEventResults_matrix :
    let s : State := { tMat 1 with arg := .tileRef { die := 0, tile := 0 } }
    s.arg = .tileRef { die := 0, tile := 0 } ∧ (s.tile 0 0).mq = tMatOp .zero :: [] ∧ (tMatOp .zero).o.rows.toNat ≤ 64
      ∧ ({ fM 3 1 2 with rows := 64 } : MFmt).rows.toNat ≤ 64 ∧ s.stuck = [] ∧ s.sys.power.stopped = false := by decide
/-- An MRDQ at the head of the queue whose places take it, and one over an unmapped page. -/
theorem witness_TileEventResults_push :
    let dst := fun (w0 : Word) => ({ kb := false, ape := 0, cfg := (tPort w0 0x80_0010 0x400_0000).portApe 0 |>.cfg, typ := 0, pos := 0, pm := false, gone := false, skip := 0 } : PushTo)
    let m := fun (w0 : Word) => ({ tMatOp .push with push := some (dst w0) } : MatOp)
    let s := fun (w0 : Word) => ({ tTile (fun t => { t with mq := [m w0] }) with arg := .tileRef { die := 0, tile := 0 } } : State)
    let els := rowsElems 0 0 all64 1 fun j => ((s own).tile 0 0).accRow 3 j
    ((s own).tile 0 0).mq = m own :: [] ∧ (m own).kind = .push ∧ (m own).push = some (dst own) ∧ (dst own).kb = false
      ∧ ((s own).latePush 0 0 0 (dst own) els).2 = none ∧ ((s 0).latePush 0 0 0 (dst 0) els).2 = some 0 := by decide +kernel
/-- An APE that reads own scratch, and one over an unmapped page. -/
theorem witness_TileEventResults_ape :
    let ok := fun (s : State) => s.tileIssues 0 0 = true ∧ ((s.tile 0 0).ape 0).bad = false ∧ ((s.tile 0 0).ape 0).dir = false
      ∧ ((s.tile 0 0).ape 0).fedBit = false ∧ ((s.tile 0 0).ape 0).fin = false ∧ ((s.tile 0 0).ape 0).wh = false
      ∧ ((s.tile 0 0).ape 0).holder = none ∧ ((s.tile 0 0).ape 0).ahead.length < 256 ∧ 0 < ((s.tile 0 0).ape 0).len
    ok tPop ∧ (tPop.nextElem 0 0 0 0).2 = .elem { code := 0, sub := 0, scale := 0, pois := false }
      ∧ ok (tPort 0 0x80_0000 0x400_0000) ∧ ((tPort 0 0x80_0000 0x400_0000).nextElem 0 0 0 0).2 = .withheld 0 4 1 := by decide
/-- Words that R392 takes and refuses, an APE that another context holds, presets of this and another version, words in own
scratch. -/
theorem witness_ApeResults :
    let s := at1 tState own
    let held := tTile fun t => { t with apes := [(3, { Ape.init with holder := some 1 })] }
    let pre := tTile fun t => { t with presets := List.replicate 16 Ape.init.cfg }
    let other := tTile fun t => { t with tver := 1 }
    LanesOn s false 0 all64 ∧ LanesOn held false 0 all64 ∧ ((held.myTile.ape 3).holder.getD held.cix) ≠ held.cix
      ∧ ((s.myTile.ape 3).holder.getD s.cix) = s.cix
      ∧ Ape.init.bad = false ∧ ({ Ape.init with cfg := vput Ape.init.cfg 1 11 } : Ape).bad = true
      ∧ LanesOn pre false 0 all64 ∧ pre.me.tver = pre.myTile.tver ∧ pre.myTile.presets[15]? = some Ape.init.cfg
      ∧ LanesOn other false 0 all64 ∧ other.me.tver ≠ other.myTile.tver
      ∧ (s.getG 1).toNat % 64 = 0 ∧ ∀ k, k < 8 → s.check s.req ((s.getG 1).toNat + 8 * k) 8 .read = .ok { key := 2 ^ 41 + 8 * k, mt := 3 }
        ∧ s.poisonFor s.req { key := 2 ^ 41 + 8 * k, mt := 3 } = false := by
  unfold LanesOn; decide
/-- A coach of 64 zero bytes, with the header words given. -/
def tCoach (h0 h1 h2 h4 : Word) : Coach :=
  { hdr := vput (vput (vput (vput zero8 0 h0) 1 h1) 2 h2) 4 h4, pay := List.replicate 64 0, pois := [] }
/-- A context whose buffers hold coaches. -/
def tHolds : State := tState.modMe fun c => { c with
  q6 := some (tCoach 0 0 0 0), q7 := some (tCoach 0 0 0 0)
  ports := vput (vput c.ports 6 { PortBind.init with bnd := true, kb := true }) 7 { PortBind.init with bnd := true, kb := true } }
theorem witness_PortResults_bind : LanesOn tHolds false 0 all64 ∧ tHolds.holdsCoach 6 = true ∧ tHolds.holdsCoach 0 = false
    ∧ (tHolds.getG 0).toNat % 4 = 0 ∧ ((tHolds.setG 1 3).getG 1).toNat % 4 ≠ 0 := by
  unfold LanesOn; decide
/-- Pops of an unbound port, of an APE that withholds, and of one that gives a vector. -/
theorem witness_PortResults_pop :
    let o : VFmt := fV 0 24 0 0
    let wh := tPop.modTile 0 0 fun t => t.modApe 0 fun a => { a with wh := true }
    LanesOn tState false 0 all64 ∧ o.sa = false ∧ o.va.toNat = 24 + 0 ∧ o.vd.toNat < 24 ∧ tState.latched 0 = none
      ∧ tState.popBad 0 = some 0 ∧ (tState.port 0).bnd = false
      ∧ LanesOn wh false 0 all64 ∧ wh.latched 0 = none ∧ wh.popBad 0 = none
      ∧ wh.portBusy (laneRank (popMask o all64) 64) 0 = some (.ape 0) := by
  unfold LanesOn; decide

/-- A pop that its stream fills, one that ends it, one of an element with poison, one that the elements held fill, one of a coach, and
one of a write stream. -/
theorem witness_PortResults_popped :
    let n := laneRank (popMask (fV 0 24 0 0) all64) 64
    let got := fun (s : State) => (s.streamElems 0 0 0 n).2
    let end_ := tPort own 0x3_0000 0x400_0000
    let pois := ({ tPop with poison := [2 ^ 35] } : State).modSlot 0 0 fun r => { r with boot := false }
    let el : Elem := { code := 0, sub := 0, scale := 0, pois := false }
    let held := tPop.modTile 0 0 fun t => t.modApe 0 fun a => { a with ahead := List.replicate 64 el }
    let fin := tPop.modTile 0 0 fun t => t.modApe 0 fun a => { a with fin := true }
    LanesOn tPop false 0 all64 ∧ n = 64 ∧ tPop.latched 0 = none ∧ tPop.popBad 0 = none ∧ tPop.portBusy 64 0 = none ∧ (tPop.port 0).kb = false
      ∧ (got tPop).1.length = 64 ∧ (got tPop).2 = none ∧ (got tPop).1.all (fun x => !x.pois) = true
      ∧ LanesOn end_ false 0 all64 ∧ end_.popBad 0 = none ∧ end_.portBusy 64 0 = none ∧ (got end_).1.length = 3 ∧ (got end_).2 = some .stop
      ∧ (got pois).2 = none ∧ (((got pois).1)[0]?).any (fun x => x.pois) = true ∧ pois.popBad 0 = none
      ∧ (held.portApe 0).fin = false ∧ 64 ≤ (held.portApe 0).held.length ∧ (fin.portApe 0).fin = true
      ∧ (tPush.portApe 0).bad = false ∧ (tPush.portApe 0).dir = true ∧ (tPush.port 0).bnd = true := by
  unfold LanesOn; decide +kernel
/-- A coach with n payload bytes and header word 0. -/
def tFull (h0 : Word) (n : Nat) : Coach :=
  { hdr := vput (vput zero8 0 h0) 4 (BitVec.ofNat 64 (n * 65536)), pay := List.replicate n 0, pois := [] }
/-- A context with such coaches in both buffers, their ports bound to payload elements of type 0. -/
def tCoaches (n : Nat) : State := tState.modMe fun c => { c with
  q6 := some (tFull 0x8000 n), q7 := some (tFull 0x8000 n)
  ports := vput (vput c.ports 6 { PortBind.init with bnd := true, kb := true }) 7 { PortBind.init with bnd := true, kb := true } }
theorem witness_PortResults_coach :
    let s := tCoaches 512
    LanesOn s false 0 all64 ∧ s.latched 7 = none ∧ s.popBad 7 = none ∧ s.portBusy 64 7 = none ∧ (s.port 7).kb = true
      ∧ s.portCoach 7 = some (tFull 0x8000 512) ∧ ((s.port 7).elems (tFull 0x8000 512) 64).all (fun x => !x.pois) = true
      ∧ ((s.port 7).elems (tFull 0x8000 512) 64).length = 64 ∧ ((s.port 7).elems (tFull 0x8000 8) 64).length = 2
      ∧ s.pushBad 6 = none ∧ s.pushBusy 64 0 6 = none ∧ s.pushEnded 6 = false ∧ (s.port 6).kb = true ∧ s.pushBad 7 = some (s.portAt 7)
      ∧ s.regWait [1] (BitVec.allOnes 64) = none := by
  unfold LanesOn; decide +kernel
/-- A push to own scratch, one to a stream that has ended, one to a stream that withholds, and one to a read stream. -/
theorem witness_PortResults_push :
    let keep := fun (s : State) => inLength (s.portLen 0) (s.portAt 0) ((pushPlan all64 false).1.map fun x =>
      ({ off := x.1, code := 0, fl := 0, pois := false } : PushElem))
    let ended := tPush.modTile 0 0 fun t => t.modApe 0 fun a => { a with fin := true }
    let wh := tPush.modTile 0 0 fun t => t.modApe 0 fun a => { a with wh := true }
    LanesOn tPush false 0 all64 ∧ (fV 24 1 0 0).vd.toNat = 24 + 0 ∧ tPush.regWait [1] (BitVec.allOnes 64) = none ∧ tPush.pushBad 0 = none
      ∧ tPush.pushBusy 64 0 0 = none ∧ tPush.pushEnded 0 = false ∧ (tPush.port 0).kb = false ∧ tPush.me.part = none
      ∧ (match tPush.pushPlaces 0 0 0 (tPush.portApe 0) 4 (keep tPush) with
         | .ok l => l.length == 64 && l.all fun x => match x.2.2 with | .ok q => q.mt == 3 | _ => false
         | .error _ => false) = true
      ∧ ended.pushBad 0 = none ∧ ended.pushBusy 64 0 0 = none ∧ ended.pushEnded 0 = true
      ∧ wh.pushBad 0 = none ∧ wh.pushBusy 64 0 0 = some (.ape 0)
      ∧ (tPop.portApe 0).bad = false ∧ (tPop.portApe 0).dir = false ∧ (tPop.port 0).bnd = true ∧ tState.pushBad 0 = some 0 := by
  unfold LanesOn; decide +kernel

/-! The copy engine and coaches. -/

/-- Channel 3 in a state. -/
def tChan (st : ChanState) : State := tTile fun t => { t with chans := [(3, { Chan.init with state := st, err := 5 })] }
/-- Channel 3 in each state; 2^40 - 1 and 2^40 bytes. -/
theorem witness_CopyCommandResults : CtxOn (tChan .idle) false 0 ∧ ((tChan .idle).myTile.chan 3).state = .idle
    ∧ CtxOn (tChan .running) false 0 ∧ ((tChan .running).myTile.chan 3).state = .running
    ∧ CtxOn (tChan .error) false 0 ∧ ((tChan .error).myTile.chan 3).state = .error
    ∧ (((tChan .idle).setG 1 0xFF_FFFF_FFFF).getG 1).toNat < 2 ^ 40 ∧ 2 ^ 40 ≤ (((tChan .idle).setG 1 0x100_0000_0000).getG 1).toNat
    ∧ (3 : BitVec 5) ≠ 0 := by
  unfold CtxOn; decide
/-- A fill of own scratch that runs, one that is refused (path 0x1 without a grant), and one at its end. -/
theorem witness_CopyEventResults :
    let on := fun (dst : Word) (prog : Nat) => ({ tApp.modTile 0 0 fun t => { t with chans := [(3,
      { Chan.init with kind := .fill, dst := dst, p2 := 100, prog := prog, state := .running })] } with
      arg := .tileIdx { die := 0, tile := 0, i := 3 } } : State)
    let s := on own 64
    let bad := on 0x1000_0000_0001_0000 0
    let fin := on own 100
    s.arg = .tileIdx { die := 0, tile := 0, i := 3 } ∧ ((s.tile 0 0).chan 3).state = .running ∧ ((s.tile 0 0).chan 3).kind = .fill
      ∧ ((s.tile 0 0).chan 3).prog < ((s.tile 0 0).chan 3).p2.toNat ∧ s.tileIssues 0 0 = true ∧ s.sys.power.stopped = false
      ∧ s.check (s.unitReq 2 0 0) (own.toNat + 64) 36 .write = .ok { key := 2 ^ 41 + 64, mt := 3 }
      ∧ ((bad.tile 0 0).chan 3).prog < ((bad.tile 0 0).chan 3).p2.toNat ∧ bad.tileIssues 0 0 = true
      ∧ bad.check (bad.unitReq 2 0 0) 0x1000_0000_0001_0000 64 .write = .refuse 2
      ∧ ((fin.tile 0 0).chan 3).total ≤ ((fin.tile 0 0).chan 3).prog ∧ ((fin.tile 0 0).chan 3).kind ≠ .shard
      ∧ ((fin.tile 0 0).chan 3).sg < 8 := by decide
/-- A copy, a two-dimensional copy and page copies of own scratch, whose source pieces are read; one reads poison. -/
theorem witness_CopyEventResults_copies :
    let on := fun (c : Chan) => ({ tTile fun t => { t with chans := [(3, { c with state := .running })] } with
      arg := .tileIdx { die := 0, tile := 0, i := 3 } } : State)
    let c := fun (k : CopyKind) (p2 p3 : Word) => { Chan.init with
      kind := k, src := own, dst := own + 0x1010, p2 := p2, p3 := p3, prog := 48, pages := [(0, 0x2000_0000_0FF0_0000, true)] }
    let page := fun (c : Chan) (j : Nat) => ((c.pages.find? fun e => e.1 == j).map fun e => c.pageAddr e.2.1).getD 0
    let runs := fun (c : Chan) (s : State) =>
      let m := c.granule (page c)
      (decide (c.prog < c.total) && (c.pagesOf 1 ++ c.pagesOf m).all fun k => c.pages.any fun e => e.1 == k)
        && (match s.readPieces (chanUnit 0 0 3) (c.prog * 8 + 2) (c.srcPieces (page c) m) with
          | (v, .ok (bs, bad)) => bs.length == m && !bad && (match v.check (v.asReq (chanUnit 0 0 3)) (c.dstAt (page c)) bs.length .write with
            | .ok p => p.mt == 3 | _ => false)
          | _ => false)
    let cpy := c .cpy 100 0
    let two := c .twoD 0x2_0000_0020 0x40_0000_0040
    let read := c .pages 1 0
    let write := { c .pages 1 8 with pages := [(0, 0x2000_0000_0FF0_2000, false)] }
    runs cpy (on cpy) = true ∧ runs two (on two) = true ∧ runs read (on read) = true ∧ runs write (on write) = true
      ∧ read.listPoison (read.granule (page read)) = true ∧ write.listPoison (write.granule (page write)) = false
      ∧ (match (({ on cpy with poison := [2 ^ 35] } : State).modSlot 0 0 fun r => { r with boot := false }).readPieces (chanUnit 0 0 3) 2 (cpy.srcPieces (page cpy) 16) with
         | (_, .ok (_, bad)) => bad | _ => false) = true := by decide +kernel
/-- A context whose buffers hold coaches, with n links that are still to push to q6 (R257). -/
def tPushes (n : Nat) : State := tHolds.modMe fun c => { c with links := List.replicate n { tLink with
  push := some { kb := true, ape := 0, cfg := Vector.ofFn fun _ => 0, typ := 0, pos := 0, pm := false, gone := false, skip := 0 } } }
theorem witness_CoachAndStateMergeResults_coach :
    let other := tTile fun t => { t with rver := 1 }
    CtxOn other false 0 ∧ other.me.rver ≠ other.myTile.rver
      ∧ CtxOn tState false 0 ∧ tState.me.rver = tState.myTile.rver ∧ tState.me.q6 = none ∧ tState.me.q7 = none
      ∧ CtxOn tHolds false 0 ∧ tHolds.me.rver = tHolds.myTile.rver ∧ tHolds.me.q6 ≠ none ∧ tHolds.me.q7 ≠ none
      ∧ tState.portCoach 6 = none ∧ tHolds.portCoach 7 = some (tCoach 0 0 0 0)
      ∧ tHolds.myTile.pushing tHolds.cix = false ∧ (tPushes 1).myTile.pushing (tPushes 1).cix = true ∧ CtxOn (tPushes 1) false 0 := by
  unfold CtxOn; decide
/-- One query of d = 32: 16 + 128 bytes of each section. -/
theorem witness_CoachAndStateMergeResults_merge :
    let s := ((tState.setG 1 own).setG 2 (own + 0x1000)).setG 3 (own + 0x2000)
    let a : Section := { port := none, x := s.getG 1, loc := 1 }
    let b : Section := { port := none, x := s.getG 2, loc := 2 }
    let c : Section := { port := none, x := s.getG 3, loc := 3 }
    CtxOn s false 0 ∧ bits (BitVec.zeroExtend 64 (0x101 : BitVec 32)) 18 16 = 0
      ∧ s.scratchTrap [{ x := a.x, align := 16, len := 144, loc := 1 }, { x := b.x, align := 16, len := 144, loc := 2 },
        { x := c.x, align := 16, len := 144, loc := 3 }] = none
      ∧ overlaps 144 c a = false ∧ overlaps 144 c b = false
      ∧ (match s.sectionBytes a 0 144, s.sectionBytes b 0 144 with | .ok _, .ok _ => true | _, _ => false) = true := by
  unfold CtxOn; decide

/-- Sections in the payloads of q7 and q6, and payloads too short for them. -/
theorem witness_CoachAndStateMergeResults_sections :
    let a : Section := { port := some 7, x := 0, loc := 1 }
    let c : Section := { port := some 6, x := 0, loc := 3 }
    let s := tCoaches 512
    CtxOn s false 0 ∧ (fC 0 1 2 3 0x70101).imm.getLsbD 16 = true ∧ (fC 0 1 2 3 0x70101).imm.getLsbD 18 = true
      ∧ overlaps 144 c a = false ∧ s.portCoach 7 = some (tFull 0x8000 512) ∧ s.me.q6 = some (tFull 0x8000 512)
      ∧ ¬(tFull 0x8000 512).plen < 1 * (6 * 32 + 16) ∧ (tFull 0x8000 207).plen < 1 * (6 * 32 + 16)
      ∧ (match s.sectionBytes a 64 144 with | .ok _ => true | .error _ => false) = true
      ∧ (match (s.modMe fun x => { x with q7 := some { tFull 0x8000 512 with pois := [1] } }).sectionBytes a 64 144 with
         | .ok _ => false | .error _ => true) = true := by
  unfold CtxOn; decide +kernel

/-- Route entries of one and two stops, to tile 2 and tile 4; the second entry's last stop goes on to entry 0. -/
def tRoutes : List (Vector Word 8) := [vput (vput zero8 0 1) 1 2, vput (vput zero8 0 0x102) 1 0x4_0000_0002]
/-- A context whose buffers hold coaches on a route entry at a stop, under a route plane. -/
def tSends (h3 h4 : Word) : State :=
  let s := tHolds.modSlot 0 0 fun r => { r with routes := tRoutes, plane := some (0, tRoutes) }
  let c := { tCoach 0x8000 0 0 (h4 + 64 * 65536) with hdr := vput (tCoach 0x8000 0 0 (h4 + 64 * 65536)).hdr 3 h3 }
  s.modMe fun x => { x with q6 := some c, q7 := some c }
/-- The send queue with n coaches. -/
def tQueued (n : Nat) : State :=
  (tSends 0 0).modMyTile fun t => { t with sendq := List.replicate n { coach := tCoach 0 0 0 0, code := 0, plane := none } }
theorem witness_CoachSendResults :
    CtxOn (tSends 0 0) false 0 ∧ (tSends 0 0).me.rver = (tSends 0 0).myTile.rver
      ∧ (tSends 0 0).me.q6.any (fun c => match (tSends 0 0).toSend (c.setF 0 35 28 0) with | .ok _ => true | .error _ => false) = true
      ∧ (tQueued 15).myTile.sendq.length + 1 ≤ 16 ∧ 16 < (tQueued 16).myTile.sendq.length + 1
      ∧ CtxOn (tQueued 15) false 0 ∧ CtxOn (tQueued 16) false 0
      ∧ tState.me.q6 = none ∧ tState.portCoach 7 = none
      ∧ (tCoach 0 0 0 0).malformed = true ∧ (tSends 0 0).myTile.pushing (tSends 0 0).cix = false
      ∧ CtxOn (tPushes 1) false 0 ∧ (tPushes 1).me.q6 ≠ none ∧ (tPushes 1).myTile.pushing (tPushes 1).cix = true
      ∧ ((tSends 0 2).portCoach 7).map (fun c => (c.malformed, (tSends 0 2).nextStop (tSends 0 2).mySlot.heldRoutes c)) = some (false, none)
      ∧ ((tSends 0 1).portCoach 7).any (fun c => match c.advance (tSends 0 1).mySlot.heldRoutes with
          | .on c1 => (match (tSends 0 1).toSend c1 with | .ok _ => true | .error _ => false) | _ => false) = true
      ∧ ((tSends 0 0).portCoach 7).any (fun c => match c.advance (tSends 0 0).mySlot.heldRoutes with | .ends => true | _ => false) = true
      ∧ ((tSends 0 2).portCoach 7).any (fun c => match c.advance (tSends 0 2).mySlot.heldRoutes with | .fault => true | _ => false) = true
      ∧ ((tSends 0 0).portCoach 7).any (fun c => (List.range 2).all fun p =>
          match (tSends 0 0).toSend (c.part p 2 0 0) with | .ok _ => true | .error _ => false) = true := by
  unfold CtxOn; decide +kernel

/-! Shards, stream contexts, speculation, launches. -/

/-- A descriptor of one head, dimension 32, one-byte elements, one page without a window, length n, and its page entry. -/
def tShard (n : Word) (e : Word) : State :=
  ((((tVa [0x10040, 0x13100, n, 0, 0, 0, 0, 0, e]).setG 1 0x10000).setG 2 0).setG 3 own).setG 4 0x10040
/-- A descriptor with a window of 128 positions and length 384. -/
def tWindow : State := (tVa [0x10040, 0x23100, 384, 128, 0x10080]).setG 1 0x10000
/-- What the descriptor at 0x10000 says of a position. -/
def tLocate (s : State) (h p : Nat) : Option Located :=
  match s.getDesc 0x10000 with | .ok (_, some d) => some (d.locate h p) | _ => none
/-- The hypotheses of the clause on a KVAPP that succeeds, for one position. -/
def tAppends (s : State) : Bool :=
  match s.getDesc 0x10000 with
  | .ok (u, some ds) =>
    (match ds.locate 0 0, u.getWord 1 0x10040 .read with
     | .at_ ent off, .ok (v, e) =>
       ent == 0x10040 && decide (bits e 60 53 ≤ 1) && off == bits e 52 45 + bits e 44 37 &&
         (match v.spots 3 .read ds.es true (sourceSpans (v.getG 3) 1 (ds.dim * ds.es)) with
          | .ok (s2, src) =>
            (match s2.spots 1 .write 1 true (rowSpans (entAddr e) off 1 (ds.dim * ds.es)) with
             | .ok (s3, dst) => (match (s3.updatable [0x10040]).bind fun s6 => s6.readSpots 3 src with
               | .ok _ => dst.all fun x => match x.2 with | .remote .. => false | _ => true
               | .error _ => false)
             | .error _ => false)
          | .error _ => false)
     | _, _ => false)
  | _ => false
/-- The status that a KVCMT of b positions meets (R419): 10 where a hypothesis on its words fails. -/
def tCommits (s : State) (b : Nat) : Nat :=
  match s.getDesc 0x10000 with
  | .ok (u, some ds) =>
    let d1 := { ds with len := u.me.read.getD ds.len }
    let w := u.modMe fun x => { x with read := some d1.len }
    if b < d1.len then 1 else if b == d1.len then 0
    else (match w.touchedHeads d1 b (ds.nh + 1) 0 with
      | .ok (_, none) => 3
      | .ok (s1, some l) => (match s1.getWord 1 0x10010 .rmw with
        | .ok (v, e) =>
          let lo := (d1.len - ds.wlen) / 128
          let slots := if ds.wlen = 0 then ([] : List (Nat × Nat × Bool)) else
            (List.range (ds.nh + 1)).flatMap fun i => (List.range (min ((b - ds.wlen) / 128) (lo + ds.cap) - lo)).map fun k =>
              (ds.parray + 8 * (i * ds.cap + (lo + k) % ds.cap), ds.tarray + 8 * i, k == 0)
          if e.toNat % 2 ^ 40 ≠ d1.len then 6
          else (match v.updatable (l.map (fun x => x.1) ++ slots.flatMap fun x => [x.1, x.2.1]) with | .ok _ => 20 + slots.length | .error _ => 10)
        | .error _ => 10)
      | .error _ => 10)
  | _ => 10
/-- KVCMT below the length, at it, beyond what is held, over positions held, and where the length changed since its first issue; a
KVREJ. -/
theorem witness_ShardResults_commit :
    let held : Word := 0x20_2000_0000_11
    tCommits (tShard 1 held) 0 = 1 ∧ tCommits (tShard 1 held) 1 = 0 ∧ tCommits (tShard 1 0x11) 2 = 3 ∧ tCommits (tShard 1 held) 2 = 20
      ∧ tCommits ((tShard 2 held).modMe fun x => { x with read := some 1 }) 2 = 6
      ∧ (match (tShard 1 0x11).getDesc 0x10000 with
         | .ok (u, some d) => (match u.specHeads d (d.nh + 1) 0 with
           | .ok (v, l) => (match v.updatable (l.map fun x => x.1) with | .ok _ => true | .error _ => false)
           | .error _ => false)
         | _ => false) = true := by decide +kernel
/-- SHCPY of the entry at 0x10040 to itself, with the descriptor at 0x10000, and one that is malformed. -/
def tCopies (s : State) : Option (Nat × Nat × Bool × Bool) :=
  match s.copyWords (fC 5 4 4 1 0) with | .ok (_, e1, e2, d) => some (bits e1 52 45, bits e2 60 53, bit e2 62, d.isSome) | .error _ => none
theorem witness_ShardResults_copy :
    let at_ := fun (a : Word) => (tShard 0 0).setG 4 a
    tCopies (tShard 0 0x0040_0000_0000_0000) = some (0, 2, false, true) ∧ tCopies (tShard 0 0x4000_0000_0000_0000) = some (0, 0, true, true)
      ∧ tCopies (tShard 0 0) = some (0, 0, false, true) ∧ tCopies (((tVa []).setG 1 0x10000).setG 4 0x10040) = some (0, 0, false, false)
      ∧ ((tShard 0 0).myTile.chan 0).state = .idle ∧ (tTile fun t => { t with chans := [(0, { Chan.init with state := .paused })] }).myTile.chan 0
        = { Chan.init with state := .paused }
      ∧ ((at_ 0x10044).getG 4).toNat % 8 ≠ 0 ∧ ((tShard 0 0).getG 1).toNat % 64 = 0 ∧ ((at_ 0x10048).getG 4).toNat % 64 ≠ 0 := by decide +kernel
/-- A commit that moves a window on by a page, whose slot it releases; an entry of another module; channel 0 in error, on words that can
be read; a row of positions that reaches past the shard. -/
theorem witness_ShardResults_others :
    let w := (tVa [0x10040, 0x23100, 384, 128, 0x10080, 0, 0, 0, 0, 0x1000_0000_0000]).setG 1 0x10000
    let far := at1 tPod 0x3001_0000_0000_0008
    let bad := (tShard 0 0).modTile 0 0 fun t => { t with chans := [(0, { Chan.init with state := .error, err := 5 })] }
    tCommits w 512 = 21 ∧ CtxOn far false 0
      ∧ (match far.spot 1 (far.getG 1).toNat 8 8 .rmw false with | .ok (_, .remote 1 _) => true | _ => false) = true
      ∧ (bad.myTile.chan 0).state = .error
      ∧ (match bad.wordSpot 1 0x10040 .read with
         | .ok (s1, _) => (match s1.wordSpot 2 0x10040 .read with
           | .ok (s2, _) => (match s2.lineSpot 3 0x10000 with | .ok _ => true | .error _ => false)
           | .error _ => false)
         | .error _ => false) = true
      ∧ tLocate (tShard 0 0x11) 0 127 = some (.at_ 0x10040 127) ∧ tLocate (tShard 0 0x11) 0 (127 + 2 - 1) = some .range
      ∧ (tState.getG 2).toNat / 2 ^ 60 ≠ 4 := by unfold CtxOn; decide +kernel
/-- Malformed; in, beyond and before a window; each clause on a KVAPP, KVCMT and KVREJ; each kind of page entry. -/
theorem witness_ShardResults_descriptor :
    CtxOn (tShard 0 0x11) false 0
      ∧ (match (tVa []).getDesc 0x10000 with | .ok (_, none) => true | _ => false) = true
      ∧ tLocate (tShard 0 0x11) 0 127 = some (.at_ 0x10040 127) ∧ tLocate (tShard 0 0x11) 0 128 = some .range
      ∧ tLocate tWindow 0 255 = some .expired ∧ tLocate tWindow 0 256 = some (.at_ 0x10040 0)
      ∧ tAppends (tShard 0 0x11) = true
      ∧ (match (tShard 1 0x11).getDesc 0x10000 with
         | .ok (u, some d) => d.len == 1 && d.wlen == 0
           && (match u.touchedHeads d 2 (d.nh + 1) 0 with | .ok (_, none) => true | _ => false)
           && (match u.specHeads d (d.nh + 1) 0 with | .ok _ => true | .error _ => false)
         | _ => false) = true
      ∧ (match (tShard 1 0x20_2000_0000_11).getDesc 0x10000 with
         | .ok (u, some d) => (match u.touchedHeads d 2 (d.nh + 1) 0 with
           | .ok (s1, some _) => (match s1.getWord 1 0x10010 .rmw with | .ok _ => true | .error _ => false)
           | _ => false)
         | _ => false) = true := by
  unfold CtxOn; decide +kernel
/-- Entries that are stuck, at 255, at 0, and in between. -/
theorem witness_ShardResults_entry :
    let word := fun (e : Word) => match (tShard 0 e).getWord 1 0x10040 .rmw with | .ok (_, w) => some w | .error _ => none
    word 0x4000_0000_0000_0000 = some 0x4000_0000_0000_0000 ∧ word 0x1FE0_0000_0000_0000 = some 0x1FE0_0000_0000_0000
      ∧ word 0 = some 0 ∧ bits (0x1FE0_0000_0000_0000 : Word) 60 53 = 255 ∧ bit (0x4000_0000_0000_0000 : Word) 62 = true := by decide +kernel

/-- Die 0 with a stream context table of one entry and one frame, the entry in a state. -/
def tStc (st : ScState) (holds : Nat) : State :=
  { tVa [] with boxes := [(0, { SigBox.init with stccfg := 0x1000_0101, stc := [(0, { Stc.init with state := st, holds := holds, back := 0x10000 })] })] }
theorem witness_StreamContextResults_instructions :
    CtxOn (tStc .free 0) false 0 ∧ (tStc .free 0).stcEn 0 = true ∧ 0 ≤ (tStc .free 0).stcNent 0 ∧ (((tStc .free 0).box 0).entry 0).state = .free
      ∧ CtxOn (tStc .resident 0) false 0 ∧ (((tStc .resident 0).box 0).entry 0).state = .resident
      ∧ (((tStc .resident 0).box 0).entry 0).holds = 0 ∧ (((tStc .resident 1).box 0).entry 0).holds ≠ 0
      ∧ (((tStc .restoring 0).box 0).entry 0).state = .restoring
      ∧ (((tStc .evicted 0).box 0).entry 0).state = .evicted ∧ (((tStc .evicted 0).box 0).entry 0).want = false
      ∧ (tStc .evicted 0).hart.wait = .run ∧ (tStc .evicted 0).freeFrame 0 = some 0
      ∧ ((tStc .resident 0).modHart fun h => { h with wait := .loaded 1 }).hart.wait = .loaded 1
      ∧ tState.stcEn 0 = false := by
  unfold CtxOn; decide
/-- No frame is free, since the frames overlap the offsets below 0x10000, and none can be taken. -/
theorem witness_StreamContextResults_noframe :
    let s : State := { tVa [] with boxes := [(0, { SigBox.init with stccfg := 0x1001_0100, stc := [(0, { Stc.init with state := .evicted }),
      (1, { Stc.init with state := .resident, holds := 1 })] })] }
    s.stcEn 0 = true ∧ ((s.box 0).entry 0).state = .evicted ∧ ((s.box 0).entry 0).want = false ∧ s.freeFrame 0 = none ∧ s.victim 0 = none := by
  decide
theorem witness_StreamContextResults_events :
    let s := { tStc .restoring 0 with mem := tWide }
    let e := { tStc .evicting 0 with mem := tWide }
    (∀ w, ((s.box 0).walker w).st ≠ .sct) ∧ s.stcEn 0 = true ∧ ((s.box 0).entry 0).state = .restoring
      ∧ (s.readVa s.sys.svptbr true 0x10000 4096).isSome = true
      ∧ ((e.box 0).entry 0).state = .evicting ∧ ((e.box 0).entry 0).freeing = none ∧ (∀ x ∈ (e.box 0).stc, x.2.want = false)
      ∧ (e.writeVa e.sys.svptbr true 0x10000 (List.replicate 4096 0)).isSome = true
      ∧ ((0x1000_0000 : Word).toNat / 2 ^ 8 % 64 = 0) ∧ ((0x1000_203F : Word).toNat / 2 ^ 8 % 64 ≤ 32)
      ∧ 64 < (0x1000_023F : Word).toNat % 64 + (0x1000_023F : Word).toNat / 2 ^ 8 % 64 := by
  refine ⟨fun w => ?_, by decide, by decide, by decide +kernel, by decide, by decide, by decide, by decide +kernel, by decide, by decide,
    by decide⟩
  show Walker.init.st ≠ .sct
  decide
theorem witness_SpeculationResults : CtxOn tState false 0 ∧ (fC 5 1 2 3 64).imm.toNat % 128 ≤ 64 ∧ (fC 5 23 22 3 0).a.toNat < 24
    ∧ tState.regWait [23, 22] (BitVec.allOnes 64) = none ∧ CtxOn (tLinks 1) false 0
    ∧ (tLinks 1).regWait [1, 2] (BitVec.allOnes 64) = some 0 ∧ (5 : BitVec 5) ≠ 0 := by
  unfold CtxOn; decide
/-- A ring of 16 entries: empty, full, and with a size that is refused. -/
def tRing (c size seen : Word) : State := (tVa [c, size, seen]).setG 1 0x10000
/-- The hypotheses of the clause on a TRPUB that publishes two values. -/
def tPublishes (s : State) : Bool :=
  match s.getLine 0x10000 with
  | .ok (u, x) =>
    (match u.spots 1 .write 4 false ((List.range 2).map fun i => (0x10000 + 64 + 4 * ((x % 2 ^ 64 + i) % 16), 4)) with
     | .ok (s1, ps) =>
       (match s1.spot 1 0x10000 8 8 .write false with
        | .ok (s2, _) =>
          let s3 := s2.writeSpots ps (List.replicate 8 0)
          (match s3.check s3.req 0x10000 8 .write with | .ok _ => true | _ => false)
        | .error _ => false)
     | .error _ => false)
  | .error _ => false
theorem witness_PublishAndLaunchResults :
    let header := fun (s : State) => match s.getLine 0x10000 with | .ok (_, x) => some x | .error _ => none
    let full : Nat := 16 + 4 * 2 ^ 64
    let q := fun (n : Nat) => (tRing 0 4 0).modBox 0 fun b => { b with sbbase := 1, queues := [(0, { Queue.init with
      ok := true, berth := List.replicate n zero8 })] }
    CtxOn (tRing 0 4 0) false 0 ∧ (tRing 0 4 0).regWait [2] (maskOf fun i => i < 2) = none
      ∧ header (tRing 0 3 0) = some (3 * 2 ^ 64) ∧ header (tRing 16 4 0) = some full ∧ header (tRing 0 4 0) = some (4 * 2 ^ 64)
      ∧ 2 ^ 4 < (16 + 2 + 2 ^ 64 - 0) % 2 ^ 64 ∧ tPublishes (tRing 14 4 0) = true ∧ (14 + 2 + 2 ^ 64 - 0) % 2 ^ 64 ≤ 2 ^ 4
      ∧ (match (tRing 0 4 0).spots 1 .read 64 false [(0x10000, 64)] with
         | .ok (s1, ps) => (match s1.readSpots 1 ps with | .ok _ => true | .error _ => false) | .error _ => false) = true
      ∧ (tRing 0 4 0).qEnabled 0 0 = false ∧ (q 3).qEnabled 0 0 = true ∧ (((q 3).box 0).queue 0).berth.length < 4
      ∧ 4 ≤ (((q 4).box 0).queue 0).berth.length := by
  unfold CtxOn; decide +kernel

/-! The system group, traps and privilege. -/

theorem witness_TimeAndBarrierResults :
    let at_ := fun (x : Word) (clock : Word) => ({ tState.modSys fun y => { y with time := clock } with
      arg := .tileIdx { die := 0, tile := 0, i := 0 } } : State).modCtx 0 0 0 fun c => { c with hart := { c.hart with wait := .time x } }
    let b := tState.modSlot 0 0 fun r => { r with bars := [(15, { count := 1, n := 2, waiting := [(0, 1)] })] }
    GuardOn tState false 0 ∧ (tState.getG 1).toNat ≤ tState.sys.time.toNat ∧ tState.sys.time.toNat < ((tState.setG 1 1).getG 1).toNat
      ∧ (at_ 5 5).arg = .tileIdx { die := 0, tile := 0, i := 0 } ∧ ((at_ 5 5).ctx 0 0 0).live = true ∧ (at_ 5 5).tileIssues 0 0 = true
      ∧ ((at_ 5 5).ctx 0 0 0).hart.wait = .time 5 ∧ (5 : Word).toNat ≤ (at_ 5 5).sys.time.toNat
      ∧ CtxOn tState false 0 ∧ tState.mySlotIx = some 0 ∧ ((tState.slot 0 0).bars.get 15 .init).count + 1 < 0x1F0000 / 2 ^ 16 % 1024 + 1
      ∧ CtxOn b false 0 ∧ b.mySlotIx = some 0 ∧ ((b.slot 0 0).bars.get 15 .init).n ≤ ((b.slot 0 0).bars.get 15 .init).count + 1
      ∧ ((b.slot 0 0).bars.get 15 .init).waiting.Nodup ∧ (b.tix, b.cix) ∉ ((b.slot 0 0).bars.get 15 .init).waiting
      ∧ SupOn tState false 0 ∧ SupOn tCore false 0 ∧ tCore.onCore = true ∧ tCore.sys.evpend = 0 := by
  unfold GuardOn CtxOn SupOn GuardOn; decide
/-- A configuration record of both planes for tiles 2 and 3, with one route entry, for core 0. -/
def tConfig (w0 : Word) : State :=
  let s := ((tVa ([w0, 0, 0x10180, 1, 0, 0, 0x808080, 1] ++ List.replicate 40 0 ++ [1, 2])).modCore 0 fun c =>
    { c with running := true }).modSlot 0 0 fun r => { r with ptbr := 1 }
  ({ s with cur := .core 0 } : State).setG 1 0x10000
/-- A record that loads, one that is malformed, one at a misaligned address, a slot in a state that makes the load wait, and a
slot that a walk owns. -/
theorem witness_TranslationAndConfigurationResults :
    let ld := fun (s : State) (va : Nat) => match s.loadConfig 0 1 va false with | .ok _ => 0 | .status n => n | .wait => 1
    let wait := (tConfig 0x0310_2000).modSlot 0 1 fun r => { r with state := .draining }
    let owned := (tConfig 0x0310_2000).modSlot 0 1 fun r => { r with owner := some 0 }
    let rcd := fun (s : State) => match s.spots 1 .read 1 false (spans 2 (s.getG 1).toNat 16) with
      | .ok (s1, ps) => (match s1.readSpots 1 ps with
        | .ok (u, bs) => some (trgOk (wordAt bs 0) (wordAt bs 8), decide (u.mySlot.state = .armed)) | .error _ => none)
      | .error _ => none
    SupOn (tConfig 0x0310_2000) false 0 ∧ ld (tConfig 0x0310_2000) 0x10000 = 0 ∧ ld (tConfig 0) 0x10000 = 2
      ∧ ld (tConfig 0x0310_2000) 0x10001 = 2 ∧ ld wait 0x10000 = 1 ∧ SupOn wait false 0
      ∧ (owned.slot 0 1).owner ≠ none ∧ ((tConfig 0x0310_2000).slot 0 1).owner = none
      ∧ SupOn (at1 tState own) false 0 ∧ (at1 tState own).onCore = false ∧ rcd (at1 tState own) = some (true, true)
      ∧ rcd ({ at1 tState own with mem := [(2 ^ 41 + 7, 0x80)] }) = some (false, true)
      ∧ rcd ((at1 tState own).modSlot 0 0 fun r => { r with state := .draining }) = some (true, false) := by
  unfold SupOn GuardOn; decide +kernel
/-- An unassigned number, a TILE number on a core, a SYS number at application level, and registers that settle. -/
theorem witness_ControlRegisterResults :
    knownCsr 0xFFF = false ∧ knownCsr 0x400 = true ∧ ¬(tCore.onCore = true → 0x400 < 0x400 ∨ 0xC00 ≤ 0x400)
      ∧ knownCsr 0xC44 = true ∧ ¬(tApp.isSup = true ∨ 0xC44 < 0x400) ∧ (tApp.onCore = true → 0xC44 < 0x400 ∨ 0xC00 ≤ 0xC44)
      ∧ GuardOn tState false 0 ∧ tState.isSup = true ∧ tState.me.links = [] ∧ knownCsr 3 = true ∧ knownCsr 2 = true ∧ knownCsr 0xA = true
      ∧ knownCsr 0x11 = true ∧ knownCsr 1 = true ∧ GuardOn (tLinks 1) false 0 ∧ (tLinks 1).onCore = false ∧ (tLinks 1).me.links ≠ [] := by
  unfold GuardOn; decide
/-- An image area on pages that translate: it reads and writes, with a valid word; zeros are no valid image and hold no links, and a
count of 17 cannot be restored. -/
theorem witness_SavedContextResults :
    let at_ := fun (m : Memory) => ({ State.reset with
      mem := tWide ++ m
      slots := [(0, { Slot.init with state := .armed, boot := true, ptbr := 1 })]
      tiles := [(0, { Tile.init with ctxs := [(0, { tCtx with hart := { Hart.init with g := vput Hart.init.g 1 0x10000 } })] })]
      cur := .ctx 0 0 0 } : State)
    let spots := fun (s : State) (a : Acc) => match s.areaSpots (fC 0 1 0 0 0) a with | .ok (s1, ps) => some (s1, ps) | .error _ => none
    let img := fun (m : Memory) => match spots (at_ m) .read with
      | some (s1, ps) => (match s1.readSpots 1 ps with
        | .ok (_, bs) => some (bit (wordAt bs 8) 16)
        | .error _ => none)
      | none => none
    tState.isSup = true ∧ CtxOn (at_ []) false 0 ∧ (at_ []).me.links = [] ∧ (tLinks 1).me.links ≠ []
      ∧ (spots (at_ []) .write).isSome = true ∧ (spots (at1 tState 0x3000_0000_0000_0000) .read).isSome = false
      ∧ img [(0x1000A, 1)] = some true ∧ bit (wordAt [] 8) 16 = false
      ∧ (match linksOf [] with | .ok l => l.length | .error _ => 1) = 0 ∧ (match linksOf [17] with | .ok _ => 0 | .error k => k) = 16 := by
  unfold CtxOn; decide +kernel
/-- A context of a region with a save area at 0x10000, a trap active or not, and the traps its configuration handles. -/
def tTraps (active : Bool) (cfg : Word) : State :=
  let s := ((tVa []).modSlot 0 0 fun r => { r with hdr := vput r.hdr 12 0x10000, trapcfg := cfg }).modCtx 0 0 0 fun c =>
    { c with hart := { c.hart with cause := { c.hart.cause with active := active } } }
  { s with mem := tWide }
theorem witness_TrapEntry :
    let busy := tCore.modCore 0 fun c => { c with hart := { c.hart with cause := { c.hart.cause with active := true } } }
    GuardOn tCore false 0 ∧ tCore.cur = .core 0 ∧ tCore.hart.cause.active = false ∧ GuardOn busy false 0 ∧ busy.hart.cause.active = true
      ∧ GuardOn (tTraps false 0xC00_0000) false 0 ∧ (tTraps false 0xC00_0000).cur = .ctx 0 0 0
      ∧ (tTraps false 0xC00_0000).regionAt 0 0 = some 0 ∧ (tTraps false 0xC00_0000).hart.cause.active = false
      ∧ bit ((tTraps false 0xC00_0000).slot 0 0).trapcfg (16 + 10) = true ∧ bit ((tTraps false 0xC00_0000).slot 0 0).trapcfg (16 + 11) = true
      ∧ ((tTraps false 0xC00_0000).areaWriteSome 0 0 (((tTraps false 0xC00_0000).slot 0 0).area 0 0 + 12288)
          (chainBlock (tTraps false 0xC00_0000).me.links (tTraps false 0xC00_0000).me.cut)).2 = true
      ∧ bit ((tTraps false 0).slot 0 0).trapcfg (16 + 10) = false ∧ bit ((tTraps false 0).slot 0 0).trapcfg (16 + 11) = false := by
  unfold GuardOn; decide +kernel
theorem witness_TrapReturn :
    let busy := tCore.modCore 0 fun c => { c with hart := { c.hart with cause := { c.hart.cause with active := true } } }
    let s := tTraps true 0
    let l := s.modMe fun c => { c with links := [tLink] }
    GuardOn tState false 0 ∧ tState.hart.cause.active = false ∧ GuardOn busy false 0 ∧ busy.cur = .core 0 ∧ busy.hart.cause.active = true
      ∧ l.onCore = false ∧ l.hart.cause.active = true ∧ l.me.links ≠ []
      ∧ GuardOn s false 0 ∧ s.cur = .ctx 0 0 0 ∧ s.hart.cause.active = true ∧ s.me.links = [] ∧ s.regionAt 0 0 = some 0
      ∧ (match s.areaRead 0 0 ((s.slot 0 0).area 0 0 + 12288) 12288 with
         | some blk => (match linksOf blk with | .ok _ => true | .error _ => false) | none => false) = true := by
  unfold GuardOn; decide +kernel
/-- A chain block whose first link's word is NOP's, which is no chain instruction (R272). -/
theorem witness_TrapReturn_chain :
    let s := { tTraps true 0 with mem := tWide.put (0x10000 + 12288) [1] }
    (match s.areaRead 0 0 ((s.slot 0 0).area 0 0 + 12288) 12288 with
     | some blk => (match linksOf blk with | .ok _ => false | .error _ => true) | none => false) = true := by decide +kernel
theorem witness_IllegalAndPrivileged : tCore.onCore = true ∧ ({ fS 1 2 3 0 with gs := 7 } : SFmt).gs ≠ 0
    ∧ ({ fB 1 2 0 0 0 with gs := 1 } : BFmt).gs ≠ 0
    ∧ ({ fC 1 2 0 0 0 with gs := 1 } : CFmt).gs ≠ 0 ∧ tApp.isSup = false := by decide

/-! The machine as a whole. -/

/-- The script lets context 0 issue at 0x10000; the word there decodes, and does not. -/
def tIssues (w : Word) : State := { (tVa [w]).setPc 0x10000 with script := [.issue (.ctx 0 0 0)] }
theorem witness_StepRunsTheDecodedInstruction_issue :
    let s := tIssues 0x4603_10A0_0000_0010
    let u : State := { s.tick with script := [] }
    let v := ({ u with cur := .ctx 0 0 0 }).modHartOf (.ctx 0 0 0) fun h => { h with issue := u.steps, nissue := h.nissue + 1 }
    s.script = .issue (.ctx 0 0 0) :: [] ∧ v.pc.toNat / 2 ^ 60 = 0
      ∧ v.check v.req v.pc.toNat 8 .fetch = .ok { key := 0x10000, mt := 1 } ∧ v.poisoned { key := 0x10000, mt := 1 } = false := by decide +kernel
theorem witness_StepRunsTheDecodedInstruction_ready :
    ({ (tIssues 0).tick with script := [] } : State).canIssue (.ctx 0 0 0) = true := by decide +kernel
theorem witness_StepRunsTheDecodedInstruction_watchdog :
    let u : State := { (tIssues 0).tick with script := [] }
    let x := (u.modSlot 0 0 fun r => { r with wdog := 1 }).modSys fun y => { y with clock := 1000 }
    u.overdue (.ctx 0 0 0) = false ∧ x.overdue (.ctx 0 0 0) = true ∧ x.canIssue (.ctx 0 0 0) = true := by decide +kernel
theorem witness_StepRunsTheDecodedInstruction_words :
    decodeWord 0x4603_10A0_0000_0010 = .ok (.ldd (fS 6 4 5 16)) ∧ ∃ e, decodeWord (BitVec.allOnes 64) = .error e :=
  ⟨by rfl, _, rfl⟩
theorem witness_StepRunsTheDecodedInstruction_event :
    let p : Pending := { due := 9, ev := .scanVisit, arg := .dieRef { die := 3 } }
    let s : State := { tState with agenda := [p], script := [.event 0], sys := { tState.sys with on := true } }
    let u : State := { s.tick with script := [] }
    s.script = .event 0 :: [] ∧ u.agenda[0]? = some p ∧ p.ev.isEvent = true ∧ p.arg.wf = true ∧ u.takes p.ev p.arg = true :=
  by decide +kernel
theorem witness_DecodeEncodeAgree : (Instr.ldd (fS 6 4 5 16)).wf = true ∧ encode (.ldd (fS 6 4 5 16)) = some 0x4603_10A0_0000_0010
    ∧ decodeWord 0x4603_10A0_0000_0010 = .ok (.ldd (fS 6 4 5 16)) := ⟨by decide, by decide, by rfl⟩
theorem witness_MemoryFormKept : (State.reset.mem.wf ∧ ∃ t, step State.reset = .next t)
    ∧ ({ tState with mem := [(0, 1), (2 ^ 41, 0xFF)] } : State).mem.wf :=
  ⟨⟨by decide, _, rfl⟩, by decide⟩

/-! The signal box, regions and units. -/

/-- Die 0 with a walker that holds a record of a kind for a slot or entry. -/
def tRecord (kind i : Word) (ws : List Word) : State :=
  { (tVa ws).modBox 0 fun b => { b with walkers := [(0, { Walker.init with
      st := .run, record := vput (vput zero8 0 (kind + i * 0x10000)) 1 0x10000 })] } with arg := .dieRef { die := 0 } }
/-- Slot 2 in a state, owned by a walker or not. -/
def tSlot2 (s : State) (st : RState) (o : Option Nat) : State := s.modSlot 0 2 fun r => { r with
  state := st, owner := o, hdr := vput r.hdr 0 0x2000 }
theorem witness_SignalBoxResults_take :
    let r : Vector Word 8 := vput zero8 0 1
    let s : State := { (tVa [1]).modBox 0 fun b => { b with sbbase := 1 } with
      arg := .dieRef { die := 0 }, sys := { (tVa []).sys with boot := { (tVa []).sys.boot with step := 5 } } }
    let b := s.modQueue 0 0 fun q => { q with ok := true, berth := [r] }
    let k := s.modQueue 0 0 fun q => { q with ok := true, ring := 0x10000, lsize := 4, tail := 1 }
    s.arg = .dieRef { die := 0 } ∧ 5 ≤ s.sys.boot.step ∧ s.idleWalker 0 = some 0 ∧ recKind r ≠ 0 ∧ s.recBad 0 r = false
      ∧ b.bestQueue 0 = some (0, .berth r) ∧ k.bestQueue 0 = some (0, .ring (some r)) := by decide +kernel
/-- A GRAPH record in a berth and on a ring, whose walk begins with END. -/
theorem witness_SignalBoxResults_graph :
    let r : Vector Word 8 := vput zero8 1 0x10040
    let s : State := { (tVa [0, 0x10040]).modBox 0 fun b => { b with sbbase := 0x20001 } with
      arg := .dieRef { die := 0 }, sys := { (tVa []).sys with boot := { (tVa []).sys.boot with step := 5 } } }
    let b := s.modQueue 0 0 fun q => { q with ok := true, berth := [r] }
    let k := s.modQueue 0 0 fun q => { q with ok := true, ring := 0x10000, lsize := 4, tail := 1 }
    let u := (k.modQueue 0 0 fun q => { q with head := 1, nrun := 1 }).putDesc 0 0 3 1
    s.idleWalker 0 = some 0 ∧ recKind r = 0 ∧ s.recBad 0 r = false ∧ b.idleWalker 0 = some 0 ∧ k.idleWalker 0 = some 0
      ∧ b.bestQueue 0 = some (0, .berth r) ∧ k.bestQueue 0 = some (0, .ring (some r))
      ∧ b.boxWords 0x10040 4 = some (List.replicate 4 0) ∧ u.boxWords 0x10040 4 = some (List.replicate 4 0)
      ∧ nodeEvent (((List.replicate 4 (0 : Word)).getD 0 0).toNat % 16) = some .endNode := by decide +kernel
theorem witness_SignalBoxResults_regions :
    let holds := fun (s : State) (k : Nat) => s.arg = .dieRef { die := 0 } ∧ s.heldRecord 0 k = some 0
    let other := (tSlot2 (tRecord 3 2 []) .armed (some 1)).modWalker 0 1 fun w => { w with st := .run, owns := [2] }
    holds (tRecord 1 0 []) 1 ∧ ((tRecord 1 0 []).slot 0 0).state = .armed ∧ ((tRecord 1 2 []).slot 0 2).state = .empty
      ∧ holds (tSlot2 (tRecord 2 2 []) .preempted none) 2 ∧ ((tSlot2 (tRecord 2 2 []) .preempted none).slot 0 2).state = .preempted
      ∧ (tSlot2 (tRecord 2 2 []) .preempted none).resumeBusy 0 2 = false
      ∧ ((tRecord 2 2 []).slot 0 2).state ≠ .preempted
      ∧ holds (tRecord 3 2 []) 3 ∧ ((tRecord 3 2 []).slot 0 2).owner = none
      ∧ holds other 3 ∧ (other.slot 0 2).owner = some 1 ∧ ((other.box 0).walker 1).ending = none
      ∧ ∀ j ∈ ((other.box 0).walker 1).owns, (other.slot 0 j).state ≠ .frozen := by decide +kernel
theorem witness_SignalBoxResults_entries :
    let holds := fun (s : State) (k : Nat) => s.arg = .dieRef { die := 0 } ∧ s.heldRecord 0 k = some 0
    let with_ := fun (k : Word) (st : ScState) => (tRecord k 0 []).modStc 0 0 fun e => { e with state := st }
    let is := fun (k : Word) (st : ScState) => holds (with_ k st) k.toNat ∧ (((with_ k st).box 0).entry 0).state = st
      ∧ (((with_ k st).box 0).entry 0).holds = 0 ∧ (((with_ k st).box 0).entry 0).want = false ∧ (((with_ k st).box 0).walker 0).holds = []
    is 4 .free ∧ is 4 .evicted ∧ is 5 .free ∧ is 5 .restoring ∧ is 5 .evicted ∧ is 5 .resident := by decide +kernel
/-- A timetable image that is well formed, with its record at 0x10040, one that is not, and a QUERY whose result can be stored. -/
theorem witness_SignalBoxResults_timetable :
    let good : List Word := [0, 10000, 0x10040, 0, 0, 0, 0, 0]
    let bad : List Word := [0, 9999, 0x10040, 0, 0, 0, 0, 0]
    let s := tRecord 6 0 (good ++ List.replicate 8 0)
    s.heldRecord 0 6 = some 0 ∧ s.boxWords 0x10000 8 = some good ∧ ttOk good = true
      ∧ s.boxWords 0x10040 8 = some (List.replicate 8 0) ∧ recKind (recordOf (List.replicate 8 0)) = 0
      ∧ s.recBad 0 (recordOf (List.replicate 8 0)) = false
      ∧ (tRecord 6 0 bad).boxWords 0x10000 8 = some bad ∧ ttOk bad = false
      ∧ (tRecord 7 0 []).heldRecord 0 7 = some 0
      ∧ ((tRecord 7 0 []).writeVa (tRecord 7 0 []).sys.svptbr true 0x10000 (List.replicate 64 0)).isSome = true := by decide +kernel
/-- A tail word, its queue enabled: level with the head, a whole ring ahead, and one further; an entry that is due, able to fire
and not. -/
theorem witness_SignalBoxResults_stores :
    let q := fun (tail head : Nat) => ({ (tVa [0, 0, BitVec.ofNat 64 tail]).modBox 0 fun b => { b with sbbase := 0x10001, queues := [(0,
      { Queue.init with ok := true, lsize := 4, head := BitVec.ofNat 64 head })] } with
      arg := .dieIdx { die := 0, i := 0 } } : State)
    let tail := fun (s : State) => match s.boxWords 0x10010 1 with | some ws => (ws.headD 0).toNat | none => 0
    let e := fun (locked : Bool) => ({ (q 0 0).modBox 0 fun b => { b with ttab := [(0, { TTEntry.init with en := true })] } with
      sys := { (q 0 0).sys with ptp := { (q 0 0).sys.ptp with everLocked := locked } } } : State)
    tState.qEnabled 0 0 = false ∧ ((q 5 5).box 0).sbbase.toNat / 2 ^ 12 % 2 ^ 45 * 4096 + 64 * 0 + 16 = 0x10010
      ∧ (q 5 5).qEnabled 0 0 = true ∧ tail (q 5 5) = 5
      ∧ tail (q 21 5) - 5 ≤ 2 ^ 4 ∧ 2 ^ 4 < tail (q 22 5) - 5 ∧ tail (q 4 5) < 5
      ∧ (e true).firstFire 0 = some 0 ∧ (e false).firstFire 0 = some 0 ∧ ¬(0 : Nat) = 1
      ∧ (((e true).box 0).tt 0).en = true ∧ (((e true).box 0).tt 0).next.toNat ≤ (e true).sys.time.toNat
      ∧ (((e true).box 0).queue 0).berth.length < 4 ∧ (e true).qEnabled 0 0 = true ∧ (e true).sys.ptp.everLocked = true
      ∧ (((e false).box 0).tt 0).en = true ∧ ¬(e false).sys.ptp.everLocked = true := by decide +kernel

/-- Die 0 with walker 0 at a node, on slot 2 in a state. -/
def tNode (st : RState) (f : Walker → Walker) (ws : List Word) (w0 w1 w2 w3 : Word) : State :=
  { (tSlot2 (tVa ws) st none).modBox 0 fun b => { b with walkers := [(0, f { Walker.init with
      st := .run, words := vput (vput (vput (vput zero4 0 w0) 1 w1) 2 w2) 3 w3 })] } with arg := .dieIdx { die := 0, i := 0 } }
/-- Whether the walker stands at a node of an op that keeps its limits, and one that does not. -/
def tStands (s : State) (op : Nat) (good : Bool) : Bool :=
  let k := (s.box 0).walker 0
  k.st != .idle && k.ending.isNone && recKind k.record == 0 && (k.nw 0).toNat % 16 == op && nodeOk k == good
/-- A node of each op that keeps its limits, and of each op with a bit that is not its own; a slot of another walk. -/
theorem witness_NodeResults_limits :
    (∀ op, op < 8 → tStands (tNode .loaded id [] (BitVec.ofNat 64 (op + if op = 0 ∨ 4 ≤ op ∧ op ≤ 6 then 0 else 0x200)) 0 0 0) op true = true)
      ∧ (∀ op, op < 8 → tStands (tNode .loaded id [] (BitVec.ofNat 64 (op + 0x10)) 0 0 0) op false = true)
      ∧ ((tSlot2 (tNode .loaded id [] 0x203 0 0 0) .armed (some 1)).slot 0 2).owner = some 1
      ∧ ((tNode .loaded id [] 0x203 0 0 0).slot 0 2).owner = none := by decide +kernel
/-- END once its regions have drained; an ARM that begins, is busy, and is done; WAIT reached and not; an expired deadline. -/
theorem witness_NodeResults_arms :
    let busy := (tNode .loaded id [] 0x202 0 0 0).modSlot 0 3 fun r => { r with state := .armed, hdr := vput r.hdr 0 0x2000 }
    let wait := fun (target : Nat) => (tNode .armed id [] 0x10203 0 0 0).modSlot 0 2 fun r => { r with target := target }
    let late := fun (clock : Nat) => (tNode .armed (fun w => { w with st := .count 2, deadline := some 7 }) [] 0x10203 0 0 0).modSys fun y =>
      { y with clock := clock }
    (∀ j ∈ (((tNode .loaded (fun w => { w with arms := [2] }) [] 0 0 0 0).box 0).walker 0).arms,
        ((tNode .loaded (fun w => { w with arms := [2] }) [] 0 0 0 0).slot 0 j).state = .loaded)
      ∧ ((tNode .loaded id [] 0x202 0 0 0).own 0 0 2 false).armBusy 0 2 = false
      ∧ (match ((tNode .loaded id [] 0x202 0 0 0).own 0 0 2 false).armBlocks 0 2 (others 2) with | .ok _ => true | .error _ => false) = true
      ∧ (busy.own 0 0 2 false).armBusy 0 2 = true ∧ (busy.slot 0 2).state = .loaded
      ∧ (((tNode .armed (fun w => { w with begun := true }) [] 0x202 0 0 0).box 0).walker 0).begun = true
      ∧ ((tNode .armed (fun w => { w with begun := true }) [] 0x202 0 0 0).slot 0 2).state = .armed
      ∧ (0x10203 : Word).toNat / 2 ^ 16 % 2 ^ 32 ≠ 0 ∧ ((wait 0).slot 0 2).target ≤ ((wait 0).slot 0 2).count
      ∧ ((wait 1).slot 0 2).count < ((wait 1).slot 0 2).target
      ∧ (((late 7).box 0).walker 0).st = .count 2 ∧ (((late 7).box 0).walker 0).deadline = some 7 ∧ 7 ≤ (late 7).sys.clock
      ∧ (late 6).sys.clock < 7 := by decide +kernel
/-- A boot walk on a slot that is not its own, not EMPTY; an ARM of an ARMED region with invocations and without; a SIGNAL while a command
of an invocation that has ended copies (R66, R100, R457). -/
theorem witness_NodeResults_waits :
    let boot := tNode .loaded (fun w => { w with boot := true }) [] 0x201 0x10000 0 0
    let armed := fun (live : Bool) => (tNode .armed id [] 0x202 0 0 0).modTile 0 2 fun t => { t with ctxs := [(0, { tCtx with live := live })] }
    let copies := (tNode .loaded (fun w => { w with arms := [2] }) [] 5 0x10000 7 0).modTile 0 2 fun t => { t with chans := [(0,
      { Chan.init with state := .running, slot := 2, inv := 9 })] }
    ((boot.box 0).walker 0).boot = true ∧ (boot.slot 0 2).state ≠ .empty ∧ 2 ∉ ((boot.box 0).walker 0).owns
      ∧ ((armed true).own 0 0 2 false).liveCtxs 0 2 ≠ [] ∧ ((armed false).own 0 0 2 false).liveCtxs 0 2 = []
      ∧ ((armed true).slot 0 2).state = .armed ∧ (((armed true).box 0).walker 0).begun = false
      ∧ copies.copiesLeft 0 ((copies.box 0).walker 0).arms = true
      ∧ (tNode .loaded id [] 5 0x10000 7 0).copiesLeft 0 (((tNode .loaded id [] 5 0x10000 7 0).box 0).walker 0).arms = false := by decide +kernel
/-- A write under a root that translates nothing is not whole. -/
theorem writeSome_untranslated (s : State) (root : Word) (sup : Bool) (va : Nat) (bs : List Byte) (h : bit root 0 = false) (hb : bs.length ≠ 0) :
    (s.writeSome root sup va bs).2 = false := by
  have hp : ∀ x, s.placeAt root sup .write x = none := fun x => by simp [State.placeAt, State.translate, h]
  have hn : pieces va bs.length ≠ [] := by
    simp only [pieces, beq_iff_eq, hb, if_false]; intro h; simpa using congrArg List.length h
  obtain ⟨e, r, he⟩ := List.exists_cons_of_ne_nil hn
  simp [State.writeSome, he, hp]
theorem blockBytes_length (s : State) (d t : Nat) : (s.blockBytes d t).length ≠ 0 := by
  have h : ∀ n, n ≠ 0 → (s.mem.bytes (scratchKey d t 0) n ++ (s.tile d t).blockTail).length ≠ 0 := fun n h => by
    simp only [List.length_append, Memory.bytes, List.length_map, List.length_range]; omega
  exact h _ (Nat.succ_ne_zero _)
/-- An ARM's blocks for a PREEMPTED region whose save area no page maps: the first cannot be written. -/
theorem armWrites_fault (s : State) (d i j t : Nat) (r l : List Nat) (hp : (s.slot d j).state = .preempted) (hr : bit (s.slot d j).ptbr 0 = false)
    (ht : (s.slot d j).computeTiles.filter (fun t => (s.slot d i).inRect t && !(s.slot d j).blocks.contains t) = t :: l) :
    ∃ s1, s.armWrites d i (j :: r) = .error s1 := by
  have hb : (s.writeBlock d j t).2 = false := by
    have e : (s.writeBlock d j t).2 = (s.areaWriteSome d j ((s.slot d j).blockVa t) (s.blockBytes d t)).2 := by simp only [State.writeBlock]
    have h : (s.areaWriteSome d j ((s.slot d j).blockVa t) (s.blockBytes d t)).2 = false := by
      unfold State.areaWriteSome; exact writeSome_untranslated _ _ _ _ _ hr (blockBytes_length s d t)
    rw [e]; exact h
  have hw : s.writeBlocks d j (t :: l) = .error (s.writeBlock d j t).1 := by
    rw [State.writeBlocks]; simp only [hb, Bool.false_eq_true, if_false]
  refine ⟨(s.writeBlock d j t).1, ?_⟩
  rw [State.armWrites]; simp only [hp, ht, hw, bne_self_eq_false, Bool.false_eq_true, if_false]
theorem armBlocks_fault (s : State) (d i : Nat) (js : List Nat) (h : ∃ s1, s.armWrites d i js = .error s1) :
    ∃ s1, s.armBlocks d i js = .error s1 := by
  obtain ⟨s1, h⟩ := h; exact ⟨_, by rw [State.armBlocks, h]⟩
theorem witness_NodeResults_armFault :
    let s := ((tNode .loaded id [] 0x202 0 0 0).modSlot 0 3 fun r => { r with state := .preempted, hdr := vput r.hdr 0 0x2000 }).own 0 0 2 false
    s.armBusy 0 2 = false ∧ ∃ s1, s.armBlocks 0 2 (others 2) = .error s1 := by
  refine ⟨by decide +kernel, armBlocks_fault _ _ _ _ ?_⟩
  rw [show others 2 = 0 :: 1 :: 3 :: (List.range 12).map (· + 4) by decide, State.armWrites, if_pos (by decide +kernel), State.armWrites,
    if_pos (by decide +kernel)]
  exact armWrites_fault _ 0 2 3 2 _ [] (by decide +kernel) (by decide +kernel) (by decide +kernel)
/-- CFG of a record that loads, of one that does not, and of a slot that makes it wait. -/
theorem witness_NodeResults_cfg :
    let rcd : List Word := [0x0310_2000, 0, 0x10180, 1, 0, 0, 0x808080, 1] ++ List.replicate 40 0 ++ [1, 2]
    let ld := fun (st : RState) (ws : List Word) =>
      match ((tNode st id ws 0x201 0x10000 0 0).own 0 0 2 false).loadConfig 0 2 0x10000 false with | .ok _ => 0 | .status n => n | .wait => 1
    ld .loaded rcd = 0 ∧ ld .loaded [] = 2 ∧ ld .draining rcd = 1 := by decide +kernel
/-- REPEAT below its count, at it, and a fifth; SIGNAL's two forms; SCT of a RESIDENT entry and of one being restored; DRAIN. -/
theorem witness_NodeResults_others :
    let rep := fun (l : List (Nat × Nat)) => ((tNode .loaded (fun w => { w with node := 9, reps := l }) [] 0x2_0000_0004 0 0 0).box 0).walker 0
    let sct := fun (st : ScState) => (tNode .loaded id [] 0x1_0000_0006 0 0 0).modBox 0 fun b =>
      { b with stccfg := 0x1000_0101, stc := [(0, { Stc.init with state := st })] }
    nodeOk (rep []) = true ∧ (0x2_0000_0004 : Word).toNat / 2 ^ 16 % 4096 < (rep []).node ∧ (0x2_0000_0004 : Word).toNat / 2 ^ 32 = 2
      ∧ (((rep [(9, 1)]).reps.find? fun e => e.1 == 9).map (·.2)) = some 1 ∧ (((rep [(9, 2)]).reps.find? fun e => e.1 == 9).map (·.2)) = some 2
      ∧ ((rep [(1, 1), (2, 1), (3, 1), (4, 1)]).reps.filter fun e => e.1 != 9).length = 4
      ∧ nodeOk (((tNode .loaded id [] 5 0x10000 7 0).box 0).walker 0) = true ∧ nodeOk (((tNode .loaded id [] 0x10005 0x10000 7 0).box 0).walker 0) = true
      ∧ ((tNode .loaded id [] 5 0x10000 7 0).boxStore 0x10000 7).isSome = true
      ∧ (tNode .loaded id [4] 0x10005 0x10000 7 0).boxWords 0x10000 1 = some [4]
      ∧ nodeOk (((sct .resident).box 0).walker 0) = true ∧ (sct .resident).stcEn 0 = true ∧ 0 + 1 ≤ (sct .resident).stcNent 0 + 1
      ∧ (∀ j, j < 1 → ((((sct .resident).sctTouch 0 0 0 false false 1).1.box 0).entry (0 + j)).state = .resident)
      ∧ ((sct .resident).sctTouch 0 0 0 false false 1).2 = [.resident] ∧ ((sct .restoring).sctTouch 0 0 0 false false 1).2 = [.wait]
      ∧ ((tNode .loaded id [] 0x207 0 0 0).slot 0 2).state = .loaded ∧ ((tNode .armed id [] 0x207 0 0 0).slot 0 2).state = .armed := by
  decide +kernel

/-- Die 0 with slot 0 changed and an operand. -/
def tRegion (a : Arg) (f : Slot → Slot) : State := { tState.modSlot 0 0 f with arg := a }
theorem witness_RegionEventResults :
    let named : Arg := .dieIdx { die := 0, i := 0 }
    let st := fun (x : RState) => (tRegion named fun r => { r with state := x }).slot 0 0
    let fire := { tTile fun t => { t with trg := vput t.trg 30 0x1_0000 } with arg := Arg.tileRef { die := 0, tile := 0 } }
    let u := fire.trimQueues 0 0 0
    let frozen := (tRegion (.slotVal { die := 0, slot := 0, v := 0x8000_0000_0000_0000 }) fun r => { r with
      state := .frozen, trapinfo := 0x8000_0000_0000_0000 }).slot 0 0
    fire.arg = .tileRef { die := 0, tile := 0 } ∧ fire.regionAt 0 0 = some 0 ∧ (fire.slot 0 0).state = .armed ∧ (fire.slot 0 0).rearm = false
      ∧ (u.tile 0 0).order ((List.range 16).filter (u.tile 0 0).readyGuard) = [15] ∧ (u.tile 0 0).freeCtx = some 1
      ∧ (st .arming).state = .arming ∧ (st .arming).forced = false ∧ (st .arming).resuming = false ∧ (st .arming).siding = []
      ∧ ((tRegion named fun r => { r with state := .arming, forced := true }).slot 0 0).forced = true
      ∧ (st .draining).state = .draining
      ∧ ({ tRegion named (fun r => { r with state := .draining }) with tiles := [] } : State).liveCtxs 0 0 = []
      ∧ (tRegion named fun r => { r with state := .draining }).liveCtxs 0 0 ≠ []
      ∧ (let u := (tRegion named fun r => { r with state := .draining }).finishMatrix 0 0; u.matrixLeft 0 0 = false)
      ∧ (let s := (tRegion named fun r => { r with state := .quiescing })
         let left := s.modTile 0 0 fun t => { t with mq := [{ tMatOp .push with push := some {
           kb := false, ape := 0, cfg := (tPort 0 0x80_0010 0x400_0000).portApe 0 |>.cfg, typ := 0, pos := 0, pm := false, gone := false
           skip := 0 } }] }
         let far := { (s.modCtx 0 0 0 fun c => { c with hart := { c.hart with wait := .remote 4 } }) with
           net := { s.net with asked := [{ u := { kind := .access, die := 0, tile := 0, i := 0 }, tag := 0, m := 1, va := 8, op := .read, id := 4 }] } }
         let ended := fun (s : State) => (((s.abandonUnsent 0 0).finishMatrix 0 0).finishPushes 0 0).abandonUnsent 0 0
         (ended s).replyLeft 0 0 = false ∧ (ended far).replyLeft 0 0 = true
           ∧ (s.finishMatrix 0 0).matrixLeft 0 0 = false ∧ (s.finishMatrix 0 0).replyLeft 0 0 = false
           ∧ (left.finishMatrix 0 0).matrixLeft 0 0 = true ∧ (left.finishMatrix 0 0).replyLeft 0 0 = false
           ∧ (left.slot 0 0).forced = false)
      ∧ (st .quiescing).state = .quiescing ∧ (st .saving).state = .saving ∧ (st .restoring).state = .restoring
      ∧ (st .restoring).blocks = [] ∧ (st .restoring).saved = []
      ∧ bit (0x8000_0000_0000_0000 : Word) 63 = true ∧ bit frozen.trapinfo 63 = true ∧ frozen.state = .frozen
      ∧ frozen.sfault ≠ .saving ∧ frozen.freezing = false := by decide +kernel
/-- A unit that withholds at a page that does not translate, and at one that does now; its time not up and up. -/
theorem witness_UnitEventResults_withheld :
    let u : UnitRef := { kind := .ape, die := 0, tile := 0, i := 15 }
    let w := fun (va clock : Nat) => ({ (tVa []).modSys fun y => { y with clock := clock } with
      arg := .unitRef u, withheld := [{ u := u, slot := 0, va := va, acc := .read, level := 4, code := 1, since := 0, next := 7, pos := none }] } : State)
    (w 0 6).sys.clock < 7 ∧ 7 ≤ (w 0 7).sys.clock ∧ (w 0 0).arg = .unitRef u ∧ ((w 0 0).withheld.find? fun x => x.u == u).isSome = true
      ∧ (match (w 0 0).translate 1 false .read 0 with | .error _ => true | .ok _ => false) = true
      ∧ (match (w 0x10000 0).translate 1 false .read 0x10000 with | .error _ => false | .ok _ => true) = true
      ∧ ((w 0 0).slot 0 0).ptbr = 1 ∧ ((w 0 0).slot 0 0).state = .armed ∧ ((w 0 0).slot 0 0).boot = false
      ∧ ((w 0 0).slot 0 0).freezing = false ∧ 0 + ((w 0 20000).slot 0 0).tw ≤ (w 0 20000).sys.clock
      ∧ (w 0 19999).sys.clock < 0 + ((w 0 19999).slot 0 0).tw := by decide +kernel
/-- A watchdog of a core and of a context whose limit of 1 us has passed; a generator that feeds APE 3 of tile 0, and a malformed
one. -/
theorem witness_UnitEventResults_others :
    let core := { (tCore.modCore 0 fun c => { c with wlim := 1 }).modSys fun y => { y with clock := 1000 } with
      arg := Arg.agentRef { a := .core 0 } }
    let ctx := { (tState.modSlot 0 0 fun r => { r with wdog := 1 }).modSys fun y => { y with clock := 1000 } with
      arg := Arg.agentRef { a := .ctx 0 0 0 } }
    let gen := fun (w0 : Word) => { ((tState.modSlot 0 0 fun r => { r with hdr := vput r.hdr 0 0x10_0000 }).modTile 0 0 fun t =>
        { t with apes := [(3, { Ape.init with cfg := vput Ape.init.cfg 1 0x80_1040 })] }).modDepot 0 0 fun p =>
        { p with pend := 1, gens := [(0, { Gen.init with on := true, record := vput (vput zero8 0 w0) 6 1 })] } with
      arg := Arg.dieIdx2 { die := 0, depot := 0, gen := 0 } }
    let g := fun (w0 : Word) => ((gen w0).depot 0 0).gens.get 0 .init
    core.arg = .agentRef { a := .core 0 } ∧ (core.core 0).running = true ∧ (core.core 0).wlim ≠ 0 ∧ (core.core 0).wdone = false
      ∧ (core.core 0).wstart + 1000 * (core.core 0).wlim ≤ core.sys.clock ∧ (core.core 0).hart.cause.active = false
      ∧ ctx.regionAt 0 0 = some 0 ∧ (ctx.ctx 0 0 0).live = true ∧ (ctx.ctx 0 0 0).wdogDone = false ∧ (ctx.slot 0 0).wdog ≠ 0
      ∧ (ctx.ctx 0 0 0).fired + 1000 * (ctx.slot 0 0).wdog ≤ (ctx.slot 0 0).active ctx.sys.clock ∧ (ctx.slot 0 0).state = .armed
      ∧ ((gen 0x318).slot 0 0).state = .armed ∧ (gen 0x318).pinned 0 0x10000 = false
      ∧ (gen 0x318).regionAt 0 (depotTile 0) = some 0 ∧ (g 0x318).on = true ∧ (g 0x318).bad = false
      ∧ (gen 0x318).genTarget 0 0 0 (g 0x318) = some 0 ∧ (gen 0x318).genMatches 0 0 0 0 (g 0x318) = true
      ∧ (g 0x31C).on = true ∧ (g 0x31C).bad = true := by decide +kernel
/-- A coach on row loop 0 of die 0 at a stop, on its way to another, with a stop code. -/
def tTransit (stop exit : Nat) (code : Word) (c : Coach) : Transit :=
  { id := 7, coach := c, loop := .row 0 0, stop := stop, up := true, exit := exit, code := code, tried := false, passed := none,
    turned := none, linked := false, plane := some (0, 0) }
/-- The coach on the package loop at the stop of junction 0 of die 0. -/
def tJunction (code : Word) (c : Coach) : Transit := { tTransit 0 0 code c with loop := .package }
/-- Die 0 with coaches under way, coach 7 the operand. -/
def tTravels (l : List Transit) : State := { tState with transit := l, arg := .idxRef { i := 7 } }
/-- Coach 7 at its stop, whose action is to be taken (R174, R180). -/
def tAt (s : State) (x : Transit) (act : Nat) : Bool :=
  s.transit.find? (fun t => t.id == 7) == some x && x.id == 7 && x.stop == x.exit && !x.tried && codeAct x.code == act
    && s.atStop (hereOf x.loop x.stop) x.code && !s.blocked x
/-- A coach of one query. -/
def tWhole : Coach := tCoach 0x8000 0 0 0x40_0000
theorem witness_CoachEventResults_tile :
    let x := tTransit 0 1 0 tWhole
    let other := fun (n : Nat) => ({ tTransit 1 5 0 tWhole with id := n } : Transit)
    let y := tTransit 1 1 0 tWhole
    let full := (tTravels [y]).modTile 0 0 fun t => { t with arr := vput t.arr 0 (List.replicate 2 { tWhole with pay := List.replicate 16384 0, hdr := vput tWhole.hdr 4 0x4000_0000 }) }
    let ctl := tTransit 1 1 0 { tWhole with hdr := vput (vput tWhole.hdr 0 0x800F) 5 1 }
    ((tTravels [x]).transit.find? fun t => t.id == 7) = some x ∧ x.loop ≠ .pod ∧ x.stop ≠ x.exit ∧ (tTravels [x]).berthed (.row 0 0) 1 true < 2
      ∧ 2 ≤ (tTravels [x, other 8, other 9]).berthed (.row 0 0) 1 true ∧ x.id < 2 ^ 32 ∧ x.coach.hbad = false
      ∧ (tTravels [x]).first x = true ∧ (tTravels [{ x with id := 8 }, x]).first x = false
      ∧ ({ x with coach := { x.coach with hbad := true } } : Transit).coach.hbad = true
      ∧ tAt (tTravels [y]) y 0 = true ∧ hereOf y.loop y.stop = .tile 0 0 ∧ codeTee y.code = false
      ∧ (tTravels [y]).admission 0 0 y.coach = .queue 0 ∧ (tTravels [y]).queueRoom 0 0 0 y.coach = true
      ∧ ({ tTravels [y] with slots := [] } : State).admission 0 0 y.coach = .noreg
      ∧ full.queueRoom 0 0 0 y.coach = false ∧ tAt (tTravels [ctl]) ctl 0 = true
      ∧ (tTravels [ctl]).admission 0 0 ctl.coach = .control 0 := by decide +kernel
/-- A coach that waits. -/
def tWait : JWait := { coach := tWhole, deadline := 0, plane := none }
/-- A part that came early at a merge unit with room and without; a contribution that joins its slot; a slot past its deadline; a
siding whose coach finds a slot, and none of the 64. -/
theorem witness_CoachEventResults_junction :
    let h0 : Word := 0x20_8000
    let m := tJunction 0x10_2000 { tWhole with hdr := vput tWhole.hdr 0 h0 }
    let unit := fun (n : Nat) => ({
      mid := 0, iter := 0, part := 1, np := 2, held := List.replicate n { coach := tWhole, code := 0, plane := none } } : MergeUnit)
    let at_ := fun (n : Nat) => (tTravels [m]).modJunc 0 fun j => { j with mrg := [unit n] }
    let c : Coach := { tWhole with hdr := vput (vput (vput tWhole.hdr 0 0x800E) 5 0x1_0000) 6 3 }
    let x := tJunction 0x10_1000 c
    let slot : RedSlot := {
      rid := 0, op := 0, n := 64, want := 3, got := 0, deadline := 0, hdr := c.hdr, terms := [], mismatch := false, closing := false
      plane := none }
    let s := (tTravels [x]).modJunc 0 fun j => { j with red := [slot] }
    let side := fun (n : Nat) => ({ tState.modJunc 0 fun j => { j with side := [tWait], red := List.replicate n { slot with rid := 1 } } with
      arg := .idxRef { i := 0 } } : State)
    tAt (at_ 31) m 2 = true ∧ (hereOf m.loop m.stop).num = 0 ∧ bit (m.coach.h 0) 21 = true
      ∧ ((at_ 31).junc 0).mrg.find? (fun u => u.mid == bits (m.coach.h 4) 63 48) = some (unit 31)
      ∧ ¬(m.coach.iter = (unit 31).iter ∧ m.coach.partNo = (unit 31).part) ∧ (unit 31).held.length < 32 ∧ 32 ≤ (unit 32).held.length
      ∧ bit ((tJunction 0x10_2000 tWhole).coach.h 0) 21 = false
      ∧ tAt s x 1 = true ∧ x.coach.contributes = true ∧ x.coach.redBad = false ∧ (s.junc 0).slotOf x.coach.redId = some slot
      ∧ slot.closing = false ∧ slot.op = x.coach.redOp ∧ slot.n = x.coach.plen ∧ slot.want = x.coach.h 6 ∧ bit slot.got x.coach.redWho = false
      ∧ slot.got ||| BitVec.ofNat 64 (2 ^ x.coach.redWho) ≠ slot.want ∧ slot.deadline ≤ s.sys.clock ∧ s.sys.clock < ({ slot with deadline := 1 } : RedSlot).deadline
      ∧ (tJunction 0x10_1000 tWhole).coach.contributes = false
      ∧ ((side 63).junc 0).side = [tWait] ∧ ((side 63).takeRed 0 tWait.coach tWait.plane).isSome = true
      ∧ ((side 64).junc 0).side = [tWait] ∧ ((side 64).takeRed 0 tWait.coach tWait.plane).isSome = false := by decide +kernel

/-! The ports, and the module's registers and starts. -/

/-- A connected QP 1 on port 0, with receives, and memory region 0 over the pages 0x10 to 0x13 with every right. -/
def tHost (recv : List (Word × Nat)) (a : Arg) : State :=
  let s := tVa []
  { s with
    net := { s.net with
      ports := [(0, { Port.init with up := true })]
      qps := [(1, { QP.init with conn := true, mtu := 1024, recv := recv })]
      mrs := [(0, { MR.init with used := true, base := 0x10000, len := 0x5000, root := 1, rd := true, wr := true, at_ := true })] }
    arg := a }
/-- Whether a QP is ready. -/
def tReady (s : State) (q : Nat) : Bool := (s.qp q).conn && !(s.qp q).err && (s.portOfNet (s.qp q).port).up
theorem witness_HostOperationResults_cm :
    let s := tHost [] (.cmIn { port := 0, qp := 1, mtu := 4096, timer := 0, dscp := 0 })
    (s.portOfNet 0).up = true ∧ (s.qp 1).conn = true ∧ (s.qp 1).port = 0 ∧ (s.qp 2).conn = false ∧ tReady s 1 = true ∧ tReady s 2 = false
      ∧ seqDiff 0 (s.qp 1).epsn = 0 ∧ 0 < seqDiff 1 (s.qp 1).epsn ∧ seqDiff 0x7FFFFF (s.qp 1).epsn < 2 ^ 23
      ∧ 2 ^ 23 ≤ seqDiff 0x800000 (s.qp 1).epsn ∧ (s.qp 1).nakSent = false ∧ ({ QP.init with nakSent := true } : QP).nakSent = true := by
  decide
/-- A range that the region takes, whose last byte is its last, one a byte longer, one whose page does not translate; a receive. -/
theorem witness_HostOperationResults_requests :
    let b : Word × Nat := (0x10000, 1)
    let s := tHost [b] .noRef
    let put := fun (va n : Nat) => (s.mrOf 0 va n (·.wr)).map fun m => (s.hostWrite (mrRoot m 0) false (pieces va n) (List.replicate n 1)).2
    let get := fun (va n : Nat) => (s.mrOf 0 va n (·.rd)).map fun m => (s.hostRead (mrRoot m 0) false (pieces va n)).2.2
    tReady s 1 = true ∧ put 0x13FFF 1 = some none ∧ put 0x14000 1 = some (some 0x14000) ∧ put 0x14FFF 2 = none
      ∧ (s.qp 1).recv = b :: [] ∧ ((tHost [] .noRef).qp 1).recv = []
      ∧ (s.hostWrite s.sys.svptbr true (pieces 0x10000 1) [1]).2 = none
      ∧ get 0x13FFF 1 = some .done ∧ get 0x14000 1 = some (.fault 0x14000) ∧ get 0x14FFF 2 = none
      ∧ (s.mrOf 0 0x13FF8 8 (·.at_)).isSome = true ∧ 0x13FF8 % 8 = 0 ∧ (s.mrOf 0 0x13FFC 8 (·.at_)).isSome = true ∧ 0x13FFC % 8 ≠ 0
      ∧ (match s.translate (mrRoot ((s.mrOf 0 0x13FF8 8 (·.at_)).getD .init) 0) false .rmw 0x13FF8 with
         | .ok l => l == { page := 0x13000, big := false, mt := 1, u := true, x := true, w := true, r := true, level := 0 } | .error _ => false) = true
      ∧ s.poisoned { key := 0x13FF8, mt := 1 } = false := by decide +kernel
/-- A READ that the firmware posts, on a QP whose priority goes and one whose priority is paused; a pause; answers of the two lengths;
a frame too long on a QP that is not connected. -/
theorem witness_HostOperationResults_pause :
    let s := tHost [] .noRef
    let paused := fun (p : Bool) => ({ s with net := { s.net with ports := [(0, { Port.init with up := true, pfc := some 0, paused := p })] } } : State)
    tReady s 1 = true ∧ s.pausedQp (s.qp 1) = false ∧ tReady (paused true) 1 = true ∧ (paused true).pausedQp ((paused true).qp 1) = true
      ∧ (∀ y ∈ ((paused true).qp 1).posted, y.psn ≠ ((paused true).qp 1).spsn) ∧ ((paused false).portOfNet 0).pfc = some 0
      ∧ ((paused false).portOfNet 0).up = true ∧ (s.qp 1).err = false ∧ 9216 < 9217 ∧ (s.qp 2).conn = false ∧ (s.portOfNet 0).up = true := by
  decide +kernel
/-- A module on the pod loop of two, with loop port 0 up, and a frame from its neighbour. -/
def tLoop (a : Arg) (f : PodLink → PodLink) : State :=
  { tPod with net := { tPod.net with ports := [(4, { Port.init with up := true })], down := f .init }, arg := a }
/-- A frame. -/
def tFrame (type seq ack n : Nat) : FrameIn :=
  { port := 0, fcsOk := true, etype := 0x88B5, w0 := BitVec.ofNat 64 (type + n * 256 + seq * 2 ^ 16 + ack * 2 ^ 40), w1 := 1
    flits := List.replicate n (List.replicate 64 0) }
theorem witness_PodLinkResults_frames :
    let s := tLoop .noRef id
    let g := fun (x : FrameIn) (seq : Nat) => (decide (seqDiff (bits x.w0 63 40) (bits (tFrame 0 seq 0 1).w0 39 16) < 2 ^ 23))
    (s.portOfNet 4).up = true ∧ (tFrame 1 0 0 0).etype.toNat = bits s.sys.podcfg 47 32 ∧ (tFrame 1 0 0 0).etype ≠ 0x88F7
      ∧ bit s.sys.podcfg 31 = true ∧ s.badFrame true (tFrame 3 0 0 0) = true
      ∧ s.badFrame true (tFrame 1 0 0 0) = false ∧ bits (tFrame 1 0 0 0).w0 3 0 = 1
      ∧ s.badFrame true (tFrame 2 0 0 0) = false ∧ bits (tFrame 2 0 0 0).w0 3 0 = 2
      ∧ s.badFrame true (tFrame 0 0 0 64) = false ∧ bits (tFrame 0 0 0 64).w0 3 0 = 0 ∧ (s.net.link true).early = []
      ∧ bits (tFrame 0 0 0 64).w0 39 16 = (s.net.link true).rseq
      ∧ g (tFrame 2 0 5 0) 5 = true ∧ g (tFrame 2 0 5 0) 6 = false ∧ frameSize (tFrame 0 0 0 64) = 4130
      ∧ frameSize (tFrame 0 0 0 65) = 4194 := by decide +kernel
/-- The timers due and not due, the port up. -/
theorem witness_PodLinkResults_timers :
    let s := fun (l : List FrameIn) (clock : Nat) => (tLoop (.dirRef { down := true }) fun x => { x with replay := l, unacked := true }).modSys fun y =>
      { y with clock := clock }
    ((s [] 0).net.link true).unacked = true ∧ (s [] 0).podUp true = true ∧ tPod.podUp true = false ∧ ((s [] 0).net.link false).unacked = false
      ∧ ((s [] 0).net.link true).replay = [] ∧ ((s [tFrame 0 0 0 1] 0).net.link true).replay ≠ []
      ∧ (s [tFrame 0 0 0 1] 19999).sys.clock < ((s [tFrame 0 0 0 1] 0).net.link true).sentAt + 20000
      ∧ ((s [tFrame 0 0 0 1] 0).net.link true).sentAt + 20000 ≤ (s [tFrame 0 0 0 1] 20000).sys.clock
      ∧ ((s [] 0).net.link true).replays < 8 := by decide +kernel
/-- A request of another module for a page that the pod tables translate, and for one they do not; a reply that is awaited; writes of
SYS.PODCFG that are taken and not; ports. -/
theorem witness_PodLinkResults_others :
    let r : RemoteReq := {
      reply := false, src := 1, dst := 0, id := 4, down := true, turned := false, op := .write, va := 0x10000, n := 8, x := 0, y := 0, ok := true, data := List.replicate 8 1, pois := none }
    let s := ((tVa []).modSys fun y => { y with podcfg := 0x000088B580020000, podptbr := 1 })
    let w := { s with net := { s.net with asked := [{ u := { kind := .access, die := 0, tile := 0, i := 0 }, tag := 0, m := 1, va := 8, op := .read, id := 4 }] } }
    bit s.sys.podcfg 31 = true ∧ r.dst = s.module ∧ (s.places s.sys.podptbr false (remoteAcc r.op) (r.va % 2 ^ 48) (max r.n 1)).isSome = true
      ∧ s.places s.sys.podptbr false (remoteAcc r.op) 0 8 = none ∧ bit s.sys.hotcfg 16 = false ∧ 1 ≠ s.module
      ∧ (∃ e ∈ w.net.asked, e.id = r.id) ∧ (∀ g ∈ w.net.got, g.id ≠ r.id)
      ∧ 1 ≤ bits (0x000088B500400000 : Word) 22 16 ∧ bits (0x000088B500400000 : Word) 22 16 ≤ 64 ∧ bit (0x000088B500400000 : Word) 31 = false
      ∧ bits (0x0000000000410000 : Word) 22 16 = 65
      ∧ ((tHost [] .noRef).portOfNet 0).up = true ∧ ((tHost [] .noRef).portOfNet 3).up = false
      ∧ ((tLoop .noRef id).portOfNet 4).up = true := by decide +kernel
theorem witness_PodLinkResults_lastPort :
    ((tLoop .noRef id).portOfNet 4).up = true ∧ ∀ k, k ≠ 4 → 4 ≤ k → ((tLoop .noRef id).portOfNet k).up = false := by
  refine ⟨by decide, fun k h _ => ?_⟩
  show (Tbl.get [(4, ({ Port.init with up := true } : Port))] k .init).up = false
  simp [Tbl.get, Ne.symm h, Port.init]
/-- A Sync on the slave port, and the same on another: 100 ns apart at both ends, 10 ns off. -/
theorem witness_RegisterEventResults_sync :
    let o : PtpIn := { port := 0, domain := 0, transport := 2, twoStep := true, t1 := 0, t2 := 110, t3 := 1000, t4 := 1090 }
    let s := tHost [] (.ptpIn o)
    s.ptpTakes o = true ∧ s.ptpTakes { o with port := 1 } = false ∧ ptpOffset o = 10 := by decide
/-- A lock that is reached at the sixteenth interval, and one that is lost at the fourth; numbers at the ends of their ranges. -/
theorem witness_RegisterEventResults :
    (100 : Int).natAbs = 100 ∧ (-99 : Int).natAbs < 100 ∧ (-1000 : Int).natAbs = 1000 ∧ (2147483647 : Int) ≤ 2147483647
      ∧ bits (0x000C_0000 : Word) 23 16 = 12 ∧ bits (0x7F00 : Word) 15 8 < 128 ∧ ¬bits (0x8000 : Word) 15 8 < 128
      ∧ bits (0x708 : Word) 4 0 = 8 ∧ bits (0x708 : Word) 12 8 = 7 ∧ bits (0x1414 : Word) 4 0 = 20 ∧ bits (0x1414 : Word) 12 8 = 20
      ∧ bits (0x1415 : Word) 4 0 = 21 ∧ bit (0x10 : Word) 4 = true ∧ State.reset.sys.boot.cur ≠ 4
      ∧ (∀ d, (State.reset.box d).walkers = []) ∧ isCompute (0xFF % 256) = true :=
  ⟨by decide, by decide, by decide, by decide, by decide, by decide, by decide, by decide, by decide, by decide, by decide, by decide, by decide,
    by decide, fun _ => rfl, by decide⟩
/-- A boot walk can begin on each die: a walk whose first node is END. -/
theorem witness_RegisterEventResults_walk :
    let s := (tVa [0]).modSys fun y => { y with boot := { y.boot with cur := 4 } }
    bit (0x10013 : Word) 4 = true ∧ s.sys.boot.cur = 4 ∧ bits s.sys.bootwalk 63 60 = 0
      ∧ s.boxWords ((0x10013 : Word) &&& 0x01FFFFFFFFFFFFE0).toNat 4 = some (List.replicate 4 0)
      ∧ nodeEvent (bits ((List.replicate 4 (0 : Word)).getD 0 0) 3 0) ≠ none := by decide +kernel
theorem witness_RegisterEventResults_idle : ∀ d, ((tVa [0]).box d).walkers = [] := fun _ => rfl
/-- An image that is rejected; with a digest, a number and a signature that are accepted, an image is not: the two standards are
functions of the model without a value (entry 15). -/
theorem witness_StartEventResults_reject : State.reset.flash.reject [] = some 4 := by rfl
theorem witness_StartEventResults_verifies (f : Flash) (bs : List Byte) (form : imageForm bs = true)
    (key : f.goodDigests.contains (Config.sha3 (imageKey (trimImage bs))) = true) (svn : f.minSvn ≤ fieldAt (trimImage bs) 8 8)
    (sig : Config.mldsaVerify (imageKey (trimImage bs)) (((trimImage bs).drop 2656).take 4627)
      (Config.sha3 (signedPart (trimImage bs))) = true) :
    f.reject bs = none := by
  simp [Flash.reject, form, sig, Nat.not_lt.mpr svn, List.contains_iff_mem.mp key]
/-- An operand of each start; a preserve table that is well formed and one that is not; the limits of a power sample. -/
theorem witness_StartEventResults_others :
    let o : StartIn := { fuseOk := true, hbmFail := none, repairFail := none, portsDown := [], hold := false, cont := false, resBase := none, fw := none }
    let bad : StartIn := { o with fuseOk := false }
    let stop := State.reset.modSys fun y => { y with power := { y.power with stopped := true } }
    (o.fuseOk = true ∧ o.hbmFail = none ∧ o.repairFail = none ∧ o.portsDown = [] ∧ o.hold = false ∧ o.fw = none
        ∧ State.reset.sys.boot.fw = none ∧ o.cont = false)
      ∧ bad.fuseOk = false ∧ ({ o with hbmFail := some 7 } : StartIn).hbmFail = some 7
      ∧ bit (1 : Word) 0 = true ∧ State.reset.sys.power.stopped = false ∧ stop.sys.power.stopped = true ∧ stop.sys.power.tj < 95
      ∧ bit (0x20 : Word) 5 = true ∧ preserveOk [(4096, 4096)] = true ∧ preserveOk [(4096, 4096), (4096, 4096)] = false
      ∧ (State.reset.modSys fun y => { y with boot := { y.boot with recovery := true } }).sys.boot.recovery = true
      ∧ 2800000 < 2800001 ∧ (∀ t ∈ ([99] : List Int), t < 100) ∧ (∃ t ∈ ([110] : List Int), 110 ≤ t) ∧ (∀ t ∈ ([94, 0, -5, 94] : List Int), t < 95) ∧ ([94, 0, -5, 94] : List Int).length = 4 ∧ ([] : List Int).length ≠ 4
      ∧ State.reset.flash.minSvn < (1 : Word).toNat ∧ (0xFFFF : Word).toNat ≤ 65535 := by decide +kernel
/-- A valid copy of the lifetime records, and a region of 16 pages that each take their part of an image of it. -/
theorem witness_StartEventResults_copy :
    let c : LifeCopy := { seq := 0, valid := true, image := .init }
    let s : State := { tHost [] .noRef with copies := [c] }
    let m : MR := { MR.init with used := true, base := 0x10000, len := 65536, root := 1 }
    let t := { s with mem := tWide }
    s.newestCopy = some c ∧ m.used = true ∧ 65536 ≤ m.len
      ∧ ((List.range 16).all fun i => match t.translate (mrRoot m 0) false .write (0x10000 + 4096 * i) with | .ok _ => true | .error _ => false) = true := by
  decide +kernel

/-! Small tests of single steps. Expected values stand in the manual or are worked out by hand from its rules. -/

/-- g1 and g2 set. -/
def g12 (x y : Word) : State := (tState.setG 1 x).setG 2 y
/-- g3 after an instruction with d = 3, a = 1, b = 2. -/
def out3 (i : SFmt → Instr) (x y : Word) (imm : BitVec 32) : Word := (run (i (fS 3 1 2 imm)) (g12 x y)).getG 3
/-- v1 and v2 with lane 0 set. -/
def v12 (x y : Lane) : State :=
  tState.modMe fun c => { c with v := vput (vput c.v 1 (vput .zero 0 x)) 2 (vput .zero 0 y) }

/-- R7, the manual's example: tile 37 is a depot, tiles 36 and 255 are compute tiles. -/
theorem test_tiles : isCompute 37 = false ∧ isCompute 36 = true ∧ isCompute 255 = true ∧ depotTile 18 = 37 := by decide
/-- R313: sums wrap at 2^64. -/
theorem test_add : out3 .add (BitVec.allOnes 64) 2 0 = 1 ∧ out3 .sub 0 1 0 = BitVec.allOnes 64 := by decide
/-- R313: the high half of (-1) * (-1), and of the greatest unsigned squares. -/
theorem test_mulh : out3 .mulh (BitVec.allOnes 64) (BitVec.allOnes 64) 0 = 0
    ∧ out3 .mulhu (BitVec.allOnes 64) (BitVec.allOnes 64) 0 = 0xFFFF_FFFF_FFFF_FFFE := by decide
/-- R314: division by zero, and of the least number by -1; division truncates towards zero. -/
theorem test_div : out3 .div 7 0 0 = BitVec.allOnes 64 ∧ out3 .rem 7 0 0 = 7
    ∧ out3 .div 0x8000_0000_0000_0000 (BitVec.allOnes 64) 0 = 0x8000_0000_0000_0000
    ∧ out3 .div 0xFFFF_FFFF_FFFF_FFF9 2 0 = 0xFFFF_FFFF_FFFF_FFFD ∧ out3 .rem 0xFFFF_FFFF_FFFF_FFF9 2 0 = BitVec.allOnes 64 := by decide
/-- R313: a count of 64 or more. -/
theorem test_shift : out3 .shl 1 64 0 = 0 ∧ out3 .sra 0x8000_0000_0000_0000 200 0 = BitVec.allOnes 64 ∧ out3 .rotl 1 65 0 = 2 := by decide
/-- The worked sequence of chapter 14: g1 = 300 lies on page 2. -/
theorem test_shri : out3 .shri 300 0 7 = 2 := by decide
/-- R318: the low 8 bits of 0x1FF, and its top one as a signed field. -/
theorem test_fields : out3 .extu 0x1FF 0 0x700 = 0xFF ∧ out3 .exts 0x180 0 0x700 = 0xFFFF_FFFF_FFFF_FF80 ∧ out3 .ins 0 0xF 0x304 = 0xF0 := by
  decide
/-- R316: the count of 0 is 64, and the bits and bytes in reverse. -/
theorem test_unary : out3 .clz 0 0 0 = 64 ∧ out3 .ctz 8 0 0 = 3 ∧ out3 .brev 1 0 0 = 0x8000_0000_0000_0000
    ∧ out3 .bswap 0x0102_0304_0506_0708 0 0 = 0x0807_0605_0403_0201 := by decide
/-- R324, the worked sequence: LOOP of 1 falls through with 0, LOOP of 2 goes back. -/
theorem test_loop : (run (.loop (fB 1 0 0 1 0xFFFF_FFFF)) (g12 1 0)).getG 1 = 0 ∧ (run (.loop (fB 1 0 0 1 0xFFFF_FFFF)) (g12 1 0)).pc = 8
    ∧ (run (.loop (fB 1 0 0 1 0xFFFF_FFFF)) ((g12 2 0).setPc 64)).pc = 56 := by decide
/-- R323: the return address, and a misaligned target. -/
theorem test_jal : (run (.jal (fB 1 0 0 0 3)) (tState.setPc 16)).getG 1 = 24 ∧ (run (.jal (fB 1 0 0 0 3)) (tState.setPc 16)).pc = 40 := by decide
/-- R325: PSET under its mask; p0 is not in it. -/
theorem test_pset : (run (.pset (fB 0 0 0xFE 0 0xAA00)) tState).myTile.pred = 0xAB := by decide
/-- R335, R3: a store and a load of its bytes, the lowest first. -/
theorem test_bytes :
    let s := run (.std (fS 2 1 0 0)) (g12 own 0x0102_0304_0506_0780)
    s.mem.byte (2 ^ 41) = 0x80 ∧ (run (.ldb (fS 3 1 0 0)) s).getG 3 = 0xFFFF_FFFF_FFFF_FF80 ∧ (run (.ldhu (fS 3 1 0 6)) s).getG 3 = 0x0102 := by decide
/-- R341: an exchange that fails writes nothing. -/
theorem test_acas : (run (.acas (fS 2 1 0 0)) (g12 own 5)).mem = [] ∧ (run (.acas (fS 2 1 0 0)) (g12 own 5)).getG 2 = 0 := by decide
/-- R340: the signed minimum of 0 and -1. -/
theorem test_amin : (run (.amin (fS 2 1 0 0)) (g12 own (BitVec.allOnes 64))).mem.byte (2 ^ 41 + 7) = 0xFF := by decide
/-- R347: a count one below its target waits. -/
theorem test_sgwait : (run (.sgwait (fS 0 1 0 3)) (g12 1 0)).hart.wait = .signal 3 1 := by decide
/-- R327: RET frees its context. -/
theorem test_ret : (run (.ret (fB 0 0 0 0 0)) tState).me.live = false := by decide +kernel

/-- R242: 1 + 2 = 3, 2^24 + 1 to nearest even with inexact, and infinity less infinity. -/
theorem test_add_lanes : addLane 0x3F80_0000 0x4000_0000 0 = (0x4040_0000, 0) ∧ (addLane 0x4B80_0000 0x3F80_0000 0).1 = 0x4B80_0000
    ∧ (addLane 0x7F80_0000 0xFF80_0000 0).1 = 0x7FC0_0000 := by decide +kernel
/-- R353: 1/3 and the square root of 2, to nearest. -/
theorem test_div_sqrt : ((divE (laneVal 0x3F80_0000) (laneVal 0x4040_0000)).lane 0).1 = 0x3EAA_AAAB
    ∧ ((sqrtE (laneVal 0x4000_0000)).lane 0).1 = 0x3FB5_04F3 := by decide +kernel
/-- R246: INT32 and UINT32 wrap, and clamp under sat. -/
theorem test_int_lane : intLane { fV 0 0 0 0 with typ := 8 } (2 ^ 31) = 0x8000_0000
    ∧ intLane { fV 0 0 0 0 with typ := 8, sat := true } (2 ^ 31) = 0x7FFF_FFFF
    ∧ intLane { fV 0 0 0 0 with typ := 9, sat := true } (-1) = 0 := by decide
/-- R363: an integer sum of lane 0. -/
theorem test_viadd : vget (vget (run (.viadd { fV 3 1 2 0 with typ := 8 }) (v12 7 0xFFFF_FFFF)).me.v 3 .zero) 0 0 = 6 := by decide +kernel
/-- R261: a chain instruction begins one link. -/
theorem test_vmul : ((run (.vmul (fV 3 1 2 0)) (v12 0x4000_0000 0x4040_0000)).me.links.map fun l => (l.dst, vget l.vals 0 0))
    = [(3, 0x40C0_0000)] := by decide +kernel
/-- R369: bits of a mask below a bound, counted. -/
theorem test_masks : (run (.mset { fV 1 0 0 0 with imm := 5 }) tState).me.mask 1 = 0x1F
    ∧ (run (.mpop (fV 3 0 0 0)) tState).getG 3 = 64 := by decide +kernel
/-- R373: the first word of Philox-4x32 of ten rounds for key and counter 0, as its authors publish it. -/
theorem test_philox : (philox 10 0 0 (0, 0, 0, 0)).1 = 0x6627_E8D5 := by decide +kernel
/-- R232: BF16 of 1 + 2^-8 rounds to even; FP16 of 65520 overflows to infinity. -/
theorem test_convert : (convert (laneAs 0 0x3F80_8000) 1 0 false).1 = 0x3F80 ∧ (convert (laneAs 0 0x477F_F000) 2 0 false).1 = 0x7C00 := by
  decide +kernel

/-- R422, the worked step of chapter 23: lanes 0 and 1 are accepted, lane 2 is not. -/
theorem test_spacc :
    let reg := fun (a b c : Lane) => vput (vput (vput Lanes.zero 0 a) 1 b) 2 c
    let u := reg 0x3F40_0000 0x3F00_0000 0x3F20_0000
    let q := reg 0x3F00_0000 0x3E80_0000 0x3F40_0000
    let p := reg 0x3F00_0000 0x3F00_0000 0x3E80_0000
    let s := tState.modMe fun x => { x with v := vput (vput (vput x.v 1 u) 2 q) 3 p }
    (run (.spacc (fC 8 1 2 3 4)) s).getG 8 = 0x102 := by decide +kernel
/-- R423, the same step: residuals 0.375 in lane 9 and 0.125 in lane 30, and 0.8125 of their sum draws lane 30. -/
theorem test_spres :
    let reg := fun (a b c : Lane) => vput (vput (vput Lanes.zero 5 a) 9 b) 30 c
    let p := reg 0x3E80_0000 0x3F00_0000 0x3E80_0000
    let q := reg 0x3F40_0000 0x3E00_0000 0x3E00_0000
    let s := (tState.modMe fun x => { x with v := vput (vput x.v 1 p) 2 q }).setG 3 0x3F50_0000
    (run (.spres (fC 12 1 2 3 0)) s).getG 12 = 30 := by decide +kernel

/-- R427, R276-R279: TRAP on a core. -/
theorem test_trap :
    let s := run (.trap (fC 0 0 0 0 42)) ((tCore.setPc 64).modSys fun y => { y with svtvec := 0x400 })
    s.pc = 0x400 ∧ s.hart.epc = 64 ∧ s.hart.tval = 42 ∧ s.hart.cause.code = 10 ∧ (run (.eret (fC 0 0 0 0 0)) s).pc = 64 := by decide
/-- R304: a vector instruction on a core is ILLEGAL. -/
theorem test_core : (run (.vadd (fV 1 2 3 0)) tCore).hart.cause.code = 1 := by decide
/-- R428: CSRW of CTX.RND keeps its two bits; R429: TIME. -/
theorem test_csr : (run (.csrw (fC 3 1 0 0 2)) (g12 7 0)).hart.rnd = 3
    ∧ (run (.time (fC 3 0 0 0 0)) (tState.modSys fun y => { y with time := 9 })).getG 3 = 9 := by decide
/-- R224: a copy of 64 bytes runs. -/
theorem test_cecpy : ((run (.cecpy (fC 2 1 3 0 0x0100_0000)) ((g12 own own).setG 3 64)).myTile.chan 1).state = .running := by decide
/-- R132: a reference count of 255 sticks. -/
theorem test_refcount : refStep false 0x1FE0_0000_0000_0000 = (0xDFE0_0000_0000_0000, true) := by decide
/-- R45, R46: a write of SYS.TIMERATE is limited. -/
theorem test_timerate : (run .timerateWrite { tState with arg := .valRef { v := 0x7FFF_FFFF } }).sys.timerate = 549755814#32 := by decide
/-- R288: an uncorrected error poisons its granule. -/
theorem test_ecc : (run .eccError { tState with arg := .eccIn { key := 130, fixed := false } }).poison = [2] := by decide

/-- The worked example of R121: this address under ASID 0x42 is owned by the slice of depot tile number 68. -/
theorem test_sliceOf : sliceOf 0x7F3A_1234_0000 0x42 = 68 := by decide

end Sys2Proof.Tests
end

/-! O51: every step keeps the memory's canonical form. The laws of Form.lean to FormScalar.lean say it for each operation and each
meaning; here they are put together along the dispatch and the step. -/

namespace Sys2Proof.Laws

open Sys2Proof Sys2Proof.Machine

/-- The case split follows the arms of exec: each is one meaning, and each meaning has its law. -/
theorem exec_leaves_wf {s : State} (h : s.mem.wf) (i : Instr) : Leaves (exec i s) :=
  match i with
  | .nop o => wf_execNop h o | .add o => wf_execAdd h o | .sub o => wf_execSub h o | .addi o => wf_execAddi h o
  | .mul o => wf_execMul h o | .mulh o => wf_execMulh h o | .mulhu o => wf_execMulhu h o | .div o => wf_execDiv h o
  | .divu o => wf_execDivu h o | .rem o => wf_execRem h o | .remu o => wf_execRemu h o | .and o => wf_execAnd h o
  | .or o => wf_execOr h o | .xor o => wf_execXor h o | .andn o => wf_execAndn h o | .andi o => wf_execAndi h o
  | .ori o => wf_execOri h o | .xori o => wf_execXori h o | .shl o => wf_execShl h o | .shr o => wf_execShr h o
  | .sra o => wf_execSra h o | .shli o => wf_execShli h o | .shri o => wf_execShri h o | .srai o => wf_execSrai h o
  | .rotl o => wf_execRotl h o | .clz o => wf_execClz h o | .ctz o => wf_execCtz h o | .popc o => wf_execPopc h o
  | .min o => wf_execMin h o | .max o => wf_execMax h o | .minu o => wf_execMinu h o | .maxu o => wf_execMaxu h o
  | .slt o => wf_execSlt h o | .sltu o => wf_execSltu h o | .seq o => wf_execSeq h o | .slti o => wf_execSlti h o
  | .sel o => wf_execSel h o | .movi o => wf_execMovi h o | .lih o => wf_execLih h o | .extu o => wf_execExtu h o
  | .exts o => wf_execExts h o | .ins o => wf_execIns h o | .brev o => wf_execBrev h o | .bswap o => wf_execBswap h o
  | .br o => wf_execBr h o | .beq o => wf_execBeq h o | .bne o => wf_execBne h o | .blt o => wf_execBlt h o
  | .bge o => wf_execBge h o | .bltu o => wf_execBltu h o | .bgeu o => wf_execBgeu h o | .bpt o => wf_execBpt h o
  | .bmk o => wf_execBmk h o | .jal o => wf_execJal h o | .jalr o => wf_execJalr h o | .loop o => wf_execLoop h o
  | .pset o => wf_execPset h o | .psetR o => wf_execPsetR h o | .psetNz o => wf_execPsetNz h o | .ret o => wf_execRet h o
  | .yield o => wf_execYield h o | .waitp o => wf_execWaitp h o | .ldb o => wf_execLdb h o | .ldbu o => wf_execLdbu h o
  | .ldh o => wf_execLdh h o | .ldhu o => wf_execLdhu h o | .ldw o => wf_execLdw h o | .ldwu o => wf_execLdwu h o
  | .ldd o => wf_execLdd h o | .stb o => wf_execStb h o | .sth o => wf_execSth h o | .stw o => wf_execStw h o
  | .std o => wf_execStd h o | .ldq o => wf_execLdq h o | .stq o => wf_execStq h o | .pref o => wf_execPref h o
  | .cflush o => wf_execCflush h o | .cinv o => wf_execCinv h o | .aadd o => wf_execAadd h o | .aand o => wf_execAand h o
  | .aor o => wf_execAor h o | .axor o => wf_execAxor h o | .amin o => wf_execAmin h o | .amax o => wf_execAmax h o
  | .aminu o => wf_execAminu h o | .amaxu o => wf_execAmaxu h o | .aswap o => wf_execAswap h o | .acas o => wf_execAcas h o
  | .ldaq o => wf_execLdaq h o | .strel o => wf_execStrel h o | .fence o => wf_execFence h o | .sbar o => wf_execSbar h o
  | .sgpost o => wf_execSgpost h o | .sgwait o => wf_execSgwait h o | .vadd o => wf_execVadd h o | .vsub o => wf_execVsub h o
  | .vmul o => wf_execVmul h o | .vfma o => wf_execVfma h o | .vfms o => wf_execVfms h o | .vnfma o => wf_execVnfma h o
  | .vabs o => wf_execVabs h o | .vneg o => wf_execVneg h o | .vmax o => wf_execVmax h o | .vmin o => wf_execVmin h o
  | .vdiv o => wf_execVdiv h o | .vrcp o => wf_execVrcp h o | .vsqrt o => wf_execVsqrt h o | .vrsq o => wf_execVrsq h o
  | .vexp2 o => wf_execVexp2 h o | .vlog2 o => wf_execVlog2 h o | .vscale o => wf_execVscale h o | .vcmp o => wf_execVcmp h o
  | .vcmpt o => wf_execVcmpt h o | .vcut o => wf_execVcut h o | .vsettle o => wf_execVsettle h o | .vcvt o => wf_execVcvt h o
  | .vqnt o => wf_execVqnt h o | .vdq o => wf_execVdq h o | .vsel o => wf_execVsel h o | .viadd o => wf_execViadd h o
  | .visub o => wf_execVisub h o | .vimul o => wf_execVimul h o | .vimin o => wf_execVimin h o | .vimax o => wf_execVimax h o
  | .vand o => wf_execVand h o | .vor o => wf_execVor h o | .vxor o => wf_execVxor h o | .vshl o => wf_execVshl h o
  | .vshr o => wf_execVshr h o | .vsra o => wf_execVsra h o | .vmov o => wf_execVmov h o | .vbcast o => wf_execVbcast h o
  | .vext o => wf_execVext h o | .vins o => wf_execVins h o | .vperm o => wf_execVperm h o | .vrot o => wf_execVrot h o
  | .viota o => wf_execViota h o | .vrsum o => wf_execVrsum h o | .vrmax o => wf_execVrmax h o | .vrarg o => wf_execVrarg h o
  | .vtopk o => wf_execVtopk h o | .vscan o => wf_execVscan h o | .mand o => wf_execMand h o | .mor o => wf_execMor h o
  | .mxor o => wf_execMxor h o | .mnot o => wf_execMnot h o | .mpop o => wf_execMpop h o | .mfirst o => wf_execMfirst h o
  | .mset o => wf_execMset h o | .vld o => wf_execVld h o | .vst o => wf_execVst h o | .vlds o => wf_execVlds h o
  | .vsts o => wf_execVsts h o | .vgth o => wf_execVgth h o | .vsct o => wf_execVsct h o | .vrng o => wf_execVrng h o
  | .mzero o => wf_execMzero h o | .mma o => wf_execMma h o | .mmas o => wf_execMmas h o | .mrd o => wf_execMrd h o
  | .mrdq o => wf_execMrdq h o | .mlda o => wf_execMlda h o | .mscl o => wf_execMscl h o | .mwait o => wf_execMwait h o
  | .apcfgM o => wf_execApcfgM h o | .apcfgR o => wf_execApcfgR h o | .apcfgPre o => wf_execApcfgPre h o
  | .apdim o => wf_execApdim h o | .apstart o => wf_execApstart h o | .apstop o => wf_execApstop h o
  | .appos o => wf_execAppos h o | .apseek o => wf_execApseek h o | .qbind o => wf_execQbind h o
  | .qbindK o => wf_execQbindK h o | .qbindU o => wf_execQbindU h o | .qstat o => wf_execQstat h o
  | .cecpy o => wf_execCecpy h o | .ce2d o => wf_execCe2d h o | .cefill o => wf_execCefill h o | .cepg o => wf_execCepg h o
  | .cestat o => wf_execCestat h o | .ceabt o => wf_execCeabt h o | .knew o => wf_execKnew h o | .knewC o => wf_execKnewC h o
  | .ksend o => wf_execKsend h o | .kfwd o => wf_execKfwd h o | .khdr o => wf_execKhdr h o | .kset o => wf_execKset h o
  | .kdrop o => wf_execKdrop h o | .kmrg o => wf_execKmrg h o | .ksplit o => wf_execKsplit h o | .shlk o => wf_execShlk h o
  | .shrefInc o => wf_execShrefInc h o | .shrefDec o => wf_execShrefDec h o | .shpin o => wf_execShpin h o
  | .shcpy o => wf_execShcpy h o | .kvapp o => wf_execKvapp h o | .kvcmt o => wf_execKvcmt h o | .kvrej o => wf_execKvrej h o
  | .sctch o => wf_execSctch h o | .scld o => wf_execScld h o | .scev o => wf_execScev h o | .scqry o => wf_execScqry h o
  | .spacc o => wf_execSpacc h o | .spres o => wf_execSpres h o | .trpub o => wf_execTrpub h o | .launch o => wf_execLaunch h o
  | .trap o => wf_execTrap h o | .eret o => wf_execEret h o | .csrr o => wf_execCsrr h o | .csrw o => wf_execCsrw h o
  | .csrs o => wf_execCsrs h o | .csrc o => wf_execCsrc h o | .time o => wf_execTime h o | .waitt o => wf_execWaitt h o
  | .bar o => wf_execBar h o | .ctxsv o => wf_execCtxsv h o | .ctxld o => wf_execCtxld h o | .tlbiAll o => wf_execTlbiAll h o
  | .tlbiAsid o => wf_execTlbiAsid h o | .tlbiVa o => wf_execTlbiVa h o | .tlbiVall o => wf_execTlbiVall h o
  | .cfgld o => wf_execCfgld h o | .trgld o => wf_execTrgld h o | .bkpt o => wf_execBkpt h o | .halt o => wf_execHalt h o
  | .coldStart => wf_execColdStart h | .warmStart => wf_execWarmStart h | .thermalStopEnd => wf_execThermalStopEnd h
  | .recoveryFrame => wf_execRecoveryFrame h | .recoveryEnd => wf_execRecoveryEnd h
  | .attestationRequest => wf_execAttestationRequest h | .fuseSvnRaise => wf_execFuseSvnRaise h
  | .lifetimeRecordWrite => wf_execLifetimeRecordWrite h | .recordCopyRequest => wf_execRecordCopyRequest h
  | .powerSample => wf_execPowerSample h | .linkDown => wf_execLinkDown h | .cmRequest => wf_execCmRequest h
  | .hostSend => wf_execHostSend h | .hostWrite => wf_execHostWrite h | .hostWriteImm => wf_execHostWriteImm h
  | .hostRead => wf_execHostRead h | .fetchAdd => wf_execFetchAdd h | .cmpSwap => wf_execCmpSwap h
  | .hostInvalidOpcode => wf_execHostInvalidOpcode h | .cnpReceived => wf_execCnpReceived h
  | .loopDataFrame => wf_execLoopDataFrame h | .loopAckFrame => wf_execLoopAckFrame h | .loopNakFrame => wf_execLoopNakFrame h
  | .ackTimer => wf_execAckTimer h | .replayTimeout => wf_execReplayTimeout h | .remoteRequest => wf_execRemoteRequest h
  | .podcfgWrite => wf_execPodcfgWrite h | .ptpSync => wf_execPtpSync h | .ptpAnnounceTimeout => wf_execPtpAnnounceTimeout h
  | .timeStep => wf_execTimeStep h | .timerateWrite => wf_execTimerateWrite h | .ptpstatWrite => wf_execPtpstatWrite h
  | .sbbaseWrite => wf_execSbbaseWrite h | .tailStore => wf_execTailStore h | .graph => wf_execGraph h
  | .preempt => wf_execPreempt h | .resume => wf_execResume h | .abort => wf_execAbort h | .scset => wf_execScset h
  | .scfree => wf_execScfree h | .ttset => wf_execTtset h | .query => wf_execQuery h | .endNode => wf_execEndNode h
  | .cfg => wf_execCfg h | .arm => wf_execArm h | .waitNode => wf_execWaitNode h | .waitTimeout => wf_execWaitTimeout h
  | .repeatNode => wf_execRepeatNode h | .signal => wf_execSignal h | .sct => wf_execSct h | .drain => wf_execDrain h
  | .timetableFire => wf_execTimetableFire h | .stccfgWrite => wf_execStccfgWrite h | .scanVisit => wf_execScanVisit h
  | .stcRestoreDone => wf_execStcRestoreDone h | .stcEvictDone => wf_execStcEvictDone h | .triggerFire => wf_execTriggerFire h
  | .go => wf_execGo h | .quiesceDone => wf_execQuiesceDone h | .saveDone => wf_execSaveDone h
  | .regionRestoreDone => wf_execRegionRestoreDone h | .drainDone => wf_execDrainDone h | .rewalk => wf_execRewalk h
  | .withholdTimeout => wf_execWithholdTimeout h | .hotcfgWrite => wf_execHotcfgWrite h | .wholdWrite => wf_execWholdWrite h
  | .coachHop => wf_execCoachHop h | .coachDelivery => wf_execCoachDelivery h | .loopexit => wf_execLoopexit h
  | .merge => wf_execMerge h | .reduce => wf_execReduce h | .reduceDeadline => wf_execReduceDeadline h
  | .junctionSidingTimeout => wf_execJunctionSidingTimeout h | .junctionSidingRelease => wf_execJunctionSidingRelease h
  | .apeElement => wf_execApeElement h | .generatorElement => wf_execGeneratorElement h | .ceGranule => wf_execCeGranule h
  | .ceComplete => wf_execCeComplete h | .matrixComplete => wf_execMatrixComplete h | .linkSettle => wf_execLinkSettle h
  | .watchdog => wf_execWatchdog h | .eccError => wf_execEccError h | .trapinfoAck => wf_execTrapinfoAck h
  | .tilePredWrite => wf_execTilePredWrite h | .svwdogWrite => wf_execSvwdogWrite h | .evpendAck => wf_execEvpendAck h
  | .bootwalkGo => wf_execBootwalkGo h | .registerWrite => wf_execRegisterWrite h | .linkUp => wf_execLinkUp h
  | .powerLoss => wf_execPowerLoss h | .announceReceived => wf_execAnnounceReceived h | .waittExpiry => wf_execWaittExpiry h

/-- A step is a choice made after time has passed, and the meaning of the instruction or event chosen, if there is one. -/
theorem step_leaves_wf {s : State} (h : s.mem.wf) : Leaves (step s) := by
  have hchosen : s.tick.choose.1.mem.wf := wf_choose (wf_tick h)
  unfold step
  split
  case h_1 t i e => exact exec_leaves_wf (of_fst hchosen e) i
  case h_2 t e => exact leaves_next (of_fst hchosen e)

/-- Settles O51: the passing of time, the choice of what happens and every meaning keep the form (R3, R138). -/
theorem memoryFormKept : Obligations.MemoryFormKept := by
  unfold Obligations.MemoryFormKept
  intro s t h hstep
  exact step_leaves_wf h t hstep

end Sys2Proof.Laws

/-! O46, O60: the registers at reset, and what starts, recovery, attestation, records, power samples and power loss leave
(01 R20-R23; 03 R49-R60). -/

namespace Sys2Proof.Laws

open Sys2Proof Sys2Proof.Machine

/-! Reset values. -/

theorem vget_ofFn_const {α : Type} (n i : Nat) (x : α) : vget (Vector.ofFn fun _ : Fin n => x) i x = x := by
  unfold vget
  split
  · exact Vector.getElem_ofFn _
  · rfl

/-- Settles O46: every table of the reset state is empty, so each unit stands at its own initial value. -/
theorem resetValues : Obligations.ResetValues := by
  unfold Obligations.ResetValues
  refine ⟨⟨rfl, rfl, rfl, rfl, rfl, rfl, rfl, rfl, rfl, rfl, rfl, fun d => vget_ofFn_const 4 d 0⟩, ?_, ?_, ?_, ?_⟩
  · exact fun d i => ⟨rfl, rfl, rfl, rfl, rfl, rfl, rfl⟩
  · exact fun d => ⟨rfl, rfl, fun i => rfl⟩
  · exact fun d t => ⟨rfl, fun k => vget_ofFn_const _ k 0⟩
  · exact fun d n => rfl

/-! Counters, tables, bytes. -/

theorem stick_eq_min (n m : Nat) : stick n m = min n m := by
  unfold stick
  split <;> omega

theorem bump_eq_min (n : Nat) : bump n = min (n + 1) (2 ^ 64 - 1) := stick_eq_min _ _

theorem bits_lt (w : Word) (h l : Nat) : bits w h l < 2 ^ (h - l + 1) := Nat.mod_lt _ (Nat.two_pow_pos _)

theorem tbl_get_map {α : Type} (f : Nat → α) (d : α) (l : List Nat) {k : Nat} (h : k ∈ l) :
    Tbl.get (l.map fun i => (i, f i)) k d = f k := by
  induction l with
  | nil => nomatch h
  | cons a r ih =>
    by_cases e : a = k
    · simp [Tbl.get, e]
    · have hr : k ∈ r := (List.mem_cons.mp h).resolve_left (Ne.symm e)
      simpa [Tbl.get, e] using ih hr

theorem padTo_length (n : Nat) (bs : List Byte) : (padTo n bs).length = n := by
  simp only [padTo, List.length_take, List.length_append, List.length_replicate]
  omega

theorem bytes_congr {m m' : Memory} {a n : Nat} (h : ∀ i, i < n → m.byte (a + i) = m'.byte (a + i)) : m.bytes a n = m'.bytes a n :=
  List.map_congr_left fun i hi => h i (List.mem_range.mp hi)

/-- The bytes of a frame stand in the image at their offset, and every other byte as before (R56). -/
theorem putImage_get (t : Tbl Byte) (a : Nat) (bs : List Byte) (k : Nat) :
    (putImage t a bs).get k 0 = if a ≤ k ∧ k < a + bs.length then bs.getD (k - a) 0 else t.get k 0 := by
  induction bs generalizing t a with
  | nil =>
    have h : ¬(a ≤ k ∧ k < a + ([] : List Byte).length) := by simp only [List.length_nil]; omega
    rw [putImage, if_neg h]
  | cons b r ih =>
    rw [putImage, ih, tbl_get_set]
    simp only [List.length_cons]
    rcases Nat.lt_trichotomy k a with h | rfl | h
    · rw [if_neg (by omega), if_neg (by omega), if_neg (by omega)]
    · rw [if_neg (by omega), if_pos rfl, if_pos (by omega), Nat.sub_self]
      rfl
    · obtain ⟨j, rfl⟩ : ∃ j, k = a + 1 + j := ⟨k - (a + 1), by omega⟩
      have hj : a + 1 + j - a = j + 1 := by omega
      rw [if_neg (by omega : ¬a + 1 + j = a), Nat.add_sub_cancel_left, hj, List.getD_cons_succ]
      by_cases hr : j < r.length
      · rw [if_pos (by omega), if_pos (by omega)]
      · rw [if_neg (by omega), if_neg (by omega)]

/-! What a start clears (R50). -/

/-- A line that its home slice drops changes memory, its marks and the slice alone. -/
theorem drop_eq (s : State) (pa : Nat) (wb : Bool) : ∃ m p c, s.drop pa wb = { s with mem := m, poison := p, l2 := c } := by
  unfold State.drop
  dsimp only
  split
  · split <;> exact ⟨_, _, _, rfl⟩
  · exact ⟨_, _, _, rfl⟩

theorem drop_modSys (s : State) (f : Sys → Sys) (pa : Nat) (wb : Bool) : (s.modSys f).drop pa wb = (s.drop pa wb).modSys f := by
  have hh : (s.modSys f).held pa = s.held pa := rfl
  unfold State.drop
  rw [hh, modSys_l2]
  dsimp only
  split
  · split <;> rfl
  · rfl

theorem writtenBack_eq (s : State) : ∃ m p c, s.writtenBack = { s with mem := m, poison := p, l2 := c } := by
  unfold State.writtenBack
  generalize s.l2 = l
  induction l generalizing s with
  | nil => exact ⟨_, _, _, rfl⟩
  | cons e r ih =>
    obtain ⟨m, p, c, h⟩ := drop_eq s (e.1 * 64) true
    obtain ⟨m', p', c', h'⟩ := ih (s.drop (e.1 * 64) true)
    refine ⟨m', p', c', ?_⟩
    rw [List.foldl_cons, h', h]

@[simp] theorem writtenBack_sys (s : State) : s.writtenBack.sys = s.sys := by
  obtain ⟨m, p, c, h⟩ := writtenBack_eq s; rw [h]
@[simp] theorem writtenBack_flash (s : State) : s.writtenBack.flash = s.flash := by
  obtain ⟨m, p, c, h⟩ := writtenBack_eq s; rw [h]
@[simp] theorem writtenBack_life (s : State) : s.writtenBack.life = s.life := by
  obtain ⟨m, p, c, h⟩ := writtenBack_eq s; rw [h]

theorem writtenBack_modSys (s : State) (f : Sys → Sys) : (s.modSys f).writtenBack = s.writtenBack.modSys f :=
  List.foldl_hom (State.modSys · f) fun t e => drop_modSys t f (e.1 * 64) true

@[simp] theorem cleared_sys (s : State) : s.cleared.sys = s.sys := writtenBack_sys s
@[simp] theorem cleared_flash (s : State) : s.cleared.flash = s.flash := writtenBack_flash s
@[simp] theorem cleared_life (s : State) : s.cleared.life = s.life := writtenBack_life s

/-- HBM stays where SRAM is cleared. -/
theorem byte_cleared (s : State) {k : Nat} (h : k < 2 ^ 40) : s.cleared.mem.byte k = s.writtenBack.mem.byte k := by
  have e := byte_filter s.writtenBack.mem (fun a => decide (a < 2 ^ 40)) k
  rwa [if_pos (by simpa using h)] at e

/-- HBM zeroed but for the ranges kept (R50). -/
theorem byte_zeroHbm (s : State) (keep : List (Nat × Nat)) {k : Nat} (h : k < 2 ^ 39) :
    (s.zeroHbm keep).mem.byte k = if ∃ r ∈ keep, r.1 ≤ k ∧ k < r.1 + r.2 then s.mem.byte k else 0 := by
  have e := byte_filter s.mem (fun a => decide (2 ^ 39 ≤ a) || keep.any fun r => decide (r.1 ≤ a) && decide (a < r.1 + r.2)) k
  refine e.trans ?_
  have hk : decide (2 ^ 39 ≤ k) = false := decide_eq_false (Nat.not_le.mpr h)
  simp only [hk, Bool.false_or, List.any_eq_true, Bool.and_eq_true, decide_eq_true_eq]

/-! The steps of a start (R49, R52): what each leaves. -/

theorem postLife_eq (s : State) : ∃ a, s.postLife = { s with agenda := a } := by
  unfold State.postLife
  split <;> exact ⟨_, rfl⟩

/-- What SYS.BOOTSTAT and the start's own record hold when a start begins. -/
def beginBoot (b : Boot) (kind : Nat) (o : StartIn) : Boot :=
  { b with
    kind := kind, step := 0, failStep := 0, failCode := 0, svn := 0, cur := 1, recovery := false, image := [], halted := false
    fw := match o.fw with | some f => some f | none => b.fw }

/-- A state with its start's record and its agenda changed. -/
def withBoot (s : State) (b : Boot) (a : List Pending) : State := { s with sys := { s.sys with boot := b }, agenda := a }

/-- The state in which the image of flash has been accepted (step 2 has ended). -/
def accepted (s : State) (kind : Nat) (o : StartIn) (a : List Pending) : State :=
  withBoot s { beginBoot s.sys.boot kind o with step := 2, svn := fieldAt s.flash.bank 8 8 } a

section
variable (s : State) (kind : Nat) (o : StartIn) (rest : State → State)

/-- A failed fuse load halts the module in step 1. -/
theorem firstSteps_unfused (h : o.fuseOk = false) : ∃ a, s.firstSteps kind o rest =
    withBoot s { beginBoot s.sys.boot kind o with failStep := 1, cur := 0, halted := true } a := by
  obtain ⟨a, ha⟩ := postLife_eq s
  unfold State.firstSteps
  simp only [h, Bool.not_false, if_true, ha]
  exact ⟨a, rfl⟩

/-- A rejected image leaves recovery mode in step 2. -/
theorem firstSteps_rejected (h : o.fuseOk = true) {c : Nat} (hc : s.flash.reject s.flash.bank = some c) :
    ∃ a, s.firstSteps kind o rest =
      withBoot s { beginBoot s.sys.boot kind o with step := 1, failStep := 2, failCode := c, cur := 0, recovery := true } a := by
  obtain ⟨a, ha⟩ := postLife_eq s
  unfold State.firstSteps
  simp only [h, Bool.not_true, hc, ha]
  exact ⟨a, rfl⟩

/-- An accepted image goes on to step 3. -/
theorem firstSteps_accepted (h : o.fuseOk = true) (hc : s.flash.reject s.flash.bank = none) :
    ∃ a, s.firstSteps kind o rest = rest (accepted s kind o a) := by
  obtain ⟨a, ha⟩ := postLife_eq s
  unfold State.firstSteps
  simp only [h, Bool.not_true, hc, ha]
  exact ⟨a, rfl⟩

end

theorem startCores_none {s : State} (h : s.sys.boot.fw = none) : s.startCores = s := by
  unfold State.startCores
  rw [h]

/-- Step 2's firmware writes memory, two registers and the cores alone. -/
theorem startCores_eq (s : State) : ∃ m r v c,
    s.startCores = { s with mem := m, cores := c, sys := { s.sys with svptbr := r, svtvec := v } } := by
  unfold State.startCores
  split
  · exact ⟨_, _, _, _, rfl⟩
  · next f _ =>
    have key : ∀ (l : List (Nat × Word)) (t : State), ∃ m,
        l.foldl (fun s c => { s with mem := s.mem.put c.1 (leOf 8 c.2.toNat) }) t = { t with mem := m } := by
      intro l
      induction l with
      | nil => exact fun t => ⟨_, rfl⟩
      | cons c r ih => exact fun t => ih _
    obtain ⟨m, hm⟩ := key f.cells s
    rw [hm]
    exact ⟨_, _, _, _, rfl⟩

theorem foldl_postTake_eq (l : List Nat) (s : State) : ∃ a, l.foldl (fun s d => s.postTake d) s = { s with agenda := a } := by
  induction l generalizing s with
  | nil => exact ⟨_, rfl⟩
  | cons d r ih => exact ih (s.postTake d)

/-- A port as step 5 leaves it: one that failed stays down. -/
def linkedPort (down : List Nat) (p : Nat) : Port := { Port.init with up := !down.contains p }

/-- The ports after step 5. -/
def linkedPorts (down : List Nat) : Tbl Port := (List.range 12).map fun p => (p, linkedPort down p)

theorem linkedPorts_up {p : Nat} (h : p < 12) : (Tbl.get (linkedPorts []) p .init).up = true := by
  rw [linkedPorts, tbl_get_map _ _ _ (List.mem_range.mpr h)]
  rfl

/-- Step 5 changes the ports, the start's record and the agenda. -/
theorem linkStep_eq (s : State) (down : List Nat) : ∃ b a,
    s.linkStep down = withBoot { s with net := { s.net with ports := linkedPorts down } } b a
      ∧ b.kind = s.sys.boot.kind ∧ (down = [] → b = { s.sys.boot with step := 5, cur := 6 }) := by
  unfold State.linkStep
  obtain ⟨a, ha⟩ := foldl_postTake_eq (List.range 4) _
  refine ⟨_, a, ha, rfl, ?_⟩
  rintro rfl
  rfl

/-! Starts that meet nothing out of order. -/

/-- Nothing is out of order and no firmware is given. -/
def PlainStart (s : State) (o : StartIn) : Prop :=
  o.fuseOk = true ∧ o.hbmFail = none ∧ o.repairFail = none ∧ o.portsDown = [] ∧ o.hold = false ∧ o.fw = none ∧ s.sys.boot.fw = none

/-- The state after step 5 of a start: HBM zeroed but for the ranges kept, the ports up. -/
def linkedUp (s : State) (keep : List (Nat × Nat)) (b : Boot) (a : List Pending) : State :=
  withBoot { s.zeroHbm keep with net := { s.net with ports := linkedPorts [] } } b a

theorem plainStart_accepted {s t : State} {o : StartIn} (h : PlainStart s o) (ht : t.sys.boot.fw = s.sys.boot.fw) (kind : Nat)
    (a : List Pending) : PlainStart (accepted t kind o a) o := by
  obtain ⟨hfuse, hhbm, hrep, hports, hhold, ho, hfw⟩ := h
  refine ⟨hfuse, hhbm, hrep, hports, hhold, ho, ?_⟩
  simp only [accepted, withBoot, beginBoot, ho, ht, hfw]

theorem coldRest_plain (s : State) (o : StartIn) (h : PlainStart s o) :
    ∃ a, s.coldRest o = linkedUp s [] { s.sys.boot with step := 5, cur := 6, repair := [] } a := by
  obtain ⟨-, hhbm, hrep, hports, hhold, -, hfw⟩ := h
  have hcores : (s.zeroHbm []).startCores = s.zeroHbm [] := startCores_none hfw
  unfold State.coldRest
  simp only [hcores, hhbm, hhold, hrep, hports, Bool.false_eq_true, if_false, Option.map_none]
  obtain ⟨b, a, h, -, hb⟩ :=
    linkStep_eq (((s.zeroHbm []).modBoot fun b => { b with step := 3, cur := 4, repair := [] }).modBoot fun b => { b with step := 4 }) []
  refine ⟨a, h.trans ?_⟩
  rw [hb rfl]
  rfl

theorem coldRest_hbmFail (s : State) (o : StartIn) {k : Nat} (h : o.hbmFail = some k) :
    s.coldRest o = ((s.zeroHbm []).startCores).bootStop 3 (0x10 + k % 8) := by
  unfold State.coldRest
  rw [h]

/-- The ranges that a warm start keeps: the page of the table always, its entries where the table is asked for (R53). -/
def keptOf (pres : Bool) (l : List (Nat × Nat)) : List (Nat × Nat) := (0, 4096) :: if pres then l else []

theorem warmRest_plain (s : State) (o : StartIn) (h : PlainStart s o) (hl : s.sys.boot.pres = true → preserveOk s.preserveList = true) :
    ∃ a, s.warmRest o = linkedUp s (keptOf s.sys.boot.pres s.preserveList) { s.sys.boot with step := 5, cur := 6 } a := by
  obtain ⟨-, -, -, hports, -, -, hfw⟩ := h
  have hok : (s.sys.boot.pres && !preserveOk s.preserveList) = false := by
    cases hp : s.sys.boot.pres with
    | false => rfl
    | true => simp [hl hp]
  have hcores : ∀ keep, (s.zeroHbm keep).startCores = s.zeroHbm keep := fun keep => startCores_none hfw
  unfold State.warmRest
  simp only [hok, Bool.false_eq_true, if_false, hports, hcores]
  obtain ⟨b, a, h, -, hb⟩ :=
    linkStep_eq (((s.zeroHbm (keptOf s.sys.boot.pres s.preserveList)).modBoot fun b => { b with step := 3 }).modBoot fun b => { b with step := 4 }) []
  refine ⟨a, h.trans ?_⟩
  rw [hb rfl]
  rfl

theorem warmRest_badList (s : State) (o : StartIn) (hfw : s.sys.boot.fw = none) (hp : s.sys.boot.pres = true)
    (hl : preserveOk s.preserveList = false) : s.warmRest o = s.bootStop 3 0x1F := by
  unfold State.warmRest
  simp only [hp, hl, Bool.not_false, Bool.and_self, if_true, startCores_none hfw]

/-- What a start that brings the links up leaves of SYS.BOOTSTAT and of what it clears (R50, R53). -/
def LinksUp (svn : Nat) (t : State) : Prop :=
  t.sys.boot.step = 5 ∧ t.sys.boot.failStep = 0 ∧ t.sys.boot.failCode = 0 ∧ t.sys.boot.svn = svn
    ∧ (∀ p, p < 12 → (t.portOfNet p).up = true) ∧ t.slots = [] ∧ t.tiles = [] ∧ t.tlb = []

/-- The record of a start of a kind whose steps to 5 have succeeded. -/
def linkedBoot (b : Boot) (kind : Nat) (o : StartIn) (svn : Nat) (repair : Tbl (List Nat)) : Boot :=
  { beginBoot b kind o with step := 5, svn := svn, cur := 6, repair := repair }

theorem linksUp_linkedUp (s : State) (keep : List (Nat × Nat)) (b : Boot) (kind : Nat) (o : StartIn) (svn : Nat) (r : Tbl (List Nat))
    (a : List Pending) (hslots : s.slots = []) (htiles : s.tiles = []) (htlb : s.tlb = []) :
    LinksUp svn (linkedUp s keep (linkedBoot b kind o svn r) a) :=
  ⟨rfl, rfl, rfl, rfl, fun _ h => linkedPorts_up h, hslots, htiles, htlb⟩

/-! Cold starts (R49, R50, R52). -/

/-- The state in which a cold start begins its steps: SRAM cleared, every register at its reset value, the start counted. -/
def coldBase (s : State) : State :=
  { s.cleared with
    sys := { Sys.init with clock := s.cleared.sys.clock, on := true, boot := { Sys.init.boot with fw := s.cleared.sys.boot.fw } }
    life := { s.cleared.life with colds := bump s.cleared.life.colds } }

theorem coldStart_eq (s : State) (o : StartIn) : s.coldStart o = (coldBase s).firstSteps 0 o fun t => t.coldRest o := rfl

@[simp] theorem coldBase_flash (s : State) : (coldBase s).flash = s.flash := cleared_flash s
@[simp] theorem coldBase_life (s : State) : (coldBase s).life = { s.life with colds := bump s.life.colds } := by
  simp only [coldBase, cleared_life]
@[simp] theorem coldBase_fw (s : State) : (coldBase s).sys.boot.fw = s.sys.boot.fw := by
  simp only [coldBase, cleared_sys]

section
variable (s : State) (o : StartIn)

theorem coldStart_unfused (h : o.fuseOk = false) : (s.coldStart o).sys.boot.failStep = 1 ∧ (s.coldStart o).sys.boot.halted = true
    ∧ (s.coldStart o).sys.boot.step = 0 := by
  obtain ⟨a, ha⟩ := firstSteps_unfused (coldBase s) 0 o (fun t => t.coldRest o) h
  rw [coldStart_eq, ha]
  exact ⟨rfl, rfl, rfl⟩

theorem coldStart_rejected {c : Nat} (h : o.fuseOk = true) (hc : s.flash.reject s.flash.bank = some c) :
    (s.coldStart o).sys.boot.failStep = 2 ∧ (s.coldStart o).sys.boot.failCode = c ∧ (s.coldStart o).sys.boot.recovery = true
      ∧ (s.coldStart o).sys.boot.step = 1 := by
  rw [← coldBase_flash] at hc
  obtain ⟨a, ha⟩ := firstSteps_rejected (coldBase s) 0 o (fun t => t.coldRest o) h hc
  rw [coldStart_eq, ha]
  exact ⟨rfl, rfl, rfl, rfl⟩

theorem coldStart_hbmFail {k : Nat} (h : o.fuseOk = true) (hc : s.flash.reject s.flash.bank = none) (hk : o.hbmFail = some k)
    (hk8 : k < 8) : (s.coldStart o).sys.boot.failStep = 3 ∧ (s.coldStart o).sys.boot.failCode = 0x10 + k
      ∧ (s.coldStart o).sys.boot.step = 2 := by
  rw [← coldBase_flash] at hc
  obtain ⟨a, ha⟩ := firstSteps_accepted (coldBase s) 0 o (fun t => t.coldRest o) h hc
  rw [coldStart_eq, ha, coldRest_hbmFail _ o hk, Nat.mod_eq_of_lt hk8]
  obtain ⟨m, r, v, cs, hcs⟩ := startCores_eq (State.zeroHbm _ _)
  rw [hcs]
  exact ⟨rfl, rfl, rfl⟩

theorem coldStart_plain (h : PlainStart s o) (hc : s.flash.reject s.flash.bank = none) : ∃ a, s.coldStart o =
    linkedUp (coldBase s) [] (linkedBoot (coldBase s).sys.boot 0 o (fieldAt s.flash.bank 8 8) []) a := by
  rw [← coldBase_flash] at hc
  obtain ⟨a, ha⟩ := firstSteps_accepted (coldBase s) 0 o (fun t => t.coldRest o) h.1 hc
  obtain ⟨a', ha'⟩ := coldRest_plain _ o (plainStart_accepted h (coldBase_fw s) 0 a)
  refine ⟨a', ?_⟩
  rw [coldStart_eq, ha, ha', ← coldBase_flash]
  rfl

end

/-! Warm starts (R49, R50, R52, R53). -/

/-- The state in which a warm start begins its steps. -/
def warmBase (s : State) : State :=
  { s.cleared.modSys fun y => { y with
      power := { y.power with thr := 0, stopped := false }
      bootwalk := setBits y.bootwalk 63 60 0
      ptp := { y.ptp with state := 0, since := 0, announce := 0, everLocked := false }
      podptbr := 0
      kdrop := zero4 } with
    life := { s.cleared.life with warms := bump s.cleared.life.warms } }

theorem warmStart_eq (s : State) (o : StartIn) : s.warmStart o = (warmBase s).firstSteps 1 o fun t => t.warmRest o := rfl

@[simp] theorem warmBase_flash (s : State) : (warmBase s).flash = s.flash := cleared_flash s
@[simp] theorem warmBase_boot (s : State) : (warmBase s).sys.boot = s.sys.boot := by
  simp only [warmBase, sys_modSys, cleared_sys]
@[simp] theorem warmBase_time (s : State) : (warmBase s).sys.time = s.sys.time := by
  simp only [warmBase, sys_modSys, cleared_sys]
@[simp] theorem warmBase_podcfg (s : State) : (warmBase s).sys.podcfg = s.sys.podcfg := by
  simp only [warmBase, sys_modSys, cleared_sys]

/-- The first n + 1 entries of the preserve table that a memory holds at address 0 (R53). -/
def presTable (m : Memory) (n : Nat) : List (Nat × Nat) :=
  (List.range (n + 1)).map fun i => (leVal (m.bytes (16 * i) 8), leVal (m.bytes (16 * i + 8) 8))

theorem presTable_cleared (s : State) {n : Nat} (h : n < 16) : presTable s.cleared.mem n = presTable s.writtenBack.mem n := by
  have key : ∀ a, a + 8 ≤ 256 → s.cleared.mem.bytes a 8 = s.writtenBack.mem.bytes a 8 :=
    fun a ha => bytes_congr fun i hi => byte_cleared s (by omega)
  refine List.map_congr_left fun i hi => ?_
  have hi := List.mem_range.mp hi
  rw [key _ (by omega), key _ (by omega)]

theorem accepted_pres (s : State) (o : StartIn) (a : List Pending) : (accepted (warmBase s) 1 o a).sys.boot.pres = s.sys.boot.pres := by
  show (warmBase s).sys.boot.pres = s.sys.boot.pres
  rw [warmBase_boot]

/-- The table that a warm start reads is the one that stood in HBM when it began. -/
theorem accepted_preserveList (s : State) (o : StartIn) (a : List Pending) (h : s.sys.boot.npres < 16) :
    (accepted (warmBase s) 1 o a).preserveList = presTable s.writtenBack.mem s.sys.boot.npres := by
  rw [← presTable_cleared s h, ← warmBase_boot]
  rfl

section
variable (s : State) (o : StartIn)

theorem warmStart_plain (h : PlainStart s o) (hc : s.flash.reject s.flash.bank = none) (hn : s.sys.boot.npres < 16)
    (hl : s.sys.boot.pres = true → preserveOk (presTable s.writtenBack.mem s.sys.boot.npres) = true) : ∃ a, s.warmStart o =
    linkedUp (warmBase s) (keptOf s.sys.boot.pres (presTable s.writtenBack.mem s.sys.boot.npres))
      (linkedBoot s.sys.boot 1 o (fieldAt s.flash.bank 8 8) s.sys.boot.repair) a := by
  rw [← warmBase_flash] at hc
  obtain ⟨a, ha⟩ := firstSteps_accepted (warmBase s) 1 o (fun t => t.warmRest o) h.1 hc
  have hpres := accepted_pres s o a
  have htab := accepted_preserveList s o a hn
  obtain ⟨a', ha'⟩ := warmRest_plain _ o (plainStart_accepted h (congrArg Boot.fw (warmBase_boot s)) 1 a) (by rwa [hpres, htab])
  refine ⟨a', ?_⟩
  rw [warmStart_eq, ha, ha', hpres, htab, ← warmBase_boot, ← warmBase_flash]
  rfl

theorem warmStart_badList (h : PlainStart s o) (hc : s.flash.reject s.flash.bank = none) (hn : s.sys.boot.npres < 16)
    (hp : s.sys.boot.pres = true) (hl : preserveOk (presTable s.writtenBack.mem s.sys.boot.npres) = false) :
    (s.warmStart o).sys.boot.failStep = 3 ∧ (s.warmStart o).sys.boot.failCode = 0x1F
      ∧ ∀ k, k < 2 ^ 39 → (s.warmStart o).mem.byte k = s.writtenBack.mem.byte k := by
  rw [← warmBase_flash] at hc
  obtain ⟨a, ha⟩ := firstSteps_accepted (warmBase s) 1 o (fun t => t.warmRest o) h.1 hc
  obtain ⟨-, -, -, -, -, -, hfw⟩ := plainStart_accepted h (congrArg Boot.fw (warmBase_boot s)) 1 a
  rw [warmStart_eq, ha, warmRest_badList _ o hfw ((accepted_pres s o a).trans hp) (by rwa [accepted_preserveList s o a hn])]
  exact ⟨rfl, rfl, fun k hk => byte_cleared s (by omega)⟩

/-- HBM after a warm start whose links are up. -/
theorem byte_linkedUp_warm (keep : List (Nat × Nat)) (b : Boot) (a : List Pending) {k : Nat} (hk : k < 2 ^ 39) :
    (linkedUp (warmBase s) keep b a).mem.byte k = if ∃ r ∈ keep, r.1 ≤ k ∧ k < r.1 + r.2 then s.writtenBack.mem.byte k else 0 := by
  refine (byte_zeroHbm (warmBase s) keep hk).trans ?_
  have hb : (warmBase s).mem.byte k = s.writtenBack.mem.byte k := byte_cleared s (by omega)
  rw [hb]

end

theorem mem_keptOf {pres : Bool} {l : List (Nat × Nat)} {k : Nat} :
    (∃ r ∈ keptOf pres l, r.1 ≤ k ∧ k < r.1 + r.2) ↔ k < 4096 ∨ pres = true ∧ ∃ r ∈ l, r.1 ≤ k ∧ k < r.1 + r.2 := by
  cases pres <;> simp [keptOf]

/-! What no start changes: the image, the lifetime records but for its own count, the kind of the start. -/

/-- Two states agree on flash, on the lifetime records and on the kind of the most recent start. -/
def SameRecords (s t : State) : Prop := t.flash = s.flash ∧ t.life = s.life ∧ t.sys.boot.kind = s.sys.boot.kind

theorem sameRecords_trans {s t u : State} (h : SameRecords s t) (k : SameRecords t u) : SameRecords s u := by
  obtain ⟨hf, hl, hk⟩ := h
  obtain ⟨kf, kl, kk⟩ := k
  exact ⟨kf.trans hf, kl.trans hl, kk.trans hk⟩

theorem sameRecords_startCores (s : State) : SameRecords s s.startCores := by
  obtain ⟨m, r, v, c, h⟩ := startCores_eq s
  rw [h]
  exact ⟨rfl, rfl, rfl⟩

theorem sameRecords_linkStep (s : State) (down : List Nat) : SameRecords s (s.linkStep down) := by
  obtain ⟨b, a, h, hk, -⟩ := linkStep_eq s down
  rw [h]
  exact ⟨rfl, rfl, hk⟩

theorem sameRecords_endRepair (s : State) (fail : Option Nat) (down : List Nat) : SameRecords s (s.endRepair fail down) := by
  cases fail with
  | some d => exact ⟨rfl, rfl, rfl⟩
  | none => exact sameRecords_linkStep (s.modBoot fun b => { b with step := 4 }) down

theorem sameRecords_coldRest (s : State) (o : StartIn) : SameRecords s (s.coldRest o) := by
  refine sameRecords_trans (sameRecords_startCores (s.zeroHbm [])) ?_
  unfold State.coldRest
  dsimp only
  split
  · exact ⟨rfl, rfl, rfl⟩
  · split
    · exact ⟨rfl, rfl, rfl⟩
    · exact sameRecords_endRepair ((s.zeroHbm []).startCores.modBoot fun b => { b with step := 3, cur := 4, repair := [] }) _ _

/-- However its steps end, a start of a kind records that kind. -/
theorem firstSteps_records (s : State) (kind : Nat) (o : StartIn) (rest : State → State) (h : ∀ t, SameRecords t (rest t)) :
    (s.firstSteps kind o rest).flash = s.flash ∧ (s.firstSteps kind o rest).life = s.life
      ∧ (s.firstSteps kind o rest).sys.boot.kind = kind := by
  cases hfuse : o.fuseOk with
  | false =>
    obtain ⟨a, ha⟩ := firstSteps_unfused s kind o rest hfuse
    rw [ha]
    exact ⟨rfl, rfl, rfl⟩
  | true =>
    cases hc : s.flash.reject s.flash.bank with
    | some c =>
      obtain ⟨a, ha⟩ := firstSteps_rejected s kind o rest hfuse hc
      rw [ha]
      exact ⟨rfl, rfl, rfl⟩
    | none =>
      obtain ⟨a, ha⟩ := firstSteps_accepted s kind o rest hfuse hc
      rw [ha]
      exact h (accepted s kind o a)

theorem coldStart_records (s : State) (o : StartIn) : (s.coldStart o).flash = s.flash
    ∧ (s.coldStart o).life = { s.life with colds := bump s.life.colds } ∧ (s.coldStart o).sys.boot.kind = 0 := by
  have h := firstSteps_records (coldBase s) 0 o _ fun t => sameRecords_coldRest t o
  rwa [coldBase_flash, coldBase_life, ← coldStart_eq] at h

/-! The flash bank that a write puts into force (R56). -/

theorem bank_write (f : Flash) (img : List Byte) : (f.write img).bank = img := by
  unfold Flash.write
  split <;> rfl

/-! Attestation (R57). -/

theorem reportHead_length (s : State) (nonce : List Byte) : (s.reportHead nonce).length = 256 := by
  simp only [State.reportHead, List.length_append, padTo_length, leOf_length, List.length_replicate]

theorem reportHead_nonce (s : State) (nonce : List Byte) : (s.reportHead nonce).take 64 = padTo 64 nonce := by
  simp only [State.reportHead, List.append_assoc]
  exact List.take_left' (padTo_length 64 nonce)

/-! Lifetime records (R59, R60). -/

/-- A write of the records changes the flash copies alone; one of them then holds the present counters. -/
theorem writeLife_eq (s : State) : ∃ cs, s.writeLife = { s with copies := cs } ∧ ∃ c ∈ cs, c.valid = true ∧ c.image = s.life := by
  unfold State.writeLife
  split
  · exact ⟨_, rfl, _, List.mem_singleton.mpr rfl, rfl, rfl⟩
  · exact ⟨_, rfl, _, List.mem_cons_of_mem _ (List.mem_singleton.mpr rfl), rfl, rfl⟩

theorem completionWord_ne_zero (v : Word) : completionWord v ≠ 0 := by
  unfold completionWord
  split
  · decide
  · assumption

/-- A copy whose writes meet no fault ends with its completion word (R60). -/
theorem copyOut_done {s s1 s3 : State} {root : Word} {base n : Nat} {bs : List Byte}
    (h1 : s.hostWrite root false (pieces base n) bs = (s1, none))
    (h3 : ({ s1 with freeCtr := s1.freeCtr + 1 } : State).hostWrite root false (pieces (base + n) 8)
      (leOf 8 (completionWord (Config.freeWord s1.freeCtr)).toNat) = (s3, none)) :
    s.copyOut root base n bs = s3 := by
  simp only [State.copyOut, h1, State.freeVal, h3]

/-- A record copy into a region that is wide enough, while a copy is valid (R60). -/
theorem exec_recordCopyRequest {s : State} {n : Nat} {c : LifeCopy} (harg : s.arg = .idxRef { i := n }) (hn : n < 1024)
    (hc : s.newestCopy = some c) (hused : (s.net.mrs.get n .init).used = true) (hlen : 65536 ≤ (s.net.mrs.get n .init).len) :
    exec .recordCopyRequest s = .next (s.copyOut (mrRoot (s.net.mrs.get n .init) (BitVec.ofNat 32 n)) (s.net.mrs.get n .init).base.toNat 65528
      ((List.range 65528).map (Config.lifetimeByte c.image.counters))) := by
  show execRecordCopyRequest s = _
  simp only [execRecordCopyRequest, harg, hc, Nat.mod_eq_of_lt hn, hused, Nat.not_lt.mpr hlen, Bool.not_true, decide_false,
    Bool.or_self, Bool.false_eq_true, if_false]

/-! Power and temperature (R20-R22). -/

theorem lowestClock_head (n c : Nat) (rows : List (Nat × Nat)) (h : ∀ r ∈ rows, r.1 ≤ n) : lowestClock ((n, c) :: rows) = some (n, c) := by
  unfold lowestClock
  rw [List.foldl_cons]
  induction rows with
  | nil => rfl
  | cons r rs ih =>
    have hr : ¬n < r.1 := Nat.not_lt.mpr (h r (List.mem_cons_self))
    rw [List.foldl_cons]
    simp only [hr, if_false]
    exact ih fun x hx => h x (List.mem_cons_of_mem _ hx)

/-- No row asks for a lower clock than step 3, and where no die is hot the droop row stands first (R20, R21). -/
theorem lowestClock_downs_droop (p : Power) (mw : Nat) (hmw : 2800000 < mw) (ht : p.tThermal = 0) :
    lowestClock (p.downs mw) = some (3, 2) := by
  have hnext : min 3 (p.step + 1) ≤ 3 := Nat.min_le_left _ _
  have hd : p.downs mw = (3, 2) :: ((if 10000 ≤ p.above && (p.above - 10000) % 50 == 0 then [(min 3 (p.step + 1), 2)] else [])
      ++ (if p.tPower != 0 && p.tPower % 50 == 0 then [(min 3 (p.step + 1), 1)] else [])) := by
    simp [Power.downs, ht, hmw]
  rw [hd]
  refine lowestClock_head 3 2 _ fun r hr => ?_
  rcases List.mem_append.mp hr with hr | hr
  · split at hr
    · rw [List.mem_singleton.mp hr]; exact hnext
    · nomatch hr
  · split at hr
    · rw [List.mem_singleton.mp hr]; exact hnext
    · nomatch hr

theorem move_droop (p : Power) (mw : Nat) (hmw : 2800000 < mw) (ht : p.tThermal = 0) :
    (p.move mw).step = 3 ∧ (p.move mw).cause = 2 ∧ (p.move mw).thr = if p.step = 3 then p.thr else min (p.thr + 1) 0xFFFFFFFF := by
  unfold Power.move
  rw [lowestClock_downs_droop p mw hmw ht, stick_eq_min]
  refine ⟨rfl, rfl, ?_⟩
  by_cases h : p.step = 3
  · simp [h]
  · simp [h, Ne.symm h]

theorem count_tThermal (p : Power) (mw : Nat) {tj : List Int} (h : ∀ t ∈ tj, t < 100) : (p.count mw tj).tThermal = 0 := by
  have hany : (tj.any fun t => decide (100 ≤ t)) = false :=
    List.any_eq_false.mpr fun t ht => by simpa using h t ht
  simp only [Power.count, hany, Bool.false_eq_true, if_false]

/-- The state after the clock step and the records of a sample. -/
def sampled (s : State) (x : PowerIn) : State :=
  { s.modSys fun y => { y with power := (s.sys.power.count x.mw x.tj).move x.mw } with
    life := { s.life with
      temps := (x.tj.zipIdx).foldl (fun m e => m.set (e.2 * 16 + tempBin e.1) (moreTime (m.get (e.2 * 16 + tempBin e.1) 0))) s.life.temps
      droops := if 2800000 < x.mw then bump s.life.droops else s.life.droops
      droopTimes := if 2800000 < x.mw then (s.sys.time :: s.life.droopTimes).take 16 else s.life.droopTimes } }

theorem exec_powerSample {s : State} {x : PowerIn} (harg : s.arg = .powerIn x) : exec .powerSample s =
    .next (if (x.tj.any fun t => 110 ≤ t) && !s.sys.power.stopped then (sampled s x).thermalStop else sampled s x) := by
  show execPowerSample s = _
  unfold execPowerSample
  rw [harg]
  rfl

theorem exec_powerSample_cool {s : State} {x : PowerIn} (harg : s.arg = .powerIn x) (h : ∀ t ∈ x.tj, t < 110) :
    exec .powerSample s = .next (sampled s x) := by
  have hany : (x.tj.any fun t => decide (110 ≤ t)) = false :=
    List.any_eq_false.mpr fun t ht => by simpa using h t ht
  rw [exec_powerSample harg, hany]
  rfl

theorem exec_powerSample_hot {s : State} {x : PowerIn} (harg : s.arg = .powerIn x) (h : ∃ t ∈ x.tj, 110 ≤ t)
    (hs : s.sys.power.stopped = false) : exec .powerSample s = .next (sampled s x).thermalStop := by
  have hany : (x.tj.any fun t => decide (110 ≤ t)) = true := by
    obtain ⟨t, ht, h110⟩ := h
    exact List.any_eq_true.mpr ⟨t, ht, decide_eq_true h110⟩
  rw [exec_powerSample harg, hany, hs]
  rfl

/-- The depots of a thermal stop. -/
def lostDepots (k : Nat) : Tbl Depot := (List.range 512).map fun i => (i, lostDepot (k + 2 ^ 21 + i))

/-- A thermal stop, but for the state of tiles and depots, the agenda and the flash copies (R22). -/
theorem thermalStop_spec (s : State) : s.thermalStop.sys.power.stopped = true ∧ s.thermalStop.sys.power.cause = 3
    ∧ s.thermalStop.life.thermals = bump s.life.thermals ∧ s.thermalStop.transit = [] ∧ s.thermalStop.l2 = []
    ∧ s.thermalStop.depots = lostDepots s.freeCtr
    ∧ s.thermalStop.mem = s.mem.filter fun c => c.1 < 2 ^ 40 := by
  unfold State.thermalStop
  obtain ⟨cs, h, -⟩ := writeLife_eq _
  rw [h]
  refine ⟨rfl, rfl, rfl, rfl, rfl, ?_, rfl⟩
  simp only [modSys_depots, lostDepots]

/-- The split of a depot whose state is lost is one that R226 allows. -/
theorem lostDepot_split (k : Nat) : 1 ≤ (lostDepot k).cend ∧ (lostDepot k).cend ≤ (lostDepot k).pend
    ∧ (lostDepot k).pend ≤ (lostDepot k).fend ∧ (lostDepot k).fend ≤ 128 := by
  unfold lostDepot
  dsimp only
  have hc := bits_lt (Config.freeWord k) 6 0
  generalize bits (Config.freeWord k) 6 0 = c at hc ⊢
  have hp := Nat.mod_lt (bits (Config.freeWord k) 23 8) (show 0 < 129 - (1 + c) by omega)
  generalize bits (Config.freeWord k) 23 8 % (129 - (1 + c)) = p at hp ⊢
  have hf := Nat.mod_lt (bits (Config.freeWord k) 39 24) (show 0 < 129 - (1 + c + p) by omega)
  generalize bits (Config.freeWord k) 39 24 % (129 - (1 + c + p)) = f at hf ⊢
  omega

/-! What each event makes of its operand. -/

section
variable {s : State}

theorem exec_coldStart {o : StartIn} (harg : s.arg = .startIn o) (hcont : o.cont = false) : exec .coldStart s = .next (s.coldStart o) := by
  show execColdStart s = _
  simp only [execColdStart, harg, hcont, Bool.not_false, if_true]

/-- The state after the fields pres and npres of SYS.BOOTCTL are written (R53). -/
def bootctlWritten (s : State) (v : Word) : State := s.modBoot fun b => { b with pres := bit v 5, npres := bits v 4 1 }

/-- Whether a write of SYS.BOOTCTL begins a warm start (R22, R53). -/
def BeginsWarm (s : State) (v : Word) : Prop := bit v 0 = true ∧ (s.sys.power.stopped = true → s.sys.power.tj < 95)

theorem beginsWarm_iff (s : State) (v : Word) : BeginsWarm s v ↔ (!bit v 0 || (s.sys.power.stopped && 95 ≤ s.sys.power.tj)) = false := by
  simp [BeginsWarm]

theorem exec_warmStart {w : WarmIn} (harg : s.arg = .warmIn w) (h : BeginsWarm s w.v) :
    exec .warmStart s = .next ((bootctlWritten s w.v).warmStart w.start) := by
  have hb := (beginsWarm_iff s w.v).mp h
  show execWarmStart s = _
  simp only [execWarmStart, harg, hb, Bool.false_eq_true, if_false]
  rfl

theorem exec_warmStart_none {w : WarmIn} (harg : s.arg = .warmIn w) (h : ¬BeginsWarm s w.v) :
    exec .warmStart s = .next (bootctlWritten s w.v) := by
  have hb := eq_true_of_ne_false (mt (beginsWarm_iff s w.v).mpr h)
  show execWarmStart s = _
  simp only [execWarmStart, harg, hb, if_true]
  rfl

theorem writtenBack_bootctlWritten (s : State) (v : Word) : (bootctlWritten s v).writtenBack.mem = s.writtenBack.mem := by
  rw [bootctlWritten, State.modBoot, writtenBack_modSys, modSys_mem]

/-- Whether the end of a thermal stop begins a warm start: every die reads below 95 degrees (R22). -/
def EndsStop (s : State) (tj : List Nat) : Prop := s.sys.power.stopped = true ∧ tj.length = 4 ∧ ∀ x ∈ tj, x < 95

theorem endsStop_iff (s : State) (tj : List Nat) :
    EndsStop s tj ↔ (!s.sys.power.stopped || tj.length != 4 || tj.any fun t => 95 ≤ t) = false := by
  simp [EndsStop, and_assoc]

theorem exec_thermalStopEnd {w : WarmIn} (harg : s.arg = .warmIn w) (h : EndsStop s w.tj) :
    exec .thermalStopEnd s = .next (s.warmStart w.start) := by
  have hb := (endsStop_iff s w.tj).mp h
  show execThermalStopEnd s = _
  simp only [execThermalStopEnd, harg, hb, Bool.false_eq_true, if_false]

theorem exec_thermalStopEnd_none {w : WarmIn} (harg : s.arg = .warmIn w) (h : ¬EndsStop s w.tj) : exec .thermalStopEnd s = .next s := by
  have hb := eq_true_of_ne_false (mt (endsStop_iff s w.tj).mpr h)
  show execThermalStopEnd s = _
  simp only [execThermalStopEnd, harg, hb, if_true]

theorem exec_recoveryFrame {o : ImageIn} (harg : s.arg = .imageIn o) (hr : s.sys.boot.recovery = true) (hlo : 64 ≤ o.data.length)
    (hhi : o.data.length ≤ 8192) (ha : o.offset ≠ BitVec.allOnes 64) : exec .recoveryFrame s =
    .next ((s.modBoot fun b => { b with image := putImage b.image o.offset.toNat o.data }).emit (.recovery o.port o.offset)) := by
  show execRecoveryFrame s = _
  simp only [execRecoveryFrame, harg, hr, Nat.not_lt.mpr hlo, Nat.not_lt.mpr hhi, beq_false_of_ne ha, Bool.not_true, decide_false,
    Bool.or_self, Bool.false_eq_true, if_false]

theorem exec_recoveryFrame_off {o : ImageIn} (harg : s.arg = .imageIn o) (hr : s.sys.boot.recovery = false) :
    exec .recoveryFrame s = .next s := by
  show execRecoveryFrame s = _
  simp only [execRecoveryFrame, harg, hr, Bool.not_false, Bool.true_or, if_true]

theorem exec_recoveryEnd_rejected {o : RecEndIn} (harg : s.arg = .recEndIn o) (hr : s.sys.boot.recovery = true) {c : Nat}
    (hc : s.flash.reject (receivedImage s.sys.boot.image) = some c) : exec .recoveryEnd s =
    .next ((s.emit (.recovery o.port (BitVec.allOnes 64))).modBoot fun b => { b with image := [] }) := by
  show execRecoveryEnd s = _
  simp only [execRecoveryEnd, harg, hr, hc, Bool.not_true, Bool.false_eq_true, if_false]

/-- The state with a received image in force and counted, from which its cold start begins (R56, R59). -/
def recovered (s : State) (port : Nat) (img : List Byte) : State :=
  { (s.emit (.recovery port (BitVec.allOnes 64))).modBoot fun b => { b with fw := none } with
    flash := s.flash.write (trimImage img), life := { s.life with recoveries := bump s.life.recoveries } }

theorem exec_recoveryEnd_accepted {o : RecEndIn} (harg : s.arg = .recEndIn o) (hr : s.sys.boot.recovery = true)
    (hc : s.flash.reject (receivedImage s.sys.boot.image) = none) :
    exec .recoveryEnd s = .next ((recovered s o.port (receivedImage s.sys.boot.image)).coldStart o.start) := by
  show execRecoveryEnd s = _
  simp only [execRecoveryEnd, harg, hr, hc, Bool.not_true, Bool.false_eq_true, if_false]
  rfl

theorem exec_attestationRequest {o : NonceIn} (harg : s.arg = .nonceIn o) : exec .attestationRequest s =
    .next (s.emit (.report (s.reportHead o.nonce ++ padTo 4627 (Config.mldsaSign s.flash.seed (Config.sha3 (s.reportHead o.nonce)))))) := by
  show execAttestationRequest s = _
  unfold execAttestationRequest
  rw [harg]

theorem exec_fuseSvnRaise {o : ValRef} (harg : s.arg = .valRef o) : exec .fuseSvnRaise s =
    .next (if o.v.toNat ≤ s.flash.minSvn ∨ 65535 < o.v.toNat then s else { s with flash := { s.flash with minSvn := o.v.toNat } }) := by
  show execFuseSvnRaise s = _
  unfold execFuseSvnRaise
  rw [harg]
  simp only [Bool.or_eq_true, decide_eq_true_eq]

/-- The state without power: memory is lost, the lifetime records are those of the newer flash copy (R59). -/
def poweredOff (s : State) : State :=
  { s.cleared with
    mem := []
    poison := []
    agenda := []
    sys := { Sys.init with clock := s.sys.clock, boot := { Sys.init.boot with fw := s.sys.boot.fw } }
    life := match s.newestCopy with | some c => c.image | none => .init }

theorem exec_powerLoss {o : LossIn} (harg : s.arg = .lossIn o) : exec .powerLoss s = .next (poweredOff s) := by
  show execPowerLoss s = _
  unfold execPowerLoss
  rw [harg]
  rfl

end

/-! The clauses of O60. -/

section
variable (s : State) (o : StartIn)

theorem coldStart_linked (h : PlainStart s o) (hc : s.flash.reject s.flash.bank = none) :
    LinksUp (fieldAt s.flash.bank 8 8) (s.coldStart o) ∧ (s.coldStart o).sys.boot.kind = 0 ∧ (s.coldStart o).sys.time = 0
      ∧ (s.coldStart o).sys.podcfg = Sys.init.podcfg ∧ (s.coldStart o).life.colds = min (s.life.colds + 1) (2 ^ 64 - 1)
      ∧ ∀ k, k < 2 ^ 39 → (s.coldStart o).mem.byte k = 0 := by
  obtain ⟨-, hlife, hkind⟩ := coldStart_records s o
  obtain ⟨a, ha⟩ := coldStart_plain s o h hc
  refine ⟨?_, hkind, ?_, ?_, ?_, ?_⟩
  · rw [ha]
    exact linksUp_linkedUp _ _ _ _ _ _ _ _ rfl rfl rfl
  · rw [ha]
    rfl
  · rw [ha]
    rfl
  · rw [hlife]
    exact bump_eq_min _
  · intro k hk
    rw [ha]
    exact (byte_zeroHbm (coldBase s) [] hk).trans (if_neg fun ⟨_, hr, _⟩ => nomatch hr)

/-- A warm start that meets nothing out of order keeps the ranges of its preserve table, with the page of the table itself. -/
theorem warmStart_linked (h : PlainStart s o) (hc : s.flash.reject s.flash.bank = none) (hn : s.sys.boot.npres < 16)
    (hl : s.sys.boot.pres = true → preserveOk (presTable s.writtenBack.mem s.sys.boot.npres) = true) :
    LinksUp (fieldAt s.flash.bank 8 8) (s.warmStart o) ∧ (s.warmStart o).sys.boot.kind = 1
      ∧ (s.warmStart o).sys.time = s.sys.time ∧ (s.warmStart o).sys.podcfg = s.sys.podcfg
      ∧ ∀ k, k < 2 ^ 39 → (s.warmStart o).mem.byte k =
          if k < 4096 ∨ s.sys.boot.pres = true ∧ ∃ r ∈ presTable s.writtenBack.mem s.sys.boot.npres, r.1 ≤ k ∧ k < r.1 + r.2
          then s.writtenBack.mem.byte k else 0 := by
  obtain ⟨a, ha⟩ := warmStart_plain s o h hc hn hl
  rw [ha]
  refine ⟨linksUp_linkedUp _ _ _ _ _ _ _ _ rfl rfl rfl, rfl, warmBase_time s, warmBase_podcfg s, fun k hk => ?_⟩
  rw [byte_linkedUp_warm s _ _ a hk]
  exact ite_congr (propext mem_keptOf) (fun _ => rfl) (fun _ => rfl)

theorem recovered_coldStart (port : Nat) (img : List Byte) : ((recovered s port img).coldStart o).flash.bank = trimImage img
    ∧ ((recovered s port img).coldStart o).life.recoveries = min (s.life.recoveries + 1) (2 ^ 64 - 1)
    ∧ ((recovered s port img).coldStart o).sys.boot.kind = 0 := by
  obtain ⟨hflash, hlife, hkind⟩ := coldStart_records (recovered s port img) o
  refine ⟨?_, ?_, hkind⟩
  · rw [hflash]
    exact bank_write s.flash (trimImage img)
  · rw [hlife]
    exact bump_eq_min _

end

/-- A sample above the droop limit with no die at 100 degrees (R20). -/
theorem sampled_droop (s : State) (x : PowerIn) (hmw : 2800000 < x.mw) (ht : ∀ t ∈ x.tj, t < 100) : (sampled s x).mem = s.mem
    ∧ (sampled s x).sys.power.step = 3 ∧ (sampled s x).sys.power.cause = 2
    ∧ (sampled s x).life.droops = min (s.life.droops + 1) (2 ^ 64 - 1)
    ∧ (sampled s x).sys.power.thr = if s.sys.power.step = 3 then s.sys.power.thr else min (s.sys.power.thr + 1) 0xFFFFFFFF := by
  obtain ⟨hstep, hcause, hthr⟩ := move_droop (s.sys.power.count x.mw x.tj) x.mw hmw (count_tThermal s.sys.power x.mw ht)
  exact ⟨rfl, hstep, hcause, (if_pos hmw).trans (bump_eq_min _), hthr⟩

/-- A thermal stop after a sample (R22). -/
theorem thermalStop_sampled (s : State) (x : PowerIn) :
    let t := (sampled s x).thermalStop
    t.sys.power.stopped = true ∧ t.sys.power.cause = 3 ∧ t.life.thermals = min (s.life.thermals + 1) (2 ^ 64 - 1)
      ∧ t.transit = [] ∧ t.l2 = []
      ∧ (∀ n, n < 512 → let q := t.depots.get n .init; 1 ≤ q.cend ∧ q.cend ≤ q.pend ∧ q.pend ≤ q.fend ∧ q.fend ≤ 128)
      ∧ ∀ k, k < 2 ^ 40 → t.mem.byte k = s.mem.byte k := by
  obtain ⟨hstop, hcause, htherm, htransit, hl2, hdepots, hmem⟩ := thermalStop_spec (sampled s x)
  refine ⟨hstop, hcause, htherm.trans (bump_eq_min _), htransit, hl2, fun n hn => ?_, fun k hk => ?_⟩
  · rw [hdepots, lostDepots, tbl_get_map _ _ _ (List.mem_range.mpr hn)]
    exact lostDepot_split _
  · rw [hmem]
    exact (byte_filter s.mem (fun a => decide (a < 2 ^ 40)) k).trans (if_pos (decide_eq_true hk))

theorem npres_lt (s : State) (v : Word) : (bootctlWritten s v).sys.boot.npres < 16 := bits_lt v 4 1

/-- Settles O60: each event is one equation of its meaning, and what the start steps leave is said by the laws above. -/
theorem startEventResults : Obligations.StartEventResults := by
  unfold Obligations.StartEventResults
  intro s o bank plain linked u
  refine ⟨fun harg hcont => ?_, fun w harg hw => ?_, fun p a bs harg => ?_, fun p harg hr => ?_, fun bs harg => ?_, fun v harg => ?_,
    ?_, ?_, fun x harg => ?_, fun x harg => ?_⟩
  · -- R49, R50, R52: cold starts.
    have hexec := exec_coldStart harg hcont
    exact ⟨fun h => ⟨_, hexec, coldStart_unfused s o h⟩, fun c h hc => ⟨_, hexec, coldStart_rejected s o h hc⟩,
      fun k h hc hk hk8 => ⟨_, hexec, coldStart_hbmFail s o h hc hk hk8⟩, fun h hc => ⟨_, hexec, coldStart_linked s o h hc⟩⟩
  · -- R22, R50, R52, R53: warm starts and the end of a thermal stop.
    subst hw
    intro l runs
    have hmem := writtenBack_bootctlWritten s w.v
    have htab : presTable (bootctlWritten s w.v).writtenBack.mem (bootctlWritten s w.v).sys.boot.npres = l := by
      rw [hmem]
      rfl
    refine ⟨fun h => ⟨_, exec_warmStart_none harg h, rfl, rfl, rfl⟩, fun h hp hc hpres => ?_, fun h hp hc hpres hl => ?_,
      fun h hp hc hpres hl => ?_, fun h1 h2 h3 => exec_thermalStopEnd harg ⟨h1, h2, h3⟩, fun h => exec_thermalStopEnd_none harg ?_⟩
    · obtain ⟨hlinked, hkind, htime, hpod, hbyte⟩ := warmStart_linked (bootctlWritten s w.v) w.start hp hc (npres_lt s w.v)
        (fun h => absurd (hpres.symm.trans h) Bool.false_ne_true)
      refine ⟨_, exec_warmStart harg h, hlinked, hkind, htime, hpod, fun k hk => ?_⟩
      rw [hbyte k hk, hmem]
      exact ite_congr (propext (or_iff_left fun h => absurd (hpres.symm.trans h.1) Bool.false_ne_true)) (fun _ => rfl) (fun _ => rfl)
    · obtain ⟨hstep, hcode, hbyte⟩ := warmStart_badList (bootctlWritten s w.v) w.start hp hc (npres_lt s w.v) hpres (by rwa [htab])
      exact ⟨_, exec_warmStart harg h, hstep, hcode, fun k hk => (hbyte k hk).trans (by rw [hmem])⟩
    · obtain ⟨hlinked, -, -, -, hbyte⟩ := warmStart_linked (bootctlWritten s w.v) w.start hp hc (npres_lt s w.v)
        (fun _ => by rwa [htab])
      refine ⟨_, exec_warmStart harg h, hlinked, fun k hk => ?_⟩
      rw [hbyte k hk, htab, hmem]
      exact ite_congr (propext (or_congr_right (and_iff_right hpres))) (fun _ => rfl) (fun _ => rfl)
    · rintro ⟨h1, h2, h3⟩
      rcases h with h | h | ⟨x, hx, h95⟩
      · exact Bool.false_ne_true (h.symm.trans h1)
      · exact h h2
      · exact absurd (h3 x hx) (Nat.not_lt.mpr h95)
  · -- R56: recovery frames.
    refine ⟨fun hr hlo hhi ha => ⟨_, exec_recoveryFrame harg hr hlo hhi ha, rfl, rfl, fun k => ?_⟩, exec_recoveryFrame_off harg⟩
    exact putImage_get s.sys.boot.image a.toNat bs k
  · -- R56: the end of a recovery load.
    exact ⟨fun c hc => ⟨_, exec_recoveryEnd_rejected harg hr hc, hr, rfl, rfl, rfl⟩,
      fun hc => ⟨_, exec_recoveryEnd_accepted harg hr hc, recovered_coldStart s o p _⟩⟩
  · -- R57: attestation.
    exact ⟨_, s.reportHead bs, exec_attestationRequest harg, rfl, reportHead_length s bs, reportHead_nonce s bs, rfl⟩
  · -- R55: the fused minimum.
    rw [exec_fuseSvnRaise harg]
    refine ⟨fun hlo hhi => ?_, fun hle => ?_⟩
    · rw [if_neg fun h => h.elim (Nat.not_le.mpr hlo) (Nat.not_lt.mpr hhi)]
    · rw [if_pos (Or.inl hle)]
  · -- R59: the lifetime records.
    obtain ⟨cs, hcs, hmem⟩ := writeLife_eq s
    obtain ⟨a, ha⟩ := postLife_eq s.writeLife
    refine ⟨s.writeLife.postLife, rfl, ?_⟩
    rw [ha, hcs]
    exact ⟨rfl, rfl, hmem⟩
  · -- R60: their copy.
    intro n s1 c harg hn hc m root hused hlen h1
    refine ⟨_, completionWord_ne_zero (Config.freeWord s1.freeCtr), fun s3 h3 => ?_⟩
    rw [exec_recordCopyRequest harg hn hc hused hlen, copyOut_done h1 h3]
  · -- R20-R22: power samples.
    refine ⟨fun hmw ht => ⟨_, exec_powerSample_cool harg fun t h => ?_, sampled_droop s x hmw ht⟩,
      fun hhot hs => ⟨_, exec_powerSample_hot harg hhot hs, thermalStop_sampled s x⟩⟩
    exact Int.lt_trans (ht t h) (by decide)
  · -- R56, R59: power loss.
    exact ⟨poweredOff s, exec_powerLoss harg, rfl, cleared_flash s, rfl, rfl⟩

end Sys2Proof.Laws

/-! O57: what the firmware and the hosts ask of the host ports (02 R25-R33). -/

namespace Sys2Proof.Laws

open Sys2Proof Sys2Proof.Machine

/-! What an update of a port, a QP or an answer leaves of the rest. -/


theorem portOfNet_modPort (s : State) (p k : Nat) (f : Port → Port) :
    (s.modPort p f).portOfNet k = if k = p then f (s.portOfNet p) else s.portOfNet k := tbl_get_set ..

@[simp] theorem portOfNet_modPort_self (s : State) (p : Nat) (f : Port → Port) : (s.modPort p f).portOfNet p = f (s.portOfNet p) :=
  tbl_get_set_self ..

@[simp] theorem modQp_mem (s : State) (q : Nat) (f : QP → QP) : (s.modQp q f).mem = s.mem := rfl
@[simp] theorem modQp_outbox (s : State) (q : Nat) (f : QP → QP) : (s.modQp q f).outbox = s.outbox := rfl

@[simp] theorem qp_modQp_self (s : State) (q : Nat) (f : QP → QP) : (s.modQp q f).qp q = f (s.qp q) := tbl_get_set_self ..

@[simp] theorem emit_outbox (s : State) (o : Out) : (s.emit o).outbox = s.outbox ++ [o] := rfl
@[simp] theorem qp_emit (s : State) (o : Out) (q : Nat) : (s.emit o).qp q = s.qp q := rfl
@[simp] theorem answer_mem (s : State) (q : Nat) (r : HostReply) : (s.answer q r).mem = s.mem := rfl
@[simp] theorem answer_outbox (s : State) (q : Nat) (r : HostReply) : (s.answer q r).outbox = s.outbox ++ [.host q r] := rfl
@[simp] theorem qp_answer (s : State) (q : Nat) (r : HostReply) (k : Nat) : (s.answer q r).qp k = s.qp k := rfl
@[simp] theorem nak_mem (s : State) (q : Nat) (r : HostReply) : (s.nak q r).mem = s.mem := rfl
@[simp] theorem nak_outbox (s : State) (q : Nat) (r : HostReply) : (s.nak q r).outbox = s.outbox ++ [.host q r] := rfl
@[simp] theorem qp_nak (s : State) (q : Nat) (r : HostReply) : (s.nak q r).qp q = { s.qp q with err := true } :=
  qp_modQp_self (s.answer q r) q _

/-! What becomes of a message by its QP, its port and its number (R25, R27, R33). -/

/-- A QP is connected and its port's link is up. -/
def LiveQp (s : State) (q : Nat) : Prop := (s.qp q).conn = true ∧ (s.portOfNet (s.qp q).port).up = true

/-- A live QP that is not in error. -/
def ReadyQp (s : State) (q : Nat) : Prop := LiveQp s q ∧ (s.qp q).err = false

/-- The state in which the message of n bytes with number psn has been counted as received. -/
def counted (s : State) (q n psn : Nat) : State :=
  s.modQp q fun y => { y with epsn := (psn + packetsOf (s.qp q).mtu n) % 2 ^ 24, nakSent := false }

section
variable {s : State} {p : PktIn} {n : Nat} {again k : QP → State → State}

theorem onQp_notReady (hf : p.frame ≤ 9216) (h : ¬ReadyQp s p.qp) : s.onQp p n again k = s := by
  unfold State.onQp
  dsimp only
  by_cases hup : (s.portOfNet (if (s.qp p.qp).conn then (s.qp p.qp).port else p.port)).up = true
  · have hbad : (!(s.qp p.qp).conn || (s.qp p.qp).err) = true := by
      cases hc : (s.qp p.qp).conn with
      | false => rfl
      | true =>
        cases he : (s.qp p.qp).err with
        | true => rfl
        | false => exact absurd ⟨⟨hc, by rwa [hc] at hup⟩, he⟩ h
    simp only [hup, hbad, Nat.not_lt.mpr hf, Bool.not_true, Bool.false_eq_true, if_false, if_true]
  · rw [Bool.not_eq_true] at hup
    simp only [hup, Bool.not_false, if_true]

theorem onQp_tooLong_live (hf : 9216 < p.frame) (h : LiveQp s p.qp) : s.onQp p n again k = s.dropFrame (s.qp p.qp).port := by
  obtain ⟨hc, hup⟩ := h
  simp only [State.onQp, hc, hup, hf, Bool.not_true, Bool.false_eq_true, if_false, if_true]

theorem onQp_tooLong_unconnected (hf : 9216 < p.frame) (hc : (s.qp p.qp).conn = false) (hup : (s.portOfNet p.port).up = true) :
    s.onQp p n again k = s.dropFrame p.port := by
  simp only [State.onQp, hc, hup, hf, Bool.not_true, Bool.false_eq_true, if_false, if_true]

/-- On a ready QP a message without CE goes by its number. -/
theorem onQp_ready (hf : p.frame ≤ 9216) (h : ReadyQp s p.qp) (hce : p.ce = false) :
    s.onQp p n again k = s.inSequence p n (s.qp p.qp) (seqDiff p.psn (s.qp p.qp).epsn) again k := by
  obtain ⟨⟨hc, hup⟩, he⟩ := h
  simp only [State.onQp, State.sendCnp, hc, hup, he, hce, Nat.not_lt.mpr hf, Bool.not_true, Bool.or_self, Bool.false_and,
    Bool.false_eq_true, if_false, if_true]

theorem onQp_next (hf : p.frame ≤ 9216) (h : ReadyQp s p.qp) (hce : p.ce = false) (hs : seqDiff p.psn (s.qp p.qp).epsn = 0) :
    s.onQp p n again k = k (s.qp p.qp) (counted s p.qp n p.psn) := by
  rw [onQp_ready hf h hce, State.inSequence, hs]
  rfl

variable {x : QP} {ahead : Nat}

theorem inSequence_before (h : 2 ^ 23 ≤ ahead) : s.inSequence p n x ahead again k = again x s := by
  have h0 : (ahead == 0) = false := beq_false_of_ne (by omega)
  simp only [State.inSequence, h0, h, Bool.false_eq_true, if_false, if_true]

theorem inSequence_ahead (h0 : 0 < ahead) (h : ahead < 2 ^ 23) : s.inSequence p n x ahead again k =
    if x.nakSent then s else (s.answer p.qp (.nakSeq x.epsn)).modQp p.qp fun y => { y with nakSent := true } := by
  have h0 : (ahead == 0) = false := beq_false_of_ne (by omega)
  simp only [State.inSequence, h0, Nat.not_le.mpr h, Bool.false_eq_true, if_false]

end

/-! The meanings of the host operations, one equation each. -/

section
variable {s : State}

theorem exec_hostWrite {o : HostWr} (h : s.arg = .hostWr o) : exec .hostWrite s =
    .next (s.onQp (pktOfWr o) o.data.length (fun _ s => s.answer o.qp .ack) fun _ s => s.doWrite o fun s => s.answer o.qp .ack) := by
  show execHostWrite s = _
  unfold execHostWrite
  rw [h]

/-- What a WRITE with immediate does when it is the message expected. -/
def writeImmAt (o : HostWr) (x : QP) (s : State) : State :=
  match x.recv with
  | [] => s.notReady o.qp x
  | b :: r => s.doWrite o fun s =>
    ((s.modQp o.qp fun x => { x with recv := r }).emit (.deliver o.qp b.1 o.data.length (some o.imm) false)).answer o.qp .ack

theorem exec_hostWriteImm {o : HostWr} (h : s.arg = .hostWr o) : exec .hostWriteImm s =
    .next (s.onQp (pktOfWr o) o.data.length (fun _ s => s.answer o.qp .ack) (writeImmAt o)) := by
  show execHostWriteImm s = _
  unfold execHostWriteImm
  rw [h]
  rfl

/-- What a SEND does when it is the message expected. -/
def sendAt (o : HostWr) (x : QP) (s : State) : State :=
  match x.recv with
  | [] => s.notReady o.qp x
  | b :: r =>
    let long := decide (b.2 < o.data.length) || decide (maxMessage < o.data.length)
    let fit := o.data.take b.2
    match s.hostWrite s.sys.svptbr true (pieces b.1.toNat fit.length) fit with
    | (s1, some va) => s1.hostFault o.qp va
    | (s1, none) =>
      let s2 := (s1.modQp o.qp fun x => { x with recv := r }).emit (.deliver o.qp b.1 fit.length none long)
      if long then s2.nak o.qp .nakInvalid else s2.answer o.qp .ack

theorem exec_hostSend {o : HostWr} (h : s.arg = .hostWr o) : exec .hostSend s =
    .next (s.onQp (pktOfWr o) o.data.length (fun _ s => s.answer o.qp .ack) (sendAt o)) := by
  show execHostSend s = _
  unfold execHostSend
  rw [h]
  rfl

/-- A SEND, a WRITE and a WRITE with immediate differ in what they do when they are the message expected, and in nothing else. -/
theorem exec_ofMessage {o : HostWr} (h : s.arg = .hostWr o) {i : Instr} (hi : i ∈ [Instr.hostSend, .hostWrite, .hostWriteImm]) :
    ∃ k, exec i s = .next (s.onQp (pktOfWr o) o.data.length (fun _ s => s.answer o.qp .ack) k) := by
  simp only [List.mem_cons, List.not_mem_nil, or_false] at hi
  rcases hi with rfl | rfl | rfl
  · exact ⟨_, exec_hostSend h⟩
  · exact ⟨_, exec_hostWrite h⟩
  · exact ⟨_, exec_hostWriteImm h⟩

theorem exec_hostRead {o : HostRd} (h : s.arg = .hostRd o) : exec .hostRead s =
    .next (s.onQp (pktOfRd o) o.len (fun x s => s.doRead o x) fun x s => s.doRead o x) := by
  show execHostRead s = _
  unfold execHostRead
  rw [h]

theorem exec_fetchAdd {o : HostAt} (h : s.arg = .hostAt o) : exec .fetchAdd s = .next (s.hostAtomic o fun old => some (old + o.x)) := by
  show execFetchAdd s = _
  unfold execFetchAdd
  rw [h]

theorem exec_cmpSwap {o : HostAt} (h : s.arg = .hostAt o) :
    exec .cmpSwap s = .next (s.hostAtomic o fun old => if old == o.x then some o.y else none) := by
  show execCmpSwap s = _
  unfold execCmpSwap
  rw [h]

theorem exec_hostInvalidOpcode {o : PktIn} (h : s.arg = .pktIn o) : exec .hostInvalidOpcode s =
    .next (s.onQp o 0 (fun _ s => s.answer o.qp .ack) fun _ s => s.nak o.qp .nakInvalid) := by
  show execHostInvalidOpcode s = _
  unfold execHostInvalidOpcode
  rw [h]

theorem exec_cnpReceived {q : Nat} (h : s.arg = .idxRef { i := q }) (hr : ReadyQp s q) :
    exec .cnpReceived s = .next (s.modQp q fun x => { x with rate := Config.dcqcn x.dcq x.rate }) := by
  obtain ⟨⟨hc, hup⟩, he⟩ := hr
  show execCnpReceived s = _
  unfold execCnpReceived
  rw [h]
  simp only [hc, hup, he, Bool.not_true, Bool.or_self, Bool.false_eq_true, if_false]

theorem exec_cmRequest_connect {o : CmIn} (h : s.arg = .cmIn o) : exec .cmRequest s = .next (s.connect o) := by
  show execCmRequest s = _
  unfold execCmRequest
  rw [h]

theorem exec_cmRequest_firmware {o : FwNet} (h : s.arg = .fwNet o) : exec .cmRequest s = .next (s.firmwareNet o) := by
  show execCmRequest s = _
  unfold execCmRequest
  rw [h]

end


/-! The firmware at the host ports (R27, R33). -/

section
variable {s : State} {q : Nat}

/-- A connected QP as a connection request leaves it. -/
def connected (o : CmIn) (x : QP) : QP :=
  { x with
    conn := true, err := false, port := o.port, mtu := o.mtu, timer := o.timer, dscp := o.dscp, cnpAt := none
    epsn := o.psn % 2 ^ 24, nakSent := false, saved := [], spsn := o.spsn % 2 ^ 24, posted := [] }

theorem connect_eq {o : CmIn} (hup : (s.portOfNet o.port).up = true) (hmtu : o.mtu = 1024 ∨ o.mtu = 2048 ∨ o.mtu = 4096)
    (hport : (s.qp o.qp).conn = true → (s.qp o.qp).port = o.port) :
    s.connect o = (s.modQp o.qp (connected o)).emit (.cm o.port o.qp) := by
  have hm : (o.mtu == 1024 || o.mtu == 2048 || o.mtu == 4096) = true := by
    simpa only [Bool.or_eq_true, beq_iff_eq, or_assoc] using hmtu
  have hp : ((s.qp o.qp).conn && (s.qp o.qp).port != o.port) = false := by
    cases hc : (s.qp o.qp).conn with
    | false => rfl
    | true => simp only [hport hc, bne_self_eq_false, Bool.and_false]
  simp only [State.connect, hup, hm, hp, Bool.not_true, Bool.or_self, Bool.false_eq_true, if_false]
  rfl

/-- The entry of a READ that the firmware posts. -/
def postedRead (s : State) (q : Nat) (p : PostIn) : Posted :=
  { psn := (s.qp q).spsn, pkts := packetsOf (s.qp q).mtu p.n, req := p, data := [], held := false }

/-- The state with a posted request in its QP's list, its numbers taken. -/
def enlisted (s : State) (q : Nat) (e : Posted) : State :=
  s.modQp q fun y => { y with spsn := (y.spsn + e.pkts) % 2 ^ 24, posted := y.posted ++ [e] }

theorem postReq_read {p : PostIn} (hop : p.op = .read) (h : ReadyQp s q) :
    s.postReq q p = (enlisted s q (postedRead s q p)).sendPost q (postedRead s q p) := by
  obtain ⟨⟨hc, -⟩, he⟩ := h
  simp only [State.postReq, State.postData, postLen, hop, hc, he, Bool.not_true, Bool.or_self, Bool.false_eq_true, if_false]
  rfl

theorem qp_enlisted (s : State) (q : Nat) (e : Posted) : (enlisted s q e).qp q =
    { s.qp q with spsn := ((s.qp q).spsn + e.pkts) % 2 ^ 24, posted := (s.qp q).posted ++ [e] } := qp_modQp_self ..

/-- Numbering a request changes neither the port of its QP nor its priority. -/
theorem sendPost_enlisted (e : Posted) (hup : (s.portOfNet (s.qp q).port).up = true) : (enlisted s q e).sendPost q e =
    if s.pausedQp (s.qp q) then
      (enlisted s q e).modQp q fun x => { x with posted := x.posted.map fun r => if r.psn == e.psn then { r with held := true } else r }
    else (enlisted s q e).emit (.request q e) := by
  have hport : ((enlisted s q e).portOfNet ((enlisted s q e).qp q).port).up = true := by rw [qp_enlisted]; exact hup
  have hpaused : (enlisted s q e).pausedQp ((enlisted s q e).qp q) = s.pausedQp (s.qp q) := by rw [qp_enlisted]; rfl
  simp only [State.sendPost, hport, hpaused, Bool.not_true, Bool.false_eq_true, if_false]

/-- A pause marks the request just posted, where no earlier one has its number. -/
theorem map_held {l : List Posted} {e : Posted} (h : ∀ y ∈ l, y.psn ≠ e.psn) :
    ((l ++ [e]).map fun r => if r.psn == e.psn then { r with held := true } else r) = l ++ [{ e with held := true }] := by
  have hl : (l.map fun r => if r.psn == e.psn then { r with held := true } else r) = l :=
    (List.map_congr_left fun y hy => if_neg (by simpa using h y hy)).trans (List.map_id' l)
  rw [List.map_append, hl]
  simp only [List.map_cons, List.map_nil, beq_self_eq_true, if_true]

theorem onReply_tooLong {psn n : Nat} {r : PostReply} {ce : Bool} (h : LiveQp s q) (hn : 9216 < n) :
    s.onReply q psn r ce n = s.dropFrame (s.qp q).port := by
  obtain ⟨hc, hup⟩ := h
  simp only [State.onReply, hc, hup, hn, Bool.not_true, Bool.or_self, Bool.false_eq_true, if_false, if_true]

theorem onReply_ready {psn n : Nat} {r : PostReply} {ce : Bool} (h : LiveQp s q) (hn : n ≤ 9216) (he : (s.qp q).err = false) :
    s.onReply q psn r ce n = (s.sendCnp q ce).takeReply q psn r := by
  obtain ⟨hc, hup⟩ := h
  simp only [State.onReply, hc, hup, he, Nat.not_lt.mpr hn, Bool.not_true, Bool.or_self, Bool.false_eq_true, if_false]

theorem pauseAt_on {p prio : Nat} (hup : (s.portOfNet p).up = true) (hpfc : (s.portOfNet p).pfc = some prio) :
    s.pauseAt p prio true = s.modPort p fun x => { x with paused := true } := by
  simp only [State.pauseAt, hup, hpfc, Bool.not_true, bne_self_eq_false, Bool.or_self, Bool.false_eq_true, if_false, if_true]

end

/-! A WRITE, a SEND and a READ that are the message expected (R28-R31). -/

section
variable {s : State} {o : HostWr} {k : State → State}

theorem doWrite_tooLong (h : 2 ^ 31 < o.data.length) : s.doWrite o k = s.nak o.qp .nakInvalid := if_pos h

theorem doWrite_noRegion (h : o.data.length ≤ 2 ^ 31) (hm : s.mrOf o.rkey o.va.toNat o.data.length (·.wr) = none) :
    s.doWrite o k = s.hostFault o.qp o.va.toNat := by
  simp only [State.doWrite, maxMessage, Nat.not_lt.mpr h, if_false, hm]

theorem doWrite_done {m : MR} {s1 : State} (h : o.data.length ≤ 2 ^ 31)
    (hm : s.mrOf o.rkey o.va.toNat o.data.length (·.wr) = some m)
    (hw : s.hostWrite (mrRoot m o.rkey) false (pieces o.va.toNat o.data.length) o.data = (s1, none)) : s.doWrite o k = k s1 := by
  simp only [State.doWrite, maxMessage, Nat.not_lt.mpr h, if_false, hm, hw]

theorem doWrite_fault {m : MR} {s1 : State} {f : Nat} (h : o.data.length ≤ 2 ^ 31)
    (hm : s.mrOf o.rkey o.va.toNat o.data.length (·.wr) = some m)
    (hw : s.hostWrite (mrRoot m o.rkey) false (pieces o.va.toNat o.data.length) o.data = (s1, some f)) :
    s.doWrite o k = s1.hostFault o.qp f := by
  simp only [State.doWrite, maxMessage, Nat.not_lt.mpr h, if_false, hm, hw]

theorem sendAt_noBuffer {x : QP} (h : x.recv = []) : sendAt o x s = s.notReady o.qp x := by rw [sendAt, h]

theorem writeImmAt_noBuffer {x : QP} (h : x.recv = []) : writeImmAt o x s = s.notReady o.qp x := by rw [writeImmAt, h]

theorem notReady_epsn (s : State) (q : Nat) (x : QP) : ((s.notReady q x).qp q).epsn = x.epsn := by
  rw [State.notReady, qp_modQp_self]

theorem writeImmAt_buffer {x : QP} {b : Word × Nat} {r : List (Word × Nat)} (h : x.recv = b :: r) :
    writeImmAt o x s = s.doWrite o fun s =>
      ((s.modQp o.qp fun x => { x with recv := r }).emit (.deliver o.qp b.1 o.data.length (some o.imm) false)).answer o.qp .ack := by
  rw [writeImmAt, h]

/-- The firmware's buffer has been filled: it is consumed and delivered. -/
def delivered (s : State) (o : HostWr) (b : Word × Nat) (r : List (Word × Nat)) : State :=
  (s.modQp o.qp fun x => { x with recv := r }).emit
    (.deliver o.qp b.1 (min b.2 o.data.length) none (decide (b.2 < o.data.length)))

theorem sendAt_buffer {x : QP} {b : Word × Nat} {r : List (Word × Nat)} {s1 : State} (h : o.data.length ≤ 2 ^ 31) (hr : x.recv = b :: r)
    (hw : s.hostWrite s.sys.svptbr true (pieces b.1.toNat (min b.2 o.data.length)) (o.data.take b.2) = (s1, none)) :
    sendAt o x s = if b.2 < o.data.length then (delivered s1 o b r).nak o.qp .nakInvalid else (delivered s1 o b r).answer o.qp .ack := by
  have hshort : decide (maxMessage < o.data.length) = false := decide_eq_false (Nat.not_lt.mpr h)
  simp only [sendAt, hr, List.length_take, hw, hshort, Bool.or_false, decide_eq_true_eq]
  rfl

variable {o : HostRd} {x : QP}

theorem doRead_refused (h : 64 ≤ o.ahead ∨ 2 ^ 31 < o.len) : s.doRead o x = s.nak o.qp .nakInvalid := by
  refine if_pos ?_
  simp only [Bool.or_eq_true, decide_eq_true_eq]
  exact h

theorem doRead_noRegion (h : o.ahead < 64) (hl : o.len ≤ 2 ^ 31) (hm : s.mrOf o.rkey o.va.toNat o.len (·.rd) = none) :
    s.doRead o x = s.hostFault o.qp o.va.toNat := by
  have hmax : maxMessage = 2 ^ 31 := rfl
  simp only [State.doRead, hmax, Nat.not_le.mpr h, Nat.not_lt.mpr hl, decide_false, Bool.or_self, Bool.false_eq_true, if_false, hm]

/-- How a READ ends at what it met: the packets before a poisoned granule stand (R31). -/
def readEnded (s1 : State) (o : HostRd) (x : QP) (bs : List Byte) : ReadEnd → State
  | .done => s1.answer o.qp (.data bs)
  | .fault f => s1.hostFault o.qp f
  | .poison f =>
    let n := (f - o.va.toNat) / x.mtu * x.mtu
    ((if n = 0 then s1 else s1.answer o.qp (.data (bs.take n))).nak o.qp .nakOp).inform 2 (BitVec.ofNat 64 f)

theorem doRead_region {m : MR} {s1 : State} {bs : List Byte} {e : ReadEnd} (h : o.ahead < 64) (hl : o.len ≤ 2 ^ 31)
    (hm : s.mrOf o.rkey o.va.toNat o.len (·.rd) = some m)
    (hw : s.hostRead (mrRoot m o.rkey) false (pieces o.va.toNat o.len) = (s1, bs, e)) : s.doRead o x = readEnded s1 o x bs e := by
  have hmax : maxMessage = 2 ^ 31 := rfl
  simp only [State.doRead, hmax, Nat.not_le.mpr h, Nat.not_lt.mpr hl, decide_false, Bool.or_self, Bool.false_eq_true, if_false, hm, hw]
  cases e with
  | done => rfl
  | fault f => rfl
  | poison f => simp only [beq_iff_eq, readEnded, w64]

end

/-! Host atomics that are the message expected (R31, R32). -/

/-- What an atomic does when it is the message expected. -/
def atomicNow (o : HostAt) (f : Word → Option Word) (s : State) : State :=
  if 64 ≤ o.ahead then s.nak o.qp .nakInvalid
  else match s.mrOf o.rkey o.va.toNat 8 (·.at_) with
  | none => s.hostFault o.qp o.va.toNat
  | some m =>
    if o.va.toNat % 8 != 0 then s.nak o.qp .nakInvalid
    else match s.translate (mrRoot m o.rkey) false .rmw o.va.toNat with
      | .error _ => s.hostFault o.qp o.va.toNat
      | .ok l => s.hostAtomicAt o (mrRoot m o.rkey) { key := l.page + o.va.toNat % 4096, mt := l.mt } f

section
variable {s : State} {o : HostAt} {f : Word → Option Word}

theorem hostAtomic_eq : s.hostAtomic o f = s.onQp (pktOfAt o) 0 (fun x s => s.oldAgain o x) fun _ s => atomicNow o f s := rfl

theorem atomicNow_tooMany (h : 64 ≤ o.ahead) : atomicNow o f s = s.nak o.qp .nakInvalid := if_pos h

theorem atomicNow_noRegion (h : o.ahead < 64) (hm : s.mrOf o.rkey o.va.toNat 8 (·.at_) = none) :
    atomicNow o f s = s.hostFault o.qp o.va.toNat := by
  simp only [atomicNow, Nat.not_le.mpr h, if_false, hm]

variable {m : MR} (h : o.ahead < 64) (hm : s.mrOf o.rkey o.va.toNat 8 (·.at_) = some m)
include h hm

theorem atomicNow_misaligned (ha : o.va.toNat % 8 ≠ 0) : atomicNow o f s = s.nak o.qp .nakInvalid := by
  simp only [atomicNow, Nat.not_le.mpr h, if_false, hm, bne_iff_ne, ne_eq, ha, not_false_eq_true, if_true]

theorem atomicNow_place {l : Leaf} (ha : o.va.toNat % 8 = 0) (hl : s.translate (mrRoot m o.rkey) false .rmw o.va.toNat = .ok l) :
    atomicNow o f s = s.hostAtomicAt o (mrRoot m o.rkey) { key := l.page + o.va.toNat % 4096, mt := l.mt } f := by
  simp only [atomicNow, Nat.not_le.mpr h, if_false, hm, ha, bne_self_eq_false, Bool.false_eq_true, hl]

end

/-- The state that remembers the old value which an atomic answers. -/
def remembered (s : State) (o : HostAt) (old : Word) : State :=
  s.modQp o.qp fun y => { y with saved := ((o.psn, old) :: y.saved).take 64 }

theorem hostAtomicAt_some {s : State} {o : HostAt} {root : Word} {p : Phys} {f : Word → Option Word} {v : Word}
    (hp : s.poisoned p = false) (hv : f (BitVec.ofNat 64 (s.rd p 8)) = some v) : s.hostAtomicAt o root p f =
      (remembered ((s.hot (hostReq root) .rmw p o.va.toNat).wr p (leOf 8 v.toNat)) o (BitVec.ofNat 64 (s.rd p 8))).answer o.qp
        (.old (BitVec.ofNat 64 (s.rd p 8))) := by
  simp only [State.hostAtomicAt, hp, Bool.false_eq_true, if_false, w64, hv]
  rfl

theorem hostAtomicAt_none {s : State} {o : HostAt} {root : Word} {p : Phys} {f : Word → Option Word}
    (hp : s.poisoned p = false) (hv : f (BitVec.ofNat 64 (s.rd p 8)) = none) : s.hostAtomicAt o root p f =
      (remembered (s.hot (hostReq root) .rmw p o.va.toNat) o (BitVec.ofNat 64 (s.rd p 8))).answer o.qp
        (.old (BitVec.ofNat 64 (s.rd p 8))) := by
  simp only [State.hostAtomicAt, hp, Bool.false_eq_true, if_false, w64, hv]
  rfl

/-! The clauses of O57. -/

section
variable {s : State} {q : Nat}

/-- A message ahead of the one expected draws one sequence error and is not delivered (R33). -/
theorem exec_ofMessage_ahead {o : HostWr} (harg : s.arg = .hostWr o) (hce : o.ce = false) (hf : o.frame ≤ 9216) (hr : ReadyQp s o.qp)
    (h0 : 0 < seqDiff o.psn (s.qp o.qp).epsn) (h : seqDiff o.psn (s.qp o.qp).epsn < 2 ^ 23)
    {i : Instr} (hi : i ∈ [Instr.hostSend, .hostWrite, .hostWriteImm]) : exec i s =
    .next (if (s.qp o.qp).nakSent then s
      else (s.answer o.qp (.nakSeq (s.qp o.qp).epsn)).modQp o.qp fun y => { y with nakSent := true }) := by
  obtain ⟨k, hk⟩ := exec_ofMessage harg hi
  exact hk.trans (congrArg _ ((onQp_ready (p := pktOfWr o) hf hr hce).trans (inSequence_ahead h0 h)))

/-- A message before the one expected has been received: it is acknowledged again (R33). -/
theorem exec_ofMessage_before {o : HostWr} (harg : s.arg = .hostWr o) (hce : o.ce = false) (hf : o.frame ≤ 9216) (hr : ReadyQp s o.qp)
    (h : 2 ^ 23 ≤ seqDiff o.psn (s.qp o.qp).epsn) {i : Instr} (hi : i ∈ [Instr.hostSend, .hostWrite, .hostWriteImm]) :
    exec i s = .next (s.answer o.qp .ack) := by
  obtain ⟨k, hk⟩ := exec_ofMessage harg hi
  exact hk.trans (congrArg _ ((onQp_ready (p := pktOfWr o) hf hr hce).trans (inSequence_before h)))

section
variable {o : HostWr} (harg : s.arg = .hostWr o) (hce : o.ce = false) (hf : o.frame ≤ 9216)
  (hs : seqDiff o.psn (s.qp o.qp).epsn = 0) (hr : ReadyQp s o.qp)
include harg hce hf hs hr

theorem exec_hostWrite_next : exec .hostWrite s =
    .next ((counted s o.qp o.data.length o.psn).doWrite o fun s => s.answer o.qp .ack) := by
  rw [exec_hostWrite harg, onQp_next (p := pktOfWr o) hf hr hce hs]
  rfl

theorem exec_hostWriteImm_next : exec .hostWriteImm s =
    .next (writeImmAt o (s.qp o.qp) (counted s o.qp o.data.length o.psn)) := by
  rw [exec_hostWriteImm harg, onQp_next (p := pktOfWr o) hf hr hce hs]
  rfl

theorem exec_hostSend_next : exec .hostSend s = .next (sendAt o (s.qp o.qp) (counted s o.qp o.data.length o.psn)) := by
  rw [exec_hostSend harg, onQp_next (p := pktOfWr o) hf hr hce hs]
  rfl

/-- Without a posted buffer a SEND or a WRITE with immediate draws an RNR NAK and stays the message expected (R28). -/
theorem exec_noBuffer (hb : (s.qp o.qp).recv = []) {i : Instr} (hi : i ∈ [Instr.hostSend, .hostWriteImm]) :
    exec i s = .next ((counted s o.qp o.data.length o.psn).notReady o.qp (s.qp o.qp)) := by
  simp only [List.mem_cons, List.not_mem_nil, or_false] at hi
  rcases hi with rfl | rfl
  · rw [exec_hostSend_next harg hce hf hs hr, sendAt_noBuffer hb]
  · rw [exec_hostWriteImm_next harg hce hf hs hr, writeImmAt_noBuffer hb]

end

theorem exec_hostRead_next {o : HostRd} (harg : s.arg = .hostRd o) (hce : o.ce = false) (hf : o.frame ≤ 9216)
    (hs : seqDiff o.psn (s.qp o.qp).epsn = 0) (hr : ReadyQp s o.qp) :
    exec .hostRead s = .next ((counted s o.qp o.len o.psn).doRead o (s.qp o.qp)) := by
  rw [exec_hostRead harg, onQp_next (p := pktOfRd o) hf hr hce hs]
  rfl

section
variable {o : HostAt} (harg : s.arg = .hostAt o) (hce : o.ce = false) (hf : o.frame ≤ 9216)
  (hs : seqDiff o.psn (s.qp o.qp).epsn = 0) (hr : ReadyQp s o.qp)
include hce hf hs hr

theorem hostAtomic_next (f : Word → Option Word) : s.hostAtomic o f = atomicNow o f (counted s o.qp 0 o.psn) := by
  rw [hostAtomic_eq, onQp_next (p := pktOfAt o) hf hr hce hs]
  rfl

include harg

/-- The two atomics differ in the new value, and in nothing else. -/
theorem exec_ofAtomic {i : Instr} (hi : i ∈ [Instr.fetchAdd, .cmpSwap]) :
    ∃ f, exec i s = .next (atomicNow o f (counted s o.qp 0 o.psn)) := by
  simp only [List.mem_cons, List.not_mem_nil, or_false] at hi
  rcases hi with rfl | rfl
  · exact ⟨_, by rw [exec_fetchAdd harg, hostAtomic_next hce hf hs hr]⟩
  · exact ⟨_, by rw [exec_cmpSwap harg, hostAtomic_next hce hf hs hr]⟩

variable {m : MR} {l : Leaf} (h : o.ahead < 64) (hm : s.mrOf o.rkey o.va.toNat 8 (·.at_) = some m) (ha : o.va.toNat % 8 = 0)
  (hl : (counted s o.qp 0 o.psn).translate (mrRoot m o.rkey) false .rmw o.va.toNat = .ok l)
  (hp : (counted s o.qp 0 o.psn).poisoned { key := l.page + o.va.toNat % 4096, mt := l.mt } = false)
include h hm ha hl hp

theorem exec_fetchAdd_done :
    let u := counted s o.qp 0 o.psn
    let p : Phys := { key := l.page + o.va.toNat % 4096, mt := l.mt }
    let old := BitVec.ofNat 64 (u.rd p 8)
    exec .fetchAdd s = .next ((remembered
      ((u.hot (hostReq (mrRoot m o.rkey)) .rmw p o.va.toNat).wr p (leOf 8 (old + o.x).toNat)) o old).answer o.qp (.old old)) := by
  intro u p old
  rw [exec_fetchAdd harg, hostAtomic_next hce hf hs hr, atomicNow_place h (s := u) hm ha hl,
    hostAtomicAt_some (f := fun old => some (old + o.x)) hp rfl]

theorem exec_cmpSwap_done :
    let u := counted s o.qp 0 o.psn
    let p : Phys := { key := l.page + o.va.toNat % 4096, mt := l.mt }
    let old := BitVec.ofNat 64 (u.rd p 8)
    let h := u.hot (hostReq (mrRoot m o.rkey)) .rmw p o.va.toNat
    exec .cmpSwap s = .next ((remembered (if old = o.x then h.wr p (leOf 8 o.y.toNat) else h) o old).answer o.qp (.old old)) := by
  intro u p old h'
  rw [exec_cmpSwap harg, hostAtomic_next hce hf hs hr, atomicNow_place h (s := u) hm ha hl]
  by_cases hx : old = o.x
  · rw [if_pos hx, hostAtomicAt_some hp (if_pos (beq_iff_eq.mpr hx))]
  · rw [if_neg hx, hostAtomicAt_none hp (if_neg (mt beq_iff_eq.mp hx))]

end

end

/-- The outcome of a SEND that finds a buffer: a message longer than the buffer is delivered with its error (R28). -/
theorem send_outcome (s1 : State) (o : HostWr) (b : Word × Nat) (r : List (Word × Nat)) :
    let t := if b.2 < o.data.length then (delivered s1 o b r).nak o.qp .nakInvalid else (delivered s1 o b r).answer o.qp .ack
    t.mem = s1.mem ∧ (t.qp o.qp).recv = r ∧ ((t.qp o.qp).err = true ↔ (b.2 < o.data.length ∨ (s1.qp o.qp).err = true))
      ∧ t.outbox = s1.outbox ++ [.deliver o.qp b.1 (min b.2 o.data.length) none (decide (b.2 < o.data.length)),
          .host o.qp (if b.2 < o.data.length then .nakInvalid else .ack)] := by
  by_cases hlong : b.2 < o.data.length <;> simp [hlong, delivered]

/-- Settles O57: the meaning of each event is one equation, and a message goes by its QP, its number and its checks in turn. -/
theorem hostOperationResults : Obligations.HostOperationResults := by
  unfold Obligations.HostOperationResults
  intro s q x live ready seen next
  refine ⟨fun o harg hup hmtu hport => ?_, fun p harg hop hr => ?_, fun psn r ce n harg hl => ?_, fun p prio harg hup hpfc => ?_,
    fun o harg hq hf hr i hi => ?_, fun o harg hq hf i hi => ?_, fun o harg hq hce hf hr => ?_, fun o harg hn hr => ?_,
    fun o harg hn hr => ?_, fun o harg hn hr => ?_, fun o harg hn hr => ?_, fun harg hr => ?_⟩
  · -- R27, R29: connection requests.
    refine ⟨_, (exec_cmRequest_connect harg).trans (congrArg _ (connect_eq hup hmtu hport)), rfl, ?_⟩
    simp only [qp_emit, qp_modQp_self]
    exact ⟨rfl, rfl, rfl, rfl, rfl⟩
  · -- R27, R33: a READ of the firmware.
    obtain ⟨⟨hc, hup⟩, he⟩ := hr
    have hexec : exec .cmRequest s = .next ((enlisted s q (postedRead s q p)).sendPost q (postedRead s q p)) :=
      (exec_cmRequest_firmware harg).trans (congrArg _ (postReq_read hop ⟨⟨hc, hup⟩, he⟩))
    rw [sendPost_enlisted _ hup] at hexec
    refine ⟨fun hp => ?_, fun hp hpsn => ?_⟩
    · rw [if_neg (by rw [hp]; exact Bool.false_ne_true)] at hexec
      exact ⟨_, hexec, rfl, congrArg QP.posted (qp_enlisted s q _), congrArg QP.spsn (qp_enlisted s q _), rfl⟩
    · rw [if_pos hp] at hexec
      refine ⟨_, hexec, rfl, ?_, rfl⟩
      simp only [qp_modQp_self, qp_enlisted]
      exact map_held hpsn
  · -- R25, R33: answers of the host.
    rw [exec_cmRequest_firmware harg]
    exact ⟨fun hn => congrArg _ (onReply_tooLong hl hn), fun hn he => congrArg _ (onReply_ready hl hn he)⟩
  · -- R33: a pause.
    exact ⟨_, (exec_cmRequest_firmware harg).trans (congrArg _ (pauseAt_on hup hpfc)), rfl,
      congrArg Port.paused (portOfNet_modPort_self s p _), rfl⟩
  · -- R28: a QP that is not ready.
    subst hq
    obtain ⟨k, hk⟩ := exec_ofMessage harg hi
    exact hk.trans (congrArg _ (onQp_notReady (p := pktOfWr o) hf hr))
  · -- R25: a frame too long.
    subst hq
    obtain ⟨k, hk⟩ := exec_ofMessage harg hi
    rw [hk]
    exact ⟨fun hl => congrArg _ (onQp_tooLong_live (p := pktOfWr o) hf hl),
      fun hc hup => congrArg _ (onQp_tooLong_unconnected (p := pktOfWr o) hf hc hup)⟩
  · -- R33: messages out of sequence.
    subst hq
    intro ahead i hi
    refine ⟨fun h => exec_ofMessage_before harg hce hf hr h hi, fun h0 h hsent => ?_, fun h0 h hsent => ?_⟩
    · exact (exec_ofMessage_ahead harg hce hf hr h0 h hi).trans (congrArg _ (if_pos hsent))
    · have hexec := (exec_ofMessage_ahead harg hce hf hr h0 h hi).trans
        (congrArg _ (if_neg fun h => Bool.false_ne_true (hsent.symm.trans h)))
      obtain ⟨-, he⟩ := hr
      exact ⟨_, hexec, rfl, rfl, congrArg QP.nakSent (qp_modQp_self _ o.qp _), (congrArg QP.err (qp_modQp_self _ o.qp _)).trans he⟩
  · -- R28-R31: SEND, WRITE and WRITE with immediate.
    obtain ⟨rfl, hce, hf, hs⟩ := hn
    have hwrite := exec_hostWrite_next harg hce hf hs hr
    refine ⟨fun hl => hwrite.trans (congrArg _ (doWrite_tooLong hl)), fun hl hm => hwrite.trans (congrArg _ (doWrite_noRegion hl hm)),
      fun hl m s1 hm hw => ⟨hwrite.trans (congrArg _ (doWrite_done hl hm hw)), fun b r hb => ?_⟩,
      fun hl m s1 f hm hw => hwrite.trans (congrArg _ (doWrite_fault hl hm hw)), fun hb i hi => ?_, fun hl b r s1 hb hw => ?_⟩
    · have hexec := (exec_hostWriteImm_next harg hce hf hs hr).trans (congrArg _ ((writeImmAt_buffer hb).trans (doWrite_done hl hm hw)))
      exact ⟨_, hexec, rfl, congrArg QP.recv (qp_modQp_self s1 o.qp fun x => { x with recv := r }), List.append_assoc ..⟩
    · exact ⟨_, exec_noBuffer harg hce hf hs hr hb hi, rfl, rfl, notReady_epsn ..⟩
    · have hexec := (exec_hostSend_next harg hce hf hs hr).trans (congrArg _ (sendAt_buffer hl hb hw))
      exact ⟨_, hexec, send_outcome s1 o b r⟩
  · -- R29-R31: READ.
    obtain ⟨rfl, hce, hf, hs⟩ := hn
    have hread := exec_hostRead_next harg hce hf hs hr
    refine ⟨fun h => hread.trans (congrArg _ (doRead_refused h)), fun h hl hm => hread.trans (congrArg _ (doRead_noRegion h hl hm)),
      fun h hl m s1 bs e hm hw => (hread.trans (congrArg _ (doRead_region h hl (s := counted s o.qp o.len o.psn) hm hw))).trans ?_⟩
    cases e <;> rfl
  · -- R31, R32: atomics.
    obtain ⟨rfl, hce, hf, hs⟩ := hn
    refine ⟨fun h i hi => ?_, fun h hm i hi => ?_, fun m h hm => ⟨fun ha i hi => ?_, fun l ha hl hp => ?_⟩⟩
    · obtain ⟨f, hexec⟩ := exec_ofAtomic harg hce hf hs hr hi
      exact hexec.trans (congrArg _ (atomicNow_tooMany h))
    · obtain ⟨f, hexec⟩ := exec_ofAtomic harg hce hf hs hr hi
      exact hexec.trans (congrArg _ (atomicNow_noRegion h hm))
    · obtain ⟨f, hexec⟩ := exec_ofAtomic harg hce hf hs hr hi
      exact hexec.trans (congrArg _ (atomicNow_misaligned h hm ha))
    · exact ⟨exec_fetchAdd_done harg hce hf hs hr h hm ha hl hp, exec_cmpSwap_done harg hce hf hs hr h hm ha hl hp⟩
  · -- R28: another opcode.
    obtain ⟨rfl, hce, hf, hs⟩ := hn
    exact (exec_hostInvalidOpcode harg).trans (congrArg _ (onQp_next (p := o) hf hr hce hs))
  · -- R33: a CNP.
    exact ⟨_, exec_cnpReceived harg hr, rfl, congrArg QP.rate (qp_modQp_self s q _)⟩

end Sys2Proof.Laws

/-! O58: the pod loop's links (02 R25, R26, R34-R41). -/

namespace Sys2Proof.Laws

open Sys2Proof Sys2Proof.Machine

/-- What a step of a fold leaves alone, the fold leaves alone. -/
theorem foldl_keeps {α β : Type} (view : State → β) {f : State → α → State} (h : ∀ s a, view (f s a) = view s) (l : List α) (s : State) :
    view (l.foldl f s) = view s := by
  induction l generalizing s with
  | nil => rfl
  | cons a r ih => exact (ih (f s a)).trans (h s a)

/-! What an update of a link, and a frame sent over it, leaves of the rest. -/

@[simp] theorem modLink_mem (s : State) (d : Bool) (f : PodLink → PodLink) : (s.modLink d f).mem = s.mem := rfl

@[simp] theorem modLink_ports (s : State) (d : Bool) (f : PodLink → PodLink) : (s.modLink d f).net.ports = s.net.ports := by
  cases d <;> rfl

@[simp] theorem link_modLink_self (s : State) (d : Bool) (f : PodLink → PodLink) : (s.modLink d f).net.link d = f (s.net.link d) := by
  cases d <;> rfl

@[simp] theorem sendFrame_outbox (s : State) (d : Bool) (f : FrameIn) : (s.sendFrame d f).outbox = s.outbox ++ [.frame d f] := rfl

@[simp] theorem sendFrame_ports (s : State) (d : Bool) (f : FrameIn) : (s.sendFrame d f).net.ports = s.net.ports := by
  rw [State.sendFrame, emit_net, modLink_ports]

@[simp] theorem link_sendFrame_self (s : State) (d : Bool) (f : FrameIn) :
    (s.sendFrame d f).net.link d = { s.net.link d with freed := 0, unacked := false } := by
  rw [State.sendFrame, emit_net, link_modLink_self]

/-! The header fields of a frame (R36). -/

theorem frameOf_type (s : State) (d : Bool) {type : Nat} (h : type < 16) (seq : Nat) (fs : List (List Byte)) :
    bits (s.frameOf d type seq fs).w0 3 0 = type := by
  simp only [State.frameOf, bits, w64, BitVec.toNat_ofNat, Nat.shiftRight_zero]
  omega

theorem frameOf_ack (s : State) (d : Bool) {type : Nat} (h : type < 16) :
    bits (s.frameOf d type 0 []).w0 63 40 = ((s.net.link d).rseq + 2 ^ 24 - 1) % 2 ^ 24 := by
  simp only [State.frameOf, bits, w64, BitVec.toNat_ofNat, Nat.shiftRight_eq_div_pow, List.length_nil]
  omega

/-! Replays (R37). -/

/-- n frames have gone out over a link: nothing else of memory, registers, ports and the link's replay buffer has changed. -/
structure SentOver (d : Bool) (n : Nat) (s t : State) : Prop where
  mem : t.mem = s.mem
  sys : t.sys = s.sys
  ports : t.net.ports = s.net.ports
  outbox : t.outbox.length = s.outbox.length + n
  replay : (t.net.link d).replay = (s.net.link d).replay

theorem sentOver_refl (d : Bool) (s : State) : SentOver d 0 s s := ⟨rfl, rfl, rfl, rfl, rfl⟩

theorem sentOver_sendFrame {d : Bool} {n : Nat} {s t : State} {f : FrameIn} (h : SentOver d n (s.sendFrame d f) t) :
    SentOver d (n + 1) s t := by
  obtain ⟨hmem, hsys, hports, hout, hreplay⟩ := h
  refine ⟨hmem, hsys, hports.trans (sendFrame_ports s d f), ?_, ?_⟩
  · rw [hout, sendFrame_outbox, List.length_append, List.length_singleton]
    omega
  · rw [hreplay, link_sendFrame_self]

theorem replay_sends (s : State) (d : Bool) : SentOver d (s.net.link d).replay.length s (s.replay d) := by
  unfold State.replay
  generalize (s.net.link d).replay = l
  induction l generalizing s with
  | nil => exact sentOver_refl d s
  | cons f r ih => exact sentOver_sendFrame (ih _)

theorem replayOnce_counts {s : State} {d : Bool} (h : (s.net.link d).replays < 8) :
    s.replayOnce d = (s.replay d).modLink d fun l => { l with replays := (s.net.link d).replays + 1, sentAt := s.sys.clock } := by
  simp only [State.replayOnce, Nat.not_le.mpr h, if_false]

/-- A replay that does not retrain the link sends its buffer once and keeps it. -/
theorem replayOnce_spec {s : State} {d : Bool} (h : (s.net.link d).replays < 8) :
    SentOver d (s.net.link d).replay.length s (s.replayOnce d)
      ∧ ((s.replayOnce d).net.link d).replays = (s.net.link d).replays + 1
      ∧ ((s.replayOnce d).net.link d).sentAt = s.sys.clock := by
  obtain ⟨hmem, hsys, hports, hout, hreplay⟩ := replay_sends s d
  rw [replayOnce_counts h]
  refine ⟨⟨hmem, hsys, (modLink_ports ..).trans hports, hout, ?_⟩, ?_, ?_⟩
  · rw [link_modLink_self, hreplay]
  · rw [link_modLink_self]
  · rw [link_modLink_self]

/-! Frames received on a loop port (R35-R37). -/

section
variable {s : State} {f : FrameIn} {type : Nat} {k : Bool → FrameIn → State → State}

/-- A frame has come to a loop port that is up and carries the loop transport. -/
structure FrameComes (s : State) (f : FrameIn) : Prop where
  arg : s.arg = .frameIn f
  up : (s.portOfNet (4 + f.port)).up = true
  etype : f.etype.toNat = bits s.sys.podcfg 47 32
  ptp : f.etype ≠ 0x88F7
  en : bit s.sys.podcfg 31 = true

theorem onFrame_tooLong (h : FrameComes s f) (hl : 4130 < frameSize f) : s.onFrame type k = s.dropFrame (4 + f.port) := by
  simp only [State.onFrame, h.arg, h.up, hl, Bool.not_true, Bool.false_eq_true, if_false, if_true]

theorem onFrame_bad (h : FrameComes s f) (hl : frameSize f ≤ 4130) (hb : s.badFrame (decide (f.port < 4)) f = true) :
    s.onFrame type k = (s.dropFrame (4 + f.port)).sendFrame (decide (f.port < 4))
      ((s.dropFrame (4 + f.port)).frameOf (decide (f.port < 4)) 2 0 []) := by
  simp only [State.onFrame, h.arg, h.up, h.etype, h.en, hb, beq_eq_false_iff_ne.mpr h.ptp, Nat.not_lt.mpr hl, bne_self_eq_false,
    Bool.not_true, Bool.or_self, Bool.false_eq_true, if_false, if_true]

theorem onFrame_good (h : FrameComes s f) (hl : frameSize f ≤ 4130) (hb : s.badFrame (decide (f.port < 4)) f = false)
    (ht : bits f.w0 3 0 = type) : s.onFrame type k = k (decide (f.port < 4)) f (s.takeAck (decide (f.port < 4)) f) := by
  simp only [State.onFrame, h.arg, h.up, h.etype, h.en, hb, ht, beq_eq_false_iff_ne.mpr h.ptp, Nat.not_lt.mpr hl, bne_self_eq_false,
    Bool.not_true, Bool.or_self, Bool.false_eq_true, if_false]

/-- The three frames differ in their type and in what they do when they are good, and in nothing else. -/
theorem exec_ofFrame (s : State) {i : Instr} (hi : i ∈ [Instr.loopDataFrame, .loopAckFrame, .loopNakFrame]) :
    ∃ type k, exec i s = .next (s.onFrame type k) := by
  simp only [List.mem_cons, List.not_mem_nil, or_false] at hi
  rcases hi with rfl | rfl | rfl <;> exact ⟨_, _, rfl⟩

/-- The frames of a link that a frame's acknowledgement leaves in the replay buffer. -/
def stillUnacked (s : State) (d : Bool) (f : FrameIn) : List FrameIn :=
  (s.net.link d).replay.dropWhile fun g => decide (seqDiff (bits f.w0 63 40) (bits g.w0 39 16) < 2 ^ 23)

variable (s f) (d : Bool)

@[simp] theorem takeAck_replay : ((s.takeAck d f).net.link d).replay = stillUnacked s d f := by
  rw [State.takeAck, link_modLink_self]
  rfl

@[simp] theorem takeAck_credit : ((s.takeAck d f).net.link d).credit = (s.net.link d).credit + bits f.w1 31 16 := by
  rw [State.takeAck, link_modLink_self]

@[simp] theorem takeAck_early : ((s.takeAck d f).net.link d).early = (s.net.link d).early := by
  rw [State.takeAck, link_modLink_self]

@[simp] theorem takeAck_rseq : ((s.takeAck d f).net.link d).rseq = (s.net.link d).rseq := by
  rw [State.takeAck, link_modLink_self]

/-- An acknowledgement does not add a replay. -/
theorem takeAck_replays : ((s.takeAck d f).net.link d).replays ≤ (s.net.link d).replays := by
  rw [State.takeAck, link_modLink_self]
  dsimp only
  split
  · exact Nat.zero_le _
  · exact Nat.le_refl _

end

/-! Data frames in order (R37). -/

/-- What the delivery of coaches over a link does not touch. -/
def linkView (d : Bool) (s : State) : Memory × Nat × List FrameIn × Bool × List FrameIn :=
  let l := s.net.link d
  (s.mem, l.rseq, l.early, l.unacked, l.replay)

theorem linkView_arrive (s : State) (d : Bool) (c : Coach) : linkView d (s.arrive d c) = linkView d s := by
  unfold State.arrive linkView
  dsimp only
  split
  · simp only [link_modLink_self]
    rfl
  · simp only [post_net, link_modLink_self]
    rfl

theorem linkView_part (s : State) (d : Bool) (fs : List (List Byte)) :
    linkView d (s.modLink d fun l => { l with part := fs }) = linkView d s := by
  simp only [linkView, link_modLink_self, modLink_mem]

theorem linkView_assemble (d : Bool) (n : Nat) (s : State) (fs : List (List Byte)) : linkView d (s.assemble d n fs) = linkView d s := by
  induction n generalizing s fs with
  | zero => exact linkView_part s d fs
  | succ n ih =>
    unfold State.assemble
    dsimp only
    split
    · exact linkView_part s d fs
    · exact (ih ..).trans (linkView_arrive ..)

theorem deliverEarly_none {s : State} {d : Bool} (n : Nat) (h : (s.net.link d).early = []) : s.deliverEarly d n = s := by
  cases n with
  | zero => rfl
  | succ n => simp only [State.deliverEarly, h, List.find?_nil]

/-- The one early frame is delivered where it is the next in order. -/
theorem linkView_deliverEarly_one {s : State} {d : Bool} {f : FrameIn} (n : Nat) (he : (s.net.link d).early = [f])
    (hs : bits f.w0 39 16 = (s.net.link d).rseq) : linkView d (s.deliverEarly d (n + 1)) =
      (s.mem, ((s.net.link d).rseq + 1) % 2 ^ 24, [], (s.net.link d).unacked, (s.net.link d).replay) := by
  simp only [State.deliverEarly, he, hs, List.find?_cons_of_pos, beq_self_eq_true]
  generalize hu : (s.modLink d fun l => { l with
    rseq := (l.rseq + 1) % 2 ^ 24, early := l.early.filter fun g => bits g.w0 39 16 != (s.net.link d).rseq }) = u
  have hview : linkView d u = (s.mem, ((s.net.link d).rseq + 1) % 2 ^ 24, [], (s.net.link d).unacked, (s.net.link d).replay) := by
    rw [← hu]
    simp [linkView, he, hs]
  have hass := fun n fs => (linkView_assemble d n u fs).trans hview
  rw [deliverEarly_none]
  · exact hass ..
  · exact congrArg (fun v => v.2.2.1) (hass ..)

/-- A data frame that comes in order, with none early, is delivered. -/
theorem linkView_takeData {s : State} {d : Bool} {f : FrameIn} (he : (s.net.link d).early = [])
    (hs : bits f.w0 39 16 = (s.net.link d).rseq) : linkView d (s.takeData d f) =
      (s.mem, (bits f.w0 39 16 + 1) % 2 ^ 24, [], true, (s.net.link d).replay) := by
  have hahead : seqDiff (bits f.w0 39 16) (s.net.link d).rseq < 256 := by
    have hlt : bits f.w0 39 16 < 2 ^ 24 := bits_lt f.w0 39 16
    rw [← hs, seqDiff]
    omega
  unfold State.takeData
  dsimp only
  rw [linkView_deliverEarly_one (f := f)]
  · simp [hs]
  · simp [he, hahead]
  · simp [hs]

theorem exec_loopAckFrame {s : State} {f : FrameIn} (h : FrameComes s f) (hl : frameSize f ≤ 4130)
    (hb : s.badFrame (decide (f.port < 4)) f = false) (ht : bits f.w0 3 0 = 1) :
    exec .loopAckFrame s = .next (s.takeAck (decide (f.port < 4)) f) := congrArg _ (onFrame_good h hl hb ht)

theorem exec_loopNakFrame {s : State} {f : FrameIn} (h : FrameComes s f) (hl : frameSize f ≤ 4130)
    (hb : s.badFrame (decide (f.port < 4)) f = false) (ht : bits f.w0 3 0 = 2) :
    let u := s.takeAck (decide (f.port < 4)) f
    exec .loopNakFrame s = .next (if stillUnacked s (decide (f.port < 4)) f = [] then u else u.replayOnce (decide (f.port < 4))) := by
  refine congrArg _ ((onFrame_good h hl hb ht).trans ?_)
  simp only [takeAck_replay, List.isEmpty_iff]

theorem exec_loopDataFrame {s : State} {f : FrameIn} (h : FrameComes s f) (hl : frameSize f ≤ 4130)
    (hb : s.badFrame (decide (f.port < 4)) f = false) (ht : bits f.w0 3 0 = 0) :
    exec .loopDataFrame s = .next ((s.takeAck (decide (f.port < 4)) f).takeData (decide (f.port < 4)) f) :=
  congrArg _ (onFrame_good h hl hb ht)

/-! The timers of a link (R37). -/

section
variable {s : State} {d : Bool} (h : s.arg = .dirRef { down := d })
include h

theorem exec_ackTimer : exec .ackTimer s =
    .next (if (s.net.link d).unacked then
      (if s.podUp d then s.sendFrame d (s.frameOf d 1 0 []) else s.post 1000 .ackTimer s.arg) else s) := by
  show execAckTimer s = _
  simp only [execAckTimer, h]
  cases (s.net.link d).unacked <;> rfl

theorem exec_replayTimeout_none (hr : (s.net.link d).replay = []) : exec .replayTimeout s = .next s := by
  show execReplayTimeout s = _
  simp only [execReplayTimeout, h, hr, List.isEmpty_nil, if_true]

theorem exec_replayTimeout_early (hr : (s.net.link d).replay ≠ []) (ht : s.sys.clock < (s.net.link d).sentAt + 20000) :
    exec .replayTimeout s = .next (s.post ((s.net.link d).sentAt + 20000 - s.sys.clock) .replayTimeout s.arg) := by
  show execReplayTimeout s = _
  simp only [execReplayTimeout, h, List.isEmpty_iff, hr, ht, if_false, if_true]

theorem exec_replayTimeout_due (hr : (s.net.link d).replay ≠ []) (ht : (s.net.link d).sentAt + 20000 ≤ s.sys.clock)
    (hup : s.podUp d = true) : exec .replayTimeout s = .next ((s.replayOnce d).post 20000 .replayTimeout s.arg) := by
  show execReplayTimeout s = _
  simp only [execReplayTimeout, h, List.isEmpty_iff, hr, Nat.not_lt.mpr ht, hup, if_false, if_true]

end

/-! Requests of other modules and their replies (R40, R41). -/

section
variable {s : State} {r : RemoteReq} (h : s.arg = .remoteReq r)
include h

theorem exec_remoteRequest_off (hen : bit s.sys.podcfg 31 = false) : exec .remoteRequest s = .next s := by
  show execRemoteRequest s = _
  simp only [execRemoteRequest, h, hen, Bool.not_false, if_true]

variable (hen : bit s.sys.podcfg 31 = true)
include hen

theorem exec_remoteRequest_passes (hd : r.dst ≠ s.module) : exec .remoteRequest s = .next (s.routeRemote r) := by
  show execRemoteRequest s = _
  simp only [execRemoteRequest, h, hen, bne_iff_ne.mpr hd, Bool.not_true, Bool.false_eq_true, if_false, if_true]

variable (hd : r.dst = s.module)
include hd

theorem exec_remoteRequest_awaited (hr : r.reply = true) (ha : ∃ e ∈ s.net.asked, e.id = r.id) (hg : ∀ g ∈ s.net.got, g.id ≠ r.id) :
    exec .remoteRequest s = .next { s with net := { s.net with got := s.net.got ++ [r] } } := by
  have hasked : s.net.asked.any (fun e => e.id == r.id) = true := by simpa only [List.any_eq_true, beq_iff_eq] using ha
  have hgot : s.net.got.any (fun g => g.id == r.id) = false := by
    simpa only [List.any_eq_false, beq_iff_eq] using hg
  show execRemoteRequest s = _
  simp only [execRemoteRequest, h, hen, hd, hr, hasked, hgot, bne_self_eq_false, Bool.not_true, Bool.not_false, Bool.and_self,
    Bool.false_eq_true, if_false, if_true]

theorem exec_remoteRequest_here (hr : r.reply = false) :
    exec .remoteRequest s = .next ((s.performRemote r).1.routeRemote (s.performRemote r).2) := by
  show execRemoteRequest s = _
  simp only [execRemoteRequest, h, hen, hd, hr, bne_self_eq_false, Bool.not_true, Bool.false_eq_true, if_false]

end

/-- A home slice counts nothing while hotness sampling is off (R128). -/
theorem hot_off {s : State} (h : bit s.sys.hotcfg 16 = false) (q : Req) (a : Acc) (p : Phys) (va : Nat) : s.hot q a p va = s := by
  simp only [State.hot, h, Bool.not_false, Bool.true_or, if_true]

section
variable {s : State} {r : RemoteReq}

theorem performRemote_fault (h : s.places s.sys.podptbr false (remoteAcc r.op) (r.va % 2 ^ 48) (max r.n 1) = none) :
    s.performRemote r = (s, s.replyTo r false [] none) := by
  simp only [State.performRemote, h]

theorem performRemote_write {ps : List (Phys × Nat)} (hop : r.op = .write) (hhot : bit s.sys.hotcfg 16 = false)
    (h : s.places s.sys.podptbr false (remoteAcc r.op) (r.va % 2 ^ 48) (max r.n 1) = some ps) :
    s.performRemote r = (if r.n = 0 then s else s.wrMarked ps r.data (r.y.getLsbD 0), s.replyTo r true [] none) := by
  rw [hop] at h
  simp only [State.performRemote, hop, h, hot_off hhot]
  by_cases hn : r.n = 0
  · simp [hn]
  · simp [hn]

end

/-! SYS.PODCFG (R39). -/

theorem exec_podcfgWrite {s : State} {o : ValRef} (h : s.arg = .valRef o) : exec .podcfgWrite s = .next (s.writePodcfg o.v) := by
  show execPodcfgWrite s = _
  unfold execPodcfgWrite
  rw [h]

/-- Whether a write of SYS.PODCFG takes effect. -/
def PodcfgTaken (s : State) (v : Word) : Prop :=
  1 ≤ bits v 22 16 ∧ bits v 22 16 ≤ 64 ∧ bits v 5 0 < bits v 22 16 ∧ ¬(bit s.sys.podcfg 31 = true ∧ bit v 31 = true)

theorem podcfg_refused_iff (s : State) (v : Word) :
    (bits v 22 16 == 0 || decide (64 < bits v 22 16) || decide (bits v 22 16 ≤ bits v 5 0) || (bit s.sys.podcfg 31 && bit v 31)) = true
      ↔ ¬PodcfgTaken s v := by
  simp only [Bool.or_eq_true, Bool.and_eq_true, beq_iff_eq, decide_eq_true_eq, PodcfgTaken]
  by_cases he : bit s.sys.podcfg 31 = true ∧ bit v 31 = true
  · exact iff_of_true (Or.inr he) fun ⟨_, _, _, hn⟩ => hn he
  · rw [or_iff_left he, and_iff_left he]
    omega

theorem writePodcfg_taken {s : State} {v : Word} (h : PodcfgTaken s v) :
    s.writePodcfg v = s.modSys fun y => { y with podcfg := v &&& 0x0000FFFF807F003F } :=
  if_neg fun hc => (podcfg_refused_iff s v).mp hc h

theorem writePodcfg_refused {s : State} {v : Word} (h : ¬PodcfgTaken s v) : s.writePodcfg v = s :=
  if_pos ((podcfg_refused_iff s v).mpr h)

/-! Ports that go down and come up (R26, R38). -/

theorem routeRemote_eq (s : State) (r : RemoteReq) : s.routeRemote r =
    if s.podUp r.down then s.emit (.remote r.down r)
    else if !r.turned && s.podUp (!r.down) then s.emit (.remote (!r.down) { r with down := !r.down, turned := true })
    else { s with net := { s.net with waiting := s.net.waiting ++ [r] } } := rfl

theorem routeRemote_mem (s : State) (r : RemoteReq) : (s.routeRemote r).mem = s.mem := by
  rw [routeRemote_eq]
  split
  · rfl
  · split <;> rfl

theorem routeRemote_ports (s : State) (r : RemoteReq) : (s.routeRemote r).net.ports = s.net.ports := by
  rw [routeRemote_eq]
  split
  · rfl
  · split <;> rfl

theorem reroute_mem (s : State) : s.reroute.mem = s.mem := foldl_keeps State.mem routeRemote_mem s.net.waiting _

theorem reroute_ports (s : State) : s.reroute.net.ports = s.net.ports :=
  foldl_keeps (fun t : State => t.net.ports) routeRemote_ports s.net.waiting _

/-- The state with a port's link down. -/
def portDown (s : State) (p : Nat) : State := s.modPort p fun x => { x with up := false }

theorem portDown_up (s : State) (p : Nat) : ((portDown s p).portOfNet p).up = false := by rw [portDown, portOfNet_modPort_self]

/-- The state with a port's link up and its retrain counted (R26). -/
def portUp (s : State) (p : Nat) : State :=
  { s.modPort p fun x => { x with up := true, retrains := x.retrains + 1 } with
    life := { s.life with retrains := s.life.retrains.set p (bump (s.life.retrains.get p 0)) } }

theorem portOfNet_portUp (s : State) (p : Nat) :
    (portUp s p).portOfNet p = { s.portOfNet p with up := true, retrains := (s.portOfNet p).retrains + 1 } :=
  portOfNet_modPort_self s p fun x => { x with up := true, retrains := x.retrains + 1 }

section
variable {s : State} {p : Nat} (h : s.arg = .idxRef { i := p }) (hp : p < 12)
include h hp

section
variable (hup : (s.portOfNet p).up = true)
include hup

theorem exec_linkDown_host (h4 : p < 4) : exec .linkDown s = .next (portDown s p) := by
  show execLinkDown s = _
  simp only [execLinkDown, h, hup, Nat.not_le.mpr hp, h4, decide_false, Bool.not_true, Bool.or_self, Bool.false_eq_true, if_false, if_true]
  rfl

theorem exec_linkDown_loop (h4 : 4 ≤ p) : exec .linkDown s =
    .next (if (portDown s p).podUp (decide (p < 8)) then (portDown s p).replay (decide (p < 8))
      else (portDown s p).inform 3 (w64 (b2n (decide (p < 8))))) := by
  show execLinkDown s = _
  simp only [execLinkDown, h, hup, Nat.not_le.mpr hp, Nat.not_lt.mpr h4, decide_false, Bool.not_true, Bool.or_self, Bool.false_eq_true,
    if_false]
  rfl

end

theorem exec_linkUp (hup : (s.portOfNet p).up = false) : exec .linkUp s =
    .next (if p < 4 then portUp s p else ((portUp s p).replay (decide (p < 8))).reroute) := by
  show execLinkUp s = _
  simp only [execLinkUp, h, hup, Nat.not_le.mpr hp, decide_false, Bool.or_self, Bool.false_eq_true, if_false]
  rfl

end

/-- A link whose other loop ports are down carries nothing once this one is. -/
theorem podUp_lastPort {s : State} {p : Nat} (hdown : ∀ k, k ≠ p → 4 ≤ k → (s.portOfNet k).up = false) (d : Bool) :
    (portDown s p).podUp d = false := by
  refine List.any_eq_false.mpr fun i _ => ?_
  generalize hk : 4 + (if d then i else 4 + i) = k
  show ¬((portDown s p).portOfNet k).up = true
  rw [portDown, portOfNet_modPort, Bool.not_eq_true]
  split
  · rfl
  · next hne => exact hdown k hne (by omega)

/-- Settles O58: each event is one equation of its meaning; replays, deliveries and ways to another module leave the rest alone. -/
theorem podLinkResults : Obligations.PodLinkResults := by
  unfold Obligations.PodLinkResults
  intro s
  refine ⟨fun f harg hup hetype hptp hen => ?_, fun d harg => ?_, fun r harg => ?_, fun v harg => ?_, fun p harg hp => ?_⟩
  · -- R25, R35-R37: frames.
    have hf : FrameComes s f := ⟨harg, hup, hetype, hptp, hen⟩
    refine ⟨fun hl i hi => ?_, fun hl hb i hi => ?_, fun hl hb ht => ?_, fun hl hb ht => ⟨fun hleft => ?_, fun hleft hn => ?_⟩,
      fun hl hb ht he hs => ?_⟩
    · obtain ⟨type, k, hk⟩ := exec_ofFrame s hi
      exact hk.trans (congrArg _ (onFrame_tooLong hf hl))
    · obtain ⟨type, k, hk⟩ := exec_ofFrame s hi
      refine ⟨_, _, hk.trans (congrArg _ (onFrame_bad hf hl hb)), rfl, ?_, rfl, frameOf_type _ _ (by decide) _ _⟩
      have hport := portOfNet_modPort_self s (4 + f.port) fun x => { x with dropped := x.dropped + 1 }
      rw [State.portOfNet, sendFrame_ports]
      exact congrArg Port.dropped hport
    · exact ⟨_, exec_loopAckFrame hf hl hb ht, rfl, takeAck_replay .., takeAck_credit ..⟩
    · exact (exec_loopNakFrame hf hl hb ht).trans (congrArg _ (if_pos hleft))
    · obtain ⟨⟨hmem, -, -, hout, hreplay⟩, -, -⟩ := replayOnce_spec (Nat.lt_of_le_of_lt (takeAck_replays s f (decide (f.port < 4))) hn)
      refine ⟨_, (exec_loopNakFrame hf hl hb ht).trans (congrArg _ (if_neg hleft)), hmem, hreplay.trans (takeAck_replay ..), ?_⟩
      rw [hout, takeAck_replay]
      rfl
    · have hview := linkView_takeData (s := s.takeAck (decide (f.port < 4)) f) (f := f) ((takeAck_early ..).trans he)
        (hs.trans (takeAck_rseq ..).symm)
      rw [takeAck_replay] at hview
      simp only [linkView, Prod.mk.injEq] at hview
      obtain ⟨hmem, hrseq, hearly, hunacked, hreplay⟩ := hview
      exact ⟨_, exec_loopDataFrame hf hl hb ht, hmem, hrseq, hearly, hunacked, hreplay⟩
  · -- R37: timers.
    have hack := exec_ackTimer harg
    refine ⟨fun hu hup => ?_, fun hu hup => ?_, fun hu => ?_, fun hr => exec_replayTimeout_none harg hr,
      fun hr ht => exec_replayTimeout_early harg hr ht, fun hr ht hup hn => ?_⟩
    · rw [if_pos hu, if_pos hup] at hack
      exact ⟨_, _, hack, rfl, rfl, frameOf_type _ _ (by decide) _ _, frameOf_ack _ _ (by decide),
        congrArg PodLink.unacked (link_sendFrame_self ..)⟩
    · rw [hack, if_pos hu, if_neg (by rw [hup]; exact Bool.false_ne_true)]
    · rw [hack, if_neg (by rw [hu]; exact Bool.false_ne_true)]
    · obtain ⟨⟨hmem, -, -, hout, hreplay⟩, hreplays, hsent⟩ := replayOnce_spec hn
      exact ⟨_, exec_replayTimeout_due harg hr ht hup, hmem, hout, hreplay, hreplays, hsent⟩
  · -- R40, R41: requests of other modules.
    refine ⟨exec_remoteRequest_off harg, fun hen hd => exec_remoteRequest_passes harg hen hd,
      fun hen hd hr ha hg => ⟨_, exec_remoteRequest_awaited harg hen hd hr ha hg, rfl, rfl⟩,
      fun hen hd hr => ⟨fun hp => ?_, fun ps hp hop hhot => ?_⟩⟩
    · rw [exec_remoteRequest_here harg hen hd hr, performRemote_fault hp]
    · rw [exec_remoteRequest_here harg hen hd hr, performRemote_write hop hhot hp]
  · -- R39: SYS.PODCFG.
    exact ⟨fun h => ⟨_, (exec_podcfgWrite harg).trans (congrArg _ (writePodcfg_taken h)), rfl, rfl⟩,
      fun h => (exec_podcfgWrite harg).trans (congrArg _ (writePodcfg_refused h))⟩
  · -- R26, R38: ports.
    refine ⟨fun hup h4 => ⟨_, exec_linkDown_host harg hp hup h4, rfl, portDown_up s p, fun k hk => ?_⟩,
      fun hup h4 hdown => ?_, fun hup => ?_⟩
    · exact (portOfNet_modPort s p k _).trans (if_neg hk)
    · have hexec := exec_linkDown_loop harg hp hup h4
      rw [if_neg (by rw [podUp_lastPort hdown]; exact Bool.false_ne_true)] at hexec
      exact ⟨_, hexec, rfl, portDown_up s p, stick_eq_min ..⟩
    · have hport := portOfNet_portUp s p
      have hexec := exec_linkUp harg hp hup
      by_cases h4 : p < 4
      · rw [if_pos h4] at hexec
        exact ⟨_, hexec, rfl, congrArg Port.up hport, congrArg Port.retrains hport⟩
      · rw [if_neg h4] at hexec
        obtain ⟨hmem, -, hports, -, -⟩ := replay_sends (portUp s p) (decide (p < 8))
        have hkept := (congrArg (fun t => Tbl.get t p Port.init) ((reroute_ports _).trans hports)).trans hport
        exact ⟨_, hexec, (reroute_mem _).trans hmem, congrArg Port.up hkept, congrArg Port.retrains hkept⟩

end Sys2Proof.Laws

/-! O59: the servo, SYS.TIME and the registers that events write (00 R5; 02 R45-R48; 06 R111, R128; 18 R434; 24 R453). -/

namespace Sys2Proof.Laws

open Sys2Proof Sys2Proof.Machine

/-! The servo (R47, R48). -/

theorem offsetField_toInt {x : Int} (hlo : -2147483647 ≤ x) (hhi : x ≤ 2147483647) : (offsetField x).toInt = x := by
  rw [offsetField, if_neg (by omega), if_neg (by omega), BitVec.toInt_ofInt]
  exact Int.bmod_eq_of_le (by omega) (by omega)

theorem sync_offset (p : Ptp) (x : Int) : (p.sync x).offset = offsetField x := by
  unfold Ptp.sync
  split
  · split
    · rfl
    · split <;> rfl
  · split
    · rfl
    · split <;> rfl
  · rfl

theorem sync_unlocked {p : Ptp} (x : Int) (h : p.state = 0 ∨ p.state = 3) : (p.sync x).state = 1 ∧ (p.sync x).since = 0 := by
  rcases h with h | h <;> simp [Ptp.sync, h]

theorem sync_acquiring {p : Ptp} (x : Int) (h : p.state = 1) : (p.sync x).state = if x.natAbs < 100 ∧ 15 ≤ p.since then 2 else 1 := by
  by_cases hx : x.natAbs < 100
  · have hx' : ¬100 ≤ x.natAbs := Nat.not_le.mpr hx
    by_cases hn : 15 ≤ p.since
    · have hn' : ¬p.since + 1 < 16 := by omega
      simp [Ptp.sync, h, hx, hx', hn, hn']
    · have hn' : p.since + 1 < 16 := by omega
      simp [Ptp.sync, h, hx, hx', hn, hn']
  · simp [Ptp.sync, h, hx, Nat.not_lt.mp hx]

theorem sync_acquiring_far {p : Ptp} {x : Int} (h : p.state = 1) (hx : 100 ≤ x.natAbs) : (p.sync x).since = 0 := by
  simp [Ptp.sync, h, hx]

theorem sync_locked {p : Ptp} (x : Int) (h : p.state = 2) : (p.sync x).state = if 1000 ≤ x.natAbs ∧ 3 ≤ p.since then 1 else 2 := by
  by_cases hx : x.natAbs < 1000
  · simp [Ptp.sync, h, hx, Nat.not_le.mpr hx]
  · by_cases hn : 3 ≤ p.since
    · have hn' : ¬p.since + 1 < 4 := by omega
      simp [Ptp.sync, h, hx, hn, hn', Nat.not_lt.mp hx]
    · have hn' : p.since + 1 < 4 := by omega
      simp [Ptp.sync, h, hx, hn, hn']

theorem sync_locked_near {p : Ptp} {x : Int} (h : p.state = 2) (hx : x.natAbs < 1000) : (p.sync x).since = 0 := by
  simp [Ptp.sync, h, hx]

/-- Completing a start step changes the start's record alone. -/
theorem lockStep_eq (s : State) : ∃ b, s.lockStep = s.modBoot b := by
  unfold State.lockStep
  split
  · exact ⟨_, rfl⟩
  · exact ⟨id, rfl⟩

theorem exec_ptpSync_ignored {s : State} {o : PtpIn} (h : s.arg = .ptpIn o) (ht : s.ptpTakes o = false) :
    exec .ptpSync s = .next s := by
  show execPtpSync s = _
  simp only [execPtpSync, h, ht, Bool.false_eq_true, if_false]

/-- A Sync that the servo takes leaves the servo as Ptp.sync says. -/
theorem exec_ptpSync_taken {s : State} {o : PtpIn} (h : s.arg = .ptpIn o) (ht : s.ptpTakes o = true) :
    ∃ t, exec .ptpSync s = .next t ∧ t.mem = s.mem ∧ t.outbox = s.outbox ++ [.delayReq o.port o.domain]
      ∧ t.sys.ptp = s.sys.ptp.sync (ptpOffset o) := by
  have hexec : exec .ptpSync s = .next (((s.modPtp fun p => p.sync (ptpOffset o)).lockStep).emit (.delayReq o.port o.domain)) := by
    show execPtpSync s = _
    simp only [execPtpSync, h, ht, if_true]
  obtain ⟨b, hb⟩ := lockStep_eq (s.modPtp fun p => p.sync (ptpOffset o))
  rw [hb] at hexec
  exact ⟨_, hexec, rfl, rfl, rfl⟩

/-! SYS.TIME and the timetable (R45, R46, R73, R74). -/

theorem postFire_eq (s : State) (d i : Nat) : ∃ a, s.postFire d i = { s with agenda := a } := by
  unfold State.postFire
  dsimp only
  split <;> exact ⟨_, rfl⟩

/-- Memory and the registers but for SYS.EVPEND: what informing the supervisor and keeping the timetable do not touch. -/
def quietView (s : State) : Memory × Sys := (s.mem, { s.sys with evpend := 0 })

theorem quietView_postFire (s : State) (d i : Nat) : quietView (s.postFire d i) = quietView s := by
  obtain ⟨a, ha⟩ := postFire_eq s d i
  rw [ha]
  rfl

theorem quietView_informs (s : State) (code : Nat) (info : Word) (n : Nat) : quietView (s.informs code info n) = quietView s := by
  induction n generalizing s with
  | zero => rfl
  | succ n ih => exact (ih (s.inform code info)).trans rfl

theorem quietView_miss (s : State) (d i n : Nat) : quietView (s.miss d i n) = quietView s := by
  unfold State.miss
  dsimp only
  split
  · exact quietView_informs ..
  · rfl

theorem postTake_mem (s : State) (d : Nat) : (s.postTake d).mem = s.mem := rfl

theorem ttFire_mem (s : State) (d i : Nat) : (s.ttFire d i).mem = s.mem := by
  have hquiet : ∀ {t u : State}, quietView t = quietView u → t.mem = u.mem := fun h => congrArg Prod.fst h
  have hpost : ∀ t : State, (t.postFire d i).mem = t.mem := fun t => hquiet (quietView_postFire t d i)
  unfold State.ttFire
  dsimp only
  split
  · rfl
  · split
    · exact hpost s
    · split
      · exact (hpost _).trans (hquiet (quietView_miss s d i 1))
      · exact (postTake_mem _ d).trans (hpost _)

theorem fireReached_mem (d n : Nat) (s : State) : (s.fireReached d n).mem = s.mem := by
  induction n generalizing s with
  | zero => rfl
  | succ n ih =>
    unfold State.fireReached
    split
    · rfl
    · exact (ih _).trans (ttFire_mem ..)

theorem fireDue_mem (s : State) : s.fireDue.mem = s.mem := by
  unfold State.fireDue
  split
  · rfl
  · exact foldl_keeps State.mem (fun t e => fireReached_mem ..) s.boxes s

/-- A step of SYS.TIME leaves the value written. -/
theorem stepTime_spec (s : State) (v : Word) : (s.stepTime v).mem = s.mem ∧ (s.stepTime v).sys.time = v := by
  have hview : quietView (s.stepTime v) = quietView (s.fireDue.modSys fun y => { y with time := v, frac := 0 }) := by
    have hentry : ∀ (d : Nat) (t : State) (f : Nat × TTEntry),
        quietView ((if 0 < f.2.dueBefore v.toNat then t.miss d f.1 (f.2.dueBefore v.toNat) else t).postFire d f.1) = quietView t := by
      intro d t f
      rw [quietView_postFire]
      split
      · exact quietView_miss ..
      · rfl
    exact foldl_keeps quietView (fun t (e : Nat × SigBox) => foldl_keeps quietView (hentry e.1) e.2.ttab t) _ _
  simp only [quietView, Prod.mk.injEq] at hview
  obtain ⟨hmem, hsys⟩ := hview
  exact ⟨hmem.trans (fireDue_mem s), congrArg Sys.time hsys⟩

theorem quietView_postFires (s : State) : quietView s.postFires = quietView s :=
  foldl_keeps quietView (fun t (e : Nat × SigBox) =>
    foldl_keeps quietView (fun u (f : Nat × TTEntry) => quietView_postFire u e.1 f.1) e.2.ttab t) s.boxes s

/-- SYS.TIMERATE takes a value clamped to its limits. -/
theorem writeTimerate_spec (s : State) (v : Word) : (s.writeTimerate v).mem = s.mem
    ∧ (s.writeTimerate v).sys.timerate.toInt = max (-549755814) (min 549755814 (v.setWidth 32).toInt) := by
  have hview := quietView_postFires (s.modSys fun y => { y with
    timerate := BitVec.ofInt 32 (if 549755814 < (v.setWidth 32).toInt then 549755814
      else if (v.setWidth 32).toInt < -549755814 then -549755814 else (v.setWidth 32).toInt) })
  simp only [quietView, Prod.mk.injEq] at hview
  obtain ⟨hmem, hsys⟩ := hview
  refine ⟨hmem, (congrArg (fun y => y.timerate.toInt) hsys).trans ?_⟩
  generalize (v.setWidth 32).toInt = x
  have hclamp : (if 549755814 < x then 549755814 else if x < -549755814 then -549755814 else x) = max (-549755814) (min 549755814 x) := by
    split
    · omega
    · split <;> omega
  simp only [sys_modSys, hclamp, BitVec.toInt_ofInt]
  exact Int.bmod_eq_of_le (by omega) (by omega)

/-! Bits of a word. -/

theorem bit_and (v w : Word) (i : Nat) : bit (v &&& w) i = (bit v i && bit w i) := BitVec.getLsbD_and
theorem bit_or (v w : Word) (i : Nat) : bit (v ||| w) i = (bit v i || bit w i) := BitVec.getLsbD_or

theorem bit_eq_testBit_bits (w : Word) {h l i : Nat} (hi : l + i ≤ h) : bit w (l + i) = (bits w h l).testBit i := by
  have hlt : decide (i < h - l + 1) = true := decide_eq_true (by omega)
  rw [bits, Nat.testBit_mod_two_pow, hlt, Bool.true_and, Nat.testBit_shiftRight]
  rfl

/-- Setting a bit that is clear sets it and leaves the others. -/
theorem bit_setBits_one {w : Word} {k : Nat} (hk : k < 64) (hb : bit w k = false) (j : Nat) :
    bit (setBits w k k 1) j = (decide (j = k) || bit w j) := by
  have hbits : bits w k k = 0 := by
    have htest := congrArg Bool.toNat hb
    rw [bit, BitVec.getLsbD, Nat.toNat_testBit] at htest
    rw [bits, Nat.sub_self, Nat.shiftRight_eq_div_pow]
    exact htest
  have hset : setBits w k k 1 = w + BitVec.twoPow 64 k := by
    apply BitVec.eq_of_toNat_eq
    simp [setBits, hbits, w64, BitVec.toNat_add, BitVec.toNat_twoPow]
  have hand : w &&& BitVec.twoPow 64 k = 0#64 := by
    rw [BitVec.and_twoPow]
    exact if_neg fun h => Bool.false_ne_true (hb.symm.trans h)
  have hdec : decide (k = j) = decide (j = k) := by simp only [eq_comm]
  rw [hset, BitVec.add_eq_or_of_and_eq_zero _ _ hand, bit_or, bit, bit, BitVec.getLsbD_twoPow, decide_eq_true hk, Bool.true_and, hdec,
    Bool.or_comm]

/-! What a read through the tables depends on (R116, R117, R137). -/

/-- Two states that give every read of memory the same bytes. -/
structure SameReads (s t : State) : Prop where
  mem : t.mem = s.mem
  l2 : t.l2 = s.l2
  depots : t.depots = s.depots
  freeCtr : t.freeCtr = s.freeCtr
  power : t.sys.power = s.sys.power
  frames : ∀ d, (t.box d).stccfg = (s.box d).stccfg

section
variable {s t : State} (h : SameReads s t)
include h

theorem hasCache_congr (d n : Nat) : t.hasCache d n = s.hasCache d n := by
  unfold State.hasCache State.depot
  rw [h.frames, h.depots]

theorem home_congr (p : Phys) : t.home p = s.home p := by
  unfold State.home State.cacheable State.held
  rw [hasCache_congr h, h.l2]

theorem rd_congr (p : Phys) (n : Nat) : t.rd p n = s.rd p n := by
  unfold State.rd State.lost State.lostBytes
  rw [home_congr h, h.mem, h.freeCtr, h.power]

theorem walk_congr (va k tbl : Nat) : t.walk va k tbl = s.walk va k tbl := by
  induction k generalizing tbl with
  | zero => simp only [State.walk, rd_congr h]
  | succ k ih => simp only [State.walk, rd_congr h, ih]

theorem translate_congr (root : Word) (sup : Bool) (a : Acc) (va : Nat) : t.translate root sup a va = s.translate root sup a va := by
  simp only [State.translate, walk_congr h]

theorem places_congr (root : Word) (sup : Bool) (a : Acc) (va n : Nat) : t.places root sup a va n = s.places root sup a va n := by
  simp only [State.places, State.placeAt, translate_congr h]

theorem boxWords_congr (hroot : t.sys.svptbr = s.sys.svptbr) (va n : Nat) : t.boxWords va n = s.boxWords va n := by
  simp only [State.boxWords, State.readVa, places_congr h, rd_congr h, hroot]

end

/-! Boot walks (R453). -/

/-- A walker that begins a boot walk at a VA. -/
def bootWalker (va : Word) : Walker := { Walker.init with st := .run, boot := true, record := vput zero8 1 va }

/-- The state in which a walker of a die has been given its boot walk. -/
def bootGiven (s : State) (d : Nat) (va : Word) : State :=
  (s.modWalker d 0 fun _ => bootWalker va).modSys fun y => { y with bootwalk := setBits y.bootwalk (60 + d) (60 + d) 1 }

/-- A walker with the words of its node read. -/
def nodeRead (ws : List Word) (k : Walker) : Walker := { k with words := Vector.ofFn fun i => ws.getD i.val 0 }

/-- The state in which the boot walk of a die stands at its first node. -/
def bootBegun (s : State) (d : Nat) (va : Word) (ws : List Word) (e : Instr) : State :=
  ((bootGiven s d va).modWalker d 0 (nodeRead ws)).post 10 e (.dieIdx { die := d, i := 0 })

theorem idleWalker_empty {s : State} {d : Nat} (h : (s.box d).walkers = []) : s.idleWalker d = some 0 := by
  have hidle : ∀ w, (s.box d).walker w = Walker.init := fun w => by rw [SigBox.walker, h]; rfl
  simp only [State.idleWalker, hidle]
  rfl

theorem box_modBox (s : State) (d e : Nat) (f : SigBox → SigBox) : (s.modBox d f).box e = if e = d then f (s.box d) else s.box e :=
  tbl_get_set ..

theorem box_modWalker_ne {s : State} {d e : Nat} (h : e ≠ d) (w : Nat) (f : Walker → Walker) : (s.modWalker d w f).box e = s.box e :=
  (box_modBox ..).trans (if_neg h)

theorem stccfg_modWalker (s : State) (d w e : Nat) (f : Walker → Walker) : ((s.modWalker d w f).box e).stccfg = (s.box e).stccfg := by
  by_cases h : e = d
  · rw [State.modWalker, box_modBox, if_pos h, h]
  · rw [box_modWalker_ne h]

@[simp] theorem walker_modWalker_self (s : State) (d w : Nat) (f : Walker → Walker) :
    ((s.modWalker d w f).box d).walker w = f ((s.box d).walker w) := by
  rw [State.modWalker, box_modBox_self]
  exact tbl_get_set_self ..

theorem walker_bootGiven (s : State) (d : Nat) (va : Word) : ((bootGiven s d va).box d).walker 0 = bootWalker va :=
  walker_modWalker_self s d 0 fun _ => bootWalker va

theorem sameReads_bootGiven (s : State) (d : Nat) (va : Word) : SameReads s (bootGiven s d va) :=
  ⟨rfl, rfl, rfl, rfl, rfl, fun e => stccfg_modWalker s d 0 e fun _ => bootWalker va⟩

theorem sameReads_bootBegun (s : State) (d : Nat) (va : Word) (ws : List Word) (e : Instr) : SameReads s (bootBegun s d va ws e) :=
  ⟨rfl, rfl, rfl, rfl, rfl, fun k => (stccfg_modWalker (bootGiven s d va) d 0 k (nodeRead ws)).trans ((sameReads_bootGiven s d va).frames k)⟩

/-- On a die whose walkers are idle a boot walk begins where its first node is read and its op is in use. -/
theorem bootWalk_eq {s : State} {d : Nat} {va : Word} {ws : List Word} {e : Instr} (hw : (s.box d).walkers = [])
    (hb : s.boxWords va.toNat 4 = some ws) (he : nodeEvent (bits (ws.getD 0 0) 3 0) = some e) :
    s.bootWalk d va = bootBegun s d va ws e := by
  have hgiven : s.bootWalk d va = (bootGiven s d va).postNode d 0 := by
    rw [State.bootWalk, idleWalker_empty hw]
    rfl
  have hva : (bootWalker va).nodeVa = va.toNat := rfl
  have hwords : (bootGiven s d va).boxWords (bootWalker va).nodeVa 4 = some ws := by
    rw [hva, boxWords_congr (sameReads_bootGiven s d va) rfl, hb]
  have hnode : ¬4096 ≤ (bootWalker va).node := Nat.not_le.mpr (by decide : 0 < 4096)
  have hop : (nodeRead ws (bootWalker va)).nw 0 = ws.getD 0 0 := rfl
  rw [hgiven, State.postNode, walker_bootGiven]
  simp only [if_neg hnode, hwords]
  show ((bootGiven s d va).modWalker d 0 (nodeRead ws)).nodeAgain d 0 = _
  rw [State.nodeAgain, walker_modWalker_self, walker_bootGiven, hop, he]
  rfl

theorem bootwalk_bootBegun (s : State) {d : Nat} (hd : d < 4) (hclear : bit s.sys.bootwalk (60 + d) = false) (va : Word) (ws : List Word)
    (e : Instr) (k : Nat) : bit (bootBegun s d va ws e).sys.bootwalk (60 + k) = (decide (k = d) || bit s.sys.bootwalk (60 + k)) := by
  have hdec : decide (60 + k = 60 + d) = decide (k = d) := by simp only [Nat.add_left_cancel_iff]
  rw [← hdec]
  exact bit_setBits_one (by omega) hclear _

theorem walker_bootBegun (s : State) (d : Nat) (va : Word) (ws : List Word) (e : Instr) :
    ((bootBegun s d va ws e).box d).walker 0 = nodeRead ws (bootWalker va) :=
  (walker_modWalker_self (bootGiven s d va) d 0 (nodeRead ws)).trans (congrArg _ (walker_bootGiven s d va))

theorem box_bootBegun_ne {s : State} {d k : Nat} (h : k ≠ d) (va : Word) (ws : List Word) (e : Instr) :
    (bootBegun s d va ws e).box k = s.box k :=
  (box_modWalker_ne (s := bootGiven s d va) h 0 (nodeRead ws)).trans (box_modWalker_ne h 0 fun _ => bootWalker va)

/-- What the boot walk of a die that v names leaves: its walker at the first node, its bit of SYS.BOOTWALK; a die that v does not name is
passed over. -/
theorem bootStep_spec {s : State} {a : Nat} (v : Word) {va : Word} {ws : List Word} {e : Instr} (ha : a < 4)
    (hw : (s.box a).walkers = []) (hclear : bit s.sys.bootwalk (60 + a) = false) (hb : s.boxWords va.toNat 4 = some ws)
    (he : nodeEvent (bits (ws.getD 0 0) 3 0) = some e) :
    let t := if bit v a then s.bootWalk a va else s
    t.boxWords va.toNat 4 = some ws ∧ t.mem = s.mem
      ∧ (∀ k, k ≠ a → t.box k = s.box k ∧ bit t.sys.bootwalk (60 + k) = bit s.sys.bootwalk (60 + k))
      ∧ bit t.sys.bootwalk (60 + a) = bit v a ∧ (bit v a = true → (t.box a).walker 0 = nodeRead ws (bootWalker va)) := by
  cases hv : bit v a with
  | false => exact ⟨hb, rfl, fun k hk => ⟨rfl, rfl⟩, hclear, fun h => absurd h Bool.false_ne_true⟩
  | true =>
    intro t
    have ht : t = bootBegun s a va ws e := bootWalk_eq hw hb he
    rw [ht]
    have hbit := bootwalk_bootBegun s ha hclear va ws e
    refine ⟨?_, rfl, fun k hk => ⟨box_bootBegun_ne hk va ws e, ?_⟩, ?_, fun _ => walker_bootBegun ..⟩
    · rw [boxWords_congr (sameReads_bootBegun s a va ws e) rfl, hb]
    · rw [hbit, decide_eq_false hk, Bool.false_or]
    · rw [hbit, decide_eq_true rfl, Bool.true_or]

/-- A boot walk of one die after another: each die named walks, and no other die is touched. -/
theorem bootWalks_spec (v va : Word) {ws : List Word} {e : Instr} (he : nodeEvent (bits (ws.getD 0 0) 3 0) = some e) (ds : List Nat)
    (hnodup : ds.Nodup) (h4 : ∀ d ∈ ds, d < 4) (s : State) (hw : ∀ d ∈ ds, (s.box d).walkers = [])
    (hclear : ∀ d ∈ ds, bit s.sys.bootwalk (60 + d) = false) (hb : s.boxWords va.toNat 4 = some ws) :
    let t := ds.foldl (fun s d => if bit v d then s.bootWalk d va else s) s
    t.mem = s.mem
      ∧ (∀ d, d ∉ ds → t.box d = s.box d ∧ bit t.sys.bootwalk (60 + d) = bit s.sys.bootwalk (60 + d))
      ∧ ∀ d ∈ ds, bit t.sys.bootwalk (60 + d) = bit v d
          ∧ (bit v d = true → (t.box d).walker 0 = nodeRead ws (bootWalker va)) := by
  induction ds generalizing s with
  | nil => exact ⟨rfl, fun d _ => ⟨rfl, rfl⟩, fun d hd => nomatch hd⟩
  | cons a r ih =>
    obtain ⟨har, hr⟩ := List.nodup_cons.mp hnodup
    have hmem := fun {d} => List.mem_cons_of_mem (a := d) a (l := r)
    obtain ⟨hb', hmem', hother, hbit, hwalk⟩ := bootStep_spec v (h4 a List.mem_cons_self) (hw a List.mem_cons_self)
      (hclear a List.mem_cons_self) hb he
    have hne : ∀ {d}, d ∈ r → d ≠ a := fun hd h => har (h ▸ hd)
    obtain ⟨hmem'', hout, hin⟩ := ih hr (fun d hd => h4 d (hmem hd)) _
      (fun d hd => by rw [(hother d (hne hd)).1]; exact hw d (hmem hd))
      (fun d hd => (hother d (hne hd)).2.trans (hclear d (hmem hd))) hb'
    refine ⟨hmem''.trans hmem', fun d hd => ?_, fun d hd => ?_⟩
    · obtain ⟨hda, hdr⟩ := not_or.mp (mt List.mem_cons.mpr hd)
      obtain ⟨hbox, hbw⟩ := hout d hdr
      obtain ⟨hbox', hbw'⟩ := hother d hda
      exact ⟨hbox.trans hbox', hbw.trans hbw'⟩
    · rcases List.mem_cons.mp hd with rfl | hd
      · obtain ⟨hbox, hbw⟩ := hout d har
        exact ⟨hbw.trans hbit, fun h => (congrArg (·.walker 0) hbox).trans (hwalk h)⟩
      · exact hin d hd

/-! Register writes as events, one equation each. -/

section
variable {s : State} {o : ValRef} (h : s.arg = .valRef o)
include h

theorem exec_timeStep : exec .timeStep s = .next (s.stepTime o.v) := by
  show execTimeStep s = _
  simp only [execTimeStep, h]

theorem exec_timerateWrite : exec .timerateWrite s = .next (s.writeTimerate o.v) := by
  show execTimerateWrite s = _
  simp only [execTimerateWrite, h]

theorem exec_ptpstatWrite : exec .ptpstatWrite s = .next (s.writePtpstat o.v) := by
  show execPtpstatWrite s = _
  simp only [execPtpstatWrite, h]

theorem exec_hotcfgWrite : exec .hotcfgWrite s = .next (s.writeHotcfg o.v o.v) := by
  show execHotcfgWrite s = _
  simp only [execHotcfgWrite, h]

theorem exec_evpendAck : exec .evpendAck s = .next (s.ackEvents o.v) := by
  show execEvpendAck s = _
  simp only [execEvpendAck, h]

theorem exec_bootwalkGo : exec .bootwalkGo s = .next (s.writeBootwalk o.v o.v) := by
  show execBootwalkGo s = _
  simp only [execBootwalkGo, h]

end

/-! What the registers take (R47, R128, R453). -/

theorem writePtpstat_spec (s : State) (v : Word) :
    let p := s.sys.ptp
    let port := bits v 23 16
    (s.writePtpstat v).mem = s.mem ∧ (s.writePtpstat v).sys.ptp.port = (if port < 12 then port else p.port)
      ∧ (s.writePtpstat v).sys.ptp.state = (if port < 12 ∧ port ≠ p.port then 0 else p.state)
      ∧ (s.writePtpstat v).sys.ptp.domain = if bits v 15 8 < 128 then bits v 15 8 else p.domain := by
  intro p port
  refine ⟨rfl, rfl, ?_, rfl⟩
  simp only [State.writePtpstat, sys_modSys, Bool.and_eq_true, decide_eq_true_eq, bne_iff_ne]
  rfl

/-- The two sizes that SYS.HOTCFG takes (R128). -/
def HotcfgOk (v : Word) : Prop := 8 ≤ bits v 4 0 ∧ bits v 4 0 ≤ 20 ∧ 7 ≤ bits v 12 8 ∧ bits v 12 8 ≤ 20

theorem hotcfg_refused_iff (v : Word) :
    (decide (bits v 4 0 < 8) || decide (20 < bits v 4 0) || decide (bits v 12 8 < 7) || decide (20 < bits v 12 8)) = true
      ↔ ¬HotcfgOk v := by
  simp only [Bool.or_eq_true, decide_eq_true_eq, HotcfgOk]
  omega

theorem writeHotcfg_taken (s : State) {v : Word} (h : HotcfgOk v) : s.writeHotcfg v v = s.modSys fun y => { y with
    hotcfg := (v &&& 0x11F1F) ||| (s.sys.hotcfg &&& 0x80000000 &&& ~~~v)
    hotk := if bit v 16 && !bit s.sys.hotcfg 16 then 0 else y.hotk } := if_neg fun hc => (hotcfg_refused_iff v).mp hc h

theorem writeHotcfg_refused (s : State) {v : Word} (h : ¬HotcfgOk v) : s.writeHotcfg v v = s := if_pos ((hotcfg_refused_iff v).mpr h)

/-- The state with the fields of SYS.BOOTWALK written that no walk owns. -/
def bootwalkSet (s : State) (v : Word) : State :=
  s.modSys fun y => { y with bootwalk := (v &&& 0x01FFFFFFFFFFFFEF) ||| (s.sys.bootwalk &&& 0xF000000000000000) }

theorem writeBootwalk_noGo (s : State) {v : Word} (h : bit v 4 = false) : s.writeBootwalk v v = bootwalkSet s v := by
  simp only [State.writeBootwalk, h, Bool.false_and, Bool.false_eq_true, if_false]
  rfl

theorem writeBootwalk_refused {s : State} {v : Word} (h : bit v 4 = true) (hb : s.sys.boot.cur ≠ 4 ∨ bits s.sys.bootwalk 63 60 ≠ 0) :
    s.writeBootwalk v v = s := by
  refine if_pos ?_
  simpa only [h, Bool.true_and, Bool.or_eq_true, bne_iff_ne] using hb

theorem writeBootwalk_go {s : State} {v : Word} (h : bit v 4 = true) (hcur : s.sys.boot.cur = 4) (hidle : bits s.sys.bootwalk 63 60 = 0) :
    s.writeBootwalk v v =
      (List.range 4).foldl (fun s d => if bit v d then s.bootWalk d (v &&& 0x01FFFFFFFFFFFFE0) else s) (bootwalkSet s v) := by
  simp only [State.writeBootwalk, h, hcur, hidle, bne_self_eq_false, Bool.or_self, Bool.and_false, Bool.false_eq_true, if_false, if_true]
  rfl

/-- No boot walk runs where the four bits of SYS.BOOTWALK are clear, and a write does not set them. -/
theorem bootwalkSet_clear {s : State} (hidle : bits s.sys.bootwalk 63 60 = 0) (v : Word) {d : Nat} (hd : d < 4) :
    bit (bootwalkSet s v).sys.bootwalk (60 + d) = false := by
  have hold : bit s.sys.bootwalk (60 + d) = false := by
    rw [bit_eq_testBit_bits _ (by omega : 60 + d ≤ 63), hidle, Nat.zero_testBit]
  have hmask : ∀ k : Fin 4, bit (0x01FFFFFFFFFFFFEF : Word) (60 + k) = false := by decide
  show bit ((v &&& 0x01FFFFFFFFFFFFEF) ||| (s.sys.bootwalk &&& 0xF000000000000000)) (60 + d) = false
  rw [bit_or, bit_and, bit_and, hold, hmask ⟨d, hd⟩, Bool.and_false, Bool.false_and]
  rfl

/-! The registers of the tiles, regions and the module (R5, R111). -/

theorem pred_written (v : Word) : BitVec.ofNat 8 (bits v 7 1 * 2 + 1) = (v.setWidth 8 &&& 0xFE) ||| 1 := by
  have hbyte : ∀ x : BitVec 8, (x &&& 0xFE) ||| 1 = BitVec.ofNat 8 (x.toNat / 2 * 2 + 1) := by decide
  rw [hbyte, BitVec.toNat_setWidth, bits, Nat.shiftRight_eq_div_pow]
  congr 1
  omega

theorem writePred_pred (s : State) (d t : Nat) (v : Word) : ((s.writePred d t v).tile d t).pred = (v.setWidth 8 &&& 0xFE) ||| 1 :=
  (congrArg Tile.pred (tile_modTile_self s d t fun x => { x with pred := BitVec.ofNat 8 (bits v 7 1 * 2 + 1) })).trans (pred_written v)

theorem writeReg_trapcfg (s : State) (d i : Nat) (v w1 : Word) : ((s.writeReg d i 0x80A v w1).slot d i).trapcfg = v &&& 0x1FDEFFFF :=
  congrArg Slot.trapcfg (slot_modSlot_self s d i fun r => { r with trapcfg := v &&& 0x1FDEFFFF })

section
variable {s : State} {n d i : Nat} {v : Word} (h : s.arg = .regWr { csr := n, die := d, loc := i, v := v })
include h

theorem exec_registerWrite : exec .registerWrite s =
    .next (if tileCsr n then (if isCompute (i % 256) then s.writeTile d (i % 256) n v else s)
      else if regCsr n then s.writeReg d (i % 16) n v v
      else if n == 0xC45 then s.writeSvwdog (i % 8) v
      else if sysCsr n then s.writeSys n v v
      else s) := by
  show execRegisterWrite s = _
  simp only [execRegisterWrite, h]

/-- No register has a number above the SYS group's. -/
theorem exec_registerWrite_unknown (hn : 0xC60 ≤ n) : exec .registerWrite s = .next s := by
  have htile : tileCsr n = false := by
    simp only [tileCsr, Bool.or_eq_false_iff, beq_eq_false_iff_ne, Bool.and_eq_false_iff, decide_eq_false_iff_not]
    omega
  have hreg : regCsr n = false := by
    simp only [regCsr, Bool.and_eq_false_iff, decide_eq_false_iff_not]
    omega
  have hwdog : (n == 0xC45) = false := beq_false_of_ne (by omega)
  have hsys : sysCsr n = false := by
    simp only [sysCsr, Bool.or_eq_false_iff, beq_eq_false_iff_ne, Bool.and_eq_false_iff, decide_eq_false_iff_not]
    omega
  simp only [exec_registerWrite h, htile, hreg, hwdog, hsys, Bool.false_eq_true, if_false]

end

/-- Settles O59: the servo by the cases of its state, each register by the law of its write, a boot walk by the dies in turn. -/
theorem registerEventResults : Obligations.RegisterEventResults := by
  unfold Obligations.RegisterEventResults
  intro s v p keeps
  refine ⟨fun o harg ht => exec_ptpSync_ignored harg ht, fun o harg ht => ?_, ⟨_, rfl, rfl, ?_⟩, ⟨_, rfl, rfl, rfl⟩, fun harg => ?_,
    fun n d i harg => ?_⟩
  · -- R43, R47, R48: a Sync.
    intro x
    obtain ⟨t, hexec, hmem, hout, hptp⟩ := exec_ptpSync_taken harg ht
    refine ⟨t, hexec, hmem, hout, ?_⟩
    rw [hptp]
    exact ⟨fun hlo hhi => (congrArg BitVec.toInt (sync_offset p x)).trans (offsetField_toInt hlo hhi), sync_unlocked x,
      sync_acquiring x, sync_acquiring_far, sync_locked x, sync_locked_near⟩
  · -- R48: Announces.
    show (if p.state == 1 || p.state == 2 then _ else _ : Ptp).state = _
    simp only [Bool.or_eq_true, beq_iff_eq]
    split <;> rfl
  · -- R45-R47, R128, R434, R453: registers of the module.
    intro lo port hotOk
    refine ⟨⟨_, exec_timeStep harg, stepTime_spec s v⟩, ⟨_, exec_timerateWrite harg, writeTimerate_spec s v⟩,
      ⟨_, exec_ptpstatWrite harg, writePtpstat_spec s v⟩, fun hok => ?_,
      fun hok => (exec_hotcfgWrite harg).trans (congrArg _ (writeHotcfg_refused s hok)), ⟨_, exec_evpendAck harg, rfl, rfl⟩,
      fun h => ⟨_, (exec_bootwalkGo harg).trans (congrArg _ (writeBootwalk_noGo s h)), rfl, rfl⟩,
      fun h hb => (exec_bootwalkGo harg).trans (congrArg _ (writeBootwalk_refused h hb)), fun ws h hcur hidle hw hb hop => ?_⟩
    · refine ⟨_, (exec_hotcfgWrite harg).trans (congrArg _ (writeHotcfg_taken s hok)), rfl, rfl, ?_⟩
      simp only [sys_modSys, Bool.and_eq_true, Bool.not_eq_true']
    · obtain ⟨e, he⟩ := Option.ne_none_iff_exists'.mp hop
      obtain ⟨hmem, -, hdies⟩ := bootWalks_spec v (v &&& 0x01FFFFFFFFFFFFE0) he (List.range 4) List.nodup_range
        (fun d hd => List.mem_range.mp hd) (bootwalkSet s v) (fun d _ => hw d)
        (fun d hd => bootwalkSet_clear hidle v (List.mem_range.mp hd))
        ((boxWords_congr (s := s) ⟨rfl, rfl, rfl, rfl, rfl, fun _ => rfl⟩ rfl _ 4).trans hb)
      refine ⟨_, (exec_bootwalkGo harg).trans (congrArg _ (writeBootwalk_go h hcur hidle)), hmem, fun d hd => ?_⟩
      obtain ⟨hbit, hwalk⟩ := hdies d (List.mem_range.mpr hd)
      refine ⟨hbit, fun hv => ?_⟩
      rw [hwalk hv]
      exact ⟨rfl, rfl, rfl⟩
  · -- R111: registers by their numbers.
    refine ⟨?_, ?_, ?_, exec_registerWrite_unknown harg⟩
    · rintro rfl hc
      exact ⟨_, (exec_registerWrite harg).trans (congrArg _ (if_pos hc)), rfl, writePred_pred s d (i % 256) v⟩
    · rintro rfl
      exact ⟨_, exec_registerWrite harg, rfl, writeReg_trapcfg s d (i % 16) v v⟩
    · rintro rfl
      exact ⟨_, exec_registerWrite harg, rfl, rfl⟩

end Sys2Proof.Laws

/-! O47: the memory before the first start (03 R50; entry 7). -/

namespace Sys2Proof.Laws

open Sys2Proof Sys2Proof.Machine

@[simp] theorem mem_reset : State.reset.mem = [] := rfl

/-- Settles O47: no byte is listed at reset, so the form has nothing to order and every byte reads 0 (entry 7). -/
theorem resetMemoryForm : Obligations.ResetMemoryForm := by
  unfold Obligations.ResetMemoryForm
  rw [mem_reset]
  exact ⟨nil_wf, fun k => byte_absent [] k rfl⟩

end Sys2Proof.Laws

/-! The signal box: what its shared operations leave of its tables, and what a fetch and the agenda give (04 R61-R80). -/

namespace Sys2Proof.Laws

open Sys2Proof Sys2Proof.Machine

/-- A field of a word by division, as the statements write it. -/
theorem bits_eq_div (w : Word) (h l : Nat) : bits w h l = w.toNat / 2 ^ l % 2 ^ (h - l + 1) := by
  rw [bits, Nat.shiftRight_eq_div_pow]

theorem bits_zero_eq_mod (w : Word) (h : Nat) : bits w h 0 = w.toNat % 2 ^ (h + 1) := by
  rw [bits_eq_div, Nat.pow_zero, Nat.div_one, Nat.sub_zero]

theorem foldl_fixed_mem {α β : Type} {f : α → β → α} {a : α} {l : List β} (h : ∀ b ∈ l, f a b = a) : l.foldl f a = a := by
  induction l with
  | nil => rfl
  | cons b r ih =>
    rw [List.foldl_cons, h b List.mem_cons_self]
    exact ih fun c hc => h c (List.mem_cons_of_mem b hc)

/-! Boxes and slots apart from each other. -/

theorem box_of_boxes {s t : State} (h : t.boxes = s.boxes) (d : Nat) : t.box d = s.box d := by
  rw [State.box, h]
  rfl

theorem slot_of_slots {s t : State} (h : t.slots = s.slots) (d i : Nat) : t.slot d i = s.slot d i := by
  rw [State.slot, h]
  rfl

@[simp] theorem box_modSlot (s : State) (d i e : Nat) (f : Slot → Slot) : (s.modSlot d i f).box e = s.box e := rfl
@[simp] theorem box_modDepot (s : State) (d n : Nat) (f : Depot → Depot) (e : Nat) : (s.modDepot d n f).box e = s.box e := rfl
@[simp] theorem box_modSys (s : State) (f : Sys → Sys) (e : Nat) : (s.modSys f).box e = s.box e := rfl
@[simp] theorem box_post (s : State) (n : Nat) (ev : Instr) (x : Arg) (e : Nat) : (s.post n ev x).box e = s.box e := rfl
@[simp] theorem box_postTake (s : State) (d e : Nat) : (s.postTake d).box e = s.box e := rfl
@[simp] theorem box_inform (s : State) (code : Nat) (info : Word) (e : Nat) : (s.inform code info).box e = s.box e := rfl
@[simp] theorem box_wakeStc (s : State) (d i v e : Nat) : (s.wakeStc d i v).box e = s.box e := rfl

@[simp] theorem slot_modWalker (s : State) (d w : Nat) (f : Walker → Walker) (e j : Nat) : (s.modWalker d w f).slot e j = s.slot e j := rfl
@[simp] theorem slot_post (s : State) (n : Nat) (ev : Instr) (x : Arg) (e j : Nat) : (s.post n ev x).slot e j = s.slot e j := rfl

@[simp] theorem queue_modQueue_self (s : State) (d q : Nat) (f : Queue → Queue) : ((s.modQueue d q f).box d).queue q = f ((s.box d).queue q) := by
  rw [State.modQueue, box_modBox_self]
  exact tbl_get_set_self ..

theorem entry_modStc (s : State) (d i j : Nat) (f : Stc → Stc) :
    ((s.modStc d i f).box d).entry j = if j = i then f ((s.box d).entry i) else (s.box d).entry j := by
  rw [State.modStc, box_modBox_self]
  exact tbl_get_set ..

@[simp] theorem entry_modStc_self (s : State) (d i : Nat) (f : Stc → Stc) : ((s.modStc d i f).box d).entry i = f ((s.box d).entry i) := by
  rw [State.modStc, box_modBox_self]
  exact tbl_get_set_self ..

@[simp] theorem tt_modTt_self (s : State) (d i : Nat) (f : TTEntry → TTEntry) : ((s.modTt d i f).box d).tt i = f ((s.box d).tt i) := by
  rw [State.modTt, box_modBox_self]
  exact tbl_get_set_self ..

/-! A part of a box that another of its tables does not hold. -/

/-- What a change of a box leaves of a part of it, it leaves of that part of every box. -/
theorem view_modBox {α : Type} (view : SigBox → α) (s : State) (d e : Nat) {f : SigBox → SigBox} (h : ∀ b, view (f b) = view b) :
    view ((s.modBox d f).box e) = view (s.box e) := by
  rw [box_modBox]
  split
  · next he => rw [h, he]
  · rfl

@[simp] theorem walker_modStc (s : State) (d i e w : Nat) (f : Stc → Stc) : ((s.modStc d i f).box e).walker w = (s.box e).walker w :=
  view_modBox (·.walker w) s d e fun _ => rfl
@[simp] theorem stccfg_modStc (s : State) (d i e : Nat) (f : Stc → Stc) : ((s.modStc d i f).box e).stccfg = (s.box e).stccfg :=
  view_modBox SigBox.stccfg s d e fun _ => rfl
@[simp] theorem queue_modWalker (s : State) (d w e q : Nat) (f : Walker → Walker) : ((s.modWalker d w f).box e).queue q = (s.box e).queue q :=
  view_modBox (·.queue q) s d e fun _ => rfl
@[simp] theorem tt_modQueue (s : State) (d q e i : Nat) (f : Queue → Queue) : ((s.modQueue d q f).box e).tt i = (s.box e).tt i :=
  view_modBox (·.tt i) s d e fun _ => rfl
@[simp] theorem queue_modTt (s : State) (d i e q : Nat) (f : TTEntry → TTEntry) : ((s.modTt d i f).box e).queue q = (s.box e).queue q :=
  view_modBox (·.queue q) s d e fun _ => rfl

/-! Stores of the signal box. -/

@[simp] theorem prepWrite_boxes (s : State) (p : Phys) : (s.prepWrite p).boxes = s.boxes := by
  unfold State.prepWrite
  split
  · split
    · rfl
    · split <;> rfl
  · rfl

@[simp] theorem tailHits_boxes (s : State) (pa n : Nat) : (s.tailHits pa n).boxes = s.boxes := by
  refine foldl_keeps State.boxes (fun t e => foldl_keeps State.boxes (fun u q => ?_) e.2.queues t) s.boxes s
  dsimp only
  split
  · rfl
  · split
    · split <;> rfl
    · rfl

@[simp] theorem wr_boxes (s : State) (p : Phys) (bs : List Byte) : (s.wr p bs).boxes = s.boxes := by
  unfold State.wr
  dsimp only
  rw [apply_ite State.boxes, tailHits_boxes, ite_self, apply_ite State.boxes, mark_boxes, ite_self]
  exact prepWrite_boxes s p

theorem wrAll_boxes (ps : List (Phys × Nat)) (s : State) (bs : List Byte) : (s.wrAll ps bs).boxes = s.boxes := by
  induction ps generalizing s bs with
  | nil => rfl
  | cons e r ih => exact (ih ..).trans (wr_boxes ..)

theorem writeVa_boxes {s t : State} {root : Word} {sup : Bool} {va : Nat} {bs : List Byte} (h : s.writeVa root sup va bs = some t) :
    t.boxes = s.boxes := by
  obtain ⟨ps, -, rfl⟩ := Option.map_eq_some_iff.mp h
  exact wrAll_boxes ps s bs

theorem boxStore_getD_boxes (s : State) (va : Nat) (v : Word) : ((s.boxStore va v).getD s).boxes = s.boxes := by
  cases h : s.boxStore va v with
  | none => rfl
  | some t => exact writeVa_boxes h

@[simp] theorem putDesc_boxes (s : State) (d q w : Nat) (v : Word) : (s.putDesc d q w v).boxes = s.boxes := boxStore_getD_boxes s _ v

@[simp] theorem box_putDesc (s : State) (d q w : Nat) (v : Word) (e : Nat) : (s.putDesc d q w v).box e = s.box e :=
  box_of_boxes (putDesc_boxes s d q w v) e

/-! The end of a record (R66). -/

/-- A part of a signal box that neither its walkers nor its queues belong to. -/
structure BesideWork {α : Type} (view : SigBox → α) : Prop where
  walkers : ∀ (b : SigBox) (x : Tbl Walker), view { b with walkers := x } = view b
  queues : ∀ (b : SigBox) (x : Tbl Queue), view { b with queues := x } = view b

section
variable {α : Type} {view : SigBox → α} (hv : BesideWork view)
include hv

theorem view_modWalker (s : State) (d w e : Nat) (f : Walker → Walker) : view ((s.modWalker d w f).box e) = view (s.box e) :=
  view_modBox view s d e fun b => hv.walkers b _

theorem view_modQueue (s : State) (d q e : Nat) (f : Queue → Queue) : view ((s.modQueue d q f).box e) = view (s.box e) :=
  view_modBox view s d e fun b => hv.queues b _

theorem view_queueErr (s : State) (d q status src ix e : Nat) : view ((s.queueErr d q status src ix).box e) = view (s.box e) := by
  rw [State.queueErr, box_putDesc, view_modQueue hv]

/-- A record's end leaves the rest of every box, but for the stream contexts that it held (R79). -/
theorem view_finishRecord (s : State) (d w status e : Nat)
    (hs : ((s.box d).walker w).holds = [] ∨ ∀ (b : SigBox) (x : Tbl Stc), view { b with stc := x } = view b) :
    view ((s.finishRecord d w status).box e) = view (s.box e) := by
  have hrel : view ((s.releaseHolds d ((s.box d).walker w).holds).box e) = view (s.box e) := by
    rcases hs with hs | hs
    · rw [hs]
      rfl
    · exact foldl_keeps (fun t => view (t.box e)) (fun t i => view_modBox view t d e fun b => hs b _) _ s
  have hown : ∀ (l : List Nat) (t : State), (l.foldl (fun t i => t.modSlot d i fun r => { r with owner := none }) t).box e = t.box e :=
    fun l t => 
      foldl_keeps (fun t => t.box e) (fun t i => box_modSlot t d i e _) l t
  have hgetD : ∀ (t : State) (va : Nat) (v : Word), ((t.boxStore va v).getD t).box e = t.box e := fun t va v =>
    box_of_boxes (boxStore_getD_boxes t va v) e
  unfold State.finishRecord
  dsimp only
  split
  · rw [box_postTake, box_inform, box_modSys, view_modWalker hv, hown, hrel]
  · rw [box_postTake]
    simp only [apply_ite (fun t : State => view (t.box e)), box_inform, hgetD, view_queueErr hv, box_putDesc, view_modQueue hv,
      view_modWalker hv, hown, hrel, ite_self]

theorem view_endRecord (s : State) (d w status e : Nat)
    (hs : ((s.box d).walker w).holds = [] ∨ ∀ (b : SigBox) (x : Tbl Stc), view { b with stc := x } = view b) :
    view ((s.endRecord d w status).box e) = view (s.box e) := by
  unfold State.endRecord
  split
  · exact view_modWalker hv ..
  · exact view_finishRecord hv s d w status e hs

end

/-! Events that are due. -/

theorem mem_insertDue_self (l : List Pending) (p : Pending) : p ∈ insertDue l p := by
  induction l with
  | nil => exact List.mem_singleton_self p
  | cons q r ih =>
    unfold insertDue
    split
    · exact List.mem_cons_self
    · exact List.mem_cons_of_mem q ih

theorem mem_insertDue_of_mem {l : List Pending} {x : Pending} (h : x ∈ l) (p : Pending) : x ∈ insertDue l p := by
  induction l with
  | nil => nomatch h
  | cons q r ih =>
    unfold insertDue
    split
    · exact List.mem_cons_of_mem p h
    · rcases List.mem_cons.mp h with rfl | h
      · exact List.mem_cons_self
      · exact List.mem_cons_of_mem q (ih h)

/-- An event that is posted is due. -/
theorem due_post (s : State) (n : Nat) (ev : Instr) (x : Arg) :
    (s.post n ev x).agenda.any (fun p => p.ev == ev && p.arg == x) = true :=
  List.any_eq_true.mpr ⟨_, mem_insertDue_self .., by simp only [beq_self_eq_true, Bool.and_self]⟩

/-- What is due stays due where another event is posted. -/
theorem due_post_of_due {s : State} {f : Pending → Bool} (h : s.agenda.any f = true) (n : Nat) (ev : Instr) (x : Arg) :
    (s.post n ev x).agenda.any f = true := by
  obtain ⟨p, hp, hf⟩ := List.any_eq_true.mp h
  exact List.any_eq_true.mpr ⟨p, mem_insertDue_of_mem hp _, hf⟩

end Sys2Proof.Laws

/-! O36: stream contexts, as instructions and as the events of a die's table (04 R76-R80; 18 R421). -/

namespace Sys2Proof.Laws

open Sys2Proof Sys2Proof.Machine Sys2Proof.Safety

/-! The entry that an instruction names (R78, R421). -/

/-- The number of an entry's state (R78). -/
def scCode (x : ScState) : Nat := match x with | .free => 0 | .evicted => 1 | .restoring => 2 | .resident => 3 | .evicting => 4

theorem code_eq (e : Stc) : e.code = scCode e.state := by
  have hlow : ∀ n, (scCode e.state + e.size % 32 * 256 + e.frame % 4096 * 65536 + n * 2 ^ 32) % 2 ^ 64 % 8 = scCode e.state := by
    intro n
    have hlt : scCode e.state < 8 := by cases e.state <;> decide
    omega
  show bits (w64 (scCode e.state + e.size % 32 * 256 + e.frame % 4096 * 65536 + e.holds % 256 * 2 ^ 32)) 2 0 = _
  rw [bits_zero_eq_mod, w64, BitVec.toNat_ofNat]
  exact hlow _

/-- The index that an instruction takes from its register (R421). -/
def scIx (s : State) (o : CFmt) : Nat := bits (s.getG o.a) 15 0

theorem scIx_eq (s : State) (o : CFmt) : scIx s o = (s.getG o.a).toNat % 2 ^ 16 := bits_zero_eq_mod ..

/-- An index that the instructions do not refuse: below the table's end, in use, not FREE (R421). -/
def Takes (s : State) (i : Nat) : Prop := (s.stcEn s.die = true ∧ i ≤ s.stcNent s.die) ∧ ((s.box s.die).entry i).state ≠ .free

theorem scIndex_refused_iff (s : State) (o : CFmt) : (s.scIndex o).2 = true ↔ ¬Takes s (scIx s o) := by
  show (!s.stcEn s.die || decide (s.stcNent s.die < scIx s o) || ((s.box s.die).entry (scIx s o)).state == .free) = true ↔ _
  rw [Bool.or_eq_true, Bool.or_eq_true, Bool.not_eq_true', decide_eq_true_eq, beq_iff_eq, Takes, ← Bool.not_eq_true,
    Classical.not_and_iff_not_or_not, Classical.not_and_iff_not_or_not, Nat.not_le, ne_eq, Classical.not_not]

theorem scIndex_refused {s : State} {o : CFmt} (h : ¬Takes s (scIx s o)) : s.scIndex o = (scIx s o, true) :=
  Prod.ext rfl ((scIndex_refused_iff s o).mpr h)

theorem scIndex_takes {s : State} {o : CFmt} (h : Takes s (scIx s o)) : s.scIndex o = (scIx s o, false) :=
  Prod.ext rfl (eq_false_of_ne_true fun hr => (scIndex_refused_iff s o).mp hr h)

theorem scBefore_eq {s : State} {i : Nat} (h : i ≤ s.stcNent s.die) : s.scBefore i = scCode ((s.box s.die).entry i).state :=
  (if_neg (Nat.not_lt.mpr h)).trans (code_eq _)

/-! Touches (R79). -/

section
variable {s : State} {d i : Nat}

theorem touchStc_resident (h : ((s.box d).entry i).state = .resident) :
    s.touchStc d i = (s.modStc d i fun x => { x with last := s.sys.time }, .resident) := by
  simp only [State.touchStc, h]

theorem touchStc_restoring (h : ((s.box d).entry i).state = .restoring) : s.touchStc d i = (s, .wait) := by
  simp only [State.touchStc, h]

theorem touchStc_restores (h : ((s.box d).entry i).state = .evicted) (hw : ((s.box d).entry i).want = false) {f : Nat}
    (hf : s.freeFrame d = some f) : s.touchStc d i = (s.restore d i f, .wait) := by
  simp only [State.touchStc, h, hw, hf, Bool.false_eq_true, if_false]

theorem touchStc_noframe (h : ((s.box d).entry i).state = .evicted) (hw : ((s.box d).entry i).want = false)
    (hf : s.freeFrame d = none) (hv : s.victim d = none) : s.touchStc d i = (s, .noframe) := by
  simp only [State.touchStc, h, hw, hf, hv, Bool.false_eq_true, if_false]

end

/-! The instructions (R421). -/

/-- What SCLD makes of a touch of entry i. -/
def scldEnd (o : CFmt) (i : Nat) : State × Touched → State
  | (s1, .free) => s1.status o 0
  | (s1, .noframe) => s1.status o 1
  | (s1, .wait) => s1.waits (.stream i)
  | (s1, .resident) => s1.status o (s1.frameAddr s1.die ((s1.box s1.die).entry i).frame)

section
variable {s : State} {o : CFmt} (hon : CtxOn s o.gn o.gs)
include hon

theorem exec_scld_loaded {v : Nat} (h : s.hart.wait = .loaded v) : exec (.scld o) s = .next (s.status o v) := by
  show execScld o s = _
  simp only [execScld, guardedCtx_on hon, h]

/-- SCLD that has no result yet: refused, or the end of its touch. -/
theorem exec_scld_fresh (hw : ∀ v, s.hart.wait ≠ .loaded v) : exec (.scld o) s = .next (if (s.scIndex o).2 then s.status o 0
    else scldEnd o (scIx s o) (s.touchStc s.die (scIx s o))) := by
  show execScld o s = _
  rw [execScld, guardedCtx_on hon]
  split
  · next v hv => exact absurd hv (hw v)
  · rfl

theorem exec_scld_refused (hw : ∀ v, s.hart.wait ≠ .loaded v) (h : ¬Takes s (scIx s o)) : exec (.scld o) s = .next (s.status o 0) := by
  rw [exec_scld_fresh hon hw, scIndex_refused h, if_pos rfl]

theorem exec_scld_takes (hw : ∀ v, s.hart.wait ≠ .loaded v) (h : Takes s (scIx s o)) {p : State × Touched}
    (ht : s.touchStc s.die (scIx s o) = p) : exec (.scld o) s = .next (scldEnd o (scIx s o) p) := by
  rw [exec_scld_fresh hon hw, scIndex_takes h, if_neg Bool.false_ne_true, ht]

theorem exec_sctch_refused (h : ¬Takes s (scIx s o)) : exec (.sctch o) s = .next (s.status o (s.scBefore (scIx s o) + 512)) := by
  show execSctch o s = _
  simp only [execSctch, guardedCtx_on hon, scIndex_refused h, if_true]

theorem exec_sctch_takes (h : Takes s (scIx s o)) {s1 : State} {t : Touched} (ht : s.touchStc s.die (scIx s o) = (s1, t)) :
    exec (.sctch o) s = .next (s1.status o (s.scBefore (scIx s o) + b2n (t == .noframe) * 256)) := by
  show execSctch o s = _
  simp only [execSctch, guardedCtx_on hon, scIndex_takes h, ht, Bool.false_eq_true, if_false]

theorem exec_scev_refused (h : ¬Takes s (scIx s o)) : exec (.scev o) s = .next (s.status o (s.scBefore (scIx s o) + 512)) := by
  show execScev o s = _
  simp only [execScev, guardedCtx_on hon, scIndex_refused h, if_true]

theorem exec_scev_takes (h : Takes s (scIx s o)) :
    let e := (s.box s.die).entry (scIx s o)
    exec (.scev o) s = .next (if e.state == .resident && e.holds == 0 then (s.evict s.die (scIx s o)).status o (s.scBefore (scIx s o))
      else s.status o (s.scBefore (scIx s o) + b2n (e.holds != 0 || e.state == .restoring || e.state == .evicting) * 256)) := by
  show execScev o s = _
  simp only [execScev, guardedCtx_on hon, scIndex_takes h, Bool.false_eq_true, if_false]

theorem exec_scqry : exec (.scqry o) s = .next ((s.setG o.d (if s.stcNent s.die < scIx s o then 0
    else ((s.box s.die).entry (scIx s o)).word (o.imm.toNat % 4))).advance) := by
  show execScqry o s = _
  simp only [execScqry, guardedCtx_on hon, CFmt.f, Nat.pow_zero, Nat.div_one]
  rfl

end

/-- Depot offset of a frame, by division (R77). -/
theorem frameOff_eq (s : State) (d f : Nat) : s.frameOff d f = ((s.box d).stccfg.toNat % 64 + f / 128) * 131072 := by
  have hbase : bits (s.box d).stccfg 5 0 = (s.box d).stccfg.toNat % 64 := bits_zero_eq_mod _ 5
  rw [State.frameOff, hbase]

/-- The path-0x1 address that SCLD gives (R77, R421). -/
theorem frameAddr_eq (s : State) (d f : Nat) : s.frameAddr d f
    = 2 ^ 60 + d * 2 ^ 30 + f % 128 * 2 ^ 23 + ((s.box d).stccfg.toNat % 64 + f / 128) * 131072 := by
  rw [State.frameAddr, frameOff_eq]

theorem exec_scld_resident {s : State} {o : CFmt} (hon : CtxOn s o.gn o.gs) (hw : ∀ v, s.hart.wait ≠ .loaded v)
    (h : Takes s (scIx s o)) (hst : ((s.box s.die).entry (scIx s o)).state = .resident) :
    exec (.scld o) s = .next ((s.modStc s.die (scIx s o) fun x => { x with last := s.sys.time }).status o
      (s.frameAddr s.die ((s.box s.die).entry (scIx s o)).frame)) := by
  have hdie : ∀ f, (s.modStc s.die (scIx s o) f).die = s.die := fun _ => rfl
  rw [exec_scld_takes hon hw h (touchStc_resident hst), scldEnd, frameAddr_eq, hdie, stccfg_modStc, entry_modStc_self, frameAddr_eq]

/-! Copies of stream contexts (R79, R288). -/

theorem copyMarks_keeps {α : Type} (view : State → α) (hm : ∀ t g on, view (t.mark g on) = view t)
    (hi : ∀ t code info, view (t.inform code info) = view t) (s : State) (src dst : Nat → Nat) (n : Nat) :
    view (s.copyMarks src dst n) = view s := by
  refine foldl_keeps view (fun t g => ?_) (List.range n) s
  dsimp only
  rw [hm]
  split
  · exact hi ..
  · rfl

@[simp] theorem copyMarks_mem (s : State) (src dst : Nat → Nat) (n : Nat) : (s.copyMarks src dst n).mem = s.mem :=
  copyMarks_keeps State.mem (fun _ _ _ => rfl) (fun _ _ _ => rfl) s src dst n

@[simp] theorem box_copyMarks (s : State) (src dst : Nat → Nat) (n d : Nat) : (s.copyMarks src dst n).box d = s.box d :=
  copyMarks_keeps (fun t => t.box d) (fun _ _ _ => rfl) (fun _ _ _ => rfl) s src dst n

/-- Where no walker waits in an SCT node, none looks again. -/
theorem settleSct_none {s : State} {d : Nat} (h : ∀ w, ((s.box d).walker w).st ≠ .sct) : s.settleSct d = s :=
  foldl_fixed_mem fun w _ => if_neg (mt beq_iff_eq.mp (h w))

/-- Where no entry waits for a frame, none is served. -/
theorem serveWant_none {s : State} {d : Nat} (h : ∀ j, ((s.box d).entry j).want = false) : s.serveWant d = s :=
  foldl_fixed_mem fun j _ => by simp only [State.serveOne, h j, Bool.false_and, Bool.not_false, if_true]

theorem tbl_get_of_forall {α : Type} {p : α → Prop} {t : Tbl α} {d : α} (hd : p d) (h : ∀ x ∈ t, p x.2) (k : Nat) : p (t.get k d) := by
  induction t with
  | nil => exact hd
  | cons x r ih =>
    unfold Tbl.get
    split
    · exact h x List.mem_cons_self
    · exact ih fun y hy => h y (List.mem_cons_of_mem x hy)

/-! The events of a die's table (R76, R79, R80). -/

@[simp] theorem flushDepot_boxes (s : State) (d n : Nat) : (s.flushDepot d n).boxes = s.boxes := by
  refine foldl_keeps State.boxes (fun t e => ?_) s.l2 s
  split
  · obtain ⟨m, p, c, hdrop⟩ := drop_eq t (e.1 * 64) true
    rw [hdrop]
  · rfl

/-- What a write of SYS.STCCFG must not ask for (R76). -/
def StccfgBad (s : State) (d : Nat) (v : Word) : Prop :=
  bits v 13 8 = 0 ∨ 32 < bits v 13 8 ∨ 64 < bits v 5 0 + bits v 13 8 ∨ (bit (s.box d).stccfg 28 = true ∧ bit v 28 = true)

theorem stccfg_refused_iff (s : State) (d : Nat) (v : Word) : (bits v 13 8 == 0 || decide (32 < bits v 13 8)
    || decide (64 < bits v 5 0 + bits v 13 8) || (bit (s.box d).stccfg 28 && bit v 28)) = true ↔ StccfgBad s d v := by
  simp only [Bool.or_eq_true, Bool.and_eq_true, decide_eq_true_eq, beq_iff_eq, or_assoc, StccfgBad]

theorem writeStccfg_refused {s : State} {d : Nat} {v : Word} (h : StccfgBad s d v) : s.writeStccfg d v = s :=
  if_pos ((stccfg_refused_iff s d v).mpr h)

theorem writeStccfg_taken {s : State} {d : Nat} {v : Word} (h : ¬StccfgBad s d v) :
    ((s.writeStccfg d v).box d).stccfg = v &&& 0x1FFF3F3F ∧ (bit v 28 = false → (s.writeStccfg d v).mem = s.mem) := by
  have hset : ((s.modBox d fun b => { b with stccfg := v &&& 0x1FFF3F3F }).box d).stccfg = v &&& 0x1FFF3F3F := by rw [box_modBox_self]
  have hflush : ∀ (l : List Nat) (t : State),
      (l.foldl (fun t n => if 2 * bits v 5 0 < (t.depot d n).cend then t.flushDepot d n else t) t).box d = t.box d := fun l t =>
    foldl_keeps (fun t => t.box d) (fun t n => by
      split
      · exact box_of_boxes (flushDepot_boxes t d n) d
      · rfl) l t
  rw [State.writeStccfg, if_neg (mt (stccfg_refused_iff s d v).mp h)]
  cases hv : bit v 28 with
  | false => exact ⟨hset, fun _ => rfl⟩
  | true =>
    refine ⟨?_, fun h => nomatch h⟩
    have hscan : ∀ t : State, ((t.modBox d fun b => { b with scan := 0 }).box d).stccfg = (t.box d).stccfg := fun t =>
      view_modBox SigBox.stccfg t d d fun _ => rfl
    simp only [if_true, apply_ite (fun t : State => (t.box d).stccfg), box_post, hscan, hflush, hset, ite_self]

/-- The scanner goes on to the next entry, and a silent one begins its eviction (R80). -/
theorem scanVisit_spec {s : State} {d : Nat} (harg : s.arg = .dieRef { die := d }) (hen : s.stcEn d = true) :
    let scan := (s.box d).scan
    ∃ t, exec .scanVisit s = .next t ∧ t.mem = s.mem ∧ (t.box d).scan = (if s.stcNent d ≤ scan then 0 else scan + 1)
      ∧ ((t.box d).entry scan).state = if s.silent ((s.box d).entry scan) then .evicting else ((s.box d).entry scan).state := by
  intro scan
  have hexec : exec .scanVisit s = .next (((if s.silent ((s.box d).entry scan) then s.evict d scan else s).modBox d fun b =>
      { b with scan := if s.stcNent d ≤ scan then 0 else scan + 1 }).post 20 .scanVisit s.arg) := by
    show execScanVisit s = _
    simp only [execScanVisit, harg, hen, Bool.not_true, Bool.false_eq_true, if_false]
    rfl
  refine ⟨_, hexec, ?_, ?_, ?_⟩
  · rw [post_mem, modBox_mem]
    split <;> rfl
  · rw [box_post, box_modBox_self]
  · rw [box_post, box_modBox_self]
    show (((if s.silent ((s.box d).entry scan) then s.evict d scan else s).box d).entry scan).state = _
    split
    · rw [State.evict, box_post, entry_modStc_self]
    · rfl

theorem sct_of_walker {s t : State} {d : Nat} (h : ∀ w, ((s.box d).walker w).st ≠ .sct)
    (hw : ∀ w, (t.box d).walker w = (s.box d).walker w) : ∀ w, ((t.box d).walker w).st ≠ .sct := fun w => by
  rw [hw]
  exact h w

/-- A restore that has copied: the backing bytes stand in the frame, and the entry is RESIDENT (R79). -/
theorem restored_spec {s : State} {d i : Nat} (hsct : ∀ w, ((s.box d).walker w).st ≠ .sct)
    (hst : ((s.box d).entry i).state = .restoring) {bs : List Byte}
    (hread : s.readVa s.sys.svptbr true (bits ((s.box d).entry i).back 56 0) ((((s.box d).entry i).size + 1) * 4096) = some bs) :
    let t := s.restored d i
    t.mem = s.mem.put (depotKey d (((s.box d).entry i).frame % 128) (s.frameOff d ((s.box d).entry i).frame)) bs
      ∧ ((t.box d).entry i).state = .resident ∧ ((t.box d).entry i).last = s.sys.time := by
  have hne : (((s.box d).entry i).state != .restoring) = false := by rw [hst]; rfl
  simp only [State.restored, hne, hread, Bool.false_eq_true, if_false]
  rw [settleSct_none (sct_of_walker hsct fun w => by rw [box_wakeStc, walker_modStc, box_copyMarks]; rfl)]
  refine ⟨?_, ?_, ?_⟩
  · exact copyMarks_mem ..
  · rw [box_wakeStc, entry_modStc_self]
  · rw [box_wakeStc, entry_modStc_self]

/-- An entry whose eviction has ended (R79). -/
def evictEnded (e : Stc) : Stc := { e with
  state := if e.freeing.isSome then .free else .evicted, evic := stick (e.evic + 1) 0xFFFFFFFF, freeing := none
  want := e.want && e.freeing.isNone }

/-- An eviction that has copied: the frame's bytes stand at the backing VA, and the entry is EVICTED (R79). -/
theorem evicted_spec {s : State} {d i : Nat} (hsct : ∀ w, ((s.box d).walker w).st ≠ .sct)
    (hst : ((s.box d).entry i).state = .evicting) (hfree : ((s.box d).entry i).freeing = none)
    (hwant : ∀ x ∈ (s.box d).stc, x.2.want = false) {s1 : State}
    (hwrite : s.writeVa s.sys.svptbr true (bits ((s.box d).entry i).back 56 0)
      (s.mem.bytes (depotKey d (((s.box d).entry i).frame % 128) (s.frameOff d ((s.box d).entry i).frame))
        ((((s.box d).entry i).size + 1) * 4096)) = some s1) :
    (s.evicted d i).mem = s1.mem ∧ ((s.evicted d i).box d).entry i = evictEnded ((s.box d).entry i) := by
  have hne : (((s.box d).entry i).state != .evicting) = false := by rw [hst]; rfl
  have hbox : ∀ src dst n, (s1.copyMarks src dst n).box d = s.box d := fun src dst n =>
    (box_copyMarks ..).trans (box_of_boxes (writeVa_boxes hwrite) d)
  have hall : ∀ j, ((s.box d).entry j).want = false := tbl_get_of_forall (p := fun e : Stc => e.want = false) rfl hwant
  have hended : ∀ src dst n j, (((s1.copyMarks src dst n).modStc d i evictEnded).box d).entry j
      = if j = i then evictEnded ((s.box d).entry i) else (s.box d).entry j := fun src dst n j => by rw [entry_modStc, hbox]
  have hlook : ∀ src dst n, (((s1.copyMarks src dst n).modStc d i evictEnded).serveWant d).settleSct d
      = (s1.copyMarks src dst n).modStc d i evictEnded := fun src dst n => by
    rw [serveWant_none, settleSct_none]
    · exact sct_of_walker hsct fun w => by rw [walker_modStc, hbox]
    · intro j
      rw [hended]
      split
      · simp only [evictEnded, hall i, Bool.false_and]
      · exact hall j
  obtain ⟨src, dst, n, heq⟩ : ∃ src dst n, s.evicted d i = (((s1.copyMarks src dst n).modStc d i evictEnded).serveWant d).settleSct d := by
    simp only [State.evicted, hne, hwrite, hfree, Bool.false_eq_true, if_false]
    exact ⟨_, _, _, rfl⟩
  rw [heq, hlook]
  exact ⟨copyMarks_mem .., (hended ..).trans (if_pos rfl)⟩

/-! Each event of the table by its operand. -/

theorem exec_stccfgWrite {s : State} {d : Nat} {v : Word} (h : s.arg = .dieVal { die := d, v := v }) :
    exec .stccfgWrite s = .next (s.writeStccfg d v) := by
  show execStccfgWrite s = _
  simp only [execStccfgWrite, h]

theorem exec_stcRestoreDone {s : State} {d i : Nat} (h : s.arg = .dieIdx { die := d, i := i }) :
    exec .stcRestoreDone s = .next (s.restored d i) := by
  show execStcRestoreDone s = _
  simp only [execStcRestoreDone, h]

theorem exec_stcEvictDone {s : State} {d i : Nat} (h : s.arg = .dieIdx { die := d, i := i }) :
    exec .stcEvictDone s = .next (s.evicted d i) := by
  show execStcEvictDone s = _
  simp only [execStcEvictDone, h]

/-- Settles O36: the instructions by what a touch meets, the events by the laws of the table's scanner, restores and evictions. -/
theorem streamContextResults : Obligations.StreamContextResults := by
  unfold Obligations.StreamContextResults
  refine ⟨fun s o hon => ?_, fun s d i v hsct => ?_⟩
  · rw [← scIx_eq]
    intro i e inUse st code fresh
    have hbefore : ∀ {x : ScState}, inUse → e.state = x → s.scBefore i = scCode x := fun hin hx =>
      (scBefore_eq hin.2).trans (congrArg scCode hx)
    have htakes : ∀ {x : ScState}, inUse → e.state = x → x ≠ .free → Takes s i := fun hin hx hne => ⟨hin, fun h => hne (hx.symm.trans h)⟩
    refine ⟨fun v hv => exec_scld_loaded hon hv, fun hno => ⟨fun hw => exec_scld_refused hon hw hno, fun hi => ?_⟩, fun hin hst => ?_,
      fun hin hst => ?_, fun hin hst hwant f hf => ?_, fun hin hst hwant hf hv => ?_, exec_scqry hon⟩
    · -- R421: refused.
      rw [exec_sctch_refused hon hno, exec_scev_refused hon hno, scBefore_eq hi]
      exact ⟨rfl, rfl⟩
    · -- R79: a RESIDENT entry.
      have ht := htakes hin hst nofun
      have htouch := touchStc_resident hst
      refine ⟨?_, fun hw => ?_, fun h0 => ?_, fun h0 => ?_⟩
      · rw [exec_sctch_takes hon ht htouch, hbefore hin hst]
        rfl
      · rw [exec_scld_resident hon hw ht hst, frameAddr_eq]
        rfl
      · have hevict : (e.state == .resident && e.holds == 0) = true := by rw [hst, h0]; rfl
        rw [exec_scev_takes hon ht, if_pos hevict, hbefore hin hst]
        rfl
      · have hstays : ¬(e.state == .resident && e.holds == 0) = true := fun h => h0 (beq_iff_eq.mp (Bool.and_eq_true_iff.mp h).2)
        have hheld : (e.holds != 0 || e.state == .restoring || e.state == .evicting) = true := by rw [bne_iff_ne.mpr h0]; rfl
        rw [exec_scev_takes hon ht, if_neg hstays, hbefore hin hst, hheld]
        rfl
    · -- R79: an entry being restored.
      have ht := htakes hin hst nofun
      have htouch := touchStc_restoring hst
      refine ⟨?_, fun hw => exec_scld_takes hon hw ht htouch, ?_⟩
      · rw [exec_sctch_takes hon ht htouch, hbefore hin hst]
        rfl
      · have hstays : ¬(e.state == .resident && e.holds == 0) = true := by rw [hst]; exact Bool.false_ne_true
        have hbusy : (e.holds != 0 || e.state == .restoring || e.state == .evicting) = true := by
          rw [hst, Bool.or_assoc]
          exact Bool.or_true _
        rw [exec_scev_takes hon ht, if_neg hstays, hbefore hin hst, hbusy]
        rfl
    · -- R79: a restore begins.
      have ht := htakes hin hst nofun
      have htouch := touchStc_restores hst hwant hf
      refine ⟨?_, fun hw => exec_scld_takes hon hw ht htouch⟩
      rw [exec_sctch_takes hon ht htouch, hbefore hin hst]
      rfl
    · -- R79: no frame for it.
      have ht := htakes hin hst nofun
      have htouch := touchStc_noframe hst hwant hf hv
      refine ⟨?_, fun hw => exec_scld_takes hon hw ht htouch⟩
      rw [exec_sctch_takes hon ht htouch, hbefore hin hst]
      rfl
  · intro e nf n va dst scan
    have hnf : nf = bits v 13 8 := (bits_eq_div v 13 8).symm
    have hbase : v.toNat % 64 = bits v 5 0 := (bits_zero_eq_mod v 5).symm
    have hva : va = bits e.back 56 0 := (bits_zero_eq_mod e.back 56).symm
    have hdst : dst = depotKey d (e.frame % 128) (s.frameOff d e.frame) :=
      congrArg (depotKey d (e.frame % 128)) (frameOff_eq s d e.frame).symm
    rw [hnf, hbase, hva, hdst]
    refine ⟨fun harg => ⟨fun hbad => ?_, fun h0 h32 h64 hen => ?_⟩, scanVisit_spec, fun harg hst bs hread => ?_,
      fun harg hst hfree hwant s1 hwrite => ?_⟩
    · rw [exec_stccfgWrite harg, writeStccfg_refused hbad]
    · have hok : ¬StccfgBad s d v := by
        rintro (h | h | h | ⟨h, h'⟩)
        · exact h0 h
        · exact absurd h32 (Nat.not_le.mpr h)
        · exact absurd h64 (Nat.not_le.mpr h)
        · rcases hen with hen | hen
          · exact Bool.false_ne_true (hen.symm.trans h)
          · exact Bool.false_ne_true (hen.symm.trans h')
      exact ⟨_, exec_stccfgWrite harg, writeStccfg_taken hok⟩
    · obtain ⟨hmem, hstate, hlast⟩ := restored_spec hsct hst hread
      refine ⟨_, exec_stcRestoreDone harg, hstate, hlast, fun k hk => ?_, fun k hk => ?_⟩
      · exact (congrArg (·.byte k) hmem).trans ((byte_put ..).trans (if_neg fun ⟨hlo, hhi⟩ =>
          hk.elim (Nat.not_lt.mpr hlo) (Nat.not_lt.mpr · hhi)))
      · rw [hmem, byte_put, if_pos ⟨Nat.le_add_right .., Nat.add_lt_add_left hk _⟩, Nat.add_sub_cancel_left]
    · obtain ⟨hmem, hentry⟩ := evicted_spec hsct hst hfree hwant hwrite
      refine ⟨_, exec_stcEvictDone harg, hmem, ?_, ?_⟩
      · rw [hentry, evictEnded, hfree]
        rfl
      · rw [hentry, evictEnded, stick_eq_min]

end Sys2Proof.Laws

/-! O52: records taken and begun, tails, SYS.SBBASE and the timetable (04 R61-R75; 12 R287). -/

namespace Sys2Proof.Laws

open Sys2Proof Sys2Proof.Machine Sys2Proof.Safety

/-! What a read through the tables and a record's checks need of a box (R64, R77, R116). -/

theorem sameReads_modWalker (s : State) (d w : Nat) (f : Walker → Walker) : SameReads s (s.modWalker d w f) :=
  ⟨rfl, rfl, rfl, rfl, rfl, fun e => stccfg_modWalker s d w e f⟩

theorem sameReads_modQueue (s : State) (d q : Nat) (f : Queue → Queue) : SameReads s (s.modQueue d q f) :=
  ⟨rfl, rfl, rfl, rfl, rfl, fun e => view_modBox SigBox.stccfg s d e fun _ => rfl⟩

theorem recBad_congr {s t : State} {d : Nat} (h : (t.box d).stccfg = (s.box d).stccfg) (r : Vector Word 8) : t.recBad d r = s.recBad d r := by
  have hen : t.stcEn d = s.stcEn d := by rw [State.stcEn, h, State.stcEn]
  have hnent : t.stcNent d = s.stcNent d := by rw [State.stcNent, h, State.stcNent]
  rw [State.recBad, hen, hnent, State.recBad]

/-! A walker begins a record (R67, R68). -/

/-- A walker that has taken a record from a berth (src 1) or a ring (src 0). -/
def takenWalker (r : Vector Word 8) (q src index : Nat) : Walker :=
  { Walker.init with st := .run, record := r, queue := q, src := src, index := index }

/-- A walker that reads a node goes on with the event of its op. -/
theorem postNode_reads {s : State} {d w : Nat} (hnode : ((s.box d).walker w).node < 4096) {ws : List Word} {x : Instr}
    (hws : s.boxWords ((s.box d).walker w).nodeVa 4 = some ws) (hx : nodeEvent (bits (ws.getD 0 0) 3 0) = some x) :
    s.postNode d w = (s.modWalker d w (nodeRead ws)).post 10 x (.dieIdx { die := d, i := w }) := by
  have hop : (nodeRead ws ((s.box d).walker w)).nw 0 = ws.getD 0 0 := rfl
  rw [State.postNode]
  simp only [Nat.not_le.mpr hnode, if_false, hws]
  show (s.modWalker d w (nodeRead ws)).nodeAgain d w = _
  rw [State.nodeAgain, walker_modWalker_self, hop, hx]

section
variable {s : State} {d w : Nat} {r : Vector Word 8} (hbad : s.recBad d r = false) (q src index : Nat)
include hbad

/-- The walk of a GRAPH record begins at its first node. -/
theorem begin_graph (hkind : recKind r = 0) {ws : List Word} {x : Instr} (hws : s.boxWords (vget r 1 0).toNat 4 = some ws)
    (hx : nodeEvent (bits (ws.getD 0 0) 3 0) = some x) :
    let t := ((s.modWalker d w fun _ => takenWalker r q src index).beginRecord d w (some r)).postTake d
    (t.box d).walker w = nodeRead ws (takenWalker r q src index) ∧ (∀ j, (t.box d).queue j = (s.box d).queue j)
      ∧ t.agenda.any (fun p => p.ev == x && p.arg == .dieIdx { die := d, i := w }) = true := by
  have hsame := sameReads_modWalker s d w fun _ => takenWalker r q src index
  have hva : (takenWalker r q src index).nodeVa = (vget r 1 0).toNat := rfl
  have hgood : (s.modWalker d w fun _ => takenWalker r q src index).recBad d r = false := (recBad_congr (hsame.frames d) r).trans hbad
  have hbegin : (s.modWalker d w fun _ => takenWalker r q src index).beginRecord d w (some r)
      = (s.modWalker d w fun _ => takenWalker r q src index).postNode d w := by
    simp only [State.beginRecord, hgood, hkind, Bool.false_eq_true, if_false, beq_self_eq_true, if_true]
  rw [hbegin, postNode_reads ?_ ?_ hx]
  · refine ⟨?_, fun j => ?_, due_post_of_due (due_post ..) ..⟩
    · simp only [box_postTake, box_post, walker_modWalker_self]
    · simp only [box_postTake, box_post, queue_modWalker]
  · rw [walker_modWalker_self]
    exact (by decide : 0 < 4096)
  · rw [walker_modWalker_self, hva, boxWords_congr hsame rfl, hws]

/-- A record of another kind posts its event. -/
theorem begin_other (hkind : recKind r ≠ 0) :
    let t := ((s.modWalker d w fun _ => takenWalker r q src index).beginRecord d w (some r)).postTake d
    (t.box d).walker w = takenWalker r q src index ∧ ∀ j, (t.box d).queue j = (s.box d).queue j := by
  have hgood : (s.modWalker d w fun _ => takenWalker r q src index).recBad d r = false :=
    (recBad_congr (stccfg_modWalker s d w d _) r).trans hbad
  have hbegin : (s.modWalker d w fun _ => takenWalker r q src index).beginRecord d w (some r)
      = (s.modWalker d w fun _ => takenWalker r q src index).post 10 (recordEvent (recKind r)) (.dieRef { die := d }) := by
    simp only [State.beginRecord, hgood, beq_false_of_ne hkind, Bool.false_eq_true, if_false]
  rw [hbegin]
  refine ⟨?_, fun j => ?_⟩
  · simp only [box_postTake, box_post, walker_modWalker_self]
  · simp only [box_postTake, box_post, queue_modWalker]

end

/-! A free walker takes a record (R67). -/

/-- The state in which a queue has given a berth launch. -/
def berthGiven (s : State) (d q : Nat) : State :=
  s.modQueue d q fun k => { k with berth := k.berth.drop 1, nberth := k.nberth + 1, nrun := k.nrun + 1 }

/-- The state in which a queue has given a ring record. -/
def ringGiven (s : State) (d q : Nat) : State :=
  (s.modQueue d q fun k => { k with head := ((s.box d).queue q).head + 1, nrun := k.nrun + 1 }).putDesc d q 3 (((s.box d).queue q).head + 1)

section
variable {s : State} {d w q : Nat} {r : Vector Word 8} (harg : s.arg = .dieRef { die := d }) (hstep : 5 ≤ s.sys.boot.step)
  (hidle : s.idleWalker d = some w)
include harg hstep hidle

theorem exec_graph_berth (hbest : s.bestQueue d = some (q, .berth r)) : exec .graph s =
    .next ((((berthGiven s d q).modWalker d w fun _ => takenWalker r q 1 ((s.box d).queue q).nberth).beginRecord d w (some r)).postTake d) := by
  show execGraph s = _
  simp only [execGraph, harg, State.takeRecord, Nat.not_lt.mpr hstep, if_false, hidle, hbest]
  rfl

theorem exec_graph_ring (hbest : s.bestQueue d = some (q, .ring (some r))) : exec .graph s =
    .next ((((ringGiven s d q).modWalker d w fun _ => takenWalker r q 0 ((s.box d).queue q).head.toNat).beginRecord d w (some r)).postTake d) := by
  show execGraph s = _
  simp only [execGraph, harg, State.takeRecord, Nat.not_lt.mpr hstep, if_false, hidle, hbest]
  rfl

end

theorem queue_berthGiven (s : State) (d q : Nat) : ((berthGiven s d q).box d).queue q = { (s.box d).queue q with
    berth := ((s.box d).queue q).berth.drop 1, nberth := ((s.box d).queue q).nberth + 1, nrun := ((s.box d).queue q).nrun + 1 } :=
  queue_modQueue_self ..

theorem queue_ringGiven (s : State) (d q : Nat) : ((ringGiven s d q).box d).queue q = { (s.box d).queue q with
    head := ((s.box d).queue q).head + 1, nrun := ((s.box d).queue q).nrun + 1 } := by
  rw [ringGiven, box_putDesc, queue_modQueue_self]

theorem recBad_ringGiven (s : State) (d q : Nat) (r : Vector Word 8) : (ringGiven s d q).recBad d r = s.recBad d r :=
  recBad_congr (by rw [ringGiven, box_putDesc, (sameReads_modQueue ..).frames]) r

theorem recBad_berthGiven (s : State) (d q : Nat) (r : Vector Word 8) : (berthGiven s d q).recBad d r = s.recBad d r :=
  recBad_congr ((sameReads_modQueue ..).frames d) r

/-! The records of the other kinds (R65, R71, R287). -/

/-- The walker that holds a record acts. -/
theorem onRecord_held {s : State} {d w kind : Nat} (harg : s.arg = .dieRef { die := d }) (hheld : s.heldRecord d kind = some w)
    (f : Nat → Nat → Walker → State → State) : s.onRecord kind f = f d w ((s.box d).walker w) s := by
  simp only [State.onRecord, harg, hheld]

section
variable {s : State} {d w i : Nat} (harg : s.arg = .dieRef { die := d }) (hi : recIndex ((s.box d).walker w).record = i)
include harg hi

theorem exec_preempt_armed (h : s.heldRecord d 1 = some w) (hst : (s.slot d i).state = .armed) :
    exec .preempt s = .next (((s.modWalker d w fun x => { x with node := 1, st := .slot i }).quiesce d i).settle d) := by
  show execPreempt s = _
  simp only [execPreempt, onRecord_held harg h, hi, hst]

theorem exec_preempt_arming (h : s.heldRecord d 1 = some w) (hst : (s.slot d i).state = .arming) :
    exec .preempt s = .next (s.modWalker d w fun x => { x with node := 2, st := .slot i }) := by
  show execPreempt s = _
  simp only [execPreempt, onRecord_held harg h, hi, hst]

theorem exec_preempt_busy (h : s.heldRecord d 1 = some w) (harmed : (s.slot d i).state ≠ .armed)
    (harming : (s.slot d i).state ≠ .arming) : exec .preempt s = .next (s.endRecord d w 3) := by
  show execPreempt s = _
  rw [execPreempt, onRecord_held harg h, hi]
  dsimp only
  split
  · next hst => exact absurd hst harmed
  · next hst => exact absurd hst harming
  · rfl

theorem exec_resume_busy (h : s.heldRecord d 2 = some w) (hbusy : (s.slot d i).state ≠ .preempted ∨ s.resumeBusy d i = true) :
    exec .resume s = .next (s.endRecord d w 3) := by
  have hor : ((s.slot d i).state != .preempted || s.resumeBusy d i) = true := by
    rwa [Bool.or_eq_true, bne_iff_ne]
  show execResume s = _
  simp only [execResume, onRecord_held harg h, hi, hor, if_true]

/-- RESUME of a PREEMPTED region without a clash begins its restore (R71, R106). -/
theorem exec_resume_begins (h : s.heldRecord d 2 = some w) (hst : (s.slot d i).state = .preempted) (hfree : s.resumeBusy d i = false) :
    ∃ u, exec .resume s = .next (State.settle u d)
      ∧ (u.slot d i).state = .restoring ∧ ((u.box d).walker w).st = .slot i ∧ u.mem = s.mem
      ∧ u.agenda.any (fun p => p.ev == .regionRestoreDone && p.arg == .dieIdx { die := d, i := i }) = true := by
  have hor : ((s.slot d i).state != .preempted || s.resumeBusy d i) = false := by
    rw [hst, hfree]
    rfl
  have hexec : exec .resume s = .next ((((s.modWalker d w fun k => { k with node := 1, st := .slot i }).modSlot d i fun r =>
      { r.goTo s.sys.clock .restoring with sfault := .none }).post 100 .regionRestoreDone (.dieIdx { die := d, i := i })).settle d) := by
    show execResume s = _
    simp only [execResume, onRecord_held harg h, hi, hor, Bool.false_eq_true, if_false]
  refine ⟨_, hexec, ?_, ?_, rfl, due_post ..⟩
  · rw [slot_post, slot_modSlot_self]
    rfl
  · rw [box_post, box_modSlot, walker_modWalker_self]

theorem exec_abort_unowned (h : s.heldRecord d 3 = some w) (ho : (s.slot d i).owner = none) :
    exec .abort s = .next (s.endRecord d w 3) := by
  show execAbort s = _
  simp only [execAbort, onRecord_held harg h, hi, ho]

theorem exec_abort_owned (h : s.heldRecord d 3 = some w) {v : Nat} (ho : (s.slot d i).owner = some v)
    (hending : ((s.box d).walker v).ending = none) (hfrozen : ∀ j ∈ ((s.box d).walker v).owns, (s.slot d j).state ≠ .frozen) :
    exec .abort s = .next (((s.failWalk d v 9).settle d).endRecord d w 0) := by
  have hany : (((s.box d).walker v).owns.any fun i => (s.slot d i).state == .frozen) = false := by
    simpa only [List.any_eq_false, beq_iff_eq] using hfrozen
  show execAbort s = _
  simp only [execAbort, onRecord_held harg h, hi, ho, hany, hending, Option.isSome_none, Bool.false_eq_true, if_false]

theorem exec_scset_busy (h : s.heldRecord d 4 = some w) (hst : ((s.box d).entry i).state ≠ .free) :
    exec .scset s = .next (s.endRecord d w 3) := by
  show execScset s = _
  simp only [execScset, onRecord_held harg h, hi, bne_iff_ne, ne_eq, hst, not_false_eq_true, if_true]

theorem exec_scset_free (h : s.heldRecord d 4 = some w) (hst : ((s.box d).entry i).state = .free) :
    exec .scset s = .next ((s.modStc d i fun e => { e with
      back := vget ((s.box d).walker w).record 1 0, last := s.sys.time, state := .evicted
      size := bits (vget ((s.box d).walker w).record 5 0) 4 0, idle := bits (vget ((s.box d).walker w).record 5 0) 63 32
      holds := 0, want := false }).endRecord d w 0) := by
  show execScset s = _
  simp only [execScset, onRecord_held harg h, hi, hst, bne_self_eq_false, Bool.false_eq_true, if_false]

theorem exec_query {s1 : State} (h : s.heldRecord d 7 = some w)
    (hwrite : s.writeVa s.sys.svptbr true (vget ((s.box d).walker w).record 1 0).toNat
      (wordsLe (if vget ((s.box d).walker w).record 5 0 = 0 then (List.range 8).map ((s.box d).entry i).word else ((s.box d).tt i).words))
        = some s1) :
    exec .query s = .next (s1.endRecord d w 0) := by
  show execQuery s = _
  simp only [execQuery, onRecord_held harg h, hi, beq_iff_eq, hwrite]

end

/-! SCFREE by the state of its entry (R65, R79). -/

section
variable {s : State} {d w i : Nat} (harg : s.arg = .dieRef { die := d }) (h : s.heldRecord d 5 = some w)
  (hi : recIndex ((s.box d).walker w).record = i)
include harg h hi

theorem exec_scfree_free (hst : ((s.box d).entry i).state = .free) : exec .scfree s = .next (s.endRecord d w 0) := by
  show execScfree s = _
  simp only [execScfree, onRecord_held harg h, hi, hst]

theorem exec_scfree_busy (hbusy : ((s.box d).entry i).state = .restoring ∨ ((s.box d).entry i).state = .evicting ∨ ((s.box d).entry i).holds ≠ 0)
    (hfree : ((s.box d).entry i).state ≠ .free) : exec .scfree s = .next (s.endRecord d w 3) := by
  have hheld : ∀ {x}, ((s.box d).entry i).state = x → x ≠ .restoring → x ≠ .evicting → (((s.box d).entry i).holds != 0) = true :=
    fun hst hr he => bne_iff_ne.mpr ((hbusy.resolve_left fun h => hr (hst.symm.trans h)).resolve_left fun h => he (hst.symm.trans h))
  show execScfree s = _
  rw [execScfree, onRecord_held harg h, hi]
  dsimp only
  split
  · next hst => exact absurd hst hfree
  · next hst => rw [hheld hst nofun nofun]; rfl
  · next hst => rw [hheld hst nofun nofun]; rfl
  · rfl
  · rfl

theorem exec_scfree_evicted (hst : ((s.box d).entry i).state = .evicted) (hholds : ((s.box d).entry i).holds = 0)
    (hwant : ((s.box d).entry i).want = false) :
    exec .scfree s = .next ((s.modStc d i fun e => { e with state := .free }).endRecord d w 0) := by
  show execScfree s = _
  simp only [execScfree, onRecord_held harg h, hi, hst, hholds, hwant, bne_self_eq_false, Bool.or_self, Bool.false_eq_true, if_false]

theorem exec_scfree_resident (hst : ((s.box d).entry i).state = .resident) (hholds : ((s.box d).entry i).holds = 0) :
    exec .scfree s = .next (((s.modWalker d w fun k => { k with node := 1 }).evict d i).modStc d i fun e => { e with freeing := some w }) := by
  show execScfree s = _
  simp only [execScfree, onRecord_held harg h, hi, hst, hholds, bne_self_eq_false, Bool.false_eq_true, if_false]

end

/-! TTSET by its image (R65, R72). -/

section
variable {s : State} {d w : Nat} {ws : List Word} (harg : s.arg = .dieRef { die := d }) (h : s.heldRecord d 6 = some w)
  (hws : s.boxWords (vget ((s.box d).walker w).record 1 0).toNat 8 = some ws)
include harg h hws

theorem exec_ttset_bad (hbad : ttOk ws = false) : exec .ttset s = .next (s.endRecord d w 1) := by
  show execTtset s = _
  simp only [execTtset, onRecord_held harg h, hws, hbad, Bool.not_false, if_true]

theorem exec_ttset_good (hok : ttOk ws = true) {rs : List Word} (hrs : s.boxWords (ws.getD 2 0).toNat 8 = some rs)
    (hkind : recKind (recordOf rs) = 0) (hgood : s.recBad d (recordOf rs) = false) :
    exec .ttset s = .next (((s.modTt d (recIndex ((s.box d).walker w).record) fun _ => ttLoad ws (recordOf rs) s.sys.time.toNat).postFire d
      (recIndex ((s.box d).walker w).record)).endRecord d w 0) := by
  show execTtset s = _
  simp only [execTtset, onRecord_held harg h, hws, hok, hrs, hkind, hgood, Bool.not_true, bne_self_eq_false, Bool.or_self, Bool.false_eq_true,
    if_false]

end

/-! Parts of a box that a record's end leaves. -/

theorem besideWork_stc : BesideWork SigBox.stc := ⟨fun _ _ => rfl, fun _ _ => rfl⟩
theorem besideWork_ttab : BesideWork SigBox.ttab := ⟨fun _ _ => rfl, fun _ _ => rfl⟩
theorem besideWork_sbbase : BesideWork SigBox.sbbase := ⟨fun _ _ => rfl, fun _ _ => rfl⟩

/-- A record that held no stream context leaves every entry as it ends (R79). -/
theorem entry_endRecord {s : State} {d w : Nat} (hholds : ((s.box d).walker w).holds = []) (status i : Nat) :
    ((s.endRecord d w status).box d).entry i = (s.box d).entry i :=
  congrArg (fun t : Tbl Stc => t.get i .init) (view_endRecord besideWork_stc s d w status d (.inl hholds))

theorem tt_endRecord (s : State) (d w status i : Nat) : ((s.endRecord d w status).box d).tt i = (s.box d).tt i :=
  congrArg (fun t : Tbl TTEntry => t.get i .init) (view_endRecord besideWork_ttab s d w status d (.inr fun _ _ => rfl))

@[simp] theorem box_postFire (s : State) (d i e : Nat) : (s.postFire d i).box e = s.box e := by
  obtain ⟨a, ha⟩ := postFire_eq s d i
  rw [ha]
  rfl

/-! SYS.SBBASE and tails (R61-R63). -/

theorem sbbase_enableQueue (s : State) (d q : Nat) : ((s.enableQueue d q).box d).sbbase = (s.box d).sbbase := by
  have herr := view_queueErr besideWork_sbbase
  have hqueue := view_modQueue besideWork_sbbase
  unfold State.enableQueue
  split
  · dsimp only
    split
    · rw [herr, hqueue]
    · rw [box_post, hqueue]
  · rw [herr, box_inform, hqueue]

theorem sbbase_writeSbbase (s : State) (d : Nat) (v : Word) : ((s.writeSbbase d v).box d).sbbase = v &&& 0x01FFFFFFFFFFF0FF := by
  have hset : ((s.modBox d fun b => { b with sbbase := v &&& 0x01FFFFFFFFFFF0FF }).box d).sbbase = v &&& 0x01FFFFFFFFFFF0FF := by
    rw [box_modBox_self]
  refine (foldl_keeps (fun t => (t.box d).sbbase) (fun t q => ?_) (List.range 8) _).trans hset
  split
  · exact sbbase_enableQueue t d q
  · rfl

theorem tailVa_eq (s : State) (d q : Nat) : s.tailVa d q = (s.box d).sbbase.toNat / 2 ^ 12 % 2 ^ 45 * 4096 + 64 * q + 16 := by
  rw [State.tailVa, bits_eq_div]

section
variable {s : State} {d q : Nat}

theorem tailStored_ignored (h : s.qEnabled d q = false ∨ s.boxWords (s.tailVa d q) 1 = none) : s.tailStored d q = s := by
  unfold State.tailStored
  rcases h with h | h
  · simp only [h, Bool.not_false, if_true]
  · simp only [h, ite_self]

section
variable {ws : List Word} (hws : s.boxWords (s.tailVa d q) 1 = some ws) (hen : s.qEnabled d q = true)
include hws hen

theorem tailStored_taken (hle : ((s.box d).queue q).head.toNat ≤ (ws.headD 0).toNat)
    (hring : (ws.headD 0).toNat - ((s.box d).queue q).head.toNat ≤ 2 ^ ((s.box d).queue q).lsize) :
    s.tailStored d q = (s.modQueue d q fun x => { x with tail := w64 (ws.headD 0).toNat }).postTake d := by
  simp only [State.tailStored, hen, hws, Nat.not_lt.mpr hle, Nat.not_lt.mpr hring, Bool.not_true, decide_false, Bool.or_self, Bool.false_eq_true,
    if_false]

/-- A tail behind the head or more than a ring ahead disables the queue with OVERRUN (R63). -/
theorem tailStored_overrun (hout : (ws.headD 0).toNat < ((s.box d).queue q).head.toNat
      ∨ 2 ^ ((s.box d).queue q).lsize < (ws.headD 0).toNat - ((s.box d).queue q).head.toNat) :
    ((s.tailStored d q).box d).queue q = { (s.box d).queue q with
      ok := false, err := w64 (10 * 2 ^ 56 + 0 * 2 ^ 55 + ((s.box d).queue q).head.toNat % 2 ^ 55) } := by
  have hor : (decide ((ws.headD 0).toNat < ((s.box d).queue q).head.toNat)
      || decide (2 ^ ((s.box d).queue q).lsize < (ws.headD 0).toNat - ((s.box d).queue q).head.toNat)) = true := by
    simpa only [Bool.or_eq_true, decide_eq_true_eq] using hout
  have heq : s.tailStored d q = ((s.modBox d fun b => { b with sbbase := setBits b.sbbase q q 0 }).modQueue d q fun x =>
      { x with ok := false }).queueErr d q 10 0 ((s.box d).queue q).head.toNat := by
    simp only [State.tailStored, hen, hws, hor, Bool.not_true, Bool.false_eq_true, if_false, if_true]
  rw [heq, State.queueErr, box_putDesc, queue_modQueue_self, queue_modQueue_self, box_modBox_self]
  rfl

end

end

/-! The timetable (R72-R75). -/

@[simp] theorem box_informs (s : State) (code : Nat) (info : Word) (n e : Nat) : (s.informs code info n).box e = s.box e := by
  induction n generalizing s with
  | zero => rfl
  | succ n ih => exact ih (s.inform code info)

/-- A miss changes its entry alone of a box. -/
theorem box_miss (s : State) (d i n e : Nat) : (s.miss d i n).box e
    = (s.modTt d i fun x => { x.passed n with misses := stick (x.misses + n) 0xFFFFFFFF }).box e := by
  unfold State.miss
  dsimp only
  split
  · exact box_informs ..
  · rfl

/-- The queue that an entry's records go to (R72). -/
def fireQueue (e : TTEntry) : Nat := bits (vget e.img 3 0) 2 0

/-- Whether a queue takes a fire (R74). -/
def FireTaken (s : State) (d q : Nat) : Prop :=
  ((s.box d).queue q).berth.length < 4 ∧ s.qEnabled d q = true ∧ s.sys.ptp.everLocked = true

theorem fire_missed_iff (s : State) (d q : Nat) :
    (decide (4 ≤ ((s.box d).queue q).berth.length) || !s.qEnabled d q || !s.sys.ptp.everLocked) = true ↔ ¬FireTaken s d q := by
  rw [Bool.or_eq_true, Bool.or_eq_true, Bool.not_eq_true', Bool.not_eq_true', decide_eq_true_eq, FireTaken,
    Classical.not_and_iff_not_or_not, Classical.not_and_iff_not_or_not, Nat.not_lt, Bool.not_eq_true, Bool.not_eq_true, or_assoc]

section
variable {s : State} {d i : Nat} (hen : ((s.box d).tt i).en = true) (hdue : ((s.box d).tt i).next.toNat ≤ s.sys.time.toNat)
include hen hdue

theorem ttFire_taken (h : FireTaken s d (fireQueue ((s.box d).tt i))) : s.ttFire d i =
    (((s.modTt d i fun e => { e.passed 1 with fires := stick (e.fires + 1) 0xFFFFFFFF, last := e.next }).modQueue d
      (fireQueue ((s.box d).tt i)) fun x => { x with berth := x.berth ++ [((s.box d).tt i).record] }).postFire d i).postTake d := by
  have hno := mt (fire_missed_iff s d (fireQueue ((s.box d).tt i))).mp (fun hn => hn h)
  simp only [State.ttFire, hen, Nat.not_lt.mpr hdue, Bool.not_true, Bool.false_eq_true, if_false]
  exact if_neg hno

theorem ttFire_missed (h : ¬FireTaken s d (fireQueue ((s.box d).tt i))) : s.ttFire d i = (s.miss d i 1).postFire d i := by
  have hno := (fire_missed_iff s d (fireQueue ((s.box d).tt i))).mpr h
  simp only [State.ttFire, hen, Nat.not_lt.mpr hdue, Bool.not_true, Bool.false_eq_true, if_false]
  exact if_pos hno

end

section
variable {s : State} {d i : Nat} (harg : s.arg = .dieIdx { die := d, i := i })
include harg

theorem exec_tailStore : exec .tailStore s = .next (s.tailStored d i) := by
  show execTailStore s = _
  simp only [execTailStore, harg]

theorem exec_timetableFire_behind {j : Nat} (hj : s.firstFire d = some j) (hne : j ≠ i) : exec .timetableFire s = .next (s.postFire d i) := by
  show execTimetableFire s = _
  simp only [execTimetableFire, harg, hj, Option.getD_some, beq_false_of_ne hne, Bool.false_eq_true, if_false]

theorem exec_timetableFire_first (hj : s.firstFire d = some i) : exec .timetableFire s = .next (s.ttFire d i) := by
  show execTimetableFire s = _
  simp only [execTimetableFire, harg, hj, Option.getD_some, beq_self_eq_true, if_true]

end

theorem exec_sbbaseWrite {s : State} {d : Nat} {v : Word} (h : s.arg = .dieVal { die := d, v := v }) :
    exec .sbbaseWrite s = .next (s.writeSbbase d v) := by
  show execSbbaseWrite s = _
  simp only [execSbbaseWrite, h]

/-- Settles O52: a record by how it was taken and by its kind, a tail by its place on the ring, a fire by whether its queue takes it. -/
theorem signalBoxResults : Obligations.SignalBoxResults := by
  unfold Obligations.SignalBoxResults
  refine ⟨fun s d w => ?_, fun s d i v => ?_⟩
  · intro k i e holds done
    have hi : recIndex ((s.box d).walker w).record = i := rfl
    have hop : ∀ ws : List Word, (ws.getD 0 0).toNat % 16 = bits (ws.getD 0 0) 3 0 := fun ws => (bits_zero_eq_mod (ws.getD 0 0) 3).symm
    refine ⟨fun harg hstep hidle q r hbad => ?_, fun ⟨harg, hheld⟩ => ?_, fun ⟨harg, hheld⟩ => ?_, fun ⟨harg, hheld⟩ => ?_,
      fun ⟨harg, hheld⟩ => ?_, fun ⟨harg, hheld⟩ => ?_, fun ⟨harg, hheld⟩ ws rs hws => ?_, fun ⟨harg, hheld⟩ s1 hwrite => ?_⟩
    · -- R67: a record is taken.
      intro va due node
      refine ⟨fun hkind hbest ws x hws hx => ?_, fun hkind hbest ws x hws hx => ?_, fun hkind => ⟨fun hbest => ?_, fun hbest => ?_⟩⟩
      · obtain ⟨hwalker, hqueue, hdue⟩ := begin_graph ((recBad_berthGiven s d q r).trans hbad) q 1 ((s.box d).queue q).nberth hkind
          ((boxWords_congr (sameReads_modQueue ..) rfl ..).trans hws) (hop ws ▸ hx)
        refine ⟨_, exec_graph_berth harg hstep hidle hbest, hwalker, ?_, ?_, hdue⟩ <;> rw [hqueue, queue_berthGiven]
      · obtain ⟨hwalker, hqueue, hdue⟩ := begin_graph ((recBad_ringGiven s d q r).trans hbad) q 0 ((s.box d).queue q).head.toNat hkind hws
          (hop ws ▸ hx)
        refine ⟨_, exec_graph_ring harg hstep hidle hbest, hwalker, ?_, ?_, hdue⟩ <;> rw [hqueue, queue_ringGiven]
      · obtain ⟨hwalker, hqueue⟩ := begin_other ((recBad_berthGiven s d q r).trans hbad) (w := w) q 1 ((s.box d).queue q).nberth hkind
        refine ⟨_, exec_graph_berth harg hstep hidle hbest, hwalker, ?_, ?_⟩ <;> rw [hqueue, queue_berthGiven]
      · obtain ⟨hwalker, hqueue⟩ := begin_other ((recBad_ringGiven s d q r).trans hbad) (w := w) q 0 ((s.box d).queue q).head.toNat hkind
        refine ⟨_, exec_graph_ring harg hstep hidle hbest, congrArg Walker.record hwalker, congrArg Walker.st hwalker,
          congrArg Walker.src hwalker, ?_, ?_⟩ <;> rw [hqueue, queue_ringGiven]
    · -- R71: PREEMPT.
      exact ⟨exec_preempt_armed harg hi hheld, exec_preempt_arming harg hi hheld, exec_preempt_busy harg hi hheld⟩
    · -- R71, R106: RESUME.
      exact ⟨exec_resume_busy harg hi hheld, exec_resume_begins harg hi hheld⟩
    · -- R65, R70: ABORT.
      exact ⟨exec_abort_unowned harg hi hheld, fun v => exec_abort_owned harg hi hheld⟩
    · -- R65, R79: SCSET.
      refine ⟨exec_scset_busy harg hi hheld, fun hst hholds => ⟨_, exec_scset_free harg hi hheld hst, ?_⟩⟩
      rw [entry_endRecord (by rw [walker_modStc]; exact hholds), entry_modStc_self]
      exact ⟨rfl, rfl, rfl, bits_zero_eq_mod _ 4, rfl⟩
    · -- R65, R79: SCFREE.
      refine ⟨exec_scfree_free harg hheld hi, exec_scfree_busy harg hheld hi, fun hst h0 hwant hholds => ?_, fun hst h0 => ?_⟩
      · refine ⟨_, exec_scfree_evicted harg hheld hi hst h0 hwant, ?_⟩
        rw [entry_endRecord (by rw [walker_modStc]; exact hholds), entry_modStc_self]
      · refine ⟨_, exec_scfree_resident harg hheld hi hst h0, ?_⟩
        rw [entry_modStc_self, State.evict, box_post, entry_modStc_self]
        exact ⟨rfl, rfl⟩
    · -- R65, R72: TTSET.
      refine ⟨exec_ttset_bad harg hheld hws, fun hok hrs hkind hgood => ⟨_, exec_ttset_good harg hheld hws hok hrs hkind hgood, ?_⟩⟩
      rw [tt_endRecord, box_postFire]
      exact tt_modTt_self ..
    · -- R65, R72, R78: QUERY.
      exact exec_query harg hi hheld hwrite
  · intro k va tail e q can
    have hva : s.tailVa d i = va := tailVa_eq s d i
    have hq : q = fireQueue ((s.box d).tt i) := (bits_zero_eq_mod (vget e.img 3 0) 2).symm
    have hcan : can ↔ FireTaken s d (fireQueue ((s.box d).tt i)) := hq ▸ Iff.rfl
    refine ⟨fun harg => ⟨_, exec_sbbaseWrite harg, sbbase_writeSbbase s d v⟩, fun harg => ?_⟩
    have htail := exec_tailStore harg
    rw [← hva]
    refine ⟨fun h => ?_, fun ws hws hen hle hring => ?_, fun ws hws hen hout => ?_, fun j => exec_timetableFire_behind harg,
      fun hfirst hen hdue h => ?_, fun hfirst hen hdue h => ?_⟩
    · rw [htail, tailStored_ignored h]
    · rw [htail, tailStored_taken hws hen hle hring]
      refine ⟨_, rfl, ?_, rfl⟩
      rw [box_postTake, queue_modQueue_self]
      rfl
    · have hover := tailStored_overrun hws hen hout
      exact ⟨_, htail, congrArg Queue.ok hover, congrArg Queue.err hover⟩
    · rw [exec_timetableFire_first harg hfirst, hq]
      refine ⟨_, rfl, ?_⟩
      have hmem := ttFire_mem s d i
      rw [ttFire_taken hen hdue (hcan.mp h)] at hmem ⊢
      simp only [box_postTake, box_postFire, tt_modQueue, tt_modTt_self, queue_modQueue_self, queue_modTt]
      exact ⟨rfl, rfl, stick_eq_min .., rfl, hmem⟩
    · rw [exec_timetableFire_first harg hfirst, hq, ttFire_missed hen hdue (mt hcan.mpr h)]
      refine ⟨_, rfl, ?_⟩
      simp only [box_postFire, box_miss, tt_modTt_self, queue_modTt]
      exact ⟨trivial, rfl, stick_eq_min ..⟩

end Sys2Proof.Laws

/-! O53: the nodes of a walk (04 R66, R68-R71; 05 R98-R105). -/

namespace Sys2Proof.Laws

open Sys2Proof Sys2Proof.Machine Sys2Proof.Safety

/-! When the event of a node acts (R68). -/

/-- A walker of a die stands at a node of an op. -/
def StandsAt (s : State) (d w op : Nat) : Prop :=
  ((s.box d).walker w).st ≠ .idle ∧ ((s.box d).walker w).ending = none ∧ recKind ((s.box d).walker w).record = 0
    ∧ (((s.box d).walker w).nw 0).toNat % 16 = op

/-- A walk may act on slot i at a node of an op: no other walk owns it, and a boot walk loads and arms only an EMPTY one (R68, R457). -/
def MayUse (s : State) (d w i op : Nat) : Prop :=
  ((s.slot d i).owner = none ∨ (s.slot d i).owner = some w)
    ∧ (((s.box d).walker w).boot = true → op ≠ 7 → i ∈ ((s.box d).walker w).owns ∨ (s.slot d i).state = .empty)

theorem mayUse_iff (s : State) (d w i op : Nat) : ((s.slot d i).owner.getD w != w || (((s.box d).walker w).boot && op != 7
    && !((s.box d).walker w).owns.contains i && (s.slot d i).state != .empty)) = false ↔ MayUse s d w i op := by
  have howner : ((s.slot d i).owner.getD w != w) = false ↔ (s.slot d i).owner = none ∨ (s.slot d i).owner = some w := by
    cases (s.slot d i).owner with
    | none => simp only [Option.getD_none, bne_self_eq_false, true_or]
    | some v => simp only [Option.getD_some, bne_eq_false_iff_eq, reduceCtorEq, false_or, Option.some.injEq]
  have hboot : (((s.box d).walker w).boot && op != 7 && !((s.box d).walker w).owns.contains i && (s.slot d i).state != .empty) = false
      ↔ (((s.box d).walker w).boot = true → op ≠ 7 → i ∈ ((s.box d).walker w).owns ∨ (s.slot d i).state = .empty) := by
    rw [← Bool.not_eq_true]
    simp only [Bool.and_eq_true, Bool.not_eq_true', bne_iff_ne, List.contains_eq_mem, decide_eq_false_iff_not, ne_eq, not_and, and_imp,
      Classical.not_not, Classical.or_iff_not_imp_left]
  rw [Bool.or_eq_false_iff, howner, hboot, MayUse]

section
variable {s : State} {d w op : Nat} (harg : s.arg = .dieIdx { die := d, i := w }) (h : StandsAt s d w op)
  (f : Nat → Nat → Walker → Nat → State → State)
include harg h

/-- An event whose walker stands at its node: the node breaks its limits, its slot is another walk's, or it acts. -/
theorem onNode_stands (slotted : Bool) {i : Nat} (hi : bits (((s.box d).walker w).nw 0) 11 8 = i) : s.onNode op slotted f =
    if !nodeOk ((s.box d).walker w) then s.failWalk d w 2
    else if slotted && ((s.slot d i).owner.getD w != w || (((s.box d).walker w).boot && op != 7
      && !((s.box d).walker w).owns.contains i && (s.slot d i).state != .empty)) then s.failWalk d w 3
    else f d w ((s.box d).walker w) i s := by
  obtain ⟨hst, hending, hkind, hop⟩ := h
  have hop' : bits (((s.box d).walker w).nw 0) 3 0 = op := (bits_zero_eq_mod _ 3).trans hop
  subst hi
  simp only [State.onNode, harg, beq_false_of_ne hst, hending, hkind, hop', Option.isSome_none, bne_self_eq_false, Bool.or_self,
    Bool.false_eq_true, if_false]

theorem onNode_bad (slotted : Bool) (hbad : nodeOk ((s.box d).walker w) = false) : s.onNode op slotted f = s.failWalk d w 2 := by
  rw [onNode_stands harg h f slotted rfl, hbad]
  rfl

variable (hok : nodeOk ((s.box d).walker w) = true)
include hok

theorem onNode_plain {i : Nat} (hi : bits (((s.box d).walker w).nw 0) 11 8 = i) :
    s.onNode op false f = f d w ((s.box d).walker w) i s := by
  rw [onNode_stands harg h f false hi, hok]
  rfl

theorem onNode_other {i : Nat} (hi : bits (((s.box d).walker w).nw 0) 11 8 = i) (huse : ¬MayUse s d w i op) :
    s.onNode op true f = s.failWalk d w 3 := by
  rw [onNode_stands harg h f true hi, hok, eq_true_of_ne_false (mt (mayUse_iff s d w i op).mp huse)]
  rfl

theorem onNode_slot {i : Nat} (hi : bits (((s.box d).walker w).nw 0) 11 8 = i) (huse : MayUse s d w i op) :
    s.onNode op true f = f d w ((s.box d).walker w) i s := by
  rw [onNode_stands harg h f true hi, hok, (mayUse_iff s d w i op).mpr huse]
  rfl

end

/-- The event of each op acts at a node of that op. -/
theorem exec_node {op : Nat} {x : Instr} (h : (op, x) ∈ [(0, Instr.endNode), (1, .cfg), (2, .arm), (3, .waitNode), (4, .repeatNode),
    (5, .signal), (6, .sct), (7, .drain)]) (s : State) : ∃ slotted f, exec x s = .next (s.onNode op slotted f) := by
  simp only [List.mem_cons, Prod.mk.injEq, List.not_mem_nil, or_false] at h
  rcases h with ⟨rfl, rfl⟩ | ⟨rfl, rfl⟩ | ⟨rfl, rfl⟩ | ⟨rfl, rfl⟩ | ⟨rfl, rfl⟩ | ⟨rfl, rfl⟩ | ⟨rfl, rfl⟩ | ⟨rfl, rfl⟩ <;> exact ⟨_, _, rfl⟩

theorem exec_slotNode {op : Nat} {x : Instr} (h : (op, x) ∈ [(1, Instr.cfg), (2, .arm), (3, .waitNode), (7, .drain)]) (s : State) :
    ∃ f, exec x s = .next (s.onNode op true f) := by
  simp only [List.mem_cons, Prod.mk.injEq, List.not_mem_nil, or_false] at h
  rcases h with ⟨rfl, rfl⟩ | ⟨rfl, rfl⟩ | ⟨rfl, rfl⟩ | ⟨rfl, rfl⟩ <;> exact ⟨_, rfl⟩

/-! Slots that a walk owns, drains and arms (R68, R98, R105). -/

@[simp] theorem slot_own (s : State) (d w i : Nat) (boot : Bool) : (s.own d w i boot).slot d i = { s.slot d i with owner := some w, boot := boot } :=
  slot_modSlot_self s d i fun r => { r with owner := some w, boot := boot }

theorem drainNode_done {s : State} {d i : Nat} (h : (s.slot d i).state = .loaded ∨ (s.slot d i).state = .empty) : s.drainNode d i = (s, true) := by
  rcases h with h | h <;> simp only [State.drainNode, h]

theorem drainNode_armed {s : State} {d i : Nat} (h : (s.slot d i).state = .armed) : s.drainNode d i = (s.startDrain d i, false) := by
  simp only [State.drainNode, h]

/-- A drain begins: the slot is DRAINING, and boxes and memory stay (R105). -/
theorem startDrain_spec (s : State) (d i : Nat) : ((s.startDrain d i).slot d i).state = .draining
    ∧ (∀ e, (s.startDrain d i).box e = s.box e) ∧ (s.startDrain d i).mem = s.mem := by
  have hbox : ∀ e, (s.stopGens d i).box e = s.box e := fun e => 
    foldl_keeps (fun t => t.box e) (fun t n => box_modDepot t d n _ e) _ s
  have hmem : (s.stopGens d i).mem = s.mem := foldl_keeps State.mem (fun t n => modDepot_mem t d n _) _ s
  refine ⟨?_, hbox, hmem⟩
  rw [State.startDrain, slot_post, slot_modSlot_self]
  rfl

/-- Slots and signal boxes: what tiles, depots and home slices are no part of. -/
def slotsBoxes (s : State) : Tbl Slot × Tbl SigBox := (s.slots, s.boxes)

theorem slotsBoxes_takeSplit (s : State) (d n : Nat) (v : Word) : slotsBoxes (s.takeSplit d n v) = slotsBoxes s := by
  have hflush : slotsBoxes (s.flushDepot d n) = slotsBoxes s := foldl_keeps slotsBoxes (fun t e => by
    split
    · obtain ⟨m, p, c, hdrop⟩ := drop_eq t (e.1 * 64) true
      rw [hdrop]
      rfl
    · rfl) s.l2 s
  unfold State.takeSplit
  dsimp only
  split
  · exact hflush
  · rfl

/-- An arming's first phase changes its own slot alone of slots and boxes (R98). -/
theorem slotsBoxes_armPhase (s : State) (d i : Nat) : slotsBoxes (s.armPhase d i) = slotsBoxes (s.modSlot d i fun r =>
    { r.goTo s.sys.clock .arming with rearm := r.rearm && r.resuming, plane := some r.ownPlane }) := by
  have htile : ∀ (t : State) (n : Nat) (f : Tile → Tile), slotsBoxes (t.modTile d n f) = slotsBoxes t := fun _ _ _ => rfl
  unfold State.armPhase
  dsimp only
  exact (foldl_keeps slotsBoxes (fun t n => slotsBoxes_takeSplit t d n _) _ _).trans (foldl_keeps slotsBoxes (fun t n => htile t n _) _ _)

theorem box_armPhase (s : State) (d i e : Nat) : (s.armPhase d i).box e = s.box e :=
  box_of_boxes (congrArg Prod.snd (slotsBoxes_armPhase s d i)) e

theorem slot_armPhase (s : State) (d i : Nat) : (s.armPhase d i).slot d i = { (s.slot d i).goTo s.sys.clock .arming with
    rearm := (s.slot d i).rearm && (s.slot d i).resuming, plane := some (s.slot d i).ownPlane } :=
  (slot_of_slots (congrArg Prod.fst (slotsBoxes_armPhase s d i)) d i).trans (slot_modSlot_self ..)

/-- A walker at an ARM node whose arming has begun. -/
def armBegun (i : Nat) (k : Walker) : Walker := { k with begun := true, arms := i :: k.arms.filter (· != i) }

section
variable {s : State} {d w i : Nat} (k : Walker)

theorem armNow_busy (h : s.armBusy d i = true) : s.armNow d w i k = s.failWalk d w 3 := by
  simp only [State.armNow, h, if_true]

variable (hfree : s.armBusy d i = false)
include hfree

theorem armNow_fault {s1 : State} (h : s.armBlocks d i (others i) = .error s1) : s.armNow d w i k = s1.failWalk d w 8 := by
  simp only [State.armNow, hfree, h, Bool.false_eq_true, if_false]

/-- An arming begins: the count is 0, args and target stand latched, and the walker waits for the slot (R98, R100). -/
theorem armNow_begins {s1 : State} (h : s.armBlocks d i (others i) = .ok s1) : ∃ u, s.armNow d w i k = State.settle u d
    ∧ (u.slot d i).state = .arming ∧ (u.slot d i).count = 0 ∧ (u.slot d i).args = k.nw 1
    ∧ (u.slot d i).target = bits (k.nw 3) 31 0 ∧ ((u.box d).walker w).begun = true := by
  have heq : s.armNow d w i k = (((s1.modWalker d w (armBegun i)).startArm d i (k.nw 1) (k.nw 3) k).waitSlot d w i).settle d := by
    simp only [State.armNow, hfree, h, Bool.false_eq_true, if_false]
    rfl
  have hslot : (((s1.modWalker d w (armBegun i)).startArm d i (k.nw 1) (k.nw 3) k).waitSlot d w i).slot d i
      = ((s1.modWalker d w (armBegun i)).startArm d i (k.nw 1) (k.nw 3) k).slot d i := slot_modWalker ..
  refine ⟨_, heq, ?_⟩
  rw [hslot, State.startArm, slot_armPhase, slot_modSlot_self, State.waitSlot, walker_modWalker_self, box_armPhase, box_modSlot,
    walker_modWalker_self]
  exact ⟨rfl, rfl, rfl, rfl, rfl⟩

end

/-! Each node (R68). -/


section
variable {s : State} {d w : Nat} (harg : s.arg = .dieIdx { die := d, i := w }) (hok : nodeOk ((s.box d).walker w) = true)
include harg hok

/-- END of a walk whose regions have drained ends its record. -/
theorem exec_endNode_done (h : StandsAt s d w 0)
    (hdone : ∀ j ∈ ((s.box d).walker w).arms, (s.slot d j).state = .loaded ∨ (s.slot d j).state = .empty) :
    exec .endNode s = .next (s.endRecord d w 0) := by
  show execEndNode s = _
  rw [execEndNode, onNode_plain harg h _ hok rfl]
  dsimp only
  rw [foldl_fixed_mem]
  · rfl
  · intro j hj
    rw [drainNode_done (hdone j hj)]
    rfl

section
variable {i : Nat} (hi : bits (((s.box d).walker w).nw 0) 11 8 = i)
include hi

/-- CFG goes on as the load of its record ends. -/
theorem exec_cfg (h : StandsAt s d w 1) (huse : MayUse s d w i 1) : exec .cfg s = .next (
    match (s.own d w i ((s.box d).walker w).boot).loadConfig d i (((s.box d).walker w).nw 1).toNat (bit (((s.box d).walker w).nw 0) 16) with
    | .wait => (s.own d w i ((s.box d).walker w).boot).waitSlot d w i
    | .ok t => (t.goNode d w (((s.box d).walker w).node + 1)).settle d
    | .status n => (s.own d w i ((s.box d).walker w).boot).failWalk d w (if n = 259 then 3 else n)) := by
  show execCfg s = _
  rw [execCfg, onNode_slot harg h _ hok hi huse]
  dsimp only
  congr 1
  split
  · next hload => rw [hload]
  · next t hload => rw [hload]
  · next hload => rw [hload]; rfl
  · next n hne hload =>
    rw [hload]
    dsimp only
    rw [if_neg hne]

/-- ARM by how far it is and by the state of its slot (R98, R100, R103). -/
theorem exec_arm (h : StandsAt s d w 2) (huse : MayUse s d w i 2) :
    let k := (s.box d).walker w
    let own := s.own d w i k.boot
    exec .arm s = .next (
      if k.begun then (if (s.slot d i).state = .armed then own.goNode d w (k.node + 1) else own)
      else if (s.slot d i).state = .loaded ∨ ((s.slot d i).state = .armed ∧ own.liveCtxs d i = []) then own.armNow d w i k
      else if (s.slot d i).state = .armed then (own.modSlot d i fun r => { r with rearm := true }).waitSlot d w i
      else if (s.slot d i).rearm then own.waitSlot d w i
      else own.failWalk d w 3) := by
  intro k own
  show execArm s = _
  rw [execArm, onNode_slot harg h _ hok hi huse]
  simp only [slot_own, beq_iff_eq, List.isEmpty_iff]
  congr 1
  refine ite_congr rfl (fun _ => rfl) fun _ => ?_
  by_cases hl : (s.slot d i).state = .loaded
  · rw [if_pos hl, if_pos (.inl hl)]
  · rw [if_neg hl]
    by_cases ha : (s.slot d i).state = .armed
    · simp only [ha, if_true, reduceCtorEq, false_or, true_and]
      rfl
    · simp only [ha, hl, if_false, false_and, or_self]
      rfl

/-- A walker that a WAIT node makes wait. -/
def countWait (i t : Nat) (k : Walker) : Walker := { k with st := .count i, deadline := some t }

theorem exec_waitNode_reached (h : StandsAt s d w 3) (huse : MayUse s d w i 3) (htmo : bits (((s.box d).walker w).nw 0) 47 16 ≠ 0)
    (hcount : (s.slot d i).target ≤ (s.slot d i).count) :
    exec .waitNode s = .next (s.goNode d w (((s.box d).walker w).node + 1)) := by
  show execWaitNode s = _
  rw [execWaitNode, onNode_slot harg h _ hok hi huse]
  simp only [beq_false_of_ne htmo, hcount, Bool.false_eq_true, if_false, if_true]

theorem exec_waitNode_waits (h : StandsAt s d w 3) (huse : MayUse s d w i 3) (htmo : bits (((s.box d).walker w).nw 0) 47 16 ≠ 0)
    (hcount : (s.slot d i).count < (s.slot d i).target) (hst : ∀ j, ((s.box d).walker w).st ≠ .count j) : exec .waitNode s = .next
      (((s.modWalker d w (countWait i (s.sys.clock + 1000 * bits (((s.box d).walker w).nw 0) 47 16))).post
        (1000 * bits (((s.box d).walker w).nw 0) 47 16) .waitTimeout (.dieIdx { die := d, i := w })).retime d w) := by
  show execWaitNode s = _
  rw [execWaitNode, onNode_slot harg h _ hok hi huse]
  simp only [beq_false_of_ne htmo, Nat.not_le.mpr hcount, Bool.false_eq_true, if_false]
  rfl

theorem exec_drain (h : StandsAt s d w 7) (huse : MayUse s d w i 7) {s1 : State} {done : Bool} (hdrain : s.drainNode d i = (s1, done)) :
    exec .drain s = .next (if done then s1.goNode d w (((s.box d).walker w).node + 1) else s1.waitSlot d w i) := by
  show execDrain s = _
  rw [execDrain, onNode_slot harg h _ hok hi huse, hdrain]

end

/-- REPEAT goes back while its count lasts, ends LIMIT as the fifth, and else goes on. -/
theorem exec_repeatNode (h : StandsAt s d w 4) (hback : bits (((s.box d).walker w).nw 0) 27 16 < ((s.box d).walker w).node)
    (hn : bits (((s.box d).walker w).nw 0) 63 32 ≠ 0) :
    let k := (s.box d).walker w
    let done := ((k.reps.find? fun e => e.1 == k.node).map (·.2)).getD 0
    let rest := k.reps.filter fun e => e.1 != k.node
    exec .repeatNode s = .next (
      if done < bits (k.nw 0) 63 32 then
        (if 4 ≤ rest.length then s.failWalk d w 7
         else (s.modWalker d w fun x => { x with reps := (k.node, done + 1) :: rest }).goNode d w (bits (k.nw 0) 27 16))
      else (s.modWalker d w fun x => { x with reps := rest }).goNode d w (k.node + 1)) := by
  show execRepeatNode s = _
  rw [execRepeatNode, onNode_plain harg h _ hok rfl]
  simp only [Nat.not_le.mpr hback, beq_false_of_ne hn, decide_false, Bool.or_self, Bool.false_eq_true, if_false]
  rfl

section
variable (h : StandsAt s d w 5) (hva : bits (((s.box d).walker w).nw 1) 2 0 = 0)
include h hva

theorem exec_signal_waits (hcopies : s.copiesLeft d ((s.box d).walker w).arms = true) :
    exec .signal s = .next (s.waitSlot d w (((s.box d).walker w).arms.headD 0)) := by
  show execSignal s = _
  rw [execSignal, onNode_plain harg h _ hok rfl]
  simp only [hva, hcopies, bne_self_eq_false, Bool.false_eq_true, if_false, if_true]

/-- SIGNAL that does not inform the supervisor stores its value and goes on. -/
theorem exec_signal_stores (hcopies : s.copiesLeft d ((s.box d).walker w).arms = false) (hquiet : bit (((s.box d).walker w).nw 0) 17 = false)
    {v : Word} (hv : (if bit (((s.box d).walker w).nw 0) 16 then (s.boxWords (((s.box d).walker w).nw 1).toNat 1).map fun ws =>
      ws.headD 0 + ((s.box d).walker w).nw 2 else some (((s.box d).walker w).nw 2)) = some v)
    {s1 : State} (hstore : s.boxStore (((s.box d).walker w).nw 1).toNat v = some s1) :
    exec .signal s = .next (s1.goNode d w (((s.box d).walker w).node + 1)) := by
  show execSignal s = _
  rw [execSignal, onNode_plain harg h _ hok rfl]
  simp only [hva, hcopies, hv, hstore, hquiet, bne_self_eq_false, Option.bind_some, Bool.false_eq_true, if_false]

end

/-- SCT whose touches met neither a FREE entry nor the want of a frame goes on once all its entries are RESIDENT. -/
theorem exec_sct (h : StandsAt s d w 6) (hen : s.stcEn d = true) (hn : bits (((s.box d).walker w).nw 0) 47 32 ≠ 0)
    (hle : bits (((s.box d).walker w).nw 0) 31 16 + bits (((s.box d).walker w).nw 0) 47 32 ≤ s.stcNent d + 1) {s1 : State} {l : List Touched}
    (htouch : s.sctTouch d w (bits (((s.box d).walker w).nw 0) 31 16) (bit (((s.box d).walker w).nw 0) 48)
      (((s.box d).walker w).st == .sct) (bits (((s.box d).walker w).nw 0) 47 32) = (s1, l))
    (hmet : ∀ t ∈ l, t = .resident ∨ t = .wait) :
    exec .sct s = .next (if l.all (· == .resident) && s1.allResident d (bits (((s.box d).walker w).nw 0) 31 16)
        (bits (((s.box d).walker w).nw 0) 47 32)
      then s1.goNode d w (((s.box d).walker w).node + 1) else s1.modWalker d w fun x => { x with st := .sct }) := by
  have hnone : l.find? (fun t => t == .free || t == .noframe) = none :=
    List.find?_eq_none.mpr fun t ht => by rcases hmet t ht with rfl | rfl <;> decide
  show execSct s = _
  rw [execSct, onNode_plain harg h _ hok rfl]
  simp only [hen, beq_false_of_ne hn, Nat.not_lt.mpr hle, htouch, hnone, Bool.not_true, decide_false, Bool.or_self, Bool.false_eq_true, if_false]

end

theorem allResident_iff (s : State) (d i n : Nat) :
    s.allResident d i n = true ↔ ∀ j, j < n → ((s.box d).entry (i + j)).state = .resident := by
  simp only [State.allResident, List.all_eq_true, List.mem_range, beq_iff_eq]

/-! WAIT_TIMEOUT (R71). -/

section
variable {s : State} {d w j x : Nat} (harg : s.arg = .dieIdx { die := d, i := w }) (hst : ((s.box d).walker w).st = .count j)
  (hdeadline : ((s.box d).walker w).deadline = some x)
include harg hst hdeadline

theorem exec_waitTimeout (hending : ((s.box d).walker w).ending = none) :
    exec .waitTimeout s = .next (if x ≤ s.sys.clock then s.failWalk d w 4 else s) := by
  show execWaitTimeout s = _
  simp only [execWaitTimeout, harg, hst, hdeadline, hending, Option.isNone_none, Bool.and_true, decide_eq_true_eq]

end

/-- Settles O53: each op by the law of its event, where the walker stands at a node of that op. -/
theorem nodeResults : Obligations.NodeResults := by
  unfold Obligations.NodeResults
  intro s d w harg k w0 i top stands at_ mine own on ends
  have hi : bits (((s.box d).walker w).nw 0) 11 8 = i := bits_eq_div _ 11 8
  have hn : bits w0 63 32 = top := (bits_eq_div w0 63 32).trans (Nat.mod_eq_of_lt (by omega))
  have ht : bits w0 27 16 = w0.toNat / 2 ^ 16 % 4096 := bits_eq_div w0 27 16
  have htmo : bits w0 47 16 = w0.toNat / 2 ^ 16 % 2 ^ 32 := bits_eq_div w0 47 16
  have hfirst : bits w0 31 16 = w0.toNat / 2 ^ 16 % 2 ^ 16 := bits_eq_div w0 31 16
  have hva : bits (k.nw 1) 2 0 = (k.nw 1).toNat % 8 := bits_zero_eq_mod (k.nw 1) 2
  have hsize : bits w0 47 32 = top % 2 ^ 16 := bits_eq_div w0 47 32
  refine ⟨fun op x hx h hbad => ?_, fun op x hx h huse => ?_, fun h hdone => exec_endNode_done harg h.2 h.1 hdone, fun h huse => ?_, fun h huse => ?_,
    fun h huse h0 => ?_, fun j x hst hx hending => ?_, fun h hback h0 => ?_, fun h h0 hcopies => ?_, fun h h0 hcopies hquiet => ?_,
    fun h h0 hen hle s1 l htouch => ?_, fun h huse => ?_⟩
  · obtain ⟨slotted, f, hexec⟩ := exec_node hx s
    exact hexec.trans (congrArg _ (onNode_bad harg h f slotted hbad))
  · obtain ⟨f, hexec⟩ := exec_slotNode hx s
    exact hexec.trans (congrArg _ (onNode_other harg h.1 f h.2 hi huse))
  · -- R68, R87-R90: CFG.
    have hcfg := exec_cfg harg h.2 hi h.1 huse
    refine ⟨fun t hload => ?_, fun n hne hload => ?_, fun hload => ?_⟩
    · rw [hcfg, hload]
    · rw [hcfg, hload]
      exact congrArg (fun n => Host.Outcome.next (own.failWalk d w n)) (if_neg hne)
    · rw [hcfg, hload]
  · -- R68, R98-R103: ARM.
    have harm := exec_arm harg h.2 hi h.1 huse
    refine ⟨fun hbegun hst => ?_, fun hbegun hst => ?_, fun hbegun hst hlive => ?_, fun hbegun harmed hloaded => ?_⟩
    · exact harm.trans (congrArg _ ((if_pos hbegun).trans (if_pos hst)))
    · have hnow : exec .arm s = .next (own.armNow d w i k) :=
        harm.trans (congrArg _ ((if_neg (ne_true_of_eq_false hbegun)).trans (if_pos hst)))
      refine ⟨fun hbusy => ?_, fun hfree => ⟨fun s1 hblocks => ?_, fun s1 hblocks => ?_⟩⟩
      · rw [hnow, armNow_busy k hbusy]
      · rw [hnow, armNow_fault k hfree hblocks]
      · obtain ⟨u, hu, hstate, hcount, hargs, htarget, hbegun'⟩ := armNow_begins (w := w) k hfree hblocks
        exact ⟨u, hnow.trans (congrArg _ hu), hstate, hcount, hargs, htarget.trans (bits_zero_eq_mod _ 31), hbegun'⟩
    · have hnot : ¬((s.slot d i).state = .loaded ∨ ((s.slot d i).state = .armed ∧ own.liveCtxs d i = [])) := by
        rintro (hl | ⟨-, hl⟩)
        · exact RState.noConfusion (hst.symm.trans hl)
        · exact hlive hl
      exact harm.trans (congrArg _ ((if_neg (ne_true_of_eq_false hbegun)).trans ((if_neg hnot).trans (if_pos hst))))
    · have hnot : ¬((s.slot d i).state = .loaded ∨ ((s.slot d i).state = .armed ∧ own.liveCtxs d i = [])) := by
        rintro (hl | ⟨hl, -⟩)
        · exact hloaded hl
        · exact harmed hl
      exact harm.trans (congrArg _ ((if_neg (ne_true_of_eq_false hbegun)).trans ((if_neg hnot).trans (if_neg harmed))))
  · -- R68, R71: WAIT.
    rw [← htmo] at h0 ⊢
    refine ⟨exec_waitNode_reached harg h.2 hi h.1 huse h0, fun hcount hst =>
      ⟨_, exec_waitNode_waits harg h.2 hi h.1 huse h0 hcount hst, ?_, ?_⟩⟩
    · rw [box_post, walker_modWalker_self]
      rfl
    · rw [box_post, walker_modWalker_self]
      rfl
  · -- R71: WAIT_TIMEOUT.
    have htimeout := exec_waitTimeout harg hst hx hending
    exact ⟨fun hle => htimeout.trans (congrArg _ (if_pos hle)), fun hlt => htimeout.trans (congrArg _ (if_neg (Nat.not_le.mpr hlt)))⟩
  · -- R68: REPEAT.
    intro n rest
    rw [← ht] at hback ⊢
    rw [← hn] at h0 ⊢
    have hrepeat := exec_repeatNode harg h.2 h.1 hback h0
    refine ⟨fun hlt hfew => ?_, fun hlt hfour => ?_, fun hle => ?_⟩
    · exact hrepeat.trans (congrArg _ ((if_pos hlt).trans (if_neg (Nat.not_le.mpr hfew))))
    · exact hrepeat.trans (congrArg _ ((if_pos hlt).trans (if_pos hfour)))
    · exact hrepeat.trans (congrArg _ (if_neg (Nat.not_lt.mpr hle)))
  · -- R66, R68: SIGNAL while copies run.
    exact exec_signal_waits harg h.2 h.1 (hva.trans h0) hcopies
  · -- R68: SIGNAL.
    have hstores := fun {v} => exec_signal_stores harg h.2 h.1 (hva.trans h0) hcopies hquiet (v := v)
    refine ⟨fun hset s1 hstore => hstores (by rw [hset]; rfl) hstore, fun hadd x r s1 hwords hstore => hstores ?_ hstore⟩
    rw [hadd, if_pos rfl, hwords]
    rfl
  · -- R68, R79: SCT.
    rw [← hfirst, ← hsize] at hle htouch ⊢
    rw [← hsize] at h0
    have hsct := exec_sct harg h.2 h.1 hen h0 hle htouch
    intro all
    refine ⟨fun hres hall => ?_, fun hmet hleft => ?_⟩
    · have hdone : (l.all (· == .resident) && s1.allResident d (bits w0 31 16) (bits w0 47 32)) = true := by
        rw [Bool.and_eq_true, List.all_eq_true, allResident_iff]
        exact ⟨fun t ht => beq_iff_eq.mpr (hres t ht), hall⟩
      exact (hsct fun t ht => .inl (hres t ht)).trans (congrArg _ (if_pos hdone))
    · have hwaits : ¬(l.all (· == .resident) && s1.allResident d (bits w0 31 16) (bits w0 47 32)) = true := by
        rw [Bool.and_eq_true, List.all_eq_true, allResident_iff]
        rintro ⟨hres, hall⟩
        rcases hleft with hw | hno
        · exact absurd (hres _ hw) (by decide)
        · exact hno hall
      exact (hsct hmet).trans (congrArg _ (if_neg hwaits))
  · -- R68, R105: DRAIN.
    refine ⟨fun hst => ?_, fun hst => ?_⟩
    · exact exec_drain harg h.2 hi h.1 huse (drainNode_done hst)
    · obtain ⟨hstate, hbox, hmem⟩ := startDrain_spec s d i
      exact ⟨(s.startDrain d i).waitSlot d w i, exec_drain harg h.2 hi h.1 huse (drainNode_armed hst), hstate,
        congrArg Walker.st (walker_modWalker_self ..), hmem⟩

end Sys2Proof.Laws

/-! O48: what a step runs (05 R96; 12 R275; 13 R292, R305). -/

namespace Sys2Proof.Laws

open Sys2Proof Sys2Proof.Machine Sys2Proof.Safety

/-- Context 0 of die 0's tile 0, at a NOP, the next to issue: it has issued once before, at step 3. -/
def issuedOnce : State :=
  { (State.reset.placed 0).modCtx 0 0 0 fun c => { c with hart := { c.hart with issue := 3, nissue := 1 } } with steps := 4 }

/-- The next issue of that context as the statement writes it out: when it issues is noted, when it issued before is not. -/
def issuedTwice : State :=
  ({ issuedOnce.tick with script := [], cur := .ctx 0 0 0 } : State).modHartOf (.ctx 0 0 0) fun h =>
    { h with issue := issuedOnce.tick.steps, nissue := h.nissue + 1 }

/-- When the executing agent issued before its last issue, as a step leaves it. -/
def prevAfter : Res → Option Nat
  | .next t => some t.hart.prev
  | _ => none

/-- The NOP is fetched from physical address 0x6000. -/
theorem issuedTwice_fetches : issuedTwice.pc.toNat / 2 ^ 60 = 0
    ∧ issuedTwice.check issuedTwice.req issuedTwice.pc.toNat 8 .fetch = .ok { key := 0x6000, mt := 0 }
    ∧ issuedTwice.poisoned { key := 0x6000, mt := 0 } = false
    ∧ BitVec.ofNat 64 (issuedTwice.rd { key := 0x6000, mt := 0 } 8) = 0 := by decide +kernel

/-- The step keeps when the context issued before. -/
theorem prevAfter_step : prevAfter (step issuedOnce) = some 3 := by decide +kernel

/-- Refutes O48: State.issueFrom also keeps in Hart.prev when the agent issued before, to take it back where the instruction turns out to be
no candidate for issue (R96, Wait.bars). The statement's state leaves Hart.prev as it was, and a NOP leaves it so: the context of issuedOnce,
which issued at step 3, ends the step with prev = 3 and not with 0. -/
theorem not_stepRunsTheDecodedInstruction : ¬ Obligations.StepRunsTheDecodedInstruction := by
  unfold Obligations.StepRunsTheDecodedInstruction
  intro h
  obtain ⟨hpc, hcheck, hclean, hword⟩ := issuedTwice_fetches
  have hnop : decodeWord (BitVec.ofNat 64 (issuedTwice.rd { key := 0x6000, mt := 0 } 8))
      = .ok (.nop { gn := false, gs := 0, d := 0, a := 0, b := 0, scope := 0, ord := 0, imm := 0 }) := (congrArg decodeWord hword).trans rfl
  have hready : ({ issuedOnce.tick with script := [] } : State).canIssue (.ctx 0 0 0) = true := by decide +kernel
  have hintime : ({ issuedOnce.tick with script := [] } : State).overdue (.ctx 0 0 0) = false := by decide +kernel
  have hstep := ((h.1 issuedOnce (.ctx 0 0 0) [] rfl hready).2 hintime _ hpc hcheck hclean).1 _ hnop
  have hprev := prevAfter_step
  rw [hstep] at hprev
  exact absurd hprev (by decide +kernel)

end Sys2Proof.Laws

/-! O54: the events of a region (05 R92-R94, R98, R103-R106; 12 R286, R460). -/

namespace Sys2Proof.Laws

open Sys2Proof Sys2Proof.Machine

/-! A trigger fires (R92-R94). -/

/-- A context as a fire of slot k of a tile leaves it (R94). -/
def FiredBy (x : Tile) (k : Nat) (y : Context) : Prop :=
  y.live = true ∧ y.cls = k ∧ y.hart.wait = .run ∧ y.links = []
    ∧ y.hart.pc = x.code + 8 * BitVec.ofNat 64 ((vget x.trg (2 * k + 1) 0).toNat % 2 ^ 16)

theorem firedBy_firedCtx (x : Tile) (r : Slot) (k : Nat) (old : Context) (head : Option Coach) (step clock inv : Nat) :
    FiredBy x k (firedCtx x r k old head step clock inv) :=
  ⟨rfl, rfl, rfl, rfl, congrArg (fun n => x.code + 8 * BitVec.ofNat 64 n) (bits_zero_eq_mod _ 15)⟩

theorem not_live_of_freeCtx {x : Tile} {c : Nat} (h : x.freeCtx = some c) : (x.ctx c).live = false :=
  (Bool.not_eq_true' _).mp (List.find?_some (p := fun c => !(x.ctx c).live) h)

@[simp] theorem tile_post (s : State) (n : Nat) (ev : Instr) (x : Arg) (d t : Nat) : (s.post n ev x).tile d t = s.tile d t := rfl

section
variable {s : State} {d t c : Nat} (i k : Nat)

/-- Of the contexts of its tile, a fire writes the lowest free one. -/
theorem ctxs_fire (h : (s.tile d t).freeCtx = some c) :
    ∃ y, FiredBy (s.tile d t) k y ∧ ((s.fire d i t k).tile d t).ctxs = (s.tile d t).ctxs.set c y := by
  have hset : ∃ head step clock inv, ((s.fire d i t k).tile d t).ctxs
      = (s.tile d t).ctxs.set c (firedCtx (s.tile d t) (s.slot d i) k ((s.tile d t).ctx c) head step clock inv) := by
    simp only [State.fire, h]
    split
    · rw [tile_modTile_self]
      exact ⟨_, _, _, _, rfl⟩
    · rw [tile_post, tile_modTile_self]
      exact ⟨_, _, _, _, rfl⟩
  obtain ⟨head, step, clock, inv, hset⟩ := hset
  exact ⟨_, firedBy_firedCtx .., hset⟩

theorem fire_none (h : (s.tile d t).freeCtx = none) : s.fire d i t k = s := by
  simp only [State.fire, h]

theorem fire_fires (h : (s.tile d t).freeCtx = some c) : FiredBy (s.tile d t) k ((s.fire d i t k).ctx d t c) := by
  obtain ⟨y, hy, hset⟩ := ctxs_fire i k h
  rw [State.ctx, Tile.ctx, hset, tbl_get_set_self]
  exact hy

/-- A fire leaves a context that holds an invocation as it is. -/
theorem ctx_fire_live (h : (s.ctx d t c).live = true) : (s.fire d i t k).ctx d t c = s.ctx d t c := by
  cases hfree : (s.tile d t).freeCtx with
  | none => rw [fire_none i k hfree]
  | some e =>
    obtain ⟨y, -, hset⟩ := ctxs_fire i k hfree
    have hne : c ≠ e := by
      rintro rfl
      exact Bool.noConfusion (h.symm.trans (not_live_of_freeCtx hfree))
    rw [State.ctx, Tile.ctx, hset, tbl_get_set_ne _ _ _ hne]
    rfl

end

/-! An arbitration (R93). -/

/-- What an arbitration's count of ages leaves of a tile: its contexts, trigger plane and code base. -/
def besideAges (x : Tile) : Tbl Context × Vector Word 32 × Word := (x.ctxs, x.trg, x.code)

theorem besideAges_foldl {f : Tile → Nat → Tile} (h : ∀ x k, besideAges (f x k) = besideAges x) (l : List Nat) (x : Tile) :
    besideAges (l.foldl f x) = besideAges x := by
  induction l generalizing x with
  | nil => rfl
  | cons k r ih => exact (ih (f x k)).trans (h x k)

theorem ctx_of_besideAges {x y : Tile} (h : besideAges y = besideAges x) (c : Nat) : y.ctx c = x.ctx c := by
  rw [Tile.ctx, show y.ctxs = x.ctxs from congrArg Prod.fst h]
  rfl

theorem freeCtx_of_besideAges {x y : Tile} (h : besideAges y = besideAges x) : y.freeCtx = x.freeCtx := by
  simp only [Tile.freeCtx, ctx_of_besideAges h]

theorem firedBy_of_besideAges {x y : Tile} (h : besideAges y = besideAges x) {k : Nat} {z : Context} (hz : FiredBy y k z) : FiredBy x k z := by
  rw [FiredBy, show y.trg = x.trg from congrArg (·.2.1) h, show y.code = x.code from congrArg (·.2.2) h] at hz
  exact hz

/-- The slot that is first in the order fires, whether or not a second one does. -/
theorem arbitrate_fires {s : State} {d t c k : Nat} (i : Nat) {rest : List Nat}
    (horder : (s.tile d t).order ((List.range 16).filter (s.tile d t).readyGuard) = k :: rest) (hfree : (s.tile d t).freeCtx = some c) :
    ∃ v, s.arbitrate d i t = (v, true) ∧ FiredBy (s.tile d t) k (v.ctx d t c) := by
  simp only [State.arbitrate, horder, hfree]
  refine ⟨_, rfl, ?_⟩
  have hages : ∀ l : List Nat, besideAges ((s.modTile d t fun y => l.foldl Tile.unready y).tile d t) = besideAges (s.tile d t) := fun l => by
    rw [tile_modTile_self]
    exact besideAges_foldl (f := Tile.unready) (fun _ _ => rfl) l _
  have hfirst : ∀ l : List Nat, FiredBy (s.tile d t) k (((s.modTile d t fun y => l.foldl Tile.unready y).fire d i t k).ctx d t c) :=
    fun l => firedBy_of_besideAges (hages l) (fire_fires i k ((freeCtx_of_besideAges (hages l)).trans hfree))
  have hlost : ∀ (u : State) (now : Nat) (l : List Nat),
      (u.modTile d t fun y => l.foldl (fun y k => y.lost now k) y).ctx d t c = u.ctx d t c := fun u now l => by
    rw [State.ctx, tile_modTile_self]
    exact ctx_of_besideAges (besideAges_foldl (f := fun y k => y.lost now k) (fun _ _ => rfl) l _) c
  rw [hlost]
  split
  · rw [ctx_fire_live i _ (hfirst _).1]
    exact hfirst _
  · exact hfirst _

theorem exec_triggerFire {s : State} {d t i : Nat} (harg : s.arg = .tileRef { die := d, tile := t }) (hregion : s.regionAt d t = some i)
    (harmed : (s.slot d i).state = .armed) (hrearm : (s.slot d i).rearm = false) {v : State}
    (hfires : (s.trimQueues d i t).arbitrate d i t = (v, true)) : exec .triggerFire s = .next (v.post 1 .triggerFire s.arg) := by
  show execTriggerFire s = _
  rw [execTriggerFire, harg]
  simp only [hregion, harmed, hrearm, hfires, bne_self_eq_false, Bool.or_self, Bool.false_eq_true, if_false, if_true]

/-! What go leaves of the slots (R98, R183, R229). -/

@[simp] theorem slots_fireAll (s : State) (d i : Nat) : (s.fireAll d i).slots = s.slots :=
  foldl_keeps State.slots (fun t _ => post_slots t ..) _ s

@[simp] theorem slots_startGens (s : State) (d n : Nat) : (s.startGens d n).slots = s.slots :=
  foldl_keeps State.slots (fun t g => by
    dsimp only
    split
    · rw [post_slots, modDepot_slots]
    · exact modDepot_slots ..) _ s

@[simp] theorem slots_goUnits (s : State) (d i : Nat) (resumed : Bool) : (s.goUnits d i resumed).slots = s.slots :=
  foldl_keeps State.slots (fun t n => (foldl_keeps State.slots (fun u _ => post_slots u ..) _ _).trans
    (foldl_keeps State.slots (fun u _ => (post_slots ..).trans (modTile_slots u d n _)) _ t)) _ s

/-- Of an empty siding nothing returns. -/
theorem slot_returnSided_empty {s : State} {d i : Nat} (h : (s.slot d i).siding = []) (go : Sided → Bool) {order : List Sided → List Sided}
    (horder : order [] = []) : (s.returnSided d i go order).slot d i = s.slot d i := by
  have hmod : ((s.modSlot d i fun r => { r with siding := [] }).putSiding d i).slot d i = { s.slot d i with siding := [] } :=
    (slot_of_slots rfl d i).trans (slot_modSlot_self s d i fun r => { r with siding := [] })
  simp only [State.returnSided, h, List.filter_nil, horder, List.foldl_nil]
  rw [hmod, ← h]

/-- A slot that go arms: what the region counts stays where it is resumed, and begins anew where not (R99, R106). -/
def armedSlot (r : Slot) : Slot :=
  { r with
    resuming := false
    bars := if r.resuming then r.bars else []
    xv := r.resuming && r.xv
    x := if r.resuming then r.x else 0
    drops := if r.resuming then r.drops else 0 }

/-- The siding records that go returns: those of the versions that the region takes (R185). -/
def ofVersions (r : Slot) (x : Sided) : Bool :=
  x.reason ≤ 5 && bits (x.coach.h 0) 10 7 == bits (r.h 0) 3 0 && bits (x.coach.h 0) 14 11 == bits (r.h 0) 7 4

/-! The events that end a region's transitions, each by its operand (R98, R103-R106). -/

section
variable {s : State} {d i : Nat} (harg : s.arg = .dieIdx { die := d, i := i })
include harg

/-- GO that neither resumes nor returns a coach arms the region, and the waiting walks look again. -/
theorem exec_go_arms (hst : (s.slot d i).state = .arming) (hforced : (s.slot d i).forced = false) (hnew : (s.slot d i).resuming = false)
    (hempty : (s.slot d i).siding = []) : ∃ u, exec .go s = .next (State.settle u d) ∧ (u.slot d i).state = .armed := by
  have hexec : exec .go s = .next ((((s.slot d i).depotsOf.foldl (fun s n => s.startGens d n)
      ((((s.slotTo d i .armed).modSlot d i armedSlot).returnSided d i (ofVersions (s.slot d i)) id).goUnits d i false)).fireAll d i).settle d) := by
    show execGo s = _
    simp only [execGo, harg, hst, hforced, hnew, bne_self_eq_false, Bool.false_eq_true, if_false]
    rfl
  have harmed : ((s.slotTo d i .armed).modSlot d i armedSlot).slot d i = armedSlot ((s.slot d i).goTo s.sys.clock .armed) := by
    rw [slot_modSlot_self, State.slotTo, slot_modSlot_self]
  have hreturned : ((s.slotTo d i .armed).modSlot d i armedSlot |>.slot d i).siding = [] := (congrArg Slot.siding harmed).trans hempty
  refine ⟨_, hexec, ?_⟩
  rw [slot_of_slots ((slots_fireAll ..).trans ((foldl_keeps State.slots (fun t n => slots_startGens t d n) _ _).trans (slots_goUnits ..))),
    slot_returnSided_empty hreturned _ rfl, harmed]
  rfl

theorem exec_go_forced (hst : (s.slot d i).state = .arming) (hforced : (s.slot d i).forced = true) :
    exec .go s = .next ((s.forceDrain d i).settle d) := by
  show execGo s = _
  simp only [execGo, harg, hst, hforced, bne_self_eq_false, Bool.false_eq_true, if_false, if_true]

section
variable (hst : (s.slot d i).state = .draining)
include hst

theorem exec_drainDone_live (hlive : s.liveCtxs d i ≠ []) : exec .drainDone s = .next s := by
  have hne : (s.liveCtxs d i).isEmpty = false := List.isEmpty_eq_false_iff.mpr hlive
  show execDrainDone s = _
  simp only [execDrainDone, harg, hst, hne, Bool.not_false, Bool.or_true, if_true]

variable (hlive : s.liveCtxs d i = [])
include hlive

/-- DRAIN_DONE without invocations by whether matrix instructions are left that it has to wait for (R105, R376). -/
theorem exec_drainDone_ended : exec .drainDone s = .next (
    let u := s.finishMatrix d i
    if u.matrixLeft d i && !((s.slot d i).forced && !u.replyLeft d i) then u.post 100 .drainDone s.arg
    else
      let u2 := (u.dropMatrix d i).sideQueues d i
      let u3 : State := { u2 with withheld := u2.withheld.filter fun w => !(w.u.die == d && w.slot == i && w.u.kind != .channel) }
      ((u3.slotTo d i .loaded).modSlot d i fun r => { r with forced := false }).settle d) := by
  show execDrainDone s = _
  simp only [execDrainDone, harg, hst, hlive, List.isEmpty_nil, Bool.not_true, bne_self_eq_false, Bool.or_self, Bool.false_eq_true, if_false]

theorem exec_drainDone_loads (h : (s.finishMatrix d i).matrixLeft d i = false
    ∨ ((s.slot d i).forced = true ∧ (s.finishMatrix d i).replyLeft d i = false)) :
    ∃ u, exec .drainDone s = .next (State.settle u d) ∧ (u.slot d i).state = .loaded := by
  have hdone : ((s.finishMatrix d i).matrixLeft d i && !((s.slot d i).forced && !(s.finishMatrix d i).replyLeft d i)) = false := by
    rcases h with hleft | ⟨hforced, hreply⟩
    · rw [hleft, Bool.false_and]
    · rw [hforced, hreply, Bool.not_false, Bool.and_self, Bool.not_true, Bool.and_false]
  refine ⟨_, (exec_drainDone_ended harg hst hlive).trans (congrArg _ (if_neg (ne_true_of_eq_false hdone))), ?_⟩
  rw [slot_modSlot_self, State.slotTo, slot_modSlot_self]
  rfl

theorem exec_drainDone_waits (hleft : (s.finishMatrix d i).matrixLeft d i = true)
    (h : (s.slot d i).forced = false ∨ (s.finishMatrix d i).replyLeft d i = true) :
    exec .drainDone s = .next ((s.finishMatrix d i).post 100 .drainDone s.arg) := by
  have hwaits : ((s.finishMatrix d i).matrixLeft d i && !((s.slot d i).forced && !(s.finishMatrix d i).replyLeft d i)) = true := by
    rcases h with hforced | hreply
    · rw [hleft, hforced, Bool.false_and, Bool.not_false, Bool.and_self]
    · rw [hleft, hreply, Bool.not_true, Bool.and_false, Bool.not_false, Bool.and_self]
  exact (exec_drainDone_ended harg hst hlive).trans (congrArg _ (if_pos hwaits))

end

/-- QUIESCE_DONE saves the region, unless another module's reply is still to come (R104, R166). -/
theorem exec_quiesceDone (hst : (s.slot d i).state = .quiescing) : exec .quiesceDone s = .next (
    let u := (((s.abandonUnsent d i).finishMatrix d i).finishPushes d i).abandonUnsent d i
    if u.replyLeft d i then u.post 100 .quiesceDone s.arg
    else ((((u.keepMatrix d i).boundary d i false).sideQueues d i).save d i).settle d) := by
  show execQuiesceDone s = _
  simp only [execQuiesceDone, harg, hst, beq_self_eq_true, Bool.true_or, if_true]

theorem exec_saveDone (hst : (s.slot d i).state = .saving) : exec .saveDone s = .next ((s.slotTo d i .preempted).settle d) := by
  show execSaveDone s = _
  simp only [execSaveDone, harg, hst, beq_self_eq_true, if_true]

/-- A restore of a region that saved no block, context or coach goes on as an arming (R98, R106). -/
theorem exec_regionRestoreDone_empty (hst : (s.slot d i).state = .restoring) (hblocks : (s.slot d i).blocks = [])
    (hsaved : (s.slot d i).saved = []) (hempty : (s.slot d i).siding = []) :
    ∃ u, exec .regionRestoreDone s = .next (State.settle u d) ∧ (u.slot d i).state = .arming := by
  have hexec : exec .regionRestoreDone s = .next ((((s.modSlot d i fun r => { r with saved := [], blocks := [], resuming := true }).armPhase
      d i).returnSided d i (fun _ => true) fun l => l.filter (fun x => x.queued) ++ l.filter fun x => !x.queued).settle d) := by
    show execRegionRestoreDone s = _
    simp only [execRegionRestoreDone, harg, hst, hblocks, hsaved, State.restoreBlocks, State.restoreCtxs, List.isEmpty_nil, bne_self_eq_false,
      Bool.false_eq_true, if_false, if_true]
  have harming := slot_armPhase (s.modSlot d i fun r => { r with saved := [], blocks := [], resuming := true }) d i
  rw [slot_modSlot_self] at harming
  refine ⟨_, hexec, ?_⟩
  rw [slot_returnSided_empty ((congrArg Slot.siding harming).trans hempty) _ rfl, harming]
  rfl

end

/-! TRAPINFO_ACK (R286, R460). -/

theorem bit_clear_top (w : Word) : bit (setBits w 63 63 0) 63 = false := by
  have htop : bits w 63 63 = w.toNat / 2 ^ 63 % 2 := bits_eq_div w 63 63
  have hw := w.isLt
  rw [bit, BitVec.getLsbD, setBits, htop, w64, BitVec.toNat_ofNat, Nat.testBit_eq_decide_div_mod_eq]
  simp only [decide_eq_false_iff_not]
  omega

section
variable {s : State} {d i : Nat} {v : Word} (harg : s.arg = .slotVal { die := d, slot := i, v := v })
include harg

theorem exec_trapinfoAck_none (h : bit v 63 = false ∨ bit (s.slot d i).trapinfo 63 = false) : exec .trapinfoAck s = .next s := by
  have hor : (!bit v 63 || !bit (s.slot d i).trapinfo 63) = true := by
    rcases h with h | h
    · rw [h, Bool.not_false, Bool.true_or]
    · rw [h, Bool.not_false, Bool.or_true]
  show execTrapinfoAck s = _
  simp only [execTrapinfoAck, harg, State.ackTrap, hor, if_true]

/-- The acknowledgement of a freeze that has saved its contexts leaves the region PREEMPTED. -/
theorem exec_trapinfoAck_frozen (hv : bit v 63 = true) (hrecord : bit (s.slot d i).trapinfo 63 = true) (hst : (s.slot d i).state = .frozen)
    (hfault : (s.slot d i).sfault ≠ .saving) (hfreezing : (s.slot d i).freezing = false) :
    ∃ u, exec .trapinfoAck s = .next (State.settle u d) ∧ (u.slot d i).state = .preempted ∧ bit (u.slot d i).trapinfo 63 = false := by
  have hexec : exec .trapinfoAck s = .next ((((s.modSlot d i fun r => { r with trapinfo := setBits r.trapinfo 63 63 0 }).modSlot d i fun r =>
      { r with sfault := .none }).slotTo d i .preempted).settle d) := by
    show execTrapinfoAck s = _
    simp only [execTrapinfoAck, harg, State.ackTrap, hv, hrecord, hst, hfreezing, beq_false_of_ne hfault, Bool.not_true, bne_self_eq_false,
      Bool.or_self, Bool.false_eq_true, if_false]
  refine ⟨_, hexec, ?_⟩
  simp only [State.slotTo, slot_modSlot_self]
  exact ⟨rfl, bit_clear_top _⟩

end

/-- Settles O54: a trigger by the arbitration of its tile, every other event by the equation of its meaning in the state it finds. -/
theorem regionEventResults : Obligations.RegionEventResults := by
  unfold Obligations.RegionEventResults
  intro s d i r named dest
  refine ⟨?_, exec_go_arms, exec_go_forced, ?_, exec_drainDone_live, ?_, fun harg hst => ?_, exec_regionRestoreDone_empty, fun v harg => ?_⟩
  · -- R92-R94: a fire.
    intro t k c rest harg hregion harmed hrearm u x horder hfree
    obtain ⟨v, hv, hfired⟩ := arbitrate_fires i horder hfree
    exact ⟨_, exec_triggerFire harg hregion harmed hrearm hv, hfired⟩
  · -- R105: a drain without invocations.
    intro harg hst hlive u
    exact ⟨exec_drainDone_loads harg hst hlive, exec_drainDone_waits harg hst hlive⟩
  · -- R103, R104, R166: a quiescing.
    intro harg hst u
    exact ⟨fun hreply => (exec_quiesceDone harg hst).trans (congrArg _ (if_neg (ne_true_of_eq_false hreply))),
      fun hreply => (exec_quiesceDone harg hst).trans (congrArg _ (if_pos hreply))⟩
  · -- R103: a save.
    refine ⟨_, exec_saveDone harg hst, ?_⟩
    rw [State.slotTo, slot_modSlot_self]
    rfl
  · -- R286, R460: an acknowledgement.
    exact ⟨exec_trapinfoAck_none harg, exec_trapinfoAck_frozen harg⟩

end Sys2Proof.Laws

/-! O55: withholdings, watchdogs, generators, register writes and ECC errors (06 R123-R127; 09 R202, R229; 12 R282, R288;
14 R326). -/

namespace Sys2Proof.Laws

open Sys2Proof Sys2Proof.Machine

/-! REG.FINFO takes a record (R127). -/

theorem bit_w64_top {n : Nat} (hlo : 2 ^ 63 ≤ n) (hhi : n < 2 ^ 64) : bit (w64 n) 63 = true := by
  rw [bit, BitVec.getLsbD, w64, BitVec.toNat_ofNat, Nat.testBit_eq_decide_div_mod_eq]
  simp only [decide_eq_true_eq]
  omega

theorem depotTile_lt {n : Nat} (h : n < 128) : depotTile n < 256 := by
  unfold depotTile
  split <;> omega

theorem unitCode_lt (k : UnitKind) : unitCode k < 5 := by cases k <;> decide
theorem accCode_lt (a : Acc) : accCode a < 4 := by cases a <;> decide

/-- The fields of a record lie side by side below its valid bit. -/
theorem finfo_faultRecord_valid (r : Slot) {u : UnitRef} (a : Acc) (level code va : Nat) (pos : Option Nat) (hdie : u.die < 4)
    (htile : u.tile < 128) : bit (r.faultRecord u a level code va pos).finfo 63 = true := by
  have hunit := unitCode_lt u.kind
  have hacc := accCode_lt a
  have hdepot := depotTile_lt htile
  unfold Slot.faultRecord
  generalize unitCode u.kind = k at hunit
  split
  · assumption
  · dsimp only
    split <;> exact bit_w64_top (by omega) (by omega)

/-! REWALK (R124). -/

/-- A unit whose walk succeeds goes on. -/
def goesOn (s : State) (u : UnitRef) : State :=
  match u.kind with
  | .ape =>
    (s.modTile u.die u.tile fun t => t.modApe u.i fun a => { a with wh := false }).post 1 .apeElement
      (.tileIdx { die := u.die, tile := u.tile, i := u.i })
  | .channel =>
    (s.modTile u.die u.tile fun t => t.modChan u.i fun c => { c with
      state := if c.state == .paused then .running else c.state }).post 1 .ceGranule
      (.tileIdx { die := u.die, tile := u.tile, i := u.i })
  | .access | .fetch | .generator => s

@[simp] theorem goesOn_mem (s : State) (u : UnitRef) : (goesOn s u).mem = s.mem := by
  unfold goesOn
  split <;> rfl

@[simp] theorem goesOn_withheld (s : State) (u : UnitRef) : (goesOn s u).withheld = s.withheld := by
  unfold goesOn
  split <;> rfl

@[simp] theorem ape_modApe_self (t : Tile) (e : Nat) (f : Ape → Ape) : (t.modApe e f).ape e = f (t.ape e) := tbl_get_set_self ..

theorem wh_goesOn_ape (s : State) {u : UnitRef} (h : u.kind = .ape) : (((goesOn s u).tile u.die u.tile).ape u.i).wh = false := by
  simp only [goesOn, h, tile_post, tile_modTile_self, ape_modApe_self]

/-- The state in which a withholding has its new fault and the time of its next walk. -/
def refaulted (s : State) (u : UnitRef) (lv n : Nat) : State :=
  { s with withheld := s.withheld.map fun y => if y.u = u then { y with level := lv, code := n, next := s.sys.clock + 2000 } else y }

theorem not_mem_unwithhold (s : State) (u : UnitRef) : ∀ y ∈ (s.unwithhold u).withheld, y.u ≠ u := fun _ hy =>
  bne_iff_ne.mp (List.mem_filter.mp hy).2

section
variable {s : State} {u : UnitRef} {w : Withheld} (harg : s.arg = .unitRef u) (hfind : (s.withheld.find? fun w => w.u == u) = some w)
include harg hfind

/-- A REWALK that comes before the unit's next walk is due waits for it. -/
theorem exec_rewalk_early (h : s.sys.clock < w.next) :
    ∃ x, exec .rewalk s = .next x ∧ x.mem = s.mem ∧ x.withheld = s.withheld := by
  have hexec : exec .rewalk s = .next
      (if s.agenda.any fun p => p.ev == .rewalk && p.arg == s.arg then s else s.post (w.next - s.sys.clock) .rewalk s.arg) := by
    show execRewalk s = _
    simp only [execRewalk, harg, hfind, h, if_true]
  refine ⟨_, hexec, ?_⟩
  split
  · exact ⟨rfl, rfl⟩
  · exact ⟨rfl, rfl⟩

variable (hdue : w.next ≤ s.sys.clock)
include hdue

theorem exec_rewalk_fault {lv n : Nat}
    (hwalk : s.translate (s.slot u.die w.slot).ptbr (s.slot u.die w.slot).boot w.acc (w.va % 2 ^ 57) = .error (lv, n)) :
    ∃ x, exec .rewalk s = .next x ∧ x.mem = s.mem
      ∧ x.withheld = s.withheld.map fun y => if y.u = u then { y with level := lv, code := n, next := s.sys.clock + 2000 } else y := by
  have hexec : exec .rewalk s = .next ((refaulted s u lv n).post 2000 .rewalk s.arg) := by
    show execRewalk s = _
    simp only [execRewalk, harg, hfind, Nat.not_lt.mpr hdue, hwalk, if_false, beq_iff_eq]
    rw [refaulted, harg]
  exact ⟨_, hexec, rfl, rfl⟩

theorem exec_rewalk_succeeds {l : Leaf}
    (hwalk : s.translate (s.slot u.die w.slot).ptbr (s.slot u.die w.slot).boot w.acc (w.va % 2 ^ 57) = .ok l) :
    exec .rewalk s = .next (goesOn (s.unwithhold u) u) := by
  show execRewalk s = _
  simp only [execRewalk, harg, hfind, Nat.not_lt.mpr hdue, hwalk, if_false]
  rfl

end

/-! A region is quiesced (R104): its record of a fault and the lifetime counters stay. -/

/-- REG.FINFO of a slot and the lifetime counters. -/
def faultLog (d i : Nat) (s : State) : Word × Lifetime := ((s.slot d i).finfo, s.life)

@[simp] theorem faultLog_modTile (s : State) (d i e t : Nat) (f : Tile → Tile) : faultLog d i (s.modTile e t f) = faultLog d i s := rfl

theorem faultLog_modSlot (s : State) (d i : Nat) {f : Slot → Slot} (h : ∀ r, (f r).finfo = r.finfo) :
    faultLog d i (s.modSlot d i f) = faultLog d i s := by
  rw [faultLog, slot_modSlot_self, h]
  rfl

theorem faultLog_side (s : State) (d i reason aq tile : Nat) (queued : Bool) (c : Coach) :
    faultLog d i (s.side d i reason aq tile queued c) = faultLog d i s := by
  have hput : ∀ t : State, faultLog d i (t.putSiding d i) = faultLog d i t := fun _ => rfl
  unfold State.side
  dsimp only
  split
  · exact faultLog_modSlot s d i (by intro r; rfl)
  · exact (hput _).trans (faultLog_modSlot s d i (by intro r; rfl))

theorem faultLog_sideQueues (s : State) (d i : Nat) : faultLog d i (s.sideQueues d i) = faultLog d i s := by
  have hqueue : ∀ (v : State) (t q : Nat), faultLog d i (((vget (v.tile d t).arr q []).foldl (fun s c => s.side d i 5 q t true c) v).modTile
      d t fun x => { x with arr := vput x.arr q [] }) = faultLog d i v := fun v t q =>
    (faultLog_modTile ..).trans (foldl_keeps (faultLog d i) (fun u c => faultLog_side u ..) _ v)
  unfold State.sideQueues
  exact foldl_keeps (faultLog d i) (fun u t => foldl_keeps (faultLog d i) (fun v q => hqueue v t q) _ u) _ s

theorem faultLog_boundary (s : State) (d i : Nat) : faultLog d i (s.boundary d i false) = faultLog d i s := by
  unfold State.boundary
  dsimp only
  rw [if_neg Bool.false_ne_true]
  refine (faultLog_modSlot _ d i (by intro r; rfl)).trans ((foldl_keeps (faultLog d i) (fun u t => faultLog_modTile u d i d t _) _ _).trans ?_)
  rfl

theorem faultLog_quiesce (s : State) (d i : Nat) : faultLog d i (s.quiesce d i) = faultLog d i s := by
  have hpost : ∀ (t : State) (n : Nat) (ev : Instr) (x : Arg), faultLog d i (t.post n ev x) = faultLog d i t := fun _ _ _ _ => rfl
  rw [State.quiesce, hpost, State.slotTo, faultLog_modSlot _ d i (by intro r; rfl), faultLog_sideQueues, faultLog_boundary]

theorem state_quiesce {s : State} {d i : Nat} (h : (s.slot d i).freezing = false) : ((s.quiesce d i).slot d i).state = .quiescing := by
  rw [State.quiesce, slot_post, State.slotTo, slot_modSlot_self, h]
  rfl

/-! WITHHOLD_TIMEOUT (R124, R125). -/

/-- The state in which a withholding that lasted its time has been recorded, the supervisor informed and the timeout counted. -/
def timedOut (s : State) (u : UnitRef) (w : Withheld) : State :=
  let s1 := (s.modSlot u.die w.slot fun r => r.faultRecord u w.acc w.level w.code w.va w.pos).inform 4 (w64 (u.die * 16 + w.slot))
  { s1 with life := { s1.life with timeouts := bump s1.life.timeouts } }

theorem slot_timedOut (s : State) (u : UnitRef) (w : Withheld) :
    (timedOut s u w).slot u.die w.slot = (s.slot u.die w.slot).faultRecord u w.acc w.level w.code w.va w.pos :=
  (slot_of_slots rfl _ _).trans (slot_modSlot_self s u.die w.slot fun r => r.faultRecord u w.acc w.level w.code w.va w.pos)

theorem freezing_faultRecord (r : Slot) (u : UnitRef) (a : Acc) (level code va : Nat) (pos : Option Nat) :
    (r.faultRecord u a level code va pos).freezing = r.freezing := by
  unfold Slot.faultRecord
  split <;> rfl

section
variable {s : State} {u : UnitRef} {w : Withheld} (harg : s.arg = .unitRef u) (hfind : (s.withheld.find? fun w => w.u == u) = some w)
  (harmed : (s.slot u.die w.slot).state = .armed)
include harg hfind harmed

theorem exec_withholdTimeout_early (h : s.sys.clock < w.since + (s.slot u.die w.slot).tw) :
    exec .withholdTimeout s = .next (s.post (w.since + (s.slot u.die w.slot).tw - s.sys.clock) .withholdTimeout s.arg) := by
  show execWithholdTimeout s = _
  simp only [execWithholdTimeout, harg, hfind, harmed, h, bne_self_eq_false, Bool.false_eq_true, if_false, if_true]

theorem exec_withholdTimeout_due (hboot : (s.slot u.die w.slot).boot = false) (h : w.since + (s.slot u.die w.slot).tw ≤ s.sys.clock) :
    exec .withholdTimeout s = .next (((timedOut s u w).quiesce u.die w.slot).settle u.die) := by
  show execWithholdTimeout s = _
  simp only [execWithholdTimeout, harg, hfind, harmed, hboot, Nat.not_lt.mpr h, bne_self_eq_false, Bool.false_eq_true, if_false]
  rfl

end

theorem quiesce_timedOut {s : State} {u : UnitRef} (w : Withheld) (hfreezing : (s.slot u.die w.slot).freezing = false) (hdie : u.die < 4)
    (htile : u.tile < 128) : (((timedOut s u w).quiesce u.die w.slot).slot u.die w.slot).state = .quiescing
      ∧ bit (((timedOut s u w).quiesce u.die w.slot).slot u.die w.slot).finfo 63 = true
      ∧ ((timedOut s u w).quiesce u.die w.slot).life.timeouts = min (s.life.timeouts + 1) (2 ^ 64 - 1) := by
  have hlog := faultLog_quiesce (timedOut s u w) u.die w.slot
  have hfinfo := congrArg Prod.fst hlog
  have hlife := congrArg (fun l => l.2.timeouts) hlog
  refine ⟨state_quiesce ?_, ?_, hlife.trans (bump_eq_min _)⟩
  · rw [slot_timedOut, freezing_faultRecord, hfreezing]
  · refine (congrArg (bit · 63) hfinfo).trans ?_
    rw [faultLog, slot_timedOut]
    exact finfo_faultRecord_valid _ _ _ _ _ _ hdie htile

/-! WATCHDOG (R282). -/

/-- A trap of a core that has none active enters its handler (R278). -/
theorem coreTrap_enters {s : State} {n : Nat} (h : (s.core n).hart.cause.active = false) (code loc : Nat) (tval : Word) :
    (s.coreTrap n code loc tval).mem = s.mem
      ∧ ((s.coreTrap n code loc tval).core n).hart = { (s.core n).hart.trapped true code loc tval with pc := s.sys.svtvec } := by
  rw [State.coreTrap, if_neg (ne_true_of_eq_false h), core_modCore_self]
  exact ⟨rfl, rfl⟩

/-- The state in which core n has used up its watchdog and is about to take the trap. -/
def coreOverrun (s : State) (n : Nat) : State := ({ s with cur := .core n } : State).modCore n fun x => { x with wdone := true }

theorem core_coreOverrun (s : State) (n : Nat) : (coreOverrun s n).core n = { s.core n with wdone := true } :=
  core_modCore_self ({ s with cur := .core n } : State) n fun x => { x with wdone := true }

/-- The watchdog of a core whose trap is not active enters the handler (R278, R282). -/
theorem exec_watchdog_core {s : State} {n : Nat} (harg : s.arg = .agentRef { a := .core n }) (hrun : (s.core n).running = true)
    (hlim : (s.core n).wlim ≠ 0) (hdone : (s.core n).wdone = false) (hdue : (s.core n).wstart + 1000 * (s.core n).wlim ≤ s.sys.clock)
    (hidle : (s.core n).hart.cause.active = false) :
    ∃ x, exec .watchdog s = .next x ∧ x.cur = s.cur ∧ x.mem = s.mem ∧ (x.core n).hart =
      { (s.core n).hart.trapped true 12 0 (w64 ((s.sys.clock - (s.core n).wstart) / 1000)) with pc := s.sys.svtvec } := by
  have hexec : exec .watchdog s = .next { (coreOverrun s n).coreTrap n 12 0 (w64 ((s.sys.clock - (s.core n).wstart) / 1000)) with
      cur := s.cur } := by
    show execWatchdog s = _
    simp only [execWatchdog, harg, hrun, hdone, beq_false_of_ne hlim, Nat.not_lt.mpr hdue, Bool.not_true, Bool.or_self, decide_false,
      Bool.false_eq_true, if_false]
    rw [← harg]
    rfl
  have hactive : ((coreOverrun s n).core n).hart.cause.active = false := by rw [core_coreOverrun, hidle]
  obtain ⟨hmem, hhart⟩ := coreTrap_enters hactive 12 0 (w64 ((s.sys.clock - (s.core n).wstart) / 1000))
  refine ⟨_, hexec, rfl, hmem, hhart.trans ?_⟩
  rw [core_coreOverrun]
  rfl

@[simp] theorem abandonWait_mem (s : State) (d t c i : Nat) : (s.abandonWait d t c i).mem = s.mem := by
  unfold State.abandonWait
  dsimp only
  split <;> rfl

/-- The watchdog of an invocation: what its context waits for is let go, and the trap is taken (R279, R282). -/
theorem exec_watchdog_ctx {s : State} {d t c i : Nat} (harg : s.arg = .agentRef { a := .ctx d t c }) (hregion : s.regionAt d t = some i)
    (hlive : (s.ctx d t c).live = true) (hdone : (s.ctx d t c).wdogDone = false) (hlim : (s.slot d i).wdog ≠ 0)
    (hstate : (s.slot d i).state = .armed ∨ (s.slot d i).state = .draining)
    (hdue : (s.ctx d t c).fired + 1000 * (s.slot d i).wdog ≤ (s.slot d i).active s.sys.clock) :
    exec .watchdog s = .next { State.trap { (s.abandonWait d t c i).modCtx d t c fun x => { x with wdogDone := true } with cur := .ctx d t c }
      12 0 (w64 (((s.slot d i).active s.sys.clock - (s.ctx d t c).fired) / 1000)) with cur := s.cur } := by
  have hruns : ((s.slot d i).state == .armed || (s.slot d i).state == .draining) = true := by
    simpa only [Bool.or_eq_true, beq_iff_eq] using hstate
  show execWatchdog s = _
  simp only [execWatchdog, harg, hregion, hlive, hdone, beq_false_of_ne hlim, hruns, Nat.not_lt.mpr hdue, Bool.not_true, Bool.or_self,
    Bool.false_eq_true, if_false]

/-! GENERATOR_ELEMENT (R228, R229). -/

/-- Generator k of a depot tile. -/
def generator (s : State) (d n k : Nat) : Gen := (s.depot d n).gens.get k .init

/-- The depot offset of a generator's next element. -/
def nextOffset (g : Gen) : Nat := (elementAddr (fun j => g.w (2 + j)) (bits (g.w 0) 7 6) 0 (w64 (bits (g.w 1) 22 0)) g.n).toNat

/-- Where the FIFO or line buffers that a generator reads begin in the depot (R226). -/
def unitLow (s : State) (d n : Nat) (g : Gen) : Nat := if g.line then (s.depot d n).fend * 65536 else (s.depot d n).pend * 65536
/-- Where they end (R226). -/
def unitHigh (s : State) (d n : Nat) (g : Gen) : Nat := if g.line then 2 ^ 23 else (s.depot d n).fend * 65536

theorem unitLow_eq (s : State) (d n : Nat) (g : Gen) :
    unitLow s d n g = (if g.line then (s.depot d n).fend else (s.depot d n).pend) * 65536 := by
  unfold unitLow
  split <;> rfl

/-- The element that a generator reads. -/
def nextElement (s : State) (d n : Nat) (g : Gen) : Elem :=
  let p : Phys := { key := depotKey d n (nextOffset g), mt := 3 }
  { code := s.rd p (elemSize g.typ), sub := 0, scale := 0, pois := s.poisoned p }

/-- The state after a generator's element: its target has it, and the generator has stepped. -/
def elementGiven (s : State) (d n k t : Nat) (g : Gen) : State :=
  (s.feed d t (bits (g.w 0) 11 8) (nextElement s d n g)).modDepot d n fun x => { x with gens := x.gens.set k g.stepped }

@[simp] theorem tile_modDepot (s : State) (d n : Nat) (f : Depot → Depot) (e t : Nat) : (s.modDepot d n f).tile e t = s.tile e t := rfl

@[simp] theorem generator_set (s : State) (d n k : Nat) (g : Gen) :
    generator (s.modDepot d n fun x => { x with gens := x.gens.set k g }) d n k = g := by
  rw [generator, depot_modDepot_self]
  exact tbl_get_set_self ..

theorem fed_elementGiven (s : State) (d n k t : Nat) (g : Gen) : (((elementGiven s d n k t g).tile d t).ape (bits (g.w 0) 11 8)).fed =
    ((s.tile d t).ape (bits (g.w 0) 11 8)).fed ++ [nextElement s d n g] := by
  rw [elementGiven, tile_modDepot, State.feed, tile_modTile_self, ape_modApe_self]

/-- A depot's SRAM holds what memory holds at its key, unless a thermal stop lost it (R22, R138). -/
theorem rd_mt3 {s : State} (h : s.sys.power.stopped = false) (key n : Nat) : s.rd { key := key, mt := 3 } n = leVal (s.mem.bytes key n) := by
  have hhome : s.home { key := key, mt := 3 } = key := rfl
  have hlost : s.lost key = false := by rw [State.lost, h, Bool.false_and]
  simp only [State.rd, hhome, hlost, Bool.false_eq_true, if_false]

section
variable {s : State} {d n k i : Nat} (harg : s.arg = .dieIdx2 { die := d, depot := n, gen := k })
  (hregion : s.regionAt d (depotTile n) = some i)
include harg hregion

theorem exec_generatorElement_idle (h : (s.slot d i).state ≠ .armed) : exec .generatorElement s = .next s := by
  show execGeneratorElement s = _
  simp only [execGeneratorElement, harg, hregion, bne_iff_ne.mpr h, Bool.or_true, if_true]

variable (harmed : (s.slot d i).state = .armed) {g : Gen} (hg : generator s d n k = g) (hon : g.on = true)
include harmed hg hon

theorem exec_generatorElement_malformed (hbad : g.bad = true) : exec .generatorElement s = .next (s.genStop d n k i g) := by
  unfold generator at hg
  show execGeneratorElement s = _
  simp only [execGeneratorElement, harg, hregion, harmed, hg, hon, hbad, bne_self_eq_false, Bool.not_true, Bool.or_self, Bool.false_eq_true,
    if_false, if_true]

theorem exec_generatorElement_gives {t : Nat} (hform : g.bad = false) (htarget : s.genTarget d n i g = some t)
    (hmatch : s.genMatches d n k t g = true) (hlen : bits (g.w 6) 47 0 ≠ 0)
    (hroom : ((s.tile d t).ape (bits (g.w 0) 11 8)).fed.length < 256) (hlo : unitLow s d n g ≤ nextOffset g)
    (hhi : nextOffset g + elemSize g.typ ≤ unitHigh s d n g) (hpin : s.pinned d (nextOffset g) = false) :
    exec .generatorElement s = .next ((elementGiven s d n k t g).post 2 .generatorElement s.arg) := by
  have hinside : (decide (nextOffset g < unitLow s d n g) || decide (unitHigh s d n g < nextOffset g + elemSize g.typ)
      || s.pinned d (nextOffset g)) = false := by
    rw [hpin, decide_eq_false (Nat.not_lt.mpr hlo), decide_eq_false (Nat.not_lt.mpr hhi)]
    rfl
  unfold generator at hg
  show execGeneratorElement s = _
  simp only [execGeneratorElement, harg, hregion, harmed, hg, hon, hform, htarget, hmatch, beq_false_of_ne hlen, Nat.not_le.mpr hroom,
    bne_self_eq_false, Bool.not_true, Bool.or_self, Bool.false_eq_true, if_false]
  exact congrArg _ (if_neg (ne_true_of_eq_false hinside))

end

theorem genStop_spec (s : State) {d n : Nat} (k i : Nat) (g : Gen) (hdie : d < 4) (hdepot : n < 128) :
    generator (s.genStop d n k i g) d n k = .init ∧ bit ((s.genStop d n k i g).slot d i).finfo 63 = true ∧ (s.genStop d n k i g).mem = s.mem := by
  refine ⟨generator_set s d n k .init, ?_, rfl⟩
  rw [State.genStop, slot_modSlot_self]
  exact finfo_faultRecord_valid (u := { kind := .generator, die := d, tile := n, i := k }) _ _ _ _ _ _ hdie hdepot

/-! Register writes and ECC errors (R126, R202, R282, R288). -/

theorem exec_wholdWrite {s : State} {d i : Nat} {v : Word} (h : s.arg = .slotVal { die := d, slot := i, v := v }) :
    exec .wholdWrite s = .next (s.writeReg d i 0x802 v v) := by
  show execWholdWrite s = _
  simp only [execWholdWrite, h]

theorem exec_tilePredWrite {s : State} {d t : Nat} {v : Word} (h : s.arg = .tileVal { die := d, tile := t, v := v }) :
    exec .tilePredWrite s = .next (s.writePred d t v) := by
  show execTilePredWrite s = _
  simp only [execTilePredWrite, h]

theorem exec_svwdogWrite {s : State} {n : Nat} {v : Word} (h : s.arg = .coreVal { core := n, v := v }) :
    exec .svwdogWrite s = .next (s.writeSvwdog n v) := by
  show execSvwdogWrite s = _
  simp only [execSvwdogWrite, h]

/-- A write of REG.WHOLD with 0 is dropped (R126). -/
theorem writeWhold_spec (s : State) (d i : Nat) (v w1 : Word) : (s.writeReg d i 0x802 v w1).mem = s.mem
    ∧ ((s.writeReg d i 0x802 v w1).slot d i).whold = if v.toNat % 2 ^ 16 = 0 then (s.slot d i).whold else v.toNat % 2 ^ 16 := by
  have hposts : ∀ t : State, (t.postTimeouts d i).mem = t.mem ∧ (t.postTimeouts d i).slot d i = t.slot d i := fun t =>
    ⟨foldl_keeps State.mem (fun u w => post_mem u ..) _ t, foldl_keeps (fun u => u.slot d i) (fun u w => slot_post u ..) _ t⟩
  have hwrite : s.writeReg d i 0x802 v w1 =
      if v.toNat % 2 ^ 16 = 0 then s else (s.modSlot d i fun r => { r with whold := v.toNat % 2 ^ 16 }).postTimeouts d i := by
    simp only [State.writeReg, bits_zero_eq_mod, beq_iff_eq]
  rw [hwrite]
  split
  · exact ⟨rfl, rfl⟩
  · obtain ⟨hmem, hslot⟩ := hposts (s.modSlot d i fun r => { r with whold := v.toNat % 2 ^ 16 })
    rw [hslot, slot_modSlot_self]
    exact ⟨hmem, rfl⟩

/-- A write of SYS.SVWDOG sets the limit and begins the count anew (R282). -/
theorem writeSvwdog_spec (s : State) (n : Nat) (v : Word) : ((s.writeSvwdog n v).core n).wlim = v.toNat % 2 ^ 32
    ∧ ((s.writeSvwdog n v).core n).wstart = s.sys.clock ∧ ((s.writeSvwdog n v).core n).wdone = false ∧ (s.writeSvwdog n v).mem = s.mem := by
  have hcore : (s.writeSvwdog n v).core n = { s.core n with wlim := v.toNat % 2 ^ 32, wstart := s.sys.clock, wdone := false } := by
    rw [← bits_zero_eq_mod v 31, ← core_modCore_self s n fun x => { x with wlim := bits v 31 0, wstart := s.sys.clock, wdone := false }]
    unfold State.writeSvwdog
    dsimp only
    split <;> rfl
  rw [hcore]
  refine ⟨rfl, rfl, rfl, ?_⟩
  unfold State.writeSvwdog
  dsimp only
  split <;> rfl

/-- Poisoning a granule marks it and leaves the others' marks. -/
theorem mem_mark_on (s : State) (g h : Nat) : h ∈ (s.mark g true).poison ↔ h = g ∨ h ∈ s.poison := by
  have hsplit : ∀ l : List Nat, h ∈ l.takeWhile (· < g) ++ g :: l.dropWhile (· < g) ↔ h = g ∨ h ∈ l := fun l => by
    rw [List.mem_append, List.mem_cons, or_left_comm, ← List.mem_append, List.takeWhile_append_dropWhile]
  refine (hsplit _).trans ?_
  rw [List.mem_filter, bne_iff_ne]
  exact ⟨fun hm => hm.imp_right And.left, fun hm => hm.elim .inl fun hp => (Decidable.em (h = g)).imp_right fun hne => ⟨hp, hne⟩⟩

theorem exec_eccError_uncorrected {s : State} {k : Nat} (harg : s.arg = .eccIn { key := k, fixed := false, stuck := none, coach := none }) :
    exec .eccError s = .next ((s.mark (k / 64) true).inform 2 (w64 k)) := by
  show execEccError s = _
  simp only [execEccError, harg, Bool.false_eq_true, if_false]

/-- Settles O55: each event is one equation of its meaning, and a pre-emption keeps the record and the count of its timeout. -/
theorem unitEventResults : Obligations.UnitEventResults := by
  unfold Obligations.UnitEventResults
  intro s d t c v
  refine ⟨fun u w harg hfind => ?_, fun n harg hrun hlim hdone hdue hidle => ?_,
    fun i harg hregion hlive hdone hlim hstate hdue => ?_, fun n k i harg hregion => ?_, fun i harg => ?_, fun harg => ?_, fun harg => ?_,
    fun k harg => ?_⟩
  · -- R124-R127: a withholding.
    intro r
    refine ⟨exec_rewalk_early harg hfind, fun hdue lv n hwalk => exec_rewalk_fault harg hfind hdue hwalk, fun hdue l hwalk => ?_,
      fun harmed hboot hfreezing hdue hdie htile => ?_, exec_withholdTimeout_early harg hfind⟩
    · exact ⟨_, exec_rewalk_succeeds harg hfind hdue hwalk, goesOn_mem .., by
        rw [goesOn_withheld]
        exact not_mem_unwithhold s u, wh_goesOn_ape _⟩
    · exact ⟨_, exec_withholdTimeout_due harg hfind harmed hboot hdue, quiesce_timedOut w hfreezing hdie htile⟩
  · -- R278, R282: a core's watchdog.
    obtain ⟨x, hexec, hcur, hmem, hcore⟩ := exec_watchdog_core harg hrun hlim hdone hdue hidle
    refine ⟨x, hexec, hcur, hmem, ?_⟩
    rw [hcore]
    exact ⟨rfl, rfl, rfl, rfl⟩
  · -- R279, R282: a context's watchdog.
    refine ⟨_, exec_watchdog_ctx harg hregion hlive hdone hlim hstate hdue, rfl, ?_, abandonWait_mem ..⟩
    exact congrArg Context.wdogDone (ctx_modCtx_self (s.abandonWait d t c i) d t c fun x => { x with wdogDone := true })
  · -- R228, R229: a generator.
    refine ⟨exec_generatorElement_idle harg hregion, fun harmed => ?_⟩
    intro g e off lo hi hon
    refine ⟨fun hform htarget hmatch hlen hroom hlo hhi hpin => ?_, fun hbad hdie hdepot => ?_⟩
    · have hlow : unitLow s d n g ≤ off := Nat.le_trans (Nat.le_of_eq (unitLow_eq s d n g)) hlo
      exact ⟨_, _, exec_generatorElement_gives harg hregion harmed rfl hon hform htarget hmatch hlen hroom hlow hhi hpin,
        fed_elementGiven s d n k t g, fun hrun => rd_mt3 hrun .., generator_set _ d n k g.stepped, rfl⟩
    · exact ⟨_, exec_generatorElement_malformed harg hregion harmed rfl hon hbad, genStop_spec s k i g hdie hdepot⟩
  · -- R126: REG.WHOLD.
    exact ⟨_, exec_wholdWrite harg, writeWhold_spec s d i v v⟩
  · -- R202, R326: TILE.PRED.
    exact ⟨_, exec_tilePredWrite harg, rfl, writePred_pred s d t v⟩
  · -- R282: SYS.SVWDOG.
    exact ⟨_, exec_svwdogWrite harg, writeSvwdog_spec s c v⟩
  · -- R288: an error that ECC does not correct.
    refine ⟨_, exec_eccError_uncorrected harg, rfl, (mem_mark_on s _ _).mpr (.inl rfl), fun g hne => ?_, stick_eq_min _ _⟩
    exact (mem_mark_on s _ g).trans (or_iff_right hne)

end Sys2Proof.Laws

/-! O56: coaches in transit: hops, deliveries, merges, reductions and the junction siding (08 R178-R193; 12 R290). -/

namespace Sys2Proof.Laws

open Sys2Proof Sys2Proof.Machine

/-! Fields that are set. -/

/-- A field of a word that was set holds the value, as far as it has room. -/
theorem bits_setBits (w : Word) {h l : Nat} (hlh : l ≤ h) (hh : h < 64) (v : Nat) :
    bits (setBits w h l v) h l = v % 2 ^ (h - l + 1) := by
  obtain ⟨m, rfl⟩ : ∃ m, h = l + m := ⟨h - l, by omega⟩
  have hwidth : l + m - l + 1 = m + 1 := by omega
  have hfit : 2 ^ 64 = 2 ^ l * (2 ^ (m + 1) * 2 ^ (63 - l - m)) := by
    rw [← Nat.pow_add, ← Nat.pow_add]
    congr 1
    omega
  have hcleared : w.toNat / 2 ^ l - w.toNat / 2 ^ l % 2 ^ (m + 1) = 2 ^ (m + 1) * (w.toNat / 2 ^ l / 2 ^ (m + 1)) :=
    Nat.sub_eq_of_eq_add (Nat.div_add_mod ..).symm
  rw [bits_eq_div, setBits, bits_eq_div, hwidth, w64, BitVec.toNat_ofNat, hfit, Nat.mod_mul_right_div_self, Nat.mod_mul_right_mod,
    Nat.add_mul_div_right _ _ (Nat.two_pow_pos l), Nat.mul_comm (_ % _), Nat.sub_mul_div, hcleared, Nat.mul_add_mod, Nat.mod_mod]

theorem h_setF (c : Coach) {w : Nat} (h l v : Nat) (hw : w < 8) : (c.setF w h l v).h w = setBits (c.h w) h l v :=
  vget_vput_self _ _ _ _ hw

/-- A coach that enters a stop counts one more hop, to 255 (R169). -/
theorem hops_hopped (c : Coach) : bits (c.hopped.h 0) 35 28 = min (bits (c.h 0) 35 28 + 1) 255 := by
  rw [Coach.hopped, h_setF _ _ _ _ (by decide), bits_setBits _ (by decide) (by decide), stick_eq_min]
  exact Nat.mod_eq_of_lt (by omega)

/-- A loss counts in its field of SYS.KDROP, which sticks (R184). -/
theorem bits_kdrop (s : State) {d shift : Nat} (hd : d < 4) (hshift : shift + 15 < 64) :
    bits (vget (s.kdrop d shift).sys.kdrop d 0) (shift + 15) shift = min (bits (vget s.sys.kdrop d 0) (shift + 15) shift + 1) 0xFFFF := by
  simp only [State.kdrop, sys_modSys, vget_vput_self _ _ _ _ hd]
  rw [bits_setBits _ (Nat.le_add_right ..) hshift, stick_eq_min, Nat.add_sub_cancel_left]
  exact Nat.mod_eq_of_lt (by omega)

/-! A coach taken off its loop. -/

theorem takeOff_eq (s : State) (x : Transit) :
    ∃ n, s.takeOff x = { s with transit := s.transit.filter fun y => y.id != x.id, net := n } := by
  unfold State.takeOff State.berthFreed
  dsimp only
  split
  · exact ⟨_, rfl⟩
  · split <;> exact ⟨_, rfl⟩

/-- Off the pod loop no neighbour is to be told of the berth (R36). -/
theorem takeOff_module (s : State) {x : Transit} (h : x.loop ≠ .pod) :
    s.takeOff x = { s with transit := s.transit.filter fun y => y.id != x.id } := by
  simp only [State.takeOff, State.berthFreed, bne_iff_ne.mpr h, Bool.true_or, if_true]

section
variable (s : State) (x : Transit)

@[simp] theorem takeOff_transit : (s.takeOff x).transit = s.transit.filter fun y => y.id != x.id := by
  obtain ⟨n, h⟩ := takeOff_eq s x
  rw [h]

@[simp] theorem takeOff_mem : (s.takeOff x).mem = s.mem := by
  obtain ⟨n, h⟩ := takeOff_eq s x
  rw [h]

@[simp] theorem takeOff_tiles : (s.takeOff x).tiles = s.tiles := by
  obtain ⟨n, h⟩ := takeOff_eq s x
  rw [h]

@[simp] theorem takeOff_slots : (s.takeOff x).slots = s.slots := by
  obtain ⟨n, h⟩ := takeOff_eq s x
  rw [h]

@[simp] theorem takeOff_juncs : (s.takeOff x).juncs = s.juncs := by
  obtain ⟨n, h⟩ := takeOff_eq s x
  rw [h]

@[simp] theorem takeOff_sys : (s.takeOff x).sys = s.sys := by
  obtain ⟨n, h⟩ := takeOff_eq s x
  rw [h]

@[simp] theorem takeOff_tile (d t : Nat) : (s.takeOff x).tile d t = s.tile d t := by
  rw [State.tile, takeOff_tiles]
  rfl

@[simp] theorem takeOff_junc (j : Nat) : (s.takeOff x).junc j = s.junc j := by
  rw [State.junc, takeOff_juncs]
  rfl

end

/-! Hops (R178, R290). -/

section
variable {s : State} {x : Transit}

theorem exec_coachHop (harg : s.arg = .idxRef { i := x.id }) (hid : x.id < 2 ^ 32)
    (hthere : s.transit.find? (fun t => t.id == x.id) = some x) : exec .coachHop s = .next (s.hop x) := by
  have hlink : ¬2 ^ 34 ≤ x.id := by omega
  have hjunc : ¬2 ^ 33 ≤ x.id := by omega
  have htile : ¬2 ^ 32 ≤ x.id := by omega
  show execCoachHop s = _
  simp only [execCoachHop, harg, if_neg hlink, if_neg hjunc, if_neg htile, hthere]

theorem hop_poisoned (hbad : x.coach.hbad = true) : s.hop x = (s.takeOff x).dropBad (hereOf x.loop x.stop) := by
  rw [State.hop, if_pos hbad]

theorem hop_behind (hbad : x.coach.hbad = false) (hfirst : s.first x = false) : s.hop x = s.postHop x.id := by
  simp only [State.hop, hbad, hfirst, Bool.not_false, Bool.false_eq_true, if_false, if_true]

/-- Before its exit point a coach goes on along its loop (R180). -/
theorem hop_onLoop (hbad : x.coach.hbad = false) (hfirst : s.first x = true) (hloop : x.loop ≠ .pod) (hexit : x.stop ≠ x.exit) :
    s.hop x = s.moveOn x := by
  simp only [State.hop, hbad, hfirst, beq_false_of_ne hloop, bne_iff_ne.mpr hexit, Bool.not_true, Bool.true_or, Bool.false_eq_true, if_false,
    if_true]

end

/-- The stop after a coach's own in its direction. -/
def nextStopOf (x : Transit) : Nat := if x.up then (x.stop + 1) % x.loop.size else (x.stop + x.loop.size - 1) % x.loop.size

/-- A coach that has moved to the next stop. -/
def movedOn (x : Transit) : Transit := { x with stop := nextStopOf x, tried := false, coach := x.coach.hopped }

section
variable {s : State} {x : Transit}

theorem moveOn_free (h : s.berthed x.loop (nextStopOf x) x.up < 2) :
    s.moveOn x = ({ s with transit := (s.transit.filter fun y => y.id != x.id) ++ [movedOn x] } : State).postHop x.id :=
  if_pos h

theorem moveOn_full (h : 2 ≤ s.berthed x.loop (nextStopOf x) x.up) : s.moveOn x = s.postHop x.id := if_neg (Nat.not_lt.mpr h)

end

/-- Behind the others, a coach is found under its number. -/
theorem find_behind (l : List Transit) {y : Transit} {id : Nat} (h : y.id = id) :
    ((l.filter fun u => u.id != id) ++ [y]).find? (fun t => t.id == id) = some y := by
  have hnone : (l.filter fun u => u.id != id).find? (fun t => t.id == id) = none :=
    List.find?_eq_none.mpr fun u hu he => bne_iff_ne.mp (List.mem_filter.mp hu).2 (eq_of_beq he)
  rw [List.find?_append, hnone, Option.none_or]
  exact List.find?_cons_of_pos (beq_iff_eq.mpr h)

/-! The coach that acts at its exit point (R179, R180). -/

/-- The event of a coach that stands at its exit point, where its stop code names act and no coach that passed by comes first. -/
def ActsAt (s : State) (x : Transit) (act : Nat) : Prop :=
  s.arg = .idxRef { i := x.id } ∧ s.transit.find? (fun t => t.id == x.id) = some x ∧ x.stop = x.exit ∧ x.tried = false
    ∧ codeAct x.code = act ∧ s.atStop (hereOf x.loop x.stop) x.code = true ∧ s.blocked x = false

section
variable {s : State} {x : Transit}

theorem ActsAt.arg {act : Nat} (h : ActsAt s x act) : s.arg = .idxRef { i := x.id } := h.1

theorem atAct_acts {act : Nat} (h : ActsAt s x act) (k : Transit → State) : s.atAct x.id act k = k x := by
  obtain ⟨-, hthere, hexit, htried, hact, hstop, hfree⟩ := h
  have hfind : (s.transit.find? fun t => t.id == x.id && t.stop == t.exit && !t.tried && codeAct t.code == act
      && s.atStop (hereOf t.loop t.stop) t.code) = some x := by
    obtain ⟨-, before, after, hsplit, hbefore⟩ := List.find?_eq_some_iff_append.mp hthere
    refine List.find?_eq_some_iff_append.mpr ⟨?_, before, after, hsplit, fun y hy => ?_⟩
    · simp only [hexit, htried, hact, beq_self_eq_true, Bool.not_false, Bool.and_true, Bool.true_and]
      exact hexit ▸ hstop
    · simp only [(Bool.not_eq_true' _).mp (hbefore y hy), Bool.false_and, Bool.not_false]
  simp only [State.atAct, hfind, hfree, Bool.false_eq_true, if_false]

/-! Deliveries (R182, R188). -/

section
variable {d k : Nat} (hact : ActsAt s x 0) (hhere : hereOf x.loop x.stop = .tile d k)
include hact hhere

theorem exec_coachDelivery : exec .coachDelivery s = .next (s.deliver x d k) := by
  show execCoachDelivery s = _
  simp only [execCoachDelivery, hact.arg, atAct_acts hact, hhere]

theorem exec_loopexit {i : Nat} (hctl : s.admission d k x.coach = .control i) :
    exec .loopexit s = .next (s.deliverAs x d k fun s => s.recordExit d i x.coach.iter) := by
  show execLoopexit s = _
  simp only [execLoopexit, hact.arg, atAct_acts hact, hhere, hctl]

end

/-- Without tee the coach's travel ends at its tile (R176). -/
theorem deliverAs_ends (htee : codeTee x.code = false) (d k : Nat) (act : State → State) : s.deliverAs x d k act = act (s.takeOff x) := by
  simp only [State.deliverAs, htee, Bool.not_false, if_true]

section
variable {d k i : Nat}

theorem deliver_queue (hadm : s.admission d k x.coach = .queue i) (hroom : s.queueRoom d k (codeAq x.code) x.coach = true) :
    s.deliver x d k = s.deliverAs x d k fun s' =>
      s'.intoQueue d k (codeAq x.code) (x.coach.atHome (s.routesOf (s.planeAt (.tile d k) x.plane x.coach))) := by
  simp only [State.deliver, hadm, hroom, if_true]

theorem deliver_full (hadm : s.admission d k x.coach = .queue i) (hfull : s.queueRoom d k (codeAq x.code) x.coach = false) :
    s.deliver x d k = s.passBy x := by
  simp only [State.deliver, hadm, hfull, Bool.false_eq_true, if_false]

theorem deliver_noreg (hadm : s.admission d k x.coach = .noreg) : s.deliver x d k = s.deliverAs x d k fun s' => s'.kdrop d 32 := by
  simp only [State.deliver, hadm]

end

theorem arr_intoQueue (s : State) (d t : Nat) {aq : Nat} (haq : aq < 4) (c : Coach) :
    vget ((s.intoQueue d t aq c).tile d t).arr aq [] = vget (s.tile d t).arr aq [] ++ [c] := by
  rw [State.intoQueue, tile_post, tile_modTile_self]
  exact vget_vput_self _ _ _ _ haq

theorem codeAq_lt (code : Word) : codeAq code < 4 := bits_lt code 19 18

theorem slot_recordExit (s : State) (d i n : Nat) :
    (s.recordExit d i n).slot d i = { s.slot d i with xv := true, x := if (s.slot d i).xv then min (s.slot d i).x n else n } := by
  rw [State.recordExit, slot_of_slots (slots_fireAll ..), slot_modSlot_self]

theorem recordExit_transit (s : State) (d i n : Nat) : (s.recordExit d i n).transit = s.transit :=
  foldl_keeps State.transit (fun t _ => post_transit t ..) _ _

/-! Merges (R186, R187). -/

theorem exec_merge_unsplit (hact : ActsAt s x 2) (hsplit : bit (x.coach.h 0) 21 = false) : exec .merge s = .next (s.passOn x) := by
  show execMerge s = _
  simp only [execMerge, hact.arg, atAct_acts hact, hsplit, Bool.not_false, if_true]

/-- A part that is not the expected one is held, or passes by where its unit is full. -/
theorem exec_merge_early {u : MergeUnit} (hact : ActsAt s x 2) (hsplit : bit (x.coach.h 0) 21 = true)
    (hunit : ((s.junc (hereOf x.loop x.stop).num).mrg.find? fun m => m.mid == bits (x.coach.h 4) 63 48) = some u)
    (hpart : ¬(x.coach.iter = u.iter ∧ x.coach.partNo = u.part)) :
    exec .merge s = .next (if u.held.length < 32 then
      (s.takeOff x).putUnit (hereOf x.loop x.stop).num { u with held := u.held ++ [{ coach := x.coach, code := x.code, plane := x.plane }] } false
      else s.passBy x) := by
  have hfor : s.unitFor (hereOf x.loop x.stop).num x.coach = some u := by
    simp only [State.unitFor, hunit]
  have hnot : (x.coach.iter == u.iter && x.coach.partNo == u.part) = false :=
    Bool.eq_false_iff.mpr fun h => hpart ((Bool.and_eq_true_iff.mp h).imp eq_of_beq eq_of_beq)
  show execMerge s = _
  simp only [execMerge, hact.arg, atAct_acts hact, hsplit, hfor, hnot, Bool.not_true, Bool.false_eq_true, if_false]

theorem mem_putUnit (s : State) (j : Nat) (u : MergeUnit) : u ∈ ((s.putUnit j u false).junc j).mrg := by
  rw [State.putUnit, junc_modJunc_self]
  exact List.mem_append_right _ (List.mem_singleton_self u)

/-! Contributions (R190). -/

theorem exec_reduce_passage (hact : ActsAt s x 1) (hkind : x.coach.contributes = false) : exec .reduce s = .next (s.passOn x) := by
  show execReduce s = _
  simp only [execReduce, hact.arg, atAct_acts hact, hkind, Bool.not_false, if_true]

theorem exec_reduce_taken (hact : ActsAt s x 1) (hkind : x.coach.contributes = true) (hgood : x.coach.redBad = false) {u : State}
    (htaken : (s.takeOff x).takeRed (hereOf x.loop x.stop).num x.coach x.plane = some u) : exec .reduce s = .next u := by
  show execReduce s = _
  simp only [execReduce, hact.arg, atAct_acts hact, hkind, hgood, htaken, Bool.not_true, Bool.false_eq_true, if_false]

end

theorem rid_of_slotOf {j : Junction} {rid : Nat} {r : RedSlot} (h : j.slotOf rid = some r) : r.rid = rid :=
  eq_of_beq (List.find?_some (p := fun y : RedSlot => y.rid == rid) h)

theorem slotOf_modRed {j : Junction} {rid : Nat} {r : RedSlot} (h : j.slotOf rid = some r) {f : RedSlot → RedSlot}
    (hf : ∀ y, (f y).rid = y.rid) : (j.modRed rid f).slotOf rid = some (f r) := by
  have hrid : ∀ y : RedSlot, (if y.rid == rid then f y else y).rid = y.rid := fun y => by
    split
    · exact hf y
    · rfl
  have hfind : (j.red.find? ((fun y : RedSlot => y.rid == rid) ∘ fun y => if y.rid == rid then f y else y)) = some r := by
    simpa only [Function.comp_def, hrid, Junction.slotOf] using h
  rw [Junction.slotOf, Junction.modRed, List.find?_map, hfind, Option.map_some, if_pos (beq_iff_eq.mpr (rid_of_slotOf h))]

/-- A reduction slot that has counted a contribution. -/
def joinedSlot (r : RedSlot) (c : Coach) : RedSlot := { r with got := r.got ||| w64 (2 ^ c.redWho), terms := r.terms ++ [c] }

/-- The state after a slot of a junction has counted a contribution. -/
def joinSlot (s : State) (j : Nat) (r : RedSlot) (c : Coach) : State :=
  s.modJunc j fun k => k.modRed r.rid fun y => { y with got := (joinedSlot r c).got, terms := y.terms ++ [c] }

/-- A contribution that fits its slot and does not complete it is counted there (R190, R191). -/
theorem takeRed_joins {s : State} {j : Nat} {c : Coach} (p : Plane) {r : RedSlot} (hslot : (s.junc j).slotOf c.redId = some r)
    (hopen : r.closing = false) (hop : r.op = c.redOp) (hn : r.n = c.plen) (hwant : r.want = c.h 6) (hnew : bit r.got c.redWho = false)
    (hleft : (joinedSlot r c).got ≠ r.want) :
    s.takeRed j c p = some (joinSlot s j r c) := by
  have hmore : (r.got ||| w64 (2 ^ c.redWho) == r.want) = false := beq_false_of_ne hleft
  simp only [State.takeRed, hslot, hopen, State.joinRed, bne_eq_false_iff_eq.mpr hop, bne_eq_false_iff_eq.mpr hn,
    bne_eq_false_iff_eq.mpr hwant, hnew, hmore, Bool.or_self, Bool.false_eq_true, if_false]
  rfl

theorem slotOf_joinSlot {s : State} {j rid : Nat} {r : RedSlot} (hslot : (s.junc j).slotOf rid = some r) (c : Coach) :
    ((joinSlot s j r c).junc j).slotOf rid = some (joinedSlot r c) := by
  rw [joinSlot, junc_modJunc_self, rid_of_slotOf hslot]
  exact slotOf_modRed hslot fun _ => rfl

/-! Deadlines (R191). -/

section
variable {s : State} {j rid : Nat} {r : RedSlot} (harg : s.arg = .juncIdx { j := j, i := rid })
  (hslot : (s.junc j).slotOf rid = some r) (hopen : r.closing = false)
include harg hslot hopen

theorem exec_reduceDeadline_due (hdue : r.deadline ≤ s.sys.clock) : exec .reduceDeadline s = .next (s.closeRed j rid 1) := by
  show execReduceDeadline s = _
  simp only [execReduceDeadline, harg, hslot, hopen, if_neg (Nat.not_lt.mpr hdue), Bool.false_eq_true, if_false]

theorem exec_reduceDeadline_early (hearly : s.sys.clock < r.deadline) :
    exec .reduceDeadline s = .next (s.post (r.deadline - s.sys.clock) .reduceDeadline s.arg) := by
  show execReduceDeadline s = _
  simp only [execReduceDeadline, harg, hslot, hopen, if_pos hearly, Bool.false_eq_true, if_false]

end

/-! The junction siding (R193). -/

@[simp] theorem side_juncs (s : State) (d i reason aq tile : Nat) (queued : Bool) (c : Coach) :
    (s.side d i reason aq tile queued c).juncs = s.juncs := by
  unfold State.side
  dsimp only
  split <;> rfl

@[simp] theorem kdrop_juncs (s : State) (d shift : Nat) : (s.kdrop d shift).juncs = s.juncs := rfl

@[simp] theorem lose_juncs (s : State) (h : Here) (fault : Bool) (aq : Nat) (c : Coach) : (s.lose h fault aq c).juncs = s.juncs := by
  cases h with
  | tile d t =>
    simp only [State.lose]
    split
    · exact side_juncs ..
    · exact kdrop_juncs ..
  | junc d j => exact kdrop_juncs ..
  | gate => exact kdrop_juncs ..

/-- The coaches in the siding of a junction. -/
def sidingAt (d : Nat) (s : State) : List JWait := (s.junc d).side

theorem sidingAt_of_juncs {s t : State} (h : t.juncs = s.juncs) (d : Nat) : sidingAt d t = sidingAt d s := by
  rw [sidingAt, State.junc, h]
  rfl

theorem sidingAt_modJunc (s : State) (d j : Nat) {f : Junction → Junction} (h : ∀ x, (f x).side = x.side) :
    sidingAt d (s.modJunc j f) = sidingAt d s := by
  rw [sidingAt, State.junc, State.modJunc, tbl_get_set]
  split
  · next he =>
    rw [h, he]
    rfl
  · rfl

/-- A coach released at a junction, not by a slot, leaves every junction siding as it is. -/
theorem sidingAt_releaseAt (s : State) (d j : Nat) (p : Plane) (c : Coach) : sidingAt d (s.releaseAt j p none c) = sidingAt d s := by
  unfold State.releaseAt
  dsimp only
  split
  · exact (sidingAt_of_juncs (post_juncs ..) d).trans (sidingAt_modJunc s d j fun _ => rfl)
  · exact sidingAt_of_juncs (lose_juncs ..) d

/-- The contributions whose own timeout has run out leave the siding. -/
theorem exec_junctionSidingTimeout {s : State} {j rid : Nat} (harg : s.arg = .juncIdx { j := j, i := rid }) :
    ∃ u, exec .junctionSidingTimeout s = .next u
      ∧ sidingAt j u = (s.junc j).side.filter fun w => !(w.coach.redId == rid && decide (w.deadline ≤ s.sys.clock)) := by
  have hreleased : ∀ (l : List JWait) (t : State),
      sidingAt j (l.foldl (fun s w => s.releaseAt j w.plane none w.coach.noSlot) t) = sidingAt j t := fun l t => by
    refine foldl_keeps (sidingAt j) (fun t w => ?_) l t
    exact sidingAt_releaseAt t j j w.plane w.coach.noSlot
  have hexec : exec .junctionSidingTimeout s = execJunctionSidingTimeout s := rfl
  simp only [execJunctionSidingTimeout, harg] at hexec
  refine ⟨_, hexec, ?_⟩
  split
  · rw [sidingAt_of_juncs (post_juncs ..), hreleased, sidingAt, junc_modJunc_self]
  · rw [hreleased, sidingAt, junc_modJunc_self]

section
variable {s : State} {j : Nat} {w : JWait} (harg : s.arg = .idxRef { i := j }) (hside : (s.junc j).side = [w])
include harg hside

theorem exec_junctionSidingRelease_taken {u : State} (htaken : s.takeRed j w.coach w.plane = some u) :
    exec .junctionSidingRelease s = .next (u.modJunc j fun x => { x with side := [] }) := by
  show execJunctionSidingRelease s = _
  simp only [execJunctionSidingRelease, harg, hside, State.drainSide, htaken]

theorem exec_junctionSidingRelease_waits (hfull : s.takeRed j w.coach w.plane = none) :
    exec .junctionSidingRelease s = .next (s.modJunc j fun x => { x with side := [w] }) := by
  show execJunctionSidingRelease s = _
  simp only [execJunctionSidingRelease, harg, hside, State.drainSide, hfull]

end

/-- Settles O56: each event is one equation of its meaning for the coach, slot or siding that it finds. -/
theorem coachEventResults : Obligations.CoachEventResults := by
  unfold Obligations.CoachEventResults
  intro s x d k here off there at_ c aq nxt part
  refine ⟨fun harg hid hthere hbad hfirst => ?_, fun harg hid hthere hbad hloop => ?_, fun harg hid hthere hbad hfirst hloop hexit => ?_,
    fun hact hhere htee => ?_, fun hact => ?_, fun hact => ?_, fun harg => ?_, fun w harg hside => ?_⟩
  · -- R180: a coach that is not the first at its stop.
    rw [exec_coachHop harg hid hthere, hop_behind hbad hfirst]
  · -- R290: a poisoned header.
    rw [exec_coachHop harg hid hthere, hop_poisoned hbad, takeOff_module s hloop]
  · -- R178: a hop to the next stop.
    rw [exec_coachHop harg hid hthere, hop_onLoop hbad hfirst hloop hexit]
    exact ⟨fun hfree => ⟨_, congrArg _ (moveOn_free hfree), rfl, movedOn x, find_behind s.transit rfl, rfl, rfl, rfl, rfl,
        hops_hopped x.coach, rfl⟩,
      fun hfull => congrArg _ (moveOn_full hfull)⟩
  · -- R182, R184, R188: a delivery without tee.
    rw [exec_coachDelivery hact hhere]
    refine ⟨fun i hadm hroom => ?_, fun hadm hd => ?_, fun i hadm hfull => congrArg _ (deliver_full hadm hfull), fun i hctl => ?_⟩
    · rw [deliver_queue hadm hroom, deliverAs_ends htee]
      refine ⟨_, rfl, takeOff_transit s x, takeOff_mem s x, ?_⟩
      rw [arr_intoQueue _ d k (codeAq_lt x.code), takeOff_tile]
    · rw [deliver_noreg hadm, deliverAs_ends htee]
      refine ⟨_, rfl, takeOff_transit s x, ?_⟩
      rw [bits_kdrop _ hd (by decide : 32 + 15 < 64), takeOff_sys]
    · refine ⟨_, exec_loopexit hact hhere hctl, ?_⟩
      rw [deliverAs_ends htee, slot_recordExit, slot_of_slots (takeOff_slots s x)]
      exact ⟨(recordExit_transit ..).trans (takeOff_transit s x), rfl, rfl⟩
  · -- R186, R187: a merge.
    intro j
    refine ⟨exec_merge_unsplit hact, fun u hsplit hunit hpart => ⟨fun hroom => ?_, fun hfull => ?_⟩⟩
    · exact ⟨_, _, (exec_merge_early hact hsplit hunit hpart).trans (congrArg _ (if_pos hroom)), takeOff_transit s x, mem_putUnit .., rfl⟩
    · exact (exec_merge_early hact hsplit hunit hpart).trans (congrArg _ (if_neg (Nat.not_lt.mpr hfull)))
  · -- R190: a reduction.
    intro j
    refine ⟨exec_reduce_passage hact, fun r hkind hgood hslot hopen hop hn hwant hnew hleft => ?_⟩
    rw [← takeOff_junc s x j] at hslot
    exact ⟨_, exec_reduce_taken hact hkind hgood (takeRed_joins _ hslot hopen hop hn hwant hnew hleft), takeOff_transit s x, takeOff_mem s x,
      slotOf_joinSlot hslot x.coach⟩
  · -- R191, R193: deadlines.
    exact ⟨fun r => exec_reduceDeadline_due harg, fun r => exec_reduceDeadline_early harg, exec_junctionSidingTimeout harg⟩
  · -- R193: a slot is free.
    refine ⟨fun u => exec_junctionSidingRelease_taken harg hside,
      fun hfull => ⟨_, exec_junctionSidingRelease_waits harg hside hfull, ?_⟩⟩
    rw [junc_modJunc_self]

end Sys2Proof.Laws

/-! O1: writes of the general registers (09 R198; 14 R312). -/

namespace Sys2Proof.Laws

open Sys2Proof Sys2Proof.Machine Sys2Proof.Safety

/-- Settles O1: a write of g0 is the state itself, and that of another register is one entry of the executing agent's registers. -/
theorem generalRegisterWrite : Obligations.GeneralRegisterWrite := by
  intro s n v hcur
  refine ⟨getG_zero s, setG_zero s v, getG_setG_self s n v, fun k => getG_setG_ne s n k v, fun a ha hne => ?_⟩
  obtain ⟨-, hothers, -⟩ := regFrame_setG s n v [n] hcur List.mem_cons_self
  exact hothers a ha hne

end Sys2Proof.Laws

/-! O32: a copy channel's granules and the end of its command (07 R157; 09 R222, R223; 17 R398-R401). -/

namespace Sys2Proof.Laws

open Sys2Proof Sys2Proof.Machine

/-! Writes at places of which no home slice keeps a copy (R118, R138). -/

/-- A place whose page type keeps its bytes out of the home slices. -/
def Uncached (p : Phys) : Prop := p.mt = 1 ∨ p.mt = 3

theorem Uncached.noCopy {p : Phys} (h : Uncached p) : (p.mt == 0 || p.mt == 2) = false := by
  rcases h with h | h <;> rw [h] <;> rfl

theorem home_uncached {p : Phys} (h : Uncached p) (s : State) : s.home p = p.key := by
  rw [State.home, h.noCopy]
  rfl

theorem prepWrite_uncached {p : Phys} (h : Uncached p) (s : State) : s.prepWrite p = s := by
  rw [State.prepWrite, h.noCopy]
  rfl

theorem hot_uncached {p : Phys} (h : Uncached p) (s : State) (q : Req) (a : Acc) (va : Nat) : s.hot q a p va = s := by
  rcases h with h | h <;> simp [State.hot, h]

/-- An access there changes no more than the cached translations. -/
theorem touch_uncached {p : Phys} (h : Uncached p) (s : State) (q : Req) (ea : Nat) (a : Acc) :
    ∃ tlb, s.touch q ea a p = { s with tlb := tlb } := by
  unfold State.touch
  simp only [hot_uncached h]
  split
  · split
    · split <;> exact ⟨_, rfl⟩
    · exact ⟨_, rfl⟩
  · exact ⟨_, rfl⟩

/-- A store at a tail word posts events and does nothing else (R63). -/
theorem tailHits_keeps {α : Type} (view : State → α) (hpost : ∀ t n ev x, view (State.post t n ev x) = view t) (s : State) (pa n : Nat) :
    view (s.tailHits pa n) = view s := by
  refine foldl_keeps view (fun t e => foldl_keeps view (fun u q => ?_) e.2.queues t) s.boxes s
  dsimp only
  split
  · rfl
  · split
    · split
      · exact hpost ..
      · rfl
    · rfl

section
variable {α : Type} (view : State → α) (hmark : ∀ t g on, view (State.mark t g on) = view t)
  (hpost : ∀ t n ev x, view (State.post t n ev x) = view t) {p : Phys} (hp : Uncached p) (s : State) (q : Req) (bs : List Byte)
include hmark hpost hp

/-- Beside marks and events, a write there is a put of its bytes. -/
theorem wr_uncached : view (s.wr p bs) = view { s with mem := s.mem.put p.key bs } := by
  unfold State.wr
  simp only [prepWrite_uncached hp, home_uncached hp]
  rw [apply_ite view, tailHits_keeps view hpost, ite_self, apply_ite view, hmark, ite_self]

theorem wrFor_uncached : view (s.wrFor q p bs) = view { s with mem := s.mem.put p.key bs } := by
  unfold State.wrFor
  rw [apply_ite view, hmark, ite_self]
  exact wr_uncached view hmark hpost hp s bs

end

/-- What a write of a unit comes to at such a place: its bytes, and the granule's mark where they are poisoned (R223). -/
theorem unitWrite_uncached {s : State} {x : UnitAt} {ea : Nat} {bs : List Byte} {p : Phys}
    (hcheck : s.check (s.asReq x) ea bs.length .write = .ok p) (hp : Uncached p) (tag : Nat) (pois : Bool) :
    ∃ u, s.unitWrite x tag ea bs pois = (u, .ok 0 false) ∧ u.tiles = s.tiles ∧ u.mem = s.mem.put p.key bs
      ∧ (pois = true → p.key / 64 ∈ u.poison) := by
  obtain ⟨tlb, htouch⟩ := touch_uncached hp s (s.asReq x) ea .write
  simp only [State.unitWrite, hcheck, htouch, home_uncached hp]
  refine ⟨_, rfl, ?_, ?_, fun hpois => ?_⟩
  · rw [apply_ite State.tiles, mark_tiles, ite_self]
    exact wrFor_uncached State.tiles (fun _ _ _ => rfl) (fun _ _ _ _ => rfl) hp ..
  · rw [apply_ite State.mem, mark_mem, ite_self]
    exact wrFor_uncached State.mem (fun _ _ _ => rfl) (fun _ _ _ _ => rfl) hp ..
  · rw [if_pos hpois]
    exact (mem_mark_on ..).mpr (.inl rfl)

theorem unitWrite_refused {s : State} {x : UnitAt} {ea e : Nat} {bs : List Byte}
    (hcheck : s.check (s.asReq x) ea bs.length .write = .refuse e) (tag : Nat) (pois : Bool) :
    s.unitWrite x tag ea bs pois = (s, .refuse e) := by
  simp only [State.unitWrite, hcheck]

/-! Where a granule goes and what it is read from (R398, R399, R401). -/

section
variable {c : Chan} (page : Nat → Nat)

theorem geometry_cpy (h : c.kind = .cpy) (n : Nat) :
    c.dstAt page = (c.dst + w64 c.prog).toNat ∧ c.run = c.p2.toNat - c.prog ∧ c.srcPieces page n = parts (c.src + w64 c.prog).toNat n := by
  simp only [Chan.dstAt, Chan.run, Chan.srcPieces, Chan.total, h, and_self]

theorem geometry_fill (h : c.kind = .fill) : c.dstAt page = (c.dst + w64 c.prog).toNat ∧ c.run = c.p2.toNat - c.prog := by
  constructor <;> simp only [Chan.dstAt, Chan.run, Chan.total, h]

/-- Byte prog of a two-dimensional command, from base x by the stride of w (R399). -/
def rowByte (c : Chan) (x w : Word) : Nat :=
  (x + w64 (c.prog / (c.p2.toNat % 2 ^ 32)) * (BitVec.ofNat 32 w.toNat).signExtend 64 + w64 (c.prog % (c.p2.toNat % 2 ^ 32))).toNat

theorem geometry_twoD (h : c.kind = .twoD) (n : Nat) :
    c.dstAt page = rowByte c c.dst (c.p3 >>> 32) ∧ c.run = c.p2.toNat % 2 ^ 32 - c.prog % (c.p2.toNat % 2 ^ 32)
      ∧ c.srcPieces page n = parts (rowByte c c.src c.p3) n := by
  have hrow : bits c.p2 31 0 = c.p2.toNat % 2 ^ 32 := bits_zero_eq_mod c.p2 31
  refine ⟨?_, ?_, ?_⟩
  · simp only [Chan.dstAt, h, hrow]
    rfl
  · simp only [Chan.run, h, hrow]
  · simp only [Chan.srcPieces, h, hrow]
    rfl

theorem pageLen_eq (c : Chan) : c.pageLen = 4096 * 2 ^ (c.p3.toNat % 8) := congrArg (4096 * 2 ^ ·) (bits_zero_eq_mod c.p3 2)

theorem pageLen_pos (c : Chan) : 0 < c.pageLen := Nat.mul_pos (by decide) (Nat.two_pow_pos _)

theorem geometry_toList (h : c.kind = .pages) (hlist : c.p3.getLsbD 3 = true) (n : Nat) :
    c.dstAt page = page (c.prog / c.pageLen) + c.prog % c.pageLen ∧ c.run = c.pageLen - c.prog % c.pageLen
      ∧ c.srcPieces page n = parts (c.src + w64 c.prog).toNat n := by
  have hto : c.toList = true := hlist
  simp only [Chan.dstAt, Chan.run, Chan.srcPieces, h, hto, if_true, and_self]

section
variable (h : c.kind = .pages) (hlist : c.p3.getLsbD 3 = false)
include h hlist

theorem geometry_fromList : c.dstAt page = (c.dst + w64 c.prog).toNat ∧ c.run = c.p2.toNat * c.pageLen - c.prog := by
  have hto : c.toList = false := hlist
  simp only [Chan.dstAt, Chan.run, Chan.total, h, hto, Bool.false_eq_true, if_false, and_self]

/-- The source bytes of a granule within one list page. -/
theorem srcPieces_onePage {n : Nat} (hn : c.prog % c.pageLen + n ≤ c.pageLen) :
    c.srcPieces page n = parts (page (c.prog / c.pageLen) + c.prog % c.pageLen) n := by
  have hto : c.toList = false := hlist
  have hmin : min n (c.pageLen - c.prog % c.pageLen) = n := by omega
  simp only [Chan.srcPieces, h, hto, hmin, Bool.false_eq_true, if_false, beq_self_eq_true, if_true, List.append_nil]

/-- The source bytes of a granule that goes over into the next list page. -/
theorem srcPieces_twoPages {n : Nat} (hn : c.pageLen < c.prog % c.pageLen + n) (hoff : c.prog % c.pageLen < c.pageLen) :
    c.srcPieces page n = parts (page (c.prog / c.pageLen) + c.prog % c.pageLen) (c.pageLen - c.prog % c.pageLen)
      ++ parts (page (c.prog / c.pageLen + 1)) (n - (c.pageLen - c.prog % c.pageLen)) := by
  have hto : c.toList = false := hlist
  have hmin : min n (c.pageLen - c.prog % c.pageLen) = c.pageLen - c.prog % c.pageLen := by omega
  have hmore : (c.pageLen - c.prog % c.pageLen == n) = false := beq_eq_false_iff_ne.mpr (by omega)
  simp only [Chan.srcPieces, h, hto, hmin, hmore, Bool.false_eq_true, if_false]

end
end

/-! The data of a granule. -/

/-- The address of a list page that a channel holds (R401). -/
def heldPage (c : Chan) (j : Nat) : Nat := ((c.pages.find? fun e => e.1 == j).map fun e => c.pageAddr e.2.1).getD 0

/-- n bytes of the pattern w from address ea on (R400). -/
def patternBytes (w : Word) (ea n : Nat) : List Byte := (List.range n).map fun i => BitVec.ofNat 8 (w.toNat / 2 ^ (8 * ((ea + i) % 8)))

@[simp] theorem patternBytes_length (w : Word) (ea n : Nat) : (patternBytes w ea n).length = n := by simp [patternBytes]

theorem patternBytes_getD (w : Word) (ea : Nat) {n k : Nat} (hk : k < n) :
    (patternBytes w ea n).getD k 0 = BitVec.ofNat 8 (w.toNat / 256 ^ ((ea + k) % 8)) := by
  have hbyte : (patternBytes w ea n)[k]? = some (BitVec.ofNat 8 (w.toNat / 2 ^ (8 * ((ea + k) % 8)))) := by
    rw [patternBytes, List.getElem?_map, List.getElem?_range hk, Option.map_some]
  rw [List.getD_eq_getElem?_getD, hbyte, Option.getD_some, Nat.pow_mul]

section
variable {s : State} {d t i : Nat} {c : Chan} (hc : (s.tile d t).chan i = c)
include hc

theorem granuleData_fill (h : c.kind = .fill) (page : Nat → Nat) (n : Nat) :
    s.granuleData d t i page n = (s, .ok (patternBytes c.p3 (c.dstAt page) n, false)) := by
  simp only [State.granuleData, hc, h, patternBytes]

theorem granuleData_pieces (h : c.kind = .cpy ∨ c.kind = .twoD ∨ c.kind = .pages) (page : Nat → Nat) (n : Nat) :
    s.granuleData d t i page n = s.readPieces (chanUnit d t i) (c.prog * 8 + 2) (c.srcPieces page n) := by
  rcases h with h | h | h <;> simp only [State.granuleData, hc, h]

/-- List pages that the channel holds are not read again. -/
theorem learnPages_held {l : List Nat} (h : ∀ k ∈ l, c.pages.any (fun e => e.1 == k) = true) : s.learnPages d t i l = (s, .ok ()) := by
  induction l with
  | nil => rfl
  | cons k r ih =>
    simp only [State.learnPages, hc, h k List.mem_cons_self, if_true]
    exact ih fun j hj => h j (List.mem_cons_of_mem k hj)

end

theorem pagesOf_fill {c : Chan} (h : c.kind = .fill) (n : Nat) : c.pagesOf n = [] := by simp only [Chan.pagesOf, h]

/-! A granule performed (R222, R223). -/

@[simp] theorem chan_modChan_self (x : Tile) (i : Nat) (f : Chan → Chan) : (x.modChan i f).chan i = f (x.chan i) := tbl_get_set_self ..

/-- A channel that has performed n bytes, at the offset at_ of its command. -/
def chanMoved (c : Chan) (n at_ : Nat) (pois : Bool) : Chan :=
  let c1 := { c with prog := c.prog + n }
  if pois then { c1 with npois := stick (c.npois + 1) 0xFFFFFFFF, fpois := if c.npois == 0 then at_ else c.fpois } else c1

theorem chanMoved_prog (c : Chan) (n at_ : Nat) (pois : Bool) : (chanMoved c n at_ pois).prog = c.prog + n := by cases pois <;> rfl

theorem chanMoved_state (c : Chan) (n at_ : Nat) (pois : Bool) : (chanMoved c n at_ pois).state = c.state := by cases pois <;> rfl

theorem chanMoved_npois (c : Chan) (n at_ : Nat) (pois : Bool) :
    (chanMoved c n at_ pois).npois = if pois = true then min (c.npois + 1) 0xFFFFFFFF else c.npois := by
  cases pois
  · rfl
  · exact stick_eq_min ..

theorem countPoison_moved (s : State) (d t i n at_ : Nat) (pois : Bool) :
    ((((s.modTile d t fun x => x.modChan i fun c => { c with prog := c.prog + n }).countPoison d t i at_ pois).tile d t).chan i)
      = chanMoved ((s.tile d t).chan i) n at_ pois := by
  cases pois <;> simp [State.countPoison, chanMoved]

theorem countPoison_mem (s : State) (d t i at_ : Nat) (pois : Bool) : (s.countPoison d t i at_ pois).mem = s.mem := by
  cases pois <;> rfl

theorem countPoison_poison (s : State) (d t i at_ : Nat) (pois : Bool) : (s.countPoison d t i at_ pois).poison = s.poison := by
  cases pois <;> rfl

/-- Bytes of a channel's next granule, by the list pages that it holds. -/
def heldGranule (c : Chan) : Nat := c.granule (heldPage c)

/-- Where that granule goes. -/
def heldDst (c : Chan) : Nat := c.dstAt (heldPage c)

/-- Whether that granule is poisoned, by its source bytes or by a list word (R223, R401). -/
def heldPoison (c : Chan) (bad : Bool) : Bool := bad || c.listPoison (heldGranule c)

/-- What follows the write of channel c's granule. -/
def afterWrite (d t i : Nat) (c : Chan) (pois : Bool) : State × URes → State
  | (u, .ok ..) =>
    ((u.modTile d t fun x => x.modChan i fun y => { y with prog := y.prog + heldGranule c }).countPoison d t i c.prog pois).post 3 .ceGranule
      (.tileIdx { die := d, tile := t, i := i })
  | (u, r) => u.chanStop d t i (heldDst c) .write r

section
variable {s v : State} {d t i : Nat} {bs : List Byte} {bad : Bool} {c : Chan} (hc : (s.tile d t).chan i = c)
  (hpages : ∀ k ∈ c.pagesOf 1 ++ c.pagesOf (heldGranule c), c.pages.any (fun e => e.1 == k) = true)
  (hdata : s.granuleData d t i (heldPage c) (heldGranule c) = (v, .ok (bs, bad)))
include hc hpages hdata

/-- A granule whose list pages are held and whose data is there comes to its write. -/
theorem doGranule_eq : s.doGranule d t i = afterWrite d t i c (heldPoison c bad)
    (v.unitWrite (chanUnit d t i) (c.prog * 8 + 7) (heldDst c) bs (heldPoison c bad)) := by
  subst hc
  have hfirst := learnPages_held rfl fun k hk => hpages k (List.mem_append_left _ hk)
  have hall := learnPages_held rfl fun k hk => hpages k (List.mem_append_right _ hk)
  unfold heldGranule heldPage at hall hdata
  simp only [State.doGranule, hfirst, hall, hdata]
  rfl

/-- A refused write is what stops the channel (R223). -/
theorem doGranule_refused {e : Nat} (hcheck : v.check (v.asReq (chanUnit d t i)) (heldDst c) bs.length .write = .refuse e) :
    s.doGranule d t i = v.endCommand d t i .error e := by
  rw [doGranule_eq hc hpages hdata, unitWrite_refused hcheck]
  rfl

/-- What a granule leaves where its bytes may be written: the channel moves on, and the bytes stand at their place, marked where they
are poisoned. -/
theorem doGranule_written {p : Phys} (hcheck : v.check (v.asReq (chanUnit d t i)) (heldDst c) bs.length .write = .ok p) (hp : Uncached p) :
    ((s.doGranule d t i).tile d t).chan i = chanMoved ((v.tile d t).chan i) (heldGranule c) c.prog (heldPoison c bad)
      ∧ (heldPoison c bad = true → p.key / 64 ∈ (s.doGranule d t i).poison)
      ∧ (s.doGranule d t i).mem = v.mem.put p.key bs := by
  obtain ⟨u, hwrite, htiles, hmem, hpoison⟩ := unitWrite_uncached hcheck hp (c.prog * 8 + 7) (heldPoison c bad)
  have htile : u.tile d t = v.tile d t := congrArg (fun x => Tbl.get x (d * 256 + t) Tile.init) htiles
  rw [doGranule_eq hc hpages hdata, hwrite]
  refine ⟨?_, fun hpois => ?_, (countPoison_mem ..).trans hmem⟩
  · exact (countPoison_moved ..).trans (by rw [htile])
  · exact (countPoison_poison ..).symm ▸ hpoison hpois

end

/-! A granule of a fill (R400). -/

section
variable {s : State} {d t i : Nat} {c : Chan} (hc : (s.tile d t).chan i = c) (hkind : c.kind = .fill)
include hkind

theorem heldDst_fill : heldDst c = (c.dst + w64 c.prog).toNat := (geometry_fill (heldPage c) hkind).1

theorem heldGranule_fill : heldGranule c = min (64 - (c.dst + w64 c.prog).toNat % 64) (c.p2.toNat - c.prog) := by
  obtain ⟨hdst, hrun⟩ := geometry_fill (heldPage c) hkind
  rw [heldGranule, Chan.granule, hdst, hrun]

theorem total_fill : c.total = c.p2.toNat := by simp only [Chan.total, hkind]

theorem pagesHeld_fill (n k : Nat) : ∀ j ∈ c.pagesOf n ++ c.pagesOf k, c.pages.any (fun e => e.1 == j) = true := by
  rw [pagesOf_fill hkind, pagesOf_fill hkind]
  exact fun j hj => absurd hj List.not_mem_nil

theorem heldPoison_fill : heldPoison c false = false := by
  simp [heldPoison, Chan.listPoison, pagesOf_fill hkind]

include hc

theorem doGranule_fill_written {p : Phys} (hcheck : s.check (s.asReq (chanUnit d t i)) (heldDst c) (heldGranule c) .write = .ok p)
    (hp : Uncached p) :
    ((s.doGranule d t i).tile d t).chan i = { c with prog := c.prog + heldGranule c }
      ∧ (s.doGranule d t i).mem = s.mem.put p.key (patternBytes c.p3 (heldDst c) (heldGranule c)) := by
  obtain ⟨hchan, -, hmem⟩ := doGranule_written hc (pagesHeld_fill hkind 1 _) (granuleData_fill hc hkind ..)
    (by rw [patternBytes_length]; exact hcheck) hp
  exact ⟨by rw [hchan, hc, heldPoison_fill hkind]; rfl, hmem⟩

theorem doGranule_fill_refused {e : Nat} (hcheck : s.check (s.asReq (chanUnit d t i)) (heldDst c) (heldGranule c) .write = .refuse e) :
    s.doGranule d t i = s.endCommand d t i .error e :=
  doGranule_refused hc (pagesHeld_fill hkind 1 _) (granuleData_fill hc hkind ..) (by rw [patternBytes_length]; exact hcheck)

end

/-! The events of a running channel. -/

section
variable {s : State} {d t i : Nat} (harg : s.arg = .tileIdx { die := d, tile := t, i := i }) {c : Chan} (hc : (s.tile d t).chan i = c)
  (hrun : c.state = .running)
include harg hc hrun

theorem exec_ceGranule_moves (hmore : c.prog < c.total) (hon : s.sys.power.stopped = false) :
    exec .ceGranule s = .next (s.doGranule d t i) := by
  show execCeGranule s = _
  simp only [execCeGranule, harg, hc, hrun, hon, Nat.not_le.mpr hmore, bne_self_eq_false, Bool.false_eq_true, if_false]

theorem exec_ceGranule_ends (hend : c.total ≤ c.prog) : exec .ceGranule s = .next (s.post 1 .ceComplete s.arg) := by
  show execCeGranule s = _
  simp only [execCeGranule, harg, hc, hrun, hend, bne_self_eq_false, Bool.false_eq_true, if_false, if_true]

theorem exec_ceComplete_ends (hend : c.total ≤ c.prog) (hkind : c.kind ≠ .shard) :
    exec .ceComplete s = .next (s.endCommand d t i .idle 0) := by
  show execCeComplete s = _
  simp only [execCeComplete, harg, hc, hrun, Nat.not_lt.mpr hend, beq_false_of_ne hkind, bne_self_eq_false, decide_false, Bool.or_self,
    Bool.false_eq_true, if_false]

end

/-! The end of a command (R66, R157). -/

section
variable (s : State) (d t i : Nat) (st : ChanState) (err : Nat)

/-- A channel at the end of its command. -/
def chanEnded : State := s.modTile d t fun x => x.modChan i fun c => { c with state := st, err := err, pages := [] }

/-- A command's end: its channel and its post, before a record that waited for it goes on. -/
def commandEnded : State :=
  if ((s.tile d t).chan i).pe then (chanEnded s d t i st err).postSignal d t ((s.tile d t).chan i).sg else chanEnded s d t i st err

theorem endCommand_eq : s.endCommand d t i st err = (commandEnded s d t i st err).settle d := rfl

theorem chanEnded_tile :
    (chanEnded s d t i st err).tile d t = (s.tile d t).modChan i fun c => { c with state := st, err := err, pages := [] } :=
  tile_modTile_self ..

theorem commandEnded_mem : (commandEnded s d t i st err).mem = s.mem := by
  unfold commandEnded
  split <;> rfl

theorem commandEnded_chan : ((commandEnded s d t i st err).tile d t).chan i = { (s.tile d t).chan i with state := st, err := err, pages := [] } := by
  have hchan : ((chanEnded s d t i st err).tile d t).chan i = { (s.tile d t).chan i with state := st, err := err, pages := [] } := by
    rw [chanEnded_tile, chan_modChan_self]
  unfold commandEnded State.postSignal
  split
  · rw [tile_modTile_self]
    exact hchan
  · exact hchan

theorem commandEnded_sigs (hsg : ((s.tile d t).chan i).sg < 8) (k : Nat) :
    vget ((commandEnded s d t i st err).tile d t).sigs k 0
      = if ((s.tile d t).chan i).pe = true ∧ k = ((s.tile d t).chan i).sg then vget (s.tile d t).sigs k 0 + 1 else vget (s.tile d t).sigs k 0 := by
  have hsigs : ((chanEnded s d t i st err).tile d t).sigs = (s.tile d t).sigs := by
    rw [chanEnded_tile]
    rfl
  unfold commandEnded State.postSignal
  by_cases hpe : ((s.tile d t).chan i).pe = true
  · rw [if_pos hpe, tile_modTile_self, hsigs]
    by_cases hk : k = ((s.tile d t).chan i).sg
    · rw [if_pos ⟨hpe, hk⟩, hk]
      exact vget_vput_self _ _ _ _ hsg
    · rw [if_neg fun h => hk h.2]
      exact vget_vput_ne _ _ _ (Ne.symm hk)
  · rw [if_neg hpe, if_neg fun h => hpe h.1, hsigs]

end

/-- Settles O32: a granule by what its data and its write come to, where it goes by the command's kind, and the end by the channel's and
the signal's update. -/
theorem copyEventResults : Obligations.CopyEventResults := by
  unfold Obligations.CopyEventResults
  intro s d t i p harg _ c q ea n page da m block at_ row rowAt size j off hrun
  have hpageLen : c.pageLen = size := pageLen_eq c
  have hfillDst (h : c.kind = .fill) : heldDst c = ea := heldDst_fill h
  have hfillLen (h : c.kind = .fill) : heldGranule c = n := heldGranule_fill h
  refine ⟨fun hkind hmore hon hcheck hp => ?_, fun hkind => ?_, fun hkind => ?_, fun hkind hlist => ?_, fun hkind hlist => ?_,
    fun hkind hmore hon hpages v bs bad hread hcheck hp => ?_, fun hkind hmore hon e hcheck => ?_,
    fun hend => exec_ceGranule_ends harg rfl hrun hend, fun hend hkind hsg => ?_⟩
  · -- R400: a granule of a fill.
    have hda := hfillDst hkind
    have hm := hfillLen hkind
    rw [← hda, ← hm] at hcheck
    obtain ⟨hchan, hmem⟩ := doGranule_fill_written rfl hkind hcheck hp
    refine ⟨_, exec_ceGranule_moves harg rfl hrun ((total_fill hkind).symm ▸ hmore) hon, hm ▸ hchan, fun k => ?_⟩
    rw [hmem, byte_put, patternBytes_length, hda, hm]
    split
    · exact patternBytes_getD _ _ (by omega)
    · rfl
  · -- R398: where a copy goes.
    obtain ⟨hdst, hlen, hsrc⟩ := geometry_cpy page hkind m
    exact ⟨hdst, congrArg (min block) hlen, hsrc⟩
  · -- R399: where a two-dimensional copy goes.
    obtain ⟨hdst, hlen, hsrc⟩ := geometry_twoD page hkind m
    exact ⟨hdst, congrArg (min block) hlen, hsrc⟩
  · -- R401: where a page copy goes whose list names the source pages.
    obtain ⟨hdst, hlen⟩ := geometry_fromList page hkind hlist
    have hoff : c.prog % c.pageLen < c.pageLen := Nat.mod_lt _ (pageLen_pos c)
    have hone := srcPieces_onePage page hkind hlist (n := m)
    have htwo := srcPieces_twoPages page hkind hlist (n := m) (hoff := hoff)
    rw [hpageLen] at hlen hone htwo
    exact ⟨hdst, congrArg (min block) hlen, hone, htwo⟩
  · -- R401: where a page copy goes whose list names the destination pages.
    obtain ⟨hdst, hlen, hsrc⟩ := geometry_toList page hkind hlist m
    rw [hpageLen] at hdst hlen
    exact ⟨hdst, congrArg (min block) hlen, hsrc⟩
  · -- R222, R223: a granule of a copy.
    obtain ⟨hchan, hpoison, hmem⟩ := doGranule_written rfl hpages ((granuleData_pieces rfl hkind page m).trans hread) hcheck hp
    refine ⟨_, exec_ceGranule_moves harg rfl hrun hmore hon, ?_, ?_, ?_, fun hpois => ?_, fun k => ?_⟩
    · rw [hchan]
      exact chanMoved_prog ..
    · rw [hchan]
      exact chanMoved_state ..
    · rw [hchan]
      exact chanMoved_npois ..
    · exact List.contains_iff_mem.mpr (hpoison hpois)
    · rw [hmem]
      exact byte_put ..
  · -- R223: a granule of a fill that is refused.
    rw [← hfillDst hkind, ← hfillLen hkind] at hcheck
    have hchan := commandEnded_chan s d t i .error e
    refine ⟨commandEnded s d t i .error e, ?_, commandEnded_mem .., ?_, ?_, ?_⟩
    · rw [exec_ceGranule_moves harg rfl hrun ((total_fill hkind).symm ▸ hmore) hon, doGranule_fill_refused rfl hkind hcheck, endCommand_eq]
    all_goals rw [hchan]
  · -- R66, R157: the end.
    exact ⟨commandEnded s d t i .idle 0, (exec_ceComplete_ends harg rfl hrun hend hkind).trans (congrArg _ (endCommand_eq ..)),
      commandEnded_mem .., commandEnded_chan .., fun k _ => commandEnded_sigs s d t i .idle 0 hsg k⟩

end Sys2Proof.Laws

/-! O28: what the end of a link, a matrix completion and a stream's read-ahead change (07 R153; 09 R209, R217-R220; 11 R256, R264;
17 R376, R383-R388). -/

namespace Sys2Proof.Laws

open Sys2Proof Sys2Proof.Machine

/-! Flags joined and masks made lane by lane. -/

theorem getLsbD_foldl_or {α : Type} {n : Nat} (f : α → BitVec n) (l : List α) (x : BitVec n) (b : Nat) :
    (l.foldl (fun y a => y ||| f a) x).getLsbD b = (x.getLsbD b || l.any fun a => (f a).getLsbD b) := by
  induction l generalizing x with
  | nil => simp
  | cons a r ih => simp [ih, Bool.or_assoc]

/-- The flags that a link adds, bit by bit (R264). -/
theorem getLsbD_pendFl (l : Link) {b : Nat} (hb : b < 7) :
    l.pendFl.getLsbD b = (List.range 64).any fun j => l.opn.getLsbD j && (vget l.fl j 0).getLsbD b := by
  rw [Link.pendFl, ← List.foldl_filter, getLsbD_foldl_or, List.any_filter]
  simp [hb]

/-- A sum of distinct powers of two has the bits that chose them. -/
theorem sum_bits (f : Nat → Bool) (n : Nat) :
    (List.range n).foldl (fun x i => x + b2n (f i) * 2 ^ i) 0 < 2 ^ n
      ∧ ∀ j, j < n → ((List.range n).foldl (fun x i => x + b2n (f i) * 2 ^ i) 0).testBit j = f j := by
  induction n with
  | zero => simp
  | succ n ih =>
    obtain ⟨hlt, hbits⟩ := ih
    rw [List.range_succ, List.foldl_append, List.foldl_cons, List.foldl_nil]
    generalize (List.range n).foldl (fun x i => x + b2n (f i) * 2 ^ i) 0 = x at hlt hbits
    rw [Nat.add_comm, Nat.mul_comm]
    refine ⟨?_, fun j hj => ?_⟩
    · have hbit : 2 ^ n * b2n (f n) ≤ 2 ^ n * 1 := Nat.mul_le_mul_left _ (by cases f n <;> decide)
      rw [Nat.pow_succ]
      omega
    · rw [Nat.testBit_two_pow_mul_add _ hlt]
      split
      · next h => exact hbits j h
      · next h =>
        have hjn : j = n := by omega
        subst hjn
        cases f j <;> simp [b2n]

theorem getLsbD_maskOf (f : Nat → Bool) {j : Nat} (hj : j < 64) : (maskOf f).getLsbD j = f j := by
  rw [maskOf, w64, BitVec.getLsbD_ofNat, (sum_bits f 64).2 j hj, decide_eq_true hj, Bool.true_and]

/-! The oldest link settles (R256, R264). -/

/-- The mask that a link writes: its open lanes by their values. -/
def settledMask (x : Context) (l : Link) : Word :=
  (x.mask l.dst &&& ~~~l.opn) ||| maskOf fun i => l.opn.getLsbD i && vget l.vals i 0 != 0

/-- The registers once a link has written its open lanes, and the residuals of its .x form. -/
def settledRegs (x : Context) (l : Link) : Vector Lanes 24 :=
  let v := vput x.v l.dst (pickLanes l.opn l.vals (vget x.v l.dst .zero))
  if l.two then vput v (l.dst + 1) (pickLanes l.opn2 l.vals2 (vget v (l.dst + 1) .zero)) else v

theorem getLsbD_settledMask (x : Context) (l : Link) {j : Nat} (hj : j < 64) :
    (settledMask x l).getLsbD j = if l.opn.getLsbD j = true then vget l.vals j 0 != 0 else (x.mask l.dst).getLsbD j := by
  rw [settledMask, BitVec.getLsbD_or, BitVec.getLsbD_and, BitVec.getLsbD_not, getLsbD_maskOf _ hj, decide_eq_true hj]
  cases l.opn.getLsbD j <;> simp

/-- A register whose lanes of a mask are taken from others. -/
theorem vget_vput_pickLanes (v : Vector Lanes 24) {r : Nat} (hr : r < 24) (m : Word) (new : Lanes) {k j : Nat} (hk : k < 24) (hj : j < 64)
    (e : Lanes) : vget (vget (vput v r (pickLanes m new (vget v r .zero))) k e) j 0 =
      if k = r ∧ m.getLsbD j = true then vget new j 0 else vget (vget v k e) j 0 := by
  by_cases hkr : k = r
  · subst hkr
    rw [vget_vput_self _ _ _ _ hr, vget_pickLanes _ _ _ _ hj, vget_lt v k _ hk, vget_lt v k _ hk]
    simp only [true_and]
  · rw [vget_vput_ne _ _ _ (Ne.symm hkr), if_neg fun h => hkr h.1]

theorem vget_settledRegs (x : Context) (l : Link) (hdst : l.dst < 23) {k j : Nat} (hk : k < 24) (hj : j < 64) (e : Lanes) :
    vget (vget (settledRegs x l) k e) j 0 =
      if l.opn.getLsbD j = true ∧ k = l.dst then vget l.vals j 0
      else if l.two = true ∧ l.opn2.getLsbD j = true ∧ k = l.dst + 1 then vget l.vals2 j 0
      else vget (vget x.v k e) j 0 := by
  unfold settledRegs
  cases l.two
  · rw [if_neg Bool.false_ne_true, vget_vput_pickLanes _ (by omega) _ _ hk hj]
    simp [and_comm]
  · rw [if_pos rfl, vget_vput_pickLanes _ (by omega) _ _ hk hj, vget_vput_pickLanes _ (by omega) _ _ hk hj]
    by_cases hnext : k = l.dst + 1
    · simp [hnext]
    · simp [hnext, and_comm]

theorem mask_setMask (x : Context) (n : Nat) (v : Word) {k : Nat} (hpos : 1 ≤ k) (hk : k < 8) :
    (x.setMask n v).mask k = if k = n then v else x.mask k := by
  have hk0 : k ≠ 0 := by omega
  unfold Context.setMask
  by_cases hkn : k = n
  · subst hkn
    simp [Context.mask, hk0, hk]
  · rw [if_neg hkn]
    split
    · rfl
    · simp only [Context.mask, hk0, if_false]
      exact vget_vput_ne _ _ _ (Ne.symm hkn)

theorem hart_setMask (x : Context) (n : Nat) (v : Word) : (x.setMask n v).hart = x.hart := by
  unfold Context.setMask
  split <;> rfl

theorem v_setMask (x : Context) (n : Nat) (v : Word) : (x.setMask n v).v = x.v := by
  unfold Context.setMask
  split <;> rfl

section
variable (x : Context) {l : Link} (hpush : l.push = none)
include hpush

theorem settleLink_v : (x.settleLink l).v = if l.toMask = true then x.v else settledRegs x l := by
  unfold Context.settleLink
  rw [hpush]
  cases l.toMask
  · unfold settledRegs
    cases l.two <;> rfl
  · exact v_setMask ..

theorem settleLink_mask (k : Nat) :
    (x.settleLink l).mask k = if l.toMask = true then (x.setMask l.dst (settledMask x l)).mask k else x.mask k := by
  unfold Context.settleLink
  rw [hpush]
  cases l.toMask
  · cases l.two <;> rfl
  · rfl

theorem settleLink_hart : (x.settleLink l).hart =
    { x.hart with fflags := x.hart.fflags ||| l.pendFl, cutcnt := stick (x.hart.cutcnt + l.cuts) 0xFFFFFFFF } := by
  unfold Context.settleLink
  rw [hpush]
  cases l.toMask
  · cases l.two <;> rfl
  · simp only [Option.isSome_none, Bool.false_eq_true, if_false, if_true, hart_setMask]

/-- A lane of a register after the link: its value, its residual, or as it was. -/
theorem settleLink_lane (hdst : l.dst < 23) {k j : Nat} (hk : k < 24) (hj : j < 64) (e : Lanes) :
    vget (vget (x.settleLink l).v k e) j 0 =
      if l.toMask = false ∧ l.opn.getLsbD j = true ∧ k = l.dst then vget l.vals j 0
      else if l.toMask = false ∧ l.two = true ∧ l.opn2.getLsbD j = true ∧ k = l.dst + 1 then vget l.vals2 j 0
      else vget (vget x.v k e) j 0 := by
  rw [settleLink_v x hpush]
  cases l.toMask
  · rw [if_neg Bool.false_ne_true, vget_settledRegs x l hdst hk hj]
    simp only [true_and]
  · simp only [if_true, Bool.true_eq_false, false_and, if_false]

/-- A lane of a mask after the link: the outcome of its comparison, or as it was. -/
theorem settleLink_maskBit {k j : Nat} (hpos : 1 ≤ k) (hk : k < 8) (hj : j < 64) : ((x.settleLink l).mask k).getLsbD j =
    if l.toMask = true ∧ l.opn.getLsbD j = true ∧ k = l.dst then vget l.vals j 0 != 0 else (x.mask k).getLsbD j := by
  rw [settleLink_mask x hpush]
  cases l.toMask
  · simp only [Bool.false_eq_true, false_and, if_false]
  · rw [if_pos rfl, mask_setMask x _ _ hpos hk]
    by_cases hkd : k = l.dst
    · rw [if_pos hkd, getLsbD_settledMask x l hj, hkd]
      simp only [true_and, and_true]
    · simp only [hkd, and_false, if_false]

end

/-- LINK_SETTLE in a region that runs, for a link that pushes no port. -/
theorem exec_linkSettle {s : State} {d t c i : Nat} {l : Link} {r : List Link} (harg : s.arg = .tileIdx { die := d, tile := t, i := c })
    (hregion : s.regionAt d t = some i) (hruns : (s.slot d i).state = .armed ∨ (s.slot d i).state = .draining)
    (hlinks : (s.ctx d t c).links = l :: r) (hpush : l.push = none) :
    exec .linkSettle s = .next (s.modCtx d t c fun x => x.settleLink l) := by
  have hon : ((s.slot d i).state == .armed || (s.slot d i).state == .draining) = true := by
    rcases hruns with h | h <;> rw [h] <;> rfl
  show execLinkSettle s = _
  simp only [execLinkSettle, harg, hregion, hon, hlinks, State.settleOldest, hpush, Bool.not_true, Bool.false_eq_true, if_false, if_true]

/-! Accumulator rows that an instruction changes (R201, R217). -/

/-- One row changed, and its flags added. -/
def rowStep (d t n : Nat) (f : Nat → AccRow → AccRow × Fl) (x : State × Fl) (k : Nat) : State × Fl :=
  (x.1.modTile d t fun y => y.modRow n k fun _ => (f k ((x.1.tile d t).accRow n k)).1, x.2 ||| (f k ((x.1.tile d t).accRow n k)).2)

section
variable (d t n : Nat) (f : Nat → AccRow → AccRow × Fl)

/-- Rows of an accumulator lie below 64, so a place of the table is one row of one accumulator. -/
theorem accRow_rowStep (x : State × Fl) {k : Nat} (hk : k < 64) (c : Nat) {j : Nat} (hj : j < 64) :
    ((rowStep d t n f x k).1.tile d t).accRow c j =
      if c = n ∧ j = k then (f k ((x.1.tile d t).accRow n k)).1 else (x.1.tile d t).accRow c j := by
  have hplace : c * 64 + j = n * 64 + k ↔ c = n ∧ j = k := by omega
  simp only [rowStep, tile_modTile_self, Tile.modRow, Tile.accRow, tbl_get_set, hplace]

theorem foldl_rowStep_mem (rows : List Nat) (x : State × Fl) : (rows.foldl (rowStep d t n f) x).1.mem = x.1.mem := by
  induction rows generalizing x with
  | nil => rfl
  | cons k r ih => exact ih _

/-- Changes of rows leave the rest of the tile. -/
theorem foldl_rowStep_keeps {α : Type} (view : Tile → α) (hview : ∀ (y : Tile) acc, view { y with acc := acc } = view y) (rows : List Nat)
    (x : State × Fl) : view ((rows.foldl (rowStep d t n f) x).1.tile d t) = view (x.1.tile d t) := by
  induction rows generalizing x with
  | nil => rfl
  | cons k r ih =>
    rw [List.foldl_cons, ih, rowStep, tile_modTile_self]
    exact hview ..

variable {rows : List Nat} (hnodup : rows.Nodup) (h64 : ∀ k ∈ rows, k < 64)
include hnodup h64

theorem foldl_rowStep_accRow (x : State × Fl) (c : Nat) {j : Nat} (hj : j < 64) :
    ((rows.foldl (rowStep d t n f) x).1.tile d t).accRow c j =
      if c = n ∧ j ∈ rows then (f j ((x.1.tile d t).accRow n j)).1 else (x.1.tile d t).accRow c j := by
  induction rows generalizing x with
  | nil => simp
  | cons k r ih =>
    obtain ⟨hk, hr⟩ := List.nodup_cons.mp hnodup
    have hstep := fun c => accRow_rowStep d t n f x (h64 k List.mem_cons_self) c hj
    rw [List.foldl_cons, ih hr fun i hi => h64 i (List.mem_cons_of_mem k hi), hstep, hstep]
    by_cases hjk : j = k
    · subst hjk
      simp [hk]
    · simp [hjk]

theorem foldl_rowStep_flags (x : State × Fl) (b : Nat) :
    (rows.foldl (rowStep d t n f) x).2.getLsbD b =
      (x.2.getLsbD b || rows.any fun k => (f k ((x.1.tile d t).accRow n k)).2.getLsbD b) := by
  induction rows generalizing x with
  | nil => simp
  | cons k r ih =>
    obtain ⟨hk, hr⟩ := List.nodup_cons.mp hnodup
    have hlater : (r.any fun j => (f j (((rowStep d t n f x k).1.tile d t).accRow n j)).2.getLsbD b)
        = r.any fun j => (f j ((x.1.tile d t).accRow n j)).2.getLsbD b := by
      rw [Bool.eq_iff_iff, List.any_eq_true, List.any_eq_true]
      refine exists_congr fun j => and_congr_right fun hj => ?_
      have hjk : j ≠ k := fun h => hk (h ▸ hj)
      rw [accRow_rowStep d t n f x (h64 k List.mem_cons_self) n (h64 j (List.mem_cons_of_mem k hj)), if_neg fun h => hjk h.2]
    rw [List.foldl_cons, ih hr fun i hi => h64 i (List.mem_cons_of_mem k hi), hlater, List.any_cons, rowStep, BitVec.getLsbD_or,
      Bool.or_assoc]

/-- What an instruction on rows of an accumulator gives: each row that it takes and its flags come from that row as it stood. -/
theorem modRows_accRow (s : State) (c : Nat) {j : Nat} (hj : j < 64) : ((s.modRows d t n rows f).1.tile d t).accRow c j =
    if c = n ∧ j ∈ rows then (f j ((s.tile d t).accRow n j)).1 else (s.tile d t).accRow c j :=
  foldl_rowStep_accRow d t n f hnodup h64 (s, 0) c hj

theorem modRows_flags (s : State) (b : Nat) :
    (s.modRows d t n rows f).2.getLsbD b = rows.any fun k => (f k ((s.tile d t).accRow n k)).2.getLsbD b := by
  refine (foldl_rowStep_flags d t n f hnodup h64 (s, 0) b).trans ?_
  simp

end

/-! MATRIX_COMPLETE (R220, R376). -/

section
variable {s : State} {d t : Nat} {m : MatOp} {r : List MatOp} (harg : s.arg = .tileRef { die := d, tile := t })
  (hmq : (s.tile d t).mq = m :: r)
include harg hmq

theorem exec_matrixComplete_done {u : State} {fl : Fl} (hwork : s.matrixWork d t m = (u, fl, none)) :
    exec .matrixComplete s = .next ((u.modTile d t fun x => { x with mq := r }).matrixDone d t m fl) := by
  show execMatrixComplete s = _
  simp only [execMatrixComplete, harg, State.matrixStep, hmq, hwork, if_true]

theorem exec_matrixComplete_waits {u : State} {fl : Fl} {k : Nat} (hwork : s.matrixWork d t m = (u, fl, some k)) :
    exec .matrixComplete s = .next ((u.modTile d t fun x =>
      { x with mq := { m with push := m.push.map fun p => { p with skip := k } } :: r }).post 100 .matrixComplete s.arg) := by
  show execMatrixComplete s = _
  simp only [execMatrixComplete, harg, State.matrixStep, hmq, hwork, Bool.false_eq_true, if_false]

end

/-- The flags of a completed instruction added where the invocation that issued it still runs (R220). -/
def flagsGiven (s : State) (d t : Nat) (m : MatOp) (fl : Fl) : State :=
  if (s.ctx d t m.c).live && (s.ctx d t m.c).inv == m.inv then
    s.modCtx d t m.c fun x => { x with hart := { x.hart with fflags := x.hart.fflags ||| fl } } else s

theorem flagsGiven_mem (s : State) (d t : Nat) (m : MatOp) (fl : Fl) : (flagsGiven s d t m fl).mem = s.mem := by
  unfold flagsGiven
  split <;> rfl

theorem flagsGiven_keeps {α : Type} (view : Tile → α) (hview : ∀ (y : Tile) ctxs, view { y with ctxs := ctxs } = view y) (s : State)
    (d t : Nat) (m : MatOp) (fl : Fl) : view ((flagsGiven s d t m fl).tile d t) = view (s.tile d t) := by
  unfold flagsGiven
  split
  · rw [State.modCtx, tile_modTile_self]
    exact hview ..
  · rfl

theorem flagsGiven_fflags (s : State) (d t : Nat) (m : MatOp) (fl : Fl) (b : Nat) :
    ((flagsGiven s d t m fl).ctx d t m.c).hart.fflags.getLsbD b = ((s.ctx d t m.c).hart.fflags.getLsbD b
      || ((s.ctx d t m.c).live && (s.ctx d t m.c).inv == m.inv && fl.getLsbD b)) := by
  unfold flagsGiven
  split
  · next h => rw [ctx_modCtx_self, BitVec.getLsbD_or, h, Bool.true_and]
  · next h => rw [Bool.eq_false_iff.mpr h, Bool.false_and, Bool.or_false]

/-- The signal that a completion posts (R388). -/
def postedSignal (m : MatOp) : Option Nat := if m.kind = .wait then some (m.o.sa.toNat % 8) else none

/-- The signal counts of a tile after the one given is posted. -/
def sigsPosted (v : Vector Lane 8) (sig : Option Nat) : Vector Lane 8 := sig.elim v fun k => vput v k (vget v k 0 + 1)

theorem vget_sigsPosted (v : Vector Lane 8) (sig : Option Nat) {k : Nat} (hk : k < 8) :
    vget (sigsPosted v sig) k 0 = vget v k 0 + if sig = some k then 1 else 0 := by
  cases sig with
  | none => simp [sigsPosted]
  | some i =>
    by_cases hik : i = k
    · subst hik
      rw [if_pos rfl]
      exact vget_vput_self _ _ _ _ hk
    · rw [if_neg fun h => hik (Option.some.inj h), sigsPosted, Option.elim, vget_vput_ne _ _ _ hik]
      simp

/-- The completion of an instruction that pushes nothing: its flags, and the signal of an MWAIT. -/
theorem matrixDone_eq (s : State) (d t : Nat) {m : MatOp} (fl : Fl) (hpush : m.kind ≠ .push) :
    s.matrixDone d t m fl = flagsGiven s d t m fl ∧ postedSignal m = none
      ∨ s.matrixDone d t m fl = (flagsGiven s d t m fl).modTile d t fun x => { x with sigs := sigsPosted x.sigs (postedSignal m) } := by
  unfold postedSignal
  cases hkind : m.kind
  case push => exact absurd hkind hpush
  case wait =>
    right
    unfold State.matrixDone
    rw [hkind]
    rfl
  all_goals
    left
    unfold State.matrixDone
    rw [hkind]
    exact ⟨rfl, rfl⟩

/-- What that leaves of the state and of the tile, and the flags it adds. -/
theorem matrixDone_keeps (s : State) (d t : Nat) {m : MatOp} (fl : Fl) (hpush : m.kind ≠ .push) :
    (s.matrixDone d t m fl).mem = s.mem ∧ ((s.matrixDone d t m fl).tile d t).mq = (s.tile d t).mq
      ∧ ((s.matrixDone d t m fl).tile d t).acc = (s.tile d t).acc
      ∧ ((s.matrixDone d t m fl).tile d t).sigs = sigsPosted (s.tile d t).sigs (postedSignal m)
      ∧ ∀ b, ((s.matrixDone d t m fl).ctx d t m.c).hart.fflags.getLsbD b = ((s.ctx d t m.c).hart.fflags.getLsbD b
        || ((s.ctx d t m.c).live && (s.ctx d t m.c).inv == m.inv && fl.getLsbD b)) := by
  have hmq := flagsGiven_keeps Tile.mq (fun _ _ => rfl) s d t m fl
  have hacc := flagsGiven_keeps Tile.acc (fun _ _ => rfl) s d t m fl
  have hsigs := flagsGiven_keeps Tile.sigs (fun _ _ => rfl) s d t m fl
  have hflags := flagsGiven_fflags s d t m fl
  rcases matrixDone_eq s d t fl hpush with ⟨hdone, hnone⟩ | hdone
  · rw [hdone, hnone]
    exact ⟨flagsGiven_mem .., hmq, hacc, hsigs, hflags⟩
  · rw [hdone, State.ctx, tile_modTile_self, ← hsigs]
    exact ⟨flagsGiven_mem .., hmq, hacc, rfl, hflags⟩

/-- What MATRIX_COMPLETE leaves where the head m of a tile's queue takes some rows of its accumulator, gives each its value and its
flags, and posts a signal: the statement's own words (R220, R376, R388). -/
def MatrixEnds (s : State) (d t : Nat) (m : MatOp) (r : List MatOp) (take : Nat → Bool) (f : Nat → AccRow × Fl) (sig : Option Nat) : Prop :=
  ∃ u, exec .matrixComplete s = .next u
    ∧ (u.tile d t).mq = r ∧ u.mem = s.mem
    ∧ (∀ c k, k < 64 → (u.tile d t).accRow c k = if c = m.o.acc.toNat ∧ take k then (f k).1 else (s.tile d t).accRow c k)
    ∧ (∀ b, b < 7 → (u.ctx d t m.c).hart.fflags.getLsbD b = ((s.ctx d t m.c).hart.fflags.getLsbD b
        || ((s.ctx d t m.c).live && ((s.ctx d t m.c).inv == m.inv) && (List.range 64).any fun k => take k && (f k).2.getLsbD b)))
    ∧ ∀ k, k < 8 → vget (u.tile d t).sigs k 0 = vget (s.tile d t).sigs k 0 + if sig = some k then 1 else 0

/-- Rows below 64 are among the 64. -/
theorem any_range64 {rows : List Nat} (h64 : ∀ k ∈ rows, k < 64) (p : Nat → Bool) :
    (rows.any p) = (List.range 64).any fun k => decide (k ∈ rows) && p k := by
  rw [Bool.eq_iff_iff, List.any_eq_true, List.any_eq_true]
  simp only [List.mem_range, Bool.and_eq_true, decide_eq_true_eq]
  exact exists_congr fun k => ⟨fun ⟨hk, hp⟩ => ⟨h64 k hk, hk, hp⟩, fun ⟨_, hk, hp⟩ => ⟨hk, hp⟩⟩

/-- The work of an instruction that changes rows of its accumulator and waits for nothing. -/
def rowsWork (s : State) (d t : Nat) (m : MatOp) (rows : List Nat) (f : Nat → AccRow → AccRow × Fl) : State × Fl × Option Nat :=
  ((s.modRows d t m.o.acc.toNat rows f).1, (s.modRows d t m.o.acc.toNat rows f).2, none)

/-- A completion whose work is on rows of the instruction's accumulator. -/
theorem matrixEnds_of_rows {s : State} {d t : Nat} {m : MatOp} {r : List MatOp} (harg : s.arg = .tileRef { die := d, tile := t })
    (hmq : (s.tile d t).mq = m :: r) (hpush : m.kind ≠ .push) {rows : List Nat} (hnodup : rows.Nodup) (h64 : ∀ k ∈ rows, k < 64)
    {f : Nat → AccRow → AccRow × Fl} (hwork : s.matrixWork d t m = rowsWork s d t m rows f) :
    MatrixEnds s d t m r (fun k => decide (k ∈ rows)) (fun k => f k ((s.tile d t).accRow m.o.acc.toNat k)) (postedSignal m) := by
  unfold rowsWork at hwork
  have hmem : (s.modRows d t m.o.acc.toNat rows f).1.mem = s.mem := foldl_rowStep_mem ..
  have hsigs : ((s.modRows d t m.o.acc.toNat rows f).1.tile d t).sigs = (s.tile d t).sigs :=
    foldl_rowStep_keeps d t _ f Tile.sigs (fun _ _ => rfl) rows (s, 0)
  have hctx : (s.modRows d t m.o.acc.toNat rows f).1.ctx d t m.c = s.ctx d t m.c :=
    foldl_rowStep_keeps d t _ f (fun y => y.ctx m.c) (fun _ _ => rfl) rows (s, 0)
  have hacc := @modRows_accRow d t m.o.acc.toNat f rows hnodup h64 s
  have hflags := modRows_flags d t m.o.acc.toNat f hnodup h64 s
  generalize s.modRows d t m.o.acc.toNat rows f = x at *
  have htile : (x.1.modTile d t fun y => { y with mq := r }).tile d t = { x.1.tile d t with mq := r } := tile_modTile_self ..
  obtain ⟨hdoneMem, hdoneMq, hdoneAcc, hdoneSigs, hdoneFlags⟩ :=
    matrixDone_keeps (x.1.modTile d t fun y => { y with mq := r }) d t x.2 hpush
  rw [htile] at hdoneMq hdoneAcc hdoneSigs
  have hqueue : (x.1.modTile d t fun y => { y with mq := r }).ctx d t m.c = s.ctx d t m.c := (congrArg (Tile.ctx · m.c) htile).trans hctx
  refine ⟨_, exec_matrixComplete_done harg hmq hwork, hdoneMq, hdoneMem.trans hmem, fun c k hk => ?_, fun b _ => ?_, fun k hk => ?_⟩
  · rw [Tile.accRow, hdoneAcc]
    simp only [decide_eq_true_eq]
    exact hacc c hk
  · rw [hdoneFlags, hqueue, hflags, any_range64 h64]
  · rw [hdoneSigs, vget_sigsPosted _ _ hk, hsigs]

/-! The work of each kind of instruction (R382, R383, R386-R388). -/

theorem mem_takenRows (o : MFmt) (a : Word) (k : Nat) :
    decide (k ∈ takenRows o a) = (decide (k < o.rows.toNat) && a.getLsbD k) := by
  simp [takenRows]

theorem takenRows_nodup (o : MFmt) (a : Word) : (takenRows o a).Nodup := List.nodup_range.filter _

theorem takenRows_lt {o : MFmt} (h : o.rows.toNat ≤ 64) (a : Word) : ∀ k ∈ takenRows o a, k < 64 := fun _ hk =>
  Nat.lt_of_lt_of_le (List.mem_range.mp (List.mem_filter.mp hk).1) h

theorem vget_map {α β : Type} {n : Nat} (v : Vector α n) (g : α → β) {i : Nat} (h : i < n) (a : α) (b : β) :
    vget (v.map g) i b = g (vget v i a) := by
  rw [vget_lt _ _ _ h, vget_lt _ _ _ h, Vector.getElem_map]

/-- Scratch as the matrix unit reads it where no array has stuck bits and power is on (R22, R453). -/
theorem scratchAt_bytes {s : State} (hstuck : s.stuck = []) (hon : s.sys.power.stopped = false) (d t off n : Nat) :
    (s.scratchAt [] d t off n).1 = leVal (s.mem.bytes (scratchKey d t off) n) := by
  have hhome := home_uncached (p := { key := scratchKey d t off, mt := 3 }) (.inr rfl) s
  simp only [State.scratchAt, State.rdFor, State.rd, State.lost, hhome, hstuck, hon, List.find?_nil, Option.isNone_none, List.all_eq_true,
    implies_true, if_true, List.isEmpty_nil, Bool.not_true, Bool.and_false, Bool.false_and, Bool.false_eq_true, if_false]

theorem vget_loadRow {s : State} (hstuck : s.stuck = []) (hon : s.sys.power.stopped = false) (d t off : Nat) {c : Nat} (hc : c < 128) :
    vget (s.loadRow d t off).cells c 0 = BitVec.ofNat 32 (leVal (s.mem.bytes (scratchKey d t (off + 4 * c)) 4)) := by
  rw [State.loadRow, vget_lt _ _ _ hc, Vector.getElem_ofFn, scratchAt_bytes hstuck hon]

theorem vget_scaleRow (f : Lane) (row : AccRow) {c : Nat} (hc : c < 128) :
    vget (scaleRow f row).1.cells c 0 = ((mulE (laneVal (vget row.cells c 0)) (laneVal f)).lane 0).1 := by
  unfold scaleRow
  rw [vget_map _ _ hc (0, 0), vget_map _ _ hc 0]

section
variable (s : State) (d t : Nat) {m : MatOp}

theorem matrixWork_zero (h : m.kind = .zero) :
    s.matrixWork d t m = rowsWork s d t m (takenRows m.o m.mask) fun _ _ => (.init, 0) := by
  unfold State.matrixWork
  rw [h]
  rfl

/-- Row k after a multiplication that starts from the row given (R219, R377-R382). -/
def rowSum (s : State) (d t : Nat) (m : MatOp) (k : Nat) (start : AccRow) : AccRow × Fl :=
  mmaRow (chunkLen m.o) m.o.kc.toNat ((s.operandLines m.own d t m.a (opA m.o)).toArray.getD k [])
    (s.columnsOf m.own d t m.b.y m.o (s.operandLines m.own d t m.b (opB m.o))).toArray start

theorem matrixWork_mma {set : Bool} (h : m.kind = .mma set) :
    s.matrixWork d t m = rowsWork s d t m (List.range m.o.rows.toNat) fun k row => rowSum s d t m k (if set then .init else row) := by
  unfold State.matrixWork
  rw [h]
  rfl

theorem matrixWork_load (h : m.kind = .load) : s.matrixWork d t m =
    rowsWork s d t m (List.range m.o.rows.toNat) fun k _ => (s.loadRow d t (m.a.x.toNat % 2 ^ 19 + 512 * k), 0) := by
  unfold State.matrixWork
  rw [h]
  rfl

theorem matrixWork_scale (h : m.kind = .scale) :
    s.matrixWork d t m = rowsWork s d t m (takenRows m.o m.mask) fun k row => scaleRow (vget m.f k 0) row := by
  unfold State.matrixWork
  rw [h]
  rfl

theorem matrixWork_wait (h : m.kind = .wait) : s.matrixWork d t m = rowsWork s d t m [] fun _ _ => (.init, 0) := by
  unfold State.matrixWork
  rw [h]
  rfl

end

section
variable {s : State} {d t : Nat} {m : MatOp} {r : List MatOp} (harg : s.arg = .tileRef { die := d, tile := t })
  (hmq : (s.tile d t).mq = m :: r) (hrows : m.o.rows.toNat ≤ 64)
include harg hmq hrows

/-- An instruction on the rows of its guard. -/
theorem matrixEnds_taken {kind : MatKind} (hkind : m.kind = kind) (hpush : kind ≠ .push) (hwait : kind ≠ .wait)
    {f : Nat → AccRow → AccRow × Fl} (hwork : s.matrixWork d t m = rowsWork s d t m (takenRows m.o m.mask) f) :
    MatrixEnds s d t m r (fun k => decide (k < m.o.rows.toNat) && m.mask.getLsbD k)
      (fun k => f k ((s.tile d t).accRow m.o.acc.toNat k)) none := by
  subst hkind
  have h := matrixEnds_of_rows harg hmq hpush (takenRows_nodup ..) (takenRows_lt hrows _) hwork
  simpa only [mem_takenRows, postedSignal, hwait, if_false] using h

/-- An instruction on all of its rows. -/
theorem matrixEnds_all {kind : MatKind} (hkind : m.kind = kind) (hpush : kind ≠ .push) (hwait : kind ≠ .wait)
    {f : Nat → AccRow → AccRow × Fl} (hwork : s.matrixWork d t m = rowsWork s d t m (List.range m.o.rows.toNat) f) :
    MatrixEnds s d t m r (fun k => decide (k < m.o.rows.toNat))
      (fun k => f k ((s.tile d t).accRow m.o.acc.toNat k)) none := by
  subst hkind
  have h := matrixEnds_of_rows harg hmq hpush List.nodup_range (fun k hk => Nat.lt_of_lt_of_le (List.mem_range.mp hk) hrows) hwork
  simpa only [List.mem_range, postedSignal, hwait, if_false] using h

end

/-! MRDQ performed (R385). -/

/-- The elements that an MRDQ pushes to p. -/
def queuedElems (s : State) (d t : Nat) (m : MatOp) (p : PushTo) : List PushElem :=
  rowsElems p.typ m.rnd m.mask m.o.rows.toNat fun j => (s.tile d t).accRow m.o.acc.toNat ((m.b.x.toNat + j) % 64)

theorem matrixWork_push (s : State) (d t : Nat) {m : MatOp} {p : PushTo} (hkind : m.kind = .push) (hpush : m.push = some p)
    (hkb : p.kb = false) : s.matrixWork d t m =
      ((s.latePush d t m.c p (queuedElems s d t m p)).1,
        ((inLength p.stream.len p.pos (queuedElems s d t m p)).map fun x => x.fl).foldl (fun f x => f ||| x) 0,
        (s.latePush d t m.c p (queuedElems s d t m p)).2) := by
  unfold State.matrixWork
  rw [hkind, hpush, List.foldl_map]
  simp only [State.pushRows, hkb, Bool.false_and, Bool.false_eq_true, if_false]
  rfl

/-! A stream reads ahead (R153, R209). -/

theorem withhold_tile (s : State) (u : UnitRef) (va : Nat) (a : Acc) (lv c : Nat) (pos : Option Nat) (d t : Nat) :
    (s.withhold u va a lv c pos).tile d t = s.tile d t := by
  unfold State.withhold
  split <;> rfl

/-- A unit withholds from then on, if it did not before (R124). -/
theorem withhold_records (s : State) (u : UnitRef) (va : Nat) (a : Acc) (lv c : Nat) (pos : Option Nat) :
    ((s.withhold u va a lv c pos).withheld.any fun w => w.u == u) = true := by
  unfold State.withhold
  split
  · assumption
  · simp

/-- The conditions under which a read stream reads an element ahead of the pops (R209). -/
structure ReadsAhead (s : State) (d t e : Nat) : Prop where
  issues : s.tileIssues d t = true
  wellFormed : ((s.tile d t).ape e).bad = false
  reads : ((s.tile d t).ape e).dir = false
  notFed : ((s.tile d t).ape e).fedBit = false
  runs : ((s.tile d t).ape e).fin = false
  holdsNot : ((s.tile d t).ape e).wh = false
  free : ((s.tile d t).ape e).holder = none
  room : ((s.tile d t).ape e).ahead.length < 256
  more : ((s.tile d t).ape e).pos + ((s.tile d t).ape e).ahead.length < ((s.tile d t).ape e).len

section
variable {s : State} {d t e : Nat} (harg : s.arg = .tileIdx { die := d, tile := t, i := e }) (hreads : ReadsAhead s d t e) {s1 : State}
include hreads

/-- APE_ELEMENT passes over no stream that meets them. -/
theorem ReadsAhead.not_passed : (!s.tileIssues d t || ((s.tile d t).ape e).bad || ((s.tile d t).ape e).dir || ((s.tile d t).ape e).fedBit
    || ((s.tile d t).ape e).fin || ((s.tile d t).ape e).wh || ((s.tile d t).ape e).holder.isSome
    || decide (256 ≤ ((s.tile d t).ape e).ahead.length)
    || decide (((s.tile d t).ape e).len ≤ ((s.tile d t).ape e).pos + ((s.tile d t).ape e).ahead.length)) = false := by
  rw [hreads.issues, hreads.wellFormed, hreads.reads, hreads.notFed, hreads.runs, hreads.holdsNot, hreads.free,
    decide_eq_false (Nat.not_le.mpr hreads.room), decide_eq_false (Nat.not_le.mpr hreads.more)]
  rfl

include harg

theorem exec_apeElement_elem {x : Elem}
    (hnext : s.nextElem d t e (((s.tile d t).ape e).pos + ((s.tile d t).ape e).ahead.length) = (s1, .elem x)) :
    exec .apeElement s = .next
      ((s1.modTile d t fun y => y.modApe e fun b => { b with ahead := b.ahead ++ [x] }).post 2 .apeElement s.arg) := by
  show execApeElement s = _
  simp only [execApeElement, harg, hreads.not_passed, hnext, Bool.false_eq_true, if_false]

theorem exec_apeElement_withheld {va lv c : Nat}
    (hnext : s.nextElem d t e (((s.tile d t).ape e).pos + ((s.tile d t).ape e).ahead.length) = (s1, .withheld va lv c)) :
    exec .apeElement s = .next ((s1.modTile d t fun y => y.modApe e fun b => { b with wh := true }).withhold (apeUnit d t e).u va .read lv c
      (some (((s.tile d t).ape e).pos + ((s.tile d t).ape e).ahead.length))) := by
  show execApeElement s = _
  simp only [execApeElement, harg, hreads.not_passed, hnext, Bool.false_eq_true, if_false]

end

/-- Settles O28: the link's end by what it writes of the context, a completion by the rows that its work changes, a push and a read-ahead
by the equation of their meaning. -/
theorem tileEventResults : Obligations.TileEventResults := by
  unfold Obligations.TileEventResults
  refine ⟨?_, ?_, ?_, ?_⟩
  · -- R256, R264: the oldest link settles.
    intro s d t c i l r harg hregion hruns hlinks hpush hdst x
    refine ⟨_, exec_linkSettle harg hregion hruns hlinks hpush, ?_, modCtx_mem .., ?_⟩
    all_goals rw [ctx_modCtx_self]
    · exact congrArg (List.drop 1) hlinks
    · rw [settleLink_hart _ hpush]
      refine ⟨rfl, rfl, fun k hk j hj => settleLink_lane _ hpush hdst hk hj _, fun k hpos hk j hj => settleLink_maskBit _ hpush hpos hk hj,
        fun b hb => ?_⟩
      rw [BitVec.getLsbD_or, getLsbD_pendFl l hb]
  · -- R376: a completion of an instruction on rows, or of an MWAIT.
    intro s d t m r harg hmq hrows x n row rows taken all ends lines cols sum
    have htaken {k : MatKind} (hkind : m.kind = k) := matrixEnds_taken harg hmq hrows hkind
    have hall {k : MatKind} (hkind : m.kind = k) := matrixEnds_all harg hmq hrows hkind
    refine ⟨fun hkind => ?_, fun hkind => ?_, fun hkind => ?_,
      fun hkind => ⟨fun k => s.loadRow d t (m.a.x.toNat % 2 ^ 19 + 512 * k), ?_, fun hstuck hon k c hc => ?_⟩,
      fun hkind => ⟨fun k => scaleRow (vget m.f k 0) (row k), ?_, fun k => ⟨?_, fun c hc => ?_⟩⟩, fun hkind => ?_⟩
    · exact (htaken hkind nofun nofun (matrixWork_zero s d t hkind) :)
    · exact (hall hkind nofun nofun (matrixWork_mma s d t hkind) :)
    · exact (hall hkind nofun nofun (matrixWork_mma s d t hkind) :)
    · exact (hall hkind nofun nofun (matrixWork_load s d t hkind) :)
    · exact vget_loadRow hstuck hon d t _ hc
    · exact (htaken hkind nofun nofun (matrixWork_scale s d t hkind) :)
    · rfl
    · exact vget_scaleRow _ _ hc
    · have h := matrixEnds_of_rows harg hmq (by rw [hkind]; exact nofun) List.nodup_nil (by simp) (matrixWork_wait s d t hkind)
      simp only [postedSignal, hkind, if_true, List.not_mem_nil, decide_false] at h
      exact h
  · -- R385: an MRDQ performed.
    intro s d t m r p harg hmq hkind hpush hkb els
    have hwork := matrixWork_push s d t hkind hpush hkb
    refine ⟨fun u hlate => ?_, fun u k hlate => ?_⟩
    · exact exec_matrixComplete_done harg hmq (hwork.trans (by rw [queuedElems, hlate]))
    · rw [exec_matrixComplete_waits harg hmq (hwork.trans (by rw [queuedElems, hlate])), hpush]
      rfl
  · -- R153, R209: a stream reads ahead.
    intro s d t e harg hissues a n hbad hdir hfed hfin hwh hholder hroom hmore
    have hreads : ReadsAhead s d t e := ⟨hissues, hbad, hdir, hfed, hfin, hwh, hholder, hroom, hmore⟩
    refine ⟨fun s1 x hnext => ⟨_, exec_apeElement_elem harg hreads hnext, rfl, ?_, ?_⟩,
      fun s1 va lv c hnext => ⟨_, exec_apeElement_withheld harg hreads hnext, ?_, withhold_records ..⟩⟩
    · rw [tile_post, tile_modTile_self, ape_modApe_self]
    · rw [tile_post, tile_modTile_self, ape_modApe_self]
    · rw [withhold_tile, tile_modTile_self, ape_modApe_self]

end Sys2Proof.Laws

/-! O43, O44: TRAP, BKPT and ERET (11 R267, R271, R272; 12 R276-R281, R286; 18 R427). -/

namespace Sys2Proof.Laws

open Sys2Proof Sys2Proof.Machine Sys2Proof.Safety

/-! The executing agent by what it is. -/

section
variable {s : State}

theorem hart_core {n : Nat} (h : s.cur = .core n) : s.hart = (s.core n).hart := by
  rw [State.hart, h]
  rfl

theorem me_ctx {d k c : Nat} (h : s.cur = .ctx d k c) : s.me = s.ctx d k c := by
  simp only [State.me, State.die, State.tix, State.cix, h]

theorem hart_ctx {d k c : Nat} (h : s.cur = .ctx d k c) : s.hart = (s.ctx d k c).hart := by
  rw [State.hart, h]
  rfl

theorem onCore_ctx {d k c : Nat} (h : s.cur = .ctx d k c) : s.onCore = false := by
  simp only [State.onCore, h]

end

/-! A save-area write leaves the tiles and the executing agent as they are (R280, R286). -/

/-- The agent that executes, and the tiles with their contexts. -/
def agents (s : State) : Agent × Tbl Tile := (s.cur, s.tiles)

theorem cur_of_agents {s t : State} (h : agents t = agents s) : t.cur = s.cur := congrArg Prod.fst h

theorem tile_of_agents {s t : State} (h : agents t = agents s) (d k : Nat) : t.tile d k = s.tile d k :=
  congrArg (fun a => a.2.get (d * 256 + k) .init) h

theorem ctx_of_agents {s t : State} (h : agents t = agents s) (d k c : Nat) : t.ctx d k c = s.ctx d k c :=
  congrArg (·.ctx c) (tile_of_agents h d k)

theorem agents_prepWrite (s : State) (p : Phys) : agents (s.prepWrite p) = agents s := by
  unfold State.prepWrite
  split
  · split
    · rfl
    · split <;> rfl
  · rfl

theorem agents_wr (s : State) (p : Phys) (bs : List Byte) : agents (s.wr p bs) = agents s := by
  unfold State.wr
  dsimp only
  rw [apply_ite agents, tailHits_keeps agents fun _ _ _ _ => rfl, ite_self, apply_ite agents]
  exact (ite_self _).trans (agents_prepWrite s p)

theorem agents_areaWriteSome (s : State) (d i va : Nat) (bs : List Byte) : agents (s.areaWriteSome d i va bs).1 = agents s := by
  refine foldl_keeps agents (fun t e => ?_) _ s
  split
  · exact agents_wr ..
  · rfl

/-! The trap registers (R276, R277), and the record of a freeze (R286). -/

/-- TRAP's code is SWTRAP, BKPT's is BKPT (R275). -/
def SoftTrap (code : Nat) : Prop := code = 10 ∨ code = 11

/-- The registers h of an agent hold what a trap of its instruction saves: the instruction's address, the cause and the value; its
general registers and flags stay. -/
def TrapSaved (s : State) (h : Hart) (active : Bool) (code : Nat) (v : Word) : Prop :=
  h.epc = s.pc ∧ h.cause = { active := active, async := false, loc := 0, code := code } ∧ h.tval = v ∧ h.wait = .run
    ∧ h.g = s.hart.g ∧ h.fflags = s.hart.fflags

theorem SoftTrap.sync {code : Nat} (h : SoftTrap code) : (code == 12) = false := by
  rcases h with rfl | rfl <;> rfl

theorem trapSaved_trapped {code : Nat} (h : SoftTrap code) (s : State) (active : Bool) (v : Word) :
    TrapSaved s (s.hart.trapped active code 0 v) active code v :=
  ⟨rfl, by rw [Hart.trapped, h.sync], rfl, rfl, rfl, rfl⟩

theorem b2n_le (b : Bool) : b2n b ≤ 1 := by cases b <;> decide

/-- The fields of REG.TRAPINFO lie side by side: none carries into the next. -/
theorem toNat_trapInfoWord (d k c code : Nat) (nested savef : Bool) : (trapInfoWord d k c code nested savef).toNat =
    2 ^ 63 + b2n nested * 2 ^ 62 + b2n savef * 2 ^ 61 + d % 4 * 2 ^ 56 + k % 256 * 2 ^ 48 + c % 8 * 2 ^ 42 + code % 256 := by
  have hnested := b2n_le nested
  have hsavef := b2n_le savef
  rw [trapInfoWord, w64, BitVec.toNat_ofNat]
  exact Nat.mod_eq_of_lt (by omega)

theorem trapInfoWord_fields (d k c code : Nat) :
    let info := trapInfoWord d k c code false false
    bit info 63 = true ∧ bits info 57 56 = d % 4 ∧ bits info 55 48 = k % 256 ∧ bits info 44 42 = c % 8 ∧ bits info 7 0 = code % 256 := by
  have hflag : b2n false = 0 := rfl
  refine ⟨bit_w64_top (by omega) (by omega), ?_, ?_, ?_, ?_⟩
  all_goals
    rw [bits_eq_div, toNat_trapInfoWord]
    omega

/-! Where a trap goes (R278-R280). -/

section
variable {s : State}

theorem trap_core {n : Nat} (h : s.cur = .core n) (code loc : Nat) (v : Word) : s.trap code loc v = s.coreTrap n code loc v := by
  simp only [State.trap, h]

/-- On a core with no trap active the handler at SYS.SVTVEC runs (R278). -/
theorem trap_core_enters {n code : Nat} (hcur : s.cur = .core n) (hidle : s.hart.cause.active = false) (hcode : SoftTrap code) (v : Word) :
    TrapSaved s (s.trap code 0 v).hart true code v ∧ (s.trap code 0 v).pc = s.sys.svtvec ∧ (s.trap code 0 v).mem = s.mem := by
  rw [hart_core hcur] at hidle
  obtain ⟨hmem, hcore⟩ := coreTrap_enters hidle code 0 v
  have hcur' : (s.coreTrap n code 0 v).cur = s.cur := by rw [State.coreTrap, if_neg (ne_true_of_eq_false hidle), modCore_cur]
  have hhart : (s.coreTrap n code 0 v).hart = { s.hart.trapped true code 0 v with pc := s.sys.svtvec } := by
    rw [hart_core (hcur'.trans hcur), hcore, hart_core hcur]
  rw [trap_core hcur, State.pc, hhart]
  exact ⟨trapSaved_trapped hcode s true v, rfl, hmem⟩

/-- A trap of a core that has one active stops it and informs the supervisor (R278). -/
theorem trap_core_stops {n : Nat} (hcur : s.cur = .core n) (hactive : s.hart.cause.active = true) (code loc : Nat) (v : Word) :
    s.trap code loc v = (s.modCore n fun x => { x with running := false, stopped := true }).inform 10 (w64 n) := by
  rw [hart_core hcur] at hactive
  rw [trap_core hcur, State.coreTrap, if_pos hactive]

section
variable {d k c j code : Nat} (hcur : s.cur = .ctx d k c) (hregion : s.regionAt d k = some j)
  (hidle : s.hart.cause.active = false) (hcode : SoftTrap code)
include hcur hidle hcode

/-- With no trap active, the region's hmask alone tells where a TRAP or BKPT goes (R279). -/
theorem inContext_eq_hmask (r : Slot) : r.inContext (s.ctx d k c) code = bit r.trapcfg (16 + code) := by
  rw [hart_ctx hcur] at hidle
  rcases hcode with rfl | rfl <;> simp [Slot.inContext, hidle]

include hregion

theorem trap_handled (hmask : bit (s.slot d j).trapcfg (16 + code) = true) (loc : Nat) (v : Word) :
    s.trap code loc v = s.trapInContext d k c j code loc v := by
  simp only [State.trap, hcur, hregion, inContext_eq_hmask hcur hidle hcode, hmask, if_true]

/-- The region's handler runs once the chain block is written; the links are in the block (R280). -/
theorem trap_handled_enters (hmask : bit (s.slot d j).trapcfg (16 + code) = true) {s1 : State}
    (hblock : s.areaWriteSome d j ((s.slot d j).area k c + 12288) (chainBlock s.me.links s.me.cut) = (s1, true)) (v : Word) :
    TrapSaved s (s.trap code 0 v).hart true code v ∧ (s.trap code 0 v).me.links = [] ∧ (s.trap code 0 v).mem = s1.mem
      ∧ (s.trap code 0 v).pc = (s1.tile d k).code + BitVec.ofNat 64 (8 * ((s.slot d j).trapcfg.toNat % 2 ^ 16)) := by
  have hsame : agents s1 = agents s := by
    have h := agents_areaWriteSome s d j ((s.slot d j).area k c + 12288) (chainBlock s.me.links s.me.cut)
    rwa [hblock] at h
  have htrap : s.trap code 0 v = s1.modCtx d k c fun x => { x with
      links := [], checked := [], read := none, part := none
      hart := { x.hart.trapped true code 0 v with pc := (s.tile d k).code + 8 * w64 (bits (s.slot d j).trapcfg 15 0) } } := by
    rw [me_ctx hcur] at hblock
    simp only [trap_handled hcur hregion hidle hcode hmask, State.trapInContext, hblock]
  have hcur1 : (s.trap code 0 v).cur = .ctx d k c := by rw [htrap, modCtx_cur, cur_of_agents hsame, hcur]
  rw [State.pc, hart_ctx hcur1, me_ctx hcur1, htrap, ctx_modCtx_self, ctx_of_agents hsame, ← hart_ctx hcur, tile_of_agents hsame]
  refine ⟨trapSaved_trapped hcode s true v, rfl, modCtx_mem .., ?_⟩
  rw [bits_zero_eq_mod, BitVec.ofNat_mul]
  rfl

/-- Where the region does not handle the code, the context keeps what the trap saved and the region freezes (R279, R286). -/
theorem trap_freezes (hmask : bit (s.slot d j).trapcfg (16 + code) = false) (v : Word) :
    ∃ s1 : State, s.trap code 0 v = s1.freeze d j (trapInfoWord d k c code false false) v .none
      ∧ TrapSaved s s1.hart false code v ∧ s1.pc = s.pc ∧ s1.mem = s.mem ∧ s1.slots = s.slots := by
  have hidle' := hidle
  rw [hart_ctx hcur] at hidle'
  have htrap : s.trap code 0 v = s.freezeTrap d k c j code 0 v false := by
    simp only [State.trap, hcur, hregion, inContext_eq_hmask hcur hidle hcode, hmask, Bool.false_eq_true, if_false]
  rw [htrap, State.freezeTrap, hidle']
  refine ⟨_, rfl, ?_⟩
  rw [State.pc, hart_ctx ((modCtx_cur ..).trans hcur), ctx_modCtx_self, if_neg Bool.false_ne_true, ← hart_ctx hcur]
  exact ⟨trapSaved_trapped hcode s false v, rfl, modCtx_mem .., modCtx_slots ..⟩

end

/-! TRAP and BKPT (R427). -/

theorem exec_trap {o : CFmt} (hon : GuardOn s o.gn o.gs) : exec (.trap o) s = .next (s.trap 10 0 (o.imm.setWidth 64)) :=
  congrArg _ (guarded_on hon _)

theorem exec_bkpt {o : CFmt} (hon : GuardOn s o.gn o.gs) : exec (.bkpt o) s = .next (s.trap 11 0 0) :=
  congrArg _ (guarded_on hon _)

end

/-- Settles O43: both instructions take a software trap, which runs the core's handler, stops the core, runs the region's handler or
freezes the region (R278-R280). -/
theorem trapEntry : Obligations.TrapEntry := by
  unfold Obligations.TrapEntry
  intro s o hon saved enters
  have henters {i : Instr} {code : Nat} {v : Word} (hexec : exec i s = .next (s.trap code 0 v)) (hcode : SoftTrap code) :
      enters i code v := by
    refine ⟨fun n hcur hidle => ⟨_, hexec, trap_core_enters hcur hidle hcode v⟩, fun n hcur hactive => ⟨_, hexec, ?_⟩,
      fun d k c j s1 hcur hregion hidle hmask hblock => ⟨_, hexec, trap_handled_enters hcur hregion hidle hcode hmask hblock v⟩,
      fun d k c j hcur hregion hidle hmask => ?_⟩
    · rw [trap_core_stops hcur hactive]
      have hcore := core_modCore_self s n fun x => { x with running := false, stopped := true }
      exact ⟨congrArg Core.stopped hcore, congrArg Core.running hcore, stick_eq_min .., rfl⟩
    · obtain ⟨s1, hfreeze, hsaved, hpc, hmem, hslots⟩ := trap_freezes hcur hregion hidle hcode hmask v
      obtain ⟨hvalid, hdie, htile, hctx, hcause⟩ := trapInfoWord_fields d k c code
      have hsmall : code % 256 = code := by rcases hcode with rfl | rfl <;> rfl
      exact ⟨s1, _, hexec.trans (congrArg _ hfreeze), hsaved, hpc, hmem, hslots, hvalid, hdie, htile, hctx, hcause.trans hsmall⟩
  exact ⟨henters (exec_trap hon) (.inl rfl), henters (exec_bkpt hon) (.inr rfl)⟩

/-! ERET (R281). -/

/-- The registers of an agent after its return: it goes on at the saved program counter with no trap active. -/
def returned (h : Hart) : Hart := { h with pc := h.epc, wait := .run, cause := { h.cause with active := false } }

/-- A context after its return with the links of its chain block: they go on but for lanes that carry a cut mark now, and a latch of
another instruction is emptied (R214, R267). -/
def resumed (x : Context) (ls : List Link) : Context :=
  { x with links := dropCut ls x.cut, latches := x.latches.filter fun e => e.2.addr == x.hart.epc, hart := returned x.hart }

theorem latches_resumed {x : Context} {ls : List Link} {e : Nat × Latch} (h : e ∈ (resumed x ls).latches) : e.2.addr = x.hart.epc :=
  beq_iff_eq.mp (List.mem_filter.mp h).2

/-- The events for the links change no context and no byte. -/
theorem postSettles_keeps {α : Type} (view : State → α) (hpost : ∀ t n ev x, view (State.post t n ev x) = view t) (s : State)
    (d k c n : Nat) : view (s.postSettles d k c n) = view s :=
  foldl_keeps view (fun _ _ => hpost ..) _ s

section
variable {s : State} {o : CFmt}

theorem exec_eret_idle (hidle : s.hart.cause.active = false) : exec (.eret o) s = .next (s.trap 1 0 s.ir) := by
  show execEret o s = _
  rw [execEret, hidle]
  rfl

variable (hon : GuardOn s o.gn o.gs) (hactive : s.hart.cause.active = true)
include hon hactive

theorem exec_eret_core {n : Nat} (hcur : s.cur = .core n) :
    exec (.eret o) s = .next (s.modCore n fun x => { x with hart := returned x.hart }) := by
  show execEret o s = _
  rw [execEret, hactive, guarded_on hon, hcur]
  rfl

theorem exec_eret_waits (hctx : s.onCore = false) (hlinks : s.me.links ≠ []) : exec (.eret o) s = .next (s.waits .settle) := by
  cases hcur : s.cur with
  | core n => simp [State.onCore, hcur] at hctx
  | ctx d k c =>
    show execEret o s = _
    rw [execEret, hactive, guarded_on hon, hcur]
    simp only [List.isEmpty_eq_false_iff.mpr hlinks, Bool.not_true, Bool.not_false, Bool.false_eq_true, if_false, if_true]

theorem exec_eret_ctx {d k c j : Nat} (hcur : s.cur = .ctx d k c) (hlinks : s.me.links = []) (hregion : s.regionAt d k = some j) :
    exec (.eret o) s = .next (s.eretCtx d k c j) := by
  show execEret o s = _
  rw [execEret, hactive, guarded_on hon, hcur]
  simp only [hlinks, hregion, List.isEmpty_nil, Bool.not_true, Bool.false_eq_true, if_false]

end

section
variable {s : State} {d k c j : Nat} {blk : List Byte}
  (hblk : s.areaRead d j ((s.slot d j).area k c + 12288) 12288 = some blk)
include hblk

theorem eretCtx_refused {i : Nat} (hlinks : linksOf blk = .error i) : s.eretCtx d k c j = s.chainTrap d k c j i := by
  simp only [State.eretCtx, hblk, hlinks]

/-- The context takes back the links of its chain block; nothing is written to memory. -/
theorem eretCtx_resumes {ls : List Link} (hlinks : linksOf blk = .ok ls) :
    (s.eretCtx d k c j).cur = s.cur ∧ (s.eretCtx d k c j).mem = s.mem
      ∧ (s.eretCtx d k c j).ctx d k c = resumed (s.ctx d k c) ls := by
  simp only [State.eretCtx, hblk, hlinks]
  refine ⟨postSettles_keeps State.cur (fun _ _ _ _ => rfl) .., postSettles_keeps State.mem (fun _ _ _ _ => rfl) .., ?_⟩
  rw [postSettles_keeps (·.ctx d k c) (fun _ _ _ _ => rfl), ctx_modCtx_self]
  rfl

end

/-- Settles O44: a core returns by its registers alone; a context takes back what its chain block holds, or traps CHAIN. -/
theorem trapReturn : Obligations.TrapReturn := by
  unfold Obligations.TrapReturn
  intro s o hon
  refine ⟨exec_eret_idle, fun n hcur hactive => ⟨_, exec_eret_core hon hactive hcur, ?_⟩, fun hctx hactive => exec_eret_waits hon hactive hctx,
    fun d k c j blk hcur hactive hlinks hregion hblk => ?_⟩
  · -- R281 on a core.
    rw [State.pc, hart_core ((modCore_cur ..).trans hcur), core_modCore_self, hart_core hcur]
    exact ⟨rfl, rfl, modCore_mem ..⟩
  · -- R271, R272, R281 in a context.
    have hexec := exec_eret_ctx hon hactive hcur hlinks hregion
    refine ⟨fun i herror => hexec.trans (congrArg _ (eretCtx_refused hblk herror)), fun ls hok => ⟨_, hexec, ?_⟩⟩
    obtain ⟨hcur', hmem, hresumed⟩ := eretCtx_resumes hblk hok
    rw [State.pc, hart_ctx (hcur'.trans hcur), me_ctx (hcur'.trans hcur), hresumed, me_ctx hcur, hart_ctx hcur]
    exact ⟨rfl, rfl, hmem, rfl, fun e he => latches_resumed he⟩

end Sys2Proof.Laws

/-! O50: an instruction and its word (13 R292-R305). The laws of PerInstr.lean give the first direction; for the second, a word is the word
of its own fields, and each decoder of a format gives an instruction whose opcode is the one it was asked for. -/

namespace Sys2Proof.Laws

open Sys2Proof

/-- Two fields of a word that stand side by side are one field. -/
theorem append_field (w : Word) {l k s t : Nat} (ht : t = s + k) :
    w.extractLsb' t l ++ w.extractLsb' s k = w.extractLsb' s (l + k) := by
  subst ht
  exact BitVec.extractLsb'_append_extractLsb'_eq_extractLsb' rfl

/-- As append_field, where the lower field is a flag. -/
theorem append_flag (w : Word) {l s t : Nat} (ht : t = s + 1) :
    w.extractLsb' t l ++ BitVec.ofBool (w.getLsbD s) = w.extractLsb' s (l + 1) := by
  have hflag : BitVec.ofBool (w.getLsbD s) = w.extractLsb' s 1 := by
    apply BitVec.eq_of_getLsbD_eq
    intro i hi
    obtain rfl : i = 0 := by omega
    simp
  rw [hflag, append_field w ht]

/-- A word is the word of format S of its own fields (R296). -/
theorem sfmt_toWord_ofWord (w : Word) : (SFmt.ofWord w).toWord (opcOf w) = w := by
  simp (disch := decide) only [SFmt.toWord, SFmt.ofWord, opcOf, append_field, append_flag]
  exact BitVec.extractLsb'_eq_self

/-- A word is the word of format B of its own fields (R297). -/
theorem bfmt_toWord_ofWord (w : Word) : (BFmt.ofWord w).toWord (opcOf w) = w := by
  simp (disch := decide) only [BFmt.toWord, BFmt.ofWord, opcOf, append_field, append_flag]
  exact BitVec.extractLsb'_eq_self

/-- A word is the word of format V of its own fields (R298). -/
theorem vfmt_toWord_ofWord (w : Word) : (VFmt.ofWord w).toWord (opcOf w) = w := by
  simp (disch := decide) only [VFmt.toWord, VFmt.ofWord, opcOf, append_field, append_flag]
  exact BitVec.extractLsb'_eq_self

/-- A word is the word of format M of its own fields (R299). -/
theorem mfmt_toWord_ofWord (w : Word) : (MFmt.ofWord w).toWord (opcOf w) = w := by
  simp (disch := decide) only [MFmt.toWord, MFmt.ofWord, opcOf, append_field, append_flag]
  exact BitVec.extractLsb'_eq_self

/-- A word is the word of format C of its own fields (R300). -/
theorem cfmt_toWord_ofWord (w : Word) : (CFmt.ofWord w).toWord (opcOf w) = w := by
  simp (disch := decide) only [CFmt.toWord, CFmt.ofWord, opcOf, append_field, append_flag]
  exact BitVec.extractLsb'_eq_self

/-- An opcode is its number. -/
theorem opc_of_toNat {c : BitVec 8} {n : Nat} (h : c.toNat = n) : c = BitVec.ofNat 8 n := by
  rw [← h, BitVec.ofNat_toNat, BitVec.setWidth_eq]

/-! What a format's decoder gives has the word of the opcode and the fields it was given: arm by arm the opcode is the encoder's. -/

theorem encode_decodeS {c : BitVec 8} {o : SFmt} {i : Instr} (h : decodeS c o = some i) : encode i = some (o.toWord c) := by
  unfold decodeS at h
  split at h
  all_goals cases h
  all_goals rw [opc_of_toNat ‹c.toNat = _›]; rfl

theorem encode_decodeB {c : BitVec 8} {o : BFmt} {i : Instr} (h : decodeB c o = some i) : encode i = some (o.toWord c) := by
  unfold decodeB at h
  split at h
  case h_13 hc => rw [opc_of_toNat hc]; split at h <;> cases h <;> rfl
  all_goals cases h
  all_goals rw [opc_of_toNat ‹c.toNat = _›]; rfl

theorem encode_decodeV {c : BitVec 8} {o : VFmt} {i : Instr} (h : decodeV c o = some i) : encode i = some (o.toWord c) := by
  unfold decodeV at h
  split at h
  all_goals cases h
  all_goals rw [opc_of_toNat ‹c.toNat = _›]; rfl

theorem encode_decodeM {c : BitVec 8} {o : MFmt} {i : Instr} (h : decodeM c o = some i) : encode i = some (o.toWord c) := by
  unfold decodeM at h
  split at h
  all_goals cases h
  all_goals rw [opc_of_toNat ‹c.toNat = _›]; rfl

theorem encode_decodeC {c : BitVec 8} {o : CFmt} {i : Instr} (h : decodeC c o = some i) : encode i = some (o.toWord c) := by
  unfold decodeC at h
  split at h
  case h_1 hc => rw [opc_of_toNat hc]; split at h <;> cases h <;> rfl
  case h_7 hc => rw [opc_of_toNat hc]; split at h <;> cases h <;> rfl
  case h_15 hc => rw [opc_of_toNat hc]; split at h <;> cases h <;> rfl
  case h_24 hc => rw [opc_of_toNat hc]; split at h <;> cases h <;> rfl
  case h_49 hc => rw [opc_of_toNat hc]; split at h <;> cases h <;> rfl
  all_goals cases h
  all_goals rw [opc_of_toNat ‹c.toNat = _›]; rfl

/-- The instruction that a word names has that word, whichever format its opcode has (R304). -/
theorem encode_rawDecode {w : Word} {i : Instr} (h : rawDecode w = some i) : encode i = some w := by
  unfold rawDecode at h
  simp only at h
  split at h
  · rw [encode_decodeS h, sfmt_toWord_ofWord]
  split at h
  · rw [encode_decodeB h, bfmt_toWord_ofWord]
  split at h
  · rw [encode_decodeS h, sfmt_toWord_ofWord]
  split at h
  · rw [encode_decodeV h, vfmt_toWord_ofWord]
  split at h
  · rw [encode_decodeM h, mfmt_toWord_ofWord]
  · rw [encode_decodeC h, cfmt_toWord_ofWord]

/-- A word that decodes to an instruction names it before its fields are checked (R305). -/
theorem rawDecode_of_decodeWord {w : Word} {i : Instr} (h : decodeWord w = .ok i) : rawDecode w = some i := by
  unfold decodeWord at h
  split at h
  case h_1 => cases h
  case h_2 j hj =>
    split at h
    · cases h; exact hj
    · cases h

/-- Every instruction decodes back from its word; an event has none. -/
theorem roundTrip (i : Instr) : RoundTrip.Statement i :=
  match i with
  | .nop o => RoundTrip.nop o | .add o => RoundTrip.add o | .sub o => RoundTrip.sub o | .addi o => RoundTrip.addi o
  | .mul o => RoundTrip.mul o | .mulh o => RoundTrip.mulh o | .mulhu o => RoundTrip.mulhu o | .div o => RoundTrip.div o
  | .divu o => RoundTrip.divu o | .rem o => RoundTrip.rem o | .remu o => RoundTrip.remu o | .and o => RoundTrip.and o
  | .or o => RoundTrip.or o | .xor o => RoundTrip.xor o | .andn o => RoundTrip.andn o | .andi o => RoundTrip.andi o
  | .ori o => RoundTrip.ori o | .xori o => RoundTrip.xori o | .shl o => RoundTrip.shl o | .shr o => RoundTrip.shr o
  | .sra o => RoundTrip.sra o | .shli o => RoundTrip.shli o | .shri o => RoundTrip.shri o | .srai o => RoundTrip.srai o
  | .rotl o => RoundTrip.rotl o | .clz o => RoundTrip.clz o | .ctz o => RoundTrip.ctz o | .popc o => RoundTrip.popc o
  | .min o => RoundTrip.min o | .max o => RoundTrip.max o | .minu o => RoundTrip.minu o | .maxu o => RoundTrip.maxu o
  | .slt o => RoundTrip.slt o | .sltu o => RoundTrip.sltu o | .seq o => RoundTrip.seq o | .slti o => RoundTrip.slti o
  | .sel o => RoundTrip.sel o | .movi o => RoundTrip.movi o | .lih o => RoundTrip.lih o | .extu o => RoundTrip.extu o
  | .exts o => RoundTrip.exts o | .ins o => RoundTrip.ins o | .brev o => RoundTrip.brev o | .bswap o => RoundTrip.bswap o
  | .br o => RoundTrip.br o | .beq o => RoundTrip.beq o | .bne o => RoundTrip.bne o | .blt o => RoundTrip.blt o
  | .bge o => RoundTrip.bge o | .bltu o => RoundTrip.bltu o | .bgeu o => RoundTrip.bgeu o | .bpt o => RoundTrip.bpt o
  | .bmk o => RoundTrip.bmk o | .jal o => RoundTrip.jal o | .jalr o => RoundTrip.jalr o | .loop o => RoundTrip.loop o
  | .pset o => RoundTrip.pset o | .psetR o => RoundTrip.psetR o | .psetNz o => RoundTrip.psetNz o | .ret o => RoundTrip.ret o
  | .yield o => RoundTrip.yield o | .waitp o => RoundTrip.waitp o | .ldb o => RoundTrip.ldb o | .ldbu o => RoundTrip.ldbu o
  | .ldh o => RoundTrip.ldh o | .ldhu o => RoundTrip.ldhu o | .ldw o => RoundTrip.ldw o | .ldwu o => RoundTrip.ldwu o
  | .ldd o => RoundTrip.ldd o | .stb o => RoundTrip.stb o | .sth o => RoundTrip.sth o | .stw o => RoundTrip.stw o
  | .std o => RoundTrip.std o | .ldq o => RoundTrip.ldq o | .stq o => RoundTrip.stq o | .pref o => RoundTrip.pref o
  | .cflush o => RoundTrip.cflush o | .cinv o => RoundTrip.cinv o | .aadd o => RoundTrip.aadd o | .aand o => RoundTrip.aand o
  | .aor o => RoundTrip.aor o | .axor o => RoundTrip.axor o | .amin o => RoundTrip.amin o | .amax o => RoundTrip.amax o
  | .aminu o => RoundTrip.aminu o | .amaxu o => RoundTrip.amaxu o | .aswap o => RoundTrip.aswap o | .acas o => RoundTrip.acas o
  | .ldaq o => RoundTrip.ldaq o | .strel o => RoundTrip.strel o | .fence o => RoundTrip.fence o | .sbar o => RoundTrip.sbar o
  | .sgpost o => RoundTrip.sgpost o | .sgwait o => RoundTrip.sgwait o | .vadd o => RoundTrip.vadd o | .vsub o => RoundTrip.vsub o
  | .vmul o => RoundTrip.vmul o | .vfma o => RoundTrip.vfma o | .vfms o => RoundTrip.vfms o | .vnfma o => RoundTrip.vnfma o
  | .vabs o => RoundTrip.vabs o | .vneg o => RoundTrip.vneg o | .vmax o => RoundTrip.vmax o | .vmin o => RoundTrip.vmin o
  | .vdiv o => RoundTrip.vdiv o | .vrcp o => RoundTrip.vrcp o | .vsqrt o => RoundTrip.vsqrt o | .vrsq o => RoundTrip.vrsq o
  | .vexp2 o => RoundTrip.vexp2 o | .vlog2 o => RoundTrip.vlog2 o | .vscale o => RoundTrip.vscale o | .vcmp o => RoundTrip.vcmp o
  | .vcmpt o => RoundTrip.vcmpt o | .vcut o => RoundTrip.vcut o | .vsettle o => RoundTrip.vsettle o | .vcvt o => RoundTrip.vcvt o
  | .vqnt o => RoundTrip.vqnt o | .vdq o => RoundTrip.vdq o | .vsel o => RoundTrip.vsel o | .viadd o => RoundTrip.viadd o
  | .visub o => RoundTrip.visub o | .vimul o => RoundTrip.vimul o | .vimin o => RoundTrip.vimin o | .vimax o => RoundTrip.vimax o
  | .vand o => RoundTrip.vand o | .vor o => RoundTrip.vor o | .vxor o => RoundTrip.vxor o | .vshl o => RoundTrip.vshl o
  | .vshr o => RoundTrip.vshr o | .vsra o => RoundTrip.vsra o | .vmov o => RoundTrip.vmov o | .vbcast o => RoundTrip.vbcast o
  | .vext o => RoundTrip.vext o | .vins o => RoundTrip.vins o | .vperm o => RoundTrip.vperm o | .vrot o => RoundTrip.vrot o
  | .viota o => RoundTrip.viota o | .vrsum o => RoundTrip.vrsum o | .vrmax o => RoundTrip.vrmax o | .vrarg o => RoundTrip.vrarg o
  | .vtopk o => RoundTrip.vtopk o | .vscan o => RoundTrip.vscan o | .mand o => RoundTrip.mand o | .mor o => RoundTrip.mor o
  | .mxor o => RoundTrip.mxor o | .mnot o => RoundTrip.mnot o | .mpop o => RoundTrip.mpop o | .mfirst o => RoundTrip.mfirst o
  | .mset o => RoundTrip.mset o | .vld o => RoundTrip.vld o | .vst o => RoundTrip.vst o | .vlds o => RoundTrip.vlds o
  | .vsts o => RoundTrip.vsts o | .vgth o => RoundTrip.vgth o | .vsct o => RoundTrip.vsct o | .vrng o => RoundTrip.vrng o
  | .mzero o => RoundTrip.mzero o | .mma o => RoundTrip.mma o | .mmas o => RoundTrip.mmas o | .mrd o => RoundTrip.mrd o
  | .mrdq o => RoundTrip.mrdq o | .mlda o => RoundTrip.mlda o | .mscl o => RoundTrip.mscl o | .mwait o => RoundTrip.mwait o
  | .apcfgM o => RoundTrip.apcfgM o | .apcfgR o => RoundTrip.apcfgR o | .apcfgPre o => RoundTrip.apcfgPre o
  | .apdim o => RoundTrip.apdim o | .apstart o => RoundTrip.apstart o | .apstop o => RoundTrip.apstop o | .appos o => RoundTrip.appos o
  | .apseek o => RoundTrip.apseek o | .qbind o => RoundTrip.qbind o | .qbindK o => RoundTrip.qbindK o | .qbindU o => RoundTrip.qbindU o
  | .qstat o => RoundTrip.qstat o | .cecpy o => RoundTrip.cecpy o | .ce2d o => RoundTrip.ce2d o | .cefill o => RoundTrip.cefill o
  | .cepg o => RoundTrip.cepg o | .cestat o => RoundTrip.cestat o | .ceabt o => RoundTrip.ceabt o | .knew o => RoundTrip.knew o
  | .knewC o => RoundTrip.knewC o | .ksend o => RoundTrip.ksend o | .kfwd o => RoundTrip.kfwd o | .khdr o => RoundTrip.khdr o
  | .kset o => RoundTrip.kset o | .kdrop o => RoundTrip.kdrop o | .kmrg o => RoundTrip.kmrg o | .ksplit o => RoundTrip.ksplit o
  | .shlk o => RoundTrip.shlk o | .shrefInc o => RoundTrip.shrefInc o | .shrefDec o => RoundTrip.shrefDec o
  | .shpin o => RoundTrip.shpin o | .shcpy o => RoundTrip.shcpy o | .kvapp o => RoundTrip.kvapp o | .kvcmt o => RoundTrip.kvcmt o
  | .kvrej o => RoundTrip.kvrej o | .sctch o => RoundTrip.sctch o | .scld o => RoundTrip.scld o | .scev o => RoundTrip.scev o
  | .scqry o => RoundTrip.scqry o | .spacc o => RoundTrip.spacc o | .spres o => RoundTrip.spres o | .trpub o => RoundTrip.trpub o
  | .launch o => RoundTrip.launch o | .trap o => RoundTrip.trap o | .eret o => RoundTrip.eret o | .csrr o => RoundTrip.csrr o
  | .csrw o => RoundTrip.csrw o | .csrs o => RoundTrip.csrs o | .csrc o => RoundTrip.csrc o | .time o => RoundTrip.time o
  | .waitt o => RoundTrip.waitt o | .bar o => RoundTrip.bar o | .ctxsv o => RoundTrip.ctxsv o | .ctxld o => RoundTrip.ctxld o
  | .tlbiAll o => RoundTrip.tlbiAll o | .tlbiAsid o => RoundTrip.tlbiAsid o | .tlbiVa o => RoundTrip.tlbiVa o
  | .tlbiVall o => RoundTrip.tlbiVall o | .cfgld o => RoundTrip.cfgld o | .trgld o => RoundTrip.trgld o | .bkpt o => RoundTrip.bkpt o
  | .halt o => RoundTrip.halt o | .coldStart => RoundTrip.coldStart | .warmStart => RoundTrip.warmStart
  | .thermalStopEnd => RoundTrip.thermalStopEnd | .recoveryFrame => RoundTrip.recoveryFrame | .recoveryEnd => RoundTrip.recoveryEnd
  | .attestationRequest => RoundTrip.attestationRequest | .fuseSvnRaise => RoundTrip.fuseSvnRaise
  | .lifetimeRecordWrite => RoundTrip.lifetimeRecordWrite | .recordCopyRequest => RoundTrip.recordCopyRequest
  | .powerSample => RoundTrip.powerSample | .linkDown => RoundTrip.linkDown | .cmRequest => RoundTrip.cmRequest
  | .hostSend => RoundTrip.hostSend | .hostWrite => RoundTrip.hostWrite | .hostWriteImm => RoundTrip.hostWriteImm
  | .hostRead => RoundTrip.hostRead | .fetchAdd => RoundTrip.fetchAdd | .cmpSwap => RoundTrip.cmpSwap
  | .hostInvalidOpcode => RoundTrip.hostInvalidOpcode | .cnpReceived => RoundTrip.cnpReceived
  | .loopDataFrame => RoundTrip.loopDataFrame | .loopAckFrame => RoundTrip.loopAckFrame | .loopNakFrame => RoundTrip.loopNakFrame
  | .ackTimer => RoundTrip.ackTimer | .replayTimeout => RoundTrip.replayTimeout | .remoteRequest => RoundTrip.remoteRequest
  | .podcfgWrite => RoundTrip.podcfgWrite | .ptpSync => RoundTrip.ptpSync | .ptpAnnounceTimeout => RoundTrip.ptpAnnounceTimeout
  | .timeStep => RoundTrip.timeStep | .timerateWrite => RoundTrip.timerateWrite | .ptpstatWrite => RoundTrip.ptpstatWrite
  | .sbbaseWrite => RoundTrip.sbbaseWrite | .tailStore => RoundTrip.tailStore | .graph => RoundTrip.graph
  | .preempt => RoundTrip.preempt | .resume => RoundTrip.resume | .abort => RoundTrip.abort | .scset => RoundTrip.scset
  | .scfree => RoundTrip.scfree | .ttset => RoundTrip.ttset | .query => RoundTrip.query | .endNode => RoundTrip.endNode
  | .cfg => RoundTrip.cfg | .arm => RoundTrip.arm | .waitNode => RoundTrip.waitNode | .waitTimeout => RoundTrip.waitTimeout
  | .repeatNode => RoundTrip.repeatNode | .signal => RoundTrip.signal | .sct => RoundTrip.sct | .drain => RoundTrip.drain
  | .timetableFire => RoundTrip.timetableFire | .stccfgWrite => RoundTrip.stccfgWrite | .scanVisit => RoundTrip.scanVisit
  | .stcRestoreDone => RoundTrip.stcRestoreDone | .stcEvictDone => RoundTrip.stcEvictDone | .triggerFire => RoundTrip.triggerFire
  | .go => RoundTrip.go | .quiesceDone => RoundTrip.quiesceDone | .saveDone => RoundTrip.saveDone
  | .regionRestoreDone => RoundTrip.regionRestoreDone | .drainDone => RoundTrip.drainDone | .rewalk => RoundTrip.rewalk
  | .withholdTimeout => RoundTrip.withholdTimeout | .hotcfgWrite => RoundTrip.hotcfgWrite | .wholdWrite => RoundTrip.wholdWrite
  | .coachHop => RoundTrip.coachHop | .coachDelivery => RoundTrip.coachDelivery | .loopexit => RoundTrip.loopexit
  | .merge => RoundTrip.merge | .reduce => RoundTrip.reduce | .reduceDeadline => RoundTrip.reduceDeadline
  | .junctionSidingTimeout => RoundTrip.junctionSidingTimeout | .junctionSidingRelease => RoundTrip.junctionSidingRelease
  | .apeElement => RoundTrip.apeElement | .generatorElement => RoundTrip.generatorElement | .ceGranule => RoundTrip.ceGranule
  | .ceComplete => RoundTrip.ceComplete | .matrixComplete => RoundTrip.matrixComplete | .linkSettle => RoundTrip.linkSettle
  | .watchdog => RoundTrip.watchdog | .eccError => RoundTrip.eccError | .trapinfoAck => RoundTrip.trapinfoAck
  | .tilePredWrite => RoundTrip.tilePredWrite | .svwdogWrite => RoundTrip.svwdogWrite | .evpendAck => RoundTrip.evpendAck
  | .bootwalkGo => RoundTrip.bootwalkGo | .registerWrite => RoundTrip.registerWrite | .linkUp => RoundTrip.linkUp
  | .powerLoss => RoundTrip.powerLoss | .announceReceived => RoundTrip.announceReceived | .waittExpiry => RoundTrip.waittExpiry

/-- Settles O50: each instruction's round trip, and back through the format of the word's opcode. -/
theorem decodeEncodeAgree : Obligations.DecodeEncodeAgree := by
  unfold Obligations.DecodeEncodeAgree
  exact ⟨fun i w hwf hword => roundTrip i w hwf hword, fun _ _ hdecode => encode_rawDecode (rawDecode_of_decodeWord hdecode)⟩

end Sys2Proof.Laws

/-! O2, O3, O4: the scalar integer instructions (14 R312-R318): the arithmetic of their rows as the statements write it, and the frame. -/

namespace Sys2Proof.Laws

open Sys2Proof Sys2Proof.Machine Sys2Proof.Safety

/-! Words as numbers. -/

theorem word_ofNat_toNat (a : Word) : BitVec.ofNat 64 a.toNat = a := by
  rw [BitVec.ofNat_toNat, BitVec.setWidth_eq]

theorem word_add (a b : Word) : a + b = BitVec.ofNat 64 (a.toNat + b.toNat) := by
  rw [BitVec.ofNat_add, word_ofNat_toNat, word_ofNat_toNat]

theorem word_mul (a b : Word) : a * b = BitVec.ofNat 64 (a.toNat * b.toNat) := by
  rw [BitVec.ofNat_mul, word_ofNat_toNat, word_ofNat_toNat]

theorem word_sub (a b : Word) : a - b = BitVec.ofInt 64 (a.toNat - b.toNat) := by
  rw [Int.sub_eq_add_neg, BitVec.ofInt_add, BitVec.ofInt_neg, BitVec.ofInt_natCast, BitVec.ofInt_natCast, word_ofNat_toNat,
    word_ofNat_toNat, BitVec.sub_eq_add_neg]

theorem word_shl (a : Word) (n : Nat) : a <<< n = BitVec.ofNat 64 (a.toNat * 2 ^ n) := by
  apply BitVec.eq_of_toNat_eq
  rw [BitVec.toNat_shiftLeft, Nat.shiftLeft_eq, BitVec.toNat_ofNat]

theorem word_shr (a : Word) (n : Nat) : a >>> n = BitVec.ofNat 64 (a.toNat / 2 ^ n) := by
  rw [← Nat.shiftRight_eq_div_pow, ← BitVec.toNat_ushiftRight, word_ofNat_toNat]

theorem word_sra (a : Word) (n : Nat) : a.sshiftRight n = BitVec.ofInt 64 (a.toInt / 2 ^ n) := by
  rw [BitVec.sshiftRight, Int.shiftRight_eq_div_pow, Int.natCast_pow]
  rfl

theorem word_append (i : BitVec 32) (a : Word) :
    i ++ a.setWidth 32 = (BitVec.ofNat 64 (i.toNat * 2 ^ 32 + a.toNat % 2 ^ 32) : Word) := by
  apply BitVec.eq_of_toNat_eq
  rw [BitVec.toNat_append, BitVec.toNat_setWidth, ← Nat.shiftLeft_add_eq_or_of_lt (by omega), Nat.shiftLeft_eq, BitVec.toNat_ofNat]
  omega

/-- The one overflow of a division gives what the exact quotient wraps to (R245). -/
theorem divS_eq (a b : Word) : divS a b = if b = 0 then BitVec.allOnes 64 else BitVec.ofInt 64 (a.toInt.tdiv b.toInt) := by
  unfold divS
  split
  · rfl
  split
  · next h => obtain ⟨rfl, rfl⟩ := h; decide
  · rfl

theorem remS_eq (a b : Word) : remS a b = if b = 0 then a else BitVec.ofInt 64 (a.toInt - b.toInt * a.toInt.tdiv b.toInt) := by
  unfold remS
  split
  · rfl
  split
  · next h => obtain ⟨rfl, rfl⟩ := h; decide
  · rw [Int.tmod_def]

theorem shiftL_eq (a : Word) (n : Nat) : shiftL a n = if 64 ≤ n then 0 else BitVec.ofNat 64 (a.toNat * 2 ^ n) := by
  rw [shiftL, word_shl]

theorem shiftR_eq (a : Word) (n : Nat) : shiftR a n = if 64 ≤ n then 0 else BitVec.ofNat 64 (a.toNat / 2 ^ n) := by
  rw [shiftR, word_shr]

theorem shiftA_eq (a : Word) (n : Nat) :
    shiftA a n = if 64 ≤ n then (if a.toInt < 0 then BitVec.allOnes 64 else 0) else BitVec.ofInt 64 (a.toInt / 2 ^ n) := by
  rw [shiftA, word_sra, BitVec.msb_eq_toInt]
  simp only [decide_eq_true_eq]

theorem rotl_eq (a : Word) (n : Nat) :
    a.rotateLeft (n % 64) = BitVec.ofNat 64 (a.toNat * 2 ^ (n % 64)) ||| BitVec.ofNat 64 (a.toNat / 2 ^ (64 - n % 64)) := by
  rw [BitVec.rotateLeft_def, Nat.mod_mod, word_shl, word_shr]

/-! Fields and single bits. -/

/-- A field of w bits extended by its sign (R318). -/
theorem signed_field (m w : Nat) (hpos : 0 < w) (hw : w ≤ 64) :
    (if m % 2 ^ w < 2 ^ (w - 1) then w64 (m % 2 ^ w) else w64 (2 ^ 64 - 2 ^ w + m % 2 ^ w)) = (BitVec.ofNat w m).signExtend 64 := by
  obtain ⟨k, rfl⟩ : ∃ k, w = k + 1 := ⟨w - 1, by omega⟩
  have hpow : 2 ^ (k + 1) ≤ 2 ^ 64 := Nat.pow_le_pow_right (by decide) hw
  have hlt := Nat.mod_lt m (Nat.two_pow_pos (k + 1))
  have hword : m % 2 ^ (k + 1) % 2 ^ 64 = m % 2 ^ (k + 1) := Nat.mod_eq_of_lt (by omega)
  apply BitVec.eq_of_toNat_eq
  rw [BitVec.toNat_signExtend, BitVec.msb_eq_decide]
  simp only [w64, Nat.add_sub_cancel, BitVec.toNat_setWidth, BitVec.toNat_ofNat, decide_eq_true_eq]
  by_cases hs : m % 2 ^ (k + 1) < 2 ^ k
  · rw [if_pos hs, if_neg (by omega), BitVec.toNat_ofNat, hword]
    rfl
  · rw [if_neg hs, if_pos (by omega), BitVec.toNat_ofNat, hword, Nat.mod_eq_of_lt (by omega), Nat.add_comm]

/-- The bits of a mask of w ones from bit n on. -/
theorem getLsbD_fieldMask (w n : Nat) {k : Nat} (hk : k < 64) :
    (w64 ((2 ^ w - 1) * 2 ^ n)).getLsbD k = decide (n ≤ k ∧ k < n + w) := by
  rw [w64, BitVec.getLsbD_ofNat, ← Nat.shiftLeft_eq, Nat.testBit_shiftLeft, Nat.testBit_two_pow_sub_one]
  by_cases h : n ≤ k
  · have hiff : k - n < w ↔ k < n + w := by omega
    simp [h, hk, hiff]
  · simp [h]

/-- What clzTo counts among the low k bits: zeros down to the first set one. -/
theorem clzTo_spec (a : Word) (k : Nat) :
    clzTo a k ≤ k ∧ (clzTo a k < k → a.getLsbD (k - 1 - clzTo a k) = true) ∧ ∀ j, k - clzTo a k ≤ j → j < k → a.getLsbD j = false := by
  induction k with
  | zero => exact ⟨Nat.le_refl 0, fun h => absurd h (Nat.not_lt_zero _), fun j _ h => absurd h (Nat.not_lt_zero _)⟩
  | succ k ih =>
    obtain ⟨hle, hset, hclear⟩ := ih
    rw [clzTo]
    cases hbit : a.getLsbD k
    · rw [if_neg Bool.false_ne_true]
      refine ⟨by omega, fun h => ?_, fun j hfrom hto => ?_⟩
      · rw [← hset (by omega)]
        congr 1
        omega
      · by_cases hj : j = k
        · rw [hj, hbit]
        · exact hclear j (by omega) (by omega)
    · rw [if_pos rfl]
      exact ⟨by omega, fun _ => hbit, fun j hfrom hto => by omega⟩

/-- What ctzFrom counts among the k bits from 64 - k up: zeros up to the first set one. -/
theorem ctzFrom_spec (a : Word) (k : Nat) (hk : k ≤ 64) :
    ctzFrom a k ≤ k ∧ (ctzFrom a k < k → a.getLsbD (64 - k + ctzFrom a k) = true)
      ∧ ∀ j, 64 - k ≤ j → j < 64 - k + ctzFrom a k → a.getLsbD j = false := by
  induction k with
  | zero => exact ⟨Nat.le_refl 0, fun h => absurd h (Nat.not_lt_zero _), fun j hfrom hto => by simp only [ctzFrom] at hto; omega⟩
  | succ k ih =>
    obtain ⟨hle, hset, hclear⟩ := ih (by omega)
    have hpos : 64 - (k + 1) = 63 - k := by omega
    rw [ctzFrom, hpos]
    cases hbit : a.getLsbD (63 - k)
    · rw [if_neg Bool.false_ne_true]
      refine ⟨by omega, fun h => ?_, fun j hfrom hto => ?_⟩
      · rw [← hset (by omega)]
        congr 1
        omega
      · by_cases hj : j = 63 - k
        · rw [hj, hbit]
        · exact hclear j (by omega) (by omega)
    · rw [if_pos rfl]
      exact ⟨by omega, fun _ => hbit, fun j hfrom hto => by omega⟩

theorem popcTo_eq (a : Word) (k : Nat) : popcTo a k = ((List.range k).filter fun i => a.getLsbD i).length := by
  induction k with
  | zero => rfl
  | succ k ih =>
    rw [popcTo, ih, List.range_succ, List.filter_append, List.length_append, Nat.add_comm]
    cases hbit : a.getLsbD k <;> simp [b2n, hbit]

theorem getLsbD_brev (a : Word) {i : Nat} (hi : i < 64) : (brev a).getLsbD i = a.getLsbD (63 - i) :=
  getLsbD_maskOf (fun i => a.getLsbD (63 - i)) hi

/-- Byte i of a little-endian value (R3). -/
theorem leVal_byte (bs : List Byte) (i : Nat) : BitVec.ofNat 8 (leVal bs / 256 ^ i) = bs.getD i 0 := by
  induction bs generalizing i with
  | nil => simp [leVal]
  | cons b r ih =>
    have hb : b.toNat < 256 := b.isLt
    cases i with
    | zero =>
      apply BitVec.eq_of_toNat_eq
      rw [leVal, Nat.pow_zero, Nat.div_one, BitVec.toNat_ofNat, List.getD_cons_zero]
      omega
    | succ i =>
      rw [List.getD_cons_succ, ← ih, leVal, Nat.pow_succ, Nat.mul_comm (256 ^ i), ← Nat.div_div_eq_div_mul,
        Nat.add_mul_div_left _ _ (by decide), Nat.div_eq_of_lt hb, Nat.zero_add]

/-- Byte i of the low n bytes of a number. -/
theorem leOf_getD (n v : Nat) {i : Nat} (hi : i < n) : (leOf n v).getD i 0 = BitVec.ofNat 8 (v / 256 ^ i) := by
  induction n generalizing v i with
  | zero => exact absurd hi (Nat.not_lt_zero _)
  | succ n ih =>
    cases i with
    | zero => rw [leOf, List.getD_cons_zero, Nat.pow_zero, Nat.div_one]
    | succ i =>
      rw [leOf, List.getD_cons_succ, ih _ (by omega), Nat.div_div_eq_div_mul, Nat.pow_succ, Nat.mul_comm]

/-- Byte i of a word. -/
theorem byte_w64 (v : Nat) {i : Nat} (hi : i < 8) : (w64 v).extractLsb' (8 * i) 8 = BitVec.ofNat 8 (v / 256 ^ i) := by
  apply BitVec.eq_of_toNat_eq
  have hpow : 256 ^ i = 2 ^ (8 * i) := by rw [Nat.pow_mul]
  have hsplit : (2 : Nat) ^ 64 = 2 ^ (8 * i) * (2 ^ 8 * 2 ^ (56 - 8 * i)) := by rw [← Nat.pow_add, ← Nat.pow_add]; congr 1; omega
  rw [BitVec.extractLsb'_toNat, w64, BitVec.toNat_ofNat, BitVec.toNat_ofNat, Nat.shiftRight_eq_div_pow, hpow, hsplit,
    Nat.mod_mul_right_div_self, Nat.mod_mul_right_mod]

theorem bswap_byte (a : Word) {i : Nat} (hi : i < 8) : (bswap a).extractLsb' (8 * i) 8 = a.extractLsb' (8 * (7 - i)) 8 := by
  have hrev : (leOf 8 a.toNat).reverse.getD i 0 = (leOf 8 a.toNat).getD (7 - i) 0 := by
    rw [List.getD_eq_getElem?_getD, List.getElem?_reverse (by rw [leOf_length]; exact hi), leOf_length, List.getD_eq_getElem?_getD]
  rw [bswap, byte_w64 _ hi, leVal_byte, hrev, leOf_getD _ _ (by omega), ← byte_w64 _ (by omega), w64, word_ofNat_toNat]

/-- The bits of INS: those of b in the field, those of a beside it (R318). -/
theorem getLsbD_insert (a b : Word) (w n : Nat) {k : Nat} (hk : k < 64) :
    ((a &&& ~~~w64 ((2 ^ w - 1) * 2 ^ n)) ||| ((b <<< n) &&& w64 ((2 ^ w - 1) * 2 ^ n))).getLsbD k =
      if n ≤ k ∧ k < n + w then b.getLsbD (k - n) else a.getLsbD k := by
  rw [BitVec.getLsbD_or, BitVec.getLsbD_and, BitVec.getLsbD_and, BitVec.getLsbD_not, getLsbD_fieldMask _ _ hk, BitVec.getLsbD_shiftLeft]
  by_cases h : n ≤ k ∧ k < n + w
  · have hnot : ¬k < n := by omega
    simp [h, hk, hnot]
  · simp [h, hk]

/-! The instructions. -/

section
variable {s : State} {o : SFmt} (h : GuardOn s o.gn o.gs)
include h

/-- A result of g[a] and g[b] under a true guard (R313). -/
theorem regReg_on {f : Word → Word → Word} {v : Word} (hf : f (s.getG o.a) (s.getG o.b) = v) :
    (.next (s.regReg o f) : Res) = .next (s.setG o.d v).advance := by
  rw [State.regReg, guarded_on h, hf]

theorem regImm_on (f : Word → Word → Word) :
    (.next (s.regImm o f) : Res) = .next (s.setG o.d (f (s.getG o.a) (o.imm.signExtend 64))).advance := by
  rw [State.regImm, guarded_on h]

theorem regShift_on {f : Word → Nat → Word} {v : Word} (hf : f (s.getG o.a) (o.imm.toNat % 64) = v) :
    (.next (s.regShift o f) : Res) = .next (s.setG o.d v).advance := by
  rw [State.regShift, guarded_on h, hf]

theorem regUn_on {f : Word → Word} {v : Word} (hf : f (s.getG o.a) = v) :
    (.next (s.regUn o f) : Res) = .next (s.setG o.d v).advance := by
  rw [State.regUn, guarded_on h, hf]

end

/-- Settles O2: each instruction is regReg of its function, and the functions are those of the rows. -/
theorem scalarRegisterResults : Obligations.ScalarRegisterResults := by
  unfold Obligations.ScalarRegisterResults
  intro s o h a b n r
  refine ⟨regReg_on h (word_add _ _), regReg_on h (word_sub _ _), regReg_on h (word_mul _ _), regReg_on h rfl, regReg_on h rfl,
    regReg_on h (divS_eq _ _), regReg_on h rfl, regReg_on h (remS_eq _ _), regReg_on h rfl, regReg_on h rfl, regReg_on h rfl,
    regReg_on h rfl, regReg_on h rfl, regReg_on h (shiftL_eq _ _), regReg_on h (shiftR_eq _ _), regReg_on h (shiftA_eq _ _),
    regReg_on h (rotl_eq _ _), regReg_on h rfl, regReg_on h ?_, regReg_on h rfl, regReg_on h ?_, regReg_on h rfl, regReg_on h rfl,
    regReg_on h rfl⟩
  · -- MAX: the model asks the other way round.
    show (if a.toInt ≤ b.toInt then b else a) = if b.toInt ≤ a.toInt then a else b
    split <;> split
    · next h1 h2 => exact BitVec.eq_of_toInt_eq (Int.le_antisymm h2 h1)
    · rfl
    · rfl
    · omega
  · -- MAXU, likewise.
    show (if a.toNat ≤ b.toNat then b else a) = if b.toNat ≤ a.toNat then a else b
    split <;> split
    · next h1 h2 => exact BitVec.eq_of_toNat_eq (Nat.le_antisymm h2 h1)
    · rfl
    · rfl
    · omega

/-- Settles O3: the immediate forms and the fields by arithmetic, the unary instructions bit by bit. -/
theorem scalarImmediateAndUnaryResults : Obligations.ScalarImmediateAndUnaryResults := by
  unfold Obligations.ScalarImmediateAndUnaryResults
  refine ⟨fun s o h => ?_, fun s o h => ?_⟩
  · intro a b i n w r
    have hn : ¬64 ≤ n := by omega
    refine ⟨congrArg _ (guarded_on h _), regImm_on h _, regImm_on h _, regImm_on h _, regImm_on h _, regImm_on h _,
      regShift_on h ((shiftL_eq _ _).trans (if_neg hn)), regShift_on h ((shiftR_eq _ _).trans (if_neg hn)),
      regShift_on h ((shiftA_eq _ _).trans (if_neg hn)), congrArg _ (guarded_on h _), congrArg _ (guarded_on h _),
      regUn_on h (word_append _ _), regUn_on h ?_, regUn_on h ?_, _, regReg_on h rfl, fun k hk => getLsbD_insert _ _ _ _ hk⟩
    · -- EXTU: the field as a number.
      show w64 (a.toNat >>> n % 2 ^ w) = _
      rw [Nat.shiftRight_eq_div_pow, w64]
    · -- EXTS: the field by its sign.
      show (let v := a.toNat >>> n % 2 ^ w; if v < 2 ^ (w - 1) then w64 v else w64 (2 ^ 64 - 2 ^ w + v)) = _
      rw [Nat.shiftRight_eq_div_pow]
      exact signed_field _ _ (by omega) (by omega)
  · intro a r
    obtain ⟨hclz, hclzSet, hclzClear⟩ := clzTo_spec a 64
    obtain ⟨hctz, hctzSet, hctzClear⟩ := ctzFrom_spec a 64 (Nat.le_refl 64)
    simp only [Nat.sub_self, Nat.zero_add] at hctzSet hctzClear
    refine ⟨⟨_, regUn_on h rfl, hclz, hclzSet, fun j hj => ?_⟩, ⟨_, regUn_on h rfl, hctz, hctzSet, fun j hj => hctzClear j (Nat.zero_le _) hj⟩,
      regUn_on h (congrArg w64 (popcTo_eq a 64)), ⟨_, regUn_on h rfl, fun i hi => getLsbD_brev a hi⟩, _, regUn_on h rfl,
      fun i hi => bswap_byte a hi⟩
    by_cases hj64 : j < 64
    · exact hclzClear j hj hj64
    · exact BitVec.getLsbD_of_ge a j (by omega)

/-- Each scalar integer instruction but NOP writes one register and moves on, under its guard (R312). -/
theorem scalar_writes (o : SFmt) : ∀ i ∈ [Instr.add o, .sub o, .addi o, .mul o, .mulh o, .mulhu o, .div o, .divu o, .rem o, .remu o,
    .and o, .or o, .xor o, .andn o, .andi o, .ori o, .xori o, .shl o, .shr o, .sra o, .shli o, .shri o, .srai o, .rotl o, .clz o, .ctz o,
    .popc o, .min o, .max o, .minu o, .maxu o, .slt o, .sltu o, .seq o, .slti o, .sel o, .movi o, .lih o, .extu o, .exts o, .ins o,
    .brev o, .bswap o], ∃ v : State → Word, ∀ s, exec i s = .next (s.guarded o.gn o.gs fun s => (s.setG o.d (v s)).advance) := by
  simp only [List.forall_mem_cons, List.not_mem_nil, IsEmpty.forall_iff, implies_true, and_true]
  and_intros
  all_goals exact ⟨_, fun _ => rfl⟩

/-- Settles O4: each instruction passes over or writes one register and moves on. -/
theorem scalarFrame : Obligations.ScalarFrame := by
  unfold Obligations.ScalarFrame
  intro s t o i hagent hguard hi hexec
  have hover : RegFrame s s.advance [o.d] ∧ s.advance.pc = s.pc + 8 := ⟨regFrame_advance _ _ hagent, pc_advance _⟩
  rcases List.mem_cons.1 hi with rfl | hi
  · cases hexec
    exact guarded_all (P := fun t => RegFrame s t [o.d] ∧ t.pc = s.pc + 8) hguard hover hover
  · obtain ⟨v, hv⟩ := scalar_writes o i hi
    cases (hv s).symm.trans hexec
    exact guarded_all (P := fun t => RegFrame s t [o.d] ∧ t.pc = s.pc + 8) hguard (setG_frame s o.d (v s) hagent) hover

end Sys2Proof.Laws

/-! What an update of the state leaves of the agents, said once for the instructions of this file and the following ones. -/

namespace Sys2Proof.Laws

open Sys2Proof Sys2Proof.Machine Sys2Proof.Safety

/-- The same agent executes, and no context or core differs. -/
def SameAgents (s t : State) : Prop := t.cur = s.cur ∧ t.cores = s.cores ∧ ∀ d k c, t.ctx d k c = s.ctx d k c

theorem SameAgents.refl (s : State) : SameAgents s s := ⟨rfl, rfl, fun _ _ _ => rfl⟩

theorem SameAgents.trans {s t u : State} (h : SameAgents s t) (k : SameAgents t u) : SameAgents s u := by
  obtain ⟨hcur, hcores, hctx⟩ := h
  obtain ⟨hcur', hcores', hctx'⟩ := k
  exact ⟨hcur'.trans hcur, hcores'.trans hcores, fun d k c => (hctx' d k c).trans (hctx d k c)⟩

section
variable {s t : State} (h : SameAgents s t)
include h

theorem SameAgents.cur : t.cur = s.cur := h.1

theorem SameAgents.hartOf (a : Agent) : t.hartOf a = s.hartOf a := by
  obtain ⟨-, hcores, hctx⟩ := h
  cases a with
  | ctx d k c => exact congrArg Context.hart (hctx d k c)
  | core n => show (t.cores.get n .init).hart = (s.cores.get n .init).hart; rw [hcores]

theorem SameAgents.hart : t.hart = s.hart := by
  rw [State.hart, h.cur, h.hartOf]
  rfl

theorem SameAgents.getG (n : BitVec 5) : t.getG n = s.getG n := by
  rw [State.getG, h.hart]
  rfl

theorem SameAgents.pc : t.pc = s.pc := congrArg Hart.pc h.hart

theorem SameAgents.onCore : t.onCore = s.onCore := by
  rw [State.onCore, h.cur]
  rfl

theorem SameAgents.me : t.me = s.me := by
  obtain ⟨hcur, -, hctx⟩ := h
  rw [State.me, hctx, State.die, State.tix, State.cix, hcur]
  rfl

theorem SameAgents.kept : Kept s t := by
  refine ⟨h.cur, ?_, ?_, ?_, ?_, ?_, fun _ a _ _ => h.hartOf a⟩ <;> rw [h.hart]

end

theorem sameAgents_post (s : State) (n : Nat) (ev : Instr) (x : Arg) : SameAgents s (s.post n ev x) := ⟨rfl, rfl, fun _ _ _ => rfl⟩

/-- A change of a tile beside its contexts. -/
theorem sameAgents_modTile (s : State) (d k : Nat) {f : Tile → Tile} (hf : (f (s.tile d k)).ctxs = (s.tile d k).ctxs) :
    SameAgents s (s.modTile d k f) := by
  refine ⟨rfl, rfl, fun e u c => ?_⟩
  rw [State.ctx, tile_modTile]
  split
  · next heq =>
    have htile : s.tile e u = s.tile d k := by rw [State.tile, heq]; rfl
    rw [State.ctx, htile, Tile.ctx, hf]
    rfl
  · rfl

/-- A change of the executing agent's registers beside those of the trap and rounding kind. -/
theorem kept_modHart (s : State) (f : Hart → Hart) (hepc : (f s.hart).epc = s.hart.epc) (hcause : (f s.hart).cause = s.hart.cause)
    (htval : (f s.hart).tval = s.hart.tval) (hnbv : (f s.hart).nbv = s.hart.nbv) (hrnd : (f s.hart).rnd = s.hart.rnd) :
    Kept s (s.modHart f) := by
  refine ⟨modHart_cur _ _, ?_, ?_, ?_, ?_, ?_, fun hs a ha hne => hartOf_modHartOf_ne s s.cur a f (Ne.symm hne) (agentOk hs) (agentOk ha)⟩
  all_goals rw [hart_modHart]; assumption

theorem kept_advance (s : State) : Kept s s.advance := kept_modHart s _ rfl rfl rfl rfl rfl

theorem kept_waits (s : State) (w : Wait) : Kept s (s.waits w) := kept_modHart s _ rfl rfl rfl rfl rfl

theorem kept_setG (s : State) (n : BitVec 5) (v : Word) : Kept s (s.setG n v) := by
  unfold State.setG
  split
  · exact kept_refl s
  · exact kept_modHart s _ rfl rfl rfl rfl rfl

/-- An instruction that only moves on. -/
theorem steps_advance (s : State) : Steps s s.advance := ⟨pc_advance s, advance_mem s, kept_advance s⟩

/-- An instruction that writes one general register and moves on. -/
theorem steps_setG (s : State) (n : BitVec 5) (v : Word) : Steps s (s.setG n v).advance :=
  ⟨by rw [pc_advance, pc_setG], by rw [advance_mem, setG_mem], kept_trans (kept_setG s n v) (kept_advance _)⟩

@[simp] theorem getG_setPc (s : State) (v : Word) (n : BitVec 5) : (s.setPc v).getG n = s.getG n := by
  rw [State.setPc, getG_modHart]
  rfl

@[simp] theorem getG_waits (s : State) (w : Wait) (n : BitVec 5) : (s.waits w).getG n = s.getG n := by
  rw [State.waits, getG_modHart]
  rfl

@[simp] theorem pc_waits (s : State) (w : Wait) : (s.waits w).pc = s.pc := by
  rw [State.waits, State.pc, hart_modHart]
  rfl

@[simp] theorem wait_waits (s : State) (w : Wait) : (s.waits w).hart.wait = w := by
  rw [State.waits, hart_modHart]
  rfl

/-- A change of the executing agent's registers leaves of a tile all but its contexts. -/
theorem tile_modHart (s : State) (f : Hart → Hart) (d k : Nat) :
    (s.modHart f).tile d k = { s.tile d k with ctxs := ((s.modHart f).tile d k).ctxs } := (onlyHarts_modHartOf s s.cur f).2.1 d k

theorem ctx_modHart (s : State) (f : Hart → Hart) (d k c : Nat) :
    (s.modHart f).ctx d k c = { s.ctx d k c with hart := ((s.modHart f).ctx d k c).hart } := (onlyHarts_modHartOf s s.cur f).2.2.1 d k c

/-- The executing context's tile, whichever agent registers have changed. -/
theorem myTile_of_cur {s t : State} (h : t.cur = s.cur) : t.myTile = t.tile s.die s.tix := by
  rw [State.myTile, State.die, State.tix, h]
  rfl

/-- The region that holds a tile, by the slots alone. -/
theorem regionAt_of_slots {s t : State} (h : t.slots = s.slots) (d k : Nat) : t.regionAt d k = s.regionAt d k := by
  unfold State.regionAt
  congr 1
  funext i
  rw [slot_of_slots h]

end Sys2Proof.Laws

/-! O5, O6, O7, O8: branches, calls, tile predicates, the end of an invocation and the waits of a context (14 R320-R330). -/

namespace Sys2Proof.Laws

open Sys2Proof Sys2Proof.Machine Sys2Proof.Safety

/-! Targets (R297). -/

/-- An offset in instructions, in bytes. -/
theorem offset_bytes (x : BitVec 32) : x.signExtend 64 <<< 3 = BitVec.ofInt 64 (8 * x.toInt) := by
  have hsign : x.signExtend 64 = BitVec.ofInt 64 x.toInt := rfl
  rw [hsign, Int.mul_comm, BitVec.ofInt_mul, BitVec.shiftLeft_eq_mul_twoPow]
  rfl

theorem target_eq (s : State) (o : BFmt) : s.target o = s.pc + BitVec.ofInt 64 (8 * o.off.toInt) := by
  rw [State.target, offset_bytes]

theorem branchIf_eq (s : State) (o : BFmt) (c : Bool) :
    s.branchIf o c = if c = true then s.setPc (s.pc + BitVec.ofInt 64 (8 * o.off.toInt)) else s.advance := by
  rw [State.branchIf, target_eq]

section
variable {s : State} {o : BFmt} (h : GuardOn s o.gn o.gs)
include h

/-- A branch under a true guard goes to its target where its comparison holds (R321). -/
theorem cmpBranch_on (f : Word → Word → Bool) : (.next (s.cmpBranch o f) : Res) =
    .next (if f (s.getG o.a) (s.getG o.b) = true then s.setPc (s.pc + BitVec.ofInt 64 (8 * o.off.toInt)) else s.advance) := by
  rw [State.cmpBranch, guarded_on h, branchIf_eq]

theorem exec_loop_on : exec (.loop o) s = if 1 < (s.getG o.a).toNat
    then .next ((s.setG o.a (s.getG o.a - 1)).setPc (s.pc + BitVec.ofInt 64 (8 * o.off.toInt))) else .next (s.setG o.a 0).advance := by
  show Host.Outcome.next (s.guarded o.gn o.gs _) = _
  rw [guarded_on h, apply_ite Host.Outcome.next, target_eq]

theorem exec_jalr_on : exec (.jalr o) s = .next (
    let dest := s.getG o.b + BitVec.ofInt 64 (8 * o.off.toInt)
    if dest.toNat % 8 = 0 then (s.setG o.a (s.pc + 8)).setPc dest else s.trap 3 2 dest) := by
  show Host.Outcome.next (s.guarded o.gn o.gs _) = _
  rw [guarded_on h, offset_bytes]
  simp only [bits_zero_eq_mod]
  rfl

end

/-- Settles O5: each branch is cmpBranch of its comparison. -/
theorem branchAndCallResults : Obligations.BranchAndCallResults := by
  unfold Obligations.BranchAndCallResults
  refine ⟨fun s o h => ?_, fun s o h => ?_⟩
  · intro a b dest r
    have hbne : (a != b) = decide (a ≠ b) := by rw [bne, beq_eq_decide, decide_not]
    refine ⟨cmpBranch_on h _, ?_, ?_, cmpBranch_on h _, cmpBranch_on h _, cmpBranch_on h _, cmpBranch_on h _, exec_loop_on h⟩
    · exact (cmpBranch_on h fun a b => a == b).trans (by rw [beq_eq_decide])
    · exact (cmpBranch_on h fun a b => a != b).trans (by rw [hbne])
  · intro dest
    refine ⟨congrArg _ ((guarded_on h _).trans (by rw [target_eq])), fun hal => ?_, fun hal => ?_⟩
    · rw [exec_jalr_on h]
      exact congrArg _ (if_pos hal)
    · rw [exec_jalr_on h]
      exact congrArg _ (if_neg hal)

/-! Tile state. -/

/-- TILE.PRED under a mask takes a value: nothing else that a program reads changes (R325). -/
theorem psetWith_on {s : State} {o : BFmt} (h : CtxOn s o.gn o.gs) (v : State → BitVec 8) :
    (s.psetWith o v).myTile.pred = (s.myTile.pred &&& ~~~o.aux) ||| (v s &&& o.aux) ∧ (s.psetWith o v).pc = s.pc + 8
      ∧ (s.psetWith o v).mem = s.mem ∧ ∀ n, (s.psetWith o v).getG n = s.getG n := by
  rw [State.psetWith, guardedCtx_on h]
  simp only
  generalize hu : ((s.modMyTile fun t => { t with pred := (s.myTile.pred &&& ~~~o.aux) ||| (v s &&& o.aux) }).post 1 .triggerFire
    (.tileRef { die := s.die, tile := s.tix })) = u
  have hsame : SameAgents s u := hu ▸ (sameAgents_modTile s _ _ rfl).trans (sameAgents_post _ _ _ _)
  have hpred : (u.tile s.die s.tix).pred = (s.myTile.pred &&& ~~~o.aux) ||| (v s &&& o.aux) := by
    rw [← hu]
    exact congrArg Tile.pred (tile_modTile_self s s.die s.tix fun t => { t with pred := (s.myTile.pred &&& ~~~o.aux) ||| (v s &&& o.aux) })
  refine ⟨?_, by rw [pc_advance, hsame.pc], by rw [advance_mem, ← hu]; rfl, fun n => by rw [getG_advance, hsame.getG]⟩
  rw [myTile_of_cur ((advance_cur u).trans hsame.cur), State.advance, tile_modHart, hpred]

theorem exec_bmk_on {s : State} {o : BFmt} (h : CtxOn s o.gn o.gs) : exec (.bmk o) s = .next (
    match s.me.maskLink (o.aux.toNat % 8) with
    | some k => s.waits (.links (s.me.links.length - k))
    | none => s.branchIf o (maskCond (o.aux.toNat / 8 % 4) (s.me.mask (o.aux.toNat % 8)))) :=
  congrArg _ (guardedCtx_on h _)

/-- Settles O6: BPT and BMK by their condition, the three PSET by the value that each names. -/
theorem predicateResults : Obligations.PredicateResults := by
  unfold Obligations.PredicateResults
  refine ⟨fun s o h => ?_, fun s o h => ?_⟩
  · intro dest r n m
    refine ⟨congrArg _ ((guardedCtx_on h _).trans (branchIf_eq ..)), fun hfree => ?_, fun k hlink => ?_⟩
    · rw [exec_bmk_on h, hfree]
      simp only [branchIf_eq]
      unfold maskCond
      split <;> rfl
    · rw [exec_bmk_on h, hlink]
  · intro w
    exact ⟨⟨_, rfl, psetWith_on h _⟩, ⟨_, rfl, psetWith_on h _⟩, _, rfl, psetWith_on h _⟩

/-! The end of an invocation and the waits. -/

/-- With every walker of the die idle no command goes on (R95). -/
theorem settle_idle {s : State} {d : Nat} (h : ∀ w, ((s.box d).walker w).st = .idle) : s.settle d = s :=
  foldl_fixed_mem fun w _ => by simp [h w]

/-- The end of an invocation where no walker of the die waits for it (R95). -/
theorem endInvocation_idle {s : State} {d k c i : Nat} (hidle : ∀ w, ((s.box d).walker w).st = .idle) (hi : s.regionAt d k = some i) :
    ((s.endInvocation d k c).ctx d k c).live = false ∧ (s.endInvocation d k c).mem = s.mem
      ∧ ((s.endInvocation d k c).slot d i).count = if bit (vget (s.tile d k).trg (2 * (s.ctx d k c).cls) 0) 48
          then min ((s.slot d i).count + 1) 0xFFFFFFFF else (s.slot d i).count := by
  unfold State.endInvocation
  simp only [hi]
  generalize hs1 : ((s.forget { kind := .access, die := d, tile := k, i := c }).modCtx d k c Context.free).post 1 .triggerFire
    (.tileRef { die := d, tile := k }) = s1
  have hlive : (s1.ctx d k c).live = false := by
    rw [← hs1]
    exact congrArg Context.live (ctx_modCtx_self ..)
  have hmem : s1.mem = s.mem := hs1 ▸ rfl
  have hslot : s1.slot d i = s.slot d i := hs1 ▸ rfl
  have hbox : s1.box d = s.box d := hs1 ▸ rfl
  generalize hs2 : (if bit (vget (s.tile d k).trg (2 * (s.ctx d k c).cls) 0) 48 = true
    then s1.modSlot d i fun r => { r with count := stick (r.count + 1) 0xFFFFFFFF } else s1) = s2
  have h2 : (s2.ctx d k c).live = false ∧ s2.mem = s.mem ∧ s2.box d = s.box d
      ∧ (s2.slot d i).count = if bit (vget (s.tile d k).trg (2 * (s.ctx d k c).cls) 0) 48
          then min ((s.slot d i).count + 1) 0xFFFFFFFF else (s.slot d i).count := by
    rw [← hs2]
    split
    · rw [slot_modSlot_self, hslot]
      exact ⟨hlive, hmem, hbox, stick_eq_min ..⟩
    · exact ⟨hlive, hmem, hbox, by rw [hslot]⟩
  split
  · rw [settle_idle fun w => by rw [box_post, h2.2.2.1]; exact hidle w]
    exact ⟨h2.1, h2.2.1, h2.2.2.2⟩
  · rw [settle_idle fun w => by rw [h2.2.2.1]; exact hidle w]
    exact ⟨h2.1, h2.2.1, h2.2.2.2⟩

section
variable {s : State} {o : BFmt} (h : CtxOn s o.gn o.gs)
include h

theorem exec_ret_on : exec (.ret o) s =
    .next (if s.me.links.isEmpty then s.advance.endInvocation s.die s.tix s.cix else s.waits .settle) :=
  congrArg _ (guardedCtx_on h _)

theorem exec_ret_ends (hlinks : s.me.links = []) : exec (.ret o) s = .next (s.advance.endInvocation s.die s.tix s.cix) := by
  rw [exec_ret_on h, hlinks]
  rfl

theorem exec_ret_waits (hlinks : s.me.links ≠ []) : exec (.ret o) s = .next (s.waits .settle) := by
  rw [exec_ret_on h, if_neg (by rwa [List.isEmpty_iff])]

theorem exec_yield_on : exec (.yield o) s =
    .next (s.advance.waits (.yield (s.sys.cycles + 10 * o.aux.toNat) (s.readyOthers s.die s.tix s.cix))) :=
  congrArg _ (guardedCtx_on h _)

theorem exec_waitp_on : exec (.waitp o) s = .next (
    if s.myTile.pred &&& o.aux = o.off.extractLsb' 8 8 &&& o.aux then s.advance else s.waits (.pred o.aux (o.off.extractLsb' 8 8))) :=
  congrArg _ (guardedCtx_on h _)

end

/-- Settles O7: RET by what the end of an invocation leaves, YIELD and WAITP by their waits. -/
theorem invocationEndAndWaits : Obligations.InvocationEndAndWaits := by
  unfold Obligations.InvocationEndAndWaits
  intro s o h _
  refine ⟨exec_ret_ends h, fun hlinks hidle i hi => ⟨_, exec_ret_ends h hlinks, ?_⟩, exec_ret_waits h, ⟨_, exec_yield_on h, ?_, ?_⟩,
    fun heq => by rw [exec_waitp_on h, if_pos heq], fun hne => by rw [exec_waitp_on h, if_neg hne]⟩
  · -- R327: the advance before the end leaves the walkers, the slots and the tile's trigger words.
    obtain ⟨hlive, hmem, hcount⟩ := endInvocation_idle (s := s.advance) (c := s.cix)
      (fun w => by rw [box_of_boxes (advance_boxes s)]; exact hidle w) ((regionAt_of_slots (advance_slots s) _ _).trans hi)
    refine ⟨hlive, hmem.trans (advance_mem s), hcount.trans ?_⟩
    rw [slot_of_slots (advance_slots s), State.advance, tile_modHart, ctx_modHart]
    rfl
  · exact ⟨by rw [pc_waits, pc_advance], by rw [waits_mem, advance_mem], kept_trans (kept_advance s) (kept_waits _ _)⟩
  · exact wait_waits _ _

/-! Frames. -/

theorem regFrame_waits (s : State) (w : Wait) (ds : List (BitVec 5)) (h : AgentOk s.cur) : RegFrame s (s.waits w) ds :=
  regFrame_modHart _ _ _ h rfl fun _ _ _ => rfl

theorem regFrame_branchIf (s : State) (o : BFmt) (c : Bool) (ds : List (BitVec 5)) (h : AgentOk s.cur) : RegFrame s (s.branchIf o c) ds := by
  unfold State.branchIf
  split
  · exact regFrame_setPc _ _ _ h
  · exact regFrame_advance _ _ h

/-- A write of one register, then a new program counter. -/
theorem regFrame_call (s : State) (n : BitVec 5) (v t : Word) (h : AgentOk s.cur) : RegFrame s ((s.setG n v).setPc t) [n] :=
  regFrame_trans (regFrame_setG s n v _ h (by simp)) (regFrame_setPc _ _ _ (by rw [cur_setG]; exact h)) (cur_setG _ _ _)

/-- A compare-and-branch and BR by one rule (R321). -/
theorem branches_compare (o : BFmt) : ∀ i ∈ [Instr.br o, .beq o, .bne o, .blt o, .bge o, .bltu o, .bgeu o],
    ∃ f, ∀ s, exec i s = .next (s.cmpBranch o f) := by
  simp only [List.forall_mem_cons, List.not_mem_nil, IsEmpty.forall_iff, implies_true, and_true]
  and_intros
  all_goals exact ⟨_, fun _ => rfl⟩

/-- Settles O8: the frame of each of the forms, under any guard. -/
theorem branchFrame : Obligations.BranchFrame := by
  unfold Obligations.BranchFrame
  intro s t o i hagent hguard
  have hover : ∀ ds, RegFrame s s.advance ds := fun ds => regFrame_advance _ _ hagent
  refine ⟨fun hi hexec => ?_, fun hi hexec => ?_, fun hctx hi hexec => ?_⟩
  · obtain ⟨f, hf⟩ := branches_compare o i hi
    cases (hf s).symm.trans hexec
    exact guarded_all (P := fun t => RegFrame s t []) hguard (regFrame_branchIf _ _ _ _ hagent) (hover _)
  · simp only [List.mem_cons, List.not_mem_nil, or_false] at hi
    rcases hi with rfl | rfl
    · cases hexec
      exact guarded_all (P := fun t => RegFrame s t [o.a]) hguard (regFrame_call _ _ _ _ hagent) (hover _)
    · cases hexec
      refine guarded_all (P := fun t => RegFrame s t [o.a]) hguard ?_ (hover _)
      split
      · exact regFrame_call _ _ _ _ hagent
      · exact (setG_frame _ _ _ hagent).1
  · have hplain : ∀ k, s.guardedCtx o.gn o.gs k = s.guarded o.gn o.gs k := fun k => by rw [State.guardedCtx, hctx]; rfl
    simp only [List.mem_cons, List.not_mem_nil, or_false] at hi
    rcases hi with rfl | rfl
    · cases hexec
      rw [hplain]
      exact guarded_all (P := fun t => RegFrame s t []) hguard (regFrame_branchIf _ _ _ _ hagent) (hover _)
    · cases hexec
      rw [hplain]
      refine guarded_all (P := fun t => RegFrame s t []) hguard ?_ (hover _)
      simp only
      split
      · exact regFrame_waits _ _ _ hagent
      · exact regFrame_branchIf _ _ _ _ hagent

end Sys2Proof.Laws

/-! O9, O45: what each instruction's guard is, by groups of the opcode table, and what follows where the guard is false, where it is not 0 on
a core, and at application level (09 R199; 13 R295, R304). -/

namespace Sys2Proof.Laws

open Sys2Proof Sys2Proof.Machine Sys2Proof.Safety

/-! The groups of R303, as the statements list them. -/

/-- The scalar integer instructions. -/
def scalarForms (o : SFmt) : List Instr :=
  [.nop o, .add o, .sub o, .addi o, .mul o, .mulh o, .mulhu o, .div o, .divu o, .rem o, .remu o, .and o, .or o, .xor o, .andn o, .andi o,
    .ori o, .xori o, .shl o, .shr o, .sra o, .shli o, .shri o, .srai o, .rotl o, .clz o, .ctz o, .popc o, .min o, .max o, .minu o, .maxu o,
    .slt o, .sltu o, .seq o, .slti o, .sel o, .movi o, .lih o, .extu o, .exts o, .ins o, .brev o, .bswap o]

/-- The loads and stores. -/
def accessForms (o : SFmt) : List Instr :=
  [.ldb o, .ldbu o, .ldh o, .ldhu o, .ldw o, .ldwu o, .ldd o, .stb o, .sth o, .stw o, .std o, .ldq o, .stq o]

/-- The atomics, with LDAQ and STREL. -/
def atomicForms (o : SFmt) : List Instr :=
  [.aadd o, .aand o, .aor o, .axor o, .amin o, .amax o, .aminu o, .amaxu o, .aswap o, .acas o, .ldaq o, .strel o]

/-- The branches and calls that a core runs too. -/
def branchForms (p : BFmt) : List Instr :=
  [.br p, .beq p, .bne p, .blt p, .bge p, .bltu p, .bgeu p, .jal p, .jalr p, .loop p]

/-- The control instructions on tile state. -/
def tileForms (p : BFmt) : List Instr := [.bpt p, .bmk p, .pset p, .psetR p, .psetNz p, .ret p, .yield p, .waitp p]

/-- The vector instructions. -/
def vectorForms (v : VFmt) : List Instr :=
  [.vadd v, .vsub v, .vmul v, .vfma v, .vfms v, .vnfma v, .vabs v, .vneg v, .vmax v, .vmin v, .vdiv v, .vrcp v, .vsqrt v, .vrsq v, .vexp2 v,
    .vlog2 v, .vscale v, .vcmp v, .vcmpt v, .vcut v, .vsettle v, .vcvt v, .vqnt v, .vdq v, .vsel v, .viadd v, .visub v, .vimul v, .vimin v,
    .vimax v, .vand v, .vor v, .vxor v, .vshl v, .vshr v, .vsra v, .vmov v, .vbcast v, .vext v, .vins v, .vperm v, .vrot v, .viota v,
    .vrsum v, .vrmax v, .vrarg v, .vtopk v, .vscan v, .mand v, .mor v, .mxor v, .mnot v, .mpop v, .mfirst v, .mset v, .vld v, .vst v,
    .vlds v, .vsts v, .vgth v, .vsct v, .vrng v]

/-- The matrix instructions. -/
def matrixForms (m : MFmt) : List Instr := [.mzero m, .mma m, .mmas m, .mrd m, .mrdq m, .mlda m, .mscl m, .mwait m]

/-- The APE and port instructions but APCFG.m, which reads memory. -/
def portForms (c : CFmt) : List Instr :=
  [.apcfgR c, .apcfgPre c, .apdim c, .apstart c, .apstop c, .appos c, .apseek c, .qbind c, .qbindK c, .qbindU c, .qstat c]

/-- The copy and coach instructions. -/
def copyCoachForms (c : CFmt) : List Instr :=
  [.cecpy c, .ce2d c, .cefill c, .cepg c, .cestat c, .ceabt c, .knew c, .knewC c, .ksend c, .kfwd c, .khdr c, .kset c, .kdrop c, .kmrg c,
    .ksplit c]

/-- The stream context and speculation instructions. -/
def streamForms (c : CFmt) : List Instr := [.sctch c, .scld c, .scev c, .scqry c, .spacc c, .spres c]

/-- The system instructions under a plain guard that a core runs too. -/
def coreForms (c : CFmt) : List Instr := [.trap c, .bkpt c, .time c, .waitt c]

/-- The instructions whose one memory operand is at g[a] (R414, R424, R425). -/
def recordForms (c : CFmt) : List Instr := [.shlk c, .shrefInc c, .shrefDec c, .shpin c, .kvcmt c, .kvrej c, .trpub c, .launch c]

/-- The supervisor-level instructions that a core runs too. -/
def supervisorForms (c : CFmt) : List Instr := [.tlbiAll c, .tlbiAsid c, .tlbiVa c, .tlbiVall c, .cfgld c, .halt c]

/-- The supervisor-level instructions of contexts only. -/
def supervisorCtxForms (c : CFmt) : List Instr := [.trgld c, .ctxsv c, .ctxld c]

/-! The guard of each group. -/

theorem scalarForms_guarded (o : SFmt) : ∀ i ∈ scalarForms o, ∀ s, ∃ k, exec i s = .next (s.guarded o.gn o.gs k) := by
  simp only [scalarForms, List.forall_mem_cons, List.not_mem_nil, IsEmpty.forall_iff, implies_true, and_true]
  and_intros
  all_goals exact fun _ => ⟨_, rfl⟩

theorem accessForms_guarded (o : SFmt) : ∀ i ∈ accessForms o, ∀ s, ∃ k, exec i s = .next (s.guardedAt o.gn o.gs (s.ea o).toNat k) := by
  simp only [accessForms, List.forall_mem_cons, List.not_mem_nil, IsEmpty.forall_iff, implies_true, and_true]
  and_intros
  all_goals exact fun _ => ⟨_, rfl⟩

theorem atomicForms_guarded (o : SFmt) : ∀ i ∈ atomicForms o, ∀ s, ∃ k, exec i s = .next (s.guardedAt o.gn o.gs (s.ea o).toNat k) := by
  simp only [atomicForms, List.forall_mem_cons, List.not_mem_nil, IsEmpty.forall_iff, implies_true, and_true]
  and_intros
  all_goals exact fun _ => ⟨_, rfl⟩

theorem branchForms_guarded (p : BFmt) : ∀ i ∈ branchForms p, ∀ s, ∃ k, exec i s = .next (s.guarded p.gn p.gs k) := by
  simp only [branchForms, List.forall_mem_cons, List.not_mem_nil, IsEmpty.forall_iff, implies_true, and_true]
  and_intros
  all_goals exact fun _ => ⟨_, rfl⟩

theorem tileForms_guarded (p : BFmt) : ∀ i ∈ tileForms p, ∀ s, ∃ k, exec i s = .next (s.guardedCtx p.gn p.gs k) := by
  simp only [tileForms, List.forall_mem_cons, List.not_mem_nil, IsEmpty.forall_iff, implies_true, and_true]
  and_intros
  all_goals exact fun _ => ⟨_, rfl⟩

/-! What the shared operations of the vector and matrix groups do is done under one guard. -/

section
variable (s : State) (v : VFmt)

theorem vecWork_masked (srcs need ms dest k) : ∃ g, s.vecWork v srcs need ms dest k = s.masked v.gn v.gs g := by
  unfold State.vecWork
  exact ⟨_, rfl⟩

theorem vecOp_masked (srcs need ms k) : ∃ g, (.next (s.vecOp v srcs need ms k) : Res) = .next (s.masked v.gn v.gs g) :=
  (vecWork_masked s v srcs need ms none _).imp fun _ h => congrArg _ h

theorem vecPut_masked (srcs need ms k) : ∃ g, (.next (s.vecPut v srcs need ms k) : Res) = .next (s.masked v.gn v.gs g) :=
  (vecWork_masked s v srcs need ms _ _).imp fun _ h => congrArg _ h

theorem lane2_masked (f) : ∃ g, (.next (s.lane2 v f) : Res) = .next (s.masked v.gn v.gs g) := vecPut_masked ..

theorem laneShift_masked (f) : ∃ g, (.next (s.laneShift v f) : Res) = .next (s.masked v.gn v.gs g) := by
  unfold State.laneShift
  split
  · exact vecPut_masked ..
  · exact lane2_masked ..

theorem moveLanes_masked (srcs f) : ∃ g, (.next (s.moveLanes v srcs f) : Res) = .next (s.masked v.gn v.gs g) := vecPut_masked ..

theorem reduce_masked (x f) : ∃ g, (.next (s.reduce v x f) : Res) = .next (s.masked v.gn v.gs g) := vecPut_masked ..

theorem maskOp_masked (srcs f) : ∃ g, (.next (s.maskOp v srcs f) : Res) = .next (s.masked v.gn v.gs g) := vecOp_masked ..

theorem chainOp_masked (b c f) : ∃ g, (.next (s.chainOp v b c f) : Res) = .next (s.masked v.gn v.gs g) := by
  unfold State.chainOp
  exact ⟨_, rfl⟩

theorem float2_masked (f) : ∃ g, (.next (s.float2 v f) : Res) = .next (s.masked v.gn v.gs g) := chainOp_masked ..

theorem floatRef_masked (f) : ∃ g, (.next (s.floatRef v f) : Res) = .next (s.masked v.gn v.gs g) := by
  unfold State.floatRef
  exact chainOp_masked ..

theorem matrixOp_masked (m : MFmt) (k) : ∃ g, (.next (s.matrixOp m k) : Res) = .next (s.masked m.gn m.gs g) := by
  unfold State.matrixOp
  exact ⟨_, rfl⟩

end

theorem vectorForms_masked (v : VFmt) : ∀ i ∈ vectorForms v, ∀ s, ∃ k, exec i s = .next (s.masked v.gn v.gs k) := by
  simp only [vectorForms, List.forall_mem_cons, List.not_mem_nil, IsEmpty.forall_iff, implies_true, and_true]
  exact ⟨fun s => float2_masked s v _, fun s => float2_masked s v _, fun s => float2_masked s v _, fun s => chainOp_masked s v _ _ _,
    fun s => chainOp_masked s v _ _ _, fun s => chainOp_masked s v _ _ _, fun s => chainOp_masked s v _ _ _,
    fun s => chainOp_masked s v _ _ _, fun s => float2_masked s v _, fun s => float2_masked s v _, fun s => float2_masked s v _,
    fun s => floatRef_masked s v _, fun s => chainOp_masked s v _ _ _, fun s => floatRef_masked s v _, fun s => floatRef_masked s v _,
    fun s => floatRef_masked s v _, fun s => chainOp_masked s v _ _ _, fun _ => ⟨_, rfl⟩, fun _ => ⟨_, rfl⟩,
    fun s => vecOp_masked s v _ _ _ _, fun _ => ⟨_, rfl⟩, fun s => vecPut_masked s v _ _ _ _, fun s => vecOp_masked s v _ _ _ _,
    fun s => vecPut_masked s v _ _ _ _, fun s => vecPut_masked s v _ _ _ _, fun s => lane2_masked s v _, fun s => lane2_masked s v _,
    fun s => lane2_masked s v _, fun s => lane2_masked s v _, fun s => lane2_masked s v _, fun s => lane2_masked s v _,
    fun s => lane2_masked s v _, fun s => lane2_masked s v _, fun s => laneShift_masked s v _, fun s => laneShift_masked s v _,
    fun s => laneShift_masked s v _, fun s => moveLanes_masked s v _ _, fun s => moveLanes_masked s v _ _,
    fun s => vecOp_masked s v _ _ _ _, fun s => vecOp_masked s v _ _ _ _, fun s => moveLanes_masked s v _ _,
    fun s => moveLanes_masked s v _ _, fun s => vecPut_masked s v _ _ _ _, fun s => reduce_masked s v _ _, fun s => reduce_masked s v _ _,
    fun s => vecOp_masked s v _ _ _ _, fun s => vecOp_masked s v _ _ _ _, fun s => reduce_masked s v _ _, fun s => maskOp_masked s v _ _,
    fun s => maskOp_masked s v _ _, fun s => maskOp_masked s v _ _, fun s => maskOp_masked s v _ _, fun s => vecOp_masked s v _ _ _ _,
    fun s => vecOp_masked s v _ _ _ _, fun s => maskOp_masked s v _ _, fun s => vecOp_masked s v _ _ _ _,
    fun s => vecOp_masked s v _ _ _ _, fun s => vecOp_masked s v _ _ _ _, fun s => vecOp_masked s v _ _ _ _,
    fun s => vecOp_masked s v _ _ _ _, fun s => vecOp_masked s v _ _ _ _, fun s => vecOp_masked s v _ _ _ _⟩

theorem matrixForms_masked (m : MFmt) : ∀ i ∈ matrixForms m, ∀ s, ∃ k, exec i s = .next (s.masked m.gn m.gs k) := by
  simp only [matrixForms, List.forall_mem_cons, List.not_mem_nil, IsEmpty.forall_iff, implies_true, and_true]
  exact ⟨fun s => matrixOp_masked s m _, fun s => matrixOp_masked s m _, fun s => matrixOp_masked s m _, fun _ => ⟨_, rfl⟩,
    fun s => matrixOp_masked s m _, fun s => matrixOp_masked s m _, fun _ => ⟨_, rfl⟩, fun s => matrixOp_masked s m _⟩

theorem portForms_masked (c : CFmt) : ∀ i ∈ portForms c, ∀ s, ∃ k, exec i s = .next (s.masked c.gn c.gs k) := by
  simp only [portForms, List.forall_mem_cons, List.not_mem_nil, IsEmpty.forall_iff, implies_true, and_true]
  and_intros
  all_goals exact fun _ => ⟨_, rfl⟩

theorem copyCoachForms_guarded (c : CFmt) : ∀ i ∈ copyCoachForms c, ∀ s, ∃ k, exec i s = .next (s.guardedCtx c.gn c.gs k) := by
  simp only [copyCoachForms, List.forall_mem_cons, List.not_mem_nil, IsEmpty.forall_iff, implies_true, and_true]
  and_intros
  all_goals exact fun _ => ⟨_, rfl⟩

theorem streamForms_guarded (c : CFmt) : ∀ i ∈ streamForms c, ∀ s, ∃ k, exec i s = .next (s.guardedCtx c.gn c.gs k) := by
  simp only [streamForms, List.forall_mem_cons, List.not_mem_nil, IsEmpty.forall_iff, implies_true, and_true]
  and_intros
  all_goals exact fun _ => ⟨_, rfl⟩

theorem coreForms_guarded (c : CFmt) : ∀ i ∈ coreForms c, ∀ s, ∃ k, exec i s = .next (s.guarded c.gn c.gs k) := by
  simp only [coreForms, List.forall_mem_cons, List.not_mem_nil, IsEmpty.forall_iff, implies_true, and_true]
  and_intros
  all_goals exact fun _ => ⟨_, rfl⟩

theorem recordForms_guarded (c : CFmt) : ∀ i ∈ recordForms c, ∀ s, ∃ k, exec i s = .next (s.guardedFor c [s.getG c.a] k) := by
  simp only [recordForms, List.forall_mem_cons, List.not_mem_nil, IsEmpty.forall_iff, implies_true, and_true]
  and_intros
  all_goals exact fun _ => ⟨_, rfl⟩

theorem supervisorForms_guarded (c : CFmt) : ∀ i ∈ supervisorForms c, ∀ s, ∃ k, exec i s = .next (s.guardedSup c.gn c.gs true k) := by
  simp only [supervisorForms, List.forall_mem_cons, List.not_mem_nil, IsEmpty.forall_iff, implies_true, and_true]
  and_intros
  all_goals exact fun _ => ⟨_, rfl⟩

theorem supervisorCtxForms_guarded (c : CFmt) : ∀ i ∈ supervisorCtxForms c, ∀ s, ∃ k, exec i s = .next (s.guardedSup c.gn c.gs false k) := by
  simp only [supervisorCtxForms, List.forall_mem_cons, List.not_mem_nil, IsEmpty.forall_iff, implies_true, and_true]
  and_intros
  all_goals exact fun _ => ⟨_, rfl⟩

/-! What each guard comes to where it is false, on a core, and at application level. -/

section
variable {s : State} {gn : Bool} {gs : BitVec 3}

/-- A supervisor-level instruction whose guard is false passes over (R295). -/
theorem guardedSup_off (hsup : s.isSup = true) (h : GuardOff s gn gs) (core : Bool) (k : State → State) :
    s.guardedSup gn gs core k = s.advance := by
  simp [State.guardedSup, guarded_off h, h.1, hsup]

/-- A supervisor-level instruction on a core under a guard other than 0, or that a core may not run, is ILLEGAL (R304). -/
theorem guardedSup_core (h : s.onCore = true) {core : Bool} (hg : core = false ∨ gs ≠ 0) (k : State → State) :
    s.guardedSup gn gs core k = s.illegal := by
  unfold State.guardedSup
  cases core
  · rw [if_pos (by simp [h])]
  · rw [if_neg (by simp), if_pos (by simpa [h] using hg)]

/-- An application-level address in control space traps PRIV (R275, R295). -/
theorem guardedAt_ctl {ea : Nat} (h : ea / 2 ^ 60 = 4 ∧ s.isSup = false) (k : State → State) : s.guardedAt gn gs ea k = s.priv := by
  rw [State.guardedAt, h.1, h.2]
  rfl

/-- Any other address leaves the instruction to its guard. -/
theorem guardedAt_guarded {ea : Nat} (h : ¬(ea / 2 ^ 60 = 4 ∧ s.isSup = false)) (k : State → State) :
    s.guardedAt gn gs ea k = s.guarded gn gs k := by
  rw [State.guardedAt, if_neg]
  simpa using h

theorem isSup_core (h : s.onCore = true) : s.isSup = true := by
  rw [State.isSup, h]
  rfl

theorem guardedAt_core (h : s.onCore = true) (hg : gs ≠ 0) {ea : Nat} (k : State → State) : s.guardedAt gn gs ea k = s.illegal := by
  rw [guardedAt_guarded (by simp [isSup_core h]), guarded_core h hg]

end

section
variable {s : State} {c : CFmt} {eas : List Word}

theorem guardedFor_core (h : s.onCore = true) (k : State → State) : s.guardedFor c eas k = s.illegal := if_pos h

/-- An application-level operand in control space traps PRIV (R275, R295). -/
theorem guardedFor_ctl (h : s.onCore = false) {x : Word} (hx : x ∈ eas) (hctl : x.toNat / 2 ^ 60 = 4 ∧ s.isSup = false) (k : State → State) :
    s.guardedFor c eas k = s.priv := by
  have hany : (eas.any fun a => a.toNat / 2 ^ 60 == 4) = true := List.any_eq_true.2 ⟨x, hx, by simpa using hctl.1⟩
  rw [State.guardedFor, if_neg (by simp [h]), hany, hctl.2]
  rfl

/-- Operands elsewhere leave the instruction to its guard. -/
theorem guardedFor_guarded (h : s.onCore = false) (hctl : ∀ x ∈ eas, ¬(x.toNat / 2 ^ 60 = 4 ∧ s.isSup = false)) (k : State → State) :
    s.guardedFor c eas k = s.guarded c.gn c.gs k := by
  rw [State.guardedFor, if_neg (by simp [h]), if_neg]
  rw [Bool.and_eq_true, List.any_eq_true]
  rintro ⟨⟨x, hx, hpath⟩, hsup⟩
  exact hctl x hx ⟨by simpa using hpath, by simpa using hsup⟩

theorem guardedFor_off (h : GuardOff s c.gn c.gs) (hctl : ∀ x ∈ eas, ¬(x.toNat / 2 ^ 60 = 4 ∧ s.isSup = false)) (k : State → State) :
    s.guardedFor c eas k = s.advance := (guardedFor_guarded h.1 hctl k).trans (guarded_off h k)

end

/-! The checks of a CSR instruction (R295, R428). -/

section
variable {s : State} {c : CFmt} {write : Bool}

theorem csrOp_unknown (hknown : knownCsr (c.f 11 0) = false) (k : Nat → State → State) : s.csrOp c write k = s.illegal := by
  simp [State.csrOp, hknown]

theorem csrOp_priv (hctx : s.onCore = false) (hknown : knownCsr (c.f 11 0) = true) (hsup : s.isSup = false) (hn : 0x400 ≤ c.f 11 0)
    (hread : write = true ∨ tileCsr (c.f 11 0) = false ∨ c.f 11 0 = 0x401) (k : Nat → State → State) :
    s.csrOp c write k = s.trap 2 0 (BitVec.ofNat 64 (c.f 11 0)) := by
  unfold State.csrOp
  simp only [hknown, hctx, hsup, decide_eq_true hn]
  rw [if_neg (by simp), if_pos]
  · rfl
  · rcases hread with rfl | htile | heq
    · simp
    · simp [htile]
    · simp [heq]

theorem csrOp_off (hoff : GuardOff s c.gn c.gs) (hknown : knownCsr (c.f 11 0) = true)
    (hmay : (s.isSup = true ∨ c.f 11 0 < 0x400) ∨ write = false ∧ tileCsr (c.f 11 0) = true ∧ c.f 11 0 ≠ 0x401)
    (k : Nat → State → State) : s.csrOp c write k = s.advance := by
  unfold State.csrOp
  simp only [hknown, hoff.1, guarded_off hoff]
  rw [if_neg (by simp), if_neg]
  rcases hmay with (hsup | hn) | ⟨rfl, htile, hne⟩
  · simp [hsup]
  · simp [hn]
  · simp [htile, hne]

end

section
variable {s : State} {c : CFmt}

/-- CSRW, CSRS and CSRC are writes. -/
theorem csrWrites (s : State) (c : CFmt) : ∀ i ∈ [Instr.csrw c, .csrs c, .csrc c], ∃ k, exec i s = .next (s.csrOp c true k) := by
  simp only [List.forall_mem_cons, List.not_mem_nil, IsEmpty.forall_iff, implies_true, and_true]
  exact ⟨⟨_, rfl⟩, ⟨_, rfl⟩, ⟨_, rfl⟩⟩

theorem exec_csr {i : Instr} (hi : i ∈ Instr.csrr c :: [Instr.csrw c, .csrs c, .csrc c]) :
    ∃ write k, exec i s = .next (s.csrOp c write k) := by
  rcases List.mem_cons.1 hi with rfl | hi
  · exact ⟨false, _, rfl⟩
  · exact ⟨true, csrWrites s c i hi⟩

end

/-- What follows for a group from the guard that all of it has. -/
theorem forall_guard {κ : Type} {l : List Instr} {g : State → κ → State} (hl : ∀ i ∈ l, ∀ s, ∃ k, exec i s = .next (g s k)) {s t : State}
    (hg : ∀ k, g s k = t) : ∀ i ∈ l, exec i s = .next t := by
  intro i hi
  obtain ⟨k, hk⟩ := hl i hi s
  rw [hk, hg]

/-- Two groups together. -/
theorem forall_append {P : Instr → Prop} {l m : List Instr} (hl : ∀ i ∈ l, P i) (hm : ∀ i ∈ m, P i) : ∀ i ∈ l ++ m, P i :=
  List.forall_mem_append.2 ⟨hl, hm⟩

section
variable {s : State} {o : SFmt}

/-- The scalar instructions on tile state, and SBAR, pass over under a false guard. -/
theorem exec_signals_off (h : GuardOff s o.gn o.gs) : ∀ i ∈ [Instr.pref o, .fence o, .sbar o, .sgpost o, .sgwait o], exec i s = .next s.advance := by
  simp only [List.forall_mem_cons, List.not_mem_nil, IsEmpty.forall_iff, implies_true, and_true]
  exact ⟨congrArg _ (guarded_off h _), congrArg _ (guarded_off h _), congrArg _ (guardedCtx_off h _), congrArg _ (guardedCtx_off h _),
    congrArg _ (guardedCtx_off h _)⟩

/-- The forms with one address in memory, CFLUSH among them. -/
def memoryForms (o : SFmt) : List Instr := accessForms o ++ [.cflush o] ++ atomicForms o

theorem memoryForms_guarded (o : SFmt) : ∀ i ∈ memoryForms o, ∀ s, ∃ k, exec i s = .next (s.guardedAt o.gn o.gs (s.ea o).toNat k) :=
  forall_append (forall_append (accessForms_guarded o) (by simp only [List.mem_singleton, forall_eq]; exact fun _ => ⟨_, rfl⟩))
    (atomicForms_guarded o)

end

/-- CINV and the supervisor-level instructions, in the order of the statement. -/
theorem exec_supervisor_off {s : State} {c : CFmt} {o : SFmt} (hsup : s.isSup = true) (hc : GuardOff s c.gn c.gs) (ho : GuardOff s o.gn o.gs) :
    ∀ i ∈ [Instr.tlbiAll c, .tlbiAsid c, .tlbiVa c, .tlbiVall c, .cfgld c, .trgld c, .halt c, .ctxsv c, .ctxld c, .cinv o],
      exec i s = .next s.advance := by
  have hcore := forall_guard (supervisorForms_guarded c) (guardedSup_off hsup hc true)
  have hctx := forall_guard (supervisorCtxForms_guarded c) (guardedSup_off hsup hc false)
  simp only [supervisorForms, supervisorCtxForms, List.forall_mem_cons, List.not_mem_nil, IsEmpty.forall_iff, implies_true, and_true] at hcore hctx ⊢
  obtain ⟨hall, hasid, hva, hvall, hcfgld, hhalt⟩ := hcore
  obtain ⟨htrgld, hsave, hload⟩ := hctx
  exact ⟨hall, hasid, hva, hvall, hcfgld, htrgld, hhalt, hsave, hload, congrArg _ (guardedSup_off hsup ho true _)⟩

theorem exec_supervisor_app {s : State} {c : CFmt} (hsup : s.isSup = false) :
    ∀ i ∈ [Instr.tlbiAll c, .tlbiAsid c, .tlbiVa c, .tlbiVall c, .cfgld c, .trgld c, .halt c, .ctxsv c, .ctxld c], exec i s = .next s.priv := by
  have hcore := forall_guard (supervisorForms_guarded c) (s := s) (guardedSup_app hsup true)
  have hctx := forall_guard (supervisorCtxForms_guarded c) (s := s) (guardedSup_app hsup false)
  simp only [supervisorForms, supervisorCtxForms, List.forall_mem_cons, List.not_mem_nil, IsEmpty.forall_iff, implies_true, and_true] at hcore hctx ⊢
  obtain ⟨hall, hasid, hva, hvall, hcfgld, hhalt⟩ := hcore
  obtain ⟨htrgld, hsave, hload⟩ := hctx
  exact ⟨hall, hasid, hva, hvall, hcfgld, htrgld, hhalt, hsave, hload⟩

theorem exec_cinv_app {s : State} {o : SFmt} (hsup : s.isSup = false) : exec (.cinv o) s = .next s.priv :=
  congrArg _ (guardedSup_app hsup true _)

/-- KVAPP and SHCPY by the operands whose addresses they check. -/
theorem exec_kvapp_guarded (s : State) (c : CFmt) : ∃ k, exec (.kvapp c) s = .next (s.guardedFor c [s.getG c.a, s.getG c.c] k) := ⟨_, rfl⟩

theorem exec_shcpy_guarded (s : State) (c : CFmt) :
    ∃ k, exec (.shcpy c) s = .next (s.guardedFor c [s.getG c.a, s.getG c.b, s.getG c.c] k) := ⟨_, rfl⟩

theorem exec_apcfgM_eq (s : State) (c : CFmt) : ∃ k, exec (.apcfgM c) s =
    .next (if !s.onCore && !s.isSup && (s.getG c.a).toNat / 2 ^ 60 == 4 then s.priv else s.masked c.gn c.gs k) := ⟨_, rfl⟩

theorem exec_eret_guarded (s : State) (c : CFmt) :
    ∃ k, exec (.eret c) s = .next (if !s.hart.cause.active then s.illegal else s.guarded c.gn c.gs k) := ⟨_, rfl⟩

/-- Settles O9: group by group, by the guard that each group has. -/
theorem falseGuardPassesOver : Obligations.FalseGuardPassesOver := by
  unfold Obligations.FalseGuardPassesOver
  intro s o p c v m off ctl mems sup n csrs shards
  refine ⟨fun h => ?_, fun h hctl => ?_, fun hctl => ?_, fun h => ?_, fun h => ?_, fun h hactive => ?_, fun hidle => ?_,
    fun h => ⟨fun ha => ?_, fun ha hc => ?_, fun ha hb hc => ?_⟩, fun hctx => ⟨fun ha => ?_, fun hc => ?_, fun hb => ?_⟩,
    fun hsup hc ho => exec_supervisor_off hsup hc ho, fun _ hsup => ?_, fun h hknown => ⟨fun hmay => ?_, fun htile hne => ?_⟩,
    fun hctx => ⟨fun hknown => ?_, fun hknown hsup hn => ⟨?_, fun hread => ?_⟩⟩, fun h hctl => ?_, fun hctx hctl => ?_, fun h => ?_, fun h => ?_,
    fun h => ?_⟩
  · exact forall_append (forall_guard (scalarForms_guarded o) (guarded_off h)) (exec_signals_off h)
  · exact forall_guard (memoryForms_guarded o) fun k => (guardedAt_guarded hctl k).trans (guarded_off h k)
  · exact forall_guard (memoryForms_guarded o) (guardedAt_ctl hctl)
  · have hbranch := forall_guard (branchForms_guarded p) (guarded_off h)
    have htile := forall_guard (tileForms_guarded p) (guardedCtx_off h)
    simp only [branchForms, tileForms, List.forall_mem_cons, List.not_mem_nil, IsEmpty.forall_iff, implies_true, and_true] at hbranch htile ⊢
    obtain ⟨hbr, hbeq, hbne, hblt, hbge, hbltu, hbgeu, hcalls⟩ := hbranch
    obtain ⟨hbpt, hbmk, hrest⟩ := htile
    exact ⟨hbr, hbeq, hbne, hblt, hbge, hbltu, hbgeu, hbpt, hbmk, hcalls.1, hcalls.2.1, hcalls.2.2, hrest⟩
  · have hbar : exec (.bar c) s = .next s.advance := congrArg _ (guardedCtx_off h _)
    have hcore := forall_guard (coreForms_guarded c) (guarded_off h)
    refine forall_append (forall_guard (copyCoachForms_guarded c) (guardedCtx_off h))
      (forall_append (forall_guard (streamForms_guarded c) (guardedCtx_off h)) (List.forall_mem_cons.2 ⟨hbar, hcore⟩))
  · obtain ⟨k, hk⟩ := exec_eret_guarded s c
    rw [hk, hactive, guarded_off h]
    rfl
  · obtain ⟨k, hk⟩ := exec_eret_guarded s c
    rw [hk, hidle]
    rfl
  · exact forall_guard (recordForms_guarded c) (guardedFor_off h (List.forall_mem_singleton.2 ha))
  · obtain ⟨k, hk⟩ := exec_kvapp_guarded s c
    rw [hk, guardedFor_off h (List.forall_mem_cons.2 ⟨ha, List.forall_mem_singleton.2 hc⟩)]
  · obtain ⟨k, hk⟩ := exec_shcpy_guarded s c
    rw [hk, guardedFor_off h (List.forall_mem_cons.2 ⟨ha, List.forall_mem_cons.2 ⟨hb, List.forall_mem_singleton.2 hc⟩⟩)]
  · obtain ⟨k, hk⟩ := exec_kvapp_guarded s c
    obtain ⟨k', hk'⟩ := exec_shcpy_guarded s c
    refine List.forall_mem_cons.2 ⟨?_, List.forall_mem_cons.2 ⟨?_, forall_guard (recordForms_guarded c) (guardedFor_ctl hctx (by simp) ha)⟩⟩
    · rw [hk, guardedFor_ctl hctx (by simp) ha]
      rfl
    · rw [hk', guardedFor_ctl hctx (by simp) ha]
      rfl
  · obtain ⟨k, hk⟩ := exec_kvapp_guarded s c
    obtain ⟨k', hk'⟩ := exec_shcpy_guarded s c
    simp only [List.forall_mem_cons, List.not_mem_nil, IsEmpty.forall_iff, implies_true, and_true]
    rw [hk, hk', guardedFor_ctl hctx (by simp) hc, guardedFor_ctl hctx (by simp) hc]
    exact ⟨rfl, rfl⟩
  · obtain ⟨k, hk⟩ := exec_shcpy_guarded s c
    rw [hk, guardedFor_ctl hctx (by simp) hb]
    rfl
  · exact forall_append (exec_supervisor_app hsup) (by simpa using exec_cinv_app hsup)
  · intro i hi
    obtain ⟨write, k, hk⟩ := exec_csr hi
    rw [hk, csrOp_off h hknown (.inl hmay)]
  · exact congrArg _ (csrOp_off h hknown (.inr ⟨rfl, htile, hne⟩) _)
  · intro i hi
    obtain ⟨write, k, hk⟩ := exec_csr hi
    rw [hk, csrOp_unknown hknown]
    rfl
  · intro i hi
    obtain ⟨k, hk⟩ := csrWrites s c i hi
    rw [hk, csrOp_priv hctx hknown hsup hn (.inl rfl)]
  · exact congrArg _ (csrOp_priv hctx hknown hsup hn (.inr hread) _)
  · obtain ⟨k, hk⟩ := exec_apcfgM_eq s c
    obtain ⟨hctx, hlink, hnone⟩ := h
    rw [hk, if_neg, masked_off hctx hlink hnone]
    simpa [hctx, ctl, and_comm] using hctl
  · obtain ⟨k, hk⟩ := exec_apcfgM_eq s c
    rw [hk, hctx, hctl.1, hctl.2]
    rfl
  · exact forall_guard (vectorForms_masked v) (masked_off h.1 h.2.1 h.2.2)
  · exact forall_guard (matrixForms_masked m) (masked_off h.1 h.2.1 h.2.2)
  · exact forall_guard (portForms_masked c) (masked_off h.1 h.2.1 h.2.2)

/-! On a core. -/

section
variable {s : State} (h : s.onCore = true)
include h

theorem exec_shard_core (c : CFmt) : ∀ i ∈ [Instr.shlk c, .shrefInc c, .shrefDec c, .shpin c, .shcpy c, .kvapp c, .kvcmt c, .kvrej c],
    exec i s = .next s.illegal := by
  have hrecord := forall_guard (recordForms_guarded c) (guardedFor_core h)
  simp only [recordForms, List.forall_mem_cons, List.not_mem_nil, IsEmpty.forall_iff, implies_true, and_true] at hrecord ⊢
  obtain ⟨hlk, hinc, hdec, hpin, hcmt, hrej, -⟩ := hrecord
  exact ⟨hlk, hinc, hdec, hpin, congrArg _ (guardedFor_core h _), congrArg _ (guardedFor_core h _), hcmt, hrej⟩

theorem exec_apcfgM_core (c : CFmt) : exec (.apcfgM c) s = .next s.illegal := by
  obtain ⟨k, hk⟩ := exec_apcfgM_eq s c
  rw [hk, if_neg (by simp [h]), masked_core h]

/-- The rest of what no core runs, in the order of the statement. -/
theorem exec_ctxOnly_core (c : CFmt) (b : BFmt) (f : SFmt) : ∀ i ∈ [Instr.trpub c, .launch c, .bar c, .ctxsv c, .ctxld c, .trgld c] ++ tileForms b
    ++ [.sbar f, .sgpost f, .sgwait f], exec i s = .next s.illegal := by
  refine forall_append (forall_append ?_ (forall_guard (tileForms_guarded b) (guardedCtx_core h))) ?_
  · simp only [List.forall_mem_cons, List.not_mem_nil, IsEmpty.forall_iff, implies_true, and_true]
    exact ⟨congrArg _ (guardedFor_core h _), congrArg _ (guardedFor_core h _), congrArg _ (guardedCtx_core h _),
      congrArg _ (guardedSup_core h (.inl rfl) _), congrArg _ (guardedSup_core h (.inl rfl) _), congrArg _ (guardedSup_core h (.inl rfl) _)⟩
  · simp only [List.forall_mem_cons, List.not_mem_nil, IsEmpty.forall_iff, implies_true, and_true]
    exact ⟨congrArg _ (guardedCtx_core h _), congrArg _ (guardedCtx_core h _), congrArg _ (guardedCtx_core h _)⟩

theorem exec_eret_core_guard {c : CFmt} (hg : c.gs ≠ 0) : exec (.eret c) s = .next s.illegal := by
  obtain ⟨k, hk⟩ := exec_eret_guarded s c
  rw [hk, guarded_core h hg, ite_self]

/-- A CSR instruction under a guard other than 0 on a core: its register is unknown, or not the core's, or its guard is refused. -/
theorem csrOp_core {c : CFmt} (hg : c.gs ≠ 0) (write : Bool) (k : Nat → State → State) : s.csrOp c write k = s.illegal := by
  unfold State.csrOp
  simp only [isSup_core h, Bool.not_true, Bool.false_and, Bool.false_eq_true, if_false, guarded_core h hg, ite_self]

end

/-- Settles O45: group by group, by the guard that each group has. -/
theorem illegalAndPrivileged : Obligations.IllegalAndPrivileged := by
  unfold Obligations.IllegalAndPrivileged
  intro s v m o b f
  refine ⟨fun h => ?_, fun h hg => ?_, fun h hg => forall_guard (branchForms_guarded b) (guarded_core h hg), fun h hg => ?_,
    fun hsup => ⟨?_, exec_cinv_app hsup⟩⟩
  · exact forall_append (forall_guard (vectorForms_masked v) (masked_core h)) (forall_append (forall_guard (matrixForms_masked m) (masked_core h))
      (List.forall_mem_cons.2 ⟨exec_apcfgM_core h o, forall_append (forall_guard (portForms_masked o) (masked_core h))
        (forall_append (forall_guard (copyCoachForms_guarded o) (guardedCtx_core h)) (forall_append (exec_shard_core h o)
          (forall_append (forall_guard (streamForms_guarded o) (guardedCtx_core h)) (exec_ctxOnly_core h o b f))))⟩))
  · have hplain : ∀ i ∈ [Instr.pref f], exec i s = .next s.illegal := List.forall_mem_singleton.2 (congrArg _ (guarded_core h hg _))
    have hcinv : exec (.cinv f) s = .next s.illegal := congrArg _ (guardedSup_core h (.inr hg) _)
    have hflush : exec (.cflush f) s = .next s.illegal := congrArg _ (guardedAt_core h hg _)
    have hfence : ∀ i ∈ [Instr.fence f], exec i s = .next s.illegal := List.forall_mem_singleton.2 (congrArg _ (guarded_core h hg _))
    exact forall_append (forall_guard (scalarForms_guarded f) (guarded_core h hg))
      (forall_append (forall_guard (accessForms_guarded f) (guardedAt_core h hg)) (forall_append hplain
        (List.forall_mem_cons.2 ⟨hflush, List.forall_mem_cons.2 ⟨hcinv,
          forall_append (forall_guard (atomicForms_guarded f) (guardedAt_core h hg)) hfence⟩⟩)))
  · have hsup := forall_guard (supervisorForms_guarded o) (guardedSup_core h (.inr hg))
    simp only [supervisorForms, List.forall_mem_cons, List.not_mem_nil, IsEmpty.forall_iff, implies_true, and_true] at hsup ⊢
    exact ⟨congrArg _ (guarded_core h hg _), congrArg _ (guarded_core h hg _), exec_eret_core_guard h hg, congrArg _ (csrOp_core h hg _ _),
      congrArg _ (csrOp_core h hg _ _), congrArg _ (csrOp_core h hg _ _), congrArg _ (csrOp_core h hg _ _), congrArg _ (guarded_core h hg _),
      congrArg _ (guarded_core h hg _), hsup⟩
  · have happ := exec_supervisor_app (c := o) hsup
    simp only [List.forall_mem_cons, List.not_mem_nil, IsEmpty.forall_iff, implies_true, and_true] at happ ⊢
    obtain ⟨hall, hasid, hva, hvall, hcfgld, htrgld, hhalt, hsave, hload⟩ := happ
    exact ⟨hsave, hload, hall, hasid, hva, hvall, hcfgld, htrgld, hhalt⟩

end Sys2Proof.Laws

/-! O49: the words that the manual prints. -/

namespace Sys2Proof.Laws

open Sys2Proof Sys2Proof.Machine Sys2Proof.Safety

/-- Settles O49: each word is evaluated by the decoder. -/
theorem printedWords : Obligations.PrintedWords := by
  unfold Obligations.PrintedWords
  decide

end Sys2Proof.Laws

/-! O16, O17: the links of the floating chain instructions, the limit of their number, and VSETTLE. -/

namespace Sys2Proof.Laws

open Sys2Proof Sys2Proof.Machine Sys2Proof.Safety

/-- A chain instruction on registers answers the state of its link, where the link's lanes are those of r. -/
theorem exec_chainOp {s : State} {o : VFmt} {a : Word} (h : LanesOn s o.gn o.gs a) (hl : s.me.links.length < 16)
    (hr : RegOps o [o.vb, o.vc, o.vd]) (vb vc : Option (BitVec 5)) (hb : ∀ f, vb = some f → f ∈ [o.vb, o.vc, o.vd])
    (hc : ∀ f, vc = some f → f ∈ [o.vb, o.vc, o.vd]) (f : Lane → Lane → Lane → LaneRes) {i : Instr}
    (hi : exec i s = .next (s.chainOp o vb vc f)) :
    ∃ t, exec i s = .next t ∧ MovedOn s t ∧ Linked s t o.vd.toNat a fun j =>
      f (vaOf s o j) (vb.elim 0 fun r => laneOf s r j) (vc.elim 0 fun r => laneOf s r j) :=
  ⟨_, hi, chainOp_regs h hl hr.1 (hr.2 _ (by simp)) vb vc (fun g hg => hr.2 g (hb g hg)) (fun g hg => hr.2 g (hc g hg)) f⟩

/-- Settles O16: each instruction is a chain operation on one, two or three operands. -/
theorem chainArithmeticResults : Obligations.ChainArithmeticResults := by
  intro s o a h hl hr x y z m nbv one r
  have op1 := fun i f => exec_chainOp (i := i) h hl hr none none (by simp) (by simp) f
  have op2 := fun i f => exec_chainOp (i := i) h hl hr (some o.vb) none (by simp) (by simp) f
  have op3 := fun i f => exec_chainOp (i := i) h hl hr (some o.vb) (some o.vc) (by simp) (by simp) f
  have two : ∀ i g, exec i s = .next (s.float2 o g) → r i fun j => roundX o (g (x j) (y j)) := by
    intro i g hi
    rw [State.float2] at hi
    exact op2 i _ hi
  have ref : ∀ i g, exec i s = .next (s.floatRef o g) → r i fun j => one (refLane (g (x j) nbv) (2 * o.prec.toNat) m) := by
    intro i g hi
    rw [State.floatRef] at hi
    exact op1 i _ hi
  exact ⟨two _ (addE · · m) rfl, two _ (fun x y => addE x y.flip m) rfl, two _ mulE rfl, (op3 (.vfma o) _ rfl :), (op3 (.vfms o) _ rfl :),
    (op3 (.vnfma o) _ rfl :), (op1 (.vabs o) _ rfl :), (op1 (.vneg o) _ rfl :), two _ maxE rfl, two _ minE rfl, two _ divE rfl, ref _ rcpRef rfl,
    (op1 (.vsqrt o) _ rfl :), ref _ rsqRef rfl, ref _ exp2Ref rfl, ref _ log2Ref rfl, (op2 (.vscale o) _ rfl :)⟩

/-- The floating chain instructions. -/
def floatForms (o : VFmt) : List Instr :=
  [.vadd o, .vsub o, .vmul o, .vfma o, .vfms o, .vnfma o, .vabs o, .vneg o, .vmax o, .vmin o, .vdiv o, .vrcp o, .vsqrt o, .vrsq o, .vexp2 o,
    .vlog2 o, .vscale o]

theorem float2_chainOp (s : State) (o : VFmt) (g : FNum → FNum → Exact) :
    ∃ vb vc f, (.next (s.float2 o g) : Res) = .next (s.chainOp o vb vc f) := by
  unfold State.float2
  exact ⟨_, _, _, rfl⟩

theorem floatRef_chainOp (s : State) (o : VFmt) (g : FNum → Nat → Exact × Bool) :
    ∃ vb vc f, (.next (s.floatRef o g) : Res) = .next (s.chainOp o vb vc f) := by
  unfold State.floatRef
  exact ⟨_, _, _, rfl⟩

theorem floatForms_chainOp (s : State) (o : VFmt) : ∀ i ∈ floatForms o, ∃ vb vc f, exec i s = .next (s.chainOp o vb vc f) := by
  simp only [floatForms, List.forall_mem_cons, List.not_mem_nil, IsEmpty.forall_iff, implies_true, and_true]
  have two := float2_chainOp s o
  have ref := floatRef_chainOp s o
  have op : ∀ vb vc f, ∃ vb' vc' f', (.next (s.chainOp o vb vc f) : Res) = .next (s.chainOp o vb' vc' f') := fun _ _ _ => ⟨_, _, _, rfl⟩
  exact ⟨two _, two _, two _, op _ _ _, op _ _ _, op _ _ _, op _ _ _, op _ _ _, two _, two _, two _, ref _, op _ _ _, ref _, ref _, ref _,
    op _ _ _⟩

theorem compareForms_chainMask (s : State) (o : VFmt) :
    ∀ i ∈ [Instr.vcmp o, .vcmpt o], ∃ loc src b f cut, exec i s = .next (s.chainMask o loc src b f cut) := by
  simp only [List.forall_mem_cons, List.not_mem_nil, IsEmpty.forall_iff, implies_true, and_true]
  exact ⟨⟨_, _, _, _, _, rfl⟩, ⟨_, _, _, _, _, rfl⟩⟩

/-- A chain instruction at the depth limit: it waits, and no link, no byte of memory and not the program counter changes. -/
def FullChain (s t : State) : Prop := t.pc = s.pc ∧ t.hart.wait = .links 16 ∧ t.me.links = s.me.links ∧ t.mem = s.mem

theorem fullChain_stalled {s : State} (h : s.onCore = false) :
    FullChain s ((s.modHart fun x => { x with stall := stick (x.stall + 1) 0xFFFF }).waits (.links 16)) := by
  refine ⟨by rw [pc_waits, State.pc, hart_modHart, State.pc], wait_waits _ _, ?_, by simp⟩
  rw [State.waits, modHart_me (by simpa [onCore_modHart] using h), me_modMe, modHart_me h, me_modMe]

theorem chainOp_full {s : State} {o : VFmt} {a : Word} (h : LanesOn s o.gn o.gs a) (hl : 16 ≤ s.me.links.length)
    (vb vc : Option (BitVec 5)) (f : Lane → Lane → Lane → LaneRes) : FullChain s (s.chainOp o vb vc f) := by
  unfold State.chainOp
  rw [masked_on h, if_pos hl]
  exact fullChain_stalled h.1

theorem chainMask_full {s : State} {o : VFmt} {a : Word} (h : LanesOn s o.gn o.gs a) (hl : 16 ≤ s.me.links.length) (loc : Nat)
    (src : BitVec 5) (isReg : Bool) (f : Lane → Lane → Bool × Fl) (cut : Option Nat) : FullChain s (s.chainMask o loc src isReg f cut) := by
  unfold State.chainMask
  rw [masked_on h, if_pos hl]
  exact fullChain_stalled h.1

/-- Settles O17: at 16 links chainOp and chainMask wait; VSETTLE asks whether the list of links is empty. -/
theorem chainDepthAndSettle : Obligations.ChainDepthAndSettle := by
  refine ⟨fun s o h hm ha => congrArg Host.Outcome.next (masked_off h hm ha _), fun s o a h => ⟨fun hl => ?_, fun hn => ?_, fun hn => ?_⟩⟩
  · refine (forall_append (l := floatForms o) (fun i hi => ?_) fun i hi => ?_)
    · obtain ⟨vb, vc, f, e⟩ := floatForms_chainOp s o i hi
      exact ⟨_, e, chainOp_full h hl vb vc f⟩
    · obtain ⟨loc, src, b, f, cut, e⟩ := compareForms_chainMask s o i hi
      exact ⟨_, e, chainMask_full h hl loc src b f cut⟩
  · show Host.Outcome.next (s.masked _ _ _) = _
    rw [masked_on h, hn]; rfl
  · show Host.Outcome.next (s.masked _ _ _) = _
    rw [masked_on h, if_neg (by simpa using hn)]

end Sys2Proof.Laws

/-! O18: the links that write a mask, and cut marks. -/

namespace Sys2Proof.Laws

open Sys2Proof Sys2Proof.Machine Sys2Proof.Safety

theorem maskOf_congr {f g : Nat → Bool} (h : ∀ j, j < 64 → f j = g j) : maskOf f = maskOf g := by
  refine BitVec.eq_of_getLsbD_eq fun j hj => ?_
  rw [getLsbD_maskOf f hj, getLsbD_maskOf g hj, h j hj]

/-- A new link that writes a mask leaves the cut marks. -/
theorem cut_contextLink (x : Context) {l : Link} (h : l.toMask = true) (hp : l.push = none) : (x.link l).cut = x.cut := by
  simp [Context.link, h, hp]

/-- The lanes that a comparison of va with lanes y loses: active, not kept, and no NaN among the operands. -/
def lostLanes (s : State) (o : VFmt) (a : Word) (y : Nat → Lane) (f : Lane → Lane → Bool × Fl) (j : Nat) : Bool :=
  a.getLsbD j && !(f (vaOf s o j) (y j)).1 && laneVal (vaOf s o j) != .nan && laneVal (y j) != .nan

/-- The result of a comparison in a lane of a link that writes a mask. -/
def bitRes (r : Bool × Fl) : LaneRes := { v := if r.1 then 1 else 0, e := 0, fl := r.2 }

/-- The second operand of a comparison: a general register in every lane, or a vector register. -/
def compareTo (s : State) (src : BitVec 5) (isReg : Bool) (j : Nat) : Lane :=
  if isReg then (s.getG src).setWidth 32 else laneOf s src j

/-- A comparison on registers below the depth limit: it begins the link l in the state u, then cuts the lanes it loses. -/
theorem chainMask_regs {s : State} {o : VFmt} {a : Word} (h : LanesOn s o.gn o.gs a) (hl : s.me.links.length < 16)
    (hv : o.sa = true ∨ o.va.toNat < 24) (loc : Nat) (src : BitVec 5) (isReg : Bool) (hs : isReg = true ∨ src.toNat < 24)
    (f : Lane → Lane → Bool × Fl) (cut : Option Nat) :
    let y := compareTo s src isReg
    ∃ l u, s.chainMask o loc src isReg f cut =
        (match cut with | some v => u.modMe fun c => c.markV v (maskOf (lostLanes s o a y f)) | none => u).advance
      ∧ NewLink s o.vd.toNat a (fun j => bitRes (f (vaOf s o j) (y j))) l ∧ l.opn2 = 0
      ∧ u.onCore = false ∧ (Kept s u ∧ u.mem = s.mem ∧ (∀ n, u.getG n = s.getG n) ∧ u.pc = s.pc)
      ∧ u.me.links = older s l ++ [l] ∧ (l.toMask = true → u.me.cut = s.me.cut) := by
  intro y
  have hp : srcPorts (vaSrc o ++ (if isReg then [] else [(loc, src)])) = [] := by
    refine srcPorts_regs fun e he => ?_
    rcases List.mem_append.1 he with he | he
    · exact vaSrc_regs hv e he
    · cases isReg with
      | true => simp at he
      | false => simp at he; subst he; exact hs.resolve_left (by decide)
  unfold State.chainMask
  rw [masked_on h, if_neg (by omega)]
  simp only [hp]
  obtain ⟨pops, e⟩ := withPorts_regs s (popMask o a) 0 _
  rw [e]
  have k := keeps_unlatch h.1 s.pc (popMask o a) 0
  have hu : (s.popsDone s.pc (popMask o a) 0 []).onCore = false := h.1
  have ex : ∀ j, j < 64 → vget ((s.popsDone s.pc (popMask o a) 0 []).vaLanes o fun n => (pops n).lanes) j 0 = vaOf s o j := by
    intro j hj
    rw [vget_vaLanes _ _ _ hv hj, vaOf_unlatch h.1]
  have ey : ∀ j, j < 64 → vget (if isReg then (s.popsDone s.pc (popMask o a) 0 []).splat src
      else (s.popsDone s.pc (popMask o a) 0 []).vsrc (fun n => (pops n).lanes) src) j 0 = y j := by
    intro j hj
    cases isReg with
    | true => rw [if_pos rfl, vget_splat _ _ hj, getG_unlatch h.1]; rfl
    | false => rw [if_neg (by decide), vsrc_reg _ _ (hs.resolve_left (by decide)), laneOf_unlatch]; rfl
  have el := links_unlatch s s.pc (popMask o a) 0
  have ec := cut_unlatch s s.pc (popMask o a) 0
  have ei : (s.popsDone s.pc (popMask o a) 0 []).ir = s.ir := rfl
  clear e
  generalize s.popsDone s.pc (popMask o a) 0 [] = w at *
  simp only []
  generalize hx : w.vaLanes o _ = x at *
  generalize hy : (if isReg then w.splat src else _ : Lanes) = z at *
  have hlost : maskOf (fun i => a.getLsbD i && !(f (vget x i 0) (vget z i 0)).1 && laneVal (vget x i 0) != .nan && laneVal (vget z i 0) != .nan)
      = maskOf (lostLanes s o a y f) := maskOf_congr fun j hj => by rw [lostLanes, ex j hj, ey j hj]
  rw [hlost]
  generalize hlink : Link.mk _ _ _ _ _ _ _ _ _ _ _ _ _ = l
  refine ⟨l, w.link l, by cases cut <;> rfl, ?_⟩
  subst hlink
  refine ⟨⟨ei, rfl, rfl, rfl, rfl, fun j hj => ?_⟩, rfl, hu, keeps_link hu k _, ?_, fun ht => ?_⟩
  · simp only []
    rw [vget_lanesFn _ _ hj, vget_lanesFn _ _ hj]
    simp only [ex j hj, ey j hj]
    exact ⟨rfl, by simp [Lanes.zero, vget, hj, bitRes], by simp [popFl, bitRes]⟩
  · rw [links_link w rfl, older, older, el]
  · show ((w.modMe fun x => x.link _).post 20 .linkSettle _).me.cut = _
    rw [me_post, me_modMe, cut_contextLink _ ht rfl, ec]

/-- Lanes of register r marked as cut: links write them no more, and one that writes no lane has ended. -/
theorem markV_links (x : Context) (r : Nat) (m : Word) :
    (x.markV r m).links = (x.links.map fun k => k.overwrite r m).filter fun k => k.open_ != 0 := rfl

theorem markV_cut (x : Context) {r : Nat} (hr : r < 24) (m : Word) : vget (x.markV r m).cut r 0 = vget x.cut r 0 ||| m := by
  simp [Context.markV, vget_vput_self _ _ _ _ hr]

/-- A cut keeps the program counter, memory, general registers and what Kept says. -/
theorem keeps_cutV {s t : State} (hc : t.onCore = false) (h : Kept s t ∧ t.mem = s.mem ∧ (∀ n, t.getG n = s.getG n) ∧ t.pc = s.pc)
    (r : Nat) (m : Context → Word) :
    let u := t.modMe fun x => x.cutV r (m x)
    Kept s u ∧ u.mem = s.mem ∧ (∀ n, u.getG n = s.getG n) ∧ u.pc = s.pc :=
  keeps_modMe _ hc h ⟨_, _, _, _, _, rfl⟩

theorem cutV_cut (x : Context) {r : Nat} (hr : r < 24) (m : Word) : vget (x.cutV r m).cut r 0 = vget x.cut r 0 ||| m :=
  markV_cut x hr m

theorem cut_advance {s : State} (h : s.onCore = false) : s.advance.me.cut = s.me.cut := by rw [me_advance h]

/-- VCUT cuts the lanes of a mask among the active ones. -/
theorem vcut_regs {s : State} {o : VFmt} {a : Word} (h : LanesOn s o.gn o.gs a) (hd : o.vd.toNat < 24)
    (hm : s.me.maskLink o.mkf.toNat = none) : ∃ t, exec (.vcut o) s = .next t ∧ MovedOn s t
      ∧ vget t.me.cut o.vd.toNat 0 = vget s.me.cut o.vd.toNat 0 ||| (s.me.mask o.mkf.toNat &&& a) := by
  obtain ⟨pops, e⟩ := vecOp_regs h (srcs := []) (need := allLanes) (ms := [o.mkf.toNat]) (by simp) rfl (by simp [State.maskWait, hm])
    fun _ a s => (s.modMe fun x => x.cutV o.vd.toNat (x.mask o.mkf.toNat &&& a)).advance
  refine ⟨_, congrArg Host.Outcome.next e, movedOn_advance h.1 (keeps_cutV (t := s.popsDone _ _ _ []) h.1 (keeps_unlatch h.1 _ _ _) _ _), ?_⟩
  have hc : ((s.popsDone s.pc (popMask o a) a []).modMe fun x => x.cutV o.vd.toNat (x.mask o.mkf.toNat &&& a)).onCore = false := h.1
  rw [cut_advance hc, me_modMe, cutV_cut _ hd, cut_unlatch, mask_unlatch]

/-- A link that writes a mask passes a cut of a vector register unchanged. -/
theorem overwrite_toMask {l : Link} (h : l.toMask = true) (r : Nat) (m : Word) : l.overwrite r m = l := by
  rw [Link.overwrite, h, Bool.true_or, if_pos rfl]

/-- Settles O18: chainMask for the comparisons, then the cut of the lanes that VCMPT loses. -/
theorem compareAndCutResults : Obligations.CompareAndCutResults := by
  intro s o a h bitOf cc th kept lost
  refine ⟨fun hl hr => ?_, fun hl hw hr hc => ?_, vcut_regs h⟩
  · obtain ⟨l, u, e, hn, -, hu, hk, hlinks, -⟩ :=
      chainMask_regs h hl hr.1 2 o.vb false (.inr (hr.2 _ (by simp))) (cmpLane o.typ.toNat cc) none
    refine ⟨_, congrArg Host.Outcome.next e, movedOn_advance hu hk, l, hn, ?_⟩
    rw [links_advance hu, hlinks]
  · obtain ⟨l, u, e, hn, h2, hu, hk, hlinks, hcut⟩ :=
      chainMask_regs h hl hr.1 3 o.vc (o.aux.getLsbD 1) hc (cmpLane 0 cc) (some o.vb.toNat)
    have hb : o.vb.toNat < 24 := hr.2 _ (by simp)
    obtain ⟨hword, -, -, hopn, -, -⟩ := id hn
    have ht : l.toMask = true := by rw [Link.toMask, hword, hw]; rfl
    have hopen : (l.open_ != 0) = true := by
      rw [Link.open_, hopn, h2]
      simpa using h.2.2.2
    refine ⟨_, congrArg Host.Outcome.next e, movedOn_advance hu (keeps_modMe _ hu hk ⟨_, _, _, _, _, rfl⟩), ⟨l, hn, ?_⟩, fun j hj => ?_⟩
    · rw [links_advance (by exact hu), me_modMe, markV_links, hlinks, List.map_append, List.filter_append]
      congr 1
      rw [List.map_singleton, overwrite_toMask ht, List.filter_singleton, hopen]
      rfl
    · rw [cut_advance (by exact hu), me_modMe, markV_cut _ hb, hcut ht, BitVec.getLsbD_or, getLsbD_maskOf _ hj]
      rfl

end Sys2Proof.Laws

/-! O19: integer, logical and shift operations, and VSEL. -/

namespace Sys2Proof.Laws

open Sys2Proof Sys2Proof.Machine Sys2Proof.Safety

theorem laneInt_signed {o : VFmt} (h : o.typ = 8) (x : Lane) : laneInt o x = x.toInt := by rw [laneInt, h]; rfl

theorem laneInt_unsigned {o : VFmt} (h : o.typ = 9) (x : Lane) : laneInt o x = x.toNat := by rw [laneInt, h]; rfl

/-- The clamp of R246 is the nearest value of the range. -/
theorem clamp_eq {lo hi : Int} (h : lo ≤ hi) (v : Int) : (if v < lo then lo else if hi < v then hi else v) = max lo (min hi v) := by
  split
  · omega
  · split <;> omega

theorem toInt_intLane {o : VFmt} (hs : o.sat = true) (ht : o.typ = 8) (v : Int) : (intLane o v).toInt = max (-2 ^ 31) (min (2 ^ 31 - 1) v) := by
  have hr : intRange o.typ.toNat = (-2 ^ 31, 2 ^ 31 - 1) := by rw [ht]; rfl
  rw [intLane, hr, hs]
  simp only [if_true]
  rw [clamp_eq (by decide), BitVec.toInt_ofInt]
  exact Int.bmod_eq_of_le (by omega) (by omega)

theorem toNat_intLane {o : VFmt} (hs : o.sat = true) (ht : o.typ = 9) (v : Int) :
    ((intLane o v).toNat : Int) = max 0 (min (2 ^ 32 - 1) v) := by
  have hr : intRange o.typ.toNat = (0, 2 ^ 32 - 1) := by rw [ht]; rfl
  rw [intLane, hr, hs]
  simp only [if_true]
  rw [clamp_eq (by decide), BitVec.toNat_ofInt]
  omega

theorem intLane_wraps {o : VFmt} (hs : o.sat = false) (v : Int) : intLane o v = BitVec.ofInt 32 v := by
  rw [intLane, hs]; rfl

theorem laneInt_injective (o : VFmt) : Function.Injective (laneInt o) := by
  intro x y h
  unfold laneInt at h
  split at h
  · exact BitVec.eq_of_toInt_eq h
  · exact BitVec.eq_of_toNat_eq (by omega)

/-- Which operand a maximum takes of two equal ones does not show. -/
theorem vimax_eq {o : VFmt} (x y : Lane) :
    (if laneInt o x ≤ laneInt o y then y else x) = if laneInt o y ≤ laneInt o x then x else y := by
  rcases lt_trichotomy (laneInt o x) (laneInt o y) with h | h | h
  · rw [if_pos h.le, if_neg (not_le.2 h)]
  · rw [if_pos h.le, if_pos h.ge, laneInt_injective o h]
  · rw [if_neg (not_le.2 h), if_pos h.le]

/-- A shift left by any amount: from 32 on nothing is left (R364). -/
theorem lane_shl (x : Lane) (n : Nat) : (if 32 ≤ n then 0 else x <<< n) = BitVec.ofNat 32 (x.toNat * 2 ^ n) := by
  split
  · next h =>
    obtain ⟨k, rfl⟩ := Nat.exists_eq_add_of_le h
    refine BitVec.eq_of_toNat_eq ?_
    rw [BitVec.toNat_ofNat, pow_add, ← mul_assoc, mul_comm x.toNat, mul_assoc]
    simp
  · exact BitVec.eq_of_toNat_eq (by rw [BitVec.toNat_shiftLeft, BitVec.toNat_ofNat, Nat.shiftLeft_eq])

theorem lane_shr (x : Lane) (n : Nat) : (if 32 ≤ n then 0 else x >>> n) = BitVec.ofNat 32 (x.toNat / 2 ^ n) := by
  have hx : x.toNat < 2 ^ 32 := x.isLt
  refine BitVec.eq_of_toNat_eq ?_
  rw [BitVec.toNat_ofNat, Nat.mod_eq_of_lt (lt_of_le_of_lt (Nat.div_le_self _ _) hx)]
  split
  · next h =>
    rw [Nat.div_eq_of_lt (lt_of_lt_of_le hx (Nat.pow_le_pow_right (by decide) h))]; rfl
  · rw [BitVec.toNat_ushiftRight, Nat.shiftRight_eq_div_pow]

/-- An arithmetic shift right by any amount: from 32 on the sign fills the lane (R364). -/
theorem lane_sra (x : Lane) (n : Nat) :
    (if 32 ≤ n then (if x.msb then BitVec.allOnes 32 else 0) else x.sshiftRight n) = BitVec.ofInt 32 (x.toInt / 2 ^ n) := by
  have e : ∀ n, BitVec.ofInt 32 (x.toInt / 2 ^ n) = x.sshiftRight n := fun n => by
    rw [BitVec.sshiftRight, Int.shiftRight_eq_div_pow]; norm_cast
  rw [e]
  split
  · next h =>
    refine BitVec.eq_of_getLsbD_eq fun j hj => ?_
    rw [BitVec.getLsbD_sshiftRight]
    have ho : ¬ n + j < 32 := by omega
    cases hm : x.msb
    · simp [ho]
    · simp only [if_true, BitVec.getLsbD_allOnes, ho, if_false]
      simp [hj]
  · rfl

theorem vsel_regs {s : State} {o : VFmt} {a : Word} (h : LanesOn s o.gn o.gs a) (hr : RegOps o [o.vd]) (hb : o.vb.toNat < 24)
    (hs : Settled s o [o.vb] a) (hm : s.me.maskLink o.mkf.toNat = none) : ∃ t, exec (.vsel o) s = .next t ∧
      WroteLanes s t o.vd.toNat a (fun j => if (s.me.mask o.mkf.toNat).getLsbD j then vaOf s o j else laneOf s o.vb j) 0 := by
  refine ⟨_, rfl, vecPut_wrote h (hr.2 _ (by simp)) ?_ (by simpa [Settled] using hs) (by simp [State.maskWait, hm]) _ _ _
    fun pops => ⟨fun j hj => ?_, rfl⟩⟩
  · intro e he
    rcases List.mem_append.1 he with he | he
    · exact vaSrc_regs hr.1 e he
    · simp at he; subst he; exact hb
  · simp only []
    rw [vget_pickLanes _ _ _ _ hj, vget_vaLanes _ _ _ hr.1 hj, vsrc_reg _ _ hb, vaOf_unlatch h.1, laneOf_unlatch]

/-- Settles O19: lane2 and laneShift give the lanes, and the lane's arithmetic is that of the integers. -/
theorem laneIntegerResults : Obligations.LaneIntegerResults := by
  refine ⟨?_, fun o v =>
    ⟨fun x => ⟨fun ht => laneInt_signed ht x, fun ht => laneInt_unsigned ht x⟩, fun hs => intLane_wraps hs v,
      fun hs ht => toInt_intLane hs ht v, fun hs ht => toNat_intLane hs ht v⟩⟩
  intro s o a h hr x y k r
  refine ⟨fun hb hs => ?_, fun hi hb hs => ?_, fun hi hs => ?_⟩
  · have op := fun f => lane2_regs h hr hb hs f
    refine ⟨⟨_, rfl, op _⟩, ⟨_, rfl, op _⟩, ⟨_, rfl, op _⟩, ⟨_, rfl, op _⟩, ⟨_, rfl, wroteLanes_congr (op _) fun j _ => vimax_eq _ _⟩, ⟨_, rfl, op _⟩,
      ⟨_, rfl, op _⟩, ⟨_, rfl, op _⟩, vsel_regs h hr hb hs⟩
  · have op := fun f (g : Lane → Nat → Lane) (hf : ∀ x n, f x n = g x n) => wroteLanes_congr (laneShift_reg h hr hi hb hs f) fun j _ => hf _ _
    exact ⟨⟨_, rfl, op _ _ lane_shl⟩, ⟨_, rfl, op _ _ lane_shr⟩, ⟨_, rfl, op _ _ lane_sra⟩⟩
  · have op := fun f (g : Lane → Nat → Lane) (hf : ∀ x n, f x n = g x n) => wroteLanes_congr (laneShift_imm h hr hi hs f) fun j _ => hf _ _
    exact ⟨⟨_, rfl, op _ _ lane_shl⟩, ⟨_, rfl, op _ _ lane_shr⟩, ⟨_, rfl, op _ _ lane_sra⟩⟩

end Sys2Proof.Laws

/-! O20: conversion and quantisation. -/

namespace Sys2Proof.Laws

open Sys2Proof Sys2Proof.Machine Sys2Proof.Safety

theorem addFlags_me {s : State} (h : s.onCore = false) (f : Fl) :
    s.addFlags f = s.modMe fun x => { x with hart := { x.hart with fflags := x.hart.fflags ||| f } } := by
  rw [State.addFlags, modHart_me h]

theorem onCore_addFlags (s : State) (f : Fl) : (s.addFlags f).onCore = s.onCore := by rw [State.addFlags, onCore_modHart]

theorem keeps_addFlags {s t : State} (hc : t.onCore = false) (h : Kept s t ∧ t.mem = s.mem ∧ (∀ n, t.getG n = s.getG n) ∧ t.pc = s.pc)
    (f : Fl) : let u := t.addFlags f
    Kept s u ∧ u.mem = s.mem ∧ (∀ n, u.getG n = s.getG n) ∧ u.pc = s.pc := by
  rw [addFlags_me hc]
  exact keeps_modMe _ hc h ⟨_, _, _, _, _, rfl⟩

/-- A context whose latches for an address are empty. -/
def unlatched (x : Context) (pc : Word) : Context := { x with latches := x.latches.filter fun e => e.2.addr != pc }

theorem me_unlatch (s : State) (pc m w : Word) : (s.popsDone pc m w []).me = unlatched s.me pc := by
  rw [popsDone_nil, me_modMe]; rfl

/-- The context after flags were added and register r written, from the state in which the latches are empty. -/
theorem flags_writeV_unlatch {s : State} (h : s.onCore = false) (pc m w : Word) (fl : Fl) (r : Nat) (a : Word) (new : Lanes) :
    let t := ((s.popsDone pc m w []).addFlags fl).modMe fun x => x.writeV r a new
    t.onCore = false ∧ (Kept s t ∧ t.mem = s.mem ∧ (∀ n, t.getG n = s.getG n) ∧ t.pc = s.pc) ∧ t.me.m = s.me.m
      ∧ t.me.hart.fflags = s.me.hart.fflags ||| fl ∧ t.me.v = vput s.me.v r (pickLanes a new (vget s.me.v r .zero)) := by
  intro t
  have hu : (s.popsDone pc m w []).onCore = false := h
  have hc : ((s.popsDone pc m w []).addFlags fl).onCore = false := by rw [onCore_addFlags]; exact hu
  have e : t.me = ({ unlatched s.me pc with hart := { s.me.hart with fflags := s.me.hart.fflags ||| fl } } : Context).writeV r a new := by
    show (State.modMe _ _).me = _
    rw [me_modMe, addFlags_me hu, me_modMe, me_unlatch]; rfl
  refine ⟨hc, keeps_modMe _ hc (keeps_addFlags hu (keeps_unlatch h pc m w) fl) ⟨_, _, _, _, _, rfl⟩, ?_, ?_, ?_⟩ <;> rw [e] <;> rfl

/-- A state that moves on, with register r written in the lanes of a and flags added. -/
theorem wroteLanes_advance {s t : State} (hs : s.onCore = false) (hc : t.onCore = false)
    (k : Kept s t ∧ t.mem = s.mem ∧ (∀ n, t.getG n = s.getG n) ∧ t.pc = s.pc) {r : Nat} (hr : r < 24) {a : Word} {new : Lanes} {fl : Fl}
    (hm : t.me.m = s.me.m) (hf : t.me.hart.fflags = s.me.hart.fflags ||| fl)
    (hv : t.me.v = vput s.me.v r (pickLanes a new (vget s.me.v r .zero))) : WroteLanes s t.advance r a (fun j => vget new j 0) fl := by
  have ha : t.advance.onCore = false := by rw [State.advance, onCore_modHart]; exact hc
  refine ⟨movedOn_advance hc k, ?_, ?_, fun j hj => ?_, fun n hn => ?_⟩
  · rw [me_advance hc]; exact hm
  · rw [hart_me ha, me_advance hc, hart_me hs]; exact hf
  · rw [me_advance hc]
    show vget (vget t.me.v r .zero) j 0 = _
    rw [hv, vget_vput_self _ _ _ _ hr, vget_pickLanes _ _ _ _ hj]; rfl
  · rw [me_advance hc]
    show vget t.me.v n .zero = _
    rw [hv, vget_vput_ne _ _ _ (Ne.symm hn)]

/-- As wroteLanes_write, where the flags are added first. -/
theorem wroteLanes_flags {s : State} (h : s.onCore = false) {r : Nat} (hr : r < 24) (a pc m w : Word) (new : Lanes) (fl : Fl) :
    WroteLanes s (((s.popsDone pc m w []).addFlags fl).modMe fun x => x.writeV r a new).advance r a (fun j => vget new j 0) fl := by
  obtain ⟨hc, hk, hm, hf, hv⟩ := flags_writeV_unlatch h pc m w fl r a new
  exact wroteLanes_advance h hc hk hr hm hf hv

theorem readV_unlatch (s : State) (r : Nat) (pc m w : Word) : (s.popsDone pc m w []).readV r = s.readV r := by
  rw [popsDone_nil, State.readV, me_modMe]; rfl

theorem vcvt_regs {s : State} {o : VFmt} {a : Word} (h : LanesOn s o.gn o.gs a) (hd : o.vd.toNat < 24) (hr : RegOps o [])
    (hs : Settled s o [] a) : ∃ u fl, exec (.vcvt o) s = .next u ∧ WroteLanes s u o.vd.toNat a
      (fun j => widen (o.imm.toNat % 16) (convert (laneAs o.typ.toNat (vaOf s o j)) (o.imm.toNat % 16) o.rnd.toNat o.sat).1) fl := by
  obtain ⟨pops, e⟩ := vecPut_regs h hd (vaSrc_regs hr.1) (need := id) (ms := []) (by simpa [Settled] using hs) rfl _
  refine ⟨_, _, congrArg Host.Outcome.next e, wroteLanes_congr (wroteLanes_write h.1 _ hd a _ _ _ _ _) fun j hj => ?_⟩
  simp only []
  rw [vget_lanesFn _ _ hj, vget_vaLanes _ _ _ hr.1 hj, vaOf_unlatch h.1]

theorem vqnt_regs {s : State} {o : VFmt} {a : Word} (h : LanesOn s o.gn o.gs a) (hd : o.vd.toNat < 24) (hv : o.va.toNat < 24)
    (hs : s.regWait [o.va] a = none) : ∃ u fl, exec (.vqnt o) s = .next u ∧ WroteLanes s u o.vd.toNat (BitVec.allOnes 64)
      (fun j => vget (packLanes (if o.typ = 5 then 4 else 8) (((List.range 64).map fun i =>
        if a.getLsbD i then (quantLane o (laneOf s o.va i) (laneVal ((s.getG o.vb).setWidth 32))).1 else 0).toArray)) j 0) fl := by
  obtain ⟨pops, e⟩ := vecOp_regs h (srcs := [(1, o.va)]) (need := id) (ms := []) (by simpa using hv) (by simpa using hs) rfl _
  refine ⟨_, _, congrArg Host.Outcome.next e, wroteLanes_congr (wroteLanes_flags h.1 hd _ _ _ _ _ _) fun j _ => ?_⟩
  simp only [vsrc_reg _ _ hv, laneOf_unlatch, getG_unlatch h.1, beq_iff_eq]

theorem vdq_regs {s : State} {o : VFmt} {a : Word} (h : LanesOn s o.gn o.gs a) (hd : o.vd.toNat < 24) (hv : o.va.toNat < 24)
    (hs : s.regWait [o.va] (BitVec.allOnes 64) = none) : let t := laneVal ((s.getG o.vb).setWidth 32)
    let w := if o.typ = 5 then 4 else 8
    ∃ u fl, exec (.vdq o) s = .next u ∧ WroteLanes s u o.vd.toNat a (fun j =>
      ((mulE (if o.typ = 5 then cq4Val (unpackCode w (s.readV o.va.toNat) j)
        else e4m3.val (unpackCode w (s.readV o.va.toNat) j)) t).lane o.rnd.toNat).1) fl := by
  intro t w
  obtain ⟨pops, e⟩ := vecPut_regs h hd (srcs := [(1, o.va)]) (need := allLanes) (ms := []) (by simpa using hv) hs rfl _
  refine ⟨_, _, congrArg Host.Outcome.next e, wroteLanes_congr (wroteLanes_write h.1 _ hd a _ _ _ _ _) fun j hj => ?_⟩
  simp only []
  rw [vget_lanesFn _ _ hj, getG_unlatch h.1, State.vsrc, if_pos hv, readV_unlatch]
  simp [t, w]

/-- Settles O20. -/
theorem conversionResults : Obligations.ConversionResults :=
  fun _ _ _ h hd => ⟨vcvt_regs h hd, vqnt_regs h hd, vdq_regs h hd⟩

end Sys2Proof.Laws

/-! O21: lane moves and random numbers. -/

namespace Sys2Proof.Laws

open Sys2Proof Sys2Proof.Machine Sys2Proof.Safety

theorem vmov_regs {s : State} {o : VFmt} {a : Word} (h : LanesOn s o.gn o.gs a) (hd : o.vd.toNat < 24) (hr : RegOps o [])
    (hs : Settled s o [] (BitVec.allOnes 64)) : ∃ t, exec (.vmov o) s = .next t ∧ WroteLanes s t o.vd.toNat a (vaOf s o) 0 :=
  ⟨_, rfl, moveLanes_regs h hd hr.1 (vaSrc_regs hr.1) (by simpa [Settled] using hs) _ some (fun _ _ _ => rfl)
    fun j hj k hk => Option.some.inj hk ▸ hj⟩

theorem vaOf_reg {s : State} {o : VFmt} (h : o.sa = false) : vaOf s o = laneOf s o.va := by
  funext j; rw [vaOf, h]; rfl

section
variable {s : State} {o : VFmt} {a : Word}

theorem vbcast_regs (h : LanesOn s o.gn o.gs a) (hd : o.vd.toNat < 24) (ha : o.sa = false) (hv : o.va.toNat < 24)
    (hs : s.regWait [o.va] (BitVec.allOnes 64) = none) :
    ∃ t, exec (.vbcast o) s = .next t ∧ WroteLanes s t o.vd.toNat a (fun _ => laneOf s o.va (o.imm.toNat % 64)) 0 := by
  refine ⟨_, rfl, wroteLanes_congr (moveLanes_regs h hd (.inr hv) (srcs := [(1, o.va)]) (by simpa using hv) hs _ (fun _ => some (o.imm.toNat % 64))
    (fun _ _ _ => rfl) fun j _ k hk => ?_) fun j _ => by rw [vaOf_reg ha]; rfl⟩
  rw [← Option.some.inj hk]
  exact Nat.mod_lt _ (by decide)

/-- The lane that VROT moves to lane j. -/
def rotLane (s : State) (o : VFmt) (j : Nat) : Nat := (j + (if o.aux.getLsbD 1 then (s.getG o.vb).toNat else o.imm.toNat) % 64) % 64

theorem vrot_regs (h : LanesOn s o.gn o.gs a) (hd : o.vd.toNat < 24) (ha : o.sa = false) (hv : o.va.toNat < 24)
    (hs : s.regWait [o.va] (BitVec.allOnes 64) = none) :
    ∃ t, exec (.vrot o) s = .next t ∧ WroteLanes s t o.vd.toNat a (fun j => laneOf s o.va (rotLane s o j)) 0 := by
  refine ⟨_, rfl, wroteLanes_congr (moveLanes_regs h hd (.inr hv) (srcs := [(1, o.va)]) (by simpa using hv) hs _ (fun j => some (rotLane s o j))
    (fun _ j _ => ?_) fun j _ k hk => ?_) fun j _ => by rw [vaOf_reg ha]; rfl⟩
  · rw [getG_unlatch h.1]; rfl
  · rw [← Option.some.inj hk]
    exact Nat.mod_lt _ (by decide)

theorem vperm_regs (h : LanesOn s o.gn o.gs a) (hd : o.vd.toNat < 24) (ha : o.sa = false) (hv : o.va.toNat < 24) (hb : o.vb.toNat < 24)
    (hs : s.regWait [o.va, o.vb] (BitVec.allOnes 64) = none) : ∃ t, exec (.vperm o) s = .next t ∧ WroteLanes s t o.vd.toNat a
      (fun j => if (laneOf s o.vb j).toNat < 64 then laneOf s o.va (laneOf s o.vb j).toNat else 0) 0 := by
  refine ⟨_, rfl, wroteLanes_congr (moveLanes_regs h hd (.inr hv) (srcs := [(1, o.va), (2, o.vb)]) (by simp [hv, hb]) hs _
    (fun j => if (laneOf s o.vb j).toNat < 64 then some (laneOf s o.vb j).toNat else none) (fun _ j _ => ?_) fun j _ k hk => ?_) fun j _ => ?_⟩
  · simp only [vsrc_reg _ _ hb, laneOf_unlatch]
  · split at hk
    · next hlt => exact Option.some.inj hk ▸ hlt
    · cases hk
  · split
    · rw [vaOf_reg ha]; rfl
    · rfl

theorem viota_regs (h : LanesOn s o.gn o.gs a) (hd : o.vd.toNat < 24) : ∃ t, exec (.viota o) s = .next t ∧
    WroteLanes s t o.vd.toNat a (fun j => (if o.sa then (s.getG o.va).setWidth 32 else o.imm.signExtend 32) + BitVec.ofNat 32 j) 0 := by
  refine ⟨_, rfl, vecPut_wrote h hd (srcs := []) (need := id) (ms := []) (by simp) rfl rfl _ _ _ fun _ => ⟨fun j hj => ?_, rfl⟩⟩
  simp only []
  rw [vget_lanesFn _ _ hj, getG_unlatch h.1]

theorem vins_regs (h : LanesOn s o.gn o.gs a) (hd : o.vd.toNat < 24) : ∃ t, exec (.vins o) s = .next t ∧
    WroteLanes s t o.vd.toNat ((1#64 <<< (o.imm.toNat % 64)) &&& a) (fun _ => (s.getG o.va).setWidth 32) 0 := by
  obtain ⟨pops, e⟩ := vecOp_regs h (srcs := []) (need := id) (ms := []) (by simp) rfl rfl _
  refine ⟨_, congrArg Host.Outcome.next e, wroteLanes_congr (wroteLanes_write0 h.1 _ hd _ _ _ _ _) fun j hj => ?_⟩
  rw [vget_splat _ _ hj, getG_unlatch h.1]

/-- An instruction that gives g[vd] a value moves on, and keeps the other general registers. -/
theorem setG_unlatch (h : s.onCore = false) (pc m w : Word) (n : BitVec 5) (v : Word) :
    let t := ((s.popsDone pc m w []).setG n v).advance
    Steps s t ∧ (n ≠ 0 → t.getG n = v) ∧ ∀ k, k ≠ n → t.getG k = s.getG k := by
  obtain ⟨hk, hm, hg, hp⟩ := keeps_unlatch h pc m w
  obtain ⟨sp, sm, sk⟩ := steps_setG (s.popsDone pc m w []) n v
  refine ⟨⟨by rw [sp, hp], sm.trans hm, kept_trans hk sk⟩, fun hn => ?_, fun k hk => ?_⟩
  · rw [getG_advance, getG_setG_self _ _ _ hn]
  · rw [getG_advance, getG_setG_ne _ _ _ _ hk, hg]

theorem vext_regs (h : LanesOn s o.gn o.gs a) (hv : o.va.toNat < 24) (hs : s.regWait [o.va] (1#64 <<< (o.imm.toNat % 64)) = none) :
    let x := laneOf s o.va (o.imm.toNat % 64)
    ∃ t, exec (.vext o) s = .next t ∧ Steps s t ∧ (o.vd ≠ 0 → t.getG o.vd = if o.typ = 8 then x.signExtend 64 else x.setWidth 64)
      ∧ ∀ n, n ≠ o.vd → t.getG n = s.getG n := by
  obtain ⟨pops, e⟩ := vecOp_regs h (srcs := [(1, o.va)]) (need := fun _ => 1#64 <<< (o.imm.toNat % 64)) (ms := []) (by simpa using hv) hs rfl _
  obtain ⟨h1, h2, h3⟩ := setG_unlatch h.1 s.pc (popMask o a) a o.vd _
  refine ⟨_, congrArg Host.Outcome.next e, h1, fun hn => (h2 hn).trans ?_, h3⟩
  rw [vsrc_reg _ _ hv, laneOf_unlatch]
  simp

/-- The fraction of 24 bits that VRNG gives under FP32 (R373). -/
def rngLane (typ : BitVec 4) (x : Lane) : Lane :=
  if typ == 9 then x else if x >>> 8 = 0 then 0 else ((Exact.num false (x >>> 8).toNat (-24) false).lane 0).1

theorem shiftRight8_toNat (x : Lane) : (x >>> 8).toNat = x.toNat / 256 := by
  rw [BitVec.toNat_ushiftRight, Nat.shiftRight_eq_div_pow]

theorem rngLane_fp32 {typ : BitVec 4} (h : typ ≠ 9) (x : Lane) :
    rngLane typ x = if x.toNat / 256 = 0 then 0 else ((Exact.num false (x.toNat / 256) (-24) false).lane 0).1 := by
  have e : (x >>> 8 = 0) = (x.toNat / 256 = 0) := by
    rw [← shiftRight8_toNat]
    exact propext ⟨fun e => by rw [e]; rfl, fun e => BitVec.eq_of_toNat_eq e⟩
  simp only [rngLane, beq_iff_eq, h, if_false, e, shiftRight8_toNat]

/-- The Philox word of a lane (R373). -/
def rngWord (s : State) (o : VFmt) (j : Nat) : Lane :=
  let key := halves (s.getG o.va)
  let hi := halves (s.getG (o.va + 1))
  let ctr := halves (s.getG o.vb + BitVec.ofNat 64 j)
  pick4 (o.imm.toNat % 4) (philox 10 key.1 key.2 (ctr.1, ctr.2, hi.1, hi.2))

theorem vrng_regs (h : LanesOn s o.gn o.gs a) (hd : o.vd.toNat < 24) : ∃ t, exec (.vrng o) s = .next t ∧
    WroteLanes s t o.vd.toNat a (fun j => rngLane o.typ (rngWord s o j)) 0 := by
  obtain ⟨pops, e⟩ := vecOp_regs h (srcs := []) (need := id) (ms := []) (by simp) rfl rfl _
  refine ⟨_, congrArg Host.Outcome.next e, wroteLanes_congr (wroteLanes_write0 h.1 _ hd _ _ _ _ _) fun j hj => ?_⟩
  rw [vget_lanesFn _ _ hj, getG_unlatch h.1, getG_unlatch h.1, getG_unlatch h.1]
  rfl

end

/-- Settles O21. -/
theorem laneMoveAndRandomResults : Obligations.LaneMoveAndRandomResults :=
  ⟨fun _ _ _ h => ⟨vmov_regs h, fun hd ha hv hs => ⟨vbcast_regs h hd ha hv hs, vrot_regs h hd ha hv hs⟩, vperm_regs h, viota_regs h,
      vins_regs h, vext_regs h⟩,
    fun _ _ _ h hd => by
      obtain ⟨t, e, ht⟩ := vrng_regs h hd
      refine ⟨t, _, e, ht, fun j _ => ⟨fun h9 => ?_, fun h9 => rngLane_fp32 h9 _⟩⟩
      simp [rngLane, h9]; rfl⟩

end Sys2Proof.Laws

/-! O22: reductions and ranks. -/

namespace Sys2Proof.Laws

open Sys2Proof Sys2Proof.Machine Sys2Proof.Safety

/-- A sum over lanes of which the dead ones count 0 is the sum over the live ones. -/
theorem foldl_live (live : Nat → Bool) (x : Nat → Lane) (l : List Nat) (b : Lane) :
    (l.map fun j => if live j then x j else 0).foldl (· + ·) b = (l.filter live).foldl (fun y j => y + x j) b := by
  induction l generalizing b with
  | nil => rfl
  | cons j r ih =>
    rw [List.map_cons, List.foldl_cons, ih, List.filter_cons]
    cases live j <;> simp

/-- Lane j of running sums: the sum of the lanes up to it. -/
theorem scanSums_getD (typ rnd : Nat) (l : List Lane) (b : Lane) {j : Nat} (hj : j < l.length) :
    (scanSums typ rnd b l).1.getD j 0 =
      (l.take (j + 1)).foldl (fun x y => if typ == 0 then (addLane x y rnd).1 else x + y) b := by
  induction l generalizing b j with
  | nil => simp at hj
  | cons y r ih =>
    simp only [scanSums, List.take_succ_cons, List.foldl_cons]
    cases j with
    | zero => cases typ == 0 <;> simp
    | succ j =>
      rw [List.getD_cons_succ, ih _ (by simpa using hj)]
      cases typ == 0 <;> rfl

/-- Integer running sums set no flag. -/
theorem scanSums_fl {typ : Nat} (ht : (typ == 0) = false) (rnd : Nat) (l : List Lane) (b : Lane) : (scanSums typ rnd b l).2 = 0 := by
  induction l generalizing b with
  | nil => rfl
  | cons y r ih => simp only [scanSums, ht, Bool.false_eq_true, if_false, ih]; rfl

/-- The order of R366 as a key: a lane ranks above another where its key is greater. -/
def rankKey (typ : Nat) (x : Lane) : ℤ ×ₗ ℤ :=
  if typ == 8 then toLex (x.toInt, 0) else if typ == 9 then toLex (x.toNat, 0) else toLex (orderEnd (laneVal x), orderKey (laneVal x))

theorem above_iff_rankKey {typ : Nat} (ht : typ = 0 ∨ typ = 8 ∨ typ = 9) {x y : Lane} (hx : nanAs typ x = false) (hy : nanAs typ y = false) :
    above typ x y = true ↔ rankKey typ y < rankKey typ x := by
  rw [Prod.Lex.lt_iff]
  rcases ht with rfl | rfl | rfl
  · simp only [nanAs, beq_self_eq_true, Bool.true_and, beq_eq_false_iff_ne] at hx hy
    exact ltV_key (isLane_laneVal y) (isLane_laneVal x) hy hx
  · simp [above, rankKey]
  · simp [above, rankKey]

/-- The greatest of a list and a start value, by a key: one of them, and none has a greater key. -/
theorem foldl_greatest {α κ : Type} [LinearOrder κ] (key : α → κ) (up : α → α → Bool) (l : List α) (b : α)
    (hup : ∀ x ∈ b :: l, ∀ y ∈ b :: l, up x y = true ↔ key y < key x) :
    let v := l.foldl (fun b x => if up x b then x else b) b
    v ∈ b :: l ∧ ∀ x ∈ b :: l, key x ≤ key v := by
  induction l generalizing b with
  | nil => simp
  | cons x r ih =>
    intro v
    have hxb := hup x (by simp) b (by simp)
    set c := if up x b then x else b with hc
    have hmem : c = x ∨ c = b := by rw [hc]; split <;> simp
    have hge : key x ≤ key c ∧ key b ≤ key c := by
      rw [hc]
      split
      · next h => exact ⟨le_rfl, (hxb.1 h).le⟩
      · next h => exact ⟨not_lt.1 fun hlt => h (hxb.2 hlt), le_rfl⟩
    have hin : ∀ z ∈ c :: r, z ∈ b :: x :: r := by
      intro z hz
      rcases List.mem_cons.1 hz with rfl | hz
      · rcases hmem with h | h <;> simp [h]
      · simp [hz]
    obtain ⟨h1, h2⟩ := ih c fun p hp q hq => hup p (hin p hp) q (hin q hq)
    refine ⟨hin _ h1, fun z hz => ?_⟩
    have hcv := h2 c (by simp)
    rcases List.mem_cons.1 hz with rfl | hz
    · exact hge.2.trans hcv
    · rcases List.mem_cons.1 hz with rfl | hz
      · exact hge.1.trans hcv
      · exact h2 z (by simp [hz])

theorem nanAs_leastOf (typ : Nat) : nanAs typ (leastOf typ) = false := by
  unfold nanAs leastOf
  cases h : typ == 0
  · rfl
  · rw [beq_iff_eq.1 h]; decide

section
variable {s : State} {o : VFmt} {a : Word}

/-- The lanes of va that a reduction takes: active, and without a cut mark. -/
def liveLane (s : State) (o : VFmt) (a : Word) (j : Nat) : Bool := a.getLsbD j && !(vget s.me.cut o.va.toNat 0).getLsbD j

/-- The 64 lanes of a reduction, the others at the identity. -/
def redLanes (s : State) (o : VFmt) (a : Word) (e : Lane) : List Lane :=
  (List.range 64).map fun j => if liveLane s o a j then laneOf s o.va j else e

theorem hart_unlatch (h : s.onCore = false) (pc m w : Word) : (s.popsDone pc m w []).hart = s.hart := by
  rw [hart_me (by exact h), me_unlatch, hart_me h]; rfl

theorem getD_replicate64 (v : Lane) {j : Nat} (hj : j < 64) : (List.replicate 64 v).getD j 0 = v := by
  rw [List.getD_eq_getElem?_getD, List.getElem?_replicate, if_pos hj]; rfl

/-- The sum of the live lanes below n modulo 2^32. -/
def liveSum (s : State) (o : VFmt) (a : Word) (n : Nat) : Lane :=
  ((List.range n).filter (liveLane s o a)).foldl (fun x j => x + laneOf s o.va j) 0

theorem vrsum_int (h : LanesOn s o.gn o.gs a) (hv : o.va.toNat < 24) (hd : o.vd.toNat < 24) (hr : s.regWait [o.va] a = none)
    (ht : (o.typ == 0) = false) : ∃ t, exec (.vrsum o) s = .next t ∧ WroteLanes s t o.vd.toNat a (fun _ => liveSum s o a 64) 0 := by
  refine ⟨_, rfl, wroteLanes_congr (reduce_regs h hv hd hr 0 _ (List.replicate 64 (liveSum s o a 64)) 0 ?_) fun j hj => getD_replicate64 _ hj⟩
  simp only [ht, Bool.false_eq_true, if_false]
  exact congrArg (fun v => (List.replicate 64 v, (0 : Fl))) (foldl_live (liveLane s o a) _ _ _)

theorem vrsum_fp (h : LanesOn s o.gn o.gs a) (hv : o.va.toNat < 24) (hd : o.vd.toNat < 24) (hr : s.regWait [o.va] a = none)
    (ht : o.typ = 0) : let r := sumLanes s.hart.nbv o.rnd.toNat (redLanes s o a 0)
    ∃ t, exec (.vrsum o) s = .next t ∧ WroteLanes s t o.vd.toNat a (fun _ => r.1) r.2 := by
  intro r
  refine ⟨_, rfl, wroteLanes_congr (reduce_regs h hv hd hr 0 _ (List.replicate 64 r.1) r.2 ?_) fun j hj => getD_replicate64 _ hj⟩
  simp only [ht, hart_unlatch h.1]
  rfl

/-- What VSCAN makes of the lanes of its reduction. -/
def scanRes (o : VFmt) (_ : State) (l : List Lane) : List Lane × Fl :=
  let x := l.headD 0
  let (r, fl) := scanSums o.typ.toNat o.rnd.toNat x (l.drop 1)
  (canonLane o.typ.toNat x :: r, fl ||| flIf (nanAs o.typ.toNat x) flNan)

theorem scanRes_eq (o : VFmt) (s : State) (l : List Lane) : scanRes o s l =
    (canonLane o.typ.toNat (l.headD 0) :: (scanSums o.typ.toNat o.rnd.toNat (l.headD 0) (l.drop 1)).1,
      (scanSums o.typ.toNat o.rnd.toNat (l.headD 0) (l.drop 1)).2 ||| flIf (nanAs o.typ.toNat (l.headD 0)) flNan) := rfl

theorem vscan_lanes (h : LanesOn s o.gn o.gs a) (hv : o.va.toNat < 24) (hd : o.vd.toNat < 24) (hr : s.regWait [o.va] a = none) :
    let l := redLanes s o a 0
    let r := scanSums o.typ.toNat o.rnd.toNat (l.headD 0) (l.drop 1)
    ∃ t, exec (.vscan o) s = .next t ∧ WroteLanes s t o.vd.toNat a
      (fun j => if j = 0 then canonLane o.typ.toNat (l.headD 0) else r.1.getD (j - 1) 0) (r.2 ||| flIf (nanAs o.typ.toNat (l.headD 0)) flNan) := by
  intro l r
  have hx : exec (.vscan o) s = .next (s.reduce o 0 (scanRes o)) := rfl
  refine ⟨_, hx, wroteLanes_congr (reduce_regs h hv hd hr 0 _ _ _ (scanRes_eq o _ l)) fun j _ => ?_⟩
  cases j with
  | zero => rfl
  | succ j => rfl

theorem length_redLanes (e : Lane) : (redLanes s o a e).length = 64 := by simp [redLanes]

theorem redLanes_drop_take (e : Lane) (j : Nat) :
    ((redLanes s o a e).drop 1).take (j + 1) = ((redLanes s o a e).take (j + 2)).drop 1 := by
  rw [List.drop_take]; rfl

/-- Lane j > 0 of a running sum: the first lane and those after it, up to j. -/
theorem scan_redLanes (typ rnd : Nat) {j : Nat} (hj : j < 64) (h0 : j ≠ 0) :
    (scanSums typ rnd ((redLanes s o a 0).headD 0) ((redLanes s o a 0).drop 1)).1.getD (j - 1) 0 =
      (((redLanes s o a 0).take (j + 1)).drop 1).foldl (fun x y => if typ == 0 then (addLane x y rnd).1 else x + y)
        ((redLanes s o a 0).headD 0) := by
  obtain ⟨k, rfl⟩ := Nat.exists_eq_succ_of_ne_zero h0
  rw [Nat.succ_sub_one, scanSums_getD _ _ _ _ (by rw [List.length_drop, length_redLanes]; omega), redLanes_drop_take]

/-- The sum of the first n of the 64 lanes. -/
theorem foldl_take_redLanes {n : Nat} (hn : n ≤ 64) : ((redLanes s o a 0).take n).foldl (· + ·) 0 = liveSum s o a n := by
  rw [redLanes, ← List.map_take, List.take_range, Nat.min_eq_left hn]
  exact foldl_live _ _ _ _

theorem foldl_headD_drop {l : List Lane} (h : l ≠ []) : (l.drop 1).foldl (· + ·) (l.headD 0) = l.foldl (· + ·) 0 := by
  cases l with
  | nil => exact absurd rfl h
  | cons x r => simp

theorem headD_take {l : List Lane} (n : Nat) : (l.take (n + 1)).headD 0 = l.headD 0 := by cases l <;> rfl

theorem vscan_int (h : LanesOn s o.gn o.gs a) (hv : o.va.toNat < 24) (hd : o.vd.toNat < 24) (hr : s.regWait [o.va] a = none)
    (ht : (o.typ.toNat == 0) = false) : ∃ t, exec (.vscan o) s = .next t ∧ WroteLanes s t o.vd.toNat a (fun j => liveSum s o a (j + 1)) 0 := by
  obtain ⟨t, e, ht'⟩ := vscan_lanes h hv hd hr
  have hn : ∀ x, nanAs o.typ.toNat x = false := fun x => by rw [nanAs, ht, Bool.false_and]
  rw [scanSums_fl ht, hn] at ht'
  refine ⟨t, e, wroteLanes_congr ht' fun j hj => ?_⟩
  have hne : (redLanes s o a 0).take (j + 1) ≠ [] := fun e0 => by
    have := congrArg List.length e0
    rw [List.length_take, length_redLanes] at this
    simp at this
  rw [← foldl_take_redLanes (by omega), ← foldl_headD_drop hne, headD_take]
  split
  · next h0 =>
    subst h0
    rw [canonLane, hn]
    simp
  · next h0 =>
    rw [scan_redLanes _ _ hj h0]
    simp only [ht, Bool.false_eq_true, if_false]

theorem vscan_fp (h : LanesOn s o.gn o.gs a) (hv : o.va.toNat < 24) (hd : o.vd.toNat < 24) (hr : s.regWait [o.va] a = none)
    (ht : o.typ = 0) : let l := redLanes s o a 0
    ∃ t fl, exec (.vscan o) s = .next t ∧ WroteLanes s t o.vd.toNat a
      (fun j => if j = 0 then (if nanAs 0 (l.headD 0) then 0x7FC00000 else l.headD 0)
        else ((l.take (j + 1)).drop 1).foldl (fun x y => (addLane x y o.rnd.toNat).1) (l.headD 0)) fl := by
  intro l
  obtain ⟨t, e, ht'⟩ := vscan_lanes h hv hd hr
  refine ⟨t, _, e, wroteLanes_congr ht' fun j hj => ?_⟩
  have h0 : o.typ.toNat = 0 := by rw [ht]; rfl
  rw [h0]
  split
  · rfl
  · next hj0 => exact scan_redLanes 0 _ hj hj0

/-- The greatest of the lanes of a reduction, from the least value on. -/
def greatest (s : State) (o : VFmt) (a : Word) : Lane :=
  (redLanes s o a (leastOf o.typ.toNat)).foldl (fun b x => if above o.typ.toNat x b then x else b) (leastOf o.typ.toNat)

theorem mem_redLanes {e x : Lane} : x ∈ redLanes s o a e ↔ ∃ j, j < 64 ∧ (if liveLane s o a j then laneOf s o.va j else e) = x := by
  simp [redLanes]

theorem greatest_spec (hn : (redLanes s o a (leastOf o.typ.toNat)).any (nanAs o.typ.toNat) = false)
    (ht : o.typ.toNat = 0 ∨ o.typ.toNat = 8 ∨ o.typ.toNat = 9) :
    (∀ j, j < 64 → liveLane s o a j = true → above o.typ.toNat (laneOf s o.va j) (greatest s o a) = false)
      ∧ (greatest s o a = leastOf o.typ.toNat ∨ ∃ j, j < 64 ∧ liveLane s o a j = true ∧ greatest s o a = laneOf s o.va j) := by
  have hnan : ∀ x ∈ leastOf o.typ.toNat :: redLanes s o a (leastOf o.typ.toNat), nanAs o.typ.toNat x = false := by
    intro x hx
    rcases List.mem_cons.1 hx with rfl | hx
    · exact nanAs_leastOf _
    · exact Bool.eq_false_iff.2 (List.any_eq_false.1 hn x hx)
  obtain ⟨h1, h2⟩ := foldl_greatest (rankKey o.typ.toNat) (above o.typ.toNat) _ (leastOf o.typ.toNat)
    fun x hx y hy => above_iff_rankKey ht (hnan x hx) (hnan y hy)
  refine ⟨fun j hj hl => ?_, ?_⟩
  · have hm : laneOf s o.va j ∈ leastOf o.typ.toNat :: redLanes s o a (leastOf o.typ.toNat) :=
      List.mem_cons_of_mem _ (mem_redLanes.2 ⟨j, hj, if_pos hl⟩)
    exact Bool.eq_false_iff.2 fun hab => (h2 _ hm).not_gt ((above_iff_rankKey ht (hnan _ hm) (hnan _ h1)).1 hab)
  · rcases List.mem_cons.1 h1 with h | h
    · exact .inl h
    · obtain ⟨j, hj, e⟩ := mem_redLanes.1 h
      cases hl : liveLane s o a j with
      | true => exact .inr ⟨j, hj, hl, by rw [hl, if_pos rfl] at e; exact e.symm⟩
      | false => exact .inl (by rw [hl] at e; exact e.symm)

theorem vrmax_regs (h : LanesOn s o.gn o.gs a) (hv : o.va.toNat < 24) (hd : o.vd.toNat < 24) (hr : s.regWait [o.va] a = none) :
    let nan := (redLanes s o a (leastOf o.typ.toNat)).any (nanAs o.typ.toNat)
    ∃ t, exec (.vrmax o) s = .next t ∧ WroteLanes s t o.vd.toNat a (fun _ => if nan then 0x7FC00000 else greatest s o a) (flIf nan flNan) :=
  ⟨_, rfl, wroteLanes_congr (reduce_regs h hv hd hr (leastOf o.typ.toNat) _ (List.replicate 64 _) _ rfl) fun _ hj => getD_replicate64 _ hj⟩

/-- A lane of a register after a write of lanes. -/
theorem vget_writeV (x : Context) {r k j : Nat} (hr : r < 24) (hk : k < 24) (hj : j < 64) (m : Word) (new e : Lanes) :
    vget (vget (x.writeV r m new).v k e) j 0 = if k = r ∧ m.getLsbD j = true then vget new j 0 else vget (vget x.v k e) j 0 :=
  vget_vput_pickLanes _ hr _ _ hk hj e

theorem vget_writeV_ne (x : Context) {r k : Nat} (h : k ≠ r) (m : Word) (new e : Lanes) :
    vget (x.writeV r m new).v k e = vget x.v k e := vget_vput_ne _ _ _ (Ne.symm h)

theorem vrarg_regs (h : LanesOn s o.gn o.gs a) (hv : o.va.toNat < 24) (hr : s.regWait [o.va] a = none) :
    let r := ranked o.typ.toNat a (s.readV o.va.toNat)
    ∃ t, exec (.vrarg o) s = .next t ∧ Steps s t ∧ (o.vd ≠ 0 → t.getG o.vd = BitVec.ofNat 64 (r.getD 0 (0, 0)).1)
      ∧ ∀ n, n ≠ o.vd → t.getG n = s.getG n := by
  obtain ⟨pops, e⟩ := vecOp_regs h (srcs := [(1, o.va)]) (need := id) (ms := []) (by simpa using hv) hr rfl _
  obtain ⟨h1, h2, h3⟩ := setG_steps_unlatch h.1 s.pc (popMask o a) a o.vd _ _
  refine ⟨_, congrArg Host.Outcome.next e, h1, fun hn => (h2 hn).trans ?_, h3⟩
  rw [State.vsrc, if_pos hv, readV_unlatch]; rfl

theorem getD_fst (r : Array (Nat × Lane)) (j : Nat) (x y : Lane) : (r.getD j (64, x)).1 = (r.getD j (64, y)).1 := by
  rw [Array.getD_eq_getD_getElem?, Array.getD_eq_getD_getElem?]
  cases r[j]? <;> rfl

theorem vtopk_regs (h : LanesOn s o.gn o.gs a) (hv : o.va.toNat < 24) (hr : s.regWait [o.va] a = none) (hd : o.vd.toNat < 23) :
    let r := ranked o.typ.toNat a (s.readV o.va.toNat)
    let k := o.imm.toNat % 128
    ∃ t, exec (.vtopk o) s = .next t ∧ MovedOn s t ∧ t.me.m = s.me.m
      ∧ (∀ j, j < 64 → vget (vget t.me.v (o.vd.toNat + 1) .zero) j 0 =
          if j < k then BitVec.ofNat 32 (r.getD j (64, 0)).1 else vget (vget s.me.v (o.vd.toNat + 1) .zero) j 0)
      ∧ (∀ j, j < 64 → vget (vget t.me.v o.vd.toNat .zero) j 0 =
          if j < k then canonLane o.typ.toNat (r.getD j (64, leastOf o.typ.toNat)).2 else vget (vget s.me.v o.vd.toNat .zero) j 0)
      ∧ ∀ n, n ≠ o.vd.toNat → n ≠ o.vd.toNat + 1 → vget t.me.v n .zero = vget s.me.v n .zero := by
  intro r k
  obtain ⟨pops, e⟩ := vecOp_regs h (srcs := [(1, o.va)]) (need := id) (ms := []) (by simpa using hv) hr rfl _
  refine ⟨_, congrArg Host.Outcome.next e, ?_⟩
  simp only [State.vsrc, if_pos hv, readV_unlatch]
  generalize flIf _ _ = fl
  have hu : ((s.popsDone s.pc (popMask o a) a []).addFlags fl).onCore = false := by rw [onCore_addFlags]; exact h.1
  set w : Context → Context := fun x => (x.writeV _ _ _).writeV _ _ _ with hw
  have hc : (((s.popsDone s.pc (popMask o a) a []).addFlags fl).modMe w).onCore = false := hu
  have hme : (((s.popsDone s.pc (popMask o a) a []).addFlags fl).modMe w).me =
      w { unlatched s.me s.pc with hart := { s.me.hart with fflags := s.me.hart.fflags ||| fl } } := by
    rw [me_modMe, addFlags_me (by exact h.1), me_modMe, me_unlatch]; rfl
  refine ⟨movedOn_advance hc (keeps_modMe _ hu (keeps_addFlags (t := s.popsDone _ _ _ []) h.1 (keeps_unlatch h.1 _ _ _) fl) ⟨_, _, _, _, _, rfl⟩), ?_, ?_, ?_, ?_⟩
  all_goals rw [me_advance hc, hme]
  · rfl
  · intro j hj
    show vget (vget ((Context.writeV _ _ _ _).writeV _ _ _).v _ _) j 0 = _
    rw [vget_writeV _ (by omega) (by omega) hj, vget_writeV _ (by omega) (by omega) hj, getLsbD_maskOf _ hj, vget_lanesFn _ _ hj,
      getD_fst r j (leastOf o.typ.toNat) 0]
    simp [k, unlatched]
  · intro j hj
    show vget (vget ((Context.writeV _ _ _ _).writeV _ _ _).v _ _) j 0 = _
    rw [vget_writeV_ne _ (by omega), vget_writeV _ (by omega) (by omega) hj, getLsbD_maskOf _ hj, vget_lanesFn _ _ hj]
    simp [k, unlatched, r]
  · intro n h1 h2
    show vget ((Context.writeV _ _ _ _).writeV _ _ _).v n _ = _
    rw [vget_writeV_ne _ h2, vget_writeV_ne _ h1]
    rfl

end

/-- Settles O22. -/
theorem reductionAndRankResults : Obligations.ReductionAndRankResults := by
  refine ⟨?_, fun s o a h hv hr => ⟨vrarg_regs h hv hr, vtopk_regs h hv hr⟩⟩
  intro s o a h hv hd hr live lanes sum typ nan
  have hlanes : ∀ e, lanes e = redLanes s o a e := fun _ => rfl
  refine ⟨fun ht => ?_, fun ht => ⟨vrsum_fp h hv hd hr ht, vscan_fp h hv hd hr ht⟩, ?_⟩
  · have h0 : (o.typ == 0) = false := by rcases ht with ht | ht <;> rw [ht] <;> rfl
    have h1 : (o.typ.toNat == 0) = false := by rcases ht with ht | ht <;> rw [ht] <;> rfl
    exact ⟨vrsum_int h hv hd hr h0, vscan_int h hv hd hr h1⟩
  · obtain ⟨t, e, ht⟩ := vrmax_regs h hv hd hr
    refine ⟨t, _, e, ht, fun hn => if_pos hn, fun hn htyp => ?_⟩
    have hx : (redLanes s o a (leastOf o.typ.toNat)).any (nanAs o.typ.toNat) = false := hn
    simp only [hx, Bool.false_eq_true, if_false]
    exact greatest_spec hx (by rcases htyp with h | h | h <;> rw [h] <;> simp)

end Sys2Proof.Laws

/-! O23: masks. -/

namespace Sys2Proof.Laws

open Sys2Proof Sys2Proof.Machine Sys2Proof.Safety

/-- The rank of a lane is the number of set lanes below it. -/
theorem laneRank_eq (m : Word) (n : Nat) : laneRank m n = ((List.range n).filter fun j => m.getLsbD j).length := by
  unfold laneRank
  induction n with
  | zero => rfl
  | succ k ih =>
    rw [laneRank.popcBelow, ih, List.range_succ, List.filter_append, List.length_append, List.filter_singleton]
    cases m.getLsbD k <;> simp [b2n, Nat.add_comm]

theorem mask_zero (x : Context) : x.mask 0 = BitVec.allOnes 64 := rfl

section
variable {s : State} {o : VFmt} {a : Word}

/-- A mask instruction writes md with v in the active lanes. -/
theorem maskOp_result (h : LanesOn s o.gn o.gs a) (hd : o.vd.toNat < 8) {srcs : List Nat} (hm : s.maskWait srcs = none) (f : State → Word)
    (v : Word) (hf : f (s.popsDone s.pc (popMask o a) a []) = v) :
    let t := s.maskOp o srcs f
    MovedOn s t
      ∧ (∀ j, j < 64 → o.vd ≠ 0 → (t.me.mask o.vd.toNat).getLsbD j = if a.getLsbD j then v.getLsbD j else (s.me.mask o.vd.toNat).getLsbD j)
      ∧ (∀ n, n ≠ o.vd.toNat → t.me.mask n = s.me.mask n) ∧ t.me.mask 0 = BitVec.allOnes 64
      ∧ t.me.v = s.me.v ∧ t.hart.fflags = s.hart.fflags := by
  intro t
  obtain ⟨hmv, hmask, hv, hfl⟩ := maskOp_regs h hd hm f v hf
  refine ⟨hmv, fun j hj h0 => ?_, fun n hn => ?_, mask_zero _, hv, hfl⟩
  · have hn : o.vd.toNat ≠ 0 := fun e => h0 (BitVec.eq_of_toNat_eq e)
    rw [hmask, if_pos ⟨rfl, hn⟩]
    rw [BitVec.getLsbD_or, BitVec.getLsbD_and, BitVec.getLsbD_and, BitVec.getLsbD_not, decide_eq_true hj]
    cases a.getLsbD j <;> simp
  · rw [hmask, if_neg fun e => hn e.1]

theorem maskWait_two {i j : Nat} (hi : s.me.maskLink i = none) (hj : s.me.maskLink j = none) : s.maskWait [i, j] = none := by
  simp [State.maskWait, hi, hj]

theorem maskWait_one {i : Nat} (hi : s.me.maskLink i = none) : s.maskWait [i] = none := by simp [State.maskWait, hi]

/-- An instruction that gives g[vd] a number from a mask. -/
theorem maskCount_regs (h : LanesOn s o.gn o.gs a) (hm : s.me.maskLink o.va.toNat = none) (f : Word → Word) {i : Instr}
    (hi : exec i s = .next (s.vecOp o [] id [o.va.toNat] fun _ a s => (s.setG o.vd (f (s.me.mask o.va.toNat &&& a))).advance)) :
    ∃ t, exec i s = .next t ∧ Steps s t ∧ (o.vd ≠ 0 → t.getG o.vd = f (s.me.mask o.va.toNat &&& a))
      ∧ ∀ n, n ≠ o.vd → t.getG n = s.getG n := by
  obtain ⟨pops, e⟩ := vecOp_regs h (srcs := []) (need := id) (by simp) rfl (maskWait_one hm) _
  refine ⟨_, hi.trans (congrArg Host.Outcome.next e), ?_⟩
  rw [mask_unlatch]
  exact setG_unlatch h.1 _ _ _ _ _

end

/-- Settles O23: maskOp for the instructions that write a mask, the set lanes among the active ones for the others. -/
theorem maskResults : Obligations.MaskResults := by
  intro s o a h x y r g
  refine ⟨fun hd ha hb => ?_, fun hd ha => ?_, fun hd => ?_, fun ha => ⟨?_, ?_⟩⟩
  · have op := fun f v hf => maskOp_result h hd (maskWait_two ha hb) f v hf
    exact ⟨⟨_, rfl, op _ (x &&& y) (by simp only [mask_unlatch]; rfl)⟩, ⟨_, rfl, op _ (x ||| y) (by simp only [mask_unlatch]; rfl)⟩,
      ⟨_, rfl, op _ (x ^^^ y) (by simp only [mask_unlatch]; rfl)⟩⟩
  · exact ⟨_, rfl, maskOp_result h hd (maskWait_one ha) _ (~~~x) (by simp only [mask_unlatch]; rfl)⟩
  · exact ⟨_, rfl, maskOp_result h hd (srcs := []) rfl _ _ (by rw [getG_unlatch h.1])⟩
  · obtain ⟨t, e, hst, hg, hk⟩ := maskCount_regs h ha (fun m => w64 (laneRank m 64)) (i := .mpop o) rfl
    exact ⟨t, e, hst, fun hn => (hg hn).trans (by rw [laneRank_eq]; rfl), hk⟩
  · exact maskCount_regs h ha (fun m => w64 (lowest m)) (i := .mfirst o) rfl

end Sys2Proof.Laws

/-! O25: the frame of the vector group. -/

namespace Sys2Proof.Laws

open Sys2Proof Sys2Proof.Machine Sys2Proof.Safety

/-- A VADD to v1 in flight in lane 0. -/
def addInFlight : Link :=
  { word := 0x6000_8000_0000_0000, dst := 1, two := false, nbv := 2, rnd := 0, active := 1, opn := 1, opn2 := 0, vals := .zero,
    vals2 := .zero, fl := .zero, cuts := 0, push := none }

/-- Context 0 of die 0's tile 0 with a link in flight; it issued at step 1 and again at step 2. -/
def issuedAgain : State :=
  ({ State.reset with cur := .ctx 0 0 0 } : State).modMe fun c =>
    { c with links := [addInFlight], hart := { c.hart with issue := 2, prev := 1 } }

/-- A VSETTLE, unguarded. -/
def settleAll : VFmt :=
  { gn := false, gs := 0, vd := 0, va := 0, vb := 0, vc := 0, typ := 0, prec := 0, rnd := 0, sat := false, pm := false, mkf := 0,
    sa := false, aux := 0, imm := 0 }

theorem issuedAgain_lanesOn : LanesOn issuedAgain settleAll.gn settleAll.gs (BitVec.allOnes 64) := by
  unfold LanesOn; decide +kernel

/-- VSETTLE waits there for the link. -/
theorem issuedAgain_settle : exec (.vsettle settleAll) issuedAgain = .next (issuedAgain.waits (.links 1)) :=
  (chainDepthAndSettle.2 issuedAgain settleAll _ issuedAgain_lanesOn).2.2 (by decide +kernel)

/-- Refutes O25: an instruction that waits for links is no candidate for issue (R96, Wait.bars), and State.waits takes back when it last
issued. A context that issued at steps 1 and 2 and waits at VSETTLE is left with issue = 1, which the statement's frame of the registers
keeps at 2. -/
theorem not_vectorFrame : ¬ Obligations.VectorFrame := by
  intro h
  obtain ⟨-, -, -, -, ⟨g, pc, w, x, fl, n, p, c, e⟩, -⟩ :=
    h issuedAgain _ settleAll (.vsettle settleAll) (by show (0 : Nat) < 256; decide) rfl issuedAgain_settle (by simp)
  have before : issuedAgain.hart.issue = 2 := by decide +kernel
  have after : (issuedAgain.waits (.links 1)).hart.issue = 1 := by decide +kernel
  rw [e] at after
  exact absurd (before.symm.trans after) (by decide)

end Sys2Proof.Laws

/-! What a scalar access does with the place of its address, said once for loads, stores and atomics (15 R333-R343). -/

namespace Sys2Proof.Laws

open Sys2Proof Sys2Proof.Machine Sys2Proof.Safety

/-- A load once its address has passed the checks. -/
def loadAt (ea n : Nat) (k : Nat → State → State) (p : Place) (s : State) : State :=
  if narrow4 ea n then s.trap 4 0 (w64 ea)
  else match p with
  | .mem p =>
    if s.poisonFor s.req p then s.trap 6 0 (w64 ea)
    else if s.mayMiss ea p n then
      let (s1, w) := s.freeVal
      if w.getLsbD 0 then k (s.missed ea p n) s1 else k (s.rdFor s.req p n) (s1.dropLate p n)
    else k (s.rdFor s.req p n) s
  | .void => k 0 s
  | .reg c d l => k (s.readCtl c d l).toNat s
  | .remote m va => s.viaPod 0 ea m va n .read 0 0 [] fun r s => k (leVal r.data) s

/-- A store once its address has passed the checks. -/
def storeAt (rel : Bool) (ea : Nat) (bs : List Byte) (p : Place) (s : State) : State :=
  if narrow4 ea bs.length then s.trap 4 0 (w64 ea)
  else match p with
  | .mem p => s.advance.putOwn rel ea p bs
  | .void => s.advance
  | .reg c d l => s.advance.writeCtl c d l (w64 (leVal bs))
  | .remote m va => s.viaPod 0 ea m va bs.length .write 0 0 bs fun _ s => s.advance

/-- An atomic performed after the context's earlier stores. -/
def atomicAfter (ea : Nat) (p : Phys) (f : Word → Option Word) (k : Word → State → State) (s : State) : State :=
  let old := w64 (s.rdFor s.req p 8)
  k old (match f old with
    | some v => (s.noteStore ea p 8).wrFor s.req p (leOf 8 v.toNat)
    | none => s.dropLate p 8)

/-- An atomic performed whole before the context's earlier stores. -/
def atomicBefore (ea : Nat) (p : Phys) (f : Word → Option Word) (k : Word → State → State) (s : State) : State :=
  let old := w64 (s.missed ea p 8)
  k old (match f old with | some v => s.putBefore ea p (leOf 8 v.toNat) | none => s)

/-- An atomic once its address has passed the checks. -/
def atomicAt (rel : Bool) (ea : Nat) (op : RemoteOp) (x y : Word) (f : Word → Option Word) (k : Word → State → State) (p : Place) (s : State) :
    State :=
  match p with
  | .mem p =>
    if s.poisonFor s.req p then s.trap 6 0 (w64 ea)
    else if !rel && s.atomicPasses ea p then
      if s.freeVal.2.getLsbD 0 then atomicBefore ea p f k s.freeVal.1 else atomicAfter ea p f k s.freeVal.1
    else atomicAfter ea p f k s
  | .void => k 0 s
  | .reg .. => s.trap 4 0 (w64 ea)
  | .remote m va => s.viaPod 0 ea m va 8 op x y [] fun r s => k (w64 (leVal r.data)) s

theorem load_access (s : State) (ea n : Nat) (k : Nat → State → State) : s.load ea n k = s.access ea n n .read (loadAt ea n k) := rfl

theorem store_access (s : State) (rel : Bool) (ea : Nat) {bs : List Byte} {n : Nat} (h : bs.length = n) :
    s.store rel ea bs = s.access ea n n .write (storeAt rel ea bs) := by
  subst h; rfl

theorem atomic_access (s : State) (rel : Bool) (ea : Nat) (op : RemoteOp) (x y : Word) (f : Word → Option Word) (k : Word → State → State) :
    s.atomic rel ea op x y f k = s.access ea 8 8 .rmw (atomicAt rel ea op x y f k) := rfl

/-! The checks of an access, in their order (R333). -/

section
variable {s : State} {ea n align : Nat} {a : Acc}

theorem aligned_sup (h : Aligned s ea align) : (ea / 2 ^ 60 == 4 && !s.isSup) = false := by
  obtain ⟨hsup, -⟩ := h
  cases hp : ea / 2 ^ 60 == 4
  · rfl
  · rw [hsup (beq_iff_eq.1 hp)]; rfl

/-- An access of an address of control space at application level, or of a misaligned one, goes no further. -/
theorem access_priv (h4 : ea / 2 ^ 60 = 4) (hs : s.isSup = false) (k : Place → State → State) : s.access ea n align a k = s.priv := by
  rw [State.access, if_pos (by rw [h4, hs]; rfl)]

theorem access_misaligned (hs : ea / 2 ^ 60 = 4 → s.isSup = true) (h : ea % align ≠ 0) (k : Place → State → State) :
    s.access ea n align a k = s.trap 3 0 (w64 ea) := by
  have hp : (ea / 2 ^ 60 == 4 && !s.isSup) = false := by
    cases hp : ea / 2 ^ 60 == 4
    · rfl
    · rw [hs (beq_iff_eq.1 hp)]; rfl
  rw [State.access, hp, if_neg Bool.false_ne_true, if_pos (by simpa using h)]

/-- What an aligned access comes to is what its address stands for. -/
theorem access_aligned (h : Aligned s ea align) (k : Place → State → State) : s.access ea n align a k =
    match s.check s.req ea n a with
    | .ok p => k (.mem p) (s.touch s.req ea a p)
    | .void => k .void s
    | .reg c d l => k (.reg c d l) s
    | .remote m va => k (.remote m va) s
    | .hold d i => s.waits (.arming d i)
    | .refuse _ => s.trap 4 0 (w64 ea)
    | .fault level code => s.pageFault ea a level code := by
  rw [State.access, aligned_sup h, if_neg Bool.false_ne_true, if_neg (by simp [h.2])] <;> rfl

theorem access_mem {p : Phys} (h : InMem s ea n align a p) (k : Place → State → State) :
    s.access ea n align a k = k (.mem p) (s.touch s.req ea a p) := by
  rw [access_aligned h.1, h.2]

theorem guardedAt_on {gn : Bool} {gs : BitVec 3} (hg : GuardOn s gn gs) (h : ea / 2 ^ 60 = 4 → s.isSup = true) (k : State → State) :
    s.guardedAt gn gs ea k = k s := by
  have hp : (ea / 2 ^ 60 == 4 && !s.isSup) = false := by
    cases hp : ea / 2 ^ 60 == 4
    · rfl
    · rw [h (beq_iff_eq.1 hp)]; rfl
  rw [State.guardedAt, hp, if_neg Bool.false_ne_true, guarded_on hg]

theorem guardedAt_priv {gn : Bool} {gs : BitVec 3} (h4 : ea / 2 ^ 60 = 4) (h : s.isSup = false) (k : State → State) :
    s.guardedAt gn gs ea k = s.priv := by
  rw [State.guardedAt, if_pos (by rw [h4, h]; rfl)]

end

/-! Another module's memory: the request is sent, and the instruction waits (R40, R41). -/

theorem sameAgents_routeRemote (s : State) (r : RemoteReq) : SameAgents s (s.routeRemote r) := by
  rw [routeRemote_eq]
  split
  · exact ⟨rfl, rfl, fun _ _ _ => rfl⟩
  · split <;> exact ⟨rfl, rfl, fun _ _ _ => rfl⟩

theorem routeRemote_asked (s : State) (r : RemoteReq) : (s.routeRemote r).net.asked = s.net.asked := by
  rw [routeRemote_eq]
  split
  · rfl
  · split <;> rfl

theorem sameAgents_ask (s : State) (u : UnitRef) (tag m va n : Nat) (op : RemoteOp) (x y : Word) (data : List Byte) :
    SameAgents s (s.ask u tag m va n op x y data).1 :=
  SameAgents.trans (t := { s.fresh.1 with net := { s.net with asked := _ :: s.net.asked } }) ⟨rfl, rfl, fun _ _ _ => rfl⟩
    (sameAgents_routeRemote _ _)

/-- The request that an access sends is noted as the unit's, under the access's tag. -/
theorem ask_asked (s : State) (u : UnitRef) (tag m va n : Nat) (op : RemoteOp) (x y : Word) (data : List Byte) :
    (s.ask u tag m va n op x y data).1.net.asked =
      { u := u, tag := tag, m := m, va := va, op := op, id := (s.ask u tag m va n op x y data).2 } :: s.net.asked :=
  routeRemote_asked _ _

/-- A unit that has asked for nothing has no request under any tag. -/
theorem askedId_none {s : State} {u : UnitRef} (h : ∀ e ∈ s.net.asked, e.u ≠ u) (tag m va : Nat) (op : RemoteOp) :
    s.askedId u tag m va op = none := by
  rw [State.askedId, List.find?_eq_none.2]
  · rfl
  · intro e he
    simp [Asked.isFor, h e he]

/-- An access at another module that has not been asked for: it is asked for, and waited for. -/
theorem viaPod_asks {s : State} (h : ∀ e ∈ s.net.asked, e.u ≠ s.myUnit) (loc ea m va n : Nat) (op : RemoteOp) (x y : Word) (data : List Byte)
    (k : RemoteReq → State → State) : ∃ id, (s.viaPod loc ea m va n op x y data k).hart.wait = .remote id
      ∧ (s.viaPod loc ea m va n op x y data k).pc = s.pc
      ∧ ∃ e ∈ (s.viaPod loc ea m va n op x y data k).net.asked, e.u = s.myUnit ∧ e.tag = s.myTag 0 ∧ e.m = m ∧ e.va = va ∧ e.id = id := by
  have hr : s.viaPod loc ea m va n op x y data k =
      (s.ask s.myUnit (s.myTag 0) m va n op x y data).1.waits (.remote (s.ask s.myUnit (s.myTag 0) m va n op x y data).2) := by
    rw [State.viaPod, State.remote, askedId_none h]
  rw [hr]
  refine ⟨_, wait_waits _ _, (pc_waits _ _).trans (sameAgents_ask ..).pc,
    { u := s.myUnit, tag := s.myTag 0, m := m, va := va, op := op, id := _ }, ?_, rfl, rfl, rfl, rfl, rfl⟩
  rw [waits_net, ask_asked]
  exact List.mem_cons_self

/-- Whether a place is another module's. -/
def isFar : Chk → Bool
  | .remote .. => true
  | _ => false

theorem reach_far (s : State) (d t : Nat) {c : Chk} (h : isFar c = false) : isFar (s.reach d t c) = false := by
  unfold State.reach
  split
  · rfl
  · exact h

theorem ite_far {p : Prop} [Decidable p] {c e : Chk} (hc : isFar c = false) (he : isFar e = false) : isFar (if p then c else e) = false := by
  split <;> assumption

theorem path4_far (s : State) (q : Req) (ea n : Nat) (a : Acc) : isFar (s.path4 q ea n a) = false :=
  ite_far rfl (ite_far rfl (ite_far (ite_far rfl (ite_far rfl (ite_far rfl (reach_far _ _ _ rfl))))
    (ite_far rfl (ite_far (ite_far rfl (ite_far rfl rfl)) (ite_far rfl (ite_far rfl rfl))))))

/-- Control space is no path to another module. -/
theorem check_path4 {s : State} {q : Req} {ea n : Nat} {a : Acc} {m va : Nat} (h : s.check q ea n a = .remote m va) : ea / 2 ^ 60 ≠ 4 := by
  intro h4
  have h4' : s.path4 q ea n a = .remote m va := by rw [State.check, h4] at h; exact h
  have hf := path4_far s q ea n a
  rw [h4'] at hf
  cases hf

end Sys2Proof.Laws

/-! O13: the checks of a scalar access and poison (15 R333, R334; 12 R288). -/

namespace Sys2Proof.Laws

open Sys2Proof Sys2Proof.Machine Sys2Proof.Safety

/-- What every scalar access of n bytes does with its place: at another module it asks, a narrow one on path 0x4 traps, and one that reads
meets poison. -/
structure Accesses (ea n : Nat) (a : Acc) (k : Place → State → State) : Prop where
  asks : (ea / 2 ^ 60 = 4 → n = 8) → ∀ m va, ∃ c op x y data f, ∀ s, k (.remote m va) s = State.viaPod s 0 ea m va c op x y data f
  narrow : ea / 2 ^ 60 = 4 → n ≠ 8 → ∀ p s, k (.mem p) s = State.trap s 4 0 (w64 ea)
  poisoned : a ≠ .write → (ea / 2 ^ 60 = 4 → n = 8) → ∀ p s, State.poisonFor s s.req p = true → k (.mem p) s = State.trap s 6 0 (w64 ea)

theorem narrow4_eq_false {ea n : Nat} (h : ea / 2 ^ 60 = 4 → n = 8) : narrow4 ea n = false := by
  unfold narrow4
  cases hp : ea / 2 ^ 60 == 4
  · rfl
  · rw [h (beq_iff_eq.1 hp)]; rfl

theorem narrow4_eq_true {ea n : Nat} (h4 : ea / 2 ^ 60 = 4) (h : n ≠ 8) : narrow4 ea n = true := by
  rw [narrow4, h4]
  simpa using h

theorem accesses_load (ea n : Nat) (k : Nat → State → State) : Accesses ea n .read (loadAt ea n k) where
  asks h _ _ := ⟨_, _, _, _, _, _, fun _ => by rw [loadAt, narrow4_eq_false h, if_neg Bool.false_ne_true]⟩
  narrow h4 h _ _ := by rw [loadAt, narrow4_eq_true h4 h, if_pos rfl]
  poisoned _ h _ _ hp := by
    rw [loadAt, narrow4_eq_false h, if_neg Bool.false_ne_true]
    exact if_pos hp

theorem accesses_store (rel : Bool) (ea : Nat) {bs : List Byte} {n : Nat} (hn : bs.length = n) : Accesses ea n .write (storeAt rel ea bs) where
  asks h _ _ := ⟨_, _, _, _, _, _, fun _ => by rw [storeAt, hn, narrow4_eq_false h, if_neg Bool.false_ne_true]⟩
  narrow h4 h _ _ := by rw [storeAt, hn, narrow4_eq_true h4 h, if_pos rfl]
  poisoned h := absurd rfl h

theorem accesses_atomic (rel : Bool) (ea : Nat) (op : RemoteOp) (x y : Word) (f : Word → Option Word) (k : Word → State → State) :
    Accesses ea 8 .rmw (atomicAt rel ea op x y f k) where
  asks _ _ _ := ⟨_, _, _, _, _, _, fun _ => rfl⟩
  narrow _ h := absurd rfl h
  poisoned _ _ _ _ hp := if_pos hp

/-- The scalar accesses, with their sizes and kinds. -/
def sizedForms (o : SFmt) : List (Instr × Nat × Acc) :=
  [(Instr.ldb o, 1, Acc.read), (.ldbu o, 1, .read), (.ldh o, 2, .read), (.ldhu o, 2, .read), (.ldw o, 4, .read),
    (.ldwu o, 4, .read), (.ldd o, 8, .read), (.ldaq o, 8, .read), (.ldq o, 16, .read), (.stb o, 1, .write), (.sth o, 2, .write),
    (.stw o, 4, .write), (.std o, 8, .write), (.strel o, 8, .write), (.stq o, 16, .write), (.aadd o, 8, .rmw), (.aand o, 8, .rmw),
    (.aor o, 8, .rmw), (.axor o, 8, .rmw), (.amin o, 8, .rmw), (.amax o, 8, .rmw), (.aminu o, 8, .rmw), (.amaxu o, 8, .rmw),
    (.aswap o, 8, .rmw), (.acas o, 8, .rmw)]

/-- An instruction is guarded at its address, and its work there is an access. -/
def IsAccess (s : State) (o : SFmt) (e : Instr × Nat × Acc) : Prop :=
  ∃ k, exec e.1 s = .next (s.guardedAt o.gn o.gs (s.ea o).toNat fun _ => s.access (s.ea o).toNat e.2.1 e.2.1 e.2.2 k)
    ∧ Accesses (s.ea o).toNat e.2.1 e.2.2 k

section
variable (s : State) (o : SFmt)

/-- What a guarded instruction does depends on its state alone. -/
theorem guardedAt_const (gn : Bool) (gs : BitVec 3) (ea : Nat) (k : State → State) :
    s.guardedAt gn gs ea k = s.guardedAt gn gs ea fun _ => k s := by
  unfold State.guardedAt State.guarded
  rfl

theorem isAccess_load {i : Instr} {n : Nat} {k : State → Nat → State → State}
    (h : exec i s = .next (s.guardedAt o.gn o.gs (s.ea o).toNat fun s => s.load (s.ea o).toNat n (k s))) : IsAccess s o (i, n, .read) :=
  ⟨_, by rw [h, guardedAt_const, load_access], accesses_load ..⟩

theorem isAccess_store {i : Instr} {n : Nat} {rel : Bool} {bs : State → List Byte} (hn : (bs s).length = n)
    (h : exec i s = .next (s.guardedAt o.gn o.gs (s.ea o).toNat fun s => s.store rel (s.ea o).toNat (bs s))) : IsAccess s o (i, n, .write) :=
  ⟨_, by rw [h, guardedAt_const, store_access s rel _ hn], accesses_store rel _ hn⟩

theorem isAccess_atomic {i : Instr} {rel : Bool} {op : RemoteOp} {x y : State → Word} {f : State → Word → Option Word}
    {k : State → Word → State → State} (h : exec i s =
      .next (s.guardedAt o.gn o.gs (s.ea o).toNat fun s => s.atomic rel (s.ea o).toNat op (x s) (y s) (f s) (k s))) :
    IsAccess s o (i, 8, .rmw) :=
  ⟨_, by rw [h, guardedAt_const, atomic_access], accesses_atomic ..⟩

theorem isAccess_atomicReg {i : Instr} {op : RemoteOp} (h : exec i s = .next (s.atomicReg o op)) : IsAccess s o (i, 8, .rmw) := by
  rw [State.atomicReg] at h
  exact isAccess_atomic s o h

theorem sizedForms_isAccess : ∀ e ∈ sizedForms o, IsAccess s o e := by
  have hq : (leOf 8 (s.getG o.d).toNat ++ leOf 8 (s.getG (o.d + 1)).toNat).length = 16 := by rw [List.length_append, leOf_length, leOf_length]
  simp only [sizedForms, List.forall_mem_cons, List.not_mem_nil, IsEmpty.forall_iff, implies_true, and_true]
  refine ⟨?_, ?_, ?_, ?_, ?_, ?_, ?_, ?_, ?_, ?_, ?_, ?_, ?_, ?_, ?_, ?_, ?_, ?_, ?_, ?_, ?_, ?_, ?_, ?_, ?_⟩
  iterate 9 exact isAccess_load s o rfl
  iterate 4 exact isAccess_store s o (leOf_length _ _) rfl
  · exact isAccess_store s o (leOf_length _ _) rfl
  · exact isAccess_store s o hq rfl
  iterate 9 exact isAccess_atomicReg s o rfl
  exact isAccess_atomic s o rfl

end

section
variable {s : State} {o : SFmt} {i : Instr} {n : Nat} {a : Acc}

theorem accessChecks (h : IsAccess s o (i, n, a)) (hg : GuardOn s o.gn o.gs) :
    let ea := (s.ea o).toNat
    (ea / 2 ^ 60 = 4 → s.isSup = false → exec i s = .next (s.trap 2 0 s.ir))
      ∧ ((ea / 2 ^ 60 = 4 → s.isSup = true) → ea % n ≠ 0 → exec i s = .next (s.trap 3 0 (s.ea o)))
      ∧ (Aligned s ea n → ∀ e, s.check s.req ea n a = .refuse e → exec i s = .next (s.trap 4 0 (s.ea o)))
      ∧ (Aligned s ea n → ∀ lv c, s.check s.req ea n a = .fault lv c → s.onCore = true → exec i s = .next (s.trap 5 0 (s.ea o)))
      ∧ (Aligned s ea n → ∀ lv c, s.check s.req ea n a = .fault lv c → s.onCore = false →
          exec i s = .next ((s.withhold s.myUnit ea a lv c none).waits .withhold))
      ∧ (Aligned s ea n → ∀ d j, s.check s.req ea n a = .hold d j → exec i s = .next (s.waits (.arming d j)))
      ∧ (Aligned s ea n → ∀ m va, s.check s.req ea n a = .remote m va →
          (∀ e ∈ s.net.asked, e.u ≠ s.myUnit) →
          ∃ t id, exec i s = .next t ∧ t.hart.wait = .remote id ∧ t.pc = s.pc
            ∧ ∃ e ∈ t.net.asked, e.u = s.myUnit ∧ e.tag = s.myTag 0 ∧ e.m = m ∧ e.va = va ∧ e.id = id)
      ∧ (Aligned s ea n → ∀ p, s.check s.req ea n a = .ok p → ea / 2 ^ 60 = 4 → n ≠ 8 → exec i s = .next (s.trap 4 0 (s.ea o))) := by
  intro ea
  obtain ⟨k, he, hk⟩ := h
  have hea : w64 ea = s.ea o := word_ofNat_toNat _
  have on : (ea / 2 ^ 60 = 4 → s.isSup = true) → exec i s = .next (s.access ea n n a k) := fun hs =>
    he.trans (congrArg _ (guardedAt_on hg hs _))
  have checked : ∀ (hal : Aligned s ea n) {c}, s.check s.req ea n a = c → exec i s = .next _ := fun hal c hc => by
    rw [on hal.1, access_aligned hal, hc]
  refine ⟨fun h4 hs => ?_, fun hs hn => ?_, fun hal e hc => ?_, fun hal lv c hc hcore => ?_, fun hal lv c hc hcore => ?_,
    fun hal d j hc => checked hal hc, fun hal m va hc hu => ?_, fun hal p hc h4 hn => ?_⟩
  · exact he.trans (congrArg _ (guardedAt_priv h4 hs _))
  · rw [on hs, access_misaligned hs hn, hea]
  · rw [checked hal hc]
    exact congrArg _ (by rw [hea])
  · rw [checked hal hc]
    simp only [State.pageFault, hcore, if_true, hea]
  · rw [checked hal hc]
    simp only [State.pageFault, hcore, Bool.false_eq_true, if_false]
  · have h8 : ea / 2 ^ 60 = 4 → n = 8 := fun h4 => absurd h4 (check_path4 hc)
    obtain ⟨c, op, x, y, data, f, hfar⟩ := hk.asks h8 m va
    obtain ⟨id, hw, hpc, hasked⟩ := viaPod_asks hu 0 ea m va c op x y data f
    exact ⟨_, id, (checked hal hc).trans (congrArg _ (hfar s)), hw, hpc, hasked⟩
  · have ht : s.touch s.req ea a p = s := by rw [State.touch, h4]; rfl
    rw [checked hal hc]
    simp only [hk.narrow h4 hn, ht]
    rw [hea]

theorem accessPoison (h : IsAccess s o (i, n, a)) (hg : GuardOn s o.gn o.gs) (ha : a ≠ .write) {p : Phys}
    (hp : InMem s (s.ea o).toNat n n a p) (h8 : (s.ea o).toNat / 2 ^ 60 = 4 → n = 8) :
    let u := s.touch s.req (s.ea o).toNat a p
    u.poisonFor u.req p = true → exec i s = .next (u.trap 6 0 (s.ea o)) := by
  intro u hpois
  obtain ⟨k, he, hk⟩ := h
  rw [he, guardedAt_on hg hp.1.1, access_mem hp, hk.poisoned ha h8 p u hpois]
  exact congrArg _ (congrArg _ (word_ofNat_toNat _))

end

/-- Settles O13: every scalar access goes through State.access, whose branches are the checks. -/
theorem accessChecksAndPoison : Obligations.AccessChecksAndPoison := by
  refine ⟨fun s o i n a hg hm => accessChecks (sizedForms_isAccess s o _ hm) hg, ?_⟩
  intro s o p hg ea
  refine ⟨fun i n hm hp h8 => ?_, ?_⟩
  · have hin : (i, n, Acc.read) ∈ sizedForms o := by
      simp only [List.mem_cons, Prod.mk.injEq, List.not_mem_nil, or_false] at hm
      simp only [sizedForms, List.mem_cons, Prod.mk.injEq, and_true]
      rcases hm with h | h | h | h | h | h | h | h | h <;> simp [h]
    exact accessPoison (sizedForms_isAccess s o _ hin) hg (by decide) hp h8
  · intro hp u hpois
    have op : ∀ e ∈ (sizedForms o).drop 15, e.2.1 = 8 → e.2.2 = .rmw → exec e.1 s = .next (u.trap 6 0 (s.ea o)) := by
      rintro ⟨i, n, a⟩ he rfl rfl
      exact accessPoison (sizedForms_isAccess s o _ (List.mem_of_mem_drop he)) hg (by decide) hp (fun _ => rfl) hpois
    simp only [List.forall_mem_cons, List.not_mem_nil, IsEmpty.forall_iff, implies_true, and_true]
    simpa [sizedForms] using op

end Sys2Proof.Laws

/-! O10: loads (15 R335, R336, R343; 07 R140). -/

namespace Sys2Proof.Laws

open Sys2Proof Sys2Proof.Machine Sys2Proof.Safety

theorem leVal_lt (bs : List Byte) : leVal bs < 256 ^ bs.length := by
  induction bs with
  | nil => simp [leVal]
  | cons b r ih =>
    have hb := b.isLt
    rw [leVal, List.length_cons, Nat.pow_succ]
    omega

theorem leVal_lt_of_length {bs : List Byte} {n : Nat} (h : bs.length = n) : leVal bs < 256 ^ n := h ▸ leVal_lt bs

theorem rd_lt (s : State) (p : Phys) (n : Nat) : s.rd p n < 256 ^ n := by
  unfold State.rd
  split
  · exact leVal_lt_of_length (by simp [State.lostBytes])
  · exact leVal_lt_of_length (bytes_length ..)

theorem rdFor_lt (s : State) (q : Req) (p : Phys) (n : Nat) : s.rdFor q p n < 256 ^ n := by
  unfold State.rdFor
  split
  · refine leVal_lt_of_length ?_
    unfold State.raw
    split <;> simp [leOf_length]
  · exact rd_lt s p n

theorem missed_lt (s : State) (ea : Nat) (p : Phys) (n : Nat) : s.missed ea p n < 256 ^ n :=
  leVal_lt_of_length (by simp [leOf_length])

/-- Where no bit is stuck and no stop has lost it, a read gives what memory holds (R22, R458). -/
theorem rdFor_sound {s : State} (hs : s.stuck = []) (hp : s.sys.power.stopped = false) (q : Req) (p : Phys) (n : Nat) :
    s.rdFor q p n = leVal (s.mem.bytes (s.home p) n) := by
  simp [State.rdFor, State.rd, State.lost, hs, hp]

/-- What a state keeps of another that differs in what a context has still to see of its stores, and in free values. -/
def SameRun (s t : State) : Prop := t.mem = s.mem ∧ t.pc = s.pc ∧ ∀ k, t.getG k = s.getG k

theorem sameRun_refl (s : State) : SameRun s s := ⟨rfl, rfl, fun _ => rfl⟩

theorem sameRun_freeVal (s : State) : SameRun s s.freeVal.1 := ⟨rfl, rfl, fun _ => rfl⟩

theorem sameRun_modMe {s : State} (h : s.onCore = false) {f : Context → Context} (hf : (f s.me).hart = s.me.hart) : SameRun s (s.modMe f) :=
  ⟨rfl, by rw [State.pc, hart_me (by exact h), me_modMe, hf, State.pc, hart_me h], fun k => getG_modMe h f (by rw [hf]) k⟩

theorem SameRun.trans {s t u : State} (h : SameRun s t) (k : SameRun t u) : SameRun s u :=
  ⟨k.1.trans h.1, k.2.1.trans h.2.1, fun n => (k.2.2 n).trans (h.2.2 n)⟩

theorem sameRun_dropLate (s : State) (p : Phys) (n : Nat) : SameRun s (s.dropLate p n) := by
  unfold State.dropLate
  split
  · exact sameRun_refl s
  · next h => exact sameRun_modMe (by simp only [Bool.or_eq_true, not_or, Bool.not_eq_true] at h; exact h.1) rfl

/-- A load from memory: the value with the own stores that it may miss, or without them. -/
theorem loadAt_mem {ea n : Nat} (h8 : ea / 2 ^ 60 = 4 → n = 8) {u : State} {p : Phys} (hp : u.poisonFor u.req p = false)
    (k : Nat → State → State) : ∃ v z, loadAt ea n k (.mem p) u = k v z ∧ v < 256 ^ n
      ∧ (v = u.rdFor u.req p n ∨ (u.mayMiss ea p n = true ∧ v = u.missed ea p n)) ∧ (u.mayMiss ea p n = false → z = u) ∧ SameRun u z := by
  rw [loadAt, narrow4_eq_false h8, if_neg Bool.false_ne_true]
  simp only [hp, Bool.false_eq_true, if_false]
  cases hm : u.mayMiss ea p n with
  | false => exact ⟨_, u, rfl, rdFor_lt .., .inl rfl, fun _ => rfl, sameRun_refl u⟩
  | true =>
    simp only [if_true]
    split
    · exact ⟨_, _, rfl, missed_lt .., .inr ⟨trivial, rfl⟩, fun h => absurd h (by decide), sameRun_freeVal u⟩
    · exact ⟨_, _, rfl, rdFor_lt .., .inl rfl, fun h => absurd h (by decide), (sameRun_freeVal u).trans (sameRun_dropLate _ p n)⟩

/-- A value of n bytes, sign extended (R335). -/
theorem signed_eq {n v : Nat} (h0 : 0 < n) (h8 : n ≤ 8) (hv : v < 256 ^ n) : signed n v = (BitVec.ofNat (8 * n) v).signExtend 64 := by
  have hw : (256 : Nat) ^ n = 2 ^ (8 * n) := by rw [pow_mul]; rfl
  have h64 : 2 ^ (8 * n) ≤ 2 ^ 64 := Nat.pow_le_pow_right (by decide) (by omega)
  have hhalf : 2 ^ (8 * n) = 2 * 2 ^ (8 * n - 1) := by rw [← Nat.pow_succ', Nat.succ_eq_add_one, Nat.sub_add_cancel (by omega)]
  rw [hw] at hv
  have hnat : (BitVec.ofNat (8 * n) v).toNat = v := by rw [BitVec.toNat_ofNat, Nat.mod_eq_of_lt hv]
  have hmsb : (BitVec.ofNat (8 * n) v).msb = decide (2 ^ (8 * n - 1) ≤ v) := by rw [BitVec.msb_eq_decide, hnat]
  refine BitVec.eq_of_toNat_eq ?_
  rw [BitVec.toNat_signExtend, BitVec.toNat_setWidth, hnat, hmsb, signed]
  split
  · next h =>
    simp only [w64, BitVec.toNat_ofNat, not_le.2 h, decide_false, Bool.false_eq_true, if_false, Nat.add_zero]
  · next h =>
    simp only [w64, BitVec.toNat_ofNat, not_lt.1 h, decide_true, if_true]
    omega

section
variable {s : State} {o : SFmt} {p : Phys} {i : Instr} {n : Nat}

/-- A load instruction on memory, of which put writes the value where the load's own work does. -/
theorem load_result (hg : GuardOn s o.gn o.gs) (hp : InMem s (s.ea o).toNat n n .read p) (h8 : (s.ea o).toNat / 2 ^ 60 = 4 → n = 8)
    (hpois : (s.touch s.req (s.ea o).toNat .read p).poisonFor (s.touch s.req (s.ea o).toNat .read p).req p = false)
    {k : State → Nat → State → State}
    (hi : exec i s = .next (s.guardedAt o.gn o.gs (s.ea o).toNat fun s => s.load (s.ea o).toNat n (k s))) (put : State → Nat → State)
    (hk : ∀ v z, v < 256 ^ n → k s v z = (put z v).advance) :
    let ea := (s.ea o).toNat
    let u := s.touch s.req ea .read p
    ∃ v z, exec i s = .next (put z v).advance ∧ (v = u.rdFor u.req p n ∨ (u.mayMiss ea p n = true ∧ v = u.missed ea p n))
      ∧ (u.mayMiss ea p n = false → z = u) ∧ z.mem = u.mem ∧ z.pc = u.pc ∧ ∀ k, z.getG k = u.getG k := by
  intro ea u
  obtain ⟨v, z, e, hv, hval, hz, hmem, hpc, hgr⟩ := loadAt_mem h8 hpois (k s)
  refine ⟨v, z, ?_, hval, hz, hmem, hpc, hgr⟩
  rw [hi, guardedAt_on hg hp.1.1, load_access, access_mem hp, e, hk v z hv]

end

/-- Settles O10. -/
theorem loadResults : Obligations.LoadResults := by
  intro s o p hg ea u r d
  refine ⟨fun hs hp n => rdFor_sound hs hp _ _ _, fun hpois => ⟨fun h4 => ?_, fun hp => ⟨?_, ?_⟩⟩⟩
  · have h8 : ∀ {n}, ea / 2 ^ 60 = 4 → n = 8 := fun h => absurd h h4
    have zext : ∀ {i n}, InMem s ea n n .read p → exec i s = .next (s.loadReg o n w64) → r i n (d (BitVec.ofNat 64)) := fun hp hi =>
      load_result hg hp h8 hpois hi _ fun _ _ _ => rfl
    have sext : ∀ {i n} (f : Nat → Word), InMem s ea n n .read p → exec i s = .next (s.loadReg o n (signed n)) →
        (∀ v, v < 256 ^ n → signed n v = f v) → r i n (d f) := fun f hp hi hf =>
      load_result hg hp h8 hpois hi _ fun v z hv => by rw [hf v hv]
    exact ⟨fun hp => ⟨sext _ hp rfl fun v => signed_eq (by decide) (by decide), zext hp rfl⟩,
      fun hp => ⟨sext _ hp rfl fun v => signed_eq (by decide) (by decide), zext hp rfl⟩,
      fun hp => ⟨sext _ hp rfl fun v => signed_eq (by decide) (by decide), zext hp rfl⟩,
      fun hp => load_result hg hp h8 hpois rfl _ fun _ _ _ => rfl⟩
  · exact load_result hg hp (fun _ => rfl) hpois rfl _ fun _ _ _ => rfl
  · exact load_result hg hp (fun _ => rfl) hpois rfl _ fun _ _ _ => rfl

end Sys2Proof.Laws

/-! O12: atomics (15 R340, R341; 07 R140, R146). -/

namespace Sys2Proof.Laws

open Sys2Proof Sys2Proof.Machine Sys2Proof.Safety

/-- Whether an atomic may be performed before the context's earlier stores. -/
def Passes (u : State) (o : SFmt) (ea : Nat) (p : Phys) : Prop := releases o = false ∧ u.atomicPasses ea p = true

section
variable {s : State} {o : SFmt} {p : Phys} {i : Instr}

/-- An atomic on memory that meets no poison: after the context's earlier stores, or where it may pass them, before them too. -/
theorem atomic_result (hg : GuardOn s o.gn o.gs) (hp : InMem s (s.ea o).toNat 8 8 .rmw p)
    (hpois : (s.touch s.req (s.ea o).toNat .rmw p).poisonFor (s.touch s.req (s.ea o).toNat .rmw p).req p = false)
    {op : RemoteOp} {x y : State → Word} {f : State → Word → Option Word} {k : State → Word → State → State}
    (hi : exec i s = .next (s.guardedAt o.gn o.gs (s.ea o).toNat fun s =>
      s.atomic (releases o) (s.ea o).toNat op (x s) (y s) (f s) (k s))) :
    let ea := (s.ea o).toNat
    let u := s.touch s.req ea .rmw p
    (¬Passes u o ea p → exec i s = .next (atomicAfter ea p (f s) (k s) u))
      ∧ (Passes u o ea p → exec i s = .next (atomicAfter ea p (f s) (k s) u.freeVal.1)
          ∨ exec i s = .next (atomicBefore ea p (f s) (k s) u.freeVal.1)) := by
  intro ea u
  have e : exec i s = .next (if !releases o && u.atomicPasses ea p then
      if u.freeVal.2.getLsbD 0 then atomicBefore ea p (f s) (k s) u.freeVal.1 else atomicAfter ea p (f s) (k s) u.freeVal.1
      else atomicAfter ea p (f s) (k s) u) := by
    rw [hi, guardedAt_on hg hp.1.1, atomic_access, access_mem hp]
    exact congrArg _ (if_neg (by rw [hpois]; decide))
  refine ⟨fun hn => ?_, fun hy => ?_⟩
  · rw [e, if_neg]
    intro hc
    simp only [Bool.and_eq_true, Bool.not_eq_true'] at hc
    exact hn hc
  · rw [e, if_pos (by rw [hy.1, hy.2]; rfl)]
    split
    · exact .inr rfl
    · exact .inl rfl

end

/-- How an atomic ends, in the state after its write: what it orders as an acquire, the old value in g[d], and on. -/
def atomicEnd (o : SFmt) (t : State) (old : Word) : Res := .next (((t.orderAtomic o).setG o.d old).advance)

/-- The old value that an atomic at p finds, after or before the context's earlier stores. -/
def oldAfter (t : State) (p : Phys) : Word := BitVec.ofNat 64 (t.rdFor t.req p 8)
def oldBefore (t : State) (ea : Nat) (p : Phys) : Word := BitVec.ofNat 64 (t.missed ea p 8)

/-- An atomic that writes x after, or before, the context's earlier stores. -/
def writesAfter (o : SFmt) (ea : Nat) (p : Phys) (t : State) (x : Word) : Res :=
  atomicEnd o ((t.noteStore ea p 8).wrFor t.req p (leOf 8 x.toNat)) (oldAfter t p)
def writesBefore (o : SFmt) (ea : Nat) (p : Phys) (t : State) (x : Word) : Res :=
  atomicEnd o (t.putBefore ea p (leOf 8 x.toNat)) (oldBefore t ea p)

section
variable {s : State} {o : SFmt} {p : Phys} {i : Instr} (hg : GuardOn s o.gn o.gs) (hp : InMem s (s.ea o).toNat 8 8 .rmw p)
  (hpois : (s.touch s.req (s.ea o).toNat .rmw p).poisonFor (s.touch s.req (s.ea o).toNat .rmw p).req p = false)
include hg hp hpois

theorem atomicReg_result (op : RemoteOp) (f : Word → Word) (hi : exec i s = .next (s.atomicReg o op))
    (hf : ∀ x, atomicOp op x (s.getG o.d) = f x) :
    let ea := (s.ea o).toNat
    let u := s.touch s.req ea .rmw p
    let w := u.freeVal.1
    (¬Passes u o ea p → exec i s = writesAfter o ea p u (f (oldAfter u p)))
      ∧ (Passes u o ea p → exec i s = writesAfter o ea p w (f (oldAfter w p)) ∨ exec i s = writesBefore o ea p w (f (oldBefore w ea p))) := by
  intro ea u w
  rw [State.atomicReg] at hi
  obtain ⟨hn, hy⟩ := atomic_result hg hp hpois hi
  have hs : (fun x => some (atomicOp op x (s.getG o.d))) = fun x => some (f x) := funext fun x => congrArg some (hf x)
  rw [hs] at hn hy
  exact ⟨hn, hy⟩

theorem acas_result : let ea := (s.ea o).toNat
    let u := s.touch s.req ea .rmw p
    let w := u.freeVal.1
    let v := s.getG o.d
    let new := s.getG (o.d + 1)
    (¬Passes u o ea p → exec (.acas o) s =
        if oldAfter u p = v then writesAfter o ea p u new else atomicEnd o (u.dropLate p 8) (oldAfter u p))
      ∧ (Passes u o ea p →
        (exec (.acas o) s = if oldAfter w p = v then writesAfter o ea p w new else atomicEnd o (w.dropLate p 8) (oldAfter w p))
          ∨ exec (.acas o) s = if oldBefore w ea p = v then writesBefore o ea p w new else atomicEnd o w (oldBefore w ea p)) := by
  intro ea u w v new
  obtain ⟨hn, hy⟩ := atomic_result (i := .acas o) hg hp hpois rfl
  have after : ∀ t : State, Host.Outcome.next (atomicAfter ea p (fun old => if old = v then some new else none)
      (fun old s => ((s.orderAtomic o).setG o.d old).advance) t) =
      if oldAfter t p = v then writesAfter o ea p t new else atomicEnd o (t.dropLate p 8) (oldAfter t p) := by
    intro t
    by_cases h : oldAfter t p = v
    · rw [if_pos h, atomicAfter, if_pos (by exact h)]; rfl
    · rw [if_neg h, atomicAfter, if_neg (by exact h)]; rfl
  have before : ∀ t : State, Host.Outcome.next (atomicBefore ea p (fun old => if old = v then some new else none)
      (fun old s => ((s.orderAtomic o).setG o.d old).advance) t) =
      if oldBefore t ea p = v then writesBefore o ea p t new else atomicEnd o t (oldBefore t ea p) := by
    intro t
    by_cases h : oldBefore t ea p = v
    · rw [if_pos h, atomicBefore, if_pos (by exact h)]; rfl
    · rw [if_neg h, atomicBefore, if_neg (by exact h)]; rfl
  exact ⟨fun h => (hn h).trans (after u), fun h => (hy h).imp (fun e => e.trans (after w)) fun e => e.trans (before w)⟩

end

/-- Settles O12. -/
theorem atomicResults : Obligations.AtomicResults := fun s o _ hg hp hpois =>
  have op := fun i op f => atomicReg_result (i := i) hg hp hpois op f
  ⟨op (.aadd o) .add (· + s.getG o.d) rfl fun _ => rfl, op (.aand o) .and (· &&& s.getG o.d) rfl fun _ => rfl,
    op (.aor o) .or (· ||| s.getG o.d) rfl fun _ => rfl, op (.axor o) .xor (· ^^^ s.getG o.d) rfl fun _ => rfl,
    op (.amin o) .min (fun x => if x.toInt ≤ (s.getG o.d).toInt then x else s.getG o.d) rfl fun _ => rfl,
    op (.amax o) .max (fun x => if x.toInt ≤ (s.getG o.d).toInt then s.getG o.d else x) rfl fun _ => rfl,
    op (.aminu o) .minu (fun x => if x.toNat ≤ (s.getG o.d).toNat then x else s.getG o.d) rfl fun _ => rfl,
    op (.amaxu o) .maxu (fun x => if x.toNat ≤ (s.getG o.d).toNat then s.getG o.d else x) rfl fun _ => rfl,
    op (.aswap o) .swap (fun _ => s.getG o.d) rfl fun _ => rfl, acas_result hg hp hpois⟩

end Sys2Proof.Laws

/-! O14: registers of control space and the reserved bytes of depots (15 R335; 06 R111; 09 R225). -/

namespace Sys2Proof.Laws

open Sys2Proof Sys2Proof.Machine Sys2Proof.Safety

theorem access_void {s : State} {ea n align : Nat} {a : Acc} (h : Aligned s ea align) (hc : s.check s.req ea n a = .void)
    (k : Place → State → State) : s.access ea n align a k = k .void s := by rw [access_aligned h, hc]

theorem access_reg {s : State} {ea n align : Nat} {a : Acc} (h : Aligned s ea align) {c d l : Nat} (hc : s.check s.req ea n a = .reg c d l)
    (k : Place → State → State) : s.access ea n align a k = k (.reg c d l) s := by rw [access_aligned h, hc]

/-- An access of 8 bytes is not narrow. -/
theorem narrow4_eight (ea : Nat) : narrow4 ea 8 = false := narrow4_eq_false fun _ => rfl

/-- The 8 bytes of a word give it back. -/
theorem leVal_leOf_word (v : Word) : w64 (leVal (leOf 8 v.toNat)) = v := by
  rw [leVal_leOf, Nat.mod_eq_of_lt (show v.toNat < 256 ^ 8 from v.isLt)]
  exact word_ofNat_toNat v

section
variable {s : State} {o : SFmt} (hg : GuardOn s o.gn o.gs) (ha : Aligned s (s.ea o).toNat 8)
include hg ha

theorem exec_ldd : exec (.ldd o) s = .next (s.access (s.ea o).toNat 8 8 .read
    (loadAt (s.ea o).toNat 8 fun v s => (s.setG o.d (w64 v)).advance)) :=
  congrArg _ (guardedAt_on hg ha.1 _)

theorem exec_std : exec (.std o) s = .next (s.access (s.ea o).toNat 8 8 .write
    (storeAt false (s.ea o).toNat (leOf 8 (s.getG o.d).toNat))) := by
  rw [← store_access _ _ _ (leOf_length 8 _)]
  exact congrArg _ (guardedAt_on hg ha.1 _)

end

/-- Settles O14. -/
theorem controlSpaceResults : Obligations.ControlSpaceResults := by
  intro s o hg ha ea
  refine ⟨fun c d l hc => ?_, fun c d l hc => ?_, fun hc => ?_, fun hc => ?_⟩
  · rw [exec_ldd hg ha, access_reg ha hc]
    simp only [loadAt, narrow4_eight, Bool.false_eq_true, if_false, w64, word_ofNat_toNat]
    rfl
  · rw [exec_std hg ha, access_reg ha hc]
    simp only [storeAt, leOf_length, narrow4_eight, Bool.false_eq_true, if_false, leVal_leOf_word]
    rfl
  · rw [exec_ldd hg ha, access_void ha hc]
    simp only [loadAt, narrow4_eight, Bool.false_eq_true, if_false]
    rfl
  · rw [exec_std hg ha, access_void ha hc]
    simp only [storeAt, leOf_length, narrow4_eight, Bool.false_eq_true, if_false]

end Sys2Proof.Laws

/-! O15: PREF, fences, cache lines, streams and signals (15 R337-R339, R344-R347; 07 R148, R158). -/

namespace Sys2Proof.Laws

open Sys2Proof Sys2Proof.Machine Sys2Proof.Safety

section
variable {s : State} {o : SFmt} {p : Phys}

theorem exec_fence (hg : GuardOn s o.gn o.gs) : exec (.fence o) s = .next
    (if o.imm.toNat % 4 = 3 && !s.onCore && s.me.pushesPort then s.waits .streams else (s.fenced (o.imm.toNat % 4) (o.scope = 3)).advance) :=
  congrArg _ (guarded_on hg _)

/-- A prefetch changes the caches alone. -/
theorem sameAgents_prefetch (s : State) (ea : Nat) : SameAgents s (s.prefetch ea) := by
  unfold State.prefetch
  split
  · exact .refl s
  · split
    · split
      · exact ⟨rfl, rfl, fun _ _ _ => rfl⟩
      · exact .refl s
    · exact .refl s

theorem lineOp_mem {a : Acc} (h : InMem s (s.ea o).toNat 1 1 a p) (op : RemoteOp) (wb : Bool) :
    let u := s.touch s.req (s.ea o).toNat a p
    s.lineOp o a op wb = if p.mt = 0 ∨ p.mt = 2 then u.advance.drop p.key wb else u.advance := by
  intro u
  rw [State.lineOp, access_mem h]
  simp only [Bool.or_eq_true, beq_iff_eq]
  rfl

theorem cflush_result (hg : GuardOn s o.gn o.gs) (h : InMem s (s.ea o).toNat 1 1 .line p) :
    let u := s.touch s.req (s.ea o).toNat .line p
    exec (.cflush o) s = .next (if p.mt = 0 ∨ p.mt = 2 then u.advance.drop p.key true else u.advance) := by
  intro u
  rw [← lineOp_mem h .flush true]
  exact congrArg _ (guardedAt_on hg h.1.1 _)

theorem cinv_result (hg : SupOn s o.gn o.gs) (h : InMem s (s.ea o).toNat 1 1 .write p) :
    let u := s.touch s.req (s.ea o).toNat .write p
    exec (.cinv o) s = .next (if p.mt = 0 ∨ p.mt = 2 then u.advance.drop p.key false else u.advance) := by
  intro u
  rw [← lineOp_mem h .inval false]
  exact congrArg _ (guardedSup_on hg _)

/-- A count has reached its target where their difference modulo 2^32 is below half (R158). -/
theorem signal_sub (c x : Lane) : (c - x).toNat = (c.toNat + 2 ^ 32 - x.toNat) % 2 ^ 32 := by
  have hx := x.isLt
  rw [BitVec.toNat_sub]
  congr 1
  omega

theorem signal_target (v : Word) (imm : BitVec 32) : v.setWidth 32 + (imm >>> 8) = BitVec.ofNat 32 (v.toNat + imm.toNat / 256) := by
  refine BitVec.eq_of_toNat_eq ?_
  rw [BitVec.toNat_add, BitVec.toNat_setWidth, BitVec.toNat_ushiftRight, Nat.shiftRight_eq_div_pow, BitVec.toNat_ofNat, Nat.mod_add_mod]

theorem exec_sgwait (hc : CtxOn s o.gn o.gs) :
    let k := o.imm.toNat % 8
    let n : Lane := BitVec.ofNat 32 ((s.getG o.a).toNat + o.imm.toNat / 256)
    exec (.sgwait o) s = .next (if ((vget s.myTile.sigs k 0).toNat + 2 ^ 32 - n.toNat) % 2 ^ 32 < 2 ^ 31
      then (s.orderLate false).advance else s.waits (.signal k n)) := by
  intro k n
  rw [← signal_sub, show n = _ from (signal_target _ _).symm]
  exact congrArg _ (guardedCtx_on hc _)

/-- The tile that the executing agent is on, moved on: all but its contexts stays. -/
theorem myTile_advance (s : State) : s.advance.myTile = { s.myTile with ctxs := s.advance.myTile.ctxs } := by
  rw [myTile_of_cur (advance_cur s)]
  exact tile_modHart s _ s.die s.tix

theorem sgpost_result (hc : CtxOn s o.gn o.gs) :
    let k := o.imm.toNat % 8
    ∃ t, exec (.sgpost o) s = .next t ∧ t.pc = s.pc + 8 ∧ vget t.myTile.sigs k 0 = vget s.myTile.sigs k 0 + 1
      ∧ ∀ j, j ≠ k → vget t.myTile.sigs j 0 = vget s.myTile.sigs j 0 := by
  intro k
  refine ⟨_, congrArg Host.Outcome.next (guardedCtx_on hc _), ?_, ?_, fun j hj => ?_⟩
  · rw [pc_advance]
    exact congrArg (· + 8) (sameAgents_modTile s s.die s.tix rfl).pc
  · rw [myTile_advance, State.myTile]
    show vget ((State.modTile _ _ _ _).tile s.die s.tix).sigs k 0 = _
    rw [tile_modTile_self, vget_vput_self _ _ _ _ (Nat.mod_lt _ (by decide))]
    rfl
  · rw [myTile_advance, State.myTile]
    show vget ((State.modTile _ _ _ _).tile s.die s.tix).sigs j 0 = _
    rw [tile_modTile_self, vget_vput_ne _ _ _ (Ne.symm hj)]
    rfl

end

/-! SBAR: the named read streams forget what they have read (R154). -/

/-- SBAR at one stream. -/
def sbarStep (o : SFmt) (s : State) (e : Nat) : State :=
  if o.imm.getLsbD e && !bit (vget (s.myTile.ape e).cfg 1 0) 4 then s.rereads s.die s.tix e else s

/-- A stream that has forgotten what it read ahead. -/
def Emptied (s : State) (e : Nat) : Prop := (s.myTile.ape e).ahead = [] ∧ (s.myTile.ape e).page = none

/-- What SBAR keeps: the agents, memory and the streams' records. -/
def SbarKeeps (s t : State) : Prop := SameAgents s t ∧ t.mem = s.mem ∧ ∀ e, (t.myTile.ape e).cfg = (s.myTile.ape e).cfg

theorem SbarKeeps.trans {s t u : State} (h : SbarKeeps s t) (k : SbarKeeps t u) : SbarKeeps s u :=
  ⟨h.1.trans k.1, k.2.1.trans h.2.1, fun e => (k.2.2 e).trans (h.2.2 e)⟩

theorem ape_rereads (s : State) (e j : Nat) : ((s.rereads s.die s.tix e).myTile).ape j =
    if j = e then { s.myTile.ape e with ahead := [], page := none } else s.myTile.ape j := by
  show Tile.ape ((State.modTile (s.forgetWhere _) s.die s.tix _).tile s.die s.tix) j = _
  rw [tile_modTile_self]
  exact tbl_get_set ..

theorem sbarStep_keeps (o : SFmt) (s : State) (e : Nat) : SbarKeeps s (sbarStep o s e) := by
  unfold sbarStep
  split
  · refine ⟨SameAgents.trans (t := s.forgetWhere _) ⟨rfl, rfl, fun _ _ _ => rfl⟩ (sameAgents_modTile _ _ _ rfl), rfl, fun j => ?_⟩
    rw [ape_rereads]
    split
    · next h => rw [h]
    · rfl
  · exact ⟨.refl s, rfl, fun _ => rfl⟩

theorem sbarStep_emptied {o : SFmt} {s : State} {e j : Nat} (h : Emptied s j) : Emptied (sbarStep o s e) j := by
  unfold sbarStep Emptied
  split
  · rw [ape_rereads]
    split
    · exact ⟨rfl, rfl⟩
    · exact h
  · exact h

theorem sbarStep_empties {o : SFmt} {s : State} {e : Nat} (hi : o.imm.getLsbD e = true) (hd : bit (vget (s.myTile.ape e).cfg 1 0) 4 = false) :
    Emptied (sbarStep o s e) e := by
  unfold sbarStep Emptied
  rw [hi, hd, if_pos (by rfl), ape_rereads, if_pos rfl]
  exact ⟨rfl, rfl⟩

theorem foldl_sbar (o : SFmt) (l : List Nat) (s : State) : SbarKeeps s (l.foldl (sbarStep o) s)
    ∧ ∀ e, (Emptied s e ∨ (e ∈ l ∧ o.imm.getLsbD e = true ∧ bit (vget (s.myTile.ape e).cfg 1 0) 4 = false)) →
      Emptied (l.foldl (sbarStep o) s) e := by
  induction l generalizing s with
  | nil => exact ⟨⟨.refl s, rfl, fun _ => rfl⟩, fun e h => h.resolve_right (by simp)⟩
  | cons x r ih =>
    have hx := sbarStep_keeps o s x
    obtain ⟨hk, he⟩ := ih (sbarStep o s x)
    refine ⟨hx.trans hk, fun e h => he e ?_⟩
    rcases h with h | ⟨hm, hi, hd⟩
    · exact .inl (sbarStep_emptied h)
    · rcases List.mem_cons.1 hm with rfl | hm
      · exact .inl (sbarStep_empties hi hd)
      · exact .inr ⟨hm, hi, by rw [hx.2.2]; exact hd⟩

theorem sbar_result {s : State} {o : SFmt} (hc : CtxOn s o.gn o.gs) : ∃ t, exec (.sbar o) s = .next t ∧ Steps s t
    ∧ ∀ e, e < 16 → o.imm.getLsbD e = true → bit (vget (s.myTile.ape e).cfg 1 0) 4 = false →
      (t.myTile.ape e).ahead = [] ∧ (t.myTile.ape e).page = none := by
  have hx : exec (.sbar o) s = .next ((List.range 16).foldl (sbarStep o) s).advance := congrArg _ (guardedCtx_on hc _)
  obtain ⟨⟨hsame, hmem, -⟩, he⟩ := foldl_sbar o (List.range 16) s
  refine ⟨_, hx, ⟨by rw [pc_advance, hsame.pc], by rw [advance_mem, hmem], kept_trans hsame.kept (kept_advance _)⟩, fun e h16 hi hd => ?_⟩
  rw [myTile_advance]
  exact he e (.inr ⟨List.mem_range.2 h16, hi, hd⟩)

/-- Settles O15. -/
theorem cacheOrderSignalResults : Obligations.CacheOrderSignalResults := by
  intro s o p ea k n c kind pushes
  refine ⟨fun hg => ⟨fun hn => ?_, fun hy => ?_⟩, fun hg => ?_, fun hg hp => cflush_result hg hp, fun hg hp => cinv_result hg hp,
    fun hc => sbar_result hc, fun hc => sgpost_result hc, fun hc hlt => ?_, fun hc hle => ?_⟩
  · rw [exec_fence hg, if_neg]
    · rfl
    · simpa [pushes, kind, and_assoc] using hn
  · obtain ⟨hk, hcore, hpush⟩ := hy
    rw [exec_fence hg, if_pos (by simp [hcore, hpush]; exact hk)]
  · refine ⟨_, congrArg Host.Outcome.next (guarded_on hg _), ?_, fun j => ?_⟩
    · rw [pc_advance, (sameAgents_prefetch s _).pc]
    · rw [getG_advance, (sameAgents_prefetch s _).getG]
  · rw [exec_sgwait hc, if_pos hlt]
  · rw [exec_sgwait hc, if_neg (not_lt.2 hle)]

end Sys2Proof.Laws

/-! Stores: what a byte of a cached page reads as, and what one write leaves of it (06 R118; 07 R137, R138, R140). -/

namespace Sys2Proof.Laws

open Sys2Proof Sys2Proof.Machine Sys2Proof.Safety

/-! What a write keeps. -/

section
variable {α : Type} (view : State → α) (hmark : ∀ t g on, view (State.mark t g on) = view t)
  (hcache : ∀ (t : State) m l, view { t with mem := m, l2 := l } = view t) (hpost : ∀ t n ev x, view (State.post t n ev x) = view t)
include hmark hcache

theorem prepWrite_keeps (s : State) (p : Phys) : view (s.prepWrite p) = view s := by
  unfold State.prepWrite
  split
  · split
    · exact hcache s s.mem _
    · split
      · exact (hcache _ (State.mem _) _).trans ((hmark _ _ _).trans (hcache s _ s.l2))
      · rfl
  · rfl

include hpost

theorem wr_keeps (s : State) (p : Phys) (bs : List Byte) : view (s.wr p bs) = view s := by
  have h : view { s.prepWrite p with mem := (s.prepWrite p).mem.put ((s.prepWrite p).home p) bs } = view s :=
    (hcache _ _ (s.prepWrite p).l2).trans (prepWrite_keeps view hmark hcache s p)
  unfold State.wr
  simp only
  rw [apply_ite view, tailHits_keeps view hpost, ite_self, apply_ite view, hmark, ite_self]
  exact h

theorem wrFor_keeps (s : State) (q : Req) (p : Phys) (bs : List Byte) : view (s.wrFor q p bs) = view s := by
  unfold State.wrFor
  rw [apply_ite view, hmark, ite_self]
  exact wr_keeps view hmark hcache hpost s p bs

end

theorem sameAgents_wrFor (s : State) (q : Req) (p : Phys) (bs : List Byte) : SameAgents s (s.wrFor q p bs) :=
  ⟨wrFor_keeps State.cur (fun _ _ _ => rfl) (fun _ _ _ => rfl) (fun _ _ _ _ => rfl) s q p bs,
    wrFor_keeps State.cores (fun _ _ _ => rfl) (fun _ _ _ => rfl) (fun _ _ _ _ => rfl) s q p bs,
    fun d k c => congrFun (congrFun (congrFun (wrFor_keeps State.ctx (fun _ _ _ => rfl) (fun _ _ _ => rfl) (fun _ _ _ _ => rfl) s q p bs) d) k) c⟩

/-! Lines and their home slices. -/

theorem homeOf_line {a b : Nat} (h : a / 64 = b / 64) : homeOf a = homeOf b := by
  have e : ∀ x : Nat, x / 8192 = x / 64 / 128 := fun x => by rw [Nat.div_div_eq_div_mul]
  simp only [homeOf, e, h]

theorem cacheable_line {a b : Nat} (h : a / 64 = b / 64) (s : State) : s.cacheable a = s.cacheable b := by
  rw [State.cacheable, State.cacheable, homeOf_line h]

theorem held_line {a b : Nat} (h : a / 64 = b / 64) (s : State) : s.held a = s.held b := by
  rw [State.held, State.held, h]

/-- The home of a byte of a cached page. -/
def seenKey (s : State) (k : Nat) : Nat := if s.cacheable k && s.held k then copyKey k else k

/-- A byte as an access of a cached page sees it. -/
def seenByte (s : State) (k : Nat) : Byte := s.mem.byte (seenKey s k)

/-- A place of a cached page. -/
def Cached (p : Phys) : Prop := p.mt = 0 ∨ p.mt = 2

theorem home_cached {p : Phys} (h : Cached p) (s : State) : s.home p = seenKey s p.key := by
  have e : (p.mt == 0 || p.mt == 2) = true := by rcases h with h | h <;> rw [h] <;> rfl
  rw [State.home, e, Bool.true_and]; rfl

theorem seenKey_cases (s : State) (k : Nat) : seenKey s k = k ∨ seenKey s k = 2 ^ 42 + k := by
  unfold seenKey copyKey
  split
  · exact .inr rfl
  · exact .inl rfl

/-- Bytes of one line stand side by side at their home. -/
theorem seenKey_line {a b : Nat} (h : a / 64 = b / 64) (hab : a ≤ b) (s : State) : seenKey s b = seenKey s a + (b - a) := by
  rw [seenKey, seenKey, cacheable_line h, held_line h]
  split
  · simp only [copyKey]; omega
  · omega

theorem rd_seen {s : State} {k mt : Nat} (hmt : mt = 0 ∨ mt = 2) (hk : k < 2 ^ 40) :
    s.rd { key := k, mt := mt } 1 = (seenByte s k).toNat := by
  have hh : s.home { key := k, mt := mt } = seenKey s k := home_cached (p := { key := k, mt := mt }) hmt s
  have hl : s.lost (seenKey s k) = false := by
    rw [State.lost, decide_eq_false, Bool.and_false]
    rcases seenKey_cases s k with e | e <;> rw [e] <;> omega
  rw [State.rd, hh, hl, if_neg Bool.false_ne_true, seenByte]
  simp [Memory.bytes, leVal]

/-- What memory, the caches and where they stand decide: a byte as it is seen. -/
def SameCaches (s t : State) : Prop := t.mem = s.mem ∧ t.l2 = s.l2 ∧ t.depots = s.depots ∧ t.boxes = s.boxes

theorem sameCaches_refl (s : State) : SameCaches s s := ⟨rfl, rfl, rfl, rfl⟩

theorem SameCaches.trans {s t u : State} (h : SameCaches s t) (k : SameCaches t u) : SameCaches s u :=
  ⟨k.1.trans h.1, k.2.1.trans h.2.1, k.2.2.1.trans h.2.2.1, k.2.2.2.trans h.2.2.2⟩

theorem cacheable_congr {s t : State} (hd : t.depots = s.depots) (hb : t.boxes = s.boxes) (k : Nat) : t.cacheable k = s.cacheable k := by
  simp only [State.cacheable, State.hasCache, State.box, State.depot, hd, hb]; rfl

theorem seenKey_congr {s t : State} (h : SameCaches s t) (k : Nat) : seenKey t k = seenKey s k := by
  obtain ⟨-, hl, hd, hb⟩ := h
  rw [seenKey, seenKey, cacheable_congr hd hb, State.held, State.held, hl]

theorem seenByte_congr {s t : State} (h : SameCaches s t) (k : Nat) : seenByte t k = seenByte s k := by
  rw [seenByte, seenByte, seenKey_congr h, h.1]

theorem home_sameCaches {s t : State} (h : SameCaches s t) (p : Phys) : t.home p = s.home p := by
  obtain ⟨-, hl, hd, hb⟩ := h
  rw [State.home, State.home, cacheable_congr hd hb, State.held, State.held, hl]

/-! A write readies the line: no byte reads as another (R118). -/

theorem any_set {α : Type} (t : Tbl α) (k j : Nat) (v : α) : (t.set k v).any (fun e => e.1 == j) = (t.any (fun e => e.1 == j) || k == j) := by
  induction t with
  | nil => simp [Tbl.set]
  | cons e r ih =>
    obtain ⟨i, w⟩ := e
    unfold Tbl.set
    split
    · simp only [List.any_cons]; cases k == j <;> simp
    · split
      · next h => subst h; simp only [List.any_cons]; cases i == j <;> simp
      · simp only [List.any_cons, ih, Bool.or_assoc]

theorem held_set (s : State) (m : Memory) (k j : Nat) (v : Bool) :
    ({ s with mem := m, l2 := s.l2.set k v } : State).held j = (s.held j || k == j / 64) := any_set s.l2 k (j / 64) v

theorem getD_bytes (m : Memory) (a n i : Nat) (h : i < n) : (m.bytes a n).getD i 0 = m.byte (a + i) := by
  simp [Memory.bytes, h]

theorem line_mem {k j : Nat} : (k / 64 * 64 ≤ j ∧ j < k / 64 * 64 + 64) ↔ j / 64 = k / 64 := by omega

/-- The home slice takes a line: each byte reads as before, those of the line from the copy. -/
theorem seenByte_fill {s : State} {pa : Nat} (hc : s.cacheable pa = true) (hh : s.held pa = false) {k : Nat} (hk : k < 2 ^ 40)
    (dirty : Bool) : seenByte (s.fill pa dirty) k = seenByte s k := by
  have hheld : (s.fill pa dirty).held k = (s.held k || pa / 64 == k / 64) := any_set s.l2 _ _ _
  have hcache : (s.fill pa dirty).cacheable k = s.cacheable k := cacheable_congr rfl rfl k
  have hmem : ∀ j, (s.fill pa dirty).mem.byte j = if copyKey (pa / 64 * 64) ≤ j ∧ j < copyKey (pa / 64 * 64) + 64 then
      s.mem.byte (pa / 64 * 64 + (j - copyKey (pa / 64 * 64))) else s.mem.byte j := by
    intro j
    show (s.mem.put (copyKey (pa / 64 * 64)) (s.mem.bytes (pa / 64 * 64) 64)).byte j = _
    rw [byte_put, bytes_length]
    split
    · next h => rw [getD_bytes _ _ _ _ (by omega)]
    · rfl
  rw [seenByte, seenByte, hmem, seenKey, seenKey, hheld, hcache]
  by_cases hline : k / 64 = pa / 64
  · have h1 : s.cacheable k = true := (cacheable_line hline s).trans hc
    have h2 : s.held k = false := (held_line hline s).trans hh
    rw [h1, h2, hline]
    simp only [beq_self_eq_true, Bool.or_true, Bool.and_self, if_true, Bool.and_false, Bool.false_eq_true, if_false, copyKey]
    rw [if_pos (by omega)]
    congr 1
    omega
  · rw [beq_false_of_ne (Ne.symm hline), Bool.or_false, if_neg]
    simp only [copyKey]
    split <;> omega

theorem seenByte_prepWrite {s : State} {p : Phys} {k : Nat} (hk : k < 2 ^ 40) :
    seenByte (s.prepWrite p) k = seenByte s k := by
  unfold State.prepWrite
  split
  · next hc =>
    have hc : s.cacheable p.key = true := by simp only [Bool.and_eq_true] at hc; exact hc.2
    split
    · next hh =>
      have hheld : ({ s with l2 := s.l2.set (p.key / 64) true } : State).held k = s.held k := by
        refine (held_set s s.mem _ _ _).trans ?_
        by_cases hline : p.key / 64 = k / 64
        · rw [← held_line hline, hh, Bool.true_or]
        · rw [beq_false_of_ne hline, Bool.or_false]
      rw [seenByte, seenByte, seenKey, seenKey, hheld]; rfl
    · next hh =>
      split
      · exact seenByte_fill hc (Bool.eq_false_iff.2 hh) hk true
      · rfl
  · rfl

/-- One write within a line of a cached page: its bytes read as written, every other byte as before. -/
theorem seenByte_wrFor {s : State} {p : Phys} (hc : Cached p) (hp : p.key < 2 ^ 40) (q : Req) (bs : List Byte)
    (hline : ∀ i, i < bs.length → (p.key + i) / 64 = p.key / 64) {k : Nat} (hk : k < 2 ^ 40) :
    seenByte (s.wrFor q p bs) k = if p.key ≤ k ∧ k < p.key + bs.length then bs.getD (k - p.key) 0 else seenByte s k := by
  have hw : SameCaches { s.prepWrite p with mem := (s.prepWrite p).mem.put ((s.prepWrite p).home p) bs } (s.wrFor q p bs) := by
    have h : ∀ {α : Type} (view : State → α) (hmark : ∀ t g on, view (State.mark t g on) = view t)
        (hpost : ∀ t n ev x, view (State.post t n ev x) = view t), view (s.wrFor q p bs) =
          view { s.prepWrite p with mem := (s.prepWrite p).mem.put ((s.prepWrite p).home p) bs } := by
      intro α view hmark hpost
      unfold State.wrFor State.wr
      simp only
      rw [apply_ite view, hmark, ite_self, apply_ite view, tailHits_keeps view hpost, ite_self, apply_ite view, hmark, ite_self]
    exact ⟨h State.mem (fun _ _ _ => rfl) (fun _ _ _ _ => rfl), h State.l2 (fun _ _ _ => rfl) (fun _ _ _ _ => rfl),
      h State.depots (fun _ _ _ => rfl) (fun _ _ _ _ => rfl), h State.boxes (fun _ _ _ => rfl) (fun _ _ _ _ => rfl)⟩
  have hprep := seenByte_prepWrite (s := s) (p := p) hk
  rw [seenByte_congr hw, ← hprep]
  clear hw hprep
  obtain ⟨x, hx⟩ : ∃ x, s.prepWrite p = x := ⟨_, rfl⟩
  rw [hx]
  have hkey : seenKey { x with mem := x.mem.put (x.home p) bs } k = seenKey x k := rfl
  rw [seenByte, hkey, home_cached hc]
  show (x.mem.put (seenKey x p.key) bs).byte (seenKey x k) = _
  rw [byte_put]
  by_cases hin : p.key ≤ k ∧ k < p.key + bs.length
  · have hl : p.key / 64 = k / 64 := by
      have := hline (k - p.key) (by omega)
      rw [Nat.add_sub_cancel' hin.1] at this
      exact this.symm
    rw [if_pos hin, seenKey_line hl hin.1, if_pos (by omega), Nat.add_sub_cancel_left]
  · have hlen : p.key + bs.length ≤ 2 ^ 40 := by
      rcases Nat.eq_zero_or_pos bs.length with h0 | h0
      · omega
      · have := hline (bs.length - 1) (by omega)
        omega
    rw [if_neg hin, if_neg, seenByte]
    rcases seenKey_cases x k with e | e <;> rcases seenKey_cases x p.key with e' | e' <;> rw [e, e'] <;> omega

/-! Pages are aligned, so that an aligned access of a cached page lies within one line (R118). -/

theorem else_of_ne {α : Type} {c : Prop} [Decidable c] {x y z : α} (h : (if c then x else y) = z) (hx : x ≠ z) : y = z := by
  by_cases hc : c
  · exact absurd ((if_pos hc).symm.trans h) hx
  · exact (if_neg hc).symm.trans h

theorem readPte_page {e va level : Nat} {l : Leaf} (h : readPte e va level = .ok (.inr l)) : l.page % 4096 = 0 := by
  unfold readPte at h
  have h := else_of_ne (else_of_ne h nofun) nofun
  split at h
  · split at h <;> cases h
  · have h := else_of_ne (else_of_ne h nofun) nofun
    cases h
    simp only
    omega

theorem walk_page (s : State) (va k tbl : Nat) {l : Leaf} (h : s.walk va k tbl = .ok l) : l.page % 4096 = 0 := by
  induction k generalizing tbl with
  | zero =>
    unfold State.walk at h
    split at h
    · cases h
    · cases h
    · next hr => cases h; exact readPte_page hr
  | succ k ih =>
    unfold State.walk at h
    split at h
    · cases h
    · exact ih _ h
    · next hr => cases h; exact readPte_page hr

theorem translate_page {s : State} {root : Word} {sup : Bool} {a : Acc} {va : Nat} {l : Leaf} (h : s.translate root sup a va = .ok l) :
    l.page % 4096 = 0 := by
  unfold State.translate at h
  split at h
  · cases h
  · split at h
    · cases h
    · next hw =>
      split at h
      · cases h; exact walk_page s _ _ _ hw
      · cases h

theorem leaf_page (e : TlbEntry) (va : Nat) : (e.leaf va).page % 4096 = 0 := by
  unfold TlbEntry.leaf TlbEntry.size
  split <;> simp only <;> omega

theorem cached_page {s : State} {q : Req} {a : Acc} {va : Nat} {l : Leaf} (h : s.cached q a va = some l) : l.page % 4096 = 0 := by
  unfold State.cached at h
  split at h
  · cases h
  · obtain ⟨n, -, hn⟩ := List.exists_of_findSome?_eq_some h
    obtain ⟨hn, -⟩ := Option.filter_eq_some_iff.1 hn
    obtain ⟨e, -, rfl⟩ := Option.map_eq_some_iff.1 hn
    exact leaf_page e va

theorem translateFor_page {s : State} {q : Req} {a : Acc} {va : Nat} {l : Leaf} (h : s.translateFor q a va = .ok l) : l.page % 4096 = 0 := by
  unfold State.translateFor at h
  split at h
  · cases h
  · split at h
    · next hc =>
      cases h
      exact cached_page hc
    · exact translate_page h

theorem reach_ok {s : State} {d t : Nat} {c : Chk} {p : Phys} (h : s.reach d t c = .ok p) : c = .ok p := by
  unfold State.reach at h
  split at h
  · cases h
  · exact h

theorem path1_uncached {s : State} {q : Req} {ea n : Nat} {a : Acc} {p : Phys} (h : s.path1 q ea n a = .ok p) : p.mt = 3 := by
  unfold State.path1 at h
  have h := else_of_ne (else_of_ne (else_of_ne (else_of_ne h nofun) nofun) nofun) nofun
  split at h
  · cases reach_ok h
  · cases reach_ok h; rfl

theorem path2_uncached {s : State} {q : Req} {ea n : Nat} {p : Phys} (h : s.path2 q ea n = .ok p) : p.mt = 3 := by
  unfold State.path2 at h
  cases reach_ok (else_of_ne (else_of_ne (else_of_ne (else_of_ne (else_of_ne h nofun) nofun) nofun) nofun) nofun)
  rfl

theorem path3_key {s : State} {q : Req} {ea : Nat} {a : Acc} {p : Phys} (h : s.path3 q ea a = .ok p) : p.key % 4096 = ea % 4096 := by
  unfold State.path3 at h
  have h := else_of_ne (else_of_ne (else_of_ne h nofun) nofun) nofun
  split at h
  · split at h
    · next hl =>
      cases h
      have := translate_page hl
      simp only
      omega
    · cases h
  · cases h

theorem path4_uncached {s : State} {q : Req} {ea n : Nat} {a : Acc} {p : Phys} (h : s.path4 q ea n a = .ok p) : p.mt = 3 := by
  unfold State.path4 at h
  have h := else_of_ne (else_of_ne h nofun) nofun
  split at h
  · cases reach_ok (else_of_ne (else_of_ne (else_of_ne h nofun) nofun) nofun)
    rfl
  · have h := else_of_ne h nofun
    split at h
    · have h := else_of_ne h nofun
      split at h <;> cases h
    · have h := else_of_ne h nofun
      split at h <;> cases h

/-- A place of a cached page keeps the address's place in its page. -/
theorem check_cached {s : State} {q : Req} {ea n : Nat} {a : Acc} {p : Phys} (h : s.check q ea n a = .ok p) (hp : Cached p) :
    p.key % 4096 = ea % 4096 := by
  have hne : p.mt ≠ 3 := by rcases hp with hp | hp <;> rw [hp] <;> decide
  unfold State.check at h
  split at h
  · have h := else_of_ne h nofun
    split at h
    · next hl =>
      cases h
      have := translateFor_page hl
      simp only
      omega
    · cases h
  · exact absurd (path1_uncached h) hne
  · exact absurd (path2_uncached h) hne
  · exact path3_key h
  · exact absurd (path4_uncached h) hne
  · cases h

/-- An aligned access of a cached page of up to 64 bytes lies within one line. -/
theorem check_line {s : State} {q : Req} {ea m n : Nat} {a : Acc} {p : Phys} (h : s.check q ea m a = .ok p) (hp : Cached p) (hn : n ∣ 64)
    (hal : ea % n = 0) {i : Nat} (hi : i < n) : (p.key + i) / 64 = p.key / 64 := by
  obtain ⟨c, hc⟩ := hn
  have hkey : p.key % 64 = ea % 64 := by
    have := check_cached h hp
    omega
  obtain ⟨b, hb⟩ := Nat.dvd_of_mod_eq_zero hal
  have hmod : p.key % 64 = n * (b % c) := by rw [hkey, hb, hc, Nat.mul_mod_mul_left]
  have hc0 : 0 < c := Nat.pos_of_ne_zero (by rintro rfl; omega)
  have hle : n * (b % c) + n ≤ 64 := by
    calc n * (b % c) + n = n * (b % c + 1) := (Nat.mul_succ ..).symm
      _ ≤ n * c := Nat.mul_le_mul_left _ (Nat.mod_lt _ hc0)
      _ = 64 := hc.symm
  omega

/-! What a store of the executing context does: it notes what a later read may miss, and writes (R139, R140). -/

/-- What a store leaves for its write: memory, the home slices, the registers and the program counter. -/
def ReadyFrom (s x : State) : Prop := SameCaches s x ∧ x.pc = s.pc ∧ ∀ k, x.getG k = s.getG k

theorem ReadyFrom.trans {s t u : State} (h : ReadyFrom s t) (k : ReadyFrom t u) : ReadyFrom s u :=
  ⟨h.1.trans k.1, k.2.1.trans h.2.1, fun n => (k.2.2 n).trans (h.2.2 n)⟩

theorem readyFrom_refl (s : State) : ReadyFrom s s := ⟨sameCaches_refl s, rfl, fun _ => rfl⟩

theorem readyFrom_modMe {s : State} (h : s.onCore = false) {f : Context → Context} (hf : (f s.me).hart = s.me.hart) :
    ReadyFrom s (s.modMe f) := ⟨⟨rfl, rfl, rfl, rfl⟩, (sameRun_modMe h hf).2⟩

theorem readyFrom_noteLate (s : State) (ea : Nat) (p : Phys) (n : Nat) : ReadyFrom s (s.noteLate ea p n) := by
  unfold State.noteLate
  split
  · exact readyFrom_refl s
  · next h => exact readyFrom_modMe (by simp only [Bool.or_eq_true, not_or, Bool.not_eq_true] at h; exact h.1) rfl

theorem readyFrom_keepOld (s : State) (k n : Nat) : ReadyFrom s (s.keepOld k n) := by
  unfold State.keepOld
  split
  · exact readyFrom_refl s
  · have h : SameAgents s (s.modMyTile fun t => { t with mq := t.mq.map fun m => if m.reads s.cix then m.keep s k n else m }) :=
      sameAgents_modTile s _ _ rfl
    exact ⟨⟨rfl, rfl, rfl, rfl⟩, h.pc, h.getG⟩

/-- What the bytes of a store may keep at a place: an own earlier store's, which it may pass. -/
def Passed (s : State) (rel : Bool) (ea : Nat) (p : Phys) (n k : Nat) : Prop :=
  rel = false ∧ s.mayPass ea p n = true ∧ ∃ e ∈ s.me.late, e.key = k ∧ s.isPassed ea p n e = true

/-- A write of bytes, or of what stood where an own earlier store is passed. -/
def Writes (s : State) (rel : Bool) (ea : Nat) (p : Phys) (bs : List Byte) (t : State) : Prop :=
  ∃ x q both, t = x.wrFor q p both ∧ ReadyFrom s x ∧ both.length = bs.length ∧ ∀ i, i < bs.length →
    both.getD i 0 = bs.getD i 0 ∨ (Passed s rel ea p bs.length (p.key + i) ∧ both.getD i 0 = s.mem.byte (s.home p + i))

theorem noteStore_writes {s u : State} (h : ReadyFrom s u) (rel : Bool) (ea : Nat) (p : Phys) (bs : List Byte) :
    Writes s rel ea p bs ((u.noteStore ea p bs.length).wrFor u.req p bs) :=
  ⟨_, _, bs, rfl, h.trans ((readyFrom_keepOld u _ _).trans (readyFrom_noteLate _ _ _ _)), rfl, fun _ _ => .inl rfl⟩

/-- Where an own earlier store may be passed, the agent is a context. -/
theorem mayPass_context {s : State} {ea n : Nat} {p : Phys} (h : s.mayPass ea p n = true) : s.onCore = false := by
  simp only [State.mayPass, Bool.and_eq_true, Bool.not_eq_true'] at h
  exact h.1.1

theorem onCore_noteLate (s : State) (ea : Nat) (p : Phys) (n : Nat) : (s.noteLate ea p n).onCore = s.onCore := by
  unfold State.noteLate
  split
  · rfl
  · exact onCore_modMe ..

theorem getD_map_zipIdx {α : Type} [Zero α] (f : α × Nat → α) (l : List α) {i : Nat} (hi : i < l.length) :
    (l.zipIdx.map f).getD i 0 = f (l.getD i 0, i) := by
  simp [hi]

theorem putBefore_writes {s u : State} (h : ReadyFrom s u) (hme : u.me = s.me) (hcy : u.sys = s.sys) {ea : Nat} {p : Phys} {bs : List Byte}
    (hm : s.mayPass ea p bs.length = true) (hc : u.onCore = false) : Writes s false ea p bs (u.putBefore ea p bs) := by
  refine ⟨_, _, _, rfl, h.trans ((readyFrom_noteLate u _ _ _).trans (readyFrom_modMe ((onCore_noteLate ..).trans hc) rfl)), by simp, ?_⟩
  intro i hi
  rw [getD_map_zipIdx _ _ hi]
  dsimp only
  split
  · next hhit =>
    obtain ⟨e, he, hk⟩ := List.any_eq_true.1 hhit
    obtain ⟨hkey, hpass⟩ := Bool.and_eq_true_iff.1 hk
    have hsame : s.isPassed ea p bs.length e = u.isPassed ea p bs.length e := by rw [State.isPassed, State.isPassed, State.isLate, State.isLate, hcy]
    refine .inr ⟨⟨rfl, hm, e, hme ▸ he, beq_iff_eq.1 hkey, hsame.trans hpass⟩, ?_⟩
    rw [h.1.1, home_sameCaches h.1]
  · exact .inl rfl

/-- A store writes its bytes, but for those that an own earlier store which it may pass keeps. -/
theorem putOwn_writes (s : State) (rel : Bool) (ea : Nat) (p : Phys) (bs : List Byte) : Writes s rel ea p bs (s.putOwn rel ea p bs) := by
  unfold State.putOwn
  simp only
  split
  · next h =>
    obtain ⟨hr, hm⟩ := Bool.and_eq_true_iff.1 h
    have hfree : ReadyFrom s s.freeVal.1 := ⟨⟨rfl, rfl, rfl, rfl⟩, (sameRun_freeVal s).2⟩
    split
    · cases rel with
      | true => cases hr
      | false => exact putBefore_writes hfree rfl rfl hm (mayPass_context hm)
    · exact noteStore_writes hfree rel ea p bs
  · exact noteStore_writes (readyFrom_refl s) rel ea p bs

/-! What a byte is after a store. -/

/-- A write at an uncached place, byte by byte. -/
theorem byte_wrFor {s : State} {p : Phys} (hp : Uncached p) (q : Req) (bs : List Byte) (k : Nat) :
    (s.wrFor q p bs).mem.byte k = if p.key ≤ k ∧ k < p.key + bs.length then bs.getD (k - p.key) 0 else s.mem.byte k := by
  rw [wrFor_uncached State.mem (fun _ _ _ => rfl) (fun _ _ _ _ => rfl) hp s q bs]
  exact byte_put ..

/-- What a store of n bytes at p leaves a byte as, told by how the byte is looked at before and after. -/
def Stored (s : State) (rel : Bool) (ea : Nat) (p : Phys) (bs : List Byte) (old new : Nat → Byte) (k : Nat) : Prop :=
  if p.key ≤ k ∧ k < p.key + bs.length then new k = bs.getD (k - p.key) 0 ∨ (Passed s rel ea p bs.length k ∧ new k = old k)
  else new k = old k

theorem stored_uncached {s : State} {rel : Bool} {ea : Nat} {p : Phys} {bs : List Byte} {t : State} (h : Writes s rel ea p bs t)
    (hp : Uncached p) (k : Nat) : Stored s rel ea p bs s.mem.byte t.mem.byte k := by
  obtain ⟨x, q, both, rfl, hx, hlen, hboth⟩ := h
  unfold Stored
  rw [byte_wrFor hp, hlen, hx.1.1]
  split
  · next hk =>
    have := hboth (k - p.key) (by omega)
    rwa [home_uncached hp, Nat.add_sub_cancel' hk.1] at this
  · rfl

theorem stored_cached {s : State} {rel : Bool} {ea : Nat} {p : Phys} {bs : List Byte} {t : State} (h : Writes s rel ea p bs t)
    (hp : Cached p) (hkey : p.key < 2 ^ 40) (hline : ∀ i, i < bs.length → (p.key + i) / 64 = p.key / 64) {k : Nat} (hk : k < 2 ^ 40) :
    Stored s rel ea p bs (seenByte s) (seenByte t) k := by
  obtain ⟨x, q, both, rfl, hx, hlen, hboth⟩ := h
  unfold Stored
  rw [seenByte_wrFor hp hkey q both (by rwa [hlen]) hk, hlen, seenByte_congr hx.1]
  split
  · next hin =>
    have := hboth (k - p.key) (by omega)
    have hl : k / 64 = p.key / 64 := by
      rw [← hline (k - p.key) (by omega), Nat.add_sub_cancel' hin.1]
    rwa [home_cached hp, ← seenKey_line hl.symm hin.1, Nat.add_sub_cancel' hin.1] at this
  · rfl

theorem sameAgents_wr (s : State) (p : Phys) (bs : List Byte) : SameAgents s (s.wr p bs) :=
  ⟨wr_keeps State.cur (fun _ _ _ => rfl) (fun _ _ _ => rfl) (fun _ _ _ _ => rfl) s p bs,
    wr_keeps State.cores (fun _ _ _ => rfl) (fun _ _ _ => rfl) (fun _ _ _ _ => rfl) s p bs,
    fun d k c => congrFun (congrFun (congrFun (wr_keeps State.ctx (fun _ _ _ => rfl) (fun _ _ _ => rfl) (fun _ _ _ _ => rfl) s p bs) d) k) c⟩

theorem sameAgents_sample (s : State) (q : Req) (ty : Nat) (miss : Bool) (va : Nat) : SameAgents s (s.sample q ty miss va) := by
  unfold State.sample
  simp only
  split
  · exact (sameAgents_wr s _ _).trans ⟨rfl, rfl, fun _ _ _ => rfl⟩
  · exact ⟨rfl, rfl, fun _ _ _ => rfl⟩

theorem sameAgents_hot (s : State) (q : Req) (a : Acc) (p : Phys) (va : Nat) : SameAgents s (s.hot q a p va) := by
  unfold State.hot
  simp only
  split
  · exact .refl s
  · split
    · exact SameAgents.trans ⟨rfl, rfl, fun _ _ _ => rfl⟩ (sameAgents_sample _ _ _ _ _)
    · exact ⟨rfl, rfl, fun _ _ _ => rfl⟩

/-- An access that is performed changes no agent. -/
theorem sameAgents_touch (s : State) (q : Req) (ea : Nat) (a : Acc) (p : Phys) : SameAgents s (s.touch q ea a p) := by
  unfold State.touch
  simp only
  split
  · refine SameAgents.trans ?_ (sameAgents_hot _ _ _ _ _)
    split
    · split
      · exact ⟨rfl, rfl, fun _ _ _ => rfl⟩
      · exact .refl s
    · exact .refl s
  · exact .refl s

theorem passed_advance {s : State} {rel : Bool} {ea n k : Nat} {p : Phys} (h : Passed s.advance rel ea p n k) : Passed s rel ea p n k := by
  obtain ⟨hr, hm, hk⟩ := h
  have hc : s.onCore = false := (onCore_modHart s _).symm.trans (mayPass_context hm)
  have hme : s.advance.me.late = s.me.late := by rw [me_advance hc]
  have hpass : s.advance.isPassed ea p n = s.isPassed ea p n := by
    funext e
    rw [State.isPassed, State.isPassed, State.isLate, State.isLate, advance_sys]
  refine ⟨hr, ?_, ?_⟩
  · rw [State.mayPass, hme, hpass, State.advance, onCore_modHart] at hm
    exact hm
  · rwa [hme, hpass] at hk

theorem sameCaches_advance (s : State) : SameCaches s s.advance := ⟨advance_mem s, advance_l2 s, advance_depots s, advance_boxes s⟩

theorem writes_agent {s : State} {rel : Bool} {ea : Nat} {p : Phys} {bs : List Byte} {t : State} (h : Writes s rel ea p bs t) :
    t.pc = s.pc ∧ ∀ k, t.getG k = s.getG k := by
  obtain ⟨x, q, both, rfl, ⟨-, hpc, hg⟩, -⟩ := h
  have hw := sameAgents_wrFor x q p both
  exact ⟨hw.pc.trans hpc, fun k => (hw.getG k).trans (hg k)⟩

theorem toNat_ofNat_div (v i : Nat) : (BitVec.ofNat 8 (v / 256 ^ i)).toNat = v / 256 ^ i % 256 := BitVec.toNat_ofNat ..

/-- What a store of the n low bytes of v at p leaves. -/
def StoreLeaves (s u t : State) (rel : Bool) (ea : Nat) (p : Phys) (n v : Nat) : Prop :=
  let at_ := fun (t : State) (k : Nat) => t.rd { key := k, mt := p.mt } 1
  let stays := fun k => ¬(p.key ≤ k ∧ k < p.key + n)
    ∨ (rel = false ∧ u.mayPass ea p n = true ∧ ∃ e ∈ u.me.late, e.key = k ∧ u.isPassed ea p n e = true)
  ((p.mt = 1 ∨ p.mt = 3) → ∀ k,
      (¬stays k → t.mem.byte k = BitVec.ofNat 8 (v / 256 ^ (k - p.key)))
        ∧ (stays k → t.mem.byte k = s.mem.byte k
            ∨ (p.key ≤ k ∧ k < p.key + n ∧ t.mem.byte k = BitVec.ofNat 8 (v / 256 ^ (k - p.key)))))
    ∧ ((p.mt = 0 ∨ p.mt = 2) → p.key < 2 ^ 40 → ∀ k, k < 2 ^ 40 →
      (¬stays k → at_ t k = v / 256 ^ (k - p.key) % 256)
        ∧ (stays k → at_ t k = at_ u k ∨ (p.key ≤ k ∧ k < p.key + n ∧ at_ t k = v / 256 ^ (k - p.key) % 256)))

section
variable {s : State} {o : SFmt} {p : Phys} {i : Instr} {rel : Bool} {bs : State → List Byte} {n v : Nat}

/-- A store instruction on memory. -/
theorem store_result (hg : GuardOn s o.gn o.gs) (hp : InMem s (s.ea o).toNat n n .write p) (h8 : (s.ea o).toNat / 2 ^ 60 = 4 → n = 8)
    (hi : exec i s = .next (s.guardedAt o.gn o.gs (s.ea o).toNat fun s' => s'.store rel (s'.ea o).toNat (bs s')))
    (hlen : (bs s).length = n) (hn : n ∣ 64) (hbs : ∀ i, i < n → (bs s).getD i 0 = BitVec.ofNat 8 (v / 256 ^ i)) :
    ∃ t, exec i s = .next t ∧ t.pc = s.pc + 8 ∧ (∀ k, t.getG k = s.getG k)
      ∧ StoreLeaves s (s.touch s.req (s.ea o).toNat .write p) t rel (s.ea o).toNat p n v := by
  set u := s.touch s.req (s.ea o).toNat .write p with hu
  set t := u.advance.putOwn rel (s.ea o).toNat p (bs s)
  have hsame : SameAgents s u := sameAgents_touch ..
  have hw : Writes u.advance rel (s.ea o).toNat p (bs s) t := putOwn_writes ..
  obtain ⟨hpc, hgr⟩ := writes_agent hw
  have hcases : ∀ {old new : Nat → Byte} {k : Nat}, Stored u.advance rel (s.ea o).toNat p (bs s) old new k →
      let stays := ¬(p.key ≤ k ∧ k < p.key + n) ∨ Passed u rel (s.ea o).toNat p n k
      (¬stays → new k = BitVec.ofNat 8 (v / 256 ^ (k - p.key)))
        ∧ (stays → new k = old k ∨ (p.key ≤ k ∧ k < p.key + n ∧ new k = BitVec.ofNat 8 (v / 256 ^ (k - p.key)))) := by
    intro old new k h
    unfold Stored at h
    rw [hlen] at h
    by_cases hin : p.key ≤ k ∧ k < p.key + n
    · rw [if_pos hin, hbs _ (by omega)] at h
      obtain hnew | ⟨hpass, hold⟩ := h
      · exact ⟨fun _ => hnew, fun _ => .inr ⟨hin.1, hin.2, hnew⟩⟩
      · exact ⟨fun hs => absurd (.inr (passed_advance hpass)) hs, fun _ => .inl hold⟩
    · rw [if_neg hin] at h
      exact ⟨fun hs => absurd (.inl hin) hs, fun _ => .inl h⟩
  refine ⟨t, ?_, ?_, fun k => ?_, fun hmt k => ?_, fun hmt hkey k hk => ?_⟩
  · rw [hi, guardedAt_on hg hp.1.1, store_access s rel _ hlen, access_mem hp, storeAt, narrow4_eq_false (hlen.symm ▸ h8),
      if_neg Bool.false_ne_true]
  · rw [hpc, pc_advance, hsame.pc]
  · rw [hgr, getG_advance, hsame.getG]
  · have hmem : u.advance.mem = s.mem := by
      obtain ⟨tlb, ht⟩ := touch_uncached hmt s s.req (s.ea o).toNat .write
      rw [advance_mem, hu, ht]
    exact hcases (hmem ▸ stored_uncached hw hmt k)
  · have hst := stored_cached hw hmt hkey (fun i hi => check_line hp.2 hmt hn hp.1.2 (hlen ▸ hi)) hk
    simp only [rd_seen hmt hk, ← seenByte_congr (sameCaches_advance u) k]
    obtain ⟨hnew, hold⟩ := hcases hst
    refine ⟨fun h => ?_, fun h => ?_⟩
    · rw [hnew h, toNat_ofNat_div]
    · obtain he | ⟨h1, h2, he⟩ := hold h
      · exact .inl (congrArg _ he)
      · exact .inr ⟨h1, h2, by rw [he, toNat_ofNat_div]⟩

end

theorem leOf_append {m a : Nat} (n b : Nat) (ha : a < 256 ^ m) : leOf m a ++ leOf n b = leOf (m + n) (a + 256 ^ m * b) := by
  induction m generalizing a with
  | zero => rw [Nat.lt_one_iff.1 ha]; simp [leOf]
  | succ m ih =>
    have hdiv : (a + 256 ^ (m + 1) * b) / 256 = a / 256 + 256 ^ m * b := by rw [Nat.pow_succ, Nat.mul_right_comm, Nat.add_mul_div_right _ _ (by decide)]
    have hmod : BitVec.ofNat 8 (a + 256 ^ (m + 1) * b) = BitVec.ofNat 8 a := by
      apply BitVec.eq_of_toNat_eq
      rw [BitVec.toNat_ofNat, BitVec.toNat_ofNat, Nat.pow_succ, Nat.mul_right_comm]
      exact Nat.add_mul_mod_self_right ..
    rw [Nat.succ_add, leOf, leOf, List.cons_append, ih (by rw [Nat.pow_succ] at ha; omega), hdiv, hmod]

/-- Settles O11. -/
theorem storeResults : Obligations.StoreResults := by
  intro s o p hg _ ea u at_ done
  have low : ∀ {i rel n}, InMem s ea n n .write p → (ea / 2 ^ 60 = 4 → n = 8) → n ∣ 64 →
      exec i s = .next (s.guardedAt o.gn o.gs ea fun s' => s'.store rel (s'.ea o).toNat (leOf n (s'.getG o.d).toNat)) →
      done rel i n (s.getG o.d).toNat := fun hp h8 hn hi =>
    store_result hg hp h8 hi (leOf_length ..) hn fun _ h => leOf_getD _ _ h
  refine ⟨fun h4 => ?_, fun hp => ⟨low hp (fun _ => rfl) (by decide) rfl, low hp (fun _ => rfl) (by decide) rfl⟩⟩
  have h8 : ∀ {n}, ea / 2 ^ 60 = 4 → n = 8 := fun h => absurd h h4
  refine ⟨fun hp => low hp h8 (by decide) rfl, fun hp => low hp h8 (by decide) rfl, fun hp => low hp h8 (by decide) rfl, fun hp => ?_⟩
  refine store_result hg hp h8 (bs := fun s' => leOf 8 (s'.getG o.d).toNat ++ leOf 8 (s'.getG (o.d + 1)).toNat) rfl (by simp [leOf_length])
    (by decide) fun i hi => ?_
  rw [leOf_append 8 _ (s.getG o.d).isLt]
  exact leOf_getD _ _ hi

end Sys2Proof.Laws

/-! O37, O39: what a coach or system instruction leaves that answers in g[d] (18 R405, R422, R423, R429, R430, R434). -/

namespace Sys2Proof.Laws

open Sys2Proof Sys2Proof.Machine Sys2Proof.Safety

/-! A status in g[d] (R405). -/

theorem steps_status (s : State) (o : CFmt) (n : Nat) : Steps s (s.status o n) := steps_setG ..

theorem getG_status_ne (s : State) (o : CFmt) (n : Nat) {r : BitVec 5} (h : r ≠ o.d) : (s.status o n).getG r = s.getG r := by
  rw [State.status, getG_advance, getG_setG_ne _ _ _ _ h]

theorem getG_status_self (s : State) (o : CFmt) (n : Nat) (h : o.d ≠ 0) : (s.status o n).getG o.d = w64 n := by
  rw [State.status, getG_advance, getG_setG_self _ _ _ h]

/-- A step from a state that keeps memory, the program counter and what Kept says. -/
theorem steps_of_kept {s t u : State} (hpc : t.pc = s.pc) (hmem : t.mem = s.mem) (hk : Kept s t) (h : Steps t u) : Steps s u := by
  obtain ⟨hpc', hmem', hk'⟩ := h
  exact ⟨hpc' ▸ hpc ▸ rfl, hmem'.trans hmem, kept_trans hk hk'⟩

theorem pc_addFlags (s : State) (f : Fl) : (s.addFlags f).pc = s.pc := by rw [State.addFlags, State.pc, hart_modHart]; rfl

theorem getG_addFlags (s : State) (f : Fl) (n : BitVec 5) : (s.addFlags f).getG n = s.getG n := by
  rw [State.addFlags, getG_modHart]; rfl

theorem fflags_addFlags (s : State) (f : Fl) : (s.addFlags f).hart.fflags = s.hart.fflags ||| f := by rw [State.addFlags, hart_modHart]

theorem kept_addFlags (s : State) (f : Fl) : Kept s (s.addFlags f) := kept_modHart s _ rfl rfl rfl rfl rfl

/-- Flags and a status. -/
theorem steps_flags_status (s : State) (f : Fl) (o : CFmt) (n : Nat) : Steps s ((s.addFlags f).status o n) :=
  steps_of_kept (pc_addFlags s f) (modHart_mem ..) (kept_addFlags s f) (steps_status ..)

theorem fflags_setG (s : State) (n : BitVec 5) (v : Word) : (s.setG n v).hart.fflags = s.hart.fflags := by
  unfold State.setG
  split
  · rfl
  · rw [hart_modHart]

theorem fflags_status (s : State) (o : CFmt) (n : Nat) : (s.status o n).hart.fflags = s.hart.fflags := by
  rw [State.status, State.advance, hart_modHart]
  exact fflags_setG ..

/-! SPACC and SPRES (R422, R423). -/

/-- The product of two values that are numbers is a number unless it is invalid. -/
theorem mulV_invalid (x y : FNum) (hx : x ≠ .nan) (hy : y ≠ .nan) : (mulV x y).2 = true ↔ (mulV x y).1 = .nan := by
  cases x <;> cases y <;> simp_all [mulV]

/-- A lane that SPACC accepts. -/
def Accepted (u q p : Lanes) (j : Nat) : Prop :=
  let x := laneVal (vget u j 0)
  let y := laneVal (vget q j 0)
  let z := laneVal (vget p j 0)
  x ≠ .nan ∧ y ≠ .nan ∧ z ≠ .nan ∧ (mulV x y).1 ≠ .nan ∧ (∀ g, y ≠ .zero g) ∧ ltV false (mulV x y).1 z = true

theorem acceptRun_succ (u q p : Lanes) (n i : Nat) :
    (Accepted u q p i ∧ (acceptRun u q p (n + 1) i).1 = (acceptRun u q p n (i + 1)).1 + 1)
      ∨ (¬Accepted u q p i ∧ (acceptRun u q p (n + 1) i).1 = 0) := by
  rw [acceptRun]
  unfold Accepted
  set x := laneVal (vget u i 0)
  set y := laneVal (vget q i 0)
  set z := laneVal (vget p i 0)
  dsimp only
  by_cases hn : (x == .nan || y == .nan || z == .nan || (mulV x y).2) = true
  · rw [if_pos hn]
    refine .inr ⟨fun ⟨hx, hy, hz, hm, _⟩ => ?_, rfl⟩
    simp only [Bool.or_eq_true, beq_iff_eq, hx, hy, hz, false_or] at hn
    exact hm ((mulV_invalid x y hx hy).1 hn)
  · rw [if_neg hn]
    simp only [Bool.or_eq_true, beq_iff_eq, not_or, Bool.not_eq_true] at hn
    obtain ⟨⟨⟨hx, hy⟩, hz⟩, hm⟩ := hn
    have hprod : (mulV x y).1 ≠ .nan := fun h => Bool.false_ne_true (hm.symm.trans ((mulV_invalid x y hx hy).2 h))
    by_cases hlt : ltV false (mulV x y).1 z = true
    · by_cases h0 : ∀ g, y ≠ .zero g
      · refine .inl ⟨⟨hx, hy, hz, hprod, h0, hlt⟩, ?_⟩
        rw [if_neg]
        rw [hlt]
        cases hyv : y with
        | zero g => exact absurd hyv (h0 g)
        | nan | inf | num => exact Bool.false_ne_true
      · refine .inr ⟨fun ⟨_, _, _, _, h, _⟩ => h0 h, ?_⟩
        obtain ⟨g, hg⟩ := not_forall_not.1 h0
        rw [if_pos]
        rw [hg]
        rfl
    · refine .inr ⟨fun ⟨_, _, _, _, _, h⟩ => hlt h, ?_⟩
      rw [if_pos]
      rw [Bool.eq_false_iff.2 hlt, Bool.not_false, Bool.or_true]

/-- The run of accepted lanes. -/
theorem acceptRun_spec (u q p : Lanes) (n i : Nat) :
    let k := (acceptRun u q p n i).1
    k ≤ n ∧ (∀ j, j < k → Accepted u q p (i + j)) ∧ (k < n → ¬Accepted u q p (i + k)) := by
  induction n generalizing i with
  | zero => exact ⟨Nat.le_refl _, fun j hj => absurd hj (Nat.not_lt_zero _), fun h => absurd h (Nat.lt_irrefl _)⟩
  | succ n ih =>
    obtain ⟨hle, hacc, hend⟩ := ih (i + 1)
    intro k
    obtain ⟨ha, hk⟩ | ⟨ha, hk⟩ := acceptRun_succ u q p n i
    · have hk : k = (acceptRun u q p n (i + 1)).1 + 1 := hk
      rw [hk]
      refine ⟨by omega, fun j hj => ?_, fun h => ?_⟩
      · cases j with
        | zero => exact ha
        | succ j => rw [Nat.add_comm j, ← Nat.add_assoc]; exact hacc j (by omega)
      · rw [Nat.add_comm _ 1, ← Nat.add_assoc]; exact hend (by omega)
    · have hk : k = 0 := hk
      rw [hk]
      exact ⟨Nat.zero_le _, fun j hj => absurd hj (Nat.not_lt_zero _), fun _ => ha⟩

section
variable {s : State} {o : CFmt} (h : CtxOn s o.gn o.gs)
include h

theorem exec_spacc : let r := acceptRun (s.readV o.a.toNat) (s.readV o.b.toNat) (s.readV o.c.toNat) (o.f 6 0) 0
    exec (.spacc o) s = .next ((s.addFlags r.2).status o (r.1 + 256 * b2n (decide (r.1 < o.f 6 0)))) :=
  congrArg Host.Outcome.next (guardedCtx_on h _)

theorem exec_spres_waits {j : Nat} (hw : s.regWait [o.a, o.b] (BitVec.allOnes 64) = some j) :
    exec (.spres o) s = .next (s.waits (.links (s.me.links.length - j))) := by
  refine congrArg Host.Outcome.next ((guardedCtx_on h _).trans ?_)
  simp only [hw]
  rfl

theorem exec_spres (hw : s.regWait [o.a, o.b] (BitVec.allOnes 64) = none) :
    let rs := (List.range 64).map fun j => residualLane (laneOf s o.a j) (laneOf s o.b j)
    let draw := sampleLane (rs.map (·.1)) ((s.getG o.c).setWidth 32)
    exec (.spres o) s = .next ((s.addFlags (rs.foldl (fun x r => x ||| r.2) draw.2)).status o draw.1) := by
  refine congrArg Host.Outcome.next ((guardedCtx_on h _).trans ?_)
  simp only [hw]
  rfl

end

/-- Settles O37. -/
theorem speculationResults : Obligations.SpeculationResults := by
  intro s o hon n lane ok rs draw
  refine ⟨fun _ => ?_, fun _ _ hw => ⟨_, exec_spres hon hw, steps_flags_status .., fun r hr => ?_, fun hd => ?_, ?_⟩,
    fun j hw => exec_spres_waits hon hw⟩
  · obtain ⟨hle, hacc, hend⟩ := acceptRun_spec (s.readV o.a.toNat) (s.readV o.b.toNat) (s.readV o.c.toNat) n 0
    have hf : o.f 6 0 = n := by rw [CFmt.f, Nat.pow_zero, Nat.div_one]; rfl
    refine ⟨_, _, exec_spacc hon, steps_flags_status .., fun r hr => ?_, hle, fun j hj => ?_, fun hk => ?_, fun hd => ?_⟩
    · rw [getG_status_ne _ _ _ hr, getG_addFlags]
    · rw [← Nat.zero_add j]; exact hacc j hj
    · have := hend hk
      rwa [Nat.zero_add] at this
    · rw [getG_status_self _ _ _ hd, hf]
      by_cases hk : (acceptRun (s.readV o.a.toNat) (s.readV o.b.toNat) (s.readV o.c.toNat) n 0).1 < n
      · rw [if_pos hk, decide_eq_true hk]; rfl
      · rw [if_neg hk, decide_eq_false hk]; rfl
  · rw [getG_status_ne _ _ _ hr, getG_addFlags]
  · exact getG_status_self _ _ _ hd
  · rw [fflags_status, fflags_addFlags]

/-! TIME, WAITT, BAR and HALT (R429, R430, R434). -/

theorem w64_le {a b : Word} : a ≤ b ↔ a.toNat ≤ b.toNat := BitVec.le_def

section
variable {s : State} {o : CFmt}

theorem exec_waitt (h : GuardOn s o.gn o.gs) : exec (.waitt o) s = .next
    (if s.getG o.a ≤ s.sys.time then s.advance
    else if s.onCore then s.waits (.time (s.getG o.a))
    else (s.waits (.time (s.getG o.a))).post (s.getG o.a - s.sys.time).toNat .waittExpiry
      (.tileIdx { die := s.die, tile := s.tix, i := s.cix })) :=
  congrArg Host.Outcome.next (guarded_on h _)

theorem waitt_parks (h : GuardOn s o.gn o.gs) (ht : s.sys.time.toNat < (s.getG o.a).toNat) :
    ∃ u, exec (.waitt o) s = .next u ∧ u.pc = s.pc ∧ u.hart.wait = .time (s.getG o.a) ∧ u.mem = s.mem ∧ ∀ k, u.getG k = s.getG k := by
  rw [exec_waitt h, if_neg (fun hle => absurd (w64_le.1 hle) (not_le.2 ht))]
  split
  · exact ⟨_, rfl, pc_waits .., wait_waits .., waits_mem .., getG_waits s _⟩
  · have hp := sameAgents_post (s.waits (.time (s.getG o.a))) (s.getG o.a - s.sys.time).toNat .waittExpiry
      (.tileIdx { die := s.die, tile := s.tix, i := s.cix })
    refine ⟨_, rfl, hp.pc.trans (pc_waits ..), ?_, waits_mem .., fun k => (hp.getG k).trans (getG_waits s _ k)⟩
    rw [hp.hart, wait_waits]

/-- A parked context whose time has come goes on. -/
theorem waittExpiry_goes_on {d k c : Nat} (harg : s.arg = .tileIdx { die := d, tile := k, i := c }) (hl : (s.ctx d k c).live = true)
    (hi : s.tileIssues d k = true) {x : Word} (hw : (s.ctx d k c).hart.wait = .time x) (ht : x.toNat ≤ s.sys.time.toNat) :
    ∃ u, exec .waittExpiry s = .next u ∧ (u.ctx d k c).hart.wait = .run ∧ (u.ctx d k c).hart.pc = (s.ctx d k c).hart.pc + 8
      ∧ u.mem = s.mem := by
  refine ⟨s.modHartOf (.ctx d k c) fun h => { h with pc := h.pc + 8, wait := .run }, congrArg Host.Outcome.next ?_, ?_⟩
  · simp only [harg, hw, hl, hi, w64_le.2 ht, Bool.not_true, Bool.or_self, Bool.false_eq_true, if_false, if_true]
  · have hx := ctx_modCtx_self s d k c fun y => { y with hart := { y.hart with pc := y.hart.pc + 8, wait := .run } }
    exact ⟨congrArg (fun y => y.hart.wait) hx, congrArg (fun y => y.hart.pc) hx, rfl⟩

theorem exec_halt (h : SupOn s o.gn o.gs) : exec (.halt o) s =
    if (s.onCore = true ∧ s.sys.evpend = 0) ∨ (s.onCore = false ∧ s.mySlot.state = .armed) then .next (s.waits .halt)
    else .next s.advance := by
  refine (congrArg Host.Outcome.next (guardedSup_on h _)).trans ?_
  cases hc : s.onCore <;> by_cases he : s.sys.evpend = 0 <;> by_cases hs : s.mySlot.state = .armed <;> simp [he, hs]

/-- What BAR does to a context that waits at a barrier. -/
def passBar (x : Context) : Context := { x.orderLate false with hart := { x.hart with pc := x.hart.pc + 8, wait := .run } }

/-- The contexts of a list go on past their barrier. -/
def barPass (s : State) (l : List (Nat × Nat)) : State := l.foldl (fun s w => s.modCtx s.die w.1 w.2 passBar) s

theorem exec_bar (h : CtxOn s o.gn o.gs) {i : Nat} (hs : s.mySlotIx = some i) :
    let id := o.imm.toNat % 16
    let b := (s.slot s.die i).bars.get id .init
    let n := if b.count = 0 then o.imm.toNat / 2 ^ 16 % 1024 + 1 else b.n
    exec (.bar o) s = .next (if n ≤ b.count + 1 then
        (barPass ((s.modSlot s.die i fun r => { r with bars := r.bars.set id .init }).orderLate false) b.waiting).advance
      else (s.modSlot s.die i fun r => { r with
        bars := r.bars.set id { count := b.count + 1, n := n, waiting := (s.tix, s.cix) :: b.waiting } }).waits (.bar id)) := by
  intro id b n
  refine congrArg Host.Outcome.next ((guardedCtx_on h _).trans ?_)
  have hid : o.f 3 0 = id := by rw [CFmt.f, Nat.pow_zero, Nat.div_one]; rfl
  have hn : (if b.count == 0 then o.f 25 16 + 1 else b.n) = n := by simp only [beq_iff_eq]; rfl
  simp only [hs, hid]
  rw [hn]
  exact if_congr Iff.rfl rfl rfl

end

theorem ctx_barPass_of_notMem (s : State) {l : List (Nat × Nat)} {t c : Nat} (h : (t, c) ∉ l) :
    (barPass s l).ctx s.die t c = s.ctx s.die t c := by
  induction l generalizing s with
  | nil => rfl
  | cons w r ih =>
    obtain ⟨hw, hr⟩ := not_or.1 (mt List.mem_cons.2 h)
    refine (ih (s.modCtx s.die w.1 w.2 passBar) hr).trans ?_
    refine (ctx_modCtx ..).trans (if_neg ?_)
    rintro ⟨ht, hc⟩
    exact hw (Prod.ext (Nat.add_left_cancel ht) hc)

/-- Each context of a list without repeats goes on once. -/
theorem ctx_barPass_of_mem (s : State) {l : List (Nat × Nat)} (hl : l.Nodup) {w : Nat × Nat} (h : w ∈ l) :
    (barPass s l).ctx s.die w.1 w.2 = passBar (s.ctx s.die w.1 w.2) := by
  induction l generalizing s with
  | nil => cases h
  | cons v r ih =>
    obtain ⟨hv, hr⟩ := List.nodup_cons.1 hl
    obtain rfl | h := List.mem_cons.1 h
    · exact (ctx_barPass_of_notMem (s.modCtx s.die w.1 w.2 passBar) hv).trans (ctx_modCtx_self ..)
    · refine (ih (s.modCtx s.die v.1 v.2 passBar) hr h).trans (congrArg passBar ?_)
      refine (ctx_modCtx ..).trans (if_neg ?_)
      rintro ⟨ht, hc⟩
      exact hv (Prod.ext (x := w) (y := v) (Nat.add_left_cancel ht) hc ▸ h)

/-- The state in which the executing context's stores are ordered below pod scope (R146). -/
theorem orderLate_keeps (s : State) (pod : Bool) :
    (s.orderLate pod).cur = s.cur ∧ (s.orderLate pod).mem = s.mem ∧ (s.orderLate pod).slots = s.slots ∧ (s.orderLate pod).pc = s.pc
      ∧ ∀ t c, (t, c) ≠ (s.tix, s.cix) → (s.orderLate pod).ctx s.die t c = s.ctx s.die t c := by
  unfold State.orderLate
  split
  · exact ⟨rfl, rfl, rfl, rfl, fun _ _ _ => rfl⟩
  · next h => 
    have hc : s.onCore = false := by simp only [Bool.or_eq_true, not_or, Bool.not_eq_true] at h; exact h.1
    refine ⟨rfl, rfl, rfl, (sameRun_modMe hc rfl).2.1, fun t c hne => ?_⟩
    rw [State.modMe, ctx_modCtx, if_neg]
    rintro ⟨ht, rfl⟩
    exact hne (Prod.ext (by simp only; omega) rfl)

theorem late_orderLate {s : State} (h : s.onCore = false) :
    (s.orderLate false).me.late = s.me.late.map fun e => { e with far := true } := by
  unfold State.orderLate
  split
  · next hl => 
    rw [h, Bool.false_or, List.isEmpty_iff] at hl
    rw [hl]; rfl
  · rw [me_modMe]; rfl

/-- The arrival that lets the contexts of a list go on: it orders its own stores, and theirs, below pod scope. -/
theorem barPass_advance {s : State} (hc : s.onCore = false) {l : List (Nat × Nat)} (hl : l.Nodup) (hself : (s.tix, s.cix) ∉ l) :
    let t := (barPass (s.orderLate false) l).advance
    t.pc = s.pc + 8 ∧ t.slots = s.slots ∧ t.mem = s.mem ∧ t.me.late = s.me.late.map (fun e => { e with far := true })
      ∧ ∀ w ∈ l, t.ctx s.die w.1 w.2 = passBar (s.ctx s.die w.1 w.2) := by
  have hlate : (s.orderLate false).me.late = _ := late_orderLate hc
  obtain ⟨hcur, hmem, hslots, hpc, hctx⟩ := orderLate_keeps s false
  generalize s.orderLate false = u at hcur hmem hslots hpc hctx hlate
  have keeps : ∀ {α : Type} (view : State → α), (∀ t d k c f, view (State.modCtx t d k c f) = view t) → view (barPass u l) = view u :=
    fun view hv => foldl_keeps view (fun _ _ => hv ..) _ _
  have hdie : u.die = s.die := by rw [State.die, hcur]; rfl
  have htix : u.tix = s.tix := by rw [State.tix, hcur]; rfl
  have hcix : u.cix = s.cix := by rw [State.cix, hcur]; rfl
  have huc : u.onCore = false := by rw [State.onCore, hcur]; exact hc
  have hme := ctx_barPass_of_notMem u (htix ▸ hcix ▸ hself)
  have hmem' := fun (w : Nat × Nat) (hw : w ∈ l) => ctx_barPass_of_mem u hl hw
  have hcur' := keeps State.cur fun _ _ _ _ _ => rfl
  have hslots' := keeps State.slots fun _ _ _ _ _ => rfl
  have hm := keeps State.mem fun _ _ _ _ _ => rfl
  generalize barPass u l = t at hme hmem' hcur' hslots' hm
  have htc : t.onCore = false := by rw [State.onCore, hcur']; exact huc
  have htme : t.me = u.me := by
    rwa [State.me, State.die, State.tix, State.cix, hcur']
  refine ⟨?_, ?_, ?_, ?_, fun w hw => ?_⟩
  · rw [pc_advance, State.pc, hart_me htc, htme, ← hart_me huc]
    exact congrArg (· + 8) hpc
  · rw [advance_slots, hslots', hslots]
  · rw [advance_mem, hm, hmem]
  · rw [me_advance htc]
    exact htme ▸ hlate
  · have hne : w ≠ (s.tix, s.cix) := fun he => hself (he ▸ hw)
    rw [State.advance, modHart_me htc, State.modMe, ctx_modCtx, if_neg, ← hdie, hmem' w hw, hdie, hctx w.1 w.2 hne]
    have htd : t.die = s.die := by rw [State.die, hcur', hcur]; rfl
    have htt : t.tix = s.tix := by rw [State.tix, hcur', hcur]; rfl
    have htk : t.cix = s.cix := by rw [State.cix, hcur', hcur]; rfl
    rw [htd, htt, htk]
    rintro ⟨ht, hk⟩
    exact hne (Prod.ext (Nat.add_left_cancel ht) hk)

section
variable {s : State} {o : CFmt} (h : CtxOn s o.gn o.gs) {i : Nat} (hs : s.mySlotIx = some i)
include h hs

/-- The arrival that does not complete its generation waits. -/
theorem bar_waits (hlt : let b := (s.slot s.die i).bars.get (o.imm.toNat % 16) .init
      b.count + 1 < if b.count = 0 then o.imm.toNat / 2 ^ 16 % 1024 + 1 else b.n) :
    let id := o.imm.toNat % 16
    let b := (s.slot s.die i).bars.get id .init
    let n := if b.count = 0 then o.imm.toNat / 2 ^ 16 % 1024 + 1 else b.n
    ∃ u, exec (.bar o) s = .next u ∧ u.pc = s.pc ∧ u.hart.wait = .bar id ∧ u.mem = s.mem
      ∧ (u.slot s.die i).bars.get id .init = { count := b.count + 1, n := n, waiting := (s.tix, s.cix) :: b.waiting } := by
  intro id b n
  refine ⟨_, (exec_bar h hs).trans (congrArg Host.Outcome.next (if_neg (not_le.2 hlt))), pc_waits .., wait_waits .., waits_mem .., ?_⟩
  rw [slot_of_slots (waits_slots ..), slot_modSlot_self, tbl_get_set, if_pos rfl]

/-- The arrival that completes its generation lets every waiting context go on. -/
theorem bar_completes (hle : let b := (s.slot s.die i).bars.get (o.imm.toNat % 16) .init
      (if b.count = 0 then o.imm.toNat / 2 ^ 16 % 1024 + 1 else b.n) ≤ b.count + 1) :
    let id := o.imm.toNat % 16
    let b := (s.slot s.die i).bars.get id .init
    b.waiting.Nodup → (s.tix, s.cix) ∉ b.waiting → ∃ u, exec (.bar o) s = .next u ∧ u.pc = s.pc + 8
      ∧ (u.slot s.die i).bars.get id .init = .init ∧ u.mem = s.mem ∧ u.me.late = s.me.late.map (fun e => { e with far := true })
      ∧ ∀ w ∈ b.waiting, (u.ctx s.die w.1 w.2).hart.wait = .run ∧ (u.ctx s.die w.1 w.2).hart.pc = (s.ctx s.die w.1 w.2).hart.pc + 8
        ∧ (u.ctx s.die w.1 w.2).late = (s.ctx s.die w.1 w.2).late.map fun e => { e with far := true } := by
  intro id b hnd hme
  refine ⟨_, (exec_bar h hs).trans (congrArg Host.Outcome.next (if_pos hle)), ?_⟩
  obtain ⟨hpc, hslots, hmem, hlate, hctx⟩ := barPass_advance
    (s := s.modSlot s.die i fun r => { r with bars := r.bars.set id .init }) h.1 hnd hme
  refine ⟨hpc, ?_, hmem, hlate, fun w hw => ?_⟩
  · rw [slot_of_slots hslots, slot_modSlot_self, tbl_get_set, if_pos rfl]
  · have hw' := hctx w hw
    refine ⟨congrArg (fun x => x.hart.wait) hw', congrArg (fun x => x.hart.pc) hw', congrArg (fun x => x.late) hw'⟩

end

/-- Settles O39. -/
theorem timeAndBarrierResults : Obligations.TimeAndBarrierResults := by
  intro s o t id
  refine ⟨fun h => congrArg Host.Outcome.next (guarded_on h _), fun h ht => ?_, fun h ht => waitt_parks h ht,
    fun d k c harg hl hi x hw ht => waittExpiry_goes_on harg hl hi hw ht,
    fun h i hs => ⟨fun hlt => bar_waits h hs hlt, fun hle hnd hme => bar_completes h hs hle hnd hme⟩, fun h => ?_⟩
  · rw [exec_waitt h, if_pos (w64_le.2 ht)]
  · exact exec_halt h

end Sys2Proof.Laws

/-! O38: TRPUB and LAUNCH (18 R424, R425; 04 R75). -/

namespace Sys2Proof.Laws

open Sys2Proof Sys2Proof.Machine Sys2Proof.Safety

/-! Instructions with memory operands (R275, R333). -/

/-- An address of control space at application level. -/
def Barred (s : State) (ea : Nat) : Prop := ea / 2 ^ 60 = 4 ∧ s.isSup = false

theorem not_barred {s : State} {ea : Nat} (h : ¬(ea / 2 ^ 60 == 4 && !s.isSup) = true) : ¬Barred s ea := by
  simpa [Barred] using h

theorem guardedFor_on {s : State} {o : CFmt} (h : CtxOn s o.gn o.gs) {eas : List Word} (hp : ∀ a ∈ eas, ¬Barred s a.toNat)
    (k : State → State) : s.guardedFor o eas k = k s := by
  rw [guardedFor_guarded h.1 hp, State.guarded, h.1, h.2]
  rfl

/-- A range that passes its checks is none of control space at application level. -/
theorem spot_path {s : State} {r : State × Place} {loc ea n align : Nat} {a : Acc} {free : Bool}
    (h : s.spot loc ea n align a free = .ok r) : ¬Barred s ea := by
  unfold State.spot at h
  simp only at h
  split at h
  · cases h
  · next hn => exact not_barred hn

theorem bind_ok {α β : Type} {x : Except State α} {f : α → Except State β} {r : β} (h : x >>= f = .ok r) : ∃ a, x = .ok a ∧ f a = .ok r := by
  cases x with
  | error e => cases h
  | ok a => exact ⟨a, rfl, h⟩

theorem spots_path {s : State} {loc align ea n : Nat} {a : Acc} {free : Bool} {l : List (Nat × Nat)}
    {r : State × List ((Nat × Nat) × Place)} (h : s.spots loc a align free ((ea, n) :: l) = .ok r) : ¬Barred s ea := by
  unfold State.spots at h
  obtain ⟨_, hs, -⟩ := bind_ok h
  exact spot_path hs

theorem lineSpot_path {s : State} {r : State × Place} {loc ea : Nat} (h : s.lineSpot loc ea = .ok r) : ¬Barred s ea := by
  unfold State.lineSpot at h
  split at h
  · cases h
  · next hn => exact not_barred hn

theorem getLine_path {s : State} {r : State × Nat} {ea : Nat} (h : s.getLine ea = .ok r) : ¬Barred s ea := by
  unfold State.getLine at h
  obtain ⟨_, hs, -⟩ := bind_ok h
  exact lineSpot_path hs

/-! TRPUB (R424). -/

/-- A malformed ring line. -/
def BadRing (x : Nat) : Prop := x / 2 ^ 64 % 32 < 4 ∨ 24 < x / 2 ^ 64 % 32 ∨ x / 2 ^ 69 % 2 ^ 59 ≠ 0 ∨ x / 2 ^ 192 % 2 ^ 320 ≠ 0

theorem bits_wordsOf (x i h l : Nat) (hl : l ≤ h) (hh : h < 64) : bits (wordsOf x i) h l = x / 2 ^ (64 * i + l) % 2 ^ (h - l + 1) := by
  have hsplit : (2 : Nat) ^ 64 = 2 ^ l * (2 ^ (h - l + 1) * 2 ^ (63 - h)) := by rw [← Nat.pow_add, ← Nat.pow_add]; congr 1; omega
  rw [bits, wordsOf, w64, BitVec.toNat_ofNat, hsplit, Nat.shiftRight_eq_div_pow, Nat.mod_mul_right_div_self, Nat.mod_mul_right_mod,
    Nat.div_div_eq_div_mul, ← Nat.pow_add]

theorem wordsOf_ne_zero (x i : Nat) : (wordsOf x i != 0) = true ↔ x / 2 ^ (64 * i) % 2 ^ 64 ≠ 0 := by
  rw [bne_iff_ne, ne_eq, ← BitVec.toNat_inj, wordsOf, w64, BitVec.toNat_ofNat]
  rfl

theorem badRing_iff (x : Nat) : let w := wordsOf x
    (bits (w 1) 4 0 < 4 || 24 < bits (w 1) 4 0 || bits (w 1) 63 5 != 0 || [3, 4, 5, 6, 7].any fun i => w i != 0) = true ↔ BadRing x := by
  intro w
  have h0 : bits (w 1) 4 0 = x / 2 ^ 64 % 32 := bits_wordsOf x 1 4 0 (by decide) (by decide)
  have h5 : bits (w 1) 63 5 = x / 2 ^ 69 % 2 ^ 59 := bits_wordsOf x 1 63 5 (by decide) (by decide)
  have hpad : ([3, 4, 5, 6, 7].any fun i => w i != 0) = true ↔ x / 2 ^ 192 % 2 ^ 320 ≠ 0 := by
    simp only [List.any_cons, List.any_nil, Bool.or_false, Bool.or_eq_true, w, wordsOf_ne_zero]
    omega
  rw [h0, h5]
  simp only [Bool.or_eq_true, decide_eq_true_eq, bne_iff_ne, hpad, BadRing, or_assoc]

theorem ring_lsize (x : Nat) : bits (wordsOf x 1) 4 0 = x / 2 ^ 64 % 32 := bits_wordsOf x 1 4 0 (by decide) (by decide)

theorem ring_count (x : Nat) : (wordsOf x 0).toNat = x % 2 ^ 64 := by
  rw [wordsOf, w64, BitVec.toNat_ofNat, Nat.mul_zero, Nat.pow_zero, Nat.div_one]

theorem ring_behind (x k : Nat) :
    (wordsOf x 0 + w64 k - wordsOf x 2).toNat = (x % 2 ^ 64 + k + 2 ^ 64 - x / 2 ^ 128 % 2 ^ 64) % 2 ^ 64 := by
  rw [BitVec.toNat_sub, BitVec.toNat_add, ring_count, wordsOf, w64, w64, BitVec.toNat_ofNat, BitVec.toNat_ofNat]
  omega

section
variable {s u : State} {o : CFmt} {x : Nat} (h : CtxOn s o.gn o.gs)
  (hw : s.regWait [o.b] (maskOf fun i => i < o.f 6 0) = none) (hl : s.getLine (s.getG o.a).toNat = .ok (u, x))
include h hw hl

theorem exec_trpub_bad (hb : BadRing x) : exec (.trpub o) s = .next (u.status o (2 ^ 64 - 2)) := by
  refine congrArg Host.Outcome.next ((guardedFor_on h (List.forall_mem_singleton.2 (getLine_path hl)) _).trans ?_)
  simp only [hw, hl, bind, Except.bind]
  rw [if_pos ((badRing_iff x).2 hb)]
  rfl

theorem exec_trpub_full (hb : ¬BadRing x) (hf : 2 ^ (x / 2 ^ 64 % 32) < (x % 2 ^ 64 + o.f 6 0 + 2 ^ 64 - x / 2 ^ 128 % 2 ^ 64) % 2 ^ 64) :
    exec (.trpub o) s = .next (u.status o (2 ^ 64 - 1)) := by
  refine congrArg Host.Outcome.next ((guardedFor_on h (List.forall_mem_singleton.2 (getLine_path hl)) _).trans ?_)
  simp only [hw, hl, bind, Except.bind]
  rw [if_neg (mt (badRing_iff x).1 hb), if_pos (by rw [ring_behind, ring_lsize]; exact hf)]
  rfl

/-- What TRPUB does with a ring that has room: the lanes first, and then the count. -/
theorem exec_trpub_publishes (hb : ¬BadRing x)
    (hf : (x % 2 ^ 64 + o.f 6 0 + 2 ^ 64 - x / 2 ^ 128 % 2 ^ 64) % 2 ^ 64 ≤ 2 ^ (x / 2 ^ 64 % 32)) {s1 s2 s3 : State}
    {ps : List ((Nat × Nat) × Place)} {p0 : Place} {p1 : Phys}
    (hps : u.spots 1 .write 4 false ((List.range (o.f 6 0)).map fun i =>
      ((s.getG o.a).toNat + 64 + 4 * ((x % 2 ^ 64 + i) % 2 ^ (x / 2 ^ 64 % 32)), 4)) = .ok (s1, ps))
    (hp0 : s1.spot 1 (s.getG o.a).toNat 8 8 .write false = .ok (s2, p0))
    (h3 : s3 = s2.writeSpots ps ((List.range (o.f 6 0)).flatMap fun i => leOf 4 (laneOf s o.b i).toNat))
    (hp1 : s3.check s3.req (s.getG o.a).toNat 8 .write = .ok p1) :
    exec (.trpub o) s = .next (((s3.noteStore (s.getG o.a).toNat p1 8).wr p1 (leOf 8 (x % 2 ^ 64 + o.f 6 0))).status o (x % 2 ^ 64 + o.f 6 0)) := by
  refine congrArg Host.Outcome.next ((guardedFor_on h (List.forall_mem_singleton.2 (getLine_path hl)) _).trans ?_)
  simp only [hw, hl, bind, Except.bind]
  rw [if_neg (mt (badRing_iff x).1 hb), if_neg (by rw [ring_behind, ring_lsize]; exact not_lt.2 hf)]
  have h3 : s2.writeSpots ps ((List.range (o.f 6 0)).flatMap fun i => leOf 4 (vget (s.readV o.b.toNat) i 0).toNat) = s3 := h3.symm
  simp only [ring_count, ring_lsize, hps, hp0, h3, hp1]
  rfl

end

/-! LAUNCH (R425, R75). -/

/-- The record in 64 bytes. -/
def recordOf (bs : List Byte) : Vector Word 8 := Vector.ofFn fun i => wordAt bs (8 * i.val)

theorem vget_recordOf (bs : List Byte) {i : Nat} (hi : i < 8) :
    vget (recordOf bs) i 0 = BitVec.ofNat 64 (leVal ((bs.drop (8 * i)).take 8)) := by
  rw [vget, dif_pos hi, recordOf, Vector.getElem_ofFn]
  rfl

/-- A queue with a record put into a berth. -/
def berthed (s : State) (d q : Nat) (r : Vector Word 8) : State := s.modQueue d q fun x => { x with berth := x.berth ++ [r] }

section
variable {s u : State} {o : CFmt} {s1 : State} {ps : List ((Nat × Nat) × Place)} {bs : List Byte} (h : CtxOn s o.gn o.gs)
  (hps : s.spots 1 .read 64 false [((s.getG o.a).toNat, 64)] = .ok (s1, ps)) (hbs : s1.readSpots 1 ps = .ok (u, bs))
include h hps hbs

/-- What LAUNCH does with the record that it reads. -/
theorem exec_launch {d q : Nat} (hd : (if o.imm.getLsbD 10 = true then s.die else o.imm.toNat / 256 % 4) = d) (hq : o.imm.toNat % 8 = q) :
    exec (.launch o) s = .next (if !u.qEnabled d q then u.status o 2
      else if 4 ≤ ((u.box d).queue q).berth.length then u.status o 1
      else ((berthed u d q (recordOf bs)).status o 0).postTake d) := by
  refine congrArg Host.Outcome.next ((guardedFor_on h (List.forall_mem_singleton.2 (spots_path hps)) _).trans ?_)
  have hq : o.f 2 0 = q := by rw [CFmt.f, Nat.pow_zero, Nat.div_one]; exact hq
  have hd : (if o.imm.getLsbD 10 then s.die else o.f 9 8) = d := hd
  simp only [hps, hbs, bind, Except.bind]
  rw [hq, hd]
  rfl

end

theorem status_berthed (u : State) (o : CFmt) (d q : Nat) (r : Vector Word 8) :
    let t := ((berthed u d q r).status o 0).postTake d
    t.pc = u.pc + 8 ∧ (o.d ≠ 0 → t.getG o.d = 0) ∧ (∀ x, x ≠ o.d → t.getG x = u.getG x)
      ∧ ((t.box d).queue q).berth = ((u.box d).queue q).berth ++ [r] := by
  intro t
  have hp : SameAgents ((berthed u d q r).status o 0) t := sameAgents_post _ _ _ _
  refine ⟨hp.pc.trans (steps_status (berthed u d q r) o 0).1, fun hd => (hp.getG _).trans (getG_status_self _ _ _ hd),
    fun x hx => (hp.getG _).trans (getG_status_ne (berthed u d q r) o 0 hx), ?_⟩
  have hbox : t.boxes = (berthed u d q r).boxes := by
    show ((State.setG _ _ _).advance).boxes = _
    rw [advance_boxes, setG_boxes]
  rw [State.box, hbox]
  exact congrArg Queue.berth (queue_modQueue_self u d q fun x => { x with berth := x.berth ++ [r] })

/-- Settles O38. -/
theorem publishAndLaunchResults : Obligations.PublishAndLaunchResults := by
  intro s u o x h k ea c0 lsize seen bad behind st d q
  have hk : o.f 6 0 = k := by rw [CFmt.f, Nat.pow_zero, Nat.div_one]; rfl
  refine ⟨fun hw hl => ?_, fun s1 ps bs hps hbs => ?_⟩
  · rw [← hk] at hw
    refine ⟨fun hb => exec_trpub_bad h hw hl hb, fun hb hf => exec_trpub_full h hw hl hb (by rw [hk]; exact hf),
      fun hb hf s1 s2 s3 ps p0 p1 hps hp0 h3 hp1 => ?_⟩
    have := exec_trpub_publishes h hw hl hb (by rw [hk]; exact hf) (by rw [hk]; exact hps) hp0 (by rw [hk]; exact h3) hp1
    rwa [hk] at this
  · rw [exec_launch h hps hbs (d := d) (q := q) rfl rfl]
    refine ⟨fun hq => ?_, fun hq hb => ?_, fun hq hb => ?_⟩
    · rw [hq]; rfl
    · rw [hq, if_neg (by decide), if_pos hb]; rfl
    · obtain ⟨hpc, hself, hne, hberth⟩ := status_berthed u o d q (recordOf bs)
      rw [hq, if_neg (by decide), if_neg (not_le.2 hb)]
      exact ⟨_, _, rfl, hpc, hself, hne, fun i hi => vget_recordOf bs hi, hberth⟩

end Sys2Proof.Laws

/-! O40: cached translations, trigger slots and configuration records (06 R121; 18 R432, R433; 05 R89). -/

namespace Sys2Proof.Laws

open Sys2Proof Sys2Proof.Machine Sys2Proof.Safety

/-! TLBI (R432). -/

/-- The 64 KiB fragment that a cached translation lies in. -/
theorem entry_fragment (e : TlbEntry) : e.vpn * e.size / 2 ^ 16 = if e.big then e.vpn else e.vpn / 16 := by
  unfold TlbEntry.size
  split <;> omega

theorem inFragment_eq (s : State) (o : CFmt) (e : TlbEntry) :
    s.inFragment o e = decide ((if e.big then e.vpn else e.vpn / 16) = (s.getG o.a).toNat % 2 ^ 57 / 2 ^ 16) := by
  have hb : bits (s.getG o.a) 56 16 = (s.getG o.a).toNat % 2 ^ 57 / 2 ^ 16 := by
    rw [bits, Nat.shiftRight_eq_div_pow]
    omega
  rw [State.inFragment, entry_fragment, hb]
  rfl

theorem ofAsid_eq (s : State) (o : CFmt) (e : TlbEntry) : s.ofAsid o e = decide (e.asid = (s.getG o.b).toNat % 2 ^ 16) := rfl

theorem orderLate_registers (s : State) (pod : Bool) : Kept s (s.orderLate pod) ∧ ∀ n, (s.orderLate pod).getG n = s.getG n := by
  unfold State.orderLate
  split
  · exact ⟨kept_refl s, fun _ => rfl⟩
  · next h =>
    have hc : s.onCore = false := by simp only [Bool.or_eq_true, not_or, Bool.not_eq_true] at h; exact h.1
    exact ⟨kept_modMe _ hc rfl rfl rfl rfl rfl, fun n => getG_modMe hc _ rfl n⟩

/-- A TLBI drops the cached translations that its kind names, and no others. -/
theorem tlbi_drops {s : State} {o : CFmt} (h : SupOn s o.gn o.gs) (f : State → TlbEntry → Bool) :
    MovedOn s (s.tlbi o f) ∧ ∀ e, e ∈ (s.tlbi o f).tlb ↔ e ∈ s.tlb ∧ f s e = false := by
  have he : s.tlbi o f = (({ s.orderLate false with tlb := s.tlb.filter fun e => !f s e } : State)).advance := guardedSup_on h _
  obtain ⟨-, hmem, -, hpc, -⟩ := orderLate_keeps s false
  obtain ⟨hk, hg⟩ := orderLate_registers s false
  have hsame : SameAgents (s.orderLate false) { s.orderLate false with tlb := s.tlb.filter fun e => !f s e } := ⟨rfl, rfl, fun _ _ _ => rfl⟩
  rw [he]
  refine ⟨⟨steps_of_kept (hsame.pc.trans hpc) hmem (kept_trans hk hsame.kept) (steps_advance _), fun n => ?_⟩, fun e => ?_⟩
  · rw [getG_advance, hsame.getG, hg]
  · rw [advance_tlb, List.mem_filter, Bool.not_eq_true']

/-! CFGLD (R433). -/

section
variable {s : State} {o : CFmt} (h : SupOn s o.gn o.gs) {d i : Nat} (hd : o.imm.toNat / 256 % 4 = d) (hi : o.imm.toNat % 16 = i)
include h hd hi

theorem exec_cfgld : exec (.cfgld o) s = .next (if (s.slot d i).owner.isSome then s.status o 3
    else match s.loadConfig d i (s.getG o.a).toNat (o.imm.getLsbD 4) with
      | .wait => s.waits (.load d i)
      | .ok t => (t.status o 0).settle d
      | .status 259 => s.trap 4 1 (s.getG o.a)
      | .status n => s.status o n) := by
  have hi : o.f 3 0 = i := by rw [CFmt.f, Nat.pow_zero, Nat.div_one]; exact hi
  have hd : o.f 9 8 = d := hd
  rw [← hi, ← hd]
  exact congrArg Host.Outcome.next (guardedSup_on h _)

theorem cfgld_owned (ho : (s.slot d i).owner ≠ none) : exec (.cfgld o) s = .next (s.status o 3) := by
  rw [exec_cfgld h hd hi, if_pos (Option.isSome_iff_ne_none.2 ho)]

end

/-! TRGLD (R433, R89). -/

/-- A tile with a trigger slot loaded. -/
def trigLoaded (t : Tile) (k : Nat) (w0 w1 : Word) : Tile :=
  { t with trg := vput (vput t.trg (2 * k) w0) (2 * k + 1) w1, age := vput t.age k 0, promo := vput t.promo k none,
           onego := t.onego &&& ~~~(1#16 <<< k) }

theorem trigLoaded_spec (t : Tile) {k : Nat} (hk : k < 16) (w0 w1 : Word) :
    (trigLoaded t k w0 w1).onego.getLsbD k = false ∧ vget (trigLoaded t k w0 w1).age k 1 = 0
      ∧ vget (trigLoaded t k w0 w1).promo k none = none
      ∧ ∀ j, j < 32 → vget (trigLoaded t k w0 w1).trg j 0 = if j = 2 * k then w0 else if j = 2 * k + 1 then w1 else vget t.trg j 0 := by
  refine ⟨?_, vget_vput_self _ _ _ _ hk, vget_vput_self _ _ _ _ hk, fun j hj => ?_⟩
  · simp [trigLoaded, hk]
  · show vget (vput (vput t.trg (2 * k) w0) (2 * k + 1) w1) j 0 = _
    by_cases h1 : j = 2 * k + 1
    · rw [if_neg (by omega), if_pos h1, h1, vget_vput_self _ _ _ _ (by omega)]
    · rw [vget_vput_ne _ _ _ (Ne.symm h1), if_neg h1]
      by_cases h0 : j = 2 * k
      · rw [if_pos h0, h0, vget_vput_self _ _ _ _ (by omega)]
      · rw [if_neg h0, vget_vput_ne _ _ _ (Ne.symm h0)]

theorem myTile_modHart (s : State) (f : Hart → Hart) : (s.modHart f).myTile = { s.myTile with ctxs := (s.modHart f).myTile.ctxs } := by
  rw [myTile_of_cur (modHart_cur s f)]
  exact tile_modHart s f s.die s.tix

theorem myTile_setG (s : State) (n : BitVec 5) (v : Word) : (s.setG n v).myTile = { s.myTile with ctxs := (s.setG n v).myTile.ctxs } := by
  unfold State.setG
  split
  · rfl
  · exact myTile_modHart s _

/-- A status changes no tile beside the contexts' registers. -/
theorem myTile_status (s : State) (o : CFmt) (n : Nat) : (s.status o n).myTile = { s.myTile with ctxs := (s.status o n).myTile.ctxs } := by
  have h := myTile_modHart (s.setG o.d (w64 n)) fun h => { h with pc := h.pc + 8, wait := .run }
  rw [myTile_setG] at h
  exact h

section
variable {s s1 u : State} {o : CFmt} {ps : List ((Nat × Nat) × Place)} {bs : List Byte} (h : SupOn s o.gn o.gs) (hc : s.onCore = false)
  (hps : s.spots 1 .read 1 false (spans 2 (s.getG o.a).toNat 16) = .ok (s1, ps)) (hbs : s1.readSpots 1 ps = .ok (u, bs))
include h hc hps hbs

theorem exec_trgld {k : Nat} (hk : o.imm.toNat % 16 = k) : exec (.trgld o) s = .next (if !trgOk (wordAt bs 0) (wordAt bs 8) then u.status o 2
    else if u.mySlot.state != .armed then u.status o 3
    else ((u.modMyTile fun t => trigLoaded t k (wordAt bs 0) (wordAt bs 8)).post 1 .triggerFire (.tileRef { die := u.die, tile := u.tix })).status o 0) := by
  have hk : o.f 3 0 = k := by rw [CFmt.f, Nat.pow_zero, Nat.div_one]; exact hk
  have hctx : CtxOn s o.gn o.gs := ⟨hc, by simpa [SupOn, GuardOn, hc] using h.2⟩
  refine congrArg Host.Outcome.next ((guardedSup_ctx h.1 hctx false _).trans ?_)
  simp only [hps, hbs, bind, Except.bind]
  rw [hk]
  rfl

end

/-- A record of a trigger slot loaded into the executing context's tile. -/
theorem trgld_loads (u : State) (o : CFmt) {k : Nat} (hk : k < 16) (w0 w1 : Word) (ev : Instr) (x : Arg) :
    let t := ((u.modMyTile fun t => trigLoaded t k w0 w1).post 1 ev x).status o 0
    t.pc = u.pc + 8 ∧ t.mem = u.mem ∧ t.myTile.onego.getLsbD k = false ∧ vget t.myTile.age k 1 = 0 ∧ vget t.myTile.promo k none = none
      ∧ ∀ j, j < 32 → vget t.myTile.trg j 0 = if j = 2 * k then w0 else if j = 2 * k + 1 then w1 else vget u.myTile.trg j 0 := by
  intro t
  have hsame : SameAgents u ((u.modMyTile fun t => trigLoaded t k w0 w1).post 1 ev x) :=
    (sameAgents_modTile u _ _ rfl).trans (sameAgents_post _ _ _ _)
  obtain ⟨hpc, hmem, -⟩ := steps_status ((u.modMyTile fun t => trigLoaded t k w0 w1).post 1 ev x) o 0
  have htile : t.myTile = { trigLoaded u.myTile k w0 w1 with ctxs := t.myTile.ctxs } := by
    rw [myTile_status]
    exact congrArg (fun y : Tile => { y with ctxs := t.myTile.ctxs }) (tile_modTile_self u u.die u.tix fun t => trigLoaded t k w0 w1)
  obtain ⟨hone, hage, hpromo, htrg⟩ := trigLoaded_spec u.myTile hk w0 w1
  rw [htile]
  exact ⟨hpc.trans (by rw [hsame.pc]), hmem, hone, hage, hpromo, htrg⟩

/-- Settles O40. -/
theorem translationAndConfigurationResults : Obligations.TranslationAndConfigurationResults := by
  intro s o h frag asid st r d i
  have drops : ∀ {j : Instr} {g : State → TlbEntry → Bool} {f : TlbEntry → Bool}, exec j s = .next (s.tlbi o g) → (∀ e, g s e = f e) →
      r j f := by
    intro j g f hj hf
    obtain ⟨hm, ht⟩ := tlbi_drops h g
    exact ⟨_, hj, hm, fun e => by rw [ht, hf]⟩
  refine ⟨drops rfl fun _ => rfl, drops rfl fun e => ofAsid_eq s o e, drops rfl fun e => ?_, drops rfl fun e => inFragment_eq s o e,
    cfgld_owned h rfl rfl, fun ho => ?_, fun hc s1 u ps bs hps hbs => ?_⟩
  · rw [ofAsid_eq, inFragment_eq]
  · have hno : ¬(s.slot d i).owner.isSome = true := by rw [ho]; decide
    refine ⟨fun t ht => ?_, fun n hn hl => ?_, fun hl => ?_⟩
    · rw [exec_cfgld h rfl rfl, if_neg hno, ht]; rfl
    · rw [exec_cfgld h rfl rfl, if_neg hno, hl]
      split
      · next e => cases e
      · next e => cases e
      · next e => cases e; exact absurd rfl hn
      · next e => cases e; rfl
    · rw [exec_cfgld h rfl rfl, if_neg hno, hl]
  · rw [exec_trgld h hc hps hbs rfl]
    refine ⟨fun hok => ?_, fun hok hst => ?_, fun hok hst => ?_⟩
    · rw [hok]; rfl
    · rw [hok, if_neg (by decide), if_pos (bne_iff_ne.2 hst)]; rfl
    · rw [hok, if_neg (by decide), if_neg (by rw [hst]; decide)]
      exact ⟨_, rfl, trgld_loads u o (Nat.mod_lt _ (by decide)) _ _ _ _⟩

end Sys2Proof.Laws

/-! O41: control and status registers (03 R58; 12 R277; 18 R428). -/

namespace Sys2Proof.Laws

open Sys2Proof Sys2Proof.Machine Sys2Proof.Safety

theorem csr_field (o : CFmt) : o.f 11 0 = o.imm.toNat % 4096 := by rw [CFmt.f, Nat.pow_zero, Nat.div_one]; rfl

section
variable {s : State} {o : CFmt} {n : Nat} (hn : o.f 11 0 = n) (write : Bool) (k : Nat → State → State)
include hn

/-- A number that the manual assigns to no register, or to a tile's or region's on a core. -/
theorem csrOp_alien (h : ¬(knownCsr n = true ∧ (s.onCore = true → n < 0x400 ∨ 0xC00 ≤ n))) : s.csrOp o write k = s.trap 1 0 s.ir := by
  have hc : (!knownCsr n || (s.onCore && decide (0x400 ≤ n) && decide (n < 0xC00))) = true := by
    cases hk : knownCsr n
    · rfl
    · cases hcore : s.onCore
      · exact absurd ⟨hk, fun hx => absurd (hcore.symm.trans hx) Bool.false_ne_true⟩ h
      · have : ¬(n < 0x400 ∨ 0xC00 ≤ n) := fun hx => h ⟨hk, fun _ => hx⟩
        rw [decide_eq_true (by omega : 0x400 ≤ n), decide_eq_true (by omega : n < 0xC00)]
        rfl
  rw [State.csrOp, hn, if_pos hc]
  rfl

/-- A register that the agent may use, under a guard that holds. -/
theorem csrOp_on (hk : knownCsr n = true) (hcore : s.onCore = true → n < 0x400 ∨ 0xC00 ≤ n) (hmay : s.isSup = true ∨ n < 0x400)
    (hg : GuardOn s o.gn o.gs) :
    s.csrOp o write k = if csrSettles n write && !s.onCore && !s.me.links.isEmpty then s.waits .settle else k n s := by
  have hown : ¬(!knownCsr n || (s.onCore && decide (0x400 ≤ n) && decide (n < 0xC00))) = true := by
    rw [hk]
    cases hc : s.onCore
    · exact Bool.false_ne_true
    · have := hcore hc
      simp only [Bool.not_true, Bool.true_and, Bool.false_or, Bool.and_eq_true, decide_eq_true_eq]
      omega
  have hpriv : ¬(!s.isSup && decide (0x400 ≤ n) && (write || !(tileCsr n && n != 0x401))) = true := by
    rcases hmay with hs | hlt
    · rw [hs]; exact Bool.false_ne_true
    · rw [decide_eq_false (by omega : ¬0x400 ≤ n), Bool.and_false, Bool.false_and]; exact Bool.false_ne_true
  rw [State.csrOp, hn, if_neg hown, if_neg hpriv, guarded_on hg]

theorem csrOp_settled (hk : knownCsr n = true) (hcore : s.onCore = true → n < 0x400 ∨ 0xC00 ≤ n) (hmay : s.isSup = true ∨ n < 0x400)
    (hg : GuardOn s o.gn o.gs) (hs : s.onCore = true ∨ s.me.links = []) : s.csrOp o write k = k n s := by
  rw [csrOp_on hn write k hk hcore hmay hg, if_neg]
  rcases hs with hs | hs <;> simp [hs]

theorem csrOp_settles (hk : knownCsr n = true) (hmay : s.isSup = true ∨ n < 0x400) (hg : GuardOn s o.gn o.gs) (hc : s.onCore = false)
    (hl : s.me.links ≠ []) (hset : csrSettles n write = true) : s.csrOp o write k = s.waits .settle := by
  rw [csrOp_on hn write k hk (fun h => absurd (hc.symm.trans h) Bool.false_ne_true) hmay hg, if_pos]
  simp [hset, hc, hl]

end

theorem writeCsr_fflags (s : State) (v w1 : Word) : (s.writeCsr 3 v w1).hart.fflags = BitVec.ofNat 7 v.toNat := by
  show (s.modHart fun h => { h with fflags := BitVec.ofNat 7 v.toNat }).hart.fflags = _
  rw [hart_modHart]

theorem writeCsr_rnd (s : State) (v w1 : Word) : (s.writeCsr 2 v w1).hart.rnd = v.toNat % 4 := by
  show (s.modHart fun h => { h with rnd := bits v 1 0 }).hart.rnd = _
  rw [hart_modHart]
  rfl

theorem writeCsr_tval (s : State) (v w1 : Word) : (s.writeCsr 0xA v w1).hart.tval = v := by
  show (s.modHart fun h => { h with tval := v }).hart.tval = _
  rw [hart_modHart]

/-- Settles O41. -/
theorem controlRegisterResults : Obligations.ControlRegisterResults := by
  intro s o n x all old own may settled
  have hn : o.f 11 0 = n := csr_field o
  have priv : own → ¬may → ∀ {write : Bool}, (write = true ∨ tileCsr n = false ∨ n = 0x401) → ∀ k,
      s.csrOp o write k = s.trap 2 0 (BitVec.ofNat 64 n) := by
    intro ho hm write hw k
    obtain ⟨hsup, hge⟩ := not_or.1 hm
    have hc : s.onCore = false := by
      cases hc : s.onCore
      · rfl
      · exact absurd (by rw [State.isSup, hc]; rfl) hsup
    have := csrOp_priv (c := o) (write := write) hc (hn ▸ ho.1) (Bool.eq_false_iff.2 hsup) (hn ▸ not_lt.1 hge) (hn ▸ hw) k
    rwa [hn] at this
  refine ⟨fun ho => ⟨?_, ?_, ?_, ?_⟩, fun ho hm i hi => ?_, fun ho hm hr => ?_, fun ho hm hg hs => ?_, fun ho hm hg hc hl => ⟨fun h3 => ?_, fun h1 i hi => ?_⟩⟩
  · exact congrArg Host.Outcome.next (csrOp_alien hn _ _ ho)
  · exact congrArg Host.Outcome.next (csrOp_alien hn _ _ ho)
  · exact congrArg Host.Outcome.next (csrOp_alien hn _ _ ho)
  · exact congrArg Host.Outcome.next (csrOp_alien hn _ _ ho)
  · obtain ⟨k, hk⟩ := csrWrites s o i hi
    rw [hk, priv ho hm (.inl rfl)]
  · refine congrArg Host.Outcome.next (priv ho hm (.inr ?_) _)
    rcases hr with hr | hr
    · exact .inr hr
    · refine .inl ?_
      unfold tileCsr
      simp only [Bool.or_eq_false_iff, beq_eq_false_iff_ne, Bool.and_eq_false_iff, decide_eq_false_iff_not]
      omega
  · have run := fun (write : Bool) k => congrArg (Host.Outcome.next : State → Res) (csrOp_settled hn write k ho.1 ho.2 hm hg hs)
    have hw : exec (.csrw o) s = .next (((s.setG o.d old).advance).writeCsr n x x) := run true _
    have hset : exec (.csrs o) s = .next (((s.setG o.d old).advance).writeCsr n (old ||| x) x) := run true _
    refine ⟨run false _, hw, hset, run true _, fun h => ⟨?_, _, hw, ?_⟩, fun h => ⟨_, hw, ?_⟩, fun h => ⟨?_, _, hset, ?_⟩, fun h => ⟨_, hw, ?_⟩⟩
    · show s.readCsr n = _
      rw [h]; rfl
    · rw [h]; exact writeCsr_fflags ..
    · rw [h]; exact writeCsr_rnd ..
    · show s.readCsr n = _
      rw [h]; rfl
    · rw [h]; exact writeCsr_tval ..
    · rw [h]; rfl
  · have settles := fun (write : Bool) (hx : csrSettles n write = true) k =>
      congrArg (Host.Outcome.next : State → Res) (csrOp_settles hn write k ho.1 hm hg hc hl hx)
    have hx : ∀ write, csrSettles n write = true := fun write => by rcases h3 with h3 | h3 <;> rw [h3] <;> rfl
    exact ⟨settles false (hx _) _, settles true (hx _) _, settles true (hx _) _, settles true (hx _) _⟩
  · obtain ⟨k, hk⟩ := csrWrites s o i hi
    rw [hk, csrOp_settles hn _ _ ho.1 hm hg hc hl]
    rcases h1 with h1 | h1 <;> rw [h1] <;> rfl

end Sys2Proof.Laws

/-! O31: copy commands, CESTAT and CEABT (09 R224; 17 R397-R403). -/

namespace Sys2Proof.Laws

open Sys2Proof Sys2Proof.Machine Sys2Proof.Safety

theorem chan_modChan (x : Tile) (i k : Nat) (f : Chan → Chan) : (x.modChan i f).chan k = if k = i then f (x.chan i) else x.chan k :=
  tbl_get_set ..

/-- A tile's channels after its hart has moved on. -/
theorem chan_advance (s : State) (k : Nat) : s.advance.myTile.chan k = s.myTile.chan k := by
  rw [State.advance, myTile_modHart]
  rfl

/-- The executing context's tile with a channel changed, and the instruction over. -/
theorem modChan_advance {s t : State} (hc : t.cur = s.cur) (ht : t.tiles = s.tiles) (hm : t.mem = s.mem) (hcores : t.cores = s.cores) (ch : Nat)
    (f : Chan → Chan) : let u := (t.modMyTile fun y => y.modChan ch f).advance
    MovedOn s u ∧ u.myTile.chan ch = f (s.myTile.chan ch) ∧ ∀ k, k ≠ ch → u.myTile.chan k = s.myTile.chan k := by
  intro u
  have hsame : SameAgents s t := ⟨hc, hcores, fun d k c => by rw [State.ctx, State.tile, ht]; rfl⟩
  have hmod : SameAgents s (t.modMyTile fun y => y.modChan ch f) := hsame.trans (sameAgents_modTile t _ _ rfl)
  have htile : (t.modMyTile fun y => y.modChan ch f).myTile = s.myTile.modChan ch f := by
    have : t.myTile = s.myTile := by rw [myTile_of_cur hc, State.tile, ht]; rfl
    rw [← this]
    exact tile_modTile_self ..
  refine ⟨⟨steps_of_kept hmod.pc hm hmod.kept (steps_advance _), fun n => ?_⟩, ?_, fun k hk => ?_⟩
  · rw [getG_advance, hmod.getG]
  · rw [chan_advance, htile, chan_modChan, if_pos rfl]
  · rw [chan_advance, htile, chan_modChan, if_neg hk]

theorem movedOn_post {s t : State} (h : MovedOn s t) (n : Nat) (ev : Instr) (x : Arg) : MovedOn s (t.post n ev x) := by
  obtain ⟨⟨hpc, hmem, hk⟩, hg⟩ := h
  have hp := sameAgents_post t n ev x
  exact ⟨⟨hp.pc.trans hpc, hmem, kept_trans hk hp.kept⟩, fun r => (hp.getG r).trans (hg r)⟩

/-- A command as its channel holds it. -/
def started (s : State) (o : CFmt) (c : Chan) : Chan :=
  { c with sg := o.imm.toNat / 2 ^ 29 % 8, pe := o.imm.getLsbD 28, scope := o.imm.toNat / 2 ^ 26 % 4, state := .running, inv := s.me.inv,
           slot := (s.regionAt s.die s.tix).getD 0 }

section
variable {s : State} {o : CFmt} {ch : Nat} (hch : o.imm.toNat / 2 ^ 24 % 4 = ch) (c : Chan)
include hch

theorem startCommand_starts (hi : (s.myTile.chan ch).state = .idle) (hn : c.total < 2 ^ 40) : let t := s.startCommand o c
    MovedOn s t ∧ (∀ k, k ≠ ch → t.myTile.chan k = s.myTile.chan k) ∧ t.myTile.chan ch = started s o c := by
  intro t
  subst hch
  have ht : t = ((((s.forget (chanUnit s.die s.tix (chanOf o)).u).modMyTile fun y => y.modChan (chanOf o) fun _ => started s o c).advance).post
      10 .ceGranule (.tileIdx { die := s.die, tile := s.tix, i := chanOf o })) := by
    show s.startCommand o c = _
    unfold State.startCommand
    simp only
    rw [if_neg, if_neg, if_neg (not_le.2 hn)]
    · rfl
    · rw [chanOf, hi]; decide
    · rw [chanOf, hi]; decide
  obtain ⟨hm, hself, hne⟩ := modChan_advance (s := s) (t := s.forget (chanUnit s.die s.tix (chanOf o)).u) rfl rfl rfl rfl (chanOf o)
    fun _ => started s o c
  rw [ht]
  exact ⟨movedOn_post hm _ _ _, hne, hself⟩

theorem startCommand_long (hi : (s.myTile.chan ch).state = .idle) (hn : 2 ^ 40 ≤ c.total) :
    s.startCommand o c = s.trap 9 7 (BitVec.ofNat 64 (ch + 768)) := by
  subst hch
  unfold State.startCommand
  simp only
  rw [if_neg, if_neg, if_pos hn]
  · rfl
  · rw [chanOf, hi]; decide
  · rw [chanOf, hi]; decide

theorem startCommand_busy (hi : (s.myTile.chan ch).state = .running ∨ (s.myTile.chan ch).state = .paused) :
    s.startCommand o c = s.waits (.channel ch) := by
  subst hch
  unfold State.startCommand
  simp only
  rw [if_pos]
  · rfl
  · rcases hi with hi | hi <;> rw [chanOf, hi] <;> rfl

theorem startCommand_error (hi : (s.myTile.chan ch).state = .error) :
    s.startCommand o c = s.trap 9 7 (BitVec.ofNat 64 (ch + (s.myTile.chan ch).err % 256 * 256)) := by
  subst hch
  unfold State.startCommand
  simp only
  rw [if_neg, if_pos]
  · rfl
  · rw [chanOf, hi]; rfl
  · rw [chanOf, hi]; decide

end

/-! CESTAT and CEABT (R402, R403). -/

/-- A status word of a channel. -/
def statWord (c : Chan) (n : Nat) : Word := match n with | 0 => c.word5 | 1 => c.word6 | _ => w64 (c.fpois % 2 ^ 40)

theorem word5_bits (c : Chan) : bits c.word5 39 0 = c.prog % 2 ^ 40
    ∧ bits c.word5 49 48 = match c.state with | .idle => 0 | .running => 1 | .paused => 2 | .error => 3 := by
  have hst : c.state.code < 4 := by cases c.state <;> decide
  have hb : b2n c.pe < 2 := by cases c.pe <;> decide
  have hcode : (match c.state with | .idle => 0 | .running => 1 | .paused => 2 | .error => 3) = c.state.code := by
    cases c.state <;> rfl
  rw [hcode]
  simp only [bits, Chan.word5, w64, BitVec.toNat_ofNat, Nat.shiftRight_eq_div_pow]
  generalize b2n c.pe = p at hb
  omega

theorem word6_bits (c : Chan) : bits c.word6 31 0 = min c.npois 0xFFFFFFFF ∧ bits c.word6 39 32 = c.err % 256 := by
  have hst : stick c.npois 0xFFFFFFFF = min c.npois 0xFFFFFFFF := by
    unfold stick
    split <;> omega
  simp only [bits, Chan.word6, hst, w64, BitVec.toNat_ofNat, Nat.shiftRight_eq_div_pow]
  omega

section
variable {s : State} {o : CFmt} (h : CtxOn s o.gn o.gs)
include h

theorem exec_cestat : exec (.cestat o) s = .next ((if o.imm.getLsbD 2
      && ((s.myTile.chan (chanOf o)).state == .error || (s.myTile.chan (chanOf o)).state == .idle) then
      (s.setG o.d (statWord (s.myTile.chan (chanOf o)) (o.imm.toNat % 4))).modMyTile fun t => t.modChan (chanOf o) fun c =>
        { c with state := .idle, prog := 0, npois := 0, err := 0, fpois := 0 }
    else s.setG o.d (statWord (s.myTile.chan (chanOf o)) (o.imm.toNat % 4))).advance) :=
  congrArg Host.Outcome.next (guardedCtx_on h _)

/-- CESTAT answers with a record word, and empties an ended channel where clr asks for it. -/
theorem cestat_result {ch : Nat} (hch : chanOf o = ch) : ∃ t, exec (.cestat o) s = .next t ∧ Steps s t
    ∧ (∀ k, k ≠ ch → t.myTile.chan k = s.myTile.chan k) ∧ (∀ k, k ≠ o.d → t.getG k = s.getG k)
    ∧ (o.d ≠ 0 → t.getG o.d = statWord (s.myTile.chan ch) (o.imm.toNat % 4))
    ∧ t.myTile.chan ch = if o.imm.getLsbD 2 && ((s.myTile.chan ch).state == .error || (s.myTile.chan ch).state == .idle) then
        { s.myTile.chan ch with state := .idle, prog := 0, npois := 0, err := 0, fpois := 0 } else s.myTile.chan ch := by
  subst hch
  refine ⟨_, exec_cestat h, ?_⟩
  have hset : ∀ k, (s.setG o.d (statWord (s.myTile.chan (chanOf o)) (o.imm.toNat % 4))).myTile.chan k = s.myTile.chan k := fun k => by
    rw [myTile_setG]; rfl
  split
  · obtain ⟨⟨⟨hpc, hmem, hk⟩, hg⟩, hself, hne⟩ := modChan_advance (s := s.setG o.d (statWord (s.myTile.chan (chanOf o)) (o.imm.toNat % 4)))
      rfl rfl rfl rfl (chanOf o) fun c => { c with state := .idle, prog := 0, npois := 0, err := 0, fpois := 0 }
    refine ⟨⟨hpc.trans (by rw [pc_setG]), hmem.trans (setG_mem ..), kept_trans (kept_setG ..) hk⟩, fun k hk => (hne k hk).trans (hset k),
      fun k hk => ?_, fun hd => ?_, ?_⟩
    · rw [hg, getG_setG_ne _ _ _ _ hk]
    · rw [hg, getG_setG_self _ _ _ hd]
    · rw [hself, hset]
  · refine ⟨steps_setG .., fun k _ => (chan_advance ..).trans (hset k), fun k hk => ?_, fun hd => ?_, (chan_advance ..).trans (hset _)⟩
    · rw [getG_advance, getG_setG_ne _ _ _ _ hk]
    · rw [getG_advance, getG_setG_self _ _ _ hd]

theorem ceabt_result {ch : Nat} (hch : chanOf o = ch) : ∃ t, exec (.ceabt o) s = .next (t.settle s.die) ∧ MovedOn s t
    ∧ (∀ k, k ≠ ch → t.myTile.chan k = s.myTile.chan k) ∧ t.myTile.chan ch = { s.myTile.chan ch with state := .idle, pages := [] } := by
  subst hch
  obtain ⟨hm, hself, hne⟩ := modChan_advance (s := s)
    (t := (s.unwithhold (chanUnit s.die s.tix (chanOf o)).u).forget (chanUnit s.die s.tix (chanOf o)).u) rfl rfl rfl rfl (chanOf o)
    fun c => { c with state := .idle, pages := [] }
  exact ⟨_, congrArg Host.Outcome.next (guardedCtx_on h _), hm, hne, hself⟩

end

/-- Settles O31. -/
theorem copyCommandResults : Obligations.CopyCommandResults := by
  intro s o h ch old a b d rest r ended
  have starts : ∀ {i : Instr} {n : Nat} (c : Chan), exec i s = .next (s.startCommand o c) → c.total = n → r i n c := by
    intro i n c hi hn
    subst hn
    refine ⟨fun hidle hlt => ⟨_, hi, startCommand_starts rfl c hidle hlt⟩, fun hidle hle => ?_, fun hb => ?_, fun he => ?_⟩
    · rw [hi, startCommand_long rfl c hidle hle]
    · rw [hi, startCommand_busy rfl c hb]
    · rw [hi, startCommand_error rfl c he]
  have on := fun k => congrArg (Host.Outcome.next : State → Res) (guardedCtx_on h k)
  refine ⟨starts _ (on _) rfl, starts _ (on _) ?_, starts _ (on _) rfl, starts _ (on _) ?_, ?_, ceabt_result h rfl⟩
  · have hb : bits b 63 32 = b.toNat / 2 ^ 32 := by
      have := b.isLt
      rw [bits, Nat.shiftRight_eq_div_pow]
      omega
    show bits b 31 0 * bits b 63 32 = _
    rw [hb]
    rfl
  · have hp : bits (w64 (o.imm.toNat % 32)) 2 0 = o.imm.toNat % 8 := by
      rw [bits, w64, BitVec.toNat_ofNat, Nat.shiftRight_eq_div_pow]
      omega
    show b.toNat * (4096 * 2 ^ bits (w64 (o.imm.toNat % 32)) 2 0) = _
    rw [hp]
  · obtain ⟨t, he, hst, hrest, hg, hself, hch⟩ := cestat_result h (ch := ch) rfl
    refine ⟨t, he, hst, hrest, hg, fun hd h0 => ?_, fun hd h1 => ?_, fun hd h2 => ?_, fun hclr hend => ?_, fun hclr => ?_⟩
    · rw [hself hd, h0]; exact word5_bits _
    · rw [hself hd, h1]; exact word6_bits _
    · rw [hself hd, h2]; rfl
    · rw [hch, if_pos]
      simpa [hclr] using hend
    · rw [hch, if_neg]
      rcases hclr with hclr | hend
      · rw [hclr, Bool.false_and]; exact Bool.false_ne_true
      · rw [Bool.and_eq_true, Bool.or_eq_true, beq_iff_eq, beq_iff_eq]
        exact fun hx => hend hx.2

end Sys2Proof.Laws

/-! O26: the matrix instructions that enter their tile's queue (17 R375-R378, R381-R383, R386-R388). -/

namespace Sys2Proof.Laws

open Sys2Proof Sys2Proof.Machine Sys2Proof.Safety

/-! The queue (R376). -/

/-- An instruction that takes its place in the queue, from a state that its issue has changed beside agents and the queue. -/
theorem enqueue_tile (s : State) (m : MatOp) :
    MovedOn s (s.enqueue m) ∧ (s.enqueue m).myTile = { s.myTile with mq := s.myTile.mq ++ [m], ctxs := (s.enqueue m).myTile.ctxs } := by
  have hsame : SameAgents s ((s.modMyTile fun t => { t with mq := t.mq ++ [m] }).post 200 .matrixComplete
      (.tileRef { die := s.die, tile := s.tix })) := (sameAgents_modTile s _ _ rfl).trans (sameAgents_post _ _ _ _)
  refine ⟨⟨steps_of_kept hsame.pc rfl hsame.kept (steps_advance _), fun n => ?_⟩, ?_⟩
  · rw [State.enqueue, getG_advance, hsame.getG]
  · have htile : ((s.modMyTile fun t => { t with mq := t.mq ++ [m] }).post 200 .matrixComplete
        (.tileRef { die := s.die, tile := s.tix })).myTile = { s.myTile with mq := s.myTile.mq ++ [m] } :=
      tile_modTile_self s s.die s.tix fun t => { t with mq := t.mq ++ [m] }
    exact (myTile_modHart ..).trans (by rw [htile]; rfl)

section
variable {s : State} {o : MFmt} {a : Word} (h : LanesOn s o.gn o.gs a)
include h

theorem matrixOp_full (hq : 8 ≤ s.myTile.mq.length) (k : Word → State → State) : s.matrixOp o k = s.waits (.matrix 8) := by
  rw [State.matrixOp, masked_on h, if_pos hq]

theorem matrixOp_room (hq : s.myTile.mq.length < 8) (k : Word → State → State) : s.matrixOp o k = k a s := by
  rw [State.matrixOp, masked_on h, if_neg (not_le.2 hq)]

end

/-! Scratch operands (R378). -/

/-- A misaligned scratch use. -/
def OddUse (u : ScratchUse) : Prop := u.x.toNat % 2 ^ 19 % u.align ≠ 0

theorem odd_iff (u : ScratchUse) : (u.x.toNat % 2 ^ 19 % u.align != 0) = true ↔ OddUse u := bne_iff_ne

/-- A scratch use that does not lie in the scratch of tile t. -/
def OutUse (t : Nat) (u : ScratchUse) : Prop :=
  u.x.toNat / 2 ^ 60 ≠ 2 ∨ u.x.toNat / 2 ^ 28 % 2 ^ 32 ≠ 0 ∨ u.x.toNat / 2 ^ 19 % 2 = 1
    ∨ (u.x.toNat / 2 ^ 20 % 256 ≠ 255 ∧ u.x.toNat / 2 ^ 20 % 256 ≠ t) ∨ 2 ^ 19 < u.x.toNat % 2 ^ 19 + u.len

theorem scratchRefused_iff (s : State) (u : ScratchUse) : s.scratchRefused u = true ↔ OutUse s.tix u := by
  simp only [State.scratchRefused, OutUse, Bool.or_eq_true, Bool.and_eq_true, bne_iff_ne, beq_iff_eq, decide_eq_true_eq, or_assoc]

theorem find_append {α : Type} {p : α → Bool} {l r : List α} {u : α} (hl : ∀ v ∈ l, ¬p v = true) (hu : p u = true) :
    (l ++ u :: r).find? p = some u :=
  List.find?_eq_some_iff_append.2 ⟨hu, l, r, rfl, fun v hv => by simpa using hl v hv⟩

theorem scratchTrap_odd {s : State} {l r : List ScratchUse} {u : ScratchUse} (hu : OddUse u) (hl : ∀ v ∈ l, ¬OddUse v) :
    s.scratchTrap (l ++ u :: r) = some (s.trap 3 u.loc u.x) := by
  rw [State.scratchTrap, find_append (u := u) (fun v hv => ?_) ((odd_iff u).2 hu)]
  exact fun h => hl v hv ((odd_iff v).1 h)

theorem scratchTrap_out {s : State} {l r : List ScratchUse} {u : ScratchUse} (ho : ∀ v ∈ l ++ u :: r, ¬OddUse v) (hu : OutUse s.tix u)
    (hl : ∀ v ∈ l, ¬OutUse s.tix v) : s.scratchTrap (l ++ u :: r) = some (s.trap 4 u.loc u.x) := by
  have hnone : (l ++ u :: r).find? (fun u => u.x.toNat % 2 ^ 19 % u.align != 0) = none :=
    List.find?_eq_none.2 fun v hv h => ho v hv ((odd_iff v).1 h)
  rw [State.scratchTrap, hnone]
  rw [find_append (u := u) (fun v hv h => hl v hv ((scratchRefused_iff s v).1 h)) ((scratchRefused_iff s u).2 hu)]
  rfl

theorem scratchTrap_none {s : State} {l : List ScratchUse} (ho : ∀ v ∈ l, ¬OddUse v) (hl : ∀ v ∈ l, ¬OutUse s.tix v) :
    s.scratchTrap l = none := by
  have hodd : l.find? (fun u => u.x.toNat % 2 ^ 19 % u.align != 0) = none := List.find?_eq_none.2 fun v hv h => ho v hv ((odd_iff v).1 h)
  have hout : l.find? s.scratchRefused = none := List.find?_eq_none.2 fun v hv h => hl v hv ((scratchRefused_iff s v).1 h)
  rw [State.scratchTrap, hodd, hout]
  rfl

/-! MMA and MMAS (R381, R382). -/

section
variable {s : State} {o : MFmt}

theorem exec_mma (s : State) (o : MFmt) : exec (.mma o) s = .next (s.multiply o false) := rfl
theorem exec_mmas (s : State) (o : MFmt) : exec (.mmas o) s = .next (s.multiply o true) := rfl

/-- Operands in scratch capture nothing. -/
theorem captures_scratch {a b : Operand} (ha : a.q = false) (hb : b.q = false) : s.captures a b = .ok (s, s.matIn a [], s.matIn b []) := by
  simp [State.captures, State.captureBad, State.captureApe, State.capture, State.takeCapture, State.hold, ha, hb]

theorem letGo_scratch {a b : Operand} (ha : a.q = false) (hb : b.q = false) (t : State) : t.letGo [s.captureApe a, s.captureApe b] = t := by
  simp [State.letGo, State.captureApe, State.hold, ha, hb]

variable {a : Word} (h : LanesOn s o.gn o.gs a) (hq : s.myTile.mq.length < 8) (set : Bool)
include h hq

theorem multiply_enqueues (hs : s.scratchTrap (s.usesOf (opA o) ++ s.usesOf (opB o) ++ s.maskUse o) = none) {u : State} {p q : MatIn}
    (hc : s.captures (opA o) (opB o) = .ok (u, p, q)) : s.multiply o set = u.enqueue { queuedAs s o a (.mma set) with a := p, b := q } := by
  refine (matrixOp_room h hq _).trans ?_
  simp only [hs, hc]
  rfl

theorem multiply_traps (ha : o.qa = false) (hb : o.qb = false) {t : State}
    (hs : s.scratchTrap (s.usesOf (opA o) ++ s.usesOf (opB o) ++ s.maskUse o) = some t) : s.multiply o set = t := by
  refine (matrixOp_room h hq _).trans ?_
  simp only [hs]
  exact letGo_scratch ha hb t

end

/-! The other instructions of the queue (R383, R386-R388). -/

section
variable {s : State} {o : MFmt} {a : Word} (h : LanesOn s o.gn o.gs a)
include h

theorem exec_mscl_waits {j : Nat} (hw : s.regWait [o.sa] (BitVec.allOnes 64) = some j) :
    exec (.mscl o) s = .next (s.waits (.links (s.me.links.length - j))) := by
  refine congrArg Host.Outcome.next ((masked_on h _).trans ?_)
  simp only [hw]
  rfl

theorem exec_mscl (hw : s.regWait [o.sa] (BitVec.allOnes 64) = none) : exec (.mscl o) s = .next (if 8 ≤ s.myTile.mq.length then
    s.waits (.matrix 8) else s.enqueue { queuedAs s o a .scale with f := s.readV o.sa.toNat }) := by
  refine congrArg Host.Outcome.next ((masked_on h _).trans ?_)
  simp only [hw]
  rfl

/-- The scratch use of MLDA. -/
def loadUse (s : State) (o : MFmt) : ScratchUse := { x := s.getG o.sa, align := 256, len := 512 * o.rows.toNat, loc := 1 }

theorem exec_mlda (hq : s.myTile.mq.length < 8) : exec (.mlda o) s = .next (match s.scratchTrap [loadUse s o] with
    | some t => t
    | none => s.enqueue { queuedAs s o a .load with a := { x := s.getG o.sa, y := 0, els := [], cols := 0 } }) :=
  congrArg Host.Outcome.next (matrixOp_room h hq _)

end

theorem forall_two {p : Instr → Prop} {i j : Instr} (hi : p i) (hj : p j) : ∀ x ∈ [i, j], p x := by simp [hi, hj]

/-- Settles O26. -/
theorem matrixResults : Obligations.MatrixResults := by
  intro s o a h m r addr at_ x last other uses odd out
  have queues : ∀ {i : Instr} {e : MatOp}, exec i s = .next (s.enqueue e) → r i e := fun hi => ⟨_, hi, enqueue_tile s _⟩
  have next := fun {u v : State} (e : u = v) => congrArg (Host.Outcome.next : State → Res) e
  have hal : x.toNat % 2 ^ 19 % 256 = 0 ↔ x.toNat % 256 = 0 := by omega
  have hins : OutUse s.tix (loadUse s o) ↔ other ∨ 2 ^ 19 < last := by
    simp only [OutUse, loadUse, other, last, x, or_assoc]
  refine ⟨fun hq => ⟨?_, fun hw => ?_⟩, fun j hw => exec_mscl_waits h hw, fun hq => ⟨queues (next (matrixOp_room h hq _)),
    queues (next (matrixOp_room h hq _)), fun ha hb hs => ?_, fun hs u p q hc => ?_, fun ha hb l u r hu => ?_, ?_, ?_, ?_, fun hw => ?_⟩⟩
  · have full := fun k => next (matrixOp_full h hq k)
    simp only [List.forall_mem_cons, List.not_mem_nil, IsEmpty.forall_iff, implies_true, and_true]
    exact ⟨full _, full _, full _, full _, full _, full _⟩
  · rw [exec_mscl h hw, if_pos hq]
  · have hc := captures_scratch (s := s) (a := opA o) (b := opB o) ha hb
    have hin : ∀ (b : Operand), b.q = false → s.matIn b [] = at_ b.f := fun b hq => by rw [State.matIn, hq]; rfl
    rw [hin _ ha, hin _ hb] at hc
    exact ⟨queues (next (multiply_enqueues h hq false hs hc)), queues (next (multiply_enqueues h hq true hs hc))⟩
  · exact ⟨next (multiply_enqueues h hq false hs hc), next (multiply_enqueues h hq true hs hc)⟩
  · have traps : ∀ {t}, s.scratchTrap uses = some t → ∀ i ∈ [Instr.mma o, .mmas o], exec i s = .next t := fun ht =>
      forall_two (next (multiply_traps h hq false ha hb ht)) (next (multiply_traps h hq true ha hb ht))
    intro i hi
    refine ⟨fun ho hl => traps ?_ i hi, fun hno ho hl => traps ?_ i hi⟩
    · rw [hu]; exact scratchTrap_odd ho hl
    · rw [hu] at hno ⊢; exact scratchTrap_out hno ho hl
  · intro hx hno hl
    refine queues ?_
    rw [exec_mlda h hq, scratchTrap_none (List.forall_mem_singleton.2 fun hodd => hodd ((hal).2 hx))
      (List.forall_mem_singleton.2 fun hout => (hins.1 hout).elim hno (not_lt.2 hl))]
  · intro hx
    have ht : s.scratchTrap [loadUse s o] = some (s.trap 3 1 x) :=
      scratchTrap_odd (l := []) (r := []) (fun hodd => hx (hal.1 hodd)) fun _ hv => nomatch hv
    rw [exec_mlda h hq, ht]
  · intro hx hout
    have ht : s.scratchTrap [loadUse s o] = some (s.trap 4 1 x) :=
      scratchTrap_out (l := []) (r := []) (List.forall_mem_singleton.2 fun hodd => hodd (hal.2 hx)) (hins.2 hout) fun _ hv => nomatch hv
    rw [exec_mlda h hq, ht]
  · refine queues ?_
    rw [exec_mscl h hw, if_neg (not_le.2 hq)]

end Sys2Proof.Laws

/-! O27: MRD and MRDQ (17 R384, R385; 12 R276). -/

namespace Sys2Proof.Laws

open Sys2Proof Sys2Proof.Machine Sys2Proof.Safety

/-! MRD (R384). -/

section
variable {s : State} {o : MFmt} {a : Word} (h : LanesOn s o.gn o.gs a) (hl : s.me.links.length < 16)
include h hl

/-- The half row that MRD reads holds poison. -/
def badHalf (s : State) (o : MFmt) : Bool :=
  (List.range 4).any fun g => (s.myTile.accRow o.acc.toNat ((s.getG o.sb).toNat % 64)).pois.getLsbD (4 * b2n o.dirA + g)

/-- The link of MRD. -/
def rowLink (s : State) (o : MFmt) (a : Word) : Link :=
  { word := s.ir, dst := o.sa.toNat, two := false, nbv := s.hart.nbv, rnd := 0, active := a, opn := a, opn2 := 0
    vals := lanesFn fun i => vget (s.myTile.accRow o.acc.toNat ((s.getG o.sb).toNat % 64)).cells (64 * b2n o.dirA + i) 0
    vals2 := .zero, fl := .zero, cuts := 0, push := none }

theorem exec_mrd : exec (.mrd o) s = .next (if s.myTile.mq.any fun m => m.on o.acc.toNat then s.waits (.acc o.acc.toNat)
    else if badHalf s o then s.trap 6 6 (w64 (o.acc.toNat * 256 + (s.getG o.sb).toNat % 64))
    else (s.link (rowLink s o a)).advance) :=
  congrArg Host.Outcome.next ((masked_on h _).trans (if_neg (not_le.2 hl)))

end

theorem vget_zeroLanes {j : Nat} (hj : j < 64) : vget Lanes.zero j 0 = 0 := by
  rw [vget, dif_pos hj]
  exact Vector.getElem_ofFn ..

theorem rowLink_new (s : State) (o : MFmt) (a : Word) : NewLink s o.sa.toNat a (fun j =>
    { v := vget (s.myTile.accRow o.acc.toNat ((s.getG o.sb).toNat % 64)).cells (64 * b2n o.dirA + j) 0, e := 0, fl := 0 }) (rowLink s o a) := by
  have hv := fun j (hj : j < 64) =>
    vget_lanesFn (fun i => vget (s.myTile.accRow o.acc.toNat ((s.getG o.sb).toNat % 64)).cells (64 * b2n o.dirA + i) 0) 0 hj
  refine ⟨rfl, rfl, rfl, rfl, rfl, fun j hj => ⟨hv j hj, ?_, ?_⟩⟩
  · exact vget_zeroLanes hj
  · exact vget_zeroLanes hj

theorem link_moves {s : State} (hc : s.onCore = false) {l : Link} (hp : l.push = none) :
    MovedOn s (s.link l).advance ∧ (s.link l).advance.me.links = older s l ++ [l] := by
  have hlc : (s.link l).onCore = false := (onCore_link s l).trans hc
  have hk := keeps_link (s := s) (t := s) hc (keeps_refl s) l
  exact ⟨movedOn_advance hlc hk, (links_advance hlc).trans (links_link s hp)⟩

/-! MRDQ (R385). -/

theorem myTile_modMe (s : State) (f : Context → Context) : (s.modMe f).myTile = { s.myTile with ctxs := (s.modMe f).myTile.ctxs } := by
  have h : (s.modMe f).myTile = s.myTile.modCtx s.cix f := tile_modTile_self ..
  rw [h]
  rfl

/-- What a state keeps of another whose ports and APEs it changes. -/
def KeepsQueue (s u : State) : Prop :=
  (Kept s u ∧ u.mem = s.mem ∧ (∀ k, u.getG k = s.getG k) ∧ u.pc = s.pc) ∧ u.myTile.mq = s.myTile.mq ∧ u.myTile.acc = s.myTile.acc

theorem KeepsQueue.trans {s t u : State} (h : KeepsQueue s t) (k : KeepsQueue t u) : KeepsQueue s u := by
  obtain ⟨⟨hk, hm, hg, hp⟩, hq, ha⟩ := h
  obtain ⟨⟨hk', hm', hg', hp'⟩, hq', ha'⟩ := k
  exact ⟨⟨kept_trans hk hk', hm'.trans hm, fun r => (hg' r).trans (hg r), hp'.trans hp⟩, hq'.trans hq, ha'.trans ha⟩

/-- A change of the executing context's tile beside its contexts, its queue and its accumulators. -/
theorem keepsQueue_modMyTile (s : State) {f : Tile → Tile}
    (hf : (f s.myTile).ctxs = s.myTile.ctxs ∧ (f s.myTile).mq = s.myTile.mq ∧ (f s.myTile).acc = s.myTile.acc) :
    KeepsQueue s (s.modMyTile f) := by
  obtain ⟨hc, hq, ha⟩ := hf
  have hs : SameAgents s (s.modMyTile f) := sameAgents_modTile s _ _ hc
  have ht : (s.modMyTile f).myTile = f s.myTile := tile_modTile_self ..
  exact ⟨⟨hs.kept, rfl, hs.getG, hs.pc⟩, ht ▸ hq, ht ▸ ha⟩

theorem keepsQueue_post (s : State) (n : Nat) (ev : Instr) (x : Arg) : KeepsQueue s (s.post n ev x) := by
  have hs := sameAgents_post s n ev x
  exact ⟨⟨hs.kept, rfl, hs.getG, hs.pc⟩, rfl, rfl⟩

theorem keepsQueue_endOf (s : State) (e : Nat) : KeepsQueue s (s.endOf s.die s.tix e) := by
  unfold State.endOf
  simp only
  split
  · exact keepsQueue_modMyTile s ⟨rfl, rfl, rfl⟩
  · exact (keepsQueue_modMyTile s ⟨rfl, rfl, rfl⟩).trans
      ((keepsQueue_modMyTile (s.modMyTile fun x => x.modApe e fun a => { a with fin := true }) ⟨rfl, rfl, rfl⟩).trans
        (keepsQueue_post _ _ _ _))

/-- The positions of a push consumed: agents but their ports, memory, the queue and the accumulators stay. -/
theorem keepsQueue_pushTaken {s : State} (hc : s.onCore = false) (p n : Nat) (now : Bool) : KeepsQueue s (s.pushTaken p n now) := by
  unfold State.pushTaken
  simp only
  split
  · have ht := myTile_modMe s fun x => { x with ports := vput x.ports p { s.port p with
      pos := (s.port p).pos + n, fin := s.portLen p ≤ (s.port p).pos + n } }
    exact ⟨keeps_modMe _ hc (keeps_refl s) ⟨_, _, _, _, _, rfl⟩, by rw [ht], by rw [ht]⟩
  · have hs := keepsQueue_modMyTile s (f := fun t => t.modApe (s.port p).ape fun a => { a with pos := a.pos + n, wh := false }) ⟨rfl, rfl, rfl⟩
    split
    · exact hs.trans (keepsQueue_endOf _ _)
    · exact hs

/-- An instruction takes its place in the queue from a state that kept its agents, the queue and the accumulators. -/
theorem enqueue_queued {s u : State} (h : KeepsQueue s u) (m : MatOp) :
    MovedOn s (u.enqueue m) ∧ (u.enqueue m).myTile.mq = s.myTile.mq ++ [m] ∧ (u.enqueue m).myTile.acc = s.myTile.acc := by
  obtain ⟨⟨hk, hmem, hg, hpc⟩, hq, ha⟩ := h
  obtain ⟨⟨hst, hgr⟩, ht⟩ := enqueue_tile u m
  exact ⟨⟨steps_of_kept hpc hmem hk hst, fun n => (hgr n).trans (hg n)⟩, by rw [ht, hq], by rw [ht]; exact ha⟩

/-- What MRDQ reserves its positions for. -/
def reservedPush (s : State) (p : Nat) : PushTo :=
  { kb := (s.port p).kb, ape := (s.port p).ape, cfg := (s.portApe p).cfg, typ := s.portType p, pos := s.portAt p, pm := false, gone := false,
    skip := 0 }

/-- The elements of MRDQ that lie within its port's length. -/
def rowsToPush (s : State) (o : MFmt) (a : Word) (p : Nat) : List PushElem :=
  inLength (s.portApe p).len (s.portApe p).pos (rowsElems (s.portType p) 0 a o.rows.toNat fun _ => .init)

section
variable {s : State} {o : MFmt} {a : Word} (h : LanesOn s o.gn o.gs a) (hq : s.myTile.mq.length < 8) {p : Nat} (hp : o.sa.toNat - 24 = p)
include h hq hp

theorem exec_mrdq : exec (.mrdq o) s = .next (match s.pushBad p with
    | some pos => s.portTrap 1 p pos
    | none => match s.pushBusy 64 2 p with
      | some w => s.waits w
      | none =>
        let m := { queuedAs s o a .push with b := { x := s.getG o.sb, y := 0, els := [], cols := 0 } }
        if s.pushEnded p then s.enqueue m
        else
          let go := fun (s' : State) => (s'.pushTaken p (128 * o.rows.toNat) true).enqueue { m with push := some (reservedPush s p) }
          if (s.port p).kb then go s
          else match s.pushPlaces s.die s.tix (s.port p).ape (s.portApe p) (elemSize (s.portType p)) (rowsToPush s o a p) with
            | .error e => s.pushStop 1 p (s.port p).ape e
            | .ok ps => match s.pushAsk (apeUnit s.die s.tix (s.port p).ape) (s.portApe p) ps with
              | (s1, .error id) => s1.waits (.remote id)
              | (s1, .ok (some n)) => s1.portTrap 1 p n
              | (s1, .ok none) => go s1) := by
  subst hp
  exact congrArg Host.Outcome.next (matrixOp_room h hq _)

/-- MRDQ on a port that takes its push, not of a coach: its elements find their places, and are asked for where those are at other modules. -/
theorem exec_mrdq_ape (hpb : s.pushBad p = none) (hw : s.pushBusy 64 2 p = none) (he : s.pushEnded p = false) (hkb : (s.port p).kb = false) :
    exec (.mrdq o) s = .next (
      match s.pushPlaces s.die s.tix (s.port p).ape (s.portApe p) (elemSize (s.portType p)) (rowsToPush s o a p) with
      | .error e => s.pushStop 1 p (s.port p).ape e
      | .ok ps => match s.pushAsk (apeUnit s.die s.tix (s.port p).ape) (s.portApe p) ps with
        | (s1, .error id) => s1.waits (.remote id)
        | (s1, .ok (some n)) => s1.portTrap 1 p n
        | (s1, .ok none) => (s1.pushTaken p (128 * o.rows.toNat) true).enqueue { queuedAs s o a .push with
            b := { x := s.getG o.sb, y := 0, els := [], cols := 0 }, push := some (reservedPush s p) }) := by
  rw [exec_mrdq h hq hp, hpb, hw]
  exact congrArg Host.Outcome.next ((if_neg (Bool.eq_false_iff.1 he)).trans (if_neg (Bool.eq_false_iff.1 hkb)))

end

/-- A push whose elements stand at this module asks for nothing. -/
theorem pushAsk_near (s : State) (u : UnitAt) (e : Ape) {ps : List (PushElem × Nat × Chk)} (h : farPush e ps = []) :
    s.pushAsk u e ps = (s, .ok none) := by
  rw [State.pushAsk, h]
  rfl

/-- Settles O27. -/
theorem matrixReadResults : Obligations.MatrixReadResults := by
  intro s o a h k half row bad p b n e dst m els queued free idle
  have hb : badHalf s o = bad := rfl
  have hidle : (s.myTile.mq.any fun m => m.on o.acc.toNat) = true ↔ ¬idle := by
    simp [idle, List.any_eq_true]
  have push := fun (u : State) (hu : KeepsQueue s u) (x : MatOp) (he : exec (.mrdq o) s = .next (u.enqueue x)) =>
    (⟨_, he, enqueue_queued hu x⟩ : queued x)
  have places : ∀ {r}, s.pushPlaces s.die s.tix b.ape e (elemSize (s.portType p)) els = r →
      s.pushPlaces s.die s.tix (s.port p).ape (s.portApe p) (elemSize (s.portType p)) (rowsToPush s o a p) = r := fun h => h
  have asked : ∀ {l r}, s.pushAsk (apeUnit s.die s.tix b.ape) e l = r →
      s.pushAsk (apeUnit s.die s.tix (s.port p).ape) (s.portApe p) l = r := fun h => h
  refine ⟨fun hl hi hbad => ⟨(s.link (rowLink s o a)).advance, ?_, (link_moves h.1 rfl).1, _, rowLink_new s o a, (link_moves h.1 rfl).2⟩,
    fun hl hi hbad => ?_, fun hl hi => ?_, fun hq => ⟨fun pos hpb => ?_, fun w hpb hw => ?_, fun hpb hw => ⟨fun he => ?_, fun he hkb => ?_,
      fun he hkb l hpl => ⟨fun hf => ?_, fun u hu => ?_, fun u k hu => ?_, fun u k hu => ?_⟩, fun he hkb r hpl => ?_⟩⟩⟩
  · rw [exec_mrd h hl, if_neg (fun hx => hidle.1 hx hi), hb, hbad]; rfl
  · rw [exec_mrd h hl, if_neg (fun hx => hidle.1 hx hi), hb, hbad]; rfl
  · rw [exec_mrd h hl, if_pos (hidle.2 hi)]
  · rw [exec_mrdq h hq rfl, hpb]; rfl
  · rw [exec_mrdq h hq rfl, hpb, hw]
  · refine push s (⟨keeps_refl s, rfl, rfl⟩) _ ?_
    rw [exec_mrdq h hq rfl, hpb, hw]
    exact congrArg Host.Outcome.next (if_pos he)
  · refine push _ (keepsQueue_pushTaken h.1 p (128 * o.rows.toNat) true) _ ?_
    rw [exec_mrdq h hq rfl, hpb, hw]
    exact congrArg Host.Outcome.next ((if_neg (Bool.eq_false_iff.1 he)).trans (if_pos hkb))
  · refine push _ (keepsQueue_pushTaken h.1 p (128 * o.rows.toNat) true) _ ?_
    rw [exec_mrdq_ape h hq (p := p) rfl hpb hw he hkb, places hpl]
    simp only
    rw [asked (pushAsk_near _ _ _ hf)]; rfl
  · rw [exec_mrdq_ape h hq (p := p) rfl hpb hw he hkb, places hpl]
    simp only
    rw [asked hu]; rfl
  · rw [exec_mrdq_ape h hq (p := p) rfl hpb hw he hkb, places hpl]
    simp only
    rw [asked hu]; rfl
  · rw [exec_mrdq_ape h hq (p := p) rfl hpb hw he hkb, places hpl]
    simp only
    rw [asked hu]
  · rw [exec_mrdq_ape h hq (p := p) rfl hpb hw he hkb, places hpl]

end Sys2Proof.Laws

/-! O34: KSEND, KFWD and KSPLIT (18 R406, R407, R411). -/

namespace Sys2Proof.Laws

open Sys2Proof Sys2Proof.Machine Sys2Proof.Safety

section
variable {s : State} {o : CFmt} (h : CtxOn s o.gn o.gs)
include h

theorem routeOp_on (hv : s.me.rver = s.myTile.rver) (k : State → State) : s.routeOp o k = k s := by
  have hr : s.rverBad = none := if_neg (by rw [hv]; simp)
  refine (guardedCtx_on h _).trans ?_
  simp only [hr]

end

theorem withCoach_none {s : State} {n : Nat} (h : s.portCoach n = none) (k : Coach → State → State) : s.withCoach n k = s.coachTrap n 1 := by
  rw [State.withCoach, h]

theorem withCoach_some {s : State} {n : Nat} {c : Coach} (h : s.portCoach n = some c) (k : Coach → State → State) : s.withCoach n k = k c s := by
  rw [State.withCoach, h]

theorem pushed_waits {s : State} (h : s.myTile.pushing s.cix = true) (k : State → State) : s.pushed k = s.waits .pushes := if_pos h

theorem pushed_free {s : State} (h : s.myTile.pushing s.cix = false) (k : State → State) : s.pushed k = k s := if_neg (Bool.eq_false_iff.1 h)

theorem portCoach_release {s : State} {p : Nat} (hp : p = 6 ∨ p = 7) :
    (s.release p).portCoach p = none ∧ (s.release p).port p = .init ∧ (s.release p).portCoach (13 - p) = s.portCoach (13 - p) := by
  have hme : (s.release p).me = { s.me.setCoach p none with ports := vput s.me.ports p .init } := me_modMe ..
  rw [State.portCoach, State.portCoach, State.port, State.portCoach, hme]
  rcases hp with rfl | rfl
  · exact ⟨rfl, vget_vput_self _ _ _ _ (by decide), rfl⟩
  · exact ⟨rfl, vget_vput_self _ _ _ _ (by decide), rfl⟩

theorem hart_setCoach (x : Context) (p : Nat) (c : Option Coach) : (x.setCoach p c).hart = x.hart := by
  unfold Context.setCoach
  split <;> rfl

/-- A coach released, and the instruction over; u is a state that differs beside agents, memory and tiles. -/
theorem release_advance {s u : State} (hc : s.onCore = false) {p : Nat} (hp : p = 6 ∨ p = 7) (hu : SameAgents (s.release p) u)
    (hmem : u.mem = s.mem) (htiles : u.tiles = (s.release p).tiles) : let t := u.advance
    MovedOn s t ∧ t.myTile = { s.myTile with ctxs := t.myTile.ctxs } ∧ t.portCoach p = none ∧ t.port p = .init
      ∧ t.portCoach (13 - p) = s.portCoach (13 - p) := by
  intro t
  obtain ⟨hk, -, hg, hpc⟩ := keeps_modMe (s := s) (t := s) (fun x => { x.setCoach p none with ports := vput x.ports p .init }) hc (keeps_refl s)
    ⟨s.me.hart.wait, s.me.hart.fflags, s.me.hart.stall, s.me.hart.peak, s.me.hart.cutcnt, hart_setCoach ..⟩
  have huc : u.onCore = false := hu.onCore.trans hc
  have htile : t.myTile = { s.myTile with ctxs := t.myTile.ctxs } := by
    have hut : u.myTile = (s.release p).myTile := by rw [myTile_of_cur hu.cur, State.tile, htiles]; rfl
    have h := myTile_modHart u fun h => { h with pc := h.pc + 8, wait := .run }
    rw [hut, State.release, myTile_modMe] at h
    exact h
  have hme : ∀ n, t.portCoach n = (s.release p).portCoach n ∧ t.port n = (s.release p).port n := fun n => by
    rw [State.portCoach, State.port, me_advance huc, State.portCoach, State.port, ← hu.me]
    exact ⟨rfl, rfl⟩
  obtain ⟨h1, h2, h3⟩ := portCoach_release (s := s) hp
  exact ⟨movedOn_advance huc ⟨kept_trans hk hu.kept, hmem, fun n => (hu.getG n).trans (hg n), hu.pc.trans hpc⟩, htile, (hme p).1.trans h1,
    (hme p).2.trans h2, (hme _).1.trans h3⟩

/-- Coaches that find room leave their buffer and enter the send queue. -/
theorem place_release {s : State} (hc : s.onCore = false) {p : Nat} (hp : p = 6 ∨ p = 7) (es : List Entrant)
    (hroom : s.myTile.sendq.length + es.length ≤ 16) : let t := s.place es fun s => (s.release p).advance
    MovedOn s t ∧ t.myTile.sendq = s.myTile.sendq ++ es ∧ t.portCoach p = none ∧ t.port p = .init ∧ t.portCoach (13 - p) = s.portCoach (13 - p) := by
  intro t
  obtain ⟨u, hu⟩ : ∃ u, (s.modMyTile fun t => { t with sendq := t.sendq ++ es }).post 2 .coachHop (.idxRef { i := sendId s.die s.tix }) = u :=
    ⟨_, rfl⟩
  have ht : t = (u.release p).advance := hu ▸ if_neg (not_lt.2 hroom)
  have hsame : SameAgents s u := hu ▸ (sameAgents_modTile s _ _ rfl).trans (sameAgents_post _ _ _ _)
  have hmem : u.mem = s.mem := hu ▸ rfl
  have hq : u.myTile.sendq = s.myTile.sendq ++ es := by
    rw [← hu]
    exact congrArg Tile.sendq (tile_modTile_self s s.die s.tix fun t => { t with sendq := t.sendq ++ es })
  obtain ⟨⟨hst, hg⟩, htile, h1, h2, h3⟩ := release_advance (hsame.onCore.trans hc) hp (.refl _) rfl rfl
  rw [ht]
  refine ⟨⟨steps_of_kept hsame.pc hmem hsame.kept hst, fun n => (hg n).trans (hsame.getG n)⟩, by rw [htile]; exact hq, h1, h2, h3.trans ?_⟩
  rw [State.portCoach, State.portCoach, hsame.me]

theorem place_full {s : State} {es : List Entrant} (h : 16 < s.myTile.sendq.length + es.length) (k : State → State) :
    s.place es k = s.waits (.send es.length) := if_pos h

/-- A field above others leaves them. -/
theorem bits_setBits_below (w : Word) {h l h' l' : Nat} (hl : l ≤ 64) (hh : h' < l) (hl' : l' ≤ h') (v : Nat) :
    bits (setBits w h l v) h' l' = bits w h' l' := by
  have hb : 2 ^ l * bits w h l ≤ w.toNat := by
    rw [bits, Nat.shiftRight_eq_div_pow]
    exact (Nat.mul_le_mul_left _ (Nat.mod_le ..)).trans (Nat.mul_div_le ..)
  have hlow : (setBits w h l v).toNat % 2 ^ l = w.toNat % 2 ^ l := by
    rw [setBits, w64, BitVec.toNat_ofNat, Nat.mod_mod_of_dvd _ (Nat.pow_dvd_pow 2 hl), Nat.add_mul_mod_self_right, Nat.mul_comm,
      Nat.sub_mul_mod hb]
  have hcut : ∀ x : Nat, x >>> l' % 2 ^ (h' - l' + 1) = x % 2 ^ l / 2 ^ l' % 2 ^ (h' - l' + 1) := fun x => by
    have hsplit : (2 : Nat) ^ l = 2 ^ l' * 2 ^ (l - l') := by rw [← Nat.pow_add]; congr 1; omega
    rw [Nat.shiftRight_eq_div_pow, hsplit, Nat.mod_mul_right_div_self, Nat.mod_mod_of_dvd _ (Nat.pow_dvd_pow 2 (by omega))]
  rw [bits, bits, hcut, hcut, hlow]

theorem h_flagPoison (c : Coach) {h l : Nat} (hl : l ≤ h) (hh : h < 20) : bits (c.flagPoison.h 0) h l = bits (c.h 0) h l := by
  unfold Coach.flagPoison
  split
  · rfl
  · rw [h_setF _ _ _ _ (by decide), bits_setBits_below _ (by decide) hh hl]

theorem h_departs (c : Coach) {h l : Nat} (hl : l ≤ h) (hh : h < 24) : bits (c.departs.h 0) h l = bits (c.h 0) h l := by
  rw [Coach.departs, h_setF _ _ _ _ (by decide), bits_setBits_below _ (by decide) hh hl]

/-- A coach that is sent carries its invocation's versions. -/
theorem toSend_versions {s : State} {c : Coach} {e : Entrant} (h : s.toSend c = .ok e) :
    bits (e.coach.h 0) 10 7 = s.me.rver % 16 ∧ bits (e.coach.h 0) 14 11 = s.me.tver % 16 := by
  unfold State.toSend at h
  have h := else_of_ne h nofun
  split at h
  · cases h
  · cases h
    constructor
    · rw [h_departs _ (by decide) (by decide), h_flagPoison _ (by decide) (by decide), h_setF _ _ _ _ (by decide),
        bits_setBits_below _ (by decide) (by decide) (by decide), h_setF _ _ _ _ (by decide), bits_setBits _ (by decide) (by decide)]
      rfl
    · rw [h_departs _ (by decide) (by decide), h_flagPoison _ (by decide) (by decide), h_setF _ _ _ _ (by decide),
        bits_setBits _ (by decide) (by decide)]
      rfl

theorem toSend_malformed {s : State} {c : Coach} (h : c.malformed = true) : s.toSend c = .error 3 := if_pos h

theorem toSend_unrouted {s : State} {c : Coach} (h : c.malformed = false) (hr : s.nextStop s.mySlot.heldRoutes c = none) :
    s.toSend c = .error 4 := by
  rw [State.toSend, h, if_neg Bool.false_ne_true, hr]

section
variable {s : State} {o : CFmt} (h : CtxOn s o.gn o.gs) (hv : s.me.rver = s.myTile.rver)
include h hv

theorem exec_ksend : exec (.ksend o) s = .next (s.withCoach 6 fun c s => s.pushed fun s => match s.toSend (c.setF 0 35 28 0) with
    | .error r => s.coachTrap 6 r
    | .ok e => s.place [e] fun s => (s.release 6).advance) := congrArg Host.Outcome.next (routeOp_on h hv _)

theorem exec_kfwd : exec (.kfwd o) s = .next (s.withCoach (coachN o) fun c s => s.pushed fun s =>
    match if o.imm.getLsbD 0 then Advanced.on c else c.advance s.mySlot.heldRoutes with
    | .fault => s.coachTrap (coachN o) 4
    | .ends => ((s.release (coachN o)).kdrop s.die 16).advance
    | .on c1 => match s.toSend c1 with
      | .error r => s.coachTrap (coachN o) r
      | .ok e => s.place [e] fun s => (s.release (coachN o)).advance) := congrArg Host.Outcome.next (routeOp_on h hv _)

theorem exec_ksplit : exec (.ksplit o) s = .next (s.withCoach (coachN o) fun c s => s.pushed fun s =>
    let parts := (List.range (o.f 3 0)).map fun p => s.toSend (c.part p (o.f 3 0) (bits (s.getG o.a) 15 0) (bits (s.getG o.b) 15 0))
    match parts.findSome? fun r => match r with | .error e => some e | .ok _ => none with
    | some e => s.coachTrap (coachN o) e
    | none => s.place (parts.filterMap fun r => match r with | .ok e => some e | .error _ => none) fun s => (s.release (coachN o)).advance) :=
  congrArg Host.Outcome.next (routeOp_on h hv _)

end

/-- Parts that can all be sent give no reason to trap. -/
theorem findSome_ok (es : List Entrant) {f : Except Nat Entrant → Option Nat} (hf : ∀ e, f (.ok e) = none) : (es.map .ok).findSome? f = none := by
  simp [List.findSome?_eq_none_iff, hf]

theorem filterMap_ok (es : List Entrant) {f : Except Nat Entrant → Option Entrant} (hf : ∀ e, f (.ok e) = some e) : (es.map .ok).filterMap f = es := by
  induction es with
  | nil => rfl
  | cons e r ih => rw [List.map_cons, List.filterMap_cons_some (hf e), ih]

/-- Settles O34. -/
theorem coachSendResults : Obligations.CoachSendResults := by
  intro s o h hv n k port sent goes
  have hn : coachN o = n := rfl
  have hk : o.f 3 0 = k := by rw [CFmt.f, Nat.pow_zero, Nat.div_one]; rfl
  have sends : ∀ {i p es}, p = 6 ∨ p = 7 → exec i s = .next (s.place es fun s => (s.release p).advance) → sent i p es := by
    intro i p es hp hi
    exact ⟨fun hroom => ⟨_, hi, place_release h.1 hp es hroom⟩, fun hfull => by rw [hi, place_full hfull]⟩
  have leaves : ∀ {i p c}, p = 6 ∨ p = 7 → exec i s = .next (match s.toSend c with
      | .error r => s.coachTrap p r
      | .ok e => s.place [e] fun s => (s.release p).advance) → goes i p c := by
    intro i p c hp hi
    refine ⟨fun e he => ⟨sends hp (by rw [hi, he]), toSend_versions he⟩, fun hm => ?_, fun hm hr => ?_⟩
    · rw [hi, toSend_malformed hm]; rfl
    · rw [hi, toSend_unrouted hm hr]; rfl
  refine ⟨fun hp c => ⟨fun hc => ?_, fun hn67 hc => ?_⟩, fun hc => ?_, fun hn67 hc => ⟨?_, ?_⟩, fun hp => ⟨fun c hc => leaves (.inl rfl) ?_,
    fun hn67 c hc => ⟨fun hb => leaves hn67 ?_, fun hb => ⟨fun c1 ha => leaves hn67 ?_, fun ha => ?_, fun ha => ?_⟩, fun es hes hparts => sends hn67 ?_⟩⟩⟩
  · rw [exec_ksend h hv, withCoach_some (n := 6) hc, pushed_waits hp]
  · refine forall_two ?_ ?_
    · rw [exec_kfwd h hv, hn, withCoach_some hc, pushed_waits hp]
    · rw [exec_ksplit h hv, hn, withCoach_some hc, pushed_waits hp]
  · rw [exec_ksend h hv, withCoach_none (n := 6) hc]; rfl
  · rw [exec_kfwd h hv, hn, withCoach_none hc]; rfl
  · rw [exec_ksplit h hv, hn, withCoach_none hc]; rfl
  · rw [exec_ksend h hv, withCoach_some (n := 6) hc, pushed_free hp]
  · rw [exec_kfwd h hv, hn, withCoach_some hc, pushed_free hp, hb]; rfl
  · rw [exec_kfwd h hv, hn, withCoach_some hc, pushed_free hp, hb]
    simp only [ha, Bool.false_eq_true, if_false]
  · rw [exec_kfwd h hv, hn, withCoach_some hc, pushed_free hp, hb]
    simp only [ha, Bool.false_eq_true, if_false]
    rfl
  · refine ⟨((s.release n).kdrop s.die 16).advance, ?_, ?_⟩
    · rw [exec_kfwd h hv, hn, withCoach_some hc, pushed_free hp, hb]
      simp only [ha, Bool.false_eq_true, if_false]
    · obtain ⟨hm, htile, hcoach, -⟩ := release_advance (u := (s.release n).kdrop s.die 16) h.1 hn67 ⟨rfl, rfl, fun _ _ _ => rfl⟩ rfl rfl
      refine ⟨hm, hcoach, by rw [htile], fun hd => ?_⟩
      rw [advance_sys]
      exact bits_kdrop (s.release n) hd (by decide)
  · have hall : ((List.range k).map fun p => s.toSend (c.part p k (bits (s.getG o.a) 15 0) (bits (s.getG o.b) 15 0))) = es.map .ok := by
      refine List.ext_getElem (by simp [hes]) fun p hp1 hp2 => ?_
      have hpk : p < es.length := by simpa using hp2
      rw [List.getElem_map, List.getElem_map, List.getElem_range]
      exact hparts p (hes ▸ hpk) _ (List.getElem?_eq_getElem hpk)
    rw [exec_ksplit h hv, hn, hk, withCoach_some hc, pushed_free hp]
    simp only [hall]
    rw [findSome_ok _ fun _ => rfl, filterMap_ok _ fun _ => rfl]

end Sys2Proof.Laws

/-! Places of this module that the elements of an instruction's lanes stand at (15 R333; 16 R370-R372; 05 R128). -/

namespace Sys2Proof.Laws

open Sys2Proof Sys2Proof.Machine Sys2Proof.Safety

/-- Lanes with the places of their elements. -/
def nearPlaces (p : Nat → Phys) (l : List Nat) : List (Nat × Place) := l.map fun i => (i, .mem (p i))

theorem laneCheck_near {s : State} {ea n : Nat} {a : Acc} {p : Phys} (hal : Aligned s ea n) (h : s.check s.req ea n a = .ok p) :
    s.laneCheck ea n a = .ok (.mem p) := by
  rw [State.laneCheck, aligned_sup hal, if_neg Bool.false_ne_true, if_neg (by simp [hal.2]), h]

theorem laneChecks_near {s : State} {ea : Nat → Nat} {n : Nat} {a : Acc} {p : Nat → Phys} {l : List Nat}
    (h : ∀ i ∈ l, s.laneCheck (ea i) n a = .ok (.mem (p i))) : s.laneChecks ea n a l = (nearPlaces p l, none) := by
  induction l with
  | nil => rfl
  | cons i r ih =>
    obtain ⟨hi, hr⟩ := List.forall_mem_cons.1 h
    rw [State.laneChecks, hi]
    simp only [ih hr]
    rfl

theorem farLanes_near (p : Nat → Phys) (l : List Nat) : farLanes (nearPlaces p l) = [] := by
  simp [farLanes, nearPlaces, List.filterMap_map]

/-- Places of this module ask for nothing. -/
theorem farWork_near (s : State) (loc : Nat) (ea : Nat → Nat) (p : Nat → Phys) (l : List Nat) (k n : Nat) (op : RemoteOp)
    (data : Nat → List Byte) (f : List (Nat × RemoteReq) → State → State) : s.farWork loc ea (nearPlaces p l) k n op data f = f [] s := by
  have hreqs : s.laneReqs (nearPlaces p l) k n op data = [] := by
    simp [State.laneReqs, nearPlaces, List.filterMap_map]
  rw [State.farWork, hreqs, farLanes_near]
  rfl

theorem lanePlaces_near {s : State} (hc : s.me.checked = []) {loc : Nat} {ea : Nat → Nat} {n : Nat} {a : Acc} {op : RemoteOp} {p : Nat → Phys}
    {l : List Nat} (h : ∀ i ∈ l, s.laneCheck (ea i) n a = .ok (.mem (p i))) (k : List (Nat × Place) → State → State) :
    s.lanePlaces loc ea n a op l k = k (nearPlaces p l) s := by
  have hl : (l.filter fun i => !s.me.checked.any fun e => e.1 == i) = l := by
    rw [hc]
    exact List.filter_eq_self.2 fun _ _ => rfl
  rw [State.lanePlaces, hl, laneChecks_near h, hc]
  simp only [List.nil_append]
  rw [farWork_near, farLanes_near]
  rfl

/-- Nothing comes of places that each give nothing, such as poison (R288). -/
theorem filterMap_near {β : Type} {f : Nat × Place → Option β} {p : Nat → Phys} {l : List Nat} (h : ∀ i ∈ l, f (i, .mem (p i)) = none) :
    (nearPlaces p l).filterMap f = [] := by
  rw [List.filterMap_eq_nil_iff]
  intro e he
  obtain ⟨i, hi, rfl⟩ := List.mem_map.1 he
  exact h i hi

theorem hot_unsampled {t : State} (h : bit t.sys.hotcfg 16 = false) (q : Req) (a : Acc) (p : Phys) (va : Nat) : t.hot q a p va = t := by
  rw [State.hot, h, Bool.not_false]
  rfl

/-- Where no hotness sample is taken, an access that is performed changes no more than the cached translations (R128). -/
theorem touch_unsampled {s : State} (q : Req) {ea : Nat} (a : Acc) (p : Phys) (h : ea / 2 ^ 60 = 0 → bit s.sys.hotcfg 16 = false) :
    ∃ tlb, s.touch q ea a p = { s with tlb := tlb } := by
  unfold State.touch
  simp only
  split
  · next h0 =>
    have hbit := h (beq_iff_eq.1 h0)
    split
    · split
      · rw [hot_unsampled (by exact hbit)]; exact ⟨_, rfl⟩
      · rw [hot_unsampled hbit]; exact ⟨_, rfl⟩
    · rw [hot_unsampled hbit]; exact ⟨_, rfl⟩
  · exact ⟨_, rfl⟩

/-- The accesses of places at which no sample is taken, or which no home slice keeps. -/
theorem touchLanes_tlb {s : State} {ea : Nat → Nat} {a : Acc} {p : Nat → Phys} {l : List Nat}
    (h : ∀ i ∈ l, ∀ t : State, t.sys = s.sys → ∃ tlb, t.touch t.req (ea i) a (p i) = { t with tlb := tlb }) :
    ∃ tlb, s.touchLanes ea a (nearPlaces p l) = { s with tlb := tlb } := by
  have fold : ∀ (l : List Nat) (t : State), t.sys = s.sys →
      (∀ i ∈ l, ∀ t : State, t.sys = s.sys → ∃ tlb, t.touch t.req (ea i) a (p i) = { t with tlb := tlb }) →
      ∃ tlb, t.touchLanes ea a (nearPlaces p l) = { t with tlb := tlb } := by
    intro l
    induction l with
    | nil => exact fun t _ _ => ⟨t.tlb, rfl⟩
    | cons i r ih =>
      intro t ht h
      obtain ⟨hi, hr⟩ := List.forall_mem_cons.1 h
      obtain ⟨tlb, e⟩ := hi t ht
      have hstep : t.touchLanes ea a (nearPlaces p (i :: r)) = (t.touch t.req (ea i) a (p i)).touchLanes ea a (nearPlaces p r) := rfl
      rw [hstep, e]
      obtain ⟨tlb', e'⟩ := ih { t with tlb := tlb } ht hr
      exact ⟨tlb', e'⟩
  exact fold l s rfl h

end Sys2Proof.Laws

/-! O29: the instructions on an APE (17 R391-R394; 09 R152, R205, R206). -/

namespace Sys2Proof.Laws

open Sys2Proof Sys2Proof.Machine Sys2Proof.Safety

/-! What an instruction leaves an APE as. -/

theorem ape_advance (s : State) (e : Nat) : s.advance.myTile.ape e = s.myTile.ape e := by
  rw [State.advance, myTile_modHart]
  rfl

theorem ape_modApe (s : State) (e : Nat) (f : Ape → Ape) : (s.modMyTile fun t => t.modApe e f).myTile.ape e = f (s.myTile.ape e) := by
  have h : (s.modMyTile fun t => t.modApe e f).myTile = s.myTile.modApe e f := tile_modTile_self ..
  rw [h]
  exact tbl_get_set_self ..

theorem movedOn_of_same {s t : State} (h : SameAgents s t) (hm : t.mem = s.mem) : MovedOn s t.advance :=
  ⟨steps_of_kept h.pc hm h.kept (steps_advance t), fun n => (getG_advance t n).trans (h.getG n)⟩

/-- An APE restarted stands as its change leaves it, does not withhold, and has read nothing ahead (R392, R393). -/
theorem restart_ape (s : State) (e : Nat) (f : Ape → Ape) : MovedOn s (s.restart e f)
    ∧ (s.restart e f).myTile.ape e = { f { s.myTile.ape e with ahead := [], page := none } with wh := false } := by
  obtain ⟨u, hu⟩ : ∃ u, (s.unwithhold (apeUnit s.die s.tix e).u).rereads s.die s.tix e = u := ⟨_, rfl⟩
  have hsame : SameAgents s u := hu ▸ SameAgents.trans (t := (s.unwithhold (apeUnit s.die s.tix e).u).forgetWhere _)
    ⟨rfl, rfl, fun _ _ _ => rfl⟩ (sameAgents_modTile _ _ _ rfl)
  have hmem : u.mem = s.mem := hu ▸ rfl
  have hape : u.myTile.ape e = { s.myTile.ape e with ahead := [], page := none } := by
    rw [← hu]
    exact (ape_rereads (s.unwithhold (apeUnit s.die s.tix e).u) e e).trans (if_pos rfl)
  have hr : s.restart e f = ((u.modMyTile fun t => t.modApe e fun a => { f a with wh := false }).post 1
    .apeElement (.tileIdx { die := s.die, tile := s.tix, i := e })).advance := by rw [← hu]; rfl
  have hmod : SameAgents u (u.modMyTile fun t => t.modApe e fun a => { f a with wh := false }) := sameAgents_modTile _ _ _ rfl
  rw [hr]
  refine ⟨movedOn_of_same (hsame.trans (hmod.trans (sameAgents_post _ _ _ _))) hmem, ?_⟩
  rw [ape_advance, ← hape]
  exact ape_modApe u e fun a => { f a with wh := false }

/-- An APE that words give. -/
def freshApe (f : Nat → Word) : Ape := { Ape.init with cfg := Vector.ofFn fun i => f i.val }

theorem configure_good {s : State} {e : Nat} {f : Nat → Word} (h : (freshApe f).bad = false) : let t := s.configure e f
    MovedOn s t ∧ (t.myTile.ape e).cfg = (freshApe f).cfg ∧ (t.myTile.ape e).pos = 0 ∧ (t.myTile.ape e).fin = true
      ∧ (t.myTile.ape e).wh = false ∧ (t.myTile.ape e).ahead = [] ∧ (t.myTile.ape e).page = none := by
  have ht : s.configure e f = s.restart e fun a => { a with cfg := (freshApe f).cfg, pos := 0, fin := true } :=
    if_neg (Bool.eq_false_iff.1 h)
  obtain ⟨hm, hape⟩ := restart_ape s e fun a => { a with cfg := (freshApe f).cfg, pos := 0, fin := true }
  intro t
  rw [show t = _ from ht, hape]
  exact ⟨hm, rfl, rfl, rfl, rfl, rfl, rfl⟩

theorem configure_bad {s : State} {e : Nat} {f : Nat → Word} (h : (freshApe f).bad = true) :
    s.configure e f = s.trap 7 0 (BitVec.ofNat 64 (2 ^ 63 + e * 2 ^ 56)) := if_pos h

section
variable {s : State} {o : CFmt} {m : Word} (h : LanesOn s o.gn o.gs m) {e : Nat} (he : o.imm.toNat % 16 = e)
include h he

theorem apeOp_taken (ht : s.myTile.taken s.cix e = true) (k : Nat → State → State) : s.apeOp o k = s.waits (.capture e) := by
  subst he
  exact (masked_on h _).trans (if_pos ht)

theorem apeOp_free (ht : s.myTile.taken s.cix e = false) (k : Nat → State → State) : s.apeOp o k = k e s := by
  subst he
  exact (masked_on h _).trans (if_neg (Bool.eq_false_iff.1 ht))

end

/-! APCFG.m (R392). -/

/-- An address of control space that passes its checks is a supervisor's. -/
theorem check_sup {s : State} {ea n : Nat} {a : Acc} {p : Phys} (h : s.check s.req ea n a = .ok p) (h4 : ea / 2 ^ 60 = 4) : s.isSup = true := by
  rw [State.check, h4] at h
  have hsup : s.req.sup = true := by
    by_contra hn
    rw [State.path4, Bool.eq_false_iff.2 hn] at h
    cases h
  unfold State.req at hsup
  split at hsup
  · exact hsup
  · next hc => rw [State.isSup, State.onCore, hc]; rfl

/-- Word k of a record. -/
theorem recordWord_toNat {ea k : Nat} (hea : ea < 2 ^ 64) (hal : ea % 64 = 0) (hk : k < 8) : (w64 ea + w64 (8 * k)).toNat = ea + 8 * k := by
  rw [BitVec.toNat_add, w64, w64, BitVec.toNat_ofNat, BitVec.toNat_ofNat]
  omega

section
variable {s : State} {ea : Nat} {p : Nat → Phys} (hea : ea < 2 ^ 64) (hal : ea % 64 = 0) (hck : s.me.checked = [])
  (hot : ea / 2 ^ 60 = 0 → bit s.sys.hotcfg 16 = false)
  (hp : ∀ k, k < 8 → s.check s.req (ea + 8 * k) 8 .read = .ok (p k) ∧ s.poisonFor s.req (p k) = false)
include hea hal hck hot hp

/-- The words of a record at this module, and the state they are read in. -/
theorem readWords_near (k : List Word → State → State) : ∃ tlb, s.readWords ea 8 k =
    k ((List.range 8).map fun i => w64 (s.rdFor s.req (p i) 8)) (({ s with tlb := tlb } : State).modMe fun x => { x with checked := [] }) := by
  have hat : ∀ i ∈ List.range 8, (w64 ea + w64 (8 * i)).toNat = ea + 8 * i := fun i hi =>
    recordWord_toNat hea hal (List.mem_range.1 hi)
  have hchk : ∀ i ∈ List.range 8, s.laneCheck (w64 ea + w64 (8 * i)).toNat 8 .read = .ok (.mem (p i)) := by
    intro i hi
    have hi8 := List.mem_range.1 hi
    rw [hat i hi]
    exact laneCheck_near ⟨check_sup (hp i hi8).1, by omega⟩ (hp i hi8).1
  have hpois : ∀ i ∈ List.range 8, s.poisonFor s.req (p i) = false := fun i hi => (hp i (List.mem_range.1 hi)).2
  obtain ⟨tlb, ht⟩ := touchLanes_tlb (s := s) (ea := fun i => (w64 ea + w64 (8 * i)).toNat) (a := .read) (p := p) (l := List.range 8)
    fun i hi t hsys => touch_unsampled t.req .read (p i) fun h0 => by
      rw [hsys]
      rw [hat i hi] at h0
      exact hot (by have := List.mem_range.1 hi; omega)
  refine ⟨tlb, ?_⟩
  rw [State.readWords]
  simp only
  rw [lanePlaces_near hck hchk, farWork_near]
  simp only [List.filterMap_nil, List.append_nil]
  rw [filterMap_near fun i hi => if_neg (Bool.eq_false_iff.1 (hpois i hi)), ht]
  simp only [leastAddr, List.foldl_nil, nearPlaces, List.map_map, Function.comp_def]

end

theorem freshApe_congr {f g : Nat → Word} (h : ∀ i, i < 6 → f i = g i) : freshApe f = freshApe g := by
  have hv : (Vector.ofFn fun i : Fin 6 => f i.val) = Vector.ofFn fun i : Fin 6 => g i.val := congrArg _ (funext fun i => h i.val i.isLt)
  rw [freshApe, freshApe, hv]

theorem configure_congr {f g : Nat → Word} (h : ∀ i, i < 6 → f i = g i) (s : State) (e : Nat) : s.configure e f = s.configure e g := by
  have hf : ∀ f, s.configure e f = if (freshApe f).bad then s.apeRefused e else s.restart e fun a => { a with cfg := (freshApe f).cfg, pos := 0, fin := true } :=
    fun _ => rfl
  rw [hf, hf, freshApe_congr h]

/-- What the read of a record leaves: translations, and the lanes' checks forgotten. -/
theorem readRecord_keeps {s : State} (hc : s.onCore = false) (tlb : List TlbEntry) :
    let u := ({ s with tlb := tlb } : State).modMe fun x => { x with checked := [] }
    u.mem = s.mem ∧ u.myTile.apes = s.myTile.apes ∧ ∀ t, MovedOn u t → MovedOn s t := by
  intro u
  have hs : SameAgents s { s with tlb := tlb } := ⟨rfl, rfl, fun _ _ _ => rfl⟩
  obtain ⟨hk, hm, hg, hpc⟩ := keeps_modMe (s := s) (t := { s with tlb := tlb }) (fun x => { x with checked := [] }) hc
    ⟨hs.kept, rfl, hs.getG, hs.pc⟩ ⟨_, _, _, _, _, rfl⟩
  refine ⟨rfl, ?_, fun t ht => ?_⟩
  · rw [myTile_modMe]; rfl
  · obtain ⟨hst, hgr⟩ := ht
    exact ⟨steps_of_kept hpc hm hk hst, fun n => (hgr n).trans (hg n)⟩

theorem appos_position (a : Ape) : bits (a.words.getD 6 0) 47 0 = a.pos % 2 ^ 48 := by
  have hw : a.words.getD 6 0 = w64 (a.pos % 2 ^ 48 + b2n a.fin * 2 ^ 48 + b2n a.wh * 2 ^ 49) := by
    simp [Ape.words]
  rw [hw, bits, w64, BitVec.toNat_ofNat, Nat.shiftRight_eq_div_pow]
  omega

/-! Each instruction on an APE that no other context's capture holds (R392, R393). -/

/-- The instruction i gives APE e the words f, or traps PORT where they are refused. -/
def ApeSet (s : State) (e : Nat) (i : Instr) (f : Nat → Word) : Prop :=
  ((freshApe f).bad = false → ∃ t, exec i s = .next t ∧ MovedOn s t ∧ (t.myTile.ape e).cfg = (freshApe f).cfg
    ∧ (t.myTile.ape e).pos = 0 ∧ (t.myTile.ape e).fin = true ∧ (t.myTile.ape e).wh = false ∧ (t.myTile.ape e).ahead = []
    ∧ (t.myTile.ape e).page = none)
  ∧ ((freshApe f).bad = true → exec i s = .next (s.trap 7 0 (BitVec.ofNat 64 (2 ^ 63 + e * 2 ^ 56))))

/-- The instruction i leaves APE e at a position, with its words. -/
def ApeRun (s : State) (e : Nat) (i : Instr) (pos : Nat) (fin : Bool) : Prop :=
  ∃ t, exec i s = .next t ∧ MovedOn s t ∧ (t.myTile.ape e).cfg = (s.myTile.ape e).cfg
    ∧ (t.myTile.ape e).pos = pos ∧ (t.myTile.ape e).fin = fin ∧ (t.myTile.ape e).ahead = []

theorem apeSet_of_configure {s : State} {e : Nat} {i : Instr} {f : Nat → Word} (h : exec i s = .next (s.configure e f)) : ApeSet s e i f :=
  ⟨fun hg => ⟨_, h, configure_good hg⟩, fun hb => by rw [h, configure_bad hb]⟩

/-- The change f of an APE keeps its words, leaves it at a position, and reads nothing ahead. -/
def PlacesApe (f : Ape → Ape) (x : Ape) (pos : Nat) (fin : Bool) : Prop :=
  (f x).cfg = x.cfg ∧ (f x).pos = pos ∧ (f x).fin = fin ∧ (f x).ahead = []

theorem apeRun_of_restart {s : State} {e : Nat} {i : Instr} {f : Ape → Ape} {pos : Nat} {fin : Bool}
    (hi : exec i s = .next (s.restart e f)) (hf : PlacesApe f { s.myTile.ape e with ahead := [], page := none } pos fin) :
    ApeRun s e i pos fin := by
  obtain ⟨hm, hape⟩ := restart_ape s e f
  obtain ⟨hcfg, hpos, hfin, hahead⟩ := hf
  refine ⟨_, hi, hm, ?_, ?_, ?_, ?_⟩ <;> rw [hape]
  · exact hcfg
  · exact hpos
  · exact hfin
  · exact hahead

section
variable {s : State} {o : CFmt} {m : Word} (h : LanesOn s o.gn o.gs m) {e : Nat} (he : o.imm.toNat % 16 = e)
  (ht : s.myTile.taken s.cix e = false)
include h he ht

theorem apcfgR_set : ApeSet s e (.apcfgR o) fun i => if i = 0 then s.getG o.a else if i = 1 then s.getG o.b else (s.myTile.ape e).w i := by
  refine apeSet_of_configure (congrArg (Host.Outcome.next : State → Res) ((apeOp_free h he ht fun e s => s.configure e fun i =>
    match i with | 0 => s.getG o.a | 1 => s.getG o.b | k => (s.myTile.ape e).w k).trans (configure_congr (fun i _ => ?_) s e)))
  match i with
  | 0 => rfl
  | 1 => rfl
  | k + 2 => rfl

theorem apdim_set : ApeSet s e (.apdim o) fun i => if i = 2 + o.imm.toNat / 16 % 4 then s.getG o.a else (s.myTile.ape e).w i := by
  refine apeSet_of_configure (congrArg (Host.Outcome.next : State → Res) ((apeOp_free h he ht fun e s => s.configure e fun i =>
    if i == 2 + o.imm.toNat / 16 % 4 then s.getG o.a else (s.myTile.ape e).w i).trans (configure_congr (fun i _ => ?_) s e)))
  simp only [beq_iff_eq]

theorem apcfgPre_set {w : Vector Word 6} (hv : s.me.tver = s.myTile.tver) (hw : s.myTile.presets[o.imm.toNat / 256 % 16]? = some w) :
    ApeSet s e (.apcfgPre o) fun i => vget w i 0 := by
  have hver : s.tverBad = none := if_neg (Bool.eq_false_iff.1 (bne_eq_false_iff_eq.2 hv))
  have hx := congrArg (Host.Outcome.next : State → Res) (apeOp_free h he ht fun e s => match s.tverBad with
    | some t => t
    | none => match s.myTile.presets[o.imm.toNat / 256 % 16]? with
      | none => s.apeRefused e
      | some p => s.configure e fun i => vget p i 0)
  rw [hver, hw] at hx
  exact apeSet_of_configure hx

theorem apcfgPre_version (hv : s.me.tver ≠ s.myTile.tver) : ∃ v, exec (.apcfgPre o) s = .next (s.trap 8 0 v) := by
  have hver : s.tverBad = some (s.trap 8 0 (w64 (256 + s.myTile.tver % 16 * 16 + s.me.tver % 16))) := if_pos (bne_iff_ne.2 hv)
  have hx := congrArg (Host.Outcome.next : State → Res) (apeOp_free h he ht fun e s => match s.tverBad with
    | some t => t
    | none => match s.myTile.presets[o.imm.toNat / 256 % 16]? with
      | none => s.apeRefused e
      | some p => s.configure e fun i => vget p i 0)
  rw [hver] at hx
  exact ⟨_, hx⟩

theorem apstart_run : ApeRun s e (.apstart o) 0 false :=
  apeRun_of_restart (congrArg (Host.Outcome.next : State → Res) (apeOp_free h he ht fun e s =>
    s.restart e fun a => { a with pos := 0, fin := false })) ⟨rfl, rfl, rfl, rfl⟩

theorem apseek_run : ApeRun s e (.apseek o) ((s.getG o.a).toNat % 2 ^ 48) (decide ((s.myTile.ape e).len ≤ (s.getG o.a).toNat % 2 ^ 48)) := by
  have hb : bits (s.getG o.a) 47 0 = (s.getG o.a).toNat % 2 ^ 48 := by rw [bits, Nat.shiftRight_zero]
  rw [← hb]
  exact apeRun_of_restart (congrArg (Host.Outcome.next : State → Res) (apeOp_free h he ht fun e s =>
    s.restart e fun a => { a with pos := bits (s.getG o.a) 47 0, fin := a.len ≤ bits (s.getG o.a) 47 0 })) ⟨rfl, rfl, rfl, rfl⟩

theorem apstop_run : ApeRun s e (.apstop o) (s.myTile.ape e).pos true := by
  refine ⟨_, congrArg (Host.Outcome.next : State → Res) (apeOp_free h he ht fun e s =>
    (s.modMyTile fun t => t.modApe e fun a => { a with fin := true, ahead := [] }).advance),
    movedOn_of_same (sameAgents_modTile _ _ _ rfl) rfl, ?_⟩
  rw [ape_advance, ape_modApe]
  exact ⟨rfl, rfl, rfl, rfl⟩

theorem appos_result : ∃ t, exec (.appos o) s = .next t ∧ Steps s t ∧ (∀ n, n ≠ o.d → t.getG n = s.getG n)
    ∧ (o.d ≠ 0 → bits (t.getG o.d) 47 0 = (s.myTile.ape e).pos % 2 ^ 48) := by
  obtain ⟨t, hset⟩ : ∃ t, s.setG o.d ((s.myTile.ape e).words.getD 6 0) = t := ⟨_, rfl⟩
  have hmod : SameAgents t (t.modMyTile fun t => t.modApe e fun a => { a with ahead := [] }) := sameAgents_modTile _ _ _ rfl
  have hx : exec (.appos o) s = .next (t.modMyTile fun t => t.modApe e fun a => { a with ahead := [] }).advance := by
    rw [← hset]
    exact congrArg (Host.Outcome.next : State → Res) (apeOp_free h he ht fun e s =>
      ((s.setG o.d ((s.myTile.ape e).words.getD 6 0)).modMyTile fun t => t.modApe e fun a => { a with ahead := [] }).advance)
  refine ⟨_, hx, ?_, fun n hn => ?_, fun hd => ?_⟩
  · exact steps_of_kept (hset ▸ pc_setG ..) (hset ▸ setG_mem ..) (hset ▸ kept_setG ..)
      (movedOn_of_same hmod rfl).1
  · rw [getG_advance, hmod.getG, ← hset, getG_setG_ne _ _ _ _ hn]
  · rw [getG_advance, hmod.getG, ← hset, getG_setG_self _ _ _ hd, appos_position]

end

/-! APCFG.m (R392). -/

/-- Whether the address of an APCFG.m is control space that the executing context may not name (R295). -/
def ApcfgDenied (s : State) (o : CFmt) : Bool := !s.onCore && !s.isSup && (s.getG o.a).toNat / 2 ^ 60 == 4

theorem exec_apcfgM {s : State} {o : CFmt} (h : ApcfgDenied s o = false) : exec (.apcfgM o) s = .next (s.apeOp o fun e s =>
    if (s.getG o.a).toNat % 64 != 0 then s.trap 3 1 (w64 (s.getG o.a).toNat)
    else s.readWords (s.getG o.a).toNat 8 fun ws s => s.configure e fun i => ws.getD i 0) :=
  congrArg (Host.Outcome.next : State → Res) (if_neg (Bool.eq_false_iff.1 h))

theorem not_apcfgDenied {s : State} {o : CFmt} (h : (s.getG o.a).toNat / 2 ^ 60 ≠ 4 ∨ s.isSup = true) : ApcfgDenied s o = false := by
  rcases h with h | h
  · rw [ApcfgDenied, beq_eq_false_iff_ne.2 h, Bool.and_false]
  · rw [ApcfgDenied, h, Bool.not_true, Bool.and_false, Bool.false_and]

section
variable {s : State} {o : CFmt} {m : Word} (h : LanesOn s o.gn o.gs m) {e : Nat} (he : o.imm.toNat % 16 = e)
  (ht : s.myTile.taken s.cix e = false) {p : Nat → Phys} (hal : (s.getG o.a).toNat % 64 = 0) (hck : s.me.checked = [])
  (hot : (s.getG o.a).toNat / 2 ^ 60 = 0 → bit s.sys.hotcfg 16 = false)
  (hp : ∀ k, k < 8 → s.check s.req ((s.getG o.a).toNat + 8 * k) 8 .read = .ok (p k) ∧ s.poisonFor s.req (p k) = false)
include h he ht hal hck hot hp

/-- APCFG.m gives the APE the words of its record at this module, in a state that differs by what the reads leave. -/
theorem apcfgM_configure : ∃ tlb, exec (.apcfgM o) s = .next
    (State.configure (({ s with tlb := tlb } : State).modMe fun x => { x with checked := [] }) e fun i => BitVec.ofNat 64 (s.rdFor s.req (p i) 8)) := by
  obtain ⟨tlb, hread⟩ := readWords_near (BitVec.isLt _) hal hck hot hp fun ws s => s.configure e fun i => ws.getD i 0
  refine ⟨tlb, (exec_apcfgM (not_apcfgDenied ?_)).trans (congrArg (Host.Outcome.next : State → Res) ?_)⟩
  · by_cases h4 : (s.getG o.a).toNat / 2 ^ 60 = 4
    · exact Or.inr (check_sup (hp 0 (by omega)).1 h4)
    · exact Or.inl h4
  · rw [apeOp_free h he ht, if_neg (by simp [hal]), hread]
    refine configure_congr (fun i hi => ?_) _ _
    rw [List.getD_eq_getElem?_getD, List.getElem?_map, List.getElem?_range (by omega)]
    rfl

theorem apcfgM_good (hg : (freshApe fun i => BitVec.ofNat 64 (s.rdFor s.req (p i) 8)).bad = false) (hc : s.onCore = false) :
    ∃ t, exec (.apcfgM o) s = .next t ∧ MovedOn s t
      ∧ (t.myTile.ape e).cfg = (freshApe fun i => BitVec.ofNat 64 (s.rdFor s.req (p i) 8)).cfg
      ∧ (t.myTile.ape e).pos = 0 ∧ (t.myTile.ape e).fin = true := by
  obtain ⟨tlb, hx⟩ := apcfgM_configure h he ht hal hck hot hp
  obtain ⟨-, -, hmove⟩ := readRecord_keeps (s := s) hc tlb
  obtain ⟨hm, hcfg, hpos, hfin, -⟩ := configure_good (s := ({ s with tlb := tlb } : State).modMe fun x => { x with checked := [] }) (e := e) hg
  exact ⟨_, hx, hmove _ hm, hcfg, hpos, hfin⟩

theorem apcfgM_bad (hb : (freshApe fun i => BitVec.ofNat 64 (s.rdFor s.req (p i) 8)).bad = true) (hc : s.onCore = false) :
    ∃ u : State, exec (.apcfgM o) s = .next (u.trap 7 0 (BitVec.ofNat 64 (2 ^ 63 + e * 2 ^ 56)))
      ∧ u.mem = s.mem ∧ u.myTile.apes = s.myTile.apes := by
  obtain ⟨tlb, hx⟩ := apcfgM_configure h he ht hal hck hot hp
  obtain ⟨hmem, hapes, -⟩ := readRecord_keeps (s := s) hc tlb
  rw [configure_bad hb] at hx
  exact ⟨_, hx, hmem, hapes⟩

end

/-- Settles O29. -/
theorem apeResults : Obligations.ApeResults := by
  intro s o m h e a fresh set run taken
  have next := fun {u v : State} (e : u = v) => congrArg (Host.Outcome.next : State → Res) e
  refine ⟨fun hh => ?_, fun ht => ⟨?_, fun hp => ?_⟩, fun ht => ?_⟩
  · show Tile.taken s.myTile s.cix e = true
    rw [Tile.taken, bne_iff_ne.2 hh, Bool.true_or]
  · have waits := fun k => next (apeOp_taken h (e := e) rfl ht k)
    simp only [List.forall_mem_cons, List.not_mem_nil, IsEmpty.forall_iff, implies_true, and_true]
    exact ⟨waits _, waits _, waits _, waits _, waits _, waits _, waits _⟩
  · exact (exec_apcfgM (not_apcfgDenied hp)).trans (next (apeOp_taken h (e := e) rfl ht _))
  · exact ⟨apcfgR_set h rfl ht, apdim_set h rfl ht, fun w hv hw => apcfgPre_set h rfl ht hv hw, apcfgPre_version h rfl ht,
      fun p hal hck hot hp => ⟨fun hg => apcfgM_good h rfl ht hal hck hot hp hg h.1, fun hb => apcfgM_bad h rfl ht hal hck hot hp hb h.1⟩,
      apstart_run h rfl ht, apstop_run h rfl ht, apseek_run h rfl ht, appos_result h rfl ht⟩

end Sys2Proof.Laws

/-! O33: KNEW, KHDR, KSET, KDROP and KMRG (18 R406, R409, R410, R412, R413; 08 R195). -/

namespace Sys2Proof.Laws

open Sys2Proof Sys2Proof.Machine Sys2Proof.Safety

/-! The coach buffers. -/

/-- A change of a context that leaves its hart's registers, and the instruction over. -/
theorem modMe_advance {s : State} (hc : s.onCore = false) (f : Context → Context) (hf : (f s.me).hart = s.me.hart) :
    let t := (s.modMe f).advance
    MovedOn s t ∧ t.me = { f s.me with hart := { s.me.hart with pc := s.me.hart.pc + 8, wait := .run } } := by
  intro t
  have hk := keeps_modMe f hc (keeps_refl s) ⟨_, _, _, _, _, hf⟩
  have hu : (s.modMe f).onCore = false := (onCore_modMe s f).trans hc
  exact ⟨movedOn_advance hu hk, by rw [me_advance hu, me_modMe, hf]⟩

theorem allocate_result {s : State} (hc : s.onCore = false) (c : Coach) : let t := s.allocate c
    MovedOn s t ∧ t.me.q6 = some c ∧ t.me.q7 = s.me.q7
      ∧ t.port 6 = { bnd := true, kb := true, ape := 0, ncol := 0, typ := tagType c.fmt, pos := 0, fin := false } := by
  intro t
  obtain ⟨hm, hme⟩ := modMe_advance hc (fun x => { x with
    q6 := some c, ports := vput x.ports 6 { PortBind.init with bnd := true, kb := true, typ := tagType c.fmt } }) rfl
  refine ⟨hm, (congrArg Context.q6 hme).trans rfl, (congrArg Context.q7 hme).trans rfl, ?_⟩
  exact (congrArg (fun x => vget x.ports 6 .init) hme).trans (vget_vput_self _ _ _ _ (by decide))

theorem portCoach_setCoach {s t : State} {n : Nat} (hn : n = 6 ∨ n = 7) {c : Coach} (h6 : t.me.q6 = (s.me.setCoach n (some c)).q6)
    (h7 : t.me.q7 = (s.me.setCoach n (some c)).q7) : t.portCoach n = some c ∧ t.portCoach (13 - n) = s.portCoach (13 - n) := by
  rcases hn with rfl | rfl
  · exact ⟨h6, h7⟩
  · exact ⟨h7, h6⟩

theorem h_setH (c : Coach) (w : Nat) (v : Word) {k : Nat} (hk : k < 8) : (c.setH w v).h k = if k = w then v else c.h k := by
  rw [Coach.h, Coach.setH]
  split
  · next hw => subst hw; exact vget_vput_self _ _ _ _ hk
  · next hw => exact vget_vput_ne _ _ _ (Ne.symm hw)

/-- KNEW's header. -/
def newHeader (s : State) (o : CFmt) : Vector Word 8 :=
  vput (vput (vput zero8 0 (s.getG o.a &&& hdrMask)) 3
    (w64 (bits s.sys.podcfg 5 0 + s.die * 2 ^ 8 + s.tix * 2 ^ 10 + s.cix * 2 ^ 18))) 4 (s.getG o.b)

theorem newHeader_word (s : State) (o : CFmt) : vget (newHeader s o) 0 0 = s.getG o.a &&& hdrMask ∧ vget (newHeader s o) 4 0 = s.getG o.b
    ∧ vget (newHeader s o) 3 0 = w64 (bits s.sys.podcfg 5 0 + s.die * 2 ^ 8 + s.tix * 2 ^ 10 + s.cix * 2 ^ 18)
    ∧ ∀ k, k ≠ 0 → k ≠ 3 → k ≠ 4 → vget (newHeader s o) k 0 = 0 := by
  refine ⟨?_, ?_, ?_, fun k h0 h3 h4 => ?_⟩
  · rw [newHeader, vget_vput_ne _ _ _ (by decide), vget_vput_ne _ _ _ (by decide), vget_vput_self _ _ _ _ (by decide)]
  · exact vget_vput_self _ _ _ _ (by decide)
  · rw [newHeader, vget_vput_ne _ _ _ (by decide), vget_vput_self _ _ _ _ (by decide)]
  · rw [newHeader, vget_vput_ne _ _ _ h4.symm, vget_vput_ne _ _ _ h3.symm, vget_vput_ne _ _ _ h0.symm]
    unfold vget zero8
    split <;> simp

theorem ksetMask_eq (w n : Nat) : ksetMask w n = if w = 0 then (0x0FFFFFF00E2F807F : Word) else if w = 3 then 0x1FE00000
    else if w = 4 ∧ n ≠ 6 then 0xFFFFFFFF0000FFFF else BitVec.allOnes 64 := by
  match w with
  | 0 | 1 | 2 | 3 => rfl
  | 4 => by_cases hn : n = 6 <;> simp [ksetMask, hn]
  | w + 5 => simp [ksetMask]

section
variable {s : State} {o : CFmt} (h : CtxOn s o.gn o.gs)
include h

theorem routeOp_version (hv : s.me.rver ≠ s.myTile.rver) : ∃ v, ∀ k, s.routeOp o k = s.trap 8 0 v := by
  have hr : s.rverBad = some (s.trap 8 0 (w64 (s.myTile.rver % 16 * 16 + s.me.rver % 16))) := if_pos (bne_iff_ne.2 hv)
  refine ⟨w64 (s.myTile.rver % 16 * 16 + s.me.rver % 16), fun k => (guardedCtx_on h _).trans ?_⟩
  simp only [hr]

theorem exec_khdr : exec (.khdr o) s = .next (s.withCoach (coachN o) fun c s => (s.setG o.d (c.h (o.f 2 0))).advance) :=
  congrArg Host.Outcome.next (guardedCtx_on h _)

theorem exec_kset : exec (.kset o) s = .next (s.withCoach (coachN o) fun c s =>
    (s.modMe fun x => x.setCoach (coachN o) (some (c.setH (o.f 2 0)
      ((c.h (o.f 2 0) &&& ~~~ksetMask (o.f 2 0) (coachN o)) ||| (s.getG o.a &&& ksetMask (o.f 2 0) (coachN o)))))).advance) :=
  congrArg Host.Outcome.next (guardedCtx_on h _)

theorem exec_kdrop : exec (.kdrop o) s = .next (s.withCoach (coachN o) fun _ s =>
    if coachN o == 6 then s.pushed fun s => (s.release (coachN o)).advance else (s.release (coachN o)).advance) :=
  congrArg Host.Outcome.next (guardedCtx_on h _)

theorem exec_knew (hv : s.me.rver = s.myTile.rver) (hq : s.me.q6 = none) : exec (.knew o) s = .next (s.allocate
    { hdr := newHeader s o, pay := List.replicate (bits (s.getG o.b) 31 16) 0, pois := [] }) := by
  refine congrArg Host.Outcome.next ((routeOp_on h hv _).trans ?_)
  rw [hq]
  rfl

theorem exec_knewC (hv : s.me.rver = s.myTile.rver) (hq : s.me.q6 = none) :
    exec (.knewC o) s = .next (s.withCoach 7 fun c s => s.allocate c) := by
  refine congrArg Host.Outcome.next ((routeOp_on h hv _).trans ?_)
  rw [hq]
  rfl

/-- KNEW and KNEW.c trap where the outgoing buffer is held (R409). -/
theorem knew_held (hv : s.me.rver = s.myTile.rver) (hq : s.me.q6 ≠ none) :
    exec (.knew o) s = .next (s.coachTrap 6 2) ∧ exec (.knewC o) s = .next (s.coachTrap 6 2) := by
  obtain ⟨c, hc⟩ := Option.ne_none_iff_exists'.1 hq
  constructor
  all_goals
    refine congrArg Host.Outcome.next ((routeOp_on h hv _).trans ?_)
    rw [hc]
    rfl

theorem knew_result (hv : s.me.rver = s.myTile.rver) (hq : s.me.q6 = none) : ∃ t c, exec (.knew o) s = .next t ∧ MovedOn s t
    ∧ t.me.q6 = some c ∧ t.me.q7 = s.me.q7
    ∧ t.port 6 = { bnd := true, kb := true, ape := 0, ncol := 0, typ := tagType (bits (s.getG o.a &&& hdrMask) 6 4), pos := 0, fin := false }
    ∧ c.h 0 = s.getG o.a &&& hdrMask ∧ c.h 4 = s.getG o.b ∧ c.pay = List.replicate ((s.getG o.b).toNat / 2 ^ 16 % 2 ^ 16) 0 ∧ c.pois = []
    ∧ c.h 3 = BitVec.ofNat 64 (s.sys.podcfg.toNat % 64 + s.die * 2 ^ 8 + s.tix * 2 ^ 10 + s.cix * 2 ^ 18)
    ∧ ∀ k, k ≠ 0 → k ≠ 3 → k ≠ 4 → c.h k = 0 := by
  have hbits : bits (s.getG o.b) 31 16 = (s.getG o.b).toNat / 2 ^ 16 % 2 ^ 16 := by rw [bits, Nat.shiftRight_eq_div_pow]
  have hpod : bits s.sys.podcfg 5 0 = s.sys.podcfg.toNat % 64 := by rw [bits, Nat.shiftRight_zero]; rfl
  obtain ⟨hm, h6, h7, hp⟩ := allocate_result h.1 { hdr := newHeader s o, pay := List.replicate (bits (s.getG o.b) 31 16) 0, pois := [] }
  obtain ⟨w0, w4, w3, wk⟩ := newHeader_word s o
  have hfmt : Coach.fmt { hdr := newHeader s o, pay := List.replicate (bits (s.getG o.b) 31 16) 0, pois := [] }
      = bits (s.getG o.a &&& hdrMask) 6 4 := congrArg (bits · 6 4) w0
  rw [hfmt] at hp
  exact ⟨_, _, exec_knew h hv hq, hm, h6, h7, hp, w0, w4, by rw [hbits], rfl, by rw [← hpod]; exact w3, wk⟩

theorem knewC_result (hv : s.me.rver = s.myTile.rver) (hq : s.me.q6 = none) {c : Coach} (hc : s.me.q7 = some c) :
    ∃ t, exec (.knewC o) s = .next t ∧ MovedOn s t ∧ t.me.q6 = some c ∧ t.me.q7 = some c
      ∧ t.port 6 = { bnd := true, kb := true, ape := 0, ncol := 0, typ := tagType c.fmt, pos := 0, fin := false } := by
  obtain ⟨hm, h6, h7, hp⟩ := allocate_result h.1 c
  exact ⟨_, (exec_knewC h hv hq).trans (congrArg Host.Outcome.next (withCoach_some (n := 7) hc _)), hm, h6, h7.trans hc, hp⟩

/-- Without a coach at the port, its instructions trap (R406). -/
theorem coachless_traps (hc : s.portCoach (coachN o) = none) : ∀ i ∈ [Instr.khdr o, .kset o, .kdrop o],
    exec i s = .next (s.coachTrap (coachN o) 1) := by
  simp only [List.forall_mem_cons, List.not_mem_nil, IsEmpty.forall_iff, implies_true, and_true]
  rw [exec_khdr h, exec_kset h, exec_kdrop h, withCoach_none hc, withCoach_none hc, withCoach_none hc]
  exact ⟨rfl, rfl, rfl⟩

theorem kdrop_waits {c : Coach} (hc : s.portCoach (coachN o) = some c) (h6 : coachN o = 6) (hp : s.myTile.pushing s.cix = true) : exec (.kdrop o) s = .next (s.waits .pushes) := by
  rw [exec_kdrop h, withCoach_some hc]
  exact congrArg Host.Outcome.next ((if_pos (by rw [h6]; rfl)).trans (pushed_waits hp _))

section
variable (hn : coachN o = 6 ∨ coachN o = 7) {c : Coach} (hc : s.portCoach (coachN o) = some c)
include hn hc

theorem kset_result {w : Nat} (hw : o.f 2 0 = w) {m : Word} (hmask : ksetMask w (coachN o) = m) : ∃ t c1, exec (.kset o) s = .next t ∧ MovedOn s t
    ∧ t.portCoach (coachN o) = some c1 ∧ t.portCoach (13 - coachN o) = s.portCoach (13 - coachN o) ∧ c1.pay = c.pay
    ∧ ∀ k, k < 8 → vget c1.hdr k 0 = if k = w then (vget c.hdr k 0 &&& ~~~m) ||| (s.getG o.a &&& m) else vget c.hdr k 0 := by
  subst hw hmask
  obtain ⟨hm, hme⟩ := modMe_advance h.1 (fun x => x.setCoach (coachN o) (some (c.setH (o.f 2 0)
    ((c.h (o.f 2 0) &&& ~~~ksetMask (o.f 2 0) (coachN o)) ||| (s.getG o.a &&& ksetMask (o.f 2 0) (coachN o)))))) (hart_setCoach ..)
  obtain ⟨hp, hother⟩ := portCoach_setCoach (s := s) hn ((congrArg Context.q6 hme).trans rfl) ((congrArg Context.q7 hme).trans rfl)
  refine ⟨_, _, ?_, hm, hp, hother, rfl, fun k hk => (h_setH c _ _ hk).trans ?_⟩
  · rw [exec_kset h, withCoach_some hc]
  · split
    · next hkw => rw [hkw]; rfl
    · rfl

theorem kdrop_result (hp : coachN o = 7 ∨ s.myTile.pushing s.cix = false) : ∃ t, exec (.kdrop o) s = .next t ∧ MovedOn s t
    ∧ t.portCoach (coachN o) = none ∧ t.port (coachN o) = .init ∧ t.portCoach (13 - coachN o) = s.portCoach (13 - coachN o) := by
  obtain ⟨hm, -, hnone, hinit, hother⟩ := release_advance (u := s.release (coachN o)) h.1 hn (.refl _) rfl rfl
  refine ⟨_, ?_, hm, hnone, hinit, hother⟩
  rw [exec_kdrop h, withCoach_some hc]
  split
  · next h6 => rw [pushed_free (hp.resolve_left fun h7 => by rw [beq_iff_eq] at h6; omega)]
  · rfl

end

end

end Sys2Proof.Laws

/-! O33: KMRG (18 R413; 08 R195), and the settling theorem. -/

namespace Sys2Proof.Laws

open Sys2Proof Sys2Proof.Machine Sys2Proof.Safety

/-! The merge of two states (R195). -/

/-- The scale of a state with maximum x in a merge with maximum m. -/
def mergeRatio (nbv : Nat) (x m : Lane) : Lane := if laneVal x = .inf true then 0
  else (refLane (exp2Ref (laneVal ((addE (laneVal x) (laneVal m).flip 0).lane 0).1) nbv) 0 0).1

theorem mergeScale_fst (nbv : Nat) (x m : Lane) : (mergeScale nbv x m).1 = mergeRatio nbv x m := by
  unfold mergeScale mergeRatio
  by_cases h : laneVal x = .inf true
  · rw [if_pos h, if_pos (beq_iff_eq.2 h)]
  · rw [if_neg h, if_neg (mt beq_iff_eq.1 h)]
    rfl

/-- The merged state with its scales named. -/
def mergedState (nbv : Nat) (x y : AttnState) : AttnState :=
  let m := (rne (maxE (laneVal x.m) (laneVal y.m))).1
  let a1 := mergeRatio nbv x.m m
  let a2 := mergeRatio nbv y.m m
  let h := (prodX x.lh a1).1
  let g := (prodX y.lh a2).1
  let k := (addX h.1 g.1).1
  let r := (addX k.1 (addLane (addLane (fmaLane y.ll a2 (fmaLane x.ll a1 h.2).1).1 g.2 0).1 k.2 0).1).1
  { m := m, lh := r.1, ll := r.2, o := (x.o.zip y.o).map fun e => (fmaLane e.1 a1 (rne (mulE (laneVal e.2) (laneVal a2))).1).1 }

theorem mergeState_fst (nbv : Nat) (x y : AttnState) : (mergeState nbv x y).1 = mergedState nbv x y := by
  simp only [mergeState, mergedState, List.map_map, Function.comp_def, mergeScale_fst]

/-! States as bytes (R173). -/

theorem length_flatMap_const {α β : Type} {f : α → List β} {n : Nat} : ∀ {l : List α}, (∀ x ∈ l, (f x).length = n) → (l.flatMap f).length = n * l.length
  | [], _ => rfl
  | x :: l, h => by
    rw [List.flatMap_cons, List.length_append, h x (List.mem_cons_self ..), length_flatMap_const fun y hy => h y (List.mem_cons_of_mem _ hy),
      List.length_cons, Nat.mul_succ, Nat.add_comm]

theorem length_statesLe {l : List AttnState} {d : Nat} (h : ∀ x ∈ l, x.o.length = d) : (statesLe l).length = 16 * l.length + 4 * l.length * d := by
  rw [statesLe, List.length_append, length_flatMap_const (n := 16) fun x _ => by simp [leOf], length_flatMap_const (n := 4 * d) fun x hx => by
    rw [length_flatMap_const (n := 4) fun _ _ => by simp [leOf], h x hx]]
  congr 1
  rw [Nat.mul_assoc, Nat.mul_assoc, Nat.mul_comm d]

theorem length_statesOf (bs : List Byte) (q d : Nat) : (statesOf bs q d).length = q ∧ ∀ x ∈ statesOf bs q d, x.o.length = d := by
  constructor
  · simp [statesOf]
  · intro x hx
    obtain ⟨i, -, rfl⟩ := List.mem_map.1 hx
    simp

theorem length_merged (f : AttnState → AttnState → AttnState) (hf : ∀ x y, (f x y).o.length = min x.o.length y.o.length) (xs ys : List Byte) (q d : Nat) :
    (statesLe (((statesOf xs q d).zip (statesOf ys q d)).map fun e => f e.1 e.2)).length = 16 * q + 4 * q * d := by
  obtain ⟨hx, hox⟩ := length_statesOf xs q d
  obtain ⟨hy, hoy⟩ := length_statesOf ys q d
  rw [length_statesLe (d := d), List.length_map, List.length_zip, hx, hy, Nat.min_self]
  intro x hm
  obtain ⟨⟨a, b⟩, he, rfl⟩ := List.mem_map.1 hm
  obtain ⟨ha, hb⟩ := List.of_mem_zip he
  rw [hf, hox a ha, hoy b hb, Nat.min_self]

/-! A section written (R413). -/

theorem keepOld_keeps (s : State) (k n : Nat) : SameAgents s (s.keepOld k n) ∧ (s.keepOld k n).mem = s.mem := by
  unfold State.keepOld
  split
  · exact ⟨.refl s, rfl⟩
  · exact ⟨sameAgents_modTile _ _ _ rfl, rfl⟩

/-- The first m rows of 16 bytes of a section, written in scratch from an offset on. -/
def putRows (s : State) (off : Nat) (bs : List Byte) (m : Nat) : State :=
  (List.range m).foldl (fun s k =>
    let p : Phys := { key := scratchKey s.die s.tix (off + 16 * k), mt := 3 }
    (s.keepOld p.key 16).wrFor s.req p ((bs.drop (16 * k)).take 16)) s

theorem putRows_succ (s : State) (off : Nat) (bs : List Byte) (m : Nat) : putRows s off bs (m + 1) =
    let t := putRows s off bs m
    let p : Phys := { key := scratchKey t.die t.tix (off + 16 * m), mt := 3 }
    (t.keepOld p.key 16).wrFor t.req p ((bs.drop (16 * m)).take 16) := by
  rw [putRows, List.range_succ, List.foldl_append]
  rfl

theorem sameAgents_putRows (s : State) (off : Nat) (bs : List Byte) : ∀ m, SameAgents s (putRows s off bs m)
  | 0 => .refl s
  | m + 1 => by
    rw [putRows_succ]
    exact ((sameAgents_putRows s off bs m).trans (keepOld_keeps _ _ _).1).trans (sameAgents_wrFor _ _ _ _)

theorem scratchKey_putRows (s : State) (off : Nat) (bs : List Byte) (m n : Nat) :
    scratchKey (putRows s off bs m).die (putRows s off bs m).tix (off + n) = scratchKey s.die s.tix off + n := by
  have hcur := (sameAgents_putRows s off bs m).cur
  rw [State.die, State.tix, hcur]
  exact (Nat.add_assoc ..).symm

theorem putRows_byte (s : State) (off : Nat) (bs : List Byte) : ∀ m, 16 * m ≤ bs.length → ∀ k, (putRows s off bs m).mem.byte k =
    if scratchKey s.die s.tix off ≤ k ∧ k < scratchKey s.die s.tix off + 16 * m then bs.getD (k - scratchKey s.die s.tix off) 0 else s.mem.byte k
  | 0, _, k => by rw [if_neg (by omega)]; rfl
  | m + 1, hm, k => by
    have hlen : ((bs.drop (16 * m)).take 16).length = 16 := by simp; omega
    rw [putRows_succ]
    simp only
    rw [byte_wrFor (.inr rfl), hlen, (keepOld_keeps _ _ _).2, putRows_byte s off bs m (by omega)]
    simp only [scratchKey_putRows]
    generalize scratchKey s.die s.tix off = dst
    by_cases hin : dst + 16 * m ≤ k ∧ k < dst + 16 * m + 16
    · rw [if_pos hin, if_pos (by omega), List.getD_eq_getElem?_getD, List.getD_eq_getElem?_getD, List.getElem?_take_of_lt (by omega),
        List.getElem?_drop]
      congr 2
      omega
    · rw [if_neg hin]
      by_cases hlow : dst ≤ k ∧ k < dst + 16 * m
      · rw [if_pos hlow, if_pos (by omega)]
      · rw [if_neg hlow, if_neg (by omega)]

theorem putSection_scratch {s : State} {c : Section} (hc : c.port = none) (skip : Nat) (bs : List Byte) :
    s.putSection c skip bs = putRows s (c.x.toNat % 2 ^ 19) bs (bs.length / 16) := by
  rw [State.putSection, hc]
  rfl

theorem putSection_port {s : State} {c : Section} {p : Nat} (hc : c.port = some p) (skip : Nat) (bs : List Byte) :
    s.putSection c skip bs = s.modMe fun x => { x with q6 := x.q6.map fun k => { k with pay := putBytes (padTo k.plen k.pay) skip bs } } := by
  rw [State.putSection, hc]

theorem length_padTo (n : Nat) (bs : List Byte) : (padTo n bs).length = n := by
  rw [padTo, List.length_take, List.length_append, List.length_replicate]
  omega

theorem padTo_padTo {m n : Nat} (h : m ≤ n) (bs : List Byte) : padTo m (padTo n bs) = padTo m bs := by
  rw [padTo, length_padTo, Nat.sub_eq_zero_of_le h, List.replicate_zero, List.append_nil, padTo, List.take_take, Nat.min_eq_left h, padTo]
  refine List.ext_getElem? fun i => ?_
  simp only [List.getElem?_take, List.getElem?_append, List.getElem?_replicate]
  split
  · split
    · rfl
    · rw [if_pos (by omega), if_pos (by omega)]
  · rfl

theorem putBytes_section (pay bs : List Byte) {skip n : Nat} (h : skip ≤ n) :
    ((putBytes (padTo n pay) skip bs).drop skip).take bs.length = bs ∧ (putBytes (padTo n pay) skip bs).take skip = padTo skip pay := by
  have hlen := length_padTo skip (padTo n pay)
  rw [putBytes, List.append_assoc]
  constructor
  · rw [List.drop_left' hlen, List.take_left]
  · rw [List.take_left' hlen, padTo_padTo h]

/-! KMRG on its sections. -/

/-- The scratch that sections take. -/
def sectionUses (l : List Section) (n : Nat) : List ScratchUse := l.filterMap fun e =>
  if e.port.isNone then some { x := e.x, align := 16, len := n, loc := e.loc : ScratchUse } else none

theorem sectionUses_eq (l : List Section) (n : Nat) : sectionUses l n =
    (l.filter fun e => e.port.isNone).map fun e => { x := e.x, align := 16, len := n, loc := e.loc } := by
  induction l with
  | nil => rfl
  | cons e l ih =>
    rw [sectionUses] at ih ⊢
    by_cases he : e.port.isNone
    · rw [List.filter_cons_of_pos (p := fun e : Section => e.port.isNone) he, List.map_cons, ← ih]
      exact List.filterMap_cons_some (if_pos he)
    · rw [List.filter_cons_of_neg (p := fun e : Section => e.port.isNone) he, ← ih]
      exact List.filterMap_cons_none (if_neg he)

/-- The port that refuses sections of q queries with d elements, and why. -/
def refusedSection (s : State) (l : List Section) (q d : Nat) : Option (Nat × Nat) := l.findSome? fun e => e.port.bind fun p =>
  match s.portCoach p with
  | none => some (p, 1)
  | some k => if k.plen < q * (6 * d + 16) then some (p, 5) else none

/-- The states merged from two sections. -/
def mergedStates (nbv q d : Nat) (xs ys : List Byte) : List (AttnState × Fl) :=
  ((statesOf xs q d).zip (statesOf ys q d)).map fun e => mergeState nbv e.1 e.2

/-- The work of KMRG on sections of q queries with d elements. -/
def mergeSections (s : State) (a b c : Section) (q d : Nat) : State :=
  let n := 16 * q + 4 * q * d
  match s.scratchTrap (sectionUses [a, b, c] n) with
  | some t => t
  | none =>
    if overlaps n c a || overlaps n c b then s.trap 4 3 c.x
    else match refusedSection s [a, b, c] q d with
      | some (p, r) => s.coachTrap p r
      | none =>
        match s.sectionBytes a (2 * q * d) n, s.sectionBytes b (2 * q * d) n with
        | .error t, _ => t
        | .ok _, .error t => t
        | .ok xs, .ok ys =>
          (((s.putSection c (2 * q * d) (statesLe ((mergedStates s.hart.nbv q d xs ys).map (·.1)))).addFlags
            ((mergedStates s.hart.nbv q d xs ys).foldl (fun f e => f ||| e.2) 0)).advance)

/-- A coach that holds its section has the payload for it. -/
theorem plen_of_refused {s : State} {a b c : Section} {q d p : Nat} {x : Coach} (hr : refusedSection s [a, b, c] q d = none)
    (hc : c.port = some p) (hx : s.portCoach p = some x) : 2 * q * d + (16 * q + 4 * q * d) ≤ x.plen := by
  have h := List.findSome?_eq_none_iff.1 hr c (by simp)
  simp only [hc, Option.bind_some, hx] at h
  have hle : ¬x.plen < q * (6 * d + 16) := fun hlt => by simp [hlt] at h
  have heq : q * (6 * d + 16) = 2 * q * d + (16 * q + 4 * q * d) := by ring
  omega

/-- Flags added and the instruction over, in a state that keeps the agents. -/
theorem addFlags_advance {s u : State} (hc : s.onCore = false) (hu : SameAgents s u) (fl : Fl) : let t := (u.addFlags fl).advance
    t.pc = s.pc + 8 ∧ (∀ k, t.getG k = s.getG k) ∧ t.mem = u.mem ∧ t.me.q6 = s.me.q6 := by
  intro t
  have huc := hu.onCore.trans hc
  refine ⟨?_, fun k => ?_, ?_, ?_⟩
  · rw [pc_advance, pc_addFlags, hu.pc]
  · rw [getG_advance, getG_addFlags, hu.getG]
  · rw [advance_mem, State.addFlags, modHart_mem]
  · rw [me_advance ((onCore_addFlags u fl).trans huc), addFlags_me huc, me_modMe, hu.me]

theorem putSection_keeps {s : State} {c : Section} (hc : c.port = none) (skip : Nat) (bs : List Byte) : SameAgents s (s.putSection c skip bs) := by
  rw [putSection_scratch hc]
  exact sameAgents_putRows ..

/-- A merge written to scratch (R413). -/
theorem merge_to_scratch {s : State} {c : Section} (hon : s.onCore = false) (hc : c.port = none) (skip : Nat) {bs : List Byte} (hbs : bs.length % 16 = 0)
    (fl : Fl) : let t := ((s.putSection c skip bs).addFlags fl).advance
    t.pc = s.pc + 8 ∧ (∀ k, t.getG k = s.getG k) ∧ t.me.q6 = s.me.q6 ∧ ∀ k, t.mem.byte k =
      if scratchKey s.die s.tix (c.x.toNat % 2 ^ 19) ≤ k ∧ k < scratchKey s.die s.tix (c.x.toNat % 2 ^ 19) + bs.length
        then bs.getD (k - scratchKey s.die s.tix (c.x.toNat % 2 ^ 19)) 0 else s.mem.byte k := by
  intro t
  obtain ⟨hpc, hg, hmem, hq⟩ := addFlags_advance hon (putSection_keeps hc skip bs) fl
  refine ⟨hpc, hg, hq, fun k => ?_⟩
  rw [show t.mem = _ from hmem, putSection_scratch hc, putRows_byte _ _ _ _ (by omega), show 16 * (bs.length / 16) = bs.length by omega]

/-- A merge written to the outgoing payload (R413). -/
theorem merge_to_payload {s : State} {c : Section} (hon : s.onCore = false) {p : Nat} (hc : c.port = some p) (skip : Nat) (bs : List Byte)
    (fl : Fl) : let t := ((s.putSection c skip bs).addFlags fl).advance
    t.pc = s.pc + 8 ∧ (∀ k, t.getG k = s.getG k) ∧ t.mem = s.mem ∧ ∀ x, s.me.q6 = some x → skip + bs.length ≤ x.plen →
      ∃ y, t.me.q6 = some y ∧ y.hdr = x.hdr ∧ (y.pay.drop skip).take bs.length = bs ∧ y.pay.take skip = padTo skip x.pay := by
  intro t
  rw [show t = ((s.putSection c skip bs).addFlags fl).advance from rfl, putSection_port hc]
  obtain ⟨u, hu⟩ : ∃ u, (s.modMe fun x => { x with q6 := x.q6.map fun k => { k with pay := putBytes (padTo k.plen k.pay) skip bs } }) = u := ⟨_, rfl⟩
  obtain ⟨-, hmem, hg, hpc⟩ := keeps_modMe (fun x => { x with q6 := x.q6.map fun k => { k with pay := putBytes (padTo k.plen k.pay) skip bs } }) hon
    (keeps_refl s) ⟨_, _, _, _, _, rfl⟩
  have hq : u.me.q6 = s.me.q6.map fun k => { k with pay := putBytes (padTo k.plen k.pay) skip bs } := by rw [← hu, me_modMe]
  rw [hu] at hmem hg hpc ⊢
  obtain ⟨hpc', hg', hmem', hq'⟩ := addFlags_advance (hu ▸ (onCore_modMe s _).trans hon) (.refl u) fl
  refine ⟨hpc'.trans (congrArg (· + 8) hpc), fun k => (hg' k).trans (hg k), hmem'.trans hmem, fun x hx hlen => ?_⟩
  have hq'' := hq'.trans hq
  rw [hx] at hq''
  exact ⟨_, hq'', rfl, putBytes_section x.pay bs (Nat.le_of_add_right_le hlen)⟩

/-- A section operand of KMRG: at port p where bit i of its imm32 is set. -/
def kmrgSection (o : CFmt) (i p : Nat) (x : Word) (loc : Nat) : Section := { port := if o.imm.getLsbD i then some p else none, x := x, loc := loc }

theorem exec_kmrg {s : State} {o : CFmt} (h : CtxOn s o.gn o.gs) : exec (.kmrg o) s = .next (mergeSections s (kmrgSection o 16 7 (s.getG o.a) 1)
    (kmrgSection o 17 7 (s.getG o.b) 2) (kmrgSection o 18 6 (s.getG o.c) 3) (o.imm.toNat % 32) (32 * (o.imm.toNat / 256 % 16))) := by
  refine congrArg Host.Outcome.next ((guardedCtx_on h _).trans ?_)
  have hq : o.f 4 0 = o.imm.toNat % 32 := by rw [CFmt.f, Nat.pow_zero, Nat.div_one]; rfl
  have hd : o.f 11 8 = o.imm.toNat / 256 % 16 := rfl
  rw [hq, hd]
  rfl

section
variable {s : State} {a b c : Section} {q d : Nat}

theorem mergeSections_trap {t : State} (h : s.scratchTrap (sectionUses [a, b, c] (16 * q + 4 * q * d)) = some t) :
    mergeSections s a b c q d = t := by
  unfold mergeSections
  simp only [h]

variable (h : s.scratchTrap (sectionUses [a, b, c] (16 * q + 4 * q * d)) = none)
include h

theorem mergeSections_overlap (ho : overlaps (16 * q + 4 * q * d) c a = true ∨ overlaps (16 * q + 4 * q * d) c b = true) :
    mergeSections s a b c q d = s.trap 4 3 c.x := by
  unfold mergeSections
  simp only [h]
  exact if_pos (Bool.or_eq_true_iff.2 ho)

variable (ha : overlaps (16 * q + 4 * q * d) c a = false) (hb : overlaps (16 * q + 4 * q * d) c b = false)
include ha hb

theorem mergeSections_refused {p r : Nat} (hr : refusedSection s [a, b, c] q d = some (p, r)) :
    mergeSections s a b c q d = s.coachTrap p r := by
  unfold mergeSections
  simp only [h, ha, hb, hr, Bool.or_false, Bool.false_eq_true, if_false]

variable (hr : refusedSection s [a, b, c] q d = none)
include hr

theorem mergeSections_error {t : State} (he : s.sectionBytes a (2 * q * d) (16 * q + 4 * q * d) = .error t) : mergeSections s a b c q d = t := by
  unfold mergeSections
  simp only [h, ha, hb, hr, he, Bool.or_false, Bool.false_eq_true, if_false]

variable {xs : List Byte} (hx : s.sectionBytes a (2 * q * d) (16 * q + 4 * q * d) = .ok xs)
include hx

theorem mergeSections_error_b {t : State} (he : s.sectionBytes b (2 * q * d) (16 * q + 4 * q * d) = .error t) : mergeSections s a b c q d = t := by
  unfold mergeSections
  simp only [h, ha, hb, hr, hx, he, Bool.or_false, Bool.false_eq_true, if_false]

theorem mergeSections_ok {ys : List Byte} (hy : s.sectionBytes b (2 * q * d) (16 * q + 4 * q * d) = .ok ys) : ∃ fl, mergeSections s a b c q d =
    ((s.putSection c (2 * q * d) (statesLe ((mergedStates s.hart.nbv q d xs ys).map (·.1)))).addFlags fl).advance := by
  unfold mergeSections
  simp only [h, ha, hb, hr, hx, hy, Bool.or_false, Bool.false_eq_true, if_false]
  exact ⟨_, rfl⟩

end

theorem mergedStates_fst {f : AttnState → AttnState → AttnState} {nbv : Nat} (hf : ∀ x y, (mergeState nbv x y).1 = f x y) (q d : Nat) (xs ys : List Byte) :
    (mergedStates nbv q d xs ys).map (·.1) = ((statesOf xs q d).zip (statesOf ys q d)).map fun e => f e.1 e.2 := by
  rw [mergedStates, List.map_map]
  exact List.map_congr_left fun e _ => hf e.1 e.2

/-- Settles O33. -/
theorem coachAndStateMergeResults : Obligations.CoachAndStateMergeResults := by
  refine ⟨fun s o h => ?_, fun s o h => ?_⟩
  · intro n w port kb h0 writable
    have hw : o.f 2 0 = w := by rw [CFmt.f, Nat.pow_zero, Nat.div_one]; rfl
    refine ⟨fun hv => ?_, fun hv hq => ⟨knew_result h hv hq, fun c hc => knewC_result h hv hq hc, fun hc => ?_⟩, fun hv hq => ?_,
      fun _ hc => coachless_traps h hc, fun hn c hc => ⟨?_, kset_result h hn hc hw (ksetMask_eq w n), kdrop_waits h hc, kdrop_result h hn hc⟩⟩
    · obtain ⟨v, hx⟩ := routeOp_version h hv
      have hx := fun k => congrArg (Host.Outcome.next : State → Res) (hx k)
      simp only [List.forall_mem_cons, List.not_mem_nil, IsEmpty.forall_iff, implies_true, and_true]
      exact ⟨⟨v, hx _⟩, ⟨v, hx _⟩, ⟨v, hx _⟩, ⟨v, hx _⟩, ⟨v, hx _⟩⟩
    · exact (exec_knewC h hv hq).trans (congrArg Host.Outcome.next (withCoach_none (n := 7) hc _))
    · exact forall_two (knew_held h hv hq).1 (knew_held h hv hq).2
    · rw [exec_khdr h, withCoach_some (n := coachN o) hc, hw]
      rfl
  · intro q d n skip a b c uses dst bad add fma addX mulX ratio merge
    have hx : exec (.kmrg o) s = .next (mergeSections s a b c q d) := exec_kmrg h
    have huses : sectionUses [a, b, c] n = uses := sectionUses_eq ..
    have hbad : [a, b, c].findSome? bad = refusedSection s [a, b, c] q d := rfl
    have hmerge : ∀ x y, (mergeState s.hart.nbv x y).1 = merge x y := fun x y => mergeState_fst ..
    rw [hx, ← huses, hbad]
    have next := fun {u v : State} (e : u = v) => congrArg (Host.Outcome.next : State → Res) e
    refine ⟨fun t ht => next (mergeSections_trap ht), fun hs => ⟨fun ho => next (mergeSections_overlap hs ho), fun ha hb => ⟨fun k r hr =>
      next (mergeSections_refused hs ha hb hr), fun hr => ⟨fun t he => next (mergeSections_error hs ha hb hr he), fun xs t hxs he =>
      next (mergeSections_error_b hs ha hb hr hxs he), fun xs ys hxs hys => ?_⟩⟩⟩⟩
    intro out
    obtain ⟨fl, hm⟩ := mergeSections_ok hs ha hb hr hxs hys
    rw [mergedStates_fst hmerge] at hm
    have hlen : out.length = n := length_merged merge (fun x y => by simp [merge]) xs ys q d
    have hrow : out.length % 16 = 0 := by
      have hd : d = 32 * (o.imm.toNat / 256 % 16) := rfl
      rw [hlen, show n = 16 * (q + 8 * q * (o.imm.toNat / 256 % 16)) by rw [show n = 16 * q + 4 * q * d from rfl, hd]; ring]
      exact Nat.mul_mod_right ..
    refine ⟨hlen, _, next hm, ?_⟩
    rcases hc : c.port with _ | p
    · obtain ⟨hpc, hg, hq, hbyte⟩ := merge_to_scratch h.1 hc skip hrow fl
      rw [hlen] at hbyte
      exact ⟨hpc, hg, fun _ => ⟨hq, hbyte⟩, nofun⟩
    · obtain ⟨hpc, hg, hmem, hpay⟩ := merge_to_payload h.1 hc skip out fl
      refine ⟨hpc, hg, nofun, fun h6 => ⟨hmem, fun x hx => ?_⟩⟩
      have hp := plen_of_refused hr (hc.trans h6) (p := 6) hx
      rw [hlen] at hpay
      exact hpay x hx hp

end Sys2Proof.Laws

/-! O35: the shard instructions (18 R414-R420; 06 R130-R132, R135). -/

namespace Sys2Proof.Laws

open Sys2Proof Sys2Proof.Machine Sys2Proof.Safety

/-! What the reads of a shard instruction keep, and that their addresses are none it may not name. -/

theorem spot_same {s : State} {t : State} {p : Place} {loc ea n align : Nat} {a : Acc} {free : Bool}
    (h : s.spot loc ea n align a free = .ok (t, p)) : SameAgents s t := by
  unfold State.spot at h
  have h := else_of_ne (else_of_ne h nofun) nofun
  split at h <;> cases h
  · exact sameAgents_touch ..
  · exact .refl s
  · exact .refl s

theorem getDesc_keeps {s u : State} {r : Option Desc} {ea : Nat} (h : s.getDesc ea = .ok (u, r)) : ¬Barred s ea ∧ SameAgents s u := by
  unfold State.getDesc at h
  rcases hl : s.getLine ea with t | x
  · rw [hl] at h; cases h
  · refine ⟨getLine_path hl, ?_⟩
    rw [hl] at h
    cases h
    unfold State.getLine at hl
    obtain ⟨⟨t, p⟩, hs, hv⟩ := bind_ok hl
    obtain ⟨v, -, hx⟩ := bind_ok hv
    cases hx
    unfold State.lineSpot at hs
    exact spot_same (else_of_ne (else_of_ne (else_of_ne hs nofun) nofun) nofun)

theorem getWord_path {s : State} {r : State × Word} {loc ea : Nat} {a : Acc} (h : s.getWord loc ea a = .ok r) : ¬Barred s ea := by
  unfold State.getWord State.wordSpot at h
  obtain ⟨_, hw, -⟩ := bind_ok h
  obtain ⟨_, hs, -⟩ := bind_ok hw
  exact spot_path hs

section
variable {s u : State} {o : CFmt} (h : CtxOn s o.gn o.gs)
include h

theorem guardedFor_one {x : Word} (hx : ¬Barred s x.toNat) (k : State → State) : s.guardedFor o [x] k = k s :=
  guardedFor_on h (by simpa using hx) k

end

/-- A computation that has read its descriptor goes on in the state of the read. -/
theorem ran_getDesc {s u : State} {r : Option Desc} {ea : Nat} (h : s.getDesc ea = .ok (u, r)) (f : State × Option Desc → Except State State) :
    ran (s.getDesc ea >>= f) = ran (f (u, r)) := by
  rw [h]
  rfl

/-! SHLK (R415). -/

/-- The status of SHLK. -/
def lookupStatus (r : Option Desc) (b c : Nat) : Nat := match r with
  | none => 2 ^ 64 - 3
  | some ds => match ds.locate b c with
    | .range => 2 ^ 64 - 1
    | .expired => 2 ^ 64 - 2
    | .at_ ent off => ent % 2 ^ 57 + off * 2 ^ 57

section
variable {s u : State} {o : CFmt} (h : CtxOn s o.gn o.gs) {r : Option Desc} (hd : s.getDesc (s.getG o.a).toNat = .ok (u, r))
include h hd

theorem exec_shlk : exec (.shlk o) s = .next (u.status o (lookupStatus r (s.getG o.b).toNat (s.getG o.c).toNat)) := by
  obtain ⟨hp, hsame⟩ := getDesc_keeps hd
  refine congrArg Host.Outcome.next ((guardedFor_one h hp _).trans ((ran_getDesc hd _).trans ?_))
  rw [← hsame.getG o.b, ← hsame.getG o.c]
  rfl

end

/-! KVAPP (R418). -/

/-- KVAPP once its descriptor is read. -/
def appendRows (o : CFmt) (n p h : Nat) (s : State) (ds : Desc) : Except State State :=
  match ds.locate h p, ds.locate h (p + n - 1) with
  | .range, _ => .ok (s.ordered o 1)
  | .expired, _ => .ok (s.ordered o 2)
  | .at_ ent off, last =>
    if (match last with | .at_ e _ => e != ent | _ => true) then .ok (s.ordered o 7)
    else do
      let (s, e) ← s.getWord 1 ent .read
      if 1 < entRef e then .ok (s.ordered o 4)
      else if off != entFill e + entSpec e then .ok (s.ordered o 3)
      else
        let rb := ds.dim * ds.es
        let (s, src) ← s.spots 3 .read ds.es true (sourceSpans (s.getG o.c) n rb)
        let (s, dst) ← s.spots 1 .write 1 true (rowSpans (entAddr e) off n rb)
        let s ← s.updatable [ent]
        let (s, bs) ← s.readSpots 3 src
        match dst.find? fun x => match x.2 with | .remote .. => true | _ => false with
        | some x => .error (s.trap 4 1 (w64 x.1.1))
        | none => .ok (((s.writeSpots dst bs).putWord ent (setCounts e (entFill e) (entSpec e + n))).ordered o 0)

section
variable {s u : State} {o : CFmt} (h : CtxOn s o.gn o.gs) (hc : ¬Barred s (s.getG o.c).toNat)
include h hc

theorem exec_kvapp_none (hd : s.getDesc (s.getG o.a).toNat = .ok (u, none)) : exec (.kvapp o) s = .next (u.ordered o 5) := by
  obtain ⟨hp, -⟩ := getDesc_keeps hd
  exact congrArg Host.Outcome.next ((guardedFor_on h (by simpa using ⟨hp, hc⟩) _).trans (ran_getDesc hd _))

theorem exec_kvapp {ds : Desc} (hd : s.getDesc (s.getG o.a).toNat = .ok (u, some ds)) : exec (.kvapp o) s =
    .next (ran (appendRows o (o.imm.toNat % 32) ((s.getG o.b).toNat % 2 ^ 40) ((s.getG o.b).toNat / 2 ^ 48 % 256) u ds)) := by
  obtain ⟨hp, -⟩ := getDesc_keeps hd
  have hn : o.f 4 0 = o.imm.toNat % 32 := by rw [CFmt.f, Nat.pow_zero, Nat.div_one]; rfl
  have hpos : bits (s.getG o.b) 39 0 = (s.getG o.b).toNat % 2 ^ 40 := by rw [bits, Nat.shiftRight_zero]
  have hhead : bits (s.getG o.b) 55 48 = (s.getG o.b).toNat / 2 ^ 48 % 256 := by rw [bits, Nat.shiftRight_eq_div_pow]; rfl
  rw [← hn, ← hpos, ← hhead]
  exact congrArg Host.Outcome.next ((guardedFor_on h (by simpa using ⟨hp, hc⟩) _).trans (ran_getDesc hd _))

end

section
variable {o : CFmt} {n p h : Nat} {u : State} {ds : Desc}

theorem appendRows_range (hl : ds.locate h p = .range) : appendRows o n p h u ds = .ok (u.ordered o 1) := by
  unfold appendRows; simp only [hl]

theorem appendRows_expired (hl : ds.locate h p = .expired) : appendRows o n p h u ds = .ok (u.ordered o 2) := by
  unfold appendRows; simp only [hl]

theorem appendRows_apart {ent off : Nat} (hl : ds.locate h p = .at_ ent off) (hlast : ∀ off2, ds.locate h (p + n - 1) ≠ .at_ ent off2) :
    appendRows o n p h u ds = .ok (u.ordered o 7) := by
  unfold appendRows
  simp only [hl]
  refine if_pos ?_
  split
  · next e off2 hx => exact bne_iff_ne.2 fun he => hlast off2 (he ▸ hx)
  · rfl

variable {ent off off2 : Nat} (hl : ds.locate h p = .at_ ent off) (hlast : ds.locate h (p + n - 1) = .at_ ent off2)
  {v : State} {e : Word} (hw : u.getWord 1 ent .read = .ok (v, e))
include hl hlast hw

theorem appendRows_shared (hr : 1 < entRef e) : appendRows o n p h u ds = .ok (v.ordered o 4) := by
  unfold appendRows
  simp only [hl, hlast, bne_self_eq_false, Bool.false_eq_true, if_false, hw, bind, Except.bind, hr, if_true]

variable (hr : ¬1 < entRef e)
include hr

theorem appendRows_misplaced (ho : off ≠ entFill e + entSpec e) : appendRows o n p h u ds = .ok (v.ordered o 3) := by
  unfold appendRows
  simp only [hl, hlast, bne_self_eq_false, Bool.false_eq_true, if_false, hw, bind, Except.bind, hr, bne_iff_ne.2 ho, if_true]

theorem appendRows_appends (ho : off = entFill e + entSpec e) {s2 s3 s4 s6 : State} {src dst : List ((Nat × Nat) × Place)} {bs : List Byte}
    (hsrc : v.spots 3 .read ds.es true (sourceSpans (v.getG o.c) n (ds.dim * ds.es)) = .ok (s2, src))
    (hdst : s2.spots 1 .write 1 true (rowSpans (entAddr e) off n (ds.dim * ds.es)) = .ok (s3, dst))
    (hupd : s3.updatable [ent] = .ok s6) (hread : s6.readSpots 3 src = .ok (s4, bs)) (hnear : ∀ x ∈ dst, ∀ m va, x.2 ≠ .remote m va) :
    appendRows o n p h u ds = .ok (((s4.writeSpots dst bs).putWord ent (setCounts e (entFill e) (entSpec e + n))).ordered o 0) := by
  have hfind : (dst.find? fun x => match x.2 with | .remote .. => true | _ => false) = none := by
    refine List.find?_eq_none.2 fun x hx => ?_
    split
    · next m va hp => exact absurd hp (hnear x hx m va)
    · exact Bool.false_ne_true
  unfold appendRows
  simp only [hl, hlast, bne_self_eq_false, Bool.false_eq_true, if_false, hw, bind, Except.bind, hr, bne_eq_false_iff_eq.2 ho, hsrc, hdst, hupd,
    hread]
  rw [hfind]

end

/-! KVCMT (R419, R135). -/

/-- The end of a KVCMT: the length it read is forgotten (R419). -/
def commitDone (o : CFmt) (s : State) (n : Nat) : State := (s.modMe fun x => { x with read := none }).ordered o n

/-- KVCMT to a new length once its descriptor is read, with the length that its first issue read. -/
def commitRows (o : CFmt) (a new : Nat) (s : State) (ds : Desc) : Except State State :=
  if new < ds.len || 2 ^ 40 ≤ new then .ok (commitDone o s 1)
  else if new == ds.len then .ok (commitDone o s 0)
  else do
    let (s, l) ← s.touchedHeads ds new (ds.nh + 1) 0
    match l with
    | none => .ok (commitDone o s 3)
    | some l =>
      let (s, w2) ← s.getWord 1 (a + 16) .rmw
      if bits w2 39 0 != ds.len then .ok (commitDone o s 6)
      else
        let slots := ds.released new
        let s ← s.updatable (l.map (·.1) ++ slots.flatMap fun x => [x.1, x.2.1])
        let s1 := s.putWord (a + 16) (setBits w2 39 0 new)
        let s2 := l.foldl (fun s x =>
          let fill := min 128 (new - 128 * x.2.1)
          s.putWord x.1 (setCounts x.2.2 fill (entFill x.2.2 + entSpec x.2.2 - fill))) s1
        .ok (commitDone o (slots.foldl (fun s x => s.releaseSlot x) s2) 0)

section
variable {s u : State} {o : CFmt} (h : CtxOn s o.gn o.gs)
include h

theorem exec_kvcmt_none (hd : s.getDesc (s.getG o.a).toNat = .ok (u, none)) : exec (.kvcmt o) s = .next (commitDone o u 5) :=
  congrArg Host.Outcome.next ((guardedFor_one h (getDesc_keeps hd).1 _).trans (ran_getDesc hd _))

theorem exec_kvcmt {ds : Desc} (hd : s.getDesc (s.getG o.a).toNat = .ok (u, some ds)) : exec (.kvcmt o) s =
    .next (ran (commitRows o (s.getG o.a).toNat (s.getG o.b).toNat (u.modMe fun x => { x with read := some (u.me.read.getD ds.len) })
      { ds with len := u.me.read.getD ds.len })) :=
  congrArg Host.Outcome.next ((guardedFor_one h (getDesc_keeps hd).1 _).trans (ran_getDesc hd _))

end

/-- The slots that a commit releases, in the words of O35. -/
theorem released_eq (ds : Desc) (new : Nat) : ds.released new = if ds.wlen = 0 then ([] : List (Nat × Nat × Bool)) else
    (List.range (ds.nh + 1)).flatMap fun i => (List.range (min ((new - ds.wlen) / 128) ((ds.len - ds.wlen) / 128 + ds.cap)
      - (ds.len - ds.wlen) / 128)).map fun k =>
        (ds.parray + 8 * (i * ds.cap + ((ds.len - ds.wlen) / 128 + k) % ds.cap), ds.tarray + 8 * i, k == 0) := by
  unfold Desc.released
  simp only [beq_iff_eq]

section
variable {o : CFmt} {a new : Nat} {w : State} {ds : Desc}

theorem commitRows_refused (hb : new < ds.len ∨ 2 ^ 40 ≤ new) : commitRows o a new w ds = .ok (commitDone o w 1) :=
  if_pos (by simpa using hb)

theorem commitRows_same (hb : new = ds.len) (h40 : new < 2 ^ 40) : commitRows o a new w ds = .ok (commitDone o w 0) := by
  refine (if_neg ?_).trans (if_pos (beq_iff_eq.2 hb))
  simpa [hb] using hb ▸ h40

variable (hmore : ds.len < new ∧ new < 2 ^ 40)
include hmore

theorem commitRows_more : ¬(decide (new < ds.len) || decide (2 ^ 40 ≤ new)) = true ∧ ¬(new == ds.len) = true := by
  obtain ⟨h1, h2⟩ := hmore
  constructor <;> simp <;> omega

theorem commitRows_short {v : State} (ht : w.touchedHeads ds new (ds.nh + 1) 0 = .ok (v, none)) :
    commitRows o a new w ds = .ok (commitDone o v 3) := by
  obtain ⟨h1, h2⟩ := commitRows_more hmore
  unfold commitRows
  simp only [h1, h2, ht, bind, Except.bind, Bool.false_eq_true, if_false]

variable {s1 v : State} {l : List (Nat × Nat × Word)} {e : Word} (ht : w.touchedHeads ds new (ds.nh + 1) 0 = .ok (s1, some l))
  (hw : s1.getWord 1 (a + 16) .rmw = .ok (v, e))
include ht hw

theorem commitRows_changed (hlen : bits e 39 0 ≠ ds.len) : commitRows o a new w ds = .ok (commitDone o v 6) := by
  obtain ⟨h1, h2⟩ := commitRows_more hmore
  unfold commitRows
  simp only [h1, h2, ht, hw, bind, Except.bind, Bool.false_eq_true, if_false, bne_iff_ne.2 hlen, if_true]

theorem commitRows_commits (hlen : bits e 39 0 = ds.len) {s2 : State}
    (hu : v.updatable (l.map (fun x => x.1) ++ (ds.released new).flatMap fun x => [x.1, x.2.1]) = .ok s2) : commitRows o a new w ds =
      .ok (commitDone o ((ds.released new).foldl (fun s x => s.releaseSlot x) (l.foldl (fun s x => s.putWord x.1
        (setCounts x.2.2 (min 128 (new - 128 * x.2.1)) (entFill x.2.2 + entSpec x.2.2 - min 128 (new - 128 * x.2.1))))
          (s2.putWord (a + 16) (setBits e 39 0 new)))) 0) := by
  obtain ⟨h1, h2⟩ := commitRows_more hmore
  unfold commitRows
  simp only [h1, h2, ht, hw, hu, bind, Except.bind, if_false, bne_eq_false_iff_eq.2 hlen, Bool.false_eq_true]

end

/-! KVREJ (R420). -/

section
variable {s u : State} {o : CFmt} (h : CtxOn s o.gn o.gs)
include h

theorem exec_kvrej_none (hd : s.getDesc (s.getG o.a).toNat = .ok (u, none)) : exec (.kvrej o) s = .next (u.ordered o (2 ^ 64 - 1)) :=
  congrArg Host.Outcome.next ((guardedFor_one h (getDesc_keeps hd).1 _).trans (ran_getDesc hd _))

theorem exec_kvrej {ds : Desc} (hd : s.getDesc (s.getG o.a).toNat = .ok (u, some ds)) {v t : State} {l : List (Nat × Word)}
    (hl : u.specHeads ds (ds.nh + 1) 0 = .ok (v, l)) (ht : v.updatable (l.map fun x => x.1) = .ok t) : exec (.kvrej o) s =
      .next ((l.foldl (fun s x => s.putWord x.1 (setBits x.2 44 37 0)) t).ordered o (l.foldl (fun n x => n + entSpec x.2) 0)) := by
  refine congrArg Host.Outcome.next ((guardedFor_one h (getDesc_keeps hd).1 _).trans ((ran_getDesc hd _).trans ?_))
  simp only [hl, ht, bind, Except.bind]
  rfl

end

/-! SHREF and SHPIN (R416, R132). -/

theorem spot_of_getWord {s u : State} {e : Word} {ea : Nat} (h : s.getWord 1 ea .rmw = .ok (u, e)) :
    ∃ p v, s.spot 1 ea 8 8 .rmw false = .ok (u, p) ∧ u.nearPlace 1 ea p = .ok () ∧ u.spotValue 1 ea 8 p = .ok v ∧ w64 v = e := by
  unfold State.getWord State.wordSpot at h
  obtain ⟨⟨t, p⟩, hw, hv⟩ := bind_ok h
  obtain ⟨⟨t', p'⟩, hs, hn⟩ := bind_ok hw
  obtain ⟨_, hnear, hx⟩ := bind_ok hn
  cases hx
  obtain ⟨v, hval, hx⟩ := bind_ok hv
  cases hx
  exact ⟨_, v, hs, hnear, hval, rfl⟩

section
variable {s u : State} {o : CFmt} (h : CtxOn s o.gn o.gs)
include h

theorem entryOp_near {e : Word} (hw : s.getWord 1 (s.getG o.a).toNat .rmw = .ok (u, e)) (op : RemoteOp) (near : Nat → Word → State → State) :
    s.entryOp o op near = (((near (s.getG o.a).toNat e u).orderLate false).setG o.d e).advance := by
  obtain ⟨p, v, hs, hnear, hv, rfl⟩ := spot_of_getWord hw
  refine (guardedFor_one h (spot_path hs) _).trans ?_
  simp only [hs, bind, Except.bind]
  cases p with
  | remote m va => cases hnear
  | mem p => simp only [hv]; rfl
  | void => simp only [hv]; rfl
  | reg c d l => simp only [hv]; rfl

theorem entryOp_remote {m va : Nat} (hs : s.spot 1 (s.getG o.a).toNat 8 8 .rmw false = .ok (u, .remote m va)) (op : RemoteOp)
    (near : Nat → Word → State → State) : s.entryOp o op near =
      u.viaPod 1 (s.getG o.a).toNat m va 8 op 0 0 [] fun r s => s.ordered o (leVal r.data) := by
  refine (guardedFor_one h (spot_path hs) _).trans ?_
  simp only [hs, bind, Except.bind]
  rfl

end

/-- A bit of a word with a field set. -/
theorem bit_setBits (w : Word) {h l : Nat} (hlh : l ≤ h) (hh : h < 64) (v : Nat) {i : Nat} (hi : i < 64) :
    bit (setBits w h l v) i = if l ≤ i ∧ i ≤ h then v.testBit (i - l) else bit w i := by
  obtain ⟨n, rfl⟩ : ∃ n, h = l + n := ⟨h - l, by omega⟩
  have hn : l + n - l + 1 = n + 1 := by omega
  have hlow := Nat.mod_lt w.toNat (Nat.two_pow_pos l)
  have hmid := fun x => Nat.mod_lt x (Nat.two_pow_pos (n + 1))
  have hsplit : w.toNat = 2 ^ l * (2 ^ (n + 1) * (w.toNat / 2 ^ l / 2 ^ (n + 1)) + w.toNat / 2 ^ l % 2 ^ (n + 1)) + w.toNat % 2 ^ l := by
    rw [Nat.div_add_mod, Nat.div_add_mod]
  have hset : w.toNat - bits w (l + n) l * 2 ^ l + v % 2 ^ (l + n - l + 1) * 2 ^ l =
      2 ^ l * (2 ^ (n + 1) * (w.toNat / 2 ^ l / 2 ^ (n + 1)) + v % 2 ^ (n + 1)) + w.toNat % 2 ^ l := by
    have hb : bits w (l + n) l = w.toNat / 2 ^ l % 2 ^ (n + 1) := by rw [bits, hn, Nat.shiftRight_eq_div_pow]
    rw [hb, hn]
    generalize hx : w.toNat / 2 ^ l / 2 ^ (n + 1) = x at hsplit ⊢
    generalize hy : w.toNat / 2 ^ l % 2 ^ (n + 1) = y at hsplit ⊢
    generalize hz : w.toNat % 2 ^ l = z at hsplit ⊢
    rw [hsplit, Nat.mul_add, Nat.mul_add, Nat.mul_comm y, Nat.mul_comm (v % _)]
    omega
  have hbit : bit (setBits w (l + n) l v) i = (2 ^ l * (2 ^ (n + 1) * (w.toNat / 2 ^ l / 2 ^ (n + 1)) + v % 2 ^ (n + 1)) + w.toNat % 2 ^ l).testBit i := by
    rw [bit, setBits, hset, w64, BitVec.getLsbD_ofNat, decide_eq_true hi, Bool.true_and]
  have hold : bit w i = (2 ^ l * (2 ^ (n + 1) * (w.toNat / 2 ^ l / 2 ^ (n + 1)) + w.toNat / 2 ^ l % 2 ^ (n + 1)) + w.toNat % 2 ^ l).testBit i := by
    rw [← hsplit]; rfl
  rw [hbit, hold, Nat.testBit_two_pow_mul_add _ hlow, Nat.testBit_two_pow_mul_add _ hlow, Nat.testBit_two_pow_mul_add _ (hmid _),
    Nat.testBit_two_pow_mul_add _ (hmid _)]
  by_cases h1 : i < l
  · rw [if_pos h1, if_pos h1, if_neg (by omega)]
  · by_cases h2 : i - l < n + 1
    · rw [if_neg h1, if_pos h2, if_pos (by omega), Nat.testBit_mod_two_pow, decide_eq_true h2, Bool.true_and]
    · rw [if_neg h1, if_neg h2, if_neg h1, if_neg h2, if_neg (by omega)]

theorem stickEntry_eq (e : Word) : stickEntry e = e ||| 0xC000000000000000 := by
  have hbits : ∀ i : Fin 64, (0xC000000000000000 : Word).getLsbD i = decide (62 ≤ i.val) := by decide
  refine BitVec.eq_of_getLsbD_eq fun i hi => ?_
  rw [show (stickEntry e).getLsbD i = _ from bit_setBits e (by decide) (by decide) 3 hi, BitVec.getLsbD_or, hbits ⟨i, hi⟩]
  split
  · next hin =>
    have h3 : i = 62 ∨ i = 63 := by omega
    rcases h3 with rfl | rfl
    · simp
    · simp; rfl
  · next hout => simp [show ¬62 ≤ i by omega, bit]

theorem pinEntry_eq (e : Word) (on : Bool) : pinStep on e = if on = true ∨ bit e 62 = true then e ||| 0x8000000000000000 else e &&& 0x7FFFFFFFFFFFFFFF := by
  have hset : ∀ i : Fin 64, (0x8000000000000000 : Word).getLsbD i = decide (63 ≤ i.val) := by decide
  have hclear : ∀ i : Fin 64, (0x7FFFFFFFFFFFFFFF : Word).getLsbD i = decide (i.val < 63) := by decide
  refine BitVec.eq_of_getLsbD_eq fun i hi => ?_
  rw [show (pinStep on e).getLsbD i = _ from bit_setBits e (by decide) (by decide) _ hi]
  by_cases hp : on = true ∨ bit e 62 = true
  · rw [if_pos hp, BitVec.getLsbD_or, hset ⟨i, hi⟩, Bool.or_eq_true_iff.2 hp]
    split
    · next hin => simp [show i = 63 by omega, b2n]
    · next hout => simp [show ¬63 ≤ i by omega, bit]
  · rw [if_neg hp, BitVec.getLsbD_and, hclear ⟨i, hi⟩, Bool.eq_false_iff.2 (mt Bool.or_eq_true_iff.1 hp)]
    split
    · next hin => simp [show i = 63 by omega, b2n]
    · next hout => simp [show i < 63 by omega, bit]

/-- The refcount set to a value of its field. -/
theorem toNat_setRef (e : Word) {n : Nat} (hn : n < 256) : (setBits e 60 53 n).toNat = e.toNat - entRef e * 2 ^ 53 + n * 2 ^ 53
    ∧ entRef e * 2 ^ 53 ≤ e.toNat ∧ entRef e < 256 := by
  have href : entRef e = e.toNat / 2 ^ 53 % 256 := by rw [entRef, bits, Nat.shiftRight_eq_div_pow]; rfl
  have he := e.isLt
  rw [setBits, w64, BitVec.toNat_ofNat, show bits e 60 53 = entRef e from rfl, href]
  omega

theorem refEntry_up {e : Word} (h : entRef e < 255) : setBits e 60 53 (entRef e + 1) = e + 0x0020000000000000 := by
  obtain ⟨hs, hle, -⟩ := toNat_setRef e (n := entRef e + 1) (by omega)
  have hlt := (setBits e 60 53 (entRef e + 1)).isLt
  refine BitVec.eq_of_toNat_eq ?_
  rw [BitVec.toNat_add, show (0x0020000000000000 : Word).toNat = 2 ^ 53 from rfl]
  omega

theorem refEntry_down {e : Word} (h : 0 < entRef e) : setBits e 60 53 (entRef e - 1) = e - 0x0020000000000000 := by
  obtain ⟨-, -, hr⟩ := toNat_setRef e (n := 0) (by omega)
  obtain ⟨hs, hle, -⟩ := toNat_setRef e (n := entRef e - 1) (by omega)
  have hlt := e.isLt
  refine BitVec.eq_of_toNat_eq ?_
  rw [BitVec.toNat_sub, show (0x0020000000000000 : Word).toNat = 2 ^ 53 from rfl]
  omega

/-! The step of a refcount (R132). -/

theorem refStep_keeps {e : Word} (hb : bit e 62 = true) (dec : Bool) : refStep dec e = (e, false) := if_pos hb

theorem refStep_up {e : Word} (hb : bit e 62 = false) (hr : entRef e < 255) : refStep false e = (e + 0x0020000000000000, false) := by
  have hne : ¬entRef e = 255 := by omega
  simp only [refStep, hb, Bool.false_eq_true, if_false, beq_iff_eq, hne, refEntry_up hr]

theorem refStep_down {e : Word} (hb : bit e 62 = false) (hr : 0 < entRef e) : refStep true e = (e - 0x0020000000000000, false) := by
  have hne : ¬entRef e = 0 := by omega
  simp only [refStep, hb, Bool.false_eq_true, if_false, if_true, beq_iff_eq, hne, refEntry_down hr]

theorem refStep_over {e : Word} (hb : bit e 62 = false) (hr : entRef e = 255) : refStep false e = (e ||| 0xC000000000000000, true) := by
  simp only [refStep, hb, Bool.false_eq_true, if_false, beq_iff_eq, hr, if_true, stickEntry_eq]

theorem refStep_under {e : Word} (hb : bit e 62 = false) (hr : entRef e = 0) : refStep true e = (e ||| 0xC000000000000000, true) := by
  simp only [refStep, hb, Bool.false_eq_true, if_false, beq_iff_eq, hr, if_true, stickEntry_eq]

section
variable {s u : State} {o : CFmt} (h : CtxOn s o.gn o.gs) {e : Word} (hw : s.getWord 1 (s.getG o.a).toNat .rmw = .ok (u, e))
include h hw

/-- SHREF at this module, the step of its refcount told. -/
theorem shref_step {dec : Bool} {new : Word} {stuck : Bool} (hstep : refStep dec e = (new, stuck)) :
    s.shref o dec = ((((if stuck then (u.putWord (s.getG o.a).toNat new).audit (s.getG o.a).toNat
      else u.putWord (s.getG o.a).toNat new).orderLate false).setG o.d e).advance) := by
  have hx := entryOp_near h hw (.ref dec) fun ea e s =>
    let (new, stuck) := refStep dec e
    let s1 := s.putWord ea new
    if stuck then s1.audit ea else s1
  rw [hstep] at hx
  exact hx

theorem exec_shref {dec : Bool} {new : Word} {stuck : Bool} (hstep : refStep dec e = (new, stuck)) :
    exec (if dec then .shrefDec o else .shrefInc o) s = .next ((((if stuck then (u.putWord (s.getG o.a).toNat new).audit (s.getG o.a).toNat
      else u.putWord (s.getG o.a).toNat new).orderLate false).setG o.d e).advance) := by
  cases dec
  · exact congrArg Host.Outcome.next (shref_step h hw hstep)
  · exact congrArg Host.Outcome.next (shref_step h hw hstep)

theorem exec_shpin : exec (.shpin o) s = .next ((((u.putWord (s.getG o.a).toNat (pinStep (o.imm.getLsbD 0) e)).orderLate false).setG o.d e).advance) :=
  congrArg Host.Outcome.next (entryOp_near h hw _ _)

end

/-! SHCPY (R417). -/

/-- What SHCPY does with its words. -/
def copyRows (o : CFmt) (s : State) (e1 e2 : Word) (ds : Option Desc) : State := match ds with
  | none => s.status o 5
  | some ds =>
    if entFill e1 < o.f 6 0 then s.status o 8
    else if 1 < entRef e2 then s.status o 4
    else if bit e2 62 then s.status o 9
    else
      (s.startCommand o { Chan.init with
        kind := .shard, src := w64 (entAddr e1), dst := w64 (entAddr e2), p2 := w64 (o.f 6 0), p3 := w64 (ds.dim * ds.es)
        p4 := s.getG o.b }).setG o.d 0

section
variable {s : State} {o : CFmt} (h : CtxOn s o.gn o.gs) (ha : ¬Barred s (s.getG o.a).toNat) (hb : ¬Barred s (s.getG o.b).toNat)
  (hc : ¬Barred s (s.getG o.c).toNat)
include h ha hb hc

theorem exec_shcpy : exec (.shcpy o) s = .next (if (s.myTile.chan (chanOf o)).state == .running || (s.myTile.chan (chanOf o)).state == .paused
    then s.waits (.channel (chanOf o))
    else ran (s.copyWords o >>= fun r => .ok (copyRows o r.1 r.2.1 r.2.2.1 r.2.2.2))) :=
  congrArg Host.Outcome.next (guardedFor_on h (by simpa using ⟨ha, hb, hc⟩) _)

theorem shcpy_waits (hbusy : (s.myTile.chan (chanOf o)).state = .running ∨ (s.myTile.chan (chanOf o)).state = .paused) :
    exec (.shcpy o) s = .next (s.waits (.channel (chanOf o))) :=
  (exec_shcpy h ha hb hc).trans (congrArg Host.Outcome.next (if_pos (by simpa using hbusy)))

variable (hidle : ¬((s.myTile.chan (chanOf o)).state = .running ∨ (s.myTile.chan (chanOf o)).state = .paused))
include hidle

theorem shcpy_error {t : State} (he : s.copyWords o = .error t) : exec (.shcpy o) s = .next t := by
  refine (exec_shcpy h ha hb hc).trans (congrArg Host.Outcome.next ((if_neg (by simpa using hidle)).trans ?_))
  rw [he]
  rfl

theorem shcpy_ok {v : State} {e1 e2 : Word} {ds : Option Desc} (he : s.copyWords o = .ok (v, e1, e2, ds)) :
    exec (.shcpy o) s = .next (copyRows o v e1 e2 ds) := by
  refine (exec_shcpy h ha hb hc).trans (congrArg Host.Outcome.next ((if_neg (by simpa using hidle)).trans ?_))
  rw [he]
  rfl

end

/-- SHCPY of a misaligned operand: the first traps ALIGN with its number (R275). -/
theorem copyWords_align {s : State} {o : CFmt} {x : Nat × Nat × Nat}
    (hx : [(1, (s.getG o.a).toNat, 8), (2, (s.getG o.b).toNat, 8), (3, (s.getG o.c).toNat, 64)].find? (fun x => x.2.1 % x.2.2 != 0) = some x) :
    s.copyWords o = .error (s.trap 3 x.1 (w64 x.2.1)) := by
  unfold State.copyWords
  simp only [hx]

theorem copyWords_channel {s s1 s2 s3 : State} {o : CFmt} {pa pb pc : Place}
    (hx : [(1, (s.getG o.a).toNat, 8), (2, (s.getG o.b).toNat, 8), (3, (s.getG o.c).toNat, 64)].find? (fun x => x.2.1 % x.2.2 != 0) = none)
    (ha : s.wordSpot 1 (s.getG o.a).toNat .read = .ok (s1, pa)) (hb : s1.wordSpot 2 (s.getG o.b).toNat .read = .ok (s2, pb))
    (hc : s2.lineSpot 3 (s.getG o.c).toNat = .ok (s3, pc)) (he : (s.myTile.chan (chanOf o)).state = .error) :
    s.copyWords o = .error (s3.trap 9 7 (w64 (chanOf o + (s.myTile.chan (chanOf o)).err % 256 * 256))) := by
  unfold State.copyWords
  simp only [hx, ha, hb, hc, bind, Except.bind, he, beq_self_eq_true, if_true]

theorem not_barred_of_sup {s : State} {x : Nat} (h : x / 2 ^ 60 = 4 → s.isSup = true) : ¬Barred s x :=
  fun ⟨h4, hs⟩ => Bool.false_ne_true (hs.symm.trans (h h4))

/-- The word of a slot, as KVCMT sees it. -/
def slotWord (t : State) (ea : Nat) : Word := match t.check t.req ea 8 .rmw with
  | .ok q => w64 (t.rdFor t.req q 8)
  | _ => 0

theorem releaseSlot_eq (t : State) (x : Nat × Nat × Bool) : t.releaseSlot x =
    if x.2.2 = true ∧ bits (slotWord t x.2.1) 52 45 + bits (slotWord t x.2.1) 44 37 ≠ 0
    then (t.putWord x.1 (slotWord t x.2.1)).putWord x.2.1 (setCounts (slotWord t x.1) 0 0)
    else t.putWord x.1 (setCounts (slotWord t x.1) 0 0) := by
  have hx : t.releaseSlot x = if x.2.2 && bits (slotWord t x.2.1) 52 45 + bits (slotWord t x.2.1) 44 37 != 0
    then (t.putWord x.1 (slotWord t x.2.1)).putWord x.2.1 (setCounts (slotWord t x.1) 0 0)
    else t.putWord x.1 (setCounts (slotWord t x.1) 0 0) := rfl
  rw [hx]
  simp only [Bool.and_eq_true, bne_iff_ne, ne_eq]

/-- Settles O35. -/
theorem shardResults : Obligations.ShardResults := by
  intro s u v o ds e h a b c sup st ord fill spec ref n p hd ended release
  have next := fun {x y : State} (e : x = y) => congrArg (Host.Outcome.next : State → Res) e
  have href : entRef e = ref := rfl
  refine ⟨fun hg => ⟨?_, fun hc => ?_, ?_, ?_⟩, fun hg => ?_, fun hw => ?_, fun m va hs => ⟨?_, ?_, ?_⟩, fun ha hb hc => ?_⟩
  · rw [exec_shlk h hg]; rfl
  · exact exec_kvapp_none h (not_barred_of_sup hc) hg
  · exact exec_kvcmt_none h hg
  · exact exec_kvrej_none h hg
  · intro d1 w more lo slots
    have hshlk := exec_shlk h hg
    have happ := fun hc => exec_kvapp h (not_barred_of_sup hc) hg
    have hcmt : exec (.kvcmt o) s = .next (ran (commitRows o a b w d1)) := exec_kvcmt h hg
    have hslots : d1.released b = slots := released_eq d1 b
    refine ⟨fun hl => ?_, fun hl => ?_, fun ent off hl => ?_, fun hc => ⟨fun hl => ?_, fun hl => ?_, fun ent off hl hlast => ?_, ?_,
      fun ent off off2 hl hlast hw => ⟨fun hr => ?_, fun hr ho => ?_⟩⟩, fun hb => ?_, fun hb h40 => ?_, fun hm ht => ?_,
      fun hm l s1 ht hw => ⟨fun hlen => ?_, fun hlen s2 hu => ?_⟩, fun l t hl ht => exec_kvrej h hg hl ht⟩
    · rw [hshlk, lookupStatus, hl]; rfl
    · rw [hshlk, lookupStatus, hl]; rfl
    · rw [hshlk, lookupStatus, hl]; rfl
    · rw [happ hc, appendRows_range hl]; rfl
    · rw [happ hc, appendRows_expired hl]; rfl
    · rw [happ hc, appendRows_apart hl hlast]; rfl
    · intro ent off off2 s2 s3 s4 s5 s6 src dst bs hl hlast hw hr ho hsrc hdst hupd hread hnear hs5
      rw [happ hc, appendRows_appends hl hlast hw (not_lt.2 hr) ho hsrc hdst hupd hread hnear, hs5]
      rfl
    · rw [happ hc, appendRows_shared hl hlast hw hr]; rfl
    · rw [happ hc, appendRows_misplaced hl hlast hw (not_lt.2 hr) ho]; rfl
    · rw [hcmt, commitRows_refused hb]; rfl
    · rw [hcmt, commitRows_same hb h40]; rfl
    · rw [hcmt, commitRows_short hm ht]; rfl
    · rw [hcmt, commitRows_changed hm ht hw (by rw [bits, Nat.shiftRight_zero]; exact hlen)]; rfl
    · rw [hcmt, commitRows_commits hm ht hw (by rw [bits, Nat.shiftRight_zero]; exact hlen) (hslots ▸ hu), hslots]
      have hrelease : (fun (t : State) x => t.releaseSlot x) = release := funext fun t => funext fun x => releaseSlot_eq t x
      rw [hrelease]
      rfl
  · intro put
    refine ⟨fun hb => ⟨?_, ?_⟩, fun hb hr => ?_, fun hb hr => ?_, fun hb hr => ?_, fun hb hr => ?_, ?_⟩
    · exact (show exec (.shrefInc o) s = _ from exec_shref h hw (refStep_keeps hb false))
    · exact (show exec (.shrefDec o) s = _ from exec_shref h hw (refStep_keeps hb true))
    · exact (show exec (.shrefInc o) s = _ from exec_shref h hw (refStep_up hb hr))
    · exact (show exec (.shrefDec o) s = _ from exec_shref h hw (refStep_down hb hr))
    · exact (show exec (.shrefInc o) s = _ from exec_shref h hw (refStep_over hb hr))
    · exact (show exec (.shrefDec o) s = _ from exec_shref h hw (refStep_under hb hr))
    · rw [← pinEntry_eq]
      exact exec_shpin h hw
  · exact next (entryOp_remote h hs _ _)
  · exact next (entryOp_remote h hs _ _)
  · exact next (entryOp_remote h hs _ _)
  · intro ch old busy m
    have ha := not_barred_of_sup ha
    have hb := not_barred_of_sup hb
    have hc := not_barred_of_sup hc
    have hm : o.f 6 0 = m := by rw [CFmt.f, Nat.pow_zero, Nat.div_one]; rfl
    have hword : ∀ x : Word, w64 x.toNat = x := fun x => BitVec.eq_of_toNat_eq (by rw [w64, BitVec.toNat_ofNat, Nat.mod_eq_of_lt x.isLt])
    refine ⟨shcpy_waits h ha hb hc, fun hidle => ⟨fun h1 => ?_, fun h1 h2 => ?_, fun h1 h2 h3 => ?_, fun h1 h2 h3 he s1 s2 s3 pa pb pc ga gb gc => ?_,
      fun e1 he => shcpy_ok h ha hb hc hidle he, fun e1 he => ?_⟩⟩
    · rw [← hword (s.getG o.a)]
      exact shcpy_error h ha hb hc hidle (copyWords_align (List.find?_cons_of_pos (by simpa using h1)))
    · rw [← hword (s.getG o.b)]
      exact shcpy_error h ha hb hc hidle (copyWords_align ((List.find?_cons_of_neg (by simpa using h1)).trans
        (List.find?_cons_of_pos (by simpa using h2))))
    · rw [← hword (s.getG o.c)]
      exact shcpy_error h ha hb hc hidle (copyWords_align ((List.find?_cons_of_neg (by simpa using h1)).trans
        ((List.find?_cons_of_neg (by simpa using h2)).trans (List.find?_cons_of_pos (by simpa using h3)))))
    · exact shcpy_error h ha hb hc hidle (copyWords_channel ((List.find?_cons_of_neg (by simpa using h1)).trans
        ((List.find?_cons_of_neg (by simpa using h2)).trans (List.find?_cons_of_neg (by simpa using h3)))) ga gb gc he)
    · rw [shcpy_ok h ha hb hc hidle he, ← hm]
      refine ⟨fun h1 => ?_, fun h1 h2 => ?_, fun h1 h2 h3 => ?_, fun h1 h2 h3 => ?_⟩
      · exact next (if_pos h1)
      · exact next ((if_neg (not_lt.2 h1)).trans (if_pos h2))
      · exact next ((if_neg (not_lt.2 h1)).trans ((if_neg (not_lt.2 h2)).trans (if_pos h3)))
      · exact next ((if_neg (not_lt.2 h1)).trans ((if_neg (not_lt.2 h2)).trans (if_neg (Bool.eq_false_iff.1 h3))))

end Sys2Proof.Laws

/-! O42: CTXSV and CTXLD (18 R431; 12 R283; 11 R271). -/

namespace Sys2Proof.Laws

open Sys2Proof Sys2Proof.Machine Sys2Proof.Safety

/-! What the reads of an area keep. -/

theorem sameAgents_remote (s : State) (u : UnitRef) (tag m va n : Nat) (op : RemoteOp) (x y : Word) (data : List Byte) :
    SameAgents s (s.remote u tag m va n op x y data).1 := by
  unfold State.remote
  split
  · split
    · exact ⟨rfl, rfl, fun _ _ _ => rfl⟩
    · exact .refl s
  · exact sameAgents_ask ..

theorem sameAgents_foldl {α : Type} {f : State → α → State} (h : ∀ s a, SameAgents s (f s a)) : ∀ (l : List α) (s : State), SameAgents s (l.foldl f s)
  | [], s => .refl s
  | a :: l, s => (h s a).trans (sameAgents_foldl h l (f s a))

/-- A fold over states that carry a value with them. -/
theorem sameAgents_foldl_fst {α β : Type} {f : State × β → α → State × β} (h : ∀ s a, SameAgents s.1 (f s a).1) :
    ∀ (l : List α) (s : State × β), SameAgents s.1 (l.foldl f s).1
  | [], s => .refl s.1
  | a :: l, s => (h s a).trans (sameAgents_foldl_fst h l (f s a))

theorem sameAgents_remoteAll (s : State) (u : UnitRef) (rs : List Wish) : SameAgents s (s.remoteAll u rs).1 := by
  have hasked := sameAgents_foldl (f := fun (s : State) (r : Wish) =>
    if (s.askedId u r.tag r.m r.va r.op).isSome then s else (s.ask u r.tag r.m r.va r.n r.op 0 r.y r.data).1)
    (fun s r => by split; exacts [.refl s, sameAgents_ask ..]) rs s
  unfold State.remoteAll
  simp only
  split
  · exact hasked
  · refine hasked.trans (sameAgents_foldl_fst (fun acc r => ?_) rs _)
    have hr := sameAgents_remote acc.1 u r.tag r.m r.va r.n r.op 0 r.y r.data
    generalize acc.1.remote u r.tag r.m r.va r.n r.op 0 r.y r.data = x at hr ⊢
    rcases x with ⟨t, g⟩
    rcases acc.2 with e | got
    · exact hr
    · rcases g with id | g
      · exact hr
      · exact hr

theorem remoteAll_same {s t : State} {u : UnitRef} {rs : List Wish} {r : Except Nat (List RemoteReq)} (h : s.remoteAll u rs = (t, r)) :
    SameAgents s t := by
  have hs := sameAgents_remoteAll s u rs
  rw [h] at hs
  exact hs

theorem readSpots_same {s u : State} {loc : Nat} {l : List ((Nat × Nat) × Place)} {bs : List Byte} (h : s.readSpots loc l = .ok (u, bs)) :
    SameAgents s u := by
  unfold State.readSpots at h
  simp only at h
  split at h
  · cases h
  · next hr =>
    split at h
    · cases h
    · split at h
      · cases h
      · cases h
        exact remoteAll_same hr

theorem spots_same {loc align : Nat} {a : Acc} {free : Bool} : ∀ {l : List (Nat × Nat)} {s u : State} {ps : List ((Nat × Nat) × Place)},
    s.spots loc a align free l = .ok (u, ps) → SameAgents s u
  | [], s, u, ps, h => by cases h; exact .refl s
  | e :: l, s, u, ps, h => by
    unfold State.spots at h
    obtain ⟨⟨t, p⟩, hs, hr⟩ := bind_ok h
    obtain ⟨⟨t', q⟩, hl, hx⟩ := bind_ok hr
    cases hx
    exact (spot_same hs).trans (spots_same hl)

theorem areaSpots_same {s u : State} {o : CFmt} {a : Acc} {ps : List ((Nat × Nat) × Place)} (h : s.areaSpots o a = .ok (u, ps)) :
    SameAgents s u := by
  unfold State.areaSpots at h
  exact spots_same (else_of_ne (else_of_ne h nofun) nofun)

/-! Words of an image (R283). -/

theorem wordAt_append_left {l : List Byte} {off : Nat} (h : off + 8 ≤ l.length) (r : List Byte) : wordAt (l ++ r) off = wordAt l off := by
  rw [wordAt, List.drop_append_of_le_length (by omega), List.take_append_of_le_length (by rw [List.length_drop]; omega), wordAt]

theorem wordAt_append_right (l r : List Byte) (off : Nat) : wordAt (l ++ r) (l.length + off) = wordAt r off := by
  rw [wordAt, ← List.drop_drop, List.drop_left, wordAt]

theorem wordAt_padTo {n off : Nat} {l : List Byte} (hn : off + 8 ≤ n) (hl : off + 8 ≤ l.length) : wordAt (padTo n l) off = wordAt l off := by
  rw [wordAt, padTo, List.drop_take, List.take_take, Nat.min_eq_left (by omega)]
  exact wordAt_append_left hl _

theorem length_wordsLe (ws : List Word) : (wordsLe ws).length = 8 * ws.length := length_flatMap_const fun _ _ => by simp [leOf]

theorem wordAt_wordsLe : ∀ (ws : List Word) {i : Nat} (h : i < ws.length), wordAt (wordsLe ws) (8 * i) = ws[i]
  | w :: ws, 0, _ => by
    rw [wordsLe, List.flatMap_cons, wordAt_append_left (by simp [leOf]), wordAt, Nat.mul_zero, List.drop_zero, List.take_of_length_le (by simp [leOf])]
    exact leVal_leOf_word w
  | w :: ws, i + 1, h => by
    rw [wordsLe, List.flatMap_cons, show 8 * (i + 1) = (leOf 8 w.toNat).length + 8 * i by simp [leOf]; omega, wordAt_append_right]
    exact wordAt_wordsLe ws (Nat.lt_of_succ_lt_succ h)

theorem length_image (t : Tile) (c : Context) (pc : Word) (v : Nat → Lanes) (live : Bool) : (t.image c pc live v).length = 12288 := length_padTo ..

/-- The word of an image that tells its kind: of a live context, bit 16 is set. -/
theorem bit_kind (c : Context) : bit (w64 (c.cls % 16 + b2n c.coach * 16 + b2n c.q7.isSome * 32 + b2n c.q6.isSome * 64 + b2n c.parked * 128
    + c.rver % 16 * 256 + c.tver % 16 * 4096 + b2n true * 65536)) 16 = true := by
  have h1 := b2n_le c.coach
  have h2 := b2n_le c.q7.isSome
  have h3 := b2n_le c.q6.isSome
  have h4 := b2n_le c.parked
  have h5 : b2n true = 1 := rfl
  rw [bit, w64, BitVec.getLsbD_ofNat, Nat.testBit_eq_decide_div_mod_eq]
  simp only [Bool.and_eq_true, decide_eq_true_eq]
  omega

/-- The first words of an image: its program counter, its kind, and the general registers. -/
theorem image_words (t : Tile) (c : Context) (pc : Word) (v : Nat → Lanes) (more : List Byte) : let img := t.image c pc true v ++ more
    wordAt img 0 = pc ∧ bit (wordAt img 8) 16 = true ∧ ∀ n, n < 32 → wordAt img (64 + 8 * n) = if n = 0 then 0 else vget c.hart.g n 0 := by
  intro img
  obtain ⟨w8, rest, himg, hw8⟩ : ∃ w8 rest, t.image c pc true v = padTo 12288 (padTo 64 (wordsLe [pc, w8, c.waitWord])
      ++ (wordsLe ((List.range 32).map fun i => if i == 0 then 0 else vget c.hart.g i 0) ++ rest)) ∧ bit w8 16 = true := by
    rw [Tile.image]
    simp only [List.append_assoc]
    exact ⟨_, _, rfl, bit_kind ..⟩
  have hlen : (wordsLe ((List.range 32).map fun i => if i == 0 then 0 else vget c.hart.g i 0)).length = 256 := by
    rw [length_wordsLe, List.length_map, List.length_range]
  have hhead : ∀ {off}, off + 8 ≤ 24 → wordAt img off = wordAt (wordsLe [pc, w8, c.waitWord]) off := by
    intro off hoff
    rw [show img = t.image c pc true v ++ more from rfl, wordAt_append_left (by rw [length_image]; omega), himg,
      wordAt_padTo (by omega) (by simp only [List.length_append, length_padTo]; omega), wordAt_append_left (by rw [length_padTo]; omega),
      wordAt_padTo (by omega) (by rw [length_wordsLe]; exact hoff)]
  refine ⟨?_, ?_, fun n hn => ?_⟩
  · exact (hhead (by omega)).trans (wordAt_wordsLe _ (i := 0) (by simp))
  · rw [hhead (by omega), wordAt_wordsLe [pc, w8, c.waitWord] (i := 1) (by simp)]
    exact hw8
  · rw [show img = t.image c pc true v ++ more from rfl, wordAt_append_left (by rw [length_image]; omega), himg,
      wordAt_padTo (by omega) (by simp only [List.length_append, length_padTo, hlen]; omega)]
    have hright := wordAt_append_right (padTo 64 (wordsLe [pc, w8, c.waitWord]))
      (wordsLe ((List.range 32).map fun i => if i == 0 then 0 else vget c.hart.g i 0) ++ rest) (8 * n)
    rw [length_padTo] at hright
    rw [hright, wordAt_append_left (by rw [hlen]; omega), wordAt_wordsLe _ (by simpa using hn)]
    simp

/-! CTXSV and CTXLD on their area. -/

/-- A context with the registers and the links of an image. -/
def reload (bs : List Byte) (ls : List Link) (x : Context) : Context := { x.load bs 6 [] with links := dropCut ls (x.load bs 6 []).cut }

theorem reload_result {u : State} (hc : u.onCore = false) (bs : List Byte) (ls : List Link) (n : Nat) :
    let t := (u.modMe (reload bs ls)).postSettles u.die u.tix u.cix n
    t.mem = u.mem ∧ t.pc = BitVec.ofNat 64 ((wordAt bs 0).toNat / 8 * 8) ∧ t.hart.wait = .run ∧ t.me.links = dropCut ls t.me.cut
      ∧ (∀ n : BitVec 5, n ≠ 0 → t.getG n = wordAt bs (64 + 8 * n.toNat)) ∧ ∀ m, 1 ≤ m → m < 8 → t.me.mask m = wordAt bs (320 + 8 * m) := by
  intro t
  have hme : t.me = reload bs ls u.me := (postSettles_keeps State.me (fun _ _ _ _ => rfl) ..).trans (me_modMe ..)
  have hcore : t.onCore = false := (postSettles_keeps State.onCore (fun _ _ _ _ => rfl) ..).trans ((onCore_modMe ..).trans hc)
  have hhart : t.hart = (reload bs ls u.me).hart := by rw [hart_me hcore, hme]
  have hvec : ∀ {α : Type} {n i : Nat} (f : Fin n → α) (d : α) (hi : i < n), vget (Vector.ofFn f) i d = f ⟨i, hi⟩ := by
    intro α n i f d hi
    simp [vget, hi]
  refine ⟨postSettles_keeps State.mem (fun _ _ _ _ => rfl) .., ?_, ?_, ?_, fun k hk => ?_, fun m h1 h8 => ?_⟩
  · rw [State.pc, hhart]; rfl
  · rw [hhart]; rfl
  · rw [hme]; rfl
  · rw [State.getG, if_neg hk, hhart]
    refine (hvec _ 0 k.isLt).trans (if_neg fun h0 => hk (BitVec.eq_of_toNat_eq h0))
  · rw [Context.mask, if_neg (by omega), hme]
    exact hvec _ 0 h8

section
variable {s : State} {o : CFmt} (hsup : s.isSup = true) (h : CtxOn s o.gn o.gs)
include hsup h

theorem exec_ctxsv : exec (.ctxsv o) s = .next (if !s.me.links.isEmpty then s.waits .settle
    else ran (s.areaSpots o .write >>= fun r => .ok (r.1.writeSpots r.2 (r.1.myTile.image { r.1.me with hart := { r.1.me.hart with wait := .run } }
      (r.1.pc + 8) true (fun k => r.1.seen r.1.die r.1.tix r.1.cix k (vget r.1.me.v k .zero)) ++ chainBlock [] r.1.me.cut)).advance)) :=
  congrArg Host.Outcome.next (guardedSup_ctx hsup h false _)

theorem exec_ctxld : exec (.ctxld o) s = .next (ran (s.areaSpots o .read >>= fun r => r.1.readSpots 1 r.2 >>= fun q =>
    if !bit (wordAt q.2 8) 16 then .error (q.1.trap 4 1 (q.1.getG o.a))
    else match linksOf (q.2.drop 12288) with
      | .error k => .error (q.1.trap 13 0 (w64 k))
      | .ok ls => .ok ((q.1.modMe (reload q.2 ls)).postSettles q.1.die q.1.tix q.1.cix (q.1.modMe (reload q.2 ls)).me.links.length))) :=
  congrArg Host.Outcome.next (guardedSup_ctx hsup h false _)

end

/-- Settles O42. -/
theorem savedContextResults : Obligations.SavedContextResults := by
  intro s s1 o ps hsup h
  have hsv := exec_ctxsv hsup h
  have hld := exec_ctxld hsup h
  refine ⟨fun hl hp => ?_, fun hl => ?_, fun t ht => ?_, fun u bs hp hr => ⟨fun hb => ?_, fun k hb hk => ?_, fun ls hb hk => ?_⟩⟩
  · obtain ⟨hpc, hlive, hg⟩ := image_words s1.myTile { s1.me with hart := { s1.me.hart with wait := .run } } (s1.pc + 8)
      (fun k => s1.seen s1.die s1.tix s1.cix k (vget s1.me.v k .zero)) (chainBlock [] s1.me.cut)
    refine ⟨_, ?_, ?_, hpc, hlive, fun n => (hg n.toNat n.isLt).trans ?_⟩
    · rw [hsv, hl, hp]
      rfl
    · rw [List.length_append, length_image]
      exact congrArg (12288 + ·) (length_padTo ..)
    · have hcore : s1.onCore = false := (areaSpots_same hp).onCore.trans h.1
      rw [State.getG, hart_me hcore]
      exact if_congr (by rw [← BitVec.toNat_inj]; rfl) rfl rfl
  · rw [hsv]
    exact congrArg Host.Outcome.next (if_pos (by simpa using hl))
  · rw [hld, ht]
    rfl
  · rw [hld, hp]
    simp only [bind, Except.bind, hr, hb]
    rfl
  · rw [hld, hp]
    simp only [bind, Except.bind, hr, hb, hk]
    rfl
  · rw [hld, hp]
    simp only [bind, Except.bind, hr, hb, hk]
    have hcore : u.onCore = false := ((areaSpots_same hp).trans (readSpots_same hr)).onCore.trans h.1
    exact ⟨_, rfl, reload_result hcore bs ls _⟩

end Sys2Proof.Laws

/-! O30: QBIND, QBIND.k, QBIND.u and QSTAT (17 R395, R396). -/

namespace Sys2Proof.Laws

open Sys2Proof Sys2Proof.Machine Sys2Proof.Safety

/-- A port bound by an instruction that moves on: no other port and no APE changes (R395). -/
def PortBound (s t : State) (n : Nat) (b : PortBind) : Prop :=
  MovedOn s t ∧ t.port n = b ∧ t.myTile.apes = s.myTile.apes ∧ ∀ k, k ≠ n → t.port k = s.port k

theorem apes_modMe (s : State) (f : Context → Context) : (s.modMe f).myTile.apes = s.myTile.apes := by
  rw [myTile_modMe]

theorem apes_advance (s : State) : s.advance.myTile.apes = s.myTile.apes := by
  rw [State.advance, myTile_modHart]

theorem bindPort_result {s : State} (hc : s.onCore = false) {n : Nat} (hn : n < 8) (b : PortBind) : PortBound s (s.bindPort n b) n b := by
  obtain ⟨hm, hme⟩ := modMe_advance hc (fun x => { x with ports := vput x.ports n b }) rfl
  have hports : (s.bindPort n b).me.ports = vput s.me.ports n b := (congrArg Context.ports hme).trans rfl
  refine ⟨hm, ?_, (apes_advance _).trans (apes_modMe ..), fun k hk => ?_⟩
  · rw [State.port, hports, vget_vput_self _ _ _ _ hn]
  · rw [State.port, hports, vget_vput_ne _ _ _ hk.symm]
    rfl

/-- The word of QSTAT (R396). -/
def portWord (s : State) (n : Nat) : Nat :=
  let b := s.port n
  let a := s.portApe n
  if !b.bnd then 0
  else if b.kb then 2 ^ 63 + 2 ^ 62 + b.typ % 16 * 2 ^ 52 + b.pos % 2 ^ 48
  else 2 ^ 63 + b2n a.wh * 2 ^ 61 + b2n a.fin * 2 ^ 60 + b.ape % 16 * 2 ^ 56 + b.ncol % 256 * 2 ^ 48 + a.pos % 2 ^ 48

theorem bit_w64 {n i : Nat} (hi : i < 64) : bit (w64 n) i = decide (n / 2 ^ i % 2 = 1) := by
  rw [bit, w64, BitVec.getLsbD_ofNat, decide_eq_true hi, Bool.true_and, Nat.testBit_eq_decide_div_mod_eq]

theorem bits_w64 {n h l : Nat} (hl : l ≤ h) (hh : h < 64) : bits (w64 n) h l = n / 2 ^ l % 2 ^ (h - l + 1) := by
  have hsplit : (2 : Nat) ^ 64 = 2 ^ l * (2 ^ (h - l + 1) * 2 ^ (63 - h)) := by rw [← Nat.pow_add, ← Nat.pow_add]; congr 1; omega
  rw [bits, w64, BitVec.toNat_ofNat, hsplit, Nat.shiftRight_eq_div_pow, Nat.mod_mul_right_div_self, Nat.mod_mul_right_mod]

theorem b2n_eq_one (b : Bool) : decide (b2n b = 1) = b := by cases b <;> rfl

theorem portWord_unbound {s : State} {n : Nat} (h : (s.port n).bnd = false) : portWord s n = 0 := if_pos (by rw [h]; rfl)

theorem portWord_coach {s : State} {n : Nat} (h : (s.port n).bnd = true) (hk : (s.port n).kb = true) :
    bit (w64 (portWord s n)) 63 = true ∧ bit (w64 (portWord s n)) 62 = true ∧ bits (w64 (portWord s n)) 47 0 = (s.port n).pos % 2 ^ 48
      ∧ bits (w64 (portWord s n)) 55 52 = (s.port n).typ % 16 := by
  have hw : portWord s n = 2 ^ 63 + 2 ^ 62 + (s.port n).typ % 16 * 2 ^ 52 + (s.port n).pos % 2 ^ 48 :=
    (if_neg (by rw [h]; decide)).trans (if_pos hk)
  rw [bit_w64 (by omega), bit_w64 (by omega), bits_w64 (by omega) (by omega), bits_w64 (by omega) (by omega), hw]
  refine ⟨decide_eq_true ?_, decide_eq_true ?_, ?_, ?_⟩ <;> omega

theorem portWord_stream {s : State} {n : Nat} (h : (s.port n).bnd = true) (hk : (s.port n).kb = false) :
    bit (w64 (portWord s n)) 63 = true ∧ bit (w64 (portWord s n)) 62 = false ∧ bits (w64 (portWord s n)) 47 0 = (s.portApe n).pos % 2 ^ 48
      ∧ bit (w64 (portWord s n)) 61 = (s.portApe n).wh ∧ bit (w64 (portWord s n)) 60 = (s.portApe n).fin
      ∧ bits (w64 (portWord s n)) 59 56 = (s.port n).ape % 16 ∧ bits (w64 (portWord s n)) 55 48 = (s.port n).ncol % 256 := by
  have hw : portWord s n = 2 ^ 63 + b2n (s.portApe n).wh * 2 ^ 61 + b2n (s.portApe n).fin * 2 ^ 60 + (s.port n).ape % 16 * 2 ^ 56
      + (s.port n).ncol % 256 * 2 ^ 48 + (s.portApe n).pos % 2 ^ 48 := (if_neg (by rw [h]; decide)).trans (if_neg (by rw [hk]; decide))
  have h1 := b2n_le (s.portApe n).wh
  have h2 := b2n_le (s.portApe n).fin
  rw [bit_w64 (by omega), bit_w64 (by omega), bits_w64 (by omega) (by omega), bit_w64 (by omega), bit_w64 (by omega),
    bits_w64 (by omega) (by omega), bits_w64 (by omega) (by omega), hw, ← b2n_eq_one (s.portApe n).wh, ← b2n_eq_one (s.portApe n).fin]
  refine ⟨decide_eq_true ?_, decide_eq_false ?_, ?_, decide_eq_decide.2 ?_, decide_eq_decide.2 ?_, ?_, ?_⟩ <;> simp only [b2n_eq_one] <;> omega

section
variable {s : State} {o : CFmt} {m : Word} (h : LanesOn s o.gn o.gs m)
include h

theorem exec_qbind : exec (.qbind o) s = .next (if s.holdsCoach (portN o) then s.portTrap 0 (portN o) (s.portAt (portN o))
    else s.bindPort (portN o) { PortBind.init with bnd := true, ape := o.imm.toNat % 16, ncol := o.imm.toNat / 256 % 256 }) :=
  congrArg Host.Outcome.next (masked_on h _)

theorem exec_qbindK : exec (.qbindK o) s = .next (
    let typ := o.imm.toNat / 2 ^ 24 % 16
    let unit := if typ == 5 || typ == 6 then blockSize typ else elemSize typ
    if !s.holdsCoach (portN o) || (s.getG o.a).toNat % unit != 0 then s.portTrap 0 (portN o) (s.portAt (portN o))
    else s.bindPort (portN o) { PortBind.init with bnd := true, kb := true, typ := typ, pos := elemsIn typ (s.getG o.a).toNat }) :=
  congrArg Host.Outcome.next (masked_on h _)

theorem exec_qbindU : exec (.qbindU o) s = .next (s.bindPort (portN o) .init) := congrArg Host.Outcome.next (masked_on h _)

theorem exec_qstat : exec (.qstat o) s = .next (s.setG o.d (w64 (portWord s (portN o)))).advance := congrArg Host.Outcome.next (masked_on h _)

end

end Sys2Proof.Laws

/-! O30: a port read by VMOV (09 R208, R210-R212; 17 R391; 12 R288). -/

namespace Sys2Proof.Laws

open Sys2Proof Sys2Proof.Machine Sys2Proof.Safety

/-! A stream's elements keep the agents. -/

theorem sameAgents_unitRead (s : State) (x : UnitAt) (tag ea n : Nat) : SameAgents s (s.unitRead x tag ea n).1 := by
  unfold State.unitRead
  simp only
  split
  · exact sameAgents_touch ..
  · exact .refl s
  · exact .refl s
  · next m va _ =>
    have hr := sameAgents_remote s x.u tag m va n .read 0 0 []
    split
    · next he => rw [he] at hr; exact hr
    · next he =>
      rw [he] at hr
      split <;> exact hr
  · exact .refl s
  · exact .refl s
  · exact .refl s

theorem unitRead_same {s t : State} {x : UnitAt} {tag ea n : Nat} {r : URes} (h : s.unitRead x tag ea n = (t, r)) : SameAgents s t := by
  have hs := sameAgents_unitRead s x tag ea n
  rw [h] at hs
  exact hs

theorem sameAgents_unitReads (x : UnitAt) (pos : Nat) : ∀ (l : List (Nat × Nat)) (s : State) (tag : Nat),
    SameAgents s (s.unitReads x tag pos l).1
  | [], s, _ => .refl s
  | (ea, n) :: l, s, tag => by
    unfold State.unitReads
    split
    · next s1 _ _ he =>
      have hl := sameAgents_unitReads x pos l s1 (tag + 1)
      refine (unitRead_same he).trans ?_
      split
      · next h2 => rw [h2] at hl; exact hl
      · next h2 => rw [h2] at hl; exact hl
    · next he => exact unitRead_same he
    · next he => exact unitRead_same he
    · next he => exact unitRead_same he
    · next he => exact unitRead_same he

theorem unitReads_same {s t : State} {x : UnitAt} {tag pos : Nat} {l : List (Nat × Nat)} {r : Except Got (List Nat × Bool)}
    (h : s.unitReads x tag pos l = (t, r)) : SameAgents s t := by
  have hs := sameAgents_unitReads x pos l s tag
  rw [h] at hs
  exact hs

theorem sameAgents_keepReplies (s : State) (r : State × Except Got (List Nat × Bool)) : SameAgents r.1 (s.keepReplies r).1 := by
  unfold State.keepReplies
  split
  · exact ⟨rfl, rfl, fun _ _ _ => rfl⟩
  · exact .refl _

theorem sameAgents_plainElem (s : State) (d t e n : Nat) : SameAgents s (s.plainElem d t e n).1 := by
  have hkeep : ∀ {x : UnitAt} {tag : Nat} {l : List (Nat × Nat)} {u : State} {r : Except Got (List Nat × Bool)},
      s.keepReplies (s.unitReads x tag n l) = (u, r) → SameAgents s u := fun {x tag l u r} h => by
    have hs := (sameAgents_unitReads x n l s tag).trans (sameAgents_keepReplies s _)
    rw [h] at hs
    exact hs
  unfold State.plainElem
  simp only
  split
  · split
    · exact .refl s
    · split
      · next h => exact hkeep h
      · next h => exact hkeep h
      · next h => exact hkeep h
  · split
    · exact .refl s
    · split
      · next h => exact unitReads_same h
      · next h => exact unitReads_same h

theorem sameAgents_pageElem (s : State) (d t e n : Nat) : SameAgents s (s.pageElem d t e n).1 := by
  unfold State.pageElem
  simp only
  split
  · exact .refl s
  · split
    · next h => exact unitReads_same h
    · next s1 v p0 h =>
      have h1 := unitReads_same h
      split
      · exact h1
      · split
        · exact h1
        · split
          · exact h1
          · exact h1
          · next ds _ _ _ ent off _ =>
            have hrow : ∀ {s2 u : State} {page : Option (Nat × Word × Bool)} {tag : Nat} {l : List (Nat × Nat)} {r : Except Got (List Nat × Bool)},
                SameAgents s1 s2 → (s2.modTile d t fun tl => tl.modApe e fun b => { b with page := page }).unitReads
                  { apeUnit d t e with free := true } tag n l = (u, r) → SameAgents s u := fun h2 h =>
              h1.trans (h2.trans ((sameAgents_modTile _ _ _ rfl).trans (unitReads_same h)))
            obtain ⟨known, hk⟩ : ∃ k, ((s.tile d t).ape e).page.filter (fun q => q.1 == (bits (((s.tile d t).ape e).w 3) 39 0 + n / ds.dim) / 128) = k :=
              ⟨_, rfl⟩
            rw [hk]
            cases known with
            | some q =>
              split
              · exact h1
              · split
                · exact h1.trans (sameAgents_modTile _ _ _ rfl)
                · split
                  · next h => exact hrow (.refl s1) h
                  · next h => exact hrow (.refl s1) h
            | none =>
              have h2 := sameAgents_unitReads { apeUnit d t e with free := true } n [(ent, 8)] s1 (n * 4 + 1)
              split
              · exact h1.trans h2
              · split
                · exact h1.trans (h2.trans (sameAgents_modTile _ _ _ rfl))
                · split
                  · next h => exact hrow h2 h
                  · next h => exact hrow h2 h

theorem sameAgents_nextElem (s : State) (d t e n : Nat) : SameAgents s (s.nextElem d t e n).1 := by
  unfold State.nextElem
  simp only
  split
  · exact .refl s
  · split
    · exact .refl s
    · split
      · exact sameAgents_pageElem ..
      · exact sameAgents_plainElem ..

theorem sameAgents_gather (d t e : Nat) : ∀ (k n : Nat) (l : List Elem) (s : State), SameAgents s (State.gather d t e k n l s).1
  | 0, _, _, s => by rw [State.gather]; exact .refl s
  | k + 1, n, x :: l, s => by
    rw [State.gather]
    exact sameAgents_gather d t e k (n + 1) l s
  | k + 1, n, [], s => by
    have hs := sameAgents_nextElem s d t e n
    rw [State.gather]
    split
    · next s1 x h =>
      rw [h] at hs
      exact hs.trans (sameAgents_gather d t e k (n + 1) [] s1)
    · next h => rw [h] at hs; exact hs

theorem streamElems_same {s u : State} {d t e k : Nat} {l : List Elem} {g : Option Got} (h : s.streamElems d t e k = (u, l, g)) : SameAgents s u := by
  have hs : SameAgents s (s.streamElems d t e k).1 := by
    unfold State.streamElems
    simp only
    split
    · exact .refl s
    · exact sameAgents_gather ..
  rw [h] at hs
  exact hs

/-- Elements that a stream holds are given from there. -/
theorem gather_held (d t e : Nat) (s : State) : ∀ (k n : Nat) (l : List Elem), k ≤ l.length → State.gather d t e k n l s = (s, l.take k, none)
  | 0, _, _, _ => by rw [State.gather]; rfl
  | k + 1, n, x :: l, h => by
    rw [State.gather, gather_held d t e s k (n + 1) l (Nat.le_of_succ_le_succ h)]
    rfl

/-! An instruction with one port among its sources (R210-R212). -/

section
variable {s : State} {m a : Word} {loc p : Nat} {k : (Nat → Latch) → State → Except State State} (hl : s.latched p = none)
include hl

theorem withPorts_bad {pos : Nat} (hb : s.popBad p = some pos) : s.withPorts m a [(loc, p)] none k = s.portTrap loc p pos := by
  unfold State.withPorts
  simp [hl, hb]

theorem withPorts_busy {w : Wait} (hb : s.popBad p = none) (hw : s.portBusy (laneRank m 64) p = some w) :
    s.withPorts m a [(loc, p)] none k = s.waits w := by
  unfold State.withPorts
  simp [hl, hb, hw]

variable (hb : s.popBad p = none) (hw : s.portBusy (laneRank m 64) p = none)
include hb hw

variable {s1 : State} (hp : s.pop loc p m = .ok s1)
include hp

theorem withPorts_poisoned {t : State} (ht : s1.poisonedField (loc, p) = some t) : s.withPorts m a [(loc, p)] none k = t := by
  unfold State.withPorts
  simp [hl, hb, hw, State.pops, hp, ht]

theorem withPorts_popped {l : Latch} (hlatch : s1.latched p = some l) (hpois : l.pois = 0) {t : State}
    (hk : k (fun q => (s1.latched q).getD .init) (s1.popsDone s1.pc m a [l]) = .ok t) : s.withPorts m a [(loc, p)] none k = t := by
  have hclean : s1.poisonedField (loc, p) = none := by
    unfold State.poisonedField
    simp [hlatch, hpois]
  unfold State.withPorts
  simp [hl, hb, hw, State.pops, hp, hclean, hlatch, hk]

end

/-! A pop of a port, its vector in the latch (R208, R210-R212). -/

theorem find_set {α : Type} {f : Nat × α → Bool} {k : Nat} {v : α} (hk : f (k, v) = true) : ∀ {t : Tbl α}, t.find? f = none →
    (t.set k v).find? f = some (k, v)
  | [], _ => by rw [Tbl.set, List.find?_cons_of_pos hk]
  | (i, w) :: r, h => by
    have hno := List.find?_eq_none.1 h
    have h1 : ¬f (i, w) = true := hno _ (List.mem_cons_self ..)
    have h2 : r.find? f = none := List.find?_eq_none.2 fun e he => hno e (List.mem_cons_of_mem _ he)
    rw [Tbl.set]
    split
    · rw [List.find?_cons_of_pos hk]
    · split
      · rw [List.find?_cons_of_pos hk]
      · rw [List.find?_cons_of_neg h1, find_set hk h2]

/-- A vector in the latch of port p. -/
def latchPop (s : State) (p typ : Nat) (m : Word) (els : List Elem) : State :=
  s.modMe fun x => { x with latches := x.latches.set (s.latchKey p) (latchOf s.pc typ m (s.portAt p) els) }

theorem latched_same {s t : State} (h : SameAgents s t) (p : Nat) : t.latched p = s.latched p := by
  rw [State.latched, State.latched, h.me, h.pc]

theorem latchPop_keeps {s : State} (hc : s.onCore = false) (p typ : Nat) (m : Word) (els : List Elem) :
    Kept s (latchPop s p typ m els) ∧ (latchPop s p typ m els).mem = s.mem ∧ (∀ n, (latchPop s p typ m els).getG n = s.getG n)
      ∧ (latchPop s p typ m els).pc = s.pc := keeps_modMe _ hc (keeps_refl s) ⟨_, _, _, _, _, rfl⟩

theorem latchPop_latched {s : State} (hc : s.onCore = false) {p : Nat} (hp : p < 8) (hl : s.latched p = none) (typ : Nat) (m : Word)
    (els : List Elem) : (latchPop s p typ m els).latched p = some (latchOf s.pc typ m (s.portAt p) els) := by
  have hkey : s.latchKey p % 8 = p := by
    unfold State.latchKey
    simp only
    split <;> omega
  obtain ⟨-, -, -, hpc⟩ := latchPop_keeps hc p typ m els
  have hnone : (s.me.latches.find? fun e => e.1 % 8 == p && e.2.valid && e.2.addr == s.pc) = none := Option.map_eq_none_iff.1 hl
  rw [State.latched, hpc, latchPop, me_modMe, find_set ?_ hnone]
  · rfl
  · simp [hkey, latchOf]

theorem apes_latchPop (s : State) (p typ : Nat) (m : Word) (els : List Elem) : (latchPop s p typ m els).myTile.apes = s.myTile.apes := apes_modMe ..

/-- The end of a stream keeps what its APE stands at. -/
theorem endOf_ape (s : State) (e : Nat) : SameAgents s (s.endOf s.die s.tix e) ∧ (s.endOf s.die s.tix e).mem = s.mem
    ∧ (s.endOf s.die s.tix e).myTile.ape e = { s.myTile.ape e with fin := true } := by
  have h1 : SameAgents s (s.modMyTile fun x => x.modApe e fun a => { a with fin := true }) := sameAgents_modTile _ _ _ rfl
  unfold State.endOf
  simp only
  split
  · exact ⟨h1, rfl, ape_modApe s e _⟩
  · refine ⟨h1.trans ((sameAgents_modTile _ _ _ rfl).trans (sameAgents_post _ _ _ _)), rfl, ?_⟩
    have h2 : ∀ (t : State) (f : Tile → Tile), (f t.myTile).apes = t.myTile.apes → (t.modMyTile f).myTile.ape e = t.myTile.ape e := by
      intro t f hf
      have ht : (t.modMyTile f).myTile = f t.myTile := tile_modTile_self ..
      rw [ht, Tile.ape, hf]
      rfl
    exact (h2 (s.modMyTile fun x => x.modApe e fun a => { a with fin := true })
      (fun x => { x with pred := x.pred ||| (1#8 <<< ((s.tile s.die s.tix).ape e).endp) }) rfl).trans (ape_modApe s e _)

/-- A pop of a stream that gives elements, or comes to its end. -/
theorem pop_stream {s u : State} {loc p : Nat} {m : Word} {els : List Elem} {g : Option Got} (hl : s.latched p = none)
    (hk : (s.port p).kb = false) (hs : s.streamElems s.die s.tix (s.port p).ape (laneRank m 64) = (u, els, g)) (hg : g = none ∨ g = some .stop) :
    ∃ s1, s.pop loc p m = .ok s1 ∧ SameAgents (latchPop u p (u.portApe p).typ m els) s1 ∧ s1.mem = u.mem
      ∧ (s1.myTile.ape (s.port p).ape).pos = (u.myTile.ape (s.port p).ape).pos + els.length
      ∧ (g = some .stop → (s1.myTile.ape (s.port p).ape).fin = true) := by
  have hsame := streamElems_same hs
  obtain ⟨v, hv⟩ : ∃ v, latchPop u p (u.portApe p).typ m els = v := ⟨_, rfl⟩
  obtain ⟨w, hw⟩ : ∃ w, v.modMyTile (fun x => x.modApe (s.port p).ape fun a => a.taken els.length) = w := ⟨_, rfl⟩
  have hcur : v.cur = s.cur := hv ▸ hsame.cur
  have hd : s.die = v.die := by rw [State.die, State.die, hcur]
  have ht : s.tix = v.tix := by rw [State.tix, State.tix, hcur]
  have hvw : SameAgents v w := hw ▸ sameAgents_modTile _ _ _ rfl
  have hmem : w.mem = u.mem := by rw [← hw, ← hv]; rfl
  have hape : w.myTile.ape (s.port p).ape = (u.myTile.ape (s.port p).ape).taken els.length := by
    rw [← hw, ape_modApe, ← hv, Tile.ape, apes_latchPop]
    rfl
  rw [hv]
  rcases hg with rfl | rfl
  · refine ⟨w.post 1 .apeElement (.tileIdx { die := s.die, tile := s.tix, i := (s.port p).ape }), ?_, hvw.trans (sameAgents_post _ _ _ _), hmem, ?_, nofun⟩
    · rw [State.pop, hl]
      simp only [Option.isSome_none, Bool.false_eq_true, if_false, hk, hs]
      rw [← hw, ← hv, hd, ht, ← hv]
      rfl
    · exact congrArg Ape.pos hape
  · have hpop : s.pop loc p m = .ok (if (u.portApe p).fin then w else w.endOf s.die s.tix (s.port p).ape) := by
      rw [State.pop, hl]
      simp only [Option.isSome_none, Bool.false_eq_true, if_false, hk, hs]
      rw [← hw, ← hv, hd, ht, ← hv]
      rfl
    rw [show s.die = w.die by rw [hd, State.die, State.die, hvw.cur], show s.tix = w.tix by rw [ht, State.tix, State.tix, hvw.cur]] at hpop
    obtain ⟨hend, hendmem, hendape⟩ := endOf_ape w (s.port p).ape
    by_cases hfin : (u.portApe p).fin = true
    · rw [if_pos hfin] at hpop
      have hsame' : u.portApe p = u.myTile.ape (s.port p).ape := by rw [State.portApe, State.port, hsame.me]; rfl
      exact ⟨w, hpop, hvw, hmem, congrArg Ape.pos hape, fun _ => by rw [hape, ← hsame']; exact hfin⟩
    · rw [if_neg hfin] at hpop
      exact ⟨_, hpop, hvw.trans hend, hendmem.trans hmem, by rw [hendape]; exact congrArg Ape.pos hape, fun _ => by rw [hendape]⟩

/-- A pop of a coach port. -/
theorem pop_coach {s : State} {loc p : Nat} {m : Word} {c : Coach} (hl : s.latched p = none) (hk : (s.port p).kb = true)
    (hcoach : s.portCoach p = some c) : s.pop loc p m = .ok ((latchPop s p (s.port p).typ m ((s.port p).elems c (laneRank m 64))).modMe fun x =>
      { x with ports := vput x.ports p { s.port p with pos := (s.port p).pos + ((s.port p).elems c (laneRank m 64)).length,
                                                        fin := (s.port p).fin || decide (((s.port p).elems c (laneRank m 64)).length < laneRank m 64) } }) := by
  rw [State.pop, hl]
  simp only [Option.isSome_none, Bool.false_eq_true, if_false, hk, if_true, hcoach]
  rfl

/-! The vector of a pop (R208, R211). -/

/-- The lane of an element of a type. -/
def elemLane (typ : Nat) (x : Elem) : Lane := if typ = 5 ∨ typ = 6 then (blockLane typ x.code x.sub x.scale).1 else widen typ x.code

theorem laneRank_succ (m : Word) (n : Nat) : laneRank m (n + 1) = b2n (m.getLsbD n) + laneRank m n := rfl

theorem laneRank_mono {m : Word} {i j : Nat} (h : i ≤ j) : laneRank m i ≤ laneRank m j := by
  induction h with
  | refl => exact Nat.le_refl _
  | step _ ih => exact ih.trans ((laneRank_succ m _).symm ▸ Nat.le_add_left ..)

/-- The rank of a set lane is below those of the lanes after it. -/
theorem laneRank_lt {m : Word} {i n : Nat} (hi : i < n) (hm : m.getLsbD i = true) : laneRank m i < laneRank m n := by
  have h1 : laneRank m (i + 1) = 1 + laneRank m i := by rw [laneRank_succ, hm]; rfl
  have h2 := laneRank_mono (m := m) (show i + 1 ≤ n from hi)
  omega

/-- Every rank below the number of set lanes is one of a set lane. -/
theorem exists_laneRank {m : Word} : ∀ {n k : Nat}, k < laneRank m n → ∃ j, j < n ∧ m.getLsbD j = true ∧ laneRank m j = k
  | 0, k, h => absurd h (Nat.not_lt_zero k)
  | n + 1, k, h => by
    by_cases hk : k < laneRank m n
    · obtain ⟨j, hj, hm, hr⟩ := exists_laneRank hk
      exact ⟨j, Nat.lt_succ_of_lt hj, hm, hr⟩
    · rw [laneRank_succ] at h
      cases hm : m.getLsbD n with
      | false => rw [hm] at h; exact absurd (by simpa [b2n] using h) hk
      | true =>
        rw [hm] at h
        have h : k < 1 + laneRank m n := h
        exact ⟨n, Nat.lt_succ_self n, hm, by omega⟩

theorem vget_placeLanes (m : Word) (ls : Array Lane) {j : Nat} (hj : j < 64) :
    vget (placeLanes m ls) j 0 = if m.getLsbD j then ls.getD (laneRank m j) 0 else 0 := by
  rw [placeLanes, vget, dif_pos hj]
  exact Vector.getElem_ofFn ..

theorem vget_latchOf (pc : Word) (typ : Nat) (m : Word) (pos : Nat) (els : List Elem) {j : Nat} (hj : j < 64) :
    vget (latchOf pc typ m pos els).lanes j 0 = if m.getLsbD j then (els[laneRank m j]?).elim 0 (elemLane typ) else 0 := by
  have hlane : ∀ x : Elem, (if typ == 5 || typ == 6 then blockLane typ x.code x.sub x.scale else (widen typ x.code, (0 : Fl))).1 = elemLane typ x := by
    intro x
    simp only [elemLane, Bool.or_eq_true, beq_iff_eq]
    split <;> rfl
  rw [latchOf, vget_placeLanes _ _ hj, Array.getD_eq_getD_getElem?, List.getElem?_toArray, List.getElem?_map, List.getElem?_map]
  cases els[laneRank m j]? with
  | none => rfl
  | some x => simp only [Option.map_some, Option.getD_some, Option.elim_some, hlane]

theorem pois_latchOf (pc : Word) (typ : Nat) (m : Word) (pos : Nat) (els : List Elem) {j : Nat} (hj : j < 64) :
    (latchOf pc typ m pos els).pois.getLsbD j = (m.getLsbD j && (els[laneRank m j]?).elim false (·.pois)) := getLsbD_maskOf _ hj

theorem latchOf_clean {pc : Word} {typ : Nat} {m : Word} {pos : Nat} {els : List Elem} (h : ∀ x ∈ els, x.pois = false) :
    (latchOf pc typ m pos els).pois = 0 := by
  refine BitVec.eq_of_getLsbD_eq fun j hj => ?_
  rw [pois_latchOf pc typ m pos els hj]
  cases he : els[laneRank m j]? with
  | none => simp
  | some x => simp [h x (List.mem_of_getElem? he)]

theorem latchOf_poisoned {pc : Word} {typ : Nat} {m : Word} {pos : Nat} {els : List Elem} {j : Nat} (hj : j < 64) (hm : m.getLsbD j = true)
    (h : (els[laneRank m j]?).any (·.pois) = true) : (latchOf pc typ m pos els).pois ≠ 0 := by
  intro h0
  have hp := pois_latchOf pc typ m pos els hj
  rw [h0, hm] at hp
  cases he : els[laneRank m j]? with
  | none => rw [he] at h; cases h
  | some x =>
    rw [he] at h hp
    have hx : x.pois = true := h
    simp [hx] at hp

theorem getLsbD_firstLanes (m : Word) (k : Nat) {j : Nat} (hj : j < 64) : (firstLanes m k).getLsbD j = (m.getLsbD j && decide (laneRank m j < k)) :=
  getLsbD_maskOf _ hj

theorem firstLanes_all (m : Word) : firstLanes m (laneRank m 64) = m := by
  refine BitVec.eq_of_getLsbD_eq fun j hj => ?_
  rw [getLsbD_firstLanes m _ hj]
  cases hm : m.getLsbD j with
  | false => rfl
  | true => rw [decide_eq_true (laneRank_lt hj hm)]; rfl

theorem firstLanes_part {m : Word} {k : Nat} (h : k < laneRank m 64) : firstLanes m k ≠ m := by
  intro he
  obtain ⟨j, hj, hm, hr⟩ := exists_laneRank h
  have hf := getLsbD_firstLanes m k hj
  rw [he, hm, hr] at hf
  simp at hf

/-! What the instruction does with its popped vector. -/

/-- VMOV's write of a popped vector. -/
def popWrite (o : VFmt) (a : Word) (pops : Nat → Latch) (s : State) : Except State State :=
  let x := s.vaLanes o fun p => (pops p).lanes
  s.putV o a { lanes := lanesFn fun i => vget x i 0, cut := maskOf fun i => (s.vaCut o).getLsbD i, fl := 0 }

theorem exec_vmov_pop {s : State} {o : VFmt} {a : Word} {p : Nat} (h : LanesOn s o.gn o.gs a) (hsa : o.sa = false) (hva : o.va.toNat = 24 + p)
    (hvd : o.vd.toNat < 24) : exec (.vmov o) s = .next (s.withPorts (popMask o a) a [(1, p)] none (popWrite o a)) := by
  have hsrc : vaSrc o = [(1, o.va)] := by rw [vaSrc, hsa]; rfl
  have hport : srcPorts [(1, o.va)] = [(1, p)] := by
    simp [srcPorts, portOf, hva]
  have hwait : s.regWait ([(1, o.va)].map (·.2)) (allLanes a) = none := by
    simp [State.regWait, hva]
  refine congrArg Host.Outcome.next ?_
  rw [State.moveLanes, State.vecPut, State.vecWork, masked_on h, hsrc]
  rw [hwait, hport, portOf_reg hvd]
  rfl

/-- What changes of the executing context leave. -/
def CtxKeeps (s t : State) : Prop :=
  t.onCore = false ∧ (Kept s t ∧ t.mem = s.mem ∧ (∀ n, t.getG n = s.getG n) ∧ t.pc = s.pc) ∧ t.myTile.apes = s.myTile.apes

theorem ctxKeeps_refl {s : State} (hc : s.onCore = false) : CtxKeeps s s := ⟨hc, keeps_refl s, rfl⟩

theorem ctxKeeps_modMe {s t : State} (h : CtxKeeps s t) (f : Context → Context)
    (hf : ∃ w fl n p c, (f t.me).hart = { t.me.hart with wait := w, fflags := fl, stall := n, peak := p, cutcnt := c }) : CtxKeeps s (t.modMe f) := by
  obtain ⟨hc, hk, ha⟩ := h
  exact ⟨(onCore_modMe t f).trans hc, keeps_modMe f hc hk hf, (apes_modMe t f).trans ha⟩

theorem ctxKeeps_addFlags {s t : State} (h : CtxKeeps s t) (fl : Fl) : CtxKeeps s (t.addFlags fl) := by
  rw [addFlags_me h.1]
  exact ctxKeeps_modMe h _ ⟨_, _, _, _, _, rfl⟩

theorem addFlags_keeps {s : State} (hc : s.onCore = false) (fl : Fl) : (s.addFlags fl).me.v = s.me.v ∧ (s.addFlags fl).me.m = s.me.m
    ∧ (s.addFlags fl).me.ports = s.me.ports ∧ (s.addFlags fl).me.q6 = s.me.q6 := by
  rw [addFlags_me hc, me_modMe]
  exact ⟨rfl, rfl, rfl, rfl⟩

theorem putMask_keeps (x : Context) (n : Nat) (m v : Word) : (x.putMask n m v).v = x.v ∧ (x.putMask n m v).ports = x.ports
    ∧ ∃ c, (x.putMask n m v).hart = { x.hart with cutcnt := c } := by
  unfold Context.putMask
  split
  · exact ⟨rfl, rfl, _, rfl⟩
  · unfold Context.setMask
    split <;> exact ⟨rfl, rfl, _, rfl⟩

/-- What is done once a popped vector stands in its latch: the latch is emptied, and m7 tells of a part of it (R212, R214). -/
theorem popsDone_one {s : State} (hc : s.onCore = false) (pc m a : Word) (l : Latch) : let t := s.popsDone pc m a [l]
    CtxKeeps s t ∧ t.me.v = s.me.v ∧ t.me.ports = s.me.ports ∧ (l.mask = m → t.me.m = s.me.m) ∧ (l.mask ≠ m → t.me.mask 7 = l.mask) := by
  intro t
  obtain ⟨s0, h0⟩ : ∃ s0, s.addFlags (latchFl [l] a) = s0 := ⟨_, rfl⟩
  have hk0 : CtxKeeps s s0 := h0 ▸ ctxKeeps_addFlags (ctxKeeps_refl hc) _
  obtain ⟨hv0, hm0, hp0, -⟩ := h0 ▸ addFlags_keeps hc (latchFl [l] a)
  by_cases hm : l.mask = m
  · have ht : t = s0.modMe fun x => { x with latches := x.latches.filter fun e => e.2.addr != pc } := by
      rw [← h0, show t = s.popsDone pc m a [l] from rfl, State.popsDone, List.filter_cons_of_neg (by simp [hm])]
      rfl
    rw [ht, me_modMe]
    exact ⟨ctxKeeps_modMe hk0 _ ⟨_, _, _, _, _, rfl⟩, hv0, hp0, fun _ => hm0, fun h => absurd hm h⟩
  · obtain ⟨s1, h1⟩ : ∃ s1, s0.modMe (fun x => x.putMask 7 (BitVec.allOnes 64) (BitVec.allOnes 64 &&& l.mask)) = s1 := ⟨_, rfl⟩
    have ht : t = s1.modMe fun x => { x with latches := x.latches.filter fun e => e.2.addr != pc } := by
      rw [← h1, ← h0, show t = s.popsDone pc m a [l] from rfl, State.popsDone, List.filter_cons_of_pos (by simpa using hm)]
      rfl
    obtain ⟨hv, hp, c, hh⟩ := putMask_keeps s0.me 7 (BitVec.allOnes 64) (BitVec.allOnes 64 &&& l.mask)
    have hk1 : CtxKeeps s s1 := h1 ▸ ctxKeeps_modMe hk0 _ ⟨_, _, _, _, _, hh⟩
    have hme : s1.me = s0.me.putMask 7 (BitVec.allOnes 64) (BitVec.allOnes 64 &&& l.mask) := by rw [← h1, me_modMe]
    rw [ht, me_modMe]
    refine ⟨ctxKeeps_modMe hk1 _ ⟨_, _, _, _, _, rfl⟩, ?_, ?_, fun h => absurd h hm, fun _ => ?_⟩
    · exact (congrArg Context.v hme).trans (hv.trans hv0)
    · exact (congrArg Context.ports hme).trans (hp.trans hp0)
    · refine (congrArg (·.mask 7) hme).trans ((putMask_mask s0.me (by decide) _ _ 7).trans ?_)
      rw [if_pos ⟨rfl, by decide⟩, BitVec.not_allOnes, BitVec.and_zero, BitVec.zero_or, BitVec.and_allOnes, BitVec.allOnes_and]

/-- The state after a popped vector l was written to register vd in the lanes of a, from one in which it stood in its latch. -/
def PopWritten (o : VFmt) (a m : Word) (l : Latch) (s t : State) : Prop :=
  t.pc = s.pc + 8 ∧ t.mem = s.mem ∧ (∀ k, t.getG k = s.getG k)
    ∧ (∀ j, j < 64 → vget (vget t.me.v o.vd.toNat .zero) j 0 = if a.getLsbD j then vget l.lanes j 0 else vget (vget s.me.v o.vd.toNat .zero) j 0)
    ∧ (∀ k, k ≠ o.vd.toNat → vget t.me.v k .zero = vget s.me.v k .zero)
    ∧ (l.mask = m → t.me.m = s.me.m) ∧ (l.mask ≠ m → t.me.mask 7 = l.mask) ∧ t.me.ports = s.me.ports ∧ t.myTile.apes = s.myTile.apes

theorem popWrite_result {s : State} {o : VFmt} {p : Nat} {l : Latch} (hc : s.onCore = false) (hsa : o.sa = false) (hva : o.va.toNat = 24 + p)
    (hvd : o.vd.toNat < 24) (hl : s.latched p = some l) (m a : Word) :
    ∃ t, popWrite o a (fun q => (s.latched q).getD .init) (s.popsDone s.pc m a [l]) = .ok t ∧ PopWritten o a m l s t := by
  obtain ⟨hk, hv, hports, hm, hm7⟩ := popsDone_one hc s.pc m a l
  obtain ⟨u, hu⟩ : ∃ u, s.popsDone s.pc m a [l] = u := ⟨_, rfl⟩
  rw [hu] at hk hv hports hm hm7 ⊢
  obtain ⟨new, hnew⟩ : ∃ new, (lanesFn fun i => vget l.lanes i 0) = new := ⟨_, rfl⟩
  have hlane : ∀ j, j < 64 → vget new j 0 = vget l.lanes j 0 := fun j hj => hnew ▸ vget_lanesFn _ _ hj
  have hx : popWrite o a (fun q => (s.latched q).getD .init) u = .ok ((u.modMe fun x => x.writeV o.vd.toNat a new).addFlags 0).advance := by
    have hsrc : (u.vaLanes o fun q => ((s.latched q).getD .init).lanes) = l.lanes := by
      rw [State.vaLanes, hsa, if_neg Bool.false_ne_true, State.vsrc, if_neg (by omega), hva, Nat.add_sub_cancel_left, hl]
      rfl
    unfold popWrite
    simp only [hsrc, hnew]
    rw [State.putV, portOf_reg hvd]
  refine ⟨_, hx, ?_⟩
  obtain ⟨w, hw⟩ : ∃ w, u.modMe (fun x => x.writeV o.vd.toNat a new) = w := ⟨_, rfl⟩
  have hkw : CtxKeeps s w := hw ▸ ctxKeeps_modMe hk _ ⟨_, _, _, _, _, rfl⟩
  have hwme : w.me = u.me.writeV o.vd.toNat a new := by rw [← hw, me_modMe]
  rw [hw]
  obtain ⟨hfc, ⟨-, hmem, hg, hpc⟩, hapes⟩ := ctxKeeps_addFlags hkw 0
  obtain ⟨hfv, hfm, hfp, -⟩ := addFlags_keeps hkw.1 0
  have hme := me_advance hfc
  have hv' : (w.addFlags 0).advance.me.v = (u.me.writeV o.vd.toNat a new).v := (congrArg Context.v hme).trans (hfv.trans (by rw [hwme]))
  have hm' : (w.addFlags 0).advance.me.m = u.me.m := (congrArg Context.m hme).trans (hfm.trans (by rw [hwme]; rfl))
  refine ⟨(pc_advance _).trans (by rw [hpc]), (advance_mem _).trans hmem, fun k => (getG_advance _ k).trans (hg k), fun j hj => ?_, fun k hkd => ?_,
    fun h => hm'.trans (hm h), fun h => ?_, (congrArg Context.ports hme).trans (hfp.trans (by rw [hwme]; exact hports)),
    (apes_advance _).trans hapes⟩
  · rw [hv', vget_writeV _ hvd hvd hj, hlane j hj, hv]
    simp only [true_and]
  · rw [hv', vget_writeV_ne _ hkd, hv]
  · rw [← hm7 h, Context.mask, Context.mask, hm']

/-- The lanes, m7 and the rest as a pop of elements of a type under a mask leaves them (R208, R211, R212). -/
def PopGot (o : VFmt) (a m : Word) (s u t : State) (typ : Nat) (els : List Elem) : Prop :=
  t.pc = s.pc + 8 ∧ t.mem = u.mem ∧ (∀ k, t.getG k = u.getG k)
    ∧ (∀ j, j < 64 → vget (vget t.me.v o.vd.toNat .zero) j 0 = if a.getLsbD j then
        (if m.getLsbD j then (els[laneRank m j]?).elim 0 (elemLane typ) else 0) else vget (vget u.me.v o.vd.toNat .zero) j 0)
    ∧ (∀ k, k ≠ o.vd.toNat → vget t.me.v k .zero = vget u.me.v k .zero)
    ∧ (els.length < laneRank m 64 → t.me.mask 7 = firstLanes m els.length) ∧ (els.length = laneRank m 64 → t.me.m = u.me.m)

theorem popGot_of_written {o : VFmt} {a m pc : Word} {s u s1 t : State} {typ pos : Nat} {els : List Elem} (hpc : s1.pc = s.pc) (hmem : s1.mem = u.mem)
    (hg : ∀ k, s1.getG k = u.getG k) (hv : s1.me.v = u.me.v) (hm : s1.me.m = u.me.m) (h : PopWritten o a m (latchOf pc typ m pos els) s1 t) :
    PopGot o a m s u t typ els := by
  obtain ⟨hpc', hmem', hg', hlanes, hrest, hwhole, hpart, -, -⟩ := h
  refine ⟨by rw [hpc', hpc], hmem'.trans hmem, fun k => (hg' k).trans (hg k), fun j hj => ?_, fun k hk => (hrest k hk).trans (by rw [hv]),
    fun hlt => hpart (firstLanes_part hlt), fun heq => (hwhole ?_).trans hm⟩
  · rw [hlanes j hj, vget_latchOf _ _ _ _ _ hj, hv]
  · exact (congrArg (firstLanes m) heq).trans (firstLanes_all m)

section
variable {s : State} {p : Nat}

theorem popBad_unbound (h : (s.port p).bnd = false) : s.popBad p = some 0 := if_pos (by rw [h]; rfl)

theorem popBad_write (h : (s.port p).bnd = true) (hk : (s.port p).kb = false) (hb : (s.portApe p).bad = false) (hd : (s.portApe p).dir = true) :
    s.popBad p = some (s.portApe p).pos := by
  simp [State.popBad, h, hk, hb, hd]

theorem streamElems_ended (n : Nat) (h : (s.portApe p).fin = true) : s.streamElems s.die s.tix (s.port p).ape n = (s, [], some .stop) := if_pos h

theorem streamElems_held {n : Nat} (h : (s.portApe p).fin = false) (hn : n ≤ (s.portApe p).held.length) :
    s.streamElems s.die s.tix (s.port p).ape n = (s, (s.portApe p).held.take n, none) :=
  (if_neg (Bool.eq_false_iff.1 h)).trans (gather_held _ _ _ s n _ _ hn)

end

section
variable {s : State} {o : VFmt} {a : Word} {p : Nat} (h : LanesOn s o.gn o.gs a) (hsa : o.sa = false) (hva : o.va.toNat = 24 + p)
  (hvd : o.vd.toNat < 24) (hl : s.latched p = none)
include h hsa hva hvd hl

theorem vmov_popBad {pos : Nat} (hb : s.popBad p = some pos) : exec (.vmov o) s = .next (s.trap 7 1 (BitVec.ofNat 64 (p * 2 ^ 48 + pos % 2 ^ 48))) :=
  (exec_vmov_pop h hsa hva hvd).trans (congrArg Host.Outcome.next (withPorts_bad hl hb))

variable (hb : s.popBad p = none)
include hb

theorem vmov_popBusy {w : Wait} (hw : s.portBusy (laneRank (popMask o a) 64) p = some w) : exec (.vmov o) s = .next (s.waits w) :=
  (exec_vmov_pop h hsa hva hvd).trans (congrArg Host.Outcome.next (withPorts_busy hl hb hw))

variable (hw : s.portBusy (laneRank (popMask o a) 64) p = none)
include hw

theorem vmov_popped {s1 : State} {l : Latch} (hp : s.pop 1 p (popMask o a) = .ok s1) (hc : s1.onCore = false) (hlatch : s1.latched p = some l)
    (hpois : l.pois = 0) : ∃ t, exec (.vmov o) s = .next t ∧ PopWritten o a (popMask o a) l s1 t := by
  obtain ⟨t, ht, hwritten⟩ := popWrite_result hc hsa hva hvd hlatch (popMask o a) a
  exact ⟨t, (exec_vmov_pop h hsa hva hvd).trans (congrArg Host.Outcome.next (withPorts_popped hl hb hw hp hlatch hpois ht)), hwritten⟩

section
variable (hk : (s.port p).kb = false) {u : State} {els : List Elem} {g : Option Got}
  (hs : s.streamElems s.die s.tix (s.port p).ape (laneRank (popMask o a) 64) = (u, els, g)) (hg : g = none ∨ g = some .stop)
include hk hs hg

omit hsa hvd hb hw in
/-- The state with the popped vector of a stream in its latch. -/
theorem vmov_stream_latched : ∃ s1, s.pop 1 p (popMask o a) = .ok s1 ∧ s1.onCore = false ∧ s1.pc = s.pc ∧ s1.mem = u.mem
    ∧ (∀ k, s1.getG k = u.getG k) ∧ s1.me.v = u.me.v ∧ s1.me.m = u.me.m
    ∧ s1.latched p = some (latchOf u.pc (u.portApe p).typ (popMask o a) (u.portAt p) els)
    ∧ (s1.myTile.ape (s.port p).ape).pos = (u.myTile.ape (s.port p).ape).pos + els.length
    ∧ (g = some .stop → (s1.myTile.ape (s.port p).ape).fin = true) := by
  obtain ⟨s1, hpop, hsame, hmem, hpos, hfin⟩ := pop_stream (loc := 1) hl hk hs hg
  have hu := streamElems_same hs
  have huc : u.onCore = false := hu.onCore.trans h.1
  have hp8 : p < 8 := by have := o.va.isLt; omega
  obtain ⟨-, -, hgk, hpc⟩ := latchPop_keeps huc p (u.portApe p).typ (popMask o a) els
  have hme : (latchPop u p (u.portApe p).typ (popMask o a) els).me.v = u.me.v ∧ (latchPop u p (u.portApe p).typ (popMask o a) els).me.m = u.me.m := by
    rw [latchPop, me_modMe]
    exact ⟨rfl, rfl⟩
  have hcore : (latchPop u p (u.portApe p).typ (popMask o a) els).onCore = false := (onCore_modMe ..).trans huc
  refine ⟨s1, hpop, hsame.onCore.trans hcore, hsame.pc.trans (hpc.trans hu.pc), hmem, fun k => (hsame.getG k).trans (hgk k),
    by rw [hsame.me]; exact hme.1, by rw [hsame.me]; exact hme.2, ?_, hpos, hfin⟩
  rw [latched_same hsame]
  exact latchPop_latched huc hp8 ((latched_same hu p).trans hl) _ _ _

theorem vmov_pop_stream (hclean : ∀ x ∈ els, x.pois = false) : ∃ t, exec (.vmov o) s = .next t
    ∧ PopGot o a (popMask o a) s u t (u.portApe p).typ els
    ∧ (t.myTile.ape (s.port p).ape).pos = (u.myTile.ape (s.port p).ape).pos + els.length
    ∧ (g = some .stop → (t.myTile.ape (s.port p).ape).fin = true) := by
  obtain ⟨s1, hpop, hc, hpc, hmem, hgk, hv, hm, hlatch, hpos, hfin⟩ := vmov_stream_latched h hva hl hk hs hg
  obtain ⟨t, ht, hwr⟩ := vmov_popped h hsa hva hvd hl hb hw hpop hc hlatch (latchOf_clean hclean)
  have hapes : ∀ e, t.myTile.ape e = s1.myTile.ape e := fun e => by
    obtain ⟨-, -, -, -, -, -, -, -, ha⟩ := hwr
    rw [Tile.ape, ha]
    rfl
  exact ⟨t, ht, popGot_of_written hpc hmem hgk hv hm hwr, by rw [hapes]; exact hpos, fun hstop => by rw [hapes]; exact hfin hstop⟩

theorem vmov_pop_poisoned (hbad : ∃ j, j < 64 ∧ (popMask o a).getLsbD j = true ∧ (els[laneRank (popMask o a) j]?).any (·.pois) = true) :
    ∃ (t : State) (v : Word), exec (.vmov o) s = .next (t.trap 6 1 v) ∧ v.toNat / 2 ^ 48 = p ∧ t.mem = u.mem := by
  obtain ⟨j, hj, hmj, hx⟩ := hbad
  obtain ⟨s1, hpop, -, -, hmem, -, -, -, hlatch, -⟩ := vmov_stream_latched h hva hl hk hs hg
  have hfield : ∃ pos, s1.poisonedField (1, p) = some (s1.trap 6 1 (w64 (p * 2 ^ 48 + pos % 2 ^ 48))) := by
    unfold State.poisonedField
    simp only [hlatch]
    rw [if_neg (latchOf_poisoned hj hmj hx)]
    exact ⟨_, rfl⟩
  obtain ⟨pos, hpos⟩ := hfield
  refine ⟨s1, _, (exec_vmov_pop h hsa hva hvd).trans (congrArg Host.Outcome.next (withPorts_poisoned hl hb hw hpop hpos)), ?_, hmem⟩
  have := o.va.isLt
  rw [w64, BitVec.toNat_ofNat]
  omega

end

theorem vmov_pop_coach (hk : (s.port p).kb = true) {c : Coach} (hc : s.portCoach p = some c)
    (hclean : ∀ x ∈ (s.port p).elems c (laneRank (popMask o a) 64), x.pois = false) : ∃ t, exec (.vmov o) s = .next t
      ∧ PopGot o a (popMask o a) s s t (s.port p).typ ((s.port p).elems c (laneRank (popMask o a) 64))
      ∧ (t.port p).pos = (s.port p).pos + ((s.port p).elems c (laneRank (popMask o a) 64)).length
      ∧ (((s.port p).elems c (laneRank (popMask o a) 64)).length < laneRank (popMask o a) 64 → (t.port p).fin = true) := by
  have hp8 : p < 8 := by have := o.va.isLt; omega
  have hpop := pop_coach (loc := 1) (m := popMask o a) hl hk hc
  generalize (s.port p).elems c (laneRank (popMask o a) 64) = els at hclean hpop ⊢
  obtain ⟨b, hbind⟩ : ∃ b, ({ s.port p with pos := (s.port p).pos + els.length, fin := (s.port p).fin || decide (els.length < laneRank (popMask o a) 64) } : PortBind) = b :=
    ⟨_, rfl⟩
  rw [hbind] at hpop
  obtain ⟨s1, h1⟩ : ∃ s1, ((latchPop s p (s.port p).typ (popMask o a) els).modMe fun x => { x with ports := vput x.ports p b }) = s1 := ⟨_, rfl⟩
  rw [h1] at hpop
  have hk1 : CtxKeeps s s1 := h1 ▸ ctxKeeps_modMe (ctxKeeps_modMe (ctxKeeps_refl h.1) _ ⟨_, _, _, _, _, rfl⟩) _ ⟨_, _, _, _, _, rfl⟩
  obtain ⟨hcore, ⟨-, hmem, hg, hpc⟩, -⟩ := hk1
  have hme : s1.me = { (latchPop s p (s.port p).typ (popMask o a) els).me with ports := vput (latchPop s p (s.port p).typ (popMask o a) els).me.ports p b } := by
    rw [← h1, me_modMe]
  have hlme : (latchPop s p (s.port p).typ (popMask o a) els).me.v = s.me.v ∧ (latchPop s p (s.port p).typ (popMask o a) els).me.m = s.me.m := by
    rw [latchPop, me_modMe]
    exact ⟨rfl, rfl⟩
  have hlatch : s1.latched p = some (latchOf s.pc (s.port p).typ (popMask o a) (s.portAt p) els) := by
    obtain ⟨-, -, -, hlpc⟩ := latchPop_keeps h.1 p (s.port p).typ (popMask o a) els
    rw [← latchPop_latched h.1 hp8 hl, State.latched, State.latched, hpc, hlpc, hme]
  obtain ⟨t, ht, hwr⟩ := vmov_popped h hsa hva hvd hl hb hw hpop hcore hlatch (latchOf_clean hclean)
  have hport : t.port p = b := by
    obtain ⟨-, -, -, -, -, -, -, hp, -⟩ := hwr
    rw [State.port, hp, hme]
    exact vget_vput_self _ _ _ _ hp8
  refine ⟨t, ht, popGot_of_written hpc hmem hg (by rw [hme]; exact hlme.1) (by rw [hme]; exact hlme.2) hwr, by rw [hport, ← hbind], fun hlt => ?_⟩
  rw [hport, ← hbind]
  exact Bool.or_eq_true_iff.2 (.inr (decide_eq_true hlt))

end

end Sys2Proof.Laws

/-! O30: a port written by VMOV (09 R208, R210, R213; 17 R391), and the settling theorem. -/

namespace Sys2Proof.Laws

open Sys2Proof Sys2Proof.Machine Sys2Proof.Safety

/-! The writes of a push at uncached places of this module. -/

/-- Elements whose places are uncached, or at a depot or in scratch, of this module. -/
def NearUncached (l : List (PushElem × Nat × Chk)) : Prop := ∀ x ∈ l, ∃ q, x.2.2 = .ok q ∧ Uncached q

/-- The place of an element. -/
def elemPlace (x : PushElem × Nat × Chk) : Phys := match x.2.2 with | .ok q => q | _ => { key := 0, mt := 0 }

theorem elemPlace_ok {x : PushElem × Nat × Chk} {q : Phys} (h : x.2.2 = .ok q) : elemPlace x = q := by rw [elemPlace, h]

/-- One element written. -/
def putPushed (q : Req) (sz : Nat) (s : State) (x : PushElem × Nat × Chk) : State :=
  (s.touch q x.2.1 .write (elemPlace x)).wrFor q (elemPlace x) (leOf sz x.1.code)

/-- Whether an element covers a byte, and what it leaves there. -/
def Covers (sz : Nat) (x : PushElem × Nat × Chk) (k : Nat) : Prop := (elemPlace x).key ≤ k ∧ k < (elemPlace x).key + sz

def pushedByte (x : PushElem × Nat × Chk) (k : Nat) : Byte := BitVec.ofNat 8 (x.1.code / 256 ^ (k - (elemPlace x).key))


theorem putPushed_keeps (q : Req) (sz : Nat) (s : State) (x : PushElem × Nat × Chk) :
    SameAgents s (putPushed q sz s x) := (sameAgents_touch ..).trans (sameAgents_wrFor ..)

section
variable {q : Req} {sz : Nat}

theorem putPushed_tiles {s : State} {x : PushElem × Nat × Chk} (hx : Uncached (elemPlace x)) : (putPushed q sz s x).tiles = s.tiles := by
  obtain ⟨tlb, ht⟩ := touch_uncached hx s q x.2.1 .write
  rw [putPushed, ht]
  exact wrFor_uncached State.tiles (fun _ _ _ => rfl) (fun _ _ _ _ => rfl) hx ..

theorem putPushed_covered {s : State} {x : PushElem × Nat × Chk} (hx : Uncached (elemPlace x)) {k : Nat} (hk : Covers sz x k) :
    (putPushed q sz s x).mem.byte k = pushedByte x k := by
  obtain ⟨h1, h2⟩ := hk
  rw [putPushed, byte_wrFor hx, leOf_length, if_pos ⟨h1, h2⟩]
  exact leOf_getD _ _ (by omega)

theorem putPushed_free {s : State} {x : PushElem × Nat × Chk} (hx : Uncached (elemPlace x)) {k : Nat} (hk : ¬Covers sz x k) :
    (putPushed q sz s x).mem.byte k = s.mem.byte k := by
  obtain ⟨tlb, ht⟩ := touch_uncached hx s q x.2.1 .write
  rw [putPushed, byte_wrFor hx, leOf_length, ht]
  exact if_neg hk

variable {l : List (PushElem × Nat × Chk)} (hl : ∀ x ∈ l, Uncached (elemPlace x))
include hl

theorem foldPushed_tiles (s : State) : (l.foldl (putPushed q sz) s).tiles = s.tiles := by
  induction l generalizing s with
  | nil => rfl
  | cons x r ih =>
    obtain ⟨hx, hr⟩ := List.forall_mem_cons.1 hl
    exact (ih hr _).trans (putPushed_tiles hx)

/-- A byte that no element of the rest covers stays. -/
theorem foldPushed_free (s : State) {k : Nat} (hk : ∀ x ∈ l, ¬Covers sz x k) : (l.foldl (putPushed q sz) s).mem.byte k = s.mem.byte k := by
  induction l generalizing s with
  | nil => rfl
  | cons x r ih =>
    obtain ⟨hx, hr⟩ := List.forall_mem_cons.1 hl
    obtain ⟨hkx, hkr⟩ := List.forall_mem_cons.1 hk
    exact (ih hr _ hkr).trans (putPushed_free hx hkx)

theorem foldPushed_some (s : State) (k : Nat) : (l.foldl (putPushed q sz) s).mem.byte k = s.mem.byte k
    ∨ ∃ x ∈ l, Covers sz x k ∧ (l.foldl (putPushed q sz) s).mem.byte k = pushedByte x k := by
  induction l generalizing s with
  | nil => exact .inl rfl
  | cons x r ih =>
    obtain ⟨hx, hr⟩ := List.forall_mem_cons.1 hl
    rcases ih hr (putPushed q sz s x) with h | ⟨y, hy, hc, h⟩
    · by_cases hk : Covers sz x k
      · exact .inr ⟨x, List.mem_cons_self .., hk, h.trans (putPushed_covered hx hk)⟩
      · exact .inl (h.trans (putPushed_free hx hk))
    · exact .inr ⟨y, List.mem_cons_of_mem _ hy, hc, h⟩

end

/-- The last element that covers a byte gives it. -/
theorem foldPushed_last {q : Req} {sz : Nat} {l1 l2 : List (PushElem × Nat × Chk)} {x : PushElem × Nat × Chk}
    (hl : ∀ y ∈ l1 ++ x :: l2, Uncached (elemPlace y)) (s : State) {k : Nat} (hk : Covers sz x k) (hfree : ∀ y ∈ l2, ¬Covers sz y k) :
    ((l1 ++ x :: l2).foldl (putPushed q sz) s).mem.byte k = pushedByte x k := by
  obtain ⟨-, hr⟩ := List.forall_mem_append.1 hl
  obtain ⟨hx, h2⟩ := List.forall_mem_cons.1 hr
  rw [List.foldl_append, List.foldl_cons, foldPushed_free h2 _ hfree, putPushed_covered hx hk]

theorem near_map {l : List (PushElem × Nat × Chk)} {f : PushElem × Nat × Chk → Option (PushElem × Nat × Phys)} (h : NearUncached l)
    (hf : ∀ x q, x.2.2 = .ok q → f x = some (x.1, x.2.1, q)) : l.filterMap f = l.map fun x => (x.1, x.2.1, elemPlace x) := by
  induction l with
  | nil => rfl
  | cons x r ih =>
    obtain ⟨⟨q, hq, -⟩, hr⟩ := List.forall_mem_cons.1 h
    rw [List.filterMap_cons_some (hf x q hq), List.map_cons, ih hr, elemPlace_ok hq]

theorem uncached_of_near {l : List (PushElem × Nat × Chk)} (h : NearUncached l) : ∀ x ∈ l, Uncached (elemPlace x) := fun x hx => by
  obtain ⟨q, hq, hu⟩ := h x hx
  rwa [elemPlace_ok hq]

theorem sameAgents_mark (s : State) (g : Nat) (on : Bool) : SameAgents s (s.mark g on) := ⟨rfl, rfl, fun _ _ _ => rfl⟩

/-- The writes of a push, and the marks of its granules. -/
theorem pushWrites_near (s : State) (u : UnitAt) (sz : Nat) {l : List (PushElem × Nat × Chk)} (h : NearUncached l) :
    SameAgents s (s.pushWrites u sz l) ∧ (s.pushWrites u sz l).tiles = s.tiles
      ∧ (s.pushWrites u sz l).mem = (l.foldl (putPushed (s.asReq u) sz) s).mem := by
  obtain ⟨q, hq⟩ : ∃ q, s.asReq u = q := ⟨_, rfl⟩
  obtain ⟨t, ht⟩ : ∃ t, l.foldl (putPushed q sz) s = t := ⟨_, rfl⟩
  have hfold : (l.map fun x => (x.1, x.2.1, elemPlace x)).foldl (fun s x => (s.touch q x.2.1 .write x.2.2).wrFor q x.2.2 (leOf sz x.1.code)) s
      = t := by
    rw [List.foldl_map, ← ht]
    rfl
  obtain ⟨near, whole, hmarks⟩ : ∃ (near : List (PushElem × Nat × Phys)) (whole : List Nat), s.pushWrites u sz l =
      near.foldl (fun s x => if x.1.pois then s.mark (s.home x.2.2 / 64) true else s) (whole.foldl (fun s g => s.mark g false) t) := by
    unfold State.pushWrites
    simp only
    rw [near_map h fun x p hp => by rw [hp], hq, hfold]
    exact ⟨_, _, rfl⟩
  have hbad : ∀ {α : Type} (view : State → α), (∀ s g on, view (State.mark s g on) = view s) → view (s.pushWrites u sz l) = view t := by
    intro α view hv
    rw [hmarks]
    refine (foldl_keeps view (fun s x => ?_) _ _).trans (foldl_keeps view (fun s g => hv ..) _ _)
    split
    · exact hv ..
    · rfl
  rw [hq, ht]
  refine ⟨SameAgents.trans (t := t) (ht ▸ sameAgents_foldl (putPushed_keeps q sz) l s) ⟨hbad State.cur fun _ _ _ => rfl, hbad State.cores fun _ _ _ => rfl,
    fun d k c => congrFun (congrFun (congrFun (hbad State.ctx fun _ _ _ => rfl) d) k) c⟩,
    (hbad State.tiles fun _ _ _ => rfl).trans (ht ▸ foldPushed_tiles (uncached_of_near h) s), hbad State.mem fun _ _ _ => rfl⟩

/-! The positions of a push consumed (R213). -/

theorem pushTaken_stream {s : State} {p : Nat} (hk : (s.port p).kb = false) (hfin : (s.portApe p).fin = false) (used : Nat) :
    let t := s.pushTaken p used true
    SameAgents s t ∧ t.mem = s.mem ∧ (t.portApe p).pos = (s.portApe p).pos + used
      ∧ (t.portApe p).fin = decide ((s.portApe p).len ≤ (s.portApe p).pos + used) := by
  intro t
  obtain ⟨w, hw⟩ : ∃ w, s.modMyTile (fun x => x.modApe (s.port p).ape fun a => { a with pos := a.pos + used, wh := false }) = w := ⟨_, rfl⟩
  have hsw : SameAgents s w := hw ▸ sameAgents_modTile _ _ _ rfl
  have hape : w.myTile.ape (s.port p).ape = { s.portApe p with pos := (s.portApe p).pos + used, wh := false } := hw ▸ ape_modApe s _ _
  have hlen : s.portLen p = (s.portApe p).len := if_neg (by rw [hk]; decide)
  have ht : t = if (s.portApe p).len ≤ (s.portApe p).pos + used then w.endOf s.die s.tix (s.port p).ape else w := by
    rw [show t = s.pushTaken p used true from rfl, State.pushTaken, ← hw, ← hlen]
    simp only [hk, Bool.false_eq_true, if_false, Bool.true_and, decide_eq_true_eq]
  have hd : s.die = w.die := by rw [State.die, State.die, hsw.cur]
  have hx : s.tix = w.tix := by rw [State.tix, State.tix, hsw.cur]
  have hport : ∀ u : State, SameAgents s u → u.portApe p = u.myTile.ape (s.port p).ape := fun u hu => by
    rw [State.portApe, State.port, hu.me]
    rfl
  rw [ht]
  by_cases hend : (s.portApe p).len ≤ (s.portApe p).pos + used
  · obtain ⟨hsame, hmem, heape⟩ := endOf_ape w (s.port p).ape
    rw [if_pos hend, hd, hx, hport _ (hsw.trans hsame), heape, hape, decide_eq_true hend]
    exact ⟨hsw.trans hsame, hmem.trans (hw ▸ rfl), rfl, rfl⟩
  · rw [if_neg hend, hport _ hsw, hape, decide_eq_false hend]
    exact ⟨hsw, hw ▸ rfl, rfl, hfin⟩

/-! The places of a push depend on the elements' positions alone. -/

theorem pushPlace_off {s : State} {d t e : Nat} {a : Ape} {sz : Nat} {x y : PushElem} {z : PushElem × Nat × Chk} (ho : x.off = y.off)
    (h : s.pushPlace d t e a sz x = .ok z) : ∃ z', s.pushPlace d t e a sz y = .ok z' := by
  unfold State.pushPlace at h ⊢
  rw [← ho]
  simp only at h ⊢
  split at h
  · cases h
  · next hal =>
    rw [if_neg hal]
    generalize s.check (s.asReq (apeUnit d t e)) (a.addr (a.pos + x.off)) sz .write = c at h ⊢
    cases c with
    | ok p => exact ⟨_, rfl⟩
    | void => exact ⟨_, rfl⟩
    | remote m va => exact ⟨_, rfl⟩
    | reg => cases h
    | hold => cases h
    | refuse => cases h
    | fault => cases h

theorem pushPlaces_offs {s : State} {d t e : Nat} {a : Ape} {sz : Nat} : ∀ {els els' : List PushElem} {l : List (PushElem × Nat × Chk)},
    els.map (·.off) = els'.map (·.off) → s.pushPlaces d t e a sz els = .ok l → ∃ l', s.pushPlaces d t e a sz els' = .ok l'
  | [], [], _, _, _ => ⟨[], rfl⟩
  | x :: r, y :: r', l, ho, h => by
    rw [List.map_cons, List.map_cons, List.cons.injEq] at ho
    obtain ⟨hoff, hrest⟩ := ho
    rw [State.pushPlaces] at h ⊢
    rcases hx : s.pushPlace d t e a sz x with g | z
    · rw [hx] at h; cases h
    · rcases hr : s.pushPlaces d t e a sz r with g | zs
      · rw [hx, hr] at h; cases h
      · obtain ⟨z', hy⟩ := pushPlace_off hoff hx
        obtain ⟨zs', hr'⟩ := pushPlaces_offs hrest hr
        rw [hy, hr']
        exact ⟨_, rfl⟩

theorem inLength_offs (len pos : Nat) : ∀ els : List PushElem, (inLength len pos els).map (·.off) =
    (inLength len pos ((els.map (·.off)).map fun i => { off := i, code := 0, fl := 0, pois := false })).map (·.off)
  | [] => rfl
  | x :: r => by
    have ih := inLength_offs len pos r
    rw [inLength] at ih ⊢
    rw [List.map_cons, List.map_cons, inLength]
    by_cases hx : pos + x.off < len
    · rw [List.filter_cons_of_pos (by simpa using hx), List.filter_cons_of_pos (by simpa using hx), List.map_cons, List.map_cons, ih]
      rfl
    · rw [List.filter_cons_of_neg (by simpa using hx), List.filter_cons_of_neg (by simpa using hx), ih]
      rfl

/-! VMOV to a port. -/

/-- What VMOV pushes of its register (R208). -/
def movedElems (s : State) (o : VFmt) (a : Word) (p : Nat) : List PushElem := (pushPlan a o.pm).1.map fun x =>
  { off := x.1, code := (pushCode (s.portType p) s.hart.rnd (laneOf s o.va x.2)).1,
    fl := (pushCode (s.portType p) s.hart.rnd (laneOf s o.va x.2)).2, pois := false }

theorem mem_pushPlan {m : Word} {pm : Bool} {x : Nat × Nat} (h : x ∈ (pushPlan m pm).1) : x.2 < 64 := by
  unfold pushPlan at h
  cases pm
  · obtain ⟨i, hi, rfl⟩ := List.mem_map.1 h
    exact List.mem_range.1 (List.mem_filter.1 hi).1
  · obtain ⟨i, hi, rfl⟩ := List.mem_map.1 h
    exact List.mem_range.1 (List.mem_filter.1 hi).1

/-- VMOV's push of a register. -/
def pushWrite (o : VFmt) (a : Word) (p : Nat) (s : State) : Except State State :=
  (s.push p a o.pm (lanesFn fun i => laneOf s o.va i) (maskOf fun i => (s.vaCut o).getLsbD i)).map fun t => (t.addFlags 0).advance

section
variable {s : State} {o : VFmt} {a : Word} {p : Nat} (h : LanesOn s o.gn o.gs a) (hsa : o.sa = false) (hva : o.va.toNat < 24)
  (hvd : o.vd.toNat = 24 + p) (hr : s.regWait [o.va] (BitVec.allOnes 64) = none)
include h hsa hva hvd hr

theorem exec_vmov_push : exec (.vmov o) s = .next (s.withPorts (popMask o a) a [] (some { p := p, offs := (pushPlan a o.pm).1.map (·.1), kind := 0 })
    fun _ s => pushWrite o a p s) := by
  have hport : portOf o.vd = some p := by rw [portOf, if_pos (by omega), hvd, Nat.add_sub_cancel_left]
  have hsrc : vaSrc o = [(1, o.va)] := by rw [vaSrc, hsa]; rfl
  have hwrite : ∀ (pops : Nat → Lanes) (t : State), t.putV o a { lanes := lanesFn fun i => vget (t.vaLanes o pops) i 0
                                                                 cut := maskOf fun i => (t.vaCut o).getLsbD i
                                                                 fl := 0 } = pushWrite o a p t := fun pops t => by
    rw [State.putV, hport, State.vaLanes, hsa, if_neg Bool.false_ne_true, State.vsrc, if_pos hva]
    rfl
  refine congrArg Host.Outcome.next ?_
  rw [State.moveLanes, State.vecPut, State.vecWork, masked_on h, hsrc]
  rw [show s.regWait ([(1, o.va)].map (·.2)) (allLanes a) = none from hr, srcPorts_regs (by simpa using hva), hport]
  exact congrArg (s.withPorts (popMask o a) a [] (some { p := p, offs := (pushPlan a o.pm).1.map (·.1), kind := 0 }))
    (funext fun pops => funext fun t => hwrite (fun q => (pops q).lanes) t)

theorem vmov_pushBad {pos : Nat} (hb : s.pushBad p = some pos) : exec (.vmov o) s = .next (s.trap 7 4 (BitVec.ofNat 64 (p * 2 ^ 48 + pos % 2 ^ 48))) := by
  rw [exec_vmov_push h hsa hva hvd hr, State.withPorts]
  simp [hb, State.portTrap, w64]

variable (hb : s.pushBad p = none)
include hb

theorem vmov_pushBusy {w : Wait} (hw : s.pushBusy (laneRank (popMask o a) 64) 0 p = some w) : exec (.vmov o) s = .next (s.waits w) := by
  rw [exec_vmov_push h hsa hva hvd hr, State.withPorts]
  simp [hb, hw]

variable (hw : s.pushBusy (laneRank (popMask o a) 64) 0 p = none)
include hw

/-- VMOV's push once its port is ready, where none of the places of its elements is refused. -/
theorem vmov_pushes (hf : s.pushFault p ((pushPlan a o.pm).1.map (·.1)) = none) {r : State × Fl}
    (hp : s.pushTo 4 p (movedElems s o a p) (pushPlan a o.pm).2 = .ok r) : ∃ f1 f2 pc m,
    exec (.vmov o) s = .next ((((r.1.addFlags f1).addFlags f2).advance).popsDone pc m a []) := by
  have hels : pushElems (s.portType p) s.hart.rnd 0 a o.pm (lanesFn fun i => laneOf s o.va i) 0 = movedElems s o a p := by
    refine List.map_congr_left fun x hx => ?_
    have hlane := vget_lanesFn (fun i => laneOf s o.va i) 0 (mem_pushPlan hx)
    simp only [hlane]
    simp
  have hwrite : ∃ f1 f2, pushWrite o a p s = .ok ((r.1.addFlags f1).addFlags f2).advance := by
    rw [pushWrite, State.push, hels, hp]
    exact ⟨_, _, rfl⟩
  obtain ⟨f1, f2, hwrite⟩ := hwrite
  refine ⟨f1, f2, s.pc, popMask o a, ?_⟩
  rw [exec_vmov_push h hsa hva hvd hr, State.withPorts]
  simp [hb, hw, State.pops, hf, hwrite]

end

/-- What VMOV to a port leaves beside the port and what it pushes to: r is the state after the push. -/
theorem pushed_rest {r : State} (hc : r.onCore = false) (f1 f2 : Fl) (pc m a : Word) : let t := (((r.addFlags f1).addFlags f2).advance).popsDone pc m a []
    t.pc = r.pc + 8 ∧ t.mem = r.mem ∧ (∀ k, t.getG k = r.getG k) ∧ t.me.v = r.me.v ∧ t.me.m = r.me.m ∧ t.me.q6 = r.me.q6
      ∧ t.me.ports = r.me.ports ∧ t.myTile.apes = r.myTile.apes := by
  intro t
  obtain ⟨w, hw⟩ : ∃ w, (r.addFlags f1).addFlags f2 = w := ⟨_, rfl⟩
  have h1 := ctxKeeps_addFlags (ctxKeeps_refl hc) f1
  obtain ⟨hwc, ⟨-, hmem, hg, hpc⟩, hapes⟩ := hw ▸ ctxKeeps_addFlags h1 f2
  obtain ⟨hv1, hm1, hp1, hq1⟩ := addFlags_keeps hc f1
  obtain ⟨hv2, hm2, hp2, hq2⟩ := hw ▸ addFlags_keeps h1.1 f2
  have hac : w.advance.onCore = false := (onCore_modHart ..).trans hwc
  have ht : t = w.advance.modMe fun x => { x with latches := x.latches.filter fun e => e.2.addr != pc } := by
    rw [← hw]
    exact popsDone_nil ..
  obtain ⟨-, ⟨-, hmem', hg', hpc'⟩, hapes'⟩ := ctxKeeps_modMe (ctxKeeps_refl hac) (fun x => { x with latches := x.latches.filter fun e => e.2.addr != pc })
    ⟨_, _, _, _, _, rfl⟩
  have hme : t.me = { w.advance.me with latches := w.advance.me.latches.filter fun e => e.2.addr != pc } := by rw [ht, me_modMe]
  have hadv := me_advance hwc
  rw [ht] at hme ⊢
  refine ⟨hpc'.trans ((pc_advance w).trans (by rw [hpc])), hmem'.trans ((advance_mem w).trans hmem), fun k => (hg' k).trans ((getG_advance w k).trans (hg k)),
    ?_, ?_, ?_, ?_, hapes'.trans ((apes_advance w).trans hapes)⟩
  · exact (congrArg Context.v hme).trans ((congrArg Context.v hadv).trans (hv2.trans hv1))
  · exact (congrArg Context.m hme).trans ((congrArg Context.m hadv).trans (hm2.trans hm1))
  · exact (congrArg Context.q6 hme).trans ((congrArg Context.q6 hadv).trans (hq2.trans hq1))
  · exact (congrArg Context.ports hme).trans ((congrArg Context.ports hadv).trans (hp2.trans hp1))

/-! The refusals of a write of a port (R210, R391). -/

section
variable {s : State} {p : Nat}

theorem pushBad_unbound (h : (s.port p).bnd = false) : s.pushBad p = some 0 := if_pos (by rw [h]; rfl)

theorem pushBad_q7 (h : (s.port p).bnd = true) (h7 : p = 7) : s.pushBad p = some (s.portAt p) := by
  subst h7
  simp [State.pushBad, h]

theorem pushBad_read (h : (s.port p).bnd = true) (h7 : p ≠ 7) (hk : (s.port p).kb = false) (hb : (s.portApe p).bad = false)
    (hd : (s.portApe p).dir = false) : s.pushBad p = some (s.portApe p).pos := by
  simp [State.pushBad, h, h7, hk, hb, hd]

theorem pushBad_none (h : s.pushBad p = none) : (s.port p).bnd = true := by
  by_contra hb
  rw [pushBad_unbound (Bool.eq_false_iff.2 hb)] at h
  cases h

/-! The push of each kind of port. -/

theorem pushTo_ended (loc : Nat) (els : List PushElem) (used : Nat) (h : s.pushEnded p = true) : s.pushTo loc p els used = .ok (s, 0) := by
  rw [State.pushTo, h]
  rfl

theorem pushFault_none (offs : List Nat) (h : (s.port p).kb = true ∨ s.pushEnded p = true) : s.pushFault p offs = none := by
  rw [State.pushFault]
  exact if_pos (Bool.or_eq_true_iff.2 h)

/-- The elements of a push that lie within its port. -/
def keptElems (s : State) (p : Nat) (els : List PushElem) : List PushElem := inLength (s.portLen p) (s.portAt p) els

theorem pushTo_coach (loc : Nat) (els : List PushElem) (used : Nat) (hend : s.pushEnded p = false) (hk : (s.port p).kb = true) :
    ∃ fl, s.pushTo loc p els used = .ok ((s.modMe fun x =>
      { x with q6 := x.q6.map fun c => c.pushed (elemSize (s.portType p)) (s.port p).pos (keptElems s p els) }).pushTaken p used true, fl) := by
  rw [State.pushTo, hend]
  simp only [Bool.false_eq_true, if_false, hk, if_true]
  exact ⟨_, rfl⟩

theorem pushFault_near {els : List PushElem} {l : List (PushElem × Nat × Chk)} (hk : (s.port p).kb = false) (hend : s.pushEnded p = false)
    (hl : s.pushPlaces s.die s.tix (s.port p).ape (s.portApe p) (elemSize (s.portType p)) (keptElems s p els) = .ok l) :
    s.pushFault p (els.map (·.off)) = none := by
  obtain ⟨l', hl'⟩ := pushPlaces_offs (inLength_offs (s.portLen p) (s.portAt p) els) hl
  rw [State.pushFault, hk, hend]
  simp only [Bool.or_self, Bool.false_eq_true, if_false, hl']

theorem pushTo_near (loc : Nat) {els : List PushElem} (used : Nat) {l : List (PushElem × Nat × Chk)} (hk : (s.port p).kb = false)
    (hend : s.pushEnded p = false) (hpart : s.me.part = none) (hfar : farPush (s.portApe p) l = [])
    (hl : s.pushPlaces s.die s.tix (s.port p).ape (s.portApe p) (elemSize (s.portType p)) (keptElems s p els) = .ok l) :
    ∃ fl, s.pushTo loc p els used = .ok (((s.pushWrites (apeUnit s.die s.tix (s.port p).ape) (elemSize (s.portType p)) l).pushTaken p used true).modMe
      fun x => { x with part := none }, fl) := by
  unfold keptElems at hl
  rw [State.pushTo, hend]
  simp only [Bool.false_eq_true, if_false, hk, hl, hpart, pushAsk_near _ _ _ hfar, State.pushFrom, hfar, List.isEmpty_nil, if_true]
  exact ⟨_, rfl⟩

end

theorem farPush_near (a : Ape) {l : List (PushElem × Nat × Chk)} (h : NearUncached l) : farPush a l = [] := by
  rw [farPush, List.filterMap_eq_nil_iff]
  intro x hx
  obtain ⟨q, hq, -⟩ := h x hx
  rw [hq]

/-- A push done: the instruction moves on, and no register changes. -/
def PushDone (o : VFmt) (s t : State) : Prop :=
  exec (.vmov o) s = .next t ∧ t.pc = s.pc + 8 ∧ (∀ k, t.getG k = s.getG k) ∧ t.me.v = s.me.v ∧ t.me.m = s.me.m

section
variable {s : State} {o : VFmt} {a : Word} {p : Nat} (h : LanesOn s o.gn o.gs a) (hsa : o.sa = false) (hva : o.va.toNat < 24)
  (hvd : o.vd.toNat = 24 + p) (hr : s.regWait [o.va] (BitVec.allOnes 64) = none) (hb : s.pushBad p = none)
  (hw : s.pushBusy (laneRank (popMask o a) 64) 0 p = none)
include h hsa hva hvd hr hb hw

theorem vmov_push_ended (hend : s.pushEnded p = true) :
    ∃ t, PushDone o s t ∧ t.mem = s.mem ∧ t.port p = s.port p ∧ t.me.q6 = s.me.q6 ∧ t.portApe p = s.portApe p := by
  obtain ⟨f1, f2, pc, m, hx⟩ := vmov_pushes h hsa hva hvd hr hb hw (pushFault_none _ (.inr hend)) (pushTo_ended 4 _ _ hend)
  obtain ⟨hpc, hmem, hg, hv, hm, hq, hports, hapes⟩ := pushed_rest h.1 f1 f2 pc m a
  have hport : ∀ t : State, t.me.ports = s.me.ports → t.port p = s.port p := fun t ht => by rw [State.port, State.port, ht]
  refine ⟨_, ⟨hx, hpc, hg, hv, hm⟩, hmem, hport _ hports, hq, ?_⟩
  rw [State.portApe, hport _ hports, Tile.ape, hapes]
  rfl

theorem vmov_push_coach (hend : s.pushEnded p = false) (hk : (s.port p).kb = true) : ∃ t, PushDone o s t ∧ t.mem = s.mem
    ∧ t.me.q6 = s.me.q6.map (fun c => c.pushed (elemSize (s.portType p)) (s.port p).pos (keptElems s p (movedElems s o a p)))
    ∧ (t.port p).pos = (s.port p).pos + (pushPlan a o.pm).2 ∧ (t.port p).fin = decide (s.portLen p ≤ (s.port p).pos + (pushPlan a o.pm).2) := by
  obtain ⟨fl, hp⟩ := pushTo_coach 4 (movedElems s o a p) (pushPlan a o.pm).2 hend hk
  obtain ⟨f1, f2, pc, m, hx⟩ := vmov_pushes h hsa hva hvd hr hb hw (pushFault_none _ (.inl hk)) hp
  generalize keptElems s p (movedElems s o a p) = keep at hx ⊢
  obtain ⟨u, hu⟩ : ∃ u, s.modMe (fun x => { x with q6 := x.q6.map fun c => c.pushed (elemSize (s.portType p)) (s.port p).pos keep }) = u := ⟨_, rfl⟩
  have hume : u.me = { s.me with q6 := s.me.q6.map fun c => c.pushed (elemSize (s.portType p)) (s.port p).pos keep } := by rw [← hu, me_modMe]
  have huport : u.port p = s.port p := by rw [State.port, hume]; rfl
  have hulen : u.portLen p = s.portLen p := by
    rw [State.portLen, State.portLen, huport, hume]
    simp only [hk, if_true, Option.map_map]
    rfl
  have hku : CtxKeeps s u := hu ▸ ctxKeeps_modMe (ctxKeeps_refl h.1) _ ⟨_, _, _, _, _, rfl⟩
  have htaken : u.pushTaken p (pushPlan a o.pm).2 true = u.modMe fun x => { x with ports := vput x.ports p { s.port p with
      pos := (s.port p).pos + (pushPlan a o.pm).2, fin := s.portLen p ≤ (s.port p).pos + (pushPlan a o.pm).2 } } := by
    rw [State.pushTaken, huport, hulen]
    simp only [hk, if_true]
  obtain ⟨v, hv⟩ : ∃ v, u.pushTaken p (pushPlan a o.pm).2 true = v := ⟨_, rfl⟩
  rw [hu, hv] at hx
  rw [hv] at htaken
  obtain ⟨hvc, ⟨-, hvmem, hvg, hvpc⟩, -⟩ : CtxKeeps s v := htaken ▸ ctxKeeps_modMe hku _ ⟨_, _, _, _, _, rfl⟩
  have hvme : v.me = { u.me with ports := vput u.me.ports p { s.port p with
      pos := (s.port p).pos + (pushPlan a o.pm).2, fin := s.portLen p ≤ (s.port p).pos + (pushPlan a o.pm).2 } } := by rw [htaken, me_modMe]
  obtain ⟨hpc, hmem, hg, hvv, hm, hq, hports, -⟩ := pushed_rest hvc f1 f2 pc m a
  have hp8 : p < 8 := by have := o.vd.isLt; omega
  refine ⟨_, ⟨hx, hpc.trans (by rw [hvpc]), fun k => (hg k).trans (hvg k), hvv.trans (by rw [hvme, hume]), hm.trans (by rw [hvme, hume])⟩,
    hmem.trans hvmem, hq.trans (by rw [hvme, hume]), ?_, ?_⟩
  · rw [State.port, hports, hvme, vget_vput_self _ _ _ _ hp8]
  · rw [State.port, hports, hvme, vget_vput_self _ _ _ _ hp8]

theorem vmov_push_near (hend : s.pushEnded p = false) (hk : (s.port p).kb = false) (hpart : s.me.part = none) {l : List (PushElem × Nat × Chk)}
    (hl : s.pushPlaces s.die s.tix (s.port p).ape (s.portApe p) (elemSize (s.portType p)) (keptElems s p (movedElems s o a p)) = .ok l)
    (hnear : NearUncached l) : ∃ t, PushDone o s t ∧ (t.portApe p).pos = (s.portApe p).pos + (pushPlan a o.pm).2
      ∧ (t.portApe p).fin = decide ((s.portApe p).len ≤ (s.portApe p).pos + (pushPlan a o.pm).2)
      ∧ t.mem = (l.foldl (putPushed (s.asReq (apeUnit s.die s.tix (s.port p).ape)) (elemSize (s.portType p))) s).mem := by
  have hoffs : (movedElems s o a p).map (·.off) = (pushPlan a o.pm).1.map (·.1) := by
    rw [movedElems, List.map_map]
    rfl
  have hfin : (s.portApe p).fin = false := by
    rw [State.pushEnded] at hend
    simpa only [hk, Bool.false_eq_true, if_false] using hend
  obtain ⟨fl, hp⟩ := pushTo_near 4 (pushPlan a o.pm).2 hk hend hpart (farPush_near _ hnear) hl
  obtain ⟨f1, f2, pc, m, hx⟩ := vmov_pushes h hsa hva hvd hr hb hw (hoffs ▸ pushFault_near hk hend hl) hp
  obtain ⟨hsame, htiles, hwmem⟩ := pushWrites_near s (apeUnit s.die s.tix (s.port p).ape) (elemSize (s.portType p)) hnear
  generalize s.pushWrites (apeUnit s.die s.tix (s.port p).ape) (elemSize (s.portType p)) l = w at hx hsame htiles hwmem
  have hwport : w.port p = s.port p := by rw [State.port, State.port, hsame.me]
  have hwape : w.portApe p = s.portApe p := by
    rw [State.portApe, State.portApe, hwport, myTile_of_cur hsame.cur, State.tile, htiles]
    rfl
  obtain ⟨htsame, htmem, htpos, htfin⟩ := pushTaken_stream (s := w) (p := p) (by rw [hwport]; exact hk) (by rw [hwape]; exact hfin) (pushPlan a o.pm).2
  generalize w.pushTaken p (pushPlan a o.pm).2 true = v at hx htsame htmem htpos htfin
  have hsv := hsame.trans htsame
  have hvc : v.onCore = false := hsv.onCore.trans h.1
  obtain ⟨hc, ⟨-, hmem, hg, hpc⟩, hapes⟩ := ctxKeeps_modMe (ctxKeeps_refl hvc) (fun x => { x with part := none }) ⟨_, _, _, _, _, rfl⟩
  have hme : (v.modMe fun x => { x with part := none }).me = { s.me with part := none } := by rw [me_modMe, hsv.me]
  obtain ⟨hpc', hmem', hg', hv', hm', -, hports', hapes'⟩ := pushed_rest hc f1 f2 pc m a
  have hape : ∀ t : State, t.me.ports = s.me.ports → t.myTile.apes = v.myTile.apes → t.portApe p = v.portApe p := fun t ht ha => by
    rw [State.portApe, State.portApe, State.port, State.port, ht, hsv.me, Tile.ape, ha]
    rfl
  have hmports : (v.modMe fun x => { x with part := none }).me.ports = s.me.ports := by rw [hme]
  have hfinal := hape _ (hports'.trans hmports) (hapes'.trans hapes)
  refine ⟨_, ⟨hx, hpc'.trans (by rw [hpc, hsv.pc]), fun k => (hg' k).trans ((hg k).trans (hsv.getG k)), hv'.trans (by rw [hme]), hm'.trans (by rw [hme])⟩,
    ?_, ?_, hmem'.trans (hmem.trans (htmem.trans hwmem))⟩
  · rw [hfinal, htpos, hwape]
  · rw [hfinal, htfin, hwape]

end

theorem laneRank_popMask (o : VFmt) (a : Word) : laneRank (popMask o a) 64 = if o.pm then laneRank a 64 else 64 := by
  unfold popMask
  split
  · rfl
  · decide

theorem pushPlan_used (a : Word) (pm : Bool) : (pushPlan a pm).2 = if pm then ((List.range 64).filter fun j => a.getLsbD j).length else 64 := by
  cases pm <;> rfl

theorem elemPlace_key (x : PushElem × Nat × Chk) : (elemPlace x).key = match x.2.2 with | .ok q => q.key | _ => 0 := by
  unfold elemPlace
  split <;> rfl

/-- Settles O30. -/
theorem portResults : Obligations.PortResults := by
  refine ⟨fun s o m h => ?_, fun s o a p h hsa hva hvd hl => ?_, fun s o a p h hsa hva hvd hr => ?_⟩
  · intro n typ pos unit b refused bound
    have hn : portN o = n := rfl
    have hn8 : n < 8 := Nat.mod_lt _ (by decide)
    have hunit : (if typ == 5 || typ == 6 then blockSize typ else elemSize typ) = unit := by
      simp only [Bool.or_eq_true, beq_iff_eq]
      rfl
    refine ⟨fun hh => ?_, fun hh => ?_, fun hh => ?_, fun hh hu => ?_, ⟨_, exec_qbindU h, bindPort_result h.1 hn8 _⟩, _, exec_qstat h, ?_, ?_, fun hd => ⟨fun hb => ?_, fun hb => ?_⟩⟩
    · exact (exec_qbind h).trans (congrArg Host.Outcome.next (if_pos hh))
    · exact ⟨_, (exec_qbind h).trans (congrArg Host.Outcome.next (if_neg (Bool.eq_false_iff.1 hh))), bindPort_result h.1 hn8 _⟩
    · refine (exec_qbindK h).trans (congrArg Host.Outcome.next (if_pos ?_))
      rw [hunit]
      rcases hh with hh | hh
      · rw [hn, hh]; rfl
      · rw [bne_iff_ne.2 hh, Bool.or_true]
    · refine ⟨_, (exec_qbindK h).trans (congrArg Host.Outcome.next (if_neg ?_)), bindPort_result h.1 hn8 _⟩
      rw [hunit, hn, hh, hu]
      decide
    · exact steps_setG ..
    · exact fun k hk => (getG_advance ..).trans (getG_setG_ne _ _ _ _ hk)
    · rw [getG_advance, getG_setG_self _ _ _ hd, hn, portWord_unbound hb]
      rfl
    · rw [getG_advance, getG_setG_self _ _ _ hd, hn]
      by_cases hk : b.kb = true
      · obtain ⟨h63, h62, hpos, htyp⟩ := portWord_coach hb hk
        rw [hk]
        exact ⟨h63, h62, hpos, fun _ => htyp, nofun⟩
      · have hk := Bool.eq_false_iff.2 hk
        obtain ⟨h63, h62, hpos, hwh, hfin, hape, hncol⟩ := portWord_stream hb hk
        rw [hk]
        exact ⟨h63, h62, hpos, nofun, fun _ => ⟨hwh, hfin, hape, hncol⟩⟩
  · intro mask n b e lane got
    have hlane : elemLane = lane := rfl
    exact ⟨fun pos hb => vmov_popBad h hsa hva hvd hl hb, fun w hb hw => vmov_popBusy h hsa hva hvd hl hb hw, popBad_unbound, popBad_write,
      fun _ => streamElems_ended n, fun _ hf hn => streamElems_held hf hn, fun hb hw => ⟨fun hk u els g hs hg =>
        ⟨fun hclean => vmov_pop_stream h hsa hva hvd hl hb hw hk hs hg hclean, vmov_pop_poisoned h hsa hva hvd hl hb hw hk hs hg⟩,
        fun hk c hc hclean => vmov_pop_coach h hsa hva hvd hl hb hw hk hc hclean⟩⟩
  · intro b e typ sz code keep used pushed
    have hused : (pushPlan a o.pm).2 = used := pushPlan_used a o.pm
    rw [← laneRank_popMask o a, ← hused]
    refine ⟨fun pos hb => vmov_pushBad h hsa hva hvd hr hb, pushBad_unbound, pushBad_q7, pushBad_read, fun w hb hw => vmov_pushBusy h hsa hva hvd hr hb hw,
      fun hb hw => ⟨fun hend => ?_, fun hend hk => ?_, fun hend hk hpart l hl hnear => ?_⟩⟩
    · obtain ⟨t, hdone, hrest⟩ := vmov_push_ended h hsa hva hvd hr hb hw hend
      exact ⟨t, hdone, hrest⟩
    · obtain ⟨t, hdone, hrest⟩ := vmov_push_coach h hsa hva hvd hr hb hw hend hk
      exact ⟨t, hdone, hrest⟩
    · intro key covers byteOf
      obtain ⟨t, hdone, hpos, hfin, hmem⟩ := vmov_push_near h hsa hva hvd hr hb hw hend hk hpart hl hnear
      have hkey : ∀ x, (elemPlace x).key = key x := elemPlace_key
      have hcovers : ∀ x k, Covers sz x k ↔ covers x k := fun x k => by rw [Covers, hkey]
      have hbyte : ∀ x k, pushedByte x k = byteOf x k := fun x k => by rw [pushedByte, hkey]
      have hun := uncached_of_near hnear
      refine ⟨t, hdone, hpos, hfin, fun k => ?_, fun l1 x l2 hsplit k hk hfree => ?_⟩
      · rw [hmem]
        rcases foldPushed_some hun s k with hs | ⟨x, hx, hc, hs⟩
        · exact .inl hs
        · exact .inr ⟨x, hx, (hcovers x k).1 hc, hs.trans (hbyte x k)⟩
      · subst hsplit
        rw [hmem, ← hbyte]
        exact foldPushed_last hun s ((hcovers x k).2 hk) fun y hy => mt (hcovers y k).1 (hfree y hy)

end Sys2Proof.Laws

/-! O24: vector loads and stores of places of this module (16 R370-R372; 07 R140). -/

namespace Sys2Proof.Laws

open Sys2Proof Sys2Proof.Machine Sys2Proof.Safety

theorem mem_activeList {a : Word} {j : Nat} : j ∈ activeList a ↔ j < 64 ∧ a.getLsbD j = true := by
  rw [activeList, List.mem_filter, List.mem_range]

/-! The addresses of the elements (R370). -/

section
variable {s : State} (h : s.onCore = false) (o : VFmt) (pc m w : Word)
include h

theorem unitEa_unlatch : (s.popsDone pc m w []).unitEa o = s.unitEa o := by
  funext j
  simp only [State.unitEa, State.vbase, getG_unlatch h]

theorem strideEa_unlatch : (s.popsDone pc m w []).strideEa o = s.strideEa o := by
  funext j
  simp only [State.strideEa, State.vbase, getG_unlatch h]

theorem indexEa_unlatch : (s.popsDone pc m w []).indexEa o = s.indexEa o := by
  funext j
  simp only [State.indexEa, getG_unlatch h, readV_unlatch]

end

/-! Loads. -/

/-- The value of an entry of a table keyed by lane. -/
theorem find_keyed {α : Type} (f : Nat → α) {l : List Nat} {j : Nat} (h : j ∈ l) :
    ((l.map fun i => (i, f i)).find? fun c => c.1 == j) = some (j, f j) := by
  induction l with
  | nil => cases h
  | cons i r ih =>
    rw [List.map_cons, List.find?_cons]
    by_cases hi : i = j
    · rw [hi, beq_self_eq_true]
    · rw [beq_false_of_ne hi]
      exact ih ((List.mem_cons.1 h).resolve_left (Ne.symm hi))

theorem laneMiss_near {s : State} {ea : Nat → Nat} {n : Nat} {p : Nat → Phys} {l : List Nat} (h : ∀ i ∈ l, s.mayMiss (ea i) (p i) n = false) :
    s.laneMiss ea n (nearPlaces p l) = (s, false) := by
  rw [State.laneMiss, if_neg]
  rw [nearPlaces, List.any_map, List.any_eq_true]
  rintro ⟨i, hi, hm⟩
  exact Bool.false_ne_true ((h i hi).symm.trans hm)

/-- A load of places that hold no poison and whose own stores have been seen. -/
theorem vload_near {s : State} {o : VFmt} {a : Word} {ea : Nat → Nat} {p : Nat → Phys} (hck : s.me.checked = [])
    (h : ∀ i ∈ activeList a, s.laneCheck (ea i) (elemSize o.typ.toNat) .read = .ok (.mem (p i)) ∧ s.poisonFor s.req (p i) = false
      ∧ s.mayMiss (ea i) (p i) (elemSize o.typ.toNat) = false ∧ (ea i / 2 ^ 60 = 0 → bit s.sys.hotcfg 16 = false)) :
    ∃ tlb lanes, s.vload o a ea = (({ s with tlb := tlb } : State).modMe fun x => { x.writeV o.vd.toNat a lanes with checked := [] }).advance
      ∧ ∀ j, j < 64 → a.getLsbD j = true → vget lanes j 0 = widen o.typ.toNat (s.rdFor s.req (p j) (elemSize o.typ.toNat)) := by
  generalize hn : elemSize o.typ.toNat = n at h ⊢
  obtain ⟨tlb, ht⟩ := touchLanes_tlb (s := s) (ea := ea) (a := .read) (p := p) (l := activeList a)
    fun i hi t hsys => touch_unsampled t.req .read (p i) fun h0 => by rw [hsys]; exact (h i hi).2.2.2 h0
  refine ⟨tlb, lanesFn fun i => ((((activeList a).map fun j => (j, s.rdFor s.req (p j) n)).find? fun c => c.1 == i).map
    fun c => widen o.typ.toNat c.2).getD 0, ?_, fun j hj haj => ?_⟩
  · rw [State.vload]
    simp only
    rw [hn, lanePlaces_near hck fun i hi => (h i hi).1, farWork_near]
    simp only [List.filterMap_nil, List.append_nil]
    rw [filterMap_near fun i hi => if_neg (Bool.eq_false_iff.1 (h i hi).2.1), laneMiss_near fun i hi => (h i hi).2.2.1, ht]
    simp only [leastAddr, List.foldl_nil, nearPlaces, List.map_map, Function.comp_def, State.laneRead, Bool.false_and, Bool.false_eq_true, if_false]
  · rw [vget_lanesFn _ _ hj, find_keyed _ (mem_activeList.2 ⟨hj, haj⟩)]
    rfl

/-- Lanes that are not written may be named by any value. -/
theorem wroteLanes_active {s t : State} {r : Nat} {a : Word} {f g : Nat → Lane} {fl : Fl} (h : WroteLanes s t r a f fl)
    (hfg : ∀ j, j < 64 → a.getLsbD j = true → f j = g j) : WroteLanes s t r a g fl := by
  obtain ⟨h1, h2, h3, h4, h5⟩ := h
  refine ⟨h1, h2, h3, fun j hj => ?_, h5⟩
  rw [h4 j hj]
  by_cases ha : a.getLsbD j = true
  · rw [if_pos ha, if_pos ha, hfg j hj ha]
  · rw [if_neg ha, if_neg ha]

/-- A load on a context's lanes. -/
theorem vload_wrote {s : State} {o : VFmt} {a : Word} {ea : Nat → Nat} {p : Nat → Phys} {i : Instr} {pc m : Word} (h : s.onCore = false)
    (hd : o.vd.toNat < 24) (hi : exec i s = .next ((s.popsDone pc m a []).vload o a ea)) (hck : s.me.checked = [])
    (hp : ∀ j, j < 64 → a.getLsbD j = true → Aligned s (ea j) (elemSize o.typ.toNat)
      ∧ s.check s.req (ea j) (elemSize o.typ.toNat) .read = .ok (p j) ∧ s.poisonFor s.req (p j) = false
      ∧ s.mayMiss (ea j) (p j) (elemSize o.typ.toNat) = false ∧ (ea j / 2 ^ 60 = 0 → bit s.sys.hotcfg 16 = false)) :
    ∃ t, exec i s = .next t ∧ WroteLanes s t o.vd.toNat a (fun j => widen o.typ.toNat (s.rdFor s.req (p j) (elemSize o.typ.toNat))) 0 := by
  obtain ⟨u, hu⟩ : ∃ u, s.popsDone pc m a [] = u := ⟨_, rfl⟩
  have hme : u.me = unlatched s.me pc := hu ▸ me_unlatch ..
  obtain ⟨tlb, lanes, e, hl⟩ := vload_near (s := u) (o := o) (a := a) (ea := ea) (p := p) (by rw [hme]; exact hck) fun j hj => by
    obtain ⟨hj, haj⟩ := mem_activeList.1 hj
    obtain ⟨hal, hc, hpois, hmiss, hot⟩ := hp j hj haj
    refine ⟨hu ▸ laneCheck_near hal hc, hu ▸ hpois, ?_, hu ▸ hot⟩
    rw [State.mayMiss, hme, ← hu]
    exact hmiss
  have hc : ({ u with tlb := tlb } : State).onCore = false := hu ▸ h
  have hs : SameAgents u { u with tlb := tlb } := ⟨rfl, rfl, fun _ _ _ => rfl⟩
  have hkeep := (hu ▸ keeps_unlatch h pc m a : Kept s u ∧ u.mem = s.mem ∧ (∀ n, u.getG n = s.getG n) ∧ u.pc = s.pc)
  obtain ⟨hk, hm, hg, hpc⟩ := hkeep
  have hmod := keeps_modMe (s := s) (t := { u with tlb := tlb }) (fun x => { x.writeV o.vd.toNat a lanes with checked := [] }) hc
    ⟨kept_trans hk hs.kept, hm, fun n => (hs.getG n).trans (hg n), hs.pc.trans hpc⟩ ⟨_, _, _, _, _, rfl⟩
  have hx : (({ u with tlb := tlb } : State).modMe fun x => { x.writeV o.vd.toNat a lanes with checked := [] }).me
      = { (unlatched s.me pc).writeV o.vd.toNat a lanes with checked := [] } := by
    rw [me_modMe, hs.me, hme]
  refine ⟨_, hi.trans (congrArg Host.Outcome.next ((congrArg (fun u => u.vload o a ea) hu).trans e)),
    wroteLanes_active (wroteLanes_advance h (new := lanes) (by rw [onCore_modMe]; exact hc) hmod hd ?_ ?_ ?_) ?_⟩
  · rw [hx]; rfl
  · rw [hx]; exact BitVec.or_zero.symm
  · rw [hx]; rfl
  · intro j hj haj
    rw [hl j hj haj, ← hu]
    rfl


/-- An instruction of the vector group that reads or writes memory, once its registers are settled. -/
theorem exec_onLanes {s : State} {o : VFmt} {a : Word} {i : Instr} {srcs : List (Nat × BitVec 5)} {eaOf : State → Nat → Nat}
    {k : Word → (Nat → Nat) → State → State} (h : LanesOn s o.gn o.gs a)
    (hi : exec i s = .next (s.vecOp o srcs id [] fun _ a s => k a (eaOf s) s)) (hs : ∀ e ∈ srcs, e.2.toNat < 24)
    (hr : s.regWait (srcs.map (·.2)) a = none) (hea : eaOf (s.popsDone s.pc (popMask o a) a []) = eaOf s) :
    exec i s = .next (k a (eaOf s) (s.popsDone s.pc (popMask o a) a [])) := by
  obtain ⟨_, e⟩ := vecOp_regs h hs (need := id) (ms := []) hr rfl fun _ a s => k a (eaOf s) s
  rw [hi, e, hea]

theorem vector_loads {s : State} {o : VFmt} {a : Word} (p : Nat → Phys) (h : LanesOn s o.gn o.gs a) (hd : o.vd.toNat < 24) :
    let n := elemSize o.typ.toNat
    let base := s.getG o.va + s.getG o.vb + o.imm.signExtend 64
    let r := fun (i : Instr) (ea : Nat → Nat) => s.me.checked = [] →
      (∀ j, j < 64 → a.getLsbD j = true → Aligned s (ea j) n ∧ s.check s.req (ea j) n .read = .ok (p j)
        ∧ s.poisonFor s.req (p j) = false ∧ s.mayMiss (ea j) (p j) n = false
        ∧ (ea j / 2 ^ 60 = 0 → bit s.sys.hotcfg 16 = false)) →
      ∃ t, exec i s = .next t ∧ WroteLanes s t o.vd.toNat a (fun j => widen o.typ.toNat (s.rdFor s.req (p j) n)) 0
    r (.vld o) (fun j => (base + BitVec.ofNat 64 (j * n)).toNat)
      ∧ r (.vlds o) (fun j => (base + BitVec.ofNat 64 j * s.getG o.vc).toNat)
      ∧ (o.vb.toNat < 24 → s.regWait [o.vb] a = none →
          r (.vgth o) (fun j => (s.getG o.va + o.imm.signExtend 64 + (laneOf s o.vb j).signExtend 64 * BitVec.ofNat 64 n).toNat)) :=
  have load := fun (i : Instr) (srcs : List (Nat × BitVec 5)) (eaOf : State → Nat → Nat)
      (hi : exec i s = .next (s.vecOp o srcs id [] fun _ a s => s.vload o a (eaOf s))) hs hr hea =>
    vload_wrote (p := p) h.1 hd (exec_onLanes (k := fun a ea s => s.vload o a ea) h hi hs hr hea)
  ⟨load _ [] (State.unitEa · o) rfl (by simp) rfl (unitEa_unlatch h.1 ..),
    load _ [] (State.strideEa · o) rfl (by simp) rfl (strideEa_unlatch h.1 ..),
    fun hb hr => load _ [(2, o.vb)] (State.indexEa · o) rfl (by simpa using hb) hr (indexEa_unlatch h.1 ..)⟩

/-! One store of a context among those of an instruction (R140). -/

section
variable (s : State) (ea : Nat) (p : Phys)

theorem me_noteLate (n : Nat) : ∃ late, (s.noteLate ea p n).me = { s.me with late := late }
    ∧ ∀ e ∈ late, e ∈ s.me.late ∨ (p.key ≤ e.key ∧ e.key < p.key + n) := by
  unfold State.noteLate
  split
  · exact ⟨s.me.late, rfl, fun e he => .inl he⟩
  · refine ⟨_, me_modMe .., fun e he => ?_⟩
    rcases List.mem_append.1 he with he | he
    · obtain ⟨i, hi, rfl⟩ := List.mem_map.1 he
      have := List.mem_range.1 hi
      exact .inr ⟨by simp, by simpa using this⟩
    · exact .inl (List.mem_filter.1 he).1

variable (bs : List Byte)

/-- The context after a store that passes none of its earlier ones. -/
theorem me_noteStore_wrFor (q : Req) : ∃ late, ((s.noteStore ea p bs.length).wrFor q p bs).me = { s.me with late := late }
    ∧ ∀ e ∈ late, e ∈ s.me.late ∨ (p.key ≤ e.key ∧ e.key < p.key + bs.length) := by
  obtain ⟨late, hme, hlate⟩ := me_noteLate (s.keepOld p.key bs.length) ea p bs.length
  rw [(keepOld_keeps s p.key bs.length).1.me] at hme hlate
  exact ⟨late, (sameAgents_wrFor ..).me.trans hme, hlate⟩

theorem v_putOwn (rel : Bool) : (s.putOwn rel ea p bs).me.v = s.me.v := by
  have plain : ∀ t : State, ((t.noteStore ea p bs.length).wrFor t.req p bs).me.v = t.me.v := fun t => by
    obtain ⟨late, hme, -⟩ := me_noteStore_wrFor t ea p bs t.req
    rw [hme]
  have before : ∀ t : State, (t.putBefore ea p bs).me.v = t.me.v := fun t => by
    obtain ⟨late, hme, -⟩ := me_noteLate t ea p bs.length
    unfold State.putBefore
    simp only
    rw [(sameAgents_wrFor _ _ _ _).me, me_modMe, hme]
  unfold State.putOwn
  simp only
  split
  · split
    · exact before s.freeVal.1
    · exact plain s.freeVal.1
  · exact plain s

/-- What no part of a store reads or writes. -/
theorem putOwn_keeps {α : Type} (view : State → α) (hmark : ∀ t g on, view (State.mark t g on) = view t)
    (hcache : ∀ (t : State) m l, view { t with mem := m, l2 := l } = view t) (hpost : ∀ t n ev x, view (State.post t n ev x) = view t)
    (hfree : ∀ t : State, view t.freeVal.1 = view t) (hme : ∀ (t : State) f, view (t.modMe f) = view t)
    (htile : ∀ (t : State) f, view (t.modMyTile f) = view t) (rel : Bool) : view (s.putOwn rel ea p bs) = view s := by
  have hlate : ∀ t : State, view (t.noteLate ea p bs.length) = view t := fun t => by
    unfold State.noteLate
    split
    · rfl
    · exact hme ..
  have plain : ∀ t : State, view ((t.noteStore ea p bs.length).wrFor t.req p bs) = view t := fun t => by
    refine (wrFor_keeps view hmark hcache hpost ..).trans ((hlate _).trans ?_)
    unfold State.keepOld
    split
    · rfl
    · exact htile ..
  unfold State.putOwn
  simp only
  split
  · split
    · exact (wrFor_keeps view hmark hcache hpost ..).trans ((hme ..).trans ((hlate _).trans (hfree s)))
    · exact (plain _).trans (hfree s)
  · exact plain s

end

/-! The stores of lanes in ascending order (R372). -/

/-- The lanes' places and values, and whether a lane's store stays behind the context's earlier ones. -/
structure LaneStores where
  ea : Nat → Nat
  p : Nat → Phys
  n : Nat
  code : Nat → Nat
  rel : Nat → Bool

namespace LaneStores

variable (w : LaneStores)

/-- The store of one lane. -/
def put (s : State) (i : Nat) : State := s.putOwn (w.rel i) (w.ea i) (w.p i) (leOf w.n (w.code i))

/-- Whether a lane's store covers a byte. -/
def Covers (i k : Nat) : Prop := (w.p i).key ≤ k ∧ k < (w.p i).key + w.n

/-- What a lane's store leaves in a byte. -/
def byteAt (i k : Nat) : Byte := BitVec.ofNat 8 (w.code i / 256 ^ (k - (w.p i).key))

/-- The stores of the lanes of a list are told byte by byte, by a way to look at them. -/
def Looks (look : State → Nat → Byte) (l : List Nat) (k : Nat) : Prop := ∀ (s : State), ∀ i ∈ l,
  Stored s (w.rel i) (w.ea i) (w.p i) (leOf w.n (w.code i)) (look s) (look (w.put s i)) k

variable {w} {look : State → Nat → Byte} {k : Nat}

theorem put_free {s : State} {i : Nat} (h : w.Looks look [i] k) (hk : ¬w.Covers i k) : look (w.put s i) k = look s k := by
  have hst := h s i (List.mem_singleton_self i)
  rw [Stored, leOf_length] at hst
  rwa [if_neg (show ¬(_ ∧ _) from hk)] at hst

theorem put_covered {s : State} {i : Nat} (h : w.Looks look [i] k) (hk : w.Covers i k) :
    look (w.put s i) k = w.byteAt i k ∨ (s.mayPass (w.ea i) (w.p i) w.n = true ∧ w.rel i = false ∧ look (w.put s i) k = look s k) := by
  have hst := h s i (List.mem_singleton_self i)
  rw [Stored, leOf_length] at hst
  rw [if_pos (show _ ∧ _ from hk)] at hst
  obtain hnew | ⟨⟨hrel, hpass, -⟩, hold⟩ := hst
  · exact .inl (hnew.trans (leOf_getD _ _ (by have := hk; unfold Covers at this; omega)))
  · exact .inr ⟨hpass, hrel, hold⟩

theorem looks_cons {i : Nat} {l : List Nat} (h : w.Looks look (i :: l) k) : w.Looks look [i] k ∧ w.Looks look l k :=
  ⟨fun s j hj => h s j (List.mem_singleton.1 hj ▸ List.mem_cons_self ..), fun s j hj => h s j (List.mem_cons_of_mem _ hj)⟩

/-- A byte that no lane covers stays. -/
theorem fold_free {l : List Nat} (h : w.Looks look l k) (hk : ∀ i ∈ l, ¬w.Covers i k) (s : State) : look (l.foldl w.put s) k = look s k := by
  induction l generalizing s with
  | nil => rfl
  | cons i r ih =>
    obtain ⟨hi, hr⟩ := looks_cons h
    obtain ⟨hki, hkr⟩ := List.forall_mem_cons.1 hk
    exact (ih hr hkr _).trans (put_free hi hki)

/-- A byte stays or has what a lane that covers it leaves. -/
theorem fold_some {l : List Nat} (h : w.Looks look l k) (s : State) :
    look (l.foldl w.put s) k = look s k ∨ ∃ i ∈ l, w.Covers i k ∧ look (l.foldl w.put s) k = w.byteAt i k := by
  induction l generalizing s with
  | nil => exact .inl rfl
  | cons i r ih =>
    obtain ⟨hi, hr⟩ := looks_cons h
    rcases ih hr (w.put s i) with he | ⟨j, hj, hc, he⟩
    · by_cases hk : w.Covers i k
      · obtain hnew | ⟨-, -, hold⟩ := put_covered (s := s) hi hk
        · exact .inr ⟨i, List.mem_cons_self .., hk, he.trans hnew⟩
        · exact .inl (he.trans hold)
      · exact .inl (he.trans (put_free hi hk))
    · exact .inr ⟨j, List.mem_cons_of_mem _ hj, hc, he⟩

/-! Lanes that pass no own earlier store: what the context has noted since is of lower lanes. -/

/-- What the stores of some lanes leave the context to note. -/
def Noted (s t : State) (l : List Nat) (w : LaneStores) : Prop :=
  t.onCore = s.onCore ∧ t.sys = s.sys ∧ ∀ e ∈ t.me.late, e ∈ s.me.late ∨ ∃ i ∈ l, w.Covers i e.key

/-- A store passes none of the context's own where those of lower lanes that it meets hold it back. -/
theorem Noted.stays {s t : State} {l : List Nat} (h : Noted s t l w) {i : Nat} (hp : s.mayPass (w.ea i) (w.p i) w.n = false)
    (hrel : w.rel i = false → ∀ j ∈ l, ∀ k, w.Covers i k → ¬w.Covers j k) (hi : w.rel i = false) : t.mayPass (w.ea i) (w.p i) w.n = false := by
  obtain ⟨hc, hsys, hlate⟩ := h
  have hpass : t.isPassed (w.ea i) (w.p i) w.n = s.isPassed (w.ea i) (w.p i) w.n := by
    funext e
    rw [State.isPassed, State.isPassed, State.isLate, State.isLate, hsys]
  by_contra hn
  rw [Bool.not_eq_false, State.mayPass, hc, hpass] at hn
  obtain ⟨hcm, hany⟩ := Bool.and_eq_true_iff.1 hn
  obtain ⟨e, he, hpe⟩ := List.any_eq_true.1 hany
  rcases hlate e he with he | ⟨j, hj, hcov⟩
  · rw [State.mayPass, hcm, Bool.true_and] at hp
    exact Bool.false_ne_true (hp.symm.trans (List.any_eq_true.2 ⟨e, he, hpe⟩))
  · refine hrel hi j hj e.key ?_ hcov
    simp only [State.isPassed, State.isLate, Bool.and_eq_true, decide_eq_true_eq] at hpe
    obtain ⟨⟨⟨⟨⟨h1, h2⟩, -⟩, -⟩, -⟩, -⟩ := hpe
    exact ⟨h1, h2⟩

theorem Noted.put {s t : State} {l : List Nat} (h : Noted s t l w) {i : Nat}
    (hi : w.rel i = false → t.mayPass (w.ea i) (w.p i) w.n = false) :
    Noted s (w.put t i) (l ++ [i]) w := by
  obtain ⟨hc, hsys, hlate⟩ := h
  have hput : w.put t i = (t.noteStore (w.ea i) (w.p i) (leOf w.n (w.code i)).length).wrFor t.req (w.p i) (leOf w.n (w.code i)) := by
    rw [LaneStores.put, State.putOwn]
    simp only
    rw [if_neg]
    rw [leOf_length]
    cases hr : w.rel i
    · rw [hi hr]; simp
    · simp
  obtain ⟨late, hme, hnew⟩ := me_noteStore_wrFor t (w.ea i) (w.p i) (leOf w.n (w.code i)) t.req
  refine ⟨?_, ?_, fun e he => ?_⟩
  · exact (putOwn_keeps t _ _ _ State.onCore (fun _ _ _ => rfl) (fun _ _ _ => rfl) (fun _ _ _ _ => rfl) (fun _ => rfl) onCore_modMe
      (fun _ _ => rfl) _).trans hc
  · exact (putOwn_keeps t _ _ _ State.sys (fun _ _ _ => rfl) (fun _ _ _ => rfl) (fun _ _ _ _ => rfl) (fun _ => rfl) (fun _ _ => rfl)
      (fun _ _ => rfl) _).trans hsys
  · rw [hput, hme] at he
    rcases hnew e he with he | hcov
    · rcases hlate e he with he | ⟨j, hj, hcov⟩
      · exact .inl he
      · exact .inr ⟨j, List.mem_append_left _ hj, hcov⟩
    · rw [leOf_length] at hcov
      exact .inr ⟨i, List.mem_append_right _ (List.mem_singleton_self i), hcov⟩

theorem fold_noted {s : State} {l : List Nat} (hl : l.Pairwise (· < ·)) (hp : ∀ i ∈ l, s.mayPass (w.ea i) (w.p i) w.n = false)
    (hrel : ∀ i ∈ l, w.rel i = false → ∀ j ∈ l, j < i → ∀ k, w.Covers i k → ¬w.Covers j k) : Noted s (l.foldl w.put s) l w := by
  induction l using List.reverseRecOn with
  | nil => exact ⟨rfl, rfl, fun e he => .inl he⟩
  | append_singleton l i ih =>
    obtain ⟨hl1, -, hlt⟩ := List.pairwise_append.1 hl
    obtain ⟨hp1, hpi⟩ := List.forall_mem_append.1 hp
    have hi : i ∈ l ++ [i] := List.mem_append_right _ (List.mem_singleton_self i)
    have ih := ih hl1 hp1 fun j hj hr m hm => hrel j (List.mem_append_left _ hj) hr m (List.mem_append_left _ hm)
    rw [List.foldl_append]
    exact ih.put (ih.stays (hp i hi) fun hr j hj => hrel i hi hr j (List.mem_append_left _ hj) (hlt j hj i (List.mem_singleton_self i)))

/-- The highest lane that covers a byte gives it, where no lane may pass an own earlier store. -/
theorem fold_last {s : State} {l : List Nat} (hlook : w.Looks look l k) (hl : l.Pairwise (· < ·))
    (hp : ∀ i ∈ l, s.mayPass (w.ea i) (w.p i) w.n = false)
    (hrel : ∀ i ∈ l, w.rel i = false → ∀ j ∈ l, j < i → ∀ k, w.Covers i k → ¬w.Covers j k) {i : Nat} (hi : i ∈ l) (hk : w.Covers i k)
    (hlast : ∀ j ∈ l, i < j → ¬w.Covers j k) : look (l.foldl w.put s) k = w.byteAt i k := by
  obtain ⟨l1, l2, rfl⟩ := List.append_of_mem hi
  obtain ⟨hl1, hl2, hlt⟩ := List.pairwise_append.1 hl
  have hnoted := fold_noted (s := s) hl1 (fun j hj => hp j (List.mem_append_left _ hj))
    fun j hj hr m hm => hrel j (List.mem_append_left _ hj) hr m (List.mem_append_left _ hm)
  have hstay := hnoted.stays (hp i hi) fun hr j hj => hrel i hi hr j (List.mem_append_left _ hj) (hlt j hj i (List.mem_cons_self ..))
  obtain ⟨hlooki, hlook2⟩ := looks_cons fun t j hj => hlook t j (List.mem_append_right _ hj)
  rw [List.foldl_append, List.foldl_cons,
    fold_free hlook2 fun j hj => hlast j (List.mem_append_right _ (List.mem_cons_of_mem _ hj)) (List.rel_of_pairwise_cons hl2 hj)]
  obtain hnew | ⟨hpass, hr, -⟩ := put_covered (s := l1.foldl w.put s) hlooki hk
  · exact hnew
  · exact absurd ((hstay hr).symm.trans hpass) Bool.false_ne_true

/-- What no lane's store changes. -/
theorem fold_agents (l : List Nat) (s : State) :
    (l.foldl w.put s).pc = s.pc ∧ (∀ n, (l.foldl w.put s).getG n = s.getG n) ∧ (l.foldl w.put s).me.v = s.me.v := by
  induction l generalizing s with
  | nil => exact ⟨rfl, fun _ => rfl, rfl⟩
  | cons i r ih =>
    obtain ⟨hpc, hg⟩ := writes_agent (putOwn_writes s (w.rel i) (w.ea i) (w.p i) (leOf w.n (w.code i)))
    obtain ⟨hpc', hg', hv'⟩ := ih (w.put s i)
    exact ⟨hpc'.trans hpc, fun n => (hg' n).trans (hg n), hv'.trans (v_putOwn ..)⟩

end LaneStores

/-! A vector store on a context's lanes. -/

/-- The stores of the active lanes of a vector store: lower lanes whose bytes a lane meets hold it back. -/
def laneStores (s : State) (o : VFmt) (a : Word) (ea : Nat → Nat) (p : Nat → Phys) : LaneStores where
  ea := ea
  p := p
  n := elemSize o.typ.toNat
  code := fun i => (storeCode o (laneOf s o.vd i)).1
  rel := fun i => (nearPlaces p (activeList a)).any fun f => f.1 < i && meets (elemSize o.typ.toNat) (p i) f.2

theorem laneStores_held {s : State} {o : VFmt} {a : Word} {ea : Nat → Nat} {p : Nat → Phys} {i j k : Nat}
    (h : (laneStores s o a ea p).rel i = false) (hj : j ∈ activeList a) (hji : j < i) (hi : (laneStores s o a ea p).Covers i k) :
    ¬(laneStores s o a ea p).Covers j k := by
  rintro ⟨h1, h2⟩
  obtain ⟨h3, h4⟩ := hi
  have hmeets : meets (elemSize o.typ.toNat) (p i) (.mem (p j)) = true := by
    rw [meets, Bool.and_eq_true, decide_eq_true_eq, decide_eq_true_eq]
    exact ⟨lt_of_le_of_lt h1 h4, lt_of_le_of_lt h3 h2⟩
  refine Bool.false_ne_true (h.symm.trans (List.any_eq_true.2 ⟨(j, .mem (p j)), List.mem_map.2 ⟨j, hj, rfl⟩, ?_⟩))
  rw [hmeets, Bool.and_true]
  exact decide_eq_true hji

theorem putPlaces_near (s t : State) (o : VFmt) (a : Word) (ea : Nat → Nat) (p : Nat → Phys) :
    t.putPlaces ea (elemSize o.typ.toNat) (fun i => (storeCode o (laneOf s o.vd i)).1) (nearPlaces p (activeList a))
      = (activeList a).foldl (laneStores s o a ea p).put t := by
  rw [State.putPlaces]
  conv_lhs => arg 3; rw [nearPlaces]
  rw [List.foldl_map]
  rfl

/-- Marks change no more than themselves. -/
theorem clearWhole_keeps (s : State) (ea : Nat → Nat) (ps : List (Nat × Place)) :
    SameAgents s (s.clearWhole ea ps) ∧ SameCaches s (s.clearWhole ea ps) := by
  have h : ∀ {α : Type} (view : State → α), (∀ t g on, view (State.mark t g on) = view t) → view (s.clearWhole ea ps) = view s := by
    intro α view hmark
    refine foldl_keeps view (fun t e => ?_) ps s
    rcases e.2 with q | _ | _ | _
    · simp only [apply_ite view, hmark, ite_self]
    · rfl
    · rfl
    · rfl
  exact ⟨⟨h State.cur fun _ _ _ => rfl, h State.cores fun _ _ _ => rfl,
    fun d k c => congrFun (congrFun (congrFun (h State.ctx fun _ _ _ => rfl) d) k) c⟩,
    h State.mem fun _ _ _ => rfl, h State.l2 fun _ _ _ => rfl, h State.depots fun _ _ _ => rfl, h State.boxes fun _ _ _ => rfl⟩

/-- The state in which a vector store begins to write. -/
def storing (s : State) (fl : Fl) (tlb : List TlbEntry) : State :=
  (({ s.addFlags fl with tlb := tlb } : State).modMe fun x => { x with checked := [] }).advance

theorem storing_keeps {s : State} (h : s.onCore = false) (fl : Fl) (tlb : List TlbEntry) : let x := storing s fl tlb
    SameCaches s x ∧ x.pc = s.pc + 8 ∧ (∀ k, x.getG k = s.getG k) ∧ x.me.v = s.me.v ∧ x.sys = s.sys
      ∧ x.me.late = s.me.late ∧ x.onCore = s.onCore := by
  obtain ⟨u, hu⟩ : ∃ u, s.addFlags fl = u := ⟨_, rfl⟩
  have hcaches : SameCaches s u := hu ▸ ⟨modHart_mem .., modHart_l2 .., modHart_depots .., modHart_boxes ..⟩
  have hsys : u.sys = s.sys := hu ▸ modHart_sys ..
  have hc : u.onCore = s.onCore := hu ▸ onCore_addFlags s fl
  have hume : u.me = { s.me with hart := { s.me.hart with fflags := s.me.hart.fflags ||| fl } } := by
    rw [← hu, addFlags_me h, me_modMe]
  have hs : SameAgents u { u with tlb := tlb } := ⟨rfl, rfl, fun _ _ _ => rfl⟩
  obtain ⟨w, hw⟩ : ∃ w, ({ u with tlb := tlb } : State).modMe (fun x => { x with checked := [] }) = w := ⟨_, rfl⟩
  have hwc : w.onCore = s.onCore := by rw [← hw, onCore_modMe, hs.onCore, hc]
  have hwme : w.me = { u.me with checked := [] } := by rw [← hw, me_modMe, hs.me]
  have hx : storing s fl tlb = w.advance := by rw [storing, hu, hw]
  obtain ⟨-, -, hg, hpc⟩ := hw ▸ keeps_modMe (s := u) (fun x => { x with checked := [] }) (hs.onCore.trans (hc.trans h))
    ⟨hs.kept, rfl, hs.getG, hs.pc⟩ ⟨_, _, _, _, _, rfl⟩
  have hwcaches : SameCaches u w := hw ▸ ⟨rfl, rfl, rfl, rfl⟩
  have hadv := me_advance (hwc.trans h)
  intro x
  rw [show x = w.advance from hx]
  refine ⟨(hcaches.trans hwcaches).trans (sameCaches_advance w), ?_, fun k => ?_, ?_, ?_, ?_, ?_⟩
  · rw [pc_advance, hpc, ← hu, pc_addFlags]
  · rw [getG_advance, hg, ← hu, getG_addFlags]
  · rw [hadv, hwme, hume]
  · rw [advance_sys, ← hw, modMe_sys]; exact hsys
  · rw [hadv, hwme, hume]
  · exact (onCore_modHart ..).trans hwc

/-- A store of places whose accesses change no more than translations. -/
theorem vstore_near {s : State} {o : VFmt} {a : Word} {ea : Nat → Nat} {p : Nat → Phys} (whole : Bool) (hv : o.vd.toNat < 24)
    (hck : s.me.checked = []) (hp : ∀ i ∈ activeList a, s.laneCheck (ea i) (elemSize o.typ.toNat) .write = .ok (.mem (p i)))
    (htouch : ∀ i ∈ activeList a, ∀ t : State, t.sys = s.sys → ∃ tlb, t.touch t.req (ea i) .write (p i) = { t with tlb := tlb }) :
    ∃ fl tlb, SameAgents ((activeList a).foldl (laneStores s o a ea p).put (storing s fl tlb)) (s.vstore o a ea whole)
      ∧ SameCaches ((activeList a).foldl (laneStores s o a ea p).put (storing s fl tlb)) (s.vstore o a ea whole) := by
  obtain ⟨fl, hfl⟩ : ∃ fl, unionFl a (fun i => (storeCode o (vget (s.vsrc (fun _ => .zero) o.vd) i 0)).2)
    ||| flIf ((o.typ != 0 && o.typ != 8 && o.typ != 9) && (s.vcut o.vd &&& a) != 0) flCutread = fl := ⟨_, rfl⟩
  obtain ⟨tlb, ht⟩ := touchLanes_tlb (s := s.addFlags fl) (ea := ea) (a := .write) (p := p) (l := activeList a)
    fun i hi t hsys => htouch i hi t (hsys.trans (modHart_sys ..))
  refine ⟨fl, tlb, ?_⟩
  have hcode : (fun i => (storeCode o (vget (s.vsrc (fun _ => .zero) o.vd) i 0)).1) = fun i => (storeCode o (laneOf s o.vd i)).1 :=
    funext fun i => by rw [vsrc_reg _ _ hv]
  rw [State.vstore]
  simp only
  rw [lanePlaces_near hck hp, farWork_near, hfl, ht, hcode, putPlaces_near]
  split
  · exact clearWhole_keeps ..
  · exact ⟨.refl _, sameCaches_refl _⟩

theorem mayPass_same {s t : State} (hc : t.onCore = s.onCore) (hsys : t.sys = s.sys) (hl : t.me.late = s.me.late) (ea : Nat) (p : Phys)
    (n : Nat) : t.mayPass ea p n = s.mayPass ea p n := by
  have hpass : t.isPassed ea p n = s.isPassed ea p n := by
    funext e
    rw [State.isPassed, State.isPassed, State.isLate, State.isLate, hsys]
  rw [State.mayPass, State.mayPass, hc, hl, hpass]

theorem elemSize_dvd (typ : Nat) : elemSize typ ∣ 64 := by
  unfold elemSize
  split <;> decide

theorem pairwise_activeList (a : Word) : (activeList a).Pairwise (· < ·) := List.pairwise_lt_range.filter _

/-- What a vector store leaves, byte by byte, as a way to look at bytes tells them. -/
def LanesStored (w : LaneStores) (a : Word) (s t : State) (look : State → Nat → Byte) (k : Nat) : Prop :=
  (look t k = look s k ∨ ∃ j ∈ activeList a, w.Covers j k ∧ look t k = w.byteAt j k)
    ∧ ((∀ j ∈ activeList a, s.mayPass (w.ea j) (w.p j) w.n = false) → ∀ j ∈ activeList a, w.Covers j k →
      (∀ l ∈ activeList a, j < l → ¬w.Covers l k) → look t k = w.byteAt j k)

section
variable {s : State} {o : VFmt} {a : Word} {ea : Nat → Nat} {p : Nat → Phys} {i : Instr} {pc m : Word} {whole : Bool} (h : s.onCore = false)
  (hv : o.vd.toNat < 24) (hi : exec i s = .next ((s.popsDone pc m a []).vstore o a ea whole)) (hck : s.me.checked = [])
  (hp : ∀ j, j < 64 ∧ a.getLsbD j = true → Aligned s (ea j) (elemSize o.typ.toNat)
    ∧ s.check s.req (ea j) (elemSize o.typ.toNat) .write = .ok (p j))
include h hv hi hck hp

/-- A vector store moves on with no register written; its bytes are those of its lanes. -/
theorem vstore_stored {look : State → Nat → Byte} (hlook : ∀ {s t : State}, SameCaches s t → look t = look s)
    (htouch : ∀ j ∈ activeList a, ∀ t : State, t.sys = s.sys → ∃ tlb, t.touch t.req (ea j) .write (p j) = { t with tlb := tlb }) :
    ∃ t, exec i s = .next t ∧ t.pc = s.pc + 8 ∧ (∀ k, t.getG k = s.getG k) ∧ t.me.v = s.me.v
      ∧ ∀ k, (laneStores s o a ea p).Looks look (activeList a) k → LanesStored (laneStores s o a ea p) a s t look k := by
  obtain ⟨u, hu⟩ : ∃ u, s.popsDone pc m a [] = u := ⟨_, rfl⟩
  have hme : u.me = unlatched s.me pc := hu ▸ me_unlatch ..
  have huc : u.onCore = false := hu ▸ h
  have hsys : u.sys = s.sys := hu ▸ rfl
  have hsu : SameCaches s u := hu ▸ ⟨rfl, rfl, rfl, rfl⟩
  obtain ⟨-, -, hug, hupc⟩ := (hu ▸ keeps_unlatch h pc m a : Kept s u ∧ u.mem = s.mem ∧ (∀ n, u.getG n = s.getG n) ∧ u.pc = s.pc)
  have hw : laneStores u o a ea p = laneStores s o a ea p := by
    rw [laneStores, laneStores, ← hu]
    simp only [laneOf_unlatch]
  obtain ⟨fl, tlb, hsame, hcaches⟩ := vstore_near (s := u) (o := o) (a := a) (ea := ea) (p := p) whole hv (by rw [hme]; exact hck)
    (fun j hj => by
      obtain ⟨hal, hc⟩ := hp j (mem_activeList.1 hj)
      exact hu ▸ laneCheck_near hal hc) fun j hj t ht => htouch j hj t (ht.trans hsys)
  rw [hw] at hsame hcaches
  obtain ⟨hx, hxpc, hxg, hxv, hxsys, hxlate, hxc⟩ := storing_keeps huc fl tlb
  generalize storing u fl tlb = x at hsame hcaches hx hxpc hxg hxv hxsys hxlate hxc
  obtain ⟨hpc, hg, hvv⟩ := LaneStores.fold_agents (w := laneStores s o a ea p) (activeList a) x
  refine ⟨u.vstore o a ea whole, hi.trans (by rw [hu]), ?_, fun k => ?_, ?_, fun k hk => ⟨?_, fun hplain j hj hcov hlast => ?_⟩⟩
  · rw [hsame.pc, hpc, hxpc, hupc]
  · rw [hsame.getG, hg, hxg, hug]
  · rw [hsame.me, hvv, hxv, hme]; rfl
  · rw [hlook hcaches, ← hlook (hsu.trans hx)]
    exact LaneStores.fold_some hk x
  · rw [hlook hcaches]
    refine LaneStores.fold_last hk (pairwise_activeList a) (fun l hl => ?_) (fun l hl hr m hm hml k => laneStores_held hr hm hml) hj hcov hlast
    rw [mayPass_same (hxc.trans (huc.trans h.symm)) (hxsys.trans hsys) (hxlate.trans (by rw [hme]; rfl))]
    exact hplain l hl

/-- Where memory holds the bytes: in uncached pages, depots and scratch. -/
theorem vstore_uncached (hmt : ∀ j, j < 64 ∧ a.getLsbD j = true → Uncached (p j)) :
    ∃ t, exec i s = .next t ∧ t.pc = s.pc + 8 ∧ (∀ k, t.getG k = s.getG k) ∧ t.me.v = s.me.v
      ∧ ∀ k, LanesStored (laneStores s o a ea p) a s t (fun t => t.mem.byte) k := by
  obtain ⟨t, ht, hpc, hg, hvv, hst⟩ := vstore_stored h hv hi hck hp (look := fun t => t.mem.byte) (fun hs => congrArg Memory.byte hs.1)
    fun j hj t _ => touch_uncached (hmt j (mem_activeList.1 hj)) t t.req (ea j) .write
  exact ⟨t, ht, hpc, hg, hvv, fun k => hst k fun t j hj => stored_uncached (putOwn_writes ..) (hmt j (mem_activeList.1 hj)) k⟩

/-- In cached pages, as a cached read sees the bytes. -/
theorem vstore_cached (hmt : ∀ j, j < 64 ∧ a.getLsbD j = true → Cached (p j) ∧ (p j).key < 2 ^ 40) (hot : bit s.sys.hotcfg 16 = false) :
    ∃ t, exec i s = .next t ∧ t.pc = s.pc + 8 ∧ (∀ k, t.getG k = s.getG k) ∧ t.me.v = s.me.v
      ∧ ∀ k, k < 2 ^ 40 → LanesStored (laneStores s o a ea p) a s t seenByte k := by
  obtain ⟨t, ht, hpc, hg, hvv, hst⟩ := vstore_stored h hv hi hck hp (look := seenByte) (fun hs => funext (seenByte_congr hs))
    fun j _ t hsys => touch_unsampled t.req .write (p j) fun _ => by rw [hsys]; exact hot
  refine ⟨t, ht, hpc, hg, hvv, fun k hk => hst k fun t j hj => ?_⟩
  have hj := mem_activeList.1 hj
  obtain ⟨hc, hkey⟩ := hmt j hj
  obtain ⟨⟨-, hal⟩, hchk⟩ := hp j hj
  exact stored_cached (putOwn_writes ..) hc hkey (fun b hb => check_line hchk hc (elemSize_dvd _) hal (by rwa [leOf_length] at hb)) hk

end

/-! The bytes of a vector store in the words of R372. -/

theorem LaneStores.byteAt_mod (w : LaneStores) (j k : Nat) : w.byteAt j k = BitVec.ofNat 8 (w.code j / 256 ^ (k - (w.p j).key) % 256) :=
  BitVec.eq_of_toNat_eq (by rw [byteAt, BitVec.toNat_ofNat, BitVec.toNat_ofNat]; exact (Nat.mod_mod ..).symm)

section
variable {w : LaneStores} {a : Word} {s t : State} {look : State → Nat → Byte} {k : Nat} (h : LanesStored w a s t look k)
include h

theorem LanesStored.byte : look t k = look s k ∨ ∃ j, ((j < 64 ∧ a.getLsbD j = true) ∧ w.Covers j k)
    ∧ look t k = BitVec.ofNat 8 (w.code j / 256 ^ (k - (w.p j).key) % 256) := by
  exact h.1.imp_right fun ⟨j, hj, hc, he⟩ => ⟨j, ⟨mem_activeList.1 hj, hc⟩, he.trans (w.byteAt_mod j k)⟩

theorem LanesStored.last (hplain : ∀ j, j < 64 ∧ a.getLsbD j = true → s.mayPass (w.ea j) (w.p j) w.n = false) {j : Nat}
    (hj : (j < 64 ∧ a.getLsbD j = true) ∧ w.Covers j k) (hlast : ∀ l, j < l → ¬((l < 64 ∧ a.getLsbD l = true) ∧ w.Covers l k)) :
    look t k = BitVec.ofNat 8 (w.code j / 256 ^ (k - (w.p j).key) % 256) := by
  exact (h.2 (fun l hl => hplain l (mem_activeList.1 hl)) j (mem_activeList.2 hj.1) hj.2 fun l hl hjl hc =>
    hlast l hjl ⟨mem_activeList.1 hl, hc⟩).trans (w.byteAt_mod j k)

end

/-- Settles O24: the loads read the places of their lanes, the stores write them in ascending lane order. -/
theorem vectorMemoryResults : Obligations.VectorMemoryResults := by
  refine ⟨fun s o a p h hd => vector_loads p h hd, fun s o a p h hv hr => ?_⟩
  intro n base code lane covers byteOf seen r
  have store : ∀ (i : Instr) (whole : Bool) (ea : Nat → Nat),
      exec i s = .next ((s.popsDone s.pc (popMask o a) a []).vstore o a ea whole) → r i ea := by
    intro i whole ea hi hck hp plain
    refine ⟨fun hmt => ?_, fun hmt hot => ?_⟩
    · obtain ⟨t, ht, hpc, hg, hvv, hst⟩ := vstore_uncached h.1 hv hi hck hp hmt
      exact ⟨t, ht, hpc, hg, hvv, fun k => (hst k).byte, fun hplain j k hc hl => (hst k).last hplain hc hl⟩
    · obtain ⟨t, ht, hpc, hg, hvv, hst⟩ := vstore_cached h.1 hv hi hck hp hmt hot
      have hseen : ∀ (x : State) {k : Nat}, k < 2 ^ 40 → seen x k = (seenByte x k).toNat := fun x k hk => rd_seen (.inl rfl) hk
      have hval : ∀ j k, (BitVec.ofNat 8 (byteOf j k)).toNat = byteOf j k := fun j k => Nat.mod_eq_of_lt (Nat.mod_lt _ (by decide))
      refine ⟨t, ht, hpc, hg, hvv, fun k hk => ?_, fun hplain j k hk hc hl => ?_⟩
      · rw [hseen t hk, hseen s hk]
        rcases (hst k hk).byte with he | ⟨j, hc, he⟩
        · exact .inl (congrArg _ he)
        · exact .inr ⟨j, hc, (congrArg _ he).trans (hval j k)⟩
      · rw [hseen t hk]
        exact (congrArg _ ((hst k hk).last hplain hc hl)).trans (hval j k)
  have run := fun (i : Instr) (srcs : List (Nat × BitVec 5)) (eaOf : State → Nat → Nat) (whole : Bool)
      (hi : exec i s = .next (s.vecOp o srcs id [] fun _ a s => s.vstore o a (eaOf s) whole)) hs hr hea =>
    store i whole _ (exec_onLanes (k := fun a ea s => s.vstore o a ea whole) h hi hs hr hea)
  exact ⟨run _ [(4, o.vd)] (State.unitEa · o) true rfl (by simpa using hv) hr (unitEa_unlatch h.1 ..),
    run _ [(4, o.vd)] (State.strideEa · o) false rfl (by simpa using hv) hr (strideEa_unlatch h.1 ..),
    fun hb hrb => run _ [(4, o.vd), (2, o.vb)] (State.indexEa · o) false rfl (by simp [hv, hb]) hrb (indexEa_unlatch h.1 ..)⟩

end Sys2Proof.Laws
